-- ==== Sys2Proof/Word.lean ====
section
/-!
DEFINITION. The word types of the part: 32-bit registers and frame words (R361, R311), bytes.
-/

namespace Sys2Proof

/-- A register or frame word. -/
abbrev Word := BitVec 32

/-- A byte of the Locker, of a flit or of a frame. -/
abbrev Byte := BitVec 8

/-- One of the sixteen axes `A0` to `A15`. -/
abbrev Axis := Fin 16

/-- One of the four quads `Q0` to `Q3`; quad `q` drives axes `4q` to `4q + 3`. -/
abbrev Quad := Fin 4

/-- One of the four legs of an axis: 0 `W1P`, 1 `W1N`, 2 `W2P`, 3 `W2N`. -/
abbrev Leg := Fin 4

end Sys2Proof
end

