-- ==== Sys2Proof/Syntax.lean ====
section
/-!
DEFINITION. The commands of the block: one constructor of `Instr` per row of the spec's operation table, with the row's
operands. Times `t` are instants of the time base counted in 125 ps units from the zero of `LTIME`, the resolution of
edge placement (R5).
-/

namespace Sys2Proof

/-- Where a frame came from: the port `HP`, the port `AUX` in the slave role (R329), or the Captain over `UP` (R357). -/
inductive Port where
  | hp | aux | up
  deriving DecidableEq, Repr

/-- A frame that a port has accepted, as the interpreter sees it (R312): its port, rally count, target device, axis
and tag, its payload words, and the instant of its select release. The opcode is the row itself. -/
structure Req where
  port : Port
  alive : BitVec 4
  dev : BitVec 4
  axis : BitVec 4
  tag : BitVec 7
  words : List Word
  t : Nat
  deriving DecidableEq, Repr

/-- One select window on a port in the slave role (R306, R311): the port, the instants at which the select fell and
rose, the number of rising clock edges, the level of the clock at the fall, and the words shifted in, the last one
padded with zeros. -/
structure Window where
  port : Port
  tFall : Nat
  tRise : Nat
  bits : Nat
  clockHigh : Bool
  words : List Word
  deriving DecidableEq, Repr

/-- A channel with a period timer: a leg set of an axis, or a privileged channel, 0 to 3 `APWMn`, 4 to 7 `BRKq` (R193). -/
inductive Chan where
  | axis (a : Axis)
  | priv (c : Fin 8)
  deriving DecidableEq, Repr

/-- What tells the waiting reads of a port apart (R358, R396): the `ALIVE` and `TAG` of their frames. -/
structure ReadKey where
  alive : BitVec 4
  tag : BitVec 7
  deriving DecidableEq, Repr

/-- A level of an input pin as the pin takes it: the instant of the raw transition that begins it and how long it lasts, in 125 ps
units (R103, R257, R449). A level that lasts a shorter time than the filter of its pin is ignored. -/
structure Level where
  t : Nat
  len : Nat
  deriving DecidableEq, Repr

/-- A level of one of several input pins of a decoder, with the time from its transition to the next accepted edge of another of
them, in 125 ps units (R266, R270). -/
structure Joint where
  t : Nat
  len : Nat
  next : Nat
  deriving DecidableEq, Repr

/-- The level at which an input pin stands, and how long that level lasts from its transition on, in 125 ps units (R103). -/
structure Held where
  high : Bool
  len : Nat
  deriving DecidableEq, Repr

/-- An edge of an input pin: its direction, its instant and how long the level it begins lasts (R257). -/
structure Edge where
  rising : Bool
  t : Nat
  len : Nat
  deriving DecidableEq, Repr

/-- The codes of the up to four conversions that oversampling means into one result (R151). -/
structure Conversions where
  c0 : Int
  c1 : Int
  c2 : Int
  c3 : Int
  deriving DecidableEq, Repr

/-- The levels a comparator shows at the ticks at which its filter samples it (R215, R296), true for active: the first tick is at
instant `t`, each one sample interval after the one before. -/
structure Samples where
  t : Nat
  raw : List Bool
  deriving DecidableEq, Repr

/-- A port of the Cenov link: toward the previous device or toward the next one (R419). -/
inductive Link where
  | up | dn
  deriving DecidableEq, Repr

/-- The content of an MCH flit (R110): the published channel, the master position in 2^-16 units and the stack-time stamp
in ns. -/
structure MchData where
  chan : Fin 4
  pos : Int
  stamp : Nat
  deriving DecidableEq, Repr

/-- One PING exchange (R433): the round trip and the partner's turnaround within it, in 125 ps. -/
structure Ping where
  trip : Nat
  turn : Nat
  deriving DecidableEq, Repr

/-- The broadcast operations of R439: a Whistle schedule at a stack time in ns (R441), a stack reset at level L2 or L3
with the ID of its writer (R442), a gather request with the `LTIME` of the Captain's latest latch (R443). -/
inductive Bcast where
  | whistle (t : Nat)
  | reset (l3 : Bool) (writer : BitVec 4)
  | gather (latch : Nat)
  deriving DecidableEq, Repr

/-- The commands of the block, in the order of the operation table. -/
inductive Instr where
  | frameReceive (w : Window)
  | hpMasterTransfer (w : Window)
  | nop (f : Req)
  | rallySync (f : Req)
  | collect (f : Req)
  | getStatus (f : Req)
  | getRetire (f : Req)
  | mode (f : Req)
  | reset (f : Req)
  | resetBegin
  | axisRearm (f : Req)
  | ident (f : Req)
  | result (f : Req)
  | regRead (f : Req)
  | regWrite (f : Req)
  | regBlockWrite (f : Req)
  | registerWrite (addr : BitVec 24) (typ : BitVec 2) (data : Word)
  | unlockArm (key : BitVec 16)
  | wideLoLatch (a : Axis) (origin : Bool) (data : Word)
  | move (f : Req)
  | jog (f : Req)
  | stop (f : Req)
  | resume (f : Req)
  | posSet (f : Req)
  | source (f : Req)
  | engage (f : Req)
  | exit (f : Req)
  | gearRatio (f : Req)
  | camNext (f : Req)
  | measRead (f : Req)
  | probe (f : Req)
  | lkRead (f : Req)
  | lkWrite (f : Req)
  | lkReadTimeout (port : Port) (key : ReadKey)
  | recipeArm (f : Req)
  | recipeArmTakeUp
  | recipeApply (f : Req)
  | recipeApplyTakeUp
  | recipeWaveCopy (table : Fin 8)
  | traceRead (f : Req)
  | snap (f : Req)
  | whistleAt (f : Req)
  | snapRead (f : Req)
  | stackInfo (f : Req)
  | sessionOpen (f : Req) (mac : Bool)
  | sessionConfirm (f : Req)
  | sessionClose (f : Req)
  | keyInstall (f : Req)
  | lifecycle (f : Req)
  | patchLoad (f : Req)
  | backstopSet (f : Req)
  | auditRead (f : Req)
  | trngRead (f : Req)
  | diagRun (f : Req)
  | auxXfer (f : Req)
  | ticketResult (ticket : BitVec 8) (good : Bool) (svn : BitVec 5)
  | plannerTakeUp (a : Axis) (t : Nat)
  | segmentComputed (t : Nat)
  | segmentCommit (a : Axis) (t : Nat)
  | cutInstant (a : Axis)
  | starvation (a : Axis) (t : Nat)
  | plannerStopRecord (a : Axis) (t : Nat)
  | stillDelayExpire (a : Axis)
  | energiseDone (a : Axis)
  | halfPeriodBoundary (a : Axis)
  | sampleInstant (a : Axis)
  | computationDone (a : Axis) (t : Nat)
  | boostTimeout (a : Axis)
  | updatePoint (a : Axis)
  | periodBoundary (chan : Chan)
  | pwmCommit (chan : Chan)
  | wtSwap (table : Fin 8)
  | wtFill (table : Fin 8)
  | wtRevert (table : Fin 8)
  | wtOpDone (table : Fin 8)
  | axWaveTableWrite (a : Axis) (n : BitVec 3)
  | chopBlankEnd (a : Axis) (w : Fin 2) (x : Samples)
  | chopOff (a : Axis) (w : Fin 2) (x : Samples)
  | chopToffEnd (a : Axis) (w : Fin 2)
  | probeAuto (a : Axis)
  | probePeriod (a : Axis) (di : Int)
  | probeDone (a : Axis) (di : Int)
  | stepEdge (a : Axis) (rising : Bool) (dir : Held) (x : Level)
  | mchSample (c : Fin 4)
  | mchPublish (c : Fin 4)
  | mchStale (c : Fin 4)
  | mchCfgWrite (c : Fin 4) (data : Word)
  | tripActive (n : Fin 4) (t : Nat)
  | tripInactive (n : Fin 4) (t : Nat)
  | ocTrip (a : Axis) (w : Fin 2) (x : Samples)
  | snTrip (a : Axis) (leg : Leg) (hs : Bool) (x : Samples)
  | crossOverlap (a : Axis) (leg : Leg) (t : Nat)
  | escWinClose (a : Axis)
  | bstLow (a : Axis) (leg : Leg) (t : Nat)
  | bstLowRelease (a : Axis) (leg : Leg) (t : Nat)
  | cpUv (q : Quad) (t : Nat)
  | cpGood (q : Quad) (t : Nat)
  | vgsUv (t : Nat)
  | vgsGood (t : Nat)
  | vmOvTrip (q : Quad) (x : Samples)
  | vmOvClear (q : Quad) (x : Samples)
  | vmUvTrip (q : Quad) (x : Samples)
  | vmUvClear (q : Quad) (x : Samples)
  | brakeDecision (q : Quad) (raw : List Bool) (t : Nat)
  | diagStart (q : Quad)
  | diagPhaseEnd (a : Axis) (v0 : Nat) (v1 : Nat) (v2 : Nat) (v3 : Nat)
  | currentAdcResult (a : Axis) (w : Fin 2) (c : Conversions)
  | voltageAdcResult (a : Axis) (code : Nat)
  | ainAdcResult (code : Nat)
  | tempResult (n : Fin 6) (code : Int)
  | ainWmTrip (n : Fin 8) (high : Bool) (x : Samples)
  | wmDwellEnd (n : Fin 12) (c : Fin 3) (x : Samples)
  | quadEdge (a : Axis) (onA : Bool) (onB : Bool) (rising : Bool) (x : Joint)
  | hallTransition (a : Axis) (code : BitVec 3) (x : Joint)
  | wheelEdge (a : Axis) (e : Edge)
  | serRead (a : Axis)
  | serFrameDone (a : Axis) (bits : List Bool) (complete : Bool) (t : Nat)
  | speedWindowEnd (a : Axis)
  | speedTimeout (a : Axis)
  | fbModeWrite (a : Axis) (n : BitVec 3)
  | homeArm (a : Axis)
  | homeCancel (a : Axis)
  | auxTransferStart (t : Nat)
  | auxTransferDone (bits : List Bool) (t : Nat)
  | portRoleWrite (via : Port) (aux : Bool) (role : Bool)
  | lockerArbitrate (bank : Fin 8) (t : Nat)
  | letEnd (bank : Fin 8) (entry : Fin 26)
  | lineReadDone (bank : Fin 8)
  | lineWriteDone (bank : Fin 8) (rb1 : List Byte) (rb2 : List Byte)
  | scrubTick
  | partitionApply
  | deadballWrite (b : Bool)
  | traceAppend
  | linkUp (l : Link) (pings : List Ping)
  | linkDown (l : Link)
  | trainFail (l : Link)
  | flitReceive (l : Link) (bytes : List Byte) (sample : Option MchData) (t : Nat)
  | nakReceive (l : Link) (seq : BitVec 5)
  | timeSend
  | timeReceive (time : List Byte) (mark : Byte) (hops : Byte) (t : Nat)
  | timeLock (t : Nat)
  | pingExchange (x : Ping)
  | enumReceive (id : BitVec 5)
  | enumEndReceive (count : BitVec 5) (ovf : Bool) (conf : Bool)
  | dnPartnerTimeout
  | frameFlitReceive (idx : BitVec 4) (h : Word) (words : List Word) (t : Nat)
  | replyFlitReceive (idx : BitVec 4) (h : Word) (words : List Word)
  | bcastReceive (b : Bcast) (l : Link)
  | barrier
  | barrierReceive (fromUp : Bool) (t : Nat)
  | gather
  | dataReceive (src : BitVec 4) (valid : Bool) (latch : Nat) (words : List Word)
  | stackReset (level : BitVec 2) (key : BitVec 16)
  | captLost (t : Nat)
  | lossTmoExpire
  | scheduledWhistle
  | whslEdge (rising : Bool) (x : Level)
  | whistleDriveEnd
  | whistleHoldoffEnd
  | bkStore
  | bkStoreDone (ok : Bool)
  | stoLow (b : Bool) (t : Nat)
  | stoHigh (b : Bool) (t : Nat)
  | stoDiscTimeout
  | enaRise (a : Axis) (t : Nat)
  | enaFall (a : Axis) (t : Nat)
  | sessionTimeout (port : Port)
  | lockoutEnd (port : Port)
  | trngTestFail
  | trngRecover
  | tamper (detail : Fin 4)
  | refinEdgeTimeout (t : Nat)
  | calibrationInstant (refOk : Bool) (fails : BitVec 144)
  | referenceGood (t : Nat)
  | refinEnWrite (b : Bool)
  | modeTransitDone (t : Nat)
  | sleepEntry (edge : Option Bool)
  | wake (whsl : Bool)
  | pdCtrlWrite (quads : BitVec 4) (lnk : Bool)
  | domainUp (n : Fin 10) (t : Nat)
  | domainLoss (n : Fin 10) (t : Nat)
  | supplyGood (supply : Fin 6)
  | supplyLost (supply : Fin 6)
  | nrstPulse (width : Nat)
  | resetStretchEnd (pinHigh : Bool)
  | nrstRelease
  | watchdogExpire
  | optionLoad (tableOk : Bool) (badKeys : BitVec 16) (badRecs : List Nat)
  | selfCheckDone (rom : Bool) (ram : Bool) (kat : Bool) (trng : Bool)
  | patchVerify (slot : Fin 4) (sigOk : Bool)
  | bootEnd (t : Nat) (elapsed : Nat)
  | interpreterRestart
  | blockResetDone
  | blockResetHung
  | tapReset
  | extest
  | idcode
  | samplePreload (pins : BitVec 273)
  | clamp
  | highz
  | gatetest
  | bypass (op : BitVec 8)
  | privateInstruction (op : BitVec 8)
  | tapUpdateDr (cells : BitVec 273)
  | takeoverEnd (ena : BitVec 16) (t : Nat)
  | gatetestVmCutoff (q : Quad)
  | legEdge (a : Axis) (leg : Leg) (rising : Bool)
  | signatureVerifyDone
  deriving DecidableEq, Repr

end Sys2Proof
end

