-- ==== Sys2Proof/Decode.lean ====
section
/-!
DEFINITION. Commands from table words. The operation table gives no row any bits: a command reaches the part as a frame, a
pin, a flit or an event of its own, so no word spells one.
-/

namespace Sys2Proof

/-- The command that a word spells by the table's bits: none, since the table gives no row bits. -/
def decodeTableWord (_nbits _w : Nat) : Option Instr := none

end Sys2Proof
end

