-- ==== Sys2Proof/Machine/RegTable.lean ====
section
/-!
DEFINITION. The register map of the part: every register the spec's register tables give (R361, R381 to R384 and the
register sections of every chapter), its addresses, its fields with their access codes (R15), reset values and reset
levels (R18) and legal ranges (R12). A field marked `live` has its home in a typed field of `State`; its bits are
merged in when the register is read. Fields the spec marks OPT hold, before the option image is loaded, the safe
default of R534 or R498 (DESIGN CHOICE, assumption log 12).
-/

namespace Sys2Proof.Machine

/-- The access codes of R15; `live` is a read-only field computed from internal state when it is read. -/
inductive Acc where
  | rw | ro | wo | w1c | rc | rwk | live
  deriving DecidableEq, Repr

/-- A bit field of the register at byte address `addr`. -/
structure Fld where
  addr : Nat
  hi : Nat
  lo : Nat
  deriving DecidableEq, Repr

/-- One field of a register table: its bits, access, reset value, the highest reset level that restores it, and the
legal range a write may give it. -/
structure FieldRow where
  hi : Nat
  lo : Nat
  acc : Acc
  reset : Nat
  lvl : Nat
  mn : Nat
  mx : Nat
  deriving DecidableEq, Repr

/-- One name of the register tables. -/
inductive RegId where
  | TB_STATUS | TB_CTRL | LTIME_LO | LTIME_HI | AX_DEADLINE | PLN_CTRL | PLN_STATUS | LAST_COMMITTED_SEQ | PLN_SEGS 
  | PLN_OFFSIDE | PLN_CUT | PLN_EVENTS | AX_VMAX | AX_AMAX | AX_DMAX | AX_JMAX | AX_PLN_CFG | AX_PLN_STAT 
  | AX_REMAIN_LO | AX_REMAIN_HI | AX_TARGET_LO | AX_TARGET_HI | AX_POS_LO | AX_POS_HI | AX_VEL | AX_ACC | MCH_CFG 
  | MCH_LEAD | MCH_POS_LO | MCH_POS_HI | AX_FOLLOW_STAT | AX_STEP_CFG | AX_STEP_VMAX | AX_STEP_LIM | AX_STEP_CNT 
  | AX_STEP_IGN | AX_GEAR_NUM | AX_GEAR_DEN | AX_GEAR_RAMP | AX_CAM_CFG | AX_CAM_TABLE | AX_CAM_ENTRY | AX_CAM_EXIT 
  | AX_CAM_OFFSET_LO | AX_CAM_OFFSET_HI | AX_CAM_ORIGIN_LO | AX_CAM_ORIGIN_HI | AX_CAM_M | AX_CAM_CYCLE | WT_CTRL 
  | WT_STAT | AX_CC_CFG | AX_CC_GAIN | AX_ISCALE | AX_IHOLD | AX_MOTOR | AX_SHUNT | AX_CHOP | AX_CC_STAT | AX_CC_FLAG 
  | AX_IREF | AX_VCMD | AX_WAVE | AX_LA_CFG | AX_LA_THR | AX_LA_LIM | AX_LA_ECO | AX_LA | AX_EMF | AX_LA_STAT 
  | AX_LA_CNT | AX_ENC_SCALE | AX_ENC_CREF_LO | AX_ENC_CREF_HI | AX_ENC_PREF_LO | AX_ENC_PREF_HI | AX_PROBE_CFG 
  | AX_PROBE_SET | AX_PROBE_RES | AX_PWM_STG | AX_PWM_DLY | AX_PWM_CTRL | AX_PWM_ACT | AX_PWM_DLY_ACT | AX_PWM_STAT 
  | AX_PWM_CNT | AX_PWM_GUARD | AX_TRIP_FILT | AX_EDGE_ON | AX_EDGE_OFF | TRIP_CFG | TRIP_STAT | PCH_PER | PCH_ON 
  | PCH_OFF | PCH_CTRL | QD_GD_CFG | QD_VM_THR | QD_VM_UV | QD_GD_STAT | QD_GD_CNT | AX_GD_CFG | AX_SN_CFG 
  | AX_GD_FLT | AX_GD_STAT | AX_DIAG_RES | AX_DIAG_THR | AX_FB_CFG | AX_FB_REV_COUNT | AX_FB_WHEEL | AX_FB_SER 
  | AX_FB_SPD_X | AX_FB_SPD_CFG | AX_FB_CTRL | AX_FB_POS | AX_FB_REV | AX_FB_UNW_LO | AX_FB_UNW_HI | AX_FB_IDX_POS 
  | AX_FB_IDX_CNT | AX_FB_SPEED | AX_FB_STAT | MS_CUR_W1 | MS_CUR_W2 | MS_SN_W1P | MS_SN_W1N | MS_SN_W2P | MS_SN_W2N 
  | MS_VM | MS_VSEQ | MS_OC_CFG | MS_OC_STAT | MS_AIN_CFG | MS_AIN | MS_WM_THR | MS_WM_CFG | MS_WM_STAT | MS_VMWM_CFG 
  | MS_TEMP | MS_TEMP_CFG | MS_TEMP_STAT | HP_CFG | HP_DLY | HP_POLL | HP_STAT | HP_CNT0 | HP_CNT1 | HP_ATTN 
  | AUX_CFG | AUX_STAT | AUX_SEL_CFG | AUX_SEL_DLY | AUX_PSTAT | AUX_PCNT0 | AUX_PCNT1 | CMD_STAT | CMD_LOG 
  | CMD_REFUSE | CMD_TICKET | CMD_ROUTE | SYS_ID | SYS_IDCODE | SYS_UNLOCK | SYS_ACC_STAT | SYS_SCRATCH | LK_CFG 
  | LK_ARB_CTRL | LK_ARB_STAT | LK_WAIT_MAX | LK_PART_REC | LK_PART_CAM | LK_PART_TRC | LK_PART_CTRL | LK_PART_STAT 
  | LK_ECC_CNT | LK_ECC_CNT2 | LK_ERR_ADDR | LK_SCRUB | LK_TRC_CFG | LK_TRC_HEAD | LK_TRC_STAT | LK_RCP_STAT 
  | LK_RCP_VER | LK_GEN | CV_CFG | CV_STAT | CV_TIME | CV_UP_STAT | CV_UP_CNT | CV_DN_STAT | CV_DN_CNT | CV_CTRL 
  | CV_OPS | CV_STK_RST | WH_CFG | WH_DRIVE | WH_AX_SEL | WH_MON_SEL | WH_STAT | WH_CNT | WH_LOST | BK_CFG | BK_OC 
  | BK_VMAX | BK_AMAX | BK_PMIN_LO | BK_PMIN_HI | BK_PMAX_LO | BK_PMAX_HI | BK_STAT | BK_CNT | BK_DEV_STAT 
  | BK_DEV_CTRL | BK_STO_CFG | SEC_STAT | SEC_CFG | SEC_KEYS | SEC_PATCH | SEC_AUDIT | SEC_AUDIT_CNT | SEC_IDPUB 
  | MODE_STAT | MODE_CFG | AX_STATES_LO | AX_STATES_HI | PD_CTRL | PD_STAT | PD_WAKE | AX_STATE | AX_STATE_CFG 
  | AX_STATE_CNT | RST_CAUSE | BOOT_STAT | BLK_RST_STAT | OPT_IMG | OPT_STG1 | OPT_STG2 
  deriving DecidableEq, Repr

/-- A register of the map: `n1` × `n2` copies at `base + i * s1 + j * s2`, the first copy bearing number `first`. -/
structure RegRow where
  id : RegId
  base : Nat
  n1 : Nat
  s1 : Nat
  n2 : Nat
  s2 : Nat
  first : Nat
  fields : List FieldRow
  deriving DecidableEq, Repr

/-- Register tables, part 0: TB_STATUS to AX_POS_HI. -/
def regRows0 : List RegRow := [
  ⟨.TB_STATUS, 0x40, 1, 0, 1, 0, 0, [⟨0, 0, .ro, 1, 2, 0, 1⟩, ⟨1, 1, .w1c, 0, 2, 0, 1⟩, ⟨3, 2, .ro, 0, 2, 0, 3⟩,
    ⟨4, 4, .w1c, 0, 2, 0, 1⟩, ⟨15, 8, .rc, 0, 2, 0, 255⟩]⟩,
  ⟨.TB_CTRL, 0x44, 1, 0, 1, 0, 0, [⟨0, 0, .rw, 1, 2, 0, 1⟩, ⟨1, 1, .rw, 1, 2, 0, 1⟩]⟩,
  ⟨.LTIME_LO, 0x48, 1, 0, 1, 0, 0, [⟨31, 0, .live, 0, 2, 0, 4294967295⟩]⟩,
  ⟨.LTIME_HI, 0x4c, 1, 0, 1, 0, 0, [⟨31, 0, .live, 0, 2, 0, 4294967295⟩]⟩,
  ⟨.AX_DEADLINE, 0x1000f0, 16, 4096, 1, 0, 0, [⟨15, 0, .rc, 0, 2, 0, 65535⟩, ⟨17, 16, .ro, 0, 2, 0, 3⟩,
    ⟨24, 24, .ro, 0, 2, 0, 1⟩]⟩,
  ⟨.PLN_CTRL, 0x20000, 1, 0, 1, 0, 0, [⟨9, 0, .rw, 200, 2, 10, 1000⟩]⟩,
  ⟨.PLN_STATUS, 0x20004, 1, 0, 1, 0, 0, [⟨6, 0, .live, 0, 3, 0, 127⟩, ⟨14, 8, .rc, 0, 3, 0, 127⟩,
    ⟨20, 16, .live, 0, 3, 0, 31⟩]⟩,
  ⟨.LAST_COMMITTED_SEQ, 0x20008, 1, 0, 1, 0, 0, [⟨15, 0, .ro, 0, 2, 0, 65535⟩, ⟨16, 16, .ro, 0, 2, 0, 1⟩]⟩,
  ⟨.PLN_SEGS, 0x20010, 1, 0, 1, 0, 0, [⟨31, 0, .rc, 0, 3, 0, 4294967295⟩]⟩,
  ⟨.PLN_OFFSIDE, 0x20014, 1, 0, 1, 0, 0, [⟨31, 0, .rc, 0, 3, 0, 4294967295⟩]⟩,
  ⟨.PLN_CUT, 0x20018, 1, 0, 1, 0, 0, [⟨31, 0, .rc, 0, 3, 0, 4294967295⟩]⟩,
  ⟨.PLN_EVENTS, 0x2001c, 1, 0, 1, 0, 0, [⟨7, 0, .rc, 0, 3, 0, 255⟩, ⟨15, 8, .rc, 0, 3, 0, 255⟩,
    ⟨23, 16, .rc, 0, 3, 0, 255⟩, ⟨31, 24, .rc, 0, 3, 0, 255⟩]⟩,
  ⟨.AX_VMAX, 0x100100, 16, 4096, 4, 16, 0, [⟨31, 0, .rw, 0, 2, 0, 1310720000⟩]⟩,
  ⟨.AX_AMAX, 0x100104, 16, 4096, 4, 16, 0, [⟨31, 0, .rw, 0, 2, 0, 2147483647⟩]⟩,
  ⟨.AX_DMAX, 0x100108, 16, 4096, 4, 16, 0, [⟨31, 0, .rw, 0, 2, 0, 2147483647⟩]⟩,
  ⟨.AX_JMAX, 0x10010c, 16, 4096, 4, 16, 0, [⟨31, 0, .rw, 0, 2, 0, 4294967295⟩]⟩,
  ⟨.AX_PLN_CFG, 0x100140, 16, 4096, 1, 0, 0, [⟨1, 0, .rw, 0, 2, 0, 2⟩, ⟨3, 2, .rw, 0, 2, 0, 3⟩,
    ⟨15, 4, .rw, 50, 2, 0, 4095⟩, ⟨23, 16, .rw, 20, 2, 0, 255⟩]⟩,
  ⟨.AX_PLN_STAT, 0x100144, 16, 4096, 1, 0, 0, [⟨2, 0, .live, 0, 2, 0, 7⟩, ⟨3, 3, .ro, 0, 2, 0, 1⟩,
    ⟨4, 4, .w1c, 0, 2, 0, 1⟩, ⟨5, 5, .w1c, 0, 2, 0, 1⟩, ⟨6, 6, .w1c, 0, 2, 0, 1⟩, ⟨7, 7, .w1c, 0, 2, 0, 1⟩,
    ⟨12, 8, .live, 0, 2, 0, 31⟩, ⟨20, 16, .live, 0, 3, 0, 31⟩]⟩,
  ⟨.AX_REMAIN_LO, 0x100148, 16, 4096, 1, 0, 0, [⟨31, 0, .live, 0, 2, 0, 4294967295⟩]⟩,
  ⟨.AX_REMAIN_HI, 0x10014c, 16, 4096, 1, 0, 0, [⟨31, 0, .live, 0, 2, 0, 4294967295⟩]⟩,
  ⟨.AX_TARGET_LO, 0x100150, 16, 4096, 1, 0, 0, [⟨31, 0, .live, 0, 2, 0, 4294967295⟩]⟩,
  ⟨.AX_TARGET_HI, 0x100154, 16, 4096, 1, 0, 0, [⟨31, 0, .live, 0, 2, 0, 4294967295⟩]⟩,
  ⟨.AX_POS_LO, 0x100158, 16, 4096, 1, 0, 0, [⟨31, 0, .live, 0, 2, 0, 4294967295⟩]⟩,
  ⟨.AX_POS_HI, 0x10015c, 16, 4096, 1, 0, 0, [⟨31, 0, .live, 0, 2, 0, 4294967295⟩]⟩]

/-- Register tables, part 1: AX_VEL to AX_CAM_M. -/
def regRows1 : List RegRow := [
  ⟨.AX_VEL, 0x100160, 16, 4096, 1, 0, 0, [⟨31, 0, .live, 0, 2, 0, 4294967295⟩]⟩,
  ⟨.AX_ACC, 0x100164, 16, 4096, 1, 0, 0, [⟨31, 0, .live, 0, 2, 0, 4294967295⟩]⟩,
  ⟨.MCH_CFG, 0x100, 4, 16, 1, 0, 0, [⟨1, 0, .rw, 0, 2, 0, 3⟩, ⟨5, 2, .rw, 0, 2, 0, 15⟩, ⟨6, 6, .rw, 0, 2, 0, 1⟩,
    ⟨9, 8, .rw, 0, 2, 0, 3⟩, ⟨13, 10, .rw, 0, 2, 0, 15⟩, ⟨23, 16, .rw, 10, 2, 2, 255⟩, ⟨24, 24, .ro, 0, 2, 0, 1⟩,
    ⟨25, 25, .w1c, 0, 2, 0, 1⟩]⟩,
  ⟨.MCH_LEAD, 0x104, 4, 16, 1, 0, 0, [⟨15, 0, .rw, 0, 2, 0, 65535⟩]⟩,
  ⟨.MCH_POS_LO, 0x108, 4, 16, 1, 0, 0, [⟨31, 0, .live, 0, 2, 0, 4294967295⟩]⟩,
  ⟨.MCH_POS_HI, 0x10c, 4, 16, 1, 0, 0, [⟨31, 0, .live, 0, 2, 0, 4294967295⟩]⟩,
  ⟨.AX_FOLLOW_STAT, 0x100200, 16, 4096, 1, 0, 0, [⟨1, 0, .ro, 0, 2, 0, 3⟩, ⟨4, 2, .ro, 0, 2, 0, 7⟩,
    ⟨6, 5, .ro, 0, 2, 0, 3⟩, ⟨8, 8, .w1c, 0, 2, 0, 1⟩, ⟨11, 9, .ro, 0, 2, 0, 7⟩, ⟨12, 12, .w1c, 0, 2, 0, 1⟩,
    ⟨13, 13, .w1c, 0, 2, 0, 1⟩, ⟨14, 14, .w1c, 0, 2, 0, 1⟩, ⟨15, 15, .w1c, 0, 2, 0, 1⟩, ⟨16, 16, .w1c, 0, 2, 0, 1⟩]⟩,
  ⟨.AX_STEP_CFG, 0x100204, 16, 4096, 1, 0, 0, [⟨7, 0, .rw, 16, 2, 0, 255⟩, ⟨9, 8, .rw, 0, 2, 0, 2⟩,
    ⟨10, 10, .rw, 0, 2, 0, 1⟩, ⟨11, 11, .rw, 1, 2, 0, 1⟩, ⟨12, 12, .rw, 1, 2, 0, 1⟩, ⟨23, 16, .rw, 5, 2, 0, 255⟩]⟩,
  ⟨.AX_STEP_VMAX, 0x100208, 16, 4096, 1, 0, 0, [⟨31, 0, .rw, 1310720000, 2, 1, 1310720000⟩]⟩,
  ⟨.AX_STEP_LIM, 0x10020c, 16, 4096, 1, 0, 0, [⟨15, 0, .rw, 1000, 2, 1, 65535⟩, ⟨31, 16, .rw, 1024, 2, 1, 65535⟩]⟩,
  ⟨.AX_STEP_CNT, 0x100210, 16, 4096, 1, 0, 0, [⟨31, 0, .ro, 0, 2, 0, 4294967295⟩]⟩,
  ⟨.AX_STEP_IGN, 0x100214, 16, 4096, 1, 0, 0, [⟨15, 0, .rc, 0, 2, 0, 65535⟩]⟩,
  ⟨.AX_GEAR_NUM, 0x100218, 16, 4096, 1, 0, 0, [⟨31, 0, .rw, 1, 2, 1, 4294967295⟩]⟩,
  ⟨.AX_GEAR_DEN, 0x10021c, 16, 4096, 1, 0, 0, [⟨31, 0, .rw, 1, 2, 1, 2147483647⟩]⟩,
  ⟨.AX_GEAR_RAMP, 0x100220, 16, 4096, 1, 0, 0, [⟨31, 0, .rw, 0, 2, 0, 4294967295⟩]⟩,
  ⟨.AX_CAM_CFG, 0x100224, 16, 4096, 1, 0, 0, [⟨0, 0, .rw, 0, 2, 0, 1⟩, ⟨15, 8, .rw, 64, 2, 1, 224⟩,
    ⟨31, 16, .rw, 256, 2, 0, 65535⟩]⟩,
  ⟨.AX_CAM_TABLE, 0x100228, 16, 4096, 1, 0, 0, [⟨7, 0, .ro, 0, 2, 0, 255⟩, ⟨15, 8, .ro, 0, 2, 0, 255⟩,
    ⟨16, 16, .ro, 0, 2, 0, 1⟩]⟩,
  ⟨.AX_CAM_ENTRY, 0x10022c, 16, 4096, 1, 0, 0, [⟨31, 0, .rw, 0, 2, 0, 4294967295⟩]⟩,
  ⟨.AX_CAM_EXIT, 0x100230, 16, 4096, 1, 0, 0, [⟨31, 0, .rw, 0, 2, 0, 4294967295⟩]⟩,
  ⟨.AX_CAM_OFFSET_LO, 0x100234, 16, 4096, 1, 0, 0, [⟨31, 0, .rw, 0, 2, 0, 4294967295⟩]⟩,
  ⟨.AX_CAM_OFFSET_HI, 0x100238, 16, 4096, 1, 0, 0, [⟨31, 0, .rw, 0, 2, 0, 4294967295⟩]⟩,
  ⟨.AX_CAM_ORIGIN_LO, 0x10023c, 16, 4096, 1, 0, 0, [⟨31, 0, .rw, 0, 2, 0, 4294967295⟩]⟩,
  ⟨.AX_CAM_ORIGIN_HI, 0x100240, 16, 4096, 1, 0, 0, [⟨31, 0, .rw, 0, 2, 0, 4294967295⟩]⟩,
  ⟨.AX_CAM_M, 0x100244, 16, 4096, 1, 0, 0, [⟨31, 0, .ro, 0, 2, 0, 4294967295⟩]⟩]

/-- Register tables, part 2: AX_CAM_CYCLE to AX_LA_CNT. -/
def regRows2 : List RegRow := [
  ⟨.AX_CAM_CYCLE, 0x100248, 16, 4096, 1, 0, 0, [⟨31, 0, .ro, 0, 2, 0, 4294967295⟩]⟩,
  ⟨.WT_CTRL, 0x208000, 8, 8, 1, 0, 0, [⟨0, 0, .wo, 0, 2, 0, 1⟩, ⟨1, 1, .wo, 0, 2, 0, 1⟩, ⟨2, 2, .wo, 0, 2, 0, 1⟩]⟩,
  ⟨.WT_STAT, 0x208004, 1, 8, 1, 0, 0, [⟨0, 0, .ro, 0, 2, 0, 1⟩, ⟨1, 1, .ro, 0, 2, 0, 1⟩, ⟨2, 2, .w1c, 0, 2, 0, 1⟩,
    ⟨31, 16, .ro, 65535, 2, 0, 65535⟩]⟩,
  ⟨.WT_STAT, 0x20800c, 7, 8, 1, 0, 1, [⟨0, 0, .ro, 0, 2, 0, 1⟩, ⟨1, 1, .ro, 0, 2, 0, 1⟩, ⟨2, 2, .w1c, 0, 2, 0, 1⟩,
    ⟨31, 16, .ro, 0, 2, 0, 65535⟩]⟩,
  ⟨.AX_CC_CFG, 0x100300, 16, 4096, 1, 0, 0, [⟨0, 0, .rw, 0, 2, 0, 1⟩, ⟨2, 1, .rw, 2, 2, 0, 2⟩,
    ⟨3, 3, .rw, 0, 2, 0, 1⟩, ⟨5, 4, .rw, 0, 2, 0, 2⟩, ⟨6, 6, .rw, 1, 2, 0, 1⟩, ⟨7, 7, .rw, 1, 2, 0, 1⟩,
    ⟨8, 8, .rw, 1, 2, 0, 1⟩, ⟨23, 16, .rw, 30, 2, 20, 255⟩]⟩,
  ⟨.AX_CC_GAIN, 0x100304, 16, 4096, 1, 0, 0, [⟨15, 0, .rw, 1000, 2, 0, 65535⟩, ⟨31, 16, .rw, 100, 2, 0, 65535⟩]⟩,
  ⟨.AX_ISCALE, 0x100308, 16, 4096, 1, 0, 0, [⟨11, 0, .rw, 0, 2, 0, 4095⟩, ⟨27, 16, .rw, 0, 2, 0, 4095⟩]⟩,
  ⟨.AX_IHOLD, 0x10030c, 16, 4096, 1, 0, 0, [⟨11, 0, .rw, 0, 2, 0, 4095⟩, ⟨23, 16, .rw, 0, 2, 0, 255⟩]⟩,
  ⟨.AX_MOTOR, 0x100310, 16, 4096, 1, 0, 0, [⟨15, 0, .rw, 1000, 2, 1, 65535⟩, ⟨31, 16, .rw, 1000, 2, 1, 65535⟩]⟩,
  ⟨.AX_SHUNT, 0x100314, 16, 4096, 1, 0, 0, [⟨15, 0, .rw, 500, 2, 1, 65535⟩]⟩,
  ⟨.AX_CHOP, 0x100318, 16, 4096, 1, 0, 0, [⟨7, 0, .rw, 50, 2, 5, 255⟩, ⟨15, 8, .rw, 50, 2, 25, 255⟩,
    ⟨17, 16, .rw, 0, 2, 0, 2⟩, ⟨23, 20, .rw, 3, 2, 1, 15⟩]⟩,
  ⟨.AX_CC_STAT, 0x10031c, 16, 4096, 1, 0, 0, [⟨15, 0, .rc, 0, 2, 0, 65535⟩, ⟨31, 16, .rc, 0, 2, 0, 65535⟩]⟩,
  ⟨.AX_CC_FLAG, 0x100320, 16, 4096, 1, 0, 0, [⟨0, 0, .w1c, 0, 2, 0, 1⟩, ⟨1, 1, .w1c, 0, 2, 0, 1⟩,
    ⟨2, 2, .ro, 0, 2, 0, 1⟩, ⟨3, 3, .ro, 0, 2, 0, 1⟩, ⟨4, 4, .w1c, 0, 2, 0, 1⟩, ⟨6, 5, .ro, 0, 2, 0, 3⟩,
    ⟨27, 16, .ro, 0, 2, 0, 4095⟩]⟩,
  ⟨.AX_IREF, 0x100324, 16, 4096, 1, 0, 0, [⟨15, 0, .ro, 0, 2, 0, 65535⟩, ⟨31, 16, .ro, 0, 2, 0, 65535⟩]⟩,
  ⟨.AX_VCMD, 0x100328, 16, 4096, 1, 0, 0, [⟨15, 0, .ro, 0, 2, 0, 65535⟩, ⟨31, 16, .ro, 0, 2, 0, 65535⟩]⟩,
  ⟨.AX_WAVE, 0x10032c, 16, 4096, 1, 0, 0, [⟨2, 0, .rw, 0, 2, 0, 7⟩, ⟨3, 3, .rw, 0, 2, 0, 1⟩,
    ⟨13, 4, .rw, 0, 2, 0, 1023⟩, ⟨18, 16, .ro, 0, 2, 0, 7⟩, ⟨19, 19, .ro, 0, 2, 0, 1⟩]⟩,
  ⟨.AX_LA_CFG, 0x100400, 16, 4096, 1, 0, 0, [⟨1, 0, .rw, 1, 2, 0, 3⟩, ⟨2, 2, .rw, 0, 2, 0, 1⟩,
    ⟨3, 3, .rw, 0, 2, 0, 1⟩, ⟨4, 4, .rw, 1, 2, 0, 1⟩, ⟨5, 5, .rw, 0, 2, 0, 1⟩, ⟨6, 6, .rw, 0, 2, 0, 1⟩,
    ⟨11, 8, .rw, 2, 2, 1, 15⟩, ⟨15, 12, .rw, 8, 2, 1, 15⟩, ⟨23, 16, .rw, 10, 2, 0, 255⟩,
    ⟨31, 24, .rw, 15, 2, 0, 255⟩]⟩,
  ⟨.AX_LA_THR, 0x100404, 16, 4096, 1, 0, 0, [⟨10, 0, .rw, 850, 2, 300, 1200⟩, ⟨21, 11, .rw, 700, 2, 200, 1199⟩,
    ⟨31, 22, .rw, 600, 2, 100, 1000⟩]⟩,
  ⟨.AX_LA_LIM, 0x100408, 16, 4096, 1, 0, 0, [⟨11, 0, .rw, 300, 2, 10, 4095⟩, ⟨27, 16, .rw, 100, 2, 1, 4095⟩]⟩,
  ⟨.AX_LA_ECO, 0x10040c, 16, 4096, 1, 0, 0, [⟨7, 0, .rw, 16, 2, 1, 255⟩]⟩,
  ⟨.AX_LA, 0x100410, 16, 4096, 1, 0, 0, [⟨15, 0, .ro, 32767, 2, 0, 65535⟩, ⟨31, 16, .ro, 0, 2, 0, 65535⟩]⟩,
  ⟨.AX_EMF, 0x100414, 16, 4096, 1, 0, 0, [⟨15, 0, .ro, 0, 2, 0, 65535⟩, ⟨31, 16, .ro, 0, 2, 0, 65535⟩]⟩,
  ⟨.AX_LA_STAT, 0x100418, 16, 4096, 1, 0, 0, [⟨0, 0, .ro, 0, 2, 0, 1⟩, ⟨1, 1, .w1c, 0, 2, 0, 1⟩,
    ⟨2, 2, .w1c, 0, 2, 0, 1⟩, ⟨3, 3, .ro, 0, 2, 0, 1⟩, ⟨4, 4, .w1c, 0, 2, 0, 1⟩, ⟨5, 5, .w1c, 0, 2, 0, 1⟩,
    ⟨6, 6, .ro, 1, 2, 0, 1⟩, ⟨7, 7, .w1c, 0, 2, 0, 1⟩, ⟨8, 8, .ro, 0, 2, 0, 1⟩, ⟨27, 16, .ro, 0, 2, 0, 4095⟩]⟩,
  ⟨.AX_LA_CNT, 0x10041c, 16, 4096, 1, 0, 0, [⟨15, 0, .rc, 0, 2, 0, 65535⟩, ⟨31, 16, .rc, 0, 2, 0, 65535⟩]⟩]

/-- Register tables, part 3: AX_ENC_SCALE to PCH_ON. -/
def regRows3 : List RegRow := [
  ⟨.AX_ENC_SCALE, 0x100420, 16, 4096, 1, 0, 0, [⟨31, 0, .rw, 65536, 2, 1, 4294967295⟩]⟩,
  ⟨.AX_ENC_CREF_LO, 0x100424, 16, 4096, 1, 0, 0, [⟨31, 0, .ro, 0, 2, 0, 4294967295⟩]⟩,
  ⟨.AX_ENC_CREF_HI, 0x100428, 16, 4096, 1, 0, 0, [⟨31, 0, .ro, 0, 2, 0, 4294967295⟩]⟩,
  ⟨.AX_ENC_PREF_LO, 0x10042c, 16, 4096, 1, 0, 0, [⟨31, 0, .ro, 0, 2, 0, 4294967295⟩]⟩,
  ⟨.AX_ENC_PREF_HI, 0x100430, 16, 4096, 1, 0, 0, [⟨31, 0, .ro, 0, 2, 0, 4294967295⟩]⟩,
  ⟨.AX_PROBE_CFG, 0x100440, 16, 4096, 1, 0, 0, [⟨0, 0, .rw, 0, 2, 0, 1⟩, ⟨15, 8, .rw, 50, 2, 10, 200⟩,
    ⟨23, 16, .rw, 24, 2, 1, 255⟩, ⟨31, 24, .rw, 16, 2, 1, 255⟩]⟩,
  ⟨.AX_PROBE_SET, 0x100444, 16, 4096, 1, 0, 0, [⟨11, 0, .rw, 10, 2, 1, 4095⟩, ⟨25, 16, .rw, 600, 2, 50, 900⟩,
    ⟨26, 26, .ro, 0, 2, 0, 1⟩]⟩,
  ⟨.AX_PROBE_RES, 0x100448, 16, 4096, 1, 0, 0, [⟨15, 0, .ro, 32767, 2, 0, 65535⟩, ⟨27, 16, .ro, 0, 2, 0, 4095⟩,
    ⟨28, 28, .w1c, 0, 2, 0, 1⟩, ⟨29, 29, .w1c, 0, 2, 0, 1⟩, ⟨30, 30, .w1c, 0, 2, 0, 1⟩, ⟨31, 31, .w1c, 0, 2, 0, 1⟩]⟩,
  ⟨.AX_PWM_STG, 0x100500, 16, 4096, 1, 0, 0, [⟨19, 0, .rw, 200000, 2, 32000, 500000⟩, ⟨20, 20, .rw, 0, 2, 0, 1⟩,
    ⟨27, 24, .rw, 0, 2, 0, 15⟩, ⟨28, 28, .rw, 0, 2, 0, 1⟩]⟩,
  ⟨.AX_PWM_DLY, 0x100504, 16, 4096, 1, 0, 0, [⟨13, 0, .rw, 0, 2, 0, 16000⟩, ⟨29, 16, .rw, 0, 2, 0, 16000⟩]⟩,
  ⟨.AX_PWM_CTRL, 0x100508, 16, 4096, 1, 0, 0, [⟨0, 0, .wo, 0, 2, 0, 1⟩]⟩,
  ⟨.AX_PWM_ACT, 0x10050c, 16, 4096, 1, 0, 0, [⟨28, 0, .ro, 200000, 2, 0, 536870911⟩, ⟨29, 29, .ro, 0, 2, 0, 1⟩]⟩,
  ⟨.AX_PWM_DLY_ACT, 0x100510, 16, 4096, 1, 0, 0, [⟨31, 0, .ro, 0, 2, 0, 4294967295⟩]⟩,
  ⟨.AX_PWM_STAT, 0x100514, 16, 4096, 1, 0, 0, [⟨0, 0, .w1c, 0, 2, 0, 1⟩, ⟨1, 1, .w1c, 0, 2, 0, 1⟩,
    ⟨2, 2, .ro, 0, 2, 0, 1⟩, ⟨3, 3, .ro, 0, 2, 0, 1⟩]⟩,
  ⟨.AX_PWM_CNT, 0x100518, 16, 4096, 1, 0, 0, [⟨15, 0, .rc, 0, 2, 0, 65535⟩, ⟨31, 16, .rc, 0, 2, 0, 65535⟩]⟩,
  ⟨.AX_PWM_GUARD, 0x10051c, 16, 4096, 1, 0, 0, [⟨15, 0, .rc, 0, 2, 0, 65535⟩]⟩,
  ⟨.AX_TRIP_FILT, 0x100520, 16, 4096, 1, 0, 0, [⟨9, 0, .rw, 20, 2, 1, 1023⟩, ⟨25, 16, .rw, 20, 2, 1, 1023⟩]⟩,
  ⟨.AX_EDGE_ON, 0x100530, 16, 4096, 4, 8, 0, [⟨19, 0, .ro, 0, 2, 0, 1048575⟩, ⟨21, 20, .ro, 3, 2, 0, 3⟩]⟩,
  ⟨.AX_EDGE_OFF, 0x100534, 16, 4096, 4, 8, 0, [⟨19, 0, .ro, 0, 2, 0, 1048575⟩]⟩,
  ⟨.TRIP_CFG, 0x200, 4, 4, 1, 0, 0, [⟨9, 0, .rwk, 10, 2, 1, 1023⟩, ⟨10, 10, .rwk, 0, 2, 0, 1⟩,
    ⟨11, 11, .rwk, 0, 2, 0, 1⟩, ⟨12, 12, .rwk, 0, 2, 0, 1⟩, ⟨13, 13, .rwk, 1, 2, 0, 1⟩,
    ⟨31, 16, .rwk, 0, 2, 0, 65535⟩]⟩,
  ⟨.TRIP_STAT, 0x210, 1, 0, 1, 0, 0, [⟨3, 0, .ro, 0, 2, 0, 15⟩, ⟨7, 4, .w1c, 0, 2, 0, 15⟩]⟩,
  ⟨.PCH_PER, 0x240, 4, 16, 1, 0, 0, [⟨19, 0, .rw, 200000, 2, 32000, 500000⟩]⟩,
  ⟨.PCH_PER, 0x280, 4, 16, 1, 0, 4, [⟨19, 0, .rwk, 200000, 2, 32000, 500000⟩]⟩,
  ⟨.PCH_ON, 0x244, 4, 16, 1, 0, 0, [⟨19, 0, .rw, 0, 2, 0, 500000⟩]⟩]

/-- Register tables, part 4: PCH_ON to AX_FB_POS. -/
def regRows4 : List RegRow := [
  ⟨.PCH_ON, 0x284, 4, 16, 1, 0, 4, [⟨19, 0, .rwk, 0, 2, 0, 500000⟩]⟩,
  ⟨.PCH_OFF, 0x248, 4, 16, 1, 0, 0, [⟨19, 0, .rw, 0, 2, 0, 500000⟩]⟩,
  ⟨.PCH_OFF, 0x288, 4, 16, 1, 0, 4, [⟨19, 0, .rwk, 0, 2, 0, 500000⟩]⟩,
  ⟨.PCH_CTRL, 0x24c, 4, 16, 1, 0, 0, [⟨0, 0, .wo, 0, 2, 0, 1⟩, ⟨1, 1, .rw, 0, 2, 0, 1⟩, ⟨2, 2, .rw, 0, 2, 0, 1⟩,
    ⟨3, 3, .ro, 0, 2, 0, 1⟩, ⟨4, 4, .w1c, 0, 2, 0, 1⟩, ⟨5, 5, .ro, 0, 2, 0, 1⟩]⟩,
  ⟨.PCH_CTRL, 0x28c, 4, 16, 1, 0, 4, [⟨0, 0, .wo, 0, 2, 0, 1⟩, ⟨1, 1, .rwk, 0, 2, 0, 1⟩, ⟨2, 2, .rwk, 0, 2, 0, 1⟩,
    ⟨3, 3, .ro, 0, 2, 0, 1⟩, ⟨4, 4, .w1c, 0, 2, 0, 1⟩, ⟨5, 5, .ro, 0, 2, 0, 1⟩]⟩,
  ⟨.QD_GD_CFG, 0x300, 4, 32, 1, 0, 0, [⟨0, 0, .rwk, 0, 2, 0, 1⟩, ⟨7, 1, .rwk, 8, 2, 1, 64⟩, ⟨8, 8, .rwk, 1, 2, 0, 1⟩]⟩,
  ⟨.QD_VM_THR, 0x304, 4, 32, 1, 0, 0, [⟨9, 0, .rwk, 880, 2, 0, 950⟩, ⟨19, 10, .rwk, 840, 2, 0, 1023⟩,
    ⟨29, 20, .rwk, 820, 2, 0, 1023⟩]⟩,
  ⟨.QD_VM_UV, 0x308, 4, 32, 1, 0, 0, [⟨9, 0, .rwk, 80, 2, 0, 1023⟩, ⟨19, 10, .rwk, 85, 2, 0, 1023⟩]⟩,
  ⟨.QD_GD_STAT, 0x30c, 4, 32, 1, 0, 0, [⟨0, 0, .ro, 0, 2, 0, 1⟩, ⟨1, 1, .ro, 0, 2, 0, 1⟩, ⟨2, 2, .w1c, 0, 2, 0, 1⟩,
    ⟨3, 3, .ro, 0, 2, 0, 1⟩, ⟨4, 4, .ro, 0, 2, 0, 1⟩, ⟨5, 5, .w1c, 0, 2, 0, 1⟩, ⟨6, 6, .ro, 0, 2, 0, 1⟩,
    ⟨7, 7, .w1c, 0, 2, 0, 1⟩, ⟨8, 8, .ro, 1, 2, 0, 1⟩, ⟨9, 9, .live, 0, 2, 0, 1⟩]⟩,
  ⟨.QD_GD_CNT, 0x310, 4, 32, 1, 0, 0, [⟨15, 0, .rc, 0, 2, 0, 65535⟩, ⟨31, 16, .rc, 0, 2, 0, 65535⟩]⟩,
  ⟨.AX_GD_CFG, 0x100600, 16, 4096, 1, 0, 0, [⟨0, 0, .rw, 1, 2, 0, 1⟩, ⟨1, 1, .rw, 1, 2, 0, 1⟩,
    ⟨2, 2, .rw, 1, 2, 0, 1⟩, ⟨15, 8, .rw, 100, 2, 1, 255⟩]⟩,
  ⟨.AX_SN_CFG, 0x100604, 16, 4096, 1, 0, 0, [⟨9, 0, .rw, 200, 2, 20, 1023⟩, ⟨23, 16, .rw, 50, 2, 10, 255⟩]⟩,
  ⟨.AX_GD_FLT, 0x100608, 16, 4096, 1, 0, 0, [⟨0, 0, .ro, 0, 2, 0, 1⟩, ⟨1, 1, .ro, 0, 2, 0, 1⟩,
    ⟨2, 2, .ro, 0, 2, 0, 1⟩, ⟨3, 3, .ro, 0, 2, 0, 1⟩, ⟨4, 4, .ro, 0, 2, 0, 1⟩, ⟨5, 5, .ro, 0, 2, 0, 1⟩,
    ⟨6, 6, .ro, 0, 2, 0, 1⟩, ⟨7, 7, .ro, 0, 2, 0, 1⟩, ⟨8, 8, .ro, 0, 2, 0, 1⟩, ⟨9, 9, .ro, 0, 2, 0, 1⟩,
    ⟨10, 10, .ro, 0, 2, 0, 1⟩, ⟨23, 16, .ro, 0, 2, 0, 255⟩, ⟨27, 24, .ro, 0, 2, 0, 15⟩]⟩,
  ⟨.AX_GD_STAT, 0x10060c, 16, 4096, 1, 0, 0, [⟨7, 0, .rc, 0, 2, 0, 255⟩, ⟨15, 8, .rc, 0, 2, 0, 255⟩,
    ⟨19, 16, .ro, 0, 2, 0, 15⟩, ⟨20, 20, .ro, 0, 2, 0, 1⟩, ⟨21, 21, .w1c, 0, 2, 0, 1⟩]⟩,
  ⟨.AX_DIAG_RES, 0x100610, 16, 4096, 1, 0, 0, [⟨5, 0, .ro, 0, 2, 0, 63⟩, ⟨13, 8, .ro, 0, 2, 0, 63⟩,
    ⟨16, 16, .ro, 0, 2, 0, 1⟩]⟩,
  ⟨.AX_DIAG_THR, 0x100614, 16, 4096, 1, 0, 0, [⟨9, 0, .rw, 100, 2, 10, 299⟩, ⟨25, 16, .rw, 200, 2, 11, 300⟩]⟩,
  ⟨.AX_FB_CFG, 0x100700, 16, 4096, 1, 0, 0, [⟨2, 0, .rw, 0, 2, 0, 4⟩, ⟨3, 3, .rw, 0, 2, 0, 1⟩,
    ⟨5, 4, .rw, 0, 2, 0, 2⟩, ⟨6, 6, .rw, 0, 2, 0, 1⟩, ⟨15, 8, .rw, 2, 2, 0, 255⟩, ⟨31, 16, .rw, 0, 2, 0, 65535⟩]⟩,
  ⟨.AX_FB_REV_COUNT, 0x100704, 16, 4096, 1, 0, 0, [⟨31, 0, .rw, 0, 2, 0, 4294967295⟩]⟩,
  ⟨.AX_FB_WHEEL, 0x100708, 16, 4096, 1, 0, 0, [⟨11, 0, .rw, 60, 2, 8, 4095⟩, ⟨13, 12, .rw, 2, 2, 0, 3⟩,
    ⟨21, 16, .rw, 16, 2, 12, 40⟩]⟩,
  ⟨.AX_FB_SER, 0x10070c, 16, 4096, 1, 0, 0, [⟨1, 0, .rw, 0, 2, 0, 3⟩, ⟨8, 2, .rw, 32, 2, 16, 64⟩,
    ⟨14, 9, .rw, 16, 2, 8, 32⟩, ⟨16, 15, .rw, 1, 2, 0, 2⟩, ⟨26, 17, .rw, 50, 2, 5, 1000⟩]⟩,
  ⟨.AX_FB_SPD_X, 0x100710, 16, 4096, 1, 0, 0, [⟨25, 0, .rw, 200000, 2, 1000, 40000000⟩]⟩,
  ⟨.AX_FB_SPD_CFG, 0x100714, 16, 4096, 1, 0, 0, [⟨7, 0, .rw, 10, 2, 1, 255⟩, ⟨15, 8, .rw, 100, 2, 1, 255⟩]⟩,
  ⟨.AX_FB_CTRL, 0x100718, 16, 4096, 1, 0, 0, [⟨0, 0, .wo, 0, 2, 0, 1⟩, ⟨1, 1, .wo, 0, 2, 0, 1⟩]⟩,
  ⟨.AX_FB_POS, 0x100720, 16, 4096, 1, 0, 0, [⟨31, 0, .ro, 0, 2, 0, 4294967295⟩]⟩]

/-- Register tables, part 5: AX_FB_REV to MS_TEMP. -/
def regRows5 : List RegRow := [
  ⟨.AX_FB_REV, 0x100724, 16, 4096, 1, 0, 0, [⟨15, 0, .ro, 0, 2, 0, 65535⟩]⟩,
  ⟨.AX_FB_UNW_LO, 0x100728, 16, 4096, 1, 0, 0, [⟨31, 0, .live, 0, 2, 0, 4294967295⟩]⟩,
  ⟨.AX_FB_UNW_HI, 0x10072c, 16, 4096, 1, 0, 0, [⟨31, 0, .live, 0, 2, 0, 4294967295⟩]⟩,
  ⟨.AX_FB_IDX_POS, 0x100730, 16, 4096, 1, 0, 0, [⟨31, 0, .ro, 0, 2, 0, 4294967295⟩]⟩,
  ⟨.AX_FB_IDX_CNT, 0x100734, 16, 4096, 1, 0, 0, [⟨31, 0, .ro, 0, 2, 0, 4294967295⟩]⟩,
  ⟨.AX_FB_SPEED, 0x100738, 16, 4096, 1, 0, 0, [⟨31, 0, .live, 0, 2, 0, 4294967295⟩]⟩,
  ⟨.AX_FB_STAT, 0x10073c, 16, 4096, 1, 0, 0, [⟨0, 0, .live, 0, 2, 0, 1⟩, ⟨1, 1, .w1c, 0, 2, 0, 1⟩,
    ⟨2, 2, .w1c, 0, 2, 0, 1⟩, ⟨3, 3, .w1c, 0, 2, 0, 1⟩, ⟨4, 4, .w1c, 0, 2, 0, 1⟩, ⟨5, 5, .w1c, 0, 2, 0, 1⟩,
    ⟨6, 6, .ro, 0, 2, 0, 1⟩, ⟨7, 7, .w1c, 0, 2, 0, 1⟩, ⟨8, 8, .w1c, 0, 2, 0, 1⟩, ⟨9, 9, .ro, 0, 2, 0, 1⟩,
    ⟨10, 10, .w1c, 0, 2, 0, 1⟩, ⟨11, 11, .ro, 0, 2, 0, 1⟩, ⟨12, 12, .w1c, 0, 2, 0, 1⟩, ⟨13, 13, .ro, 0, 2, 0, 1⟩,
    ⟨14, 14, .w1c, 0, 2, 0, 1⟩, ⟨15, 15, .ro, 0, 2, 0, 1⟩, ⟨16, 16, .w1c, 0, 2, 0, 1⟩, ⟨17, 17, .ro, 0, 2, 0, 1⟩,
    ⟨18, 18, .ro, 0, 2, 0, 1⟩]⟩,
  ⟨.MS_CUR_W1, 0x300000, 16, 256, 1, 0, 0, [⟨15, 0, .ro, 0, 2, 0, 65535⟩, ⟨19, 16, .ro, 0, 2, 0, 15⟩,
    ⟨20, 20, .rc, 0, 2, 0, 1⟩, ⟨21, 21, .ro, 0, 2, 0, 1⟩]⟩,
  ⟨.MS_CUR_W2, 0x300004, 16, 256, 1, 0, 0, [⟨15, 0, .ro, 0, 2, 0, 65535⟩, ⟨19, 16, .ro, 0, 2, 0, 15⟩,
    ⟨20, 20, .rc, 0, 2, 0, 1⟩, ⟨21, 21, .ro, 0, 2, 0, 1⟩]⟩,
  ⟨.MS_SN_W1P, 0x300008, 16, 256, 1, 0, 0, [⟨13, 0, .ro, 0, 2, 0, 16383⟩, ⟨19, 16, .ro, 0, 2, 0, 15⟩,
    ⟨20, 20, .rc, 0, 2, 0, 1⟩]⟩,
  ⟨.MS_SN_W1N, 0x30000c, 16, 256, 1, 0, 0, [⟨13, 0, .ro, 0, 2, 0, 16383⟩, ⟨19, 16, .ro, 0, 2, 0, 15⟩,
    ⟨20, 20, .rc, 0, 2, 0, 1⟩]⟩,
  ⟨.MS_SN_W2P, 0x300010, 16, 256, 1, 0, 0, [⟨13, 0, .ro, 0, 2, 0, 16383⟩, ⟨19, 16, .ro, 0, 2, 0, 15⟩,
    ⟨20, 20, .rc, 0, 2, 0, 1⟩]⟩,
  ⟨.MS_SN_W2N, 0x300014, 16, 256, 1, 0, 0, [⟨13, 0, .ro, 0, 2, 0, 16383⟩, ⟨19, 16, .ro, 0, 2, 0, 15⟩,
    ⟨20, 20, .rc, 0, 2, 0, 1⟩]⟩,
  ⟨.MS_VM, 0x300018, 16, 256, 1, 0, 0, [⟨13, 0, .ro, 0, 2, 0, 16383⟩, ⟨19, 16, .ro, 0, 2, 0, 15⟩,
    ⟨20, 20, .rc, 0, 2, 0, 1⟩]⟩,
  ⟨.MS_VSEQ, 0x30001c, 16, 256, 1, 0, 0, [⟨3, 0, .rw, 15, 2, 0, 15⟩]⟩,
  ⟨.MS_OC_CFG, 0x300020, 16, 256, 1, 0, 0, [⟨0, 0, .rw, 0, 2, 0, 1⟩, ⟨2, 1, .rw, 0, 2, 0, 3⟩,
    ⟨6, 3, .rw, 2, 2, 0, 15⟩, ⟨15, 8, .rw, 4, 2, 1, 128⟩]⟩,
  ⟨.MS_OC_STAT, 0x300024, 16, 256, 1, 0, 0, [⟨9, 0, .ro, 0, 2, 0, 1023⟩, ⟨10, 10, .ro, 0, 2, 0, 1⟩,
    ⟨25, 16, .ro, 0, 2, 0, 1023⟩, ⟨26, 26, .ro, 0, 2, 0, 1⟩]⟩,
  ⟨.MS_AIN_CFG, 0x301000, 1, 0, 1, 0, 0, [⟨7, 0, .rw, 0, 2, 0, 255⟩]⟩,
  ⟨.MS_AIN, 0x301010, 8, 4, 1, 0, 0, [⟨15, 0, .ro, 0, 2, 0, 65535⟩, ⟨19, 16, .ro, 0, 2, 0, 15⟩,
    ⟨20, 20, .rc, 0, 2, 0, 1⟩]⟩,
  ⟨.MS_WM_THR, 0x301100, 8, 16, 1, 0, 0, [⟨9, 0, .rw, 0, 2, 0, 1023⟩, ⟨25, 16, .rw, 1023, 2, 0, 1023⟩]⟩,
  ⟨.MS_WM_CFG, 0x301104, 8, 16, 1, 0, 0, [⟨0, 0, .rw, 0, 2, 0, 1⟩, ⟨2, 1, .rw, 0, 2, 0, 3⟩, ⟨6, 3, .rw, 2, 2, 0, 15⟩,
    ⟨15, 8, .rw, 4, 2, 1, 128⟩, ⟨21, 16, .rw, 4, 2, 0, 63⟩, ⟨24, 24, .rw, 0, 2, 0, 1⟩]⟩,
  ⟨.MS_WM_STAT, 0x301108, 8, 16, 1, 0, 0, [⟨0, 0, .ro, 0, 2, 0, 1⟩, ⟨1, 1, .ro, 0, 2, 0, 1⟩, ⟨2, 2, .ro, 1, 2, 0, 1⟩,
    ⟨3, 3, .w1c, 0, 2, 0, 1⟩, ⟨4, 4, .w1c, 0, 2, 0, 1⟩]⟩,
  ⟨.MS_VMWM_CFG, 0x301200, 4, 4, 1, 0, 0, [⟨0, 0, .rwk, 1, 2, 0, 1⟩, ⟨2, 1, .rwk, 1, 2, 0, 3⟩,
    ⟨6, 3, .rwk, 3, 2, 0, 15⟩, ⟨15, 8, .rwk, 100, 2, 1, 128⟩]⟩,
  ⟨.MS_TEMP, 0x301300, 6, 4, 1, 0, 0, [⟨15, 0, .ro, 0, 2, 0, 65535⟩, ⟨19, 16, .ro, 0, 2, 0, 15⟩,
    ⟨20, 20, .rc, 0, 2, 0, 1⟩]⟩]

/-- Register tables, part 6: MS_TEMP_CFG to SYS_UNLOCK. -/
def regRows6 : List RegRow := [
  ⟨.MS_TEMP_CFG, 0x301320, 1, 0, 1, 0, 0, [⟨7, 0, .rw, 115, 2, 0, 150⟩]⟩,
  ⟨.MS_TEMP_STAT, 0x301324, 1, 0, 1, 0, 0, [⟨5, 0, .ro, 0, 2, 0, 63⟩, ⟨13, 8, .w1c, 0, 2, 0, 63⟩]⟩,
  ⟨.HP_CFG, 0x10000, 1, 0, 1, 0, 0, [⟨0, 0, .rwk, 0, 2, 0, 1⟩, ⟨1, 1, .rw, 0, 2, 0, 1⟩, ⟨2, 2, .rw, 0, 2, 0, 1⟩,
    ⟨15, 8, .rw, 2, 2, 2, 255⟩]⟩,
  ⟨.HP_DLY, 0x10004, 1, 0, 1, 0, 0, [⟨9, 0, .rw, 5, 2, 1, 1023⟩, ⟨19, 10, .rw, 5, 2, 1, 1023⟩,
    ⟨29, 20, .rw, 10, 2, 1, 1023⟩]⟩,
  ⟨.HP_POLL, 0x10008, 1, 0, 1, 0, 0, [⟨15, 0, .rw, 10, 2, 0, 65535⟩]⟩,
  ⟨.HP_STAT, 0x1000c, 1, 0, 1, 0, 0, [⟨3, 0, .ro, 0, 2, 0, 15⟩, ⟨4, 4, .ro, 0, 2, 0, 1⟩, ⟨5, 5, .ro, 0, 2, 0, 1⟩]⟩,
  ⟨.HP_CNT0, 0x10010, 1, 0, 1, 0, 0, [⟨15, 0, .rc, 0, 2, 0, 65535⟩, ⟨31, 16, .rc, 0, 2, 0, 65535⟩]⟩,
  ⟨.HP_CNT1, 0x10014, 1, 0, 1, 0, 0, [⟨7, 0, .rc, 0, 2, 0, 255⟩, ⟨15, 8, .rc, 0, 2, 0, 255⟩,
    ⟨23, 16, .rc, 0, 2, 0, 255⟩, ⟨31, 24, .rc, 0, 2, 0, 255⟩]⟩,
  ⟨.HP_ATTN, 0x10018, 1, 0, 1, 0, 0, [⟨0, 0, .live, 0, 2, 0, 1⟩, ⟨1, 1, .live, 0, 2, 0, 1⟩,
    ⟨2, 2, .live, 0, 2, 0, 1⟩, ⟨3, 3, .live, 0, 2, 0, 1⟩, ⟨4, 4, .live, 0, 2, 0, 1⟩]⟩,
  ⟨.AUX_CFG, 0x10100, 1, 0, 1, 0, 0, [⟨0, 0, .rwk, 0, 2, 0, 1⟩]⟩,
  ⟨.AUX_STAT, 0x10104, 1, 0, 1, 0, 0, [⟨2, 0, .live, 0, 2, 0, 7⟩, ⟨3, 3, .live, 0, 2, 0, 1⟩, ⟨5, 4, .ro, 0, 2, 0, 3⟩,
    ⟨6, 6, .w1c, 0, 2, 0, 1⟩]⟩,
  ⟨.AUX_SEL_CFG, 0x10110, 4, 8, 1, 0, 0, [⟨0, 0, .rw, 0, 2, 0, 1⟩, ⟨1, 1, .rw, 0, 2, 0, 1⟩,
    ⟨15, 8, .rw, 10, 2, 2, 255⟩]⟩,
  ⟨.AUX_SEL_DLY, 0x10114, 4, 8, 1, 0, 0, [⟨9, 0, .rw, 5, 2, 1, 1023⟩, ⟨19, 10, .rw, 5, 2, 1, 1023⟩,
    ⟨29, 20, .rw, 10, 2, 1, 1023⟩]⟩,
  ⟨.AUX_PSTAT, 0x10140, 1, 0, 1, 0, 0, [⟨3, 0, .ro, 0, 2, 0, 15⟩, ⟨4, 4, .ro, 0, 2, 0, 1⟩, ⟨5, 5, .ro, 0, 2, 0, 1⟩]⟩,
  ⟨.AUX_PCNT0, 0x10144, 1, 0, 1, 0, 0, [⟨15, 0, .rc, 0, 2, 0, 65535⟩, ⟨31, 16, .rc, 0, 2, 0, 65535⟩]⟩,
  ⟨.AUX_PCNT1, 0x10148, 1, 0, 1, 0, 0, [⟨7, 0, .rc, 0, 2, 0, 255⟩, ⟨15, 8, .rc, 0, 2, 0, 255⟩,
    ⟨23, 16, .rc, 0, 2, 0, 255⟩, ⟨31, 24, .rc, 0, 2, 0, 255⟩]⟩,
  ⟨.CMD_STAT, 0x400, 1, 0, 1, 0, 0, [⟨15, 0, .ro, 1, 2, 0, 65535⟩, ⟨16, 16, .ro, 0, 2, 0, 1⟩,
    ⟨31, 24, .rc, 0, 2, 0, 255⟩]⟩,
  ⟨.CMD_LOG, 0x404, 1, 0, 1, 0, 0, [⟨15, 0, .live, 0, 2, 0, 65535⟩, ⟨22, 16, .live, 0, 2, 0, 127⟩]⟩,
  ⟨.CMD_REFUSE, 0x408, 1, 0, 1, 0, 0, [⟨15, 0, .rc, 0, 2, 0, 65535⟩, ⟨23, 16, .ro, 0, 2, 0, 255⟩]⟩,
  ⟨.CMD_TICKET, 0x40c, 1, 0, 1, 0, 0, [⟨7, 0, .ro, 0, 2, 0, 255⟩, ⟨11, 8, .live, 0, 2, 0, 15⟩]⟩,
  ⟨.CMD_ROUTE, 0x410, 1, 0, 1, 0, 0, [⟨15, 0, .rc, 0, 2, 0, 65535⟩, ⟨23, 16, .rc, 0, 2, 0, 255⟩,
    ⟨28, 24, .live, 0, 2, 0, 31⟩]⟩,
  ⟨.SYS_ID, 0x0, 1, 0, 1, 0, 0, [⟨15, 0, .ro, 5760, 1, 0, 65535⟩, ⟨23, 16, .ro, 1, 1, 0, 255⟩]⟩,
  ⟨.SYS_IDCODE, 0x4, 1, 0, 1, 0, 0, [⟨31, 0, .ro, 292031067, 1, 0, 4294967295⟩]⟩,
  ⟨.SYS_UNLOCK, 0x8, 1, 0, 1, 0, 0, [⟨15, 0, .wo, 0, 2, 0, 65535⟩]⟩]

/-- Register tables, part 7: SYS_ACC_STAT to CV_TIME. -/
def regRows7 : List RegRow := [
  ⟨.SYS_ACC_STAT, 0xc, 1, 0, 1, 0, 0, [⟨0, 0, .w1c, 0, 2, 0, 1⟩, ⟨1, 1, .w1c, 0, 2, 0, 1⟩, ⟨2, 2, .w1c, 0, 2, 0, 1⟩,
    ⟨3, 3, .w1c, 0, 2, 0, 1⟩, ⟨23, 16, .rc, 0, 2, 0, 255⟩]⟩,
  ⟨.SYS_SCRATCH, 0x10, 1, 0, 1, 0, 0, [⟨31, 0, .rw, 0, 2, 0, 4294967295⟩]⟩,
  ⟨.LK_CFG, 0x380000, 1, 0, 1, 0, 0, [⟨0, 0, .rwk, 1, 2, 0, 1⟩, ⟨7, 4, .rwk, 4, 2, 1, 15⟩,
    ⟨15, 8, .rwk, 16, 2, 2, 64⟩, ⟨16, 16, .rw, 1, 2, 0, 1⟩, ⟨31, 24, .rw, 40, 2, 1, 255⟩]⟩,
  ⟨.LK_ARB_CTRL, 0x380004, 1, 0, 1, 0, 0, [⟨0, 0, .rw, 0, 2, 0, 1⟩]⟩,
  ⟨.LK_ARB_STAT, 0x380008, 1, 0, 1, 0, 0, [⟨0, 0, .live, 0, 2, 0, 1⟩, ⟨15, 8, .live, 0, 2, 0, 255⟩,
    ⟨31, 16, .rc, 0, 2, 0, 65535⟩]⟩,
  ⟨.LK_WAIT_MAX, 0x380020, 8, 4, 1, 0, 0, [⟨15, 0, .rc, 0, 2, 0, 65535⟩, ⟨23, 16, .rc, 0, 2, 0, 255⟩]⟩,
  ⟨.LK_PART_REC, 0x380040, 1, 0, 1, 0, 0, [⟨5, 0, .rwk, 0, 2, 0, 63⟩, ⟨13, 8, .rwk, 32, 2, 0, 63⟩]⟩,
  ⟨.LK_PART_CAM, 0x380044, 1, 0, 1, 0, 0, [⟨5, 0, .rwk, 32, 2, 0, 63⟩, ⟨13, 8, .rwk, 16, 2, 0, 63⟩]⟩,
  ⟨.LK_PART_TRC, 0x380048, 1, 0, 1, 0, 0, [⟨5, 0, .rwk, 48, 2, 0, 63⟩, ⟨13, 8, .rwk, 15, 2, 0, 63⟩]⟩,
  ⟨.LK_PART_CTRL, 0x38004c, 1, 0, 1, 0, 0, [⟨0, 0, .wo, 0, 2, 0, 1⟩]⟩,
  ⟨.LK_PART_STAT, 0x380050, 1, 0, 1, 0, 0, [⟨0, 0, .live, 0, 2, 0, 1⟩, ⟨1, 1, .w1c, 0, 2, 0, 1⟩,
    ⟨13, 8, .live, 0, 2, 0, 63⟩]⟩,
  ⟨.LK_ECC_CNT, 0x380060, 1, 0, 1, 0, 0, [⟨15, 0, .rc, 0, 2, 0, 65535⟩, ⟨31, 16, .rc, 0, 2, 0, 65535⟩]⟩,
  ⟨.LK_ECC_CNT2, 0x380064, 1, 0, 1, 0, 0, [⟨15, 0, .rc, 0, 2, 0, 65535⟩, ⟨23, 16, .rc, 0, 2, 0, 255⟩]⟩,
  ⟨.LK_ERR_ADDR, 0x380068, 1, 0, 1, 0, 0, [⟨25, 0, .ro, 0, 2, 0, 67108863⟩, ⟨30, 26, .ro, 0, 2, 0, 31⟩,
    ⟨31, 31, .ro, 0, 2, 0, 1⟩]⟩,
  ⟨.LK_SCRUB, 0x38006c, 1, 0, 1, 0, 0, [⟨20, 0, .ro, 0, 2, 0, 2097151⟩, ⟨31, 24, .ro, 0, 2, 0, 255⟩]⟩,
  ⟨.LK_TRC_CFG, 0x380070, 1, 0, 1, 0, 0, [⟨0, 0, .rw, 0, 2, 0, 1⟩, ⟨1, 1, .rw, 0, 2, 0, 1⟩]⟩,
  ⟨.LK_TRC_HEAD, 0x380074, 1, 0, 1, 0, 0, [⟨23, 0, .ro, 0, 2, 0, 16777215⟩]⟩,
  ⟨.LK_TRC_STAT, 0x380078, 1, 0, 1, 0, 0, [⟨0, 0, .ro, 0, 2, 0, 1⟩, ⟨1, 1, .w1c, 0, 2, 0, 1⟩,
    ⟨31, 16, .rc, 0, 2, 0, 65535⟩]⟩,
  ⟨.LK_RCP_STAT, 0x380080, 1, 0, 1, 0, 0, [⟨7, 0, .ro, 0, 2, 0, 255⟩, ⟨8, 8, .ro, 0, 2, 0, 1⟩,
    ⟨9, 9, .ro, 0, 2, 0, 1⟩, ⟨10, 10, .w1c, 0, 2, 0, 1⟩, ⟨15, 12, .ro, 0, 2, 0, 15⟩, ⟨23, 16, .ro, 0, 2, 0, 255⟩,
    ⟨24, 24, .ro, 0, 2, 0, 1⟩]⟩,
  ⟨.LK_RCP_VER, 0x380084, 1, 0, 1, 0, 0, [⟨31, 0, .ro, 0, 2, 0, 4294967295⟩]⟩,
  ⟨.LK_GEN, 0x380100, 64, 4, 1, 0, 0, [⟨10, 0, .live, 0, 2, 0, 2047⟩, ⟨16, 16, .live, 0, 2, 0, 1⟩]⟩,
  ⟨.CV_CFG, 0x3c0000, 1, 0, 1, 0, 0, [⟨1, 0, .ro, 0, 2, 0, 3⟩, ⟨8, 2, .rwk, 10, 2, 1, 100⟩, ⟨9, 9, .rwk, 0, 2, 0, 1⟩,
    ⟨10, 10, .rwk, 1, 2, 0, 1⟩]⟩,
  ⟨.CV_STAT, 0x3c0004, 1, 0, 1, 0, 0, [⟨1, 0, .ro, 0, 2, 0, 3⟩, ⟨5, 2, .ro, 0, 2, 0, 15⟩, ⟨10, 6, .ro, 0, 2, 0, 31⟩,
    ⟨11, 11, .ro, 0, 2, 0, 1⟩, ⟨12, 12, .w1c, 0, 2, 0, 1⟩, ⟨13, 13, .ro, 0, 2, 0, 1⟩, ⟨14, 14, .ro, 0, 2, 0, 1⟩,
    ⟨15, 15, .w1c, 0, 2, 0, 1⟩, ⟨16, 16, .ro, 0, 2, 0, 1⟩, ⟨17, 17, .ro, 0, 2, 0, 1⟩, ⟨18, 18, .ro, 0, 2, 0, 1⟩,
    ⟨19, 19, .w1c, 0, 2, 0, 1⟩]⟩,
  ⟨.CV_TIME, 0x3c0008, 1, 0, 1, 0, 0, [⟨15, 0, .ro, 0, 2, 0, 65535⟩, ⟨31, 16, .ro, 0, 2, 0, 65535⟩]⟩]

/-- Register tables, part 8: CV_UP_STAT to BK_CNT. -/
def regRows8 : List RegRow := [
  ⟨.CV_UP_STAT, 0x3c0010, 1, 0, 1, 0, 0, [⟨0, 0, .ro, 0, 2, 0, 1⟩, ⟨1, 1, .ro, 0, 2, 0, 1⟩, ⟨2, 2, .w1c, 0, 2, 0, 1⟩,
    ⟨3, 3, .w1c, 0, 2, 0, 1⟩, ⟨15, 8, .rc, 0, 2, 0, 255⟩]⟩,
  ⟨.CV_UP_CNT, 0x3c0014, 1, 0, 1, 0, 0, [⟨15, 0, .rc, 0, 2, 0, 65535⟩, ⟨31, 16, .rc, 0, 2, 0, 65535⟩]⟩,
  ⟨.CV_DN_STAT, 0x3c0018, 1, 0, 1, 0, 0, [⟨0, 0, .ro, 0, 2, 0, 1⟩, ⟨1, 1, .ro, 0, 2, 0, 1⟩, ⟨2, 2, .w1c, 0, 2, 0, 1⟩,
    ⟨3, 3, .w1c, 0, 2, 0, 1⟩, ⟨15, 8, .rc, 0, 2, 0, 255⟩]⟩,
  ⟨.CV_DN_CNT, 0x3c001c, 1, 0, 1, 0, 0, [⟨15, 0, .rc, 0, 2, 0, 65535⟩, ⟨31, 16, .rc, 0, 2, 0, 65535⟩]⟩,
  ⟨.CV_CTRL, 0x3c0020, 1, 0, 1, 0, 0, [⟨0, 0, .wo, 0, 2, 0, 1⟩, ⟨1, 1, .wo, 0, 2, 0, 1⟩]⟩,
  ⟨.CV_OPS, 0x3c0024, 1, 0, 1, 0, 0, [⟨0, 0, .ro, 0, 2, 0, 1⟩, ⟨1, 1, .w1c, 0, 2, 0, 1⟩, ⟨2, 2, .w1c, 0, 2, 0, 1⟩,
    ⟨3, 3, .ro, 0, 2, 0, 1⟩, ⟨4, 4, .w1c, 0, 2, 0, 1⟩, ⟨5, 5, .w1c, 0, 2, 0, 1⟩, ⟨10, 8, .live, 0, 2, 0, 7⟩,
    ⟨31, 16, .ro, 0, 2, 0, 65535⟩]⟩,
  ⟨.CV_STK_RST, 0x3c0028, 1, 0, 1, 0, 0, [⟨15, 0, .wo, 0, 2, 0, 65535⟩, ⟨17, 16, .wo, 0, 2, 0, 3⟩]⟩,
  ⟨.WH_CFG, 0x3e0000, 1, 0, 1, 0, 0, [⟨0, 0, .rw, 1, 2, 0, 1⟩, ⟨1, 1, .rw, 0, 2, 0, 1⟩, ⟨2, 2, .rw, 0, 2, 0, 1⟩,
    ⟨15, 8, .rw, 5, 2, 1, 255⟩, ⟨23, 16, .rw, 10, 2, 2, 255⟩, ⟨31, 24, .rw, 10, 2, 5, 255⟩]⟩,
  ⟨.WH_DRIVE, 0x3e0004, 1, 0, 1, 0, 0, [⟨5, 0, .rw, 0, 2, 0, 63⟩]⟩,
  ⟨.WH_AX_SEL, 0x3e0008, 1, 0, 1, 0, 0, [⟨15, 0, .rw, 0, 2, 0, 65535⟩, ⟨31, 16, .rw, 0, 2, 0, 65535⟩]⟩,
  ⟨.WH_MON_SEL, 0x3e000c, 1, 0, 1, 0, 0, [⟨7, 0, .rw, 0, 2, 0, 255⟩, ⟨11, 8, .rw, 0, 2, 0, 15⟩,
    ⟨15, 12, .rw, 0, 2, 0, 15⟩]⟩,
  ⟨.WH_STAT, 0x3e0010, 1, 0, 1, 0, 0, [⟨15, 0, .ro, 0, 2, 0, 65535⟩, ⟨23, 16, .ro, 0, 2, 0, 255⟩,
    ⟨24, 24, .w1c, 0, 2, 0, 1⟩, ⟨25, 25, .live, 0, 2, 0, 1⟩, ⟨26, 26, .ro, 0, 2, 0, 1⟩]⟩,
  ⟨.WH_CNT, 0x3e0014, 1, 0, 1, 0, 0, [⟨15, 0, .rc, 0, 2, 0, 65535⟩, ⟨31, 16, .rc, 0, 2, 0, 65535⟩]⟩,
  ⟨.WH_LOST, 0x3e0018, 1, 0, 1, 0, 0, [⟨15, 0, .ro, 0, 2, 0, 65535⟩, ⟨19, 16, .w1c, 0, 2, 0, 15⟩]⟩,
  ⟨.BK_CFG, 0x3f0000, 16, 64, 1, 0, 0, [⟨0, 0, .rw, 0, 2, 0, 1⟩, ⟨1, 1, .rw, 0, 2, 0, 1⟩, ⟨2, 2, .rw, 0, 2, 0, 1⟩,
    ⟨3, 3, .rw, 1, 2, 0, 1⟩, ⟨15, 8, .rw, 0, 2, 0, 255⟩, ⟨26, 16, .rw, 1024, 2, 512, 1024⟩]⟩,
  ⟨.BK_OC, 0x3f0004, 16, 64, 1, 0, 0, [⟨9, 0, .rw, 1023, 2, 1, 1023⟩]⟩,
  ⟨.BK_VMAX, 0x3f0008, 16, 64, 1, 0, 0, [⟨31, 0, .rw, 1, 2, 1, 1310720000⟩]⟩,
  ⟨.BK_AMAX, 0x3f000c, 16, 64, 1, 0, 0, [⟨31, 0, .rw, 1, 2, 1, 2147483647⟩]⟩,
  ⟨.BK_PMIN_LO, 0x3f0010, 16, 64, 1, 0, 0, [⟨31, 0, .rw, 0, 2, 0, 4294967295⟩]⟩,
  ⟨.BK_PMIN_HI, 0x3f0014, 16, 64, 1, 0, 0, [⟨31, 0, .rw, 0, 2, 0, 4294967295⟩]⟩,
  ⟨.BK_PMAX_LO, 0x3f0018, 16, 64, 1, 0, 0, [⟨31, 0, .rw, 0, 2, 0, 4294967295⟩]⟩,
  ⟨.BK_PMAX_HI, 0x3f001c, 16, 64, 1, 0, 0, [⟨31, 0, .rw, 0, 2, 0, 4294967295⟩]⟩,
  ⟨.BK_STAT, 0x3f0020, 16, 64, 1, 0, 0, [⟨0, 0, .rc, 0, 2, 0, 1⟩, ⟨1, 1, .rc, 0, 2, 0, 1⟩, ⟨2, 2, .rc, 0, 2, 0, 1⟩,
    ⟨3, 3, .rc, 0, 2, 0, 1⟩, ⟨4, 4, .rc, 0, 2, 0, 1⟩, ⟨8, 8, .live, 0, 2, 0, 1⟩, ⟨9, 9, .ro, 0, 2, 0, 1⟩,
    ⟨10, 10, .live, 0, 2, 0, 1⟩]⟩,
  ⟨.BK_CNT, 0x3f0024, 16, 64, 1, 0, 0, [⟨7, 0, .rc, 0, 2, 0, 255⟩, ⟨15, 8, .rc, 0, 2, 0, 255⟩,
    ⟨23, 16, .rc, 0, 2, 0, 255⟩, ⟨31, 24, .rc, 0, 2, 0, 255⟩]⟩]

/-- Register tables, part 9: BK_DEV_STAT to OPT_IMG. -/
def regRows9 : List RegRow := [
  ⟨.BK_DEV_STAT, 0x3f0400, 1, 0, 1, 0, 0, [⟨0, 0, .live, 0, 2, 0, 1⟩, ⟨1, 1, .live, 0, 2, 0, 1⟩,
    ⟨2, 2, .ro, 0, 2, 0, 1⟩, ⟨3, 3, .rc, 0, 2, 0, 1⟩, ⟨4, 4, .ro, 0, 2, 0, 1⟩, ⟨5, 5, .ro, 0, 2, 0, 1⟩,
    ⟨6, 6, .rc, 0, 2, 0, 1⟩, ⟨7, 7, .rc, 0, 2, 0, 1⟩, ⟨31, 16, .ro, 0, 2, 0, 65535⟩]⟩,
  ⟨.BK_DEV_CTRL, 0x3f0404, 1, 0, 1, 0, 0, [⟨0, 0, .wo, 0, 2, 0, 1⟩]⟩,
  ⟨.BK_STO_CFG, 0x3f0408, 1, 0, 1, 0, 0, [⟨6, 0, .ro, 10, 2, 0, 127⟩, ⟨14, 8, .ro, 10, 2, 0, 127⟩]⟩,
  ⟨.SEC_STAT, 0x3f8000, 1, 0, 1, 0, 0, [⟨1, 0, .live, 0, 2, 0, 3⟩, ⟨2, 2, .live, 0, 2, 0, 1⟩,
    ⟨4, 3, .live, 0, 2, 0, 3⟩, ⟨5, 5, .live, 0, 2, 0, 1⟩, ⟨7, 6, .live, 0, 2, 0, 3⟩, ⟨8, 8, .ro, 0, 2, 0, 1⟩,
    ⟨9, 9, .live, 0, 2, 0, 1⟩, ⟨10, 10, .ro, 0, 2, 0, 1⟩, ⟨11, 11, .ro, 0, 2, 0, 1⟩, ⟨31, 24, .rc, 0, 2, 0, 255⟩]⟩,
  ⟨.SEC_CFG, 0x3f8004, 1, 0, 1, 0, 0, [⟨0, 0, .ro, 0, 2, 0, 1⟩, ⟨15, 8, .ro, 30, 2, 0, 255⟩,
    ⟨20, 16, .ro, 16, 2, 0, 31⟩, ⟨27, 24, .ro, 3, 2, 0, 15⟩]⟩,
  ⟨.SEC_KEYS, 0x3f8008, 1, 0, 1, 0, 0, [⟨15, 0, .live, 0, 2, 0, 65535⟩]⟩,
  ⟨.SEC_PATCH, 0x3f800c, 1, 0, 1, 0, 0, [⟨3, 0, .ro, 0, 2, 0, 15⟩, ⟨12, 8, .live, 0, 2, 0, 31⟩]⟩,
  ⟨.SEC_AUDIT, 0x3f8010, 1, 0, 1, 0, 0, [⟨31, 0, .live, 0, 2, 0, 4294967295⟩]⟩,
  ⟨.SEC_AUDIT_CNT, 0x3f8014, 1, 0, 1, 0, 0, [⟨15, 0, .rc, 0, 2, 0, 65535⟩]⟩,
  ⟨.SEC_IDPUB, 0x3f8100, 16, 4, 1, 0, 0, [⟨31, 0, .live, 0, 2, 0, 4294967295⟩]⟩,
  ⟨.MODE_STAT, 0x500, 1, 0, 1, 0, 0, [⟨2, 0, .ro, 1, 2, 0, 7⟩, ⟨3, 3, .ro, 0, 2, 0, 1⟩, ⟨6, 4, .ro, 0, 2, 0, 7⟩,
    ⟨7, 7, .live, 0, 2, 0, 1⟩, ⟨11, 8, .ro, 0, 2, 0, 15⟩, ⟨12, 12, .w1c, 0, 2, 0, 1⟩]⟩,
  ⟨.MODE_CFG, 0x504, 1, 0, 1, 0, 0, [⟨0, 0, .ro, 0, 2, 0, 1⟩]⟩,
  ⟨.AX_STATES_LO, 0x508, 1, 0, 1, 0, 0, [⟨31, 0, .live, 0, 2, 0, 4294967295⟩]⟩,
  ⟨.AX_STATES_HI, 0x50c, 1, 0, 1, 0, 0, [⟨31, 0, .live, 0, 2, 0, 4294967295⟩]⟩,
  ⟨.PD_CTRL, 0x510, 1, 0, 1, 0, 0, [⟨3, 0, .rwk, 15, 2, 0, 15⟩, ⟨4, 4, .rwk, 1, 2, 0, 1⟩]⟩,
  ⟨.PD_STAT, 0x514, 1, 0, 1, 0, 0, [⟨9, 0, .live, 0, 2, 0, 1023⟩, ⟨25, 16, .w1c, 0, 1, 0, 1023⟩]⟩,
  ⟨.PD_WAKE, 0x518, 1, 0, 1, 0, 0, [⟨0, 0, .rw, 0, 2, 0, 1⟩, ⟨9, 8, .ro, 0, 1, 0, 3⟩]⟩,
  ⟨.AX_STATE, 0x100000, 16, 4096, 1, 0, 0, [⟨3, 0, .ro, 0, 2, 0, 15⟩, ⟨4, 4, .ro, 0, 2, 0, 1⟩,
    ⟨5, 5, .ro, 0, 2, 0, 1⟩, ⟨6, 6, .live, 0, 2, 0, 1⟩, ⟨7, 7, .live, 0, 2, 0, 1⟩, ⟨15, 8, .live, 0, 2, 0, 255⟩]⟩,
  ⟨.AX_STATE_CFG, 0x100004, 16, 4096, 1, 0, 0, [⟨0, 0, .rwk, 0, 2, 0, 1⟩]⟩,
  ⟨.AX_STATE_CNT, 0x100008, 16, 4096, 1, 0, 0, [⟨7, 0, .rc, 0, 2, 0, 255⟩, ⟨15, 8, .rc, 0, 2, 0, 255⟩]⟩,
  ⟨.RST_CAUSE, 0x600, 1, 0, 1, 0, 0, [⟨4, 0, .ro, 1, 1, 0, 31⟩, ⟨6, 5, .ro, 1, 1, 0, 3⟩, ⟨11, 8, .ro, 0, 1, 0, 15⟩,
    ⟨23, 16, .rc, 0, 1, 0, 255⟩]⟩,
  ⟨.BOOT_STAT, 0x604, 1, 0, 1, 0, 0, [⟨0, 0, .ro, 0, 2, 0, 1⟩, ⟨1, 1, .ro, 0, 2, 0, 1⟩, ⟨2, 2, .ro, 0, 2, 0, 1⟩,
    ⟨31, 16, .ro, 0, 2, 0, 65535⟩]⟩,
  ⟨.BLK_RST_STAT, 0x608, 1, 0, 1, 0, 0, [⟨6, 0, .ro, 0, 2, 0, 127⟩, ⟨14, 8, .ro, 0, 2, 0, 127⟩,
    ⟨22, 16, .w1c, 0, 2, 0, 127⟩]⟩,
  ⟨.OPT_IMG, 0x640, 1, 4, 1, 0, 0, [⟨31, 0, .ro, 85840, 2, 0, 4294967295⟩]⟩]

/-- Register tables, part 10: OPT_IMG to OPT_STG2. -/
def regRows10 : List RegRow := [
  ⟨.OPT_IMG, 0x644, 1, 4, 1, 0, 1, [⟨31, 0, .ro, 270404144, 2, 0, 4294967295⟩]⟩,
  ⟨.OPT_IMG, 0x648, 1, 4, 1, 0, 2, [⟨31, 0, .ro, 657923, 2, 0, 4294967295⟩]⟩,
  ⟨.OPT_IMG, 0x64c, 1, 4, 1, 0, 3, [⟨31, 0, .ro, 270540800, 2, 0, 4294967295⟩]⟩,
  ⟨.OPT_IMG, 0x650, 1, 4, 1, 0, 4, [⟨31, 0, .ro, 3888, 2, 0, 4294967295⟩]⟩,
  ⟨.OPT_IMG, 0x654, 11, 4, 1, 0, 5, [⟨31, 0, .ro, 0, 2, 0, 4294967295⟩]⟩,
  ⟨.OPT_STG1, 0x684, 1, 0, 1, 0, 0, [⟨0, 0, .rwk, 0, 2, 0, 1⟩, ⟨1, 1, .rwk, 0, 2, 0, 1⟩, ⟨3, 2, .rwk, 0, 2, 0, 3⟩,
    ⟨4, 4, .rwk, 1, 2, 0, 1⟩, ⟨5, 5, .rwk, 1, 2, 0, 1⟩, ⟨6, 6, .rwk, 0, 2, 0, 1⟩, ⟨7, 7, .rwk, 0, 2, 0, 1⟩,
    ⟨14, 8, .rwk, 10, 2, 1, 100⟩, ⟨15, 15, .rwk, 0, 2, 0, 1⟩, ⟨23, 16, .rwk, 30, 2, 1, 255⟩,
    ⟨28, 24, .rwk, 16, 2, 1, 31⟩]⟩,
  ⟨.OPT_STG2, 0x688, 1, 0, 1, 0, 0, [⟨3, 0, .rwk, 3, 2, 1, 15⟩, ⟨14, 8, .rwk, 10, 2, 1, 100⟩,
    ⟨22, 16, .rwk, 10, 2, 1, 100⟩]⟩]

/-- The whole register map. -/
def regRows : List RegRow :=
  regRows0 ++ regRows1 ++ regRows2 ++ regRows3 ++ regRows4 ++ regRows5 ++ regRows6 ++ regRows7 ++ regRows8 ++ regRows9 ++ regRows10

/-- The numbers of the copy of register `r` that lies at byte address `addr`, if one does. -/
def RegRow.index (r : RegRow) (addr : Nat) : Option (Nat × Nat) :=
  let d := addr - r.base
  let i := d / r.s1
  let j := (d - i * r.s1) / r.s2
  if r.base ≤ addr ∧ i < r.n1 ∧ j < r.n2 ∧ r.base + i * r.s1 + j * r.s2 = addr then some (i + r.first, j) else none

/-- The register that lies at byte address `addr`, with the numbers of its copy. -/
def regAtIn : List RegRow → Nat → Option (RegRow × Nat × Nat)
  | [], _ => none
  | r :: rs, addr =>
    match r.index addr with
    | some ij => some (r, ij)
    | none => regAtIn rs addr

/-- The register of the map at byte address `addr` (R381). -/
def regAt (addr : Nat) : Option (RegRow × Nat × Nat) := regAtIn regRows addr

/-- A register's word at reset, from the reset values of its fields (R18). -/
def RegRow.resetWord (r : RegRow) : BitVec 32 :=
  BitVec.ofNat 32 ((r.fields.map fun f => f.reset * 2 ^ f.lo).sum)

namespace F
abbrev TB_STATUS.TIMEBASE_DEGRADED : Fld := ⟨0x40, 0, 0⟩
abbrev TB_STATUS.REF_LOST : Fld := ⟨0x40, 1, 1⟩
abbrev TB_STATUS.SRC : Fld := ⟨0x40, 3, 2⟩
abbrev TB_STATUS.CAL_FAIL : Fld := ⟨0x40, 4, 4⟩
abbrev TB_STATUS.LOSS_COUNT : Fld := ⟨0x40, 15, 8⟩
abbrev TB_STATUS.all : Fld := ⟨0x40, 31, 0⟩
abbrev TB_CTRL.REFIN_EN : Fld := ⟨0x44, 0, 0⟩
abbrev TB_CTRL.DEGRADED_HALT : Fld := ⟨0x44, 1, 1⟩
abbrev TB_CTRL.all : Fld := ⟨0x44, 31, 0⟩
abbrev LTIME_LO.LTIME : Fld := ⟨0x48, 31, 0⟩
abbrev LTIME_LO.all : Fld := ⟨0x48, 31, 0⟩
abbrev LTIME_HI.LTIME : Fld := ⟨0x4c, 31, 0⟩
abbrev LTIME_HI.all : Fld := ⟨0x4c, 31, 0⟩
abbrev AX_DEADLINE.LATE (a : Nat) : Fld := ⟨0x1000f0 + a * 0x1000, 15, 0⟩
abbrev AX_DEADLINE.LATE_RUN (a : Nat) : Fld := ⟨0x1000f0 + a * 0x1000, 17, 16⟩
abbrev AX_DEADLINE.DEADLINE_FLT (a : Nat) : Fld := ⟨0x1000f0 + a * 0x1000, 24, 24⟩
abbrev AX_DEADLINE.all (a : Nat) : Fld := ⟨0x1000f0 + a * 0x1000, 31, 0⟩
abbrev PLN_CTRL.HORIZON : Fld := ⟨0x20000, 9, 0⟩
abbrev PLN_CTRL.all : Fld := ⟨0x20000, 31, 0⟩
abbrev PLN_STATUS.WINDOW_USED : Fld := ⟨0x20004, 6, 0⟩
abbrev PLN_STATUS.WINDOW_HWM : Fld := ⟨0x20004, 14, 8⟩
abbrev PLN_STATUS.CMDQ_USED : Fld := ⟨0x20004, 20, 16⟩
abbrev PLN_STATUS.all : Fld := ⟨0x20004, 31, 0⟩
abbrev LAST_COMMITTED_SEQ.SEQ : Fld := ⟨0x20008, 15, 0⟩
abbrev LAST_COMMITTED_SEQ.SEQ_VALID : Fld := ⟨0x20008, 16, 16⟩
abbrev LAST_COMMITTED_SEQ.all : Fld := ⟨0x20008, 31, 0⟩
abbrev PLN_SEGS.COUNT : Fld := ⟨0x20010, 31, 0⟩
abbrev PLN_SEGS.all : Fld := ⟨0x20010, 31, 0⟩
abbrev PLN_OFFSIDE.COUNT : Fld := ⟨0x20014, 31, 0⟩
abbrev PLN_OFFSIDE.all : Fld := ⟨0x20014, 31, 0⟩
abbrev PLN_CUT.COUNT : Fld := ⟨0x20018, 31, 0⟩
abbrev PLN_CUT.all : Fld := ⟨0x20018, 31, 0⟩
abbrev PLN_EVENTS.STARVE_CNT : Fld := ⟨0x2001c, 7, 0⟩
abbrev PLN_EVENTS.CLIP_CNT : Fld := ⟨0x2001c, 15, 8⟩
abbrev PLN_EVENTS.LIMIT_CNT : Fld := ⟨0x2001c, 23, 16⟩
abbrev PLN_EVENTS.CANCEL_CNT : Fld := ⟨0x2001c, 31, 24⟩
abbrev PLN_EVENTS.all : Fld := ⟨0x2001c, 31, 0⟩
abbrev AX_VMAX.VMAX (a : Nat) (k : Nat) : Fld := ⟨0x100100 + a * 0x1000 + k * 0x10, 31, 0⟩
abbrev AX_VMAX.all (a : Nat) (k : Nat) : Fld := ⟨0x100100 + a * 0x1000 + k * 0x10, 31, 0⟩
abbrev AX_AMAX.AMAX (a : Nat) (k : Nat) : Fld := ⟨0x100104 + a * 0x1000 + k * 0x10, 31, 0⟩
abbrev AX_AMAX.all (a : Nat) (k : Nat) : Fld := ⟨0x100104 + a * 0x1000 + k * 0x10, 31, 0⟩
abbrev AX_DMAX.DMAX (a : Nat) (k : Nat) : Fld := ⟨0x100108 + a * 0x1000 + k * 0x10, 31, 0⟩
abbrev AX_DMAX.all (a : Nat) (k : Nat) : Fld := ⟨0x100108 + a * 0x1000 + k * 0x10, 31, 0⟩
abbrev AX_JMAX.JMAX (a : Nat) (k : Nat) : Fld := ⟨0x10010c + a * 0x1000 + k * 0x10, 31, 0⟩
abbrev AX_JMAX.all (a : Nat) (k : Nat) : Fld := ⟨0x10010c + a * 0x1000 + k * 0x10, 31, 0⟩
abbrev AX_PLN_CFG.STILL_POLICY (a : Nat) : Fld := ⟨0x100140 + a * 0x1000, 1, 0⟩
abbrev AX_PLN_CFG.STOP_SET (a : Nat) : Fld := ⟨0x100140 + a * 0x1000, 3, 2⟩
abbrev AX_PLN_CFG.STILL_DELAY (a : Nat) : Fld := ⟨0x100140 + a * 0x1000, 15, 4⟩
abbrev AX_PLN_CFG.ENERGISE (a : Nat) : Fld := ⟨0x100140 + a * 0x1000, 23, 16⟩
abbrev AX_PLN_CFG.all (a : Nat) : Fld := ⟨0x100140 + a * 0x1000, 31, 0⟩
abbrev AX_PLN_STAT.MOTION (a : Nat) : Fld := ⟨0x100144 + a * 0x1000, 2, 0⟩
abbrev AX_PLN_STAT.REMAIN_VALID (a : Nat) : Fld := ⟨0x100144 + a * 0x1000, 3, 3⟩
abbrev AX_PLN_STAT.STARVED (a : Nat) : Fld := ⟨0x100144 + a * 0x1000, 4, 4⟩
abbrev AX_PLN_STAT.CLAMPED (a : Nat) : Fld := ⟨0x100144 + a * 0x1000, 5, 5⟩
abbrev AX_PLN_STAT.LIMIT_REJ (a : Nat) : Fld := ⟨0x100144 + a * 0x1000, 6, 6⟩
abbrev AX_PLN_STAT.CLIPPED (a : Nat) : Fld := ⟨0x100144 + a * 0x1000, 7, 7⟩
abbrev AX_PLN_STAT.AXQ_USED (a : Nat) : Fld := ⟨0x100144 + a * 0x1000, 12, 8⟩
abbrev AX_PLN_STAT.WIN_USED (a : Nat) : Fld := ⟨0x100144 + a * 0x1000, 20, 16⟩
abbrev AX_PLN_STAT.all (a : Nat) : Fld := ⟨0x100144 + a * 0x1000, 31, 0⟩
abbrev AX_REMAIN_LO.REMAIN (a : Nat) : Fld := ⟨0x100148 + a * 0x1000, 31, 0⟩
abbrev AX_REMAIN_LO.all (a : Nat) : Fld := ⟨0x100148 + a * 0x1000, 31, 0⟩
abbrev AX_REMAIN_HI.REMAIN (a : Nat) : Fld := ⟨0x10014c + a * 0x1000, 31, 0⟩
abbrev AX_REMAIN_HI.all (a : Nat) : Fld := ⟨0x10014c + a * 0x1000, 31, 0⟩
abbrev AX_TARGET_LO.TARGET (a : Nat) : Fld := ⟨0x100150 + a * 0x1000, 31, 0⟩
abbrev AX_TARGET_LO.all (a : Nat) : Fld := ⟨0x100150 + a * 0x1000, 31, 0⟩
abbrev AX_TARGET_HI.TARGET (a : Nat) : Fld := ⟨0x100154 + a * 0x1000, 31, 0⟩
abbrev AX_TARGET_HI.all (a : Nat) : Fld := ⟨0x100154 + a * 0x1000, 31, 0⟩
abbrev AX_POS_LO.POS (a : Nat) : Fld := ⟨0x100158 + a * 0x1000, 31, 0⟩
abbrev AX_POS_LO.all (a : Nat) : Fld := ⟨0x100158 + a * 0x1000, 31, 0⟩
abbrev AX_POS_HI.POS (a : Nat) : Fld := ⟨0x10015c + a * 0x1000, 31, 0⟩
abbrev AX_POS_HI.all (a : Nat) : Fld := ⟨0x10015c + a * 0x1000, 31, 0⟩
abbrev AX_VEL.VEL (a : Nat) : Fld := ⟨0x100160 + a * 0x1000, 31, 0⟩
abbrev AX_VEL.all (a : Nat) : Fld := ⟨0x100160 + a * 0x1000, 31, 0⟩
abbrev AX_ACC.ACC (a : Nat) : Fld := ⟨0x100164 + a * 0x1000, 31, 0⟩
abbrev AX_ACC.all (a : Nat) : Fld := ⟨0x100164 + a * 0x1000, 31, 0⟩
abbrev MCH_CFG.SRC (m : Nat) : Fld := ⟨0x100 + m * 0x10, 1, 0⟩
abbrev MCH_CFG.AXIS (m : Nat) : Fld := ⟨0x100 + m * 0x10, 5, 2⟩
abbrev MCH_CFG.PUBLISH (m : Nat) : Fld := ⟨0x100 + m * 0x10, 6, 6⟩
abbrev MCH_CFG.SCH (m : Nat) : Fld := ⟨0x100 + m * 0x10, 9, 8⟩
abbrev MCH_CFG.SDEV (m : Nat) : Fld := ⟨0x100 + m * 0x10, 13, 10⟩
abbrev MCH_CFG.STALE_T (m : Nat) : Fld := ⟨0x100 + m * 0x10, 23, 16⟩
abbrev MCH_CFG.STALE (m : Nat) : Fld := ⟨0x100 + m * 0x10, 24, 24⟩
abbrev MCH_CFG.STALE_EVT (m : Nat) : Fld := ⟨0x100 + m * 0x10, 25, 25⟩
abbrev MCH_CFG.all (m : Nat) : Fld := ⟨0x100 + m * 0x10, 31, 0⟩
abbrev MCH_LEAD.LEAD (m : Nat) : Fld := ⟨0x104 + m * 0x10, 15, 0⟩
abbrev MCH_LEAD.all (m : Nat) : Fld := ⟨0x104 + m * 0x10, 31, 0⟩
abbrev MCH_POS_LO.POS (m : Nat) : Fld := ⟨0x108 + m * 0x10, 31, 0⟩
abbrev MCH_POS_LO.all (m : Nat) : Fld := ⟨0x108 + m * 0x10, 31, 0⟩
abbrev MCH_POS_HI.POS (m : Nat) : Fld := ⟨0x10c + m * 0x10, 31, 0⟩
abbrev MCH_POS_HI.all (m : Nat) : Fld := ⟨0x10c + m * 0x10, 31, 0⟩
abbrev AX_FOLLOW_STAT.SRC (a : Nat) : Fld := ⟨0x100200 + a * 0x1000, 1, 0⟩
abbrev AX_FOLLOW_STAT.FSTATE (a : Nat) : Fld := ⟨0x100200 + a * 0x1000, 4, 2⟩
abbrev AX_FOLLOW_STAT.MCH (a : Nat) : Fld := ⟨0x100200 + a * 0x1000, 6, 5⟩
abbrev AX_FOLLOW_STAT.FOLLOW_LOST (a : Nat) : Fld := ⟨0x100200 + a * 0x1000, 8, 8⟩
abbrev AX_FOLLOW_STAT.LOST_CAUSE (a : Nat) : Fld := ⟨0x100200 + a * 0x1000, 11, 9⟩
abbrev AX_FOLLOW_STAT.STEP_FAST (a : Nat) : Fld := ⟨0x100200 + a * 0x1000, 12, 12⟩
abbrev AX_FOLLOW_STAT.CAM_MARGIN_LOW (a : Nat) : Fld := ⟨0x100200 + a * 0x1000, 13, 13⟩
abbrev AX_FOLLOW_STAT.CAM_SWITCH_LATE (a : Nat) : Fld := ⟨0x100200 + a * 0x1000, 14, 14⟩
abbrev AX_FOLLOW_STAT.ENTRY_MISMATCH (a : Nat) : Fld := ⟨0x100200 + a * 0x1000, 15, 15⟩
abbrev AX_FOLLOW_STAT.CAM_SLOPE_JUMP (a : Nat) : Fld := ⟨0x100200 + a * 0x1000, 16, 16⟩
abbrev AX_FOLLOW_STAT.all (a : Nat) : Fld := ⟨0x100200 + a * 0x1000, 31, 0⟩
abbrev AX_STEP_CFG.WEIGHT (a : Nat) : Fld := ⟨0x100204 + a * 0x1000, 7, 0⟩
abbrev AX_STEP_CFG.EDGE (a : Nat) : Fld := ⟨0x100204 + a * 0x1000, 9, 8⟩
abbrev AX_STEP_CFG.DIR_INV (a : Nat) : Fld := ⟨0x100204 + a * 0x1000, 10, 10⟩
abbrev AX_STEP_CFG.INTERP (a : Nat) : Fld := ⟨0x100204 + a * 0x1000, 11, 11⟩
abbrev AX_STEP_CFG.LAG_REACT (a : Nat) : Fld := ⟨0x100204 + a * 0x1000, 12, 12⟩
abbrev AX_STEP_CFG.STP_FILT (a : Nat) : Fld := ⟨0x100204 + a * 0x1000, 23, 16⟩
abbrev AX_STEP_CFG.all (a : Nat) : Fld := ⟨0x100204 + a * 0x1000, 31, 0⟩
abbrev AX_STEP_VMAX.STEP_VMAX (a : Nat) : Fld := ⟨0x100208 + a * 0x1000, 31, 0⟩
abbrev AX_STEP_VMAX.all (a : Nat) : Fld := ⟨0x100208 + a * 0x1000, 31, 0⟩
abbrev AX_STEP_LIM.TIMEOUT (a : Nat) : Fld := ⟨0x10020c + a * 0x1000, 15, 0⟩
abbrev AX_STEP_LIM.LAG_MAX (a : Nat) : Fld := ⟨0x10020c + a * 0x1000, 31, 16⟩
abbrev AX_STEP_LIM.all (a : Nat) : Fld := ⟨0x10020c + a * 0x1000, 31, 0⟩
abbrev AX_STEP_CNT.CNT (a : Nat) : Fld := ⟨0x100210 + a * 0x1000, 31, 0⟩
abbrev AX_STEP_CNT.all (a : Nat) : Fld := ⟨0x100210 + a * 0x1000, 31, 0⟩
abbrev AX_STEP_IGN.IGN (a : Nat) : Fld := ⟨0x100214 + a * 0x1000, 15, 0⟩
abbrev AX_STEP_IGN.all (a : Nat) : Fld := ⟨0x100214 + a * 0x1000, 31, 0⟩
abbrev AX_GEAR_NUM.NUM (a : Nat) : Fld := ⟨0x100218 + a * 0x1000, 31, 0⟩
abbrev AX_GEAR_NUM.all (a : Nat) : Fld := ⟨0x100218 + a * 0x1000, 31, 0⟩
abbrev AX_GEAR_DEN.DEN (a : Nat) : Fld := ⟨0x10021c + a * 0x1000, 31, 0⟩
abbrev AX_GEAR_DEN.all (a : Nat) : Fld := ⟨0x10021c + a * 0x1000, 31, 0⟩
abbrev AX_GEAR_RAMP.RAMP (a : Nat) : Fld := ⟨0x100220 + a * 0x1000, 31, 0⟩
abbrev AX_GEAR_RAMP.all (a : Nat) : Fld := ⟨0x100220 + a * 0x1000, 31, 0⟩
abbrev AX_CAM_CFG.ENTRY_MODE (a : Nat) : Fld := ⟨0x100224 + a * 0x1000, 0, 0⟩
abbrev AX_CAM_CFG.MARGIN (a : Nat) : Fld := ⟨0x100224 + a * 0x1000, 15, 8⟩
abbrev AX_CAM_CFG.ENTRY_TOL (a : Nat) : Fld := ⟨0x100224 + a * 0x1000, 31, 16⟩
abbrev AX_CAM_CFG.all (a : Nat) : Fld := ⟨0x100224 + a * 0x1000, 31, 0⟩
abbrev AX_CAM_TABLE.ACTIVE (a : Nat) : Fld := ⟨0x100228 + a * 0x1000, 7, 0⟩
abbrev AX_CAM_TABLE.NEXT (a : Nat) : Fld := ⟨0x100228 + a * 0x1000, 15, 8⟩
abbrev AX_CAM_TABLE.NEXT_VALID (a : Nat) : Fld := ⟨0x100228 + a * 0x1000, 16, 16⟩
abbrev AX_CAM_TABLE.all (a : Nat) : Fld := ⟨0x100228 + a * 0x1000, 31, 0⟩
abbrev AX_CAM_ENTRY.ENTRY (a : Nat) : Fld := ⟨0x10022c + a * 0x1000, 31, 0⟩
abbrev AX_CAM_ENTRY.all (a : Nat) : Fld := ⟨0x10022c + a * 0x1000, 31, 0⟩
abbrev AX_CAM_EXIT.EXIT (a : Nat) : Fld := ⟨0x100230 + a * 0x1000, 31, 0⟩
abbrev AX_CAM_EXIT.all (a : Nat) : Fld := ⟨0x100230 + a * 0x1000, 31, 0⟩
abbrev AX_CAM_OFFSET_LO.OFFSET (a : Nat) : Fld := ⟨0x100234 + a * 0x1000, 31, 0⟩
abbrev AX_CAM_OFFSET_LO.all (a : Nat) : Fld := ⟨0x100234 + a * 0x1000, 31, 0⟩
abbrev AX_CAM_OFFSET_HI.OFFSET (a : Nat) : Fld := ⟨0x100238 + a * 0x1000, 31, 0⟩
abbrev AX_CAM_OFFSET_HI.all (a : Nat) : Fld := ⟨0x100238 + a * 0x1000, 31, 0⟩
abbrev AX_CAM_ORIGIN_LO.ORIGIN (a : Nat) : Fld := ⟨0x10023c + a * 0x1000, 31, 0⟩
abbrev AX_CAM_ORIGIN_LO.all (a : Nat) : Fld := ⟨0x10023c + a * 0x1000, 31, 0⟩
abbrev AX_CAM_ORIGIN_HI.ORIGIN (a : Nat) : Fld := ⟨0x100240 + a * 0x1000, 31, 0⟩
abbrev AX_CAM_ORIGIN_HI.all (a : Nat) : Fld := ⟨0x100240 + a * 0x1000, 31, 0⟩
abbrev AX_CAM_M.M (a : Nat) : Fld := ⟨0x100244 + a * 0x1000, 31, 0⟩
abbrev AX_CAM_M.all (a : Nat) : Fld := ⟨0x100244 + a * 0x1000, 31, 0⟩
abbrev AX_CAM_CYCLE.CYCLE (a : Nat) : Fld := ⟨0x100248 + a * 0x1000, 31, 0⟩
abbrev AX_CAM_CYCLE.all (a : Nat) : Fld := ⟨0x100248 + a * 0x1000, 31, 0⟩
abbrev WT_CTRL.SWAP (t : Nat) : Fld := ⟨0x208000 + t * 0x8, 0, 0⟩
abbrev WT_CTRL.FILL (t : Nat) : Fld := ⟨0x208000 + t * 0x8, 1, 1⟩
abbrev WT_CTRL.REVERT (t : Nat) : Fld := ⟨0x208000 + t * 0x8, 2, 2⟩
abbrev WT_CTRL.all (t : Nat) : Fld := ⟨0x208000 + t * 0x8, 31, 0⟩
abbrev WT_STAT.SWAP_PEND (t : Nat) : Fld := ⟨0x208004 + t * 0x8, 0, 0⟩
abbrev WT_STAT.BUSY (t : Nat) : Fld := ⟨0x208004 + t * 0x8, 1, 1⟩
abbrev WT_STAT.REFUSED (t : Nat) : Fld := ⟨0x208004 + t * 0x8, 2, 2⟩
abbrev WT_STAT.USERS (t : Nat) : Fld := ⟨0x208004 + t * 0x8, 31, 16⟩
abbrev WT_STAT.all (t : Nat) : Fld := ⟨0x208004 + t * 0x8, 31, 0⟩
abbrev AX_CC_CFG.MODE (a : Nat) : Fld := ⟨0x100300 + a * 0x1000, 0, 0⟩
abbrev AX_CC_CFG.MOD (a : Nat) : Fld := ⟨0x100300 + a * 0x1000, 2, 1⟩
abbrev AX_CC_CFG.SHUNT_FS (a : Nat) : Fld := ⟨0x100300 + a * 0x1000, 3, 3⟩
abbrev AX_CC_CFG.OVERSAMPLE (a : Nat) : Fld := ⟨0x100300 + a * 0x1000, 5, 4⟩
abbrev AX_CC_CFG.FF_R (a : Nat) : Fld := ⟨0x100300 + a * 0x1000, 6, 6⟩
abbrev AX_CC_CFG.FF_L (a : Nat) : Fld := ⟨0x100300 + a * 0x1000, 7, 7⟩
abbrev AX_CC_CFG.FF_E (a : Nat) : Fld := ⟨0x100300 + a * 0x1000, 8, 8⟩
abbrev AX_CC_CFG.BLANK (a : Nat) : Fld := ⟨0x100300 + a * 0x1000, 23, 16⟩
abbrev AX_CC_CFG.all (a : Nat) : Fld := ⟨0x100300 + a * 0x1000, 31, 0⟩
abbrev AX_CC_GAIN.KP (a : Nat) : Fld := ⟨0x100304 + a * 0x1000, 15, 0⟩
abbrev AX_CC_GAIN.KI (a : Nat) : Fld := ⟨0x100304 + a * 0x1000, 31, 16⟩
abbrev AX_CC_GAIN.all (a : Nat) : Fld := ⟨0x100304 + a * 0x1000, 31, 0⟩
abbrev AX_ISCALE.RUN (a : Nat) : Fld := ⟨0x100308 + a * 0x1000, 11, 0⟩
abbrev AX_ISCALE.BOOST (a : Nat) : Fld := ⟨0x100308 + a * 0x1000, 27, 16⟩
abbrev AX_ISCALE.all (a : Nat) : Fld := ⟨0x100308 + a * 0x1000, 31, 0⟩
abbrev AX_IHOLD.HOLD (a : Nat) : Fld := ⟨0x10030c + a * 0x1000, 11, 0⟩
abbrev AX_IHOLD.SLEW (a : Nat) : Fld := ⟨0x10030c + a * 0x1000, 23, 16⟩
abbrev AX_IHOLD.all (a : Nat) : Fld := ⟨0x10030c + a * 0x1000, 31, 0⟩
abbrev AX_MOTOR.R_W (a : Nat) : Fld := ⟨0x100310 + a * 0x1000, 15, 0⟩
abbrev AX_MOTOR.L_W (a : Nat) : Fld := ⟨0x100310 + a * 0x1000, 31, 16⟩
abbrev AX_MOTOR.all (a : Nat) : Fld := ⟨0x100310 + a * 0x1000, 31, 0⟩
abbrev AX_SHUNT.R_SHUNT (a : Nat) : Fld := ⟨0x100314 + a * 0x1000, 15, 0⟩
abbrev AX_SHUNT.all (a : Nat) : Fld := ⟨0x100314 + a * 0x1000, 31, 0⟩
abbrev AX_CHOP.TOFF (a : Nat) : Fld := ⟨0x100318 + a * 0x1000, 7, 0⟩
abbrev AX_CHOP.CHOP_BLANK (a : Nat) : Fld := ⟨0x100318 + a * 0x1000, 15, 8⟩
abbrev AX_CHOP.DECAY (a : Nat) : Fld := ⟨0x100318 + a * 0x1000, 17, 16⟩
abbrev AX_CHOP.CHOP_SHORT_N (a : Nat) : Fld := ⟨0x100318 + a * 0x1000, 23, 20⟩
abbrev AX_CHOP.all (a : Nat) : Fld := ⟨0x100318 + a * 0x1000, 31, 0⟩
abbrev AX_CC_STAT.SAMPLE_SKIP (a : Nat) : Fld := ⟨0x10031c + a * 0x1000, 15, 0⟩
abbrev AX_CC_STAT.SAT (a : Nat) : Fld := ⟨0x10031c + a * 0x1000, 31, 16⟩
abbrev AX_CC_STAT.all (a : Nat) : Fld := ⟨0x10031c + a * 0x1000, 31, 0⟩
abbrev AX_CC_FLAG.CC_SAT (a : Nat) : Fld := ⟨0x100320 + a * 0x1000, 0, 0⟩
abbrev AX_CC_FLAG.CC_BLIND (a : Nat) : Fld := ⟨0x100320 + a * 0x1000, 1, 1⟩
abbrev AX_CC_FLAG.MOD_LC_W1 (a : Nat) : Fld := ⟨0x100320 + a * 0x1000, 2, 2⟩
abbrev AX_CC_FLAG.MOD_LC_W2 (a : Nat) : Fld := ⟨0x100320 + a * 0x1000, 3, 3⟩
abbrev AX_CC_FLAG.CHOP_SHORT_EVT (a : Nat) : Fld := ⟨0x100320 + a * 0x1000, 4, 4⟩
abbrev AX_CC_FLAG.SCALE_SEL (a : Nat) : Fld := ⟨0x100320 + a * 0x1000, 6, 5⟩
abbrev AX_CC_FLAG.SCALE_EFF (a : Nat) : Fld := ⟨0x100320 + a * 0x1000, 27, 16⟩
abbrev AX_CC_FLAG.all (a : Nat) : Fld := ⟨0x100320 + a * 0x1000, 31, 0⟩
abbrev AX_IREF.IREF_W1 (a : Nat) : Fld := ⟨0x100324 + a * 0x1000, 15, 0⟩
abbrev AX_IREF.IREF_W2 (a : Nat) : Fld := ⟨0x100324 + a * 0x1000, 31, 16⟩
abbrev AX_IREF.all (a : Nat) : Fld := ⟨0x100324 + a * 0x1000, 31, 0⟩
abbrev AX_VCMD.VCMD_W1 (a : Nat) : Fld := ⟨0x100328 + a * 0x1000, 15, 0⟩
abbrev AX_VCMD.VCMD_W2 (a : Nat) : Fld := ⟨0x100328 + a * 0x1000, 31, 16⟩
abbrev AX_VCMD.all (a : Nat) : Fld := ⟨0x100328 + a * 0x1000, 31, 0⟩
abbrev AX_WAVE.TABLE (a : Nat) : Fld := ⟨0x10032c + a * 0x1000, 2, 0⟩
abbrev AX_WAVE.REVERSE (a : Nat) : Fld := ⟨0x10032c + a * 0x1000, 3, 3⟩
abbrev AX_WAVE.PHASE_OFS (a : Nat) : Fld := ⟨0x10032c + a * 0x1000, 13, 4⟩
abbrev AX_WAVE.TABLE_ACT (a : Nat) : Fld := ⟨0x10032c + a * 0x1000, 18, 16⟩
abbrev AX_WAVE.TABLE_PEND (a : Nat) : Fld := ⟨0x10032c + a * 0x1000, 19, 19⟩
abbrev AX_WAVE.all (a : Nat) : Fld := ⟨0x10032c + a * 0x1000, 31, 0⟩
abbrev AX_LA_CFG.STALL_REACT (a : Nat) : Fld := ⟨0x100400 + a * 0x1000, 1, 0⟩
abbrev AX_LA_CFG.FALLBACK (a : Nat) : Fld := ⟨0x100400 + a * 0x1000, 2, 2⟩
abbrev AX_LA_CFG.STALL_EN (a : Nat) : Fld := ⟨0x100400 + a * 0x1000, 3, 3⟩
abbrev AX_LA_CFG.COLLAPSE_EN (a : Nat) : Fld := ⟨0x100400 + a * 0x1000, 4, 4⟩
abbrev AX_LA_CFG.ECO_EN (a : Nat) : Fld := ⟨0x100400 + a * 0x1000, 5, 5⟩
abbrev AX_LA_CFG.ENC_AUTH (a : Nat) : Fld := ⟨0x100400 + a * 0x1000, 6, 6⟩
abbrev AX_LA_CFG.STALL_N (a : Nat) : Fld := ⟨0x100400 + a * 0x1000, 11, 8⟩
abbrev AX_LA_CFG.COLLAPSE (a : Nat) : Fld := ⟨0x100400 + a * 0x1000, 15, 12⟩
abbrev AX_LA_CFG.EMF_TAU (a : Nat) : Fld := ⟨0x100400 + a * 0x1000, 23, 16⟩
abbrev AX_LA_CFG.DT_COMP (a : Nat) : Fld := ⟨0x100400 + a * 0x1000, 31, 24⟩
abbrev AX_LA_CFG.all (a : Nat) : Fld := ⟨0x100400 + a * 0x1000, 31, 0⟩
abbrev AX_LA_THR.LA_STALL (a : Nat) : Fld := ⟨0x100404 + a * 0x1000, 10, 0⟩
abbrev AX_LA_THR.LA_RECOVER (a : Nat) : Fld := ⟨0x100404 + a * 0x1000, 21, 11⟩
abbrev AX_LA_THR.LA_TARGET (a : Nat) : Fld := ⟨0x100404 + a * 0x1000, 31, 22⟩
abbrev AX_LA_THR.all (a : Nat) : Fld := ⟨0x100404 + a * 0x1000, 31, 0⟩
abbrev AX_LA_LIM.EMF_MIN (a : Nat) : Fld := ⟨0x100408 + a * 0x1000, 11, 0⟩
abbrev AX_LA_LIM.BOOST_TIME (a : Nat) : Fld := ⟨0x100408 + a * 0x1000, 27, 16⟩
abbrev AX_LA_LIM.all (a : Nat) : Fld := ⟨0x100408 + a * 0x1000, 31, 0⟩
abbrev AX_LA_ECO.ECO_GAIN (a : Nat) : Fld := ⟨0x10040c + a * 0x1000, 7, 0⟩
abbrev AX_LA_ECO.all (a : Nat) : Fld := ⟨0x10040c + a * 0x1000, 31, 0⟩
abbrev AX_LA.LA_DEG (a : Nat) : Fld := ⟨0x100410 + a * 0x1000, 15, 0⟩
abbrev AX_LA.EMF_MAG (a : Nat) : Fld := ⟨0x100410 + a * 0x1000, 31, 16⟩
abbrev AX_LA.all (a : Nat) : Fld := ⟨0x100410 + a * 0x1000, 31, 0⟩
abbrev AX_EMF.EMF_W1 (a : Nat) : Fld := ⟨0x100414 + a * 0x1000, 15, 0⟩
abbrev AX_EMF.EMF_W2 (a : Nat) : Fld := ⟨0x100414 + a * 0x1000, 31, 16⟩
abbrev AX_EMF.all (a : Nat) : Fld := ⟨0x100414 + a * 0x1000, 31, 0⟩
abbrev AX_LA_STAT.LA_VALID (a : Nat) : Fld := ⟨0x100418 + a * 0x1000, 0, 0⟩
abbrev AX_LA_STAT.STALL (a : Nat) : Fld := ⟨0x100418 + a * 0x1000, 1, 1⟩
abbrev AX_LA_STAT.STALL_BY_COLLAPSE (a : Nat) : Fld := ⟨0x100418 + a * 0x1000, 2, 2⟩
abbrev AX_LA_STAT.BOOST_ACT (a : Nat) : Fld := ⟨0x100418 + a * 0x1000, 3, 3⟩
abbrev AX_LA_STAT.STALL_RECOVERED (a : Nat) : Fld := ⟨0x100418 + a * 0x1000, 4, 4⟩
abbrev AX_LA_STAT.BOOST_FAILED (a : Nat) : Fld := ⟨0x100418 + a * 0x1000, 5, 5⟩
abbrev AX_LA_STAT.POSITION_UNCERTAIN (a : Nat) : Fld := ⟨0x100418 + a * 0x1000, 6, 6⟩
abbrev AX_LA_STAT.ENC_RESYNC (a : Nat) : Fld := ⟨0x100418 + a * 0x1000, 7, 7⟩
abbrev AX_LA_STAT.ECO_ACT (a : Nat) : Fld := ⟨0x100418 + a * 0x1000, 8, 8⟩
abbrev AX_LA_STAT.ECO_SCALE (a : Nat) : Fld := ⟨0x100418 + a * 0x1000, 27, 16⟩
abbrev AX_LA_STAT.all (a : Nat) : Fld := ⟨0x100418 + a * 0x1000, 31, 0⟩
abbrev AX_LA_CNT.STALL_CNT (a : Nat) : Fld := ⟨0x10041c + a * 0x1000, 15, 0⟩
abbrev AX_LA_CNT.RECOVER_CNT (a : Nat) : Fld := ⟨0x10041c + a * 0x1000, 31, 16⟩
abbrev AX_LA_CNT.all (a : Nat) : Fld := ⟨0x10041c + a * 0x1000, 31, 0⟩
abbrev AX_ENC_SCALE.ENC_SCALE (a : Nat) : Fld := ⟨0x100420 + a * 0x1000, 31, 0⟩
abbrev AX_ENC_SCALE.all (a : Nat) : Fld := ⟨0x100420 + a * 0x1000, 31, 0⟩
abbrev AX_ENC_CREF_LO.CREF (a : Nat) : Fld := ⟨0x100424 + a * 0x1000, 31, 0⟩
abbrev AX_ENC_CREF_LO.all (a : Nat) : Fld := ⟨0x100424 + a * 0x1000, 31, 0⟩
abbrev AX_ENC_CREF_HI.CREF (a : Nat) : Fld := ⟨0x100428 + a * 0x1000, 31, 0⟩
abbrev AX_ENC_CREF_HI.all (a : Nat) : Fld := ⟨0x100428 + a * 0x1000, 31, 0⟩
abbrev AX_ENC_PREF_LO.PREF (a : Nat) : Fld := ⟨0x10042c + a * 0x1000, 31, 0⟩
abbrev AX_ENC_PREF_LO.all (a : Nat) : Fld := ⟨0x10042c + a * 0x1000, 31, 0⟩
abbrev AX_ENC_PREF_HI.PREF (a : Nat) : Fld := ⟨0x100430 + a * 0x1000, 31, 0⟩
abbrev AX_ENC_PREF_HI.all (a : Nat) : Fld := ⟨0x100430 + a * 0x1000, 31, 0⟩
abbrev AX_PROBE_CFG.PROBE_AUTO (a : Nat) : Fld := ⟨0x100440 + a * 0x1000, 0, 0⟩
abbrev AX_PROBE_CFG.PROBE_FREQ (a : Nat) : Fld := ⟨0x100440 + a * 0x1000, 15, 8⟩
abbrev AX_PROBE_CFG.PROBE_V (a : Nat) : Fld := ⟨0x100440 + a * 0x1000, 23, 16⟩
abbrev AX_PROBE_CFG.PROBE_CYC (a : Nat) : Fld := ⟨0x100440 + a * 0x1000, 31, 24⟩
abbrev AX_PROBE_CFG.all (a : Nat) : Fld := ⟨0x100440 + a * 0x1000, 31, 0⟩
abbrev AX_PROBE_SET.PROBE_EVERY (a : Nat) : Fld := ⟨0x100444 + a * 0x1000, 11, 0⟩
abbrev AX_PROBE_SET.PROBE_LIMIT (a : Nat) : Fld := ⟨0x100444 + a * 0x1000, 25, 16⟩
abbrev AX_PROBE_SET.PROBE_ACT (a : Nat) : Fld := ⟨0x100444 + a * 0x1000, 26, 26⟩
abbrev AX_PROBE_SET.all (a : Nat) : Fld := ⟨0x100444 + a * 0x1000, 31, 0⟩
abbrev AX_PROBE_RES.PROBE_DISP (a : Nat) : Fld := ⟨0x100448 + a * 0x1000, 15, 0⟩
abbrev AX_PROBE_RES.PROBE_SAL (a : Nat) : Fld := ⟨0x100448 + a * 0x1000, 27, 16⟩
abbrev AX_PROBE_RES.PROBE_DONE (a : Nat) : Fld := ⟨0x100448 + a * 0x1000, 28, 28⟩
abbrev AX_PROBE_RES.PROBE_UNAVAILABLE (a : Nat) : Fld := ⟨0x100448 + a * 0x1000, 29, 29⟩
abbrev AX_PROBE_RES.PROBE_ABORT (a : Nat) : Fld := ⟨0x100448 + a * 0x1000, 30, 30⟩
abbrev AX_PROBE_RES.PROBE_DISP_HIGH (a : Nat) : Fld := ⟨0x100448 + a * 0x1000, 31, 31⟩
abbrev AX_PROBE_RES.all (a : Nat) : Fld := ⟨0x100448 + a * 0x1000, 31, 0⟩
abbrev AX_PWM_STG.PER (a : Nat) : Fld := ⟨0x100500 + a * 0x1000, 19, 0⟩
abbrev AX_PWM_STG.MIDUPD (a : Nat) : Fld := ⟨0x100500 + a * 0x1000, 20, 20⟩
abbrev AX_PWM_STG.PHASE (a : Nat) : Fld := ⟨0x100500 + a * 0x1000, 27, 24⟩
abbrev AX_PWM_STG.MINP_MODE (a : Nat) : Fld := ⟨0x100500 + a * 0x1000, 28, 28⟩
abbrev AX_PWM_STG.all (a : Nat) : Fld := ⟨0x100500 + a * 0x1000, 31, 0⟩
abbrev AX_PWM_DLY.DLY_R (a : Nat) : Fld := ⟨0x100504 + a * 0x1000, 13, 0⟩
abbrev AX_PWM_DLY.DLY_F (a : Nat) : Fld := ⟨0x100504 + a * 0x1000, 29, 16⟩
abbrev AX_PWM_DLY.all (a : Nat) : Fld := ⟨0x100504 + a * 0x1000, 31, 0⟩
abbrev AX_PWM_CTRL.COMMIT (a : Nat) : Fld := ⟨0x100508 + a * 0x1000, 0, 0⟩
abbrev AX_PWM_CTRL.all (a : Nat) : Fld := ⟨0x100508 + a * 0x1000, 31, 0⟩
abbrev AX_PWM_ACT.ACT (a : Nat) : Fld := ⟨0x10050c + a * 0x1000, 28, 0⟩
abbrev AX_PWM_ACT.COMMIT_PEND (a : Nat) : Fld := ⟨0x10050c + a * 0x1000, 29, 29⟩
abbrev AX_PWM_ACT.all (a : Nat) : Fld := ⟨0x10050c + a * 0x1000, 31, 0⟩
abbrev AX_PWM_DLY_ACT.DLY_ACT (a : Nat) : Fld := ⟨0x100510 + a * 0x1000, 31, 0⟩
abbrev AX_PWM_DLY_ACT.all (a : Nat) : Fld := ⟨0x100510 + a * 0x1000, 31, 0⟩
abbrev AX_PWM_STAT.CLAMP (a : Nat) : Fld := ⟨0x100514 + a * 0x1000, 0, 0⟩
abbrev AX_PWM_STAT.COMMIT_REJ (a : Nat) : Fld := ⟨0x100514 + a * 0x1000, 1, 1⟩
abbrev AX_PWM_STAT.TRIP_ACT (a : Nat) : Fld := ⟨0x100514 + a * 0x1000, 2, 2⟩
abbrev AX_PWM_STAT.TRIP_FLT (a : Nat) : Fld := ⟨0x100514 + a * 0x1000, 3, 3⟩
abbrev AX_PWM_STAT.all (a : Nat) : Fld := ⟨0x100514 + a * 0x1000, 31, 0⟩
abbrev AX_PWM_CNT.MINP_DROP (a : Nat) : Fld := ⟨0x100518 + a * 0x1000, 15, 0⟩
abbrev AX_PWM_CNT.MINP_RAISE (a : Nat) : Fld := ⟨0x100518 + a * 0x1000, 31, 16⟩
abbrev AX_PWM_CNT.all (a : Nat) : Fld := ⟨0x100518 + a * 0x1000, 31, 0⟩
abbrev AX_PWM_GUARD.MINP_GUARD (a : Nat) : Fld := ⟨0x10051c + a * 0x1000, 15, 0⟩
abbrev AX_PWM_GUARD.all (a : Nat) : Fld := ⟨0x10051c + a * 0x1000, 31, 0⟩
abbrev AX_TRIP_FILT.OC_FILT (a : Nat) : Fld := ⟨0x100520 + a * 0x1000, 9, 0⟩
abbrev AX_TRIP_FILT.SN_FILT (a : Nat) : Fld := ⟨0x100520 + a * 0x1000, 25, 16⟩
abbrev AX_TRIP_FILT.all (a : Nat) : Fld := ⟨0x100520 + a * 0x1000, 31, 0⟩
abbrev AX_EDGE_ON.ON (a : Nat) (l : Nat) : Fld := ⟨0x100530 + a * 0x1000 + l * 0x8, 19, 0⟩
abbrev AX_EDGE_ON.LSTATE (a : Nat) (l : Nat) : Fld := ⟨0x100530 + a * 0x1000 + l * 0x8, 21, 20⟩
abbrev AX_EDGE_ON.all (a : Nat) (l : Nat) : Fld := ⟨0x100530 + a * 0x1000 + l * 0x8, 31, 0⟩
abbrev AX_EDGE_OFF.OFF (a : Nat) (l : Nat) : Fld := ⟨0x100534 + a * 0x1000 + l * 0x8, 19, 0⟩
abbrev AX_EDGE_OFF.all (a : Nat) (l : Nat) : Fld := ⟨0x100534 + a * 0x1000 + l * 0x8, 31, 0⟩
abbrev TRIP_CFG.FILT (n : Nat) : Fld := ⟨0x200 + n * 0x4, 9, 0⟩
abbrev TRIP_CFG.POL (n : Nat) : Fld := ⟨0x200 + n * 0x4, 10, 10⟩
abbrev TRIP_CFG.EN (n : Nat) : Fld := ⟨0x200 + n * 0x4, 11, 11⟩
abbrev TRIP_CFG.ACTION (n : Nat) : Fld := ⟨0x200 + n * 0x4, 12, 12⟩
abbrev TRIP_CFG.LATCH (n : Nat) : Fld := ⟨0x200 + n * 0x4, 13, 13⟩
abbrev TRIP_CFG.AXES (n : Nat) : Fld := ⟨0x200 + n * 0x4, 31, 16⟩
abbrev TRIP_CFG.all (n : Nat) : Fld := ⟨0x200 + n * 0x4, 31, 0⟩
abbrev TRIP_STAT.LEVEL : Fld := ⟨0x210, 3, 0⟩
abbrev TRIP_STAT.EVT : Fld := ⟨0x210, 7, 4⟩
abbrev TRIP_STAT.all : Fld := ⟨0x210, 31, 0⟩
abbrev PCH_PER.PER (c : Nat) : Fld := ⟨0x240 + c * 0x10, 19, 0⟩
abbrev PCH_PER.all (c : Nat) : Fld := ⟨0x240 + c * 0x10, 31, 0⟩
abbrev PCH_ON.ON (c : Nat) : Fld := ⟨0x244 + c * 0x10, 19, 0⟩
abbrev PCH_ON.all (c : Nat) : Fld := ⟨0x244 + c * 0x10, 31, 0⟩
abbrev PCH_OFF.OFF (c : Nat) : Fld := ⟨0x248 + c * 0x10, 19, 0⟩
abbrev PCH_OFF.all (c : Nat) : Fld := ⟨0x248 + c * 0x10, 31, 0⟩
abbrev PCH_CTRL.COMMIT (c : Nat) : Fld := ⟨0x24c + c * 0x10, 0, 0⟩
abbrev PCH_CTRL.EN (c : Nat) : Fld := ⟨0x24c + c * 0x10, 1, 1⟩
abbrev PCH_CTRL.POL (c : Nat) : Fld := ⟨0x24c + c * 0x10, 2, 2⟩
abbrev PCH_CTRL.COMMIT_PEND (c : Nat) : Fld := ⟨0x24c + c * 0x10, 3, 3⟩
abbrev PCH_CTRL.CLAMP (c : Nat) : Fld := ⟨0x24c + c * 0x10, 4, 4⟩
abbrev PCH_CTRL.ACTIVE (c : Nat) : Fld := ⟨0x24c + c * 0x10, 5, 5⟩
abbrev PCH_CTRL.all (c : Nat) : Fld := ⟨0x24c + c * 0x10, 31, 0⟩
abbrev QD_GD_CFG.BST_EN (q : Nat) : Fld := ⟨0x300 + q * 0x20, 0, 0⟩
abbrev QD_GD_CFG.REFRESH_N (q : Nat) : Fld := ⟨0x300 + q * 0x20, 7, 1⟩
abbrev QD_GD_CFG.UV_LATCH (q : Nat) : Fld := ⟨0x300 + q * 0x20, 8, 8⟩
abbrev QD_GD_CFG.all (q : Nat) : Fld := ⟨0x300 + q * 0x20, 31, 0⟩
abbrev QD_VM_THR.OV_TRIP (q : Nat) : Fld := ⟨0x304 + q * 0x20, 9, 0⟩
abbrev QD_VM_THR.BRK_ON (q : Nat) : Fld := ⟨0x304 + q * 0x20, 19, 10⟩
abbrev QD_VM_THR.BRK_OFF (q : Nat) : Fld := ⟨0x304 + q * 0x20, 29, 20⟩
abbrev QD_VM_THR.all (q : Nat) : Fld := ⟨0x304 + q * 0x20, 31, 0⟩
abbrev QD_VM_UV.UV_TRIP (q : Nat) : Fld := ⟨0x308 + q * 0x20, 9, 0⟩
abbrev QD_VM_UV.UV_OFF (q : Nat) : Fld := ⟨0x308 + q * 0x20, 19, 10⟩
abbrev QD_VM_UV.all (q : Nat) : Fld := ⟨0x308 + q * 0x20, 31, 0⟩
abbrev QD_GD_STAT.CP_OK (q : Nat) : Fld := ⟨0x30c + q * 0x20, 0, 0⟩
abbrev QD_GD_STAT.CP_FB_ACT (q : Nat) : Fld := ⟨0x30c + q * 0x20, 1, 1⟩
abbrev QD_GD_STAT.CP_FALLBACK (q : Nat) : Fld := ⟨0x30c + q * 0x20, 2, 2⟩
abbrev QD_GD_STAT.BRK_ACT (q : Nat) : Fld := ⟨0x30c + q * 0x20, 3, 3⟩
abbrev QD_GD_STAT.OV_ACT (q : Nat) : Fld := ⟨0x30c + q * 0x20, 4, 4⟩
abbrev QD_GD_STAT.OV_EVT (q : Nat) : Fld := ⟨0x30c + q * 0x20, 5, 5⟩
abbrev QD_GD_STAT.UV_ACT (q : Nat) : Fld := ⟨0x30c + q * 0x20, 6, 6⟩
abbrev QD_GD_STAT.UV_EVT (q : Nat) : Fld := ⟨0x30c + q * 0x20, 7, 7⟩
abbrev QD_GD_STAT.VM_UNSETTLED (q : Nat) : Fld := ⟨0x30c + q * 0x20, 8, 8⟩
abbrev QD_GD_STAT.VGS_UV_ACT (q : Nat) : Fld := ⟨0x30c + q * 0x20, 9, 9⟩
abbrev QD_GD_STAT.all (q : Nat) : Fld := ⟨0x30c + q * 0x20, 31, 0⟩
abbrev QD_GD_CNT.BRK_STARTS (q : Nat) : Fld := ⟨0x310 + q * 0x20, 15, 0⟩
abbrev QD_GD_CNT.OV_TRIPS (q : Nat) : Fld := ⟨0x310 + q * 0x20, 31, 16⟩
abbrev QD_GD_CNT.all (q : Nat) : Fld := ⟨0x310 + q * 0x20, 31, 0⟩
abbrev AX_GD_CFG.REACT (a : Nat) : Fld := ⟨0x100600 + a * 0x1000, 0, 0⟩
abbrev AX_GD_CFG.SN_EN (a : Nat) : Fld := ⟨0x100600 + a * 0x1000, 1, 1⟩
abbrev AX_GD_CFG.DIAG_ON_REARM (a : Nat) : Fld := ⟨0x100600 + a * 0x1000, 2, 2⟩
abbrev AX_GD_CFG.ESC_WIN (a : Nat) : Fld := ⟨0x100600 + a * 0x1000, 15, 8⟩
abbrev AX_GD_CFG.all (a : Nat) : Fld := ⟨0x100600 + a * 0x1000, 31, 0⟩
abbrev AX_SN_CFG.SN_VDS (a : Nat) : Fld := ⟨0x100604 + a * 0x1000, 9, 0⟩
abbrev AX_SN_CFG.SN_BLANK (a : Nat) : Fld := ⟨0x100604 + a * 0x1000, 23, 16⟩
abbrev AX_SN_CFG.all (a : Nat) : Fld := ⟨0x100604 + a * 0x1000, 31, 0⟩
abbrev AX_GD_FLT.OC (a : Nat) : Fld := ⟨0x100608 + a * 0x1000, 0, 0⟩
abbrev AX_GD_FLT.SN_HS (a : Nat) : Fld := ⟨0x100608 + a * 0x1000, 1, 1⟩
abbrev AX_GD_FLT.SN_LS (a : Nat) : Fld := ⟨0x100608 + a * 0x1000, 2, 2⟩
abbrev AX_GD_FLT.CROSS (a : Nat) : Fld := ⟨0x100608 + a * 0x1000, 3, 3⟩
abbrev AX_GD_FLT.CHOP_SHORT (a : Nat) : Fld := ⟨0x100608 + a * 0x1000, 4, 4⟩
abbrev AX_GD_FLT.DIAG_FAIL (a : Nat) : Fld := ⟨0x100608 + a * 0x1000, 5, 5⟩
abbrev AX_GD_FLT.CP_UV (a : Nat) : Fld := ⟨0x100608 + a * 0x1000, 6, 6⟩
abbrev AX_GD_FLT.VGS_UV (a : Nat) : Fld := ⟨0x100608 + a * 0x1000, 7, 7⟩
abbrev AX_GD_FLT.OV_TRIP (a : Nat) : Fld := ⟨0x100608 + a * 0x1000, 8, 8⟩
abbrev AX_GD_FLT.VM_UV (a : Nat) : Fld := ⟨0x100608 + a * 0x1000, 9, 9⟩
abbrev AX_GD_FLT.ESCALATED (a : Nat) : Fld := ⟨0x100608 + a * 0x1000, 10, 10⟩
abbrev AX_GD_FLT.SW_OFF (a : Nat) : Fld := ⟨0x100608 + a * 0x1000, 23, 16⟩
abbrev AX_GD_FLT.FIRST_CAUSE (a : Nat) : Fld := ⟨0x100608 + a * 0x1000, 27, 24⟩
abbrev AX_GD_FLT.all (a : Nat) : Fld := ⟨0x100608 + a * 0x1000, 31, 0⟩
abbrev AX_GD_STAT.CROSS_CNT (a : Nat) : Fld := ⟨0x10060c + a * 0x1000, 7, 0⟩
abbrev AX_GD_STAT.BST_LOW_CNT (a : Nat) : Fld := ⟨0x10060c + a * 0x1000, 15, 8⟩
abbrev AX_GD_STAT.BST_LOW_ACT (a : Nat) : Fld := ⟨0x10060c + a * 0x1000, 19, 16⟩
abbrev AX_GD_STAT.DIAG_BUSY (a : Nat) : Fld := ⟨0x10060c + a * 0x1000, 20, 20⟩
abbrev AX_GD_STAT.DIAG_DONE (a : Nat) : Fld := ⟨0x10060c + a * 0x1000, 21, 21⟩
abbrev AX_GD_STAT.all (a : Nat) : Fld := ⟨0x10060c + a * 0x1000, 31, 0⟩
abbrev AX_DIAG_RES.W1_FIND (a : Nat) : Fld := ⟨0x100610 + a * 0x1000, 5, 0⟩
abbrev AX_DIAG_RES.W2_FIND (a : Nat) : Fld := ⟨0x100610 + a * 0x1000, 13, 8⟩
abbrev AX_DIAG_RES.PASS (a : Nat) : Fld := ⟨0x100610 + a * 0x1000, 16, 16⟩
abbrev AX_DIAG_RES.all (a : Nat) : Fld := ⟨0x100610 + a * 0x1000, 31, 0⟩
abbrev AX_DIAG_THR.DG_LO (a : Nat) : Fld := ⟨0x100614 + a * 0x1000, 9, 0⟩
abbrev AX_DIAG_THR.DG_HI (a : Nat) : Fld := ⟨0x100614 + a * 0x1000, 25, 16⟩
abbrev AX_DIAG_THR.all (a : Nat) : Fld := ⟨0x100614 + a * 0x1000, 31, 0⟩
abbrev AX_FB_CFG.FB_MODE (a : Nat) : Fld := ⟨0x100700 + a * 0x1000, 2, 0⟩
abbrev AX_FB_CFG.FB_INV (a : Nat) : Fld := ⟨0x100700 + a * 0x1000, 3, 3⟩
abbrev AX_FB_CFG.IDX_MODE (a : Nat) : Fld := ⟨0x100700 + a * 0x1000, 5, 4⟩
abbrev AX_FB_CFG.WHEEL_EDGE (a : Nat) : Fld := ⟨0x100700 + a * 0x1000, 6, 6⟩
abbrev AX_FB_CFG.FB_FILT (a : Nat) : Fld := ⟨0x100700 + a * 0x1000, 15, 8⟩
abbrev AX_FB_CFG.IDX_TOL (a : Nat) : Fld := ⟨0x100700 + a * 0x1000, 31, 16⟩
abbrev AX_FB_CFG.all (a : Nat) : Fld := ⟨0x100700 + a * 0x1000, 31, 0⟩
abbrev AX_FB_REV_COUNT.REV_COUNT (a : Nat) : Fld := ⟨0x100704 + a * 0x1000, 31, 0⟩
abbrev AX_FB_REV_COUNT.all (a : Nat) : Fld := ⟨0x100704 + a * 0x1000, 31, 0⟩
abbrev AX_FB_WHEEL.TEETH (a : Nat) : Fld := ⟨0x100708 + a * 0x1000, 11, 0⟩
abbrev AX_FB_WHEEL.MISS (a : Nat) : Fld := ⟨0x100708 + a * 0x1000, 13, 12⟩
abbrev AX_FB_WHEEL.GAP_RATIO (a : Nat) : Fld := ⟨0x100708 + a * 0x1000, 21, 16⟩
abbrev AX_FB_WHEEL.all (a : Nat) : Fld := ⟨0x100708 + a * 0x1000, 31, 0⟩
abbrev AX_FB_SER.SEL (a : Nat) : Fld := ⟨0x10070c + a * 0x1000, 1, 0⟩
abbrev AX_FB_SER.SER_LEN (a : Nat) : Fld := ⟨0x10070c + a * 0x1000, 8, 2⟩
abbrev AX_FB_SER.SER_PBITS (a : Nat) : Fld := ⟨0x10070c + a * 0x1000, 14, 9⟩
abbrev AX_FB_SER.SER_CHK (a : Nat) : Fld := ⟨0x10070c + a * 0x1000, 16, 15⟩
abbrev AX_FB_SER.SER_PERIOD (a : Nat) : Fld := ⟨0x10070c + a * 0x1000, 26, 17⟩
abbrev AX_FB_SER.all (a : Nat) : Fld := ⟨0x10070c + a * 0x1000, 31, 0⟩
abbrev AX_FB_SPD_X.SPEED_X (a : Nat) : Fld := ⟨0x100710 + a * 0x1000, 25, 0⟩
abbrev AX_FB_SPD_X.all (a : Nat) : Fld := ⟨0x100710 + a * 0x1000, 31, 0⟩
abbrev AX_FB_SPD_CFG.SPEED_WIN (a : Nat) : Fld := ⟨0x100714 + a * 0x1000, 7, 0⟩
abbrev AX_FB_SPD_CFG.SPEED_TMO (a : Nat) : Fld := ⟨0x100714 + a * 0x1000, 15, 8⟩
abbrev AX_FB_SPD_CFG.all (a : Nat) : Fld := ⟨0x100714 + a * 0x1000, 31, 0⟩
abbrev AX_FB_CTRL.HOME_ARM (a : Nat) : Fld := ⟨0x100718 + a * 0x1000, 0, 0⟩
abbrev AX_FB_CTRL.HOME_CANCEL (a : Nat) : Fld := ⟨0x100718 + a * 0x1000, 1, 1⟩
abbrev AX_FB_CTRL.all (a : Nat) : Fld := ⟨0x100718 + a * 0x1000, 31, 0⟩
abbrev AX_FB_POS.POS (a : Nat) : Fld := ⟨0x100720 + a * 0x1000, 31, 0⟩
abbrev AX_FB_POS.all (a : Nat) : Fld := ⟨0x100720 + a * 0x1000, 31, 0⟩
abbrev AX_FB_REV.REV (a : Nat) : Fld := ⟨0x100724 + a * 0x1000, 15, 0⟩
abbrev AX_FB_REV.all (a : Nat) : Fld := ⟨0x100724 + a * 0x1000, 31, 0⟩
abbrev AX_FB_UNW_LO.UNW (a : Nat) : Fld := ⟨0x100728 + a * 0x1000, 31, 0⟩
abbrev AX_FB_UNW_LO.all (a : Nat) : Fld := ⟨0x100728 + a * 0x1000, 31, 0⟩
abbrev AX_FB_UNW_HI.UNW (a : Nat) : Fld := ⟨0x10072c + a * 0x1000, 31, 0⟩
abbrev AX_FB_UNW_HI.all (a : Nat) : Fld := ⟨0x10072c + a * 0x1000, 31, 0⟩
abbrev AX_FB_IDX_POS.IDX_POS (a : Nat) : Fld := ⟨0x100730 + a * 0x1000, 31, 0⟩
abbrev AX_FB_IDX_POS.all (a : Nat) : Fld := ⟨0x100730 + a * 0x1000, 31, 0⟩
abbrev AX_FB_IDX_CNT.IDX_CNT (a : Nat) : Fld := ⟨0x100734 + a * 0x1000, 31, 0⟩
abbrev AX_FB_IDX_CNT.all (a : Nat) : Fld := ⟨0x100734 + a * 0x1000, 31, 0⟩
abbrev AX_FB_SPEED.FB_SPEED (a : Nat) : Fld := ⟨0x100738 + a * 0x1000, 31, 0⟩
abbrev AX_FB_SPEED.all (a : Nat) : Fld := ⟨0x100738 + a * 0x1000, 31, 0⟩
abbrev AX_FB_STAT.FB_VALID (a : Nat) : Fld := ⟨0x10073c + a * 0x1000, 0, 0⟩
abbrev AX_FB_STAT.FB_LOST (a : Nat) : Fld := ⟨0x10073c + a * 0x1000, 1, 1⟩
abbrev AX_FB_STAT.QUAD_ERR (a : Nat) : Fld := ⟨0x10073c + a * 0x1000, 2, 2⟩
abbrev AX_FB_STAT.OVERRUN (a : Nat) : Fld := ⟨0x10073c + a * 0x1000, 3, 3⟩
abbrev AX_FB_STAT.LINE_ERR (a : Nat) : Fld := ⟨0x10073c + a * 0x1000, 4, 4⟩
abbrev AX_FB_STAT.HALL_INVALID (a : Nat) : Fld := ⟨0x10073c + a * 0x1000, 5, 5⟩
abbrev AX_FB_STAT.HALL_INV_ACT (a : Nat) : Fld := ⟨0x10073c + a * 0x1000, 6, 6⟩
abbrev AX_FB_STAT.HALL_SKIP (a : Nat) : Fld := ⟨0x10073c + a * 0x1000, 7, 7⟩
abbrev AX_FB_STAT.TOOTH_ERR (a : Nat) : Fld := ⟨0x10073c + a * 0x1000, 8, 8⟩
abbrev AX_FB_STAT.WHEEL_SYNC (a : Nat) : Fld := ⟨0x10073c + a * 0x1000, 9, 9⟩
abbrev AX_FB_STAT.SER_ERR (a : Nat) : Fld := ⟨0x10073c + a * 0x1000, 10, 10⟩
abbrev AX_FB_STAT.SER_ERR_ACT (a : Nat) : Fld := ⟨0x10073c + a * 0x1000, 11, 11⟩
abbrev AX_FB_STAT.DIR_CHG (a : Nat) : Fld := ⟨0x10073c + a * 0x1000, 12, 12⟩
abbrev AX_FB_STAT.SPEED_METH (a : Nat) : Fld := ⟨0x10073c + a * 0x1000, 13, 13⟩
abbrev AX_FB_STAT.IDX_EVT (a : Nat) : Fld := ⟨0x10073c + a * 0x1000, 14, 14⟩
abbrev AX_FB_STAT.HOME_ARMED (a : Nat) : Fld := ⟨0x10073c + a * 0x1000, 15, 15⟩
abbrev AX_FB_STAT.HOMED (a : Nat) : Fld := ⟨0x10073c + a * 0x1000, 16, 16⟩
abbrev AX_FB_STAT.DIR (a : Nat) : Fld := ⟨0x10073c + a * 0x1000, 17, 17⟩
abbrev AX_FB_STAT.STILL (a : Nat) : Fld := ⟨0x10073c + a * 0x1000, 18, 18⟩
abbrev AX_FB_STAT.all (a : Nat) : Fld := ⟨0x10073c + a * 0x1000, 31, 0⟩
abbrev MS_CUR_W1.VALUE (a : Nat) : Fld := ⟨0x300000 + a * 0x100, 15, 0⟩
abbrev MS_CUR_W1.TAG (a : Nat) : Fld := ⟨0x300000 + a * 0x100, 19, 16⟩
abbrev MS_CUR_W1.FRESH (a : Nat) : Fld := ⟨0x300000 + a * 0x100, 20, 20⟩
abbrev MS_CUR_W1.USABLE (a : Nat) : Fld := ⟨0x300000 + a * 0x100, 21, 21⟩
abbrev MS_CUR_W1.all (a : Nat) : Fld := ⟨0x300000 + a * 0x100, 31, 0⟩
abbrev MS_CUR_W2.VALUE (a : Nat) : Fld := ⟨0x300004 + a * 0x100, 15, 0⟩
abbrev MS_CUR_W2.TAG (a : Nat) : Fld := ⟨0x300004 + a * 0x100, 19, 16⟩
abbrev MS_CUR_W2.FRESH (a : Nat) : Fld := ⟨0x300004 + a * 0x100, 20, 20⟩
abbrev MS_CUR_W2.USABLE (a : Nat) : Fld := ⟨0x300004 + a * 0x100, 21, 21⟩
abbrev MS_CUR_W2.all (a : Nat) : Fld := ⟨0x300004 + a * 0x100, 31, 0⟩
abbrev MS_SN_W1P.VALUE (a : Nat) : Fld := ⟨0x300008 + a * 0x100, 13, 0⟩
abbrev MS_SN_W1P.TAG (a : Nat) : Fld := ⟨0x300008 + a * 0x100, 19, 16⟩
abbrev MS_SN_W1P.FRESH (a : Nat) : Fld := ⟨0x300008 + a * 0x100, 20, 20⟩
abbrev MS_SN_W1P.all (a : Nat) : Fld := ⟨0x300008 + a * 0x100, 31, 0⟩
abbrev MS_SN_W1N.VALUE (a : Nat) : Fld := ⟨0x30000c + a * 0x100, 13, 0⟩
abbrev MS_SN_W1N.TAG (a : Nat) : Fld := ⟨0x30000c + a * 0x100, 19, 16⟩
abbrev MS_SN_W1N.FRESH (a : Nat) : Fld := ⟨0x30000c + a * 0x100, 20, 20⟩
abbrev MS_SN_W1N.all (a : Nat) : Fld := ⟨0x30000c + a * 0x100, 31, 0⟩
abbrev MS_SN_W2P.VALUE (a : Nat) : Fld := ⟨0x300010 + a * 0x100, 13, 0⟩
abbrev MS_SN_W2P.TAG (a : Nat) : Fld := ⟨0x300010 + a * 0x100, 19, 16⟩
abbrev MS_SN_W2P.FRESH (a : Nat) : Fld := ⟨0x300010 + a * 0x100, 20, 20⟩
abbrev MS_SN_W2P.all (a : Nat) : Fld := ⟨0x300010 + a * 0x100, 31, 0⟩
abbrev MS_SN_W2N.VALUE (a : Nat) : Fld := ⟨0x300014 + a * 0x100, 13, 0⟩
abbrev MS_SN_W2N.TAG (a : Nat) : Fld := ⟨0x300014 + a * 0x100, 19, 16⟩
abbrev MS_SN_W2N.FRESH (a : Nat) : Fld := ⟨0x300014 + a * 0x100, 20, 20⟩
abbrev MS_SN_W2N.all (a : Nat) : Fld := ⟨0x300014 + a * 0x100, 31, 0⟩
abbrev MS_VM.VALUE (a : Nat) : Fld := ⟨0x300018 + a * 0x100, 13, 0⟩
abbrev MS_VM.TAG (a : Nat) : Fld := ⟨0x300018 + a * 0x100, 19, 16⟩
abbrev MS_VM.FRESH (a : Nat) : Fld := ⟨0x300018 + a * 0x100, 20, 20⟩
abbrev MS_VM.all (a : Nat) : Fld := ⟨0x300018 + a * 0x100, 31, 0⟩
abbrev MS_VSEQ.NODE_EN (a : Nat) : Fld := ⟨0x30001c + a * 0x100, 3, 0⟩
abbrev MS_VSEQ.all (a : Nat) : Fld := ⟨0x30001c + a * 0x100, 31, 0⟩
abbrev MS_OC_CFG.MAJ_EN (a : Nat) : Fld := ⟨0x300020 + a * 0x100, 0, 0⟩
abbrev MS_OC_CFG.MAJ_M (a : Nat) : Fld := ⟨0x300020 + a * 0x100, 2, 1⟩
abbrev MS_OC_CFG.MAJ_N (a : Nat) : Fld := ⟨0x300020 + a * 0x100, 6, 3⟩
abbrev MS_OC_CFG.MAJ_SI (a : Nat) : Fld := ⟨0x300020 + a * 0x100, 15, 8⟩
abbrev MS_OC_CFG.all (a : Nat) : Fld := ⟨0x300020 + a * 0x100, 31, 0⟩
abbrev MS_OC_STAT.OC_DAC_W1 (a : Nat) : Fld := ⟨0x300024 + a * 0x100, 9, 0⟩
abbrev MS_OC_STAT.OC_OUT_W1 (a : Nat) : Fld := ⟨0x300024 + a * 0x100, 10, 10⟩
abbrev MS_OC_STAT.OC_DAC_W2 (a : Nat) : Fld := ⟨0x300024 + a * 0x100, 25, 16⟩
abbrev MS_OC_STAT.OC_OUT_W2 (a : Nat) : Fld := ⟨0x300024 + a * 0x100, 26, 26⟩
abbrev MS_OC_STAT.all (a : Nat) : Fld := ⟨0x300024 + a * 0x100, 31, 0⟩
abbrev MS_AIN_CFG.EN : Fld := ⟨0x301000, 7, 0⟩
abbrev MS_AIN_CFG.all : Fld := ⟨0x301000, 31, 0⟩
abbrev MS_AIN.VALUE (n : Nat) : Fld := ⟨0x301010 + n * 0x4, 15, 0⟩
abbrev MS_AIN.TAG (n : Nat) : Fld := ⟨0x301010 + n * 0x4, 19, 16⟩
abbrev MS_AIN.FRESH (n : Nat) : Fld := ⟨0x301010 + n * 0x4, 20, 20⟩
abbrev MS_AIN.all (n : Nat) : Fld := ⟨0x301010 + n * 0x4, 31, 0⟩
abbrev MS_WM_THR.WM_LO (n : Nat) : Fld := ⟨0x301100 + n * 0x10, 9, 0⟩
abbrev MS_WM_THR.WM_HI (n : Nat) : Fld := ⟨0x301100 + n * 0x10, 25, 16⟩
abbrev MS_WM_THR.all (n : Nat) : Fld := ⟨0x301100 + n * 0x10, 31, 0⟩
abbrev MS_WM_CFG.MAJ_EN (n : Nat) : Fld := ⟨0x301104 + n * 0x10, 0, 0⟩
abbrev MS_WM_CFG.MAJ_M (n : Nat) : Fld := ⟨0x301104 + n * 0x10, 2, 1⟩
abbrev MS_WM_CFG.MAJ_N (n : Nat) : Fld := ⟨0x301104 + n * 0x10, 6, 3⟩
abbrev MS_WM_CFG.MAJ_SI (n : Nat) : Fld := ⟨0x301104 + n * 0x10, 15, 8⟩
abbrev MS_WM_CFG.HYST (n : Nat) : Fld := ⟨0x301104 + n * 0x10, 21, 16⟩
abbrev MS_WM_CFG.WM_EN (n : Nat) : Fld := ⟨0x301104 + n * 0x10, 24, 24⟩
abbrev MS_WM_CFG.all (n : Nat) : Fld := ⟨0x301104 + n * 0x10, 31, 0⟩
abbrev MS_WM_STAT.BELOW (n : Nat) : Fld := ⟨0x301108 + n * 0x10, 0, 0⟩
abbrev MS_WM_STAT.ABOVE (n : Nat) : Fld := ⟨0x301108 + n * 0x10, 1, 1⟩
abbrev MS_WM_STAT.UNSETTLED (n : Nat) : Fld := ⟨0x301108 + n * 0x10, 2, 2⟩
abbrev MS_WM_STAT.BELOW_EVT (n : Nat) : Fld := ⟨0x301108 + n * 0x10, 3, 3⟩
abbrev MS_WM_STAT.ABOVE_EVT (n : Nat) : Fld := ⟨0x301108 + n * 0x10, 4, 4⟩
abbrev MS_WM_STAT.all (n : Nat) : Fld := ⟨0x301108 + n * 0x10, 31, 0⟩
abbrev MS_VMWM_CFG.MAJ_EN (n : Nat) : Fld := ⟨0x301200 + n * 0x4, 0, 0⟩
abbrev MS_VMWM_CFG.MAJ_M (n : Nat) : Fld := ⟨0x301200 + n * 0x4, 2, 1⟩
abbrev MS_VMWM_CFG.MAJ_N (n : Nat) : Fld := ⟨0x301200 + n * 0x4, 6, 3⟩
abbrev MS_VMWM_CFG.MAJ_SI (n : Nat) : Fld := ⟨0x301200 + n * 0x4, 15, 8⟩
abbrev MS_VMWM_CFG.all (n : Nat) : Fld := ⟨0x301200 + n * 0x4, 31, 0⟩
abbrev MS_TEMP.VALUE (n : Nat) : Fld := ⟨0x301300 + n * 0x4, 15, 0⟩
abbrev MS_TEMP.TAG (n : Nat) : Fld := ⟨0x301300 + n * 0x4, 19, 16⟩
abbrev MS_TEMP.FRESH (n : Nat) : Fld := ⟨0x301300 + n * 0x4, 20, 20⟩
abbrev MS_TEMP.all (n : Nat) : Fld := ⟨0x301300 + n * 0x4, 31, 0⟩
abbrev MS_TEMP_CFG.TWARN : Fld := ⟨0x301320, 7, 0⟩
abbrev MS_TEMP_CFG.all : Fld := ⟨0x301320, 31, 0⟩
abbrev MS_TEMP_STAT.TEMP_WARN : Fld := ⟨0x301324, 5, 0⟩
abbrev MS_TEMP_STAT.TEMP_EVT : Fld := ⟨0x301324, 13, 8⟩
abbrev MS_TEMP_STAT.all : Fld := ⟨0x301324, 31, 0⟩
abbrev HP_CFG.ROLE : Fld := ⟨0x10000, 0, 0⟩
abbrev HP_CFG.CPOL : Fld := ⟨0x10000, 1, 1⟩
abbrev HP_CFG.LATE_SAMPLE : Fld := ⟨0x10000, 2, 2⟩
abbrev HP_CFG.DIV : Fld := ⟨0x10000, 15, 8⟩
abbrev HP_CFG.all : Fld := ⟨0x10000, 31, 0⟩
abbrev HP_DLY.T_LEAD : Fld := ⟨0x10004, 9, 0⟩
abbrev HP_DLY.T_LAG : Fld := ⟨0x10004, 19, 10⟩
abbrev HP_DLY.T_IDLE : Fld := ⟨0x10004, 29, 20⟩
abbrev HP_DLY.all : Fld := ⟨0x10004, 31, 0⟩
abbrev HP_POLL.POLL : Fld := ⟨0x10008, 15, 0⟩
abbrev HP_POLL.all : Fld := ⟨0x10008, 31, 0⟩
abbrev HP_STAT.ALIVE_EXP : Fld := ⟨0x1000c, 3, 0⟩
abbrev HP_STAT.ALIVE_VALID : Fld := ⟨0x1000c, 4, 4⟩
abbrev HP_STAT.MODE3 : Fld := ⟨0x1000c, 5, 5⟩
abbrev HP_STAT.all : Fld := ⟨0x1000c, 31, 0⟩
abbrev HP_CNT0.FRAMES_OK : Fld := ⟨0x10010, 15, 0⟩
abbrev HP_CNT0.FRAMES_BAD : Fld := ⟨0x10010, 31, 16⟩
abbrev HP_CNT0.all : Fld := ⟨0x10010, 31, 0⟩
abbrev HP_CNT1.DUP_CNT : Fld := ⟨0x10014, 7, 0⟩
abbrev HP_CNT1.GAP_CNT : Fld := ⟨0x10014, 15, 8⟩
abbrev HP_CNT1.RTRUNC_CNT : Fld := ⟨0x10014, 23, 16⟩
abbrev HP_CNT1.EARLY_CNT : Fld := ⟨0x10014, 31, 24⟩
abbrev HP_CNT1.all : Fld := ⟨0x10014, 31, 0⟩
abbrev HP_ATTN.TB_DEG : Fld := ⟨0x10018, 0, 0⟩
abbrev HP_ATTN.CAL_FAIL : Fld := ⟨0x10018, 1, 1⟩
abbrev HP_ATTN.LATE_ANY : Fld := ⟨0x10018, 2, 2⟩
abbrev HP_ATTN.OPT_BAD : Fld := ⟨0x10018, 3, 3⟩
abbrev HP_ATTN.ROLE_CONFLICT : Fld := ⟨0x10018, 4, 4⟩
abbrev HP_ATTN.all : Fld := ⟨0x10018, 31, 0⟩
abbrev AUX_CFG.ROLE : Fld := ⟨0x10100, 0, 0⟩
abbrev AUX_CFG.all : Fld := ⟨0x10100, 31, 0⟩
abbrev AUX_STAT.TXQ_USED : Fld := ⟨0x10104, 2, 0⟩
abbrev AUX_STAT.BUSY : Fld := ⟨0x10104, 3, 3⟩
abbrev AUX_STAT.CUR_SEL : Fld := ⟨0x10104, 5, 4⟩
abbrev AUX_STAT.TXQ_FULL : Fld := ⟨0x10104, 6, 6⟩
abbrev AUX_STAT.all : Fld := ⟨0x10104, 31, 0⟩
abbrev AUX_SEL_CFG.CPOL (n : Nat) : Fld := ⟨0x10110 + n * 0x8, 0, 0⟩
abbrev AUX_SEL_CFG.LATE_SAMPLE (n : Nat) : Fld := ⟨0x10110 + n * 0x8, 1, 1⟩
abbrev AUX_SEL_CFG.DIV (n : Nat) : Fld := ⟨0x10110 + n * 0x8, 15, 8⟩
abbrev AUX_SEL_CFG.all (n : Nat) : Fld := ⟨0x10110 + n * 0x8, 31, 0⟩
abbrev AUX_SEL_DLY.T_LEAD (n : Nat) : Fld := ⟨0x10114 + n * 0x8, 9, 0⟩
abbrev AUX_SEL_DLY.T_LAG (n : Nat) : Fld := ⟨0x10114 + n * 0x8, 19, 10⟩
abbrev AUX_SEL_DLY.T_IDLE (n : Nat) : Fld := ⟨0x10114 + n * 0x8, 29, 20⟩
abbrev AUX_SEL_DLY.all (n : Nat) : Fld := ⟨0x10114 + n * 0x8, 31, 0⟩
abbrev AUX_PSTAT.ALIVE_EXP : Fld := ⟨0x10140, 3, 0⟩
abbrev AUX_PSTAT.ALIVE_VALID : Fld := ⟨0x10140, 4, 4⟩
abbrev AUX_PSTAT.MODE3 : Fld := ⟨0x10140, 5, 5⟩
abbrev AUX_PSTAT.all : Fld := ⟨0x10140, 31, 0⟩
abbrev AUX_PCNT0.FRAMES_OK : Fld := ⟨0x10144, 15, 0⟩
abbrev AUX_PCNT0.FRAMES_BAD : Fld := ⟨0x10144, 31, 16⟩
abbrev AUX_PCNT0.all : Fld := ⟨0x10144, 31, 0⟩
abbrev AUX_PCNT1.DUP_CNT : Fld := ⟨0x10148, 7, 0⟩
abbrev AUX_PCNT1.GAP_CNT : Fld := ⟨0x10148, 15, 8⟩
abbrev AUX_PCNT1.RTRUNC_CNT : Fld := ⟨0x10148, 23, 16⟩
abbrev AUX_PCNT1.EARLY_CNT : Fld := ⟨0x10148, 31, 24⟩
abbrev AUX_PCNT1.all : Fld := ⟨0x10148, 31, 0⟩
abbrev CMD_STAT.RESTART_SEQ : Fld := ⟨0x400, 15, 0⟩
abbrev CMD_STAT.RESTART_VALID : Fld := ⟨0x400, 16, 16⟩
abbrev CMD_STAT.L3_CNT : Fld := ⟨0x400, 31, 24⟩
abbrev CMD_STAT.all : Fld := ⟨0x400, 31, 0⟩
abbrev CMD_LOG.NEWEST_SEQ : Fld := ⟨0x404, 15, 0⟩
abbrev CMD_LOG.LOG_USED : Fld := ⟨0x404, 22, 16⟩
abbrev CMD_LOG.all : Fld := ⟨0x404, 31, 0⟩
abbrev CMD_REFUSE.REFUSE_CNT : Fld := ⟨0x408, 15, 0⟩
abbrev CMD_REFUSE.LAST_CODE : Fld := ⟨0x408, 23, 16⟩
abbrev CMD_REFUSE.all : Fld := ⟨0x408, 31, 0⟩
abbrev CMD_TICKET.NEXT_TICKET : Fld := ⟨0x40c, 7, 0⟩
abbrev CMD_TICKET.RES_PENDING : Fld := ⟨0x40c, 11, 8⟩
abbrev CMD_TICKET.all : Fld := ⟨0x40c, 31, 0⟩
abbrev CMD_ROUTE.ROUTED_CNT : Fld := ⟨0x410, 15, 0⟩
abbrev CMD_ROUTE.RET_LOST : Fld := ⟨0x410, 23, 16⟩
abbrev CMD_ROUTE.RET_USED : Fld := ⟨0x410, 28, 24⟩
abbrev CMD_ROUTE.all : Fld := ⟨0x410, 31, 0⟩
abbrev SYS_ID.PART : Fld := ⟨0x0, 15, 0⟩
abbrev SYS_ID.DIE_REV : Fld := ⟨0x0, 23, 16⟩
abbrev SYS_ID.all : Fld := ⟨0x0, 31, 0⟩
abbrev SYS_IDCODE.IDCODE : Fld := ⟨0x4, 31, 0⟩
abbrev SYS_IDCODE.all : Fld := ⟨0x4, 31, 0⟩
abbrev SYS_UNLOCK.KEY : Fld := ⟨0x8, 15, 0⟩
abbrev SYS_UNLOCK.all : Fld := ⟨0x8, 31, 0⟩
abbrev SYS_ACC_STAT.ADDR_END : Fld := ⟨0xc, 0, 0⟩
abbrev SYS_ACC_STAT.LOCK_REJ : Fld := ⟨0xc, 1, 1⟩
abbrev SYS_ACC_STAT.UNLOCK_LAPSED : Fld := ⟨0xc, 2, 2⟩
abbrev SYS_ACC_STAT.ACC_BAD : Fld := ⟨0xc, 3, 3⟩
abbrev SYS_ACC_STAT.LOCK_CNT : Fld := ⟨0xc, 23, 16⟩
abbrev SYS_ACC_STAT.all : Fld := ⟨0xc, 31, 0⟩
abbrev SYS_SCRATCH.SCRATCH : Fld := ⟨0x10, 31, 0⟩
abbrev SYS_SCRATCH.all : Fld := ⟨0x10, 31, 0⟩
abbrev LK_CFG.HEADCOUNT : Fld := ⟨0x380000, 0, 0⟩
abbrev LK_CFG.OVER_Q : Fld := ⟨0x380000, 7, 4⟩
abbrev LK_CFG.OVER_W : Fld := ⟨0x380000, 15, 8⟩
abbrev LK_CFG.SCRUB_EN : Fld := ⟨0x380000, 16, 16⟩
abbrev LK_CFG.SCRUB_INT : Fld := ⟨0x380000, 31, 24⟩
abbrev LK_CFG.all : Fld := ⟨0x380000, 31, 0⟩
abbrev LK_ARB_CTRL.DEADBALL : Fld := ⟨0x380004, 0, 0⟩
abbrev LK_ARB_CTRL.all : Fld := ⟨0x380004, 31, 0⟩
abbrev LK_ARB_STAT.DRAINED : Fld := ⟨0x380008, 0, 0⟩
abbrev LK_ARB_STAT.BANK_BUSY : Fld := ⟨0x380008, 15, 8⟩
abbrev LK_ARB_STAT.READ_BUSY : Fld := ⟨0x380008, 31, 16⟩
abbrev LK_ARB_STAT.all : Fld := ⟨0x380008, 31, 0⟩
abbrev LK_WAIT_MAX.WAIT_MAX (n : Nat) : Fld := ⟨0x380020 + n * 0x4, 15, 0⟩
abbrev LK_WAIT_MAX.QMASK_CNT (n : Nat) : Fld := ⟨0x380020 + n * 0x4, 23, 16⟩
abbrev LK_WAIT_MAX.all (n : Nat) : Fld := ⟨0x380020 + n * 0x4, 31, 0⟩
abbrev LK_PART_REC.BASE : Fld := ⟨0x380040, 5, 0⟩
abbrev LK_PART_REC.SIZE : Fld := ⟨0x380040, 13, 8⟩
abbrev LK_PART_REC.all : Fld := ⟨0x380040, 31, 0⟩
abbrev LK_PART_CAM.BASE : Fld := ⟨0x380044, 5, 0⟩
abbrev LK_PART_CAM.SIZE : Fld := ⟨0x380044, 13, 8⟩
abbrev LK_PART_CAM.all : Fld := ⟨0x380044, 31, 0⟩
abbrev LK_PART_TRC.BASE : Fld := ⟨0x380048, 5, 0⟩
abbrev LK_PART_TRC.SIZE : Fld := ⟨0x380048, 13, 8⟩
abbrev LK_PART_TRC.all : Fld := ⟨0x380048, 31, 0⟩
abbrev LK_PART_CTRL.APPLY : Fld := ⟨0x38004c, 0, 0⟩
abbrev LK_PART_CTRL.all : Fld := ⟨0x38004c, 31, 0⟩
abbrev LK_PART_STAT.INIT_BUSY : Fld := ⟨0x380050, 0, 0⟩
abbrev LK_PART_STAT.PART_REJ : Fld := ⟨0x380050, 1, 1⟩
abbrev LK_PART_STAT.INIT_LEFT : Fld := ⟨0x380050, 13, 8⟩
abbrev LK_PART_STAT.all : Fld := ⟨0x380050, 31, 0⟩
abbrev LK_ECC_CNT.CE_CNT : Fld := ⟨0x380060, 15, 0⟩
abbrev LK_ECC_CNT.UE_CNT : Fld := ⟨0x380060, 31, 16⟩
abbrev LK_ECC_CNT.all : Fld := ⟨0x380060, 31, 0⟩
abbrev LK_ECC_CNT2.STALE_CNT : Fld := ⟨0x380064, 15, 0⟩
abbrev LK_ECC_CNT2.WR_FAIL : Fld := ⟨0x380064, 23, 16⟩
abbrev LK_ECC_CNT2.all : Fld := ⟨0x380064, 31, 0⟩
abbrev LK_ERR_ADDR.ADDR : Fld := ⟨0x380068, 25, 0⟩
abbrev LK_ERR_ADDR.REQ : Fld := ⟨0x380068, 30, 26⟩
abbrev LK_ERR_ADDR.KIND : Fld := ⟨0x380068, 31, 31⟩
abbrev LK_ERR_ADDR.all : Fld := ⟨0x380068, 31, 0⟩
abbrev LK_SCRUB.LINE : Fld := ⟨0x38006c, 20, 0⟩
abbrev LK_SCRUB.PASSES : Fld := ⟨0x38006c, 31, 24⟩
abbrev LK_SCRUB.all : Fld := ⟨0x38006c, 31, 0⟩
abbrev LK_TRC_CFG.TRC_EN : Fld := ⟨0x380070, 0, 0⟩
abbrev LK_TRC_CFG.TRC_STOP : Fld := ⟨0x380070, 1, 1⟩
abbrev LK_TRC_CFG.all : Fld := ⟨0x380070, 31, 0⟩
abbrev LK_TRC_HEAD.TRC_HEAD : Fld := ⟨0x380074, 23, 0⟩
abbrev LK_TRC_HEAD.all : Fld := ⟨0x380074, 31, 0⟩
abbrev LK_TRC_STAT.TRC_FULL : Fld := ⟨0x380078, 0, 0⟩
abbrev LK_TRC_STAT.TRC_WRAPPED : Fld := ⟨0x380078, 1, 1⟩
abbrev LK_TRC_STAT.TRC_DROP : Fld := ⟨0x380078, 31, 16⟩
abbrev LK_TRC_STAT.all : Fld := ⟨0x380078, 31, 0⟩
abbrev LK_RCP_STAT.ARMED_SLOT : Fld := ⟨0x380080, 7, 0⟩
abbrev LK_RCP_STAT.ARMED : Fld := ⟨0x380080, 8, 8⟩
abbrev LK_RCP_STAT.APPLY_SCHED : Fld := ⟨0x380080, 9, 9⟩
abbrev LK_RCP_STAT.REJ : Fld := ⟨0x380080, 10, 10⟩
abbrev LK_RCP_STAT.REJ_CAUSE : Fld := ⟨0x380080, 15, 12⟩
abbrev LK_RCP_STAT.ACTIVE_SLOT : Fld := ⟨0x380080, 23, 16⟩
abbrev LK_RCP_STAT.ACTIVE_VALID : Fld := ⟨0x380080, 24, 24⟩
abbrev LK_RCP_STAT.all : Fld := ⟨0x380080, 31, 0⟩
abbrev LK_RCP_VER.ACTIVE_VERSION : Fld := ⟨0x380084, 31, 0⟩
abbrev LK_RCP_VER.all : Fld := ⟨0x380084, 31, 0⟩
abbrev LK_GEN.GEN (n : Nat) : Fld := ⟨0x380100 + n * 0x4, 10, 0⟩
abbrev LK_GEN.INIT_PEND (n : Nat) : Fld := ⟨0x380100 + n * 0x4, 16, 16⟩
abbrev LK_GEN.all (n : Nat) : Fld := ⟨0x380100 + n * 0x4, 31, 0⟩
abbrev CV_CFG.STACK_ROLE : Fld := ⟨0x3c0000, 1, 0⟩
abbrev CV_CFG.LOSS_TMO : Fld := ⟨0x3c0000, 8, 2⟩
abbrev CV_CFG.RST_PROPAGATE : Fld := ⟨0x3c0000, 9, 9⟩
abbrev CV_CFG.DN_EN : Fld := ⟨0x3c0000, 10, 10⟩
abbrev CV_CFG.all : Fld := ⟨0x3c0000, 31, 0⟩
abbrev CV_STAT.ROLE : Fld := ⟨0x3c0004, 1, 0⟩
abbrev CV_STAT.DEV_ID : Fld := ⟨0x3c0004, 5, 2⟩
abbrev CV_STAT.STACK_N : Fld := ⟨0x3c0004, 10, 6⟩
abbrev CV_STAT.ROLE_CONFLICT : Fld := ⟨0x3c0004, 11, 11⟩
abbrev CV_STAT.STACK_OVERFLOW : Fld := ⟨0x3c0004, 12, 12⟩
abbrev CV_STAT.ID_MISMATCH : Fld := ⟨0x3c0004, 13, 13⟩
abbrev CV_STAT.CAPT_LOST : Fld := ⟨0x3c0004, 14, 14⟩
abbrev CV_STAT.CAPT_LOST_EVT : Fld := ⟨0x3c0004, 15, 15⟩
abbrev CV_STAT.TIME_LOCK : Fld := ⟨0x3c0004, 16, 16⟩
abbrev CV_STAT.TIME_SLEW : Fld := ⟨0x3c0004, 17, 17⟩
abbrev CV_STAT.TIME_FAR : Fld := ⟨0x3c0004, 18, 18⟩
abbrev CV_STAT.SQUAD_LOST : Fld := ⟨0x3c0004, 19, 19⟩
abbrev CV_STAT.all : Fld := ⟨0x3c0004, 31, 0⟩
abbrev CV_TIME.UP_DELAY : Fld := ⟨0x3c0008, 15, 0⟩
abbrev CV_TIME.TIME_ERR : Fld := ⟨0x3c0008, 31, 16⟩
abbrev CV_TIME.all : Fld := ⟨0x3c0008, 31, 0⟩
abbrev CV_UP_STAT.LINK_UP : Fld := ⟨0x3c0010, 0, 0⟩
abbrev CV_UP_STAT.PARTNER : Fld := ⟨0x3c0010, 1, 1⟩
abbrev CV_UP_STAT.TRAIN_FAIL : Fld := ⟨0x3c0010, 2, 2⟩
abbrev CV_UP_STAT.LINK_DROP : Fld := ⟨0x3c0010, 3, 3⟩
abbrev CV_UP_STAT.RETRAIN_CNT : Fld := ⟨0x3c0010, 15, 8⟩
abbrev CV_UP_STAT.all : Fld := ⟨0x3c0010, 31, 0⟩
abbrev CV_UP_CNT.CRC_ERR : Fld := ⟨0x3c0014, 15, 0⟩
abbrev CV_UP_CNT.REPLAY_CNT : Fld := ⟨0x3c0014, 31, 16⟩
abbrev CV_UP_CNT.all : Fld := ⟨0x3c0014, 31, 0⟩
abbrev CV_DN_STAT.LINK_UP : Fld := ⟨0x3c0018, 0, 0⟩
abbrev CV_DN_STAT.PARTNER : Fld := ⟨0x3c0018, 1, 1⟩
abbrev CV_DN_STAT.TRAIN_FAIL : Fld := ⟨0x3c0018, 2, 2⟩
abbrev CV_DN_STAT.LINK_DROP : Fld := ⟨0x3c0018, 3, 3⟩
abbrev CV_DN_STAT.RETRAIN_CNT : Fld := ⟨0x3c0018, 15, 8⟩
abbrev CV_DN_STAT.all : Fld := ⟨0x3c0018, 31, 0⟩
abbrev CV_DN_CNT.CRC_ERR : Fld := ⟨0x3c001c, 15, 0⟩
abbrev CV_DN_CNT.REPLAY_CNT : Fld := ⟨0x3c001c, 31, 16⟩
abbrev CV_DN_CNT.all : Fld := ⟨0x3c001c, 31, 0⟩
abbrev CV_CTRL.BARRIER : Fld := ⟨0x3c0020, 0, 0⟩
abbrev CV_CTRL.GATHER : Fld := ⟨0x3c0020, 1, 1⟩
abbrev CV_CTRL.all : Fld := ⟨0x3c0020, 31, 0⟩
abbrev CV_OPS.BAR_BUSY : Fld := ⟨0x3c0024, 0, 0⟩
abbrev CV_OPS.BAR_DONE : Fld := ⟨0x3c0024, 1, 1⟩
abbrev CV_OPS.BAR_FAIL : Fld := ⟨0x3c0024, 2, 2⟩
abbrev CV_OPS.GATHER_BUSY : Fld := ⟨0x3c0024, 3, 3⟩
abbrev CV_OPS.GATHER_DONE : Fld := ⟨0x3c0024, 4, 4⟩
abbrev CV_OPS.WH_LATE : Fld := ⟨0x3c0024, 5, 5⟩
abbrev CV_OPS.WH_PEND : Fld := ⟨0x3c0024, 10, 8⟩
abbrev CV_OPS.BAR_TIME : Fld := ⟨0x3c0024, 31, 16⟩
abbrev CV_OPS.all : Fld := ⟨0x3c0024, 31, 0⟩
abbrev CV_STK_RST.KEY : Fld := ⟨0x3c0028, 15, 0⟩
abbrev CV_STK_RST.LEVEL : Fld := ⟨0x3c0028, 17, 16⟩
abbrev CV_STK_RST.all : Fld := ⟨0x3c0028, 31, 0⟩
abbrev WH_CFG.PIN_IN_EN : Fld := ⟨0x3e0000, 0, 0⟩
abbrev WH_CFG.TRC_STREAM : Fld := ⟨0x3e0000, 1, 1⟩
abbrev WH_CFG.FREEZE : Fld := ⟨0x3e0000, 2, 2⟩
abbrev WH_CFG.WH_FILT : Fld := ⟨0x3e0000, 15, 8⟩
abbrev WH_CFG.WH_HOLDOFF : Fld := ⟨0x3e0000, 23, 16⟩
abbrev WH_CFG.WH_PULSE : Fld := ⟨0x3e0000, 31, 24⟩
abbrev WH_CFG.all : Fld := ⟨0x3e0000, 31, 0⟩
abbrev WH_DRIVE.DRV : Fld := ⟨0x3e0004, 5, 0⟩
abbrev WH_DRIVE.all : Fld := ⟨0x3e0004, 31, 0⟩
abbrev WH_AX_SEL.FLT : Fld := ⟨0x3e0008, 15, 0⟩
abbrev WH_AX_SEL.STL : Fld := ⟨0x3e0008, 31, 16⟩
abbrev WH_AX_SEL.all : Fld := ⟨0x3e0008, 31, 0⟩
abbrev WH_MON_SEL.AIN : Fld := ⟨0x3e000c, 7, 0⟩
abbrev WH_MON_SEL.VMOV : Fld := ⟨0x3e000c, 11, 8⟩
abbrev WH_MON_SEL.VMUV : Fld := ⟨0x3e000c, 15, 12⟩
abbrev WH_MON_SEL.all : Fld := ⟨0x3e000c, 31, 0⟩
abbrev WH_STAT.LATCH_NO : Fld := ⟨0x3e0010, 15, 0⟩
abbrev WH_STAT.LAST_SRC : Fld := ⟨0x3e0010, 23, 16⟩
abbrev WH_STAT.WH_EVT : Fld := ⟨0x3e0010, 24, 24⟩
abbrev WH_STAT.PIN_LEVEL : Fld := ⟨0x3e0010, 25, 25⟩
abbrev WH_STAT.DRIVING : Fld := ⟨0x3e0010, 26, 26⟩
abbrev WH_STAT.all : Fld := ⟨0x3e0010, 31, 0⟩
abbrev WH_CNT.WH_MISSED : Fld := ⟨0x3e0014, 15, 0⟩
abbrev WH_CNT.LATCH_CNT : Fld := ⟨0x3e0014, 31, 16⟩
abbrev WH_CNT.all : Fld := ⟨0x3e0014, 31, 0⟩
abbrev WH_LOST.POS_UNKNOWN : Fld := ⟨0x3e0018, 15, 0⟩
abbrev WH_LOST.QLOSS_EVT : Fld := ⟨0x3e0018, 19, 16⟩
abbrev WH_LOST.all : Fld := ⟨0x3e0018, 31, 0⟩
abbrev BK_CFG.AXIS_EN (a : Nat) : Fld := ⟨0x3f0000 + a * 0x40, 0, 0⟩
abbrev BK_CFG.TRAVEL_EN (a : Nat) : Fld := ⟨0x3f0000 + a * 0x40, 1, 1⟩
abbrev BK_CFG.OC_FS (a : Nat) : Fld := ⟨0x3f0000 + a * 0x40, 2, 2⟩
abbrev BK_CFG.VIOL_SAFE (a : Nat) : Fld := ⟨0x3f0000 + a * 0x40, 3, 3⟩
abbrev BK_CFG.JUMP_ALLOW (a : Nat) : Fld := ⟨0x3f0000 + a * 0x40, 15, 8⟩
abbrev BK_CFG.DUTY_MAX (a : Nat) : Fld := ⟨0x3f0000 + a * 0x40, 26, 16⟩
abbrev BK_CFG.all (a : Nat) : Fld := ⟨0x3f0000 + a * 0x40, 31, 0⟩
abbrev BK_OC.OC_CODE (a : Nat) : Fld := ⟨0x3f0004 + a * 0x40, 9, 0⟩
abbrev BK_OC.all (a : Nat) : Fld := ⟨0x3f0004 + a * 0x40, 31, 0⟩
abbrev BK_VMAX.VMAX (a : Nat) : Fld := ⟨0x3f0008 + a * 0x40, 31, 0⟩
abbrev BK_VMAX.all (a : Nat) : Fld := ⟨0x3f0008 + a * 0x40, 31, 0⟩
abbrev BK_AMAX.AMAX (a : Nat) : Fld := ⟨0x3f000c + a * 0x40, 31, 0⟩
abbrev BK_AMAX.all (a : Nat) : Fld := ⟨0x3f000c + a * 0x40, 31, 0⟩
abbrev BK_PMIN_LO.PMIN (a : Nat) : Fld := ⟨0x3f0010 + a * 0x40, 31, 0⟩
abbrev BK_PMIN_LO.all (a : Nat) : Fld := ⟨0x3f0010 + a * 0x40, 31, 0⟩
abbrev BK_PMIN_HI.PMIN (a : Nat) : Fld := ⟨0x3f0014 + a * 0x40, 31, 0⟩
abbrev BK_PMIN_HI.all (a : Nat) : Fld := ⟨0x3f0014 + a * 0x40, 31, 0⟩
abbrev BK_PMAX_LO.PMAX (a : Nat) : Fld := ⟨0x3f0018 + a * 0x40, 31, 0⟩
abbrev BK_PMAX_LO.all (a : Nat) : Fld := ⟨0x3f0018 + a * 0x40, 31, 0⟩
abbrev BK_PMAX_HI.PMAX (a : Nat) : Fld := ⟨0x3f001c + a * 0x40, 31, 0⟩
abbrev BK_PMAX_HI.all (a : Nat) : Fld := ⟨0x3f001c + a * 0x40, 31, 0⟩
abbrev BK_STAT.VIOL_RATE (a : Nat) : Fld := ⟨0x3f0020 + a * 0x40, 0, 0⟩
abbrev BK_STAT.VIOL_ACC (a : Nat) : Fld := ⟨0x3f0020 + a * 0x40, 1, 1⟩
abbrev BK_STAT.VIOL_TRAVEL (a : Nat) : Fld := ⟨0x3f0020 + a * 0x40, 2, 2⟩
abbrev BK_STAT.VIOL_OC (a : Nat) : Fld := ⟨0x3f0020 + a * 0x40, 3, 3⟩
abbrev BK_STAT.EN_LOSS (a : Nat) : Fld := ⟨0x3f0020 + a * 0x40, 4, 4⟩
abbrev BK_STAT.FS_MISMATCH (a : Nat) : Fld := ⟨0x3f0020 + a * 0x40, 8, 8⟩
abbrev BK_STAT.WIN_BAD (a : Nat) : Fld := ⟨0x3f0020 + a * 0x40, 9, 9⟩
abbrev BK_STAT.EN_PRESENT (a : Nat) : Fld := ⟨0x3f0020 + a * 0x40, 10, 10⟩
abbrev BK_STAT.all (a : Nat) : Fld := ⟨0x3f0020 + a * 0x40, 31, 0⟩
abbrev BK_CNT.RATE (a : Nat) : Fld := ⟨0x3f0024 + a * 0x40, 7, 0⟩
abbrev BK_CNT.ACC (a : Nat) : Fld := ⟨0x3f0024 + a * 0x40, 15, 8⟩
abbrev BK_CNT.TRAVEL (a : Nat) : Fld := ⟨0x3f0024 + a * 0x40, 23, 16⟩
abbrev BK_CNT.OC (a : Nat) : Fld := ⟨0x3f0024 + a * 0x40, 31, 24⟩
abbrev BK_CNT.all (a : Nat) : Fld := ⟨0x3f0024 + a * 0x40, 31, 0⟩
abbrev BK_DEV_STAT.STO_A : Fld := ⟨0x3f0400, 0, 0⟩
abbrev BK_DEV_STAT.STO_B : Fld := ⟨0x3f0400, 1, 1⟩
abbrev BK_DEV_STAT.STO_DISC : Fld := ⟨0x3f0400, 2, 2⟩
abbrev BK_DEV_STAT.STO_EVT : Fld := ⟨0x3f0400, 3, 3⟩
abbrev BK_DEV_STAT.BK_BAD : Fld := ⟨0x3f0400, 4, 4⟩
abbrev BK_DEV_STAT.STORE_BUSY : Fld := ⟨0x3f0400, 5, 5⟩
abbrev BK_DEV_STAT.STORE_DONE : Fld := ⟨0x3f0400, 6, 6⟩
abbrev BK_DEV_STAT.STORE_FAIL : Fld := ⟨0x3f0400, 7, 7⟩
abbrev BK_DEV_STAT.BK_VERSION : Fld := ⟨0x3f0400, 31, 16⟩
abbrev BK_DEV_STAT.all : Fld := ⟨0x3f0400, 31, 0⟩
abbrev BK_DEV_CTRL.STORE : Fld := ⟨0x3f0404, 0, 0⟩
abbrev BK_DEV_CTRL.all : Fld := ⟨0x3f0404, 31, 0⟩
abbrev BK_STO_CFG.STO_FILT : Fld := ⟨0x3f0408, 6, 0⟩
abbrev BK_STO_CFG.STO_DISC_T : Fld := ⟨0x3f0408, 14, 8⟩
abbrev BK_STO_CFG.all : Fld := ⟨0x3f0408, 31, 0⟩
abbrev SEC_STAT.LIFECYCLE : Fld := ⟨0x3f8000, 1, 0⟩
abbrev SEC_STAT.SESS_HP : Fld := ⟨0x3f8000, 2, 2⟩
abbrev SEC_STAT.ROLE_HP : Fld := ⟨0x3f8000, 4, 3⟩
abbrev SEC_STAT.SESS_AUX : Fld := ⟨0x3f8000, 5, 5⟩
abbrev SEC_STAT.ROLE_AUX : Fld := ⟨0x3f8000, 7, 6⟩
abbrev SEC_STAT.TRNG_FAIL : Fld := ⟨0x3f8000, 8, 8⟩
abbrev SEC_STAT.LOCKOUT : Fld := ⟨0x3f8000, 9, 9⟩
abbrev SEC_STAT.KEY_BAD : Fld := ⟨0x3f8000, 10, 10⟩
abbrev SEC_STAT.PATCH_BAD : Fld := ⟨0x3f8000, 11, 11⟩
abbrev SEC_STAT.AUTH_FAIL_CNT : Fld := ⟨0x3f8000, 31, 24⟩
abbrev SEC_STAT.all : Fld := ⟨0x3f8000, 31, 0⟩
abbrev SEC_CFG.C1_OPEN_HP : Fld := ⟨0x3f8004, 0, 0⟩
abbrev SEC_CFG.SESS_TMO : Fld := ⟨0x3f8004, 15, 8⟩
abbrev SEC_CFG.MAC_FAIL_MAX : Fld := ⟨0x3f8004, 20, 16⟩
abbrev SEC_CFG.AUTH_FAIL_MAX : Fld := ⟨0x3f8004, 27, 24⟩
abbrev SEC_CFG.all : Fld := ⟨0x3f8004, 31, 0⟩
abbrev SEC_KEYS.SLOT_VALID : Fld := ⟨0x3f8008, 15, 0⟩
abbrev SEC_KEYS.all : Fld := ⟨0x3f8008, 31, 0⟩
abbrev SEC_PATCH.PATCH_ACT : Fld := ⟨0x3f800c, 3, 0⟩
abbrev SEC_PATCH.PATCH_SVN : Fld := ⟨0x3f800c, 12, 8⟩
abbrev SEC_PATCH.all : Fld := ⟨0x3f800c, 31, 0⟩
abbrev SEC_AUDIT.AUDIT_NEXT : Fld := ⟨0x3f8010, 31, 0⟩
abbrev SEC_AUDIT.all : Fld := ⟨0x3f8010, 31, 0⟩
abbrev SEC_AUDIT_CNT.AUDIT_LOST : Fld := ⟨0x3f8014, 15, 0⟩
abbrev SEC_AUDIT_CNT.all : Fld := ⟨0x3f8014, 31, 0⟩
abbrev SEC_IDPUB.IDPUB (n : Nat) : Fld := ⟨0x3f8100 + n * 0x4, 31, 0⟩
abbrev SEC_IDPUB.all (n : Nat) : Fld := ⟨0x3f8100 + n * 0x4, 31, 0⟩
abbrev MODE_STAT.MODE : Fld := ⟨0x500, 2, 0⟩
abbrev MODE_STAT.TRANSIT : Fld := ⟨0x500, 3, 3⟩
abbrev MODE_STAT.PREV_MODE : Fld := ⟨0x500, 6, 4⟩
abbrev MODE_STAT.ALL_STILL : Fld := ⟨0x500, 7, 7⟩
abbrev MODE_STAT.LAST_TRIG : Fld := ⟨0x500, 11, 8⟩
abbrev MODE_STAT.MODE_EVT : Fld := ⟨0x500, 12, 12⟩
abbrev MODE_STAT.all : Fld := ⟨0x500, 31, 0⟩
abbrev MODE_CFG.BOOT_READY : Fld := ⟨0x504, 0, 0⟩
abbrev MODE_CFG.all : Fld := ⟨0x504, 31, 0⟩
abbrev AX_STATES_LO.STATES : Fld := ⟨0x508, 31, 0⟩
abbrev AX_STATES_LO.all : Fld := ⟨0x508, 31, 0⟩
abbrev AX_STATES_HI.STATES : Fld := ⟨0x50c, 31, 0⟩
abbrev AX_STATES_HI.all : Fld := ⟨0x50c, 31, 0⟩
abbrev PD_CTRL.QUAD_ON : Fld := ⟨0x510, 3, 0⟩
abbrev PD_CTRL.LNK_ON : Fld := ⟨0x510, 4, 4⟩
abbrev PD_CTRL.all : Fld := ⟨0x510, 31, 0⟩
abbrev PD_STAT.PD_ON : Fld := ⟨0x514, 9, 0⟩
abbrev PD_STAT.PD_LOSS : Fld := ⟨0x514, 25, 16⟩
abbrev PD_STAT.all : Fld := ⟨0x514, 31, 0⟩
abbrev PD_WAKE.WAKE_WHSL : Fld := ⟨0x518, 0, 0⟩
abbrev PD_WAKE.LAST_WAKE : Fld := ⟨0x518, 9, 8⟩
abbrev PD_WAKE.all : Fld := ⟨0x518, 31, 0⟩
abbrev AX_STATE.STATE (a : Nat) : Fld := ⟨0x100000 + a * 0x1000, 3, 0⟩
abbrev AX_STATE.ENERGISED (a : Nat) : Fld := ⟨0x100000 + a * 0x1000, 4, 4⟩
abbrev AX_STATE.SAFE_HELD (a : Nat) : Fld := ⟨0x100000 + a * 0x1000, 5, 5⟩
abbrev AX_STATE.ENA_LEVEL (a : Nat) : Fld := ⟨0x100000 + a * 0x1000, 6, 6⟩
abbrev AX_STATE.DIAG_OK (a : Nat) : Fld := ⟨0x100000 + a * 0x1000, 7, 7⟩
abbrev AX_STATE.OFF_WHY (a : Nat) : Fld := ⟨0x100000 + a * 0x1000, 15, 8⟩
abbrev AX_STATE.all (a : Nat) : Fld := ⟨0x100000 + a * 0x1000, 31, 0⟩
abbrev AX_STATE_CFG.SAFE_STATE (a : Nat) : Fld := ⟨0x100004 + a * 0x1000, 0, 0⟩
abbrev AX_STATE_CFG.all (a : Nat) : Fld := ⟨0x100004 + a * 0x1000, 31, 0⟩
abbrev AX_STATE_CNT.REARM_CNT (a : Nat) : Fld := ⟨0x100008 + a * 0x1000, 7, 0⟩
abbrev AX_STATE_CNT.ENA_FALL_CNT (a : Nat) : Fld := ⟨0x100008 + a * 0x1000, 15, 8⟩
abbrev AX_STATE_CNT.all (a : Nat) : Fld := ⟨0x100008 + a * 0x1000, 31, 0⟩
abbrev RST_CAUSE.CAUSE : Fld := ⟨0x600, 4, 0⟩
abbrev RST_CAUSE.LEVEL : Fld := ⟨0x600, 6, 5⟩
abbrev RST_CAUSE.DETAIL : Fld := ⟨0x600, 11, 8⟩
abbrev RST_CAUSE.RST_CNT : Fld := ⟨0x600, 23, 16⟩
abbrev RST_CAUSE.all : Fld := ⟨0x600, 31, 0⟩
abbrev BOOT_STAT.OPT_BAD : Fld := ⟨0x604, 0, 0⟩
abbrev BOOT_STAT.OPT_MIRROR : Fld := ⟨0x604, 1, 1⟩
abbrev BOOT_STAT.SELF_FAIL : Fld := ⟨0x604, 2, 2⟩
abbrev BOOT_STAT.BOOT_TIME : Fld := ⟨0x604, 31, 16⟩
abbrev BOOT_STAT.all : Fld := ⟨0x604, 31, 0⟩
abbrev BLK_RST_STAT.BLK_BUSY : Fld := ⟨0x608, 6, 0⟩
abbrev BLK_RST_STAT.BLK_HUNG : Fld := ⟨0x608, 14, 8⟩
abbrev BLK_RST_STAT.BLK_DONE : Fld := ⟨0x608, 22, 16⟩
abbrev BLK_RST_STAT.all : Fld := ⟨0x608, 31, 0⟩
abbrev OPT_IMG.OPT_IMG (n : Nat) : Fld := ⟨0x640 + n * 0x4, 31, 0⟩
abbrev OPT_IMG.all (n : Nat) : Fld := ⟨0x640 + n * 0x4, 31, 0⟩
abbrev OPT_STG1.HP_ROLE : Fld := ⟨0x684, 0, 0⟩
abbrev OPT_STG1.AUX_ROLE : Fld := ⟨0x684, 1, 1⟩
abbrev OPT_STG1.STACK_ROLE : Fld := ⟨0x684, 3, 2⟩
abbrev OPT_STG1.REFIN_EN : Fld := ⟨0x684, 4, 4⟩
abbrev OPT_STG1.DEGRADED_HALT : Fld := ⟨0x684, 5, 5⟩
abbrev OPT_STG1.RST_PROPAGATE : Fld := ⟨0x684, 6, 6⟩
abbrev OPT_STG1.BOOT_READY : Fld := ⟨0x684, 7, 7⟩
abbrev OPT_STG1.LOSS_TMO : Fld := ⟨0x684, 14, 8⟩
abbrev OPT_STG1.C1_OPEN_HP : Fld := ⟨0x684, 15, 15⟩
abbrev OPT_STG1.SESS_TMO : Fld := ⟨0x684, 23, 16⟩
abbrev OPT_STG1.MAC_FAIL_MAX : Fld := ⟨0x684, 28, 24⟩
abbrev OPT_STG1.all : Fld := ⟨0x684, 31, 0⟩
abbrev OPT_STG2.AUTH_FAIL_MAX : Fld := ⟨0x688, 3, 0⟩
abbrev OPT_STG2.STO_FILT : Fld := ⟨0x688, 14, 8⟩
abbrev OPT_STG2.STO_DISC_T : Fld := ⟨0x688, 22, 16⟩
abbrev OPT_STG2.all : Fld := ⟨0x688, 31, 0⟩
end F

end Sys2Proof.Machine
end

