-- ==== Sys2Proof/Machine/Flags.lean ====
section
/-!
DEFINITION. Bit fields of a 32-bit register word, saturating counts and rounding: the small computations every chapter's
rules use (R8, R9, R15, R16, R57).
-/

namespace Sys2Proof.Machine

/-- The word with ones in bits `[hi:lo]` (R8). -/
def fieldMask (hi lo : Nat) : Word :=
  (BitVec.allOnes 32 >>> (31 - hi)) &&& (BitVec.allOnes 32 <<< lo)

/-- The value of bits `[hi:lo]` of a word. -/
def getBits (w : Word) (hi lo : Nat) : Nat := ((w &&& fieldMask hi lo) >>> lo).toNat

/-- A word with bits `[hi:lo]` replaced by the low bits of `v`. -/
def putBits (w : Word) (hi lo : Nat) (v : Nat) : Word :=
  (w &&& ~~~ fieldMask hi lo) ||| ((BitVec.ofNat 32 v <<< lo) &&& fieldMask hi lo)

/-- The largest value of a field of bits `[hi:lo]`. -/
def fieldMax (hi lo : Nat) : Nat := 2 ^ (hi + 1 - lo) - 1

/-- A saturating sum: a count never passes its largest value (R16). -/
def satAdd (v n mx : Nat) : Nat := min (v + n) mx

/-- The two's complement value of an `n`-bit number (R9). -/
def signedOf (n : Nat) (v : Nat) : Int :=
  if v % 2 ^ n < 2 ^ (n - 1) then (v % 2 ^ n : Nat) else (v % 2 ^ n : Nat) - (2 ^ n : Nat)

/-- The `n`-bit two's complement pattern of an integer (R9). -/
def toBits (n : Nat) (v : Int) : Nat := (v % (2 ^ n : Nat)).toNat

/-- An integer limited to `[lo, hi]`. -/
def clampInt (lo hi v : Int) : Int := max lo (min hi v)

/-- A natural number limited to `[lo, hi]`. -/
def clampNat (lo hi v : Nat) : Nat := max lo (min hi v)

/-- `n / d` rounded once to the nearest integer, ties away from zero (R57); `d` is positive. -/
def divRound (n : Int) (d : Nat) : Int :=
  if n < 0 then - ((((2 * n.natAbs + d) / (2 * d)) : Nat) : Int) else (((2 * n.natAbs + d) / (2 * d) : Nat) : Int)

/-- `n / d` rounded toward zero (R95). -/
def divTrunc (n : Int) (d : Nat) : Int :=
  if n < 0 then - ((n.natAbs / d : Nat) : Int) else ((n.natAbs / d : Nat) : Int)

/-- The sign of an integer: -1, 0 or 1. -/
def sgn (v : Int) : Int := if v < 0 then -1 else if v = 0 then 0 else 1

/-- A natural number as a Boolean flag. -/
def flagOf (v : Nat) : Bool := v != 0

/-- A Boolean flag as a one-bit value. -/
def bitOf (b : Bool) : Nat := if b then 1 else 0

/-- Bit `i` of a number. -/
def natBit (v i : Nat) : Bool := v / 2 ^ i % 2 == 1

/-- A number with bit `i` set or cleared. -/
def natSetBit (v i : Nat) (b : Bool) : Nat :=
  if natBit v i == b then v else if b then v + 2 ^ i else v - 2 ^ i

/-- The number whose bit `i` is entry `i` of a list of flags. -/
def bitsOfList : List Bool → Nat
  | [] => 0
  | b :: bs => bitOf b + 2 * bitsOfList bs

/-- The largest `k` in `[lo, lo + 2 ^ bits)` reached by halving steps at which `p` holds, taken to hold on a prefix. -/
def searchLargest (p : Nat → Bool) : Nat → Nat → Nat
  | 0, lo => lo
  | b + 1, lo => if p (lo + 2 ^ b) then searchLargest p b (lo + 2 ^ b) else searchLargest p b lo

/-- The integer square root, rounded down. -/
def isqrt (x : Nat) : Nat := searchLargest (fun r => decide (r * r ≤ x)) (Nat.log2 x / 2 + 1) 0

/-- The integer square root rounded to the nearest integer. -/
def sqrtRound (x : Nat) : Nat :=
  let r := isqrt x
  if x - r * r > r then r + 1 else r

/-- The first `n` entries of a list, with `d` for entries it lacks. -/
def takePad {α : Type} (d : α) : Nat → List α → List α
  | 0, _ => []
  | n + 1, [] => d :: takePad d n []
  | n + 1, x :: xs => x :: takePad d n xs

/-- A list with entry `i` replaced, unchanged when it has no entry `i`. -/
def listSet {α : Type} : List α → Nat → α → List α
  | [], _, _ => []
  | _ :: xs, 0, y => y :: xs
  | x :: xs, i + 1, y => x :: listSet xs i y

end Sys2Proof.Machine
end

