-- ==== Sys2Proof/Machine/Angle.lean ====
section
/-!
DEFINITION. Angles of winding vectors in units of 10^-6 degrees (R173): a rotation of the vector by the angles
atan(2^-i), exact in integers but for the angles themselves (assumption log 41).
-/

namespace Sys2Proof.Machine

/-- The angles atan(2^-i), i from 0, in 10^-6 degrees. -/
def atanSteps : List Nat := [
  45000000, 26565051, 14036243, 7125016, 3576334, 1789911, 895174, 447614, 223811, 111906,
  55953, 27976, 13988, 6994, 3497, 1749, 874, 437, 219, 109, 55, 27, 14, 7, 3, 2]

/-- The angle of a vector with positive `x`, by successive rotations from step `i` on. -/
def rotate : List Nat → Nat → Int → Int → Int
  | [], _, _, _ => 0
  | t :: ts, i, x, y =>
    if 0 < y then (t : Int) + rotate ts (i + 1) (x * (2 ^ i : Nat) + y) (y * (2 ^ i : Nat) - x)
    else if y < 0 then - (t : Int) + rotate ts (i + 1) (x * (2 ^ i : Nat) - y) (y * (2 ^ i : Nat) + x)
    else 0

/-- An angle wrapped to (−180°, +180°]. -/
def wrapDeg (x : Int) : Int := 180000000 - (180000000 - x) % 360000000

/-- atan2(y, x) in 10^-6 degrees. -/
def atan2 (y x : Int) : Int :=
  if 0 < x then rotate atanSteps 0 x y
  else if x < 0 then wrapDeg (180000000 + rotate atanSteps 0 (-x) (-y))
  else if 0 < y then 90000000 else if y < 0 then -90000000 else 0

/-- The electrical angle of a winding vector (x_W1, x_W2): atan2(x_W1, x_W2). -/
def elecAngle (w1 w2 : Rat) : Int := atan2 (w1.num * w2.den) (w2.num * w1.den)

/-- A rational number rounded to the nearest integer, ties away from zero. -/
def ratRound (x : Rat) : Int := divRound x.num x.den

/-- The absolute value of a rational number. -/
def ratAbs (x : Rat) : Rat := if x < 0 then -x else x

/-- The square root of a rational number that is not negative, rounded to the nearest integer. -/
def ratSqrt (x : Rat) : Nat :=
  let r := isqrt (x.num.toNat / x.den)
  if (2 * r + 1) * (2 * r + 1) * x.den ≤ 4 * x.num.toNat then r + 1 else r

end Sys2Proof.Machine
end

