-- ==== Sys2Proof/Config.lean ====
section
/-!
DEFINITION. What one chip fixes and the values the spec leaves open. Every `opaque` constant is a free value: it has no
body, so nothing can be proved of the value it gives (the assumption log names each).
-/

namespace Sys2Proof

/-- A fresh free 32-bit value: applied to the counter `State.freeCtr` that each use advances. -/
opaque Config.freeWord : Nat → Word

/-- The coefficient, in units of 2^-32, of one step of the first-order low-pass of R171, for its time constant and the
update interval in 125 ps: the spec gives the filter's order and time constant and not its discrete form. -/
opaque Config.emfCoef : (tau tc : Nat) → Word

/-- The four session keys K_H2D, K_D2H, K_HC, K_DC (0 to 3) of R487 from the KDF key and the context: the spec names the
KDF of NIST SP 800-108 in counter mode with AES-128-CMAC, and not its labels, counter width or length field. -/
opaque Config.sessionKey : (key : BitVec 128) → (context : List Byte) → (which : Nat) → BitVec 128

/-- Byte `k` of the payload of a flit of a type where the spec gives no layout (R425), for the values its message carries. -/
opaque Config.flitByte : (typ : Nat) → (values : List Int) → (k : Nat) → Byte

end Sys2Proof
end

