-- ==== Sys2Proof/Machine/State.lean ====
section
/-!
DEFINITION. The state of the part as plain data, and the state right after the power-on reset.
The registers of the register map (`Machine/RegTable.lean`) lie in `State.regs`; everything the spec gives the machine
beside them (queues, segments, timers, stores, the Locker, the link state) has a typed field of its own.
-/

namespace Sys2Proof.Machine

/-- The ways a command can stop the machine. No rule of the spec stops the whole part. -/
inductive Fault where
  /-- Raised by no command: every meaning answers a next state (safe). -/
  | unused
  deriving DecidableEq, Repr

/-- The ways the model can refuse a command. -/
inductive Refusal where
  /-- Raised by an arm of `exec` whose command has no meaning yet (safe: nothing is claimed of it). -/
  | notModelled (mnemonic : String)
  deriving DecidableEq, Repr

/-! ### Motion planner and executor -/

/-- What a segment belongs to: a move, a jog, or a stop of R79. -/
inductive SegKind where
  | move | jog | stop
  deriving DecidableEq, Repr

/-- A segment record: its start in ns of `LTIME`, its duration in ns (0xFFFF_FFFF open-ended), position in 2^-16 µstep,
velocity in 2^-32 µstep/s, acceleration and jerk in 2^-24, the command it belongs to, and the corrections R60 makes at
its end. -/
structure Seg where
  start : Nat
  dur : Nat
  p0 : Int
  v0 : Int
  a0 : Int
  j : Int
  seq : BitVec 16
  last : Bool
  kind : SegKind
  zeroA : Bool
  zeroV : Bool
  endP : Option Int
  goal : Option Int
  deriving DecidableEq, Repr

/-- Position, velocity and acceleration in the segment formats. -/
structure KState where
  p : Int
  v : Int
  a : Int
  deriving DecidableEq, Repr

/-- The one quantity a phase of a profile exists to change (R60): a jerk phase reaches an acceleration, a phase of
constant acceleration reaches a velocity, a cruise covers the rest of the distance. -/
inductive PhaseKind where
  | jerk (endA : Int)
  | accel (endV : Int)
  | cruise
  /-- The open-ended cruise of a jog (R65). -/
  | run
  /-- A later piece of a phase split under R61: the jerk of the first piece, from the acceleration it ended with. -/
  | rest (j : Int)
  deriving DecidableEq, Repr

/-- A planned phase not yet computed into a segment: `fit` marks the cruise whose duration takes up the remaining
distance of its move (R60). -/
structure Phase where
  kind : PhaseKind
  dur : Nat
  fit : Bool
  zeroA : Bool
  zeroV : Bool
  endP : Option Int
  seq : BitVec 16
  last : Bool
  seg : SegKind
  goal : Option Int
  deriving DecidableEq, Repr

/-- A captured profile set (R47, R48), velocity in 1/256 µstep/s, in the register units. -/
structure Prof where
  vmax : Nat
  amax : Nat
  dmax : Nat
  jmax : Nat
  deriving DecidableEq, Repr

/-- A move taken up and not yet wholly committed: its number, target in 2^-16 µstep, the profile set it names and its values
as captured (R48), `BLEND`, and the junction velocity its present plan ends at, in 2^-32 µstep/s (R71). -/
structure PMove where
  seq : BitVec 16
  goal : Int
  set : Nat
  prof : Prof
  blend : Bool
  vj : Nat
  deriving DecidableEq, Repr

/-- What a pending cut will do at its cut instant (R77). -/
inductive CutKind where
  /-- STOP, HALT or a stop of R86. -/
  | stop
  /-- A MOVE with REPLACE. -/
  | replace
  /-- A MOVE without REPLACE that ends a jog (R55). -/
  | endJog
  /-- A JOG. -/
  | jog
  /-- A relative MOVE whose target at the cut instant is out of range (R46): a stop, the command retires RANGE. -/
  | rangeStop
  deriving DecidableEq, Repr

/-- A pending cut: its instant in 125 ps units and the earliest instant R77 allows it, its command if any, the state it plans
from, what it needs to be planned again under R78 (target or distance, velocity, profile set and its captured values,
`BLEND`), and the commands it cancels at its instant. -/
structure Cut where
  at_ : Nat
  due : Nat
  kind : CutKind
  seq : Option (BitVec 16)
  base : KState
  rel : Bool
  dist : Int
  vel : Int
  set : Nat
  prof : Prof
  blend : Bool
  cancels : List (BitVec 16)
  deriving DecidableEq, Repr

/-- Why the executor brakes by itself at the Backstop acceleration (R84, R85, R100, R181). -/
inductive BrakeWhy where
  | starved | clamped | stall | lost
  deriving DecidableEq, Repr

/-- A stop the executor runs by itself: from position `p0` at instant `from_` (125 ps units) the axis runs on at the
velocity of `base` with zero acceleration; from instant `at_`, in the state `base`, it decelerates (R84). -/
structure Brake where
  why : BrakeWhy
  from_ : Nat
  p0 : Int
  at_ : Nat
  base : KState
  deriving DecidableEq, Repr

/-- The motion state of one axis: executor, axis segment queue, and the planner's window and plan for it. -/
structure MotionSt where
  /-- Commanded position of the latest half-period boundary, 48.16 (R57). -/
  pos : Int
  /-- Commanded velocity, 32.32. -/
  vel : Int
  /-- Commanded acceleration, 40.24. -/
  acc : Int
  /-- `AX_TARGET`, 48.16 (R52). -/
  target : Int
  /-- `AX_REMAIN`, 48.16 (R81). -/
  remain : Int
  /-- The stored target of the interrupted MOVE (R82). -/
  resumeGoal : Int
  /-- Axis segment queue, the executing segment first (R66). -/
  queue : List Seg
  /-- Committed segments of a pending cut (R77). -/
  cutQueue : List Seg
  /-- Window entries of the axis: computed, uncommitted segments (R66). -/
  window : List Seg
  /-- Phases planned and not yet computed. -/
  phases : List Phase
  /-- Moves taken up whose last segment is not yet committed, oldest first. -/
  chain : List PMove
  /-- The JOG in hand whose last segment is not yet committed (R65, R91). -/
  jogSeq : Option (BitVec 16)
  /-- The velocity as commanded, in 2^-32 µstep/s, and the profile set of the latest JOG planned (R54, R65, R76). -/
  jogVel : Int
  jogSet : Nat
  /-- The waiting moves behind the chain that the present junction velocities assume (R72). -/
  seen : List PMove
  /-- State at the end of the last computed segment (R59). -/
  planEnd : KState
  cut : Option Cut
  brake : Option Brake
  /-- Standstill instant of a starvation, clamp or stall stop that the planner has still to record (R81, R84). -/
  recordDue : Option Nat
  /-- Target of the MOVE that was executing when the stop in progress began, if one was. -/
  stopGoal : Option Int
  /-- Instant the axis came to standstill (R89). -/
  stillAt : Option Nat
  /-- The standstill policy is applied (R89). -/
  policyOn : Bool
  /-- A stall reaction holds until the next motion (R180): `true` STOP_FREE, `false` STOP_HOLD. -/
  stallHold : Option Bool
  /-- End of the energising time of R90. -/
  energiseEnd : Option Nat
  /-- At standstill after a stop of R79. -/
  stopped : Bool
  deriving DecidableEq, Repr

/-! ### Follow sources -/

/-- A point of a cam table: index, `MASTER`, `SLOPE` (16.16) and `SLAVE` (48.16) (R116). -/
structure CamPt where
  i : Nat
  master : Nat
  slope : Int
  slave : Int
  deriving DecidableEq, Repr

/-- A validated cam table: its ID, the Locker byte address of its header, `NPTS`, `M_CYC`, `RISE` in µsteps, and its
first point (R116, R117). -/
structure CamTab where
  id : BitVec 8
  base : Nat
  npts : Nat
  mcyc : Nat
  rise : Int
  first : CamPt
  deriving DecidableEq, Repr

/-- The gear relation in force: p = `pc` + r1·Δ + (r2 − r1)·G(Δ), Δ from the master origin `mc`, with r1 = `n1`/`d1`,
r2 = `n2`/`d2`, ramp `ramp` and master direction `sig` (R113, R114). -/
structure GearRel where
  pc : Int
  mc : Int
  n1 : Int
  d1 : Nat
  n2 : Int
  d2 : Nat
  ramp : Nat
  sig : Int
  /-- The ramp has been completed once: the relation is linear from then on (R113). -/
  done : Bool
  deriving DecidableEq, Repr

/-- The cam parameter registers as a command has taken them up (R130): `ORIGIN` in 2^-16 master units, `OFFSET` in 2^-16 µstep,
`ENTRY`, `ENTRY_MODE`, `ENTRY_TOL`, `EXIT` and `MARGIN`. -/
structure CamPar where
  origin : Int
  offset : Int
  entry : Nat
  absolute : Bool
  tol : Nat
  leave : Nat
  margin : Nat
  deriving DecidableEq, Repr

/-- A follower's state beside its registers. -/
structure FollowSt where
  /-- STEPDIR: step target T, reference base and velocity of R105 (positions in 2^-16 µstep; v = `stepDw`/`stepDt`). -/
  stepT : Int
  stepBase : Int
  stepDw : Int
  stepDt : Nat
  stepTb : Nat
  /-- STEPDIR: instant and direction of the last accepted edge since engagement. -/
  stepLast : Option (Nat × Int)
  /-- Filtered level of `AXnn_DIR`. -/
  dirLevel : Bool
  /-- Filtered level of `AXnn_STP` (R103). -/
  stpLevel : Bool
  /-- A GEAR engagement or ratio change that begins at the next half-period boundary: N, D, ramp (R113, R114). -/
  gearPend : Option (Int × Nat × Nat)
  gear : Option GearRel
  /-- The active cam table, the cycle index c0, and the last cycle index seen. -/
  cam : Option CamTab
  c0 : Int
  cyc : Int
  /-- The cam parameters in force, and those a cam-next has taken up for its switch (R130). -/
  camPar : CamPar
  nextPar : CamPar
  /-- The table a cam-next holds in `NEXT`. -/
  camNext : Option CamTab
  /-- A cycle boundary has been crossed and the switch is due. -/
  switchDue : Bool
  /-- Prefetch buffer of the active table and the first points of the next one (R120, R126). -/
  buf : List CamPt
  nextBuf : List CamPt
  /-- The indices between which the prefetcher looks for the present point while it holds none before it. -/
  seek : Option (Nat × Nat)
  /-- Master position at the previous boundary, for entry and exit points (R123, R125). -/
  prevM : Int
  /-- A CAM exit command waits for its exit point (R125). -/
  exitArmed : Bool
  /-- Cut instant of a STOP, HALT or exit of a follower (R100). -/
  exitAt : Option Nat
  /-- A follow loss that acts at the next half-period boundary, with its cause code (R100). -/
  lossPend : Option (Fin 5)
  /-- The source a recipe has set and the axis has still to take (R97). -/
  srcPend : Option (Fin 4)
  /-- The ENGAGE command that retires when the follow state leaves DISENGAGED (R353). -/
  engSeq : Option (BitVec 16)
  deriving DecidableEq, Repr

/-- A master channel: its last two samples (instant in 125 ps, position in 2^-16), newest first, the latest sample of M, which
stays while the channel is stale (R129), the instant of the last arrival, the extended revolution count (R108, R109,
R111), and that it is stale through `FB_VALID` = 0 (R264). -/
structure MchSt where
  samples : List (Nat × Int)
  lastM : Int
  lastAt : Nat
  rev16 : BitVec 16
  revExt : Int
  viaFb : Bool
  deriving DecidableEq, Repr

/-! ### Feedback -/

/-- The counting core of a feedback decoder (R256 to R282): filtered levels of `FA`, `FB`, `FZ` and the instants of the
last accepted edge of each; instant, interval and sign of the last counted edge; speed in 1/16 count/s; window edges of
the count method (first and last counted edge, the net count from the first, the start of the window, and whether the speed has
exceeded `SPEED_X` in it); the last index event (C and sign) and whether the present `FZ`
pulse has had its event; last valid Hall code; wheel marks: an extra edge seen, the next edge is tooth 0 of the first
mark, and a missed mark with whether the counter has wrapped since. -/
structure FbCore where
  fa : Bool
  fb : Bool
  fz : Bool
  tA : Option Nat
  tB : Option Nat
  tZ : Option Nat
  lastT : Option Nat
  lastP : Option Nat
  lastDir : Option Bool
  speed : Int
  winFirst : Option Nat
  winLast : Option Nat
  winNet : Int
  winAt : Nat
  overX : Bool
  lastIdx : Option (Int × Bool)
  idxDone : Bool
  hall : Option Nat
  extra : Bool
  zeroNext : Bool
  missed : Option Bool
  deriving DecidableEq, Repr

/-- A feedback decoder: its core, and the serial reader: a good frame since the mode was set, the last
good frame (instant and C) (R277). -/
structure FbSt where
  core : FbCore
  serGood : Bool
  serLast : Option (Nat × Int)
  /-- Instant at which the latest serial read fell due (R277). -/
  serAt : Option Nat
  /-- The serial read in hand did not complete within `SER_PERIOD` (R277). -/
  serLate : Bool
  deriving DecidableEq, Repr

/-! ### Gate drive -/

/-- The filters of a comparator (R215, R216, R296): the latest samples of its majority filter, the newest first, the output that
stage gives and the instant from which it stands, and what the trip filter behind it has accepted. -/
structure FiltSt where
  hist : List Bool
  out : Bool
  outAt : Nat
  acc : Bool
  deriving DecidableEq, Repr

/-- Why a diagnostic run is pending or running (R245). -/
inductive DiagWhy where
  | rearm | command | first
  deriving DecidableEq, Repr

/-- The gate-drive and protection state of one axis. Gate masks use the layout of `AX_GD_FLT.SW_OFF`: bit 2·leg is the
high side and bit 2·leg + 1 the low side of the leg. -/
structure GateSt where
  /-- Filtered level of `AXnn_ENA`. -/
  ena : Bool
  /-- End of the open escalation window (R238). -/
  escEnd : Option Nat
  /-- Low sides tripped during an over-voltage or safe-state SHORT, off for the rest of it (R251). -/
  shortOff : BitVec 8
  /-- Legs the interlock holds off until the next period boundary (R228). -/
  crossHold : BitVec 4
  /-- Legs that have overlapped in the present period. -/
  crossNow : BitVec 4
  /-- Consecutive earlier periods with an overlap, per leg. -/
  crossRun : Vector Nat 4
  /-- High sides off since a bootstrap trip until their next turn-on command after release (R232). -/
  bstHold : BitVec 4
  /-- Instant of the latest trip of each bootstrap comparator (R244). -/
  bstAt : Vector (Option Nat) 4
  /-- The trip filters of the switch-node comparators, per switch (R216, R235). -/
  sn : Vector FiltSt 8
  /-- The low sides of each winding that were on last, before the present moment (R236), and the instant of that record per
  winding. -/
  lastLow : BitVec 8
  lowAt : Vector Nat 2
  /-- Diagnostic runs pending for this axis, oldest first (R245). -/
  diagPend : List DiagWhy
  /-- Diagnostic run in progress: why, and its phase 0 to 3 (A to D) (R246). -/
  diagRun : Option (DiagWhy × Fin 4)
  /-- Findings of the run in progress: `W1` in bits 5:0, `W2` in bits 11:6. -/
  diagFind : BitVec 12
  /-- A diagnostic run has passed since L2 or since the quad domain came up (R512). -/
  diagPassed : Bool
  /-- Legs held in high impedance by an unlatched under voltage until a period boundary after it clears (R252). -/
  uvHold : Bool
  /-- The legs are in bootstrap fall-back, and return from it at the next period boundary (R230). -/
  fallback : Bool
  cpReturn : Bool
  /-- Consecutive whole periods in which each leg's low side has not conducted for 500 ns in one stretch, and the legs whose
  low side has in the present period (R231). -/
  sinceLow : Vector Nat 4
  lowDone : BitVec 4
  /-- The legs whose low time in the present period is a refresh pulse (R231). -/
  pulsed : BitVec 4
  /-- What the orders of R242 made of the gates at the latest event that could change it: those forced on, with the delay of
  their command, those that follow the PWM unit, and the instant from which each gate has not been held off. -/
  lastForce : BitVec 8
  forceDly : Nat
  lastAllow : BitVec 8
  letAt : Vector Nat 8
  /-- The instant of the latest fault, the causes, by number, latched at it, the first of them, and the switches they hold off
  (R244). -/
  fltAt : Nat
  fltSet : BitVec 13
  fltFirst : Nat
  fltOff : BitVec 8
  deriving DecidableEq, Repr

/-! ### Interpreter -/

/-- An accepted queued command (R351): its number, opcode, axis, tag, port, rally count and payload. -/
structure QCmd where
  seq : BitVec 16
  op : BitVec 8
  axis : BitVec 4
  tag : BitVec 7
  port : Port
  alive : BitVec 4
  words : List Word
  deriving DecidableEq, Repr

/-- The outcomes of R353, by their codes 0 to 8. -/
inductive Outc where
  | completed | cancelled | limit | noProfile | nothingToResume | camBad | recipeBad | refused | range
  deriving DecidableEq, Repr

/-- A ticket of a STARTED command: running, or its final status code and result words (R356). -/
structure Ticket where
  no : BitVec 8
  result : Option (BitVec 8 × List Word)
  deriving DecidableEq, Repr

/-- A route-return entry of the Captain (R358): its key, and the reply when it has arrived, or the loss of the link. -/
inductive RouteReply where
  | waiting
  | lost
  | arrived (words : List Word)
  deriving DecidableEq, Repr

structure RouteEntry where
  dev : BitVec 4
  alive : BitVec 4
  tag : BitVec 7
  index : BitVec 4
  reply : RouteReply
  deriving DecidableEq, Repr

/-- An accepted RESET waiting for its beginning (R341): target, receiving port, and its latest instant. -/
structure PendReset where
  target : BitVec 4
  port : Port
  deadline : Nat
  deriving DecidableEq, Repr

/-- The state of the interpreter and of its records in `PD1`. -/
structure InterpSt where
  /-- The interpreter runs (R323). -/
  running : Bool
  /-- Accepted queued commands not yet taken up, oldest first (R351). -/
  cmdq : List QCmd
  /-- Accepted commands not yet retired, in sequence order, with their outcome once it is known (R91). -/
  ledger : List (QCmd × Option Outc)
  /-- Retirement log, oldest first, at most 64 entries (R354). -/
  log : List (QCmd × Outc)
  /-- Number the next queued command receives (R351). -/
  nextSeq : BitVec 16
  /-- Results of the eight most recent tickets, oldest first (R356). -/
  tickets : List Ticket
  /-- Route-return store of the Captain, oldest first (R358). -/
  routes : List RouteEntry
  /-- `SYS_UNLOCK` is armed (R371). -/
  unlocked : Bool
  /-- Latched LO words of wide pairs: register address and value (R378). -/
  loLatch : List (Nat × Word)
  /-- The accepted RESETs that have not begun, in order of acceptance (R341). -/
  pendReset : List PendReset
  /-- Status code of the latest register write; 0 when it succeeded (R367). -/
  wrStatus : BitVec 8
  deriving DecidableEq, Repr

/-- A reply as stored: header fields and the payload after the `HEALTH` word (R318, R319). -/
structure Reply where
  op : BitVec 8
  alive : BitVec 4
  dev : BitVec 4
  axis : BitVec 4
  tag : BitVec 7
  words : List Word
  deriving DecidableEq, Repr

/-- An accepted frame of the store of R316: its `ALIVE` and CRC, its reply once it is formed, and its session count N where
it was received in a session (R488). -/
structure StoreEnt where
  alive : BitVec 4
  crc : BitVec 16
  reply : Option Reply
  sessN : Option Nat
  deriving DecidableEq, Repr

/-- One port as a slave (R316 to R322). -/
structure PortSt where
  /-- The two most recently accepted frames, newest first (R316). -/
  store : List StoreEnt
  /-- The reply formed for the latest window, as the words to shift out, and the instant from which it is ready. -/
  out : List Word
  readyAt : Nat
  /-- `HEALTH` bits [24:16] of the latest frame, as bits 8:0 (R324). -/
  flags : BitVec 9
  /-- The words shifted out during the latest window. -/
  shifted : List Word
  /-- The `ALIVE` of the accepted frame whose reply is formed in `out`, none for a status reply. -/
  outFor : Option (BitVec 4)
  /-- Role changes that take effect at the end of the transfer that carries the reply to their write (R304): the `ALIVE` of the
  frame that wrote them, whether of `AUX`, and the new value of `ROLE`. -/
  roleNext : List (Option (BitVec 4) × Bool × Bool)
  /-- Start and end of the latest window (R326). -/
  lastFall : Nat
  lastRise : Nat
  deriving DecidableEq, Repr

/-- The two delay lines of a PWM channel (R32, R33): which of them places edges, the number of the calibration instant of each
line's last good measurement, and the calibration the placing line uses since the channel's last update point. -/
structure CalChan where
  placing : Bool
  good : Nat × Nat
  used : Nat
  deriving DecidableEq, Repr

/-- The time base (R26 to R33). -/
structure TimeSt where
  /-- The reference is declared good (R29). -/
  refGood : Bool
  /-- Instant from which the 1 ms test of R29 runs. -/
  testFrom : Nat
  /-- Number of calibration instants since the time base started. -/
  calNo : Nat
  /-- The delay lines of each PWM channel: leg l of axis a at 4a + l, the privileged channels from 64 (R32). -/
  cal : Vector CalChan 72
  deriving DecidableEq, Repr

/-- Device mode and power (R506, R515, R518). -/
structure PowerSt where
  /-- Bit n: domain `PDn` is up (R515). -/
  on : BitVec 10
  /-- Target and trigger code of the transition in progress, if one is (R504, R506). -/
  transit : Option (BitVec 3 × Nat)
  /-- Automatic SAFE or HALT that waits for the transition in progress, with its trigger code (R522). -/
  autoNext : Option (BitVec 3 × Nat)
  /-- An accepted SLEEP whose entry has not begun: the port of its command and its latest instant (R518). -/
  sleepPend : Option (Port × Nat)
  /-- Supply monitors: `VDD33`, `VCORE`, `VIOH`, `VLK`, `VLNK`, `VGS` good (R559). -/
  supplies : BitVec 6
  /-- `VGS` is under voltage under R233. -/
  vgsUv : Bool
  deriving DecidableEq, Repr

/-! ### PWM -/

/-- A period timer (R197): whether it runs, its next half-period boundary, whether that is a period boundary, and the
latest period boundary. A privileged channel has period boundaries only. -/
structure Timer where
  run : Bool
  next : Nat
  nextIsPeriod : Bool
  periodAt : Nat
  deriving DecidableEq, Repr

/-- The edges and state of one leg for an update interval (R194, R195). -/
structure LegEdge where
  on : Nat
  off : Nat
  st : Nat
  deriving DecidableEq, Repr

/-- An edge of a leg (R205, R206, R210): from instant `at_` the leg is at `level`, `none` for high impedance; the outgoing
command falls at `at_` and the incoming one rises at `on`. -/
structure LegEv where
  at_ : Nat
  on : Nat
  level : Option Bool
  deriving DecidableEq, Repr

/-- The PWM unit of one axis. -/
structure PwmSt where
  timer : Timer
  /-- The latest half-period boundary is an update point, a period boundary, a sample instant still to be served. -/
  updDue : Bool
  periodDue : Bool
  sampleDue : Bool
  /-- Pending set: the words of `AX_PWM_STG` and `AX_PWM_DLY` a commit copied (R199). -/
  pend : Option (Word × Word)
  /-- Edge values a computation has delivered for the next update point (R39). -/
  staged : Option (Vector LegEdge 4)
  /-- Carried time of each leg, in 125 ps (R208). -/
  carry : Vector Int 4
  /-- The legs whose edges are a bootstrap refresh pulse inserted for one period, with the edges it replaced (R231). -/
  refresh : List (Leg × LegEdge)
  /-- An update point of the present period was late (R40). -/
  lateNow : Bool
  /-- Trip pins that force the axis, and those of them that release it at the next period boundary (R217, R218). -/
  tripForce : BitVec 4
  tripDrop : BitVec 4
  /-- The latest edges of each leg, the newest first; one that R210 holds lies ahead (R205, R210). -/
  legs : Vector (List LegEv) 4
  deriving DecidableEq, Repr

/-- A privileged PWM channel: its timer, pending set and set in force (R198, R201), and, for a brake channel, the
decision of the window monitor that waits for the next boundary (R250). -/
structure PrivSet where
  per : Nat
  on : Nat
  off : Nat
  en : Bool
  pol : Bool
  deriving DecidableEq, Repr

structure PrivSt where
  timer : Timer
  pend : Option PrivSet
  /-- The committed set, and the set in force, whose edges R202 may have clamped. -/
  comm : PrivSet
  force : PrivSet
  want : Bool
  deriving DecidableEq, Repr

/-! ### Current control, observer and probe -/

/-- The phase of a winding's chopper (R161, R162): on state, FAST or SLOW off state, or held in SLOW without cycles. -/
inductive ChopPhase where
  | held | on | fast | slow
  deriving DecidableEq, Repr

/-- The chopper of one winding: phase, the instant its on or off state began, the instant up to which its volt-seconds are
counted, the driven leg (`P` for a reference that is not negative), whether the comparator is watched, its count of short on
states, and its threshold (R160 to R163). -/
structure ChopSt where
  phase : ChopPhase
  from_ : Nat
  since : Nat
  pos : Bool
  watch : Bool
  shorts : Nat
  thr : Nat
  deriving DecidableEq, Repr

/-- One winding: the controller's variables of R154 in volts, amperes and ampere volts, the observer's estimate for the
next computation and its filters (R170, R171), the usable sample of the computation in hand in ADC codes, the run of
unusable ones, and the net high time of `P` over `N` since the sample instant and in the interval before it (R170). -/
structure WindSt where
  integ : Rat
  iPrev : Rat
  irefPrev : Rat
  uPrev : Rat
  eObs : Rat
  fI : Rat
  fE : Rat
  sample : Option Int
  skipRun : Nat
  vs : Int
  vsLast : Int
  /-- The sign of the active state in force before the latest boundary, 0 for none, and how long it had lasted (R152). -/
  pre : Int
  preRun : Nat
  chop : ChopSt
  deriving DecidableEq, Repr

/-- A control computation under way (R38, R39, R156): its sample instant, whether it serves a mid-period point, the
references, the commanded position, travel and velocity and the configuration words it started with, and whether its update
point, and the next sample instant, have passed. -/
structure Comp where
  t0 : Nat
  mid : Bool
  iref1 : Int
  iref2 : Int
  pos : Int
  trav : Nat
  vel : Int
  cfg : Word
  gain : Word
  motor : Word
  shunt : Word
  late : Bool
  passed : Bool
  deriving DecidableEq, Repr

/-- The current control of one axis. -/
structure CcSt where
  w : Vector WindSt 2
  comp : Option Comp
  /-- The next update point has no edge values yet (R39). -/
  compDue : Bool
  /-- End of the hold of each overcurrent comparator after a change of its DAC code (R293). -/
  ocHold : Vector Nat 2
  /-- The filters of the overcurrent comparators (R216, R297). -/
  oc : Vector FiltSt 2
  /-- The next computation is the first since the bridge was energised (R147, R158). -/
  first : Bool
  /-- Instant the bridge was last energised (R175). -/
  energAt : Nat
  deriving DecidableEq, Repr

/-- The load-angle unit of one axis beside its registers: latest load angle in 10^-6 degrees and magnitude in µV (R173,
R172), start of the travel of a stall criterion (R177) and of a recovery (R182), travels and flux ratios of the last
1,024 µsteps of valid computations (R178), travel at the last declared stall (R179), a declared stall that acts at the
next boundary (`true` by collapse), end of a running boost, a fallback due at the next boundary, regulator output
(R186), and a resynchronisation due at the next standstill (R185). -/
structure LaSt where
  delta : Int
  mag : Nat
  /-- The commanded travel of the axis so far, in 2^-16 µsteps, whatever its direction; the travels below are read off it. -/
  trav : Nat
  stallFrom : Option Nat
  recFrom : Option Nat
  psi : List (Nat × Rat)
  lastStall : Option Nat
  stallDue : Option Bool
  boostEnd : Option Nat
  fallDue : Bool
  /-- The reaction that is due at the next boundary has ended before it began (R183). -/
  noReact : Bool
  eco : Rat
  resyncDue : Bool
  /-- Standstill since a stall, whose reaction keeps the position uncertain when it cannot resynchronise. -/
  stalled : Bool
  deriving DecidableEq, Repr

/-- A probe burst (R188 to R191): its ticket, the probe periods started, the start of the present one, and the
inductances measured so far in each of the four directions, in henry. -/
structure ProbeSt where
  ticket : Option (BitVec 8)
  n : Nat
  at_ : Nat
  sums : Vector Rat 4
  counts : Vector Nat 4
  bad : Bool
  deriving DecidableEq, Repr

/-- A wave table's swap: the axes that have moved to the new content, and the operation running (R138 to R140). -/
inductive WtOp where
  | fill | revert | copy
  deriving DecidableEq, Repr

structure WtSt where
  moved : BitVec 16
  op : Option WtOp
  deriving DecidableEq, Repr

/-! ### Measurement -/

/-- The settling of a window monitor (R299): per comparator whether it is decided, its decision, and whether its DAC holds
the release threshold. Comparators: 0 low, 1 high of an `AIN` monitor; 0 UV, 1 BRK, 2 OV of a `VMq` monitor. -/
structure WmSt where
  decided : BitVec 3
  act : BitVec 3
  atRelease : BitVec 3
  /-- End of the hold of each comparator after a change of its DAC code (R293). -/
  hold : Vector Nat 3
  /-- Instant of the latest change of threshold of each comparator: its dwell and its filter run from there (R296, R299). -/
  since : Vector Nat 3
  /-- The majority filter of each comparator (R296). -/
  filt : Vector FiltSt 3
  deriving DecidableEq, Repr

/-- Sequences of the shared converters (R287, R288): the next node of each voltage ADC (0 `VMq`, then `W1P`, `W1N`, `W2P`,
`W2N`), the next general input; and the monitors, 0 to 7 `AIN0` to `AIN7`, 8 to 11 the quads. -/
structure MsSt where
  vNext : Vector (Fin 5) 16
  ainNext : Fin 8
  wm : Vector WmSt 12
  /-- Instant at which the filter of each `TRIPn` last accepted a change (R215). -/
  tripAt : Vector (Option Nat) 4
  deriving DecidableEq, Repr

/-! ### Backstop and security -/

/-- Backstop state beside its registers: the filtered STO levels (R478) and the instants from which the STO inputs differ
(R480). -/
structure BkSt where
  stoA : Bool
  stoB : Bool
  /-- Instant from which the two inputs have differed (R480). -/
  stoDiffAt : Option Nat
  /-- Instant at which the filter of each STO input last accepted a change (R478). -/
  stoAt : Vector (Option Nat) 2
  /-- A STORE in progress has still to end (R472); the limits it stores, whether these are stored and the option image is being
  written, and whether a write has failed. -/
  storing : Bool
  table : List Word
  imaging : Bool
  failed : Bool
  deriving DecidableEq, Repr

/-- An audit entry before it is written (R494): number, `LTIME`, event code, role, port, lifecycle code, axis, status
and data words. -/
structure AuditEnt where
  no : Nat
  time : Nat
  code : BitVec 8
  role : BitVec 2
  port : BitVec 2
  life : BitVec 4
  axis : BitVec 4
  status : BitVec 8
  data : List Word
  deriving DecidableEq, Repr

/-- A key slot: the serial and the compressed point as 9 words (R483, R484). -/
structure KeySlot where
  serial : Word
  point : List Word
  deriving DecidableEq, Repr

/-- A patch slot (R485): armed for the next L2 with its security version, and applied since the latest BOOT. -/
structure PatchSlot where
  armed : Option (BitVec 5)
  applied : Bool
  deriving DecidableEq, Repr

/-- An opening or open session (R487, R488): its role and `EXT`, the keys, the handshake context, and the count N of the
next accepted frame. -/
structure Session where
  role : BitVec 2
  ext : Bool
  kH2D : BitVec 128
  kD2H : BitVec 128
  kHC : BitVec 128
  kDC : BitVec 128
  context : List Byte
  n : Nat
  macFails : Nat
  /-- Instant of the latest frame accepted in the session, or of its opening (R490). -/
  lastAt : Nat
  deriving DecidableEq, Repr

/-- The session of a port (R487, R490): opening, open, consecutive failures, and the lockout. -/
structure SessPort where
  opening : Option Session
  sess : Option Session
  fails : Nat
  lockEnd : Option Nat
  deriving DecidableEq, Repr

/-- Work of the security engine for a STARTED command (R349). -/
inductive SecJob where
  | sessOpen (port : Port) (words : List Word)
  | sessConfirm (port : Port) (words : List Word)
  | keyInstall (words : List Word) (role : BitVec 2) (port : Port)
  | lifecycle (w : Word) (role : BitVec 2) (port : Port)
  | patchLoad (slot : Fin 4) (role : BitVec 2) (port : Port)
  deriving DecidableEq, Repr

/-- The security engine (R482 to R495). -/
structure SecSt where
  /-- Fused lifecycle code (R491). -/
  life : BitVec 2
  /-- Number of the next audit entry (R494). -/
  auditNext : Nat
  /-- Buffered audit entries, oldest first, at most 16 (R494). -/
  auditBuf : List AuditEnt
  /-- Latest audit instants per rate-limited key (R476, R494). -/
  auditRate : List (Nat × Nat)
  /-- Audit log as written: number and its 16 words, at most 4,096, and the chain hash of the last one written (R494). -/
  auditLog : List (Nat × List Word)
  chain : List Word
  /-- Key slots (R483): serial and compressed point. -/
  keys : Vector (Option KeySlot) 16
  /-- Patch slots, and the security version the fuses hold (R485). -/
  patches : Vector PatchSlot 4
  svn : Nat
  /-- Device identity key pair, once generated: private scalar and public X, Y (R483). -/
  ident : Option (Nat × List Word)
  /-- The sessions of `HP` and `AUX` (R487 to R490). -/
  hp : SessPort
  aux : SessPort
  /-- Work of STARTED commands that the security engine still runs, with their tickets (R356). -/
  jobs : List (BitVec 8 × SecJob)
  /-- DECOMMISSIONED has been in force since an L2 (R491). -/
  decom : Bool
  /-- Verification records: object, digest of the signed bytes and `VERSION`; highest validated versions (R398). Objects:
  0 to 255 recipe slots, 256 + id cam tables. -/
  recs : List (Nat × List Word × Nat)
  highs : List (Nat × Nat)
  /-- Byte address and length of each recorded cam table as validated, by its object number (R398). -/
  spans : List (Nat × Nat × Nat)
  /-- The stored Backstop table: the eight limit words of each axis in order (R471). -/
  bkTable : List Word
  deriving DecidableEq, Repr

/-! ### Locker -/

/-- What an access to the Locker serves: a read whose reply waits for it, an LK_WRITE, a STORE of the Backstop table, a copy of the
option image (R472, R536), the reading of an armed recipe, the validation of a cam table, a prefetcher of its active or next table, the trace writer, an audit entry, the
scrubber, and the rewrite of a region (R395, R408, R410). -/
inductive LkWhy where
  | reply (port : Port) (key : ReadKey)
  | write (ticket : BitVec 8)
  | store
  | image
  | recipe
  | cam
  | prefetch (next : Bool)
  | trace
  | audit
  | scrub
  | scrubBack
  | rewrite (region : Nat)
  deriving DecidableEq, Repr

/-- A run of line accesses of one requester (R410): the next line, the step from one line to the next, the lines left after it, the
bytes still to write, or none for reads, and the instant from which its present line is the requester's request for a bank. -/
structure LkJob where
  who : Fin 22
  why : LkWhy
  line : Nat
  step : Nat
  left : Nat
  bytes : Option (List Byte)
  since : Nat
  deriving DecidableEq, Repr

/-- An access in progress: its job as it stood at the grant, and the instant of its end (R387). -/
structure LkAcc where
  job : LkJob
  endAt : Nat
  deriving DecidableEq, Repr

/-- A bank and its arbiter (R411 to R414): the access in progress, the last owner, the grants of the present Over, and for
each requester (0 to 21) and quad entry (22 to 25) its grants in this Over, its k, its last grant and the end of its Let. -/
structure BankSt where
  busy : Option LkAcc
  owner : Option (Fin 22)
  overCnt : Nat
  used : Vector Nat 22
  k : Vector Nat 26
  last : Vector Nat 26
  letEnd : Vector (Option Nat) 26
  deriving DecidableEq, Repr

/-- A command whose reply waits for lines of the Locker (R345, R347, R396, R494): its opcode and frame, the route-return index for a
routed one, its byte address in the Locker, its count of words, and the lines read so far, with no data for one that gave none. -/
structure LkRead where
  op : BitVec 8
  req : Req
  idx : BitVec 4
  addr : Nat
  count : Nat
  lines : List (Nat × Option (List Byte))
  deriving DecidableEq, Repr

/-- What a cam table is named for (R117, R400): an ENGAGE of an axis, a CAM_NEXT or an applied CAM record with the parameters it has
taken up (R130), or the recipe being armed. -/
inductive CamFor where
  | engage (a : Axis) (chan : Fin 4) (seq : BitVec 16)
  | next (a : Axis) (seq : BitVec 16) (par : CamPar)
  | apply (a : Axis) (par : CamPar)
  | recipe
  deriving DecidableEq, Repr

/-- What the security engine reads of a named table: its directory entry (R397), then the header and first point of one that has a
record, or the whole table (R398). -/
inductive CamStep where
  | dir
  | head
  | whole
  deriving DecidableEq, Repr

/-- A named table in hand: table ID, purpose, what is being read, the table's byte address and length with its signature and the
signing slot once its entry is known, the lines read so far, and whether it now waits for its signature. -/
structure CamVal where
  id : BitVec 8
  why : CamFor
  step : CamStep
  base : Nat
  len : Nat
  slot : Nat
  lines : List (Nat × List Byte)
  sig : Bool
  deriving DecidableEq, Repr

/-- A record of a recipe (R400). -/
inductive RcpRec where
  | reg (addr : Word) (data : Word)
  | source (a : Axis) (src : Fin 4)
  | cam (a : Axis) (id : BitVec 8)
  | wave (t : Fin 8) (words : List Word)
  deriving DecidableEq, Repr

/-- A RECIPE_ARM in progress (R402): its command, slot, lines read so far, its bytes in all once the header is read, whether it
waits for its signature, and the cam tables still to validate once its records have passed. -/
structure ArmSt where
  seq : BitVec 16
  slot : BitVec 8
  lines : List (Nat × List Byte)
  total : Nat
  sig : Bool
  cams : Option (List (BitVec 8))
  deriving DecidableEq, Repr

/-- The armed recipe (R403): slot, `VERSION` and records. -/
structure Shadow where
  slot : BitVec 8
  version : Word
  recs : List RcpRec
  deriving DecidableEq, Repr

/-- The Locker: its stored bytes, regions, banks, and the work of its users (R385 to R418). -/
structure LkSt where
  /-- Stored bytes, 36 to a line: the byte k of line L lies at key 36·L + k (R388); keys rising, no entry equal to what an
  unlisted key reads as. -/
  cells : List Host.Cell
  /-- Generation of each region and its `INIT_PEND` mark (R389, R395). -/
  gen : Vector (BitVec 11) 64
  initPend : BitVec 64
  banks : Vector BankSt 8
  jobs : List LkJob
  reads : List LkRead
  vals : List CamVal
  arm : Option ArmSt
  shadow : Option Shadow
  /-- The scheduled apply: its command, and its stack time in ns for `AT` = 1 (R404). -/
  apply : Option (BitVec 16 × Option Nat)
  /-- WAVE tables of an apply that wait for their shadow (R404). -/
  waves : List (Fin 8 × List Word)
  /-- The trace writer: records buffered, oldest first, and the byte offset of the next line (R408). -/
  trace : List (List Word)
  trcHead : Nat
  /-- Instant of the scrubber's latest read (R392). -/
  scrubAt : Nat
  deriving DecidableEq, Repr

/-! ### Cenov link -/

/-- What a flit carries. -/
inductive CvMsg where
  | enum (id : BitVec 5)
  | enumEnd (count : BitVec 5) (ovf conf : Bool)
  | frame (dev idx : BitVec 4) (header : Word) (words : List Word)
  | reply (dev idx : BitVec 4) (header : Word) (words : List Word)
  | bcast (op : Bcast)
  | barrier
  | mch (dev : BitVec 4) (d : MchData)
  | data (dev : BitVec 4) (words : List Word)
  | time (stamp : Nat) (frac : Nat) (deg : Bool) (hops : Nat)
  | nak (seq : BitVec 5)
  | ping
  | idle
  | forwarded (bytes : List Byte)
  deriving DecidableEq, Repr

/-- A flit handed to a port: its type, its sequence number if it is sequenced, the `ACK` it has left with, its place in its
message and whether it is the last of it, what the message carries, and the 16 bytes it has left with (R423 to R425). -/
structure CvFlit where
  typ : BitVec 4
  seq : BitVec 5
  ack : BitVec 5
  part : Nat
  last : Bool
  msg : CvMsg
  bytes : List Byte
  deriving DecidableEq, Repr

/-- A port of the link (R422 to R427): sequence number of the next sequenced flit sent, of the next one expected, the
replay buffer, the flits that wait for room in it, the replays since the last acknowledgement, and whether the FRAME message of which
flits have come and the last has not goes on down. -/
structure CvPort where
  txSeq : BitVec 5
  rxSeq : BitVec 5
  replay : List CvFlit
  waiting : List CvFlit
  tries : Nat
  frameOn : Option Bool
  deriving DecidableEq, Repr

/-- The stack (R428 to R445). -/
structure CvSt where
  up : CvPort
  dn : CvPort
  /-- Everything handed to the transmitters during the latest command, in order: port and flit. -/
  tx : List (Link × CvFlit)
  /-- The `UP` link has come up since L2 (R428). -/
  upEver : Bool
  /-- An ID is held, and the instant it was taken (R430). -/
  hasId : Bool
  idAt : Nat
  /-- The port toward a conflicting Captain, the ID that was offered to it, and whether the link of that port has dropped since
  (R429). -/
  conflict : Option (Link × Nat × Bool)
  /-- Instant of the latest TIME flit, or of the squad role before the first one, and the instant from which the error has stayed
  within 1 ns (R434, R436). -/
  timeAt : Option Nat
  errOkFrom : Option Nat
  /-- The Captain's `TIMEBASE_DEGRADED` as the latest TIME flit carried it (R432). -/
  captDeg : Bool
  /-- End of `LOSS_TMO` while it runs (R436). -/
  lossEnd : Option Nat
  /-- Instant at which the running barrier started (R440). -/
  barStart : Option Nat
  /-- A BARRIER flit that waits for the replies of the routed frames received before it (R440). -/
  barHeld : Option (List Req)
  /-- The latest PING exchanges on `UP`, newest first, at most 16 (R433). -/
  pings : List Ping
  /-- Stack time and `LTIME` at the latest TIME flit, in 125 ps, and the progress of both from the one before to it: the measured rate
  of the oscillator (R433). -/
  timeRef : Option (Nat × Nat)
  rate : Option (Int × Int)
  /-- The further rate of `LTIME` relative to stack time during a slew, in ppm (R435). -/
  slewPpm : Int
  /-- A stack reset the writer enters when its flit has left both ports: level and own ID (R442). -/
  rstPend : Option (Nat × Nat)
  /-- Whistle schedules held, in ns of stack time, at most four (R441). -/
  sched : List Nat
  /-- The gather buffer: filled slots and their 512 words; slots still awaited (R443, R447). -/
  gather : List (Nat × List Word)
  gatherWait : BitVec 16
  /-- `LTIME` of the Captain's latch of the read-out. -/
  gatherLatch : Nat
  deriving DecidableEq, Repr

/-! ### Whistle -/

/-- Whistle and snapshot sets (R448 to R461): the 508 words of header, axis and device sections, none before the first
latch; the ends of the hold-off and of the drive; `WH_MISSED` since the previous latch; the filtered level of `WHSL`. -/
structure WhSt where
  snap : Option (List Word)
  latchT : Nat
  holdEnd : Option Nat
  driveEnd : Option Nat
  missed : Nat
  pinHigh : Bool
  deriving DecidableEq, Repr

/-! ### Reset and start-up -/

/-- How far a start-up has come (R537): in the stretch, held by an external `nRST`, waiting for its supplies and domains,
option image loaded, self-check ended, stopped by a failed self-check (R538), or ended. -/
inductive BootSt where
  | stretch | held | power | loaded | checked | halted | done
  deriving DecidableEq, Repr

/-- Resets (R525 to R543). -/
structure RstSt where
  boot : BootSt
  /-- The level of the reset whose stretch or BOOT runs: 1 L1, 2 L2, 3 L3 (R529). -/
  level : Fin 4
  /-- A restart of the interpreter alone is due: an L3 reset past its stretch or a brownout of `PD2` (R355, R539). -/
  restart : Bool
  /-- Patch slots still to verify in this BOOT (R537). -/
  toVerify : List (Fin 4)
  /-- The target of the running block reset (R540). -/
  block : Option (BitVec 4)
  deriving DecidableEq, Repr

/-! ### AUX port transfers -/

/-- A commanded AUX transfer (R327, R350): ticket, select, bit count and transmit words. -/
structure AuxXfer where
  ticket : BitVec 8
  sel : Fin 4
  bits : Nat
  words : List Word
  deriving DecidableEq, Repr

/-- The settings of a select that a transfer uses (R308, R309, R328): mode, sampling, divider and the three delays. -/
structure AuxSet where
  cpol : Bool
  late : Bool
  div : Nat
  lead : Nat
  lag : Nat
  idle : Nat
  deriving DecidableEq, Repr

/-- The AUX port as a master (R327): serial reads that have fallen due, in order, the queue of commanded transfers, the
running transfer, a serial read of an axis or a commanded one; the settings in force for it or for the latest one (R328), the bits
that a commanded one sends (R350), the instant its select rises, and the first one at which the next select may fall (R309). -/
structure AuxSt where
  serQ : List Axis
  queue : List AuxXfer
  cur : Option (Axis ⊕ AuxXfer)
  set : AuxSet
  tx : List Bool
  riseAt : Nat
  idleEnd : Nat
  deriving DecidableEq, Repr

/-! ### Test access port -/

/-- The instructions of R572. -/
inductive TapInstr where
  | extest | idcode | samplePreload | clamp | highz | gatetest | bypass
  | priv (op : BitVec 8)
  deriving DecidableEq, Repr

/-- The test access port (R569 to R580): the current instruction, the Capture-IR value that came before it, the lifecycle
code sensed at the latest BOOT since L1, a takeover, the captured data register, the update cells of the boundary
register, the commands of the gate cells, and the cut-off of R579. -/
structure TapSt where
  instr : TapInstr
  irCapture : BitVec 8
  sensed : Option (BitVec 2)
  takeover : Bool
  capture : BitVec 273
  update : BitVec 273
  gates : BitVec 128
  cutOff : Bool
  deriving DecidableEq, Repr

--AXIS
/-- One axis: the parts of its engine that are not registers. -/
structure AxisSt where
  mot : MotionSt
  fol : FollowSt
  gd : GateSt
  pwm : PwmSt
  cc : CcSt
  la : LaSt
  probe : Option ProbeSt
  /-- Instant from which the present interval of `PROBE_EVERY` runs (R188). -/
  probeAt : Option Nat
  fb : FbSt
  deriving DecidableEq, Repr

--STATE
/-- The state of the part. -/
structure State where
  /-- The instant the machine has reached, in 125 ps units from the zero of `LTIME` (R27). -/
  now : Nat
  /-- The model's own counter of free values used; no rule of the spec (assumption log 1). -/
  freeCtr : Nat
  /-- The register file: pairs of a register's byte address and its word, addresses rising, no entry equal to the
  reset word of its address (R361, R381). -/
  regs : List (Nat × Word)
  axes : Vector AxisSt 16
  mch : Vector MchSt 4
  wt : Vector WtSt 8
  ms : MsSt
  ip : InterpSt
  hp : PortSt
  aux : PortSt
  tb : TimeSt
  pw : PowerSt
  /-- Privileged channels: 0 to 3 `APWMn`, 4 to 7 `BRKq` (R193). -/
  priv : Vector PrivSt 8
  bk : BkSt
  sec : SecSt
  lk : LkSt
  cv : CvSt
  wh : WhSt
  rst : RstSt
  auxm : AuxSt
  tap : TapSt
  /-- Whistles raised within the present command and not yet latched: source code and detail (R448); empty between
  commands. -/
  whReq : List (Nat × Nat)
  /-- The axis whose next segment the planner is computing (R68). -/
  plnWork : Option Axis
  /-- Commands waiting to be sent to the block, first in, first out (the model's queue). -/
  pending : List Instr
  deriving DecidableEq, Repr

/-! ### Reset -/

/-- Motion of an axis after reset: standstill at position zero, from the zero of `LTIME` on (assumption log 66). -/
def MotionSt.reset : MotionSt := {
  pos := 0, vel := 0, acc := 0, target := 0, remain := 0, resumeGoal := 0, queue := [], cutQueue := [], window := []
  phases := [], chain := [], jogSeq := none, jogVel := 0, jogSet := 0, seen := [], planEnd := { p := 0, v := 0, a := 0 }, cut := none, brake := none, recordDue := none
  stopGoal := none, stillAt := some 0, policyOn := false, stallHold := none, energiseEnd := none, stopped := false }

/-- A follower after reset. -/
def FollowSt.reset : FollowSt := {
  stepT := 0, stepBase := 0, stepDw := 0, stepDt := 0, stepTb := 0, stepLast := none, dirLevel := false, stpLevel := false
  camPar := { origin := 0, offset := 0, entry := 0, absolute := false, tol := 0, leave := 0, margin := 0 }
  nextPar := { origin := 0, offset := 0, entry := 0, absolute := false, tol := 0, leave := 0, margin := 0 }
  gearPend := none, gear := none, cam := none, c0 := 0, cyc := 0, camNext := none, switchDue := false, buf := []
  nextBuf := [], seek := none, prevM := 0, exitArmed := false, exitAt := none, lossPend := none, srcPend := none, engSeq := none }

/-- A master channel after reset. -/
def MchSt.reset : MchSt := { samples := [], lastM := 0, lastAt := 0, rev16 := 0, revExt := 0, viaFb := false }

/-- A decoder's counting core after reset. -/
def FbCore.reset : FbCore := {
  fa := false, fb := false, fz := false, tA := none, tB := none, tZ := none, lastT := none, lastP := none
  lastDir := none, speed := 0, winFirst := none, winLast := none, winNet := 0, winAt := 0, overX := false
  lastIdx := none, idxDone := false, hall := none
  extra := false, zeroNext := false, missed := none }

/-- A feedback decoder after reset. -/
def FbSt.reset : FbSt := { core := FbCore.reset, serGood := false, serLast := none, serAt := none, serLate := false }

/-- The filters of a comparator after reset: inactive (R298). -/
def FiltSt.reset : FiltSt := { hist := [], out := false, outAt := 0, acc := false }

/-- Gate drive of an axis after reset: every gate low. -/
def GateSt.reset : GateSt := {
  ena := false, escEnd := none, shortOff := 0, crossHold := 0, crossNow := 0, crossRun := Vector.replicate 4 0
  bstHold := 0, bstAt := Vector.replicate 4 none, sn := Vector.replicate 8 FiltSt.reset, lastLow := 0, lowAt := Vector.replicate 2 0, diagPend := [], diagRun := none, diagFind := 0, diagPassed := false
  uvHold := false, fallback := false, cpReturn := false, sinceLow := Vector.replicate 4 0, lowDone := 0, pulsed := 0
  lastForce := 0, forceDly := 0, lastAllow := 0, letAt := Vector.replicate 8 0, fltAt := 0, fltSet := 0, fltFirst := 0, fltOff := 0 }

/-- A stopped period timer. -/
def Timer.reset : Timer := { run := false, next := 0, nextIsPeriod := false, periodAt := 0 }

/-- PWM unit of an axis after reset. -/
def PwmSt.reset : PwmSt := {
  timer := Timer.reset, updDue := false, periodDue := false, sampleDue := false, pend := none, staged := none
  carry := Vector.replicate 4 0, refresh := [], lateNow := false, tripForce := 0, tripDrop := 0
  legs := Vector.replicate 4 [] }

/-- The set of a privileged channel after reset: the reset values of its staging registers (R222). -/
def PrivSet.reset : PrivSet := { per := 200000, on := 0, off := 0, en := false, pol := false }

/-- A privileged channel after reset. -/
def PrivSt.reset : PrivSt := {
  timer := Timer.reset, pend := none, comm := PrivSet.reset, force := PrivSet.reset, want := false }

/-- A winding after reset. -/
def WindSt.reset : WindSt := {
  integ := 0, iPrev := 0, irefPrev := 0, uPrev := 0, eObs := 0, fI := 0, fE := 0, sample := none, skipRun := 0
  vs := 0, vsLast := 0, pre := 0, preRun := 0
  chop := { phase := .held, from_ := 0, since := 0, pos := true, watch := false, shorts := 0, thr := 0 } }

/-- Current control of an axis after reset. -/
def CcSt.reset : CcSt := {
  w := Vector.replicate 2 WindSt.reset, comp := none, compDue := false, ocHold := Vector.replicate 2 0
  oc := Vector.replicate 2 FiltSt.reset, first := true
  energAt := 0 }

/-- The load-angle unit of an axis after reset. -/
def LaSt.reset : LaSt := {
  delta := 0, mag := 0, trav := 0, stallFrom := none, recFrom := none, psi := [], lastStall := none, stallDue := none
  boostEnd := none, fallDue := false, noReact := false, eco := 0, resyncDue := false, stalled := false }

/-- One axis after reset. -/
def AxisSt.reset : AxisSt := {
  mot := MotionSt.reset, fol := FollowSt.reset, gd := GateSt.reset, pwm := PwmSt.reset, cc := CcSt.reset
  la := LaSt.reset, probe := none, probeAt := none, fb := FbSt.reset }

/-- The interpreter after L2: not running, the first number 0x0001 (R351). -/
def InterpSt.reset : InterpSt := {
  running := false, cmdq := [], ledger := [], log := [], nextSeq := 1, tickets := [], routes := [], unlocked := false
  loLatch := [], pendReset := [], wrStatus := 0 }

/-- The AUX port as a master after L2, with the settings that the registers of a select reset to (R332). -/
def AuxSt.reset : AuxSt := {
  serQ := [], queue := [], cur := none, set := { cpol := false, late := false, div := 10, lead := 5, lag := 5, idle := 10 }, tx := []
  riseAt := 0, idleEnd := 0 }

/-- A port after L2 (R317). -/
def PortSt.reset : PortSt := { store := [], out := [], outFor := none, readyAt := 0, flags := 0, shifted := [], roleNext := [], lastFall := 0, lastRise := 0 }

/-- The time base after L2. -/
def TimeSt.reset : TimeSt := {
  refGood := false, testFrom := 0, calNo := 0, cal := Vector.replicate 72 { placing := false, good := (0, 0), used := 0 } }

/-- A bank with no access and no history. -/
def BankSt.reset : BankSt := {
  busy := none, owner := none, overCnt := 0, used := Vector.replicate 22 0, k := Vector.replicate 26 0
  last := Vector.replicate 26 0, letEnd := Vector.replicate 26 none }

/-- The Locker of a new part after reset: nothing listed, every region in its first generation. -/
def LkSt.reset : LkSt := {
  cells := [], gen := Vector.replicate 64 0, initPend := 0, banks := Vector.replicate 8 BankSt.reset, jobs := []
  reads := [], vals := [], arm := none, shadow := none, apply := none, waves := [], trace := [], trcHead := 0, scrubAt := 0 }

/-- A Cenov port after reset. -/
def CvPort.reset : CvPort := { txSeq := 0, rxSeq := 0, replay := [], waiting := [], tries := 0, frameOn := none }

/-- The stack after reset. -/
def CvSt.reset : CvSt := {
  up := CvPort.reset, dn := CvPort.reset, tx := [], upEver := false, hasId := false, idAt := 0, conflict := none, timeAt := none
  errOkFrom := none, captDeg := false, lossEnd := none, barStart := none, barHeld := none, pings := [], timeRef := none, rate := none, slewPpm := 0, rstPend := none, sched := [], gather := [], gatherWait := 0, gatherLatch := 0 }

/-- The Whistle after reset. -/
def WhSt.reset : WhSt := { snap := none, latchT := 0, holdEnd := none, driveEnd := none, missed := 0, pinHigh := true }

/-- A port's session after reset. -/
def SessPort.reset : SessPort := { opening := none, sess := none, fails := 0, lockEnd := none }

/-- The security engine of a new part: lifecycle MANUFACTURE, only the ROM key in slot 0 (R483, R491). -/
def SecSt.reset : SecSt := {
  life := 0, auditNext := 0, auditBuf := [], auditRate := [], auditLog := [], chain := List.replicate 8 0
  keys := (Vector.replicate 16 none).set 0 (some { serial := 0, point := [] })
  patches := Vector.replicate 4 { armed := none, applied := false }, svn := 0, ident := none
  hp := SessPort.reset, aux := SessPort.reset, jobs := [], decom := false, recs := [], highs := [], spans := [], bkTable := [] }

/-- The measurement unit after reset. -/
def MsSt.reset : MsSt := {
  vNext := Vector.replicate 16 0, ainNext := 0, wm := Vector.replicate 12 { decided := 0, act := 0, atRelease := 0, hold := Vector.replicate 3 0, since := Vector.replicate 3 0, filt := Vector.replicate 3 FiltSt.reset }
  tripAt := Vector.replicate 4 none }

/-- Domains and supplies right after power-on: only `PD0` is up, of the monitored supplies only `VDD33` is good. -/
def PowerSt.reset : PowerSt := {
  on := 1, transit := none, autoNext := none, sleepPend := none, supplies := 1, vgsUv := true }

/-- Resets right after power-on: the stretch of an L1 (R525, R528). -/
def RstSt.reset : RstSt := {
  boot := .stretch, level := 1, restart := false, toVerify := [], block := none }

/-- The test access port after L1: Test-Logic-Reset with IDCODE (R569). -/
def TapSt.reset : TapSt := {
  instr := .idcode, irCapture := 0x21, sensed := none, takeover := false, capture := 0, update := 0, gates := 0
  cutOff := false }

/-- The part right after the power-on reset has been triggered (R525): the registers hold their reset values, nothing is
stored in the Locker beyond what a new part holds, and no command waits. -/
def State.reset : State := {
  now := 0, freeCtr := 0, regs := [], axes := Vector.replicate 16 AxisSt.reset, mch := Vector.replicate 4 MchSt.reset
  wt := Vector.replicate 8 { moved := 0, op := none }, ms := MsSt.reset, ip := InterpSt.reset, hp := PortSt.reset
  aux := PortSt.reset, tb := TimeSt.reset, pw := PowerSt.reset, priv := Vector.replicate 8 PrivSt.reset
  bk := { stoA := false, stoB := false, stoDiffAt := none, stoAt := Vector.replicate 2 none, storing := false, table := [], imaging := false, failed := false }, sec := SecSt.reset, lk := LkSt.reset
  cv := CvSt.reset, wh := WhSt.reset, rst := RstSt.reset, auxm := AuxSt.reset, tap := TapSt.reset
  whReq := [], plnWork := none, pending := [] }

end Sys2Proof.Machine
end

