-- ==== Sys2Proof/Machine/Motion.lean ====
section
/-!
DEFINITION. Evaluation of segments (R56 to R61): exact in integers, rounded once to the formats of the segment record,
ties away from zero. Instants inside this file are 125 ps units; a second holds `tps` of them.
-/

namespace Sys2Proof.Machine

/-- 125 ps units in one second. -/
def tps : Nat := 8000000000

/-- 125 ps units in one ns, one µs, one ms. -/
def nsT : Nat := 8
def usT : Nat := 8000
def msT : Nat := 8000000

/-- The open-ended duration (R45). -/
def openDur : Nat := 0xFFFFFFFF

/-- The longest duration a segment holds (R45, R61). -/
def maxDur : Nat := 0xFFFFFFFE

/-- R56 for an elapsed time `t`: position in 2^-16 µstep, velocity in 2^-32 µstep/s, acceleration in 2^-24 µstep/s²,
each rounded once (R57, R59). -/
def kinEval (p0 v0 a0 j : Int) (t : Nat) : KState :=
  { p := divRound (p0 * (393216 * tps ^ 3 : Nat) + v0 * (6 * t * tps ^ 2 : Nat) + a0 * (768 * t ^ 2 * tps : Nat)
      + j * (256 * t ^ 3 : Nat)) (393216 * tps ^ 3)
    v := divRound (v0 * (2 * tps ^ 2 : Nat) + a0 * (512 * t * tps : Nat) + j * (256 * t ^ 2 : Nat)) (2 * tps ^ 2)
    a := divRound (a0 * (tps : Nat) + j * (t : Nat)) tps }

/-- The state of a segment `t` units after its start. -/
def Seg.eval (s : Seg) (t : Nat) : KState := kinEval s.p0 s.v0 s.a0 s.j t

/-- The state at the end of a segment, with the corrections of R60. -/
def Seg.endState (s : Seg) : KState :=
  let k := s.eval (s.dur * nsT)
  { p := s.endP.getD k.p, v := if s.zeroV then 0 else k.v, a := if s.zeroA then 0 else k.a }

/-- The first instant after the interval of a segment, `none` when it is open-ended. -/
def Seg.endAt (s : Seg) : Option Nat :=
  if s.dur = openDur then none else some ((s.start + s.dur) * nsT)

/-- The instant at which a brake has brought the velocity to zero (R84). -/
def Brake.endAt (b : Brake) : Nat :=
  if b.base.a = 0 then b.at_
  else b.at_ + (b.base.v.natAbs * tps + b.base.a.natAbs * 256 - 1) / (b.base.a.natAbs * 256)

/-- The position at which a brake ends: the velocity falls linearly to zero, so it covers v²/(2a). -/
def Brake.endPos (b : Brake) : Int :=
  if b.base.a = 0 then b.base.p
  else b.base.p + sgn b.base.v * divRound (b.base.v.natAbs ^ 2) (b.base.a.natAbs * 2 ^ 25)

/-- The state of an axis under a brake at instant `t` (R84): linear before `at_`, then decelerating, then at rest. -/
def Brake.eval (b : Brake) (t : Nat) : KState :=
  if t < b.at_ then { (kinEval b.p0 b.base.v 0 0 (t - b.from_)) with a := 0 }
  else if t < b.endAt then kinEval b.base.p b.base.v b.base.a 0 (t - b.at_)
  else { p := b.endPos, v := 0, a := 0 }

/-- The segments whose interval has not ended at instant `t`, and the state at the end of the last one that has. -/
def dropEnded (t : Nat) : List Seg → KState → List Seg × KState
  | [], k => ([], k)
  | s :: ss, k =>
    match s.endAt with
    | some e => if e ≤ t then dropEnded t ss s.endState else (s :: ss, k)
    | none => (s :: ss, k)

/-- The segments of a queue whose interval has not ended at instant `t` (R66). -/
def liveSegs (t : Nat) : List Seg → List Seg
  | [] => []
  | s :: ss =>
    match s.endAt with
    | some e => if e ≤ t then liveSegs t ss else s :: ss
    | none => s :: ss

/-- The state of a segment at instant `t` of its interval, or at rest at its start before that: a segment that has not
begun follows a standstill (R58). -/
def Seg.stateAt (s : Seg) (t : Nat) : KState :=
  if s.start * nsT ≤ t then s.eval (t - s.start * nsT) else { p := s.p0, v := 0, a := 0 }

/-- The state the committed segments of a queue give at instant `t`, from the state `k` before them. -/
def queueEval (q : List Seg) (k : KState) (t : Nat) : KState :=
  match dropEnded t q k with
  | ([], e) => e
  | (s :: _, _) => s.stateAt t

/-- The end of the last segment of a chain: its instant, if it ends. -/
def chainEndAt : List Seg → Option Nat
  | [] => none
  | [s] => s.endAt
  | _ :: ss => chainEndAt ss

/-- The end state of a computed segment; an open-ended one leaves its start state to the next plan. -/
def Seg.after (s : Seg) : KState :=
  if s.dur = openDur then { p := s.p0, v := s.v0, a := s.a0 } else s.endState

/-- The state at the end of the last segment of a chain, `k` for an empty one. -/
def chainEndState : List Seg → KState → KState
  | [], k => k
  | s :: ss, _ => chainEndState ss s.after

/-- A state at rest: velocity and acceleration zero (R84). -/
def KState.resting (k : KState) : Bool := k.v == 0 && k.a == 0

end Sys2Proof.Machine
end

