-- ==== Sys2Proof/Machine/Ops.lean ====
section
/-!
DEFINITION. The named operations over the register file and over the axes: reading and writing a field (R8, R15), events
in W1C and RC fields (R16), saturating counts, time, and free values.
-/

namespace Sys2Proof.Machine

/-! ### The register file -/

/-- An address of a wave-table buffer (R167). -/
def isWaveAddr (addr : Nat) : Bool := decide (0x200000 ≤ addr) && decide (addr < 0x208000)

/-- The word of a register address at reset (R18): that of the register map, the sine in a wave-table buffer (R134), zero
where no register lies. -/
def resetWord (addr : Nat) : Word :=
  if isWaveAddr addr then sineWord (addr % 0x800 / 4)
  else match regAt addr with
  | some (r, _, _) => r.resetWord
  | none => 0

/-- The word an address holds in a register file. -/
def rfGet : List (Nat × Word) → Nat → Word
  | [], a => resetWord a
  | (b, w) :: l, a => if b = a then w else rfGet l a

/-- A register file without an entry of one address. -/
def rfErase : List (Nat × Word) → Nat → List (Nat × Word)
  | [], _ => []
  | (b, w) :: l, a => if b = a then rfErase l a else (b, w) :: rfErase l a

/-- A register file with a new entry put at its place, replacing one of the same address. -/
def rfInsert : List (Nat × Word) → Nat → Word → List (Nat × Word)
  | [], a, w => [(a, w)]
  | (b, v) :: l, a, w =>
    if a < b then (a, w) :: (b, v) :: l
    else if a = b then (a, w) :: l
    else (b, v) :: rfInsert l a w

/-- A register file in which an address holds a word; the reset word needs no entry. -/
def rfSet (l : List (Nat × Word)) (a : Nat) (w : Word) : List (Nat × Word) :=
  if w = resetWord a then rfErase l a else rfInsert l a w

/-- The addresses of a register file rise, all of them from `lo` on. -/
def rfSorted : Nat → List (Nat × Word) → Bool
  | _, [] => true
  | lo, (b, _) :: l => decide (lo ≤ b) && rfSorted (b + 1) l

/-- The canonical form of a register file: addresses rising, no entry equal to its reset word. -/
def rfWf (l : List (Nat × Word)) : Bool := rfSorted 0 l && l.all (fun e => e.2 != resetWord e.1)

/-- A field of a register. -/
def State.get (s : State) (f : Fld) : Nat := getBits (rfGet s.regs f.addr) f.hi f.lo

/-- A one-bit field as a flag. -/
def State.flag (s : State) (f : Fld) : Bool := s.get f != 0

/-- A field as a two's complement number (R9). -/
def State.getS (s : State) (f : Fld) : Int := signedOf (f.hi + 1 - f.lo) (s.get f)

/-- A state in which a field of a register has a new value. -/
def State.set (s : State) (f : Fld) (v : Nat) : State :=
  { s with regs := rfSet s.regs f.addr (putBits (rfGet s.regs f.addr) f.hi f.lo v) }

/-- A field set to a Boolean. -/
def State.setB (s : State) (f : Fld) (b : Bool) : State := s.set f (bitOf b)

/-- A field set to the two's complement pattern of an integer. -/
def State.setS (s : State) (f : Fld) (v : Int) : State := s.set f (toBits (f.hi + 1 - f.lo) v)

/-- An event: a W1C or RC bit is set (R16). -/
def State.raise (s : State) (f : Fld) : State := s.set f 1

/-- `n` events in a saturating count (R16). -/
def State.count (s : State) (f : Fld) (n : Nat) : State := s.set f (satAdd (s.get f) n (fieldMax f.hi f.lo))

/-- One event in a saturating count. -/
def State.inc (s : State) (f : Fld) : State := s.count f 1

/-- A high-water mark. -/
def State.mark (s : State) (f : Fld) (v : Nat) : State := s.set f (max (s.get f) (min v (fieldMax f.hi f.lo)))

/-- A 64-bit pair of words at `lo` and `lo + 4` as an unsigned number (R10). -/
def State.wide (s : State) (lo hi : Fld) : Nat := s.get lo + s.get hi * 2 ^ 32

/-! ### Time and free values -/

/-- The machine has reached instant `t`; time never steps backward (R27). -/
def State.at_ (s : State) (t : Nat) : State := { s with now := max s.now t }

/-- `LTIME` in ns (R27). -/
def State.ltime (s : State) : Nat := s.now / nsT % 2 ^ 64

/-- A fresh free 32-bit value and the state that has used it. -/
def State.free (s : State) : Word × State := (Config.freeWord s.freeCtr, { s with freeCtr := s.freeCtr + 1 })

/-! ### Axes -/

/-- The internal state of an axis. -/
def State.ax (s : State) (a : Axis) : AxisSt := s.axes[a]

/-- A state with the internal state of one axis changed. -/
def State.modAx (s : State) (a : Axis) (f : AxisSt → AxisSt) : State :=
  { s with axes := s.axes.set a (f s.axes[a]) }

/-- A state with the motion state of one axis changed. -/
def State.modMot (s : State) (a : Axis) (f : MotionSt → MotionSt) : State :=
  s.modAx a fun x => { x with mot := f x.mot }

/-- A state with the gate-drive state of one axis changed. -/
def State.modGd (s : State) (a : Axis) (f : GateSt → GateSt) : State :=
  s.modAx a fun x => { x with gd := f x.gd }

/-- A state with the follower state of one axis changed. -/
def State.modFol (s : State) (a : Axis) (f : FollowSt → FollowSt) : State :=
  s.modAx a fun x => { x with fol := f x.fol }

/-- A state with the PWM unit of one axis changed. -/
def State.modPwm (s : State) (a : Axis) (f : PwmSt → PwmSt) : State :=
  s.modAx a fun x => { x with pwm := f x.pwm }

/-- The follower state of an axis. -/
def State.fol (s : State) (a : Axis) : FollowSt := (s.ax a).fol

/-- The PWM unit of an axis. -/
def State.pwm (s : State) (a : Axis) : PwmSt := (s.ax a).pwm

/-- A state with the current control of one axis changed. -/
def State.modCc (s : State) (a : Axis) (f : CcSt → CcSt) : State :=
  s.modAx a fun x => { x with cc := f x.cc }

/-- A state with the load-angle unit of one axis changed. -/
def State.modLa (s : State) (a : Axis) (f : LaSt → LaSt) : State :=
  s.modAx a fun x => { x with la := f x.la }

/-- A state with one wave table's swap record changed. -/
def State.modWt (s : State) (t : Fin 8) (f : WtSt → WtSt) : State := { s with wt := s.wt.set t (f s.wt[t]) }

/-- A state with the feedback decoder of one axis changed. -/
def State.modFb (s : State) (a : Axis) (f : FbSt → FbSt) : State :=
  s.modAx a fun x => { x with fb := f x.fb }

/-- A state with the counting core of the decoder of one axis changed. -/
def State.modCore (s : State) (a : Axis) (f : FbCore → FbCore) : State :=
  s.modFb a fun x => { x with core := f x.core }

/-- The counting core of the feedback decoder of an axis. -/
def State.core (s : State) (a : Axis) : FbCore := (s.ax a).fb.core

/-- The current control of an axis. -/
def State.cc (s : State) (a : Axis) : CcSt := (s.ax a).cc

/-- The load-angle unit of an axis. -/
def State.la (s : State) (a : Axis) : LaSt := (s.ax a).la

/-- The motion state of an axis. -/
def State.mot (s : State) (a : Axis) : MotionSt := (s.ax a).mot

/-- The standstill policy in force on an axis, none before `STILL_DELAY` has run (R89); a stall reaction STOP_FREE or, at
standstill, STOP_HOLD takes its place (R180). -/
def State.policyNow (s : State) (a : Axis) : Option Nat :=
  let m := s.mot a
  match m.stallHold with
  | some true => some 1
  | some false => if m.queue.isEmpty && m.brake.isNone && m.vel == 0 then some 0 else none
  | none => if m.policyOn then some (s.get (F.AX_PLN_CFG.STILL_POLICY a)) else none

/-- A motion of the axis begins: the standstill delay and policy end (R89, R180). DESIGN CHOICE (assumption log 137): a follower
that engages after STOP_FREE is energised and follows at once, for R113 fixes its relation at the first boundary and R146 keeps
followers from the energising rule. -/
def beginMotion (a : Axis) (s : State) : State :=
  s.modMot a fun m => { m with stillAt := none, policyOn := false, stallHold := none, stopped := false }

/-- The gate-drive state of an axis. -/
def State.gd (s : State) (a : Axis) : GateSt := (s.ax a).gd

/-- An operation applied to a list of axes in turn. -/
def State.each {α : Type} (s : State) (l : List α) (f : α → State → State) : State := l.foldl (fun t x => f x t) s

/-- All sixteen axes, the lowest first. -/
def allAxes : List Axis := List.finRange 16

/-- The quad of an axis. -/
def quadOf (a : Axis) : Quad := ⟨a / 4, by omega⟩

/-- The four axes of a quad. -/
def quadAxes (q : Quad) : List Axis := allAxes.filter (fun a => quadOf a = q)

/-- All four quads. -/
def allQuads : List Quad := List.finRange 4

/-- A number as an axis, its low four bits. -/
def axisOf (n : Nat) : Axis := ⟨n % 16, by omega⟩

/-! ### Domains, mode and axis state -/

/-- Domain `PDn` is up (R515). -/
def State.pd (s : State) (n : Nat) : Bool := s.pw.on.getLsbD n

/-- A block reset of a target runs, or the target is hung in it (R540, R541). -/
def State.blockHeld (s : State) (t : Nat) : Bool :=
  s.rst.block == some (BitVec.ofNat 4 t) || s.get F.BLK_RST_STAT.BLK_HUNG / 2 ^ (t - 2) % 2 == 1

/-- The quad domain of an axis is up and not held in a block reset. -/
def State.axOn (s : State) (a : Axis) : Bool := s.pd (3 + (quadOf a).val) && !s.blockHeld (2 + (quadOf a).val)

/-- The device mode, by the codes of R339. -/
def State.mode (s : State) : Nat := s.get F.MODE_STAT.MODE

/-- The state code of an axis (R511). -/
def State.axState (s : State) (a : Axis) : Nat := s.get (F.AX_STATE.STATE a)

/-- The motion source of an axis: 0 PACKET, 1 STEPDIR, 2 GEAR, 3 CAM (R96). -/
def State.src (s : State) (a : Axis) : Nat := s.get (F.AX_FOLLOW_STAT.SRC a)

end Sys2Proof.Machine
end

