-- ==== Sys2Proof/Machine/Profile.lean ====
section
/-!
DEFINITION. The shapes of profiles (R47, R62 to R65, R71, R80): changes of velocity, moves, jogs and stops as lists of
phases, and the computation of one phase into a segment (R59, R60). Velocities are in 2^-32 µstep/s, accelerations in
2^-24 µstep/s², positions in 2^-16 µstep; profile limits are in the register units.
-/

namespace Sys2Proof.Machine

/-- A set is usable when `VMAX` and `AMAX` are both non-zero (R47). -/
def Prof.usable (p : Prof) : Bool := p.vmax != 0 && p.amax != 0

/-- The deceleration limit: `DMAX`, or `AMAX` when `DMAX` = 0 (R47). -/
def Prof.decel (p : Prof) : Nat := if p.dmax = 0 then p.amax else p.dmax

/-- What every phase of one command shares. -/
structure PhaseTag where
  seq : BitVec 16
  seg : SegKind
  goal : Option Int
  deriving DecidableEq, Repr

/-- A phase of the given kind and duration in ns. -/
def PhaseTag.phase (g : PhaseTag) (k : PhaseKind) (dur : Nat) (zeroA zeroV : Bool) : Phase :=
  { kind := k, dur := dur, fit := false, zeroA := zeroA, zeroV := zeroV, endP := none, seq := g.seq, last := false,
    seg := g.seg, goal := g.goal }

/-- The middle of a jerk-limited change: its peak acceleration in 2^-24 µstep/s², and the times in ns to reach it, to hold it
and to leave it again. -/
structure Peak where
  acc : Nat
  up : Nat
  hold : Nat
  down : Nat
  deriving DecidableEq, Repr

/-- The time in ns, rounded, in which the jerk `jmax` changes the acceleration by `x` · 2^-`k` (2^-24 µstep/s²). -/
def jerkTime (x : Int) (k jmax : Nat) : Nat := (divRound (x * 1000000000) (2 ^ (24 + k) * jmax)).toNat

/-- The peak of a jerk-limited change that raises the velocity by `x` (2^-32 µstep/s) from acceleration `a0` (R62, R64). Where
the limit `amax` is not reached the times come from the square root to 64 further bits, so that each is rounded once. -/
def changePeak (x : Int) (a0 : Int) (amax jmax : Nat) : Peak :=
  let a24 : Nat := amax * 2 ^ 24
  let sq2 : Int := x * (jmax * 2 ^ 17 : Nat) + a0 * a0
  if a0 > a24 then
    { acc := a24, up := jerkTime (a0 - a24) 0 jmax
      hold := (divRound ((x * (2 ^ 17 * jmax : Nat) - a0 * a0) * 1000000000) (2 ^ 49 * jmax * amax)).toNat
      down := jerkTime a24 0 jmax }
  else if sq2 ≤ (2 * a24 * a24 : Nat) then
    let root : Nat := isqrt (sq2.toNat * 2 ^ 127)
    { acc := (divRound root (2 ^ 64)).toNat, up := jerkTime (root - a0 * 2 ^ 64) 64 jmax, hold := 0
      down := jerkTime root 64 jmax }
  else
    { acc := a24, up := jerkTime (a24 - a0) 0 jmax
      hold := (divRound ((x * (2 ^ 17 * jmax : Nat) - (2 * a24 * a24 : Nat) + a0 * a0) * 1000000000)
        (2 ^ 49 * jmax * amax)).toNat
      down := jerkTime a24 0 jmax }

/-- The velocity reached from `v0`, `a0` when the acceleration is brought to zero at once. -/
def coastVel (v0 a0 : Int) (jmax : Nat) : Int :=
  if jmax = 0 then v0 else v0 + sgn a0 * divRound (a0 * a0) (2 ^ 17 * jmax)

/-- A change of velocity in one direction from velocity `v0` and acceleration `a0` to velocity `v1` with zero
acceleration, limited by `amax` and `jmax` (R64, assumption log 21). -/
def changePhases (g : PhaseTag) (v0 a0 v1 : Int) (amax jmax : Nat) : List Phase :=
  let z : Bool := v1 == 0
  if amax = 0 then []
  else if jmax = 0 then
    if v0 = v1 then []
    else [g.phase (.accel v1) (divRound ((v1 - v0).natAbs * 1000000000 : Nat) (2 ^ 32 * amax)).toNat true z]
  else
    let s := sgn (v1 - coastVel v0 a0 jmax)
    if s = 0 then
      if a0 = 0 then [] else [g.phase (.jerk 0) (jerkTime a0.natAbs 0 jmax) true z]
    else
      let pk := changePeak (s * (v1 - v0)) (s * a0) amax jmax
      [ g.phase (.jerk (s * pk.acc)) pk.up false false,
        g.phase (.accel (v1 - s * divRound (pk.acc * pk.acc : Nat) (2 ^ 17 * jmax))) pk.hold false false,
        g.phase (.jerk 0) pk.down true z ]

/-- The phases of a change of velocity, through zero where the sign changes; a raising change is limited by `AMAX`, a
lowering one by the deceleration limit (R64, R65). -/
def velPhases (g : PhaseTag) (v0 a0 v1 : Int) (p : Prof) : List Phase :=
  if sgn v0 * sgn v1 < 0 then
    changePhases g v0 a0 0 p.decel p.jmax ++ changePhases g 0 0 v1 p.amax p.jmax
  else changePhases g v0 a0 v1 (if v1.natAbs < (coastVel v0 a0 p.jmax).natAbs then p.decel else p.amax) p.jmax

/-- The initial acceleration and the jerk of the segment that a phase becomes from state `k` with duration `dur`
(R60). -/
def phaseRates (k : KState) (ph : Phase) (dur : Nat) : Int × Int :=
  match ph.kind with
  | .jerk endA => (k.a, divRound ((endA - k.a) * 1000000000) dur)
  | .accel endV => (divRound ((endV - k.v) * 1000000000) (dur * 256), 0)
  | .cruise | .run => (0, 0)
  | .rest j => (k.a, j)

/-- The segment that phase `ph` of `dur` ns becomes from state `k`. -/
def phaseSeg (k : KState) (ph : Phase) (dur : Nat) : Seg :=
  let r := phaseRates k ph dur
  { start := 0, dur := dur, p0 := k.p, v0 := k.v, a0 := r.1, j := r.2, seq := ph.seq, last := ph.last, kind := ph.seg
    zeroA := ph.zeroA, zeroV := ph.zeroV, endP := ph.endP, goal := ph.goal }

/-- The first piece, of the longest duration, of a phase of `dur` ns split under R61, and the phase left after it: all pieces
have the acceleration and jerk of the whole phase. -/
def splitPhase (k : KState) (ph : Phase) (dur : Nat) : Seg × Phase :=
  let sg := { phaseSeg k ph dur with dur := maxDur, last := false, zeroA := false, zeroV := false, endP := none }
  (sg, { ph with kind := .rest sg.j, dur := dur - maxDur, fit := false })

/-- The state after a list of phases of fixed durations, each computed in turn; phases of 0 ns are omitted (R62). -/
def runPhases : List Phase → KState → KState
  | [], k => k
  | ph :: ps, k =>
    if ph.dur = 0 ∨ ph.kind = .run then runPhases ps k
    else runPhases ps ({ phaseSeg k ph ph.dur with endP := none }).endState

/-- The displacement of a list of phases of fixed durations from velocity `v` and acceleration `a`. -/
def phasesDisp (ps : List Phase) (v a : Int) : Int := (runPhases ps { p := 0, v := v, a := a }).p

/-- The phases of the same command up to and including its last one. -/
def sameMove : List Phase → List Phase
  | [] => []
  | ph :: ps => if ph.last then [ph] else ph :: sameMove ps

/-- The duration in ns of the cruise that takes up the remaining distance of its move (R60): what is left of the
distance to `goal` after the phases that follow, at the velocity actually reached. -/
def fitDur (k : KState) (goal : Int) (after : List Phase) : Nat :=
  let rest := goal - k.p - phasesDisp (sameMove after) k.v 0
  if k.v = 0 ∨ sgn rest ≠ sgn k.v then 0
  else (divRound ((rest.natAbs * 65536 * 1000000000 : Nat)) k.v.natAbs).toNat

/-- The duration in ns of a phase from state `k`, `after` the phases that follow it. -/
def phaseDur (k : KState) (ph : Phase) (after : List Phase) : Nat :=
  if ph.fit then fitDur k (ph.goal.getD k.p) after else ph.dur

/-- Every phase up to the last one of the command rounds to 0 ns from state `k` (R62). -/
def restOmitted (k : KState) : List Phase → Bool
  | [] => true
  | ph :: ps => ph.kind != .run && phaseDur k ph (if ph.last then [] else ps) == 0 && (ph.last || restOmitted k ps)

/-- The phases after the last one of the present command. -/
def afterMove : List Phase → List Phase
  | [] => []
  | ph :: ps => if ph.last then ps else afterMove ps

/-- A segment that is the last of its command because the phases `ps` after it are omitted: it ends as the last of them
would (R60, R62). -/
def closeSeg (sg : Seg) (ps : List Phase) : Seg :=
  match (sameMove ps).getLast? with
  | none => sg
  | some ph => { sg with last := ph.last, zeroA := ph.zeroA, zeroV := ph.zeroV, endP := ph.endP }

/-- The next segment of a plan from state `k`, and the phases left after it (R59 to R62): phases that round to 0 ns are
omitted, and a command of which every phase does has one segment of 1 ns (R63). -/
def nextSeg (k : KState) : List Phase → Option (Seg × List Phase)
  | [] => none
  | ph :: ps =>
    let after := if ph.last then [] else ps
    let d := phaseDur k ph after
    if ph.kind = .run then some (phaseSeg k ph openDur, ps)
    else if d = 0 then (if ph.last then some (phaseSeg k { ph with kind := .cruise } 1, ps) else nextSeg k ps)
    else if maxDur < d then
      let r := splitPhase k ph d
      some (r.1, r.2 :: ps)
    else
      let sg := phaseSeg k ph d
      if !ph.last && restOmitted sg.endState after then some (closeSeg sg after, afterMove ps) else some (sg, ps)

/-- A phase marked as the last of its command, ending at `endP` when one is given. -/
def markLast (endP : Option Int) : List Phase → List Phase
  | [] => []
  | [ph] => [{ ph with last := true, endP := endP }]
  | ph :: ps => ph :: markLast endP ps

/-- The distance, in 2^-64 µstep, of a change between two velocities of one sign with zero acceleration at both ends
(R62): the mean velocity times the duration of the change. -/
def changeDist (v0 v1 amax jmax : Nat) : Nat :=
  let d := if v0 ≤ v1 then v1 - v0 else v0 - v1
  if jmax = 0 then (v0 + v1) * d * 2 ^ 64 / (2 ^ 65 * amax)
  else if d * jmax ≤ 2 ^ 32 * amax ^ 2 then (v0 + v1) * isqrt (d * 2 ^ 96 / jmax) / 2 ^ 32
  else (v0 + v1) * (d * jmax + 2 ^ 32 * amax ^ 2) * 2 ^ 64 / (2 ^ 65 * amax * jmax)

/-- The distance of a change from velocity `v0`, acceleration `a0` to velocity `v1`, all along the direction of the
move, in 2^-64 µstep. -/
def approachDist (v0 a0 : Int) (v1 : Nat) (p : Prof) : Int :=
  if a0 = 0 ∧ 0 ≤ v0 then
    changeDist v0.toNat v1 (if v1 < v0.toNat then p.decel else p.amax) p.jmax
  else
    phasesDisp (velPhases { seq := 0, seg := .move, goal := none } v0 a0 v1 p) v0 a0 * 2 ^ 48

/-- Phases for the opposite direction. -/
def mirrorPhase (s : Int) (ph : Phase) : Phase :=
  match ph.kind with
  | .jerk a => { ph with kind := .jerk (s * a) }
  | .accel v => { ph with kind := .accel (s * v) }
  | .rest j => { ph with kind := .rest (s * j) }
  | .cruise | .run => ph

/-- The limit of a change between two speeds of one sign: `AMAX` where it raises the speed, the deceleration limit where it
lowers it (R64). -/
def Prof.limit (p : Prof) (v0 v1 : Nat) : Nat := if v0 < v1 then p.amax else p.decel

/-- The largest speed up to `top`, in 1/256 µstep/s, that satisfies `fits`, from a speed `c` on which it is reached by raising and
below which it is reached by lowering; `none` where no speed from 0 on does. Above `c` a change covers the more distance the higher
its end, below it the distance of a lowering change rises and then falls again, so that each part is searched on its own. -/
def largestSpeed (fits : Nat → Bool) (c top : Nat) : Option Nat :=
  let up : Nat → Bool := fun v => decide (v ≤ top) && fits v
  if fits top then some top
  else if up (c + 1) then some (searchLargest up 31 (c + 1))
  else if up c then some c
  else if fits 0 then some (searchLargest (fun v => decide (v < c) && up v) 31 0)
  else none

/-- Peak velocity of a move over distance `dist` (2^-64 µstep) from `v0`, `a0` to the end velocity `vend`: `VMAX`, or
the largest multiple of 1/256 µstep/s whose ramps do not exceed the distance (R63, R64). A start that lies below the end velocity
is raised to it at least; else the peak lies at or above the start, or, where no such peak fits, between the two. -/
def peakVel (v0 a0 : Int) (vend : Nat) (dist : Int) (p : Prof) : Nat :=
  let ok : Nat → Bool := fun v256 =>
    let v := v256 * 2 ^ 24
    decide (approachDist v0 a0 v p + changeDist v vend (p.limit v vend) p.jmax ≤ dist)
  let c := (coastVel v0 a0 p.jmax).toNat / 2 ^ 24
  let e := vend / 2 ^ 24
  let below : Nat → Bool := fun v => decide (v ≤ min c p.vmax) && ok v
  let k :=
    if ok p.vmax then p.vmax
    else if c ≤ e ∧ e ≤ p.vmax ∧ ok e then searchLargest (fun v => decide (v ≤ p.vmax) && ok v) 31 e
    else if c < p.vmax ∧ ok (c + 1) then searchLargest (fun v => decide (v ≤ p.vmax) && ok v) 31 (c + 1)
    else if below c then c
    else if below e then searchLargest below 31 e
    else searchLargest below 31 0
  k * 2 ^ 24

/-- The one segment of 1 ns of a move too short for a profile (R63). -/
def tinyMove (g : PhaseTag) (goal : Int) : List Phase :=
  [{ (g.phase .cruise 1 true true) with endP := some goal, last := true }]

/-- A move over a positive distance from standstill, or from a velocity along its direction from which the end
velocity can be reached within the distance, all in the frame of its direction. -/
def planAlong (g : PhaseTag) (s : Int) (v0 a0 : Int) (dist goal : Int) (vend : Nat) (p : Prof) : List Phase :=
  let vp := peakVel v0 a0 vend (dist * 2 ^ 48) p
  if vp = 0 ∧ v0 = 0 ∧ a0 = 0 then tinyMove g goal
  else
    markLast (some goal) ((velPhases g v0 a0 vp p ++ [{ (g.phase .cruise 0 true false) with fit := true }]
      ++ changePhases g vp 0 vend (p.limit vp vend) p.jmax).map (mirrorPhase s))

/-- The phases of a move from state `k` to `goal`, ending at speed `vend` (R62 to R64): where the target cannot be
reached without passing it, the axis stops first and returns (R53). From velocity zero with an acceleration the change starts
at once, its first phase leading that acceleration to the one the change requires (R64). -/
def planMove (g : PhaseTag) (k : KState) (goal : Int) (vend : Nat) (p : Prof) : List Phase :=
  let s : Int := if goal < k.p then -1 else 1
  let dist := s * (goal - k.p)
  let v0 := s * k.v
  let a0 := s * k.a
  let turn := v0 < 0 ∨ (dist * 2 ^ 48 < approachDist v0 a0 vend p ∧ (0 < v0 ∨ a0 ≠ 0))
  if turn then
    let stopPh := changePhases g k.v k.a 0 p.decel p.jmax
    let k1 := { runPhases stopPh k with v := 0, a := 0 }
    let s1 : Int := if goal < k1.p then -1 else 1
    stopPh ++ planAlong g s1 0 0 (s1 * (goal - k1.p)) goal (if s1 = s then vend else 0) p
  else planAlong g s v0 a0 dist goal vend p

/-- The phases of a jog from state `k` to velocity `v1` (R65). -/
def planJog (g : PhaseTag) (k : KState) (v1 : Int) (p : Prof) : List Phase :=
  let ch := velPhases g k.v k.a v1 p
  if v1 = 0 then markLast none ch
  else ch ++ [{ (g.phase .run openDur true false) with last := true }]

/-- The phases of a stop from state `k` with profile `p`, or at the Backstop acceleration `bkA` without a jerk limit
when the profile is not usable (R80). -/
def planStop (g : PhaseTag) (k : KState) (p : Prof) (bkA : Nat) : List Phase :=
  if p.usable then markLast none (changePhases g k.v k.a 0 p.decel p.jmax)
  else if k.v = 0 ∧ k.a = 0 then [] else markLast none (changePhases g k.v k.a 0 bkA 0)

/-- The moves behind the first one that a blended chain can see (R71): those in the same direction, up to and including
the first that is not blended onward. -/
def chainTail (s : Int) : Int → List PMove → List PMove
  | _, [] => []
  | prev, m :: ms =>
    if sgn (m.goal - prev) ≠ s then []
    else if m.blend then m :: chainTail s m.goal ms else [m]

/-- The largest velocity, in 1/256 µstep/s, at which a chain of moves in one direction can be entered so that it still stops at
the target of its last move: each move is entered within its own `VMAX` and lowers the velocity, to at most what the moves
behind it allow, with its own limits and zero acceleration at both ends (R71). -/
def entryVel (s prev : Int) : List PMove → Nat
  | [] => 0
  | n :: ns =>
    let exit := min n.prof.vmax (entryVel s n.goal ns)
    let dist : Int := s * (n.goal - prev) * 2 ^ 48
    searchLargest (fun v => decide (v ≤ n.prof.vmax)
      && decide ((changeDist (v * 2 ^ 24) (min v exit * 2 ^ 24) n.prof.decel n.prof.jmax : Int) ≤ dist)) 31 0

/-- The junction velocity of a blended move with the chain behind it, in 2^-32 µstep/s along the direction of the move
(R71, assumption log 22). The search is over whole multiples of 1/256 µstep/s, the unit of R45 and of the peak velocity of
R63: DESIGN CHOICE (assumption log 22), since R71 names no grid. -/
def junctionVel (k : KState) (m : PMove) (behind : List PMove) : Nat :=
  let s := sgn (m.goal - k.p)
  if ¬ m.blend ∨ s = 0 then 0
  else
    let tail := chainTail s m.goal behind
    if tail = [] then 0
    else
      let d1 : Int := s * (m.goal - k.p) * 2 ^ 48
      let v0 := s * k.v
      let a0 := s * k.a
      let top := min m.prof.vmax (entryVel s m.goal tail)
      let fits : Nat → Bool := fun v => decide (approachDist v0 a0 (v * 2 ^ 24) m.prof ≤ d1)
      let c := (coastVel v0 a0 m.prof.jmax).toNat / 2 ^ 24
      match largestSpeed fits c top with
      | some v => v * 2 ^ 24
      | none =>
        -- the lowest velocity reachable within the first move
        let reach : Nat → Bool := fun u =>
          decide (u ≤ c) && decide (approachDist v0 a0 ((c - u) * 2 ^ 24) m.prof ≤ d1)
        (c - searchLargest reach 31 0) * 2 ^ 24

/-- The moves each move of a chain blends onto, `extra` being the moves that wait behind it (R71). -/
def chainTails (prev : Int) (extra : List PMove) : List PMove → List (List PMove)
  | [] => []
  | m :: ms =>
    (if m.blend then (chainTail (sgn (m.goal - prev)) m.goal (ms ++ extra)).map fun x => { x with vj := 0 } else [])
      :: chainTails m.goal extra ms

/-- A chain of moves with their junction velocities from state `k`; `extra` are the moves that still wait in the
command queue (R71, R72). -/
def chainVels (k : KState) (extra : List PMove) : List PMove → List PMove
  | [] => []
  | m :: ms =>
    let vj := junctionVel k m (ms ++ extra)
    { m with vj := vj } ::
      chainVels { p := m.goal, v := (if m.goal < k.p then -1 else 1) * (vj : Int), a := 0 } extra ms

/-- The whole plan of a chain of moves from state `k` (R53, R71): each move ends at its junction velocity, and the next
starts from the state it ends in. -/
def planChain (k : KState) : List PMove → List Phase
  | [] => []
  | m :: ms =>
    let ph := planMove { seq := m.seq, seg := .move, goal := some m.goal } k m.goal m.vj m.prof
    ph ++ planChain { p := m.goal, v := (if m.goal < k.p then -1 else 1) * (m.vj : Int), a := 0 } ms

/-- All segments of a list of phases from state `k`; `n` bounds the splitting of R61. -/
def computeAll : Nat → KState → List Phase → List (Seg × List Phase)
  | 0, _, _ => []
  | n + 1, k, ps =>
    match nextSeg k ps with
    | none => []
    | some (sg, rest) => (sg, rest) :: computeAll n sg.after rest

/-- Segments that a new plan leaves unchanged (R72): the common prefix of the window and the new plan, the phases that
remain to compute after it, and the state it ends in. -/
def keepUnchanged : List Seg → List (Seg × List Phase) → List Phase → KState → List Seg × List Phase × KState
  | w :: ws, (sg, rest) :: more, ph, k =>
    if w = sg then
      let r := keepUnchanged ws more rest sg.after
      (w :: r.1, r.2)
    else ([], ph, k)
  | _, _, ph, k => ([], ph, k)

end Sys2Proof.Machine
end

