-- ==== Sys2Proof/Machine/Planner.lean ====
section
/-!
DEFINITION. Retirement of queued commands (R91, R353, R354) and the motion planner (R46 to R93): cuts, stops, take-up,
computation and commit of segments. `Machine/Executor.lean` runs the committed segments.
-/

namespace Sys2Proof.Machine

/-! ### Retirement -/

/-- The outcome code of R353. -/
def Outc.code : Outc → Nat
  | .completed => 0 | .cancelled => 1 | .limit => 2 | .noProfile => 3 | .nothingToResume => 4 | .camBad => 5
  | .recipeBad => 6 | .refused => 7 | .range => 8

/-- The retirement of one command: `LAST_COMMITTED_SEQ`, the log of the 64 latest and the cancel count (R91 to R94,
R354). -/
def logRetire (c : QCmd) (o : Outc) (s : State) : State :=
  let s := { s with ip := { s.ip with log := (s.ip.log ++ [(c, o)]).drop ((s.ip.log.length + 1) - 64) } }
  let s := (s.set F.LAST_COMMITTED_SEQ.SEQ c.seq.toNat).set F.LAST_COMMITTED_SEQ.SEQ_VALID 1
  if o = .cancelled then s.inc F.PLN_EVENTS.CANCEL_CNT else s

/-- Retires every command at the front of the ledger whose outcome is known: the retired commands are a prefix of the
accepted sequence (R91). -/
def flushLedger : List (QCmd × Option Outc) → State → State
  | (c, some o) :: rest, s => flushLedger rest (logRetire c o { s with ip := { s.ip with ledger := rest } })
  | rest, s => { s with ip := { s.ip with ledger := rest } }

/-- The outcome of a command becomes known (R91, R353); a command already decided or unknown is left alone. -/
def retire (seq : BitVec 16) (o : Outc) (s : State) : State :=
  let mark : QCmd × Option Outc → QCmd × Option Outc := fun e =>
    if e.1.seq = seq ∧ e.2 = none then (e.1, some o) else e
  flushLedger (s.ip.ledger.map mark) s

/-- Several commands retire with one outcome. -/
def retireAll (l : List (BitVec 16)) (o : Outc) (s : State) : State := s.each l fun q t => retire q o t

/-- The commands of an axis that wait in the command queue are cancelled (R53, R54, R81). -/
def cancelWaiting (a : Axis) (s : State) : State :=
  let mine := s.ip.cmdq.filter fun c => c.axis.toNat = a.val ∧ 0x20 ≤ c.op.toNat ∧ c.op.toNat < 0x40
  let s := { s with ip := { s.ip with
    cmdq := s.ip.cmdq.filter fun c => ¬ (c.axis.toNat = a.val ∧ 0x20 ≤ c.op.toNat ∧ c.op.toNat < 0x40) } }
  retireAll (mine.map (·.seq)) .cancelled s

/-! ### Period timers as the planner sees them -/

/-- `PER` of an axis in force, in 125 ps units (R196). -/
def perOf (s : State) (a : Axis) : Nat := getBits (BitVec.ofNat 32 (s.get (F.AX_PWM_ACT.ACT a))) 19 0

/-- `MIDUPD` of an axis in force. -/
def midUpd (s : State) (a : Axis) : Bool := natBit (s.get (F.AX_PWM_ACT.ACT a)) 20

/-- The half-period boundary at or after instant `t` of a timer whose period `per` begins at `b0` (R196). -/
def halfFrom (b0 per t : Nat) : Nat :=
  let r := (t - b0) % per
  if r = 0 then t else if r ≤ per / 2 then t - r + per / 2 else t - r + per

/-- The first half-period boundary of a timer of period `per` at or after instant `t` (R196, R197). -/
def Timer.halfAt (tm : Timer) (per t : Nat) : Nat :=
  if t ≤ tm.next then tm.next else halfFrom (if tm.nextIsPeriod then tm.next else tm.periodAt) per t

/-- `PER` and `MIDUPD` of a set that waits for the next period boundary, if one does (R200). -/
def pendPer (s : State) (a : Axis) : Option (Nat × Bool) :=
  (s.pwm a).pend.map fun x => (getBits x.1 19 0, x.1.getLsbD 20)

/-- The period boundary at which a waiting set takes effect. -/
def pendAt (s : State) (a : Axis) : Nat :=
  let tm := (s.pwm a).timer
  if (s.pwm a).periodDue then tm.periodAt else if tm.nextIsPeriod then tm.next else tm.periodAt + perOf s a

/-- The next half-period boundary of an axis at or after instant `t`, under a waiting set from the period boundary on at which
it takes effect. -/
def halfAfter (s : State) (a : Axis) (t : Nat) : Nat :=
  match pendPer s a with
  | none => (s.pwm a).timer.halfAt (perOf s a) t
  | some p => if t ≤ pendAt s a then (s.pwm a).timer.halfAt (perOf s a) t else halfFrom (pendAt s a) p.1 t

/-- The next sample instant of an axis: every half-period boundary with mid-period updates, else the next mid-period
point (R38), a waiting set counting from its period boundary on. -/
def nextSample (s : State) (a : Axis) : Nat :=
  let tm := (s.pwm a).timer
  let late := if (s.pwm a).periodDue || tm.nextIsPeriod then pendPer s a else none
  let per := match late with | some p => p.1 | none => perOf s a
  let mid := match late with | some p => p.2 | none => midUpd s a
  if (s.pwm a).periodDue then tm.periodAt + per / 2
  else if mid || !tm.nextIsPeriod then tm.next
  else tm.next + per / 2

/-! ### State of committed motion -/

/-- The state the committed segments of an axis give at instant `t` (R77), at their very end their end state (R88), followed by R84
where they end in motion before it. -/
def motionAt (s : State) (a : Axis) (t : Nat) : KState :=
  let m := s.mot a
  let k0 : KState := { p := m.pos, v := m.vel, a := m.acc }
  match m.brake with
  | some b => b.eval t
  | none =>
    match chainEndAt m.queue with
    | some e =>
      if e ≤ t then
        let k := chainEndState m.queue k0
        let at_ := halfAfter s a e
        if k.v = 0 then { k with a := 0 }
        else if e = t then k
        else
          let run := kinEval k.p k.v 0 0 (at_ - e)
          ({ why := .starved, from_ := e, p0 := k.p, at_ := at_,
             base := { p := run.p, v := k.v, a := - sgn k.v * (s.get (F.BK_AMAX.AMAX a) * 2 ^ 24 : Nat) } : Brake }).eval t
      else queueEval m.queue k0 t
    | none => if m.queue = [] then { k0 with v := 0, a := 0 } else queueEval m.queue k0 t

/-- The axis is at standstill: its queue is empty and its velocity zero (R89). -/
def atStandstill (s : State) (a : Axis) : Bool :=
  let m := s.mot a
  m.queue.isEmpty && m.brake.isNone && m.vel == 0

/-- A stop of the axis is under way (R87): a pending stop, or, with no other cut pending, a brake or a committed stop profile
with nothing behind it. DEDUCED (assumption log 101). -/
def stopping (s : State) (a : Axis) : Bool :=
  let m := s.mot a
  match m.cut with
  | some c => c.kind == .stop || c.kind == .rangeStop
  | none => m.brake.isSome || (!m.queue.isEmpty && m.queue.all fun sg => sg.kind == .stop)

/-- The committed segments of an axis have ended in motion and nothing has taken over from them yet (R84). -/
def ranOut (s : State) (a : Axis) : Bool :=
  let m := s.mot a
  m.brake.isNone && !m.queue.isEmpty && (liveSegs s.now m.queue).isEmpty
    && !(chainEndState m.queue { p := m.pos, v := m.vel, a := m.acc }).resting

/-- The last segment planned or committed for the axis is an open-ended jog (R55). -/
def jogOpen (s : State) (a : Axis) : Bool :=
  let m := s.mot a
  (m.phases.any fun p => p.kind == .run) || (m.window.any fun g => g.dur = openDur)
    || ((m.queue ++ m.cutQueue).any fun g => g.dur = openDur)

/-- A jog to velocity 0 is planned or runs out: a MOVE behind it waits for its standstill (R55). -/
def jogEnding (s : State) (a : Axis) : Bool :=
  let m := s.mot a
  !jogOpen s a && ((m.phases.any fun p => p.seg == .jog) || ((m.window ++ m.queue ++ m.cutQueue).any fun g => g.kind == .jog))

/-- The commands of an axis in hand with the planner that have not retired (R91). -/
def openSeqs (m : MotionSt) : List (BitVec 16) := m.chain.map (·.seq) ++ m.jogSeq.toList

/-! ### Discarding -/

/-- The state at the end of the last committed segment, from which uncommitted motion is planned (R72): the rest after a brake,
the position of an axis with an empty queue. -/
def committedEnd (m : MotionSt) : KState :=
  match m.cut with
  | some c => chainEndState m.cutQueue c.base
  | none =>
    match m.brake with
    | some b => { p := b.endPos, v := 0, a := 0 }
    | none => chainEndState m.queue { p := m.pos, v := 0, a := 0 }

/-- The state at the end of the last computed segment (R59). -/
def planTail (m : MotionSt) : KState := if m.window = [] then committedEnd m else m.planEnd

/-- Segments discarded as offside are counted (R72, R73). -/
def countOffside (n : Nat) (s : State) : State := if n = 0 then s else s.count F.PLN_OFFSIDE.COUNT n

/-- Every uncommitted segment of the axis is discarded as offside (R72, R73), and nothing of it stays in the plan (R23). -/
def discardWindow (a : Axis) (s : State) : State :=
  let n := (s.mot a).window.length
  countOffside n (s.modMot a fun m => { m with window := [], phases := [], planEnd := committedEnd m })

/-- Committed segments dropped unstarted are counted in `PLN_CUT` (R77, R85). -/
def countCut (n : Nat) (s : State) : State := if n = 0 then s else s.count F.PLN_CUT.COUNT n

/-- `REMAIN_VALID` is cleared (R83). -/
def clearRemain (a : Axis) (s : State) : State := s.set (F.AX_PLN_STAT.REMAIN_VALID a) 0

/-- A pending cut is dropped: the STOP that made it retires with outcome `o` of the stop, or of the range stop `r`, a JOG or a MOVE
CANCELLED (R88, R353). Where its segments were committed to an axis at standstill, the standstill begins again and energising ends. -/
def dropCut (o r : Outc) (a : Axis) (s : State) : State :=
  match (s.mot a).cut with
  | none => s
  | some c =>
    let n := (s.mot a).cutQueue.length
    let still := atStandstill s a && (s.mot a).stillAt.isNone
    let s := countCut n (s.modMot a fun m => { m with
      cut := none
      cutQueue := []
      jogSeq := if c.kind = .jog then none else m.jogSeq
      chain := m.chain.filter fun x => some x.seq ≠ c.seq
      stillAt := if still then some s.now else m.stillAt
      energiseEnd := if still then none else m.energiseEnd })
    let s := retireAll c.cancels .cancelled s
    match c.seq with
    | none => s
    | some q => retire q (if c.kind = .stop then o else if c.kind = .rangeStop then r else .cancelled) s

/-- A pending cut is discarded for another stop or motion: a STOP retires COMPLETED (R88). -/
def discardCut (a : Axis) (s : State) : State := dropCut .completed .range a s

/-- A stall reaction of the axis ends, and one that is due does not begin (R183); the stall still counts at its boundary, and
the position is uncertain (R180, R184). -/
def endStall (a : Axis) (s : State) : State :=
  (s.modMot a fun m => { m with stallHold := none }).modLa a fun l => { l with noReact := l.stallDue.isSome || l.fallDue }

/-- Motion of an axis ends at once, as at a FAULT or at entry to SAFE: unstarted committed segments are dropped and
counted, the velocity and acceleration become zero, the position keeps its value, uncommitted segments are offside, and
`REMAIN_VALID` clears (R239, R507). A clamp whose deceleration has not begun sets `CLAMPED` now. A stall reaction ends
(R183). The commands of the axis retire CANCELLED (R353). -/
def haltMotion (a : Axis) (s : State) : State :=
  let m := s.mot a
  let early : Bool := match m.brake with | some b => decide (b.why = .clamped) && decide (s.now < b.at_) | none => false
  let s := if early then s.raise (F.AX_PLN_STAT.CLAMPED a) else s
  let started := if m.brake.isSome then 0 else (m.queue.filter fun g => g.start * nsT ≤ s.now).length.min 1
  let s := dropCut .cancelled .cancelled a s
  let s := countCut (m.queue.length - started) s
  let s := discardWindow a s
  let seqs := openSeqs m
  let s := s.modMot a fun m => { m with
    queue := [], brake := none, vel := 0, acc := 0, chain := [], jogSeq := none, recordDue := none, energiseEnd := none,
    stillAt := some s.now, stopped := false,
    planEnd := { p := m.pos, v := 0, a := 0 } }
  let s := endStall a s
  let s := retireAll seqs .cancelled s
  cancelWaiting a (clearRemain a s)

/-! ### Profiles -/

/-- The values of a profile set (R47). -/
def profOf (s : State) (a : Axis) (k : Nat) : Prof :=
  { vmax := s.get (F.AX_VMAX.VMAX a k), amax := s.get (F.AX_AMAX.AMAX a k),
    dmax := s.get (F.AX_DMAX.DMAX a k), jmax := s.get (F.AX_JMAX.JMAX a k) }

/-- A captured profile limited to the Backstop maximum rate and acceleration (R49). -/
def clipProf (s : State) (a : Axis) (p : Prof) : Prof :=
  { vmax := min p.vmax (s.get (F.BK_VMAX.VMAX a)), amax := min p.amax (s.get (F.BK_AMAX.AMAX a)),
    dmax := min p.dmax (s.get (F.BK_AMAX.AMAX a)), jmax := p.jmax }

/-- `CLIPPED` and `CLIP_CNT` when the Backstop reduced a captured profile (R49). -/
def noteClip (a : Axis) (p q : Prof) (s : State) : State :=
  if p = q then s else (s.raise (F.AX_PLN_STAT.CLIPPED a)).inc F.PLN_EVENTS.CLIP_CNT

/-- A position in 2^-16 µstep lies in the range of R45. -/
def posLegal (p : Int) : Bool := decide (-(2 ^ 63 : Int) ≤ p) && decide (p ≤ (2 ^ 47 - 1) * 65536)

/-- The Backstop travel window of an axis, in 2^-16 µstep. -/
def travelMin (s : State) (a : Axis) : Int := signedOf 48 (s.wide (F.BK_PMIN_LO.PMIN a) (F.BK_PMIN_HI.PMIN a)) * 65536
def travelMax (s : State) (a : Axis) : Int := signedOf 48 (s.wide (F.BK_PMAX_LO.PMAX a) (F.BK_PMAX_HI.PMAX a)) * 65536

/-- A target lies outside the Backstop travel window (R86). -/
def outsideTravel (s : State) (a : Axis) (goal : Int) : Bool :=
  s.flag (F.BK_CFG.TRAVEL_EN a) && (decide (goal < travelMin s a) || decide (travelMax s a < goal))

/-! ### Cuts -/

/-- The target in 2^-16 µstep of a MOVE cut from its base state (R55). -/
def Cut.goal (c : Cut) : Int := if c.rel then c.base.p + c.dist else c.dist

/-- The tag of the phases a cut plans. -/
def Cut.tag (c : Cut) : PhaseTag :=
  { seq := c.seq.getD 0
    seg := match c.kind with | .stop => .stop | .rangeStop => .stop | .jog => .jog | .replace => .move | .endJog => .move
    goal := match c.kind with | .replace => some c.goal | .endJog => some c.goal | _ => none }

/-- The velocity of a JOG, in 2^-32 µstep/s, limited to `VMAX` as captured, its sign kept (R54). -/
def limitVel (p : Prof) (v : Int) : Int := sgn v * (min v.natAbs (p.vmax * 2 ^ 24) : Nat)

/-- The phases of a cut from its base state, `moves` being the move it makes with its junction velocity (R71, R80). -/
def cutPhases (s : State) (a : Axis) (c : Cut) (moves : List PMove) : List Phase :=
  match c.kind with
  | .stop | .rangeStop => planStop c.tag c.base c.prof (s.get (F.BK_AMAX.AMAX a))
  | .jog => planJog c.tag c.base (limitVel c.prof c.vel) c.prof
  | .replace | .endJog => planChain c.base moves

/-- A cut with profile set `STOP_SET` as captured now, limited by the Backstop (R48, R49, R79, R80). -/
def Cut.asStop (s : State) (a : Axis) (c : Cut) : Cut :=
  let k := s.get (F.AX_PLN_CFG.STOP_SET a)
  { c with set := k, prof := clipProf s a (profOf s a k) }

/-- `CLIPPED` and `CLIP_CNT` when the Backstop reduced the set a stop captured (R49). -/
def noteStop (a : Axis) (s : State) : State :=
  let p := profOf s a (s.get (F.AX_PLN_CFG.STOP_SET a))
  noteClip a p (clipProf s a p) s

/-- Where the axis will come to rest after a plan. -/
def planRest (m : MotionSt) : KState := runPhases m.phases (planTail m)

/-- The moves of the axis that wait in the command queue in front of anything but a plain MOVE, with their targets and
the profiles they would capture now (R71, R72). -/
def waitingMoves (s : State) (a : Axis) : Int → List QCmd → List PMove
  | _, [] => []
  | prev, c :: cs =>
    if c.axis.toNat ≠ a.val then waitingMoves s a prev cs
    else if c.op.toNat ≠ 0x20 then []
    else
      let w0 := (c.words.getD 0 0).toNat
      if natBit w0 2 then []
      else
        let d := signedOf 48 ((c.words.getD 1 0).toNat + (c.words.getD 2 0).toNat % 2 ^ 16 * 2 ^ 32) * 65536
        let goal := if natBit w0 0 then prev + d else d
        let p := clipProf s a (profOf s a (w0 / 16 % 4))
        if p.usable ∧ posLegal goal then
          { seq := c.seq, goal := goal, set := w0 / 16 % 4, prof := p, blend := natBit w0 1, vj := 0 }
            :: waitingMoves s a goal cs
        else []

/-- The instant a motion cut waits for while the axis decelerates unpowered under STOP_FREE: the next motion energises first, from
standstill (R90, R180). DEDUCED (assumption log 135). -/
def freeUntil (s : State) (a : Axis) : Nat :=
  match (s.mot a).brake with
  | some b => if (s.mot a).stallHold = some true then b.endAt else 0
  | none => 0

/-- A cut planned from the state the committed segments give at its instant (R77): the first half-period boundary at or after
`due`. A target formed there that lies out of range makes it a stop (R46). The commands it cancels are left to its instant. -/
def planCut (a : Axis) (c : Cut) (s : State) : State :=
  let at_ := halfAfter s a (if c.kind = .stop then c.due else max c.due (freeUntil s a))
  let c1 := { c with at_ := at_, base := motionAt s a at_ }
  let bad := decide (c.kind = .replace ∨ c.kind = .endJog) && !posLegal c1.goal
  let s := if bad then noteStop a s else s
  let c2 := if bad then { c1 with kind := .rangeStop }.asStop s a else c1
  let mine : List PMove := match c2.kind, c2.seq with
    | .replace, some q | .endJog, some q =>
      [{ seq := q, goal := c2.goal, set := c2.set, prof := c2.prof, blend := c2.blend, vj := 0 }]
    | _, _ => []
  let extra := waitingMoves s a c2.goal s.ip.cmdq
  let moves := chainVels c2.base extra mine
  let ph := cutPhases s a c2 moves
  s.modMot a fun m => { m with
    cut := some c2, planEnd := c2.base, phases := ph, chain := moves, seen := extra
    jogSeq := if c2.kind = .jog then c2.seq else none
    jogVel := if c2.kind = .jog then c2.vel else m.jogVel
    jogSet := if c2.kind = .jog then c2.set else m.jogSet
    target := match c2.kind with | .replace => c2.goal | .endJog => c2.goal | _ => m.target }

/-- A cut event (R73, R77, R78): uncommitted segments are offside, an earlier pending cut is replaced, and the new motion is
planned for the first half-period boundary at least 40 µs later. -/
def startCut (a : Axis) (c : Cut) (s : State) : State :=
  let s := discardWindow a (discardCut a s)
  planCut a { c with due := s.now + 40 * usT, cancels := c.cancels ++ openSeqs (s.mot a) } s

/-- The cut of an axis is planned again, its segments committed or not dropped (R77, R78): the cut instant moves with the
period timer (assumption log 102), or a recipe has changed the profile set (R76). -/
def recut (a : Axis) (c : Cut) (s : State) : State :=
  let n := (s.mot a).cutQueue.length
  planCut a c (countCut n (discardWindow a (s.modMot a fun m => { m with cutQueue := [] })))

/-- The period timer of an axis has changed: a pending cut is planned again where its instant is no longer a half-period
boundary (R77). -/
def cutFollowsTimer (a : Axis) (s : State) : State :=
  match (s.mot a).cut with
  | none => s
  | some c => if halfAfter s a c.due = c.at_ then s else recut a c s

/-- An empty cut record of a kind. -/
def mkCut (k : CutKind) (seq : Option (BitVec 16)) : Cut :=
  { at_ := 0, due := 0, kind := k, seq := seq, base := { p := 0, v := 0, a := 0 }, rel := false, dist := 0, vel := 0, set := 0,
    prof := { vmax := 0, amax := 0, dmax := 0, jmax := 0 }, blend := false, cancels := [] }

/-- What is planned behind a stop is cancelled (R87): its segments are offside, its commands retire CANCELLED, and `AX_TARGET`
goes back from their target to where the axis comes to rest (R52). -/
def dropBehind (a : Axis) (s : State) : State :=
  let m := s.mot a
  let keep := m.window.takeWhile fun g => g.kind == .stop
  let stay := m.phases.takeWhile fun p => p.seg == .stop
  let seqs := openSeqs m
  let stop := chainEndState keep (committedEnd m)
  let s := s.modMot a fun m => { m with
    window := keep
    phases := stay
    planEnd := stop
    target := if seqs = [] then m.target else (runPhases stay stop).p
    chain := []
    jogSeq := none }
  retireAll seqs .cancelled (countOffside (m.window.length - keep.length) s)

/-- A stop of a PACKET axis as for STOP (R79, R87): nothing new when it is stopping or at standstill, where the queued
commands of the axis are cancelled and the STOP retires COMPLETED; else a cut. -/
def stopPacket (a : Axis) (seq : Option (BitVec 16)) (s : State) : State :=
  if stopping s a ∨ (atStandstill s a ∧ (s.mot a).cut = none) then
    let s := cancelWaiting a (dropBehind a s)
    match seq with | some q => retire q .completed s | none => s
  else startCut a ((mkCut .stop seq).asStop s a) (noteStop a s)

/-! ### Take-up -/

/-- The axis is planned again from its first uncommitted segment (R72): unchanged segments before the first that
differs stay, the others are offside. Segments of a jog or a stop in front of the moves are not planned again. -/
def replan (a : Axis) (chain : List PMove) (s : State) : State :=
  let m := s.mot a
  let pre := m.window.takeWhile fun g => g.kind ≠ .move
  let old := m.window.dropWhile fun g => g.kind ≠ .move
  let k := chainEndState pre (committedEnd m)
  let fresh := planChain k chain
  let r := keepUnchanged old (computeAll (old.length + 1) k fresh) fresh k
  let s := s.modMot a fun m => { m with window := pre ++ r.1, phases := r.2.1, planEnd := r.2.2, chain := chain }
  countOffside (old.length - r.1.length) s

/-- The state in which the moves of the chain begin to be open to a new plan. -/
def chainStart (m : MotionSt) : KState :=
  chainEndState (m.window.takeWhile fun g => g.kind ≠ .move) (committedEnd m)

/-- The moves waiting behind the chain are looked at again (R72): where the chain blends onto other moves than its plan
assumed, and a junction velocity changes with them, the axis is planned again. -/
def reblend (a : Axis) (s : State) : State :=
  let m := s.mot a
  match m.chain.getLast? with
  | none => s
  | some l =>
    let extra := waitingMoves s a l.goal s.ip.cmdq
    let k := chainStart m
    let s1 := s.modMot a fun m => { m with seen := extra }
    if chainTails k.p extra m.chain = chainTails k.p m.seen m.chain then s1
    else
      let vels := chainVels k extra m.chain
      if vels.map (·.vj) = m.chain.map (·.vj) then s1 else replan a vels s1

/-- A MOVE joins the plan of its axis (R52, R53, R71, R72): where it changes a junction velocity the axis is planned
again, else its phases follow those already planned. -/
def addMove (a : Axis) (mv : PMove) (s : State) : State :=
  let m := s.mot a
  let extra := waitingMoves s a mv.goal s.ip.cmdq
  let k0 := chainStart m
  let same := decide (chainTails k0.p (mv :: extra) m.chain = chainTails k0.p m.seen m.chain)
  let vels := chainVels k0 extra (m.chain ++ [mv])
  let s := s.modMot a fun m => { m with target := mv.goal, seen := extra }
  if same || vels.dropLast.map (·.vj) == m.chain.map (·.vj) then
    let k := runPhases m.phases (planTail m)
    let new := chainVels k extra [mv]
    s.modMot a fun m => { m with
      phases := m.phases ++ planChain k new, planEnd := planTail m, chain := m.chain ++ new }
  else replan a vels s

/-- The profile sets of an axis have changed under a recipe (R73, R76): every uncommitted segment is offside, and what is not
yet committed of its motion is planned again with the new values of its sets, each limited and noted as at a take-up (R49), a JOG
from the velocity it was given. A command whose set is no longer usable retires
NO_PROFILE, and the axis stops as for STOP. DEDUCED (assumption log 103). -/
def newProfiles (a : Axis) (s : State) : State :=
  let m := s.mot a
  let take : Nat → Prof := fun k => clipProf s a (profOf s a k)
  let note : Nat → State → State := fun k s => noteClip a (profOf s a k) (clipProf s a (profOf s a k)) s
  match m.cut.filter fun _ => m.cutQueue = [] with
  | some c =>
    if c.kind = .stop ∨ c.kind = .rangeStop then recut a (c.asStop s a) (noteStop a s)
    else if (take c.set).usable then recut a { c with prof := take c.set } (note c.set s)
    else stopPacket a none (match c.seq with | some q => retire q .noProfile s | none => s)
  | none =>
    if m.window = [] ∧ m.phases = [] then s
    else
      let lost := m.chain.filter fun x => !(take x.set).usable
      let runsStop := (m.window.any fun g => g.kind == .stop) || (m.phases.any fun p => p.seg == .stop)
      let runsJog := (m.window.any fun g => g.kind == .jog) || (m.phases.any fun p => p.seg == .jog)
      if lost ≠ [] ∨ (runsJog ∧ ¬ (take m.jogSet).usable) then
        stopPacket a none (retireAll (lost.map (·.seq) ++ (if runsJog then m.jogSeq.toList else [])) .noProfile s)
      else
        let k := committedEnd m
        let c := (mkCut .stop none).asStop s a
        let front : List Phase :=
          if runsStop then planStop c.tag k c.prof (s.get (F.BK_AMAX.AMAX a))
          else if runsJog then
            planJog { seq := m.jogSeq.getD 0, seg := .jog, goal := none } k (limitVel (take m.jogSet) m.jogVel) (take m.jogSet)
          else []
        let moves := m.chain.map fun x => { x with prof := take x.set }
        let extra := match moves.getLast? with | some x => waitingMoves s a x.goal s.ip.cmdq | none => []
        let chain := chainVels (runPhases front k) extra moves
        let s := if runsStop then noteStop a s else if runsJog then note m.jogSet s else s
        let s := s.each m.chain fun x s => note x.set s
        (discardWindow a s).modMot a fun m => { m with
          phases := front ++ planChain (runPhases front k) chain, chain := chain, seen := extra }

/-- The cut of a MOVE with REPLACE, or of one that ends a jog (R53, R55). -/
def moveCut (k : CutKind) (c : QCmd) (rel : Bool) (d : Int) (set : Nat) (p : Prof) (blend : Bool) : Cut :=
  { mkCut k (some c.seq) with rel := rel, dist := d, set := set, prof := p, blend := blend }

/-- The distance or position field of a MOVE, in 2^-16 µstep. -/
def moveDist (c : QCmd) : Int :=
  signedOf 48 ((c.words.getD 1 0).toNat + (c.words.getD 2 0).toNat % 2 ^ 16 * 2 ^ 32) * 65536

/-- Take-up of a MOVE (R46 to R55, R86). A relative one that cuts a jog has its target formed at the cut instant (R55); one with
`REPLACE` cancels the commands that wait before it is planned (R53, R71). Where several outcomes apply NO_PROFILE comes before RANGE and RANGE before LIMIT:
DESIGN CHOICE (assumption log 104), since the spec gives no order. A refused MOVE that a junction velocity counted on is looked
at again (R72). -/
def takeMove (a : Axis) (c : QCmd) (s : State) : State :=
  let w0 := (c.words.getD 0 0).toNat
  let rel := natBit w0 0
  let k := w0 / 16 % 4
  let raw := profOf s a k
  let p := clipProf s a raw
  let d := moveDist c
  let jog := jogOpen s a || jogEnding s a
  let goal := if rel then (if jog then motionAt s a (halfAfter s a (s.now + 40 * usT)) |>.p else (s.mot a).target) + d else d
  if ¬ raw.usable then reblend a (retire c.seq .noProfile s)
  else if ¬ posLegal goal ∧ ¬ (rel ∧ jog) then reblend a (retire c.seq .range s)
  else
    let s := clearRemain a (noteClip a raw p s)
    if outsideTravel s a goal then
      let s := (s.raise (F.AX_PLN_STAT.LIMIT_REJ a)).inc F.PLN_EVENTS.LIMIT_CNT
      retire c.seq .limit (stopPacket a none s)
    else if natBit w0 2 then
      startCut a { moveCut .replace c rel d k p (natBit w0 1) with
        rel := rel && jog, dist := if rel ∧ ¬ jog then goal else d } (cancelWaiting a s)
    else if jogOpen s a then startCut a (moveCut .endJog c rel d k p (natBit w0 1)) s
    else addMove a { seq := c.seq, goal := goal, set := k, prof := p, blend := natBit w0 1, vj := 0 } s

/-- Take-up of a JOG (R50, R54, R65). -/
def takeJog (a : Axis) (c : QCmd) (s : State) : State :=
  let k := (c.words.getD 0 0).toNat / 16 % 4
  let raw := profOf s a k
  let p := clipProf s a raw
  let v := signedOf 32 (c.words.getD 1 0).toNat
  if ¬ raw.usable then retire c.seq .noProfile s
  else
    let s := clearRemain a (noteClip a raw p s)
    cancelWaiting a (startCut a { mkCut .jog (some c.seq) with vel := v * 2 ^ 24, set := k, prof := p } s)

/-- Take-up of a RESUME (R50, R82): a move from standstill to the stored target of the interrupted MOVE. With nothing to
resume it retires NOTHING_TO_RESUME whatever its profile set: DESIGN CHOICE (assumption log 104), since the spec gives no
order of the two outcomes. -/
def takeResume (a : Axis) (c : QCmd) (s : State) : State :=
  let k := (c.words.getD 0 0).toNat / 16 % 4
  let raw := profOf s a k
  let p := clipProf s a raw
  if s.axState a ≠ 5 ∨ ¬ s.flag (F.AX_PLN_STAT.REMAIN_VALID a) then retire c.seq .nothingToResume s
  else if ¬ raw.usable then retire c.seq .noProfile s
  else
    let s := clearRemain a (noteClip a raw p s)
    addMove a { seq := c.seq, goal := (s.mot a).resumeGoal, set := k, prof := p, blend := false, vj := 0 } s

/-- The planner takes up one motion command of a PACKET axis (R51). -/
def takeUp (a : Axis) (c : QCmd) (s : State) : State :=
  if c.op.toNat = 0x20 then takeMove a c s
  else if c.op.toNat = 0x21 then takeJog a c s
  else if c.op.toNat = 0x22 then stopPacket a (some c.seq) s
  else takeResume a c s

/-- The first motion command of the axis that waits in the command queue. -/
def nextCmd (s : State) (a : Axis) : Option QCmd :=
  s.ip.cmdq.find? fun c => c.axis.toNat = a.val ∧ 0x20 ≤ c.op.toNat ∧ c.op.toNat ≤ 0x23

/-- A command leaves the command queue. -/
def unqueue (seq : BitVec 16) (s : State) : State :=
  { s with ip := { s.ip with cmdq := s.ip.cmdq.filter fun c => c.seq ≠ seq } }

/-- Window entries in use over all axes (R66). -/
def windowUsed (s : State) : Nat := (allAxes.map fun a => (s.mot a).window.length).sum

/-- The planner can take up the next waiting command of an axis (R51, R53, R55, R70): the earlier commands of the axis are
planned, no jog runs out to standstill, the axis is in no stop the planner has yet to record, and no cut is pending. -/
def canTakeUp (s : State) (a : Axis) : Bool :=
  let m := s.mot a
  m.phases.isEmpty && m.brake.isNone && m.recordDue.isNone && decide (m.window.length < 16)
    && decide (windowUsed s < 64) && m.cut.isNone && !jogEnding s a

/-- PLANNER_TAKE_UP: the next waiting command of an axis is taken up (R51). -/
def plannerTakeUp (a : Axis) (s : State) : State :=
  if ¬ s.ip.running ∨ ¬ canTakeUp s a then s
  else
    match nextCmd s a with
    | none => s
    | some c => takeUp a c (unqueue c.seq s)

/-! ### Computation and commit of segments -/

/-- `START` in ns of a segment committed now, before any energising: the end of the segments before it, the cut instant, or the
next sample instant where it will start from standstill (R58, R77, R585). -/
def nextStart (s : State) (a : Axis) (skip : Nat) : Option Nat :=
  let m := s.mot a
  let ahead := ((m.window.take skip).map (·.dur)).sum
  match m.cut with
  | some c =>
    if m.cutQueue = [] then some (c.at_ / nsT + ahead) else (chainEndAt m.cutQueue).map fun e => e / nsT + ahead
  | none =>
    let live := liveSegs s.now m.queue
    if live = [] then some (nextSample s a / nsT + ahead) else (chainEndAt live).map fun e => e / nsT + ahead

/-- The commit horizon in ns (R67). -/
def horizonNs (s : State) : Nat := s.get F.PLN_CTRL.HORIZON * 10000

/-- The planner has phases to compute for the axis and window room for them (R66, R70). -/
def computable (s : State) (a : Axis) : Bool :=
  let m := s.mot a
  !m.phases.isEmpty && decide (m.window.length < 16) && decide (windowUsed s < 64)

/-- Entries of the axis queue in use: committed segments whose interval has not ended, those of a pending cut with them (R66,
R95). -/
def axqUsed (s : State) (a : Axis) : Nat := (liveSegs s.now (s.mot a).queue).length + (s.mot a).cutQueue.length

/-- The axis queue has a free entry: an entry is in use until the interval of its segment has ended (R66, R67). -/
def queueRoom (s : State) (a : Axis) : Bool :=
  decide (axqUsed s a < 16)

/-- The planner's next work in the order of R68: first segments of pending cuts, then segments due for commit, the
earliest `START` first, then run-ahead, ties to the lower axis. The key is (class, start, axis). -/
def workKey (s : State) (a : Axis) : Option (Nat × Nat) :=
  let m := s.mot a
  if ¬ computable s a then none
  else
    let start := (nextStart s a m.window.length).getD (2 ^ 64)
    if m.cut.isSome ∧ m.window = [] ∧ m.cutQueue = [] then some (0, 0)
    else if m.window = [] ∧ queueRoom s a ∧ start ≤ s.now / nsT + horizonNs s then some (1, start)
    else some (2, start)

/-- The better of two candidates, the first on a tie. -/
def betterWork (x y : Option (Axis × Nat × Nat)) : Option (Axis × Nat × Nat) :=
  match x, y with
  | none, y => y
  | x, none => x
  | some p, some q =>
    if q.2.1 < p.2.1 ∨ (q.2.1 = p.2.1 ∧ q.2.2 < p.2.2) then some q else some p

/-- The axis whose segment the planner computes next (R68). -/
def chooseWork (s : State) : Option Axis :=
  ((allAxes.map fun a => (workKey s a).map fun k => (a, k.1, k.2)).foldl betterWork none).map (·.1)

/-- The next segment of an axis is computed and enters the window (R59 to R66). -/
def computeSeg (a : Axis) (s : State) : State :=
  let m := s.mot a
  match nextSeg m.planEnd m.phases with
  | none => s.modMot a fun m => { m with phases := [] }
  | some (sg, rest) =>
    let s := s.modMot a fun m => { m with window := m.window ++ [sg], phases := rest, planEnd := sg.after }
    s.mark F.PLN_STATUS.WINDOW_HWM (windowUsed s)

/-- An idle planner takes up the work there is (R68); the segment under computation is finished first. -/
def wakePlanner (s : State) : State :=
  match s.plnWork.filter (computable s) with
  | some _ => s
  | none => { s with plnWork := if s.ip.running then chooseWork s else none }

/-- SEGMENT_COMPUTED: the segment in hand is completed, and the planner chooses its next work (R68). -/
def segmentComputed (s : State) : State :=
  if ¬ s.ip.running then s
  else
    match (s.plnWork.filter (computable s)).or (chooseWork s) with
    | none => { s with plnWork := none }
    | some a =>
      let s := computeSeg a s
      { s with plnWork := chooseWork s }

/-- The axis must be energised before it moves: its standstill policy FREE or SHORT is in force (R90). -/
def needsEnergise (s : State) (a : Axis) : Bool :=
  match s.policyNow a with | some p => p != 0 | none => false

/-- The energising time of an axis in 125 ps units (R90). -/
def energiseTime (s : State) (a : Axis) : Nat := s.get (F.AX_PLN_CFG.ENERGISE a) * 100 * usT

/-- A PACKET axis begins to move or to stop: ARMED or STOPPED becomes MOVING, a stop profile makes it STOPPING (R513). -/
def startState (a : Axis) (k : SegKind) (s : State) : State :=
  let st := s.axState a
  if k = .stop then (if st = 2 then s.set (F.AX_STATE.STATE a) 4 else s)
  else if st = 1 ∨ st = 5 ∨ st = 4 then s.set (F.AX_STATE.STATE a) 2 else s

/-- The last segment of a command is committed: the command retires COMPLETED and leaves the chain (R91). -/
def completeLast (a : Axis) (sg : Seg) (s : State) : State :=
  if ¬ sg.last ∨ sg.kind = .stop then s
  else retire sg.seq .completed (s.modMot a fun m => { m with
    chain := m.chain.filter fun c => c.seq ≠ sg.seq, jogSeq := if m.jogSeq = some sg.seq then none else m.jogSeq })

/-- A segment is committed to an axis at standstill: the standstill delay and policy end, and from FREE or SHORT the axis
energises until `until_` (R89, R90). -/
def leaveStill (a : Axis) (until_ : Option Nat) (s : State) : State :=
  s.modMot a fun m => { m with stillAt := none, policyOn := false, stallHold := none, stopped := false, energiseEnd := until_ }

/-- The next uncommitted segment of an axis passes from the window to its queue (R58, R67, R77). The first segment from
standstill in FREE or SHORT starts `ENERGISE` later (R90), that of a cut that much after the cut instant. DESIGN CHOICE
(assumption log 136): `START` of a cut's first segment is its instant rounded down to a whole ns, as R58 rounds a start from
standstill, while its position, velocity and acceleration are those of the exact instant. -/
def commitSeg (a : Axis) (sg : Seg) (s : State) : State :=
  let m := s.mot a
  let s := s.inc F.PLN_SEGS.COUNT
  let wait := if needsEnergise s a then energiseTime s a else 0
  let live := liveSegs s.now m.queue
  let s := match m.cut with
    | some c =>
      let still := decide (m.cutQueue = []) && atStandstill s a
      let first := if still || freeUntil s a ≠ 0 then c.at_ + wait else c.at_
      let start := match chainEndAt m.cutQueue with | some e => e / nsT | none => first / nsT
      let s := if still then leaveStill a (if wait = 0 then none else some first) s else s
      s.modMot a fun m => { m with window := m.window.drop 1, cutQueue := m.cutQueue ++ [{ sg with start := start }] }
    | none =>
      if live = [] then
        let start := (nextSample s a + wait) / nsT
        let s := (leaveStill a (if wait = 0 then none else some (nextSample s a + wait)) s).modMot a fun m => { m with
          window := m.window.drop 1, queue := [{ sg with start := start }] }
        startState a sg.kind s
      else
        let start := match chainEndAt live with | some e => e / nsT | none => 0
        s.modMot a fun m => { m with window := m.window.drop 1, queue := live ++ [{ sg with start := start }] }
  completeLast a sg s

/-- The conditions of R67 hold for the next segment of the axis. -/
def commitDue (s : State) (a : Axis) : Bool :=
  queueRoom s a &&
    (match nextStart s a 0 with
     | some st => decide (st ≤ s.now / nsT + horizonNs s)
     | none => false)

/-- New segments find the axis in a starvation or clamp stop, with no cut that ends it: they are discarded (R84, R85). -/
def stopRuns (s : State) (a : Axis) : Bool :=
  (s.mot a).cut.isNone && ((s.mot a).brake.isSome || ranOut s a)

/-- SEGMENT_COMMIT: the next segment of an axis is committed when it is due and the queue has room (R67); one that finds the
axis in a stop of the executor is discarded (R84). -/
def segmentCommit (a : Axis) (s : State) : State :=
  if ¬ s.ip.running then s
  else
    match (s.mot a).window with
    | [] => s
    | sg :: _ => if stopRuns s a then discardWindow a s else if commitDue s a then commitSeg a sg s else s

/-! ### Starvation and brakes -/

/-- The executor brakes the axis by itself at the Backstop acceleration (R84, R85, R181): it runs on from position `p0` at
instant `from_` and decelerates from instant `at_` on, at which it is in the state `k`. Committed segments not yet started
are dropped. The MOVE of the segment last started is the one a record of the stop refers to (R81). The plan of a pending cut
stays (R88). A follower that brakes is EXITING and stays MOVING (R99). -/
def brakeAt (a : Axis) (why : BrakeWhy) (from_ : Nat) (p0 : Int) (at_ : Nat) (k : KState) (s : State) : State :=
  let m := s.mot a
  let b : Brake := {
    why := why, from_ := from_, p0 := p0, at_ := at_,
    base := { p := k.p, v := k.v, a := - sgn k.v * (s.get (F.BK_AMAX.AMAX a) * 2 ^ 24 : Nat) } }
  let goal := match (m.queue.filter fun g => g.start * nsT ≤ s.now).getLast? with | some sg => sg.goal | none => none
  let s := s.modMot a fun m => { m with
    brake := some b, queue := [], recordDue := some b.endAt, stopGoal := goal, energiseEnd := none }
  let follows := s.get (F.AX_FOLLOW_STAT.FSTATE a) ≠ 0
  let s := if ¬ follows ∧ (s.axState a = 2 ∨ s.axState a = 3) then s.set (F.AX_STATE.STATE a) 4 else s
  if m.cut.isSome then s else discardWindow a s

/-- A brake after a linear run (R84): from the state `k` at instant `t` the axis runs on at its velocity to the first
half-period boundary at or after `after`, and decelerates from there. -/
def startBrake (a : Axis) (why : BrakeWhy) (t after : Nat) (k : KState) (s : State) : State :=
  let at_ := halfAfter s a after
  brakeAt a why t k.p at_ { p := (kinEval k.p k.v 0 0 (at_ - t)).p, v := k.v, a := 0 } s

/-- The instant of a pending cut has come when the committed segments end: the cut takes over (R88). -/
def cutTakes (m : MotionSt) (e : Nat) : Bool := match m.cut with | some c => decide (c.at_ ≤ e) | none => false

/-- STARVATION: the executor has reached the end of its last committed segment with a velocity or an acceleration (R84). A
pending cut runs on (R88), and takes over where its instant has come. -/
def starve (a : Axis) (t : Nat) (s : State) : State :=
  let m := s.mot a
  let k := chainEndState m.queue { p := m.pos, v := m.vel, a := m.acc }
  match chainEndAt m.queue with
  | none => s
  | some e =>
    if t < e ∨ m.brake.isSome ∨ k.resting ∨ cutTakes m e then s
    else startBrake a .starved e e k ((s.raise (F.AX_PLN_STAT.STARVED a)).inc F.PLN_EVENTS.STARVE_CNT)

/-- STILL_DELAY_EXPIRE: after `STILL_DELAY` at standstill the axis applies its standstill policy (R89). -/
def stillDelay (a : Axis) (s : State) : State :=
  match (s.mot a).stillAt with
  | none => s
  | some t0 =>
    if (s.mot a).queue = [] ∧ (s.mot a).cutQueue = [] then
      (s.at_ (t0 + s.get (F.AX_PLN_CFG.STILL_DELAY a) * msT)).modMot a fun m => { m with policyOn := true }
    else s

/-- ENERGISE_DONE: the energising time ends and the delayed segment starts (R90). -/
def energiseDone (a : Axis) (s : State) : State :=
  match (s.mot a).energiseEnd with
  | none => s
  | some t => (s.at_ t).modMot a fun m => { m with energiseEnd := none }

end Sys2Proof.Machine
end

