-- ==== Sys2Proof/Machine/Follow.lean ====
section
/-!
DEFINITION. Follow sources (R96 to R128): master channels, STEPDIR, gearing, cam evaluation, and the ways a follower
leaves its source. Master positions are in 2^-16 master units, slave positions in 2^-16 µstep.
-/

namespace Sys2Proof.Machine

/-! ### Feedback position as a master -/

/-- The modulus of the position counter: `REV_COUNT`, 0 meaning 2^32 (R261). -/
def revModulus (s : State) (a : Axis) : Nat :=
  let r := s.get (F.AX_FB_REV_COUNT.REV_COUNT a)
  if r = 0 then 2 ^ 32 else r

/-- The unwrapped count C (R261). -/
def fbUnwrapped (s : State) (a : Axis) : Int :=
  s.getS (F.AX_FB_REV.REV a) * (revModulus s a : Int) + (s.get (F.AX_FB_POS.POS a) : Int)

/-- `FB_VALID` (R263): no condition that invalidates the feedback position holds. -/
def fbValid (s : State) (a : Axis) : Bool :=
  let md := s.get (F.AX_FB_CFG.FB_MODE a)
  md != 0 && !s.flag (F.AX_FB_STAT.FB_LOST a) && !s.flag (F.AX_FB_STAT.HALL_INV_ACT a)
    && (md != 3 || s.flag (F.AX_FB_STAT.WHEEL_SYNC a))
    && (md != 4 || (!s.flag (F.AX_FB_STAT.SER_ERR_ACT a) && (s.ax a).fb.serGood))

/-! ### Master channels -/

/-- A state with one master channel changed. -/
def State.modMch (s : State) (c : Fin 4) (f : MchSt → MchSt) : State := { s with mch := s.mch.set c (f s.mch[c]) }

/-- A sample of instant `t` arrives at a channel now (R108, R110, R111): the last two are held. -/
def mchPush (c : Fin 4) (t : Nat) (m : Int) (s : State) : State :=
  s.modMch c fun x => { x with samples := (t, m) :: x.samples.take 1, lastM := m, lastAt := s.now }

/-- The master position of a channel at instant `t` by extrapolation from the last two samples (R109), rounded to
2^-16; with one sample, that sample (assumption log 24). -/
def mchAt (s : State) (c : Fin 4) (t : Nat) : Option Int :=
  match (s.mch[c]).samples with
  | (tk, mk) :: (tp, mp) :: _ =>
    let num : Int := (mk - mp) * ((t : Int) + s.getS (F.MCH_LEAD.LEAD c) * (nsT : Int) - (tk : Int))
    some (mk + divRound num (tk - tp))
  | [(_, mk)] => some mk
  | [] => none

/-- The channel an axis follows. -/
def chanOf (s : State) (a : Axis) : Fin 4 := ⟨s.get (F.AX_FOLLOW_STAT.MCH a) % 4, by omega⟩

/-- The follow state of an axis (R99). -/
def fstate (s : State) (a : Axis) : Nat := s.get (F.AX_FOLLOW_STAT.FSTATE a)

/-- A follower in WAITING, RAMP or ENGAGED uses the channel (R112). -/
def usesChan (s : State) (c : Fin 4) (a : Axis) : Bool :=
  (s.src a == 2 || s.src a == 3) && chanOf s a == c && (fstate s a == 1 || fstate s a == 2 || fstate s a == 3)

/-! ### Leaving a source -/

/-- The axis becomes DISENGAGED, its follow relations dropped. -/
def disengage (a : Axis) (s : State) : State :=
  let s := (s.set (F.AX_FOLLOW_STAT.FSTATE a) 0).set (F.AX_CAM_TABLE.NEXT_VALID a) 0
  s.modFol a fun f => { f with
    gearPend := none, gear := none, camNext := none, switchDue := false, buf := [], seek := none, nextBuf := [],
    exitArmed := false, exitAt := none, lossPend := none, cam := none, stepLast := none }

/-- The engage command of an axis, if one waits, retires with an outcome (R353). -/
def retireEngage (a : Axis) (o : Outc) (s : State) : State :=
  match (s.fol a).engSeq with
  | none => s
  | some q => retire q o (s.modFol a fun f => { f with engSeq := none })

/-- An engagement is cancelled without motion (R100, R111, R127): the axis becomes ARMED again (R513). -/
def cancelEngage (a : Axis) (s : State) : State :=
  let s := retireEngage a .cancelled (disengage a s)
  if s.axState a = 2 ∨ s.axState a = 3 then s.set (F.AX_STATE.STATE a) 1 else s

/-- `FOLLOW_LOST` with its cause (R100). -/
def noteLoss (a : Axis) (cause : Fin 5) (s : State) : State :=
  (s.raise (F.AX_FOLLOW_STAT.FOLLOW_LOST a)).set (F.AX_FOLLOW_STAT.LOST_CAUSE a) cause.val

/-- A follow loss (R100, R106, R111, R120, R122): a waiting follower is cancelled, an engaged one leaves at the next
half-period boundary, both with `FOLLOW_LOST` and its cause. -/
def followLoss (a : Axis) (cause : Fin 5) (s : State) : State :=
  if fstate s a = 1 then cancelEngage a (noteLoss a cause s)
  else if (fstate s a = 2 ∨ fstate s a = 3) ∧ (s.fol a).lossPend = none then
    (noteLoss a cause s).modFol a fun f => { f with lossPend := some cause }
  else s

/-- A STOP, HALT or exit takes a follower out of its source (R100): WAITING, and an engagement that has not begun, is cancelled
at once; RAMP and ENGAGED leave at the cut instant of R77. -/
def followExit (a : Axis) (s : State) : State :=
  if fstate s a = 1 ∨ (fstate s a = 0 ∧ (s.fol a).engSeq.isSome) then cancelEngage a s
  else if fstate s a = 2 ∨ fstate s a = 3 then
    let at_ := halfAfter s a (s.now + 40 * usT)
    s.modFol a fun f => { f with exitAt := some at_ }
  else s

/-- A channel is stale (R111): `STALE` and, at its entry, `STALE_EVT` are set, and its followers leave. The samples held are
dropped, also of a channel that is stale already; `fb`: it is so through `FB_VALID` = 0 (R264). -/
def mchStale (fb : Bool) (c : Fin 4) (s : State) : State :=
  let s := s.modMch c fun x => { x with samples := [], viaFb := x.viaFb || fb }
  let s := if s.flag (F.MCH_CFG.STALE c) then s else (s.set (F.MCH_CFG.STALE c) 1).raise (F.MCH_CFG.STALE_EVT c)
  s.each allAxes fun a s => if usesChan s c a then followLoss a 2 s else s

/-- MCH_STALE: no sample has arrived at the channel, one that is off included, for `STALE_T` × 10 µs (R111). -/
def mchStaleTimeout (c : Fin 4) (s : State) : State :=
  mchStale false c (s.at_ ((s.mch[c]).lastAt + s.get (F.MCH_CFG.STALE_T c) * 10 * usT))

/-- The source of a channel changes (R107, R108): samples and revolution count of the old source are dropped. -/
def mchRestart (c : Fin 4) (s : State) : State :=
  s.modMch c fun x => { x with samples := [], rev16 := 0, revExt := 0, viaFb := false }

/-- The revolution count of the source of a channel begins again at 0, and with it the channel's own (R108, R260, R269). DEDUCED
(assumption log 142). -/
def mchZero (c : Fin 4) (s : State) : State := s.modMch c fun x => { x with rev16 := 0, revExt := 0 }

/-- The counters of the decoder of an axis begin again at 0: so do the channels it feeds (R108). -/
def mchZeroed (a : Axis) (s : State) : State :=
  s.each (List.finRange 4) fun c s =>
    if s.get (F.MCH_CFG.SRC c) = 1 ∧ s.get (F.MCH_CFG.AXIS c) = a.val then mchZero c s else s

/-- The channel leaves stale when a sample arrives again; where it became stale through `FB_VALID` = 0, only after two
consecutive valid ones (R111, R264). -/
def mchFresh (c : Fin 4) (s : State) : State :=
  let x := s.mch[c]
  if (if x.viaFb then 2 else 1) ≤ x.samples.length then (s.set (F.MCH_CFG.STALE c) 0).modMch c fun x => { x with viaFb := false }
  else s

/-- The next sample instant of the master channels: the next multiple of 5,000 ns of `LTIME` (R108). -/
def mchSampleAt (s : State) : Nat := (s.now / (5 * usT) + 1) * (5 * usT)

/-! ### STEPDIR -/

/-- The step weight in 2^-16 µstep (R102). -/
def stepWeight (s : State) (a : Axis) : Int :=
  let w := s.get (F.AX_STEP_CFG.WEIGHT a)
  (if w = 0 then 256 else w) * 65536

/-- `STEP_VMAX_EFF` in 1/256 µstep/s (R105). -/
def stepVmaxEff (s : State) (a : Axis) : Nat := min (s.get (F.AX_STEP_VMAX.STEP_VMAX a)) (s.get (F.BK_VMAX.VMAX a))

/-- An edge on the filtered `AXnn_STP` is active under `EDGE` (R102). -/
def stepActive (s : State) (a : Axis) (rising : Bool) : Bool :=
  match s.get (F.AX_STEP_CFG.EDGE a) with
  | 0 => rising
  | 1 => !rising
  | 2 => true
  | _ => false

/-- The direction of an edge: +1 or −1 (R102). -/
def stepDir (s : State) (a : Axis) (level : Bool) : Int :=
  if level != s.flag (F.AX_STEP_CFG.DIR_INV a) then 1 else -1

/-- The interpolation of R105 at an accepted edge at instant `t` in direction `d`. -/
def stepInterp (a : Axis) (t : Nat) (d : Int) (s : State) : State :=
  let f := s.fol a
  let w := d * stepWeight s a
  let again : Option Nat := match f.stepLast with
    | some (tl, dl) => if dl = d ∧ t - tl ≤ s.get (F.AX_STEP_LIM.TIMEOUT a) * 10 * usT ∧ tl < t then some (t - tl) else none
    | none => none
  match again with
  | none => s.modFol a fun f => { f with
      stepBase := f.stepT + w, stepDw := 0, stepDt := 1, stepT := f.stepT + w, stepTb := t, stepLast := some (t, d) }
  | some dt =>
    -- the velocity of the interval exceeds STEP_VMAX_EFF (R106)
    let fast := decide (stepVmaxEff s a * dt < w.natAbs / 256 * tps)
    let s := s.modFol a fun f => { f with
      stepBase := f.stepT, stepDw := w, stepDt := dt, stepT := f.stepT + w, stepTb := t, stepLast := some (t, d) }
    if fast then s.raise (F.AX_FOLLOW_STAT.STEP_FAST a) else s

/-- The length in 125 ps units of a minimum-pulse-width filter set to `n` × 10 ns, 0 meaning 20 ns (R103, R257). -/
def filterLen (n : Nat) : Nat := (if n = 0 then 2 else n) * 10 * nsT

/-- A transition at instant `t` follows the last accepted one, `last`, so soon that the level between them is too short for a
filter of length `n` (R215, R478). -/
def tooShort (n : Nat) (last : Option Nat) (t : Nat) : Bool :=
  match last with | some t0 => decide (t < t0 + n) | none => false

/-- STEP_EDGE: a transition of `AXnn_STP` with the level at which `AXnn_DIR` stands (R102 to R105). A level of either pin shorter
than the filter is ignored: a pulse of `AXnn_STP` with both its edges, for `AXnn_DIR` the level before it holds (R103). `AX_STEP_CNT`
counts every accepted active edge; with `AXnn_ENA` low it moves nothing (R104). Neither counter moves while the source is not
STEPDIR: DESIGN CHOICE (assumption log 140). -/
def stepEdge (a : Axis) (rising : Bool) (dir : Held) (x : Level) (s : State) : State :=
  let s := s.at_ x.t
  let n := filterLen (s.get (F.AX_STEP_CFG.STP_FILT a))
  if ¬ s.axOn a ∨ x.len < n ∨ rising = (s.fol a).stpLevel then s
  else
    let s := s.modFol a fun f => { f with dirLevel := if dir.len < n then f.dirLevel else dir.high, stpLevel := rising }
    if s.src a ≠ 1 ∨ ¬ stepActive s a rising then s
    else
      let d := stepDir s a (s.fol a).dirLevel
      let s := s.setS (F.AX_STEP_CNT.CNT a) (s.getS (F.AX_STEP_CNT.CNT a) + d)
      if (s.gd a).ena then stepInterp a x.t d s else s.inc (F.AX_STEP_IGN.IGN a)

/-- The reference position of R105 at a boundary. -/
def stepRef (s : State) (a : Axis) (t : Nat) : Int :=
  let f := s.fol a
  if ¬ s.flag (F.AX_STEP_CFG.INTERP a) then f.stepT
  else
    let r := f.stepBase + divRound (f.stepDw * (t - f.stepTb : Nat)) f.stepDt
    clampInt (min f.stepBase f.stepT) (max f.stepBase f.stepT) r

/-- One boundary of R105: the new position, and the lag event of R106. -/
def stepAdvance (a : Axis) (t th : Nat) (s : State) : Int × State :=
  let p := (s.mot a).pos
  let lim : Int := (stepVmaxEff s a * 256 * th / tps : Nat)
  let p1 := p + clampInt (-lim) lim (stepRef s a t - p)
  let lag := decide (s.get (F.AX_STEP_LIM.LAG_MAX a) * 65536 < ((s.fol a).stepT - p1).natAbs)
  if lag then
    if s.flag (F.AX_STEP_CFG.LAG_REACT a) then (p1, followLoss a 1 s)
    else (p1, s.raise (F.AX_FOLLOW_STAT.STEP_FAST a))
  else (p1, s)

/-! ### Gearing -/

/-- The commanded position of a gear relation at master position `m`, exact and rounded once (R113 to R115): once the ramp is
done, and without a ramp, linear for every master position in either direction. -/
def GearRel.at_ (g : GearRel) (m : Int) : Int :=
  let dl := m - g.mc
  let x := g.sig * dl
  let l : Int := (g.ramp : Int) * 65536
  -- r1·Δ + (r2 − r1)·G(Δ) over the common denominator d1·d2·2^17·L
  let dr : Int := g.n2 * g.d1 - g.n1 * g.d2
  let line := g.done || g.ramp == 0
  if x ≤ 0 ∧ ¬ line then g.pc + divRound (g.n1 * dl) g.d1
  else if x < l ∧ ¬ line then
    g.pc + divRound (g.n1 * dl * g.d2 * (131072 * g.ramp : Nat) + dr * g.sig * x * x) (g.d1 * g.d2 * 131072 * g.ramp)
  else g.pc + divRound (g.n1 * dl * g.d2 * 2 + dr * (2 * dl - g.sig * l)) (g.d1 * g.d2 * 2)

/-- The master has passed the ramp of a gear relation (R113). -/
def GearRel.rampDone (g : GearRel) (m : Int) : Bool := decide ((g.ramp : Int) * 65536 ≤ g.sig * (m - g.mc))

/-- The sign of the master velocity of a channel, +1 where it is zero (R113). -/
def mchSign (s : State) (c : Fin 4) : Int :=
  match (s.mch[c]).samples with
  | (_, mk) :: (_, mp) :: _ => if mk < mp then -1 else 1
  | _ => 1

/-- The ratio a gear relation has at master position `m` (R114): r2 once the ramp is done, r1 before it begins, and r1 + (r2 − r1)·x/L
during RAMP, the slope of R113 there, so that neither position nor velocity jumps (assumption log 25). -/
def GearRel.ratio (g : GearRel) (m : Int) : Int × Nat :=
  let x := g.sig * (m - g.mc)
  if g.done ∨ g.ramp = 0 ∨ (g.ramp : Int) * 65536 ≤ x then (g.n2, g.d2)
  else if x ≤ 0 then (g.n1, g.d1)
  else
    let l := g.ramp * 65536
    (g.n1 * (g.d2 * l : Nat) + (g.n2 * g.d1 - g.n1 * g.d2) * x, g.d1 * g.d2 * l)

/-- A pending GEAR engagement or ratio change takes effect at a boundary with master position `m` (R113, R114). -/
def gearStart (a : Axis) (m : Int) (s : State) : State :=
  match (s.fol a).gearPend with
  | none => s
  | some (n, d, l) =>
    let p := match (s.fol a).gear with | some g => g.at_ m | none => (s.mot a).pos
    let r1 : Int × Nat := match (s.fol a).gear with | some g => g.ratio m | none => (0, 1)
    let g : GearRel := { pc := p, mc := m, n1 := r1.1, d1 := r1.2, n2 := n, d2 := d, ramp := l
                         sig := mchSign s (chanOf s a), done := l == 0 }
    let s := s.modFol a fun f => { f with gearPend := none, gear := some g }
    let s := beginMotion a ((s.set (F.AX_FOLLOW_STAT.FSTATE a) (if l = 0 then 3 else 2)).set (F.AX_STATE.STATE a) 3)
    retireEngage a .completed s

/-- One boundary of a GEAR follower: its position, and ENGAGED once the ramp is done. An engagement whose channel holds no
sample yet, or is stale, stays pending until it is not: DESIGN CHOICE (assumption log 106), since R113 is silent. -/
def gearAdvance (a : Axis) (t : Nat) (s : State) : Option (Int × State) :=
  match mchAt s (chanOf s a) t with
  | none => none
  | some m =>
    let s := if fstate s a = 0 ∧ s.flag (F.MCH_CFG.STALE (chanOf s a)) then s else gearStart a m s
    match (s.fol a).gear with
    | none => none
    | some g =>
      let s := if fstate s a = 2 ∧ g.rampDone m then
          (s.set (F.AX_FOLLOW_STAT.FSTATE a) 3).modFol a fun f => { f with gear := some { g with done := true } }
        else s
      some (g.at_ m, s)

/-! ### Cams -/

/-- The Hermite interpolant of R118 between two points, at `x` (2^-16 master units past the first) over a span of `h`
master units, exact and rounded once. -/
def hermite (s0 d0 s1 d1 : Int) (h : Nat) (x : Int) : Int :=
  let hh : Int := (h : Int) * 65536
  divRound ((2 * x ^ 3 - 3 * x ^ 2 * hh + hh ^ 3) * s0 + (x ^ 3 - 2 * x ^ 2 * hh + x * hh ^ 2) * (h * d0)
    + (-2 * x ^ 3 + 3 * x ^ 2 * hh) * s1 + (x ^ 3 - x ^ 2 * hh) * (h * d1)) ((h * 65536) ^ 3)

/-- The held point of index `i`. -/
def camPt (buf : List CamPt) (i : Nat) : Option CamPt := buf.find? fun p => p.i = i

/-- The held point whose interval contains coordinate `m` (2^-16), taken as the last held one not beyond it. -/
def camLeft (m : Int) : List CamPt → Option CamPt → Option CamPt
  | [], best => best
  | p :: ps, best =>
    let ok := decide ((p.master : Int) * 65536 ≤ m)
    let better := match best with | some b => decide (b.master < p.master) | none => true
    camLeft m ps (if ok && better then some p else best)

/-- The table value s(m) of R118 from the held points; `none` when a needed point is not held (R120). -/
def camValue (tab : CamTab) (buf : List CamPt) (m : Int) : Option Int :=
  match camLeft m buf none with
  | none => none
  | some l =>
    let x := m - (l.master : Int) * 65536
    if l.i + 1 = tab.npts then
      some (hermite l.slave l.slope (tab.first.slave + tab.rise * 65536) tab.first.slope (tab.mcyc - l.master) x)
    else
      match camPt buf (l.i + 1) with
      | none => none
      | some r => if m < (r.master : Int) * 65536 then
          some (hermite l.slave l.slope r.slave r.slope (r.master - l.master) x) else none

/-- A 48.16 position held in a LO and HI register pair. -/
def wide64 (s : State) (lo hi : Fld) : Int := signedOf 64 (s.wide lo hi)

/-- The cam parameter registers of an axis as they stand (R130). -/
def camRegs (s : State) (a : Axis) : CamPar :=
  { origin := signedOf 48 (s.wide (F.AX_CAM_ORIGIN_LO.ORIGIN a) (F.AX_CAM_ORIGIN_HI.ORIGIN a)) * 65536
    offset := wide64 s (F.AX_CAM_OFFSET_LO.OFFSET a) (F.AX_CAM_OFFSET_HI.OFFSET a)
    entry := s.get (F.AX_CAM_ENTRY.ENTRY a)
    absolute := s.get (F.AX_CAM_CFG.ENTRY_MODE a) != 0
    tol := s.get (F.AX_CAM_CFG.ENTRY_TOL a)
    leave := s.get (F.AX_CAM_EXIT.EXIT a)
    margin := s.get (F.AX_CAM_CFG.MARGIN a) }

/-- An engage command takes the cam parameters up (R130). -/
def takeCamRegs (a : Axis) (s : State) : State := s.modFol a fun f => { f with camPar := camRegs s a }

/-- `ORIGIN` in force in 2^-16 master units (R119). -/
def camOrigin (s : State) (a : Axis) : Int := (s.fol a).camPar.origin

/-- `OFFSET` in force in 2^-16 µstep (R119). -/
def camOffset (s : State) (a : Axis) : Int := (s.fol a).camPar.offset

/-- The device sets `OFFSET` (R123, R126). -/
def setOffset (a : Axis) (v : Int) (s : State) : State :=
  let s := s.modFol a fun f => { f with camPar := { f.camPar with offset := v } }
  (s.set (F.AX_CAM_OFFSET_LO.OFFSET a) (toBits 64 v % 2 ^ 32)).set (F.AX_CAM_OFFSET_HI.OFFSET a) (toBits 64 v / 2 ^ 32)

/-- Cycle index and coordinate of a master position (R119). -/
def camCoord (s : State) (a : Axis) (tab : CamTab) (m : Int) : Int × Int :=
  let d := m - camOrigin s a
  let cyc : Int := (tab.mcyc : Int) * 65536
  (d / cyc, d % cyc)

/-- The master has reached or passed coordinate `e` between positions `m0` and `m1` in its direction of motion
(R123, R125). -/
def camPassed (s : State) (a : Axis) (tab : CamTab) (e : Nat) (m0 m1 : Int) : Bool :=
  let cyc : Int := (tab.mcyc : Int) * 65536
  let d0 := m0 - camOrigin s a - (e : Int) * 65536
  let d1 := m1 - camOrigin s a - (e : Int) * 65536
  if m0 ≤ m1 then decide (d0 / cyc < d1 / cyc) else decide ((-d0) / cyc < (-d1) / cyc)

/-- `AX_CAM_M` and `AX_CAM_CYCLE` (R119). -/
def camReport (a : Axis) (c m : Int) (s : State) : State :=
  (s.set (F.AX_CAM_M.M a) (m / 65536).toNat).setS (F.AX_CAM_CYCLE.CYCLE a) (c - (s.fol a).c0)

/-- The commanded position of an engaged CAM axis (R119). -/
def camPos (s : State) (a : Axis) (tab : CamTab) (c m : Int) : Option Int :=
  (camValue tab (s.fol a).buf m).map fun v => camOffset s a + v + (c - (s.fol a).c0) * tab.rise * 65536

/-- A WAITING axis engages where m has reached `AX_CAM_ENTRY` (R123). -/
def camEntry (a : Axis) (tab : CamTab) (c m : Int) (s : State) : State :=
  match camValue tab (s.fol a).buf m with
  | none => followLoss a 3 s
  | some v =>
    let p := (s.mot a).pos
    let s := s.modFol a fun f => { f with c0 := c, cyc := c }
    if ¬ (s.fol a).camPar.absolute then
      let s := setOffset a (p - v) s
      retireEngage a .completed (beginMotion a ((s.set (F.AX_FOLLOW_STAT.FSTATE a) 3).set (F.AX_STATE.STATE a) 3))
    else if (s.fol a).camPar.tol * 65536 < (p - camOffset s a - v).natAbs then
      (cancelEngage a s).raise (F.AX_FOLLOW_STAT.ENTRY_MISMATCH a)
    else retireEngage a .completed (beginMotion a ((s.set (F.AX_FOLLOW_STAT.FSTATE a) 3).set (F.AX_STATE.STATE a) 3))

/-- A due switch to the pending table (R126) with its parameters (R130) at master position `mm`, cycle `c` and coordinate `m` of
the table in force: `OFFSET` is recomputed so that the position is unchanged. Where the first points of the new table are not
held the switch moves to the next boundary, taken as the next half-period boundary: DESIGN CHOICE (assumption log 107). -/
def camSwitch (a : Axis) (tab nxt : CamTab) (mm c m : Int) (s : State) : State :=
  let s1 := s.modFol a fun f => { f with camPar := f.nextPar }
  let cm := camCoord s1 a nxt mm
  match camPos s a tab c m, camValue nxt (s.fol a).nextBuf cm.2 with
  | some p, some v =>
    let s := if tab.first.slope = nxt.first.slope then s1 else s1.raise (F.AX_FOLLOW_STAT.CAM_SLOPE_JUMP a)
    let s := setOffset a (p - v) s
    let s := s.modFol a fun f => { f with
      cam := some nxt, camNext := none, c0 := cm.1, cyc := cm.1, switchDue := false, buf := f.nextBuf, seek := none, nextBuf := [] }
    (s.set (F.AX_CAM_TABLE.ACTIVE a) nxt.id.toNat).set (F.AX_CAM_TABLE.NEXT_VALID a) 0
  | _, _ => s.raise (F.AX_FOLLOW_STAT.CAM_SWITCH_LATE a)

/-- Points held ahead of the current one in the direction of master motion (R120). -/
def pointsAhead (tab : CamTab) (buf : List CamPt) (i : Nat) (dir : Int) : Nat :=
  (buf.filter fun p =>
    let d := if dir < 0 then (i + tab.npts - p.i) % tab.npts else (p.i + tab.npts - i) % tab.npts
    decide (0 < d) && decide (d ≤ 223)).length

/-- `CAM_MARGIN_LOW` when fewer than `MARGIN` points are held ahead (R120), which a table of fewer points always has; none is where
the current point itself is not held. -/
def camMargin (a : Axis) (tab : CamTab) (m : Int) (s : State) : State :=
  let n := match camLeft m (s.fol a).buf none with
    | none => 0
    | some l => pointsAhead tab (s.fol a).buf l.i (mchSign s (chanOf s a))
  if n < (s.fol a).camPar.margin then s.raise (F.AX_FOLLOW_STAT.CAM_MARGIN_LOW a) else s

/-- One boundary of an engaged CAM follower (R119, R120, R126, R127): the switch first, then the position; no position when a
needed point is not held. -/
def camFollow (a : Axis) (tab : CamTab) (m : Int) (s : State) : Option Int × State :=
  let cm := camCoord s a tab m
  let crossed := decide (cm.1 ≠ (s.fol a).cyc)
  let s := s.modFol a fun f => { f with cyc := cm.1, switchDue := f.switchDue || (crossed && f.camNext.isSome) }
  let s := match (s.fol a).camNext with
    | some nxt => if (s.fol a).switchDue then camSwitch a tab nxt m cm.1 cm.2 s else s
    | none => s
  let tab1 := (s.fol a).cam.getD tab
  let cm := camCoord s a tab1 m
  let s := camMargin a tab1 cm.2 (camReport a cm.1 cm.2 s)
  (camPos s a tab1 cm.1 cm.2, s)

/-- One boundary of a CAM axis in WAITING or ENGAGED; the position, the state, and whether the exit point was met
(R125). An engaged axis whose next point is not held has no position of its own: it runs on at its velocity over the half
period `th` and leaves at the next boundary (R100, R120, assumption log 108). -/
def camAdvance (a : Axis) (t th : Nat) (s : State) : Int × State × Bool :=
  let p := (s.mot a).pos
  match mchAt s (chanOf s a) t, (s.fol a).cam with
  | some m, some tab =>
    let m0 := (s.fol a).prevM
    let keep : State → State := fun s => s.modFol a fun f => { f with prevM := m }
    if fstate s a = 1 then
      let cm := camCoord s a tab m
      let s := camMargin a tab cm.2 s
      if camPassed s a tab (s.fol a).camPar.entry m0 m then
        let s1 := camReport a cm.1 cm.2 (camEntry a tab cm.1 cm.2 (keep s))
        (if fstate s1 a = 3 then (camPos s1 a tab cm.1 cm.2).getD p else p, s1, false)
      else (p, keep s, false)
    else
      match camFollow a tab m s with
      | (none, s1) => ((kinEval p (s.mot a).vel 0 0 th).p, keep (followLoss a 3 s1), false)
      | (some p1, s1) =>
        let tab1 := (s1.fol a).cam.getD tab
        (p1, keep s1, (s1.fol a).exitArmed && camPassed s1 a tab1 (s1.fol a).camPar.leave m0 m)
  | _, _ => (p, s, false)

/-! ### Commands of the follow family -/

/-- A source change that takes effect (R97): `SRC` shows it, and `REMAIN_VALID` clears (R83), unless it names the source already
in force. -/
def takeSource (a : Axis) (src : Nat) (s : State) : State :=
  let s := if s.src a = src then s else clearRemain a (s.set (F.AX_FOLLOW_STAT.SRC a) src)
  s.modFol a fun f => { f with srcPend := none }

/-- A pending recipe source is taken once the axis is ARMED or STOPPED at standstill with an empty queue (R97). -/
def takePendSource (a : Axis) (s : State) : State :=
  match (s.fol a).srcPend with
  | none => s
  | some k =>
    if (s.axState a = 1 ∨ s.axState a = 5) ∧ atStandstill s a ∧ fstate s a = 0 then takeSource a k.val s else s

/-- STEPDIR engagement (R99, R105): the axis follows from its present position. -/
def engageStep (a : Axis) (s : State) : State :=
  let p := (s.mot a).pos
  let s := s.modFol a fun f => { f with
    stepT := p, stepBase := p, stepDw := 0, stepDt := 1, stepTb := s.now, stepLast := none }
  retireEngage a .completed (beginMotion a ((s.set (F.AX_FOLLOW_STAT.FSTATE a) 3).set (F.AX_STATE.STATE a) 3))

/-- GEAR engagement on a channel: it begins at the next half-period boundary with the ratio and ramp of the registers
(R113). -/
def engageGear (a : Axis) (c : Fin 4) (s : State) : State :=
  let s := s.set (F.AX_FOLLOW_STAT.MCH a) c.val
  s.modFol a fun f => { f with
    gear := none,
    gearPend := some (s.getS (F.AX_GEAR_NUM.NUM a), s.get (F.AX_GEAR_DEN.DEN a), s.get (F.AX_GEAR_RAMP.RAMP a)) }

/-- CAM engagement with a validated table: WAITING for the entry point, passed or not since the command (R123). -/
def engageCam (a : Axis) (c : Fin 4) (tab : CamTab) (s : State) : State :=
  let s := (s.set (F.AX_FOLLOW_STAT.MCH a) c.val).set (F.AX_FOLLOW_STAT.FSTATE a) 1
  let s := (s.set (F.AX_STATE.STATE a) 2).set (F.AX_CAM_TABLE.ACTIVE a) tab.id.toNat
  s.modFol a fun f => { f with
    cam := some tab, buf := [], seek := none, camNext := none, nextBuf := [], exitArmed := false, switchDue := false }

/-- A validated table is held in `NEXT` with the parameters its command has taken up (R126, R130); a second one replaces the first
(R127). -/
def holdNext (a : Axis) (tab : CamTab) (par : CamPar) (s : State) : State :=
  let s := (s.set (F.AX_CAM_TABLE.NEXT a) tab.id.toNat).set (F.AX_CAM_TABLE.NEXT_VALID a) 1
  s.modFol a fun f => { f with camNext := some tab, nextPar := par, nextBuf := [] }

/-- EXIT (R100, R125): no effect when DISENGAGED; a waiting engagement is cancelled; STEPDIR and GEAR leave at the cut
instant, CAM at its exit point. -/
def exitCmd (a : Axis) (s : State) : State :=
  if s.src a = 3 ∧ fstate s a = 3 then
    let m := (mchAt s (chanOf s a) s.now).getD (s.fol a).prevM
    s.modFol a fun f => { f with exitArmed := true, prevM := m }
  else followExit a s

end Sys2Proof.Machine
end

