-- ==== Sys2Proof/Machine/Executor.lean ====
section
/-!
DEFINITION. The profile executor at a half-period boundary (R57, R84, R85, R89, R98 to R100): it runs the committed
segments, a brake, or a follow source, and forms the commanded position, velocity and acceleration. Cut instants (R77, R78)
and the records of stops (R81).
-/

namespace Sys2Proof.Machine

/-- The half period that ends at the boundary in hand, in 125 ps units. -/
def halfTime (s : State) (a : Axis) : Nat :=
  let p := perOf s a
  if (s.pwm a).timer.nextIsPeriod then p - p / 2 else p / 2

/-- Gives committed segments their starts as an unbroken chain from `start` ns (R58). -/
def chainStarts : Nat → List Seg → List Seg
  | _, [] => []
  | st, g :: gs => { g with start := st } :: chainStarts (st + g.dur) gs

/-- An axis has come to standstill at instant `e` (R89): a follower that was exiting is DISENGAGED and STOPPED (R100),
a stop ends in STOPPED, a move in ARMED (R513); a jog leaves `AX_TARGET` at the standstill position (R55). With segments of a
cut committed no standstill delay begins (R89). -/
def reachStandstill (a : Axis) (e : Nat) (k : SegKind) (s : State) : State :=
  let s := s.modMot a fun m => { m with
    queue := [], brake := none, vel := 0, acc := 0, stillAt := if m.cutQueue = [] then some e else none
    policyOn := false, stopped := decide (k = .stop), energiseEnd := none }
  let moving := s.axState a = 2 ∨ s.axState a = 3 ∨ s.axState a = 4
  if s.src a ≠ 0 ∧ fstate s a ≠ 0 then
    let s := clearRemain a (disengage a s)
    let s := s.modMot a fun m => { m with target := m.pos, stopped := true, recordDue := none }
    takePendSource a (if moving then s.set (F.AX_STATE.STATE a) 5 else s)
  else
    let s := if k = .jog then s.modMot a fun m => { m with target := m.pos } else s
    takePendSource a (if moving then s.set (F.AX_STATE.STATE a) (if k = .stop then 5 else 1) else s)

/-! ### Cut instant and recorded stops -/

/-- R81 for a stop that rests at `rest`: `AX_TARGET`, the remaining distance to the target `goal` of the MOVE that was
executing, if one was. -/
def recordStop (a : Axis) (rest : Int) (goal : Option Int) (s : State) : State :=
  match goal with
  | some g =>
    (s.modMot a fun m => { m with target := rest, remain := g - rest, resumeGoal := g }).set
      (F.AX_PLN_STAT.REMAIN_VALID a) 1
  | none => (s.modMot a fun m => { m with target := rest }).set (F.AX_PLN_STAT.REMAIN_VALID a) 0

/-- The target of the MOVE that executes at instant `t`: that of the segment running then, or of the last one where it ends then in
motion (R88), or, under a brake, of the one the brake ended (R81). -/
def executingGoal (m : MotionSt) (t : Nat) : Option Int :=
  match m.brake with
  | some b => if t < b.endAt then m.stopGoal else none
  | none =>
    match liveSegs t m.queue with
    | sg :: _ => if sg.kind = .move ∧ sg.start * nsT ≤ t then sg.goal else none
    | [] => match m.queue.getLast? with
      | some sg => if sg.kind = .move ∧ sg.endAt = some t ∧ sg.after.v ≠ 0 then sg.goal else none
      | none => none

/-- The record of a stop that reached standstill by instant `t` and waits for the planner (R81, R84, R88). -/
def recordIfDue (a : Axis) (t : Nat) (s : State) : State :=
  let m := s.mot a
  match m.recordDue with
  | none => s
  | some e =>
    let s := s.modMot a fun m => { m with recordDue := none }
    if e ≤ t then recordStop a (match m.brake with | some b => b.endPos | none => m.pos) m.stopGoal s else s

/-- The executor carries out a cut that has segments (R77): the segment running ends, later ones are dropped and counted, and
the first new one starts, after the energising time where a stall has left the axis FREE (R90, R180). A JOG or a MOVE discards any remaining distance (R53, R54), a stop records its own (R81). -/
def carrySegs (a : Axis) (c : Cut) (s : State) : State :=
  let m := s.mot a
  let goal := executingGoal m c.at_
  let rest := (planRest m).p
  let s := countCut (m.queue.filter fun g => c.at_ < g.start * nsT).length s
  let free := needsEnergise s a && c.kind != .stop && c.kind != .rangeStop
  let s := s.modMot a fun m => { m with
    energiseEnd := if free then some (c.at_ + energiseTime s a) else m.energiseEnd
    queue := m.cutQueue, cutQueue := [], cut := none, brake := none, stillAt := none, policyOn := false, stallHold := none,
    stopped := false
    target := match c.kind with | .replace => c.goal | .endJog => c.goal | _ => m.target }
  let s := match m.cutQueue with | sg :: _ => startState a sg.kind s | [] => s
  if c.kind = .stop ∨ c.kind = .rangeStop then recordStop a rest goal s else clearRemain a s

/-- The segments of a queue with the last one of a kind, which says how the axis stands after it (R513). -/
def endAs (k : SegKind) : List Seg → List Seg
  | [] => []
  | [g] => [{ g with kind := k }]
  | g :: gs => g :: endAs k gs

/-- The executor carries out a cut whose profile has no segments (R80, R65): the axis rests. The segments from the cut instant on are
dropped, those with a later start counted (R77); what has ended there runs out as committed (R88), as the end of the new motion where
more was to follow. A stop leaves `AX_TARGET` at the position of rest (R52, R81); it changes the remaining distance only where it
took the place of motion (R87). -/
def carryNone (a : Axis) (c : Cut) (s : State) : State :=
  let m := s.mot a
  let goal := executingGoal m c.at_
  let stop := decide (c.kind = .stop ∨ c.kind = .rangeStop)
  let kind : SegKind := if stop then .stop else .jog
  let live := liveSegs c.at_ m.queue
  let ended := m.queue.take (m.queue.length - live.length)
  let s := countCut (live.filter fun g => c.at_ < g.start * nsT).length s
  let s := s.modMot a fun m => { m with cut := none, queue := if live = [] then ended else endAs kind ended }
  let s := if live ≠ [] ∧ ended = [] ∧ m.brake.isNone then reachStandstill a c.at_ kind s else s
  if ¬ stop then clearRemain a s
  else if live ≠ [] ∨ goal.isSome then recordStop a c.base.p goal s
  else s.modMot a fun m => { m with target := c.base.p }

/-- The executor carries out a cut at its instant (R77, R80, R81, R88). A stop cancels the commands that wait; a JOG to velocity
0 without segments retires COMPLETED (R91). -/
def carryCut (a : Axis) (c : Cut) (s : State) : State :=
  let s := recordIfDue a c.at_ s
  let none_ := decide ((s.mot a).cutQueue = [])
  let s := if none_ then carryNone a c s else carrySegs a c s
  let stop := c.kind = .stop ∨ c.kind = .rangeStop
  let s := if stop then cancelWaiting a s else s
  let s := retireAll c.cancels .cancelled s
  match c.seq with
  | none => s
  | some q =>
    if c.kind = .rangeStop then retire q .range s
    else if c.kind = .stop ∨ none_ then retire q .completed s
    else s

/-- CUT_INSTANT: the cut is carried out, or, where its hand-off is late, planned again for a later instant: the executor runs
on, and the late segment is offside (R77, R78). -/
def cutInstant (a : Axis) (s : State) : State :=
  match (s.mot a).cut with
  | none => s
  | some c =>
    let s := s.at_ c.at_
    let m := s.mot a
    if m.cutQueue = [] ∧ (m.window ≠ [] ∨ m.phases ≠ []) then
      planCut a { c with due := c.at_ + 40 * usT } (discardWindow a s)
    else carryCut a c s

/-- PLANNER_STOP_RECORD: after a starvation, clamp or stall stop the planner applies R81 with the standstill instant as
the cut instant (R84, R85). The plan of a pending cut stays; a cut whose instant comes first takes the place of the stop
(R88). -/
def plannerStopRecord (a : Axis) (s : State) : State :=
  let m := s.mot a
  if ¬ s.ip.running ∨ m.recordDue.isNone then s
  else
    match m.cut with
    | some c =>
      let first := match m.recordDue with | some e => decide (e ≤ c.at_) | none => false
      if first then cancelWaiting a (recordIfDue a c.at_ s) else recordIfDue a c.at_ s
    | none =>
      let rest := match m.brake with | some b => b.endPos | none => m.pos
      let seqs := openSeqs m
      let s := discardWindow a (recordStop a rest m.stopGoal s)
      let s := s.modMot a fun m => { m with
        recordDue := none, chain := [], jogSeq := none, planEnd := { p := rest, v := 0, a := 0 } }
      cancelWaiting a (retireAll seqs .cancelled s)

/-! ### Boundaries -/

/-- The state of an axis becomes `k`. -/
def setKin (a : Axis) (k : KState) (s : State) : State :=
  s.modMot a fun m => { m with pos := k.p, vel := k.v, acc := k.a }

/-- One boundary of an axis under a brake (R84, R85, R181); the boundary at which the deceleration of a clamp begins sets
`CLAMPED`. -/
def runBrake (a : Axis) (b : Brake) (t : Nat) (s : State) : State :=
  let s := setKin a (b.eval t) s
  let begins := decide (b.at_ ≤ t) && decide (t < b.at_ + halfTime s a)
  let s := if b.why = .clamped ∧ begins then s.raise (F.AX_PLN_STAT.CLAMPED a) else s
  if b.endAt ≤ t then reachStandstill a b.endAt .stop s else s

/-- One boundary of an axis that executes committed segments (R57, R60); a queue that ends in motion starves (R84). -/
def runQueue (a : Axis) (t : Nat) (s : State) : State :=
  let m := s.mot a
  let k0 : KState := { p := m.pos, v := m.vel, a := m.acc }
  let kind := match m.queue.getLast? with | some g => g.kind | none => .move
  match dropEnded t m.queue k0 with
  | ([], k) =>
    let e := (chainEndAt m.queue).getD t
    if k.resting then reachStandstill a e kind (setKin a k s)
    else
      let s := starve a t s
      match (s.mot a).brake with
      | some b => runBrake a b t s
      | none => setKin a k s
  | (g :: gs, _) =>
    let now := g.stateAt t
    let s := setKin a now (s.modMot a fun m => { m with queue := g :: gs })
    if g.kind = .jog then s.modMot a fun m => { m with target := now.p } else s

/-- A position formed by a follow source: `AX_VEL` and `AX_ACC` are differences over the half period (R98). -/
def setFollowed (a : Axis) (p : Int) (th : Nat) (s : State) : State :=
  let m := s.mot a
  let v := divRound ((p - m.pos) * (65536 * tps : Nat)) th
  let acc := divRound ((v - m.vel) * (tps : Nat)) (256 * th)
  s.modMot a fun m => { m with pos := p, vel := v, acc := acc }

/-- The number of segments that phases of fixed durations can become (R61). -/
def pieces (ps : List Phase) : Nat := (ps.map fun ph => ph.dur / maxDur + 1).sum

/-- A follower leaves RAMP or ENGAGED with a stop under R80 from its actual state at a boundary (R100, R125). -/
def followStop (a : Axis) (t : Nat) (s : State) : State :=
  let m := s.mot a
  let k : KState := { p := m.pos, v := m.vel, a := m.acc }
  let c := (mkCut .stop none).asStop s a
  let ph := planStop c.tag k c.prof (s.get (F.BK_AMAX.AMAX a))
  let segs := chainStarts (t / nsT) ((computeAll (pieces ph) k ph).map (·.1))
  let s := noteStop a s
  let s := (s.set (F.AX_FOLLOW_STAT.FSTATE a) 4).set (F.AX_CAM_TABLE.NEXT_VALID a) 0
  let s := s.modFol a fun f => { f with exitAt := none, exitArmed := false, camNext := none }
  let s := if s.axState a = 3 then s.set (F.AX_STATE.STATE a) 2 else s
  if segs = [] then reachStandstill a t .stop s
  else s.modMot a fun m => { m with queue := segs, stillAt := none, policyOn := false }

/-- A follower leaves at the Backstop acceleration from this boundary on (R100). -/
def followBrake (a : Axis) (why : BrakeWhy) (t after : Nat) (s : State) : State :=
  let m := s.mot a
  let s := s.set (F.AX_FOLLOW_STAT.FSTATE a) 4
  let s := s.modFol a fun f => { f with lossPend := none, exitAt := none, exitArmed := false }
  if m.vel = 0 then reachStandstill a t .stop (if why = .clamped then s.raise (F.AX_PLN_STAT.CLAMPED a) else s)
  else
    let s := if s.axState a = 3 then s.set (F.AX_STATE.STATE a) 2 else s
    startBrake a why t after { p := m.pos, v := m.vel, a := 0 } s

/-- One boundary of a follower in WAITING, RAMP or ENGAGED (R98, R100). A follower that has lost its source has run on at its
velocity since the boundary before, and brakes from here; one that waits on a stale channel is cancelled (R111). -/
def runFollow (a : Axis) (t : Nat) (s : State) : State :=
  let th := halfTime s a
  if fstate s a = 1 ∧ s.flag (F.MCH_CFG.STALE (chanOf s a)) then followLoss a 2 s
  else if (s.fol a).lossPend.isSome then
    let s := followBrake a .lost (t - th) t s
    match (s.mot a).brake with | some b => runBrake a b t s | none => s
  else
    let r : Int × State × Bool := match s.src a with
      | 1 => if fstate s a = 3 then let x := stepAdvance a t th s; (x.1, x.2, false) else ((s.mot a).pos, s, false)
      | 2 => match gearAdvance a t s with | some x => (x.1, x.2, false) | none => ((s.mot a).pos, s, false)
      | 3 => camAdvance a t th s
      | _ => ((s.mot a).pos, s, false)
    let s := setFollowed a r.1 th r.2.1
    let due := match (s.fol a).exitAt with | some e => decide (e ≤ t) | none => false
    if r.2.2 || due then followStop a t s else s

/-- The executor or the follow source forms the commanded state for the boundary at instant `t` (R57, R98). -/
def runMotion (a : Axis) (t : Nat) (s : State) : State :=
  let m := s.mot a
  match m.brake with
  | some b => runBrake a b t s
  | none =>
    if m.queue ≠ [] then runQueue a t s
    else if s.src a ≠ 0 ∧ (fstate s a ≠ 0 ∨ (s.fol a).gearPend.isSome) then runFollow a t s
    else setKin a { p := m.pos, v := 0, a := 0 } s

/-- The latest half-period boundary at or before instant `t`, the present one. -/
def lastHalf (s : State) (a : Axis) (t : Nat) : Nat :=
  if (s.pwm a).timer.next ≤ t then t else (s.pwm a).timer.next - halfTime s a

/-- The state that the segments already started at instant `t` give at a later instant `e`; after their end the axis runs
on linearly (R84, R85). -/
def runOn (q : List Seg) (k : KState) (t e : Nat) : KState :=
  match dropEnded e (q.filter fun g => g.start * nsT ≤ t) k with
  | (g :: _, _) => g.eval (e - g.start * nsT)
  | ([], k1) =>
    match chainEndAt (q.filter fun g => g.start * nsT ≤ t) with
    | some z => { (kinEval k1.p k1.v 0 0 (e - z)) with a := 0 }
    | none => k1

/-- A Backstop clamp (R85, R88, R100): committed segments not yet started are dropped and counted, a pending cut is
discarded, and the axis decelerates at the Backstop acceleration from the next half-period boundary, which sets `CLAMPED`;
an axis without velocity sets it at once, and what is planned for it is discarded (R73). A segment already started runs to that
boundary. DEDUCED (assumption log 69). -/
def clampAxis (a : Axis) (t : Nat) (s : State) : State :=
  let s := discardCut a s
  let m := s.mot a
  if m.brake.isSome then s
  else
    let s := countCut (m.queue.filter fun g => t < g.start * nsT).length s
    let begun := m.queue.filter fun g => g.start * nsT ≤ t
    if s.src a ≠ 0 ∧ fstate s a ≠ 0 then
      if fstate s a = 1 then cancelEngage a s else followBrake a .clamped (lastHalf s a t) (t + 1) s
    else if m.vel = 0 ∧ begun = [] then
      let s := (s.raise (F.AX_PLN_STAT.CLAMPED a)).modMot a fun m => { m with recordDue := some t, stopGoal := none }
      discardWindow a (if m.queue = [] then s else reachStandstill a t .stop s)
    else
      let at_ := halfAfter s a (t + 1)
      brakeAt a .clamped (lastHalf s a t) m.pos at_ (runOn begun { p := m.pos, v := m.vel, a := m.acc } t at_) s

end Sys2Proof.Machine
end

