-- ==== Sys2Proof/Machine/Filter.lean ====
section
/-!
DEFINITION. The filters of the comparators: the majority filter (R296, R297) and the trip filter behind it (R215, R216).
-/

namespace Sys2Proof.Machine

/-- `k` sample intervals of a majority filter, none where it is off (R296). -/
def majTime (cfg : Word) (k : Nat) : Nat := if cfg.getLsbD 0 then k * getBits cfg 15 8 * 10 * nsT else 0

/-- M and N of a majority filter (R296). -/
def majM (cfg : Word) : Nat := 2 * getBits cfg 2 1 + 3
def majN (cfg : Word) : Nat := getBits cfg 6 3

/-- The interval between two samples of a comparator: `MAJ_SI`, or, with the majority filter off, the 10 ns tick of the trip
filters (R215, R296). -/
def sampleStep (cfg : Word) : Nat := if cfg.getLsbD 0 then majTime cfg 1 else 10 * nsT

/-- By instant `t` the trip filter, `len` long, has accepted an output that has stood for its length (R215). -/
def FiltSt.elapse (len t : Nat) (f : FiltSt) : FiltSt :=
  if f.out != f.acc && decide (f.outAt + len ≤ t) then { f with acc := f.out } else f

/-- The majority filter takes the sample `b` at instant `t` (R296): until instant `hold` the comparator keeps its level (R293).
Samples before the first are inactive (R298). -/
def FiltSt.push (cfg : Word) (hold t : Nat) (b : Bool) (f : FiltSt) : FiltSt :=
  let h := ((if t < hold then f.hist.headD false else b) :: f.hist).take (majM cfg)
  let n := h.count true
  let out :=
    if !cfg.getLsbD 0 then h.headD false
    else if majN cfg ≤ n then true
    else if majN cfg ≤ majM cfg - n then false
    else f.out
  if out = f.out then { f with hist := h } else { f with hist := h, out := out, outAt := t }

/-- A comparator is sampled from instant `t` on; the answer names the instant at which its trip filter first accepts it as
active, if it does. -/
def FiltSt.feed (cfg : Word) (len hold : Nat) : List Bool → Nat → FiltSt → FiltSt × Option Nat
  | [], _, f => (f, none)
  | b :: l, t, f =>
    let e := f.elapse len t
    let p := e.push cfg hold t b
    let g := p.elapse len t
    let r := FiltSt.feed cfg len hold l (t + sampleStep cfg) g
    (r.1, if e.acc && !f.acc then some (f.outAt + len) else if g.acc && !e.acc then some (p.outAt + len) else r.2)

/-- The last tick of a list of samples. -/
def lastTick (x : Samples) (cfg : Word) : Nat := x.t + (x.raw.length - 1) * sampleStep cfg

end Sys2Proof.Machine
end

