-- ==== Sys2Proof/Machine/AxisState.lean ====
section
/-!
DEFINITION. Axis states (R511 to R513), the order of forced gate states (R242), audit entries (R494), Whistle requests
(R448), latched faults and their clearing (R237 to R244).
-/

namespace Sys2Proof.Machine

/-! ### Audit entries and Whistle requests -/

/-- An audit entry is buffered (R494): the engine holds 16; one that finds the buffer full is lost and counted, its
number skipped. Port: 0 `HP`, 1 `AUX`, 2 internal; role 3 for none. Data words the spec gives no content are free. -/
def audit (code role port axis status : Nat) (data : List Word) (s : State) : State :=
  let e : AuditEnt := {
    no := s.sec.auditNext, time := s.ltime, code := BitVec.ofNat 8 code, role := BitVec.ofNat 2 role,
    port := BitVec.ofNat 2 port, life := s.sec.life.setWidth 4, axis := BitVec.ofNat 4 axis,
    status := BitVec.ofNat 8 status,
    data := data ++ (List.range (4 - data.length)).map fun i => Config.freeWord (s.freeCtr + i) }
  let s : State := { s with freeCtr := s.freeCtr + 4 }
  if 16 ≤ s.sec.auditBuf.length then
    { s with sec := { s.sec with auditNext := s.sec.auditNext + 1 } }.inc F.SEC_AUDIT_CNT.AUDIT_LOST
  else { s with sec := { s.sec with auditNext := s.sec.auditNext + 1, auditBuf := s.sec.auditBuf ++ [e] } }

/-- A rate-limited audit entry: at most one in any 100 ms for its key (R476, R494). -/
def auditLimited (key code role port axis status : Nat) (data : List Word) (s : State) : State :=
  match s.sec.auditRate.find? fun e => e.1 = key with
  | some e =>
    if s.now < e.2 + 100 * msT then s
    else audit code role port axis status data { s with sec := { s.sec with
      auditRate := (key, s.now) :: s.sec.auditRate.filter fun e => e.1 ≠ key } }
  | none => audit code role port axis status data { s with sec := { s.sec with auditRate := (key, s.now) :: s.sec.auditRate } }

/-- A source raises a Whistle (R448); the command in hand latches it before it ends. -/
def raiseWhistle (code detail : Nat) (s : State) : State := { s with whReq := s.whReq ++ [(code, detail)] }

/-- A latched bridge fault of an axis raises a Whistle where it is selected (R448 code 4). -/
def faultWhistle (a : Axis) (s : State) : State :=
  if natBit (s.get F.WH_AX_SEL.FLT) a then raiseWhistle 4 a s else s

/-! ### Automatic transitions -/

/-- Writes a mode transition into `TRANSIT` and its target; MODE_TRANSIT_DONE completes it (R506). -/
def beginTransit (m trig : Nat) (s : State) : State :=
  { (s.set F.MODE_STAT.TRANSIT 1) with pw := { s.pw with transit := some (BitVec.ofNat 3 m, trig) } }

/-- The trigger of an automatic transition acts in the present mode (R504). -/
def autoApplies (trig mode : Nat) : Bool :=
  if trig = 5 then decide (2 ≤ mode) && decide (mode ≤ 6)
  else if trig = 6 then mode == 5 || mode == 6
  else mode == 5

/-- An automatic transition to HALT or SAFE (R504, R522): it begins now, or waits for a transition in progress; a waiting
SAFE is not replaced by a HALT. -/
def autoTransit (m trig : Nat) (s : State) : State :=
  match s.pw.transit with
  | some _ =>
    (match s.pw.autoNext with
     | some (7, _) => s
     | _ => { s with pw := { s.pw with autoNext := some (BitVec.ofNat 3 m, trig) } })
  | none =>
    if autoApplies trig s.mode then beginTransit m trig s else s

/-! ### Readiness -/

/-- The enable inputs are present, bit 9 of `OFF_WHY` (R512, R480): `AXnn_ENA`, `STO_A` and `STO_B` high and `STO_DISC` = 0;
a test takeover takes it away (R577). -/
def enaPresent (s : State) (a : Axis) : Bool :=
  (s.gd a).ena && s.bk.stoA && s.bk.stoB && !s.flag F.BK_DEV_STAT.STO_DISC && !s.tap.takeover

/-- Bridge enable is present in the full sense of R478, `AXIS_EN` = 1 among its conditions; R251 and `EN_PRESENT` use it.
DEDUCED (assumption log 68). -/
def bridgeEnabled (s : State) (a : Axis) : Bool := enaPresent s a && s.flag (F.BK_CFG.AXIS_EN a)

/-- An axis fault is latched (R239, R240, R241). -/
def axisFaulted (s : State) (a : Axis) : Bool :=
  getBits (BitVec.ofNat 32 (s.get (F.AX_GD_FLT.all a))) 10 5 != 0 || s.flag (F.AX_DEADLINE.DEADLINE_FLT a)
    || s.flag (F.AX_PWM_STAT.TRIP_FLT a)

/-- Any latched bridge fault of the axis (R324, R448). -/
def anyFault (s : State) (a : Axis) : Bool :=
  getBits (BitVec.ofNat 32 (s.get (F.AX_GD_FLT.all a))) 10 0 != 0 || s.flag (F.AX_DEADLINE.DEADLINE_FLT a)
    || s.flag (F.AX_PWM_STAT.TRIP_FLT a)

/-- The shunt range of the axis differs from that of its overcurrent code (R474). -/
def fsMismatch (s : State) (a : Axis) : Bool := s.get (F.AX_CC_CFG.SHUNT_FS a) != s.get (F.BK_CFG.OC_FS a)

/-- The supplies of the quad of an axis are ready (R230, R233, R253). -/
def suppliesReady (s : State) (a : Axis) : Bool :=
  let q := (quadOf a).val
  !s.flag (F.QD_GD_STAT.VM_UNSETTLED q) && !s.flag (F.QD_GD_STAT.UV_ACT q) && !s.pw.vgsUv
    && (s.flag (F.QD_GD_STAT.CP_OK q) || s.flag (F.QD_GD_CFG.BST_EN q))

/-- The diagnostic condition of R512. -/
def diagOk (s : State) (a : Axis) : Bool := (s.gd a).diagPassed && (s.gd a).diagPend.isEmpty && (s.gd a).diagRun.isNone

/-- The conditions of R512, in the order of the bits of `OFF_WHY`. -/
def offConds (s : State) (a : Axis) : List Bool :=
  [ s.mode == 4 || s.mode == 5 || s.mode == 6, enaPresent s a, s.flag (F.BK_CFG.AXIS_EN a),
    !s.flag (F.AX_STATE.SAFE_HELD a), suppliesReady s a, !fsMismatch s a && !s.flag (F.BK_STAT.WIN_BAD a),
    diagOk s a, !axisFaulted s a ]

/-- `OFF_WHY`: one bit per unmet condition of R512. -/
def offWhy (s : State) (a : Axis) : Nat := bitsOfList ((offConds s a).map not)

/-- Every condition of R512 holds and the quad domain is up. -/
def axisReady (s : State) (a : Axis) : Bool := s.axOn a && (offConds s a).all id

/-- The motor supply of the axis lets no bridge be energised (R253). -/
def vmBars (s : State) (a : Axis) : Bool :=
  s.flag (F.QD_GD_STAT.VM_UNSETTLED (quadOf a)) || s.flag (F.QD_GD_STAT.UV_ACT (quadOf a))

/-- The bridge carries current under the controller, CHOP or HOLD: the axis is neither OFF nor in FAULT, no trip or
under voltage forces its legs, and its standstill policy does not leave it unpowered (R89, R156, R217, R252, R253). -/
def energisedNow (s : State) (a : Axis) : Bool :=
  let st := s.axState a
  s.axOn a && st != 0 && st != 6 && (s.pwm a).tripForce == 0 && !(s.gd a).uvHold && !vmBars s a
    && !needsEnergise s a

/-! ### Gate states -/

/-- A mask of both gates of the legs in a four-bit set. -/
def legMask (legs : Nat) : BitVec 8 :=
  BitVec.ofNat 8 (bitsOfList ((List.range 8).map fun i => natBit legs (i / 2)))

/-- The high sides and the low sides. -/
def highMask : BitVec 8 := 0x55
def lowMask : BitVec 8 := 0xAA

/-- The device mode turns the outputs of the axis off (R502). -/
def modeOff (s : State) (a : Axis) : Bool :=
  s.mode == 0 || s.mode == 1 || s.mode == 2 || s.mode == 3 || (s.mode == 7 && !s.flag (F.AX_STATE_CFG.SAFE_STATE a))

/-- The axis holds the SHORT of its `SAFE_STATE` (R507 to R509). -/
def safeShort (s : State) (a : Axis) : Bool := s.flag (F.AX_STATE.SAFE_HELD a) && s.flag (F.AX_STATE_CFG.SAFE_STATE a)

/-- Order 1 of R242, and the holds of R224. -/
def gateOrder1 (s : State) (a : Axis) : Bool :=
  !s.axOn a || s.pw.vgsUv || !bridgeEnabled s a || modeOff s a || (s.gd a).diagRun.isSome
    || (s.axState a == 0 && !safeShort s a)

/-- A trip pin that forces the axis calls for SHORT (R217, R219). -/
def tripShort (s : State) (a : Axis) : Bool :=
  (List.range 4).any fun n => (s.pwm a).tripForce.getLsbD n && s.flag (F.TRIP_CFG.ACTION n)

/-- The gates of an axis during a test takeover (R577, R579): under GATETEST the commands of its gate cells, none for a leg
whose commands are both 1 and for a high side whose bootstrap is low, while the part is in MANUFACTURE, no motor supply has
reached 5 V, `VGS` is good and STO is high; low otherwise. -/
def testGates (s : State) (a : Axis) : BitVec 8 :=
  if s.tap.instr = .gatetest ∧ ¬ s.tap.cutOff ∧ s.sec.life = 0 ∧ ¬ s.pw.vgsUv ∧ s.bk.stoA ∧ s.bk.stoB ∧ s.axOn a then
    let c : BitVec 8 := (s.tap.gates >>> (8 * a.val)).setWidth 8
    let both := legMask (bitsOfList ((List.range 4).map fun i => c.getLsbD (2 * i) && c.getLsbD (2 * i + 1)))
    c &&& ~~~ both &&& ~~~ (legMask (s.get (F.AX_GD_STAT.BST_LOW_ACT a)) &&& highMask)
  else 0

/-- What the orders of R242 make of the gates of an axis: `force` are commanded on whatever the PWM unit commands, from `dly`
after that begins, `allow` follow its commands, the others are off. Bit 2·leg is the high side, bit 2·leg + 1 the low side. -/
structure GateMask where
  force : BitVec 8
  dly : Nat
  allow : BitVec 8
  deriving DecidableEq, Repr

/-- Gates forced on at once, without a delay of the PWM unit. -/
def GateMask.on (m : BitVec 8) : GateMask := { force := m, dly := 0, allow := 0 }

/-- `DLY_F` in force on an axis. -/
def dlyF (s : State) (a : Axis) : Nat := s.get (F.AX_PWM_DLY_ACT.DLY_ACT a) / 2 ^ 16 % 2 ^ 14

/-- The first applicable state of R242 for each gate; during a test takeover the commands of R577. -/
def gateMask (s : State) (a : Axis) : GateMask :=
  let g := s.gd a
  if s.tap.takeover then .on (testGates s a)
  else if gateOrder1 s a then .on 0
  else
    let bst : BitVec 8 := legMask (s.get (F.AX_GD_STAT.BST_LOW_ACT a) ||| g.bstHold.toNat) &&& highMask
    let prot := bst ||| legMask g.crossHold.toNat
    if safeShort s a || s.flag (F.AX_GD_FLT.OV_TRIP a) then .on (lowMask &&& ~~~ prot &&& ~~~ g.shortOff)
    else if s.axState a == 6 || g.uvHold || vmBars s a then .on 0
    else
      let held := prot ||| BitVec.ofNat 8 (s.get (F.AX_GD_FLT.SW_OFF a))
      if (s.pwm a).tripForce != 0 then .on (if tripShort s a then lowMask &&& ~~~ held else 0)
      else if s.policyNow a == some 1 then .on 0
      else if s.policyNow a == some 2 then { force := lowMask &&& ~~~ held, dly := dlyF s a, allow := 0 }
      else { force := 0, dly := 0, allow := ~~~ held }

/-- The dead-time floor of the gate driver in 125 ps units (R206, R227; assumption log 52). -/
def floorT : Nat := 1200

/-- The edge of a leg in force at instant `t`, from its history, the newest edge first. -/
def legNow (h : List LegEv) (t : Nat) : Option LegEv := h.find? fun e => decide (e.at_ ≤ t)

/-- The leg of a gate, and whether the gate is its high side. -/
def gateLeg (i : Fin 8) : Leg := ⟨i.val / 2, by omega⟩
def gateHigh (i : Fin 8) : Bool := i.val % 2 == 0

/-- The instant since which the PWM unit has commanded a gate, if it commands it at instant `t` (R205). -/
def cmdSince (s : State) (a : Axis) (i : Fin 8) (t : Nat) : Option Nat :=
  match legNow (s.pwm a).legs[gateLeg i] t with
  | some e => if e.level = some (gateHigh i) ∧ e.on ≤ t then some e.on else none
  | none => none

/-- The instant since which the driver has been commanded to turn a gate on, under the mask `m`, if it is at instant `t`. -/
def wantSince (s : State) (a : Axis) (m : GateMask) (i : Fin 8) (t : Nat) : Option Nat :=
  let free := (s.gd a).letAt[i]
  if m.force.getLsbD i then (if free + m.dly ≤ t then some (free + m.dly) else none)
  else if m.allow.getLsbD i then (cmdSince s a i t).map (max free)
  else none

/-- The instant at which a gate that is on at instant `t` has turned on: the floor after its command (R206). -/
def onSince (s : State) (a : Axis) (m : GateMask) (i : Fin 8) (t : Nat) : Option Nat :=
  match wantSince s a m i t with
  | some c => if c + floorT ≤ t then some (c + floorT) else none
  | none => none

/-- The levels of the eight gates of an axis at instant `t` under the mask `m`. -/
def gatesAt (s : State) (a : Axis) (m : GateMask) (t : Nat) : BitVec 8 :=
  BitVec.ofNat 8 (bitsOfList ((List.finRange 8).map fun i => (onSince s a m i t).isSome))

/-- The levels of the eight gates of an axis now (R206, R242). -/
def gatesOf (s : State) (a : Axis) : BitVec 8 := gatesAt s a (gateMask s a) s.now

/-- The mask at the latest event that could change it. -/
def GateSt.mask (g : GateSt) : GateMask := { force := g.lastForce, dly := g.forceDly, allow := g.lastAllow }

/-- Both low sides of a winding. -/
def windingLows (w : Fin 2) : BitVec 8 := if w = 0 then 0x0A else 0xA0

/-- The low sides of a winding that are on just before a change at instant `t` are those that were on last (R236); changes at
one instant find them together. -/
def noteLows (a : Axis) (t : Nat) (s : State) : State :=
  s.each [(0 : Fin 2), 1] fun w s =>
    let m := windingLows w
    let on := gatesAt s a (s.gd a).mask t &&& m
    if on = 0 then s
    else s.modGd a fun g => { g with
      lastLow := (if g.lowAt[w] = t then g.lastLow else g.lastLow &&& ~~~ m) ||| on
      lowAt := g.lowAt.set w t }

/-- An event may have changed what R242 makes of the gates: the low sides that were on are noted, and a gate that was held off
or is forced on anew may be on from now. -/
def noteGates (a : Axis) (s : State) : State :=
  let s := noteLows a s.now s
  let m := gateMask s a
  s.modGd a fun x => { x with
    lastForce := m.force
    forceDly := m.dly
    lastAllow := m.allow
    letAt := Vector.ofFn fun i : Fin 8 =>
      let was := x.lastForce.getLsbD i || (x.lastAllow.getLsbD i && (!m.force.getLsbD i || (cmdSince s a i s.now).isSome))
      if (m.force.getLsbD i || m.allow.getLsbD i) && !was then s.now else x.letAt[i] }

/-! ### Axis state -/

/-- `BOOST`, or `RUN` in its place (R145). -/
def boostScale (s : State) (a : Axis) : Nat :=
  let b := s.get (F.AX_ISCALE.BOOST a)
  if b = 0 then s.get (F.AX_ISCALE.RUN a) else b

/-- The rule of R146 that selects the target scale of an axis, 1 to 6. -/
def scaleRule (s : State) (a : Axis) : Nat :=
  let m := s.mot a
  if ¬ s.flag (F.AX_STATE.ENERGISED a) then 1
  else if s.flag (F.AX_LA_STAT.BOOST_ACT a) then 2
  else if s.policyNow a = some 0 ∨ m.energiseEnd.isSome then 3
  else if m.acc ≠ 0 ∧ (m.vel = 0 ∨ sgn m.vel = sgn m.acc) then 4
  else if s.flag (F.AX_LA_CFG.ECO_EN a) then 5
  else 6

/-- The target scale under a rule of R146. -/
def scaleTarget (s : State) (a : Axis) (rule : Nat) : Nat :=
  match rule with
  | 1 => 0
  | 2 => boostScale s a
  | 3 => s.get (F.AX_IHOLD.HOLD a)
  | 4 => boostScale s a
  | 5 => clampNat 0 4095 (ratRound (s.la a).eco).toNat
  | _ => s.get (F.AX_ISCALE.RUN a)

/-- `SCALE_SEL` for a rule of R146. -/
def scaleSel (rule : Nat) : Nat := match rule with | 1 => 0 | 2 => 3 | 3 => 1 | 4 => 3 | _ => 2

/-- The effective scale and the rule in force. -/
def setScale (a : Axis) (rule scale : Nat) (s : State) : State :=
  let s := (s.set (F.AX_CC_FLAG.SCALE_SEL a) (scaleSel rule)).set (F.AX_CC_FLAG.SCALE_EFF a) scale
  let run := s.get (F.AX_ISCALE.RUN a)
  let s := if rule = 5 then s else
    (s.modLa a fun l => { l with eco := (run : Nat) }).set (F.AX_LA_STAT.ECO_SCALE a) run
  s.setB (F.AX_LA_STAT.ECO_ACT a) (rule == 5)

/-- The bridge is energised: the effective scale starts from its target (R147, R166). -/
def startScale (a : Axis) (s : State) : State :=
  let rule := scaleRule s a
  setScale a rule (scaleTarget s a rule) s

/-- The controller's variables are zero and no chopper runs (R156); the run of unusable samples ends (assumption log 128). -/
def WindSt.rest (w : WindSt) : WindSt :=
  { w with integ := 0, iPrev := 0, irefPrev := 0, uPrev := 0, sample := none, skipRun := 0, chop := { w.chop with phase := .held } }

/-- The bridge is no longer energised: the carried pulse time is dropped (R211), the controller is at zero (R156), and no winding
is in LOWCLAMP form (R158). -/
def dropEnergised (a : Axis) (s : State) : State :=
  let s := if s.flag (F.AX_STATE.ENERGISED a) then
      (s.set (F.AX_CC_FLAG.MOD_LC_W1 a) 0).set (F.AX_CC_FLAG.MOD_LC_W2 a) 0 else s
  let s := (s.modPwm a fun p => { p with carry := Vector.replicate 4 0 }).modCc a fun c => { c with w := c.w.map WindSt.rest }
  s.set (F.AX_STATE.ENERGISED a) 0

/-- The bridge is energised: the effective scale starts from its target (R147), the next computation is the first (R158). -/
def takeEnergised (a : Axis) (s : State) : State :=
  if s.flag (F.AX_STATE.ENERGISED a) then s
  else startScale a ((s.set (F.AX_STATE.ENERGISED a) 1).modCc a fun c => { c with first := true, energAt := s.now })

/-- `ENERGISED` follows the bridge. -/
def refreshEnergised (a : Axis) (s : State) : State :=
  noteGates a (if energisedNow s a then takeEnergised a s else dropEnergised a s)

/-- SEGMENT_COMMIT (R58, R67, R90, R166): a segment is committed; from FREE or SHORT that energises the bridge. -/
def commitEnergise (a : Axis) (s : State) : State :=
  if needsEnergise s a then refreshEnergised a (segmentCommit a s) else segmentCommit a s

/-- An axis whose last fault clears takes the source a recipe gave it (R97). -/
def faultSource (a : Axis) (s : State) : State :=
  match (s.fol a).srcPend with
  | some k => takeSource a k.val s
  | none => s

/-- The state code of an axis follows R512 and R513 after an event: OFF to ARMED or STOPPED once every condition holds,
ARMED or STOPPED to OFF as soon as one does not, which ends a stall reaction (R183), FAULT left when no axis fault remains. -/
def refreshAxis (a : Axis) (s : State) : State :=
  let st := s.axState a
  let home := if s.flag (F.AX_PLN_STAT.REMAIN_VALID a) then 5 else 1
  let s := if st = 6 then
      (if axisFaulted s a then s
       else faultSource a (s.set (F.AX_STATE.STATE a) (if axisReady s a then 1 else 0)))
    else if st = 0 then (if axisReady s a then s.set (F.AX_STATE.STATE a) home else s)
    else if (st = 1 ∨ st = 5) ∧ ¬ axisReady s a then endStall a (s.set (F.AX_STATE.STATE a) 0)
    else s
  refreshEnergised a (takePendSource a s)

/-- Every axis is brought up to date. -/
def refreshAll (s : State) : State := s.each allAxes refreshAxis

/-- An axis in motion loses a condition of R512 that is no fault: it leaves motion as for a Backstop clamp and is OFF
(R479, R512). -/
def loseReady (a : Axis) (s : State) : State :=
  let st := s.axState a
  if st = 2 ∨ st = 3 ∨ st = 4 then
    refreshEnergised a (endStall a ((clampAxis a s.now s).set (F.AX_STATE.STATE a) 0))
  else refreshAxis a s

/-! ### Faults -/

/-- `FIRST_CAUSE` records the first fault latched since the last rearm edge (R241). -/
def noteCause (a : Axis) (cause : Nat) (s : State) : State :=
  if s.get (F.AX_GD_FLT.FIRST_CAUSE a) = 0 then s.set (F.AX_GD_FLT.FIRST_CAUSE a) cause else s

/-- The causes latched at the present instant, which win over a rearm edge at it (R244). -/
def freshFaults (s : State) (a : Axis) : BitVec 13 := if (s.gd a).fltAt = s.now then (s.gd a).fltSet else 0

/-- A cause is noted for the instant at which it occurs. -/
def noteFresh (a : Axis) (cause : Nat) (s : State) : State :=
  let old := freshFaults s a
  s.modGd a fun g => { g with
    fltAt := s.now
    fltSet := old ||| BitVec.ofNat 13 (2 ^ cause)
    fltFirst := if old = 0 then cause else g.fltFirst
    fltOff := if old = 0 then 0 else g.fltOff }

/-- A fault occurs: its field becomes set, with its cause and the Whistle it may raise (R241, R448). -/
def latchFault (a : Axis) (f : Fld) (cause : Nat) (s : State) : State :=
  let s := noteFresh a cause s
  if s.flag f then s else faultWhistle a (noteCause a cause (s.raise f))

/-- The effects of an axis fault (R239): FAULT, motion dropped, a follower DISENGAGED, the bridge not energised. -/
def enterFault (a : Axis) (s : State) : State :=
  let s := haltMotion a s
  let s := retireEngage a .cancelled (disengage a s)
  refreshEnergised a (s.set (F.AX_STATE.STATE a) 6)

/-- An axis fault with its cause bit (R239, R240, R241). -/
def axisFault (a : Axis) (f : Fld) (cause : Nat) (s : State) : State := enterFault a (latchFault a f cause s)

/-- The switches a switch-level fault holds off: under LEG, and always for CROSS, every switch of their legs (R237). -/
def heldBy (s : State) (a : Axis) (whole : Bool) (mask : BitVec 8) : BitVec 8 :=
  if whole || s.flag (F.AX_GD_CFG.REACT a) then
    (List.range 4).foldl (fun m l => if mask &&& legMask (2 ^ l) != 0 then m ||| legMask (2 ^ l) else m) 0
  else mask

/-- A switch-level fault (R237 to R239): the faulting switches are held, the escalation window opens, and a second fault
within it escalates the axis. A stall reaction ends (R183). During a SHORT a tripped low side stays off for the rest of it (R251). -/
def switchFault (a : Axis) (f : Fld) (cause : Nat) (whole : Bool) (mask : BitVec 8) (s : State) : State :=
  let s := endStall a (latchFault a f cause s)
  let held := heldBy s a whole mask
  let s := (s.set (F.AX_GD_FLT.SW_OFF a) (s.get (F.AX_GD_FLT.SW_OFF a) ||| held.toNat)).modGd a fun g =>
    { g with fltOff := g.fltOff ||| held }
  let s := if safeShort s a || s.flag (F.AX_GD_FLT.OV_TRIP a) then
      s.modGd a fun g => { g with shortOff := g.shortOff ||| (mask &&& lowMask) } else s
  match (s.gd a).escEnd with
  | some e =>
    if s.now < e then axisFault a (F.AX_GD_FLT.ESCALATED a) 11 s
    else s.modGd a fun g => { g with escEnd := some (s.now + s.get (F.AX_GD_CFG.ESC_WIN a) * msT) }
  | none => s.modGd a fun g => { g with escEnd := some (s.now + s.get (F.AX_GD_CFG.ESC_WIN a) * msT) }

/-! ### Rearm edges -/

/-- A trip pin still holds the latched trip fault of the axis (R218, R243). -/
def tripHolds (s : State) (a : Axis) : Bool :=
  (List.range 4).any fun n => natBit (s.get F.TRIP_STAT.LEVEL) n && s.flag (F.TRIP_CFG.LATCH n)
    && s.flag (F.TRIP_CFG.EN n) && natBit (s.get (F.TRIP_CFG.AXES n)) a

/-- Clears a fault field. -/
def clearIf (c : Bool) (f : Fld) (s : State) : State := if c then s.set f 0 else s

/-- A diagnostic run is requested for the axis (R245): one of its kind that is already pending is that run. -/
def requestDiag (a : Axis) (w : DiagWhy) (s : State) : State :=
  if (s.gd a).diagPend.contains w then s else s.modGd a fun g => { g with diagPend := g.diagPend ++ [w] }

/-- `VMq` stands at or above `BRK_ON` (R243): the over-voltage monitor has not released, or the latest conversion of the axis
reads so (assumption log 109). -/
def vmAboveBrk (s : State) (a : Axis) : Bool :=
  let q := (quadOf a).val
  s.flag (F.QD_GD_STAT.OV_ACT q) || decide (s.get (F.QD_VM_THR.BRK_ON q) * 16 ≤ s.get (F.MS_VM.VALUE a))

/-- A switch-level fault of the axis occurs at the present instant: causes 1 to 5. -/
def freshSwitch (s : State) (a : Axis) : Bool := freshFaults s a &&& 0x3E != 0

/-- The fields of the bridge faults that a rearm edge may clear (R243), with their causes and whether their condition has gone;
DIAG_FAIL is left to its run. -/
def rearmRows (s : State) (a : Axis) : List (Fld × Nat × Bool) :=
  let q := (quadOf a).val
  [(F.AX_GD_FLT.OC a, 1, true), (F.AX_GD_FLT.SN_HS a, 2, true), (F.AX_GD_FLT.SN_LS a, 3, true), (F.AX_GD_FLT.CROSS a, 4, true),
   (F.AX_GD_FLT.CHOP_SHORT a, 5, true),
   (F.AX_GD_FLT.CP_UV a, 7, s.flag (F.QD_GD_STAT.CP_OK q) || s.flag (F.QD_GD_CFG.BST_EN q)),
   (F.AX_GD_FLT.VGS_UV a, 8, !s.pw.vgsUv), (F.AX_GD_FLT.OV_TRIP a, 9, !vmAboveBrk s a),
   (F.AX_GD_FLT.VM_UV a, 10, !s.flag (F.QD_GD_STAT.UV_ACT q) && !s.flag (F.QD_GD_STAT.VM_UNSETTLED q)),
   (F.AX_GD_FLT.ESCALATED a, 11, true), (F.AX_DEADLINE.DEADLINE_FLT a, 11, true),
   (F.AX_PWM_STAT.TRIP_FLT a, 12, !tripHolds s a)]

/-- The latched faults of the axis whose condition has gone clear (R243), but for those latched at this very instant (R244): the
first of these is the first cause since the edge, only what they hold off stays held, and the escalation window closes unless a
switch-level fault is among them. -/
def clearFaults (a : Axis) (s0 : State) : State :=
  let fresh := freshFaults s0 a
  let s := s0.each (rearmRows s0 a) fun r s => clearIf (r.2.2 && !fresh.getLsbD r.2.1) r.1 s
  let s := s.set (F.AX_GD_FLT.FIRST_CAUSE a) (if fresh = 0 then 0 else (s0.gd a).fltFirst)
  let s := s.set (F.AX_GD_FLT.SW_OFF a) (if fresh = 0 then 0 else (s0.gd a).fltOff.toNat)
  if freshSwitch s0 a then s else s.modGd a fun g => { g with escEnd := none }

/-- What a rearm edge does beside the detectors that are still tripped (R40, R243, R245, R251, R508, R513): faults whose
condition has gone clear, `SAFE_HELD` clears outside SAFE, a STOPPED axis becomes ARMED, a diagnostic run may be requested,
and low sides tripped during a SHORT stay off while an over-voltage trip stays latched. DESIGN CHOICE (assumption log 129): the
edge that clears `DEADLINE_FLT` sets `LATE_RUN` to 0; R41 gives only its reset by a period that is not late. -/
def rearmClear (a : Axis) (s : State) : State :=
  if ¬ s.axOn a then s
  else
    let s := s.inc (F.AX_STATE_CNT.REARM_CNT a)
    let diag := s.flag (F.AX_GD_CFG.DIAG_ON_REARM a) || s.flag (F.AX_GD_FLT.DIAG_FAIL a)
    let late := s.flag (F.AX_DEADLINE.DEADLINE_FLT a)
    let s := clearFaults a s
    let s := if s.flag (F.AX_GD_FLT.OV_TRIP a) then s else s.modGd a fun g => { g with shortOff := 0 }
    let s := if late && !s.flag (F.AX_DEADLINE.DEADLINE_FLT a) then s.set (F.AX_DEADLINE.LATE_RUN a) 0 else s
    let s := if s.mode = 7 then s else s.set (F.AX_STATE.SAFE_HELD a) 0
    let s := if s.axState a = 5 then s.set (F.AX_STATE.STATE a) 1 else s
    let s := if diag then requestDiag a .rearm s else s
    if diagOk s a then refreshAxis a s else loseReady a s

end Sys2Proof.Machine
end

