-- ==== Sys2Proof/Machine/Gate.lean ====
section
/-!
DEFINITION. Gate drive and bridge protection (R223 to R255), the STO inputs and bridge enable (R478 to R480): what each
detector's event does to the part.
-/

namespace Sys2Proof.Machine

/-! ### Backstop counts -/

/-- A violation of a Backstop kind is flagged, counted and logged (R476): 0 RATE, 1 ACC, 2 TRAVEL, 3 OC. -/
def countViolation (a : Axis) (kind : Nat) (flag cnt : Fld) (s : State) : State :=
  auditLimited (a.val * 4 + kind) 0x0C 3 2 a 0 [BitVec.ofNat 32 kind] ((s.raise flag).inc cnt)

/-! ### Comparator trips -/

/-- The low-side switches an overcurrent of a winding is attributed to (R236): those on at the trip, else those on last. -/
def ocSwitches (s : State) (a : Axis) (w : Fin 2) : BitVec 8 :=
  let on := gatesOf s a &&& windingLows w
  if on != 0 then on else (s.gd a).lastLow &&& windingLows w

/-- An overcurrent of a winding (R234, R236, R237, R476). -/
def overcurrent (a : Axis) (w : Fin 2) (s : State) : State :=
  let m := ocSwitches s a w
  let s := countViolation a 3 (F.BK_STAT.VIOL_OC a) (F.BK_CNT.OC a) s
  noteGates a (switchFault a (F.AX_GD_FLT.OC a) 1 false m s)

/-- The filtered output of the overcurrent comparator of a winding. -/
def ocOut (a : Axis) (w : Fin 2) : Fld := if w = 0 then F.MS_OC_STAT.OC_OUT_W1 a else F.MS_OC_STAT.OC_OUT_W2 a

/-- The output of an overcurrent comparator is held while its DAC settles (R293). -/
def ocHeld (s : State) (a : Axis) (w : Fin 2) : Bool := decide (s.now < (s.cc a).ocHold[w])

/-- `OC_DAC_Wk`: the DAC code in force of an overcurrent comparator (R292). -/
def ocDac (a : Axis) (w : Fin 2) : Fld := if w = 0 then F.MS_OC_STAT.OC_DAC_W1 a else F.MS_OC_STAT.OC_DAC_W2 a

/-- The majority settings of the overcurrent comparators of an axis (R297), and the length of their trip filter (R216). -/
def ocMaj (s : State) (a : Axis) : Word := BitVec.ofNat 32 (s.get (F.MS_OC_CFG.all a))
def ocLen (s : State) (a : Axis) : Nat := s.get (F.AX_TRIP_FILT.OC_FILT a) * 10 * nsT

/-- An overcurrent comparator is sampled (R296, R297): at a code of 0 it is active (R292), and while its DAC settles it keeps its
level (R293). `OC_OUT` is the output of the majority filter (R301). The answer names the instant at which the trip filter accepts
a trip. -/
def ocFeed (a : Axis) (w : Fin 2) (x : Samples) (s : State) : State × Option Nat :=
  let raw := if s.get (ocDac a w) = 0 then x.raw.map fun _ => true else x.raw
  let r := FiltSt.feed (ocMaj s a) (ocLen s a) (s.cc a).ocHold[w] raw x.t (s.cc a).oc[w]
  let s := s.at_ (r.2.getD (lastTick x (ocMaj s a)))
  ((s.setB (ocOut a w) r.1.out).modCc a fun c => { c with oc := c.oc.set w r.1 }, r.2)

/-- The filters of an overcurrent comparator give it as active now (R216, R297). -/
def ocTripped (s : State) (a : Axis) (w : Fin 2) : Bool := ((s.cc a).oc[w].elapse (ocLen s a) s.now).acc

/-- OC_TRIP: the shunt comparator of a winding is sampled; the trip its filters accept is an overcurrent (R234, R236). Under CHOP
it serves the chopper. -/
def ocTrip (a : Axis) (w : Fin 2) (x : Samples) (s : State) : State :=
  if ¬ s.axOn a ∨ s.get (F.AX_CC_CFG.MODE a) ≠ 0 then s
  else
    let r := ocFeed a w x s
    match r.2 with
    | some _ => overcurrent a w (noteGates a r.1)
    | none => r.1

/-- A rearm edge (R243): after it, a shunt comparator that is still tripped latches again as a new fault, which opens a new
window, unless an overcurrent at the same instant has won over the edge (R244). -/
def rearmEdge (a : Axis) (s0 : State) : State :=
  let s := rearmClear a s0
  if ¬ s.axOn a ∨ s.get (F.AX_CC_CFG.MODE a) ≠ 0 ∨ (freshFaults s0 a).getLsbD 1 then s
  else s.each [(0 : Fin 2), 1] fun w s => if ocTripped s a w then overcurrent a w s else s

/-- The bootstrap trip of a leg at instant `t` itself is left out: a switch-node comparator that trips with it still finds its
switch on (R244). -/
def beforeBst (a : Axis) (leg : Leg) (t : Nat) (s : State) : State :=
  if (s.gd a).bstAt[leg] = some t then
    (s.set (F.AX_GD_STAT.BST_LOW_ACT a) (natSetBit (s.get (F.AX_GD_STAT.BST_LOW_ACT a)) leg false)).modGd a fun g =>
      { g with bstHold := g.bstHold &&& ~~~ BitVec.ofNat 4 (2 ^ leg.val) }
  else s

/-- A switch-node comparator checks a switch at instant `t`: it is on, and its blanking has passed since its gate turned on
(R235). -/
def snChecks (s : State) (a : Axis) (i : Fin 8) (t : Nat) : Bool :=
  let b := beforeBst a (gateLeg i) t s
  s.flag (F.AX_GD_CFG.SN_EN a) && (match onSince b a (gateMask b a) i t with
    | some u => decide (u + s.get (F.AX_SN_CFG.SN_BLANK a) * 80 ≤ t)
    | none => false)

/-- The trip filter of a switch-node comparator is fed (R216, R235): a switch that it does not check shows inactive. -/
def snFeed (a : Axis) (i : Fin 8) (x : Samples) (s : State) : State × Option Nat :=
  let raw := x.raw.zipIdx.map fun p => p.1 && snChecks s a i (x.t + p.2 * sampleStep 0)
  let r := FiltSt.feed 0 (s.get (F.AX_TRIP_FILT.SN_FILT a) * 10 * nsT) 0 raw x.t (s.gd a).sn[i]
  ((s.at_ (r.2.getD (lastTick x 0))).modGd a fun g => { g with sn := g.sn.set i r.1 }, r.2)

/-- The gate a switch-node comparator checks. -/
def snGate (leg : Leg) (hs : Bool) : Fin 8 := ⟨2 * leg.val + (if hs then 0 else 1), by have := leg.isLt; split <;> omega⟩

/-- SN_TRIP: the switch-node comparator of a leg is sampled on its high or its low side; a trip its filter accepts is a
switch-level fault (R235 to R237). -/
def snTrip (a : Axis) (leg : Leg) (hs : Bool) (x : Samples) (s : State) : State :=
  if ¬ s.axOn a then s
  else
    let r := snFeed a (snGate leg hs) x (noteGates a (s.at_ x.t))
    match r.2 with
    | some _ =>
      noteGates a (switchFault a (if hs then F.AX_GD_FLT.SN_HS a else F.AX_GD_FLT.SN_LS a) (if hs then 2 else 3) false
        (BitVec.ofNat 8 (2 ^ (snGate leg hs).val)) r.1)
    | none => r.1

/-- CROSS_OVERLAP: both commands of a leg are high at once (R228): the leg is held off until the next period boundary,
the overlap is counted, and an overlap in each of three consecutive periods latches CROSS. -/
def crossOverlap (a : Axis) (leg : Leg) (s : State) : State :=
  if ¬ s.axOn a then s
  else
    let s := s.inc (F.AX_GD_STAT.CROSS_CNT a)
    let m := legMask (2 ^ leg.val)
    if BitVec.ofNat 8 (s.get (F.AX_GD_FLT.SW_OFF a)) &&& m == m then s
    else
      let g := s.gd a
      let bit : BitVec 4 := BitVec.ofNat 4 (2 ^ leg.val)
      let first := g.crossNow &&& bit == 0
      let s := s.modGd a fun g => { g with crossHold := g.crossHold ||| bit, crossNow := g.crossNow ||| bit }
      noteGates a (if first && decide (2 ≤ g.crossRun[leg]) then switchFault a (F.AX_GD_FLT.CROSS a) 4 true m s else s)

/-- The interlock at a period boundary of the axis (R228): its legs follow their commands again. -/
def crossPeriod (a : Axis) (s : State) : State :=
  s.modGd a fun g => { g with
    crossRun := Vector.ofFn fun l : Fin 4 => if g.crossNow.getLsbD l then g.crossRun[l] + 1 else 0
    crossNow := 0
    crossHold := 0 }

/-- ESC_WIN_CLOSE: an escalation window closes without a second fault (R238). -/
def escWinClose (a : Axis) (s : State) : State :=
  match (s.gd a).escEnd with
  | none => s
  | some e => (s.at_ e).modGd a fun g => { g with escEnd := none }

/-! ### High-side supply -/

/-- BST_LOW: the bootstrap comparator of a leg trips (R232). -/
def bstLow (a : Axis) (leg : Leg) (s : State) : State :=
  if ¬ s.axOn a then s
  else
    let s := (s.set (F.AX_GD_STAT.BST_LOW_ACT a) (natSetBit (s.get (F.AX_GD_STAT.BST_LOW_ACT a)) leg true)).inc
      (F.AX_GD_STAT.BST_LOW_CNT a)
    noteGates a (s.modGd a fun g => { g with
      bstHold := g.bstHold ||| BitVec.ofNat 4 (2 ^ leg.val), bstAt := g.bstAt.set leg (some s.now) })

/-- BST_LOW_RELEASE: the comparator releases; the high side waits for its next turn-on command (R232). -/
def bstLowRelease (a : Axis) (leg : Leg) (s : State) : State :=
  if ¬ s.axOn a then s
  else s.set (F.AX_GD_STAT.BST_LOW_ACT a) (natSetBit (s.get (F.AX_GD_STAT.BST_LOW_ACT a)) leg false)

/-- Axes that were energised take an axis fault, the others follow their conditions. -/
def faultEnergised (axes : List Axis) (f : Nat → Fld) (cause : Nat) (before s : State) : State :=
  s.each axes fun a s => if before.flag (F.AX_STATE.ENERGISED a) then axisFault a (f a.val) cause s else refreshAxis a s

/-- CP_UV: the charge pump of a quad falls under voltage (R230). -/
def cpUv (q : Quad) (s0 : State) : State :=
  if ¬ (s0.pd 9 ∨ s0.pd (3 + q.val)) then s0
  else
    let s := s0.set (F.QD_GD_STAT.CP_OK q) 0
    if ¬ s0.pd (3 + q.val) then s
    else if s.flag (F.QD_GD_CFG.BST_EN q) then
      s.each (quadAxes q) (fun a s => s.modGd a fun g => { g with fallback := true, cpReturn := false })
        |>.set (F.QD_GD_STAT.CP_FB_ACT q) 1 |>.raise (F.QD_GD_STAT.CP_FALLBACK q)
    else faultEnergised (quadAxes q) F.AX_GD_FLT.CP_UV 7 s0 s

/-- CP_GOOD: the charge pump has been good for 1 ms (R230); legs in fall-back return at their next period boundary. -/
def cpGood (q : Quad) (s : State) : State :=
  if ¬ (s.pd 9 ∨ s.pd (3 + q.val)) then s
  else
    let fb := s.flag (F.QD_GD_STAT.CP_FB_ACT q)
    let on := s.pd (3 + q.val)
    let s := s.set (F.QD_GD_STAT.CP_OK q) 1
    if ¬ on then s
    else s.each (quadAxes q) fun a s =>
      refreshAxis a (if fb then s.modGd a fun g => { g with cpReturn := g.fallback } else s)

/-- The return from fall-back at a period boundary of an axis (R230); `CP_FB_ACT` clears with the last axis. -/
def cpPeriod (a : Axis) (s : State) : State :=
  if ¬ (s.gd a).cpReturn then s
  else
    let q := quadOf a
    let s := s.modGd a fun g => { g with fallback := false, cpReturn := false }
    if (quadAxes q).any fun b => (s.gd b).fallback then s else s.set (F.QD_GD_STAT.CP_FB_ACT q) 0

/-- VGS_UV: `VGS` is under voltage (R233): every gate is low and every energised axis faults. -/
def vgsUv (s : State) : State :=
  if s.pw.vgsUv then s
  else faultEnergised (allAxes.filter s.axOn) F.AX_GD_FLT.VGS_UV 8 s { s with pw := { s.pw with vgsUv := true } }

/-- VGS_GOOD: `VGS` is good again (R233). -/
def vgsGood (s : State) : State := refreshAll { s with pw := { s.pw with vgsUv := false } }

/-! ### Motor supply -/

/-- VM_OV_TRIP: `VMq` reaches `OV_TRIP` (R251, R253, R448). -/
def vmOvTrip (q : Quad) (s : State) : State :=
  if ¬ s.pd (3 + q.val) ∨ s.flag (F.QD_GD_STAT.VM_UNSETTLED q) ∨ s.flag (F.QD_GD_STAT.OV_ACT q) then s
  else
    let s := ((s.set (F.QD_GD_STAT.OV_ACT q) 1).raise (F.QD_GD_STAT.OV_EVT q)).inc (F.QD_GD_CNT.OV_TRIPS q)
    let s := if natBit (s.get F.WH_MON_SEL.VMOV) q then raiseWhistle 7 q s else s
    s.each (quadAxes q) fun a s => if bridgeEnabled s a then axisFault a (F.AX_GD_FLT.OV_TRIP a) 9 s else s

/-- VM_OV_CLEAR: `VMq` falls below `BRK_ON` (R251). -/
def vmOvClear (q : Quad) (s : State) : State := s.set (F.QD_GD_STAT.OV_ACT q) 0

/-- VM_UV_TRIP: `VMq` falls below `UV_TRIP` (R252, R253), also while another comparator of the monitor is undecided. -/
def vmUvTrip (q : Quad) (s0 : State) : State :=
  if ¬ s0.pd (3 + q.val) ∨ s0.flag (F.QD_GD_STAT.UV_ACT q) then s0
  else
    let s := (s0.set (F.QD_GD_STAT.UV_ACT q) 1).raise (F.QD_GD_STAT.UV_EVT q)
    let s := if natBit (s.get F.WH_MON_SEL.VMUV) q then raiseWhistle 7 q s else s
    if s.flag (F.QD_GD_CFG.UV_LATCH q) then faultEnergised (quadAxes q) F.AX_GD_FLT.VM_UV 10 s0 s
    else s.each (quadAxes q) fun a s => refreshEnergised a (s.modGd a fun g => { g with uvHold := true })

/-- VM_UV_CLEAR: `VMq` rises above `UV_OFF` (R252). -/
def vmUvClear (q : Quad) (s : State) : State :=
  if ¬ s.pd (3 + q.val) then s else (s.set (F.QD_GD_STAT.UV_ACT q) 0).each (quadAxes q) refreshAxis

/-- The end of an under-voltage hold at a period boundary of the axis (R252). -/
def uvPeriod (a : Axis) (s : State) : State :=
  if (s.gd a).uvHold ∧ ¬ s.flag (F.QD_GD_STAT.UV_ACT (quadOf a)) then
    refreshEnergised a (s.modGd a fun g => { g with uvHold := false })
  else s

/-- The privileged channel of a quad's brake chopper (R193). -/
def brkChan (q : Quad) : Fin 8 := ⟨4 + q.val, by omega⟩

/-- What the monitor of a quad has decided on its brake chopper. -/
def brakeWant (q : Quad) (on : Bool) (s : State) : State :=
  { s with priv := s.priv.set (brkChan q) { s.priv[brkChan q] with want := on } }

/-- BRAKE_DECISION: the monitor decides that the brake chopper starts or stops; the channel takes it up at its next period boundary
while `EN` is 1 (R250). -/
def brakeDecision (q : Quad) (on : Bool) (s : State) : State := if ¬ s.pd (3 + q.val) then s else brakeWant q on s

/-! ### Off-state diagnostics -/

/-- The conditions under which a diagnostic run may start (R245). -/
def diagConds (s : State) (q : Quad) : Bool :=
  s.pd (3 + q.val) && s.mode != 0 && s.mode != 1 && !s.flag (F.QD_GD_STAT.VM_UNSETTLED q)
    && !s.flag (F.QD_GD_STAT.UV_ACT q) && !s.pw.vgsUv

/-- DIAG_START: the lowest axis of a quad with a pending run starts it, when no other axis of the quad runs one (R245,
R247). -/
def diagStart (q : Quad) (s : State) : State :=
  if ¬ diagConds s q ∨ (quadAxes q).any fun a => (s.gd a).diagRun.isSome then s
  else
    match (quadAxes q).find? fun a => !(s.gd a).diagPend.isEmpty with
    | none => s
    | some a =>
      let w := ((s.gd a).diagPend.head?).getD .first
      let s := s.modGd a fun g => { g with diagPend := g.diagPend.drop 1, diagRun := some (w, 0), diagFind := 0 }
      refreshAxis a (s.set (F.AX_GD_STAT.DIAG_BUSY a) 1)

/-- How a node reads (R246). -/
inductive NodeLevel where
  | low | mid | high
  deriving DecidableEq, Repr

/-- A node reading in 10 mV units against the thresholds of the axis. -/
def nodeLevel (s : State) (a : Axis) (v : Nat) : NodeLevel :=
  if s.get (F.AX_DIAG_THR.DG_HI a) < v then .high else if v < s.get (F.AX_DIAG_THR.DG_LO a) then .low else .mid

/-- A finding bit on a winding (0 or 1): findings of `W1` in bits 5:0, of `W2` in bits 11:6. -/
def findBit (w bit : Nat) : BitVec 12 := BitVec.ofNat 12 (2 ^ (6 * w + bit))

/-- The finding bit is set on the winding. -/
def hasFind (f : BitVec 12) (w bit : Nat) : Bool := f &&& findBit w bit != 0

/-- What one node of a phase adds to the findings of the phases before it (R246): node 0 `W1P`, 1 `W1N`, 2 `W2P`,
3 `W2N`. -/
def nodeFinding (phase : Fin 4) (node : Fin 4) (lv : NodeLevel) (f : BitVec 12) : BitVec 12 :=
  let w := node.val / 2
  match phase, lv with
  | _, .mid => findBit w 4
  | 0, .high => findBit w 0
  | 0, .low => 0
  | 1, .low => findBit w 1
  | 1, .high => 0
  | 2, .high => if hasFind f w 0 then 0 else if node.val % 2 = 0 then findBit w 2 else findBit w 5
  | 2, .low => 0
  | 3, .low => if w = 0 ∧ ¬ hasFind f 0 1 then findBit 0 3 ||| findBit 1 3 else 0
  | 3, .high => if w = 1 ∧ ¬ hasFind f 1 0 then findBit 0 3 ||| findBit 1 3 else 0

/-- The findings of a phase from its four readings. -/
def phaseFindings (s : State) (a : Axis) (phase : Fin 4) (v0 v1 v2 v3 : Nat) (f : BitVec 12) : BitVec 12 :=
  f ||| nodeFinding phase 0 (nodeLevel s a v0) f ||| nodeFinding phase 1 (nodeLevel s a v1) f
    ||| nodeFinding phase 2 (nodeLevel s a v2) f ||| nodeFinding phase 3 (nodeLevel s a v3) f

/-- The end of a diagnostic run (R243, R245, R246). -/
def diagEnd (a : Axis) (w : DiagWhy) (f : BitVec 12) (s : State) : State :=
  let pass := f == 0
  let s := s.modGd a fun g => { g with diagRun := none, diagFind := f, diagPassed := g.diagPassed || pass }
  let s := (s.set (F.AX_DIAG_RES.W1_FIND a) (f.toNat % 64)).set (F.AX_DIAG_RES.W2_FIND a) (f.toNat / 64)
  let s := ((s.setB (F.AX_DIAG_RES.PASS a) pass).set (F.AX_GD_STAT.DIAG_BUSY a) 0).raise (F.AX_GD_STAT.DIAG_DONE a)
  if pass then
    let s := if w = .rearm then s.set (F.AX_GD_FLT.DIAG_FAIL a) 0 else s
    refreshAxis a s
  else axisFault a (F.AX_GD_FLT.DIAG_FAIL a) 6 s

/-- DIAG_PHASE_END: a phase of the run of an axis ends with its four node readings (R246). -/
def diagPhaseEnd (a : Axis) (v0 v1 v2 v3 : Nat) (s : State) : State :=
  match (s.gd a).diagRun with
  | none => s
  | some (w, ph) =>
    let f := phaseFindings s a ph v0 v1 v2 v3 (s.gd a).diagFind
    if ph = 3 then diagEnd a w f s
    else s.modGd a fun g => { g with diagRun := some (w, ph + 1), diagFind := f }

/-- The diagnostic run before the first energisation after L2, or after its quad domain came up (R245). -/
def firstDiag (a : Axis) (s : State) : State :=
  if (s.gd a).diagPassed then s else requestDiag a .first s

/-! ### Bridge enable -/

/-- Bridge enable has gone from an axis: in motion it leaves motion as for a clamp, with `EN_LOSS` (R479). -/
def enableLost (a : Axis) (s : State) : State :=
  let st := s.axState a
  if ¬ s.axOn a then s
  else if st = 2 ∨ st = 3 ∨ st = 4 then loseReady a (s.raise (F.BK_STAT.EN_LOSS a))
  else refreshAxis a s

/-- ENA_RISE: a rising edge of `AXnn_ENA` restores bridge enable and is a rearm edge (R243). -/
def enaRise (a : Axis) (s : State) : State :=
  if (s.gd a).ena then s else rearmEdge a (s.modGd a fun g => { g with ena := true })

/-- ENA_FALL: a falling edge of `AXnn_ENA` (R479). -/
def enaFall (a : Axis) (s : State) : State :=
  if ¬ (s.gd a).ena then s
  else
    let s := s.modGd a fun g => { g with ena := false }
    enableLost a (if s.axOn a then s.inc (F.AX_STATE_CNT.ENA_FALL_CNT a) else s)

/-- The STO levels after an edge: the start of a discrepancy is noted, and both inputs low end one (R480). -/
def stoLevels (x y : Bool) (s : State) : State :=
  let s := { s with bk := { s.bk with
    stoA := x, stoB := y, stoDiffAt := if x = y then none else some (s.bk.stoDiffAt.getD s.now) } }
  if ¬ x ∧ ¬ y then s.set F.BK_DEV_STAT.STO_DISC 0 else s

/-- The number of an STO input. -/
def stoNo (b : Bool) : Fin 2 := if b then 1 else 0

/-- The filter of an STO input cannot have accepted a change yet: it needs the new level for its whole length (R478, assumption
log 105). -/
def stoShort (s : State) (b : Bool) : Bool :=
  tooShort (s.get F.BK_STO_CFG.STO_FILT * 10 * usT) s.bk.stoAt[stoNo b] s.now

/-- The filter of an STO input accepts a change at the present instant. -/
def State.modStoAt (s : State) (b : Bool) : State := { s with bk := { s.bk with stoAt := s.bk.stoAt.set (stoNo b) (some s.now) } }

/-- STO_LOW: a filtered STO input goes low (R478, R479, R494). -/
def stoLow (b : Bool) (s : State) : State :=
  if (if b then s.bk.stoB else s.bk.stoA) = false ∨ stoShort s b then s
  else
    let s := s.modStoAt b
    let s := if b then stoLevels s.bk.stoA false s else stoLevels false s.bk.stoB s
    let s := audit 0x0D 3 2 0 0 [] (s.raise F.BK_DEV_STAT.STO_EVT)
    s.each allAxes enableLost

/-- STO_HIGH: a filtered STO input returns high; it is no rearm edge (R478). -/
def stoHigh (b : Bool) (s : State) : State :=
  if (if b then s.bk.stoB else s.bk.stoA) = true ∨ stoShort s b then s
  else
    let s := s.modStoAt b
    refreshAll (if b then stoLevels s.bk.stoA true s else stoLevels true s.bk.stoB s)

/-- STO_DISC_TIMEOUT: the STO inputs have differed for longer than `STO_DISC_T` (R480). -/
def stoDiscTimeout (s : State) : State :=
  match s.bk.stoDiffAt with
  | none => s
  | some t0 =>
    if s.flag F.BK_DEV_STAT.STO_DISC then s
    else
      let s := s.at_ (t0 + s.get F.BK_STO_CFG.STO_DISC_T * msT)
      let s := audit 0x0D 3 2 0 0 [] (s.set F.BK_DEV_STAT.STO_DISC 1)
      s.each allAxes enableLost

end Sys2Proof.Machine
end

