-- ==== Sys2Proof/Machine/Pwm.lean ====
section
/-!
DEFINITION. PWM edge generation (R193 to R222): period timers, commits, minimum pulse, leg edges, update points and
trip inputs. Times are in 125 ps units.
-/

namespace Sys2Proof.Machine

/-! ### Timers -/

/-- The earliest instant after `t` at which (instant − `off`) is a multiple of `per` (R197). -/
def gridNext (per off t : Nat) : Nat :=
  let r := (t + 1 + per - off % per) % per
  if r = 0 then t + 1 else t + 1 + (per - r)

/-- A timer start (R197). -/
def timerStart (per off t : Nat) : Timer :=
  { run := true, next := gridNext per off t, nextIsPeriod := true, periodAt := gridNext per off t }

/-- `PHASE` in force on an axis. -/
def phaseOf (s : State) (a : Axis) : Nat := s.get (F.AX_PWM_ACT.ACT a) / 2 ^ 24 % 16

/-- `DLY_R` in force on an axis. -/
def dlyR (s : State) (a : Axis) : Nat := s.get (F.AX_PWM_DLY_ACT.DLY_ACT a) % 2 ^ 14

/-- The instant of the latest half-period boundary of an axis. -/
def lastBoundary (s : State) (a : Axis) : Nat :=
  let tm := (s.pwm a).timer
  if tm.nextIsPeriod then tm.periodAt + perOf s a / 2 else tm.periodAt

/-- The latest half-period boundary was a period boundary. -/
def atPeriod (s : State) (a : Axis) : Bool := !(s.pwm a).timer.nextIsPeriod

/-- The timer passes its next half-period boundary, which may be an update point, a period boundary and a sample instant
(R38, R196, R197). -/
def advanceTimer (a : Axis) (s : State) : State :=
  let per := perOf s a
  let mid := midUpd s a
  s.modPwm a fun p =>
    let tm := p.timer
    if tm.nextIsPeriod then { p with
      timer := { tm with next := tm.next + per / 2, nextIsPeriod := false, periodAt := tm.next }
      updDue := true
      periodDue := true
      sampleDue := mid }
    else { p with
      timer := { tm with next := tm.periodAt + per, nextIsPeriod := true }
      updDue := mid
      periodDue := false
      sampleDue := true }

/-! ### Edges -/

/-- The edges in force on a leg. -/
def edgeOf (s : State) (a : Axis) (l : Leg) : LegEdge :=
  { on := s.get (F.AX_EDGE_ON.ON a l), off := s.get (F.AX_EDGE_OFF.OFF a l), st := s.get (F.AX_EDGE_ON.LSTATE a l) }

/-- Edges are written on a leg. -/
def setEdge (a : Axis) (l : Leg) (e : LegEdge) (s : State) : State :=
  ((s.set (F.AX_EDGE_ON.ON a l) e.on).set (F.AX_EDGE_OFF.OFF a l) e.off).set (F.AX_EDGE_ON.LSTATE a l) e.st

/-- Edges take effect on a leg under the period in force: one greater than it is set equal to it (R202). -/
def takeEdge (a : Axis) (l : Leg) (e : LegEdge) (s : State) : State :=
  let per := perOf s a
  if per < e.on ∨ per < e.off then
    (setEdge a l { e with on := min e.on per, off := min e.off per } s).raise (F.AX_PWM_STAT.CLAMP a)
  else setEdge a l e s

/-- The four legs. -/
def allLegs : List Leg := List.finRange 4

/-- A channel is high at a time within the period (R194). -/
def highAt (on off x : Nat) : Bool := if on ≤ off then decide (on ≤ x) && decide (x < off) else decide (x < off) || decide (on ≤ x)

/-- The time in `[x, y)` for which `[lo, hi)` lasts. -/
def overlap (x y lo hi : Nat) : Nat := min y hi - max x lo

/-- The high time of a leg within `[x, y)` of the period (R194, R195). -/
def highTime (e : LegEdge) (per x y : Nat) : Nat :=
  match e.st with
  | 0 => if e.on ≤ e.off then overlap x y e.on e.off else overlap x y 0 e.off + overlap x y e.on per
  | 2 => y - x
  | _ => 0

/-- The level a leg has been given last, and the instant its interval begins; none in high impedance. -/
def legLast (s : State) (a : Axis) (l : Leg) : Option (Bool × Nat) :=
  match (s.pwm a).legs[l] with
  | e :: _ => e.level.map fun b => (b, e.at_)
  | [] => none

/-- The edges of a leg that still bear on instants from `t` on: those later, and the one in force at it. -/
def legKeep (t : Nat) : List LegEv → List LegEv
  | [] => []
  | e :: h => if e.at_ ≤ t then [e] else e :: legKeep t h

/-- The winding is chopped: CHOP is selected and the bridge carries current. -/
def chopping (s : State) (a : Axis) : Bool := s.get (F.AX_CC_CFG.MODE a) == 1 && s.flag (F.AX_STATE.ENERGISED a)

/-- The winding of a leg. -/
def legWinding (l : Leg) : Fin 2 := ⟨l.val / 2, by omega⟩

/-- The instant from which the edges of a leg still count: now, or under CHOP the instant up to which its volt-seconds have been
formed (R164). -/
def legFrom (s : State) (a : Axis) (l : Leg) : Nat :=
  if chopping s a then min s.now (s.cc a).w[legWinding l].chop.since else s.now

/-- An edge is added to the history of a leg at the present instant. -/
def addEdge (a : Axis) (l : Leg) (e : LegEv) (s : State) : State :=
  s.modPwm a fun p => { p with legs := p.legs.set l (e :: legKeep (min (legFrom s a l) e.at_) p.legs[l]) }

/-- The threshold a leg interval must last (R207, R210). -/
def minInterval (s : State) (a : Axis) (high : Bool) : Nat := 2000 + (if high then dlyR s a else dlyF s a)

/-- A leg turns its high side or its low side on by an edge at instant `te` (R205, R210): the edge is held while the present
interval is shorter than its threshold, the outgoing command falls with it, and the incoming one rises after its delay. A high
side held off since a bootstrap trip follows its commands again (R232). -/
def driveLeg (a : Axis) (l : Leg) (high : Bool) (te : Nat) (s : State) : State :=
  let last := legLast s a l
  if last.map (·.1) = some high then s
  else
    let tg := match last with | some (b, since) => max te (since + minInterval s a b) | none => te
    let s := if te < tg then s.inc (F.AX_PWM_GUARD.MINP_GUARD a) else s
    let free := high && !natBit (s.get (F.AX_GD_STAT.BST_LOW_ACT a)) l
    let conducted := match last with | some (false, since) => decide (since + 4000 ≤ tg) | _ => false
    let bit := BitVec.ofNat 4 (2 ^ l.val)
    let s := (noteLows a tg s).modGd a fun g => { g with
      bstHold := if free then g.bstHold &&& ~~~ bit else g.bstHold
      lowDone := if conducted then g.lowDone ||| bit else g.lowDone }
    addEdge a l { at_ := tg, on := tg + (if high then dlyR s a else dlyF s a), level := some high } s

/-- A leg goes into high impedance at once, an edge still held with it (R206, R210). -/
def floatLeg (a : Axis) (l : Leg) (te : Nat) (s : State) : State :=
  let s := (noteLows a te s).modPwm a fun p => { p with legs := p.legs.set l (p.legs[l].filter fun e => decide (e.at_ ≤ te)) }
  if (legLast s a l).isNone then s else addEdge a l { at_ := te, on := te, level := none } s

/-- A leg goes low by a trip at instant `te` (R20, R210): its high side turns off at once, and an edge still held is dropped. -/
def dropLeg (a : Axis) (l : Leg) (te : Nat) (s : State) : State :=
  let s := (noteLows a te s).modPwm a fun p => { p with legs := p.legs.set l (p.legs[l].filter fun e => decide (e.at_ ≤ te)) }
  match legLast s a l with
  | some (true, _) => addEdge a l { at_ := te, on := te + dlyF s a, level := some false } s
  | _ => s

/-- A leg takes the level its edges in force give at time `x` of the period, at instant `te`. -/
def levelLeg (a : Axis) (x te : Nat) (l : Leg) (s : State) : State :=
  let e := edgeOf s a l
  match e.st with
  | 0 => driveLeg a l (highAt e.on e.off x) te s
  | 1 => driveLeg a l false te s
  | 2 => driveLeg a l true te s
  | _ => floatLeg a l te s

/-- The legs of an axis take the levels of their edges; a chopper drives its legs itself (R161). -/
def levelLegs (a : Axis) (x te : Nat) (s : State) : State :=
  if chopping s a then s else s.each allLegs (levelLeg a x te)

/-- LEG_EDGE: a placed rising or falling edge of a leg in SWITCH (R205). -/
def legEdge (a : Axis) (l : Leg) (rising : Bool) (s : State) : State :=
  let e := edgeOf s a l
  if ¬ s.axOn a ∨ ¬ (s.pwm a).timer.run ∨ e.st ≠ 0 ∨ e.on = e.off ∨ (e.on = 0 ∧ e.off = perOf s a) then s
  else
    let te := (s.pwm a).timer.periodAt + (if rising then e.on else e.off)
    noteGates a (driveLeg a l rising te (s.at_ te))

/-! ### Minimum pulse -/

/-- What minimum-pulse handling makes of a requested high time (R208). -/
structure PulseOut where
  h : Int
  carry : Int
  drop : Nat
  raised : Nat
  deriving DecidableEq, Repr

/-- Minimum-pulse handling of one leg (R207 to R209): requested high time `h`, carried time `carry`, period, largest high
time, the two thresholds, and whether the clamp form applies. -/
def minPulse (per maxH thrH thrL : Int) (clamp : Bool) (carry h : Int) : PulseOut :=
  let past := decide (maxH < h + carry)
  let cf := clamp || past
  let h1 := clampInt 0 per (if past then h else h + carry)
  let c1 : PulseOut :=
    if 0 < h1 ∧ h1 < thrH then
      (if cf then { h := thrH, carry := 0, drop := 0, raised := 1 } else { h := 0, carry := h1, drop := 1, raised := 0 })
    else { h := h1, carry := 0, drop := 0, raised := 0 }
  let l := per - c1.h
  if 0 < l ∧ l < thrL then
    (if !cf && decide (per ≤ maxH) then { h := per, carry := -l, drop := c1.drop + 1, raised := c1.raised }
     else { h := per - thrL, carry := c1.carry, drop := c1.drop, raised := c1.raised + 1 })
  else c1

/-- The edges of a high time `h` centred on mid-period (R157, R208). -/
def edgesMid (per h : Nat) : LegEdge :=
  if h = 0 then { on := 0, off := 0, st := 1 }
  else if h = per then { on := 0, off := per, st := 2 }
  else { on := (per - h + 1) / 2, off := (per - h + 1) / 2 + h, st := 0 }

/-- The edges of a high time `h` centred on the period boundary (R157, R208). -/
def edgesBound (per h : Nat) : LegEdge :=
  if h = 0 then { on := 0, off := 0, st := 1 }
  else if h = per then { on := 0, off := per, st := 2 }
  else { on := per - (h - h / 2), off := h / 2, st := 0 }

/-- The edges for the second half of a period, of which the first half keeps its own (R159). -/
def joinHalf (per : Nat) (centredMid : Bool) (old new : LegEdge) : LegEdge :=
  if new.st ≠ 0 ∨ old.st ≠ 0 then new
  else if centredMid then (if old.on ≤ per / 2 then { new with on := old.on } else new)
  else (if old.off ≤ per / 2 then { new with off := old.off } else new)

/-! ### Commits -/

/-- The staging set of an axis satisfies R203. -/
def commitFits (s : State) (a : Axis) : Bool :=
  decide (4000 + s.get (F.AX_PWM_DLY.DLY_R a) + s.get (F.AX_PWM_DLY.DLY_F a) ≤ s.get (F.AX_PWM_STG.PER a))

/-- A committed set takes effect on an axis (R200, R202, R211): the edges greater than the new period are clamped, carried
time is dropped. -/
def applyCommit (a : Axis) (set : Word × Word) (s : State) : State :=
  let s := (s.set (F.AX_PWM_ACT.ACT a) (set.1.toNat % 2 ^ 29)).set (F.AX_PWM_ACT.COMMIT_PEND a) 0
  let s := s.set (F.AX_PWM_DLY_ACT.DLY_ACT a) set.2.toNat
  let s := s.modPwm a fun p => { p with pend := none, carry := Vector.replicate 4 0 }
  s.each allLegs fun l s => takeEdge a l (edgeOf s a l) s

/-- A commit of the staging set of an axis (R199, R203, R204): refused, at once in CONFIG and MAINT, else pending. The
flag says whether it was taken. -/
def commitAxis (a : Axis) (s : State) : State × Bool :=
  if ¬ commitFits s a then (s.raise (F.AX_PWM_STAT.COMMIT_REJ a), false)
  else
    let set : Word × Word := (BitVec.ofNat 32 (s.get (F.AX_PWM_STG.all a)), BitVec.ofNat 32 (s.get (F.AX_PWM_DLY.all a)))
    if s.mode = 2 ∨ s.mode = 3 then (applyCommit a set s, true)
    else ((s.modPwm a fun p => { p with pend := some set }).set (F.AX_PWM_ACT.COMMIT_PEND a) 1, true)

/-- The staging set of a privileged channel. -/
def privStaging (s : State) (c : Fin 8) : PrivSet :=
  { per := s.get (F.PCH_PER.PER c), on := s.get (F.PCH_ON.ON c), off := s.get (F.PCH_OFF.OFF c),
    en := s.flag (F.PCH_CTRL.EN c), pol := s.flag (F.PCH_CTRL.POL c) }

/-- A state with a privileged channel changed. -/
def State.modPriv (s : State) (c : Fin 8) (f : PrivSt → PrivSt) : State := { s with priv := s.priv.set c (f s.priv[c]) }

/-- The running state of a privileged channel at its boundary (R250): an auxiliary channel runs while enabled, a brake
channel while the window monitor calls for it as well. -/
def privRun (c : Fin 8) (s : State) : State :=
  let p := s.priv[c]
  if c.val < 4 then s.setB (F.PCH_CTRL.ACTIVE c) p.force.en
  else
    let q := c.val - 4
    let on := p.force.en && p.want
    let s := if on && !s.flag (F.QD_GD_STAT.BRK_ACT q) then s.inc (F.QD_GD_CNT.BRK_STARTS q) else s
    (s.setB (F.QD_GD_STAT.BRK_ACT q) on).setB (F.PCH_CTRL.ACTIVE c) on

/-- A pending privileged set takes effect (R201, R202): unchanged `ON` and `OFF` leave the edges in force. -/
def applyPriv (c : Fin 8) (set : PrivSet) (s : State) : State :=
  let p := s.priv[c]
  let same := decide (set.on = p.comm.on) && decide (set.off = p.comm.off)
  let on := if same then p.force.on else set.on
  let off := if same then p.force.off else set.off
  let s := if set.per < on ∨ set.per < off then s.raise (F.PCH_CTRL.CLAMP c) else s
  (s.modPriv c fun p => { p with
    pend := none, comm := set, force := { set with on := min on set.per, off := min off set.per } }).set
      (F.PCH_CTRL.COMMIT_PEND c) 0

/-- A commit of a privileged channel (R199, R201, R204). -/
def commitPriv (c : Fin 8) (s : State) : State :=
  let set := privStaging s c
  if s.mode = 2 ∨ s.mode = 3 then privRun c (applyPriv c set s)
  else (s.modPriv c fun p => { p with pend := some set }).set (F.PCH_CTRL.COMMIT_PEND c) 1

/-- A timer start of an axis (R197, R506): a pending set takes effect with it. -/
def startTimer (a : Axis) (s : State) : State :=
  let s := match (s.pwm a).pend with | some x => applyCommit a x s | none => s
  let per := perOf s a
  let tm := timerStart per (phaseOf s a * (per / 16)) s.now
  (s.modPwm a fun p => { p with timer := tm, updDue := false, periodDue := false, sampleDue := false }).modCc a fun c =>
    { c with compDue := false }

/-- A timer start of a privileged channel. -/
def startPriv (c : Fin 8) (s : State) : State :=
  let s := match s.priv[c].pend with | some x => applyPriv c x s | none => s
  s.modPriv c fun p => { p with timer := timerStart p.force.per 0 s.now }

/-- Every period timer starts (R197). -/
def startTimers (s : State) : State :=
  (s.each (allAxes.filter s.axOn) startTimer).each (List.finRange 8) startPriv

/-- The edges a privileged channel drives, in the clamp form of R213: `ON` kept, `OFF` moved. -/
def privDriven (p : PrivSet) : Nat × Nat :=
  let h := if p.on ≤ p.off then p.off - p.on else p.per - p.on + p.off
  if h = 0 ∨ p.per ≤ h then (p.on, p.off)
  else if h < 2000 then (p.on, (p.on + 2000) % p.per)
  else if p.per - h < 2000 then (p.on, (p.on + p.per - 2000) % p.per)
  else (p.on, p.off)

/-- The level of the pin of a privileged channel at instant `t` (R194, R222): at its inactive level unless it runs. -/
def privLevel (s : State) (c : Fin 8) (t : Nat) : Bool :=
  let p := s.priv[c]
  let e := privDriven p.force
  let run := s.flag (F.PCH_CTRL.ACTIVE c)
  (run && highAt e.1 e.2 (t - p.timer.periodAt)) != p.force.pol

/-! ### Update points -/

/-- Edges replaced by a refresh pulse return (R231). -/
def endRefresh (a : Axis) (s : State) : State :=
  let l := (s.pwm a).refresh
  if l = [] then s else (s.each l fun e s => takeEdge a e.1 e.2 s).modPwm a fun p => { p with refresh := [] }

/-- The end of a PWM period (R40, R41): a late period counts in `LATE_RUN`, the third in a row is a deadline fault. With `MIDUPD`
the update point of a boundary closes the period it ends, together with that period's mid point (assumption log 110). -/
def endPeriod (a : Axis) (late : Bool) (s : State) : State :=
  let s := s.modPwm a fun p => { p with lateNow := false }
  if ¬ late then s.set (F.AX_DEADLINE.LATE_RUN a) 0
  else
    let run := min 3 (s.get (F.AX_DEADLINE.LATE_RUN a) + 1)
    let s := s.set (F.AX_DEADLINE.LATE_RUN a) run
    if run = 3 then axisFault a (F.AX_DEADLINE.DEADLINE_FLT a) 11 s else s

/-- A fresh calibration takes effect on a channel at its update point: the measured line places edges from now on, and the line
that placed them is measured (R32). -/
def CalChan.swap (c : CalChan) : CalChan :=
  let fresh := if c.placing then c.good.1 else c.good.2
  if c.used < fresh then { c with placing := !c.placing, used := fresh } else c

/-- Channels pass an update point. -/
def calSwap (l : List (Fin 72)) (s : State) : State :=
  { s with tb := { s.tb with cal := l.foldl (fun v (i : Fin 72) => v.set i (v[i]).swap) s.tb.cal } }

/-- The channels of the legs of an axis, and of a privileged channel. -/
def legChans (a : Axis) : List (Fin 72) := allLegs.map fun l => ⟨4 * a.val + l.val, by omega⟩
def privChan (c : Fin 8) : Fin 72 := ⟨64 + c.val, by omega⟩

/-- UPDATE_POINT: edge values that are ready take effect; where a computation that was due has not delivered them the point is
late, and the previous values repeat (R39). A fresh calibration takes effect with it (R32). -/
def updatePoint (a : Axis) (s : State) : State :=
  if ¬ s.axOn a ∨ ¬ (s.pwm a).updDue then s
  else
    let t := lastBoundary s a
    let per := atPeriod s a
    let s := s.modPwm a fun p => { p with updDue := false }
    let s := calSwap (legChans a) s
    let s := if per then endRefresh a s else s
    let late := (s.cc a).compDue
    let s := match (s.pwm a).staged with
      | some e =>
        (if chopping s a then s else s.each allLegs fun l s => takeEdge a l e[l] s).modPwm a fun p => { p with staged := none }
      | none => s
    let s := if late then
        (s.inc (F.AX_DEADLINE.LATE a)).modCc a fun c =>
          { c with compDue := false, comp := c.comp.map fun x => { x with late := true } }
      else s
    let s := if late then s.modPwm a fun p => { p with lateNow := true } else s
    let s := levelLegs a (if per then 0 else perOf s a / 2) t s
    noteGates a (if per then endPeriod a (s.pwm a).lateNow s else s)

/-! ### Period boundaries -/

/-- A leg in SWITCH or HIGH needs a bootstrap refresh pulse (R231). -/
def needsRefresh (s : State) (a : Axis) (l : Leg) : Bool :=
  let st := (edgeOf s a l).st
  (s.gd a).fallback && (st == 0 || st == 2)
    && decide (s.get (F.QD_GD_CFG.REFRESH_N (quadOf a)) ≤ (s.gd a).sinceLow[l])

/-- The edges of a period that begins with a refresh pulse, and the intervals raised (R213, R231): the low side is on for 500 ns
from the boundary, longer where its threshold or the edges it replaces ask for it, and what is left of the high time is raised
to its threshold. -/
def refreshEdges (s : State) (a : Axis) (e : LegEdge) : LegEdge × Nat :=
  let low := max 4000 (minInterval s a false)
  let up := bitOf (decide (4000 < low))
  if e.st = 0 ∧ e.on ≤ e.off then
    let on := max e.on low
    let off := min (perOf s a) (max e.off (on + minInterval s a true))
    ({ on := on, off := off, st := 0 }, up + bitOf (decide (e.off < off)))
  else ({ on := low, off := perOf s a, st := 0 }, up)

/-- A leg gets a refresh pulse at a period boundary if it needs one (R231, assumption log 111). -/
def insertRefresh (a : Axis) (l : Leg) (s : State) : State :=
  if ¬ needsRefresh s a l then s
  else
    let e := edgeOf s a l
    let x := refreshEdges s a e
    let s := s.modPwm a fun p => { p with refresh := (l, e) :: p.refresh }
    let s := s.modGd a fun g => { g with pulsed := g.pulsed ||| BitVec.ofNat 4 (2 ^ l.val) }
    let s := s.count (F.AX_PWM_CNT.MINP_RAISE a) x.2
    levelLeg a 0 (lastBoundary s a) l (takeEdge a l x.1 s)

/-- The low side of a leg has conducted for 500 ns in one stretch in the period that ends at instant `t` (R231). -/
def lowConducted (s : State) (a : Axis) (l : Leg) (t : Nat) : Bool :=
  (s.gd a).lowDone.getLsbD l.val
    || (match legLast s a l with | some (false, since) => decide (since + 4000 ≤ t) | _ => false)

/-- A period ends at instant `t`: the legs whose low side has not conducted in it count it, and those whose low time was the refresh
pulse at its start, so that the pulses follow every `REFRESH_N` periods (R231, R254). -/
def countLows (a : Axis) (t : Nat) (s : State) : State :=
  s.modGd a fun g => { g with
    sinceLow := Vector.ofFn fun l : Fin 4 => if g.pulsed.getLsbD l then 1 else if lowConducted s a l t then 0 else g.sinceLow[l] + 1
    lowDone := 0
    pulsed := 0 }

/-- Trip forces whose source has become inactive end (R218). -/
def tripPeriod (a : Axis) (s : State) : State :=
  if (s.pwm a).tripDrop = 0 then s
  else
    let s := s.modPwm a fun p => { p with tripForce := p.tripForce &&& ~~~ p.tripDrop, tripDrop := 0 }
    refreshEnergised a (s.setB (F.AX_PWM_STAT.TRIP_ACT a) ((s.pwm a).tripForce != 0))

/-- PERIOD_BOUNDARY of an axis (R200, R202, R218, R228, R230, R231, R252). -/
def periodBoundary (a : Axis) (s : State) : State :=
  if ¬ s.axOn a ∨ ¬ (s.pwm a).periodDue then s
  else
    let s := s.modPwm a fun p => { p with periodDue := false }
    let t := lastBoundary s a
    let s := match (s.pwm a).pend with
      | some x =>
        let mid := midUpd s a
        let s := applyCommit a x s
        let s := s.modPwm a fun p => { p with
          timer := { p.timer with next := p.timer.periodAt + perOf s a / 2 }
          sampleDue := if midUpd s a = mid then p.sampleDue else midUpd s a }
        levelLegs a 0 t s
      | none => s
    let s := cutFollowsTimer a s
    let s := countLows a t (cpPeriod a s)
    let s := s.each allLegs (insertRefresh a)
    noteGates a (uvPeriod a (tripPeriod a (crossPeriod a s)))

/-- PERIOD_BOUNDARY of a privileged channel (R201, R202, R250). -/
def privBoundary (c : Fin 8) (s : State) : State :=
  let p := s.priv[c]
  if ¬ p.timer.run then s
  else
    let s := s.at_ p.timer.next
    let s := calSwap [privChan c] s
    let s := match p.pend with | some x => applyPriv c x s | none => s
    let s := s.modPriv c fun p => { p with
      timer := { p.timer with periodAt := p.timer.next, next := p.timer.next + p.force.per } }
    privRun c s

/-! ### Trip inputs -/

/-- The filter of `TRIPn` cannot have accepted a change of its input yet: it needs the new level for its whole length (R215,
assumption log 105). -/
def tripTooSoon (s : State) (n : Fin 4) : Bool := tooShort (s.get (F.TRIP_CFG.FILT n) * 10 * nsT) s.ms.tripAt[n] s.now

/-- The filter of `TRIPn` accepts a change at the present instant. -/
def State.modTripAt (s : State) (n : Fin 4) : State := { s with ms := { s.ms with tripAt := s.ms.tripAt.set n (some s.now) } }

/-- TRIP_ACTIVE: the filter of `TRIPn` accepts it as active (R215, R217, R218). -/
def tripActive (n : Fin 4) (s : State) : State :=
  if ¬ s.flag (F.TRIP_CFG.EN n) ∨ natBit (s.get F.TRIP_STAT.LEVEL) n ∨ tripTooSoon s n then s
  else
    let s := s.modTripAt n
    let s := s.set F.TRIP_STAT.LEVEL (natSetBit (s.get F.TRIP_STAT.LEVEL) n true)
    let s := s.set F.TRIP_STAT.EVT (natSetBit (s.get F.TRIP_STAT.EVT) n true)
    let hit := allAxes.filter fun a => s.axOn a && natBit (s.get (F.TRIP_CFG.AXES n)) a
    s.each hit fun a s =>
      let bit : BitVec 4 := BitVec.ofNat 4 (2 ^ n.val)
      let s := s.modPwm a fun p => { p with tripForce := p.tripForce ||| bit, tripDrop := p.tripDrop &&& ~~~ bit }
      let s := s.set (F.AX_PWM_STAT.TRIP_ACT a) 1
      if s.flag (F.TRIP_CFG.LATCH n) then axisFault a (F.AX_PWM_STAT.TRIP_FLT a) 12 s else refreshEnergised a s

/-- TRIP_INACTIVE: the filter of `TRIPn` accepts it as inactive (R218). -/
def tripInactive (n : Fin 4) (s : State) : State :=
  if ¬ natBit (s.get F.TRIP_STAT.LEVEL) n ∨ tripTooSoon s n then s
  else
    let s := (s.set F.TRIP_STAT.LEVEL (natSetBit (s.get F.TRIP_STAT.LEVEL) n false)).modTripAt n
    s.each allAxes fun a s =>
      let bit : BitVec 4 := BitVec.ofNat 4 (2 ^ n.val)
      s.modPwm a fun p => { p with tripDrop := p.tripDrop ||| (p.tripForce &&& bit) }

end Sys2Proof.Machine
end

