-- ==== Sys2Proof/Machine/Current.lean ====
section
/-!
DEFINITION. Microstepping and current regulation (R131 to R168): wave tables, current references, scales, samples, the
PI controller, modulation and the chopper. Voltages and currents are exact rational numbers in volts and amperes.
-/

namespace Sys2Proof.Machine

/-! ### Wave tables -/

/-- The address of word `j` of a buffer of table `t` (R167): the shadow at 0x000, the active buffer at 0x800. -/
def waveAddr (t : Nat) (active : Bool) (j : Nat) : Nat := 0x200000 + t * 0x1000 + (if active then 0x800 else 0) + j * 4

/-- Entry `i` of a buffer of table `t` as it is stored. -/
def waveRaw (s : State) (t : Nat) (active : Bool) (i : Nat) : Int :=
  let w := rfGet s.regs (waveAddr t active (i % 1024 / 2))
  signedOf 16 (if i % 2 = 0 then getBits w 15 0 else getBits w 31 16)

/-- Entry `i` of a buffer of table `t` as it is used: −32,768 is read as −32,767 (R133). -/
def waveEntry (s : State) (t : Nat) (active : Bool) (i : Nat) : Int := max (-32767) (waveRaw s t active i)

/-- Two entries as a table word. -/
def waveWord (e0 e1 : Int) : Word := BitVec.ofInt 16 e1 ++ BitVec.ofInt 16 e0

/-- A buffer of table `t` takes a word at every index. -/
def setWave (t : Nat) (active : Bool) (f : Nat → Word) (s : State) : State :=
  { s with regs := (List.range 512).foldl (fun r j => rfSet r (waveAddr t active j) (f j)) s.regs }

/-- The words of a buffer. -/
def waveOf (s : State) (t : Nat) (active : Bool) (j : Nat) : Word := rfGet s.regs (waveAddr t active j)

/-- The entry a fill puts at index `i`, from the quarter wave in the shadow buffer (R138): entries are copied as they are
stored and negated as they are read (assumption log 67). -/
def fillEntry (s : State) (t : Nat) (i : Nat) : Int :=
  let half (i : Nat) : Int :=
    if i = 0 then 0 else if i ≤ 256 then waveRaw s t false i else if i < 512 then waveRaw s t false (512 - i) else 0
  if i < 512 then half i else - max (-32767) (half (i - 512))

/-- The word of a fill. -/
def fillWord (s : State) (t : Nat) (j : Nat) : Word := waveWord (fillEntry s t (2 * j)) (fillEntry s t (2 * j + 1))

/-- A write to the shadow buffer or to `WT_CTRL` is refused (R142). -/
def waveBusy (s : State) (t : Nat) : Bool := s.flag (F.WT_STAT.SWAP_PEND t) || s.flag (F.WT_STAT.BUSY t)

/-- An operation of a wave table begins (R138 to R140); a busy table refuses it with `REFUSED` (R142). -/
def wtStart (t : Fin 8) (op : WtOp) (s : State) : State × Bool :=
  if waveBusy s t then (s.raise (F.WT_STAT.REFUSED t), false)
  else (s.set (F.WT_STAT.BUSY t) 1 |>.modWt t fun w => { w with op := some op }, true)

/-- The last user of an armed swap has moved: the buffers exchange their contents and the copy into the shadow begins
(R140). -/
def wtAllMoved (t : Fin 8) (s : State) : State :=
  let sh := waveOf s t false
  let ac := waveOf s t true
  let s1 := setWave t false ac (setWave t true sh s)
  (s1.set (F.WT_STAT.BUSY t) 1).modWt t fun _ => { moved := 0, op := some .copy }

/-- SWAP (R140): the swap is armed; without users its copy starts at once. -/
def wtSwap (t : Fin 8) (s : State) : State × Bool :=
  if waveBusy s t then (s.raise (F.WT_STAT.REFUSED t), false)
  else
    let s := (s.set (F.WT_STAT.SWAP_PEND t) 1).modWt t fun w => { w with moved := 0 }
    (if s.get (F.WT_STAT.USERS t) = 0 then wtAllMoved t s else s, true)

/-- WT_OP_DONE: a fill, a revert or the copy after a swap ends (R138 to R140). -/
def wtOpDone (t : Fin 8) (s : State) : State :=
  match (s.wt[t]).op with
  | none => s
  | some op =>
    let s1 := match op with
      | .fill => setWave t false (fillWord s t) s
      | .revert => setWave t false (waveOf s t true) s
      | .copy => (setWave t false (waveOf s t true) s).set (F.WT_STAT.SWAP_PEND t) 0
    (s1.set (F.WT_STAT.BUSY t) 0).modWt t fun w => { w with op := none }

/-- A table as a channel number. -/
def tableOf (n : Nat) : Fin 8 := ⟨n % 8, by omega⟩

/-- An axis moves to the new content of a table with a swap pending (R140, R143). -/
def wtMove (a : Axis) (t : Fin 8) (s : State) : State :=
  if ¬ s.flag (F.WT_STAT.SWAP_PEND t) ∨ (s.wt[t]).op.isSome then s
  else
    let s := s.modWt t fun w => { w with moved := w.moved ||| BitVec.ofNat 16 (2 ^ a.val) }
    if s.get (F.WT_STAT.USERS t) &&& ((s.wt[t]).moved.toNat ^^^ 0xFFFF) = 0 then wtAllMoved t s else s

/-- An axis stops using a table: its bit in `USERS` clears, which may complete a swap (R140). -/
def wtLeave (a : Axis) (t : Fin 8) (s : State) : State :=
  let s := s.set (F.WT_STAT.USERS t) (natSetBit (s.get (F.WT_STAT.USERS t)) a false)
  if s.flag (F.WT_STAT.SWAP_PEND t) ∧ (s.wt[t]).op.isNone
      ∧ s.get (F.WT_STAT.USERS t) &&& ((s.wt[t]).moved.toNat ^^^ 0xFFFF) = 0 then wtAllMoved t s else s

/-- A write of `AX_WAVE.TABLE` (R143): the change waits for a full-step boundary, the axis counts as a user of both
tables; a second write replaces the first. A write of the table in use ends a pending change at once (assumption log 112). -/
def waveTableWrite (a : Axis) (n : Nat) (s : State) : State :=
  let act := s.get (F.AX_WAVE.TABLE_ACT a)
  let old := s.get (F.AX_WAVE.TABLE a)
  let s := if s.flag (F.AX_WAVE.TABLE_PEND a) ∧ old ≠ act ∧ old ≠ n % 8 then wtLeave a (tableOf old) s else s
  let s := s.set (F.AX_WAVE.TABLE a) n
  if n % 8 = act then s.set (F.AX_WAVE.TABLE_PEND a) 0
  else
    let t := n % 8
    (s.set (F.WT_STAT.USERS t) (natSetBit (s.get (F.WT_STAT.USERS t)) a true)).set (F.AX_WAVE.TABLE_PEND a) 1

/-- What an axis does at its full-step boundary (R140, R141, R143): it moves to the new content of its table, or to a
newly requested table. The flag says whether anything reached the axis (R191). -/
def waveStep (a : Axis) (s : State) : State × Bool :=
  let act := tableOf (s.get (F.AX_WAVE.TABLE_ACT a))
  if s.flag (F.AX_WAVE.TABLE_PEND a) then
    let t := tableOf (s.get (F.AX_WAVE.TABLE a))
    let s := (s.set (F.AX_WAVE.TABLE_ACT a) t).set (F.AX_WAVE.TABLE_PEND a) 0
    (wtMove a t (wtLeave a act s), true)
  else if s.flag (F.WT_STAT.SWAP_PEND act) ∧ ¬ (s.wt[act]).moved.getLsbD a then (wtMove a act s, true)
  else (s, false)

/-- The position the generator indexes with, in 2^-16 µstep (R135). -/
def elecPos (s : State) (a : Axis) (p : Int) : Int :=
  (if s.flag (F.AX_WAVE.REVERSE a) then -p else p) + (s.get (F.AX_WAVE.PHASE_OFS a) * 65536 : Nat)

/-- A full-step boundary of the axis between the commanded positions `p0` and `p1` (R141). -/
def fullStep (s : State) (a : Axis) (p0 p1 : Int) : Bool :=
  let k0 := elecPos s a p0 / 65536
  let k1 := elecPos s a p1 / 65536
  let crossed := if k0 < k1 then k0 / 256 != k1 / 256 else if k1 < k0 then (-k0) / 256 != (-k1) / 256 else false
  crossed || !s.flag (F.AX_STATE.ENERGISED a) || (s.mot a).vel == 0

/-! ### References -/

/-- The interpolated table value of an axis at index `k` and fraction `f` (R136). -/
def interpEntry (s : State) (a : Axis) (k f : Nat) : Int :=
  let t := tableOf (s.get (F.AX_WAVE.TABLE_ACT a))
  let new := s.flag (F.WT_STAT.SWAP_PEND t) && (s.wt[t]).op.isNone && (s.wt[t]).moved.getLsbD a
  let e0 := waveEntry s t (!new) k
  let e1 := waveEntry s t (!new) (k + 1)
  divRound (16 * e0 + (e1 - e0) * (f : Int)) 16

/-- The references of both windings in ADC codes, for a commanded position and an effective scale (R135, R136, R148). -/
def currentRefs (s : State) (a : Axis) (p : Int) (scale : Nat) : Int × Int :=
  let x := elecPos s a p
  let k := (x / 65536 % 1024).toNat
  let f := (x % 65536 / 4096).toNat
  (divRound ((scale : Int) * interpEntry s a k f) 4096, divRound ((scale : Int) * interpEntry s a ((k + 256) % 1024) f) 4096)

/-! ### Current scales -/

/-- The effective scale at a half-period boundary (R146, R147, R182, R186). -/
def updateScale (a : Axis) (s : State) : State :=
  let rule := scaleRule s a
  let tgt := scaleTarget s a rule
  let eff := s.get (F.AX_CC_FLAG.SCALE_EFF a)
  let slew := s.get (F.AX_IHOLD.SLEW a)
  setScale a rule
    (if rule = 1 then 0
     else if rule = 2 ∨ slew = 0 then tgt
     else if eff ≤ tgt then min tgt (eff + slew) else max tgt (eff - slew)) s

/-! ### Overcurrent DAC -/

/-- The time for which a comparator's output is held after a change of its DAC code (R293). -/
def dacHold : Nat := 100 * nsT

/-- A comparator whose DAC code has been 0 is active, and so is its filtered output (R292). -/
def FiltSt.active (t : Nat) : FiltSt := { hist := List.replicate 9 true, out := true, outAt := t, acc := true }

/-- The overcurrent DAC of a winding takes a code; a change holds the comparator's output at its previous level, which was active
where a chop threshold has been 0 (R292, R293). -/
def setOcDac (a : Axis) (w : Fin 2) (code : Nat) (s : State) : State :=
  if s.get (ocDac a w) = code then s
  else
    let s := if s.get (ocDac a w) = 0 ∧ s.get (F.AX_CC_CFG.MODE a) = 1 ∧ ¬ ocHeld s a w then
        (s.set (ocOut a w) 1).modCc a fun c => { c with oc := c.oc.set w (FiltSt.active s.now) } else s
    (s.set (ocDac a w) code).modCc a fun c => { c with ocHold := c.ocHold.set w (s.now + dacHold) }

/-- The overcurrent DAC codes in force (R160, R292): the Backstop code under PI, the chop threshold under CHOP. -/
def loadOcDac (a : Axis) (s : State) : State :=
  let chop := s.get (F.AX_CC_CFG.MODE a) = 1
  let oc := s.get (F.BK_OC.OC_CODE a)
  let w := (s.cc a).w
  setOcDac a 1 (if chop then w[1].chop.thr else oc) (setOcDac a 0 (if chop then w[0].chop.thr else oc) s)

/-! ### Sampling -/

/-- The legs of a winding: `P` and `N`. -/
def legP (w : Fin 2) : Leg := ⟨2 * w.val, by omega⟩
def legN (w : Fin 2) : Leg := ⟨2 * w.val + 1, by omega⟩

/-- The high level of a leg over `[x, y)` of a period: `some` when it does not change. -/
def levelOver (e : LegEdge) (per x y : Nat) : Option Bool :=
  let h := highTime e per x y
  if e.st = 3 then none else if h = 0 then some false else if h = y - x then some true else none

/-- The sign of the active state of a winding throughout `[x, y)`: +1 with `P` high, −1 with `N` high, 0 for none (R152). -/
def activeSign (s : State) (a : Axis) (w : Fin 2) (x y : Nat) : Int :=
  let per := perOf s a
  match levelOver (edgeOf s a (legP w)) per x y, levelOver (edgeOf s a (legN w)) per x y with
  | some true, some false => 1
  | some false, some true => -1
  | _, _ => 0

/-- The conversions of a sample: n = 1, 2 or 4 (R151). -/
def oversample (cfg : Word) : Nat := match getBits cfg 5 4 with | 1 => 2 | 2 => 4 | _ => 1

/-- The time before the sample instant for which a usable sample needs one active state (R152). -/
def sampleWindow (cfg : Word) : Nat := (oversample cfg - 1) * 4000 + getBits cfg 23 16 * 80

/-- `AX_CC_CFG` of an axis. -/
def ccCfg (s : State) (a : Axis) : Word := BitVec.ofNat 32 (s.get (F.AX_CC_CFG.all a))

/-- The times strictly within `(lo, hi)` of a period at which a leg changes its level (R194). -/
def edgesIn (e : LegEdge) (lo hi : Nat) : List Nat :=
  if e.st = 0 ∧ e.on ≠ e.off then [e.on, e.off].filter fun x => decide (lo < x) && decide (x < hi) else []

/-- What the half period that ends at the boundary in hand leaves for the samples and the observer (R152, R170): the
sign of the active state before the boundary, how long it has lasted, which may reach back over earlier halves, and the net
high time. -/
def sampleHalf (a : Axis) (s : State) : State :=
  let per := perOf s a
  let lo := if (s.pwm a).timer.nextIsPeriod then per / 2 else 0
  let hi := if (s.pwm a).timer.nextIsPeriod then per else per / 2
  let chop := s.get (F.AX_CC_CFG.MODE a) = 1
  s.modCc a fun c => { c with w := Vector.ofFn fun i : Fin 2 =>
    let w := c.w[i]
    let p := edgeOf s a (legP i)
    let n := edgeOf s a (legN i)
    let d : Int := highTime p per lo hi - highTime n per lo hi
    let sg := activeSign s a i (hi - 1) hi
    let run := match (edgesIn p lo hi ++ edgesIn n lo hi).max? with
      | some x => hi - x
      | none => hi - lo + (if w.pre = sg then w.preRun else 0)
    { w with pre := sg, preRun := run, vs := if chop then w.vs else w.vs + d } }

/-! ### Choppers -/

/-- Changes the chopper of a winding. -/
def modChop (a : Axis) (w : Fin 2) (f : WindSt → WindSt) (s : State) : State :=
  s.modCc a fun c => { c with w := c.w.set w (f c.w[w]) }

/-- The sign with which a chopper phase drives its winding (R161): the on state forward, FAST backward. -/
def ChopSt.sign (c : ChopSt) : Int :=
  match c.phase with | .on => if c.pos then 1 else -1 | .fast => if c.pos then -1 else 1 | _ => 0

/-- The time within `[x, y)` for which a leg has been high, from its edges, the newest first. -/
def legHigh : List LegEv → Nat → Nat → Nat
  | [], _, _ => 0
  | e :: h, x, y => (if e.level = some true then y - max x e.at_ else 0) + legHigh h x (min y (max x e.at_))

/-- The volt-seconds of a chopped winding up to instant `t` are counted from the edges its legs were driven with (R164). -/
def chopCount (a : Axis) (w : Fin 2) (t : Nat) (s : State) : State :=
  let x := (s.cc a).w[w].chop.since
  let h (l : Leg) : Int := (legHigh (s.pwm a).legs[l] x t : Nat)
  let d := h (legP w) - h (legN w)
  modChop a w (fun c => { c with vs := c.vs + d, chop := { c.chop with since := max t x } }) s

/-- The legs of a winding take at instant `t` the levels of its chopper phase (R161, R195): in SWITCH, high or low for the whole
period. A refresh pulse in place of the edges before ends with them. -/
def chopLegs (a : Axis) (w : Fin 2) (t : Nat) (s : State) : State :=
  let c := (s.cc a).w[w].chop
  let sg := c.sign
  let st (high : Bool) : LegEdge := { on := 0, off := if high then perOf s a else 0, st := 0 }
  let s := setEdge a (legP w) (st (sg == 1)) (setEdge a (legN w) (st (sg == -1)) s)
  let s := s.modPwm a fun p => { p with refresh := p.refresh.filter fun r => legWinding r.1 != w }
  driveLeg a (legP w) (sg == 1) t (driveLeg a (legN w) (sg == -1) t s)

/-- A chopper enters a phase of its cycle at the present instant. -/
def chopEnter (a : Axis) (w : Fin 2) (ph : ChopPhase) (s : State) : State :=
  noteGates a (chopLegs a w s.now (modChop a w (fun x =>
    { x with chop := { x.chop with phase := ph, from_ := s.now, watch := false } }) (chopCount a w s.now s)))

/-- The off time of the chopper of an axis (R161). -/
def toffOf (s : State) (a : Axis) : Nat := s.get (F.AX_CHOP.TOFF a) * 800

/-- A MIXED off state whose first quarter has passed by instant `t` is SLOW since then (R161, R164). -/
def chopMixed (a : Axis) (w : Fin 2) (t : Nat) (s : State) : State :=
  let c := (s.cc a).w[w].chop
  let q := c.from_ + toffOf s a / 4
  if c.phase ≠ .fast ∨ s.get (F.AX_CHOP.DECAY a) ≠ 2 ∨ t < q then s
  else noteGates a (chopLegs a w q (modChop a w (fun x => { x with chop := { x.chop with phase := .slow } }) s))

/-- The off state of MIXED reverses the legs now, and both low sides turn on after its first quarter (R161). -/
def chopOffLegs (a : Axis) (w : Fin 2) (s : State) : State :=
  if s.get (F.AX_CHOP.DECAY a) ≠ 2 then s
  else
    let q := s.now + toffOf s a / 4
    driveLeg a (legP w) false q (driveLeg a (legN w) false q s)

/-- A chopper enters an on state of its next cycle, or holds while its threshold is 0 (R162). -/
def chopCycle (a : Axis) (w : Fin 2) (s : State) : State :=
  let iref := if w = 0 then s.getS (F.AX_IREF.IREF_W1 a) else s.getS (F.AX_IREF.IREF_W2 a)
  let s := modChop a w (fun x => { x with chop := { x.chop with pos := decide (0 ≤ iref) } }) (chopCount a w s.now s)
  chopEnter a w (if (s.cc a).w[w].chop.thr = 0 then .held else .on) s

/-- The chop thresholds at a half-period boundary (R160), from the references of the latest computation (assumption log 113); a
held chopper keeps both low sides on, and starts its cycles once its threshold has risen (R162). -/
def chopBoundary (a : Axis) (s : State) : State :=
  if s.get (F.AX_CC_CFG.MODE a) ≠ 1 then s
  else
    let thr (i : Int) : Nat := min 1023 (i.natAbs / 32)
    let s := modChop a 0 (fun x => { x with chop := { x.chop with thr := thr (s.getS (F.AX_IREF.IREF_W1 a)) } }) s
    let s := modChop a 1 (fun x => { x with chop := { x.chop with thr := thr (s.getS (F.AX_IREF.IREF_W2 a)) } }) s
    let s := loadOcDac a s
    if ¬ chopping s a then s
    else s.each [(0 : Fin 2), 1] fun w s =>
      if (s.cc a).w[w].chop.phase = .held then chopCycle a w s else chopMixed a w s.now s

/-- The on state has ended its blanking by now (R161). -/
def chopBlanked (s : State) (a : Axis) (w : Fin 2) : Bool :=
  decide ((s.cc a).w[w].chop.from_ + s.get (F.AX_CHOP.CHOP_BLANK a) * 80 ≤ s.now)

/-- The chopper leaves the on state into its off state (R161); a comparator trip turns the high side off at once (R20, R162,
R210). -/
def chopRelease (a : Axis) (w : Fin 2) (trip : Bool) (s : State) : State :=
  let c := (s.cc a).w[w].chop
  if c.phase ≠ .on then s
  else
    let s := chopCount a w s.now s
    let s := if trip then dropLeg a (if c.pos then legP w else legN w) s.now s else s
    chopOffLegs a w (chopEnter a w (if s.get (F.AX_CHOP.DECAY a) = 0 then .slow else .fast) s)

/-- CHOP_OFF: the comparator is sampled; once its filtered output is active after the blanking, or one PWM period has passed, the
chopper leaves the on state (R161, R297). -/
def chopOff (a : Axis) (w : Fin 2) (x : Samples) (s : State) : State :=
  if ¬ chopping s a then s
  else
    let s := (ocFeed a w x s).1
    if chopBlanked s a w ∧ ocTripped s a w then chopRelease a w true s
    else if (s.cc a).w[w].chop.from_ + perOf s a ≤ s.now then chopRelease a w false s
    else s

/-- CHOP_TOFF_END: the off time ends and the next cycle begins (R161). -/
def chopToffEnd (a : Axis) (w : Fin 2) (s : State) : State :=
  let c := (s.cc a).w[w].chop
  if ¬ chopping s a ∨ (c.phase ≠ .fast ∧ c.phase ≠ .slow) then s
  else
    let s := s.at_ (c.from_ + toffOf s a)
    chopCycle a w (chopMixed a w s.now s)

/-- CHOP_SHORT (R163): an overcurrent fault on the low side of the on state. -/
def chopShort (a : Axis) (w : Fin 2) (s : State) : State :=
  let low : Leg := if (s.cc a).w[w].chop.pos then legN w else legP w
  let s := s.raise (F.AX_CC_FLAG.CHOP_SHORT_EVT a)
  noteGates a (switchFault a (F.AX_GD_FLT.CHOP_SHORT a) 5 false (BitVec.ofNat 8 (2 ^ (2 * low.val + 1))) s)

/-- CHOP_BLANK_END: the blanking of an on state ends, with the samples the comparator has shown by then (R161, R163); a filtered
output already active counts toward CHOP_SHORT and ends the on state. -/
def chopBlankEnd (a : Axis) (w : Fin 2) (x : Samples) (s : State) : State :=
  let c := (s.cc a).w[w].chop
  if ¬ chopping s a ∨ c.phase ≠ .on ∨ c.watch then s
  else
    let s := (ocFeed a w x s).1
    let s := s.at_ (c.from_ + s.get (F.AX_CHOP.CHOP_BLANK a) * 80)
    let active := ocTripped s a w
    let n := if active then c.shorts + 1 else 0
    let s := modChop a w (fun x => { x with chop := { x.chop with watch := true, shorts := n } }) s
    if ¬ active then s
    else
      let s := if s.get (F.AX_CHOP.CHOP_SHORT_N a) ≤ n then
          modChop a w (fun x => { x with chop := { x.chop with shorts := 0 } }) (chopShort a w s) else s
      chopRelease a w true s

/-! ### Controller -/

/-- Full-scale current of the shunts in amperes (R149). -/
def iFS (cfg shunt : Word) : Rat :=
  (if getBits cfg 3 3 = 0 then (150 : Rat) else 300) * 10 / (getBits shunt 15 0 : Nat)

/-- A current of `c` ADC codes in amperes. -/
def ampsOf (cfg shunt : Word) (c : Int) : Rat := c * iFS cfg shunt / 32768

/-- The supply voltage of an axis (R155): the latest sample, at least 4.5 V. -/
def vmOf (s : State) (a : Axis) : Rat := max ((s.get (F.MS_VM.VALUE a) : Nat) * (625 : Rat) / 100000) (45 / 10)

/-- Backstop maximum duty. -/
def dMax (s : State) (a : Axis) : Rat := (s.get (F.BK_CFG.DUTY_MAX a) : Nat) / 1024

/-- The largest winding voltage (R155), by the modulation. -/
def uLim (s : State) (a : Axis) (cfg : Word) : Rat :=
  if getBits cfg 2 1 = 0 then vmOf s a * (2 * dMax s a - 1) else vmOf s a * dMax s a

/-- The update interval of a computation in 125 ps units (R154). -/
def tcOf (s : State) (a : Axis) (mid : Bool) : Nat :=
  let per := perOf s a
  if ¬ midUpd s a then per else if mid then per / 2 else per - per / 2

/-- A time of `t` 125 ps units in seconds. -/
def secs (t : Nat) : Rat := (t : Rat) / 8000000000

/-- The PI controller of one winding (R154): the variables after a computation, the current it used, and whether it
saturated. -/
def piStep (cfg gain motor shunt : Word) (tc uLim : Rat) (iref : Int) (w : WindSt) : WindSt × Rat × Bool :=
  let rW : Rat := (getBits motor 15 0 : Nat) / 1000
  let lW : Rat := (getBits motor 31 16 : Nat) / 1000000
  let kp : Rat := (getBits gain 15 0 : Nat) / 100
  let ki : Rat := (getBits gain 31 16 : Nat) * 10
  let en (b : Nat) : Rat := (getBits cfg b b : Nat)
  let ir := ampsOf cfg shunt iref
  let i := match w.sample with
    | some c => ampsOf cfg shunt c
    | none => w.iPrev + (w.uPrev - rW * w.iPrev - w.eObs) * tc / lW
  let err := ir - i
  let ff := en 6 * rW * ir + en 7 * lW * (ir - w.irefPrev) / tc + en 8 * w.eObs
  let try_ := w.integ + ki * err * tc
  let u := kp * err + try_ + ff
  let sat := decide (uLim < ratAbs u)
  let integ := if ¬ sat then try_ else if (0 ≤ err) = (0 ≤ u) ∧ err ≠ 0 then w.integ else try_
  let uOut := if sat then (if u < 0 then -uLim else uLim) else u
  ({ w with integ := max (-uLim) (min uLim integ), iPrev := i, irefPrev := ir, uPrev := uOut }, i, sat)

/-- The form a winding takes in a computation (R155, R157, R158): `true` for LOWCLAMP. -/
def lowClamp (s : State) (a : Axis) (cfg : Word) (was : Bool) (u : Rat) : Bool :=
  match getBits cfg 2 1 with
  | 0 => false
  | 1 => true
  | _ =>
    let per := perOf s a
    let on := ratAbs u / vmOf s a * (per : Nat)
    let tSamp : Nat := 2 * sampleWindow cfg
    if vmOf s a * (2 * dMax s a - 1) < ratAbs u then true
    else if was then decide ((tSamp : Rat) ≤ on) else decide ((tSamp : Rat) + (per : Nat) / 16 ≤ on)

/-- The minimum-pulse handling of one leg of an axis (R208): its edges, and the unit with the leg's carried time and
counts brought up to date. -/
def pulseLeg (a : Axis) (l : Leg) (centredMid mid : Bool) (h : Int) (s : State) : LegEdge × State :=
  let per := perOf s a
  let maxH : Int := s.get (F.BK_CFG.DUTY_MAX a) * per / 1024
  let clamp := natBit (s.get (F.AX_PWM_ACT.ACT a)) 28 || s.get (F.AX_CC_CFG.MODE a) == 1
  let o := minPulse per maxH (2000 + dlyR s a : Nat) (2000 + dlyF s a : Nat) clamp (s.pwm a).carry[l] h
  let s := s.modPwm a fun p => { p with carry := p.carry.set l o.carry }
  let s := (s.count (F.AX_PWM_CNT.MINP_DROP a) o.drop).count (F.AX_PWM_CNT.MINP_RAISE a) o.raised
  let e := if centredMid then edgesMid per o.h.toNat else edgesBound per o.h.toNat
  (if mid then joinHalf per centredMid (edgeOf s a l) e else e, s)

/-- A clamped leg is low for the interval and drops its carried time (R157, R211). -/
def clampLeg (a : Axis) (l : Leg) (s : State) : LegEdge × State :=
  ({ on := 0, off := 0, st := 1 }, s.modPwm a fun p => { p with carry := p.carry.set l 0 })

/-- The edges of the two legs of a winding for a voltage (R157, R159): `P` and `N`. -/
def windingEdges (a : Axis) (w : Fin 2) (lc mid : Bool) (u : Rat) (s : State) : LegEdge × LegEdge × State :=
  let per : Rat := (perOf s a : Nat)
  let vm := vmOf s a
  if lc then
    let h := ratRound (ratAbs u / vm * per)
    if 0 ≤ u then
      let p := pulseLeg a (legP w) true mid h s
      let n := clampLeg a (legN w) p.2
      (p.1, n.1, n.2)
    else
      let n := pulseLeg a (legN w) true mid h s
      let p := clampLeg a (legP w) n.2
      (p.1, n.1, p.2)
  else
    let h := ratRound ((1 / 2 + u / (2 * vm)) * per)
    let p := pulseLeg a (legP w) true mid h s
    let n := pulseLeg a (legN w) false mid (perOf s a - h) p.2
    (p.1, n.1, n.2)

/-! ### Samples and the start of a computation -/

/-- A control computation starts with the references, the position and the configuration of the present instant. -/
def startComp (a : Axis) (s : State) : State :=
  let m := s.mot a
  let en := s.flag (F.AX_STATE.ENERGISED a)
  let refs := if en then currentRefs s a m.pos (s.get (F.AX_CC_FLAG.SCALE_EFF a)) else (0, 0)
  let comp : Comp := {
    t0 := lastBoundary s a, mid := atPeriod s a, iref1 := refs.1, iref2 := refs.2, pos := m.pos, trav := (s.la a).trav, vel := m.vel,
    cfg := ccCfg s a, gain := BitVec.ofNat 32 (s.get (F.AX_CC_GAIN.all a)),
    motor := BitVec.ofNat 32 (s.get (F.AX_MOTOR.all a)), shunt := BitVec.ofNat 32 (s.get (F.AX_SHUNT.all a)),
    late := false, passed := false }
  let chop := s.get (F.AX_CC_CFG.MODE a) = 1
  let s := (s.setS (F.AX_IREF.IREF_W1 a) refs.1).setS (F.AX_IREF.IREF_W2 a) refs.2
  let s := if chop then s.each [(0 : Fin 2), 1] fun w s => chopCount a w s.now (chopMixed a w s.now s) else s
  s.modCc a fun c => { c with
    comp := some comp
    w := c.w.map fun w => { w with sample := none, vsLast := w.vs, vs := 0 } }

/-- SAMPLE_INSTANT: a control computation starts at the sample instant in hand (R38, R131, R147, R156). One still running from an
earlier instant runs on instead, and the next uses the samples of the next instant (R39). -/
def sampleInstant (a : Axis) (s : State) : State :=
  if ¬ s.axOn a ∨ ¬ (s.pwm a).sampleDue then s
  else
    let s := (s.modPwm a fun p => { p with sampleDue := false }).modCc a fun c => { c with compDue := true }
    if (s.cc a).comp.isSome then s.modCc a fun c => { c with comp := c.comp.map fun x => { x with passed := true } }
    else startComp a s

/-- A result register takes a new result (R290). -/
def putResult (value tag fresh : Fld) (v : Nat) (s : State) : State :=
  ((s.set value v).set tag (s.get tag + 1)).set fresh 1

/-- The mean of the `n` conversions of a sample, to the nearest code (R151, assumption log 117). -/
def adcMean (n : Nat) (codes : List Int) : Int := divRound (codes.take n).sum n

/-- The computation that takes the samples of the latest sample instant: one that still runs from an earlier instant leaves them to
the next (R39). -/
def ownComp (s : State) (a : Axis) : Option Comp :=
  match (s.cc a).comp with
  | some c => if c.passed then none else some c
  | none => none

/-- CURRENT_ADC_RESULT: a current ADC writes a result (R151, R152, R163, R286): under PI the mean of the conversions of a sample,
the first n of `codes`; under CHOP each conversion, the first of `codes`, is one. The computation that takes the sample judges it
with the `BLANK` it started with (R156). -/
def currentAdc (a : Axis) (w : Fin 2) (codes : List Int) (s : State) : State :=
  if ¬ s.axOn a then s
  else
    let code := adcMean (if s.get (F.AX_CC_CFG.MODE a) = 1 then 1 else oversample (ccCfg s a)) codes
    let put (v : Int) (us : Bool) (s : State) : State :=
      if w = 0 then
        (putResult (F.MS_CUR_W1.VALUE a) (F.MS_CUR_W1.TAG a) (F.MS_CUR_W1.FRESH a) (toBits 16 v) s).setB (F.MS_CUR_W1.USABLE a) us
      else
        (putResult (F.MS_CUR_W2.VALUE a) (F.MS_CUR_W2.TAG a) (F.MS_CUR_W2.FRESH a) (toBits 16 v) s).setB (F.MS_CUR_W2.USABLE a) us
    if s.get (F.AX_CC_CFG.MODE a) = 1 then
      let s := put code false s
      if s.get (F.BK_OC.OC_CODE a) * 32 < code.natAbs then overcurrent a w (noteGates a s) else s
    else
      let own := ownComp s a
      let cfg := match own with | some c => c.cfg | none => ccCfg s a
      let x := if atPeriod s a then 0 else perOf s a / 2
      let pre := (s.cc a).w[w].pre
      let usable := s.flag (F.AX_STATE.ENERGISED a) && pre != 0
        && decide (sampleWindow cfg ≤ (s.cc a).w[w].preRun) && activeSign s a w x (x + 160) == pre
      let v := if pre < 0 then -code else code
      let v := clampInt (-32768) 32767 v
      let s := put v usable s
      if own.isNone then s else modChop a w (fun x => { x with sample := if usable then some v else none }) s

end Sys2Proof.Machine
end

