-- ==== Sys2Proof/Machine/LoadAngle.lean ====
section
/-!
DEFINITION. The back-EMF observer, the load angle, stall detection and reactions, load-angle regulation and the
standstill probe (R169 to R192), and the control computation they end (R154).
-/

namespace Sys2Proof.Machine

/-! ### Observer -/

/-- π to fifteen digits (assumption log 41). -/
def piRat : Rat := 314159265358979 / 100000000000000

/-- A voltage in 10 mV units, to the nearest unit, ties away from zero, limited to 16 bits (assumption log 114). -/
def cV (u : Rat) : Int := clampInt (-32768) 32767 (ratRound (u * 100))

/-- One step of the observer's filter (R171), without effect for `EMF_TAU` = 0. -/
def emfFilter (tau tc : Nat) (y x : Rat) : Rat :=
  if tau = 0 then x else y + ((Config.emfCoef tau tc).toNat : Rat) / 4294967296 * (x - y)

/-- The number of legs of a winding that switch in the interval (R170); under CHOP one in SLOW and two otherwise (assumption
log 115). -/
def legsSwitched (s : State) (a : Axis) (w : Fin 2) : Nat :=
  if s.get (F.AX_CC_CFG.MODE a) = 1 then (if s.get (F.AX_CHOP.DECAY a) = 0 then 1 else 2)
  else
    let sw (l : Leg) : Nat := let e := edgeOf s a l; if e.st = 0 ∧ e.on ≠ e.off then 1 else 0
    sw (legP w) + sw (legN w)

/-- The raw estimate of one winding (R170): the current of this computation is `i`, the one before `i0`. -/
def rawEmf (s : State) (a : Axis) (w : Fin 2) (motor : Word) (tc : Nat) (vs : Int) (i i0 : Rat) : Rat :=
  let rW : Rat := (getBits motor 15 0 : Nat) / 1000
  let lW : Rat := (getBits motor 31 16 : Nat) / 1000000
  let vm := vmOf s a
  let sg : Rat := if 0 < i then 1 else if i < 0 then -1 else 0
  let dt : Rat := (s.get (F.AX_LA_CFG.DT_COMP a) * 80 : Nat) / (perOf s a : Nat)
  let uApp := (vs : Rat) / tc * vm - sg * (legsSwitched s a w : Nat) * 2 * vm * dt
  uApp - rW * (i + i0) / 2 - lW * (i - i0) / secs tc

/-- The filter's gain correction at the commanded electrical frequency (R171): √(1 + (ωτ)²), to 10^-6. -/
def gainCorr (tau : Nat) (vel : Int) : Rat :=
  if tau = 0 then 1
  else
    let w : Rat := 2 * piRat * (vel.natAbs : Nat) / 4294967296 / 1024 * ((tau : Rat) / 100000)
    (ratSqrt ((1 + w * w) * 1000000000000) : Nat) / 1000000

/-- The estimate of a computation is valid (R175). -/
def emfValid (s : State) (a : Axis) (c : Comp) (mag : Nat) (f1 f2 : Rat) : Bool :=
  let cc := s.cc a
  let iMin := iFS c.cfg c.shunt / 64
  s.flag (F.AX_STATE.ENERGISED a) && (s.mot a).energiseEnd.isNone && c.vel != 0
    && decide (s.get (F.AX_LA_LIM.EMF_MIN a) * 1000 ≤ mag) && decide (iMin * iMin ≤ f1 * f1 + f2 * f2)
    && (getBits c.cfg 0 0 == 1 || (decide (cc.w[0].skipRun < 8) && decide (cc.w[1].skipRun < 8)))
    && decide (cc.energAt + 5 * s.get (F.AX_LA_CFG.EMF_TAU a) * 10 * usT ≤ c.t0)

/-- The load angle (R173) from the filtered current and the back-EMF, in 10^-6 degrees. -/
def loadAngle (rev : Bool) (vel : Int) (f1 f2 e1 e2 : Rat) : Int :=
  let fwd := (decide (0 < vel)) != rev
  let d := elecAngle e1 e2 - elecAngle f1 f2
  wrapDeg (90000000 - wrapDeg (if fwd then d else -d))

/-! ### Stall criteria -/

/-- The commanded travel from `p0` to `p` covers `n` µsteps. -/
def travelled (p0 p : Nat) (n : Nat) : Bool := decide (p0 + n * 65536 ≤ p)

/-- Stalls may be declared on the axis (R179). -/
def stallWatch (s : State) (a : Axis) : Bool :=
  s.flag (F.AX_LA_CFG.STALL_EN a) && s.flag (F.AX_STATE.ENERGISED a) && (s.mot a).energiseEnd.isNone && (s.ax a).probe.isNone

/-- A stall is declared, at most once in an electrical period (R179); during a boost only a stall by collapse counts
(R183). -/
def declareStall (a : Axis) (p : Nat) (collapse : Bool) (s : State) : State :=
  let l := s.la a
  let again : Bool := match l.lastStall with | some q => travelled q p 1024 | none => true
  if !again || (l.boostEnd.isSome && !collapse) then s
  else s.modLa a fun l => { l with
    lastStall := some p
    stallDue := some (collapse || l.stallDue == some true)
    noReact := l.noReact && (l.stallDue.isSome || l.fallDue) }

/-- The angle criterion (R177). -/
def angleStall (a : Axis) (c : Comp) (valid : Bool) (delta : Int) (s : State) : State :=
  if ¬ (valid ∧ s.get (F.AX_LA_THR.LA_STALL a) * 100000 ≤ delta.natAbs) then s.modLa a fun l => { l with stallFrom := none }
  else
    let from_ := (s.la a).stallFrom.getD c.trav
    let s := s.modLa a fun l => { l with stallFrom := some from_ }
    if stallWatch s a ∧ travelled from_ c.trav (s.get (F.AX_LA_CFG.STALL_N a) * 1024) then declareStall a c.trav false s else s

/-- The mean of a list of numbers, 0 for none. -/
def ratMean (l : List Rat) : Rat := if l = [] then 0 else l.sum / (l.length : Nat)

/-- The collapse criterion (R178): flux ratios are |e|/|v|, whose constant factor cancels. DESIGN CHOICE (assumption log 130): the
reference is the mean per computation over the travel, without weights and without the present computation. -/
def collapseStall (a : Axis) (c : Comp) (valid : Bool) (mag : Nat) (s : State) : State :=
  if c.vel = 0 then s.modLa a fun l => { l with psi := [] }
  else
    let v : Rat := (c.vel.natAbs : Nat)
    let psi : Rat := (mag : Nat) / v
    let hist := (s.la a).psi
    let full := hist.any fun e => travelled e.1 c.trav 1024
    let ref := ratMean (hist.map (·.2))
    let hit := full && decide (psi * 16 < ref * (s.get (F.AX_LA_CFG.COLLAPSE a) : Nat))
      && decide ((2 * s.get (F.AX_LA_LIM.EMF_MIN a) * 1000 : Nat) ≤ ref * v)
    let keep := hist.takeWhile fun e => !travelled e.1 c.trav 1024
    let past := (hist.dropWhile fun e => !travelled e.1 c.trav 1024).take 1
    let s := s.modLa a fun l => { l with psi := if valid then (c.trav, psi) :: keep ++ past else [] }
    if hit ∧ stallWatch s a ∧ s.flag (F.AX_LA_CFG.COLLAPSE_EN a) then declareStall a c.trav true s else s

/-! ### Boost -/

/-- The boost ends: `BOOST_ACT` clears. -/
def endBoost (a : Axis) (s : State) : State :=
  (s.set (F.AX_LA_STAT.BOOST_ACT a) 0).modLa a fun l => { l with boostEnd := none, recFrom := none }

/-- A boost fails (R182): the fallback reaction applies at the next boundary. -/
def failBoost (a : Axis) (s : State) : State :=
  ((endBoost a s).raise (F.AX_LA_STAT.BOOST_FAILED a)).modLa a fun l => { l with fallDue := true }

/-- The recovery of a running boost in a computation (R182). -/
def boostStep (a : Axis) (c : Comp) (valid : Bool) (delta : Int) (s : State) : State :=
  if (s.la a).boostEnd.isNone then s
  else if valid ∧ 120000000 ≤ delta.natAbs then failBoost a s
  else if valid ∧ delta.natAbs < s.get (F.AX_LA_THR.LA_RECOVER a) * 100000 then
    let from_ := (s.la a).recFrom.getD c.trav
    if travelled from_ c.trav 1024 then
      ((endBoost a s).raise (F.AX_LA_STAT.STALL_RECOVERED a)).inc (F.AX_LA_CNT.RECOVER_CNT a)
    else s.modLa a fun l => { l with recFrom := some from_ }
  else s.modLa a fun l => { l with recFrom := none }

/-- BOOST_TIMEOUT: `BOOST_TIME` elapses without recovery (R182). -/
def boostTimeout (a : Axis) (s : State) : State :=
  match (s.la a).boostEnd with
  | none => s
  | some e => failBoost a (s.at_ e)

/-! ### Regulation -/

/-- The regulator of R186 in a computation of `tc` units. DESIGN CHOICE (assumption log 131): its output keeps its fraction inside and
is rounded to the nearest unit for `ECO_SCALE` and the target scale. -/
def ecoStep (a : Axis) (valid : Bool) (delta : Int) (tc : Nat) (s : State) : State :=
  if ¬ s.flag (F.AX_LA_STAT.ECO_ACT a) then s
  else
    let run : Rat := (s.get (F.AX_ISCALE.RUN a) : Nat)
    let hold : Rat := (s.get (F.AX_IHOLD.HOLD a) : Nat)
    let d : Nat := delta.natAbs
    let st := s.get (F.AX_LA_THR.LA_STALL a)
    let tg := s.get (F.AX_LA_THR.LA_TARGET a)
    let e :=
      if ¬ valid then run
      else if (st + tg) * 50000 ≤ d then run
      else (s.la a).eco + (s.get (F.AX_LA_ECO.ECO_GAIN a) : Nat) / 16 * (((d : Rat) - (tg * 100000 : Nat)) / 1000000)
        * (secs tc * 1000)
    let e := max hold (min run e)
    (s.modLa a fun l => { l with eco := e }).set (F.AX_LA_STAT.ECO_SCALE a) (clampNat 0 4095 (ratRound e).toNat)

/-! ### Probe -/

/-- The pulse time of a probe in 125 ps units (R189): the whole number of PWM periods nearest to an eighth of the probe
period, at least one. -/
def probePulse (s : State) (a : Axis) : Nat :=
  let per := perOf s a
  let eighth : Nat := tps / (s.get (F.AX_PROBE_CFG.PROBE_FREQ a) * 100 * 8)
  max 1 (divRound (eighth : Nat) per).toNat * per

/-- The probe period in 125 ps units. -/
def probePeriod (s : State) (a : Axis) : Nat := tps / (s.get (F.AX_PROBE_CFG.PROBE_FREQ a) * 100)

/-- The pulse voltage (R189): `PROBE_V`, limited to the supply and the Backstop maximum duty. -/
def probeVolts (s : State) (a : Axis) : Rat :=
  min ((s.get (F.AX_PROBE_CFG.PROBE_V a) : Nat) / 2) (uLim s a (ccCfg s a))

/-- The voltage a running probe adds to a winding at instant `t` (R189): along θc + α, then opposite. DESIGN CHOICE (assumption log
132): θc is cut to a whole µstep and its components come from the sine of R134, not from the axis's table. -/
def probeAdd (s : State) (a : Axis) (w : Fin 2) (t : Nat) : Rat :=
  match (s.ax a).probe with
  | none => 0
  | some p =>
    if p.n = 0 then 0
    else
      let tp := probePulse s a
      let k := (elecPos s a (s.mot a).pos / 65536 % 1024).toNat + 128 * ((p.n - 1) % 4) + 256 * w.val
      let v := probeVolts s a * sineEntry k / 32767
      if t < p.at_ then 0 else if t < p.at_ + tp then v else if t < p.at_ + 2 * tp then -v else 0

/-- The conditions of a burst (R188); READY, RUN or MAINT. -/
def probeReady (s : State) (a : Axis) : Bool :=
  s.axOn a && atStandstill s a && (s.mot a).cutQueue.isEmpty && scaleRule s a == 3 && (s.mot a).energiseEnd.isNone && s.get (F.AX_CC_CFG.MODE a) == 0
    && (s.mode == 3 || s.mode == 4 || s.mode == 5) && (s.ax a).probe.isNone

/-- A burst begins (R188). -/
def probeStart (a : Axis) (ticket : Option (BitVec 8)) (s : State) : State :=
  (s.set (F.AX_PROBE_SET.PROBE_ACT a) 1).modAx a fun x => { x with
    probe := some { ticket := ticket, n := 0, at_ := s.now, sums := Vector.replicate 4 0, counts := Vector.replicate 4 0, bad := false } }

/-- The intervals of `PROBE_EVERY` begin when `PROBE_AUTO` becomes 1, and end with it (R188). -/
def probeTimer (a : Axis) (s : State) : State :=
  s.modAx a fun x => { x with
    probeAt := if s.flag (F.AX_PROBE_CFG.PROBE_AUTO a) then some (x.probeAt.getD s.now) else none }

/-- PROBE_AUTO: the present interval of `PROBE_EVERY` ends and the next begins; a burst starts if its conditions hold (R188). -/
def probeAuto (a : Axis) (s : State) : State :=
  match (s.ax a).probeAt with
  | none => s
  | some t0 =>
    let t := t0 + s.get (F.AX_PROBE_SET.PROBE_EVERY a) * 100 * msT
    let s := (s.at_ t).modAx a fun x => { x with probeAt := some t }
    if probeReady s a then probeStart a none s else s

/-- The inductance a pulse measured, from the current change `di` in ADC codes: V·tp/Δi (R189); a pulse without a change
gives none. -/
def probeTake (s : State) (a : Axis) (di : Int) (p : ProbeSt) : ProbeSt :=
  if p.n = 0 then p
  else if di ≤ 0 then { p with bad := true }
  else
    let k : Fin 4 := ⟨(p.n - 1) % 4, by omega⟩
    let l := probeVolts s a * secs (probePulse s a) / ampsOf (ccCfg s a) (BitVec.ofNat 32 (s.get (F.AX_SHUNT.all a))) di
    { p with sums := p.sums.set k (p.sums[k] + l), counts := p.counts.set k (p.counts[k] + 1) }

/-- PROBE_PERIOD: a probe period begins and its pulse pair is added (R189); `di` is the change measured across the pair
before it. -/
def probeStep (a : Axis) (di : Int) (s : State) : State :=
  match (s.ax a).probe with
  | none => s
  | some p =>
    if s.get (F.AX_PROBE_CFG.PROBE_CYC a) * 4 ≤ p.n then s
    else
      let t := if p.n = 0 then p.at_ else p.at_ + probePeriod s a
      let q := probeTake s a di p
      (s.at_ t).modAx a fun x => { x with probe := some { q with n := p.n + 1, at_ := t } }

/-- The results of a burst (R190), when every direction measured an inductance. DESIGN CHOICE (assumption log 133): both are rounded
to the units of their fields before they are tested against 5 % and `PROBE_LIMIT`. -/
def probeResults (a : Axis) (p : ProbeSt) (s : State) : State :=
  let l (k : Fin 4) : Rat := p.sums[k] / (p.counts[k] : Nat)
  let l0 := (l 0 + l 1 + l 2 + l 3) / 4
  let c2 := (l 0 - l 2) / 2
  let s2 := (l 1 - l 3) / 2
  let sal := (ratSqrt ((c2 * c2 + s2 * s2) / (l0 * l0) * 1000000) : Nat)
  let eps := divRound (elecAngle s2 c2) 200000
  let s := s.set (F.AX_PROBE_RES.PROBE_SAL a) (min 4095 sal)
  if sal < 50 then (s.set (F.AX_PROBE_RES.PROBE_DISP a) 0x7FFF).raise (F.AX_PROBE_RES.PROBE_UNAVAILABLE a)
  else
    let s := s.setS (F.AX_PROBE_RES.PROBE_DISP a) eps
    if s.get (F.AX_PROBE_SET.PROBE_LIMIT a) < eps.natAbs then s.raise (F.AX_PROBE_RES.PROBE_DISP_HIGH a) else s

/-- The end of a burst clears `PROBE_ACT`; current control resumes from zero state (R191). -/
def probeClear (a : Axis) (s : State) : State :=
  ((s.set (F.AX_PROBE_SET.PROBE_ACT a) 0).modAx a fun x => { x with probe := none }).modCc a fun c =>
    { c with w := c.w.map WindSt.rest }

/-- PROBE_DONE: the burst ends and its results are written (R190). A direction without a measured change leaves the two
results open: they are free values. -/
def probeDone (a : Axis) (di : Int) (s : State) : State :=
  match (s.ax a).probe with
  | none => s
  | some p0 =>
    if p0.n < s.get (F.AX_PROBE_CFG.PROBE_CYC a) * 4 then s
    else
      let p := probeTake s a di p0
      let s := probeClear a (s.at_ (p0.at_ + probePeriod s a))
      let s := s.raise (F.AX_PROBE_RES.PROBE_DONE a)
      if p.bad ∨ p.counts.toList.any (· == 0) then
        let r := s.free
        (r.2.set (F.AX_PROBE_RES.PROBE_DISP a) (r.1.toNat % 65536)).set (F.AX_PROBE_RES.PROBE_SAL a) (r.1.toNat / 65536)
      else probeResults a p s

/-- A burst is abandoned at a half-period boundary (R191). -/
def probeAbort (a : Axis) (s : State) : State :=
  if (s.ax a).probe.isNone then s else (probeClear a s).raise (F.AX_PROBE_RES.PROBE_ABORT a)

/-- The conditions under which a running burst is abandoned hold (R191); `table` says that a wave-table change has just
reached the axis. -/
def probeBroken (s : State) (a : Axis) (table : Bool) : Bool :=
  (s.ax a).probe.isSome && (table || !atStandstill s a || !(s.mot a).cutQueue.isEmpty || scaleRule s a != 3)

/-! ### The computation -/

/-- The controller of both windings under PI (R154, R158) and the edges it stages. -/
def piCompute (a : Axis) (c : Comp) (s : State) : State :=
  let tc := tcOf s a c.mid
  let lim := uLim s a c.cfg
  let probing := (s.ax a).probe.isSome
  let was1 := !(s.cc a).first && s.flag (F.AX_CC_FLAG.MOD_LC_W1 a)
  let was2 := !(s.cc a).first && s.flag (F.AX_CC_FLAG.MOD_LC_W2 a)
  let w1 := (s.cc a).w[0]
  let w2 := (s.cc a).w[1]
  let r1 := piStep c.cfg c.gain c.motor c.shunt (secs tc) lim c.iref1 w1
  let r2 := piStep c.cfg c.gain c.motor c.shunt (secs tc) lim c.iref2 w2
  let rW : Rat := (getBits c.motor 15 0 : Nat) / 1000
  let pv (w : Fin 2) (i : Int) : Rat := max (-lim) (min lim (rW * ampsOf c.cfg c.shunt i + probeAdd s a w s.now))
  let u1 := if probing then pv 0 c.iref1 else r1.1.uPrev
  let u2 := if probing then pv 1 c.iref2 else r2.1.uPrev
  let nsat := if probing then 0 else bitOf r1.2.2 + bitOf r2.2.2
  let lc1 := lowClamp s a c.cfg was1 u1
  let lc2 := lowClamp s a c.cfg was2 u2
  let x1 := if probing then { w1 with uPrev := u1, iPrev := r1.2.1 } else r1.1
  let x2 := if probing then { w2 with uPrev := u2, iPrev := r2.2.1 } else r2.1
  let s := s.modCc a fun cc => { cc with first := false, w := (cc.w.set 0 x1).set 1 x2 }
  let s := if nsat = 0 then s else (s.count (F.AX_CC_STAT.SAT a) nsat).raise (F.AX_CC_FLAG.CC_SAT a)
  let s := (s.setS (F.AX_VCMD.VCMD_W1 a) (cV u1)).setS (F.AX_VCMD.VCMD_W2 a) (cV u2)
  if c.late then s
  else
    let s := (s.setB (F.AX_CC_FLAG.MOD_LC_W1 a) lc1).setB (F.AX_CC_FLAG.MOD_LC_W2 a) lc2
    let e1 := windingEdges a 0 lc1 c.mid u1 s
    let e2 := windingEdges a 1 lc2 c.mid u2 e1.2.2
    let st : Vector LegEdge 4 := #v[e1.1, e1.2.1, e2.1, e2.2.1]
    e2.2.2.modPwm a fun p => { p with staged := some st }

/-- The edges of an axis whose bridge is not energised (R195): LOW on all legs under the policy SHORT, else HIZ. -/
def idleCompute (a : Axis) (c : Comp) (s : State) : State :=
  let st := if s.policyNow a = some 2 ∧ s.axState a ≠ 0 ∧ s.axState a ≠ 6 then 1 else 3
  let s := (s.set (F.AX_VCMD.VCMD_W1 a) 0).set (F.AX_VCMD.VCMD_W2 a) 0
  if c.late then s
  else s.modPwm a fun p => { p with staged := some (Vector.replicate 4 { on := 0, off := 0, st := st }) }

/-- A computation under CHOP (R164): the applied voltage takes the place of u. The observer's current is the latest conversion
with the sign of the phase, 0 while the winding carries it above the shunt (assumption log 115). -/
def chopCompute (a : Axis) (c : Comp) (s : State) : State :=
  let tc : Rat := (tcOf s a c.mid : Nat)
  let w1 := (s.cc a).w[0]
  let w2 := (s.cc a).w[1]
  let u1 := (w1.vsLast : Rat) / tc * vmOf s a
  let u2 := (w2.vsLast : Rat) / tc * vmOf s a
  let cur (w : Fin 2) : Rat := ampsOf c.cfg c.shunt ((s.cc a).w[w].chop.sign *
    (if w = 0 then s.getS (F.MS_CUR_W1.VALUE a) else s.getS (F.MS_CUR_W2.VALUE a)))
  let s := s.modCc a fun cc => { cc with
    first := false
    w := (cc.w.set 0 { w1 with uPrev := u1, iPrev := cur 0 }).set 1 { w2 with uPrev := u2, iPrev := cur 1 } }
  (s.setS (F.AX_VCMD.VCMD_W1 a) (cV u1)).setS (F.AX_VCMD.VCMD_W2 a) (cV u2)

/-- Unusable samples of a computation are counted (R153). DESIGN CHOICE (assumption log 128): `CC_BLIND` is set by the eighth
unusable sample of a run, and not again by later ones of the same run once the host has cleared it. -/
def countSkips (a : Axis) (s : State) : State :=
  let step (w : Fin 2) (s : State) : State :=
    let x := (s.cc a).w[w]
    match x.sample with
    | some _ => modChop a w (fun x => { x with skipRun := 0 }) s
    | none =>
      let s := (modChop a w (fun x => { x with skipRun := x.skipRun + 1 }) s).inc (F.AX_CC_STAT.SAMPLE_SKIP a)
      if x.skipRun + 1 = 8 then s.raise (F.AX_CC_FLAG.CC_BLIND a) else s
  step 1 (step 0 s)

/-- The observer after the controller (R169 to R178, R182, R186): `i1`, `i2` are the currents before this computation. DESIGN CHOICE
(assumption log 134): `EMF_MAG` and `AX_EMF` take the nearest 10 mV, saturated. -/
def observe (a : Axis) (c : Comp) (i1 i2 : Rat) (s : State) : State :=
  let tc := tcOf s a c.mid
  let tau := s.get (F.AX_LA_CFG.EMF_TAU a)
  let w1 := (s.cc a).w[0]
  let w2 := (s.cc a).w[1]
  let f1 := emfFilter tau tc w1.fI w1.iPrev
  let f2 := emfFilter tau tc w2.fI w2.iPrev
  let q1 := emfFilter tau tc w1.fE (rawEmf s a 0 c.motor tc w1.vsLast w1.iPrev i1)
  let q2 := emfFilter tau tc w2.fE (rawEmf s a 1 c.motor tc w2.vsLast w2.iPrev i2)
  let g := gainCorr tau c.vel
  let e1 := q1 * g
  let e2 := q2 * g
  let mag := ratSqrt ((e1 * e1 + e2 * e2) * 1000000000000)
  let valid := emfValid s a c mag f1 f2
  let delta := loadAngle (s.flag (F.AX_WAVE.REVERSE a)) c.vel f1 f2 e1 e2
  let s := s.modCc a fun cc => { cc with
    w := (cc.w.set 0 { w1 with fI := f1, fE := q1, eObs := if valid then e1 else 0 }).set 1
      { w2 with fI := f2, fE := q2, eObs := if valid then e2 else 0 } }
  let s := s.modLa a fun l => { l with delta := delta, mag := mag }
  let s := (s.setS (F.AX_EMF.EMF_W1 a) (cV e1)).setS (F.AX_EMF.EMF_W2 a) (cV e2)
  let s := s.set (F.AX_LA.EMF_MAG a) (min 65535 (divRound (mag : Nat) 10000).toNat)
  let s := if valid then s.setS (F.AX_LA.LA_DEG a) (divRound delta 100000) else s.set (F.AX_LA.LA_DEG a) 0x7FFF
  let s := s.setB (F.AX_LA_STAT.LA_VALID a) valid
  let s := collapseStall a c valid mag (angleStall a c valid delta s)
  ecoStep a valid delta tc (boostStep a c valid delta s)

/-- COMPUTATION_DONE: the controller and the observer complete and deliver edge values for the update point (R154); those
of a late computation are discarded, its controller state is kept (R39, R212). -/
def computationDone (a : Axis) (s : State) : State :=
  match (s.cc a).comp with
  | none => s
  | some c =>
    let i1 := (s.cc a).w[0].iPrev
    let i2 := (s.cc a).w[1].iPrev
    let s := s.modCc a fun cc => { cc with comp := none, compDue := cc.compDue && c.late }
    if ¬ s.flag (F.AX_STATE.ENERGISED a) then observe a c i1 i2 (idleCompute a c s)
    else if getBits c.cfg 0 0 = 1 then observe a c i1 i2 (chopCompute a c s)
    else observe a c i1 i2 (piCompute a c (countSkips a s))

/-! ### Stall reactions -/

/-- A stall whose reaction is not a recovered BOOST (R184, R185): the position is uncertain, or, with an authoritative
encoder, the axis resynchronises at its next standstill. -/
def markUncertain (a : Axis) (s : State) : State :=
  if s.flag (F.AX_LA_CFG.ENC_AUTH a) then s.modLa a fun l => { l with resyncDue := true }
  else s.set (F.AX_LA_STAT.POSITION_UNCERTAIN a) 1

/-- The stop of STOP_HOLD and STOP_FREE (R180, R181, R183), as for a Backstop clamp: a pending cut is discarded (R88), segments that
have not started are dropped and counted, and a follower leaves also from velocity zero. -/
def stallStop (a : Axis) (free : Bool) (t : Nat) (s : State) : State :=
  let s := discardCut a (markUncertain a (s.modMot a fun m => { m with stallHold := some free }))
  let m := s.mot a
  let begun := m.queue.filter fun g => g.start * nsT ≤ t
  let s :=
    if m.brake.isSome then s
    else if s.src a ≠ 0 ∧ (fstate s a = 2 ∨ fstate s a = 3) then followBrake a .stall t t s
    else if m.vel = 0 ∧ begun = [] then
      let s := (countCut m.queue.length s).modMot a fun m => { m with recordDue := some t, stopGoal := none }
      discardWindow a (if m.queue = [] then s else reachStandstill a t .stop s)
    else
      let first := match m.queue with
        | g :: _ => if g.kind = .stop ∧ s.flag (F.AX_PLN_STAT.REMAIN_VALID a) then some m.resumeGoal else none
        | [] => none
      let s := countCut (m.queue.filter fun g => t < g.start * nsT).length s
      let s := startBrake a .stall t t { p := m.pos, v := m.vel, a := 0 } s
      match first with
      | some g => s.modMot a fun m => { m with stopGoal := some g }
      | none => s
  refreshEnergised a s

/-- The reaction chosen for a failed boost, or in place of one (R182). -/
def fallback (a : Axis) (t : Nat) (s : State) : State := stallStop a (s.flag (F.AX_LA_CFG.FALLBACK a)) t s

/-- The stall reaction at the boundary after a stall is declared (R180 to R183). One that another event has ended before it began
leaves the stall counted and the position uncertain. -/
def stallReaction (a : Axis) (t : Nat) (s : State) : State :=
  let ended := (s.la a).noReact
  let fall := (s.la a).fallDue
  let s := s.modLa a fun l => { l with fallDue := false, noReact := false }
  let s := if ¬ fall then s else if ended then markUncertain a s else fallback a t s
  match (s.la a).stallDue with
  | none => s
  | some collapse =>
    let s := s.modLa a fun l => { l with stallDue := none }
    let s := (s.raise (F.AX_LA_STAT.STALL a)).inc (F.AX_LA_CNT.STALL_CNT a)
    let s := if collapse then s.raise (F.AX_LA_STAT.STALL_BY_COLLAPSE a) else s
    let s := if natBit (s.get F.WH_AX_SEL.STL) a then raiseWhistle 5 a s else s
    if ended then markUncertain a s
    else if (s.la a).boostEnd.isSome then
      -- only a stall by collapse is declared during a boost, and it fails the boost
      fallback a t (((endBoost a s).raise (F.AX_LA_STAT.BOOST_FAILED a)))
    else
      match s.get (F.AX_LA_CFG.STALL_REACT a) with
      | 0 => markUncertain a s
      | 1 => stallStop a false t s
      | 2 => stallStop a true t s
      | _ =>
        if collapse ∨ s.get (F.AX_ISCALE.BOOST a) = 0 then fallback a t s
        else (s.set (F.AX_LA_STAT.BOOST_ACT a) 1).modLa a fun l => { l with
          boostEnd := some (t + s.get (F.AX_LA_LIM.BOOST_TIME a) * msT), recFrom := none }

/-- A boost ends when the axis stops or leaves motion for another reason, or a bridge fault holds its switches, and the position
is uncertain (R182, R183). -/
def boostLeave (a : Axis) (s : State) : State :=
  let st := s.axState a
  if (s.la a).boostEnd.isSome ∧ (st = 0 ∨ st = 1 ∨ st = 5 ∨ st = 6 ∨ s.get (F.AX_GD_FLT.SW_OFF a) ≠ 0) then markUncertain a (endBoost a s) else s

/-- The resynchronisation at a standstill after a stall (R89, R185); a follower is at standstill only when DISENGAGED. -/
def encResync (a : Axis) (s : State) : State :=
  if ¬ (s.la a).resyncDue ∨ ¬ atStandstill s a ∨ (s.src a ≠ 0 ∧ fstate s a ≠ 0) then s
  else
    let s := s.modLa a fun l => { l with resyncDue := false }
    if ¬ fbValid s a then s.set (F.AX_LA_STAT.POSITION_UNCERTAIN a) 1
    else
      let c0 := signedOf 48 (s.wide (F.AX_ENC_CREF_LO.CREF a) (F.AX_ENC_CREF_HI.CREF a))
      let p0 := signedOf 64 (s.wide (F.AX_ENC_PREF_LO.PREF a) (F.AX_ENC_PREF_HI.PREF a))
      let pe := divRound (p0 + (fbUnwrapped s a - c0) * s.getS (F.AX_ENC_SCALE.ENC_SCALE a)) 65536 * 65536
      let s := s.modMot a fun m => { m with
        pos := pe, target := pe, planEnd := { p := pe, v := 0, a := 0 }
        remain := if s.flag (F.AX_PLN_STAT.REMAIN_VALID a) then m.resumeGoal - pe else m.remain }
      s.raise (F.AX_LA_STAT.ENC_RESYNC a)

end Sys2Proof.Machine
end

