-- ==== Sys2Proof/Machine/Feedback.lean ====
section
/-!
DEFINITION. Position and speed feedback (R256 to R284) and the sampling of master channels (R108 to R112). Edge instants
are in 125 ps units; speeds in 1/16 count/s.
-/

namespace Sys2Proof.Machine

/-! ### Counting and speed -/

/-- The feedback mode of an axis (R256). -/
def fbMode (s : State) (a : Axis) : Nat := s.get (F.AX_FB_CFG.FB_MODE a)

/-- The direction of a count, reversed by `FB_INV`. -/
def fbSign (s : State) (a : Axis) (d : Int) : Int := if s.flag (F.AX_FB_CFG.FB_INV a) then -d else d

/-- The counters change by `n` counts (R261). -/
def fbCount (a : Axis) (n : Int) (s : State) : State :=
  let m : Int := revModulus s a
  let p : Int := (s.get (F.AX_FB_POS.POS a) : Int) + n
  (s.set (F.AX_FB_POS.POS a) (p % m).toNat).setS (F.AX_FB_REV.REV a) (s.getS (F.AX_FB_REV.REV a) + p / m)

/-- Counts may have been lost (R263). -/
def fbLost (a : Axis) (s : State) : State := s.raise (F.AX_FB_STAT.FB_LOST a)

/-- The speed of an axis at instant `t` (R282): in the period method it falls while no edge comes. -/
def fbSpeedAt (s : State) (a : Axis) (t : Nat) : Int :=
  let c := s.core a
  match c.lastT, c.lastP with
  | some l, some p =>
    if !s.flag (F.AX_FB_STAT.SPEED_METH a) && fbMode s a != 4 && decide (l + p < t) && c.speed != 0 then
      sgn c.speed * divRound (16 * tps : Nat) (t - l)
    else c.speed
  | _, _ => c.speed

/-- |speed| exceeds `num`/10 of `SPEED_X`. -/
def pastSpeedX (s : State) (a : Axis) (v : Int) (num : Nat) : Bool :=
  decide (s.get (F.AX_FB_SPD_X.SPEED_X a) * 16 * num < v.natAbs * 10)

/-- The speed at a counted edge at instant `t` that changed the count by `n` (R279 to R282). -/
def fbSpeedEdge (a : Axis) (n : Int) (t : Nat) (s : State) : State :=
  let c := s.core a
  let neg := decide (n < 0)
  let rev := match c.lastDir with | some d => d != neg | none => false
  let still := s.flag (F.AX_FB_STAT.STILL a)
  let cur := fbSpeedAt s a t
  let s := (s.setB (F.AX_FB_STAT.DIR a) neg).set (F.AX_FB_STAT.STILL a) 0
  let s := if rev then s.raise (F.AX_FB_STAT.DIR_CHG a) else s
  let slow := decide (c.speed.natAbs * 10 < s.get (F.AX_FB_SPD_X.SPEED_X a) * 16 * 9)
  let s := if rev || slow then s.set (F.AX_FB_STAT.SPEED_METH a) 0 else s
  let per := !s.flag (F.AX_FB_STAT.SPEED_METH a)
  let p := match c.lastT with | some l => t - l | none => 0
  let v : Int :=
    if still || c.lastT.isNone then 0
    else if rev then (if neg then -(cur.natAbs : Int) else cur.natAbs)
    else if per && p != 0 then divRound (n * (16 * tps : Nat)) p else c.speed
  let past := pastSpeedX s a v 10
  s.modCore a fun c => { c with
    speed := v
    lastT := some t
    lastP := if c.lastT.isNone || (rev && !still) then c.lastP else some p
    lastDir := some neg
    winFirst := c.winFirst.or (some t)
    winLast := some t
    winNet := if c.winFirst.isNone then 0 else c.winNet + n
    overX := c.overX || past }

/-- SPEED_WINDOW_END: a window of `SPEED_WIN` ends (R279) and the next begins, with the count method if the speed has exceeded
`SPEED_X` since the one before began (R280). -/
def speedWindowEnd (a : Axis) (s : State) : State :=
  if ¬ s.axOn a ∨ fbMode s a = 0 ∨ fbMode s a = 4 then s
  else
    let c := s.core a
    let t := c.winAt + s.get (F.AX_FB_SPD_CFG.SPEED_WIN a) * 10 * usT
    let s := s.at_ t
    let s :=
      if s.flag (F.AX_FB_STAT.SPEED_METH a) then
        match c.winFirst, c.winLast with
        | some t0, some t1 =>
          if t0 < t1 then s.modCore a fun c => { c with speed := divRound (c.winNet * (16 * tps : Nat)) (t1 - t0) }
          else s.set (F.AX_FB_STAT.SPEED_METH a) 0
        | _, _ => s.set (F.AX_FB_STAT.SPEED_METH a) 0
      else if c.overX then s.set (F.AX_FB_STAT.SPEED_METH a) 1 else s
    s.modCore a fun c => { c with winFirst := none, winLast := none, winNet := 0, winAt := t, overX := false }

/-- SPEED_TIMEOUT: `SPEED_TMO` has passed without a counted edge (R282). -/
def speedTimeout (a : Axis) (s : State) : State :=
  match (s.core a).lastT with
  | none => s
  | some l =>
    if s.flag (F.AX_FB_STAT.SPEED_METH a) ∨ fbMode s a = 0 ∨ fbMode s a = 4 then s
    else
      let s := s.at_ (l + s.get (F.AX_FB_SPD_CFG.SPEED_TMO a) * msT)
      (s.set (F.AX_FB_STAT.STILL a) 1).modCore a fun c => { c with speed := 0 }

/-- After a change of the decoder: channels fed by an axis whose position is not valid are stale (R111, R263). -/
def fbAfter (a : Axis) (s : State) : State :=
  if fbValid s a then s
  else s.each (List.finRange 4) fun c s =>
    if s.get (F.MCH_CFG.SRC c) = 1 ∧ s.get (F.MCH_CFG.AXIS c) = a.val then mchStale true c s else s

/-! ### Quadrature -/

/-- The index event of a count (R267 to R269) in direction `neg`. -/
def indexEvent (a : Axis) (neg : Bool) (s : State) : State :=
  let k := fbUnwrapped s a
  let s := (s.raise (F.AX_FB_STAT.IDX_EVT a)).set (F.AX_FB_IDX_POS.IDX_POS a) (s.get (F.AX_FB_POS.POS a))
  let rc := s.get (F.AX_FB_REV_COUNT.REV_COUNT a)
  let s := match (s.core a).lastIdx with
    | some (k0, d) =>
      if d != neg then s
      else
        let cnt := clampInt (-(2 ^ 31)) (2 ^ 31 - 1) (k - k0)
        let s := s.setS (F.AX_FB_IDX_CNT.IDX_CNT a) cnt
        let off := (cnt.natAbs : Int) - rc
        if rc ≠ 0 ∧ s.get (F.AX_FB_CFG.IDX_TOL a) < off.natAbs then fbLost a (s.raise (F.AX_FB_STAT.LINE_ERR a)) else s
    | none => s
  if s.flag (F.AX_FB_STAT.HOME_ARMED a) then
    let s := (s.set (F.AX_FB_POS.POS a) 0).set (F.AX_FB_REV.REV a) 0
    let s := ((s.set (F.AX_FB_STAT.FB_LOST a) 0).set (F.AX_FB_STAT.HOME_ARMED a) 0).raise (F.AX_FB_STAT.HOMED a)
    let s := mchZeroed a s
    s.modCore a fun c => { c with lastIdx := some (0, neg) }
  else s.modCore a fun c => { c with lastIdx := some (k, neg) }

/-- `FZ` is at its active level (R267). -/
def fzActive (s : State) (a : Axis) (fz : Bool) : Bool :=
  match s.get (F.AX_FB_CFG.IDX_MODE a) with | 1 => fz | 2 => !fz | _ => false

/-- Two instants lie less than `n` units apart. -/
def closer (n : Nat) (t : Nat) : Option Nat → Bool
  | none => false
  | some u => decide (t - u < n) && decide (u - t < n)

/-- A counted quadrature edge (R265, R267). -/
def quadCount (a : Axis) (n : Int) (t : Nat) (s : State) : State :=
  let s := fbSpeedEdge a n t (fbCount a n s)
  if fzActive s a (s.core a).fz ∧ ¬ (s.core a).idxDone then
    (indexEvent a (decide (n < 0)) s).modCore a fun c => { c with idxDone := true }
  else s

/-- The input an edge of QUAD_EDGE lies on: `FA` (0), `FB` (1), else `FZ` (2). -/
def quadInput (onA onB : Bool) : Fin 3 := if onA then 0 else if onB then 1 else 2

/-- The filter length of the inputs of a decoder (R257). -/
def fbFilter (s : State) (a : Axis) : Nat := filterLen (s.get (F.AX_FB_CFG.FB_FILT a))

/-- Two accepted edges of one input, the present one at instant `t`, lie too close together (R258). -/
def overrun (a : Axis) (last : Option Nat) (t : Nat) (s : State) : State :=
  if closer 320 t last then fbLost a (s.raise (F.AX_FB_STAT.OVERRUN a)) else s

/-- An edge of `FZ` in QUAD: its inactive level ends the pulse, whose successor may have an event of its own (R258, R267). -/
def indexEdge (a : Axis) (rising : Bool) (t : Nat) (s : State) : State :=
  (overrun a (s.core a).tZ t s).modCore a fun c =>
    { c with fz := rising, tZ := some t, idxDone := c.idxDone && fzActive s a rising }

/-- The accepted level of an input of a decoder, and the instant of its last accepted edge. -/
def FbCore.level (c : FbCore) (inp : Fin 3) : Bool := match inp with | 0 => c.fa | 1 => c.fb | 2 => c.fz
def FbCore.edgeAt (c : FbCore) (inp : Fin 3) : Option Nat := match inp with | 0 => c.tA | 1 => c.tB | 2 => c.tZ

/-- An input of a decoder takes a level. -/
def FbCore.take (c : FbCore) (inp : Fin 3) (high : Bool) : FbCore :=
  match inp with | 0 => { c with fa := high } | 1 => { c with fb := high } | 2 => { c with fz := high }

/-- An edge of `FA` (`inp` = 0) or `FB` in QUAD (R258, R265, R266): one less than 20 ns from an edge of the other, before it or after
it, counts nothing; the second of the two sets `QUAD_ERR`. -/
def trackEdge (a : Axis) (inp : Fin 3) (rising : Bool) (x : Joint) (s : State) : State :=
  let c := s.core a
  let isA := inp == 0
  let s := (overrun a (if isA then c.tA else c.tB) x.t s).modCore a fun c =>
    if isA then { c with fa := rising, tA := some x.t } else { c with fb := rising, tB := some x.t }
  if closer 160 x.t (if isA then c.tB else c.tA) then fbLost a (s.raise (F.AX_FB_STAT.QUAD_ERR a))
  else if x.next < 160 then s
  else
    let up := if isA then rising != c.fb else rising == c.fa
    quadCount a (fbSign s a (if up then 1 else -1)) x.t s

/-- QUAD_EDGE: a transition of `FA` (`inp` = 0), `FB` (1) or `FZ` (2) (R257, R258, R265 to R269). A level shorter than the filter is
ignored, and so is the return from it. -/
def quadEdge (a : Axis) (inp : Fin 3) (rising : Bool) (x : Joint) (s : State) : State :=
  if ¬ s.axOn a ∨ x.len < fbFilter s a ∨ rising = (s.core a).level inp then s
  else if fbMode s a ≠ 1 then s.modCore a fun c => c.take inp rising
  else fbAfter a (if inp = 2 then indexEdge a rising x.t s else trackEdge a inp rising x s)

/-! ### Hall signals -/

/-- The place of a valid Hall code in the positive sequence (R270). -/
def hallPlace (code : Nat) : Option Nat :=
  match code with | 1 => some 0 | 3 => some 1 | 2 => some 2 | 6 => some 3 | 4 => some 4 | 5 => some 5 | _ => none

/-- The input edges of a Hall change: `OVERRUN` for one that follows an edge of the same input too closely (R258). -/
def hallInputs (a : Axis) (code t : Nat) (s : State) : State :=
  let c := s.core a
  let na := natBit code 0
  let nb := natBit code 1
  let nz := natBit code 2
  let fast := (na != c.fa && closer 320 t c.tA) || (nb != c.fb && closer 320 t c.tB) || (nz != c.fz && closer 320 t c.tZ)
  let s := if fast then fbLost a (s.raise (F.AX_FB_STAT.OVERRUN a)) else s
  s.modCore a fun c => { c with
    fa := na
    fb := nb
    fz := nz
    tA := if na != c.fa then some t else c.tA
    tB := if nb != c.fb then some t else c.tB
    tZ := if nz != c.fz then some t else c.tZ }

/-- A new Hall state of code `code` is judged from the last valid one (R270 to R272). -/
def hallJudge (a : Axis) (code t : Nat) (s : State) : State :=
  match hallPlace (code % 8) with
  | none => (s.raise (F.AX_FB_STAT.HALL_INVALID a)).set (F.AX_FB_STAT.HALL_INV_ACT a) 1
  | some k =>
    let s := s.set (F.AX_FB_STAT.HALL_INV_ACT a) 0
    let old := (s.core a).hall
    let s := s.modCore a fun c => { c with hall := some k }
    let count (n : Int) (s : State) : State := fbSpeedEdge a (fbSign s a n) t (fbCount a (fbSign s a n) s)
    match old with
    | none => s
    | some k0 =>
      match (k + 6 - k0) % 6 with
      | 0 => s
      | 1 => count 1 s
      | 5 => count (-1) s
      | 2 => count 2 (s.raise (F.AX_FB_STAT.HALL_SKIP a))
      | 4 => count (-2) (s.raise (F.AX_FB_STAT.HALL_SKIP a))
      | _ => fbLost a (s.raise (F.AX_FB_STAT.HALL_SKIP a))

/-- The code of the filtered Hall levels. -/
def FbCore.code (c : FbCore) : Nat := bitOf c.fa + 2 * bitOf c.fb + 4 * bitOf c.fz

/-- HALL_TRANSITION: the Hall state becomes `code` = H3·4 + H2·2 + H1 (R257, R270 to R272). A level shorter than the filter is ignored,
and so is the return from it; a change that another one follows within less than 20 ns is judged with that one, from the state after
both (R270). -/
def hallTransition (a : Axis) (code : Nat) (x : Joint) (s : State) : State :=
  if ¬ s.axOn a ∨ x.len < fbFilter s a ∨ code % 8 = (s.core a).code then s
  else if fbMode s a ≠ 2 then s.modCore a fun c => { c with fa := natBit code 0, fb := natBit code 1, fz := natBit code 2 }
  else
    let s := hallInputs a code x.t s
    fbAfter a (if x.next < 160 then s else hallJudge a code x.t s)

/-! ### Toothed wheel -/

/-- The counter as it reads in the direction of counting (assumption log 43 for `FB_INV` = 1). -/
def wheelReads (s : State) (a : Axis) : Nat :=
  let m := revModulus s a
  let p := s.get (F.AX_FB_POS.POS a)
  if s.flag (F.AX_FB_CFG.FB_INV a) then (m - p) % m else p

/-- A counted wheel edge advances the counter by `n` positions (R273, R275, R276). -/
def wheelCount (a : Axis) (n : Nat) (t : Nat) (s : State) : State :=
  let k := fbSign s a n
  let r0 := s.get (F.AX_FB_REV.REV a)
  let s := fbCount a k s
  let s := if s.get (F.AX_FB_REV.REV a) = r0 then s else s.modCore a fun c => { c with missed := c.missed.map fun _ => true }
  fbSpeedEdge a k t s

/-- The count change at an accepted mark that opens the synchronisation (R273, R276, R279): up to tooth 0 of the next revolution
where the revolution counter is incremented, else one tooth, the counter being placed anew: DESIGN CHOICE (assumption log 141). -/
def wheelStep (s : State) (a : Axis) : Nat :=
  match (s.core a).missed with
  | some false => revModulus s a - wheelReads s a
  | _ => 1

/-- An edge that opens the synchronisation, or opens it again after a missed mark (R273, R276). -/
def wheelFirst (a : Axis) (extra : Bool) (t : Nat) (s : State) : State :=
  let again := (s.core a).missed
  let s := fbSpeedEdge a (fbSign s a (wheelStep s a)) t s
  let s := (s.set (F.AX_FB_POS.POS a) 0).set (F.AX_FB_STAT.WHEEL_SYNC a) 1
  let s := if again = some false then s.setS (F.AX_FB_REV.REV a) (s.getS (F.AX_FB_REV.REV a) + fbSign s a 1) else s
  s.modCore a fun c => { c with missed := none, zeroNext := extra, extra := false }

/-- An edge of the tooth train is the active one (R273). -/
def wheelActive (s : State) (a : Axis) (rising : Bool) : Bool := rising != s.flag (F.AX_FB_CFG.WHEEL_EDGE a)

/-- An accepted edge of the tooth train, active or not (R258). -/
def wheelInput (a : Axis) (rising : Bool) (t : Nat) (s : State) : State :=
  (overrun a (s.core a).tA t s).modCore a fun c => { c with fa := rising, tA := some t }

/-- WHEEL_EDGE: a transition of the tooth train (R257, R258, R273 to R276); only the active one counts. A level shorter than the
filter is ignored, and so is the return from it. -/
def wheelEdge (a : Axis) (e : Edge) (s : State) : State :=
  let rising := e.rising
  let t := e.t
  if ¬ s.axOn a ∨ fbMode s a ≠ 3 ∨ e.len < fbFilter s a ∨ rising = (s.core a).fa then s
  else if ¬ wheelActive s a rising then fbAfter a (wheelInput a rising t s)
  else
    let c := s.core a
    let s := wheelInput a rising t s
    let miss := s.get (F.AX_FB_WHEEL.MISS a)
    let teeth := s.get (F.AX_FB_WHEEL.TEETH a)
    let ratio := s.get (F.AX_FB_WHEEL.GAP_RATIO a)
    let gap := miss != 0
    let p := match c.lastT with | some l => t - l | none => 0
    let cand := match c.lastT, c.lastP with
      | some _, some pp => if gap then decide (ratio * pp < p * 10) else decide (p * ratio < pp * 10)
      | _, _ => false
    let reads := wheelReads s a
    let markAt := if gap then teeth - miss - 1 else teeth - 1
    let err (s : State) : State := fbLost a (s.raise (F.AX_FB_STAT.TOOTH_ERR a))
    let s :=
      if c.zeroNext then (fbSpeedEdge a (fbSign s a 1) t s).modCore a fun c => { c with zeroNext := false }
      else if ¬ s.flag (F.AX_FB_STAT.WHEEL_SYNC a) then
        (if cand then wheelFirst a (!gap) t s else wheelCount a 1 t s)
      else if cand then
        if gap then
          (if reads = markAt then wheelCount a (miss + 1) t s
           else wheelCount a (max 1 (match c.lastP with | some pp => (divRound p pp).toNat | none => 1)) t (err s))
        else if reads = markAt ∧ ¬ c.extra then s.modCore a fun c => { c with extra := true }
        else err s
      else if reads = markAt ∧ ¬ (¬ gap ∧ c.extra) then
        wheelCount a 1 t (((err s).set (F.AX_FB_STAT.WHEEL_SYNC a) 0).modCore a fun c => { c with missed := some false })
      else (wheelCount a 1 t s).modCore a fun c => { c with extra := false }
    fbAfter a s

/-! ### Serial sensors -/

/-- The value of a list of bits, the most significant first. -/
def bitsValue (l : List Bool) : Nat := l.foldl (fun n b => 2 * n + bitOf b) 0

/-- CRC-8 with polynomial 0x07 and initial value 0 (R277). -/
def crc8 (l : List Bool) : Nat :=
  l.foldl (fun c b =>
    let top := natBit c 7 != b
    let sh := c * 2 % 256
    if top then sh ^^^ 0x07 else sh) 0

/-- The number of check bits of a serial frame. -/
def serCheckBits (chk : Nat) : Nat := match chk with | 1 => 8 | 2 => 1 | _ => 0

/-- The position of a serial frame that passes its check (R277). -/
def serDecode (s : State) (a : Axis) (bits : List Bool) : Option Nat :=
  let len := s.get (F.AX_FB_SER.SER_LEN a)
  let chk := s.get (F.AX_FB_SER.SER_CHK a)
  let n := len - serCheckBits chk
  let body := bits.take n
  let tail := (bits.drop n).take (serCheckBits chk)
  let ok : Bool := match chk with
    | 1 => crc8 body == bitsValue tail
    | 2 => (body ++ tail).foldl (fun x b => x != b) false == false
    | _ => true
  if bits.length = len ∧ ok then some (bitsValue (body.drop (n - s.get (F.AX_FB_SER.SER_PBITS a)))) else none

/-- A good serial frame (R277, R280, R281); a reversal may pass through speed 0. -/
def serGoodFrame (a : Axis) (v : Nat) (t : Nat) (s : State) : State :=
  let m := revModulus s a
  let p := if s.flag (F.AX_FB_CFG.FB_INV a) then (m - v % m) % m else v % m
  let d0 : Int := (p : Int) - s.get (F.AX_FB_POS.POS a)
  let first := !(s.ax a).fb.serGood
  let wrap : Int := if first then 0 else if (m : Int) < 2 * d0 then -1 else if 2 * d0 < -(m : Int) then 1 else 0
  let d := d0 + wrap * m
  let s := (s.set (F.AX_FB_POS.POS a) p).setS (F.AX_FB_REV.REV a) (s.getS (F.AX_FB_REV.REV a) + wrap)
  let s := if ¬ first ∧ (m : Int) < 4 * (d.natAbs : Int) then fbLost a s else s
  let k := fbUnwrapped s a
  let old := (s.core a).speed
  let v : Int := match (s.ax a).fb.serLast with
    | some (t0, k0) => if t0 < t then divRound ((k - k0) * (16 * tps : Nat)) (t - t0) else old
    | none => 0
  let turned := match (s.core a).lastDir with | some neg => v ≠ 0 && neg != decide (v < 0) | none => false
  let s := if turned then s.raise (F.AX_FB_STAT.DIR_CHG a) else s
  let s := if d = 0 ∨ first then s else s.setB (F.AX_FB_STAT.DIR a) (decide (d < 0))
  let s := s.set (F.AX_FB_STAT.SER_ERR_ACT a) 0
  (s.modCore a fun c => { c with speed := v, lastDir := if v = 0 then c.lastDir else some (decide (v < 0)) }).modFb a fun f => { f with serGood := true, serLast := some (t, k) }

/-- SER_FRAME_DONE: a serial frame has been read with these bits, first clocked at `t` (R277); one that had not completed within
`SER_PERIOD` has had its error already and sets no position. -/
def serFrameDone (a : Axis) (bits : List Bool) (complete : Bool) (t : Nat) (s : State) : State :=
  if ¬ s.axOn a ∨ fbMode s a ≠ 4 then s
  else if (s.ax a).fb.serLate then s.modFb a fun f => { f with serLate := false }
  else
    let bad (s : State) : State := (s.raise (F.AX_FB_STAT.SER_ERR a)).set (F.AX_FB_STAT.SER_ERR_ACT a) 1
    let s := match (if complete then serDecode s a bits else none) with
      | some v => serGoodFrame a v t s
      | none => bad s
    fbAfter a s

/-! ### Mode and home -/

/-- The core of a decoder before its first edge, with its pin levels kept. -/
def FbCore.clear (c : FbCore) : FbCore :=
  { c with
    tA := none, tB := none, tZ := none, lastT := none, lastP := none, lastDir := none, speed := 0, winFirst := none,
    winLast := none, winNet := 0, overX := false, lastIdx := none, idxDone := false, hall := none, extra := false, zeroNext := false, missed := none }

/-- A master channel fed by this axis has a follower in WAITING, RAMP or ENGAGED (R260). -/
def fbFollowed (s : State) (a : Axis) : Bool :=
  (List.finRange 4).any fun c => s.get (F.MCH_CFG.SRC c) == 1 && s.get (F.MCH_CFG.AXIS c) == a.val
    && allAxes.any fun b => usesChan s c b

/-- The mode of a decoder changes (R260): from 0 to another mode the counters, the speed and every flag are cleared. -/
def fbModeSet (a : Axis) (mode : Nat) (s : State) : State :=
  let old := fbMode s a
  let s := s.set (F.AX_FB_CFG.FB_MODE a) mode
  let s := if old = 0 ∧ mode ≠ 0 then
      let s := ((s.set (F.AX_FB_POS.POS a) 0).set (F.AX_FB_REV.REV a) 0).set (F.AX_FB_STAT.all a) 0
      let s := mchZeroed a s
      let s := s.modCore a fun c => { c.clear with winAt := s.now, hall := if mode = 2 then hallPlace c.code else none }
      s.modFb a fun f => { f with serGood := false, serLast := none, serAt := none, serLate := false }
    else s
  fbAfter a s

/-- HOME_ARM (R269): refused with a busy status while a follower uses a channel fed by the axis. -/
def homeArm (a : Axis) (s : State) : State × Bool :=
  if fbFollowed s a then (s, false) else (s.set (F.AX_FB_STAT.HOME_ARMED a) 1, true)

/-- HOME_CANCEL (R269). -/
def homeCancel (a : Axis) (s : State) : State := s.set (F.AX_FB_STAT.HOME_ARMED a) 0

/-! ### Master channels -/

/-- The unwrapped count of a feedback source with the revolution counter extended to 48 bits by the channel, on over a time in which
the channel was stale (R108). -/
def mchExtend (s : State) (a : Axis) (x : MchSt) : Int × MchSt :=
  let r16 := BitVec.ofNat 16 (s.get (F.AX_FB_REV.REV a))
  let d := (r16 - x.rev16).toInt
  let e := x.revExt + d
  (e * (revModulus s a : Int) + (s.get (F.AX_FB_POS.POS a) : Int), { x with rev16 := r16, revExt := e })

/-- MCH_SAMPLE: a channel samples its source at the next multiple of 5,000 ns (R107, R108, R111, R264). -/
def mchSample (c : Fin 4) (s : State) : State :=
  let s := s.at_ (mchSampleAt s)
  let a := axisOf (s.get (F.MCH_CFG.AXIS c))
  match s.get (F.MCH_CFG.SRC c) with
  | 1 =>
    if ¬ s.axOn a ∨ ¬ fbValid s a then mchStale true c s
    else
      let x := mchExtend s a s.mch[c]
      mchFresh c (mchPush c s.now (x.1 * 65536) (s.modMch c fun _ => x.2))
  | 2 => if s.axOn a then mchFresh c (mchPush c s.now (s.mot a).pos s) else s
  | _ => s

/-- A subscribed sample arrives over the link, stamped with its stack time (R110). -/
def mchReceive (c : Fin 4) (t : Nat) (m : Int) (s : State) : State := mchFresh c (mchPush c t m s)

end Sys2Proof.Machine
end

