-- ==== Sys2Proof/Machine/Measure.lean ====
section
/-!
DEFINITION. Measurement, comparators and window monitors (R285 to R302).
-/

namespace Sys2Proof.Machine

/-! ### Converters -/

/-- The result register of a node of the voltage ADC of an axis (R287). -/
def nodeResult (a : Axis) (n : Fin 5) (code : Nat) (s : State) : State :=
  match n with
  | 0 => putResult (F.MS_VM.VALUE a) (F.MS_VM.TAG a) (F.MS_VM.FRESH a) code s
  | 1 => putResult (F.MS_SN_W1P.VALUE a) (F.MS_SN_W1P.TAG a) (F.MS_SN_W1P.FRESH a) code s
  | 2 => putResult (F.MS_SN_W1N.VALUE a) (F.MS_SN_W1N.TAG a) (F.MS_SN_W1N.FRESH a) code s
  | 3 => putResult (F.MS_SN_W2P.VALUE a) (F.MS_SN_W2P.TAG a) (F.MS_SN_W2P.FRESH a) code s
  | 4 => putResult (F.MS_SN_W2N.VALUE a) (F.MS_SN_W2N.TAG a) (F.MS_SN_W2N.FRESH a) code s

/-- The node is converted: `VMq` always, a switch node while its bit of `NODE_EN` is 1. -/
def nodeOn (s : State) (a : Axis) (n : Fin 5) : Bool := n == 0 || natBit (s.get (F.MS_VSEQ.NODE_EN a)) (n.val - 1)

/-- The first converted node from `n` on in the round robin, within `k` steps. -/
def nodeFrom (s : State) (a : Axis) : Nat → Fin 5 → Fin 5
  | 0, n => n
  | k + 1, n => if nodeOn s a n then n else nodeFrom s a k (n + 1)

/-- VOLTAGE_ADC_RESULT: the voltage ADC of an axis writes the result of its next node (R287). During an off-state diagnostic run
the device sets the order itself, and the node is a free value (assumption log 119). -/
def voltageAdc (a : Axis) (code : Nat) (s : State) : State :=
  if ¬ s.axOn a then s
  else if (s.gd a).diagRun.isSome then
    let f := s.free
    nodeResult a ⟨f.1.toNat % 5, by omega⟩ code f.2
  else
    let n := nodeFrom s a 5 s.ms.vNext[a]
    nodeResult a n code { s with ms := { s.ms with vNext := s.ms.vNext.set a (n + 1) } }

/-- The first enabled general input from `n` on, within `k` steps. -/
def ainFrom (s : State) : Nat → Fin 8 → Fin 8
  | 0, n => n
  | k + 1, n => if natBit (s.get F.MS_AIN_CFG.EN) n then n else ainFrom s k (n + 1)

/-- AIN_ADC_RESULT: the general ADC writes the result of its next enabled input (R288); with none enabled it is idle. -/
def ainAdc (code : Nat) (s : State) : State :=
  if s.get F.MS_AIN_CFG.EN = 0 ∨ ¬ s.pd 1 then s
  else
    let n := ainFrom s 8 s.ms.ainNext
    putResult (F.MS_AIN.VALUE n) (F.MS_AIN.TAG n) (F.MS_AIN.FRESH n) code { s with ms := { s.ms with ainNext := n + 1 } }

/-- The power domain of a temperature sensor is up: the quads, the control die, the Locker die. -/
def tempOn (s : State) (n : Fin 6) : Bool := if n.val < 4 then s.pd (3 + n.val) else if n.val = 4 then s.pd 1 else s.pd 7

/-- TEMP_RESULT: a temperature sensor writes a result in 1/16 °C and may enter or leave warning (R289). -/
def tempResult (n : Fin 6) (code : Int) (s : State) : State :=
  if ¬ tempOn s n then s
  else
    let s := putResult (F.MS_TEMP.VALUE n) (F.MS_TEMP.TAG n) (F.MS_TEMP.FRESH n) (toBits 16 code) s
    let w : Int := s.get F.MS_TEMP_CFG.TWARN * 16
    let warn := natBit (s.get F.MS_TEMP_STAT.TEMP_WARN) n
    if ¬ warn ∧ w ≤ code then
      (s.set F.MS_TEMP_STAT.TEMP_WARN (natSetBit (s.get F.MS_TEMP_STAT.TEMP_WARN) n true)).set
        F.MS_TEMP_STAT.TEMP_EVT (natSetBit (s.get F.MS_TEMP_STAT.TEMP_EVT) n true)
    else if warn ∧ code ≤ w - 32 then
      s.set F.MS_TEMP_STAT.TEMP_WARN (natSetBit (s.get F.MS_TEMP_STAT.TEMP_WARN) n false)
    else s

/-! ### Window monitors -/

/-- A state with one monitor's settling changed. -/
def State.modWm (s : State) (n : Fin 12) (f : WmSt → WmSt) : State :=
  { s with ms := { s.ms with wm := s.ms.wm.set n (f s.ms.wm[n]) } }

/-- A monitor starts at instant `t` unsettled, every output inactive, at its set thresholds (R298, R299). -/
def WmSt.start (t : Nat) : WmSt :=
  { decided := 0, act := 0, atRelease := 0, hold := Vector.replicate 3 0, since := Vector.replicate 3 t
    filt := Vector.replicate 3 FiltSt.reset }

/-- The monitor number of an `AIN` input and of a quad. -/
def ainMon (n : Fin 8) : Fin 12 := ⟨n.val, by omega⟩
def vmMon (q : Quad) : Fin 12 := ⟨8 + q.val, by omega⟩

/-- The set and release thresholds of a comparator of a monitor, as DAC codes (R294, R295). -/
def wmCodes (s : State) (n : Fin 12) (c : Fin 3) : Nat × Nat :=
  if n.val < 8 then
    let lo := s.get (F.MS_WM_THR.WM_LO n.val)
    let hi := s.get (F.MS_WM_THR.WM_HI n.val)
    let h := s.get (F.MS_WM_CFG.HYST n.val)
    if c = 0 then (lo, lo + h) else (hi, hi - h)
  else
    let q := n.val - 8
    match c with
    | 0 => (s.get (F.QD_VM_UV.UV_TRIP q), s.get (F.QD_VM_UV.UV_OFF q))
    | 1 => (s.get (F.QD_VM_THR.BRK_ON q), s.get (F.QD_VM_THR.BRK_OFF q))
    | 2 => (s.get (F.QD_VM_THR.OV_TRIP q), s.get (F.QD_VM_THR.BRK_ON q))

/-- The DAC code of a comparator of a monitor. -/
def wmDac (s : State) (n : Fin 12) (c : Fin 3) : Nat :=
  if (s.ms.wm[n]).atRelease.getLsbD c then (wmCodes s n c).2 else (wmCodes s n c).1

/-- The majority settings of a monitor, bits 15:0 of its configuration register (R296, R302). -/
def wmMaj (s : State) (n : Fin 12) : Word :=
  BitVec.ofNat 32 (if n.val < 8 then s.get (F.MS_WM_CFG.all n.val) else s.get (F.MS_VMWM_CFG.all (n.val - 8)))

/-- The dwell of an unsettled comparator at a threshold (R299): 2 µs and the majority window. -/
def wmDwell (s : State) (n : Fin 12) : Nat := 2 * usT + majTime (wmMaj s n) (majM (wmMaj s n))

/-- The comparators of a monitor whose DAC codes differ from those of the state before hold their outputs (R293). -/
def wmSettle (n : Fin 12) (before s : State) : State :=
  s.modWm n fun w => { w with
    hold := Vector.ofFn fun c : Fin 3 => if wmDac s n c = wmDac before n c then w.hold[c] else s.now + dacHold }

/-- A comparator of a monitor goes to its release or its set threshold. -/
def wmThreshold (n : Fin 12) (c : Fin 3) (rel : Bool) (s : State) : State :=
  let bit : BitVec 3 := BitVec.ofNat 3 (2 ^ c.val)
  wmSettle n s (s.modWm n fun w => { w with
    atRelease := if rel then w.atRelease ||| bit else w.atRelease &&& ~~~ bit
    since := w.since.set c s.now })

/-- The output of an `AIN` comparator changes (R295, R448). -/
def ainOutput (n : Fin 8) (high on : Bool) (s : State) : State :=
  let f := if high then F.MS_WM_STAT.ABOVE n else F.MS_WM_STAT.BELOW n
  let e := if high then F.MS_WM_STAT.ABOVE_EVT n else F.MS_WM_STAT.BELOW_EVT n
  if s.flag f = on then s
  else
    let s := s.setB f on
    if ¬ on then s
    else
      let s := s.raise e
      if natBit (s.get F.WH_MON_SEL.AIN) n then raiseWhistle 6 n s else s

/-- A comparator of a monitor is sampled (R296, R299): while its DAC settles it keeps its level (R293); a change of the filtered
output, active or not, acts through `f`. -/
def wmFeed (n : Fin 12) (c : Fin 3) (f : Bool → State → State) : List Bool → Nat → State → State
  | [], _, s => s
  | b :: l, t, s =>
    let s := s.at_ t
    let old := (s.ms.wm[n]).filt[c]
    let new := old.push (wmMaj s n) (s.ms.wm[n]).hold[c] t b
    let s := s.modWm n fun w => { w with filt := w.filt.set c new }
    wmFeed n c f l (t + sampleStep (wmMaj s n)) (if new.out = old.out then s else f new.out s)

/-- A decision of a comparator of a monitor, and the threshold it calls for (R294, R300). -/
def wmDecide (n : Fin 12) (c : Fin 3) (active : Bool) (s : State) : State :=
  let bit : BitVec 3 := BitVec.ofNat 3 (2 ^ c.val)
  wmThreshold n c active (s.modWm n fun w => { w with act := if active then w.act ||| bit else w.act &&& ~~~ bit })

/-- A decided comparator of an `AIN` monitor enters or leaves `BELOW` or `ABOVE` (R295). -/
def ainDecides (n : Fin 8) (high : Bool) (active : Bool) (s : State) : State :=
  let c : Fin 3 := if high then 1 else 0
  if (s.ms.wm[ainMon n]).decided.getLsbD c then ainOutput n high active (wmDecide (ainMon n) c active s) else s

/-- AIN_WM_TRIP: a comparator of an `AIN` monitor is sampled (R295). -/
def ainWmTrip (n : Fin 8) (high : Bool) (x : Samples) (s : State) : State :=
  if ¬ s.flag (F.MS_WM_CFG.WM_EN n) then s
  else wmFeed (ainMon n) (if high then 1 else 0) (ainDecides n high) x.raw x.t s

/-- A write of `WM_EN` (R295, R298): off, both outputs are inactive and the monitor is unsettled; on, it starts to
settle. -/
def wmEnable (n : Fin 8) (s : State) : State :=
  let s := s.modWm (ainMon n) fun _ => WmSt.start s.now
  ((s.set (F.MS_WM_STAT.BELOW n) 0).set (F.MS_WM_STAT.ABOVE n) 0).set (F.MS_WM_STAT.UNSETTLED n) 1

/-- What a decision of the `VMq` monitor of a quad does (R250 to R252): 0 UV, 1 BRK, 2 OV; while the monitor is unsettled the
latter two are taken as inactive (R253). -/
def vmActs (q : Quad) (c : Fin 3) (active : Bool) (s : State) : State :=
  match c with
  | 0 => if active then vmUvTrip q s else vmUvClear q s
  | 1 => if s.flag (F.QD_GD_STAT.VM_UNSETTLED q) then s else brakeDecision q active s
  | 2 => if s.flag (F.QD_GD_STAT.VM_UNSETTLED q) then s else if active then vmOvTrip q s else vmOvClear q s

/-- A decided comparator of the `VMq` monitor of a quad changes its decision (R294). -/
def vmDecides (q : Quad) (c : Fin 3) (active : Bool) (s : State) : State :=
  if (s.ms.wm[vmMon q]).decided.getLsbD c then vmActs q c active (wmDecide (vmMon q) c active s) else s

/-- A comparator of the `VMq` monitor of a quad is sampled (R294, R296). -/
def vmSamples (q : Quad) (c : Fin 3) (x : Samples) (s : State) : State :=
  if s.pd (3 + q.val) then wmFeed (vmMon q) c (vmDecides q c) x.raw x.t s else s

/-- The `VMq` monitor of a quad starts to settle, its decisions inactive (R298, R253). -/
def vmStart (q : Quad) (s : State) : State :=
  let s := brakeWant q false (s.modWm (vmMon q) fun _ => WmSt.start s.now)
  ((s.set (F.QD_GD_STAT.VM_UNSETTLED q) 1).set (F.QD_GD_STAT.OV_ACT q) 0).set (F.QD_GD_STAT.UV_ACT q) 0

/-- A `VMq` monitor has settled: the decisions taken as inactive until then act (R250, R251, R253, R299). -/
def vmSettled (q : Quad) (s : State) : State :=
  let act := (s.ms.wm[vmMon q]).act
  let s := s.set (F.QD_GD_STAT.VM_UNSETTLED q) 0
  let s := brakeDecision q (act.getLsbD 1) s
  let s := if act.getLsbD 2 then vmOvTrip q s else s
  s.each (quadAxes q) refreshAxis

/-- The next dwell of an undecided comparator at its other threshold: the history of its filter restarts inactive (R299). -/
def wmAlternate (n : Fin 12) (c : Fin 3) (rel : Bool) (s : State) : State :=
  (wmThreshold n c rel s).modWm n fun w => { w with filt := w.filt.set c FiltSt.reset }

/-- The last comparator of a monitor is decided: it has settled (R299). -/
def wmSettled (n : Fin 12) (s : State) : State :=
  let all : BitVec 3 := if n.val < 8 then 3 else 7
  if (s.ms.wm[n]).decided ≠ all then s
  else if n.val < 8 then s.set (F.MS_WM_STAT.UNSETTLED n.val) 0
  else vmSettled ⟨(n.val - 8) % 4, by omega⟩ s

/-- WM_DWELL_END: an undecided comparator of an unsettled monitor ends a dwell; the samples of the dwell show whether its input lies
beyond the threshold its DAC holds (R299). -/
def wmDwellEnd (n : Fin 12) (c : Fin 3) (x : Samples) (s : State) : State :=
  let ain := decide (n.val < 8)
  let live := if ain then s.flag (F.MS_WM_CFG.WM_EN n) && c != 2 else s.pd (n.val - 5)
  let w := s.ms.wm[n]
  if ¬ live ∨ w.decided.getLsbD c then s
  else
    let s := wmFeed n c (fun _ s => s) x.raw x.t s
    let s := s.at_ (w.since[c] + wmDwell s n)
    let beyond := ((s.ms.wm[n]).filt[c]).out
    let rel := w.atRelease.getLsbD c
    if rel = beyond then wmAlternate n c (!rel) s
    else
      let s := s.modWm n fun w => { w with decided := w.decided ||| BitVec.ofNat 3 (2 ^ c.val) }
      let s := wmDecide n c beyond s
      let s :=
        if ain then (if beyond then ainOutput ⟨n.val % 8, by omega⟩ (c == 1) true s else s)
        else if c = 0 ∧ beyond then vmUvTrip ⟨(n.val - 8) % 4, by omega⟩ s else s
      wmSettled n s

end Sys2Proof.Machine
end

