-- ==== Sys2Proof/Machine/Boundary.lean ====
section
/-!
DEFINITION. A half-period boundary of an axis: the Backstop's checks of the commanded motion (R473, R476, R477) and the
order of what a boundary does.
-/

namespace Sys2Proof.Machine

/-- `AX_VEL` of a velocity in 2^-32 µstep/s: in 1/256 µstep/s, rounded toward zero (R95). -/
def velReg (v : Int) : Int := divTrunc v (2 ^ 24)

/-- A RATE violation (R473). -/
def rateViolated (s : State) (a : Axis) : Bool :=
  decide (s.get (F.BK_VMAX.VMAX a) < (velReg (s.mot a).vel).natAbs)

/-- An ACC violation, from the velocity `v0` of the previous boundary and the half period `th` (R473): the change in
1/256 µstep/s against (`AMAX` · Th + 1 + `JUMP_ALLOW` / Th) · 256, multiplied out. -/
def accViolated (s : State) (a : Axis) (v0 : Int) (th : Nat) : Bool :=
  let dv := (velReg (s.mot a).vel - velReg v0).natAbs
  let jump := if s.src a = 1 then s.get (F.BK_CFG.JUMP_ALLOW a) else 0
  decide (256 * (s.get (F.BK_AMAX.AMAX a) * th * th + tps * th + jump * tps * tps) < dv * tps * th)

/-- A TRAVEL violation (R473): the braking point lies outside the window and the velocity points away from it. Multiplied
out: (`PMAX` − p) · 2 · `AMAX` < v², p in 2^-16 µstep and v in 1/256 µstep/s. -/
def travelViolated (s : State) (a : Axis) : Bool :=
  let p := (s.mot a).pos
  let v := velReg (s.mot a).vel
  let am : Int := 2 * s.get (F.BK_AMAX.AMAX a)
  s.flag (F.BK_CFG.TRAVEL_EN a)
    && ((decide (0 < v) && decide ((travelMax s a - p) * am < v * v))
      || (decide (v < 0) && decide ((p - travelMin s a) * am < v * v)))

/-- The axis decelerates already: a clamp, starvation or stall stop, a stop of R79, or a follower's exit (R477). -/
def runningStop (s : State) (a : Axis) : Bool :=
  (s.mot a).brake.isSome || (match (s.mot a).queue with | g :: _ => g.kind == .stop | [] => false)

/-- The Backstop's checks at a boundary (R473, R476, R477): every kind is counted, the axis is clamped once unless it
decelerates already, and `VIOL_SAFE` puts the device in SAFE. -/
def backstopCheck (a : Axis) (v0 : Int) (th : Nat) (s : State) : State :=
  let rate := rateViolated s a
  let acc := accViolated s a v0 th
  let travel := travelViolated s a
  if rate || acc || travel then
    let s := if rate then countViolation a 0 (F.BK_STAT.VIOL_RATE a) (F.BK_CNT.RATE a) s else s
    let s := if acc then countViolation a 1 (F.BK_STAT.VIOL_ACC a) (F.BK_CNT.ACC a) s else s
    let s := if travel then countViolation a 2 (F.BK_STAT.VIOL_TRAVEL a) (F.BK_CNT.TRAVEL a) s else s
    let s := if runningStop s a then s else clampAxis a s.now s
    if s.flag (F.BK_CFG.VIOL_SAFE a) then autoTransit 7 6 s else s
  else s

/-- The wave-table changes of a boundary at which the position went from `p0` to the present one (R141, R191). -/
def waveBoundary (a : Axis) (p0 : Int) (s : State) : State :=
  let r : State × Bool := if fullStep s a p0 (s.mot a).pos then waveStep a s else (s, false)
  if probeBroken r.1 a r.2 then probeAbort a r.1 else r.1

/-- HALF_PERIOD_BOUNDARY of an axis (R57, R98, R141, R147, R160, R180, R185, R191, R473). -/
def halfBoundary (a : Axis) (s : State) : State :=
  if ¬ s.axOn a ∨ ¬ (s.pwm a).timer.run then s
  else
    let s := s.at_ (s.pwm a).timer.next
    let t := (s.pwm a).timer.next
    let th := halfTime s a
    let p0 := (s.mot a).pos
    let v0 := (s.mot a).vel
    let s := sampleHalf a s
    let s := runMotion a t s
    let s := s.modLa a fun l => { l with trav := l.trav + ((s.mot a).pos - p0).natAbs }
    let s := backstopCheck a v0 th s
    let s := boostLeave a (stallReaction a t s)
    let s := encResync a s
    let s := waveBoundary a p0 s
    let s := updateScale a (refreshEnergised a s)
    let s := chopBoundary a s
    refreshAxis a (advanceTimer a s)

end Sys2Proof.Machine
end

