-- ==== Sys2Proof/Machine/Crypto.lean ====
section
/-!
DEFINITION. Check codes and cryptographic functions the spec names: CRC-16/CCITT (R313, R424), the CRC-32 of R456, SHA-256
(R471, R486, R494), AES-128-CMAC (R487, R488), and ECDSA and ECDH on the curve P-256 (R484, R486, R487). The algorithms are
those of the public standards the spec names.
-/

namespace Sys2Proof.Machine

/-! ### Words and bytes -/

/-- The bytes of a word, most significant first (R311, R425). -/
def wordBytes (w : Word) : List Byte :=
  [w.extractLsb' 24 8, w.extractLsb' 16 8, w.extractLsb' 8 8, w.extractLsb' 0 8]

/-- The bytes of a word, least significant first (R10, R533). -/
def wordBytesLE (w : Word) : List Byte :=
  [w.extractLsb' 0 8, w.extractLsb' 8 8, w.extractLsb' 16 8, w.extractLsb' 24 8]

/-- A word from four bytes, most significant first. -/
def beWord (a b c d : Byte) : Word := a ++ b ++ c ++ d

/-- The words of a byte sequence, most significant byte first. -/
def bytesToWords : List Byte → List Word
  | a :: b :: c :: d :: rest => beWord a b c d :: bytesToWords rest
  | _ => []

/-- The words of a byte sequence, least significant byte first. -/
def bytesToWordsLE : List Byte → List Word
  | a :: b :: c :: d :: rest => beWord d c b a :: bytesToWordsLE rest
  | _ => []

/-- The bytes of a sequence of words, most significant byte first. -/
def wordsBytes (l : List Word) : List Byte := (l.map wordBytes).flatten

/-- The bytes of a sequence of words, least significant byte first. -/
def wordsBytesLE (l : List Word) : List Byte := (l.map wordBytesLE).flatten

/-- The number a byte sequence spells, most significant byte first. -/
def bytesNat (l : List Byte) : Nat := l.foldl (fun n b => n * 256 + b.toNat) 0

/-- The number a sequence of words spells, most significant word first. -/
def wordsNat (l : List Word) : Nat := l.foldl (fun n w => n * 2 ^ 32 + w.toNat) 0

/-- `k` bytes of a number, most significant first. -/
def natBytes : Nat → Nat → List Byte
  | 0, _ => []
  | k + 1, n => BitVec.ofNat 8 (n / 256 ^ k) :: natBytes k n

/-- `k` words of a number, most significant first. -/
def natWords : Nat → Nat → List Word
  | 0, _ => []
  | k + 1, n => BitVec.ofNat 32 (n / (2 ^ 32) ^ k) :: natWords k n

/-! ### Cyclic redundancy checks -/

/-- One bit of CRC-16/CCITT. -/
def crc16Bit (c : BitVec 16) : BitVec 16 := if c.msb then (c <<< 1) ^^^ 0x1021 else c <<< 1

/-- One byte of CRC-16/CCITT. -/
def crc16Byte (c : BitVec 16) (b : Byte) : BitVec 16 :=
  (List.range 8).foldl (fun x _ => crc16Bit x) (c ^^^ (b.setWidth 16 <<< 8))

/-- CRC-16/CCITT (R313): polynomial 0x1021, initial value 0xFFFF, no reflection, no final XOR. -/
def crc16 (l : List Byte) : BitVec 16 := l.foldl crc16Byte 0xFFFF

/-- One bit of the reflected CRC-32. -/
def crc32Bit (c : Word) : Word := if c.getLsbD 0 then (c >>> 1) ^^^ 0xEDB88320 else c >>> 1

/-- One byte of the reflected CRC-32. -/
def crc32Byte (c : Word) (b : Byte) : Word := (List.range 8).foldl (fun x _ => crc32Bit x) (c ^^^ b.setWidth 32)

/-- The CRC-32 of R456: polynomial 0x04C1_1DB7 reflected, initial value and final XOR 0xFFFF_FFFF. -/
def crc32 (l : List Byte) : Word := ~~~ l.foldl crc32Byte 0xFFFFFFFF

/-! ### SHA-256

The spec names SHA-256 (R471, R486, R494) and gives no tables. The constants are formed here by their defining property: the first 32 bits after the
point of the cube roots of the first 64 primes, and of the square roots of the first eight. -/

/-- The primes up to 311, of which there are 64: the numbers without a smaller prime divisor up to 17. -/
def shaPrimes : List Nat :=
  ((List.range 312).drop 2).filter fun n => [2, 3, 5, 7, 11, 13, 17].all fun d => n == d || n % d != 0

/-- The first 32 bits after the point of the root of `n` whose `pow`-th power is `n`, for roots below 8. -/
def rootBits (pow n : Nat) : Word :=
  BitVec.ofNat 32 (searchLargest (fun k => decide (k ^ pow ≤ n * 2 ^ (32 * pow))) 35 0)

/-- The constant of each round. -/
def shaConsts : List Word := shaPrimes.map (rootBits 3)

/-- The chaining value before the first block, and every later one: eight words. -/
def shaStart : List Word := (shaPrimes.take 8).map (rootBits 2)

/-- The exclusive or of a word rotated right by each amount of a list. -/
def xorRots (l : List Nat) (w : Word) : Word := l.foldl (fun x n => x ^^^ w.rotateRight n) 0

/-- The next word of the message schedule from the sixteen before it, the newest first. -/
def shaNext (w : List Word) : Word :=
  let lo := w.getD 14 0
  let hi := w.getD 1 0
  w.getD 15 0 + w.getD 6 0 + (xorRots [7, 18] lo ^^^ lo >>> 3) + (xorRots [17, 19] hi ^^^ hi >>> 10)

/-- The working words after a round: the first and the fifth are new, the others move down by one. -/
def shaStep (v : List Word) (x : Word) : List Word :=
  let old (i : Nat) : Word := v.getD i 0
  let pick := old 6 ^^^ (old 4 &&& (old 5 ^^^ old 6))
  let most := (old 0 &&& old 1) ||| (old 2 &&& (old 0 ||| old 1))
  let add := old 7 + x + pick + xorRots [6, 11, 25] (old 4)
  (add + most + xorRots [2, 13, 22] (old 0)) :: v.take 3 ++ (old 3 + add) :: (v.drop 4).take 3

/-- The rounds of a block: constants left, the last sixteen schedule words, newest first, and the working words. The oldest of the
sixteen enters the round. -/
def shaRounds : List Word → List Word → List Word → List Word
  | [], _, v => v
  | k :: ks, w, v => shaRounds ks ((shaNext w :: w).take 16) (shaStep v (k + w.getD 15 0))

/-- A block of sixteen words enters the chaining value. -/
def shaAbsorb (v blk : List Word) : List Word := (v.zip (shaRounds shaConsts blk.reverse v)).map fun p => p.1 + p.2

/-- So many blocks enter the chaining value. -/
def shaChain : Nat → List Word → List Word → List Word
  | 0, _, v => v
  | n + 1, m, v => shaChain n (m.drop 16) (shaAbsorb v (m.take 16))

/-- SHA-256 of a byte sequence, as eight words: the message, a bit 1, zeros, and its length in bits, in blocks of 64 bytes. -/
def sha256 (l : List Byte) : List Word :=
  let zeros := 63 - (l.length + 8) % 64
  let words := bytesToWords (l ++ (0x80 : Byte) :: List.replicate zeros 0 ++ natBytes 8 (8 * l.length))
  shaChain (words.length / 16) words shaStart

/-! ### AES-128 and CMAC -/

/-- Multiplication by x in the field of AES. -/
def xtime (b : Byte) : Byte := if b.msb then (b <<< 1) ^^^ 0x1B else b <<< 1

/-- Multiplication in the field of AES. -/
def gmul (a b : Byte) : Byte :=
  ((List.range 8).foldl (fun (r, x) i => (if b.getLsbD i then r ^^^ x else r, xtime x)) ((0 : Byte), a)).1

/-- The multiplicative inverse in the field of AES, 0 for 0: the 254th power. -/
def ginv (a : Byte) : Byte :=
  let p2 := gmul a a
  let p4 := gmul p2 p2
  let p8 := gmul p4 p4
  let p16 := gmul p8 p8
  let p32 := gmul p16 p16
  let p64 := gmul p32 p32
  let p128 := gmul p64 p64
  gmul (gmul (gmul p2 p4) (gmul p8 p16)) (gmul (gmul p32 p64) p128)

/-- The S-box of AES. -/
def sbox (a : Byte) : Byte :=
  let x := ginv a
  x ^^^ x.rotateLeft 1 ^^^ x.rotateLeft 2 ^^^ x.rotateLeft 3 ^^^ x.rotateLeft 4 ^^^ 0x63

/-- The S-box applied to the bytes of a word. -/
def subWord (w : Word) : Word :=
  match wordBytes w with
  | [a, b, c, d] => beWord (sbox a) (sbox b) (sbox c) (sbox d)
  | _ => 0

/-- The round keys of AES-128, four words each, newest first. -/
def aesKeys : Nat → Byte → List (List Word) → List (List Word)
  | 0, _, ks => ks
  | n + 1, rc, ks =>
    match ks with
    | [a, b, c, d] :: _ =>
      let t := subWord (d.rotateLeft 8) ^^^ (rc.setWidth 32 <<< 24)
      let a' := a ^^^ t
      let b' := b ^^^ a'
      let c' := c ^^^ b'
      aesKeys n (xtime rc) ([a', b', c', d ^^^ c'] :: ks)
    | _ => ks

/-- A state of AES as sixteen bytes, column by column, with a round key added. -/
def addKey (st : List Byte) (k : List Word) : List Byte := (st.zip (wordsBytes k)).map fun x => x.1 ^^^ x.2

/-- ShiftRows of AES. -/
def shiftRows (st : List Byte) : List Byte :=
  (List.range 16).map fun i => st.getD ((i + 4 * (i % 4)) % 16) 0

/-- MixColumns of AES on one column after another. -/
def mixColumns : List Byte → List Byte
  | a :: b :: c :: d :: rest =>
    (xtime a ^^^ (xtime b ^^^ b) ^^^ c ^^^ d) :: (a ^^^ xtime b ^^^ (xtime c ^^^ c) ^^^ d)
      :: (a ^^^ b ^^^ xtime c ^^^ (xtime d ^^^ d)) :: ((xtime a ^^^ a) ^^^ b ^^^ c ^^^ xtime d) :: mixColumns rest
  | _ => []

/-- AES-128 of one block of sixteen bytes. -/
def aes128 (key blk : List Byte) : List Byte :=
  match (aesKeys 10 1 [bytesToWords key]).reverse with
  | [] => []
  | k0 :: ks =>
    let st := (ks.take 9).foldl (fun st k => addKey (mixColumns (shiftRows (st.map sbox))) k) (addKey blk k0)
    addKey (shiftRows (st.map sbox)) (ks.getD 9 [])

/-- The exclusive or of two blocks. -/
def xorBytes (a b : List Byte) : List Byte := (a.zip b).map fun x => x.1 ^^^ x.2

/-- Doubling in the field of CMAC. -/
def cmacDouble (l : List Byte) : List Byte :=
  let n := bytesNat l
  natBytes 16 (if 2 ^ 127 ≤ n then (2 * n % 2 ^ 128) ^^^ 0x87 else 2 * n)

/-- The blocks of CMAC before the last, `n` of them, from a chaining value. -/
def cmacChain (key : List Byte) : Nat → List Byte → List Byte → List Byte × List Byte
  | 0, x, m => (x, m)
  | n + 1, x, m => cmacChain key n (aes128 key (xorBytes x (m.take 16))) (m.drop 16)

/-- AES-128-CMAC of a message. -/
def cmac (key : BitVec 128) (m : List Byte) : List Byte :=
  let k := natBytes 16 key.toNat
  let k1 := cmacDouble (aes128 k (List.replicate 16 0))
  let n := (m.length - 1) / 16
  let r := cmacChain k n (List.replicate 16 0) m
  let last :=
    if r.2.length = 16 then xorBytes r.2 k1
    else xorBytes (r.2 ++ [0x80] ++ List.replicate (15 - r.2.length) 0) (cmacDouble k1)
  aes128 k (xorBytes r.1 last)

/-! ### The curve P-256 -/

/-- The field prime, the group order, the coefficient b and the base point of P-256. -/
def p256p : Nat := 0xffffffff00000001000000000000000000000000ffffffffffffffffffffffff
def p256n : Nat := 0xffffffff00000000ffffffffffffffffbce6faada7179e84f3b9cac2fc632551
def p256b : Nat := 0x5ac635d8aa3a93e7b3ebbd55769886bc651d06b0cc53b0f63bce3c3e27d2604b
def p256g : Nat × Nat :=
  (0x6b17d1f2e12c4247f8bce6e563a440f277037d812deb33a0f4a13945d898c296,
   0x4fe342e2fe1a7f9b8ee7eb4a7c0f9e162bce33576b315ececbb6406837bf51f5)

/-- `b ^ e` modulo `m`, for exponents below 2 ^ `n`. -/
def powMod (m b : Nat) : Nat → Nat → Nat
  | 0, _ => 1 % m
  | n + 1, e =>
    let h := powMod m b n (e / 2)
    if e % 2 = 1 then h * h % m * b % m else h * h % m

/-- The inverse modulo a prime below 2 ^ 256. -/
def invMod (p a : Nat) : Nat := powMod p (a % p) 256 (p - 2)

/-- A point in Jacobian coordinates; Z = 0 is the point at infinity. -/
structure JPoint where
  x : Nat
  y : Nat
  z : Nat

/-- The double of a point. -/
def jDouble (q : JPoint) : JPoint :=
  let p := p256p
  let delta := q.z * q.z % p
  let gamma := q.y * q.y % p
  let beta := q.x * gamma % p
  let alpha := 3 * ((q.x + p - delta) % p * (q.x + delta)) % p
  let x := (alpha * alpha + 8 * (p - beta)) % p
  { x := x
    y := (alpha * ((4 * beta + p - x) % p) + 8 * (p - gamma * gamma % p)) % p
    z := ((q.y + q.z) * (q.y + q.z) + 2 * p - gamma - delta) % p }

/-- The sum of two points. -/
def jAdd (a b : JPoint) : JPoint :=
  let p := p256p
  if a.z = 0 then b
  else if b.z = 0 then a
  else
    let za := a.z * a.z % p
    let zb := b.z * b.z % p
    let u1 := a.x * zb % p
    let u2 := b.x * za % p
    let s1 := a.y * b.z % p * zb % p
    let s2 := b.y * a.z % p * za % p
    if u1 = u2 then (if s1 = s2 then jDouble a else { x := 1, y := 1, z := 0 })
    else
      let h := (u2 + p - u1) % p
      let r := (s2 + p - s1) % p
      let h2 := h * h % p
      let h3 := h2 * h % p
      let v := u1 * h2 % p
      let x := (r * r + (p - h3) + 2 * (p - v)) % p
      { x := x, y := (r * ((v + p - x) % p) + (p - s1) * h3) % p, z := h * a.z % p * b.z % p }

/-- A multiple of a point, for multipliers below 2 ^ `n`. -/
def jMul (q : JPoint) : Nat → Nat → JPoint
  | 0, _ => { x := 1, y := 1, z := 0 }
  | n + 1, k =>
    let h := jDouble (jMul q n (k / 2))
    if k % 2 = 1 then jAdd h q else h

/-- Affine coordinates, none for the point at infinity. -/
def jAffine (q : JPoint) : Option (Nat × Nat) :=
  if q.z = 0 then none
  else
    let i := invMod p256p q.z
    let i2 := i * i % p256p
    some (q.x * i2 % p256p, q.y * i2 % p256p * i % p256p)

/-- A point from affine coordinates. -/
def jOf (q : Nat × Nat) : JPoint := { x := q.1, y := q.2, z := 1 }

/-- The point lies on the curve. -/
def onCurve (q : Nat × Nat) : Bool :=
  decide (q.1 < p256p) && decide (q.2 < p256p)
    && (q.2 * q.2 % p256p == (q.1 * q.1 % p256p * q.1 + 3 * (p256p - q.1) + p256b) % p256p)

/-- The point of a SEC1 compressed form: 33 bytes, the first 2 or 3 by the parity of y (R484); none where there is no such
point on the curve. -/
def decompress (l : List Byte) : Option (Nat × Nat) :=
  match l with
  | [] => none
  | t :: xs =>
    let x := bytesNat (xs.take 32)
    let y0 := powMod p256p ((x * x % p256p * x + 3 * (p256p - x % p256p) + p256b) % p256p) 256 ((p256p + 1) / 4)
    let y := if y0 % 2 = t.toNat % 2 then y0 else p256p - y0
    if (t = 2 ∨ t = 3) ∧ onCurve (x, y) then some (x, y) else none

/-- A signature r, s over a digest verifies under a public point (R486). -/
def ecdsaVerify (q : Nat × Nat) (digest : Nat) (r s : Nat) : Bool :=
  if r = 0 ∨ s = 0 ∨ p256n ≤ r ∨ p256n ≤ s ∨ !onCurve q then false
  else
    let w := invMod p256n s
    let u1 := digest % p256n * w % p256n
    let u2 := r * w % p256n
    match jAffine (jAdd (jMul (jOf p256g) 256 u1) (jMul (jOf q) 256 u2)) with
    | some (x, _) => x % p256n == r
    | none => false

/-- The public point of a private scalar. -/
def publicPoint (d : Nat) : Nat × Nat := (jAffine (jMul (jOf p256g) 256 d)).getD (0, 0)

/-- The x coordinate of the common point of a private scalar and a public point. -/
def ecdh (d : Nat) (q : Nat × Nat) : Nat := ((jAffine (jMul (jOf q) 256 d)).getD (0, 0)).1

end Sys2Proof.Machine
end

