-- ==== Sys2Proof/Machine/Locker.lean ====
section
/-!
DEFINITION. The Locker: the line code (R388 to R391), stored lines, banks and regions (R385 to R387, R394), and the bank
arbiters (R410 to R416).
-/

namespace Sys2Proof.Machine

/-! ### The field of the line code -/

/-- Multiplication by α = 0x02 in the field of R388. -/
def rsX (b : Byte) : Byte := if b.msb then (b <<< 1) ^^^ 0x1D else b <<< 1

/-- Multiplication in the field of R388. -/
def rsMul (a b : Byte) : Byte :=
  ((List.range 8).foldl (fun (r, x) i => (if b.getLsbD i then r ^^^ x else r, rsX x)) ((0 : Byte), a)).1

/-- A power in the field of R388, for exponents below 2 ^ `n`. -/
def rsPow (a : Byte) : Nat → Nat → Byte
  | 0, _ => 1
  | n + 1, e =>
    let h := rsPow a n (e / 2)
    if e % 2 = 1 then rsMul (rsMul h h) a else rsMul h h

/-- α to a power. -/
def rsAlpha (e : Nat) : Byte := rsPow 2 8 (e % 255)

/-- The quotient in the field of R388. -/
def rsDiv (a b : Byte) : Byte := rsMul a (rsPow b 8 254)

/-! ### The line code -/

/-- The four check bytes p0 to p3 of a line: the remainder of the tag and data modulo g(x) (R388). -/
def rsCheck (tag data : List Byte) : List Byte :=
  (tag.reverse ++ data).foldl (fun r m =>
    match r with
    | [a, b, c, d] =>
      let f := m ^^^ a
      [b ^^^ rsMul f 0x0F, c ^^^ rsMul f 0x36, d ^^^ rsMul f 0x78, rsMul f 0x40]
    | _ => r) [0, 0, 0, 0]

/-- The syndrome of a word at α ^ j: positions 39 down to 0. -/
def rsSyndrome (word : List Byte) (j : Nat) : Byte :=
  word.foldl (fun x c => rsMul x (rsAlpha j) ^^^ c) 0

/-- The erroneous symbols of a word, at most two, as positions and values; none where there is no solution (R390). -/
def rsErrors (word : List Byte) : Option (List (Nat × Byte)) :=
  let s0 := rsSyndrome word 0
  let s1 := rsSyndrome word 1
  let s2 := rsSyndrome word 2
  let s3 := rsSyndrome word 3
  if s0 = 0 ∧ s1 = 0 ∧ s2 = 0 ∧ s3 = 0 then some []
  else
    let one := (List.range 40).find? fun i =>
      let x := rsAlpha i
      s0 != 0 && rsMul s0 x == s1 && rsMul s1 x == s2 && rsMul s2 x == s3
    match one with
    | some i => some [(i, s0)]
    | none =>
      let det := rsMul s0 s2 ^^^ rsMul s1 s1
      if det = 0 then none
      else
        let g1 := rsDiv (rsMul s0 s3 ^^^ rsMul s1 s2) det
        let g2 := rsDiv (rsMul s1 s3 ^^^ rsMul s2 s2) det
        match (List.range 40).filter fun i => let x := rsAlpha i; rsMul x x ^^^ rsMul g1 x ^^^ g2 == 0 with
        | [i, j] =>
          let x := rsAlpha i
          let e2 := rsDiv (s1 ^^^ rsMul s0 x) (x ^^^ rsAlpha j)
          some [(i, s0 ^^^ e2), (j, e2)]
        | _ => none

/-- The result of reading a line (R390). -/
inductive LineRes where
  | good (data : List Byte)
  | corrected (data : List Byte)
  | stale
  | bad
  deriving DecidableEq, Repr

/-- The data of a line result, none where the requester receives none. -/
def LineRes.data : LineRes → Option (List Byte)
  | .good d => some d
  | .corrected d => some d
  | .stale => none
  | .bad => none

/-- The decoding of 36 stored bytes against a tag (R390). -/
def rsDecode (tag stored : List Byte) : LineRes :=
  match rsErrors (tag.reverse ++ stored) with
  | none => .bad
  | some [] => .good (stored.take 32)
  | some es =>
    if es.any fun e => decide (36 ≤ e.1) then .stale
    else .corrected ((List.range 32).map fun k =>
      (es.filter fun e => e.1 = 35 - k).foldl (fun b e => b ^^^ e.2) (stored.getD k 0))

/-! ### Lines, regions and banks -/

/-- The tag of a line under a generation (R389). -/
def lineTag (line : Nat) (gen : BitVec 11) : List Byte :=
  [BitVec.ofNat 8 line, BitVec.ofNat 8 (line / 256), BitVec.ofNat 8 (gen.toNat % 8 * 32 + line / 65536 % 32),
    BitVec.ofNat 8 (gen.toNat / 8)]

/-- The region of a line (R394). -/
def regionOf (line : Nat) : Nat := line / 32768

/-- The bank of a line (R386). -/
def bankOf (line : Nat) : Fin 8 :=
  let b := line / 262144
  if b < 4 then ⟨line % 4, by omega⟩
  else if b < 6 then ⟨4 + line % 2, by omega⟩
  else ⟨6 + line % 2, by omega⟩

/-- The option image of a new part: the safe defaults of R534, without a digest. -/
def newImage : List Word :=
  let w := [0x00014F50, 0x101E0A30, 0x000A0A03, 0x10202000, 0x00000F30] ++ List.replicate 10 0
  w ++ [crc32 (wordsBytesLE w)]

/-- The data a line of a new part holds: the two copies of the option image, zeros elsewhere. -/
def newLineData (line : Nat) : List Byte :=
  if 0x1F8000 ≤ line ∧ line < 0x1F8004 then (wordsBytesLE newImage).drop (line % 2 * 32) |>.take 32
  else List.replicate 32 0

/-- The 36 bytes a line of a new part holds. -/
def newLine (line : Nat) : List Byte :=
  let d := newLineData line
  d ++ rsCheck (lineTag line 0) d

/-- What an unlisted byte of the Locker reads as. -/
def lkDefault (key : Nat) : Byte := (newLine (key / 36)).getD (key % 36) 0

/-- The stored cells with one byte's entry taken out. -/
def cellErase : List Host.Cell → Nat → List Host.Cell
  | [], _ => []
  | (b, v) :: l, a => if b = a then cellErase l a else (b, v) :: cellErase l a

/-- The stored cells with a new entry at its place. -/
def cellInsert : List Host.Cell → Nat → Byte → List Host.Cell
  | [], a, w => [(a, w)]
  | (b, v) :: l, a, w =>
    if a < b then (a, w) :: (b, v) :: l
    else if a = b then (a, w) :: l
    else (b, v) :: cellInsert l a w

/-- The stored cells in which a byte has a value; the value of a new part needs no entry. -/
def cellSet (l : List Host.Cell) (a : Nat) (w : Byte) : List Host.Cell :=
  if w = lkDefault a then cellErase l a else cellInsert l a w

/-- The stored value of a byte, `d` where it is not listed. -/
def cellGet : List Host.Cell → Nat → Byte → Byte
  | [], _, d => d
  | (b, v) :: l, a, d => if b = a then v else cellGet l a d

/-- The keys rise, all of them from `lo` on. -/
def cellSorted : Nat → List Host.Cell → Bool
  | _, [] => true
  | lo, (b, _) :: l => decide (lo ≤ b) && cellSorted (b + 1) l

/-- The canonical form of the stored cells: keys rising, no entry equal to what an unlisted byte reads as. -/
def cellWf (l : List Host.Cell) : Bool := cellSorted 0 l && l.all (fun e => e.2 != lkDefault e.1)

/-- The 36 stored bytes of a line. -/
def storedLine (s : State) (line : Nat) : List Byte :=
  let d := newLine line
  (List.range 36).map fun k => cellGet s.lk.cells (36 * line + k) (d.getD k 0)

/-- Bytes put into the cells from a key on. -/
def cellsPut : List Host.Cell → Nat → List Byte → List Host.Cell
  | l, _, [] => l
  | l, a, b :: bs => cellsPut (cellSet l a b) (a + 1) bs

/-- A state in which a line holds 36 stored bytes. -/
def putLine (line : Nat) (bytes : List Byte) (s : State) : State :=
  { s with lk := { s.lk with cells := cellsPut s.lk.cells (36 * line) (takePad 0 36 bytes) } }

/-- The tag expected of a line: with the present generation of its region (R389, R390). -/
def tagOf (s : State) (line : Nat) : List Byte :=
  lineTag line (s.lk.gen[(⟨regionOf line % 64, Nat.mod_lt _ (by decide)⟩ : Fin 64)])

/-- The stored form of a line's data under the present generation (R393). -/
def encodeLine (s : State) (line : Nat) (data : List Byte) : List Byte :=
  let d := takePad 0 32 data
  d ++ rsCheck (tagOf s line) d

/-- What reading a line finds (R390). -/
def readLine (s : State) (line : Nat) : LineRes := rsDecode (tagOf s line) (storedLine s line)

/-- The counts and the error address of a line result met by a requester (R390). -/
def countLine (who : Fin 22) (line : Nat) (r : LineRes) (s : State) : State :=
  let err (kind : Nat) (s : State) : State :=
    ((s.set F.LK_ERR_ADDR.ADDR (line * 32)).set F.LK_ERR_ADDR.REQ who).set F.LK_ERR_ADDR.KIND kind
  match r with
  | .good _ => s
  | .corrected _ => s.inc F.LK_ECC_CNT.CE_CNT
  | .stale => err 1 (s.inc F.LK_ECC_CNT2.STALE_CNT)
  | .bad => err 0 (s.inc F.LK_ECC_CNT.UE_CNT)

/-- The bytes of `n` lines that the loader reads one after another at BOOT, when nothing else asks for a bank (R533, R537); none where
a line gives none. -/
def peekLines (who : Fin 22) : Nat → Nat → State → Option (List Byte) × State
  | 0, _, s => (some [], s)
  | n + 1, line, s =>
    let r := readLine s line
    let s := countLine who line r s
    match r.data with
    | none => (none, s)
    | some d =>
      let rest := peekLines who n (line + 1) s
      (rest.1.map (d ++ ·), rest.2)

/-- Lines in rising order with one put at its place. -/
def linePut {α : Type} (line : Nat) (d : α) : List (Nat × α) → List (Nat × α)
  | [] => [(line, d)]
  | e :: l => if line < e.1 then (line, d) :: e :: l else if e.1 = line then (line, d) :: l else e :: linePut line d l

/-- The bytes of collected lines. -/
def lineBytes (l : List (Nat × List Byte)) : List Byte := l.flatMap (·.2)

/-! ### Jobs -/

/-- The requesters of R410 with a fixed number. -/
def lkInterp : Fin 22 := 17
def lkSecurity : Fin 22 := 18
def lkTrace : Fin 22 := 19
def lkScrubber : Fin 22 := 21

/-- A job rewrites a region (R395). -/
def LkJob.rewrites (j : LkJob) : Bool := match j.why with | .rewrite _ => true | _ => false

/-- Two jobs make their requests to one bank in one requester's name. -/
def LkJob.meets (x y : LkJob) : Bool := x.who == y.who && bankOf x.line == bankOf y.line

/-- A job is its requester's request for its bank: the first of those that meet there. -/
def LkJob.asks (l : List LkJob) (j : LkJob) : Bool := l.find? (LkJob.meets j) == some j

/-- The jobs of the Locker become `new`: one that is now its requester's request, and was not, waits from now on (R416). -/
def setJobs (new : List LkJob) (s : State) : State :=
  { s with lk := { s.lk with
    jobs := new.map fun j => if j.asks new && !j.asks s.lk.jobs then { j with since := s.now } else j } }

/-- A new job waits behind the others of the Locker, ahead of the rewrites of regions. -/
def addJob (j : LkJob) (s : State) : State :=
  let l := s.lk.jobs
  setJobs (if j.rewrites then l ++ [j] else l.takeWhile (fun x => !x.rewrites) ++ j :: l.dropWhile (fun x => !x.rewrites)) s

/-- The jobs that serve a purpose are withdrawn. -/
def dropJobs (p : LkJob → Bool) (s : State) : State := setJobs (s.lk.jobs.filter fun j => !p j) s

/-- The banks of the interleave set of a line (R386). -/
def setBanks (line : Nat) : Nat := if line / 262144 < 4 then 4 else 2

/-- A read job over `n` lines from a line on, in every bank of its set at once (R386, R402); none for no lines. -/
def readJob (who : Fin 22) (why : LkWhy) (line n : Nat) (s : State) : State :=
  let m := setBanks line
  (List.range (min m n)).foldl (fun s k =>
    addJob { who := who, why := why, line := line + k, step := m, left := (n - 1 - k) / m, bytes := none, since := s.now } s) s

/-- A write job of whole lines from a line on, one after another. -/
def writeJob (who : Fin 22) (why : LkWhy) (line : Nat) (bytes : List Byte) (s : State) : State :=
  addJob { who := who, why := why, line := line, step := 1, left := (bytes.length - 1) / 32, bytes := some bytes, since := s.now } s

/-- A job serves a purpose. -/
def serving (s : State) (why : LkWhy) : Bool := s.lk.jobs.any fun j => j.why == why

/-- The request of a requester for a bank: its first job whose next line lies there. -/
def requestOf (s : State) (who : Fin 22) (b : Fin 8) : Option LkJob := s.lk.jobs.find? fun j => j.who == who && bankOf j.line == b

/-! ### Arbitration -/

/-- The quad entry of a prefetcher in the tables of a bank. -/
def quadEntry (who : Nat) : Fin 26 := ⟨22 + who / 4 % 4, by omega⟩

/-- A requester of the high class (R410). -/
def highClass (who : Fin 22) : Bool := who == 16 || who == 17 || who == 18

/-- A requester's place in the tables of a bank. -/
def entryOf (who : Fin 22) : Fin 26 := ⟨who.val, by omega⟩

/-- The entry that takes the grant time beside its requester (R411): the quad entry of a prefetcher. -/
def grantEntry (who : Fin 22) : Fin 26 := if who.val < 16 then quadEntry who.val else entryOf who

/-- The candidates of a bank (R411): requesters with a request for it and not in Let. -/
def candidates (s : State) (b : Fin 8) : List (Fin 22) :=
  let k := s.lk.banks[b]
  (List.finRange 22).filter fun r =>
    (requestOf s r b).isSome && k.letEnd[entryOf r].isNone
      && (s.flag F.LK_CFG.HEADCOUNT || !decide (r.val < 16) || k.letEnd[quadEntry r.val].isNone)

/-- The better of two entries: the greater k, then the least recently granted, then the lower number (R411). -/
def betterEntry (k : BankSt) (x y : Fin 26) : Fin 26 :=
  if k.k[x] ≠ k.k[y] then (if k.k[x] < k.k[y] then y else x)
  else if k.last[x] ≠ k.last[y] then (if k.last[y] < k.last[x] then y else x)
  else x

/-- The best entry of a list. -/
def bestEntry (k : BankSt) : List (Fin 26) → Option (Fin 26)
  | [] => none
  | x :: xs => some (xs.foldl (betterEntry k) x)

/-- The prefetchers of a quad entry among the candidates. -/
def entryMembers (c : List (Fin 22)) (e : Fin 26) : List (Fin 26) :=
  (c.filter fun r => decide (r.val < 16) && quadEntry r.val == e).map entryOf

/-- The pool of a decision (R411): unmasked high-class candidates, or masked ones when nobody else waits, or the normal
class, prefetchers gathered into quad entries with `HEADCOUNT` = 0. -/
def arbPool (s : State) (b : Fin 8) : List (Fin 26) :=
  let k := s.lk.banks[b]
  let c := candidates s b
  let hi := c.filter highClass
  let open_ := hi.filter fun r => decide (k.used[r] < s.get F.LK_CFG.OVER_Q)
  let normal := c.filter fun r => !highClass r
  if open_ ≠ [] then open_.map entryOf
  else if normal = [] then hi.map entryOf
  else if s.flag F.LK_CFG.HEADCOUNT then normal.map entryOf
  else
    ((List.range 4).map fun q => quadEntry (4 * q)).filter (fun e => entryMembers c e ≠ [])
      ++ (normal.filter fun r => !decide (r.val < 16)).map entryOf

/-- The winner of a decision (R411), as an entry of the pool and the requester granted. -/
def arbWinner (s : State) (b : Fin 8) : Option (Fin 26 × Fin 26) :=
  let k := s.lk.banks[b]
  match bestEntry k (arbPool s b) with
  | none => none
  | some e =>
    if 22 ≤ e.val then (bestEntry k (entryMembers (candidates s b) e)).map fun r => (e, r)
    else some (e, e)

/-- The losers of a decision: the members of the pool and, behind quad entries, their prefetchers (R411, R412). -/
def arbLosers (s : State) (b : Fin 8) (w : Fin 26 × Fin 26) : List (Fin 26) :=
  let pool := arbPool s b
  let behind := (pool.filter fun e => decide (22 ≤ e.val)).flatMap (entryMembers (candidates s b))
  (pool ++ behind).filter fun e => e != w.1 && e != w.2

/-- One loser of a decision: k rises to at most 8, and it enters Let for 10 ns · 2^k (R411). -/
def loseEntry (now : Nat) (k : BankSt) (e : Fin 26) : BankSt :=
  let n := min 8 (k.k[e] + 1)
  { k with
    k := k.k.set e n
    letEnd := k.letEnd.set e (some (now + 80 * 2 ^ n)) }

/-- The grant counted in the Over of the bank (R413). -/
def countGrant (s : State) (r : Fin 22) (k : BankSt) : BankSt :=
  let masked := highClass r && decide (s.get F.LK_CFG.OVER_Q ≤ k.used[r])
  let used := if masked then k.used else k.used.set r (k.used[r] + 1)
  if s.get F.LK_CFG.OVER_W ≤ k.overCnt + 1 then { k with overCnt := 0, used := Vector.replicate 22 0 }
  else { k with overCnt := k.overCnt + 1, used := used }

/-- LOCKER_ARBITRATE: a free bank's decision (R411 to R416). -/
def lkArbitrate (b : Fin 8) (s : State) : State :=
  let k := s.lk.banks[b]
  if ¬ s.pd 7 ∨ s.blockHeld 6 ∨ s.flag F.LK_ARB_CTRL.DEADBALL ∨ k.busy.isSome then s
  else
    match arbWinner s b with
    | none => s
    | some w =>
      if h : w.2.val < 22 then
        let r : Fin 22 := ⟨w.2.val, h⟩
        match requestOf s r b with
        | none => s
        | some j =>
          let dur := if j.bytes.isSome then 10240 else 2560
          let k1 := (arbLosers s b w).foldl (loseEntry s.now) k
          let k2 := { k1 with
            busy := some { job := j, endAt := s.now + dur }
            owner := some r
            k := (k1.k.set w.1 0).set w.2 0
            last := ((k1.last.set w.1 (s.now + 1)).set w.2 (s.now + 1)).set (grantEntry r) (s.now + 1) }
          let toQuota := highClass r && k2.used[r] + 1 == s.get F.LK_CFG.OVER_Q
          let k3 := countGrant s r k2
          let s := { s with lk := { s.lk with banks := s.lk.banks.set b k3 } }
          let s := s.mark (F.LK_WAIT_MAX.WAIT_MAX b) ((s.now - j.since) / 80)
          if toQuota then s.inc (F.LK_WAIT_MAX.QMASK_CNT b) else s
      else s

/-- LET_END: a back-off of a requester or quad entry ends (R412). -/
def letEnds (b : Fin 8) (e : Fin 26) (s : State) : State :=
  let k := s.lk.banks[b]
  match k.letEnd[e] with
  | none => s
  | some t => { (s.at_ t) with lk := { s.lk with banks := s.lk.banks.set b { k with letEnd := k.letEnd.set e none } } }

/-- A job is the one an access was granted for. -/
def LkJob.same (x y : LkJob) : Bool := x.who == y.who && x.why == y.why && x.line == y.line && x.left == y.left

/-- A job whose line has been served goes on with its next line, or has ended. -/
def LkJob.advance (j : LkJob) : Option LkJob :=
  if j.left = 0 then none
  else some { j with
    line := j.line + j.step
    left := j.left - 1
    bytes := j.bytes.map (·.drop 32) }

/-- The access of a bank ends (R387): the bank is free, and its job goes on with its next line or ends. The job as it was
granted, and whether it still stands. -/
def endAccess (b : Fin 8) (s : State) : Option (LkJob × Bool × State) :=
  match s.lk.banks[b].busy with
  | none => none
  | some acc =>
    let s := s.at_ acc.endAt
    let s : State := { s with lk := { s.lk with banks := s.lk.banks.set b { s.lk.banks[b] with busy := none } } }
    some (acc.job, s.lk.jobs.any acc.job.same,
      setJobs (s.lk.jobs.filterMap fun x => if acc.job.same x then x.advance else some x) s)

/-- A write takes effect with its read-backs, the second one after a first that is not GOOD (R393): whether it succeeded. -/
def finishWrite (line : Nat) (data rb1 rb2 : List Byte) (s : State) : State × Bool :=
  let ok (rb : List Byte) : Bool := match rsDecode (tagOf s line) (takePad 0 36 rb) with | .good _ => true | _ => false
  let want := encodeLine s line data
  if ok rb1 then (putLine line (if rb1 = want then want else rb1) s, true)
  else if ok rb2 then (putLine line rb2 s, true)
  else ((putLine line rb2 s).inc F.LK_ECC_CNT2.WR_FAIL, false)

end Sys2Proof.Machine
end

