-- ==== Sys2Proof/Machine/LiveRegs.lean ====
section
/-!
DEFINITION. What a register word reads: the stored fields of the register file with the fields whose home is a typed
field of the state merged in, a domain that is off reading zero (R365, R375, R516), and the wave, gather and snapshot
buffers.
-/

namespace Sys2Proof.Machine

/-! ### Domains of the address map -/

/-- The power domain of an address (R515, R523, R417, R446, R524); the quad gate-drive registers of the `SYS` block belong
to `PD1` (assumption log 60). -/
def domainOf (addr : Nat) : Nat :=
  if addr = 0x600 ∨ addr = 0x514 ∨ addr = 0x518 then 0
  else if 0x100000 ≤ addr ∧ addr < 0x110000 then 3 + (addr - 0x100000) / 0x4000
  else if 0x300000 ≤ addr ∧ addr < 0x301000 then 3 + (addr - 0x300000) / 0x400
  else if 0x380000 ≤ addr ∧ addr < 0x3C0000 then 7
  else if 0x3C0000 ≤ addr ∧ addr < 0x3E0000 then 8
  else 1

/-! ### Values kept outside the register file -/

/-- The low and the high word of a 64-bit pattern (R10). -/
def loWord (v : Int) : Nat := toBits 64 v % 2 ^ 32
def hiWord (v : Int) : Nat := toBits 64 v / 2 ^ 32

/-- A position in 2^-16 units as whole units, rounded toward zero (R95). -/
def wholeUnits (p : Int) : Int := divTrunc p 65536

/-- `MOTION` of `AX_PLN_STAT` (R95). -/
def motionCode (s : State) (a : Axis) : Nat :=
  let m := s.mot a
  if m.energiseEnd.isSome then 4
  else if m.brake.isSome then 2
  else match m.queue with
    | g :: _ => (match g.kind with | .stop => 2 | .jog => 3 | .move => 1)
    | [] => if m.stopped then 5 else 0

/-- `ALL_STILL`: every axis is OFF, ARMED, STOPPED or in FAULT (R510, R523). -/
def allStill (s : State) : Bool :=
  allAxes.all fun a => !s.axOn a || (let k := s.axState a; k == 0 || k == 1 || k == 5 || k == 6)

/-- The state codes of eight axes from `from_` on, an axis of a domain that is off as 0 (R523). -/
def stateCodes (s : State) (from_ : Nat) : Nat :=
  ((List.range 8).map fun k => (if s.axOn (axisOf (from_ + k)) then s.axState (axisOf (from_ + k)) else 0) * 16 ^ k).sum

/-- The conditions behind `DEV_ATTN`, the word of `HP_ATTN` (R331). -/
def hpAttn (s : State) : Nat :=
  bitsOfList [ s.flag F.TB_STATUS.TIMEBASE_DEGRADED, s.flag F.TB_STATUS.CAL_FAIL,
    allAxes.any fun a => s.get (F.AX_DEADLINE.LATE a) != 0, s.flag F.BOOT_STAT.OPT_BAD, s.flag F.CV_STAT.ROLE_CONFLICT ]

/-- `BANK_BUSY`: one bit per bank with an access in progress (R415, R417). -/
def bankBusy (s : State) : Nat := bitsOfList (s.lk.banks.toList.map fun b => b.busy.isSome)

/-- `OC_OUT_Wk`: under CHOP a DAC code of 0 holds the output active once the DAC has settled (R292, R293). -/
def ocActive (s : State) (a : Axis) (w : Fin 2) : Bool :=
  s.flag (ocOut a w) || (s.get (F.AX_CC_CFG.MODE a) == 1 && s.get (ocDac a w) == 0 && !ocHeld s a w)

/-- `SESS_x` and `ROLE_x` of a port (R500). -/
def sessBits (p : SessPort) : Nat := match p.sess with | some x => 1 + 2 * x.role.toNat | none => 0

/-- `SLOT_VALID`: the slots that hold a key (R483, R500). -/
def slotsValid (s : State) : Nat := bitsOfList (s.sec.keys.toList.map Option.isSome)

/-- The values of the fields of a register that are not in the register file, as bits and value. -/
def liveFields (s : State) (id : RegId) (i : Nat) : List (Nat × Nat × Nat) :=
  let a := axisOf i
  match id with
  | .LTIME_LO => [(31, 0, s.ltime % 2 ^ 32)]
  | .LTIME_HI => [(31, 0, s.ltime / 2 ^ 32)]
  | .PLN_STATUS => [(6, 0, windowUsed s), (20, 16, s.ip.cmdq.length)]
  | .AX_PLN_STAT => [(2, 0, motionCode s a), (12, 8, axqUsed s a), (20, 16, (s.mot a).window.length)]
  | .AX_REMAIN_LO => [(31, 0, loWord (wholeUnits (s.mot a).remain))]
  | .AX_REMAIN_HI => [(31, 0, hiWord (wholeUnits (s.mot a).remain))]
  | .AX_TARGET_LO => [(31, 0, loWord (wholeUnits (s.mot a).target))]
  | .AX_TARGET_HI => [(31, 0, hiWord (wholeUnits (s.mot a).target))]
  | .AX_POS_LO => [(31, 0, loWord (s.mot a).pos)]
  | .AX_POS_HI => [(31, 0, hiWord (s.mot a).pos)]
  | .AX_VEL => [(31, 0, toBits 32 (velReg (s.mot a).vel))]
  | .AX_ACC => [(31, 0, toBits 32 (divTrunc (s.mot a).acc (2 ^ 24)))]
  | .MCH_POS_LO => [(31, 0, loWord (s.mch[(⟨i % 4, by omega⟩ : Fin 4)]).lastM)]
  | .MCH_POS_HI => [(31, 0, hiWord (s.mch[(⟨i % 4, by omega⟩ : Fin 4)]).lastM)]
  | .QD_GD_STAT => [(9, 9, bitOf s.pw.vgsUv)]
  | .AX_FB_UNW_LO => [(31, 0, loWord (fbUnwrapped s a))]
  | .AX_FB_UNW_HI => [(31, 0, hiWord (fbUnwrapped s a))]
  | .AX_FB_SPEED => [(31, 0, toBits 32 (fbSpeedAt s a s.now))]
  | .AX_FB_STAT => [(0, 0, bitOf (fbValid s a))]
  | .HP_ATTN => [(4, 0, hpAttn s)]
  | .AUX_STAT => [(2, 0, s.auxm.queue.length), (3, 3, bitOf s.auxm.cur.isSome)]
  | .CMD_LOG =>
    [(15, 0, match s.ip.log.getLast? with | some e => e.1.seq.toNat | none => 0), (22, 16, s.ip.log.length)]
  | .CMD_TICKET => [(11, 8, (s.ip.tickets.filter fun t => t.result.isNone).length)]
  | .CMD_ROUTE => [(28, 24, s.ip.routes.length)]
  | .LK_ARB_STAT => [(0, 0, bitOf (bankBusy s == 0)), (15, 8, bankBusy s)]
  | .LK_PART_STAT =>
    [(0, 0, bitOf (s.lk.initPend != 0)),
      (13, 8, ((List.range 64).filter fun r => s.lk.initPend.getLsbD r).length)]
  | .LK_GEN =>
    [(10, 0, (s.lk.gen[(⟨i % 64, by omega⟩ : Fin 64)]).toNat), (16, 16, bitOf (s.lk.initPend.getLsbD i))]
  | .CV_OPS => [(10, 8, s.cv.sched.length)]
  | .MS_OC_STAT => [(10, 10, bitOf (ocActive s a 0)), (26, 26, bitOf (ocActive s a 1))]
  | .WH_STAT => [(25, 25, bitOf s.wh.pinHigh)]
  | .BK_STAT => [(8, 8, bitOf (fsMismatch s a)), (10, 10, bitOf (bridgeEnabled s a))]
  | .BK_DEV_STAT => [(0, 0, bitOf s.bk.stoA), (1, 1, bitOf s.bk.stoB)]
  | .SEC_STAT =>
    [(1, 0, s.sec.life.toNat), (4, 2, sessBits s.sec.hp), (7, 5, sessBits s.sec.aux),
      (9, 9, bitOf (s.sec.hp.lockEnd.isSome || s.sec.aux.lockEnd.isSome))]
  | .SEC_KEYS => [(15, 0, slotsValid s)]
  | .SEC_PATCH => [(12, 8, s.sec.svn)]
  | .SEC_AUDIT => [(31, 0, s.sec.auditNext)]
  | .SEC_IDPUB => [(31, 0, match s.sec.ident with | some k => (k.2.getD i 0).toNat | none => 0)]
  | .MODE_STAT => [(7, 7, bitOf (allStill s))]
  | .AX_STATES_LO => [(31, 0, stateCodes s 0)]
  | .AX_STATES_HI => [(31, 0, stateCodes s 8)]
  | .PD_STAT => [(9, 0, s.pw.on.toNat)]
  | .AX_STATE => [(6, 6, bitOf (s.gd a).ena), (7, 7, bitOf (diagOk s a)), (15, 8, offWhy s a)]
  | _ => []

/-! ### Buffers read as registers -/

/-- The snapshot record as it is mirrored: its 508 words, the CRC-32 over them and three zero words (R456, R459). -/
def snapWords (s : State) : List Word :=
  match s.wh.snap with
  | some ws => ws ++ [crc32 (wordsBytesLE ws)]
  | none => []

/-- The words of the buffers outside the register tables: the gather buffer (R447) and the snapshot buffer (R459). -/
def bufferWord (s : State) (addr : Nat) : Word :=
  if 0x3D0000 ≤ addr ∧ addr < 0x3D8000 then
    (match s.cv.gather.find? fun g => g.1 = (addr - 0x3D0000) / 0x800 with
     | some g => g.2.getD ((addr - 0x3D0000) % 0x800 / 4) 0
     | none => 0)
  else if 0x3E1000 ≤ addr ∧ addr < 0x3E1800 then (snapWords s).getD ((addr - 0x3E1000) / 4) 0
  else 0

/-! ### Reads -/

/-- An address holds an implemented register or a wave-table word (R365, R370). -/
def implemented (addr : Nat) : Bool := isWaveAddr addr || (regAt addr).isSome

/-- The word of a register at this instant, before the side effects of a read (R365, R375). -/
def readWord (s : State) (addr : Nat) : Word :=
  if ¬ s.pd (domainOf addr) then 0
  else if isWaveAddr addr then rfGet s.regs addr
  else match regAt addr with
  | some (r, i, _) => (liveFields s r.id i).foldl (fun w f => putBits w f.1 f.2.1 f.2.2) (rfGet s.regs addr)
  | none => bufferWord s addr

/-- A field of a register as it reads. -/
def readField (s : State) (f : Fld) : Nat := getBits (readWord s f.addr) f.hi f.lo

/-- A state in which one register address holds a word. -/
def State.setWord (s : State) (addr : Nat) (w : Word) : State := { s with regs := rfSet s.regs addr w }

/-- The side effect of a read (R15): the RC fields of the register clear. -/
def clearRead (addr : Nat) (s : State) : State :=
  if ¬ s.pd (domainOf addr) then s
  else match regAt addr with
  | some (r, _, _) =>
    if r.fields.any fun f => f.acc == .rc then
      s.setWord addr ((r.fields.filter fun f => f.acc == .rc).foldl (fun w f => putBits w f.hi f.lo 0) (rfGet s.regs addr))
    else s
  | none => s

/-- A register read with its side effects (R15, R364). -/
def regRead (addr : Nat) (s : State) : Word × State := (readWord s addr, clearRead addr s)

/-- `n` reads one after another in ascending address order (R364). -/
def regReads : Nat → Nat → State → List Word × State
  | 0, _, s => ([], s)
  | n + 1, addr, s =>
    let r := regRead addr s
    let rest := regReads n (addr + 4) r.2
    (r.1 :: rest.1, rest.2)

/-- The registers at these addresses are read one after another. -/
def readEach : List Nat → State → List Word × State
  | [], s => ([], s)
  | addr :: l, s =>
    let r := regRead addr s
    let rest := readEach l r.2
    (r.1 :: rest.1, rest.2)

end Sys2Proof.Machine
end

