-- ==== Sys2Proof/Machine/TimeBase.lean ====
section
/-!
DEFINITION. The time base (R26 to R33): the tests of `REFIN`, the calibration instants, and the changes of source.
-/

namespace Sys2Proof.Machine

/-- The device is a squad member of a stack, OUTSIDE included (R428, R431). -/
def isMember (s : State) : Bool := decide (2 ≤ s.get F.CV_STAT.ROLE)

/-- The device is the Captain, or alone (R21, R428). -/
def isCaptain (s : State) : Bool := s.get F.CV_STAT.ROLE == 1

/-- The time base changes to the internal oscillator (R28, R29); with `DEGRADED_HALT` the device leaves RUN (R31, R504). -/
def toInternal (s : State) : State :=
  let s := (s.set F.TB_STATUS.SRC 0).set F.TB_STATUS.TIMEBASE_DEGRADED 1
  if s.flag F.TB_CTRL.DEGRADED_HALT then autoTransit 6 3 s else s

/-- A test of `REFIN` fails (R28): the 1 ms of R29 restarts; with `REFIN` as the source it is a reference loss. -/
def refFail (s : State) : State :=
  let s := { s with tb := { s.tb with refGood := false, testFrom := s.now } }
  if s.get F.TB_STATUS.SRC = 1 then toInternal ((s.raise F.TB_STATUS.REF_LOST).inc F.TB_STATUS.LOSS_COUNT) else s

/-- REFIN_EDGE_TIMEOUT: no rising edge for 200 ns (R28). -/
def refinEdgeTimeout (s : State) : State := if s.pd 1 then refFail s else s

/-- The time base changes to the reference (R29). -/
def toReference (s : State) : State := (s.set F.TB_STATUS.SRC 1).set F.TB_STATUS.TIMEBASE_DEGRADED 0

/-- The reference may become the source (R29). -/
def refUsable (s : State) : Bool := s.tb.refGood && s.flag F.TB_CTRL.REFIN_EN && !isMember s

/-- The number of the next calibration instant: an `LTIME` that is a multiple of 100,000 ns (R28). -/
def nextCal (s : State) : Nat := max (s.tb.calNo + 1) ((s.now + 799999) / 800000)

/-- Both delay lines of a channel have been measured in the interval that ends at calibration instant `n`; a line out of its range
keeps its last good calibration (R32, R33). -/
def CalChan.measure (c : CalChan) (n : Nat) (f0 f1 : Bool) : CalChan :=
  { c with good := (if f0 then c.good.1 else n, if f1 then c.good.2 else n) }

/-- CALIBRATION_INSTANT: the interval that ends is judged against the internal oscillator (`refOk`), every delay line is
measured, those in `fails` outside their range (bit 2·channel + line) keeping their last good calibration, and the source may change (R28, R29, R32, R33). BOOT stays on the internal
oscillator (R26). -/
def calibrationInstant (refOk : Bool) (fails : BitVec 144) (s : State) : State :=
  if ¬ s.pd 1 then s
  else
    let n := nextCal s
    let s := s.at_ (n * 800000)
    let s := { s with tb := { s.tb with calNo := n, cal := Vector.ofFn fun i : Fin 72 => (s.tb.cal[i]).measure n (fails.getLsbD (2 * i.val)) (fails.getLsbD (2 * i.val + 1)) } }
    let s := if fails = 0 then s else s.raise F.TB_STATUS.CAL_FAIL
    let s := if refOk then s else refFail s
    if refUsable s && s.get F.TB_STATUS.SRC == 0 && s.mode != 1 then toReference s else s

/-- REFERENCE_GOOD: 1 ms of edges has passed both tests (R29). -/
def referenceGood (t : Nat) (s : State) : State :=
  if s.pd 1 ∧ s.tb.testFrom + msT ≤ t then { (s.at_ t) with tb := { s.tb with refGood := true } } else s

/-- A write of `REFIN_EN` (R29): a change to 0 while `REFIN` is the source changes the source at once, without the loss
flags; on a squad member it changes the field alone. -/
def refinEnWrite (b : Bool) (s : State) : State :=
  let s := s.setB F.TB_CTRL.REFIN_EN b
  if !b && s.get F.TB_STATUS.SRC == 1 && !isMember s then toInternal s else s

/-- The source at the end of BOOT (R31). -/
def bootSource (s : State) : State := if refUsable s then toReference s else s

end Sys2Proof.Machine
end

