-- ==== Sys2Proof/Machine/Mode.lean ====
section
/-!
DEFINITION. Device modes (R501 to R514): the MODE command's transitions, entry to SAFE and to HALT, and the completion of
a transition.
-/

namespace Sys2Proof.Machine

/-- Every accepted command whose outcome is not known retires CANCELLED, and the command queue empties (R353, R507). -/
def cancelAll (s : State) : State :=
  let seqs := (s.ip.ledger.filter fun e => e.2.isNone).map fun e => e.1.seq
  retireAll seqs .cancelled { s with ip := { s.ip with cmdq := [] } }

/-- The Locker work of cancelled commands ends (R353): an arm, a scheduled apply, the validations of ENGAGE and CAM_NEXT. -/
def cancelLocker (s : State) : State :=
  let s := dropJobs (fun j => j.why == .recipe || j.why == .cam) s
  { s with lk := { s.lk with arm := none, apply := none, vals := [] } }.set F.LK_RCP_STAT.APPLY_SCHED 0

/-- Entry to SAFE for one axis (R507): its motion is dropped, a follower is DISENGAGED, it is OFF and `SAFE_HELD`; an axis
in FAULT keeps its state. -/
def safeAxis (a : Axis) (s : State) : State :=
  if ¬ s.axOn a then s
  else if s.axState a = 6 then s.set (F.AX_STATE.SAFE_HELD a) 1
  else
    let s := retireEngage a .cancelled (disengage a (haltMotion a s))
    refreshAxis a ((s.set (F.AX_STATE.STATE a) 0).set (F.AX_STATE.SAFE_HELD a) 1)

/-- Entry to SAFE (R507). -/
def enterSafe (s : State) : State := cancelLocker (cancelAll (s.each allAxes safeAxis))

/-- Entry to HALT (R510): every PACKET axis is cut to a stop, every follower leaves under R100. -/
def enterHalt (s : State) : State :=
  s.each (allAxes.filter s.axOn) fun a s =>
    if s.axState a = 6 then s else if s.src a = 0 then stopPacket a none s else followExit a s

/-- `WIN_BAD` is judged at the exit from CONFIG (R498). -/
def judgeWindows (s : State) : State :=
  s.each allAxes fun a s =>
    s.setB (F.BK_STAT.WIN_BAD a) (s.flag (F.BK_CFG.TRAVEL_EN a) && decide (travelMax s a ≤ travelMin s a))

/-- The device takes a mode, with the effects of its entry and of the exit from the one before (R506 to R510). -/
def takeMode (m trig : Nat) (s : State) : State :=
  let old := s.mode
  let s := ((s.set F.MODE_STAT.MODE m).set F.MODE_STAT.PREV_MODE old).set F.MODE_STAT.LAST_TRIG trig
  let s := if trig = 1 then s else s.raise F.MODE_STAT.MODE_EVT
  let s := if old = 2 then judgeWindows s else s
  let s := if old = 2 ∨ old = 3 then startTimers s else s
  let s := if m = 7 then enterSafe s else if m = 6 then enterHalt s else s
  refreshAll s

/-- MODE_TRANSIT_DONE: the transition in progress completes (R506); an automatic one that waited for it begins where its
trigger acts in the new mode (R522). A transition into SLEEP is completed by SLEEP_ENTRY. -/
def modeTransitDone (s : State) : State :=
  match s.pw.transit with
  | none => s
  | some (m, trig) =>
    let next := s.pw.autoNext
    let s := { s with pw := { s.pw with transit := none, autoNext := none } }
    let s := takeMode m.toNat trig (s.setB F.MODE_STAT.TRANSIT s.pw.sleepPend.isSome)
    match next with
    | some (m2, t2) => if autoApplies t2 s.mode then beginTransit m2.toNat t2 s else s
    | none => s

/-- The targets R503 permits from a mode. -/
def modeTargets (m : Nat) : List Nat :=
  match m with
  | 2 => [3, 4, 7, 0]
  | 3 => [2, 4, 7, 0]
  | 4 => [2, 3, 5, 7, 0]
  | 5 => [4, 6, 7]
  | 6 => [4, 5, 7]
  | 7 => [2, 3, 4, 0]
  | _ => []

/-- Entry to RUN is refused (R505). -/
def runRefused (s : State) : Bool :=
  (s.flag F.TB_STATUS.TIMEBASE_DEGRADED && s.flag F.TB_CTRL.DEGRADED_HALT) || s.flag F.CV_STAT.ROLE_CONFLICT
    || s.get F.CV_STAT.ROLE == 3
    || (isMember s && (s.flag F.CV_STAT.CAPT_LOST || s.flag F.CV_STAT.TIME_SLEW || s.flag F.CV_STAT.TIME_FAR))

/-- STARTED commands still running: `RES_PENDING` (R356, R360). -/
def resPending (s : State) : Nat := (s.ip.tickets.filter fun t => t.result.isNone).length

/-- A condition of R518 refuses SLEEP. -/
def sleepRefused (s : State) : Bool :=
  s.flag F.BK_DEV_STAT.STORE_BUSY || s.lk.initPend != 0 || resPending s != 0 || !s.auxm.queue.isEmpty
    || (match s.auxm.cur with | some (.inr _) => true | _ => false)

/-- The status of a MODE command in the present state (R339, R503, R505, R518); 0 where it is accepted. -/
def modeStatus (s : State) (m : Nat) : Nat :=
  if m = 1 then 0x12
  else if s.flag F.MODE_STAT.TRANSIT then 0x21
  else if m = s.mode then 0
  else if !(modeTargets s.mode).contains m then 0x20
  else if m = 5 ∧ runRefused s then 0x20
  else if m = 4 ∧ (s.mode = 5 ∨ s.mode = 6) ∧ ¬ allStill s then 0x21
  else if m = 0 ∧ sleepRefused s then 0x21
  else 0

/-- An accepted MODE begins (R339, R506, R518): a SLEEP waits for the next window on its port, at most 1 ms. -/
def modeBegin (p : Port) (m : Nat) (s : State) : State :=
  if m = s.mode then s
  else if m = 0 then { (s.set F.MODE_STAT.TRANSIT 1) with pw := { s.pw with sleepPend := some (p, s.now + msT) } }
  else beginTransit m 1 s

end Sys2Proof.Machine
end

