-- ==== Sys2Proof/Machine/Cenov.lean ====
section
/-!
DEFINITION. The Cenov link (R419 to R447): ports and flits, roles and enumeration, stack time, the loss of a link, and the
stack's barriers, broadcasts and read-outs.
-/

namespace Sys2Proof.Machine

/-! ### Ports and flits -/

/-- The port of the link. -/
def State.cvPort (s : State) : Link → CvPort
  | .up => s.cv.up
  | .dn => s.cv.dn

/-- A state with one port changed. -/
def State.modCv (s : State) (l : Link) (f : CvPort → CvPort) : State :=
  match l with
  | .up => { s with cv := { s.cv with up := f s.cv.up } }
  | .dn => { s with cv := { s.cv with dn := f s.cv.dn } }

/-- A field of the status or count register of a port, given for `UP` and for `DN`. -/
def linkFld (l : Link) (up dn : Fld) : Fld := match l with | .up => up | .dn => dn

/-- The other port. -/
def otherLink : Link → Link
  | .up => .dn
  | .dn => .up

/-- The link of a port is trained (R422). -/
def linkUp (s : State) (l : Link) : Bool :=
  s.pd 8 && s.flag (linkFld l F.CV_UP_STAT.LINK_UP F.CV_DN_STAT.LINK_UP)

/-- Flit types by number (R425). -/
def typEnum : BitVec 4 := 4
def typEnumEnd : BitVec 4 := 5
def typFrame : BitVec 4 := 6
def typReply : BitVec 4 := 7
def typBcast : BitVec 4 := 8
def typBarrier : BitVec 4 := 9
def typMch : BitVec 4 := 10
def typData : BitVec 4 := 11

/-- The types that carry a sequence number (R425). -/
def sequencedType (t : BitVec 4) : Bool := decide (4 ≤ t.toNat) && decide (t.toNat ≤ 11)

/-- The order in which waiting flits leave (R427): BCAST and BARRIER, MCH, FRAME and REPLY, DATA; enumeration goes with FRAME
and REPLY. -/
def flitRank (t : BitVec 4) : Nat :=
  if t = typBcast ∨ t = typBarrier then 0
  else if t = typMch then 1
  else if t = typData then 3
  else 2

/-- A flit put among the waiting ones, behind those of its rank. -/
def enqueueFlit (f : CvFlit) : List CvFlit → List CvFlit
  | [] => [f]
  | g :: l => if flitRank f.typ < flitRank g.typ then f :: g :: l else g :: enqueueFlit f l

/-- The first payload byte of a message: target and source (R425). -/
def targetByte (target source : Nat) : Byte := BitVec.ofNat 8 (target % 16 + source % 16 * 16)

/-- The `n` payload bytes from `k` on whose layout the spec does not give (R425, assumption log 151). -/
def openBytes (typ : Nat) (values : List Int) (k n : Nat) : List Byte := (List.range n).map fun i => Config.flitByte typ values (k + i)

/-- The values a broadcast carries (R441 to R443). -/
def bcastValues : Bcast → List Int
  | .whistle t => [0, t]
  | .reset l3 writer => [1, bitOf l3, writer.toNat]
  | .gather latch => [2, latch]

/-- The payload bytes of a message that the device `own` sends (R425, R432): target and source, byte 1, and the content, each word most
significant byte first. A forwarded flit keeps its payload. -/
def CvMsg.payload (own : Nat) : CvMsg → List Byte
  | .enum id => targetByte (Config.flitByte 4 [id.toNat] 0).toNat own :: openBytes 4 [id.toNat] 1 11
  | .enumEnd n ovf conf => targetByte 0 own :: BitVec.ofNat 8 (bitOf ovf + 2 * bitOf conf) :: openBytes 5 [n.toNat] 2 10
  | .frame dev idx h ws => targetByte dev.toNat own :: idx.setWidth 8 :: wordsBytes (h :: ws)
  | .reply dev idx h ws => targetByte 0 dev.toNat :: idx.setWidth 8 :: wordsBytes (h :: ws)
  | .bcast op => targetByte (Config.flitByte 8 (bcastValues op) 0).toNat own :: openBytes 8 (bcastValues op) 1 11
  | .barrier => targetByte (Config.flitByte 9 [] 0).toNat own :: openBytes 9 [] 1 1
  | .mch dev d => targetByte (Config.flitByte 10 [d.chan.val] 0).toNat dev.toNat :: openBytes 10 [d.chan.val, d.pos, d.stamp] 1 11
  | .data dev ws => targetByte 0 dev.toNat :: openBytes 11 [] 1 1 ++ wordsBytes ws
  | .time stamp frac deg hops =>
    (List.range 8).map (fun i => BitVec.ofNat 8 (stamp / 2 ^ (8 * i))) ++ [BitVec.ofNat 8 (frac % 8 + 128 * bitOf deg), BitVec.ofNat 8 hops]
  | .nak seq => [seq.setWidth 8]
  | .ping => openBytes 3 [] 0 12
  | .idle => openBytes 0 [] 0 12
  | .forwarded bytes => (bytes.drop 2).take 12

/-- The 16 bytes of a flit (R423, R424): header, its 12 payload bytes of the message, CRC. -/
def flitBytes (own : Nat) (f : CvFlit) : List Byte :=
  let hdr : BitVec 16 := f.seq ++ f.ack ++ f.typ ++ BitVec.ofBool f.last ++ (0 : BitVec 1)
  let b := hdr.extractLsb' 8 8 :: hdr.setWidth 8 :: takePad 0 12 ((f.msg.payload own).drop (12 * f.part))
  let c := crc16 b
  b ++ [c.extractLsb' 8 8, c.setWidth 8]

/-- The device's own ID. -/
def devId (s : State) : Nat := s.get F.CV_STAT.DEV_ID

/-- Flits leave a port, each with the number of the last flit received in order as its `ACK` (R423). -/
def transmit (l : Link) (fs : List CvFlit) (s : State) : State :=
  { s with cv := { s.cv with tx := s.cv.tx ++ fs.map fun f =>
    let f := { f with ack := (s.cvPort l).rxSeq - 1 }
    (l, { f with bytes := flitBytes (devId s) f }) } }

/-- Waiting flits leave while the replay buffer admits them (R426): at most 31 are unacknowledged. -/
def pumpPort (l : Link) : Nat → State → State
  | 0, s => s
  | n + 1, s =>
    let p := s.cvPort l
    match p.waiting with
    | [] => s
    | f :: rest =>
      if 31 ≤ p.replay.length then s
      else
        let f := { f with seq := p.txSeq }
        pumpPort l n (transmit l [f] (s.modCv l fun p => { p with txSeq := p.txSeq + 1, replay := p.replay ++ [f], waiting := rest }))

/-- Sequenced flits go to a port; they are lost where the link is down. -/
def sendFlits (l : Link) (fs : List CvFlit) (s : State) : State :=
  if ¬ linkUp s l then s
  else pumpPort l 31 (s.modCv l fun p => { p with waiting := fs.foldl (fun w f => enqueueFlit f w) p.waiting })

/-- A flit of a message before it has its number. -/
def plainFlit (typ : BitVec 4) (part : Nat) (last : Bool) (msg : CvMsg) : CvFlit :=
  { typ := typ, seq := 0, ack := 0, part := part, last := last, msg := msg, bytes := [] }

/-- A message of `n` sequenced flits goes to a port. -/
def sendMsg (l : Link) (typ : BitVec 4) (n : Nat) (msg : CvMsg) (s : State) : State :=
  sendFlits l ((List.range n).map fun i => plainFlit typ i (i + 1 == n) msg) s

/-- An unsequenced flit leaves a port (R425). -/
def sendPlain (l : Link) (typ : BitVec 4) (msg : CvMsg) (s : State) : State :=
  if ¬ linkUp s l then s else transmit l [plainFlit typ 0 true msg] s

/-- The flits of a message with `n` content bytes after its two target bytes: ten in the first, twelve in each other
(R425). -/
def flitCount (n : Nat) : Nat := if n ≤ 10 then 1 else 1 + (n - 10 + 11) / 12

/-- An `ACK` covers the front of the replay buffer (R426). -/
def ackPort (l : Link) (ack : BitVec 5) (s : State) : State :=
  let p := s.cvPort l
  match p.replay.findIdx? fun f => f.seq = ack with
  | none => s
  | some i => pumpPort l 31 (s.modCv l fun p => { p with replay := p.replay.drop (i + 1), tries := 0 })

/-! ### Roles -/

/-- The device is the last of its stack (R430, R437): the size goes upward. -/
def lastDevice (s : State) : State :=
  sendMsg .up typEnumEnd 1 (.enumEnd (BitVec.ofNat 5 (devId s + 1)) false false) (s.set F.CV_STAT.STACK_N (devId s + 1))

/-- A device with an ID offers the next one on `DN` (R430), or is the last device where `DN_EN` = 0. -/
def offerId (s : State) : State :=
  if ¬ s.flag F.CV_CFG.DN_EN then lastDevice s
  else if linkUp s .dn then sendMsg .dn typEnum 1 (.enum (BitVec.ofNat 5 (devId s + 1))) s
  else s

/-- The device takes the Captain's role and ID 0 (R428, R430). -/
def becomeCaptain (s : State) : State :=
  let s := (s.set F.CV_STAT.ROLE 1).set F.CV_STAT.DEV_ID 0
  offerId { s with cv := { s.cv with hasId := true, idAt := s.now } }

/-- The role taken from `STACK_ROLE` (R428). -/
def takeRole (s : State) : State :=
  match s.get F.CV_CFG.STACK_ROLE with
  | 1 => becomeCaptain s
  | 2 => { (s.set F.CV_STAT.ROLE 2) with cv := { s.cv with timeAt := some s.now } }
  | _ => s

/-- An UNDECIDED device under AUTO becomes Captain when `HP` accepts a frame while `UP` has never come up (R428). -/
def roleFromFrame (s : State) : State :=
  let auto := s.get F.CV_CFG.STACK_ROLE
  if s.get F.CV_STAT.ROLE = 0 ∧ (auto = 0 ∨ auto = 3) ∧ ¬ s.cv.upEver then becomeCaptain s else s

/-- Two Captains have met, over a port and with the ID that was offered (R429): in RUN the device enters HALT. -/
def setConflict (l : Link) (id : Nat) (s : State) : State :=
  autoTransit 6 4 { (s.set F.CV_STAT.ROLE_CONFLICT 1) with cv := { s.cv with conflict := some (l, id, false) } }

/-- The conflicting link has dropped and trained again to a squad member (R429): `UP` has dropped and trained again, or the stack
reported from `DN` holds the device of the ID offered. -/
def conflictOver (l : Link) (n : Nat) (s : State) : Bool :=
  match s.cv.conflict with
  | some (k, id, dropped) => k == l && (match l with | .up => dropped | .dn => decide (id < n))
  | none => false

/-- A conflict that is over clears. -/
def clearConflict (l : Link) (n : Nat) (s : State) : State :=
  if conflictOver l n s then { (s.set F.CV_STAT.ROLE_CONFLICT 0) with cv := { s.cv with conflict := none } } else s

/-! ### The Captain's losses -/

/-- The read-out ends when no slot is awaited (R443). -/
def gatherCheck (s : State) : State :=
  if s.flag F.CV_OPS.GATHER_BUSY ∧ s.cv.gatherWait = 0 then (s.set F.CV_OPS.GATHER_BUSY 0).raise F.CV_OPS.GATHER_DONE else s

/-- An absent slot: `VALID` = 0 and the ID (R443). -/
def absentSlot (id : Nat) : List Word := BitVec.ofNat 32 (id * 256) :: List.replicate 511 0

/-- The awaited slots of IDs from `n` on are marked absent (R443, R445). -/
def gatherLost (n : Nat) (s : State) : State :=
  let ids := (List.range 16).filter fun i => decide (n ≤ i) && s.cv.gatherWait.getLsbD i
  gatherCheck { s with cv := { s.cv with
    gather := s.cv.gather ++ ids.map fun i => (i, absentSlot i)
    gatherWait := s.cv.gatherWait &&& BitVec.ofNat 16 (2 ^ n - 1) } }

/-- A barrier ends by the loss of a link (R440, R445). -/
def barrierFails (s : State) : State :=
  if s.flag F.CV_OPS.BAR_BUSY then
    { ((s.set F.CV_OPS.BAR_BUSY 0).raise F.CV_OPS.BAR_FAIL).raise F.CV_OPS.BAR_DONE with cv := { s.cv with barStart := none } }
  else s

/-- The size of the stack falls to `n` at the Captain (R437): a link of the stack has gone down, which ends a running barrier
(R440). -/
def squadShrinks (n : Nat) (s : State) : State :=
  let lost := decide (n < s.get F.CV_STAT.STACK_N)
  let s := if lost then barrierFails (s.raise F.CV_STAT.SQUAD_LOST) else s
  let s := s.set F.CV_STAT.STACK_N n
  let s := { s with ip := { s.ip with routes := s.ip.routes.map fun r =>
    if r.reply = .waiting ∧ n ≤ r.dev.toNat then { r with reply := .lost } else r } }
  gatherLost n s

/-! ### Loss of the Captain -/

/-- A squad member loses its Captain (R436). -/
def captLost (s : State) : State :=
  if ¬ isMember s ∨ s.flag F.CV_STAT.CAPT_LOST then s
  else
    let s := (s.set F.CV_STAT.CAPT_LOST 1).raise F.CV_STAT.CAPT_LOST_EVT
    let s := (s.set F.TB_STATUS.SRC 0).set F.TB_STATUS.TIMEBASE_DEGRADED 1
    let s := (s.set F.CV_STAT.TIME_LOCK 0).set F.CV_STAT.TIME_SLEW 0
    { s with cv := { s.cv with errOkFrom := none, slewPpm := 0, lossEnd := some (s.now + s.get F.CV_CFG.LOSS_TMO * msT) } }

/-- CAPT_LOST: the `UP` link has gone down, or no TIME flit has arrived for 4 µs (R436), counted from the squad role on before the
first one (DEDUCED, assumption log 152). -/
def captLostAt (t : Nat) (s : State) : State :=
  let due : Bool := (s.cv.upEver && !linkUp s .up) || (match s.cv.timeAt with | some u => decide (u + 4 * usT ≤ t) | none => false)
  if due then captLost (s.at_ t) else s

/-- LOSS_TMO_EXPIRE: the timeout ends and the device enters SAFE (R436, R504). -/
def lossTmoExpire (s : State) : State :=
  match s.cv.lossEnd with
  | none => s
  | some e => autoTransit 7 5 { (s.at_ e) with cv := { s.cv with lossEnd := none } }

/-! ### Links -/

/-- The mean one-way delay of PING exchanges: round trips less turnarounds, halved (R433), rounded (assumption log 124). -/
def pingMean (xs : List Ping) : Nat := min (divRound ((xs.map fun x => (x.trip : Int) - x.turn).sum) (2 * xs.length)).toNat 65535

/-- LINK_UP: a port has trained, with its 64 PING exchanges, from which `UP` takes its delay (R422, R428, R430, R433). A device that
becomes a squad member so keeps its time source until its first time step or lock (assumption log 116). -/
def linkComesUp (l : Link) (pings : List Ping) (s : State) : State :=
  if ¬ s.pd 8 ∨ s.blockHeld (match l with | .up => 7 | .dn => 8) ∨ linkUp s l ∨ (l = .dn ∧ ¬ s.flag F.CV_CFG.DN_EN) then s
  else
    let s := (s.set (linkFld l F.CV_UP_STAT.LINK_UP F.CV_DN_STAT.LINK_UP) 1).set
      (linkFld l F.CV_UP_STAT.PARTNER F.CV_DN_STAT.PARTNER) 1
    let s := transmit l (List.replicate 64 (plainFlit 3 0 true .ping)) (s.modCv l fun _ => CvPort.reset)
    match l with
    | .up =>
      let auto := s.get F.CV_CFG.STACK_ROLE
      let s := if s.get F.CV_STAT.ROLE = 0 ∧ (auto = 0 ∨ auto = 3) then s.set F.CV_STAT.ROLE 2 else s
      clearConflict .up 0 { (s.set F.CV_TIME.UP_DELAY (pingMean pings)) with cv := { s.cv with
        upEver := true, timeAt := some s.now, pings := pings.take 16, timeRef := none, rate := none } }
    | .dn => if s.cv.hasId && s.get F.CV_STAT.ROLE != 3 then offerId s else s

/-- LINK_DOWN: a trained link goes down and its port trains again (R422, R436, R437, R445). -/
def linkGoesDown (l : Link) (s : State) : State :=
  if ¬ linkUp s l then s
  else
    let s := (s.set (linkFld l F.CV_UP_STAT.LINK_UP F.CV_DN_STAT.LINK_UP) 0).set
      (linkFld l F.CV_UP_STAT.PARTNER F.CV_DN_STAT.PARTNER) 0
    let s := (s.raise (linkFld l F.CV_UP_STAT.LINK_DROP F.CV_DN_STAT.LINK_DROP)).inc
      (linkFld l F.CV_UP_STAT.RETRAIN_CNT F.CV_DN_STAT.RETRAIN_CNT)
    let s := barrierFails (s.modCv l fun _ => CvPort.reset)
    let s : State := if l = .up then { s with cv := { s.cv with barHeld := none } } else s
    let s : State := match s.cv.conflict with
      | some (k, id, _) => if k = l then { s with cv := { s.cv with conflict := some (l, id, true) } } else s
      | none => s
    match l with
    | .up => captLost s
    | .dn =>
      if isCaptain s then squadShrinks 1 s
      else if s.cv.hasId then lastDevice s
      else s

/-- A write has set `DN_EN` to 0 (R422, R430): the port is enabled no more, its link goes down (DESIGN CHOICE, assumption log
154: `LINK_DROP` is raised), and a device with an ID is the last of its stack. -/
def dnDisabled (s : State) : State :=
  if linkUp s .dn then linkGoesDown .dn s else if s.cv.hasId ∧ s.get F.CV_STAT.ROLE ≠ 3 then lastDevice s else s

/-- Both links go down with `PD8` (R516, R517). -/
def linksOff (s : State) : State :=
  let s := linkGoesDown .dn (linkGoesDown .up s)
  { s with pw := { s.pw with on := s.pw.on &&& ~~~ 0x100 } }

/-- TRAIN_FAIL: training has not completed within 200 µs of partner detection (R422, R446). -/
def trainFail (l : Link) (s : State) : State :=
  if ¬ s.pd 8 ∨ linkUp s l then s
  else (s.set (linkFld l F.CV_UP_STAT.PARTNER F.CV_DN_STAT.PARTNER) 1).raise
    (linkFld l F.CV_UP_STAT.TRAIN_FAIL F.CV_DN_STAT.TRAIN_FAIL)

/-! ### Enumeration -/

/-- ENUM_RECEIVE: an ID is offered on `UP` (R429 to R431, R445). -/
def enumReceive (id : BitVec 5) (s : State) : State :=
  if ¬ linkUp s .up then s
  else match s.get F.CV_STAT.ROLE with
  | 1 => setConflict .up id.toNat (sendMsg .up typEnumEnd 1 (.enumEnd id false true) s)
  | 2 =>
    if s.cv.hasId then
      (if id.toNat = devId s then offerId s
       else (s.set F.CV_STAT.ID_MISMATCH 1).set F.CV_STAT.ROLE 3)
    else if id.toNat = 16 then
      sendMsg .up typEnumEnd 1 (.enumEnd 16 true false) (s.set F.CV_STAT.ROLE 3)
    else
      let s := s.set F.CV_STAT.DEV_ID id.toNat
      offerId { s with cv := { s.cv with hasId := true, idAt := s.now } }
  | _ => s

/-- ENUM_END_RECEIVE: the stack size comes up from `DN` (R429, R430, R431, R437). -/
def enumEndReceive (count : BitVec 5) (ovf conf : Bool) (s : State) : State :=
  if ¬ linkUp s .dn then s
  else
    let s := if ovf && devId s == 15 then s.raise F.CV_STAT.STACK_OVERFLOW else s
    if isCaptain s then
      let s := squadShrinks count.toNat s
      if conf then setConflict .dn count.toNat s else clearConflict .dn count.toNat s
    else sendMsg .up typEnumEnd 1 (.enumEnd count ovf conf) (s.set F.CV_STAT.STACK_N count.toNat)

/-- DN_PARTNER_TIMEOUT: a device with an ID and no partner on `DN` for 1 ms is the last of the stack (R430). -/
def dnPartnerTimeout (s : State) : State :=
  if ¬ s.cv.hasId ∨ s.get F.CV_STAT.ROLE = 3 ∨ linkUp s .dn then s
  else
    lastDevice (s.at_ (s.cv.idAt + msT))

/-! ### Stack time -/

/-- TIME_SEND: a Captain, or a locked squad member, sends stack time on `DN` (R432). -/
def timeSend (s : State) : State :=
  if isCaptain s || (s.get F.CV_STAT.ROLE == 2 && s.flag F.CV_STAT.TIME_LOCK) then
    sendPlain .dn 2 (.time s.ltime (s.now % 8) (s.flag F.TB_STATUS.TIMEBASE_DEGRADED) (devId s)) s
  else s

/-- The device is still as R435 means it: no committed segment, no follower outside DISENGAGED. -/
def stackStill (s : State) : Bool :=
  allAxes.all fun a => (s.mot a).queue.isEmpty && (s.mot a).cutQueue.isEmpty && fstate s a == 0

/-- A timer's instants move with a step of `LTIME`. -/
def Timer.shift (d : Nat) (t : Timer) : Timer := { t with next := t.next + d, periodAt := t.periodAt + d }

/-- The instants of a leg's edge move with a step of `LTIME`. -/
def LegEv.shift (d : Nat) (e : LegEv) : LegEv := { e with at_ := e.at_ + d, on := e.on + d }

/-- The instants a feedback decoder measures from move with a step of `LTIME`. -/
def FbSt.shift (d : Nat) (f : FbSt) : FbSt :=
  let o : Option Nat → Option Nat := Option.map (· + d)
  { f with
    core := { f.core with
      tA := o f.core.tA, tB := o f.core.tB, tZ := o f.core.tZ, lastT := o f.core.lastT
      winFirst := o f.core.winFirst, winLast := o f.core.winLast, winAt := f.core.winAt + d }
    serLast := f.serLast.map fun x => (x.1 + d, x.2)
    serAt := o f.serAt }

/-- The instant from which the output of a comparator's filter stands moves with a step of `LTIME`. -/
def FiltSt.shift (d : Nat) (f : FiltSt) : FiltSt := { f with outAt := f.outAt + d }

/-- The instants of current control move with a step of `LTIME`. -/
def CcSt.shift (d : Nat) (c : CcSt) : CcSt := { c with
  w := c.w.map fun w => { w with chop := { w.chop with from_ := w.chop.from_ + d, since := w.chop.since + d } }
  comp := c.comp.map fun x => { x with t0 := x.t0 + d }
  ocHold := c.ocHold.map (· + d)
  oc := c.oc.map (FiltSt.shift d)
  energAt := c.energAt + d }

/-- The instants a follower and its axis' motion measure from move with a step of `LTIME`. -/
def FollowSt.shift (d : Nat) (f : FollowSt) : FollowSt := { f with
  stepTb := f.stepTb + d
  stepLast := f.stepLast.map fun x => (x.1 + d, x.2) }

def MotionSt.shift (d : Nat) (m : MotionSt) : MotionSt := { m with
  stillAt := m.stillAt.map (· + d)
  energiseEnd := m.energiseEnd.map (· + d)
  recordDue := m.recordDue.map (· + d)
  cut := m.cut.map fun c => { c with at_ := c.at_ + d, due := c.due + d }
  brake := m.brake.map fun b => { b with from_ := b.from_ + d, at_ := b.at_ + d } }

/-- The instants of gate drive move with a step of `LTIME`. -/
def GateSt.shift (d : Nat) (g : GateSt) : GateSt := { g with
  escEnd := g.escEnd.map (· + d)
  letAt := g.letAt.map (· + d)
  lowAt := g.lowAt.map (· + d)
  bstAt := g.bstAt.map (Option.map (· + d))
  sn := g.sn.map (FiltSt.shift d)
  fltAt := g.fltAt + d }

/-- The instants of one axis move with a step of `LTIME`. -/
def AxisSt.shift (d : Nat) (x : AxisSt) : AxisSt := { x with
  mot := x.mot.shift d
  fol := x.fol.shift d
  gd := x.gd.shift d
  pwm := { x.pwm with timer := x.pwm.timer.shift d, legs := x.pwm.legs.map (·.map (LegEv.shift d)) }
  cc := x.cc.shift d
  la := { x.la with boostEnd := x.la.boostEnd.map (· + d) }
  probe := x.probe.map fun p => { p with at_ := p.at_ + d }
  probeAt := x.probeAt.map (· + d)
  fb := x.fb.shift d }

/-- The instants of a port and of its session move with a step of `LTIME`. -/
def PortSt.shift (d : Nat) (p : PortSt) : PortSt := { p with
  readyAt := if p.readyAt = 0 then 0 else p.readyAt + d
  lastFall := p.lastFall + d
  lastRise := p.lastRise + d }

def SessPort.shift (d : Nat) (p : SessPort) : SessPort := { p with
  sess := p.sess.map fun x => { x with lastAt := x.lastAt + d }
  lockEnd := p.lockEnd.map (· + d) }

/-- The instants of the Locker move with a step of `LTIME`. -/
def LkSt.shift (d : Nat) (k : LkSt) : LkSt := { k with
  jobs := k.jobs.map fun j => { j with since := j.since + d }
  reads := k.reads.map fun r => { r with req := { r.req with t := r.req.t + d } }
  scrubAt := k.scrubAt + d
  banks := k.banks.map fun b => { b with
    busy := b.busy.map fun a => { a with endAt := a.endAt + d }
    letEnd := b.letEnd.map (Option.map (· + d)) } }

/-- The instants of the measurement unit move with a step of `LTIME`. -/
def MsSt.shift (d : Nat) (m : MsSt) : MsSt := { m with
  wm := m.wm.map fun w => { w with hold := w.hold.map (· + d), since := w.since.map (· + d), filt := w.filt.map (FiltSt.shift d) }
  tripAt := m.tripAt.map (Option.map (· + d)) }

/-- The instants of the stack move with a step of `LTIME`. -/
def CvSt.shift (d : Nat) (c : CvSt) : CvSt := { c with
  timeAt := c.timeAt.map (· + d)
  lossEnd := c.lossEnd.map (· + d)
  barStart := c.barStart.map (· + d)
  barHeld := c.barHeld.map fun l => l.map fun r => { r with t := r.t + d }
  timeRef := c.timeRef.map fun x => (x.1, x.2 + d)
  idAt := c.idAt + d }

/-- `LTIME` steps forward by `d` (R435): instants already timed keep their distance from the present. The samples of a channel
that is fed over the stack are stamped with stack time and stay. -/
def stepTime (d : Nat) (s : State) : State :=
  let o : Option Nat → Option Nat := Option.map (· + d)
  let own (c : Fin 4) (x : MchSt) : MchSt := { x with
    lastAt := x.lastAt + d
    samples := if s.get (F.MCH_CFG.SRC c) = 3 then x.samples else x.samples.map fun p => (p.1 + d, p.2) }
  let s1 := s.each allAxes fun a s => s.modAx a (AxisSt.shift d)
  { s1 with
    now := s.now + d
    mch := Vector.ofFn fun c : Fin 4 => own c s.mch[c]
    priv := s.priv.map fun p => { p with timer := p.timer.shift d }
    hp := s.hp.shift d
    aux := s.aux.shift d
    ip := { s.ip with pendReset := s.ip.pendReset.map fun p => { p with deadline := p.deadline + d } }
    pw := { s.pw with sleepPend := s.pw.sleepPend.map fun p => (p.1, p.2 + d) }
    tb := { s.tb with testFrom := s.tb.testFrom + d }
    ms := s.ms.shift d
    bk := { s.bk with stoDiffAt := o s.bk.stoDiffAt, stoAt := s.bk.stoAt.map o }
    sec := { s.sec with
      hp := s.sec.hp.shift d
      aux := s.sec.aux.shift d
      auditRate := s.sec.auditRate.map fun e => (e.1, e.2 + d) }
    wh := { s.wh with holdEnd := o s.wh.holdEnd, driveEnd := o s.wh.driveEnd }
    cv := s.cv.shift d
    auxm := { s.auxm with riseAt := s.auxm.riseAt + d, idleEnd := s.auxm.idleEnd + d }
    lk := s.lk.shift d }

/-- A slew begins, goes on or ends (R435): the further rate of `LTIME` toward stack time. -/
def slewTime (ppm : Int) (s : State) : State :=
  { (s.setB F.CV_STAT.TIME_SLEW (ppm != 0)) with cv := { s.cv with slewPpm := ppm } }

/-- An unlocked squad member acts on the difference `D` = stack time − `LTIME`, in 125 ps (R435). The difference left is returned; after
a step the error is taken anew. -/
def timeAct (diff : Int) (deg : Bool) (s : State) : State × Int :=
  if 0 < diff ∧ stackStill s then
    let s := stepTime diff.toNat s
    let s := ((slewTime 0 s).set F.TB_STATUS.SRC 2).setB F.TB_STATUS.TIMEBASE_DEGRADED deg
    ({ (s.set F.CV_STAT.TIME_FAR 0) with cv := { s.cv with errOkFrom := none } }, 0)
  else if diff.natAbs ≤ 10 * msT then ((slewTime (1000 * diff.sign) s).set F.CV_STAT.TIME_FAR 0, diff)
  else ((slewTime 0 s).set F.CV_STAT.TIME_FAR 1, diff)

/-- The progress of stack time and of `LTIME` from the TIME flit before to this one: the rate of the oscillator (R433). -/
def takeRate (stack : Nat) (s : State) : State :=
  { s with cv := { s.cv with
    rate := match s.cv.timeRef with | some (k, u) => some ((stack : Int) - k, (s.now : Int) - u) | none => s.cv.rate
    timeRef := some (stack, s.now) } }

/-- Stack time in 125 ps units from bytes 0 to 8 of a TIME payload (R432). -/
def stampOf (time : List Byte) (mark : Byte) : Nat := bytesNat time.reverse * 8 + mark.toNat % 8

/-- TIME_RECEIVE: a TIME flit arrives at instant `t` of the device's own `LTIME`, with bytes 0 to 7, 8 and 9 of its payload (R432 to
R436). -/
def timeReceive (time : List Byte) (mark _hops : Byte) (t : Nat) (s : State) : State :=
  if ¬ isMember s ∨ ¬ linkUp s .up then s
  else
    let s := s.at_ t
    let stack := stampOf time mark + s.get F.CV_TIME.UP_DELAY
    let deg := mark.getLsbD 7
    let diff : Int := (stack : Int) - (s.now : Int)
    let s := (takeRate stack s).set F.CV_TIME.TIME_ERR (toBits 16 (clampInt (-32768) 32767 diff))
    let s := s.set F.CV_STAT.CAPT_LOST 0
    let s := { s with cv := { s.cv with timeAt := some s.now, lossEnd := none, captDeg := deg } }
    let s := if 40 < diff.natAbs then s.set F.CV_STAT.TIME_LOCK 0 else s
    let r := if s.flag F.CV_STAT.TIME_LOCK then (s.setB F.TB_STATUS.TIMEBASE_DEGRADED deg, diff) else timeAct diff deg s
    let s := r.1
    { s with cv := { s.cv with
      errOkFrom := if r.2.natAbs ≤ 8 then some (s.cv.errOkFrom.getD s.now) else none } }

/-- TIME_LOCK: the error has stayed within 1 ns for 100 µs (R434). -/
def timeLock (t : Nat) (s : State) : State :=
  match s.cv.errOkFrom with
  | none => s
  | some u =>
    if ¬ isMember s ∨ s.flag F.CV_STAT.CAPT_LOST ∨ t < u + 100 * usT then s
    else
      let s := slewTime 0 ((s.at_ t).set F.CV_STAT.TIME_LOCK 1)
      (s.set F.TB_STATUS.SRC 2).setB F.TB_STATUS.TIMEBASE_DEGRADED s.cv.captDeg

/-- PING_EXCHANGE: an exchange on `UP`; the delay in force is the mean of the last 16, those of the training before the first among
them (R433, assumption log 124). -/
def pingExchange (x : Ping) (s : State) : State :=
  if ¬ linkUp s .up then s
  else
    let l := (x :: s.cv.pings).take 16
    sendPlain .up 3 .ping { (s.set F.CV_TIME.UP_DELAY (pingMean l)) with cv := { s.cv with pings := l } }

/-! ### Global operations -/

/-- A BCAST leaves both ports (R439). -/
def broadcast (op : Bcast) (s : State) : State :=
  let n := match op with | .whistle _ => 1 | .reset _ _ => 1 | .gather _ => 1
  sendMsg .dn typBcast n (.bcast op) (sendMsg .up typBcast n (.bcast op) s)

/-- BARRIER: a write of 1 to `CV_CTRL.BARRIER` (R440); the flag says whether it was taken. A Captain alone is the last
device of its stack. -/
def barrierStart (s : State) : State × Bool :=
  if ¬ isCaptain s ∨ s.flag F.CV_OPS.BAR_BUSY then (s, false)
  else if linkUp s .dn then
    (sendMsg .dn typBarrier 1 .barrier { (s.set F.CV_OPS.BAR_BUSY 1) with cv := { s.cv with barStart := some s.now } }, true)
  else ((s.raise F.CV_OPS.BAR_DONE).set F.CV_OPS.BAR_TIME 0, true)

/-- The routed frames that came over `UP` and have no reply yet. -/
def routedWaits (s : State) : List Req := (s.lk.reads.filter fun r => r.req.port == .up).map (·.req)

/-- A BARRIER flit goes on: down the stack, or upward from its last device (R440). -/
def barrierForward (s : State) : State :=
  if linkUp s .dn then sendMsg .dn typBarrier 1 .barrier s else sendMsg .up typBarrier 1 .barrier s

/-- A BARRIER flit that was held goes on once every frame before it has its reply (R440). -/
def barrierRelease (s : State) : State :=
  match s.cv.barHeld with
  | none => s
  | some l =>
    if l.any fun r => (routedWaits s).contains r then s
    else barrierForward { s with cv := { s.cv with barHeld := none } }

/-- BARRIER_RECEIVE: a BARRIER flit is forwarded, or held until the frames before it have their replies, or ends the barrier at
the Captain (R440). -/
def barrierReceive (fromUp : Bool) (t : Nat) (s : State) : State :=
  if fromUp then
    (if ¬ linkUp s .up then s else barrierRelease { s with cv := { s.cv with barHeld := some (routedWaits s) } })
  else if ¬ linkUp s .dn then s
  else if isCaptain s then
    match s.cv.barStart with
    | none => s
    | some u =>
      let s := s.at_ t
      { (((s.set F.CV_OPS.BAR_BUSY 0).raise F.CV_OPS.BAR_DONE).set F.CV_OPS.BAR_TIME (min ((s.now - u) / 80) 65535)) with
        cv := { s.cv with barStart := none } }
  else sendMsg .up typBarrier 1 .barrier s

/-- A gather slot's 512 words (R443). -/
def gatherSlot (id : Nat) (valid mismatch : Bool) (latch : Nat) (words : List Word) : List Word :=
  [BitVec.ofNat 32 (bitOf valid + 2 * bitOf mismatch + 256 * id), BitVec.ofNat 32 latch, BitVec.ofNat 32 (latch / 2 ^ 32), 0]
    ++ takePad 0 508 words

/-- GATHER: a write of 1 to `CV_CTRL.GATHER` (R443); the flag says whether it was taken. -/
def gatherStart (s : State) : State × Bool :=
  if ¬ isCaptain s ∨ s.flag F.CV_OPS.GATHER_BUSY then (s, false)
  else
    let latch := s.wh.latchT / nsT
    let own := match s.wh.snap with
      | some ws => gatherSlot 0 true false latch ws
      | none => absentSlot 0
    let n := s.get F.CV_STAT.STACK_N
    let s := s.set F.CV_OPS.GATHER_BUSY 1
    let s := { s with cv := { s.cv with
      gather := [(0, own)], gatherWait := BitVec.ofNat 16 ((2 ^ n - 1) / 2 * 2), gatherLatch := latch } }
    let s := if linkUp s .dn then s else gatherLost 1 s
    (gatherCheck (broadcast (.gather latch) s), true)

/-- A latch differs from the Captain's by more than 20 ns (R443). -/
def latchFar (x y : Nat) : Bool := decide (20 < (x : Int) - y) || decide (20 < (y : Int) - x)

/-- DATA_RECEIVE: a squad member's snapshot set arrives (R443): `MISMATCH` where its latch differs by more than 20 ns. -/
def dataReceive (src : BitVec 4) (valid : Bool) (latch : Nat) (words : List Word) (s : State) : State :=
  if ¬ s.flag F.CV_OPS.GATHER_BUSY ∨ ¬ s.cv.gatherWait.getLsbD src.toNat then s
  else
    let slot := if valid then gatherSlot src.toNat true (latchFar latch s.cv.gatherLatch) latch words else absentSlot src.toNat
    gatherCheck { s with cv := { s.cv with
      gather := s.cv.gather ++ [(src.toNat, slot)]
      gatherWait := s.cv.gatherWait &&& ~~~ BitVec.ofNat 16 (2 ^ src.toNat) } }

/-- A squad member answers a gather request, which names the Captain's latch, with its latest snapshot set (R443): 2,048 bytes. -/
def gatherAnswer (latch : Nat) (s : State) : State :=
  let own := s.wh.latchT / nsT
  let ws := match s.wh.snap with
    | some ws => gatherSlot (devId s) true (latchFar own latch) own ws
    | none => absentSlot (devId s)
  if isCaptain s ∨ ¬ s.cv.hasId then s
  else sendMsg .up typData (flitCount 2048) (.data (BitVec.ofNat 4 (devId s)) ws) s

/-! ### Flits -/

/-- A NAK names the flit expected (R426). -/
def sendNak (l : Link) (s : State) : State := sendPlain l 1 (.nak (s.cvPort l).rxSeq) s

/-- A discarded flit is counted (R426). -/
def countBad (l : Link) (s : State) : State := s.inc (linkFld l F.CV_UP_CNT.CRC_ERR F.CV_DN_CNT.CRC_ERR)

/-- A NAK makes the port send again from the flit it names, which acknowledges those before (R426); the eighth replay of one flit takes the link down
(R422). -/
def nakReceive (l : Link) (seq : BitVec 5) (s : State) : State :=
  if ¬ linkUp s l then s
  else
    let p := s.cvPort l
    match p.replay.findIdx? fun f => f.seq = seq with
    | none => s
    | some i =>
      let s := s.modCv l fun p => { p with replay := p.replay.drop i, tries := if i = 0 then p.tries + 1 else 1 }
      let s := s.inc (linkFld l F.CV_UP_CNT.REPLAY_CNT F.CV_DN_CNT.REPLAY_CNT)
      if 8 ≤ (s.cvPort l).tries then linkGoesDown l s
      else pumpPort l 31 (transmit l (s.cvPort l).replay s)

/-- The device routes FRAME flits (R428, R431): a squad member that has its Captain. -/
def routesFrames (s : State) : Bool := s.get F.CV_STAT.ROLE == 2 && !s.flag F.CV_STAT.CAPT_LOST

/-- A received flit goes on as it came, through a port. -/
def relayFlit (l : Link) (typ : BitVec 4) (last : Bool) (bytes : List Byte) (s : State) : State :=
  sendFlits l [plainFlit typ 0 last (.forwarded bytes)] s

/-- A FRAME flit from above (R427, R428): the first of its message names the target, and the others go where it went. -/
def relayFrame (last : Bool) (bytes : List Byte) (s : State) : State :=
  let on := s.cv.up.frameOn.getD (decide ((bytes.getD 2 0).toNat % 16 ≠ devId s))
  let s := s.modCv .up fun p => { p with frameOn := if last then none else some on }
  if on && routesFrames s then relayFlit .dn typFrame last bytes s else s

/-- A flit that is not for this device is forwarded (R427, R444): FRAME down, REPLY and DATA up, MCH away from its port. -/
def forwardFlit (l : Link) (typ : BitVec 4) (last : Bool) (bytes : List Byte) (s : State) : State :=
  if typ = typFrame then (match l with | .up => relayFrame last bytes s | .dn => s)
  else if typ = typReply ∨ typ = typData then (if isCaptain s then s else relayFlit .up typ last bytes s)
  else if typ = typMch then relayFlit (otherLink l) typ last bytes s
  else s

/-- An IDLE carries the `ACK` of a port on which nothing else leaves (R425, R426). -/
def sendIdle (l : Link) (s : State) : State := if s.cv.tx.any fun f => f.1 == l then s else sendPlain l 0 .idle s

/-- A sample of a stack channel reaches the channels that subscribe to it (R110, R444). -/
def mchArrive (src : BitVec 4) (d : MchData) (t : Nat) (s : State) : State :=
  s.each (List.finRange 4) fun c s =>
    if s.get (F.MCH_CFG.SRC c) = 3 ∧ s.get (F.MCH_CFG.SDEV c) = src.toNat ∧ s.get (F.MCH_CFG.SCH c) = d.chan.val then
      mchReceive c (d.stamp * nsT) d.pos (s.at_ t)
    else s

/-- FLIT_RECEIVE: a flit of 16 bytes arrives on a port (R423, R424, R426): it is checked, its `ACK` is taken, a sequenced
one must come in order and is acknowledged, and it is forwarded where it is not for this device. A PING on `DN` is answered with one.
`sample` is what an MCH flit carries. -/
def flitReceive (l : Link) (bytes : List Byte) (sample : Option MchData) (t : Nat) (s : State) : State :=
  if ¬ linkUp s l ∨ bytes.length ≠ 16 then s
  else
    let s := s.at_ t
    let hdr : BitVec 16 := bytes.getD 0 0 ++ bytes.getD 1 0
    let seq := BitVec.ofNat 5 (hdr.toNat / 2048)
    let typ := BitVec.ofNat 4 (hdr.toNat / 4)
    let crcOk := crc16 (bytes.take 14) == bytes.getD 14 0 ++ bytes.getD 15 0
    if ¬ crcOk then
      (if sequencedType typ then sendNak l (countBad l s) else countBad l s)
    else if 12 ≤ typ.toNat then countBad l s
    else
      let s := ackPort l (BitVec.ofNat 5 (hdr.toNat / 64)) s
      if ¬ sequencedType typ then (if typ = 3 ∧ l = .dn then sendPlain .dn 3 .ping s else s)
      else if seq ≠ (s.cvPort l).rxSeq then sendNak l (countBad l s)
      else
        let s := s.modCv l fun p => { p with rxSeq := p.rxSeq + 1 }
        let s := sendIdle l (forwardFlit l typ (hdr.getLsbD 1) bytes s)
        match sample with
        | some d => if typ = typMch then mchArrive (BitVec.ofNat 4 ((bytes.getD 2 0).toNat / 16)) d s.now s else s
        | none => s

/-- MCH_PUBLISH: a publishing channel sends its latest sample with its stack-time stamp out of both ports (R110, R444). -/
def mchPublish (c : Fin 4) (s : State) : State :=
  let s := s.at_ ((s.now / (10 * usT) + 1) * (10 * usT))
  if ¬ s.flag (F.MCH_CFG.PUBLISH c) then s
  else match (s.mch[c]).samples with
  | [] => s
  | x :: _ =>
    let m : CvMsg := .mch (BitVec.ofNat 4 (devId s)) { chan := c, pos := x.2, stamp := x.1 / nsT }
    sendMsg .dn typMch 1 m (sendMsg .up typMch 1 m s)

end Sys2Proof.Machine
end

