-- ==== Sys2Proof/Machine/LockerUse.lean ====
section
/-!
DEFINITION. The users of the Locker: partitions (R394, R395), the cam directory and the validation of cam tables (R116,
R117, R397, R398), the cam prefetchers (R120), the trace writer (R408, R461), the scrubber (R392), the audit writer
(R494), the stored option image (R536) and the stored Backstop table (R471, R472).
-/

namespace Sys2Proof.Machine

/-! ### Partitions -/

/-- Base and size in regions of the partitions in force: the option image loaded or written since (R395, R545). -/
def partRec (s : State) : Nat × Nat := (s.get ⟨0x64C, 5, 0⟩, s.get ⟨0x64C, 13, 8⟩)
def partCam (s : State) : Nat × Nat := (s.get ⟨0x64C, 21, 16⟩, s.get ⟨0x64C, 29, 24⟩)
def partTrc (s : State) : Nat × Nat := (s.get ⟨0x650, 5, 0⟩, s.get ⟨0x650, 13, 8⟩)

/-- The byte address at which a partition starts. -/
def partAddr (p : Nat × Nat) : Nat := 0x100000 * p.1

/-- The partition a region belongs to: 1 recipe, 2 cam, 3 trace, 0 none (R394). -/
def partOf (rec cam trc : Nat × Nat) (r : Nat) : Nat :=
  let inn (p : Nat × Nat) : Bool := decide (p.1 ≤ r) && decide (r < p.1 + p.2)
  if inn rec then 1 else if inn cam then 2 else if inn trc then 3 else 0

/-- Two partitions overlap (R395). -/
def partsMeet (p q : Nat × Nat) : Bool := decide (p.1 < q.1 + q.2) && decide (q.1 < p.1 + p.2) && p.2 != 0 && q.2 != 0

/-- The checks of R395. -/
def partsLegal (rec cam trc : Nat × Nat) : Bool :=
  !partsMeet rec cam && !partsMeet rec trc && !partsMeet cam trc
    && decide (rec.1 + rec.2 ≤ 63) && decide (cam.1 + cam.2 ≤ 63) && decide (trc.1 + trc.2 ≤ 63) && decide (rec.2 ≤ 32)

/-- The partition registers take the partitions in force, as at BOOT (R395, R540). -/
def loadParts (s : State) : State :=
  let put (b z : Fld) (p : Nat × Nat) (s : State) : State := (s.set b p.1).set z p.2
  let s := put F.LK_PART_REC.BASE F.LK_PART_REC.SIZE (partRec s) s
  let s := put F.LK_PART_CAM.BASE F.LK_PART_CAM.SIZE (partCam s) s
  put F.LK_PART_TRC.BASE F.LK_PART_TRC.SIZE (partTrc s) s

/-- The rewrites of the regions marked `INIT_PEND` run in the background (R395): 32,768 lines of zeros each, in every bank of the set
at once. One that is under way goes on; one that a reset has ended begins again (DEDUCED, assumption log 153). -/
def startRewrites (s : State) : State :=
  (List.range 64).foldl (fun s r =>
    if s.lk.initPend.getLsbD r && !serving s (.rewrite r) then
      let m := setBanks (r * 32768)
      (List.range m).foldl (fun s k =>
        addJob { who := lkInterp, why := .rewrite r, line := r * 32768 + k, step := m, left := 32768 / m - 1, bytes := some [], since := s.now } s) s
    else s) s

/-! ### The option image and the Backstop table -/

/-- The words of the option image in force (R545). -/
def imageWords (s : State) : List Word := (List.range 16).map fun i => rfGet s.regs (0x640 + 4 * i)

/-- The addresses of the limit words of one axis (R498). -/
def bkAddrs (a : Nat) : List Nat := (List.range 8).map fun i => 0x3F0000 + a * 0x40 + i * 4

/-- The Backstop table in force: eight limit words of each axis in order (R471). -/
def bkWords (s : State) : List Word := (List.range 16).flatMap fun a => (bkAddrs a).map (rfGet s.regs)

/-- An option image with its CRC in word 15 (R534). -/
def sealImage (img : List Word) : List Word := let w := takePad 0 15 img; w ++ [crc32 (wordsBytesLE w)]

/-- The option image in force becomes `img` (R545). -/
def setImage (img : List Word) (s : State) : State :=
  (List.range 16).foldl (fun s i => s.setWord (0x640 + 4 * i) ((sealImage img).getD i 0)) s

/-- Both copies of the option image are written, the primary before the mirror (R533, R536). -/
def writeImage (s : State) : State :=
  addJob { who := lkSecurity, why := .image, line := 0x1F8000, step := 1, left := 3, bytes := some [], since := s.now } s

/-- The digest of a Backstop table: the first 16 bytes of its SHA-256, as four image words (R471, R534). -/
def bkDigest (ws : List Word) : List Word := bytesToWordsLE ((wordsBytes ((sha256 (wordsBytesLE ws)).take 4)))

/-- The new option image of a store (R536): the staging words, and the table's new version and digest. -/
def storedImage (s : State) : List Word :=
  let w := imageWords s
  let d := bkDigest s.bk.table
  let w := listSet (listSet w 1 (rfGet s.regs 0x684)) 2 (rfGet s.regs 0x688)
  let w := listSet w 4 (putBits (w.getD 4 0) 31 16 ((s.get F.BK_DEV_STAT.BK_VERSION + 1) % 65536))
  (List.range 4).foldl (fun w i => listSet w (5 + i) (d.getD i 0)) w

/-- The image that a write in progress stores: that of a STORE once its table is stored, else the one in force. -/
def imageNow (s : State) : List Word := sealImage (if s.bk.storing ∧ s.bk.imaging then storedImage s else imageWords s)

/-- The line of the system region from which the Backstop table is stored: its place is the model's (assumption log 147). -/
def bkTableLine : Nat := 0x1F8010

/-- A STORE begins: the table in force is written to the system region (R472). -/
def bkStore (s : State) : State :=
  let s := s.set F.BK_DEV_STAT.STORE_BUSY 1
  let s : State := { s with bk := { s.bk with storing := true, table := bkWords s, imaging := false, failed := false } }
  writeJob lkSecurity .store bkTableLine (wordsBytesLE s.bk.table) s

/-- A write of a STORE has failed (R472): it writes no more. -/
def storeFailed (s : State) : State :=
  let s := dropJobs (fun j => j.why == .store || j.why == .image) s
  { s with bk := { s.bk with failed := true } }

/-- A line of the Backstop table has been written (R472); after the last one the option image follows. -/
def storeLine (last ok : Bool) (s : State) : State :=
  if ¬ ok then storeFailed s
  else if last then writeImage { s with bk := { s.bk with imaging := true } }
  else s

/-- A line of the option image has been written (R472, R536). -/
def imageLine (ok : Bool) (s : State) : State := if ¬ ok ∧ s.bk.storing ∧ s.bk.imaging then storeFailed s else s

/-! ### Cam directory and tables -/

/-- A present entry of the cam directory (R397): byte address of the table, its length, and its signing slot. -/
structure CamEnt where
  base : Nat
  len : Nat
  slot : Nat
  deriving DecidableEq, Repr

/-- The byte address of the directory entry of a table ID (R397). -/
def camDirAddr (s : State) (id : BitVec 8) : Nat := partAddr (partCam s) + 16 * id.toNat

/-- A directory entry from its four words; none where it is not present or names no table in the partition (R397). -/
def camEntryOf (s : State) : List Word → Option CamEnt
  | [off, len, flags, slot] =>
    let o := off.toNat
    let l := len.toNat
    if flags.getLsbD 0 && o % 32 == 0 && decide (0x1000 ≤ o) && decide (o + l ≤ 0x100000 * (partCam s).2) && decide (160 ≤ l) then
      some { base := partAddr (partCam s) + o, len := l, slot := slot.toNat % 256 }
    else none
  | _ => none

/-- The point of index `i` from its four words (R116). -/
def camPtOf (i : Nat) : List Word → Option CamPt
  | [m, d, lo, hi] => some { i := i, master := m.toNat, slope := d.toInt, slave := signedOf 64 (lo.toNat + hi.toNat * 2 ^ 32) }
  | _ => none

/-- The points of a sequence of words, from index `i` on. -/
def camPtsOf (ws : List Word) : Nat → Nat → List CamPt
  | 0, _ => []
  | n + 1, i =>
    match camPtOf i (ws.take 4) with
    | some p => p :: camPtsOf (ws.drop 4) n (i + 1)
    | none => []

/-- The `MASTER` values rise strictly and stay below `M_CYC` (R117). -/
def camRising (mcyc : Nat) : Option Nat → List CamPt → Bool
  | _, [] => true
  | prev, p :: ps =>
    (match prev with | none => p.master == 0 | some m => decide (m < p.master)) && decide (p.master < mcyc)
      && camRising mcyc (some p.master) ps

/-- The header of a table with its first point, where they are well formed for a length (R116, R117, R397). -/
def camHeader (id : BitVec 8) (base len : Nat) (ws : List Word) : Option CamTab :=
  let w (i : Nat) : Word := ws.getD i 0
  let npts := (w 2).toNat
  let rise := (w 4).toNat + (w 5).toNat * 2 ^ 32
  let ok := w 0 == 0x46434D31 && decide (2 ≤ npts) && decide (npts ≤ 65536) && w 3 != 0
    && ((ws.drop 6).take 10).all (· == 0) && len == 128 + 16 * npts
    && decide (toBits 64 (signedOf 48 rise) = rise)
  if ok then
    (camPtOf 0 ((ws.drop 16).take 4)).map fun p =>
      { id := id, base := base, npts := npts, mcyc := (w 3).toNat, rise := signedOf 48 rise, first := p }
  else none

/-- The whole table of a validation, from its bytes, when it passes the checks of R117. -/
def camParse (v : CamVal) : Option CamTab :=
  let ws := bytesToWordsLE (lineBytes v.lines)
  match camHeader v.id v.base v.len ws with
  | none => none
  | some t => if camRising t.mcyc none (camPtsOf (ws.drop 16) t.npts 0) then some t else none

/-- The object number of a cam table among the verification records (R398). -/
def camObj (id : BitVec 8) : Nat := 256 + id.toNat

/-- The verification record of an object. -/
def recOf (s : State) (obj : Nat) : Option (List Word × Nat) := (s.sec.recs.find? fun r => r.1 = obj).map (·.2)

/-- The highest `VERSION` validated of an object; none before its first validation. -/
def highOf (s : State) (obj : Nat) : Option Nat := (s.sec.highs.find? fun r => r.1 = obj).map (·.2)

/-- An object is recorded as validated (R398). -/
def addRecord (obj : Nat) (digest : List Word) (version : Nat) (s : State) : State :=
  { s with sec := { s.sec with
    recs := (obj, digest, version) :: s.sec.recs.filter fun r => r.1 ≠ obj
    highs := (obj, max version ((highOf s obj).getD 0)) :: s.sec.highs.filter fun r => r.1 ≠ obj } }

/-- The bytes of a cam table are noted with its record (R398). -/
def addSpan (obj base len : Nat) (s : State) : State :=
  { s with sec := { s.sec with spans := (obj, base, len) :: s.sec.spans.filter fun r => r.1 ≠ obj } }

/-- The record of an object is cleared (R398). -/
def dropRecord (obj : Nat) (s : State) : State :=
  { s with sec := { s.sec with recs := s.sec.recs.filter fun r => r.1 ≠ obj } }

/-- An LK_WRITE to a line clears the records of the objects it touches: a recipe slot, a cam table, a directory entry
(R398). -/
def touchLine (line : Nat) (s : State) : State :=
  let addr := line * 32
  let rec_ := partRec s
  let slot := (addr - partAddr rec_) / 0x20000
  let s := if partAddr rec_ ≤ addr ∧ addr < partAddr rec_ + 0x100000 * rec_.2 ∧ slot < 256 then dropRecord slot s else s
  s.each s.sec.spans fun x s =>
    let inDir := decide (camDirAddr s (BitVec.ofNat 8 x.1) / 32 = line)
    if inDir || (decide (x.2.1 ≤ addr + 31) && decide (addr < x.2.1 + x.2.2)) then dropRecord x.1 s else s

/-! ### Validation of cam tables -/

/-- A signed object is rejected (R494): its number (recipe slot or cam table ID) and cause. -/
def auditReject (slot cause : Nat) (s : State) : State :=
  audit 0x0E 3 2 0 0 [BitVec.ofNat 32 slot, BitVec.ofNat 32 cause] s

/-- The line reads of the first table in hand begin (R410: the security engine): its directory entry, its header and first point, or
all of it. -/
def camReads (s : State) : State :=
  match s.lk.vals with
  | [] => s
  | v :: _ =>
    if v.sig || serving s .cam then s
    else match v.step with
      | .dir => readJob lkSecurity .cam (camDirAddr s v.id / 32) 1 s
      | .head => readJob lkSecurity .cam (v.base / 32) 3 s
      | .whole => readJob lkSecurity .cam (v.base / 32) ((v.len + 31) / 32) s

/-- Tables in hand are given up; where the first one is among them its reads are withdrawn, and the next one begins. -/
def dropVals (p : CamVal → Bool) (s : State) : State :=
  let s1 := if s.lk.vals.head?.any p then dropJobs (fun j => j.why == .cam) s else s
  camReads { s1 with lk := { s1.lk with vals := s1.lk.vals.filter fun v => !p v } }

/-- A recipe is rejected (R402): `REJ` and its cause, and the command retires RECIPE_BAD. -/
def armReject (cause : Nat) (s : State) : State :=
  match s.lk.arm with
  | none => s
  | some a =>
    let s := dropJobs (fun j => j.why == .recipe) (dropVals (fun v => v.why == .recipe) { s with lk := { s.lk with arm := none } })
    let s := (s.raise F.LK_RCP_STAT.REJ).set F.LK_RCP_STAT.REJ_CAUSE cause
    let s := if cause = 3 ∨ cause = 4 then auditReject a.slot.toNat cause s else s
    retire a.seq .recipeBad s

/-- A command has been accepted and its outcome is not yet known. -/
def seqOpen (s : State) (seq : BitVec 16) : Bool := s.ip.ledger.any fun e => e.1.seq == seq && e.2.isNone

/-- A validation fails (R117, R353, R402): the axis is not changed. -/
def camRefused (v : CamVal) (s : State) : State :=
  match v.why with
  | .engage a _ seq => if (s.fol a).engSeq = some seq then retireEngage a .camBad s else s
  | .next _ seq _ => retire seq .camBad s
  | .apply _ _ => s
  | .recipe => armReject 6 s

/-- The indices a prefetch buffer holds around point `l` in direction `dir`: up to 32 behind, the rest of 256 ahead, all
points of a table of at most 256 (R120). -/
def camInWindow (tab : CamTab) (l : Nat) (dir : Int) (i : Nat) : Bool :=
  let ahead := if dir < 0 then (l + tab.npts - i) % tab.npts else (i + tab.npts - l) % tab.npts
  decide (tab.npts ≤ 256) || decide (ahead ≤ 223) || decide (tab.npts - ahead ≤ 32)

/-- The table that a follower ENGAGED or WAITING under CAM follows, with the cycle length that a next table must have (R126, R128). -/
def camHeld (s : State) (a : Axis) : Option CamTab :=
  if s.axOn a && s.src a == 3 && (fstate s a == 1 || fstate s a == 3) then (s.fol a).cam else none

/-- A valid table reaches what it was named for (R123, R126, R128, R353): an ENGAGE enters WAITING, a cam-next is held in `NEXT`, a
recipe goes on. -/
def camDeliver (v : CamVal) (tab : CamTab) (s : State) : State :=
  match v.why with
  | .engage a c seq =>
    if (s.fol a).engSeq ≠ some seq then s
    else if tab.mcyc ≤ (s.fol a).camPar.entry then retireEngage a .camBad s
    else if (mchAt s c s.now).isNone then retireEngage a .cancelled s
    else retireEngage a .completed (engageCam a c tab s)
  | .next a seq par =>
    if ¬ seqOpen s seq then s
    else if (camHeld s a).any fun t => t.mcyc == tab.mcyc then retire seq .completed (holdNext a tab par s)
    else retire seq .refused s
  | .apply a par => if (camHeld s a).any fun t => t.mcyc == tab.mcyc then holdNext a tab par s else s
  | .recipe => s

/-- The digest of the signed bytes of a validation: header and points (R397, R398). -/
def camDigest (v : CamVal) : List Word := sha256 ((lineBytes v.lines).take (v.len - 64))

/-- The first table leaves the list, and the next one begins its reads. -/
def camNextVal (s : State) : State := dropVals (fun _ => false) (dropJobs (fun j => j.why == .cam) { s with lk := { s.lk with vals := s.lk.vals.tail } })

/-- The first table in hand is refused. -/
def camFail (v : CamVal) (s : State) : State := camRefused v (camNextVal s)

/-- A table is named (R117, R398): its directory entry is read next. -/
def camValidate (id : BitVec 8) (why : CamFor) (s : State) : State :=
  camReads { s with lk := { s.lk with
    vals := s.lk.vals ++ [{ id := id, why := why, step := .dir, base := 0, len := 0, slot := 0, lines := [], sig := false }] } }

/-- The key of a signing slot (R486): slots 5 to 12 with a valid key. -/
def signKey (s : State) (slot : Nat) : Option (Nat × Nat) :=
  if h : 5 ≤ slot ∧ slot ≤ 12 then
    (s.sec.keys[(⟨slot, by omega⟩ : Fin 16)]).bind fun k => decompress ((wordsBytes k.point).take 33)
  else none

/-- A signature of 64 bytes verifies under the key of a slot; none does while the self-check has failed (R486, R538). -/
def sigGood (s : State) (slot : Nat) (digest : List Word) (sig : List Byte) : Bool :=
  match signKey s slot with
  | none => false
  | some q => !s.flag F.BOOT_STAT.SELF_FAIL && ecdsaVerify q (wordsNat digest) (bytesNat (sig.take 32)) (bytesNat ((sig.drop 32).take 32))

/-- The first table in hand goes on with `v`. -/
def putVal (v : CamVal) (s : State) : State := { s with lk := { s.lk with vals := v :: s.lk.vals.tail } }

/-- The directory entry of the table in hand has been read (R397, R398): a table with a record is taken up with its header and first
point alone. -/
def camDir (v : CamVal) (d : List Byte) (s : State) : State :=
  match camEntryOf s (bytesToWordsLE ((d.drop (camDirAddr s v.id % 32)).take 16)) with
  | none => camFail v s
  | some e =>
    let step : CamStep := if (recOf s (camObj v.id)).isSome then .head else .whole
    camReads (putVal { v with step := step, base := e.base, len := e.len, slot := e.slot } s)

/-- The header of a recorded table has been read. -/
def camHead (v : CamVal) (s : State) : State :=
  match camHeader v.id v.base v.len (bytesToWordsLE (lineBytes v.lines)) with
  | none => camFail v s
  | some t => camDeliver v t (camNextVal s)

/-- A line of the table in hand has been read (R117, R122): none where it gave no data. -/
def camLine (line : Nat) (d : Option (List Byte)) (s : State) : State :=
  match s.lk.vals, d with
  | [], _ => s
  | v :: _, none => camFail v s
  | v :: _, some d =>
    let v1 := { v with lines := linePut line d v.lines }
    match v.step with
    | .dir => camDir v d s
    | .head => if v1.lines.length < 3 then putVal v1 s else camHead v1 s
    | .whole =>
      if v1.lines.length < (v.len + 31) / 32 then putVal v1 s
      else if (camParse v1).isNone then camFail v1 s
      else putVal { v1 with sig := true } s

/-- The signature of the table in validation has been verified (R117, R398): a good table is recorded. -/
def camSigned (v : CamVal) (s : State) : State :=
  let data := lineBytes v.lines
  match camParse v with
  | none => camFail v s
  | some t =>
    let digest := camDigest v
    let version := ((bytesToWordsLE (data.take 8)).getD 1 0).toNat
    if !sigGood s v.slot digest ((data.drop (v.len - 64)).take 64) then camFail v (auditReject v.id.toNat 3 s)
    else if version < (highOf s (camObj v.id)).getD 0 then camFail v (auditReject v.id.toNat 4 s)
    else camDeliver v t (camNextVal (addSpan (camObj v.id) v.base v.len (addRecord (camObj v.id) digest version s)))

/-! ### Prefetch -/

/-- The present point of an axis under CAM in its held points. -/
def camHere (s : State) (a : Axis) (tab : CamTab) : Option Nat :=
  (camLeft (camCoord s a tab (s.fol a).prevM).2 (s.fol a).buf none).map (·.i)

/-- The line of a table that holds point `i`, and the points of a line (R116). -/
def camPtLine (tab : CamTab) (i : Nat) : Nat := tab.base / 32 + 2 + i / 2
def camLinePts (tab : CamTab) (line : Nat) (d : List Byte) : List CamPt :=
  (camPtsOf (bytesToWordsLE d) 2 ((line - (tab.base / 32 + 2)) * 2)).filter fun p => decide (p.i < tab.npts)

/-- The prefetcher of an axis. -/
def lkPrefetch (a : Axis) : Fin 22 := ⟨a.val, by omega⟩

/-- The first of the next `n` indices from `i` on in direction `dir` that a buffer does not hold and whose bank the prefetcher has not
yet asked. -/
def camMissing (s : State) (a : Axis) (tab : CamTab) (buf : List CamPt) (dir : Int) : Nat → Nat → Option Nat
  | 0, _ => none
  | n + 1, i =>
    if (camPt buf i).isNone && (requestOf s (lkPrefetch a) (bankOf (camPtLine tab i))).isNone then some i
    else camMissing s a tab buf dir n (if dir < 0 then (i + tab.npts - 1) % tab.npts else (i + 1) % tab.npts)

/-- The prefetcher of an axis asks for one line (R120, R126): that of its next missing point, of the active table first, from the far
end of the present interval on, then of the first points of the next table. While it holds no point before the master it looks for
the present one by halving (DESIGN CHOICE, assumption log 148). -/
def prefetchAsk (a : Axis) (s : State) : State :=
  let f := s.fol a
  match f.cam with
  | none => s
  | some tab =>
    let dir := mchSign s (chanOf s a)
    match camHere s a tab with
    | none =>
      if s.lk.jobs.any fun j => j.who == lkPrefetch a then s
      else
        let k := f.seek.getD (0, tab.npts)
        readJob (lkPrefetch a) (.prefetch false) (camPtLine tab ((k.1 + k.2) / 2)) 1 (s.modFol a fun f => { f with seek := some k })
    | some l =>
      match camMissing s a tab f.buf dir (min 225 tab.npts) (if dir < 0 then (l + 1) % tab.npts else l), f.camNext with
      | some i, _ => readJob (lkPrefetch a) (.prefetch false) (camPtLine tab i) 1 s
      | none, some t =>
        (match camMissing s a t f.nextBuf dir (min 224 t.npts) 0 with
         | some i => readJob (lkPrefetch a) (.prefetch true) (camPtLine t i) 1 s
         | none => s)
      | none, none => s

/-- The prefetcher of an axis asks every bank that can serve it (R410). -/
def prefetchNext (a : Axis) (s : State) : State :=
  if s.axOn a then (List.range 4).foldl (fun s _ => prefetchAsk a s) s else s

/-- The points of a line enter a buffer around point `l`, and those outside its window leave it (R120). -/
def joinPts (tab : CamTab) (l : Nat) (dir : Int) (pts buf : List CamPt) : List CamPt :=
  (buf.filter fun p => camInWindow tab l dir p.i && !(pts.any fun q => q.i == p.i)) ++ pts.filter fun p => camInWindow tab l dir p.i

/-- One step of the search for the present point, with the points of a line read for it: the indices that remain, and the present
point once it is known and held. -/
def seekStep (m : Int) (pts : List CamPt) (k : Nat × Nat) : Option (Nat × Nat) × Option Nat :=
  let below (p : CamPt) : Bool := decide ((p.master : Int) * 65536 ≤ m)
  let lo := (pts.filter below).foldl (fun x p => max x p.i) k.1
  let hi := (pts.filter fun p => !below p).foldl (fun x p => min x p.i) k.2
  if hi ≤ lo then (none, none)
  else if hi = lo + 1 ∧ pts.any fun p => p.i == lo then (none, some lo)
  else (some (lo, hi), none)

/-- A prefetched line arrives (R120, R122): its points within the window of 256 enter the buffer; an uncorrectable line of the active
or the pending table makes the axis leave. -/
def prefetchLine (a : Axis) (nxt : Bool) (line : Nat) (d : Option (List Byte)) (s : State) : State :=
  match (if nxt then (s.fol a).camNext else (s.fol a).cam), d with
  | none, _ => s
  | some _, none => followLoss a 4 s
  | some tab, some d =>
    if line < tab.base / 32 + 2 then s
    else
      let pts := camLinePts tab line d
      let dir := mchSign s (chanOf s a)
      let s := match nxt, camHere s a tab, (s.fol a).seek with
        | true, _, _ => s.modFol a fun f => { f with nextBuf := joinPts tab 0 dir pts f.nextBuf }
        | false, some l, _ => s.modFol a fun f => { f with buf := joinPts tab l dir pts f.buf }
        | false, none, some k =>
          let r := seekStep (camCoord s a tab (s.fol a).prevM).2 pts k
          s.modFol a fun f => { f with
            seek := r.1
            buf := match r.2 with | some l => joinPts tab l dir pts f.buf | none => f.buf }
        | false, none, none => s
      prefetchNext a s

/-! ### Trace ring -/

/-- Bytes of the trace partition. -/
def trcSize (s : State) : Nat := 0x100000 * (partTrc s).2

/-- The trace writer begins with the oldest buffered record, unless it is writing or has stopped (R408). -/
def traceStart (s : State) : State :=
  match s.lk.trace with
  | [] => s
  | r :: _ =>
    if serving s .trace || s.flag F.LK_TRC_STAT.TRC_FULL || trcSize s == 0 || !s.flag F.LK_TRC_CFG.TRC_EN then s
    else writeJob lkTrace .trace ((partAddr (partTrc s) + s.lk.trcHead) / 32) (wordsBytesLE (takePad 0 512 r)) s

/-- A snapshot record is handed to the trace writer (R408, R461): it buffers 16 KiB, and a record that finds no room is
dropped whole. -/
def traceRecord (ws : List Word) (s : State) : State :=
  if s.flag F.LK_TRC_STAT.TRC_FULL ∨ 8 ≤ s.lk.trace.length ∨ ¬ s.pd 7 then s.inc F.LK_TRC_STAT.TRC_DROP
  else traceStart { s with lk := { s.lk with trace := s.lk.trace ++ [ws] } }

/-- A line of the trace ring has been written (R408): `TRC_HEAD` moves, and at the end of the partition the ring wraps or
the writer stops. -/
def traceLine (last : Bool) (s : State) : State :=
  let h := s.lk.trcHead + 32
  let wrap := decide (trcSize s ≤ h)
  let h1 := if wrap then 0 else h
  let s := { s with lk := { s.lk with trcHead := h1, trace := if last then s.lk.trace.tail else s.lk.trace } }
  let s := s.set F.LK_TRC_HEAD.TRC_HEAD h1
  let s := if wrap then
      (if s.flag F.LK_TRC_CFG.TRC_STOP then
        ({ s with lk := { s.lk with trace := [] } }.count F.LK_TRC_STAT.TRC_DROP s.lk.trace.length).set F.LK_TRC_STAT.TRC_FULL 1
       else s.raise F.LK_TRC_STAT.TRC_WRAPPED)
    else s
  if last then traceStart s else s

/-- The trace writer begins at the start of its partition with what it has buffered (R395, R408): an APPLY that moves the partition
confines it so: DESIGN CHOICE (assumption log 149). -/
def traceRestart (s : State) : State :=
  let s := dropJobs (fun j => j.why == .trace) s
  traceStart ({ s with lk := { s.lk with trcHead := 0 } }.set F.LK_TRC_HEAD.TRC_HEAD 0)

/-- TRACE_APPEND: the trace writer goes on with its buffered records (R408). -/
def traceAppend (s : State) : State := if s.pd 7 then traceStart s else s

/-! ### Scrubber -/

/-- SCRUB_TICK: `SCRUB_INT` after its latest read the scrubber asks for its next line (R392). -/
def scrubTick (s : State) : State :=
  if ¬ s.pd 7 ∨ ¬ s.flag F.LK_CFG.SCRUB_EN ∨ s.lk.jobs.any (fun j => j.who == lkScrubber) then s
  else
    let s := s.at_ (s.lk.scrubAt + s.get F.LK_CFG.SCRUB_INT * msT)
    readJob lkScrubber .scrub (s.get F.LK_SCRUB.LINE) 1 { s with lk := { s.lk with scrubAt := s.now } }

/-- A scrubbed line has been read (R392): a CORRECTED line is written back, and the walk goes on. -/
def scrubLine (line : Nat) (r : LineRes) (s : State) : State :=
  let s := s.set F.LK_SCRUB.LINE ((line + 1) % 2097152)
  let s := if line = 2097151 then s.set F.LK_SCRUB.PASSES ((s.get F.LK_SCRUB.PASSES + 1) % 256) else s
  match r with
  | .corrected d => writeJob lkScrubber .scrubBack line d s
  | _ => s

/-! ### Partitions applied -/

/-- PARTITION_APPLY: the partition registers are checked; where they pass, every region whose partition changes takes the
next generation and is rewritten with zeros, and a new option image holds the new fields (R395, R536). -/
def partitionApply (s : State) : State :=
  let rec_ := (s.get F.LK_PART_REC.BASE, s.get F.LK_PART_REC.SIZE)
  let cam := (s.get F.LK_PART_CAM.BASE, s.get F.LK_PART_CAM.SIZE)
  let trc := (s.get F.LK_PART_TRC.BASE, s.get F.LK_PART_TRC.SIZE)
  if ¬ partsLegal rec_ cam trc then s.raise F.LK_PART_STAT.PART_REJ
  else
    let moved := (List.range 63).filter fun r => partOf (partRec s) (partCam s) (partTrc s) r != partOf rec_ cam trc r
    let lk := s.lk
    let gen : Vector (BitVec 11) 64 := Vector.ofFn fun r : Fin 64 => if moved.contains r.val then lk.gen[r] + 1 else lk.gen[r]
    let s : State := { s with lk := { lk with
      gen := gen
      initPend := lk.initPend ||| BitVec.ofNat 64 ((moved.map fun r => 2 ^ r).sum) } }
    let w3 := BitVec.ofNat 32 (rec_.1 + rec_.2 * 256 + cam.1 * 65536 + cam.2 * 2 ^ 24)
    let w4 := putBits (rfGet s.regs 0x650) 15 0 (trc.1 + trc.2 * 256)
    let stays := decide (partTrc s = trc)
    let s := dropJobs (fun j => match j.why with | .rewrite r => moved.contains r | _ => false) s
    let s := writeImage (setImage (listSet (listSet (imageWords s) 3 w3) 4 w4) s)
    startRewrites (if stays then s else traceRestart s)

/-! ### Audit writer -/

/-- The 16 words of an audit entry, with its chain hash (R494). -/
def auditWords (chain : List Word) (e : AuditEnt) : List Word :=
  let w3 : Nat := e.code.toNat + e.role.toNat * 256 + e.port.toNat * 1024 + e.life.toNat * 4096 + e.axis.toNat * 65536
    + e.status.toNat * 2 ^ 24
  let ws := [BitVec.ofNat 32 e.no, BitVec.ofNat 32 e.time, BitVec.ofNat 32 (e.time / 2 ^ 32), BitVec.ofNat 32 w3]
    ++ takePad 0 4 e.data
  ws ++ sha256 (wordsBytes chain ++ wordsBytes ws)

/-- The oldest buffered audit entry is written to the log (R494), which holds 4,096. -/
def auditPut (s : State) : State :=
  match s.sec.auditBuf with
  | [] => s
  | e :: rest =>
    let ws := auditWords s.sec.chain e
    { s with sec := { s.sec with
      auditBuf := rest
      chain := ws.drop 8
      auditLog := (s.sec.auditLog.filter fun x => x.1 % 4096 != e.no % 4096) ++ [(e.no, ws)] } }

/-- The security engine writes its buffered entries one after another, two lines each (R410, R494). -/
def auditStart (s : State) : State :=
  if s.sec.auditBuf.isEmpty || !s.pd 7 || serving s .audit then s
  else addJob { who := lkSecurity, why := .audit, line := 0x1FA000 + s.sec.auditBuf.head?.elim 0 (fun e => e.no % 4096 * 2), step := 1, left := 1, bytes := some [], since := s.now } s

/-- Every buffered entry is written, as during the SLEEP entry (R518). -/
def auditFlush (s : State) : State := s.each s.sec.auditBuf fun _ s => auditPut s

end Sys2Proof.Machine
end

