-- ==== Sys2Proof/Machine/Power.lean ====
section
/-!
DEFINITION. Power domains (R515 to R520), resets and start-up (R525 to R546), block resets (R540, R541).
-/

namespace Sys2Proof.Machine

/-! ### Quad domains -/

/-- An address holds a register of a quad (R466): its axis blocks, its `MS` per-axis registers, its gate-drive registers. -/
def quadReg (q : Quad) (addr : Nat) : Bool :=
  domainOf addr == 3 + q.val || (decide (0x300 + 32 * q.val ≤ addr) && decide (addr < 0x320 + 32 * q.val))

/-- Registers take their reset values. -/
def dropRegs (p : Nat → Bool) (s : State) : State := { s with regs := s.regs.filter fun e => !p e.1 }

/-- An axis engine after the loss of its domain: as after reset, the filtered levels of its pins kept. -/
def AxisSt.fresh (x : AxisSt) : AxisSt := { AxisSt.reset with
  gd := { GateSt.reset with ena := x.gd.ena }
  fol := { FollowSt.reset with dirLevel := x.fol.dirLevel, stpLevel := x.fol.stpLevel }
  fb := { FbSt.reset with core := { FbCore.reset with fa := x.fb.core.fa, fb := x.fb.core.fb, fz := x.fb.core.fz } } }

/-- A queued command bound to an axis of a quad: every one but the recipe commands. -/
def quadCmd (q : Quad) (c : QCmd) : Bool := c.op != 0x52 && c.op != 0x53 && quadOf (axisOf c.axis.toNat) == q

/-- The commands bound to a quad's axes retire CANCELLED, and leave the queue. -/
def cancelQuad (q : Quad) (s : State) : State :=
  let seqs := (s.ip.ledger.filter fun e => quadCmd q e.1 && e.2.isNone).map fun e => e.1.seq
  retireAll seqs .cancelled { s with ip := { s.ip with cmdq := s.ip.cmdq.filter fun c => !quadCmd q c } }

/-- A channel is fed by an axis of the quad (R107). -/
def fedBy (s : State) (q : Quad) (c : Fin 4) : Bool :=
  (s.get (F.MCH_CFG.SRC c) == 1 || s.get (F.MCH_CFG.SRC c) == 2) && quadOf (axisOf (s.get (F.MCH_CFG.AXIS c))) == q

/-- The users of the wave tables after an axis has returned to table 0. -/
def wtHome (a : Axis) (s : State) : State :=
  let s := (List.finRange 8).foldl (fun s t => if t = 0 then s else wtLeave a t s) s
  let s := s.set (F.WT_STAT.USERS 0) (natSetBit (s.get (F.WT_STAT.USERS 0)) a true)
  if s.flag (F.WT_STAT.SWAP_PEND 0) then wtMove a 0 s else s

/-- The axis section of an axis in a snapshot set becomes zero (R454). -/
def snapForget (a : Axis) (ws : List Word) : List Word :=
  ws.take (4 + 30 * a.val) ++ List.replicate 30 0 ++ ws.drop (34 + 30 * a.val)

/-- The state of a quad is lost (R466, R540): its commands are cancelled, the channels its axes feed become stale, its
registers take their L2 values, but for the state of its charge pump, which belongs to `PD9` (R230), and its axes' positions are
unknown. -/
def quadLost (q : Quad) (s : State) : State :=
  let s := cancelQuad q s
  let s := s.each (List.finRange 4) fun c s => if fedBy s q c then mchZero c (mchStale (s.get (F.MCH_CFG.SRC c) == 1) c s) else s
  let s := s.each (quadAxes q) fun a s => wtHome a (s.modAx a AxisSt.fresh)
  let pump := s.flag (F.QD_GD_STAT.CP_OK q)
  let s := brakeWant q false ((dropRegs (quadReg q) s).setB (F.QD_GD_STAT.CP_OK q) pump)
  let s := dropJobs (fun j => decide (j.who.val < 16) && decide (j.who.val / 4 = q.val)) s
  let bits := ((List.range 4).map fun i => 2 ^ (4 * q.val + i)).sum
  let s := s.set F.WH_LOST.POS_UNKNOWN (s.get F.WH_LOST.POS_UNKNOWN ||| bits)
  let s := s.set F.WH_LOST.QLOSS_EVT (s.get F.WH_LOST.QLOSS_EVT ||| 2 ^ q.val)
  { s with
    wh := { s.wh with snap := s.wh.snap.map fun ws => (quadAxes q).foldl (fun ws a => snapForget a ws) ws }
    plnWork := match s.plnWork with
      | some a => if quadOf a = q then none else some a
      | none => none }

/-- `PD9` goes off, and the charge pumps with it (R230). -/
def pumpsOff (s : State) : State :=
  let s := s.each allQuads fun q s => s.set (F.QD_GD_STAT.CP_OK q) 0
  { s with pw := { s.pw with on := s.pw.on &&& ~~~ 0x200 } }

/-- A quad domain goes off, on request or not (R466, R516, R517). -/
def quadDown (q : Quad) (s : State) : State :=
  if ¬ s.pd (3 + q.val) then s
  else
    let s := quadLost q s
    { s with pw := { s.pw with on := s.pw.on &&& ~~~ BitVec.ofNat 10 (2 ^ (3 + q.val)) } }

/-- A trip pin that is active forces an axis whose domain returns, as its edge would have (R217, R218). -/
def tripResume (a : Axis) (s : State) : State :=
  (List.finRange 4).foldl (fun s (n : Fin 4) =>
    if natBit (s.get F.TRIP_STAT.LEVEL) n && s.flag (F.TRIP_CFG.EN n) && natBit (s.get (F.TRIP_CFG.AXES n)) a then
      let s := s.modPwm a fun p => { p with tripForce := p.tripForce ||| BitVec.ofNat 4 (2 ^ n.val) }
      let s := s.set (F.AX_PWM_STAT.TRIP_ACT a) 1
      if s.flag (F.TRIP_CFG.LATCH n) then axisFault a (F.AX_PWM_STAT.TRIP_FLT a) 12 s else s
    else s) s

/-- A quad begins its work afresh (R197, R245, R469, R537): its window monitor settles, its axes need a diagnostic run,
their timers start unless BOOT has still to end. -/
def quadStart (q : Quad) (s : State) : State :=
  let s := vmStart q s
  s.each (quadAxes q) fun a s =>
    let s := loadOcDac a (firstDiag a (s.modMot a fun m => { m with stillAt := some s.now }))
    let s := if s.mode = 1 then s else startTimer a s
    refreshAxis a (tripResume a s)

/-! ### The Locker and the interpreter -/

/-- A block reset of the Locker or the loss of `PD7` (R405, R540): arbiter state, counts and the scrubber position take
their L2 values, waiting requests ask again, and a running ARM with the reads of its cam tables, the armed recipe and a scheduled
apply are lost. -/
def lockerReset (s : State) : State :=
  let s := match s.lk.arm with
    | some _ =>
      let s := (s.raise F.LK_RCP_STAT.REJ).set F.LK_RCP_STAT.REJ_CAUSE 8
      (match s.lk.arm with | some a => retire a.seq .recipeBad s | none => s)
    | none => s
  let s := match s.lk.apply with | some (seq, _) => retire seq .recipeBad s | none => s
  let s := dropJobs (fun j => j.why == .recipe) (dropVals (fun v => v.why == .recipe) s)
  let s : State := { s with lk := { s.lk with
    banks := Vector.replicate 8 BankSt.reset
    jobs := s.lk.jobs.map fun j => { j with since := s.now }
    scrubAt := s.now
    arm := none
    shadow := none
    apply := none } }
  let s := (s.set F.LK_RCP_STAT.ARMED 0).set F.LK_RCP_STAT.APPLY_SCHED 0
  let s := (s.set F.LK_SCRUB.LINE 0).set F.LK_SCRUB.PASSES 0
  let s := (s.set F.LK_ARB_STAT.READ_BUSY 0).set F.LK_TRC_STAT.TRC_DROP 0
  let s := (s.set F.LK_ECC_CNT.all 0).set F.LK_ECC_CNT2.all 0
  loadParts ((List.range 8).foldl (fun s b => s.set (F.LK_WAIT_MAX.all b) 0) s)

/-- The loss of `PD7` (R517): as a Locker block reset, and its registers are lost, with what the trace writer buffers and the place of
its next line (R408). -/
def lockerDown (s : State) : State :=
  let s := lockerReset (dropJobs (fun j => j.why == .trace) { s with lk := { s.lk with trace := [], trcHead := 0 } })
  let s := dropRegs (fun a => domainOf a == 7) s
  { s with pw := { s.pw with on := s.pw.on &&& ~~~ 0x080 } }

/-- Committed segments as the records alone know them (R93): the target of a MOVE is known while its last segment is among
them. -/
def keepGoals (q : List Seg) : List Seg :=
  q.map fun g => if q.any fun x => x.seq = g.seq ∧ x.last ∧ x.kind = .move then g else { g with goal := none }

/-- The planner's knowledge of an axis is lost (R93, R467): window and plan go; committed segments and a cut whose first
segment is committed stay. The target of a MOVE whose last segment was not committed is lost, also for the record of a brake that
runs (R467). -/
def MotionSt.forget (m : MotionSt) : MotionSt := { m with
  window := []
  phases := []
  chain := []
  seen := []
  jogSeq := none
  stopGoal := m.stopGoal.filter fun g => m.chain.all fun x => x.goal ≠ g
  queue := keepGoals m.queue
  cutQueue := keepGoals m.cutQueue
  cut := if m.cutQueue.isEmpty then none else m.cut.map fun c => { c with seq := none, cancels := [] } }

/-- An L3 reset or a brownout of `PD2` (R93, R101, R355, R356, R372, R405): planner and interpreter stop, with the command
queue, the unretired commands, the tickets, a running ARM, the armed recipe and a scheduled apply lost, and with the waiting
reads the wait of a BARRIER flit for their replies (R440). The registers of reset level L3 take their reset values. -/
def interpreterLost (s : State) : State :=
  let s := match s.lk.arm with
    | some _ => (s.raise F.LK_RCP_STAT.REJ).set F.LK_RCP_STAT.REJ_CAUSE 8
    | none => s
  let s := dropJobs (fun j => match j.why with | .reply _ _ => true | .recipe => true | .cam => true | _ => false) s
  let s := s.each allAxes fun a s =>
    -- an ENGAGE that has not retired is never applied (R355)
    (s.modMot a MotionSt.forget).modFol a fun f => { f with gearPend := if f.engSeq.isSome then none else f.gearPend, engSeq := none }
  let s := (s.set F.LK_RCP_STAT.ARMED 0).set F.LK_RCP_STAT.APPLY_SCHED 0
  barrierRelease { s with
    ip := { s.ip with
      running := false
      cmdq := []
      ledger := []
      tickets := []
      unlocked := false
      loLatch := []
      pendReset := [] }
    lk := { s.lk with
      reads := []
      vals := []
      arm := none
      shadow := none
      apply := none }
    plnWork := none }

/-- The word an address holds after a reset at a level: fields whose reset level it reaches are restored (R18). -/
def levelWord (lvl addr : Nat) (w : Word) : Word :=
  if isWaveAddr addr then (if lvl ≤ 2 then resetWord addr else w)
  else match regAt addr with
  | some (r, _, _) =>
    (r.fields.filter fun f => decide (lvl ≤ f.lvl)).foldl (fun w f => putBits w f.hi f.lo f.reset) w
  | none => w

/-- The register file after a reset at a level. -/
def levelRegs (lvl : Nat) (l : List (Nat × Word)) : List (Nat × Word) :=
  l.filterMap fun e =>
    let w := levelWord lvl e.1 e.2
    if w = resetWord e.1 then none else some (e.1, w)

/-! ### Reset triggers -/

/-- What an L1 or L2 reset leaves (R517, R520, R525, R530): the registers of deeper levels, what is not volatile, the levels
of the pins, and at L2 the test access port; everything else is as after reset, with only `PD0` up. -/
def deepReset (lvl : Nat) (s : State) : State :=
  { State.reset with
    freeCtr := s.freeCtr
    regs := levelRegs lvl s.regs
    axes := s.axes.map AxisSt.fresh
    pw := { PowerSt.reset with
      supplies := s.pw.supplies
      vgsUv := s.pw.vgsUv }
    bk := { s.bk with
      stoDiffAt := if s.bk.stoA = s.bk.stoB then none else some 0
      stoAt := Vector.replicate 2 none
      storing := false
      table := []
      imaging := false
      failed := false }
    sec := { SecSt.reset with
      life := s.sec.life
      auditNext := s.sec.auditNext
      auditLog := s.sec.auditLog
      chain := s.sec.chain
      keys := s.sec.keys
      patches := s.sec.patches.map fun p => { p with applied := false }
      svn := s.sec.svn
      ident := s.sec.ident
      decom := s.sec.life == 3
      recs := s.sec.recs
      highs := s.sec.highs
      spans := s.sec.spans
      bkTable := s.sec.bkTable }
    lk := { LkSt.reset with
      cells := s.lk.cells
      gen := s.lk.gen
      initPend := s.lk.initPend }
    cv := { CvSt.reset with tx := s.cv.tx }
    wh := { WhSt.reset with pinHigh := s.wh.pinHigh }
    tap := if lvl ≤ 1 then TapSt.reset else s.tap
    pending := s.pending }

/-- The level of a reset under way that a trigger can deepen: its stretch, its hold, or the BOOT of an L1 or L2 (R529). -/
def levelNow (s : State) : Option Nat :=
  match s.rst.boot with
  | .done => none
  | _ => some s.rst.level

/-- A reset trigger is accepted (R525 to R529, R532): the level applied is the deepest of those received since the stretch
began, or of the reset whose BOOT is under way. A Captain with `RST_PROPAGATE` = 1 first broadcasts its L2 (R442). -/
def resetTrigger (cause lvl detail : Nat) (s : State) : State :=
  let deep := match levelNow s with | some l => min l lvl | none => lvl
  let s := if deep = 2 ∧ isCaptain s ∧ s.flag F.CV_CFG.RST_PROPAGATE then
      broadcast (.reset false (BitVec.ofNat 4 (devId s))) s else s
  let s := if deep ≤ 2 then deepReset deep s
    else { interpreterLost s with regs := levelRegs 3 (interpreterLost s).regs }
  let s := ((s.set F.RST_CAUSE.CAUSE cause).set F.RST_CAUSE.LEVEL deep).set F.RST_CAUSE.DETAIL detail
  let s := if cause = 1 then s else s.inc F.RST_CAUSE.RST_CNT
  { s with rst := { s.rst with boot := .stretch, level := BitVec.ofNat 2 deep |>.toFin, restart := false } }

/-- A reset at L1 or L2 holds the part: its stretch or its hold. -/
def deepHeld (s : State) : Bool := (s.rst.boot == .stretch || s.rst.boot == .held) && s.rst.level != 3

/-- The device is in SLEEP (R518, R520). -/
def asleep (s : State) : Bool := s.mode == 0

/-- NRST_PULSE: a low pulse of `width` ns from outside (R527, R528): ignored below 1 µs and while the device pulls the pin,
always accepted from 3 µs on; in between its acceptance is free. -/
def nrstPulse (width : Nat) (s : State) : State :=
  if s.rst.boot = .stretch ∨ s.rst.boot = .held ∨ width < 1000 then s
  else if 3000 ≤ width then resetTrigger 3 2 0 s
  else
    let f := s.free
    if f.1.getLsbD 0 then resetTrigger 3 2 0 f.2 else f.2

/-- WATCHDOG_EXPIRE: the interpreter has not completed its service cycle for 20 ms (R531). -/
def watchdogExpire (s : State) : State := if s.ip.running then resetTrigger 4 3 0 s else s

/-- TAMPER: a fast detector has acted (R493, R525). -/
def tamperEvent (detail : Fin 4) (s : State) : State := if asleep s then s else resetTrigger 6 2 detail.val s

/-- The interpreter and planner are due to restart (R539). -/
def awaitRestart (s : State) : State := { s with rst := { s.rst with boot := .done, restart := true } }

/-- The stretch has ended and the pin is high (R528, R537, R539). -/
def stretchOver (s : State) : State :=
  if s.rst.level = 3 then awaitRestart s else { s with rst := { s.rst with boot := .power } }

/-- RESET_STRETCH_END: the device releases `nRST`; a pin still held low from outside keeps it in reset (R528). -/
def resetStretchEnd (pinHigh : Bool) (s : State) : State :=
  if s.rst.boot ≠ .stretch then s
  else if pinHigh then stretchOver s else { s with rst := { s.rst with boot := .held } }

/-- NRST_RELEASE: an externally held `nRST` has been high for 1 µs (R528). -/
def nrstRelease (s : State) : State := if s.rst.boot = .held then stretchOver s else s

/-- INTERPRETER_RESTART: 60 µs after an L3 stretch or the return of `PD2` the interpreter and planner run again (R93, R355,
R539). -/
def interpreterRestart (s : State) : State :=
  if ¬ s.rst.restart ∨ ¬ s.pd 2 then s
  else
    let last := s.get F.LAST_COMMITTED_SEQ.SEQ
    let nxt := if ¬ s.flag F.LAST_COMMITTED_SEQ.SEQ_VALID then 1 else if last = 0xFFFF then 1 else last + 1
    let s := ((s.set F.CMD_STAT.RESTART_SEQ nxt).set F.CMD_STAT.RESTART_VALID 1).inc F.CMD_STAT.L3_CNT
    let s : State := { s with
      ip := { s.ip with running := true, nextSeq := BitVec.ofNat 16 nxt }
      rst := { s.rst with restart := false } }
    s.each allAxes fun a s =>
      if s.axOn a ∧ s.src a = 0 then
        let jog := jogOpen s a
        s.modMot a fun m => { m with planEnd := committedEnd m, target := if jog then m.target else (committedEnd m).p }
      else s

/-! ### Domains up and down -/

/-- The supplies BOOT waits for are good (R537). -/
def mainSupplies (s : State) : Bool := s.pw.supplies &&& 0xF == 0xF

/-- A domain may come up (R515, R516, R537). -/
def mayRise (s : State) (n : Nat) : Bool :=
  !deepHeld s && !asleep s && !s.pd n && mainSupplies s &&
    match n with
    | 1 => s.rst.boot == .power
    | 2 => s.pd 1 && s.rst.toVerify.isEmpty && (s.rst.boot == .checked || s.rst.boot == .done || s.rst.level == 3)
    | 7 => s.pd 1
    | 8 => s.pd 1 && s.flag F.PD_CTRL.LNK_ON && s.pw.supplies.getLsbD 4
        && (s.rst.boot == .checked || s.rst.boot == .done || s.rst.level == 3) && s.rst.toVerify.isEmpty
    | 9 => s.pd 1 && s.get F.PD_CTRL.QUAD_ON != 0 && s.pw.supplies.getLsbD 5
    | 3 | 4 | 5 | 6 => s.pd 1 && s.pd 9 && natBit (s.get F.PD_CTRL.QUAD_ON) (n - 3)
    | _ => false

/-- DOMAIN_UP: a domain becomes usable (R466, R469, R515, R516, R537). With `PD1` the time base starts from zero on the
internal oscillator (R26, R27). -/
def domainUp (n t : Nat) (s : State) : State :=
  if ¬ mayRise s n then s
  else
    let s : State := { s with pw := { s.pw with on := s.pw.on ||| BitVec.ofNat 10 (2 ^ n) } }
    match n with
    | 1 => { s with now := 0, tb := TimeSt.reset }
    | 3 => quadStart 0 (s.at_ t)
    | 4 => quadStart 1 (s.at_ t)
    | 5 => quadStart 2 (s.at_ t)
    | 6 => quadStart 3 (s.at_ t)
    | 7 => if s.rst.boot = .done then loadParts (startRewrites (s.at_ t)) else s.at_ t
    | _ => s.at_ t

/-- All quad domains and `PD9` go off. -/
def driversDown (s : State) : State :=
  pumpsOff (allQuads.foldl (fun s q => quadDown q s) s)

/-- DOMAIN_LOSS: a domain loses power without a request (R517). -/
def domainLoss (n t : Nat) (s : State) : State :=
  if ¬ s.pd n then s
  else
    let lost := if n = 9 then allQuads.foldl (fun x q => if s.pd (3 + q.val) then x ||| 2 ^ (3 + q.val) else x) (2 ^ 9) else 2 ^ n
    let s := (s.at_ t).set F.PD_STAT.PD_LOSS (s.get F.PD_STAT.PD_LOSS ||| lost)
    match n with
    | 0 => resetTrigger 1 1 0 s
    | 1 => resetTrigger 2 2 1 s
    | 2 =>
      let s := interpreterLost s
      { s with
        regs := levelRegs 3 s.regs
        pw := { s.pw with on := s.pw.on &&& ~~~ 0x004 }
        rst := { s.rst with restart := s.rst.boot == .done } }
    | 3 => quadDown 0 s
    | 4 => quadDown 1 s
    | 5 => quadDown 2 s
    | 6 => quadDown 3 s
    | 7 => lockerDown s
    | 8 => linksOff s
    | _ => driversDown s

/-- A write of `PD_CTRL` (R516): a requested power-down has the effects of R466, or takes both links down; `PD9` follows
the quads. -/
def pdCtrlWrite (quads : Nat) (lnk : Bool) (s : State) : State :=
  let s := (s.set F.PD_CTRL.QUAD_ON quads).setB F.PD_CTRL.LNK_ON lnk
  let s := allQuads.foldl (fun s q => if natBit quads q.val then s else quadDown q s) s
  let s : State := if quads % 16 = 0 then pumpsOff s else s
  if !lnk && s.pd 8 then linksOff s else s

/-- SUPPLY_GOOD: a supply monitor reports its supply good: 0 `VDD33`, 1 `VCORE`, 2 `VIOH`, 3 `VLK`, 4 `VLNK`, 5 `VGS`
(R233, R559). -/
def supplyGood (i : Fin 6) (s : State) : State :=
  let s : State := { s with pw := { s.pw with supplies := s.pw.supplies ||| BitVec.ofNat 6 (2 ^ i.val) } }
  if i = 5 then vgsGood s else s

/-- SUPPLY_LOST: a supply falls below its falling threshold, with the consequence of R559. -/
def supplyLost (i : Fin 6) (s : State) : State :=
  let s : State := { s with pw := { s.pw with supplies := s.pw.supplies &&& ~~~ BitVec.ofNat 6 (2 ^ i.val) } }
  match i with
  | 0 => domainLoss 0 s.now s
  | 1 => domainLoss 1 s.now s
  | 2 => domainLoss 1 s.now s
  | 3 => domainLoss 7 s.now s
  | 4 => domainLoss 8 s.now s
  | 5 => vgsUv s

/-! ### SLEEP and wake -/

/-- WAKE: a falling edge on `HP_SEL_N`, or on `WHSL` with `WAKE_WHSL` = 1, in SLEEP (R305, R519): an L2. -/
def wakeUp (whsl : Bool) (s : State) : State :=
  let works := if whsl then s.flag F.PD_WAKE.WAKE_WHSL else s.pw.supplies.getLsbD 2
  if ¬ asleep s ∨ ¬ works then s
  else
    let src := if whsl then 2 else 1
    resetTrigger 8 2 src (s.set F.PD_WAKE.LAST_WAKE src)

/-- SLEEP_ENTRY: an accepted SLEEP begins and runs to its end (R518, R520): buffered audit entries are written, and only
`PD0` stays on; a wake edge that arrived during the entry wakes the device at once (R519). -/
def sleepEntry (edge : Option Bool) (s : State) : State :=
  match s.pw.sleepPend with
  | none => s
  | some (_, t) =>
    let s := auditFlush (s.at_ t)
    let r := deepReset 2 s
    let s : State := { r with
      regs := s.regs.filter fun e => domainOf e.1 == 0
      rst := { r.rst with boot := .done } }
    let s := s.set F.MODE_STAT.MODE 0
    match edge with
    | some whsl => wakeUp whsl s
    | none => s

/-! ### Start-up -/

/-- Every field of a register lies in its legal range in a word. -/
def fieldsLegal (addr : Nat) (w : Word) : Bool :=
  match regAt addr with
  | some (r, _, _) => r.fields.all fun f => decide (f.mn ≤ getBits w f.hi f.lo) && decide (getBits w f.hi f.lo ≤ f.mx)
  | none => true

/-- An option image passes its check (R533, R534). -/
def imageGood (w : List Word) : Bool :=
  getBits (w.getD 0 0) 15 0 == 0x4F50 && getBits (w.getD 0 0) 23 16 == 1
    && w.getD 15 0 == crc32 (wordsBytesLE (w.take 15)) && fieldsLegal 0x684 (w.getD 1 0) && fieldsLegal 0x688 (w.getD 2 0)

/-- A copy of the option image, read by the loader; none where a line is STALE or UNCORRECTABLE or the check fails. -/
def readImage (line : Nat) (s : State) : Option (List Word) × State :=
  let r := peekLines lkSecurity 2 line s
  (r.1.bind fun d => let w := bytesToWordsLE d; if imageGood w then some w else none, r.2)

/-- Every field marked OPT takes its value from an image (R534, R545, R546). -/
def loadImage (w : List Word) (s : State) : State :=
  let w1 := w.getD 1 0
  let w2 := w.getD 2 0
  let s := (List.range 16).foldl (fun s i => s.setWord (0x640 + 4 * i) (w.getD i 0)) s
  let s := (s.setWord 0x684 (w1 &&& 0x1FFFFFFF)).setWord 0x688 (w2 &&& 0x007F7F0F)
  let s := ((s.set F.HP_CFG.ROLE (getBits w1 0 0)).set F.AUX_CFG.ROLE (getBits w1 1 1))
  let s := (s.set F.CV_CFG.STACK_ROLE (getBits w1 3 2)).set F.TB_CTRL.REFIN_EN (getBits w1 4 4)
  let s := (s.set F.TB_CTRL.DEGRADED_HALT (getBits w1 5 5)).set F.CV_CFG.RST_PROPAGATE (getBits w1 6 6)
  let s := (s.set F.MODE_CFG.BOOT_READY (getBits w1 7 7)).set F.CV_CFG.LOSS_TMO (getBits w1 14 8)
  let s := (s.set F.SEC_CFG.C1_OPEN_HP (getBits w1 15 15)).set F.SEC_CFG.SESS_TMO (getBits w1 23 16)
  let s := (s.set F.SEC_CFG.MAC_FAIL_MAX (getBits w1 28 24)).set F.SEC_CFG.AUTH_FAIL_MAX (getBits w2 3 0)
  let s := (s.set F.BK_STO_CFG.STO_FILT (getBits w2 14 8)).set F.BK_STO_CFG.STO_DISC_T (getBits w2 22 16)
  loadParts (s.set F.BK_DEV_STAT.BK_VERSION (getBits (w.getD 4 0) 31 16))

/-- The Backstop takes a table (R471). -/
def loadBackstop (ws : List Word) (s : State) : State :=
  (((List.range 16).flatMap bkAddrs).zip ws).foldl (fun s e => s.setWord e.1 e.2) s

/-- OPTION_LOAD: the loader reads the option image, primary or mirror, or takes the safe defaults, and the Backstop table,
whose lines are readable (`tableOk`) or not (R428, R471, R533 to R535, R537). -/
def optionLoad (tableOk : Bool) (s : State) : State :=
  if s.rst.boot ≠ .power ∨ ¬ s.pd 1 ∨ ¬ s.pd 7 then s
  else
    let prim := readImage 0x1F8000 s
    let mirr := match prim.1 with | some _ => (none, prim.2) | none => readImage 0x1F8002 prim.2
    let s := mirr.2
    let bad := prim.1.isNone && mirr.1.isNone
    let w := match prim.1, mirr.1 with
      | some w, _ => w
      | none, some w => w
      | none, none => listSet newImage 15 0
    let s := (s.setB F.BOOT_STAT.OPT_BAD bad).setB F.BOOT_STAT.OPT_MIRROR mirr.1.isSome
    let s := loadImage w s
    let tableGood := tableOk && !bad && s.sec.bkTable.length == 128 && bkDigest s.sec.bkTable == (w.drop 5).take 4
    let s := if tableGood then loadBackstop s.sec.bkTable s else s.set F.BK_DEV_STAT.BK_BAD 1
    let s := s.each (allAxes.filter s.axOn) loadOcDac
    let s := takeRole s
    { s with rst := { s.rst with boot := .loaded } }

/-- SELF_CHECK_DONE: the results of the ROM digest, the RAM test, the known-answer tests and the TRNG start-up tests
(R395, R537, R538). -/
def selfCheckDone (rom ram kat trng : Bool) (s : State) : State :=
  if s.rst.boot ≠ .loaded then s
  else if ¬ (rom ∧ ram) then { s with rst := { s.rst with boot := .halted } }
  else
    let s := s.setB F.BOOT_STAT.SELF_FAIL (!(kat && trng))
    let armed := (List.finRange 4).filter fun p => (s.sec.patches[p]).armed.isSome
    startRewrites { s with rst := { s.rst with boot := .checked, toVerify := armed } }

/-- PATCH_VERIFY: an armed patch has been verified again (`sigOk`), and its security version is compared with the fuses
(R485, R538). -/
def patchVerify (slot : Fin 4) (sigOk : Bool) (s : State) : State :=
  if s.rst.boot ≠ .checked ∨ ¬ s.rst.toVerify.contains slot then s
  else
    let s : State := { s with rst := { s.rst with toVerify := s.rst.toVerify.filter (· ≠ slot) } }
    let p := s.sec.patches[slot]
    let svn := match p.armed with | some v => v.toNat | none => 0
    if sigOk ∧ ¬ s.flag F.BOOT_STAT.SELF_FAIL ∧ s.sec.svn ≤ svn then
      let s : State := { s with sec := { s.sec with
        patches := s.sec.patches.set slot { p with applied := true }
        svn := svn } }
      s.set F.SEC_PATCH.PATCH_ACT (s.get F.SEC_PATCH.PATCH_ACT ||| 2 ^ slot.val)
    else audit 0x09 3 2 0 0 [BitVec.ofNat 32 slot.val] (s.set F.SEC_STAT.PATCH_BAD 1)

/-- `n` fresh free words. -/
def State.frees (s : State) : Nat → List Word × State
  | 0 => ([], s)
  | n + 1 =>
    let f := s.free
    let r := State.frees f.2 n
    (f.1 :: r.1, r.2)

/-- A fresh random scalar of P-256 (R492). -/
def freshScalar (s : State) : Nat × State :=
  let r := s.frees 8
  (wordsNat r.1 % (p256n - 1) + 1, r.2)

/-- The identity key pair is generated at the first BOOT in MANUFACTURE (R483). -/
def makeIdentity (s : State) : State :=
  if s.sec.ident.isSome ∨ s.sec.life ≠ 0 then s
  else
    let d := freshScalar s
    let q := publicPoint d.1
    { d.2 with sec := { d.2.sec with ident := some (d.1, natWords 8 q.1 ++ natWords 8 q.2) } }

/-- BOOT writes its audit entries (R493, R494, R535). -/
def bootAudits (s : State) : State :=
  let s := if s.get F.RST_CAUSE.CAUSE = 6 then audit 0x0F 3 2 0 0 [BitVec.ofNat 32 (s.get F.RST_CAUSE.DETAIL)] s else s
  if s.flag F.BOOT_STAT.OPT_BAD ∨ s.flag F.BK_DEV_STAT.BK_BAD then audit 0x10 3 2 0 0 [] s else s

/-- The mode BOOT ends in (R504). -/
def bootMode (s : State) : Nat :=
  if s.flag F.MODE_CFG.BOOT_READY ∧ ¬ s.flag F.BK_DEV_STAT.BK_BAD ∧ ¬ s.flag F.BOOT_STAT.OPT_BAD
      ∧ ¬ s.flag F.BOOT_STAT.SELF_FAIL ∧ s.sec.life ≠ 3 then 4 else 2

/-- BOOT_END: the interpreter runs, the time source is chosen, the period timers start and the mode is set; `elapsed` is the
time since the release of `nRST` in 10 µs units (R31, R197, R245, R504, R537). -/
def bootEnd (t elapsed : Nat) (s : State) : State :=
  if s.rst.boot ≠ .checked ∨ ¬ s.rst.toVerify.isEmpty ∨ ¬ s.pd 2 then s
  else
    let s := makeIdentity (bootAudits (s.at_ t))
    let s : State := { s with
      ip := { s.ip with running := true }
      rst := { s.rst with boot := .done }
      tap := { s.tap with sensed := some s.sec.life } }
    let s := bootSource (s.set F.BOOT_STAT.BOOT_TIME (min elapsed 0xFFFF))
    let s := ((s.set F.MODE_STAT.PREV_MODE 1).set F.MODE_STAT.LAST_TRIG 2).raise F.MODE_STAT.MODE_EVT
    let s := startTimers (s.set F.MODE_STAT.MODE (bootMode s))
    refreshAll (s.each (allAxes.filter s.axOn) firstDiag)

/-! ### Block resets -/

/-- An accepted RESET begins (R341, R540): 0 and 1 reset the device, the others one block. -/
def beginReset (p : PendReset) (s : State) : State :=
  let t := p.target.toNat
  let detail := match p.port with | .hp => 0 | .aux => 1 | .up => 2
  if t = 0 then resetTrigger 5 2 detail s
  else if t = 1 then resetTrigger 5 3 detail s
  else
    let s : State := { s with rst := { s.rst with block := some p.target } }
    let s := s.set F.BLK_RST_STAT.BLK_BUSY (2 ^ (t - 2))
    match t with
    | 2 => quadLost 0 s
    | 3 => quadLost 1 s
    | 4 => quadLost 2 s
    | 5 => quadLost 3 s
    | 6 => lockerReset s
    | 7 => linkGoesDown .up s
    | 8 => linkGoesDown .dn s
    | _ => s

/-- RESET_BEGIN: an accepted RESET begins 1 ms after acceptance where no window of its port has come first, a routed one once its
reply has reached the Captain (R341); a window of its port begins it by itself (`portWindow`). -/
def resetBegin (s : State) : State :=
  match s.ip.pendReset with
  | [] => s
  | p :: l =>
    let s := if p.port = .up then s else s.at_ p.deadline
    beginReset p { s with ip := { s.ip with pendReset := l } }

/-- BLOCK_RESET_DONE: the running block reset completes (R540). -/
def blockResetDone (s : State) : State :=
  match s.rst.block with
  | none => s
  | some b =>
    let t := b.toNat
    let s : State := { s with rst := { s.rst with block := none } }
    let s := (s.set F.BLK_RST_STAT.BLK_BUSY 0).set F.BLK_RST_STAT.BLK_DONE (s.get F.BLK_RST_STAT.BLK_DONE ||| 2 ^ (t - 2))
    match t with
    | 2 => if s.pd 3 then quadStart 0 s else s
    | 3 => if s.pd 4 then quadStart 1 s else s
    | 4 => if s.pd 5 then quadStart 2 s else s
    | 5 => if s.pd 6 then quadStart 3 s else s
    | _ => s

/-- BLOCK_RESET_HUNG: a block reset has not completed within 1 ms (R541): the block stays in reset until L2. -/
def blockResetHung (s : State) : State :=
  match s.rst.block with
  | none => s
  | some b =>
    let s : State := { s with rst := { s.rst with block := none } }
    (s.set F.BLK_RST_STAT.BLK_BUSY 0).set F.BLK_RST_STAT.BLK_HUNG (s.get F.BLK_RST_STAT.BLK_HUNG ||| 2 ^ (b.toNat - 2))

end Sys2Proof.Machine
end

