-- ==== Sys2Proof/Machine/Stack.lean ====
section
/-!
DEFINITION. The stack operations that reach other chapters: Whistle schedules (R441) and stack resets (R442).
-/

namespace Sys2Proof.Machine

/-- A Whistle schedule is held (R441): one already held adds no entry, and a fifth is dropped. -/
def addSchedule (t : Nat) (s : State) : State :=
  if s.cv.sched.contains t ∨ 4 ≤ s.cv.sched.length then s
  else { s with cv := { s.cv with sched := s.cv.sched ++ [t] } }

/-- The flit of a stack reset waits for room on a port. -/
def resetWaits (s : State) (l : Link) : Bool :=
  (s.cvPort l).waiting.any fun f => match f.msg with | .bcast (.reset _ _) => true | _ => false

/-- The writer of a stack reset enters it once the flit has left both of its ports (R442). -/
def resetLeaves (s : State) : State :=
  match s.cv.rstPend with
  | none => s
  | some (lvl, id) =>
    if resetWaits s .up || resetWaits s .dn then s
    else resetTrigger 7 lvl id { s with cv := { s.cv with sched := [], rstPend := none } }

/-- STACK_RESET: a stack reset is broadcast at a level, and the writer enters it (R442). -/
def stackReset (lvl : Nat) (s : State) : State :=
  let id := devId s
  let s := broadcast (.reset (lvl == 3) (BitVec.ofNat 4 id)) s
  resetLeaves { s with cv := { s.cv with rstPend := some (lvl, id) } }

/-- What a device does on a broadcast (R439, R441, R442, R443): a schedule that comes after its time latches on arrival
with `WH_LATE`. -/
def actOnBcast (op : Bcast) (s : State) : State :=
  match op with
  | .whistle t => if t < s.ltime then raiseWhistle 3 t (s.raise F.CV_OPS.WH_LATE) else addSchedule t s
  | .reset l3 writer =>
    resetTrigger 7 (if l3 then 3 else 2) writer.toNat { s with cv := { s.cv with sched := [] } }
  | .gather latch => gatherAnswer latch s

/-- BCAST_RECEIVE: a broadcast is forwarded away from the port where it arrived and acted on (R439). -/
def bcastReceive (op : Bcast) (l : Link) (s : State) : State :=
  if ¬ linkUp s l ∨ deepHeld s ∨ asleep s then s
  else actOnBcast op (sendMsg (otherLink l) typBcast 1 (.bcast op) s)

end Sys2Proof.Machine
end

