-- ==== Sys2Proof/Machine/RegAccess.lean ====
section
/-!
DEFINITION. Register writes (R361 to R378): access types and masks, the checks of R367 in their order, the unlock, the
latched LO words, and the action a write of a particular register starts.
-/

namespace Sys2Proof.Machine

/-! ### The word a write leaves -/

/-- The bits an access type and data word select (R362). -/
def wrMask (typ : Nat) (data : Word) : Word :=
  match typ with
  | 0 => BitVec.allOnes 32
  | 1 => data >>> 16
  | 2 => data &&& 0xFFFF0000
  | _ => 0

/-- The values of the selected bits (R362). -/
def wrBits (typ : Nat) (data : Word) : Word :=
  match typ with
  | 0 => data
  | 1 => data &&& 0xFFFF
  | _ => data <<< 16

/-- The access codes whose fields a write stores (R368). -/
def Acc.stored : Acc → Bool
  | .rw | .rwk => true
  | _ => false

/-- The bits of the fields with chosen access codes. -/
def accMask (p : Acc → Bool) (fs : List FieldRow) : Word :=
  fs.foldl (fun m f => if p f.acc then m ||| fieldMask f.hi f.lo else m) 0

/-- The word of a register after a write (R368, R369): RW and RWK bits under the mask take the data, W1C bits under the
mask clear where the data is 1, every other bit keeps its value. -/
def writtenWord (fs : List FieldRow) (old mask bits : Word) : Word :=
  let wm := accMask Acc.stored fs &&& mask
  let cm := accMask (· == .w1c) fs &&& mask &&& bits
  ((old &&& ~~~ wm) ||| (bits &&& wm)) &&& ~~~ cm

/-- The write changes an RWK field (R368). -/
def rwkChanged (fs : List FieldRow) (old new : Word) : Bool := ((old ^^^ new) &&& accMask (· == .rwk) fs) != 0

/-- Every stored field the mask touches lies in its legal range after the write (R12, R369). -/
def fieldsInRange (fs : List FieldRow) (mask new : Word) : Bool :=
  fs.all fun f => !f.acc.stored || (fieldMask f.hi f.lo &&& mask == 0)
    || (decide (f.mn ≤ getBits new f.hi f.lo) && decide (getBits new f.hi f.lo ≤ f.mx))

/-- One write as its checks see it: the register, the numbers of its copy, its address, the mask and bits, the word
before and the word after. -/
structure RegWr where
  row : RegRow
  i : Nat
  j : Nat
  addr : Nat
  mask : Word
  bits : Word
  old : Word
  new : Word
  deriving DecidableEq, Repr

/-- A WO bit acts when its mask bit and its data bit are 1 (R369). -/
def RegWr.acts (w : RegWr) (bit : Nat) : Bool := (w.mask &&& w.bits).getLsbD bit

/-- The write leaves a field as it was. -/
def RegWr.keeps (w : RegWr) (hi lo : Nat) : Bool := getBits w.old hi lo == getBits w.new hi lo

/-! ### Check 7: ranges that span fields -/

/-- `N` of a majority filter lies from (M + 1)/2 to M, M coded 3, 5, 7, 9 (R296). -/
def majLegal (w : Word) : Bool :=
  let m := 3 + 2 * getBits w 2 1
  let n := getBits w 6 3
  decide (m + 1 ≤ 2 * n) && decide (n ≤ m)

/-- The five thresholds of a quad in their order (R249). -/
def vmOrder (thr uv : Word) : Bool :=
  decide (getBits uv 9 0 < getBits uv 19 10) && decide (getBits uv 19 10 < getBits thr 29 20)
    && decide (getBits thr 29 20 < getBits thr 19 10) && decide (getBits thr 19 10 < getBits thr 9 0)
    && decide (getBits thr 9 0 ≤ 950)

/-- `WM_LO` + `HYST` ≤ `WM_HI` − `HYST` (R295). -/
def wmOrder (thr cfg : Word) : Bool :=
  decide (getBits thr 9 0 + 2 * getBits cfg 21 16 ≤ getBits thr 25 16)

/-- Bits 31:16 of a HI word repeat its bit 15 (R95). -/
def hiLegal (w : Word) : Bool := getBits w 31 16 == (if w.getLsbD 15 then 0xFFFF else 0)

/-- The bits of the check field of a serial frame (R277). -/
def serCheckLen (chk : Nat) : Nat := if chk = 1 then 8 else if chk = 2 then 1 else 0

/-- The ranges that join several fields hold after the write (R110, R142, R192, R203, R249, R255, R273, R277, R295, R296,
R413, R442, R468). -/
def crossLegal (s : State) (w : RegWr) : Bool :=
  match w.row.id with
  | .MCH_CFG => !(getBits w.new 1 0 == 3 && (w.new.getLsbD 6 || getBits w.new 13 10 == devId s))
  | .AX_CAM_ORIGIN_HI | .BK_PMIN_HI | .BK_PMAX_HI => hiLegal w.new
  | .WT_CTRL => [w.acts 0, w.acts 1, w.acts 2].count true == 1
  | .AX_LA_THR =>
    decide (getBits w.new 31 22 < getBits w.new 21 11) && decide (getBits w.new 21 11 < getBits w.new 10 0)
  | .AX_PWM_CTRL => !w.acts 0 || commitFits s (axisOf w.i)
  | .QD_VM_THR => vmOrder w.new (rfGet s.regs (w.addr + 4))
  | .QD_VM_UV => vmOrder (rfGet s.regs (w.addr - 4)) w.new
  | .AX_DIAG_THR => decide (getBits w.new 9 0 < getBits w.new 25 16)
  | .AX_FB_CFG => getBits w.new 2 0 != 3 || s.get (F.AX_FB_REV_COUNT.REV_COUNT w.i) == s.get (F.AX_FB_WHEEL.TEETH w.i)
  | .AX_FB_REV_COUNT => fbMode s (axisOf w.i) != 3 || w.new.toNat == s.get (F.AX_FB_WHEEL.TEETH w.i)
  | .AX_FB_WHEEL => fbMode s (axisOf w.i) != 3 || getBits w.new 11 0 == s.get (F.AX_FB_REV_COUNT.REV_COUNT w.i)
  | .AX_FB_SER => decide (getBits w.new 14 9 + serCheckLen (getBits w.new 16 15) ≤ getBits w.new 8 2)
  | .MS_OC_CFG | .MS_VMWM_CFG => majLegal w.new
  | .MS_WM_CFG => majLegal w.new && wmOrder (rfGet s.regs (w.addr - 4)) w.new
  | .MS_WM_THR => wmOrder w.new (rfGet s.regs (w.addr + 4))
  | .LK_CFG => decide (3 * getBits w.new 7 4 < getBits w.new 15 8)
  | .CV_STK_RST =>
    let v := w.mask &&& w.bits
    getBits v 15 0 == 0x5A3C && (getBits v 17 16 == 1 || getBits v 17 16 == 2)
  | .WH_CFG => decide (getBits w.new 31 24 * 100 + getBits w.new 15 8 * 10 < getBits w.new 23 16 * 1000)
  | _ => true

/-! ### Check 9: state conditions -/

/-- Another axis in SERIAL uses a select of the AUX port (R278). -/
def serialSelTaken (s : State) (a : Axis) (sel : Nat) : Bool :=
  allAxes.any fun b => b != a && fbMode s b == 4 && s.get (F.AX_FB_SER.SEL b) == sel

/-- The state conditions of the register hold (R112, R142, R144, R150, R260, R269, R278, R297, R329, R395, R440, R443, R472,
R518). -/
def stateAdmits (s : State) (w : RegWr) : Bool :=
  let a := axisOf w.i
  match w.row.id with
  | .MCH_CFG =>
    (w.keeps 5 0 && w.keeps 13 8) || !(allAxes.any fun b => usesChan s ⟨w.i % 4, by omega⟩ b)
  | .WT_CTRL => !waveBusy s w.i
  | .AX_FB_CFG =>
    let m0 := getBits w.old 2 0
    let m1 := getBits w.new 2 0
    if m0 ≠ 0 then m1 == 0 || (m1 == m0 && w.keeps 3 3)
    else m1 == 0 || (!fbFollowed s a
      && (m1 != 4 || (!s.flag F.AUX_CFG.ROLE && !serialSelTaken s a (s.get (F.AX_FB_SER.SEL a)))))
  | .AX_FB_REV_COUNT => fbMode s a == 0 || w.keeps 31 0
  | .AX_FB_WHEEL => fbMode s a == 0 || w.keeps 13 0
  | .AX_FB_SER =>
    (fbMode s a == 0 || w.keeps 16 2)
      && (fbMode s a != 4 || w.keeps 1 0 || !serialSelTaken s a (getBits w.new 1 0))
  | .AX_FB_CTRL => !w.acts 0 || !fbFollowed s a
  | .AX_WAVE => !s.flag (F.AX_STATE.ENERGISED a) || w.keeps 13 3
  | .AX_CC_CFG => !s.flag (F.AX_STATE.ENERGISED a) || w.keeps 5 0
  | .AX_SHUNT => !s.flag (F.AX_STATE.ENERGISED a) || w.keeps 15 0
  | .MS_OC_CFG => !s.flag (F.AX_STATE.ENERGISED a)
  | .AUX_CFG => w.keeps 0 0 || !w.new.getLsbD 0 || !(allAxes.any fun b => fbMode s b == 4)
  | .LK_PART_CTRL => !w.acts 0 || (s.mode == 2 && s.pw.sleepPend.isNone)
  | .BK_DEV_CTRL => !w.acts 0 || (!s.flag F.BK_DEV_STAT.STORE_BUSY && s.pw.sleepPend.isNone)
  | .CV_CTRL =>
    (!w.acts 0 || (isCaptain s && !s.flag F.CV_OPS.BAR_BUSY)) && (!w.acts 1 || (isCaptain s && !s.flag F.CV_OPS.GATHER_BUSY))
  | _ => true

/-! ### The effect of a write that passes -/

/-- A write of an action bit of `WT_CTRL` (R138 to R140). -/
def wtAction (t : Fin 8) (swap fill : Bool) (s : State) : State :=
  (if swap then wtSwap t s else if fill then wtStart t .fill s else wtStart t .revert s).1

/-- The frame that a write on a port belongs to, as its `ALIVE`: the port's newest accepted one. -/
def writerOf (q : PortSt) : Option (BitVec 4) := q.store.head?.map (·.alive)

/-- A role write takes effect at the end of the transfer that carries its reply (R304); one that came over the stack
takes effect at once. -/
def roleWrite (via : Port) (aux role : Bool) (s : State) : State :=
  match via with
  | .hp => { s with hp := { s.hp with roleNext := s.hp.roleNext ++ [(writerOf s.hp, aux, role)] } }
  | .aux => { s with aux := { s.aux with roleNext := s.aux.roleNext ++ [(writerOf s.aux, aux, role)] } }
  | .up => s.setB (if aux then F.AUX_CFG.ROLE else F.HP_CFG.ROLE) role

/-- The value of a LO word that a write or an apply acts on: the latched one if one is held (R378). -/
def latchedWord (s : State) (addr : Nat) : Word :=
  match s.ip.loLatch.find? fun l => l.1 == addr with
  | some l => l.2
  | none => rfGet s.regs addr

/-- A LO word is held in its latch (R378). -/
def latchLo (addr : Nat) (w : Word) (s : State) : State :=
  { s with ip := { s.ip with loLatch := (addr, w) :: s.ip.loLatch.filter fun l => l.1 != addr } }

/-- A HI word applies with its latched LO word at one instant (R378). -/
def applyHi (addr : Nat) (w : Word) (s : State) : State :=
  let s := (s.setWord (addr - 4) (latchedWord s (addr - 4))).setWord addr w
  { s with ip := { s.ip with loLatch := s.ip.loLatch.filter fun l => l.1 != addr - 4 } }

/-- A change of a role waits on either port (R304). -/
def rolePends (aux : Bool) (s : State) : Bool := (s.hp.roleNext ++ s.aux.roleNext).any fun r => r.2.1 == aux

/-- The bits of a role field keep the value in force (R304). -/
def keepRole (w : RegWr) : Word := putBits w.new 0 0 (getBits w.old 0 0)

/-- What a write that has passed its checks does (R367, R368): the word is stored, and the action of the register begins. -/
def performWrite (via : Port) (w : RegWr) (s : State) : State :=
  let a := axisOf w.i
  match w.row.id with
  | .TB_CTRL =>
    let s1 := s.setWord w.addr (putBits w.new 0 0 (getBits w.old 0 0))
    if w.keeps 0 0 then s1 else refinEnWrite (w.new.getLsbD 0) s1
  | .MCH_CFG =>
    let s1 := s.setWord w.addr w.new
    if w.keeps 5 0 && w.keeps 13 8 then s1 else mchRestart ⟨w.i % 4, by omega⟩ s1
  | .AX_CAM_OFFSET_LO | .AX_CAM_ORIGIN_LO => latchLo w.addr w.new s
  | .AX_CAM_OFFSET_HI | .AX_CAM_ORIGIN_HI => applyHi w.addr w.new s
  | .AX_PLN_CFG => refreshEnergised a (s.setWord w.addr w.new)
  | .AX_CC_CFG =>
    let s1 := s.setWord w.addr w.new
    loadOcDac a (if w.keeps 3 3 then s1 else loseReady a s1)
  | .WT_CTRL => wtAction (tableOf w.i) (w.acts 0) (w.acts 1) s
  | .AX_WAVE =>
    let s1 := s.setWord w.addr (putBits w.new 2 0 (getBits w.old 2 0))
    if w.mask &&& 7 = 0 then s1 else waveTableWrite a (getBits w.new 2 0) s1
  | .AX_PWM_CTRL => if w.acts 0 then (commitAxis a s).1 else s
  | .PCH_CTRL =>
    let s1 := s.setWord w.addr w.new
    if w.acts 0 then commitPriv ⟨w.i % 8, by omega⟩ s1 else s1
  | .AX_FB_CFG =>
    let s1 := s.setWord w.addr (putBits w.new 2 0 (getBits w.old 2 0))
    -- another active level of FZ begins another pulse (R267)
    let s1 := if w.keeps 5 4 then s1 else s1.modCore a fun c => { c with idxDone := false }
    if w.keeps 2 0 then s1 else fbModeSet a (getBits w.new 2 0) s1
  | .AX_FB_CTRL =>
    let s1 := if w.acts 0 then (homeArm a s).1 else s
    if w.acts 1 then homeCancel a s1 else s1
  | .MS_WM_CFG =>
    let n : Fin 8 := ⟨w.i % 8, by omega⟩
    let s1 := wmSettle (ainMon n) s (s.setWord w.addr w.new)
    if w.keeps 24 24 then s1 else wmEnable n s1
  | .MS_WM_THR => wmSettle (ainMon ⟨w.i % 8, by omega⟩) s (s.setWord w.addr w.new)
  | .QD_VM_THR => wmSettle (vmMon ⟨w.i % 4, by omega⟩) s (s.setWord w.addr w.new)
  | .QD_VM_UV => wmSettle (vmMon ⟨w.i % 4, by omega⟩) s (s.setWord w.addr w.new)
  | .BK_OC => loadOcDac a (s.setWord w.addr w.new)
  | .AX_PROBE_CFG => probeTimer a (s.setWord w.addr w.new)
  | .HP_CFG =>
    let s1 := s.setWord w.addr (keepRole w)
    if w.keeps 0 0 && !rolePends false s then s1 else roleWrite via false (w.new.getLsbD 0) s1
  | .AUX_CFG =>
    let s1 := s.setWord w.addr (keepRole w)
    if w.keeps 0 0 && !rolePends true s then s1 else roleWrite via true (w.new.getLsbD 0) s1
  | .LK_PART_CTRL => if w.acts 0 then partitionApply s else s
  | .CV_CFG =>
    let s1 := s.setWord w.addr w.new
    if w.keeps 10 10 || w.new.getLsbD 10 then s1 else dnDisabled s1
  | .CV_CTRL =>
    let s1 := if w.acts 0 then (barrierStart s).1 else s
    if w.acts 1 then (gatherStart s1).1 else s1
  | .CV_STK_RST => stackReset (getBits (w.mask &&& w.bits) 17 16 + 1) s
  | .BK_DEV_CTRL => if w.acts 0 then bkStore s else s
  | .PD_CTRL => pdCtrlWrite (getBits w.new 3 0) (w.new.getLsbD 4) s
  | _ => s.setWord w.addr w.new

/-! ### The write -/

/-- Status codes of R336. -/
def stOk : Nat := 0x00
def stQueued : Nat := 0x01
def stStarted : Nat := 0x02
def stRouted : Nat := 0x03
def stPending : Nat := 0x04
def stBadOpcode : Nat := 0x10
def stBadLen : Nat := 0x11
def stRange : Nat := 0x12
def stNoDevice : Nat := 0x13
def stNotFound : Nat := 0x14
def stLinkDown : Nat := 0x15
def stWrongMode : Nat := 0x20
def stBusy : Nat := 0x21
def stQueueFull : Nat := 0x22
def stWrongSource : Nat := 0x23
def stAxisFault : Nat := 0x24
def stAuthRequired : Nat := 0x30
def stRoleDenied : Nat := 0x31
def stLocked : Nat := 0x32
def stSigBad : Nat := 0x33
def stCamBad : Nat := 0x40
def stRecipeBad : Nat := 0x41
def stLockerErr : Nat := 0x42

/-- The unlock is consumed (R371). -/
def consumeUnlock (s : State) : State := { s with ip := { s.ip with unlocked := false } }

/-- A write of a word of a wave table (R142, R167): the active buffer is read-only, and a busy table ignores the write. -/
def waveWrite (addr : Nat) (mask bits : Word) (s : State) : State × Nat :=
  let t := (addr - 0x200000) / 0x1000
  if 0x800 ≤ (addr - 0x200000) % 0x1000 then (s, stOk)
  else if waveBusy s t then (s.raise (F.WT_STAT.REFUSED t), stBusy)
  else (s.setWord addr ((rfGet s.regs addr &&& ~~~ mask) ||| (bits &&& mask)), stOk)

/-- A write to an implemented register in checks 6 to 9 of R367, with the unlock as it stood, and its effect. -/
def checkedWrite (via : Port) (unlocked : Bool) (w : RegWr) (s : State) : State × Nat :=
  let fs := w.row.fields
  let changed := rwkChanged fs w.old w.new
  if changed ∧ s.mode ≠ 2 ∧ s.mode ≠ 3 then (s, stWrongMode)
  else if ¬ fieldsInRange fs w.mask w.new ∨ ¬ crossLegal s w then
    (if w.row.id = .AX_PWM_CTRL then (commitAxis (axisOf w.i) s).1 else s, stRange)
  else if changed ∧ ¬ unlocked then
    ((s.raise F.SYS_ACC_STAT.LOCK_REJ).inc F.SYS_ACC_STAT.LOCK_CNT, stLocked)
  else if ¬ stateAdmits s w then
    (if w.row.id = .WT_CTRL then s.raise (F.WT_STAT.REFUSED w.i) else s, stBusy)
  else (performWrite via w s, stOk)

/-- The write of one register as its checks see it. -/
def wrOf (s : State) (row : RegRow) (i j addr : Nat) (mask bits : Word) : RegWr :=
  let old := latchedWord s addr
  { row, i, j, addr, mask, bits, old, new := writtenWord row.fields old mask bits }

/-- The address lies in the `BK` block (R381). -/
def inBk (addr : Nat) : Bool := decide (0x3F0000 ≤ addr) && decide (addr < 0x3F8000)

/-- `SYS_UNLOCK` (R371): the key arms the unlock, any other value leaves the device locked. -/
def unlockWrite (key : Nat) (s : State) : State := { s with ip := { s.ip with unlocked := key == 0x5A3C } }

/-- A register write (R367 to R373): `addr` is the address word with its access type in bits 1:0; `bk` is BACKSTOP_SET.
The answer holds the status code of R336, `OK` where the write took effect or was ignored. -/
def writeReg (via : Port) (bk : Bool) (addr typ : Nat) (data : Word) (s0 : State) : State × Nat :=
  let unlocked := s0.ip.unlocked
  let s := consumeUnlock s0
  let mask := wrMask typ data
  let bits := wrBits typ data
  if typ = 3 then (s.raise F.SYS_ACC_STAT.ACC_BAD, stRange)
  else if 0x1000000 ≤ addr then (s.raise F.SYS_ACC_STAT.ADDR_END, stRange)
  else if inBk addr ∧ ¬ bk then (s, stRoleDenied)
  else if bk ∧ ¬ inBk addr then (s, stRange)
  else if ¬ s.pd (domainOf addr) then (s, stOk)
  else if isWaveAddr addr then waveWrite addr mask bits s
  else match regAt addr with
  | none => (s, stOk)
  | some (row, i, j) =>
    if row.id = .SYS_UNLOCK then (unlockWrite (getBits (mask &&& bits) 15 0) s, stOk)
    else checkedWrite via unlocked (wrOf s row i j addr mask bits) s

/-- The writes of one frame one after another until one fails (R343): the state, the status, and the index of the failing
write. -/
def writeAll (via : Port) (bk : Bool) : List (Nat × Nat × Word) → Nat → State → State × Nat × Nat
  | [], _, s => (s, stOk, 0)
  | (addr, typ, data) :: l, k, s =>
    let r := writeReg via bk addr typ data s
    if r.2 = stOk then writeAll via bk l (k + 1) r.1 else (r.1, r.2, k)

/-- The end of a frame (R372, R378): an unused unlock lapses, and unused LO latches are discarded. -/
def endFrame (s : State) : State :=
  let s := if s.ip.unlocked then s.raise F.SYS_ACC_STAT.UNLOCK_LAPSED else s
  { s with ip := { s.ip with
    unlocked := false
    loLatch := [] } }

end Sys2Proof.Machine
end

