-- ==== Sys2Proof/Machine/Recipe.lean ====
section
/-!
DEFINITION. Recipes (R399 to R407): their records, the take-up of RECIPE_ARM with its steps in order, the shadow
configuration, and the apply at its instant.
-/

namespace Sys2Proof.Machine

/-! ### Records -/

/-- The byte address of a recipe slot: 128 KiB each from the base of the recipe partition (R399). -/
def slotAddr (s : State) (slot : Nat) : Nat := partAddr (partRec s) + slot * 0x20000

/-- A slot lies in the recipe partition. -/
def slotExists (s : State) (slot : Nat) : Bool := decide (0x20000 * (slot + 1) ≤ 0x100000 * (partRec s).2)

/-- The `MAGIC` of a recipe header (R399). -/
def rcpMagic : Word := 0x46524331

/-- One record from its first word and its parameters (R400). -/
def recordOf (h : Word) (ps : List Word) : Option RcpRec :=
  let target := getBits h 15 8
  match getBits h 7 0, ps with
  | 1, [addr, data] => if target = 0 then some (.reg addr data) else none
  | 2, [w] => if target < 16 then some (.source (axisOf target) ⟨getBits w 1 0 % 4, by omega⟩) else none
  | 3, [w] => if target < 16 then some (.cam (axisOf target) (w.setWidth 8)) else none
  | 4, ws => if target < 8 ∧ ws.length = 512 then some (.wave ⟨target % 8, by omega⟩ ws) else none
  | _, _ => none

/-- The records of a record section (R400), at most `n` of them; none where a record is malformed or the section is not
filled exactly. -/
def parseRecs : Nat → List Word → Option (List RcpRec)
  | _, [] => some []
  | 0, _ => none
  | n + 1, h :: ws =>
    let nw := getBits h 31 16
    if ws.length < nw then none
    else (recordOf h (ws.take nw)).bind fun r => (parseRecs n (ws.drop nw)).map fun l => r :: l

/-- The locations a REG record may write (R401). -/
def rcpLocation (addr : Nat) : Bool :=
  if 0x100000 ≤ addr ∧ addr < 0x110000 then
    let o := addr % 0x1000
    (decide (0x100 ≤ o) && decide (o ≤ 0x140)) || (decide (0x204 ≤ o) && decide (o ≤ 0x248))
      || (decide (0x300 ≤ o) && decide (o ≤ 0x32C)) || (decide (0x400 ≤ o) && decide (o ≤ 0x444))
      || o == 0x500 || o == 0x504 || o == 0x600 || o == 0x604 || o == 0x614
  else if 0x300000 ≤ addr ∧ addr < 0x301000 then addr % 0x100 == 0x1C
  else addr == 0x104 || addr == 0x114 || addr == 0x124 || addr == 0x134

/-- The bits of a register a record's mask must not select (R401): the fields a write does not store, and `MODE`, `MOD`,
`SHUNT_FS`, `OVERSAMPLE`, `R_SHUNT`, `REVERSE` and `PHASE_OFS`. -/
def rcpBarred (row : RegRow) : Word :=
  accMask (fun a => !a.stored) row.fields |||
    (match row.id with
     | .AX_CC_CFG => 0x3F
     | .AX_SHUNT => 0xFFFF
     | .AX_WAVE => 0x3FF8
     | _ => 0)

/-- A REG record as a register write, where it names an implemented register. -/
def rcpWr (addr data : Word) (s : State) : Option RegWr :=
  let typ := getBits addr 1 0
  let at_ := getBits addr 23 2 * 4
  (regAt at_).map fun r => wrOf s r.1 r.2.1 r.2.2 at_ (wrMask typ data) (wrBits typ data)

/-- A REG record passes R401 and the ranges of R12, in the state the records before it leave. -/
def regRecLegal (addr data : Word) (s : State) : Bool :=
  getBits addr 1 0 != 3 && rcpLocation (getBits addr 23 2 * 4) &&
    (match rcpWr addr data s with
     | none => true
     | some w => (w.mask &&& rcpBarred w.row) == 0 && fieldsInRange w.row.fields w.mask w.new && crossLegal s w)

/-- A REG record takes effect (R404): the word is stored as by a register write; a domain that is off ignores it. -/
def performReg (addr data : Word) (s : State) : State :=
  if ¬ s.pd (domainOf (getBits addr 23 2 * 4)) then s
  else match rcpWr addr data s with
  | some w => performWrite .up w s
  | none => s

/-- Every record passes step 5 of R402; the REG records are judged one after another. -/
def recsLegal : List RcpRec → State → Bool
  | [], _ => true
  | .reg addr data :: l, s => regRecLegal addr data s && recsLegal l (performReg addr data s)
  | _ :: l, s => recsLegal l s

/-! ### Arming -/

/-- The first waiting command is a recipe command of this opcode, so that every earlier command has been taken up (R352). -/
def recipeNext (s : State) (op : BitVec 8) : Option QCmd :=
  match s.ip.cmdq with
  | c :: _ => if s.ip.running ∧ c.op = op then some c else none
  | [] => none

/-- RECIPE_ARM_TAKE_UP: the interpreter takes up a RECIPE_ARM and asks for the header (R352, R402, R403): not while an
apply is scheduled, nor while another arm runs. -/
def recipeArmTakeUp (s : State) : State :=
  match recipeNext s 0x52 with
  | none => s
  | some c =>
    if s.lk.apply.isSome ∨ s.lk.arm.isSome then s
    else
      let slot := (c.words.getD 0 0).setWidth 8
      let s := unqueue c.seq s
      let s : State := { s with lk := { s.lk with
        arm := some { seq := c.seq, slot := slot, lines := [], total := 0, sig := false, cams := none } } }
      if ¬ slotExists s slot.toNat then armReject 1 s
      else readJob lkInterp .recipe (slotAddr s slot.toNat / 32) 2 s

/-- Step 1 of R402: the header is well formed; the answer is `REC_LEN`. -/
def rcpHeader (ws : List Word) : Option Nat :=
  let w (i : Nat) : Word := ws.getD i 0
  let rec_ := (w 2).toNat
  if w 0 = rcpMagic ∧ rec_ % 4 = 0 ∧ rec_ ≤ 32640 ∧ (w 3).toNat ≤ 131072 - 128 - rec_ ∧ (w 4) >>> 8 = 0
      ∧ w 5 = 0 ∧ w 6 = 0 ∧ w 7 = 0 then some rec_ else none

/-- The bytes of a running arm, its header words, its signed bytes, their digest, its signature and its `VERSION`. -/
def ArmSt.data (a : ArmSt) : List Byte := lineBytes a.lines
def ArmSt.head (a : ArmSt) : List Word := bytesToWordsLE (a.data.take 64)
def ArmSt.signed (a : ArmSt) : List Byte := a.data.take (a.total - 64)
def ArmSt.digest (a : ArmSt) : List Word := sha256 a.signed
def ArmSt.signature (a : ArmSt) : List Byte := (a.data.drop (a.total - 64)).take 64
def ArmSt.version (a : ArmSt) : Word := a.head.getD 1 0
def ArmSt.recs (a : ArmSt) : Option (List RcpRec) :=
  let ws := bytesToWordsLE (a.signed.drop 64)
  parseRecs ws.length ws

/-- Step 7 of R402: the shadow configuration is loaded and the command retires COMPLETED. -/
def armLoad (a : ArmSt) (s : State) : State :=
  let s : State := { s with lk := { s.lk with
    arm := none
    shadow := some { slot := a.slot, version := a.version, recs := a.recs.getD [] } } }
  let s := (s.set F.LK_RCP_STAT.ARMED 1).set F.LK_RCP_STAT.ARMED_SLOT a.slot.toNat
  retire a.seq .completed s

/-- Step 6 of R402: the next table named by a CAM record without a record of its own is validated; after the last one the
shadow is loaded. -/
def armCams (s : State) : State :=
  match s.lk.arm with
  | none => s
  | some a =>
    match a.cams with
    | none => s
    | some ids =>
      match ids.dropWhile fun id => (recOf s (camObj id)).isSome with
      | [] => armLoad a s
      | id :: rest =>
        camValidate id .recipe { s with lk := { s.lk with arm := some { a with cams := some rest } } }

/-- Steps 4 and 5 of R402, once the slot has a record of these bytes. -/
def armChecks (a : ArmSt) (s : State) : State :=
  if a.version.toNat < (highOf s a.slot.toNat).getD 0 then armReject 4 s
  else match a.recs with
  | none => armReject 5 s
  | some recs =>
    if ¬ recsLegal recs s then armReject 5 s
    else
      let ids := recs.filterMap fun r => match r with | .cam _ id => some id | _ => none
      armCams { s with lk := { s.lk with arm := some { a with cams := some ids } } }

/-- Step 3 of R402: the digest is compared with the slot's record; without a record the signature waits to be verified. -/
def armDigest (a : ArmSt) (s : State) : State :=
  match recOf s a.slot.toNat with
  | some r => if r.1 = a.digest then armChecks a s else armReject 3 s
  | none => { s with lk := { s.lk with arm := some { a with sig := true } } }

/-- The header of the recipe in hand has been read (step 1 of R402): its other lines are read next. -/
def armHeader (a : ArmSt) (s : State) : State :=
  match rcpHeader a.head with
  | none => armReject 1 s
  | some n =>
    readJob lkInterp .recipe (slotAddr s a.slot.toNat / 32 + 2) ((n + 64 + 31) / 32)
      { s with lk := { s.lk with arm := some { a with total := n + 128 } } }

/-- A line of the recipe in hand has been read (steps 1 and 2 of R402): none where it was STALE or UNCORRECTABLE. -/
def armLine (line : Nat) (d : Option (List Byte)) (s : State) : State :=
  match s.lk.arm, d with
  | none, _ => s
  | some _, none => armReject 2 s
  | some a, some d =>
    let a := { a with lines := linePut line d a.lines }
    if a.total = 0 ∧ a.lines.length = 2 then armHeader a s
    else
      let s : State := { s with lk := { s.lk with arm := some a } }
      if a.total ≠ 0 ∧ a.lines.length = (a.total + 31) / 32 then armDigest a s else s

/-- The signature of the recipe in hand has been verified (R398, R402): a good one makes the slot's record. -/
def armSigned (a : ArmSt) (s : State) : State :=
  let a := { a with sig := false }
  let s : State := { s with lk := { s.lk with arm := some a } }
  if sigGood s ((a.head.getD 4 0).toNat % 256) a.digest a.signature then
    armChecks a (addRecord a.slot.toNat a.digest a.version.toNat s)
  else armReject 3 s

/-- SIGNATURE_VERIFY_DONE: the security engine ends the verification in hand (R398): of the recipe being armed, else of the
table in validation; an arm goes on after the table it waited for. -/
def signatureDone (s : State) : State :=
  match s.lk.vals with
  | v :: _ =>
    if v.sig then
      let s1 := camSigned v s
      if v.why = .recipe then armCams s1 else s1
    else (match s.lk.arm with | some a => if a.sig then armSigned a s else s | none => s)
  | [] => match s.lk.arm with | some a => if a.sig then armSigned a s else s | none => s

/-! ### Applying -/

/-- Stack time in ns: the device's own `LTIME` (R432, R441). -/
def stackTime (s : State) : Nat := s.ltime

/-- RECIPE_APPLY_TAKE_UP: the interpreter takes up a RECIPE_APPLY (R352, R404): with nothing armed it retires RECIPE_BAD;
otherwise the apply is scheduled, for `AT` = 1 with a Whistle at its stack time. -/
def recipeApplyTakeUp (s : State) : State :=
  match recipeNext s 0x53 with
  | none => s
  | some c =>
    let t := (c.words.getD 1 0).toNat + (c.words.getD 2 0).toNat * 2 ^ 32
    let timed := (c.words.getD 0 0).getLsbD 0
    if s.lk.apply.isSome ∨ s.lk.arm.isSome then s
    else if timed ∧ ¬ s.cv.sched.contains t ∧ 4 ≤ s.cv.sched.length ∧ stackTime s ≤ t then s
    else
      let s := unqueue c.seq s
      if s.lk.shadow.isNone then retire c.seq .recipeBad s
      else
        let s : State := { s with lk := { s.lk with apply := some (c.seq, if timed then some t else none) } }
        let s := s.set F.LK_RCP_STAT.APPLY_SCHED 1
        if timed then actOnBcast (.whistle t) (broadcast (.whistle t) s) else s

/-- A SOURCE record at the apply instant (R128, R404): an axis in motion stops as for STOP and takes the new source at
standstill; what is planned for a standing one is offside, its commands cancelled (R73). -/
def applySource (a : Axis) (src : Fin 4) (s : State) : State :=
  if ¬ s.axOn a then s
  else if s.src a = src.val then s.modFol a fun f => { f with srcPend := none }
  else
    let s := s.modFol a fun f => { f with srcPend := some src }
    let s := if s.src a = 0 then stopPacket a none s
      else followExit a s
    takePendSource a s

/-- A CAM record at the apply instant: as a cam-next command of an axis engaged under CAM (R128, R400). -/
def applyCam (a : Axis) (id : BitVec 8) (s : State) : State :=
  if ¬ s.axOn a ∨ s.src a ≠ 3 ∨ fstate s a ≠ 3 then s else camValidate id (.apply a (camRegs s a)) s

/-- A WAVE table is copied into its shadow and its swap armed (R404). -/
def waveCopy (t : Fin 8) (ws : List Word) (s : State) : State :=
  (wtSwap t (setWave t.val false (fun j => ws.getD j 0) s)).1

/-- A WAVE record at the apply instant: a busy table is copied when it has become free (R404). -/
def applyWave (t : Fin 8) (ws : List Word) (s : State) : State :=
  if waveBusy s t then { s with lk := { s.lk with waves := s.lk.waves.filter (fun w => w.1 ≠ t) ++ [(t, ws)] } }
  else waveCopy t ws s

/-- RECIPE_WAVE_COPY: a wave table whose swap was pending or that was busy is copied and armed once both have cleared
(R404). -/
def recipeWaveCopy (t : Fin 8) (s : State) : State :=
  if waveBusy s t then s
  else match s.lk.waves.find? fun w => w.1 = t with
  | none => s
  | some w => waveCopy t w.2 { s with lk := { s.lk with waves := s.lk.waves.filter fun w => w.1 ≠ t } }

/-- The axis whose profile sets a record writes (R47, R73): offsets 0x100 to 0x13F of its block. -/
def profiledAxis : RcpRec → Option Axis
  | .reg addr _ =>
    let at_ := getBits addr 23 2 * 4
    if 0x100000 ≤ at_ ∧ at_ < 0x110000 ∧ 0x100 ≤ at_ % 0x1000 ∧ at_ % 0x1000 < 0x140 then some (axisOf (at_ / 0x1000))
    else none
  | _ => none

/-- The axes whose profile sets a recipe changes, `old` being the state before it (R73). -/
def newProfileAxes (recs : List RcpRec) (old s : State) : List Axis :=
  ((recs.filterMap profiledAxis).eraseDups).filter fun a => (List.range 4).any fun k => profOf old a k ≠ profOf s a k

/-- The axis whose PWM staging a record writes (R404). -/
def stagedAxis : RcpRec → Option Axis
  | .reg addr _ =>
    let at_ := getBits addr 23 2 * 4
    if 0x100000 ≤ at_ ∧ at_ < 0x110000 ∧ (at_ % 0x1000 = 0x500 ∨ at_ % 0x1000 = 0x504) then some (axisOf (at_ / 0x1000)) else none
  | _ => none

/-- One pass over the records of a kind (R404). -/
def applyRegs (r : RcpRec) (s : State) : State := match r with | .reg a d => performReg a d s | _ => s
def applySources (r : RcpRec) (s : State) : State := match r with | .source a k => applySource a k s | _ => s
def applyCams (r : RcpRec) (s : State) : State := match r with | .cam a id => applyCam a id s | _ => s
def applyWaves (r : RcpRec) (s : State) : State := match r with | .wave t ws => applyWave t ws s | _ => s

/-- The apply instant (R404): registers, sources, cams, PWM commits and waves in this order; the motion of axes with new profile
sets is planned again (R73, R76); the command retires COMPLETED and the recipe is in force. -/
def applyRecipe (s : State) : State :=
  match s.lk.apply, s.lk.shadow with
  | some (seq, _), some sh =>
    let held := s.ip.loLatch
    let s : State := { s with ip := { s.ip with loLatch := [] } }
    let old := s
    let s := s.each sh.recs applyRegs
    let s := s.each (newProfileAxes sh.recs old s) newProfiles
    let s : State := { s with ip := { s.ip with loLatch := held } }
    let s := s.each sh.recs applySources
    let s := s.each sh.recs applyCams
    let s := s.each ((sh.recs.filterMap stagedAxis).eraseDups) fun a s => if s.axOn a then (commitAxis a s).1 else s
    let s := s.each sh.recs applyWaves
    let s : State := { s with lk := { s.lk with
      apply := none
      shadow := none } }
    let s := ((s.set F.LK_RCP_STAT.ARMED 0).set F.LK_RCP_STAT.APPLY_SCHED 0).set F.LK_RCP_STAT.ACTIVE_SLOT sh.slot.toNat
    let s := (s.set F.LK_RCP_STAT.ACTIVE_VALID 1).set F.LK_RCP_VER.ACTIVE_VERSION sh.version.toNat
    retire seq .completed s
  | _, _ => s

end Sys2Proof.Machine
end

