-- ==== Sys2Proof/Machine/Whistle.lean ====
section
/-!
DEFINITION. The Whistle (R448 to R461): the latch and its snapshot record, hold-off, drive and missed Whistles, and the
apply instant of a recipe.
-/

namespace Sys2Proof.Machine

/-! ### The snapshot record -/

/-- The word of a field's register as it reads, without side effects. -/
def regWord (s : State) (f : Fld) : Word := readWord s f.addr

/-- Two 16-bit halves as a word. -/
def halves (lo hi : Nat) : Word := BitVec.ofNat 32 (lo % 65536 + hi % 65536 * 65536)

/-- The 30 words of an axis section (R457). -/
def axisSection (s : State) (a : Axis) : List Word :=
  let leg (l : Nat) : List Word := [regWord s (F.AX_EDGE_ON.all a l), regWord s (F.AX_EDGE_OFF.all a l)]
  [ regWord s (F.AX_POS_LO.all a), regWord s (F.AX_POS_HI.all a), regWord s (F.AX_VEL.all a), regWord s (F.AX_ACC.all a),
    regWord s (F.AX_PLN_STAT.all a), regWord s (F.AX_FOLLOW_STAT.all a),
    halves (readField s (F.MS_CUR_W1.VALUE a)) (readField s (F.MS_CUR_W2.VALUE a)),
    regWord s (F.AX_IREF.all a), regWord s (F.AX_VCMD.all a), regWord s (F.AX_CC_FLAG.all a), regWord s (F.AX_LA.all a),
    regWord s (F.AX_LA_STAT.all a) ] ++ leg 0 ++ leg 1 ++ leg 2 ++ leg 3 ++
  [ regWord s (F.AX_PWM_ACT.all a), regWord s (F.AX_GD_FLT.all a), regWord s (F.AX_GD_STAT.all a),
    putBits (regWord s (F.AX_DEADLINE.all a)) 31 28 (readField s (F.AX_STATE.STATE a)),
    regWord s (F.AX_FB_POS.all a), halves (readField s (F.AX_FB_REV.REV a)) (readField s (F.MS_VM.VALUE a)),
    regWord s (F.AX_FB_SPEED.all a), regWord s (F.AX_FB_STAT.all a),
    halves (readField s (F.MS_SN_W1P.VALUE a)) (readField s (F.MS_SN_W1N.VALUE a)),
    halves (readField s (F.MS_SN_W2P.VALUE a)) (readField s (F.MS_SN_W2N.VALUE a)) ]

/-- A flag of the eight `AIN` monitors as a mask. -/
def ainMask (s : State) (f : Nat → Fld) : Nat := bitsOfList ((List.range 8).map fun n => readField s (f n) != 0)

/-- Mode code, device ID and the Captain bit, with the Captain bit at place `c` and the ID at place `i`. -/
def whoWord (s : State) (c i : Nat) : Word :=
  BitVec.ofNat 32 (s.mode + devId s % 16 * 2 ^ i + bitOf (isCaptain s) * 2 ^ c)

/-- The 24 words of the device section (R458). -/
def deviceSection (s : State) : List Word :=
  [ regWord s F.LAST_COMMITTED_SEQ.all, regWord s F.CMD_STAT.all, regWord s F.PLN_STATUS.all, whoWord s 8 4,
    regWord s F.TB_STATUS.all, regWord s F.HP_ATTN.all, regWord s F.CV_STAT.all, regWord s F.CV_TIME.all,
    regWord s F.CV_UP_CNT.all, regWord s F.CV_DN_CNT.all,
    halves (regWord s F.CV_UP_STAT.all).toNat (regWord s F.CV_DN_STAT.all).toNat,
    regWord s (F.QD_GD_STAT.all 0), regWord s (F.QD_GD_STAT.all 1), regWord s (F.QD_GD_STAT.all 2),
    regWord s (F.QD_GD_STAT.all 3) ]
  ++ (List.range 4).map (fun w => halves (readField s (F.MS_AIN.VALUE (2 * w))) (readField s (F.MS_AIN.VALUE (2 * w + 1))))
  ++ (List.range 3).map (fun w => halves (readField s (F.MS_TEMP.VALUE (2 * w))) (readField s (F.MS_TEMP.VALUE (2 * w + 1))))
  ++ [ regWord s F.MS_TEMP_STAT.all,
    BitVec.ofNat 32 (ainMask s F.MS_WM_STAT.BELOW + ainMask s F.MS_WM_STAT.ABOVE * 256 + ainMask s F.MS_WM_STAT.UNSETTLED * 65536) ]

/-- The header of a record (R456). -/
def snapHeader (s : State) (latchNo code detail missed : Nat) : List Word :=
  [ BitVec.ofNat 32 (latchNo + devId s % 16 * 65536 + 1 * 2 ^ 20 + code * 2 ^ 24), BitVec.ofNat 32 s.ltime,
    BitVec.ofNat 32 (s.ltime / 2 ^ 32), BitVec.ofNat 32 (min missed 255 + detail % 256 * 256) ]

/-! ### Whistles -/

/-- The hold-off of the latest latch runs (R452). -/
def holdingOff (s : State) : Bool := match s.wh.holdEnd with | some e => decide (s.now < e) | none => false

/-- The source whose code the latch records: the lowest of those raised at one instant (R452). -/
def lowestSource : List (Nat × Nat) → Nat × Nat → Nat × Nat
  | [], b => b
  | x :: l, b => lowestSource l (if x.1 < b.1 then x else b)

/-- A source drives `WHSL` (R451): codes 0x02 to 0x07 by their bit of `DRV`. -/
def drives (s : State) (r : Nat × Nat) : Bool := decide (2 ≤ r.1) && natBit (s.get F.WH_DRIVE.DRV) (r.1 - 2)

/-- A latch (R453, R456): the record of every block, the next `LATCH_NO`, the hold-off, the drive, and the trace stream
(R461). -/
def takeLatch (reqs : List (Nat × Nat)) (src : Nat × Nat) (s : State) : State :=
  let n0 := s.get F.WH_STAT.LATCH_NO
  let no := if n0 = 65535 then 1 else n0 + 1
  let detail := if src.1 = 3 then 0 else src.2
  let rec_ := snapHeader s no src.1 detail s.wh.missed ++ allAxes.flatMap (axisSection s) ++ deviceSection s
  let s := ((s.set F.WH_STAT.LATCH_NO no).set F.WH_STAT.LAST_SRC src.1).raise F.WH_STAT.WH_EVT |>.inc F.WH_CNT.LATCH_CNT
  let drive := reqs.any (drives s)
  let s : State := { s with wh := { s.wh with
    snap := some rec_
    latchT := s.now
    missed := 0
    holdEnd := some (s.now + s.get F.WH_CFG.WH_HOLDOFF * usT)
    driveEnd := if drive then some (s.now + s.get F.WH_CFG.WH_PULSE * 800) else s.wh.driveEnd
    pinHigh := s.wh.pinHigh && !drive } }
  let s := if drive then s.set F.WH_STAT.DRIVING 1 else s
  if s.flag F.WH_CFG.TRC_STREAM ∧ s.flag F.LK_TRC_CFG.TRC_EN then traceRecord (snapWords s) s else s

/-- A Whistle that takes no latch (R452). -/
def missLatch (s : State) : State :=
  let s := s.inc F.WH_CNT.WH_MISSED
  { s with wh := { s.wh with missed := s.wh.missed + 1 } }

/-- The Whistle is the apply instant of the scheduled apply (R404): any Whistle for `AT` = 0, the one at its stack time for
`AT` = 1. -/
def appliesNow (s : State) (reqs : List (Nat × Nat)) : Bool :=
  match s.lk.apply with
  | some (_, none) => true
  | some (_, some t) => reqs.contains (3, t)
  | none => false

/-- The Whistle of the sources raised at this instant (R448 to R452): one latch, or one missed Whistle, and the recipe
apply tied to it. -/
def whistleNow (reqs : List (Nat × Nat)) (s : State) : State :=
  match reqs with
  | [] => s
  | r :: rest =>
    if ¬ s.pd 1 ∨ deepHeld s ∨ asleep s then s
    else
      let s1 := if holdingOff s ∨ s.flag F.WH_CFG.FREEZE then missLatch s else takeLatch reqs (lowestSource rest r) s
      if appliesNow s1 reqs then applyRecipe s1 else s1

/-- Serves the Whistles raised so far. -/
def serveWhistles (s : State) : State := whistleNow s.whReq { s with whReq := [] }

/-- The end of every command: Whistles it has raised latch, those of a recipe apply too, and none stays raised (R450); the
security engine goes on with its buffered audit entries (R494), and an idle planner with its work (R68). -/
def finish (s : State) : State := wakePlanner (auditStart { serveWhistles (serveWhistles s) with whReq := [] })

/-- SCHEDULED_WHISTLE: stack time has reached the earliest held schedule (R441). -/
def scheduledWhistle (s : State) : State :=
  match s.cv.sched with
  | [] => s
  | x :: l =>
    let t := l.foldl min x
    let s := s.at_ (t * nsT)
    raiseWhistle 3 t { s with cv := { s.cv with sched := s.cv.sched.filter fun u => u ≠ t } }

/-- WHSL_EDGE: a transition of `WHSL` (R448, R449): a falling one raises a Whistle while `PIN_IN_EN` = 1, outside the
hold-off (R451). A level shorter than the filter is ignored, and so is the return from it. -/
def whslEdge (rising : Bool) (x : Level) (s : State) : State :=
  let s := s.at_ x.t
  if x.len < s.get F.WH_CFG.WH_FILT * 10 * nsT ∨ rising = s.wh.pinHigh then s
  else
    let off := holdingOff s
    let s : State := { s with wh := { s.wh with pinHigh := rising } }
    if rising ∨ off ∨ ¬ s.flag F.WH_CFG.PIN_IN_EN then s else raiseWhistle 1 0 s

/-- WHISTLE_DRIVE_END: the device releases `WHSL` (R451). -/
def whistleDriveEnd (s : State) : State :=
  match s.wh.driveEnd with
  | none => s
  | some e =>
    let s := (s.at_ e).set F.WH_STAT.DRIVING 0
    { s with wh := { s.wh with driveEnd := none, pinHigh := true } }

/-- WHISTLE_HOLDOFF_END: the hold-off after a latch ends (R452). -/
def whistleHoldoffEnd (s : State) : State :=
  match s.wh.holdEnd with
  | none => s
  | some e =>
    let s := s.at_ e
    { s with wh := { s.wh with holdEnd := none } }

end Sys2Proof.Machine
end

