-- ==== Sys2Proof/Machine/Security.lean ====
section
/-!
DEFINITION. Tickets of STARTED commands (R356), sessions and their keys (R487 to R490), key installs (R484), the lifecycle
(R491), patches (R485), the TRNG health tests (R492) and the audit log (R494).
-/

namespace Sys2Proof.Machine

/-! ### Tickets -/

/-- A STARTED command takes the next ticket (R356); the device keeps the eight most recent. -/
def newTicket (s : State) : BitVec 8 × State :=
  let no := BitVec.ofNat 8 (s.get F.CMD_TICKET.NEXT_TICKET)
  let held := s.ip.tickets ++ [{ no := no, result := none }]
  (no, ({ s with ip := { s.ip with tickets := held.drop (held.length - 8) } }).set F.CMD_TICKET.NEXT_TICKET ((no + 1).toNat))

/-- The final status and result words of a ticket; one no longer held is unaffected (R356). -/
def endTicket (no : BitVec 8) (code : Nat) (words : List Word) (s : State) : State :=
  { s with ip := { s.ip with tickets := s.ip.tickets.map fun t =>
    if t.no = no ∧ t.result.isNone then { t with result := some (BitVec.ofNat 8 code, words) } else t } }

/-- A job of the security engine begins under a new ticket. -/
def startJob (j : SecJob) (s : State) : BitVec 8 × State :=
  let r := newTicket s
  (r.1, { r.2 with sec := { r.2.sec with jobs := r.2.sec.jobs ++ [(r.1, j)] } })

/-! ### Sessions -/

/-- The session record of a port; a routed frame has none (R489). -/
def State.sessPort (s : State) : Port → SessPort
  | .hp => s.sec.hp
  | .aux => s.sec.aux
  | .up => SessPort.reset

/-- A state with the session record of a port changed. -/
def State.modSess (s : State) (p : Port) (f : SessPort → SessPort) : State :=
  match p with
  | .hp => { s with sec := { s.sec with hp := f s.sec.hp } }
  | .aux => { s with sec := { s.sec with aux := f s.sec.aux } }
  | .up => s

/-- The port number of the audit entries and of RESET details: 0 `HP`, 1 `AUX`, 2 routed or internal (R494, R525). -/
def portNo : Port → Nat
  | .hp => 0
  | .aux => 1
  | .up => 2

/-- The role of the session of a port, 3 for none (R494). -/
def roleOf (s : State) (p : Port) : Nat := match (s.sessPort p).sess with | some x => x.role.toNat | none => 3

/-- The session of a port closes (R490). -/
def closeSession (p : Port) (s : State) : State :=
  match (s.sessPort p).sess with
  | none => s
  | some x => audit 0x03 x.role.toNat (portNo p) 0 0 [] (s.modSess p fun q => { q with sess := none })

/-- A failure of R487 on a port: counted, and after `AUTH_FAIL_MAX` in a row the port is locked out for 10 s (R490). -/
def sessionFailure (p : Port) (s : State) : State :=
  let s := audit 0x02 3 (portNo p) 0 stSigBad [] (s.inc F.SEC_STAT.AUTH_FAIL_CNT)
  let n := (s.sessPort p).fails + 1
  if s.get F.SEC_CFG.AUTH_FAIL_MAX ≤ n then
    audit 0x04 3 (portNo p) 0 0 []
      (s.modSess p fun q => { q with opening := none, fails := 0, lockEnd := some (s.now + 10000 * msT) })
  else s.modSess p fun q => { q with opening := none, fails := n }

/-- A port is locked out (R490). -/
def lockedOut (s : State) (p : Port) : Bool := (s.sessPort p).lockEnd.isSome

/-- LOCKOUT_END: the 10 s lockout of a port ends (R490). -/
def lockoutEnd (p : Port) (s : State) : State :=
  match (s.sessPort p).lockEnd with
  | none => s
  | some e => (s.at_ e).modSess p fun q => { q with lockEnd := none }

/-- SESSION_TIMEOUT: a session without an accepted frame for `SESS_TMO` closes (R490). -/
def sessionTimeout (p : Port) (s : State) : State :=
  match (s.sessPort p).sess with
  | none => s
  | some x => closeSession p (s.at_ (x.lastAt + s.get F.SEC_CFG.SESS_TMO * 10000 * msT))

/-- The public key of a slot (R483). -/
def slotKey (s : State) (n : Fin 16) : Option (Nat × Nat) :=
  s.sec.keys[n].bind fun k => decompress ((wordsBytes k.point).take 33)

/-- A byte sequence of 16 bytes as a key. -/
def keyOf (l : List Byte) : BitVec 128 := BitVec.ofNat 128 (bytesNat (l.take 16))

/-- Step 1 and 2 of R487: the host key is compared with the role's slot, the ephemeral pair and the nonce are drawn, and
the session keys are derived. The answer is the status and the result words. -/
def openSession (p : Port) (words : List Word) (s : State) : State × Nat × List Word :=
  let w0 := words.getD 0 0
  let role := getBits w0 1 0
  let host := (wordsNat ((words.drop 1).take 8), wordsNat ((words.drop 9).take 8))
  let fits := decide (role ≤ 2) && slotKey s ⟨(2 + (2 - role)) % 16, by omega⟩ == some host
  match fits, s.sec.ident with
  | true, some ident =>
    let e := freshScalar s
    let ePub := publicPoint e.1
    let n := e.2.frees 4
    let ext := w0.getLsbD 8
    let context := natBytes 32 host.1 ++ natBytes 32 ePub.1 ++ wordsBytes n.1 ++ [BitVec.ofNat 8 role, BitVec.ofNat 8 (bitOf ext)]
    let key := keyOf (wordsBytes (sha256 (natBytes 32 (ecdh e.1 host) ++ natBytes 32 (ecdh ident.1 host))))
    let k (i : Nat) : BitVec 128 := Config.sessionKey key context i
    let x : Session := {
      role := BitVec.ofNat 2 role, ext := ext, kH2D := k 0, kD2H := k 1, kHC := k 2, kDC := k 3, context := context, n := 0
      macFails := 0, lastAt := s.now }
    (n.2.modSess p fun q => { q with opening := some x }, stOk, natWords 8 ePub.1 ++ natWords 8 ePub.2 ++ n.1)
  | _, _ => (sessionFailure p s, stSigBad, [])

/-- Step 3 of R487: the host's confirmation tag is compared; the session opens, or the opening fails. -/
def confirmSession (p : Port) (words : List Word) (s : State) : State × Nat × List Word :=
  match (s.sessPort p).opening with
  | none => (sessionFailure p s, stSigBad, [])
  | some x =>
    let tagH := cmac x.kHC ([0x48, 0x43] ++ x.context)
    if wordsBytes (words.take 4) = tagH then
      let tagD := cmac x.kDC ([0x44, 0x43] ++ x.context ++ tagH)
      let s := audit 0x01 x.role.toNat (portNo p) 0 0 [] s
      (s.modSess p fun q => { q with opening := none, sess := some { x with lastAt := s.now }, fails := 0 }, stOk, bytesToWords tagD)
    else (sessionFailure p s, stSigBad, [])

/-! ### Keys, lifecycle, patches -/

/-- The refusals of KEY_INSTALL with RANGE (R483, R484): a reserved slot, a length that does not fit the slot and the
lifecycle, a point not on the curve. -/
def keyInstallRange (s : State) (words : List Word) : Bool :=
  let slot := getBits (words.getD 0 0) 7 0
  let point := wordsBytes ((words.drop 2).take 9)
  slot == 0 || decide (12 < slot) || (words.length == 11 && !(slot == 1 && s.sec.life == 0))
    || (decompress (point.take 33)).isNone || point.drop 33 != [0, 0, 0]

/-- The slot an install names (R484). -/
def installSlot (words : List Word) : Fin 16 := ⟨getBits (words.getD 0 0) 7 0 % 16, by omega⟩

/-- The install needs no signature, or that of the key in slot 1 over its first 11 words verifies (R484, R538). -/
def installSigned (words : List Word) (s : State) : Bool :=
  let sig := wordsBytes ((words.drop 11).take 16)
  words.length == 11 || (match slotKey s 1 with
    | some q => !s.flag F.BOOT_STAT.SELF_FAIL
      && ecdsaVerify q (wordsNat (sha256 (wordsBytes (words.take 11)))) (bytesNat (sig.take 32)) (bytesNat (sig.drop 32))
    | none => false)

/-- The serial exceeds the one the slot holds (R484). -/
def installNewer (words : List Word) (s : State) : Bool :=
  match s.sec.keys[installSlot words] with
  | some k => decide (k.serial.toNat < (words.getD 1 0).toNat)
  | none => true

/-- The work of KEY_INSTALL (R484): the signature by slot 1 where one is needed, the serial, and the install. -/
def installKey (words : List Word) (role : BitVec 2) (p : Port) (s : State) : State × Nat :=
  if installSigned words s && installNewer words s then
    let key : KeySlot := { serial := words.getD 1 0, point := (words.drop 2).take 9 }
    let s : State := { s with sec := { s.sec with keys := s.sec.keys.set (installSlot words) (some key) } }
    (audit 0x06 role.toNat (portNo p) 0 stOk [BitVec.ofNat 32 (installSlot words).val] s, stOk)
  else (s, stSigBad)

/-- A lifecycle transition is permitted (R491). -/
def lifePermitted (s : State) (target : Nat) (role : BitVec 2) : Bool :=
  match s.sec.life.toNat, target with
  | 0, 1 => (s.sec.keys[(1 : Fin 16)]).isSome && (s.sec.keys[(2 : Fin 16)]).isSome
  | 1, 2 => role == 2
  | 0, 3 => true
  | 1, 3 => role == 2
  | 2, 3 => role == 2
  | _, _ => false

/-- A lifecycle that no longer admits the private instruction in force puts BYPASS in its place (R572). -/
def tapRevoke (s : State) : State :=
  let out : Bool := match s.tap.instr with
    | .gatetest => s.sec.life != 0
    | .priv _ => s.sec.life != 0 && s.sec.life != 1
    | _ => false
  if out then refreshAll { s with tap := { s.tap with instr := .bypass } } else s

/-- The work of LIFECYCLE (R491): the fused state moves forward, every session closes, and at the entry to DECOMMISSIONED
every key slot but slot 0 becomes invalid. -/
def lifeCycle (w : Word) (role : BitVec 2) (p : Port) (s : State) : State × Nat :=
  let target := getBits w 1 0
  if getBits w 31 16 ≠ 0x5A3C then (s, stLocked)
  else if ¬ lifePermitted s target role then (s, stRange)
  else
    let s : State := { s with sec := { s.sec with life := BitVec.ofNat 2 target } }
    let s : State := if target = 3 then { s with sec := { s.sec with keys := (Vector.replicate 16 none).set 0 s.sec.keys[(0 : Fin 16)] } } else s
    let s := audit 0x07 role.toNat (portNo p) 0 stOk [BitVec.ofNat 32 target] s
    (tapRevoke (closeSession .aux (closeSession .hp s)), stOk)

/-- The work of PATCH_LOAD (R485): a patch that verifies is written and armed for the next L2. -/
def patchLoad (slot : Fin 4) (role : BitVec 2) (p : Port) (good : Bool) (svn : BitVec 5) (s : State) : State × Nat :=
  if good ∧ ¬ s.flag F.BOOT_STAT.SELF_FAIL then
    let s : State := { s with sec := { s.sec with patches := s.sec.patches.set slot { s.sec.patches[slot] with armed := some svn } } }
    (audit 0x08 role.toNat (portNo p) 0 stOk [BitVec.ofNat 32 slot.val] s, stOk)
  else (s, stSigBad)

/-- TICKET_RESULT: a job of the security engine completes and stores its final status and result (R356). `good` and `svn`
are what the verification of a patch finds. -/
def ticketResult (ticket : BitVec 8) (good : Bool) (svn : BitVec 5) (s : State) : State :=
  match s.sec.jobs.find? fun j => j.1 = ticket with
  | none => s
  | some (_, j) =>
    let s : State := { s with sec := { s.sec with jobs := s.sec.jobs.filter fun x => x.1 ≠ ticket } }
    let r : State × Nat × List Word :=
      match j with
      | .sessOpen p ws => openSession p ws s
      | .sessConfirm p ws => confirmSession p ws s
      | .keyInstall ws role p => let x := installKey ws role p s; (x.1, x.2, [])
      | .lifecycle w role p => let x := lifeCycle w role p s; (x.1, x.2, [])
      | .patchLoad slot role p => let x := patchLoad slot role p good svn s; (x.1, x.2, [])
    endTicket ticket r.2.1 r.2.2 r.1

/-! ### Health tests, the audit log, key material at BOOT -/

/-- TRNG_TEST_FAIL (R492). -/
def trngTestFail (s : State) : State := audit 0x10 3 2 0 0 [] (s.set F.SEC_STAT.TRNG_FAIL 1)

/-- TRNG_RECOVER: 1,024 consecutive samples have passed (R492). -/
def trngRecover (s : State) : State := s.set F.SEC_STAT.TRNG_FAIL 0

/-- The 16 words of the audit entry at a ring index (R494), none where no entry has been written there. -/
def auditWordsAt (s : State) (idx : Nat) : Option (List Word) := (s.sec.auditLog.find? fun e => e.1 % 4096 = idx).map (·.2)

/-- Line errors in the system region found while BOOT reads it (R495): wrapped keys are lost with `KEY_BAD`, verification
records are forgotten. -/
def keysUnreadable (bad : BitVec 16) (recs : List Nat) (s : State) : State :=
  let lost (n : Nat) : Bool := bad.getLsbD n && decide (0 < n) && (s.sec.keys.toList.getD n none).isSome
  let any := (List.range 16).any lost
  let s1 : State := { s with sec := { s.sec with
    keys := Vector.ofFn fun n : Fin 16 => if lost n then none else s.sec.keys[n]
    recs := s.sec.recs.filter fun r => !recs.contains r.1 } }
  if any then s1.set F.SEC_STAT.KEY_BAD 1 else s1

end Sys2Proof.Machine
end

