-- ==== Sys2Proof/Machine/Port.lean ====
section
/-!
DEFINITION. Frames and replies of the serial ports (R311 to R325): the header word, the HEALTH word, the rally count and
the store of accepted frames, the form of a reply with its CRC and, in a session, its MAC (R488).
-/

namespace Sys2Proof.Machine

/-! ### Header words -/

/-- A header word from its fields (R312). -/
def headerWord (op : BitVec 8) (alive dev axis : BitVec 4) (len : Nat) (tag : BitVec 7) : Word :=
  BitVec.ofNat 32 (op.toNat * 2 ^ 24 + alive.toNat * 2 ^ 20 + dev.toNat * 2 ^ 16 + axis.toNat * 2 ^ 12 + len % 32 * 2 ^ 7
    + tag.toNat)

/-- The opcode and the payload length of a header word (R312). -/
def headerOp (h : Word) : BitVec 8 := BitVec.ofNat 8 (getBits h 31 24)
def headerLen (h : Word) : Nat := getBits h 11 7

/-- The frame of a header word and a payload, received on a port and released at instant `t` (R312). -/
def reqOf (p : Port) (h : Word) (words : List Word) (t : Nat) : Req :=
  { port := p, alive := BitVec.ofNat 4 (getBits h 23 20), dev := BitVec.ofNat 4 (getBits h 19 16)
    axis := BitVec.ofNat 4 (getBits h 15 12), tag := BitVec.ofNat 7 (getBits h 6 0), words := words, t := t }

/-- The axis a frame names. -/
def reqAxis (f : Req) : Axis := axisOf f.axis.toNat

/-! ### HEALTH -/

/-- The fields of the HEALTH word that give the device's state (R324, R325): `AXFLT`, `DEV_ATTN` and `CMDQ_FREE`. -/
def healthState (s : State) : Word :=
  let ax := bitsOfList (allAxes.map (anyFault s))
  BitVec.ofNat 32 (ax + bitOf (hpAttn s != 0) * 2 ^ 25 + (16 - s.ip.cmdq.length) % 32 * 2 ^ 27)

/-- The fields of the HEALTH word that a port gives (R324, R325): the flags of its latest frame and `NOT_READY`. -/
def healthPort (s : State) (flags : BitVec 9) : Word :=
  BitVec.ofNat 32 (flags.toNat * 2 ^ 16 + bitOf (!s.ip.running) * 2 ^ 26)

/-- The flags of the HEALTH word, as bits of the port's nine (R324). -/
def fFrameAbort : BitVec 9 := 0x001
def fBitcount : BitVec 9 := 0x002
def fCrcBad : BitVec 9 := 0x004
def fAliveGap : BitVec 9 := 0x008
def fAliveRepeat : BitVec 9 := 0x010
def fDup : BitVec 9 := 0x020
def fMacBad : BitVec 9 := 0x040
def fDiscarded : BitVec 9 := 0x080
def fRtrunc : BitVec 9 := 0x100

/-! ### Ports -/

/-- The state of a port as a slave; a frame over `UP` has none. -/
def State.portSt (s : State) : Port → PortSt
  | .hp => s.hp
  | .aux => s.aux
  | .up => PortSt.reset

/-- A state with a port changed. -/
def State.modPort (s : State) (p : Port) (f : PortSt → PortSt) : State :=
  match p with
  | .hp => { s with hp := f s.hp }
  | .aux => { s with aux := f s.aux }
  | .up => s

/-- A field of the status and count registers of a port, given for `HP` and for `AUX`. -/
def portFld (p : Port) (hp aux : Fld) : Fld := if p = .aux then aux else hp

/-- The session a frame on a port is received in (R488). -/
def sessOf (s : State) (p : Port) : Option Session := (s.sessPort p).sess

/-- The tag of a frame or reply under a key (R488). -/
def macTag (key : BitVec 128) (n : Nat) (header : Word) (words : List Word) : List Byte :=
  cmac key (natBytes 8 n ++ wordBytes header ++ wordsBytes words)

/-- Two bytes of a tag as a number. -/
def tagBits (t : List Byte) (i : Nat) : Nat := (t.getD i 0).toNat * 256 + (t.getD (i + 1) 0).toNat

/-- The extended MAC word: bytes 2 to 5 of a tag (R488). -/
def extWord (t : List Byte) : Word := BitVec.ofNat 32 (tagBits t 2 * 65536 + tagBits t 4)

/-- A reply as it is shifted out (R318, R488): header, payload from the HEALTH word on, in a session its MAC, and the check
word. -/
def sealReply (sess : Option (Session × Nat)) (op : BitVec 8) (alive dev axis : BitVec 4) (tag : BitVec 7) (words : List Word) :
    List Word :=
  match sess with
  | none =>
    let h := headerWord op alive dev axis words.length tag
    let crc := crc16 (wordsBytes (h :: words))
    (h :: words) ++ [BitVec.ofNat 32 (crc.toNat * 65536)]
  | some (x, n) =>
    let h := headerWord op alive dev axis (words.length + bitOf x.ext) tag
    let t := macTag x.kD2H n h words
    let body := h :: (words ++ (if x.ext then [extWord t] else []))
    let crc := crc16 (wordsBytes body)
    body ++ [BitVec.ofNat 32 (crc.toNat * 65536 + tagBits t 0)]

/-- The time within which a reply is ready (R322). -/
def replyTime : Nat := 4 * usT

/-- A reply is formed for the next window of a port (R318, R322): `health` is the HEALTH word; the reply to an accepted frame is so
marked. -/
def putOut (p : Port) (sess : Option (Session × Nat)) (accepted : Bool) (r : Reply) (health : Word) (t : Nat) (s : State) : State :=
  s.modPort p fun q => { q with
    out := sealReply sess r.op r.alive r.dev r.axis r.tag (health :: r.words)
    outFor := if accepted then some r.alive else none
    readyAt := t + replyTime }

/-- The device's part of the HEALTH word of a reply whose frame names device `dev` (R324, R325): of another device of the stack it is
that device's state at this instant, a free value here (assumption log 145). -/
def healthOf (dev : BitVec 4) (s : State) : Word × State :=
  if isCaptain s ∧ dev.toNat ≠ devId s ∧ dev.toNat < s.get F.CV_STAT.STACK_N then (s.free.1 &&& 0xFA00FFFF, s.free.2)
  else (healthState s, s)

/-- The status reply of a discarded frame (R320), echoing the bits of its header. -/
def statusReply (p : Port) (h : Word) (t : Nat) (s : State) : State :=
  let f := reqOf p h [] t
  let r : Reply := { op := 0, alive := f.alive, dev := f.dev, axis := f.axis, tag := f.tag, words := [] }
  let sess := (sessOf s p).map fun x => (x, x.n)
  let h := healthOf r.dev s
  putOut p sess false r (h.1 ||| healthPort s (s.portSt p).flags) t h.2

/-- A frame is accepted on a port (R316): the expected rally count moves, and the frame becomes the newer entry of the
store. -/
def acceptRally (p : Port) (alive : BitVec 4) (crc : BitVec 16) (sync : Bool) (s : State) : State :=
  let n := (sessOf s p).map (·.n)
  let ent : StoreEnt := { alive := alive, crc := crc, reply := none, sessN := n }
  let s := s.modPort p fun q =>
    let l := if sync then [ent] else ent :: q.store.take 1
    -- a role change whose reply can no longer be sent is dropped (assumption log 143)
    { q with store := l, roleNext := q.roleNext.filter fun r => l.any fun e => r.1 == some e.alive }
  let s := (s.set (portFld p F.HP_STAT.ALIVE_EXP F.AUX_PSTAT.ALIVE_EXP) ((alive.toNat + 1) % 16)).set
    (portFld p F.HP_STAT.ALIVE_VALID F.AUX_PSTAT.ALIVE_VALID) 1
  s.modSess p fun q => { q with sess := q.sess.map fun x => { x with n := x.n + 1, lastAt := s.now } }

/-- The CRC of a frame as it is sent outside a session (R313). -/
def frameCrc (op : BitVec 8) (f : Req) : BitVec 16 :=
  crc16 (wordsBytes (headerWord op f.alive f.dev f.axis f.words.length f.tag :: f.words))

/-! ### Answers -/

/-- What a command answers (R335): status code, `DETAIL`, `SEQ` and reply data. A later answer is formed when the Locker
lines of the command have been read; a plain one is the HEALTH word alone; a routed one is a squad member's reply payload
(R358). -/
inductive Ans where
  | now (code detail seq : Nat) (data : List Word)
  | later
  | plain
  | routed (words : List Word)
  deriving DecidableEq, Repr

/-- OK with data. -/
def ansOk (data : List Word) : Ans := .now stOk 0 0 data

/-- A status without data. -/
def ansCode (code : Nat) : Ans := .now code 0 0 []

/-- A refusal that names an item of a command of several (R335). -/
def ansItem (code item : Nat) : Ans := .now code item 0 []

/-- The status word (R335). -/
def statusWord (code detail seq : Nat) : Word := BitVec.ofNat 32 (code % 256 + detail % 256 * 256 + seq % 65536 * 65536)

/-- The payload of a reply after its HEALTH word. -/
def Ans.words : Ans → List Word
  | .now code detail seq data => statusWord code detail seq :: data
  | .later => []
  | .plain => []
  | .routed ws => ws.drop 1

/-- A refusal is counted (R360). -/
def countRefusal (a : Ans) (s : State) : State :=
  match a with
  | .now code _ _ _ =>
    if 0x10 ≤ code then (s.inc F.CMD_REFUSE.REFUSE_CNT).set F.CMD_REFUSE.LAST_CODE code else s
  | _ => s

/-- The reply of a port's newest stored frame (R316): its entry keeps it, and it is formed for the next window. -/
def deliverPort (p : Port) (sess : Option (Session × Nat)) (op : BitVec 8) (f : Req) (a : Ans) (t : Nat) (s : State) : State :=
  let r : Reply := { op := op, alive := f.alive, dev := f.dev, axis := f.axis, tag := f.tag, words := a.words }
  let s := s.modPort p fun q => { q with store := q.store.map fun e => if e.alive = f.alive then { e with reply := some r } else e }
  let port := healthPort s (s.portSt p).flags
  let dev : Word × State := match a with
    | .routed (h :: _) => (h &&& 0xFA00FFFF, s)
    | _ => healthOf f.dev s
  if (s.portSt p).store.head?.any (fun e => e.alive == f.alive) then putOut p sess true r (port ||| dev.1) t dev.2 else s

/-- The reply to a routed frame returns upward (R358): HEALTH word, status word and data, in REPLY flits that carry the
index of the route-return entry. -/
def deliverUp (idx : BitVec 4) (op : BitVec 8) (f : Req) (a : Ans) (s : State) : State :=
  let words := healthState s :: a.words
  sendMsg .up typReply (flitCount (4 * (words.length + 1)))
    (.reply f.dev idx (headerWord op f.alive f.dev f.axis words.length f.tag) words) s

/-- A command's answer reaches its port. -/
def deliver (sess : Option (Session × Nat)) (idx : BitVec 4) (op : BitVec 8) (f : Req) (a : Ans) (t : Nat) (s : State) : State :=
  match a, f.port with
  | .later, _ => s
  | _, .up => deliverUp idx op f a s
  | _, p => deliverPort p sess op f a t s

end Sys2Proof.Machine
end

