-- ==== Sys2Proof/Machine/Interp.lean ====
section
/-!
DEFINITION. The Jontaog interpreter (R333 to R358): classes, modes and lengths of the opcodes, the command queue, and one
operation per opcode that makes its own checks of R333 from order 6 on and its effect, and gives its answer.
-/

namespace Sys2Proof.Machine

/-! ### Opcode tables -/

/-- The command classes of R337; session commands carry none. -/
inductive Cls where
  | c0 | c1 | c2 | c3 | none
  deriving DecidableEq, Repr

/-- The class of an opcode (R339 to R350); MODE is C2 when it leaves or enters CONFIG or MAINT. -/
def classOf (s : State) (op : Nat) (words : List Word) : Cls :=
  match op with
  | 0x05 =>
    let m := getBits (words.getD 0 0) 2 0
    if s.mode = 2 ∨ s.mode = 3 ∨ m = 2 ∨ m = 3 then .c2 else .c1
  | 0x06 => .c3 | 0x07 => .c1
  | 0x11 => .c2 | 0x12 => .c2
  | 0x20 => .c1 | 0x21 => .c1 | 0x22 => .c1 | 0x23 => .c1 | 0x24 => .c1
  | 0x30 => .c1 | 0x31 => .c1 | 0x32 => .c1 | 0x33 => .c1 | 0x34 => .c1
  | 0x41 => .c1
  | 0x50 => .c2 | 0x51 => .c2 | 0x52 => .c1 | 0x53 => .c1
  | 0x61 => .c1
  | 0x70 => .none | 0x71 => .none | 0x73 => .c3 | 0x74 => .c3 | 0x75 => .c3 | 0x76 => .c3
  | 0x80 => .c1 | 0x81 => .c1
  | _ => .c0

/-- The opcodes of the tables of R340 to R350. -/
def opcodeDefined (op : Nat) : Bool :=
  decide (op ≤ 0x09) || (decide (0x10 ≤ op) && decide (op ≤ 0x12)) || (decide (0x20 ≤ op) && decide (op ≤ 0x24))
    || (decide (0x30 ≤ op) && decide (op ≤ 0x34)) || op == 0x40 || op == 0x41 || (decide (0x50 ≤ op) && decide (op ≤ 0x54))
    || (decide (0x60 ≤ op) && decide (op ≤ 0x63)) || (decide (0x70 ≤ op) && decide (op ≤ 0x78)) || op == 0x80 || op == 0x81

/-- The payload lengths of an opcode (R340 to R350). -/
def lenAllowed (op n : Nat) : Bool :=
  match op with
  | 0x02 => n == 1 | 0x03 => n == 0 | 0x04 => n == 1 | 0x05 => n == 1 | 0x06 => n == 1 | 0x07 => n == 1 | 0x08 => n == 0
  | 0x09 => n == 1
  | 0x10 => n == 1
  | 0x11 => decide (2 ≤ n) && decide (n ≤ 30) && n % 2 == 0
  | 0x12 => decide (2 ≤ n) && decide (n ≤ 30)
  | 0x20 => n == 3 | 0x21 => n == 2 | 0x22 => n == 0 | 0x23 => n == 1 | 0x24 => n == 2
  | 0x30 => n == 1 | 0x31 => n == 1 | 0x32 => n == 0 | 0x33 => n == 0 | 0x34 => n == 1
  | 0x40 => n == 0 | 0x41 => n == 0
  | 0x50 => n == 2 | 0x51 => n == 9 || n == 17 || n == 25 | 0x52 => n == 1 | 0x53 => n == 3 | 0x54 => n == 2
  | 0x60 => n == 0 | 0x61 => n == 2 | 0x62 => n == 2 | 0x63 => n == 0
  | 0x70 => n == 17 | 0x71 => n == 4 | 0x72 => n == 0 | 0x73 => n == 11 || n == 27 | 0x74 => n == 1 | 0x75 => n == 1
  | 0x76 => decide (2 ≤ n) && decide (n ≤ 30) && n % 2 == 0
  | 0x77 => n == 1 | 0x78 => n == 1
  | 0x80 => n == 1 | 0x81 => decide (1 ≤ n) && decide (n ≤ 30)
  | _ => true

/-- The modes in which an opcode is permitted (R338, R340 to R350): any of CONFIG to SAFE but for those listed. -/
def modeAllowed (op m : Nat) : Bool :=
  match op with
  | 0x20 => m == 5 | 0x21 => m == 5 | 0x23 => m == 5
  | 0x22 => m == 4 || m == 5 || m == 6 | 0x24 => m == 4 || m == 5 || m == 6
  | 0x30 => m == 4 || m == 5 | 0x31 => m == 5 | 0x32 => m == 5 || m == 6 | 0x33 => m == 5 | 0x34 => m == 5
  | 0x41 => m == 4 || m == 5 || m == 3
  | 0x51 => m == 3 | 0x52 => m == 4 || m == 5 || m == 6 | 0x53 => m == 4 || m == 5 || m == 6
  | 0x73 => m == 3 | 0x74 => m == 3 | 0x75 => m == 3 | 0x76 => m == 2
  | _ => decide (2 ≤ m)

/-- The role of the session of a port, or none (R489). -/
def sessRole (s : State) (p : Port) : Option Nat := (sessOf s p).map fun x => x.role.toNat

/-- Check 4 of R333: the status with which a class is refused on a port, 0 when it is admitted (R489, R491). -/
def classStatus (s : State) (p : Port) (c : Cls) : Nat :=
  if c = .none ∨ c = .c0 then stOk
  else if s.sec.decom then stRoleDenied
  else match sessRole s p with
  | some 0 => if c = .c1 then stOk else stRoleDenied
  | some 1 => if c = .c3 then stRoleDenied else stOk
  | some _ => stOk
  | none =>
    if s.sec.life = 0 then stOk
    else if c = .c1 ∧ p = .hp ∧ s.flag F.SEC_CFG.C1_OPEN_HP then stOk
    else stAuthRequired

/-! ### System opcodes -/

/-- COLLECT: the routed reply of a device (R358). No entry names a device outside the stack, but for one that was lost with its link
(R437). -/
def opCollect (f : Req) (s : State) : State × Ans :=
  let w0 := f.words.getD 0 0
  let key (e : RouteEntry) : Bool := e.dev == f.dev && e.alive.toNat == getBits w0 11 8 && e.tag.toNat == getBits w0 6 0
  if ¬ isCaptain s ∨ f.dev = 0 then (s, ansCode stNotFound)
  else match s.ip.routes.find? key with
  | none => (s, ansCode stNotFound)
  | some e =>
    let taken : State := { s with ip := { s.ip with routes := s.ip.routes.erase e } }
    match e.reply with
    | .waiting => (s, ansCode stPending)
    | .lost => (taken, ansCode stLinkDown)
    | .arrived ws => (taken, .routed ws)

/-- GET_STATUS (R340, R364): no read side effects. -/
def opGetStatus (s : State) : State × Ans :=
  (s, ansOk [whoWord s 3 4, regWord s F.LAST_COMMITTED_SEQ.all, regWord s F.CMD_STAT.all, regWord s F.PLN_STATUS.all,
    regWord s F.HP_ATTN.all])

/-- The two words of a log entry (R354). -/
def logWords (e : QCmd × Outc) : List Word :=
  [ BitVec.ofNat 32 (e.1.seq.toNat + e.1.op.toNat * 65536 + e.1.axis.toNat * 2 ^ 24 + e.2.code * 2 ^ 28),
    BitVec.ofNat 32 (e.1.tag.toNat + bitOf (e.1.port == .aux) * 128 + e.1.alive.toNat * 256) ]

/-- The steps from one sequence number up to another in the numbering of R351, which skips 0. -/
def seqSteps (a b : Nat) : Nat := if a ≤ b then b - a else b + 65535 - a

/-- GET_RETIRE: up to 14 log entries from a number on (R354). -/
def opGetRetire (f : Req) (s : State) : State × Ans :=
  let want := getBits (f.words.getD 0 0) 15 0
  let log := s.ip.log
  let from_ := log.dropWhile fun e => e.1.seq.toNat ≠ want
  let newest := match log.getLast? with | some e => e.1.seq.toNat | none => 0
  let older := want ≠ 0 ∧ 0 < seqSteps want newest ∧ seqSteps want newest < 32768
  let entries := if from_ ≠ [] then from_.take 14 else if log ≠ [] ∧ older then log.take 14 else []
  let gone := if from_ = [] ∧ log ≠ [] ∧ older then 128 else 0
  (s, .now stOk (entries.length + gone) 0 (entries.flatMap logWords))

/-- MODE (R339, R503). -/
def opMode (f : Req) (s : State) : State × Ans :=
  let m := getBits (f.words.getD 0 0) 2 0
  let st := modeStatus s m
  if st = stOk then (modeBegin f.port m s, ansCode stOk) else (s, ansCode st)

/-- The targets of RESET that are refused with BUSY (R540); an accepted block reset that has not begun counts as one that runs
(assumption log 146). -/
def resetBusy (s : State) (t : Nat) : Bool :=
  let moving := allAxes.any fun a => decide ((quadOf a).val + 2 = t) && (s.axState a == 2 || s.axState a == 3 || s.axState a == 4)
  decide (2 ≤ t) && (s.rst.block.isSome || s.ip.pendReset.any (fun p => decide (2 ≤ p.target.toNat)) || moving || (t == 6 && s.flag F.BK_DEV_STAT.STORE_BUSY))

/-- RESET (R341, R540): the reset begins with RESET_BEGIN. -/
def opReset (f : Req) (s : State) : State × Ans :=
  let w0 := f.words.getD 0 0
  let t := getBits w0 3 0
  if 8 < t then (s, ansCode stRange)
  else if resetBusy s t then (s, ansCode stBusy)
  else if getBits w0 31 16 ≠ 0x5A3C then (s, ansCode stLocked)
  else
    let p : PendReset := { target := BitVec.ofNat 4 t, port := f.port, deadline := f.t + msT }
    ({ s with ip := { s.ip with pendReset := s.ip.pendReset ++ [p] } }, ansCode stOk)

/-- AXIS_REARM: a rearm edge on every masked axis at one instant (R340, R243). -/
def opAxisRearm (f : Req) (s : State) : State × Ans :=
  let mask := (f.words.getD 0 0).toNat
  (s.each (allAxes.filter fun a : Axis => natBit mask a.val) rearmEdge, ansCode stOk)

/-- IDENT (R340). -/
def opIdent (s : State) : State × Ans :=
  (s, ansOk [BitVec.ofNat 32 (0x1680 + s.sec.life.toNat * 65536), 0x11680A5B])

/-- RESULT of a ticket (R356). -/
def opResult (f : Req) (s : State) : State × Ans :=
  let w0 := f.words.getD 0 0
  match s.ip.tickets.find? fun t => t.no.toNat == getBits w0 7 0 with
  | none => (s, ansCode stNotFound)
  | some t =>
    match t.result with
    | none => (s, ansCode stPending)
    | some (code, words) => (s, .now code.toNat words.length 0 ((words.drop (getBits w0 12 8)).take 28))

/-! ### Register opcodes -/

/-- REG_READ (R364 to R366). -/
def opRegRead (f : Req) (s : State) : State × Ans :=
  let w0 := f.words.getD 0 0
  let count := getBits w0 28 24
  let addr := getBits w0 23 2 * 4
  if getBits w0 1 0 ≠ 0 then (s.raise F.SYS_ACC_STAT.ACC_BAD, ansCode stRange)
  else if count = 0 ∨ 28 < count then (s, ansCode stRange)
  else
    let n := min count ((0xFFFFFC - addr) / 4 + 1)
    let s1 := if n < count then s.raise F.SYS_ACC_STAT.ADDR_END else s
    let r := regReads n addr s1
    (r.2, ansOk r.1)

/-- The answer to a write opcode (R343). -/
def writeAns (r : State × Nat × Nat) : State × Ans := (r.1, .now r.2.1 (if r.2.1 = stOk then 0 else r.2.2) 0 [])

/-- The address and data pairs of a payload. -/
def wordPairs : List Word → List (Nat × Nat × Word)
  | a :: d :: l => (getBits a 23 2 * 4, getBits a 1 0, d) :: wordPairs l
  | _ => []

/-- REG_WRITE (R343). -/
def opRegWrite (f : Req) (s : State) : State × Ans := writeAns (writeAll f.port false (wordPairs f.words) 0 s)

/-- Consecutive addresses for the data words of a block write (R367). -/
def blockPairs (typ : Nat) : Nat → List Word → List (Nat × Nat × Word)
  | _, [] => []
  | addr, d :: l => (addr, typ, d) :: blockPairs typ (addr + 4) l

/-- REG_BLOCK_WRITE (R343, R367). -/
def opRegBlockWrite (f : Req) (s : State) : State × Ans :=
  let w0 := f.words.getD 0 0
  writeAns (writeAll f.port false (blockPairs (getBits w0 1 0) (getBits w0 23 2 * 4) (f.words.drop 1)) 0 s)

/-- BACKSTOP_SET (R349, R374, R494): the writes of a payload in the `BK` block, with an audit entry of the first address
and the count of writes done. -/
def opBackstopSet (f : Req) (s : State) : State × Ans :=
  let ps := wordPairs f.words
  let r := writeAll f.port true ps 0 s
  let done := if r.2.1 = stOk then ps.length else r.2.2
  let s1 := if done = 0 then r.1 else
    audit 0x0A (roleOf s f.port) (portNo f.port) 0 r.2.1 [(f.words.getD 0 0) &&& 0x00FFFFFF, BitVec.ofNat 32 done] r.1
  writeAns (s1, r.2)

/-! ### The command queue -/

/-- A frame as a queued command with the next number (R351). -/
def qcmdOf (op : BitVec 8) (f : Req) (s : State) : QCmd :=
  { seq := s.ip.nextSeq, op := op, axis := f.axis, tag := f.tag, port := f.port, alive := f.alive, words := f.words }

/-- The number that follows a sequence number (R351). -/
def seqAfter (n : BitVec 16) : BitVec 16 := if n = 0xFFFF then 1 else n + 1

/-- An accepted queued command receives its number (R351). -/
def numberCmd (c : QCmd) (s : State) : State :=
  { s with ip := { s.ip with
    nextSeq := seqAfter c.seq
    ledger := s.ip.ledger ++ [(c, none)] } }

/-- A queued command enters the command queue. -/
def waitCmd (c : QCmd) (s : State) : State :=
  { s with ip := { s.ip with cmdq := s.ip.cmdq ++ [c] } }

/-- The QUEUED answer (R335). -/
def ansQueued (c : QCmd) : Ans := .now stQueued 0 c.seq.toNat []

/-- The queue has a free entry (check 8 of R333). -/
def queueFree (s : State) : Bool := decide (s.ip.cmdq.length < 16)

/-- A command that waits in the queue (R351). -/
def queueCmd (op : BitVec 8) (f : Req) (s : State) : State × Ans :=
  if ¬ queueFree s then (s, ansCode stQueueFull)
  else
    let c := qcmdOf op f s
    (waitCmd c (numberCmd c s), ansQueued c)

/-- A cut command is taken up at acceptance, ahead of its axis's waiting commands (R352), also while the executor brakes the
axis, where the cut replaces the stop (R88); a full queue is first relieved of the waiting commands. -/
def cutCmd (op : BitVec 8) (a : Axis) (f : Req) (s : State) : State × Ans :=
  let s1 := if queueFree s then s else cancelWaiting a s
  if ¬ queueFree s1 then (s, ansCode stQueueFull)
  else
    let c := qcmdOf op f s1
    (takeUp a c (numberCmd c s1), ansQueued c)

/-- A command of the axis waits in the command queue (R345). -/
def axisWaits (s : State) (a : Axis) : Bool :=
  s.ip.cmdq.any fun c => c.axis.toNat == a.val && decide (0x20 ≤ c.op.toNat) && decide (c.op.toNat < 0x40)

/-- A command of the axis waits in the queue or the window, or a cut of it is pending (R344, R345, R359). -/
def axisPlanned (s : State) (a : Axis) : Bool :=
  axisWaits s a || !(s.mot a).window.isEmpty || !(s.mot a).phases.isEmpty || !(s.mot a).chain.isEmpty || (s.mot a).cut.isSome

/-! ### Motion opcodes -/

/-- The base of a relative MOVE carried forward through the MOVEs that wait (R46). -/
def carryBase (a : Axis) : List QCmd → Int → Int
  | [], b => b
  | c :: l, b =>
    if c.axis.toNat = a.val ∧ c.op = 0x20 then
      carryBase a l (if (c.words.getD 0 0).getLsbD 0 then b + moveDist c else moveDist c)
    else carryBase a l b

/-- The target of a MOVE in 2^-16 µstep as its acceptance test forms it (R46): a relative one from the target of the last MOVE
planned, carried forward through those that wait, or from the commanded position in a jog that no MOVE waits behind. -/
def moveTest (s : State) (a : Axis) (c : QCmd) : Int :=
  if ¬ (c.words.getD 0 0).getLsbD 0 then moveDist c
  else
    let waits := s.ip.cmdq.any fun q => q.axis.toNat == a.val && q.op == 0x20
    let base := match (s.mot a).chain.getLast? with
      | some m => carryBase a s.ip.cmdq m.goal
      | none => if jogOpen s a ∧ ¬ waits then (motionAt s a s.now).p else carryBase a s.ip.cmdq (s.mot a).target
    base + moveDist c

/-- The checks shared by the motion opcodes of a PACKET axis (R344). -/
def packetStatus (s : State) (a : Axis) : Nat :=
  if s.axState a = 6 then stAxisFault else if s.src a ≠ 0 then stWrongSource else stOk

/-- MOVE (R46, R344). One that waits may change the junction velocities of the MOVEs before it (R72). -/
def opMove (f : Req) (s : State) : State × Ans :=
  let a := reqAxis f
  if ¬ posLegal (moveTest s a (qcmdOf 0x20 f s)) then (s, ansCode stRange)
  else if packetStatus s a ≠ stOk then (s, ansCode (packetStatus s a))
  else if (f.words.getD 0 0).getLsbD 2 then cutCmd 0x20 a f s
  else if ¬ queueFree s then (s, ansCode stQueueFull)
  else
    let r := queueCmd 0x20 f s
    (reblend a r.1, r.2)

/-- JOG (R54, R344): a velocity outside the range of R45 is refused. -/
def opJog (f : Req) (s : State) : State × Ans :=
  let a := reqAxis f
  let v := signedOf 32 (f.words.getD 1 0).toNat
  if 0x4E200000 < v.natAbs then (s, ansCode stRange)
  else if packetStatus s a ≠ stOk then (s, ansCode (packetStatus s a))
  else cutCmd 0x21 a f s

/-- A STOP acts on a follower (R100): an engagement under way is cancelled, a follower leaves at its cut instant. -/
def stopFollower (a : Axis) (c : QCmd) (s : State) : State :=
  retire c.seq .completed (retireEngage a .cancelled (followExit a (cancelWaiting a s)))

/-- STOP (R79, R100, R344). -/
def opStop (f : Req) (s : State) : State × Ans :=
  let a := reqAxis f
  if s.axState a = 6 then (s, ansCode stAxisFault)
  else
    let s1 := if queueFree s then s else cancelWaiting a s
    if ¬ queueFree s1 then (s, ansCode stQueueFull)
    else
      let c := qcmdOf 0x22 f s1
      let s2 := numberCmd c s1
      (if s2.src a = 0 then takeUp a c s2 else stopFollower a c s2, ansQueued c)

/-- RESUME (R82, R344). -/
def opResume (f : Req) (s : State) : State × Ans :=
  let a := reqAxis f
  if packetStatus s a ≠ stOk then (s, ansCode (packetStatus s a)) else queueCmd 0x23 f s

/-- The position of a POS_SET in µsteps. -/
def posOf (lo hi : Word) : Int := signedOf 48 (lo.toNat + hi.toNat % 65536 * 2 ^ 32)

/-- A count in a register pair: 48 bits laid out as `AX_REMAIN`, or 48.16 laid out as `AX_POS` (R95). -/
def setWide48 (lo hi : Fld) (v : Int) (s : State) : State :=
  let n := toBits 64 v
  (s.set lo (n % 2 ^ 32)).set hi (n / 2 ^ 32)

/-- The effect of POS_SET (R184, R185, R344, R466). -/
def posSet (a : Axis) (p : Int) (s : State) : State :=
  let s := s.modMot a fun m => { m with
    pos := p * 65536
    target := p * 65536
    planEnd := { p := p * 65536, v := 0, a := 0 } }
  let s := (clearRemain a s).set (F.AX_LA_STAT.POSITION_UNCERTAIN a) 0
  let s := setWide48 (F.AX_ENC_CREF_LO.CREF a) (F.AX_ENC_CREF_HI.CREF a) (fbUnwrapped s a) s
  let s := setWide48 (F.AX_ENC_PREF_LO.PREF a) (F.AX_ENC_PREF_HI.PREF a) (p * 65536) s
  s.set F.WH_LOST.POS_UNKNOWN (natSetBit (s.get F.WH_LOST.POS_UNKNOWN) a false)

/-- POS_SET (R344, R359). -/
def opPosSet (f : Req) (s : State) : State × Ans :=
  let a := reqAxis f
  let p := posOf (f.words.getD 0 0) (f.words.getD 1 0)
  if s.axState a = 6 then (s, ansCode stAxisFault)
  else if ¬ s.axOn a ∨ ¬ atStandstill s a ∨ axisPlanned s a ∨ fstate s a ≠ 0 then (s, ansCode stBusy)
  else (posSet a p s, ansCode stOk)

/-! ### Reads that their reply waits for -/

/-- What tells a waiting read from the others of its port. -/
def readKey (f : Req) : ReadKey := { alive := f.alive, tag := f.tag }

/-- A read is the waiting one of a port and key. -/
def LkRead.is (r : LkRead) (p : Port) (k : ReadKey) : Bool := r.req.port == p && readKey r.req == k

/-- A waiting read ends: it leaves the list with its jobs. -/
def endRead (p : Port) (k : ReadKey) (s : State) : State :=
  let s := dropJobs (fun j => j.why == .reply p k) s
  { s with lk := { s.lk with reads := s.lk.reads.filter fun r => !r.is p k } }

/-- A read of `count` words from byte address `addr` by a requester waits for its lines (R396), in place of an earlier one with its key, which no
store of replies holds any more (R358). -/
def startRead (who : Fin 22) (op : BitVec 8) (f : Req) (addr count : Nat) (s : State) : State :=
  let s := endRead f.port (readKey f) s
  let s := { s with lk := { s.lk with reads := s.lk.reads ++ [{ op := op, req := f, idx := 0, addr := addr, count := count, lines := [] }] } }
  readJob who (.reply f.port (readKey f)) (addr / 32) ((addr % 32 + 4 * count + 31) / 32) s

/-! ### Follow opcodes -/

/-- SOURCE (R97, R100, R345, R359): PACKET named to a follower takes it out as for STOP first. BUSY also while an accepted ENGAGE has
not begun (DESIGN CHOICE, assumption log 138) and while the cut of a follower's exit is pending. -/
def opSource (f : Req) (s : State) : State × Ans :=
  let a := reqAxis f
  let k := getBits (f.words.getD 0 0) 1 0
  let ready := (s.axState a == 1 || s.axState a == 5) && atStandstill s a && (s.mot a).queue.isEmpty
  if k ≠ 0 ∧ s.axState a = 6 then (s, ansCode stAxisFault)
  else if (k ≠ 0 ∧ ¬ ready) ∨ axisPlanned s a ∨ (s.fol a).engSeq.isSome ∨ (s.fol a).exitAt.isSome ∨ ¬ s.axOn a then (s, ansCode stBusy)
  else if fstate s a = 0 then (takeSource a k s, ansCode stOk)
  else
    let s := s.modFol a fun x => { x with srcPend := some ⟨k % 4, by omega⟩ }
    (takePendSource a (followExit a s), ansCode stOk)

/-- The state conditions of ENGAGE (R345, R99, R513). -/
def engageStatus (s : State) (a : Axis) : Nat :=
  if s.axState a = 6 then stAxisFault
  else if s.src a = 0 then stWrongSource
  else if axisWaits s a ∨ fstate s a ≠ 0 ∨ (s.fol a).engSeq.isSome ∨ (s.fol a).gearPend.isSome
      ∨ ¬ (s.axState a = 1 ∨ s.axState a = 5) ∨ ¬ atStandstill s a then stBusy
  else stOk

/-- An accepted ENGAGE is taken up (R352): by the source of the axis. CAM takes up its parameters and the master position with the
command (R123, R130), that of a channel without a sample as 0: DESIGN CHOICE (assumption log 139). -/
def takeEngage (a : Axis) (chan : Fin 4) (id : BitVec 8) (c : QCmd) (s : State) : State :=
  let s := s.modFol a fun x => { x with engSeq := some c.seq }
  match s.src a with
  | 1 => engageStep a s
  | 2 => engageGear a chan s
  | _ =>
    let s := takeCamRegs a (s.set (F.AX_FOLLOW_STAT.MCH a) chan.val)
    camValidate id (.engage a chan c.seq) (s.modFol a fun x => { x with prevM := (mchAt s chan s.now).getD 0 })

/-- ENGAGE is accepted and taken up, once its conditions hold (R345, R352). -/
def takeUpEngage (f : Req) (s : State) : State × Ans :=
  let a := reqAxis f
  let w0 := f.words.getD 0 0
  let st := engageStatus s a
  if st ≠ stOk then (s, ansCode st)
  else if ¬ queueFree s then (s, ansCode stQueueFull)
  else
    let c := qcmdOf 0x31 f s
    (takeEngage a ⟨getBits w0 1 0 % 4, by omega⟩ (BitVec.ofNat 8 (getBits w0 15 8)) c (numberCmd c s), ansQueued c)

/-- ENGAGE (R113, R123, R345, R352): under CAM the directory entry of the table is read first. -/
def opEngage (f : Req) (s : State) : State × Ans :=
  let a := reqAxis f
  let st := engageStatus s a
  if st ≠ stOk then (s, ansCode st)
  else if s.src a = 3 then (startRead lkInterp 0x31 f (camDirAddr s (BitVec.ofNat 8 (getBits (f.words.getD 0 0) 15 8))) 4 s, .later)
  else takeUpEngage f s

/-- EXIT (R100, R125, R345). -/
def opExit (f : Req) (s : State) : State × Ans :=
  if fstate s (reqAxis f) = 0 then (s, ansCode stOk) else (exitCmd (reqAxis f) s, ansCode stOk)

/-- A new ratio and ramp wait for the next half-period boundary (R114). -/
def takeRatio (a : Axis) (s : State) : State :=
  s.modFol a fun x => { x with
    gearPend := some (s.getS (F.AX_GEAR_NUM.NUM a), s.get (F.AX_GEAR_DEN.DEN a), s.get (F.AX_GEAR_RAMP.RAMP a)) }

/-- GEAR_RATIO (R114, R345). -/
def opGearRatio (f : Req) (s : State) : State × Ans :=
  let a := reqAxis f
  if s.src a ≠ 2 ∨ ¬ (fstate s a = 2 ∨ fstate s a = 3) then (s, ansCode stBusy) else (takeRatio a s, ansCode stOk)

/-- CAM_NEXT is refused with BUSY (R126, R345). -/
def camNextBusy (s : State) (a : Axis) : Bool := axisWaits s a || s.src a != 3 || !(fstate s a == 1 || fstate s a == 3)

/-- CAM_NEXT is accepted and taken up, with the parameters of its table, once its conditions hold (R130, R345, R352). -/
def takeUpCamNext (f : Req) (s : State) : State × Ans :=
  let a := reqAxis f
  if camNextBusy s a then (s, ansCode stBusy)
  else if ¬ queueFree s then (s, ansCode stQueueFull)
  else
    let c := qcmdOf 0x34 f s
    (camValidate (BitVec.ofNat 8 (getBits (f.words.getD 0 0) 7 0)) (.next a c.seq (camRegs s a)) (numberCmd c s), ansQueued c)

/-- CAM_NEXT (R126, R345, R352): the directory entry of its table is read first. -/
def opCamNext (f : Req) (s : State) : State × Ans :=
  if camNextBusy s (reqAxis f) then (s, ansCode stBusy)
  else (startRead lkInterp 0x34 f (camDirAddr s (BitVec.ofNat 8 (getBits (f.words.getD 0 0) 7 0))) 4 s, .later)

/-! ### Measurement opcodes -/

/-- The ten words of MEAS_READ (R346). -/
def measAddrs (a : Axis) : List Nat :=
  [(F.MS_CUR_W1.all a).addr, (F.MS_CUR_W2.all a).addr, (F.MS_SN_W1P.all a).addr, (F.MS_SN_W1N.all a).addr,
    (F.MS_SN_W2P.all a).addr, (F.MS_SN_W2N.all a).addr, (F.MS_VM.all a).addr, (F.AX_IREF.all a).addr,
    (F.AX_VCMD.all a).addr, (F.AX_LA.all a).addr]

/-- MEAS_READ (R346): `FRESH` clears as by ten register reads. -/
def opMeasRead (f : Req) (s : State) : State × Ans :=
  let r := readEach (measAddrs (reqAxis f)) s
  (r.2, ansOk r.1)

/-- PROBE (R188, R346). -/
def opProbe (f : Req) (s : State) : State × Ans :=
  let a := reqAxis f
  if probeReady s a then (probeStart a none s, ansCode stOk) else (s, ansCode stBusy)

/-! ### Locker opcodes -/

/-- The base of the system region (R394). -/
def sysBase : Nat := 0x3F00000

/-- The answer to a read of several words that goes beyond the end `top` of what can be read, from `at_` on (R335): the first word
beyond it is the failing item, the first one where the request itself is out of range. -/
def ansBeyond (at_ count top : Nat) : Ans := ansItem stRange (if count = 0 ∨ 28 < count then 0 else (top - at_) / 4)

/-- LK_READ (R347, R396): its reply is formed when its lines have been read, or after 3 µs. -/
def opLkRead (f : Req) (s : State) : State × Ans :=
  let addr := getBits (f.words.getD 0 0) 25 0
  let count := getBits (f.words.getD 1 0) 4 0
  if addr % 4 ≠ 0 then (s, ansItem stRange 0)
  else if count = 0 ∨ 28 < count ∨ sysBase < addr + 4 * count then (s, ansBeyond addr count sysBase)
  else (startRead lkInterp 0x50 f addr count s, .later)

/-- A sleep entry that has been accepted refuses every opcode marked S (R518). -/
def sleepWaits (s : State) : Bool := s.pw.sleepPend.isSome

/-- The STARTED answer (R335). -/
def ansStarted (ticket : BitVec 8) : Ans := .now stStarted ticket.toNat 0 []

/-- LK_WRITE (R347, R393, R396, R398). -/
def opLkWrite (f : Req) (s : State) : State × Ans :=
  let addr := getBits (f.words.getD 0 0) 25 0
  let data := f.words.drop 1
  if addr % 32 ≠ 0 ∨ sysBase < addr + 4 * data.length then (s, ansCode stRange)
  else if sleepWaits s then (s, ansCode stBusy)
  else
    let r := newTicket s
    let s1 := (List.range (data.length / 8)).foldl (fun t i => touchLine (addr / 32 + i) t) r.2
    (writeJob lkInterp (.write r.1) (addr / 32) (wordsBytesLE data) s1, ansStarted r.1)

/-- RECIPE_ARM (R347, R352): the first word of the slot is read first. -/
def opRecipeArm (f : Req) (s : State) : State × Ans :=
  let slot := getBits (f.words.getD 0 0) 7 0
  if slotExists s slot then (startRead lkInterp 0x52 f (slotAddr s slot) 1 s, .later) else (s, ansCode stRecipeBad)

/-- A stack time from two words. -/
def timeOf (lo hi : Word) : Nat := lo.toNat + hi.toNat * 2 ^ 32

/-- The conditions of a timed Whistle (R441): the lead of N·160 ns + 2 µs, and a place among the held schedules. -/
def scheduleStatus (s : State) (t : Nat) : Nat :=
  if t < stackTime s + max 1 (s.get F.CV_STAT.STACK_N) * 160 + 2000 then stRange
  else if ¬ s.cv.sched.contains t ∧ 4 ≤ s.cv.sched.length then stBusy
  else stOk

/-- RECIPE_APPLY (R347, R404, R441). -/
def opRecipeApply (f : Req) (s : State) : State × Ans :=
  let st := if (f.words.getD 0 0).getLsbD 0 then scheduleStatus s (timeOf (f.words.getD 1 0) (f.words.getD 2 0)) else stOk
  if st ≠ stOk then (s, ansCode st) else queueCmd 0x53 f s

/-- TRACE_READ (R347, R409). -/
def opTraceRead (f : Req) (s : State) : State × Ans :=
  let off := (f.words.getD 0 0).toNat
  let count := getBits (f.words.getD 1 0) 4 0
  if off % 4 ≠ 0 then (s, ansItem stRange 0)
  else if count = 0 ∨ 28 < count ∨ trcSize s < off + 4 * count then (s, ansBeyond off count (trcSize s))
  else (startRead lkInterp 0x54 f (partAddr (partTrc s) + off) count s, .later)

/-! ### Whistle and stack opcodes -/

/-- SNAP (R348, R452): it raises a Whistle and answers with the `LTIME` of the latest latch. -/
def opSnap (s : State) : State × Ans :=
  if s.flag F.WH_CFG.FREEZE then (s, ansCode stBusy)
  else
    let s := serveWhistles (raiseWhistle 2 0 s)
    let t := s.wh.latchT / nsT
    (s, ansOk [BitVec.ofNat 32 t, BitVec.ofNat 32 (t / 2 ^ 32)])

/-- WHISTLE_AT (R441). -/
def opWhistleAt (f : Req) (s : State) : State × Ans :=
  let t := timeOf (f.words.getD 0 0) (f.words.getD 1 0)
  let st := scheduleStatus s t
  if st ≠ stOk then (s, ansCode st) else (broadcast (.whistle t) (addSchedule t s), ansCode stOk)

/-- The words of a block of the snapshot set (R457 to R459), none above block 0x11. -/
def snapBlock (s : State) (block : Nat) : Option (List Word) :=
  let ws := s.wh.snap.getD (List.replicate 508 0)
  if block < 16 then some ((ws.drop (4 + 30 * block)).take 30)
  else if block = 16 then some ((ws.drop 484).take 24)
  else if block = 17 then some (ws.take 4)
  else none

/-- SNAP_READ (R348, R459). -/
def opSnapRead (f : Req) (s : State) : State × Ans :=
  let off := getBits (f.words.getD 1 0) 7 0
  let count := getBits (f.words.getD 1 0) 12 8
  match snapBlock s (getBits (f.words.getD 0 0) 7 0) with
  | none => (s, ansCode stRange)
  | some ws =>
    if count = 0 ∨ 28 < count ∨ ws.length < off + count then (s, ansBeyond (4 * off) count (4 * ws.length))
    else (s, .now stOk (s.get F.WH_STAT.LATCH_NO % 256) 0 ((ws.drop off).take count))

/-- STACK_INFO (R348). -/
def opStackInfo (s : State) : State × Ans :=
  let n := max 1 (s.get F.CV_STAT.STACK_N)
  (s, ansOk [BitVec.ofNat 32 (n + devId s % 16 * 256 + bitOf (isCaptain s) * 4096 + bitOf (s.flag F.CV_STAT.ROLE_CONFLICT) * 8192)])

/-! ### Security opcodes -/

/-- SESSION_OPEN (R487, R490, R492, R538): `mac` says that the frame carries a valid MAC of the open session, which then
closes. -/
def opSessionOpen (f : Req) (mac : Bool) (s : State) : State × Ans :=
  let open_ := (sessOf s f.port).isSome
  if f.port = .up ∨ sleepWaits s ∨ s.flag F.BOOT_STAT.SELF_FAIL ∨ s.flag F.SEC_STAT.TRNG_FAIL ∨ lockedOut s f.port
      ∨ (open_ ∧ ¬ mac) then (s, ansCode stBusy)
  else
    let s := if open_ then closeSession f.port s else s
    let r := startJob (.sessOpen f.port f.words) s
    (r.2, ansStarted r.1)

/-- SESSION_CONFIRM (R487). -/
def opSessionConfirm (f : Req) (s : State) : State × Ans :=
  if f.port = .up ∨ sleepWaits s then (s, ansCode stBusy)
  else
    let r := startJob (.sessConfirm f.port f.words) s
    (r.2, ansStarted r.1)

/-- SESSION_CLOSE (R490). -/
def opSessionClose (f : Req) (s : State) : State × Ans := (closeSession f.port s, ansCode stOk)

/-- The session role a STARTED command carries to its result. -/
def jobRole (s : State) (p : Port) : BitVec 2 := BitVec.ofNat 2 (roleOf s p)

/-- KEY_INSTALL (R484, R538). -/
def opKeyInstall (f : Req) (s : State) : State × Ans :=
  if keyInstallRange s f.words then (s, ansCode stRange)
  else if sleepWaits s ∨ s.flag F.BOOT_STAT.SELF_FAIL then (s, ansCode stBusy)
  else
    let r := startJob (.keyInstall f.words (jobRole s f.port) f.port) s
    (r.2, ansStarted r.1)

/-- LIFECYCLE (R491): its status is its result. -/
def opLifecycle (f : Req) (s : State) : State × Ans :=
  if sleepWaits s then (s, ansCode stBusy)
  else
    let r := startJob (.lifecycle (f.words.getD 0 0) (jobRole s f.port) f.port) s
    (r.2, ansStarted r.1)

/-- PATCH_LOAD (R485, R538). -/
def opPatchLoad (f : Req) (s : State) : State × Ans :=
  let slot := getBits (f.words.getD 0 0) 3 0
  if 4 ≤ slot then (s, ansCode stRange)
  else if sleepWaits s ∨ s.flag F.BOOT_STAT.SELF_FAIL then (s, ansCode stBusy)
  else
    let r := startJob (.patchLoad ⟨slot % 4, by omega⟩ (jobRole s f.port) f.port) s
    (r.2, ansStarted r.1)

/-- AUDIT_READ (R494, R495): the two lines of the entry are read first. -/
def opAuditRead (f : Req) (s : State) : State × Ans :=
  let idx := getBits (f.words.getD 0 0) 11 0
  if (auditWordsAt s idx).isNone then (s, ansCode stNotFound)
  else (startRead lkSecurity 0x77 f ((0x1FA000 + idx * 2) * 32) 16 s, .later)

/-- TRNG_READ (R492, R538): its words are free values. -/
def opTrngRead (f : Req) (s : State) : State × Ans :=
  let count := getBits (f.words.getD 0 0) 4 0
  if count = 0 ∨ 28 < count then (s, ansCode stRange)
  else if s.flag F.SEC_STAT.TRNG_FAIL ∨ s.flag F.BOOT_STAT.SELF_FAIL then (s, ansCode stBusy)
  else
    let r := s.frees count
    (r.2, ansOk r.1)

/-! ### Diagnostic opcodes -/

/-- An axis fails a condition of the diagnostic command (R245). -/
def diagRefuses (s : State) (a : Axis) : Bool :=
  s.flag (F.AX_STATE.ENERGISED a) || !(s.gd a).diagPend.isEmpty || (s.gd a).diagRun.isSome || !diagConds s (quadOf a)

/-- DIAG_RUN (R245, R350). -/
def opDiagRun (f : Req) (s : State) : State × Ans :=
  let axes := allAxes.filter fun a : Axis => natBit (f.words.getD 0 0).toNat a.val
  match axes.find? (diagRefuses s) with
  | some a => (s, .now stBusy a.val 0 [])
  | none => (s.each axes fun a s => refreshAxis a (requestDiag a .command s), ansCode stOk)

/-- AUX_XFER (R327, R350). -/
def opAuxXfer (f : Req) (s : State) : State × Ans :=
  let w0 := f.words.getD 0 0
  let bits := getBits w0 26 16
  if bits < 8 ∨ 1024 < bits then (s, ansCode stRange)
  else if s.flag F.AUX_CFG.ROLE ∨ sleepWaits s then (s, ansCode stBusy)
  else if 4 ≤ s.auxm.queue.length then (s.raise F.AUX_STAT.TXQ_FULL, ansCode stBusy)
  else
    let r := newTicket s
    let x : AuxXfer := { ticket := r.1, sel := ⟨getBits w0 1 0 % 4, by omega⟩, bits := bits, words := f.words.drop 1 }
    ({ r.2 with auxm := { r.2.auxm with queue := r.2.auxm.queue ++ [x] } }, ansStarted r.1)

end Sys2Proof.Machine
end

