-- ==== Sys2Proof/Machine/Frames.lean ====
section
/-!
DEFINITION. Frames at the ports and in the stack: the checks of a received frame (R315), the rally count and the store
(R316, R317), the replies (R318 to R322), the order of the interpreter's checks (R333), routing (R357, R358).
-/

namespace Sys2Proof.Machine

/-! ### Interpretation -/

/-- The body of an opcode: its checks from order 6 on, and its effect. NOP and RALLY_SYNC have none (R314). -/
def bodyOf (op : Nat) (mac : Bool) (f : Req) (s : State) : State × Ans :=
  match op with
  | 0x02 => opCollect f s | 0x03 => opGetStatus s | 0x04 => opGetRetire f s | 0x05 => opMode f s | 0x06 => opReset f s
  | 0x07 => opAxisRearm f s | 0x08 => opIdent s | 0x09 => opResult f s
  | 0x10 => opRegRead f s | 0x11 => opRegWrite f s | 0x12 => opRegBlockWrite f s
  | 0x20 => opMove f s | 0x21 => opJog f s | 0x22 => opStop f s | 0x23 => opResume f s | 0x24 => opPosSet f s
  | 0x30 => opSource f s | 0x31 => opEngage f s | 0x32 => opExit f s | 0x33 => opGearRatio f s | 0x34 => opCamNext f s
  | 0x40 => opMeasRead f s | 0x41 => opProbe f s
  | 0x50 => opLkRead f s | 0x51 => opLkWrite f s | 0x52 => opRecipeArm f s | 0x53 => opRecipeApply f s
  | 0x54 => opTraceRead f s
  | 0x60 => opSnap s | 0x61 => opWhistleAt f s | 0x62 => opSnapRead f s | 0x63 => opStackInfo s
  | 0x70 => opSessionOpen f mac s | 0x71 => opSessionConfirm f s | 0x72 => opSessionClose f s | 0x73 => opKeyInstall f s
  | 0x74 => opLifecycle f s | 0x75 => opPatchLoad f s | 0x76 => opBackstopSet f s | 0x77 => opAuditRead f s
  | 0x78 => opTrngRead f s
  | 0x80 => opDiagRun f s | 0x81 => opAuxXfer f s
  | _ => (s, .plain)

/-- A refusal for want of a session or role is logged (R494), at most once in 100 ms for its port and status. -/
def auditRefused (f : Req) (st : Nat) (s : State) : State :=
  auditLimited (1000 + 2 * portNo f.port + bitOf (st == stRoleDenied)) 0x05 (roleOf s f.port) (portNo f.port) f.axis.toNat st [] s

/-- The lowest index that no route-return entry holds (R358). -/
def freeIndex (l : List RouteEntry) : BitVec 4 :=
  (((List.range 16).map (BitVec.ofNat 4)).find? fun i => l.all fun e => e.index != i).getD 0

/-- The Captain forwards a frame to a squad member (R357, R358): the entry of the same key, or with all 16 held the oldest,
is dropped and counted, and the frame leaves on `DN` with the index of its entry. -/
def routeFrame (op : Nat) (f : Req) (s : State) : State :=
  let same (e : RouteEntry) : Bool := e.dev == f.dev && e.alive == f.alive && e.tag == f.tag
  let kept := s.ip.routes.filter fun e => !same e
  let lost := decide (kept.length < s.ip.routes.length)
  let full := decide (16 ≤ kept.length)
  let kept := if full then kept.drop 1 else kept
  let idx := freeIndex kept
  let ent : RouteEntry := { dev := f.dev, alive := f.alive, tag := f.tag, index := idx, reply := .waiting }
  let s := if lost || full then s.inc F.CMD_ROUTE.RET_LOST else s
  let s := ({ s with ip := { s.ip with routes := kept ++ [ent] } }).inc F.CMD_ROUTE.ROUTED_CNT
  sendMsg .dn typFrame (flitCount (4 * (f.words.length + 1)))
    (.frame f.dev idx (headerWord (BitVec.ofNat 8 op) f.alive f.dev f.axis f.words.length f.tag) f.words) s

/-- The checks of R333 in orders 5 and on, made by the device that executes the command. -/
def execChecks (op : Nat) (body : Req → State → State × Ans) (f : Req) (s : State) : State × Ans :=
  if modeAllowed op s.mode then body f s else (s, ansCode stWrongMode)

/-- The interpreter checks an accepted frame of a port in the order of R333 and executes it or forwards it (R357). -/
def interpret (op : Nat) (body : Req → State → State × Ans) (f : Req) (s : State) : State × Ans :=
  if ¬ opcodeDefined op then (s, ansCode stBadOpcode)
  else if ¬ lenAllowed op f.words.length then (s, ansCode stBadLen)
  else
    let away := op != 0x02 && f.dev.toNat != devId s
    if away && !(isCaptain s && decide (f.dev.toNat < s.get F.CV_STAT.STACK_N)) then (s, ansCode stNoDevice)
    else
      let st := classStatus s f.port (classOf s op f.words)
      if st ≠ stOk then (auditRefused f st s, ansCode st)
      else if away then (routeFrame op f s, ansCode stRouted)
      else execChecks op body f s

/-- A command is interpreted and its refusal counted (R360); an unlock or LO latch left over lapses at its end (R372, R378). -/
def runCommand (r : State × Ans) : State × Ans := (endFrame (countRefusal r.2 r.1), r.2)

/-! ### Acceptance -/

/-- The frames of a port can be received: `PD1` is up, the port has the given role, and no test takeover holds the pins
(R304, R305, R577). -/
def portHears (s : State) (p : Port) (master : Bool) : Bool :=
  s.pd 1 && !s.tap.takeover && (match p with
    | .hp => s.flag F.HP_CFG.ROLE == master
    | .aux => s.flag F.AUX_CFG.ROLE && !master
    | .up => false)

/-- A frame is accepted with its flags (R315, R316): counted, and the rally count and store move. A frame accepted on `HP`
can settle the role (R428). -/
def acceptFrame (p : Port) (flags : BitVec 9) (alive : BitVec 4) (crc : BitVec 16) (sync : Bool) (s : State) : State :=
  let s := s.modPort p fun q => { q with flags := flags }
  let s := s.inc (portFld p F.HP_CNT0.FRAMES_OK F.AUX_PCNT0.FRAMES_OK)
  let s := if flags &&& fAliveGap ≠ 0 then s.inc (portFld p F.HP_CNT1.GAP_CNT F.AUX_PCNT1.GAP_CNT) else s
  let s := acceptRally p alive crc sync s
  if p = .hp then roleFromFrame s else s

/-- A frame is discarded with its flags, and a status reply is formed (R315, R320). -/
def discardFrame (p : Port) (flags : BitVec 9) (h : Word) (t : Nat) (s : State) : State :=
  let s := s.modPort p fun q => { q with flags := flags ||| fDiscarded }
  statusReply p h t (s.inc (portFld p F.HP_CNT0.FRAMES_BAD F.AUX_PCNT0.FRAMES_BAD))

/-- The session a frame is received in, with its count N (R488). -/
def sessN (s : State) (p : Port) : Option (Session × Nat) := (sessOf s p).map fun x => (x, x.n)

/-- The CRC that a frame has on its port, with the extended MAC word of the session where it carries one (R313, R488). -/
def sentCrc (op : Nat) (f : Req) (s : State) : BitVec 16 :=
  match sessOf s f.port with
  | some x =>
    if x.ext then
      let h := headerWord (BitVec.ofNat 8 op) f.alive f.dev f.axis (f.words.length + 1) f.tag
      crc16 (wordsBytes (h :: (f.words ++ [extWord (macTag x.kH2D x.n h f.words)])))
    else frameCrc (BitVec.ofNat 8 op) f
  | none => frameCrc (BitVec.ofNat 8 op) f

/-- An accepted frame is executed and its reply formed; an unlock or LO latch that a write of an earlier frame left lapses before it
(R372, R378). NOP and rally sync answer with the `HEALTH` word alone (R318). -/
def executeFrame (op : Nat) (body : Req → State → State × Ans) (f : Req) (sess : Option (Session × Nat)) (s : State) : State :=
  let s := endFrame s
  if op = 0x00 ∨ op = 0x01 then deliver sess 0 (BitVec.ofNat 8 op) f .plain f.t s
  else
    let r := runCommand (interpret op body f s)
    deliver sess 0 (BitVec.ofNat 8 op) f r.2 f.t r.1

/-- The index of the route-return entry is noted for a reply that a routed read forms later (R358, R396). -/
def markRead (idx : BitVec 4) (f : Req) (s : State) : State :=
  { s with lk := { s.lk with reads := s.lk.reads.map fun r => if r.req = f then { r with idx := idx } else r } }

/-- A routed frame at the squad member it names (R357, R431): checks 5 to 8 against its own state, execution, and the reply upward. -/
def executeRouted (op : Nat) (body : Req → State → State × Ans) (idx : BitVec 4) (f : Req) (s : State) : State :=
  if ¬ s.ip.running ∨ s.get F.CV_STAT.ROLE ≠ 2 ∨ f.dev.toNat ≠ devId s then s
  else
    let s := endFrame s
    let r := runCommand (if op = 0x00 ∨ op = 0x01 then (s, .plain) else execChecks op body f s)
    match r.2 with
    | .later => markRead idx f r.1
    | a => deliverUp idx (BitVec.ofNat 8 op) f a r.1

/-- An opcode of the command set, as one command of the block: a frame on `HP` or `AUX` that passes the checks of R315 with
the expected rally count is accepted and executed, or discarded while the interpreter does not run (R323); one over `UP` is
executed for the Captain. -/
def frameCommand (op : Nat) (body : Req → State → State × Ans) (f : Req) (s0 : State) : State :=
  let s := s0.at_ f.t
  if f.port = .up then (if s.pd 8 then executeRouted op body 0 f s else s)
  else if ¬ (portHears s f.port false ∨ portHears s f.port true) then s
  else if ¬ s.ip.running then
    discardFrame f.port 0 (headerWord (BitVec.ofNat 8 op) f.alive f.dev f.axis f.words.length f.tag) f.t s
  else
    let sess := sessN s f.port
    executeFrame op body f sess (acceptFrame f.port 0 f.alive (sentCrc op f s) (op == 0x01) s)

/-! ### Select windows -/

/-- The reply of the first window after a reset (R320): a status reply of the present state with no flag. -/
def firstReply (p : Port) (s : State) : List Word :=
  sealReply none 0 0 0 0 0 [healthState s ||| healthPort s ((s.portSt p).flags &&& 0)]

/-- The words a window shifts out: as many as it holds, zeros beyond the reply (R318); the last one holds only the bits of
the window. -/
def shownWords (bits : Nat) (out : List Word) : List Word :=
  (List.range ((bits + 31) / 32)).map fun i =>
    let w := out.getD i 0
    let used := min 32 (bits - 32 * i)
    (w >>> (32 - used)) <<< (32 - used)

/-- The words a port would shift out in its next window (R318, R320): the reply formed, or the first one after a reset. -/
def outWords (p : Port) (s : State) : List Word :=
  if (s.portSt p).readyAt = 0 ∧ (s.portSt p).out = [] then firstReply p s else (s.portSt p).out

/-- A window starts before its reply is ready (R322); the master waits for it (R326). -/
def isEarly (w : Window) (master : Bool) (s : State) : Bool := !master && decide (w.tFall < (s.portSt w.port).readyAt)

/-- The window shifts out the reply to the frame before (R318, R321, R322): a window that starts early shifts zeros; one
shorter than the reply truncates it. The flag says whether it was truncated. -/
def shiftWindow (w : Window) (master : Bool) (s : State) : State × Bool :=
  let early := isEarly w master s
  let out := outWords w.port s
  let trunc := !master && !early && decide (w.bits < 32 * out.length)
  let s := s.modPort w.port fun q => { q with
    shifted := shownWords w.bits (if early then [] else out)
    out := []
    outFor := none
    readyAt := w.tRise + replyTime
    lastFall := w.tFall
    lastRise := w.tRise }
  let s := if early then s.inc (portFld w.port F.HP_CNT1.EARLY_CNT F.AUX_PCNT1.EARLY_CNT) else s
  let s := if trunc then s.inc (portFld w.port F.HP_CNT1.RTRUNC_CNT F.AUX_PCNT1.RTRUNC_CNT) else s
  (if master then s else s.setB (portFld w.port F.HP_STAT.MODE3 F.AUX_PSTAT.MODE3) w.clockHigh, trunc)

/-- The words of a frame without its check word: header and payload. -/
def bodyWords (w : Window) : List Word := w.words.take (headerLen (w.words.headD 0) + 1)

/-- The check word of a frame. -/
def checkWord (w : Window) : Word := w.words.getD (headerLen (w.words.headD 0) + 1) 0

/-- Checks 1 and 2 of R315: the flag of the one that fails, none when the bit count is right. In the master role no frame is
aborted, and the words that the device clocks behind the frame for its own reply are no part of it (R326, assumption log 121). -/
def lengthFlag (w : Window) (master : Bool) : Option (BitVec 9) :=
  let len := headerLen (w.words.headD 0)
  if ¬ master ∧ (w.bits < 32 ∨ w.bits < 32 * (len + 2)) then some fFrameAbort
  else if len = 31 ∨ (if master then w.bits < 32 * (len + 2) else w.bits ≠ 32 * (len + 2)) then some fBitcount
  else none

/-- The stored frame that a received one repeats: the same `ALIVE` and CRC (R316); a rally sync repeats none. -/
def repeated (s : State) (w : Window) : Option StoreEnt :=
  let h := w.words.headD 0
  if headerOp h = 0x01 then none
  else (s.portSt w.port).store.find? fun e => e.alive.toNat == getBits h 23 20 && e.crc.toNat == getBits (checkWord w) 31 16

/-- The payload that the MAC of a session covers, and the extended word: the last payload word with `EXT` = 1 (R488). -/
def macParts (x : Session) (w : Window) : List Word × Option Word :=
  let pay := (bodyWords w).drop 1
  if x.ext then (pay.dropLast, pay.getLast?) else (pay, none)

/-- Check 4 of R315: the MAC of a frame in a session (R488). A repeated frame is checked against the N of its stored entry;
with `EXT` = 1 a frame without payload fails. -/
def macGood (x : Session) (n : Option Nat) (w : Window) : Bool :=
  match n with
  | none => false
  | some n =>
    let h := w.words.headD 0
    let parts := macParts x w
    let t := macTag x.kH2D n h parts.1
    getBits (checkWord w) 15 0 == tagBits t 0 && (if x.ext then parts.2 == some (extWord t) else true)

/-- The MAC check of a window: true outside a session. -/
def macPasses (s : State) (w : Window) : Bool :=
  match sessOf s w.port with
  | none => true
  | some x => macGood x (match repeated s w with | some e => e.sessN | none => some x.n) w

/-- A MAC failure is counted, and the session closes when the count reaches `MAC_FAIL_MAX` (R490). -/
def macFailure (p : Port) (s : State) : State :=
  let s := s.modSess p fun q => { q with sess := q.sess.map fun x => { x with macFails := x.macFails + 1 } }
  if (sessOf s p).any fun x => decide (s.get F.SEC_CFG.MAC_FAIL_MAX ≤ x.macFails) then closeSession p s else s

/-- A retransmission (R316, R319): it is not executed; the stored reply is formed again with a fresh `HEALTH` word. -/
def resend (p : Port) (flags : BitVec 9) (e : StoreEnt) (t : Nat) (s : State) : State :=
  let s := s.modPort p fun q => { q with flags := flags ||| fDup }
  let s := s.inc (portFld p F.HP_CNT1.DUP_CNT F.AUX_PCNT1.DUP_CNT)
  match e.reply with
  | none => s
  | some r =>
    let sess := (sessOf s p).map fun x => (x, e.sessN.getD x.n)
    let h := healthOf r.dev s
    putOut p sess true r (h.1 ||| healthPort s (s.portSt p).flags) t h.2

/-- The judgement of the rally count of R316 on a frame that is no repetition: the flags with which it is accepted, or those
with which it is discarded. -/
def rallyFlags (s : State) (p : Port) (op : BitVec 8) (alive : BitVec 4) : Bool × BitVec 9 :=
  let d := (alive.toNat + 16 - s.get (portFld p F.HP_STAT.ALIVE_EXP F.AUX_PSTAT.ALIVE_EXP)) % 16
  if op = 0x01 ∨ ¬ s.flag (portFld p F.HP_STAT.ALIVE_VALID F.AUX_PSTAT.ALIVE_VALID) then (true, 0)
  else if (s.portSt p).store.any fun e => e.alive == alive then (false, fAliveRepeat)
  else if d = 0 then (true, 0)
  else if d ≤ 3 then (true, fAliveGap)
  else (false, fAliveGap)

/-- The command a frame carries: its payload without the extended MAC word of a session (R488). -/
def frameReq (s : State) (w : Window) : Req :=
  reqOf w.port (w.words.headD 0)
    (match sessOf s w.port with | some x => (macParts x w).1 | none => (bodyWords w).drop 1) w.tRise

/-- The rally count of a frame is judged, and the frame is repeated, accepted and executed, or discarded (check 6 of R315). -/
def judgeFrame (w : Window) (extra : BitVec 9) (s : State) : State :=
  let h := w.words.headD 0
  let p := w.port
  let f := frameReq s w
  match repeated s w with
  | some e => resend p extra e w.tRise s
  | none =>
    let r := rallyFlags s p (headerOp h) f.alive
    if ¬ r.1 then discardFrame p (extra ||| r.2) h w.tRise s
    else
      let sess := sessN s p
      let op := (headerOp h).toNat
      executeFrame op (bodyOf op sess.isSome) f sess
        (acceptFrame p (extra ||| r.2) f.alive (BitVec.ofNat 16 (getBits (checkWord w) 31 16)) (op == 0x01) s)

/-- The checks of R315 at the release of the select. -/
def checkFrame (w : Window) (master : Bool) (extra : BitVec 9) (s : State) : State :=
  let h := if w.bits < 32 then 0 else w.words.headD 0
  match lengthFlag w master with
  | some fl => discardFrame w.port (extra ||| fl) h w.tRise s
  | none =>
    if crc16 (wordsBytes (bodyWords w)) ≠ BitVec.ofNat 16 (getBits (checkWord w) 31 16) then
      discardFrame w.port (extra ||| fCrcBad) h w.tRise s
    else if ¬ macPasses s w then discardFrame w.port (extra ||| fMacBad) h w.tRise (macFailure w.port s)
    else if ¬ s.ip.running then discardFrame w.port extra h w.tRise s
    else judgeFrame w extra s

/-- The role changes whose reply this transfer has carried take effect (R304); `AUX` does not become a slave while an axis uses it for
serial feedback (R329, assumption log 144). -/
def takeRoles (l : List (Option (BitVec 4) × Bool × Bool)) (s : State) : State :=
  s.each l fun r s =>
    if r.2.1 ∧ r.2.2 ∧ (allAxes.any fun a => fbMode s a == 4) then s
    else s.setB (if r.2.1 then F.AUX_CFG.ROLE else F.HP_CFG.ROLE) r.2.2

/-- A window carries the reply that a waiting role change needs (R304); a change written outside a frame takes any. -/
def roleDue (early : Bool) (q : PortSt) (r : Option (BitVec 4) × Bool × Bool) : Bool :=
  !early && (r.1.isNone || r.1 == q.outFor)

/-- An accepted RESET begins at the release of the next window on the port that received it (R341). -/
def windowReset (p : Port) (s : State) : State :=
  match s.ip.pendReset.find? fun r => r.port == p with
  | some r => beginReset r { s with ip := { s.ip with pendReset := s.ip.pendReset.erase r } }
  | none => s

/-- An accepted SLEEP begins at the release of the next window on the port that received it (R518). -/
def sleepsAt (p : Port) (s : State) : Bool := s.pw.sleepPend.any fun x => x.1 == p

/-- The SLEEP entry is due now (R518). -/
def sleepDue (s : State) : State :=
  { s with pw := { s.pw with sleepPend := s.pw.sleepPend.map fun x => (x.1, min x.2 s.now) } }

/-- One select window on a port: the reply to the frame before leaves, and the received frame is checked. A RESET that waited for
this window begins with its release, before the frame is checked; a frame that a SLEEP or a reset at L1 or L2 meets is not received
(R341, R518, R543, assumption log 62). A window that carries its reply ends the wait of a role change (R304). -/
def portWindow (w : Window) (master : Bool) (s0 : State) : State :=
  if ¬ portHears s0 w.port master then s0
  else
    let s := s0.at_ w.tRise
    let early := isEarly w master s
    let due := (s.portSt w.port).roleNext.filter (roleDue early (s.portSt w.port))
    let s := s.modPort w.port fun q => { q with roleNext := q.roleNext.filter fun r => !roleDue early q r }
    let r := shiftWindow w master s
    if sleepsAt w.port s then sleepDue r.1
    else
      let s := windowReset w.port r.1
      if ¬ s.pd 1 then s else checkFrame w master (if r.2 then fRtrunc else 0) (takeRoles due s)

/-- FRAME_RECEIVE: a select window ends on a port in the slave role (R306, R315). -/
def frameReceive (w : Window) (s : State) : State := portWindow w false s

/-- The words that the device clocks as master (R326): enough for the frame and for its own reply, at least two, and 32 where `LEN`
is 31. -/
def masterWords (w : Window) (s : State) : Nat :=
  let len := headerLen (w.words.headD 0)
  if len = 31 then 32 else max (max (len + 2) (outWords .hp s).length) 2

/-- The time from select falling to select rising of a transfer of `bits` bits (R308, R309): lead, the clocks, and lag. -/
def transferTime (bits div lead lag : Nat) : Nat := (lead + bits * (2 * div) + lag) * 80

/-- The transfer is one the device runs with `HP` as master (R309, R326): it starts `T_IDLE` and `POLL` after the transfer before or
later, with the pending reply ready, clocks the words of `masterWords`, and does not end before its clocks and delays. -/
def hpMasterReady (w : Window) (s : State) : Bool :=
  let q := s.portSt .hp
  let time := transferTime w.bits (s.get F.HP_CFG.DIV) (s.get F.HP_DLY.T_LEAD) (s.get F.HP_DLY.T_LAG)
  decide (w.tFall + time ≤ w.tRise) && decide (q.readyAt ≤ w.tFall) && (q.readyAt == 0 || !q.out.isEmpty) && w.bits == 32 * masterWords w s
    && (q.readyAt == 0
      || (decide (q.lastRise + s.get F.HP_DLY.T_IDLE * 80 ≤ w.tFall) && decide (q.lastFall + s.get F.HP_POLL.POLL * usT ≤ w.tFall)))

/-- HP_MASTER_TRANSFER: the device as master has run a transfer (R326). -/
def hpMasterTransfer (w : Window) (s : State) : State :=
  if w.port = .hp ∧ hpMasterReady w s then portWindow w true s else s

/-! ### Routed frames and replies -/

/-- FRAME_FLIT_RECEIVE: a routed frame has arrived whole at the squad member it names (R357). -/
def frameFlitReceive (idx : BitVec 4) (h : Word) (words : List Word) (t : Nat) (s0 : State) : State :=
  let s := s0.at_ t
  let op := (headerOp h).toNat
  if s.pd 8 then executeRouted op (bodyOf op false) idx (reqOf .up h words t) s else s

/-- REPLY_FLIT_RECEIVE: a reply to a routed frame has arrived whole at the Captain (R358): it goes to the entry that waits
under its index and key; one for a dropped entry is discarded. -/
def replyFlitReceive (idx : BitVec 4) (h : Word) (words : List Word) (s : State) : State :=
  let f := reqOf .up h words 0
  let hit (e : RouteEntry) : Bool :=
    e.index == idx && e.dev == f.dev && e.alive == f.alive && e.tag == f.tag && e.reply == .waiting
  if ¬ isCaptain s then s
  else { s with ip := { s.ip with routes := s.ip.routes.map fun e => if hit e then { e with reply := .arrived words } else e } }

end Sys2Proof.Machine
end

