-- ==== Sys2Proof/Machine/LockerDone.lean ====
section
/-!
DEFINITION. What follows the end of a Locker access (R387, R390, R393): late replies (R396), write results, and each user's
next step; the end of a Backstop store (R472, R536).
-/

namespace Sys2Proof.Machine

/-! ### Late replies -/

/-- The answer of a read that has waited for its lines reaches its port (R396), in the session its frame was accepted in; a
BARRIER flit that waited for it goes on (R440). The reply is ready within 4 µs of its frame's release, and is shown unless another
window has come since (R322). -/
def lateAnswer (r : LkRead) (a : Ans) (s : State) : State :=
  let n := ((s.portSt r.req.port).store.find? fun e => e.alive = r.req.alive).bind (·.sessN)
  let sess := (sessOf s r.req.port).map fun x => (x, n.getD x.n)
  let q := s.portSt r.req.port
  let s1 := deliver sess r.idx r.op r.req a r.req.t (countRefusal a s)
  barrierRelease (if r.req.t < q.lastRise then s1.modPort r.req.port fun x => { x with out := q.out, outFor := q.outFor, readyAt := q.readyAt }
    else s1)

/-- The waiting read of a port and key. -/
def readOf (s : State) (p : Port) (k : ReadKey) : Option LkRead := s.lk.reads.find? fun r => r.is p k

/-- The lines a waiting read needs, and the index of the word it needs first from one of them (R335). -/
def LkRead.need (r : LkRead) : Nat := (r.addr % 32 + 4 * r.count + 31) / 32
def LkRead.item (r : LkRead) (line : Nat) : Nat := (line * 32 - r.addr) / 4

/-- The first line of a waiting read for which `p` holds, by its failing item. -/
def LkRead.fails (r : LkRead) (p : Option (Option (List Byte)) → Bool) : Option Nat :=
  ((List.range r.need).find? fun i => p ((r.lines.find? fun e => e.1 = r.addr / 32 + i).map (·.2))).map fun i => r.item (r.addr / 32 + i)

/-- The words a read has found, from the bytes of its lines (R396). -/
def LkRead.words (r : LkRead) : List Word :=
  bytesToWordsLE (((r.lines.flatMap fun e => e.2.getD []).drop (r.addr % 32)).take (4 * r.count))

/-- The result of a command whose lines have all been read: the words of a read, or LOCKER_ERR from a line that gave no data (R396); an
audit entry (R495); the acceptance of a command that needed a directory entry or a recipe header (R345, R347). -/
def readResult (r : LkRead) (s : State) : State × Ans :=
  let bad := r.fails fun x => x == some none
  match r.op.toNat with
  | 0x31 => if bad.isSome ∨ (camEntryOf s r.words).isNone then (s, ansCode stCamBad) else takeUpEngage r.req s
  | 0x34 => if bad.isSome ∨ (camEntryOf s r.words).isNone then (s, ansCode stCamBad) else takeUpCamNext r.req s
  | 0x52 => if bad.isNone ∧ r.words = [rcpMagic] then queueCmd 0x52 r.req s else (s, ansCode stRecipeBad)
  | 0x77 => (s, if bad.isSome then ansCode stLockerErr else ansOk ((auditWordsAt s (getBits (r.req.words.getD 0 0) 11 0)).getD []))
  | _ => (s, match bad with | some i => ansItem stLockerErr i | none => ansOk r.words)

/-- A line of a waiting read has been read: none where it gave no data. -/
def replyLine (p : Port) (k : ReadKey) (line : Nat) (d : Option (List Byte)) (s : State) : State :=
  match readOf s p k with
  | none => s
  | some r =>
    let r1 := { r with lines := linePut line d r.lines }
    if r1.lines.length < r1.need then
      { s with lk := { s.lk with reads := s.lk.reads.map fun x => if x = r then r1 else x } }
    else
      let x := readResult r1 (endRead p k s)
      lateAnswer r1 x.2 x.1

/-- LK_READ_TIMEOUT: the lines of a read have not all been read within 3 µs (R396). A command that waits for a directory entry, a recipe
header or an audit entry ends in the same way, uncounted: DESIGN CHOICE (assumption log 150). -/
def lkReadTimeout (p : Port) (k : ReadKey) (s : State) : State :=
  match readOf s p k with
  | none => s
  | some r =>
    let s := s.at_ (r.req.t + 3 * usT)
    let many := r.op == 0x50 || r.op == 0x54
    let s := if many then s.inc F.LK_ARB_STAT.READ_BUSY else s
    lateAnswer r (ansItem stBusy (if many then (r.fails Option.isNone).getD 0 else 0)) (endRead p k s)

/-! ### Accesses -/

/-- The next step of the user whose line has been read. -/
def lineRead (j : LkJob) (r : LineRes) (s : State) : State :=
  match j.why with
  | .reply p k => replyLine p k j.line r.data s
  | .recipe => armLine j.line r.data s
  | .cam => camLine j.line r.data s
  | .prefetch nxt => prefetchLine (axisOf j.who.val) nxt j.line r.data s
  | .scrub => scrubLine j.line r s
  | _ => s

/-- LINE_READ_DONE: the read of a bank completes (R387, R390). A job withdrawn meanwhile has no further effect. -/
def lineReadDone (b : Fin 8) (s : State) : State :=
  match s.lk.banks[b].busy with
  | none => s
  | some acc =>
    if acc.job.bytes.isSome then s
    else
      match endAccess b s with
      | none => s
      | some (j, stands, s) =>
        let r := readLine s j.line
        let s := countLine j.who j.line r s
        if stands then lineRead j r s else s

/-- The next step of the user whose line has been written, and whether the write succeeded. -/
def lineWritten (j : LkJob) (ok : Bool) (s : State) : State :=
  let last := j.left == 0
  match j.why with
  | .write ticket =>
    if ¬ ok then endTicket ticket stLockerErr [] s else if last then endTicket ticket stOk [] s else s
  | .store => storeLine last ok s
  | .image => imageLine ok s
  | .trace => traceLine last s
  | .audit => if last then auditPut s else s
  | .rewrite r =>
    if serving s (.rewrite r) then s else { s with lk := { s.lk with initPend := s.lk.initPend &&& ~~~ ((1 : BitVec 64) <<< r) } }
  | _ => s

/-- LINE_WRITE_DONE: the write of a bank completes, with the bytes its read-backs find (R387, R393). -/
def lineWriteDone (b : Fin 8) (rb1 rb2 : List Byte) (s : State) : State :=
  match s.lk.banks[b].busy with
  | none => s
  | some acc =>
    match acc.job.bytes with
    | none => s
    | some bytes =>
      match endAccess b s with
      | none => s
      | some (j, stands, s) =>
        let data := match j.why with
          | .audit => (match s.sec.auditBuf with
            | e :: _ => (wordsBytesLE (auditWords s.sec.chain e)).drop (if j.left = 0 then 32 else 0)
            | [] => [])
          | .image => (wordsBytesLE (imageNow s)).drop (if j.line % 2 = 0 then 0 else 32)
          -- a line written since the scrubber read it keeps what it now holds
          | .scrubBack => (readLine s j.line).data.getD bytes
          | _ => bytes
        let r := finishWrite j.line (takePad 0 32 data) rb1 rb2 s
        if stands then lineWritten j r.2 r.1 else r.1

/-! ### Backstop store -/

/-- The writes of a STORE have ended: the last one done, or one failed. -/
def storeOver (s : State) : Bool := s.bk.storing && (s.bk.failed || (s.bk.imaging && !serving s .image))

/-- BK_STORE_DONE: the store ends once its writes have (R471, R472), with the result they had; a failed one leaves the option bytes
unchanged. -/
def bkStoreDone (ok : Bool) (s : State) : State :=
  if ¬ storeOver s ∨ ok = s.bk.failed then s
  else
    let img := storedImage s
    let s : State := { s with bk := { s.bk with storing := false, imaging := false } }
    let s := (s.set F.BK_DEV_STAT.STORE_BUSY 0).raise F.BK_DEV_STAT.STORE_DONE
    if ok then
      let s : State := { setImage img s with sec := { s.sec with bkTable := s.bk.table } }
      audit 0x0B 3 2 0 stOk [] ((s.set F.BK_DEV_STAT.BK_VERSION ((s.get F.BK_DEV_STAT.BK_VERSION + 1) % 65536)).set F.BK_DEV_STAT.BK_BAD 0)
    else audit 0x0B 3 2 0 stLockerErr [] (s.raise F.BK_DEV_STAT.STORE_FAIL)

end Sys2Proof.Machine
end

