-- ==== Sys2Proof/Machine/AuxMaster.lean ====
section
/-!
DEFINITION. The AUX port in the master role (R277, R327, R328): serial-feedback reads and commanded transfers.
-/

namespace Sys2Proof.Machine

/-- The AUX port can run transfers of its own: `PD1` is up and the port is in the master role (R304, R327). -/
def auxMaster (s : State) : Bool := s.pd 1 && !s.flag F.AUX_CFG.ROLE

/-- The running transfer is the serial read of an axis. -/
def auxReads (s : State) (a : Axis) : Bool := match s.auxm.cur with | some (.inl b) => b == a | _ => false

/-- SER_READ: a serial read of an axis falls due, `SER_PERIOD` after the one before (R277, R327); the latter, if it has not completed
by then, is an error and, still running, sets no position. -/
def serRead (a : Axis) (s : State) : State :=
  if ¬ s.axOn a ∨ fbMode s a ≠ 4 ∨ ¬ auxMaster s then s
  else
    let s := match (s.ax a).fb.serAt with
      | some t => s.at_ (t + s.get (F.AX_FB_SER.SER_PERIOD a) * usT)
      | none => s
    let late := s.auxm.serQ.contains a || auxReads s a
    let s := s.modFb a fun f => { f with serAt := some s.now, serLate := f.serLate || auxReads s a }
    let s := if late then fbAfter a ((s.raise (F.AX_FB_STAT.SER_ERR a)).set (F.AX_FB_STAT.SER_ERR_ACT a) 1) else s
    if s.auxm.serQ.contains a then s else { s with auxm := { s.auxm with serQ := s.auxm.serQ ++ [a] } }

/-- The settings of a select as they stand (R308, R309). -/
def auxSet (s : State) (sel : Nat) : AuxSet :=
  { cpol := s.flag (F.AUX_SEL_CFG.CPOL sel), late := s.flag (F.AUX_SEL_CFG.LATE_SAMPLE sel), div := s.get (F.AUX_SEL_CFG.DIV sel)
    lead := s.get (F.AUX_SEL_DLY.T_LEAD sel), lag := s.get (F.AUX_SEL_DLY.T_LAG sel), idle := s.get (F.AUX_SEL_DLY.T_IDLE sel) }

/-- The bits of words, the most significant first. -/
def wordBits (w : Word) : List Bool := (List.range 32).map fun i => w.getLsbD (31 - i)

/-- The transmit bits of a commanded transfer: most significant first, 0 beyond the payload (R350). -/
def txBits (x : AuxXfer) : List Bool :=
  ((x.words.flatMap wordBits) ++ List.replicate (x.bits - 32 * x.words.length) false).take x.bits

/-- A transfer of `bits` bits runs on a select with that select's settings (R327, R328, R332): its select rises after lead, clocks
and lag, and the next select falls no earlier than `T_IDLE` after that (R309). -/
def auxRun (x : Axis ⊕ AuxXfer) (sel bits : Nat) (tx : List Bool) (s : State) : State :=
  let k := auxSet s sel
  let rise := s.now + transferTime bits k.div k.lead k.lag
  ({ s with auxm := { s.auxm with cur := some x, set := k, tx := tx, riseAt := rise, idleEnd := rise + k.idle * 80 } }).set
    F.AUX_STAT.CUR_SEL sel

/-- AUX_TRANSFER_START: the port, free and idle for `T_IDLE`, starts the waiting serial read that fell due first, or else the oldest
commanded transfer (R277, R309, R327). -/
def auxTransferStart (s : State) : State :=
  if ¬ auxMaster s ∨ s.auxm.cur.isSome ∨ s.now < s.auxm.idleEnd then s
  else
    match s.auxm.serQ.filter fun a => s.axOn a && fbMode s a == 4 with
    | a :: rest =>
      auxRun (.inl a) (s.get (F.AX_FB_SER.SEL a)) (s.get (F.AX_FB_SER.SER_LEN a)) [] { s with auxm := { s.auxm with serQ := rest } }
    | [] =>
      match s.auxm.queue with
      | x :: rest => auxRun (.inr x) x.sel.val x.bits (txBits x) { s with auxm := { s.auxm with serQ := [], queue := rest } }
      | [] => s

/-- Received bits as result words, the first bit in bit 31 of the first word, the unused low bits 0 (R350). -/
def rxWords : Nat → List Bool → List Word
  | 0, _ => []
  | n + 1, l => BitVec.ofNat 32 (bitsValue (l.take 32 ++ List.replicate (32 - l.length) false)) :: rxWords n (l.drop 32)

/-- AUX_TRANSFER_DONE: the running transfer ends at select rising, after its clocks and delays (R309, R327, R328). The bits of a
commanded transfer become the result of its ticket; those of a serial read are judged by SER_FRAME_DONE. -/
def auxTransferDone (bits : List Bool) (s : State) : State :=
  match s.auxm.cur with
  | none => s
  | some x =>
    let s := s.at_ s.auxm.riseAt
    let s : State := { s with auxm := { s.auxm with cur := none, idleEnd := s.now + s.auxm.set.idle * 80 } }
    match x with
    | .inl _ => s
    | .inr x => endTicket x.ticket stOk (rxWords ((x.bits + 31) / 32) (bits.take x.bits)) s

end Sys2Proof.Machine
end

