-- ==== Sys2Proof/Machine/Tap.lean ====
section
/-!
DEFINITION. The test access port (R569 to R580): instructions, the boundary register, test takeovers and GATETEST. Boundary
cells are numbered in the order of the table of R574: inputs 0 to 95, gate cells 96 to 223, then the rest.
-/

namespace Sys2Proof.Machine

/-- The controller works while `VDD33` is good (R569). -/
def tapWorks (s : State) : Bool := s.pw.supplies.getLsbD 0

/-- Some motor supply reads at or above 5 V (R571): 800 steps of 6.25 mV. -/
def vmAbove5 (s : State) : Bool := allAxes.any fun a => decide (800 ≤ s.get (F.MS_VM.VALUE a.val))

/-- Private instructions are available (R572). -/
def privOpen (s : State) : Bool := s.tap.sensed == some 0 || s.tap.sensed == some 1

/-- What Capture-IR loads (R571). -/
def irCapture (s : State) : BitVec 8 :=
  BitVec.ofNat 8 (1 + (s.tap.sensed.getD 0).toNat * 4 + bitOf (vmAbove5 s) * 16 + bitOf (!privOpen s) * 32)

/-- The instruction an opcode selects (R572). -/
def tapDecode (s : State) (op : BitVec 8) : TapInstr :=
  match op.toNat with
  | 0x00 => .extest
  | 0x01 => .idcode
  | 0x02 => .samplePreload
  | 0x03 => .clamp
  | 0x04 => .highz
  | n =>
    if n = 0x40 then (if s.tap.sensed = some 0 ∧ s.sec.life = 0 then .gatetest else .bypass)
    else if 0x41 ≤ n ∧ n ≤ 0x7F ∧ privOpen s then .priv op
    else .bypass

/-- A pin-driving instruction (R572). -/
def TapInstr.drives : TapInstr → Bool
  | .extest | .clamp | .highz | .gatetest => true
  | _ => false

/-- The identity register (R573). -/
def tapIdentity : BitVec 273 := 0x11680A5B

/-- The live gates as the cells 96 to 223 capture them (R575): eight of each axis. -/
def gateCells (s : State) : BitVec 273 :=
  BitVec.ofNat 273 ((allAxes.map fun a => (gatesOf s a).toNat * 2 ^ (96 + 8 * a.val)).sum)

/-- The places of the gate cells. -/
def gateCellMask : BitVec 273 := BitVec.ofNat 273 ((2 ^ 128 - 1) * 2 ^ 96)

/-- A test takeover begins (R576, R577): bridge enable counts as absent on every axis and both links go down. One that runs
goes on under the new instruction. -/
def takeoverBegin (s : State) : State :=
  if ¬ s.pd 1 then s
  else if s.tap.takeover then refreshAll s
  else
    let s : State := { s with tap := { s.tap with takeover := true } }
    let s := s.each allAxes enableLost
    let s := if linkUp s .up then linkGoesDown .up s else s
    let s := if linkUp s .dn then linkGoesDown .dn s else s
    refreshAll s

/-- An instruction becomes current at Update-IR (R571, R572, R577): the instruction register captured its value before, and
a data register that depends on the instruction alone takes its content; without `PD1` every other captures zeros (R570). -/
def tapLoad (i : TapInstr) (s : State) : State :=
  if ¬ tapWorks s then s
  else
    let cap : BitVec 273 := match i with
      | .idcode => tapIdentity
      | .bypass | .clamp | .highz => 0
      | _ => if s.pd 1 then s.tap.capture else 0
    let s : State := { s with tap := { s.tap with
      irCapture := irCapture s
      instr := i
      capture := cap } }
    if i.drives then takeoverBegin s else if s.tap.takeover then refreshAll s else s

/-- TAP_RESET: Test-Logic-Reset, with IDCODE selected (R569). -/
def tapReset (s : State) : State :=
  let s : State := { s with tap := { s.tap with instr := .idcode, capture := tapIdentity } }
  if s.tap.takeover then refreshAll s else s

/-- EXTEST, CLAMP and HIGHZ start a takeover (R577). -/
def tapExtest (s : State) : State := tapLoad .extest s
def tapClamp (s : State) : State := tapLoad .clamp s
def tapHighz (s : State) : State := tapLoad .highz s

/-- IDCODE (R573). -/
def tapIdcode (s : State) : State := tapLoad .idcode s

/-- SAMPLE/PRELOAD: the pins are captured, the gate cells from the live gates (R572, R575); zeros while `PD1` is down
(R570). -/
def tapSample (pins : BitVec 273) (s : State) : State :=
  if ¬ tapWorks s then s
  else
    let s := tapLoad .samplePreload s
    let c : BitVec 273 := if s.pd 1 then (pins &&& ~~~ gateCellMask) ||| gateCells s else 0
    { s with tap := { s.tap with capture := c } }

/-- BYPASS, or an opcode that selects it (R572). -/
def tapBypass (op : BitVec 8) (s : State) : State := if tapDecode s op = .bypass then tapLoad .bypass s else s

/-- GATETEST in MANUFACTURE (R572, R579): the gates wait for the commands of the next Update-DR, and stay off if a motor
supply stands at 5 V; elsewhere BYPASS. -/
def tapGatetest (s : State) : State :=
  let i := tapDecode s 0x40
  if i = .gatetest ∧ tapWorks s then
    tapLoad i { s with tap := { s.tap with gates := 0, cutOff := vmAbove5 s } }
  else tapLoad i s

/-- A private opcode (R572, R573): its vendor register is not described; where it is not available it selects BYPASS. -/
def tapPrivate (op : BitVec 8) (s : State) : State :=
  if 0x41 ≤ op.toNat ∧ op.toNat ≤ 0x7F then tapLoad (tapDecode s op) s else s

/-- The legs of an axis whose two gate commands are both 1. -/
def bothOn (c : BitVec 8) : Nat := ((List.range 4).filter fun i => c.getLsbD (2 * i) && c.getLsbD (2 * i + 1)).length

/-- The commands of GATETEST reach the gates (R579); every leg commanded on at both gates counts an overlap. -/
def gateCommands (cells : BitVec 273) (s : State) : State :=
  let s : State := { s with tap := { s.tap with gates := (cells >>> 96).setWidth 128 } }
  s.each (allAxes.filter s.axOn) fun a s =>
    noteGates a (s.count (F.AX_GD_STAT.CROSS_CNT a) (bothOn ((s.tap.gates >>> (8 * a.val)).setWidth 8)))

/-- TAP_UPDATE_DR: the update cells of the boundary register are loaded, and under GATETEST the gates are commanded (R570,
R577, R579). -/
def tapUpdateDr (cells : BitVec 273) (s : State) : State :=
  if ¬ tapWorks s ∨ ¬ s.pd 1 then s
  else
    match s.tap.instr with
    | .extest | .samplePreload => { s with tap := { s.tap with update := cells } }
    | .gatetest => gateCommands cells { s with tap := { s.tap with update := cells } }
    | _ => s

/-- TAKEOVER_END: a takeover has ended with its instruction (R577, R578): bit a of `ena` is the level of `AXnn_ENA`, and one
that differs from the level held gives its edge. -/
def takeoverEnd (ena : BitVec 16) (s : State) : State :=
  if ¬ s.tap.takeover ∨ s.tap.instr.drives then s
  else
    let s : State := { s with tap := { s.tap with takeover := false, gates := 0 } }
    let s := refreshAll s
    s.each allAxes fun a s => if ena.getLsbD a.val then enaRise a s else enaFall a s

/-- GATETEST_VM_CUTOFF: a motor supply has reached 5 V under GATETEST, and every gate stays off (R579). -/
def gatetestCutoff (s : State) : State :=
  if s.tap.instr = .gatetest then refreshAll { s with tap := { s.tap with cutOff := true } } else s

/-- A test takeover holds the scanned inputs (R577): an event at one of them does not reach the device logic. -/
def pinsHeld (s : State) : Bool := s.tap.takeover && s.pd 1

end Sys2Proof.Machine
end

