-- ==== Sys2Proof/Machine/Command.lean ====
section
/-!
DEFINITION. What every command of the block shares: its beginning and end, the instant it names, the domain or pin it comes
through, and register writes that are commands of their own.
-/

namespace Sys2Proof.Machine

/-- A command takes effect: the flits of the command before have left, and the Whistles it raises are served at its end. -/
def runCmd (f : State → State) (s : State) : Host.Outcome State Fault Refusal :=
  .next (finish (f { s with cv := { s.cv with tx := [] } }))

/-- An event at an instant. -/
def timed (t : Nat) (f : State → State) (s : State) : State := f (s.at_ t)

/-- Work of the planner or the interpreter, which runs outside BOOT, an L3 reset and a brownout of `PD2` (R323). -/
def whileRunning (f : State → State) (s : State) : State := if s.ip.running then f s else s

/-- An event of logic that belongs to a domain (R515): nothing happens while it is off. -/
def inDomain (n : Nat) (f : State → State) (s : State) : State := if s.pd n then f s else s

/-- An event at a scanned input, which a test takeover holds (R577). -/
def onPins (f : State → State) (s : State) : State := if pinsHeld s then s else f s

/-- A register write as a command of its own (R367): one write of the frame in hand. Its status is kept, and a failure is
counted (R360). -/
def hostWrite (via : Port) (bk : Bool) (addr typ : Nat) (data : Word) (s : State) : State :=
  if ¬ s.ip.running then s
  else
    let r := writeReg via bk addr typ data s
    let s := countRefusal (ansCode r.2) r.1
    { s with ip := { s.ip with wrStatus := BitVec.ofNat 8 r.2 } }

/-- A write of one field in bits 15:0 of a register, its other bits masked (R362). -/
def fieldWrite (via : Port) (bk : Bool) (f : Fld) (v : Nat) (s : State) : State :=
  hostWrite via bk f.addr 1 ((fieldMask f.hi f.lo <<< 16) ||| putBits 0 f.hi f.lo v) s

/-- A write of 1 to an action bit. -/
def strobe (via : Port) (bk : Bool) (f : Fld) (s : State) : State := fieldWrite via bk f 1 s

/-- A period boundary of a channel. -/
def chanBoundary (c : Chan) (s : State) : State :=
  match c with
  | .axis a => periodBoundary a s
  | .priv n => privBoundary n s

/-- A write of 1 to the `COMMIT` of a channel. -/
def chanCommit (c : Chan) (s : State) : State :=
  match c with
  | .axis a => strobe .hp false (F.AX_PWM_CTRL.COMMIT a) s
  | .priv n => strobe .hp false (F.PCH_CTRL.COMMIT n.val) s

/-- The monitor of a supply reports its level. -/
def supplyBit (i : Nat) (good : Bool) (s : State) : State :=
  let m : BitVec 6 := BitVec.ofNat 6 (2 ^ i)
  { s with pw := { s.pw with supplies := if good then s.pw.supplies ||| m else s.pw.supplies &&& ~~~ m } }

/-- A write of 1 to `BK_DEV_CTRL.STORE`, which BACKSTOP_SET alone reaches, in CONFIG (R349, R472). -/
def storeTable (s : State) : State :=
  if s.mode = 2 then strobe .hp true F.BK_DEV_CTRL.STORE s
  else { s with ip := { s.ip with wrStatus := BitVec.ofNat 8 stWrongMode } }

/-- The loader's work on the system region (R471, R495, R533): the option image and the Backstop table, and the wrapped keys
and verification records whose lines are unreadable. -/
def loadOptions (tableOk : Bool) (badKeys : BitVec 16) (badRecs : List Nat) (s : State) : State :=
  if s.rst.boot = .power ∧ s.pd 1 ∧ s.pd 7 then keysUnreadable badKeys badRecs (optionLoad tableOk s) else s

end Sys2Proof.Machine
end

