-- ==== Sys2Proof/Machine/CmdDevice.lean ====
section
/-!
DEFINITION. The meaning of each command of Backstop, STO, security, time base, modes, power and resets.
-/

namespace Sys2Proof.Machine

/-- BK_STORE (R472): A write of STORE writes the Backstop table, a new version and digest into the system region and
option bytes. -/
def execBkStore (s : State) : Host.Outcome State Fault Refusal :=
  runCmd (storeTable) s

/-- BK_STORE_DONE (R472): The Backstop store ends with STORE_DONE or STORE_FAIL. -/
def execBkStoreDone (ok : Bool) (s : State) : Host.Outcome State Fault Refusal :=
  runCmd (bkStoreDone ok) s

/-- STO_LOW (R478): A filtered low STO input turns off every gate and is audited. -/
def execStoLow (b : Bool) (t : Nat) (s : State) : Host.Outcome State Fault Refusal :=
  runCmd (timed t (stoLow b)) s

/-- STO_HIGH (R478): A filtered STO input returns high. -/
def execStoHigh (b : Bool) (t : Nat) (s : State) : Host.Outcome State Fault Refusal :=
  runCmd (timed t (stoHigh b)) s

/-- STO_DISC_TIMEOUT (R480): STO_A and STO_B differ for longer than STO_DISC_T, and STO_DISC sets. -/
def execStoDiscTimeout (s : State) : Host.Outcome State Fault Refusal :=
  runCmd (stoDiscTimeout) s

/-- ENA_RISE (R243): A rising edge of AXnn_ENA restores bridge enable and is a rearm edge. -/
def execEnaRise (a : Axis) (t : Nat) (s : State) : Host.Outcome State Fault Refusal :=
  runCmd (onPins (timed t (enaRise a))) s

/-- ENA_FALL (R479): A falling edge of AXnn_ENA removes bridge enable and takes a moving axis out of motion. -/
def execEnaFall (a : Axis) (t : Nat) (s : State) : Host.Outcome State Fault Refusal :=
  runCmd (onPins (timed t (enaFall a))) s

/-- SESSION_TIMEOUT (R490): A session without an accepted frame for SESS_TMO closes. -/
def execSessionTimeout (port : Port) (s : State) : Host.Outcome State Fault Refusal :=
  runCmd (sessionTimeout port) s

/-- LOCKOUT_END (R490): A port's 10 s lockout ends. -/
def execLockoutEnd (port : Port) (s : State) : Host.Outcome State Fault Refusal :=
  runCmd (lockoutEnd port) s

/-- TRNG_TEST_FAIL (R492): A TRNG health test fails and TRNG_FAIL sets. -/
def execTrngTestFail (s : State) : Host.Outcome State Fault Refusal :=
  runCmd (inDomain 1 trngTestFail) s

/-- TRNG_RECOVER (R492): 1,024 consecutive samples pass and TRNG_FAIL clears. -/
def execTrngRecover (s : State) : Host.Outcome State Fault Refusal :=
  runCmd (inDomain 1 trngRecover) s

/-- TAMPER (R493): A fast detector sees a supply or temperature excursion and causes an L2. -/
def execTamper (detail : Fin 4) (s : State) : Host.Outcome State Fault Refusal :=
  runCmd (tamperEvent detail) s

/-- REFIN_EDGE_TIMEOUT (R28): No rising REFIN edge arrives for 200 ns and the reference test fails. -/
def execRefinEdgeTimeout (t : Nat) (s : State) : Host.Outcome State Fault Refusal :=
  runCmd (timed t refinEdgeTimeout) s

/-- CALIBRATION_INSTANT (R28): At each 100 us calibration instant the reference rate is tested, delay lines are
calibrated and the source may change. -/
def execCalibrationInstant (refOk : Bool) (fails : BitVec 144) (s : State) : Host.Outcome State Fault Refusal :=
  runCmd (calibrationInstant refOk fails) s

/-- REFERENCE_GOOD (R29): After 1 ms of passing edges the reference is declared good. -/
def execReferenceGood (t : Nat) (s : State) : Host.Outcome State Fault Refusal :=
  runCmd (referenceGood t) s

/-- REFIN_EN_WRITE (R29): A write of REFIN_EN selects or leaves the reference, at once when leaving it. -/
def execRefinEnWrite (b : Bool) (s : State) : Host.Outcome State Fault Refusal :=
  runCmd (fieldWrite .hp false F.TB_CTRL.REFIN_EN (bitOf b)) s

/-- MODE_TRANSIT_DONE (R506): A mode transition completes and TRANSIT clears. -/
def execModeTransitDone (t : Nat) (s : State) : Host.Outcome State Fault Refusal :=
  runCmd (timed t modeTransitDone) s

/-- SLEEP_ENTRY (R518): The accepted SLEEP entry begins and powers down every domain except PD0. -/
def execSleepEntry (edge : Option Bool) (s : State) : Host.Outcome State Fault Refusal :=
  runCmd (sleepEntry edge) s

/-- WAKE (R519): A falling edge on HP_SEL_N or WHSL in SLEEP wakes the device with an L2. -/
def execWake (whsl : Bool) (s : State) : Host.Outcome State Fault Refusal :=
  runCmd (onPins (wakeUp whsl)) s

/-- PD_CTRL_WRITE (R516): A write of QUAD_ON or LNK_ON requests a quad or link domain up or down. -/
def execPdCtrlWrite (quads : BitVec 4) (lnk : Bool) (s : State) : Host.Outcome State Fault Refusal :=
  runCmd (hostWrite .hp false F.PD_CTRL.all.addr 0 (BitVec.ofNat 32 (quads.toNat + bitOf lnk * 16))) s

/-- DOMAIN_UP (R515): A power domain becomes usable, and a quad's timers and Backstop copy start. -/
def execDomainUp (n : Fin 10) (t : Nat) (s : State) : Host.Outcome State Fault Refusal :=
  runCmd (domainUp n.val t) s

/-- DOMAIN_LOSS (R517): A domain loses power without a request and the loss has its listed effect. -/
def execDomainLoss (n : Fin 10) (t : Nat) (s : State) : Host.Outcome State Fault Refusal :=
  runCmd (domainLoss n.val t) s

/-- SUPPLY_GOOD (R559): A supply monitor reports its supply good. -/
def execSupplyGood (supply : Fin 6) (s : State) : Host.Outcome State Fault Refusal :=
  runCmd (supplyGood supply) s

/-- SUPPLY_LOST (R559): A supply falls below its falling threshold, with its listed consequence. -/
def execSupplyLost (supply : Fin 6) (s : State) : Host.Outcome State Fault Refusal :=
  runCmd (supplyLost supply) s

/-- NRST_PULSE (R527): An external low pulse on nRST is accepted as an L2 trigger. -/
def execNrstPulse (width : Nat) (s : State) : Host.Outcome State Fault Refusal :=
  runCmd (nrstPulse width) s

/-- RESET_STRETCH_END (R528): The 5 ms stretch ends and nRST is released. -/
def execResetStretchEnd (pinHigh : Bool) (s : State) : Host.Outcome State Fault Refusal :=
  runCmd (resetStretchEnd pinHigh) s

/-- NRST_RELEASE (R528): An externally held nRST has been high for 1 us and start-up begins. -/
def execNrstRelease (s : State) : Host.Outcome State Fault Refusal :=
  runCmd (nrstRelease) s

/-- WATCHDOG_EXPIRE (R531): The interpreter has not completed its service cycle for 20 ms, an L3 trigger. -/
def execWatchdogExpire (s : State) : Host.Outcome State Fault Refusal :=
  runCmd (watchdogExpire) s

/-- OPTION_LOAD (R533): The loader reads the option image, primary or mirror, or takes safe defaults. -/
def execOptionLoad (tableOk : Bool) (badKeys : BitVec 16) (badRecs : List Nat) (s : State) : Host.Outcome State Fault Refusal :=
  runCmd (loadOptions tableOk badKeys badRecs) s

/-- SELF_CHECK_DONE (R538): The BOOT self-check ends, stopping BOOT or setting SELF_FAIL on failure. -/
def execSelfCheckDone (rom : Bool) (ram : Bool) (kat : Bool) (trng : Bool) (s : State) : Host.Outcome State Fault Refusal :=
  runCmd (selfCheckDone rom ram kat trng) s

/-- PATCH_VERIFY (R485): The loader verifies an armed patch and its security version, and applies or rejects it. -/
def execPatchVerify (slot : Fin 4) (sigOk : Bool) (s : State) : Host.Outcome State Fault Refusal :=
  runCmd (patchVerify slot sigOk) s

/-- BOOT_END (R537): The interpreter runs, the time source is chosen and the mode is set. -/
def execBootEnd (t : Nat) (elapsed : Nat) (s : State) : Host.Outcome State Fault Refusal :=
  runCmd (bootEnd t elapsed) s

/-- INTERPRETER_RESTART (R539): After an L3 reset or PD2 brownout the interpreter and planner restart and set
RESTART_SEQ. -/
def execInterpreterRestart (s : State) : Host.Outcome State Fault Refusal :=
  runCmd (interpreterRestart) s

/-- BLOCK_RESET_DONE (R540): A block reset of a quad, the Locker or a Cenov port completes. -/
def execBlockResetDone (s : State) : Host.Outcome State Fault Refusal :=
  runCmd (blockResetDone) s

/-- BLOCK_RESET_HUNG (R541): A block reset that has not completed within 1 ms is marked hung. -/
def execBlockResetHung (s : State) : Host.Outcome State Fault Refusal :=
  runCmd (blockResetHung) s

end Sys2Proof.Machine
end

