-- ==== Sys2Proof/Machine/CmdDrive.lean ====
section
/-!
DEFINITION. The meaning of each command of current control, PWM, wave tables, probes and gate drive.
-/

namespace Sys2Proof.Machine

/-- SAMPLE_INSTANT (R38): A control computation starts at the sample instant half a period before its update point, and
the current ADCs sample. -/
def execSampleInstant (a : Axis) (s : State) : Host.Outcome State Fault Refusal :=
  runCmd (sampleInstant a) s

/-- COMPUTATION_DONE (R154): The current controller and observer complete and deliver edge values for the update point.
-/
def execComputationDone (a : Axis) (t : Nat) (s : State) : Host.Outcome State Fault Refusal :=
  runCmd (timed t (computationDone a)) s

/-- BOOST_TIMEOUT (R182): BOOST_TIME elapses without recovery, and the FALLBACK reaction applies. -/
def execBoostTimeout (a : Axis) (s : State) : Host.Outcome State Fault Refusal :=
  runCmd (boostTimeout a) s

/-- UPDATE_POINT (R39): Staged edge values take effect, or the previous ones repeat and LATE increments. -/
def execUpdatePoint (a : Axis) (s : State) : Host.Outcome State Fault Refusal :=
  runCmd (updatePoint a) s

/-- PERIOD_BOUNDARY (R200): At a PWM period boundary a pending commit takes effect, edges are clamped, refresh pulses
are inserted and held interlock legs release. -/
def execPeriodBoundary (chan : Chan) (s : State) : Host.Outcome State Fault Refusal :=
  runCmd (chanBoundary chan) s

/-- PWM_COMMIT (R199): A write of COMMIT copies an axis or privileged staging set into the pending set, or is refused.
-/
def execPwmCommit (chan : Chan) (s : State) : Host.Outcome State Fault Refusal :=
  runCmd (chanCommit chan) s

/-- WT_SWAP (R140): SWAP arms a wave-table swap that users take up at their full-step boundaries. -/
def execWtSwap (table : Fin 8) (s : State) : Host.Outcome State Fault Refusal :=
  runCmd (strobe .hp false (F.WT_CTRL.SWAP table)) s

/-- WT_FILL (R138): FILL builds a full period in the shadow buffer from the quarter wave. -/
def execWtFill (table : Fin 8) (s : State) : Host.Outcome State Fault Refusal :=
  runCmd (strobe .hp false (F.WT_CTRL.FILL table)) s

/-- WT_REVERT (R139): REVERT copies the active buffer into the shadow buffer. -/
def execWtRevert (table : Fin 8) (s : State) : Host.Outcome State Fault Refusal :=
  runCmd (strobe .hp false (F.WT_CTRL.REVERT table)) s

/-- WT_OP_DONE (R138): A fill, revert or post-swap copy ends, and BUSY or SWAP_PEND clears. -/
def execWtOpDone (table : Fin 8) (s : State) : Host.Outcome State Fault Refusal :=
  runCmd (wtOpDone table) s

/-- AX_WAVE_TABLE_WRITE (R143): A write of AX_WAVE.TABLE makes the table change pending until the next full-step
boundary. -/
def execAxWaveTableWrite (a : Axis) (n : BitVec 3) (s : State) : Host.Outcome State Fault Refusal :=
  runCmd (fieldWrite .hp false (F.AX_WAVE.TABLE a) n.toNat) s

/-- CHOP_BLANK_END (R161): At the end of CHOP_BLANK the chopper begins to watch the comparator, and a comparator already
active counts toward CHOP_SHORT. -/
def execChopBlankEnd (a : Axis) (w : Fin 2) (x : Samples) (s : State) : Host.Outcome State Fault Refusal :=
  runCmd (chopBlankEnd a w x) s

/-- CHOP_OFF (R161): The chopper leaves the on state at an active comparator or after one period and enters the DECAY
off state. -/
def execChopOff (a : Axis) (w : Fin 2) (x : Samples) (s : State) : Host.Outcome State Fault Refusal :=
  runCmd (timed x.t (chopOff a w x)) s

/-- CHOP_TOFF_END (R161): TOFF expires and the chopper enters the on state again. -/
def execChopToffEnd (a : Axis) (w : Fin 2) (s : State) : Host.Outcome State Fault Refusal :=
  runCmd (chopToffEnd a w) s

/-- PROBE_AUTO (R188): Every PROBE_EVERY a probe burst starts if its conditions hold. -/
def execProbeAuto (a : Axis) (s : State) : Host.Outcome State Fault Refusal :=
  runCmd (probeAuto a) s

/-- PROBE_PERIOD (R189): At the start of each probe period a voltage pulse pair is added along the next direction. -/
def execProbePeriod (a : Axis) (di : Int) (s : State) : Host.Outcome State Fault Refusal :=
  runCmd (probeStep a di) s

/-- PROBE_DONE (R190): At the end of a burst the device fits the inductance and writes PROBE_SAL and PROBE_DISP. -/
def execProbeDone (a : Axis) (di : Int) (s : State) : Host.Outcome State Fault Refusal :=
  runCmd (probeDone a di) s

/-- TRIP_ACTIVE (R217): An accepted TRIPn forces its axes into HIZ or SHORT and, with LATCH, latches a trip fault. -/
def execTripActive (n : Fin 4) (t : Nat) (s : State) : Host.Outcome State Fault Refusal :=
  runCmd (onPins (timed t (tripActive n))) s

/-- TRIP_INACTIVE (R218): A trip source becomes inactive, and a non-latched forced state ends at the next period
boundary. -/
def execTripInactive (n : Fin 4) (t : Nat) (s : State) : Host.Outcome State Fault Refusal :=
  runCmd (onPins (timed t (tripInactive n))) s

/-- OC_TRIP (R236): A filtered shunt comparator trip turns off the conducting low side and latches OC. -/
def execOcTrip (a : Axis) (w : Fin 2) (x : Samples) (s : State) : Host.Outcome State Fault Refusal :=
  runCmd (timed x.t (ocTrip a w x)) s

/-- SN_TRIP (R235): A switch-node comparator trip turns off the checked switch and latches SN_HS or SN_LS. -/
def execSnTrip (a : Axis) (leg : Leg) (hs : Bool) (x : Samples) (s : State) : Host.Outcome State Fault Refusal :=
  runCmd (snTrip a leg hs x) s

/-- CROSS_OVERLAP (R228): An overlap of both gate commands of a leg holds the leg off until the period boundary and may
latch CROSS. -/
def execCrossOverlap (a : Axis) (leg : Leg) (t : Nat) (s : State) : Host.Outcome State Fault Refusal :=
  runCmd (timed t (crossOverlap a leg)) s

/-- ESC_WIN_CLOSE (R238): An escalation window closes without a second fault. -/
def execEscWinClose (a : Axis) (s : State) : Host.Outcome State Fault Refusal :=
  runCmd (escWinClose a) s

/-- BST_LOW (R232): The bootstrap comparator trips and turns the high side off. -/
def execBstLow (a : Axis) (leg : Leg) (t : Nat) (s : State) : Host.Outcome State Fault Refusal :=
  runCmd (timed t (bstLow a leg)) s

/-- BST_LOW_RELEASE (R232): The bootstrap comparator releases at 8.0 V. -/
def execBstLowRelease (a : Axis) (leg : Leg) (t : Nat) (s : State) : Host.Outcome State Fault Refusal :=
  runCmd (timed t (bstLowRelease a leg)) s

/-- CP_UV (R230): The charge pump falls under voltage and the quad enters bootstrap fall-back or its energised axes
fault. -/
def execCpUv (q : Quad) (t : Nat) (s : State) : Host.Outcome State Fault Refusal :=
  runCmd (timed t (cpUv q)) s

/-- CP_GOOD (R230): The charge pump has stayed good for 1 ms and CP_OK sets. -/
def execCpGood (q : Quad) (t : Nat) (s : State) : Host.Outcome State Fault Refusal :=
  runCmd (timed t (cpGood q)) s

/-- VGS_UV (R233): VGS under voltage holds every gate low and faults energised axes. -/
def execVgsUv (t : Nat) (s : State) : Host.Outcome State Fault Refusal :=
  runCmd (timed t fun s => vgsUv (supplyBit 5 false s)) s

/-- VGS_GOOD (R233): VGS rises above 10.3 V and is good again. -/
def execVgsGood (t : Nat) (s : State) : Host.Outcome State Fault Refusal :=
  runCmd (timed t fun s => vgsGood (supplyBit 5 true s)) s

/-- VM_OV_TRIP (R251): VMq reaches OV_TRIP and every axis of the quad with enable faults into a forced SHORT. -/
def execVmOvTrip (q : Quad) (x : Samples) (s : State) : Host.Outcome State Fault Refusal :=
  runCmd (timed x.t (vmSamples q 2 x)) s

/-- VM_OV_CLEAR (R251): VMq falls below BRK_ON and OV_ACT clears. -/
def execVmOvClear (q : Quad) (x : Samples) (s : State) : Host.Outcome State Fault Refusal :=
  runCmd (timed x.t (vmSamples q 2 x)) s

/-- VM_UV_TRIP (R252): VMq falls below UV_TRIP and the quad's axes fault or are held in high impedance. -/
def execVmUvTrip (q : Quad) (x : Samples) (s : State) : Host.Outcome State Fault Refusal :=
  runCmd (timed x.t (vmSamples q 0 x)) s

/-- VM_UV_CLEAR (R252): VMq rises above UV_OFF and UV_ACT clears. -/
def execVmUvClear (q : Quad) (x : Samples) (s : State) : Host.Outcome State Fault Refusal :=
  runCmd (timed x.t (vmSamples q 0 x)) s

/-- BRAKE_DECISION (R250): The BRK comparator decides to start or stop the brake chopper at its next period boundary. -/
def execBrakeDecision (q : Quad) (raw : List Bool) (t : Nat) (s : State) : Host.Outcome State Fault Refusal :=
  runCmd (timed t (vmSamples q 1 { t := t, raw := raw })) s

/-- DIAG_START (R245): A pending diagnostic run starts once BOOT has ended and its conditions hold. -/
def execDiagStart (q : Quad) (s : State) : Host.Outcome State Fault Refusal :=
  runCmd (diagStart q) s

/-- DIAG_PHASE_END (R246): A 375 us diagnostic phase ends and its node readings are judged. -/
def execDiagPhaseEnd (a : Axis) (v0 : Nat) (v1 : Nat) (v2 : Nat) (v3 : Nat) (s : State) : Host.Outcome State Fault Refusal :=
  runCmd (diagPhaseEnd a v0 v1 v2 v3) s

/-- LEG_EDGE (R205): At a placed rising or falling leg edge, one gate command turns off and, after DLY_R or DLY_F and
the dead-time floor, the other turns on. -/
def execLegEdge (a : Axis) (leg : Leg) (rising : Bool) (s : State) : Host.Outcome State Fault Refusal :=
  runCmd (legEdge a leg rising) s

end Sys2Proof.Machine
end

