-- ==== Sys2Proof/Machine/CmdFrames.lean ====
section
/-!
DEFINITION. The meaning of each command of frames at the ports, the opcodes of the command set and the commands that complete them.
-/

namespace Sys2Proof.Machine

/-- FRAME_RECEIVE (R315): At select release the port checks bit count, CRC, MAC, readiness and rally count of a received
frame and discards it or passes it on. -/
def execFrameReceive (w : Window) (s : State) : Host.Outcome State Fault Refusal :=
  runCmd (frameReceive w) s

/-- HP_MASTER_TRANSFER (R326): With HP in the master role the device starts a transfer after T_IDLE and POLL once its
reply is ready. -/
def execHpMasterTransfer (w : Window) (s : State) : Host.Outcome State Fault Refusal :=
  runCmd (hpMasterTransfer w) s

/-- NOP (R314): NOP moves the rally count and collects the reply, with no other effect. -/
def execNop (f : Req) (s : State) : Host.Outcome State Fault Refusal :=
  runCmd (frameCommand 0x00 (fun _ s => (s, .plain)) f) s

/-- RALLY_SYNC (R314): Rally sync is accepted whatever its ALIVE, sets E to ALIVE + 1 and empties the reply store. -/
def execRallySync (f : Req) (s : State) : Host.Outcome State Fault Refusal :=
  runCmd (frameCommand 0x01 (fun _ s => (s, .plain)) f) s

/-- COLLECT (R358): COLLECT returns the routed reply held in the Captain's route-return store, or PENDING, NOT_FOUND or
LINK_DOWN. -/
def execCollect (f : Req) (s : State) : Host.Outcome State Fault Refusal :=
  runCmd (frameCommand 0x02 opCollect f) s

/-- GET_STATUS (R340): GET_STATUS returns mode, identity, LAST_COMMITTED_SEQ, CMD_STAT, PLN_STATUS and HP_ATTN without
read side effects. -/
def execGetStatus (f : Req) (s : State) : Host.Outcome State Fault Refusal :=
  runCmd (frameCommand 0x03 (fun _ s => opGetStatus s) f) s

/-- GET_RETIRE (R354): GET_RETIRE returns up to 14 retirement log entries from the requested sequence number. -/
def execGetRetire (f : Req) (s : State) : Host.Outcome State Fault Refusal :=
  runCmd (frameCommand 0x04 opGetRetire f) s

/-- MODE (R503): MODE requests a device mode transition, which is permitted, refused or begun. -/
def execMode (f : Req) (s : State) : Host.Outcome State Fault Refusal :=
  runCmd (frameCommand 0x05 opMode f) s

/-- RESET (R341): RESET with its key requests a device reset at L2 or L3 or a block reset of a quad, the Locker or a
Cenov port. -/
def execReset (f : Req) (s : State) : Host.Outcome State Fault Refusal :=
  runCmd (frameCommand 0x06 opReset f) s

/-- RESET_BEGIN (R341): An accepted RESET begins at the release of the next window on the receiving port, or 1 ms after
acceptance. -/
def execResetBegin (s : State) : Host.Outcome State Fault Refusal :=
  runCmd (resetBegin) s

/-- AXIS_REARM (R340): AXIS_REARM produces a rearm edge on every masked axis at one instant. -/
def execAxisRearm (f : Req) (s : State) : Host.Outcome State Fault Refusal :=
  runCmd (frameCommand 0x07 opAxisRearm f) s

/-- IDENT (R340): IDENT returns PART, the lifecycle state and IDCODE. -/
def execIdent (f : Req) (s : State) : Host.Outcome State Fault Refusal :=
  runCmd (frameCommand 0x08 (fun _ s => opIdent s) f) s

/-- RESULT (R356): RESULT returns PENDING, NOT_FOUND, or the final status and result words of a ticket. -/
def execResult (f : Req) (s : State) : Host.Outcome State Fault Refusal :=
  runCmd (frameCommand 0x09 opResult f) s

/-- REG_READ (R364): REG_READ reads 1 to 28 words in ascending order, each with the read side effects of its access
code. -/
def execRegRead (f : Req) (s : State) : Host.Outcome State Fault Refusal :=
  runCmd (frameCommand 0x10 opRegRead f) s

/-- REG_WRITE (R343): REG_WRITE performs address-data pairs in payload order and ends at the first failing write. -/
def execRegWrite (f : Req) (s : State) : Host.Outcome State Fault Refusal :=
  runCmd (frameCommand 0x11 opRegWrite f) s

/-- REG_BLOCK_WRITE (R367): REG_BLOCK_WRITE writes consecutive words from a start address with one access type. -/
def execRegBlockWrite (f : Req) (s : State) : Host.Outcome State Fault Refusal :=
  runCmd (frameCommand 0x12 opRegBlockWrite f) s

/-- REGISTER_WRITE (R367): A write to a register with no behaviour of its own passes the write checks and takes effect
on the whole register at one instant. -/
def execRegisterWrite (addr : BitVec 24) (typ : BitVec 2) (data : Word) (s : State) : Host.Outcome State Fault Refusal :=
  runCmd (hostWrite .hp false (addr.toNat / 4 * 4) typ.toNat data) s

/-- UNLOCK_ARM (R371): A write to SYS_UNLOCK arms the unlock with 0x5A3C or consumes and disarms it otherwise. -/
def execUnlockArm (key : BitVec 16) (s : State) : Host.Outcome State Fault Refusal :=
  runCmd (hostWrite .hp false F.SYS_UNLOCK.all.addr 0 (key.setWidth 32)) s

/-- WIDE_LO_LATCH (R378): A write to LO of AX_CAM_OFFSET or AX_CAM_ORIGIN is latched, and the next HI write in the frame
applies both. -/
def execWideLoLatch (a : Axis) (origin : Bool) (data : Word) (s : State) : Host.Outcome State Fault Refusal :=
  runCmd (hostWrite .hp false (if origin then F.AX_CAM_ORIGIN_LO.all a else F.AX_CAM_OFFSET_LO.all a).addr 0 data) s

/-- MOVE (R46): MOVE is range-checked against the carried-forward base and queued with a sequence number. -/
def execMove (f : Req) (s : State) : Host.Outcome State Fault Refusal :=
  runCmd (frameCommand 0x20 opMove f) s

/-- JOG (R54): JOG is a cut command that changes the axis to a commanded velocity and cancels its other queued commands.
-/
def execJog (f : Req) (s : State) : Host.Outcome State Fault Refusal :=
  runCmd (frameCommand 0x21 opJog f) s

/-- STOP (R79): STOP is a cut command that stops the axis in a controlled manner and keeps its remaining distance. -/
def execStop (f : Req) (s : State) : Host.Outcome State Fault Refusal :=
  runCmd (frameCommand 0x22 opStop f) s

/-- RESUME (R82): RESUME plans a move from standstill to the stored target of the interrupted MOVE. -/
def execResume (f : Req) (s : State) : Host.Outcome State Fault Refusal :=
  runCmd (frameCommand 0x23 opResume f) s

/-- POS_SET (R344): POS_SET sets AX_POS and AX_TARGET at standstill, clears REMAIN_VALID and POSITION_UNCERTAIN, and
latches the encoder references. -/
def execPosSet (f : Req) (s : State) : Host.Outcome State Fault Refusal :=
  runCmd (frameCommand 0x24 opPosSet f) s

/-- SOURCE (R97): SOURCE changes the axis's motion source when the axis is ARMED or STOPPED with an empty queue. -/
def execSource (f : Req) (s : State) : Host.Outcome State Fault Refusal :=
  runCmd (frameCommand 0x30 opSource f) s

/-- ENGAGE (R113): ENGAGE starts gearing or puts a CAM axis in WAITING on a master channel. -/
def execEngage (f : Req) (s : State) : Host.Outcome State Fault Refusal :=
  runCmd (frameCommand 0x31 opEngage f) s

/-- EXIT (R100): EXIT takes a follower out of its source at the cut instant or at the cam exit point. -/
def execExit (f : Req) (s : State) : Host.Outcome State Fault Refusal :=
  runCmd (frameCommand 0x32 opExit f) s

/-- GEAR_RATIO (R114): GEAR_RATIO takes up a new ratio and ramp and sets a new origin at the next half-period boundary.
-/
def execGearRatio (f : Req) (s : State) : Host.Outcome State Fault Refusal :=
  runCmd (frameCommand 0x33 opGearRatio f) s

/-- CAM_NEXT (R126): CAM_NEXT validates a second table and holds it for a switch at the next cycle boundary. -/
def execCamNext (f : Req) (s : State) : Host.Outcome State Fault Refusal :=
  runCmd (frameCommand 0x34 opCamNext f) s

/-- MEAS_READ (R346): MEAS_READ returns ten measurement words of an axis taken between two computations. -/
def execMeasRead (f : Req) (s : State) : Host.Outcome State Fault Refusal :=
  runCmd (frameCommand 0x40 opMeasRead f) s

/-- PROBE (R188): PROBE starts a standstill probe burst when the axis holds at standstill under PI. -/
def execProbe (f : Req) (s : State) : Host.Outcome State Fault Refusal :=
  runCmd (frameCommand 0x41 opProbe f) s

/-- LK_READ (R396): LK_READ returns 1 to 28 words of the Locker outside the system region. -/
def execLkRead (f : Req) (s : State) : Host.Outcome State Fault Refusal :=
  runCmd (frameCommand 0x50 opLkRead f) s

/-- LK_WRITE (R347): LK_WRITE writes one to three whole Locker lines in MAINT and replies STARTED. -/
def execLkWrite (f : Req) (s : State) : Host.Outcome State Fault Refusal :=
  runCmd (frameCommand 0x51 opLkWrite f) s

/-- LK_READ_TIMEOUT (R396): A Locker read whose lines are not all read within 3 us replies BUSY and increments
READ_BUSY. -/
def execLkReadTimeout (port : Port) (key : ReadKey) (s : State) : Host.Outcome State Fault Refusal :=
  runCmd (lkReadTimeout port key) s

/-- RECIPE_ARM (R402): RECIPE_ARM queues the arming of a recipe slot. -/
def execRecipeArm (f : Req) (s : State) : Host.Outcome State Fault Refusal :=
  runCmd (frameCommand 0x52 opRecipeArm f) s

/-- RECIPE_ARM_TAKE_UP (R402): The interpreter takes up RECIPE_ARM once earlier commands are taken up, and checks and
loads the recipe into the shadow configuration. -/
def execRecipeArmTakeUp (s : State) : Host.Outcome State Fault Refusal :=
  runCmd (whileRunning recipeArmTakeUp) s

/-- RECIPE_APPLY (R404): RECIPE_APPLY queues the application of the armed recipe at the next Whistle or at a stack time.
-/
def execRecipeApply (f : Req) (s : State) : Host.Outcome State Fault Refusal :=
  runCmd (frameCommand 0x53 opRecipeApply f) s

/-- RECIPE_APPLY_TAKE_UP (R404): The interpreter takes up RECIPE_APPLY after earlier commands and schedules the apply,
with a Whistle for AT = 1. -/
def execRecipeApplyTakeUp (s : State) : Host.Outcome State Fault Refusal :=
  runCmd (whileRunning recipeApplyTakeUp) s

/-- RECIPE_WAVE_COPY (R404): A recipe wave table whose table had a swap pending or was busy is copied and armed once
both have cleared. -/
def execRecipeWaveCopy (table : Fin 8) (s : State) : Host.Outcome State Fault Refusal :=
  runCmd (recipeWaveCopy table) s

/-- TRACE_READ (R409): TRACE_READ returns words of the trace ring at an offset. -/
def execTraceRead (f : Req) (s : State) : Host.Outcome State Fault Refusal :=
  runCmd (frameCommand 0x54 opTraceRead f) s

/-- SNAP (R348): SNAP raises a Whistle and returns the LTIME of the latch. -/
def execSnap (f : Req) (s : State) : Host.Outcome State Fault Refusal :=
  runCmd (frameCommand 0x60 (fun _ s => opSnap s) f) s

/-- WHISTLE_AT (R441): WHISTLE_AT schedules a Whistle at a stack time and broadcasts the schedule. -/
def execWhistleAt (f : Req) (s : State) : Host.Outcome State Fault Refusal :=
  runCmd (frameCommand 0x61 opWhistleAt f) s

/-- SNAP_READ (R459): SNAP_READ returns words of one block's snapshot set, all from one latch. -/
def execSnapRead (f : Req) (s : State) : Host.Outcome State Fault Refusal :=
  runCmd (frameCommand 0x62 opSnapRead f) s

/-- STACK_INFO (R348): STACK_INFO returns the stack size, own ID, Captain bit and ROLE_CONFLICT. -/
def execStackInfo (f : Req) (s : State) : Host.Outcome State Fault Refusal :=
  runCmd (frameCommand 0x63 (fun _ s => opStackInfo s) f) s

/-- SESSION_OPEN (R487): SESSION_OPEN checks the host key and role and returns an ephemeral device key and nonce. -/
def execSessionOpen (f : Req) (mac : Bool) (s : State) : Host.Outcome State Fault Refusal :=
  runCmd (frameCommand 0x70 (fun f s => opSessionOpen f mac s) f) s

/-- SESSION_CONFIRM (R487): SESSION_CONFIRM checks the host confirmation tag and opens the session. -/
def execSessionConfirm (f : Req) (s : State) : Host.Outcome State Fault Refusal :=
  runCmd (frameCommand 0x71 opSessionConfirm f) s

/-- SESSION_CLOSE (R490): SESSION_CLOSE ends the session of its own port. -/
def execSessionClose (f : Req) (s : State) : Host.Outcome State Fault Refusal :=
  runCmd (frameCommand 0x72 opSessionClose f) s

/-- KEY_INSTALL (R484): KEY_INSTALL verifies and installs a public key in a slot with a higher serial. -/
def execKeyInstall (f : Req) (s : State) : Host.Outcome State Fault Refusal :=
  runCmd (frameCommand 0x73 opKeyInstall f) s

/-- LIFECYCLE (R491): LIFECYCLE moves the fused lifecycle state forward under its conditions. -/
def execLifecycle (f : Req) (s : State) : Host.Outcome State Fault Refusal :=
  runCmd (frameCommand 0x74 opLifecycle f) s

/-- PATCH_LOAD (R485): PATCH_LOAD verifies a firmware patch against slot 0, writes it and arms it for the next L2. -/
def execPatchLoad (f : Req) (s : State) : Host.Outcome State Fault Refusal :=
  runCmd (frameCommand 0x75 opPatchLoad f) s

/-- BACKSTOP_SET (R469): BACKSTOP_SET writes Backstop limits in the BK block in CONFIG, and the quad copies follow. -/
def execBackstopSet (f : Req) (s : State) : Host.Outcome State Fault Refusal :=
  runCmd (frameCommand 0x76 opBackstopSet f) s

/-- AUDIT_READ (R494): AUDIT_READ returns one audit log entry. -/
def execAuditRead (f : Req) (s : State) : Host.Outcome State Fault Refusal :=
  runCmd (frameCommand 0x77 opAuditRead f) s

/-- TRNG_READ (R492): TRNG_READ returns random words from the DRBG. -/
def execTrngRead (f : Req) (s : State) : Host.Outcome State Fault Refusal :=
  runCmd (frameCommand 0x78 opTrngRead f) s

/-- DIAG_RUN (R245): DIAG_RUN requests off-state diagnostic runs on the masked axes. -/
def execDiagRun (f : Req) (s : State) : Host.Outcome State Fault Refusal :=
  runCmd (frameCommand 0x80 opDiagRun f) s

/-- AUX_XFER (R327): AUX_XFER queues a commanded AUX transfer of 8 to 1,024 bits and replies STARTED. -/
def execAuxXfer (f : Req) (s : State) : Host.Outcome State Fault Refusal :=
  runCmd (frameCommand 0x81 opAuxXfer f) s

/-- TICKET_RESULT (R356): A command that replied STARTED completes and stores its final status and result under its
ticket. -/
def execTicketResult (ticket : BitVec 8) (good : Bool) (svn : BitVec 5) (s : State) : Host.Outcome State Fault Refusal :=
  runCmd (inDomain 1 (ticketResult ticket good svn)) s

end Sys2Proof.Machine
end

