-- ==== Sys2Proof/Machine/CmdLinks.lean ====
section
/-!
DEFINITION. The meaning of each command of the Cenov link, the stack and the Whistle.
-/

namespace Sys2Proof.Machine

/-- LINK_UP (R422): A Cenov port completes training and sets LINK_UP. -/
def execLinkUp (l : Link) (pings : List Ping) (s : State) : Host.Outcome State Fault Refusal :=
  runCmd (onPins (linkComesUp l pings)) s

/-- LINK_DOWN (R422): A lane loses lock or a flit fails eight replays, and the link goes down and retrains. -/
def execLinkDown (l : Link) (s : State) : Host.Outcome State Fault Refusal :=
  runCmd (fun s => resetLeaves (linkGoesDown l s)) s

/-- TRAIN_FAIL (R446): Training does not complete within 200 us of partner detection. -/
def execTrainFail (l : Link) (s : State) : Host.Outcome State Fault Refusal :=
  runCmd (trainFail l) s

/-- FLIT_RECEIVE (R426): A received flit is checked for CRC and order, acknowledged or answered with NAK, and forwarded
cut-through. -/
def execFlitReceive (l : Link) (bytes : List Byte) (sample : Option MchData) (t : Nat) (s : State) : Host.Outcome State Fault Refusal :=
  runCmd (fun s => resetLeaves (flitReceive l bytes sample t s)) s

/-- NAK_RECEIVE (R426): A NAK makes the sender replay every flit from the named SEQ. -/
def execNakReceive (l : Link) (seq : BitVec 5) (s : State) : Host.Outcome State Fault Refusal :=
  runCmd (fun s => resetLeaves (nakReceive l seq s)) s

/-- TIME_SEND (R432): Every 1 us a Captain or locked squad member sends a TIME flit on DN. -/
def execTimeSend (s : State) : Host.Outcome State Fault Refusal :=
  runCmd (timeSend) s

/-- TIME_RECEIVE (R433): A TIME flit updates the time error and rate, and steps or slews an unlocked LTIME. -/
def execTimeReceive (time : List Byte) (mark : Byte) (hops : Byte) (t : Nat) (s : State) : Host.Outcome State Fault Refusal :=
  runCmd (timeReceive time mark hops t) s

/-- TIME_LOCK (R434): The time error stays within 1 ns for 100 us and TIME_LOCK sets. -/
def execTimeLock (t : Nat) (s : State) : Host.Outcome State Fault Refusal :=
  runCmd (timeLock t) s

/-- PING_EXCHANGE (R433): Every 100 us a PING exchange refreshes the link delay measurement. -/
def execPingExchange (x : Ping) (s : State) : Host.Outcome State Fault Refusal :=
  runCmd (pingExchange x) s

/-- ENUM_RECEIVE (R430): An ENUM flit offers an ID, which a squad member takes or a Captain answers with a conflict. -/
def execEnumReceive (id : BitVec 5) (s : State) : Host.Outcome State Fault Refusal :=
  runCmd (inDomain 8 (enumReceive id)) s

/-- ENUM_END_RECEIVE (R430): ENUM_END reports the stack size upward, with overflow or conflict. -/
def execEnumEndReceive (count : BitVec 5) (ovf : Bool) (conf : Bool) (s : State) : Host.Outcome State Fault Refusal :=
  runCmd (inDomain 8 (enumEndReceive count ovf conf)) s

/-- DN_PARTNER_TIMEOUT (R430): A device whose DN port has no partner within 1 ms is the last device and sends ENUM_END.
-/
def execDnPartnerTimeout (s : State) : Host.Outcome State Fault Refusal :=
  runCmd (dnPartnerTimeout) s

/-- FRAME_FLIT_RECEIVE (R357): A squad member receives a routed frame and executes it against its own state. -/
def execFrameFlitReceive (idx : BitVec 4) (h : Word) (words : List Word) (t : Nat) (s : State) : Host.Outcome State Fault Refusal :=
  runCmd (frameFlitReceive idx h words t) s

/-- REPLY_FLIT_RECEIVE (R358): A routed reply reaches the Captain's route-return store. -/
def execReplyFlitReceive (idx : BitVec 4) (h : Word) (words : List Word) (s : State) : Host.Outcome State Fault Refusal :=
  runCmd (inDomain 8 (replyFlitReceive idx h words)) s

/-- BCAST_RECEIVE (R439): A broadcast is forwarded and acted on: a Whistle schedule, a stack reset or a gather request.
-/
def execBcastReceive (b : Bcast) (l : Link) (s : State) : Host.Outcome State Fault Refusal :=
  runCmd (inDomain 8 (bcastReceive b l)) s

/-- BARRIER (R440): A write of BARRIER on the Captain starts a barrier down the stack. -/
def execBarrier (s : State) : Host.Outcome State Fault Refusal :=
  runCmd (strobe .hp false F.CV_CTRL.BARRIER) s

/-- BARRIER_RECEIVE (R440): A BARRIER flit is forwarded once earlier frames and broadcasts are handled, or ends the
barrier at the Captain. -/
def execBarrierReceive (fromUp : Bool) (t : Nat) (s : State) : Host.Outcome State Fault Refusal :=
  runCmd (inDomain 8 (barrierReceive fromUp t)) s

/-- GATHER (R443): A write of GATHER on the Captain starts a stack snapshot read-out. -/
def execGather (s : State) : Host.Outcome State Fault Refusal :=
  runCmd (strobe .hp false F.CV_CTRL.GATHER) s

/-- DATA_RECEIVE (R443): A squad member's snapshot DATA message fills its gather slot, and the read-out may complete. -/
def execDataReceive (src : BitVec 4) (valid : Bool) (latch : Nat) (words : List Word) (s : State) : Host.Outcome State Fault Refusal :=
  runCmd (inDomain 8 (dataReceive src valid latch words)) s

/-- STACK_RESET (R442): A write to CV_STK_RST with its key broadcasts a stack reset at the chosen level. -/
def execStackReset (level : BitVec 2) (key : BitVec 16) (s : State) : Host.Outcome State Fault Refusal :=
  runCmd (hostWrite .hp false F.CV_STK_RST.all.addr 0 (BitVec.ofNat 32 (key.toNat + level.toNat * 65536))) s

/-- CAPT_LOST (R436): A squad member whose UP link drops or that sees no TIME flit for 4 us loses its Captain and starts
LOSS_TMO. -/
def execCaptLost (t : Nat) (s : State) : Host.Outcome State Fault Refusal :=
  runCmd (captLostAt t) s

/-- LOSS_TMO_EXPIRE (R436): LOSS_TMO ends and the squad member enters SAFE. -/
def execLossTmoExpire (s : State) : Host.Outcome State Fault Refusal :=
  runCmd (lossTmoExpire) s

/-- SCHEDULED_WHISTLE (R441): A device's stack time reaches a held Whistle schedule. -/
def execScheduledWhistle (s : State) : Host.Outcome State Fault Refusal :=
  runCmd (inDomain 1 scheduledWhistle) s

/-- WHSL_EDGE (R449): A filtered falling edge on WHSL raises a Whistle. -/
def execWhslEdge (rising : Bool) (x : Level) (s : State) : Host.Outcome State Fault Refusal :=
  runCmd (inDomain 1 (onPins (whslEdge rising x))) s

/-- WHISTLE_DRIVE_END (R451): After WH_PULSE the device releases WHSL. -/
def execWhistleDriveEnd (s : State) : Host.Outcome State Fault Refusal :=
  runCmd (whistleDriveEnd) s

/-- WHISTLE_HOLDOFF_END (R452): The hold-off after a latch ends. -/
def execWhistleHoldoffEnd (s : State) : Host.Outcome State Fault Refusal :=
  runCmd (whistleHoldoffEnd) s

end Sys2Proof.Machine
end

