-- ==== Sys2Proof/Machine/CmdMoves.lean ====
section
/-!
DEFINITION. The meaning of each command of planner, executor, step following and master channels.
-/

namespace Sys2Proof.Machine

/-- PLANNER_TAKE_UP (R51): The planner takes up the next command of an axis in sequence order, captures its profile set
and plans it. -/
def execPlannerTakeUp (a : Axis) (t : Nat) (s : State) : Host.Outcome State Fault Refusal :=
  runCmd (timed t (whileRunning (plannerTakeUp a))) s

/-- SEGMENT_COMPUTED (R68): The planner completes the computation of one segment and chooses its next work. -/
def execSegmentComputed (t : Nat) (s : State) : Host.Outcome State Fault Refusal :=
  runCmd (timed t (whileRunning segmentComputed)) s

/-- SEGMENT_COMMIT (R67): A segment passes from the window into its axis queue once it is due and the queue has room. -/
def execSegmentCommit (a : Axis) (t : Nat) (s : State) : Host.Outcome State Fault Refusal :=
  runCmd (timed t (whileRunning (commitEnergise a))) s

/-- CUT_INSTANT (R77): At the cut instant the executor ends the current segment, drops later committed segments and
starts the new motion. -/
def execCutInstant (a : Axis) (s : State) : Host.Outcome State Fault Refusal :=
  runCmd (cutInstant a) s

/-- STARVATION (R84): The executor reaches the end of its last committed segment in motion and decelerates at the
Backstop acceleration. -/
def execStarvation (a : Axis) (t : Nat) (s : State) : Host.Outcome State Fault Refusal :=
  runCmd (starve a t) s

/-- PLANNER_STOP_RECORD (R81): When next able to act after a starvation, clamp or stall stop, the planner sets AX_TARGET
and the remaining distance and cancels the axis's queued commands. -/
def execPlannerStopRecord (a : Axis) (t : Nat) (s : State) : Host.Outcome State Fault Refusal :=
  runCmd (timed t (whileRunning (plannerStopRecord a))) s

/-- STILL_DELAY_EXPIRE (R89): After STILL_DELAY at standstill the axis applies its standstill policy. -/
def execStillDelayExpire (a : Axis) (s : State) : Host.Outcome State Fault Refusal :=
  runCmd (stillDelay a) s

/-- ENERGISE_DONE (R90): After ENERGISE at hold current from FREE or SHORT, the delayed segment starts. -/
def execEnergiseDone (a : Axis) (s : State) : Host.Outcome State Fault Refusal :=
  runCmd (energiseDone a) s

/-- HALF_PERIOD_BOUNDARY (R57): At each half-period boundary the executor or follow source forms the commanded position,
the scale slews, and the Backstop checks the motion. -/
def execHalfPeriodBoundary (a : Axis) (s : State) : Host.Outcome State Fault Refusal :=
  runCmd (fun s => prefetchNext a (halfBoundary a s)) s

/-- STEP_EDGE (R105): An accepted active STP edge moves the step target and updates the interpolation. -/
def execStepEdge (a : Axis) (rising : Bool) (dir : Held) (x : Level) (s : State) : Host.Outcome State Fault Refusal :=
  runCmd (onPins (stepEdge a rising dir x)) s

/-- MCH_SAMPLE (R108): A master channel samples its source every 5 us. -/
def execMchSample (c : Fin 4) (s : State) : Host.Outcome State Fault Refusal :=
  runCmd (inDomain 1 (mchSample c)) s

/-- MCH_PUBLISH (R110): A publishing channel sends one stamped sample over the Cenov link every 10 us. -/
def execMchPublish (c : Fin 4) (s : State) : Host.Outcome State Fault Refusal :=
  runCmd (inDomain 1 (mchPublish c)) s

/-- MCH_STALE (R111): A channel without a sample for STALE_T becomes stale and its followers leave. -/
def execMchStale (c : Fin 4) (s : State) : Host.Outcome State Fault Refusal :=
  runCmd (inDomain 1 (mchStaleTimeout c)) s

/-- MCH_CFG_WRITE (R112): A write to MCH_CFG changes the channel's source unless a follower uses it. -/
def execMchCfgWrite (c : Fin 4) (data : Word) (s : State) : Host.Outcome State Fault Refusal :=
  runCmd (hostWrite .hp false (F.MCH_CFG.all c).addr 0 data) s

end Sys2Proof.Machine
end

