-- ==== Sys2Proof/Machine/CmdSense.lean ====
section
/-!
DEFINITION. The meaning of each command of converters, monitors, feedback decoders and the AUX port.
-/

namespace Sys2Proof.Machine

/-- CURRENT_ADC_RESULT (R286): A current ADC writes a result, and under CHOP the overcurrent check is made. -/
def execCurrentAdcResult (a : Axis) (w : Fin 2) (c : Conversions) (s : State) : Host.Outcome State Fault Refusal :=
  runCmd (currentAdc a w [c.c0, c.c1, c.c2, c.c3]) s

/-- VOLTAGE_ADC_RESULT (R287): A voltage ADC writes the result of the next node in its round robin. -/
def execVoltageAdcResult (a : Axis) (code : Nat) (s : State) : Host.Outcome State Fault Refusal :=
  runCmd (voltageAdc a code) s

/-- AIN_ADC_RESULT (R288): The general ADC writes the result of the next enabled input. -/
def execAinAdcResult (code : Nat) (s : State) : Host.Outcome State Fault Refusal :=
  runCmd (ainAdc code) s

/-- TEMP_RESULT (R289): A temperature sensor writes a result and enters or leaves warning. -/
def execTempResult (n : Fin 6) (code : Int) (s : State) : Host.Outcome State Fault Refusal :=
  runCmd (tempResult n code) s

/-- AIN_WM_TRIP (R295): An AIN window comparator enters or leaves BELOW or ABOVE. -/
def execAinWmTrip (n : Fin 8) (high : Bool) (x : Samples) (s : State) : Host.Outcome State Fault Refusal :=
  runCmd (inDomain 1 (ainWmTrip n high x)) s

/-- WM_DWELL_END (R299): An unsettled monitor comparator ends a dwell, may be decided, and changes threshold. -/
def execWmDwellEnd (n : Fin 12) (c : Fin 3) (x : Samples) (s : State) : Host.Outcome State Fault Refusal :=
  runCmd (inDomain 1 (wmDwellEnd n c x)) s

/-- QUAD_EDGE (R265): An accepted quadrature edge changes the count, and may cause an index event or a home. -/
def execQuadEdge (a : Axis) (onA onB rising : Bool) (x : Joint) (s : State) : Host.Outcome State Fault Refusal :=
  runCmd (onPins (quadEdge a (quadInput onA onB) rising x)) s

/-- HALL_TRANSITION (R270): A Hall state change counts, skips or enters an invalid code. -/
def execHallTransition (a : Axis) (code : BitVec 3) (x : Joint) (s : State) : Host.Outcome State Fault Refusal :=
  runCmd (onPins (hallTransition a code.toNat x)) s

/-- WHEEL_EDGE (R275): An active tooth edge counts, is judged as a mark candidate, or reveals a missed mark. -/
def execWheelEdge (a : Axis) (e : Edge) (s : State) : Host.Outcome State Fault Refusal :=
  runCmd (onPins (wheelEdge a e)) s

/-- SER_READ (R277): Every SER_PERIOD the decoder starts a serial sensor read on the AUX port. -/
def execSerRead (a : Axis) (s : State) : Host.Outcome State Fault Refusal :=
  runCmd (serRead a) s

/-- SER_FRAME_DONE (R277): A serial sensor frame completes and sets the position, or sets SER_ERR. -/
def execSerFrameDone (a : Axis) (bits : List Bool) (complete : Bool) (t : Nat) (s : State) : Host.Outcome State Fault Refusal :=
  runCmd (serFrameDone a bits complete t) s

/-- SPEED_WINDOW_END (R279): At the end of a SPEED_WIN window the count-method speed is formed. -/
def execSpeedWindowEnd (a : Axis) (s : State) : Host.Outcome State Fault Refusal :=
  runCmd (speedWindowEnd a) s

/-- SPEED_TIMEOUT (R282): After SPEED_TMO without a counted edge the speed becomes 0 and STILL sets. -/
def execSpeedTimeout (a : Axis) (s : State) : Host.Outcome State Fault Refusal :=
  runCmd (speedTimeout a) s

/-- FB_MODE_WRITE (R260): A write of FB_MODE from 0 clears the counters and flags and starts decoding. -/
def execFbModeWrite (a : Axis) (n : BitVec 3) (s : State) : Host.Outcome State Fault Refusal :=
  runCmd (fieldWrite .hp false (F.AX_FB_CFG.FB_MODE a) n.toNat) s

/-- HOME_ARM (R269): HOME_ARM arms a home at the next index event. -/
def execHomeArm (a : Axis) (s : State) : Host.Outcome State Fault Refusal :=
  runCmd (strobe .hp false (F.AX_FB_CTRL.HOME_ARM a)) s

/-- HOME_CANCEL (R269): HOME_CANCEL clears HOME_ARMED without effect. -/
def execHomeCancel (a : Axis) (s : State) : Host.Outcome State Fault Refusal :=
  runCmd (strobe .hp false (F.AX_FB_CTRL.HOME_CANCEL a)) s

/-- AUX_TRANSFER_START (R327): The AUX port starts the next serial-feedback read or queued commanded transfer. -/
def execAuxTransferStart (t : Nat) (s : State) : Host.Outcome State Fault Refusal :=
  runCmd (timed t auxTransferStart) s

/-- AUX_TRANSFER_DONE (R328): An AUX transfer ends at select rising, and its received bits are returned. -/
def execAuxTransferDone (bits : List Bool) (t : Nat) (s : State) : Host.Outcome State Fault Refusal :=
  runCmd (timed t (auxTransferDone bits)) s

/-- PORT_ROLE_WRITE (R304): A write of HP_CFG.ROLE or AUX_CFG.ROLE changes the port role at the end of the transfer that
carries its reply. -/
def execPortRoleWrite (via : Port) (aux : Bool) (role : Bool) (s : State) : Host.Outcome State Fault Refusal :=
  runCmd (fieldWrite via false (if aux then F.AUX_CFG.ROLE else F.HP_CFG.ROLE) (bitOf role)) s

end Sys2Proof.Machine
end

