-- ==== Sys2Proof/Machine/CmdStore.lean ====
section
/-!
DEFINITION. The meaning of each command of the Locker and its users.
-/

namespace Sys2Proof.Machine

/-- LOCKER_ARBITRATE (R411): A free bank's arbiter grants one waiting requester and sends the losers into Let. -/
def execLockerArbitrate (bank : Fin 8) (t : Nat) (s : State) : Host.Outcome State Fault Refusal :=
  runCmd (timed t (lkArbitrate bank)) s

/-- LET_END (R412): A requester's back-off ends and it re-enters the candidates. -/
def execLetEnd (bank : Fin 8) (entry : Fin 26) (s : State) : Host.Outcome State Fault Refusal :=
  runCmd (letEnds bank entry) s

/-- LINE_READ_DONE (R390): A line read completes and decodes as GOOD, CORRECTED, STALE or UNCORRECTABLE. -/
def execLineReadDone (bank : Fin 8) (s : State) : Host.Outcome State Fault Refusal :=
  runCmd (inDomain 7 (lineReadDone bank)) s

/-- LINE_WRITE_DONE (R393): A line write with verify completes, is retried once, or reports failure. -/
def execLineWriteDone (bank : Fin 8) (rb1 : List Byte) (rb2 : List Byte) (s : State) : Host.Outcome State Fault Refusal :=
  runCmd (inDomain 7 (lineWriteDone bank rb1 rb2)) s

/-- SCRUB_TICK (R392): Every SCRUB_INT the scrubber reads the next line and rewrites it if corrected. -/
def execScrubTick (s : State) : Host.Outcome State Fault Refusal :=
  runCmd (scrubTick) s

/-- PARTITION_APPLY (R395): APPLY checks the partition registers, bumps region generations and starts the region
rewrite. -/
def execPartitionApply (s : State) : Host.Outcome State Fault Refusal :=
  runCmd (strobe .hp false F.LK_PART_CTRL.APPLY) s

/-- DEADBALL_WRITE (R415): A write of DEADBALL freezes or releases all Locker grants. -/
def execDeadballWrite (b : Bool) (s : State) : Host.Outcome State Fault Refusal :=
  runCmd (fieldWrite .hp false F.LK_ARB_CTRL.DEADBALL (bitOf b)) s

/-- TRACE_APPEND (R408): The trace writer appends buffered records to the ring, wraps or stops when full. -/
def execTraceAppend (s : State) : Host.Outcome State Fault Refusal :=
  runCmd (traceAppend) s

/-- SIGNATURE_VERIFY_DONE (R398): The security engine completes an ECDSA verification of a recipe or cam table, records
its digest and version, and lets the validation proceed or fail. -/
def execSignatureVerifyDone (s : State) : Host.Outcome State Fault Refusal :=
  runCmd (signatureDone) s

end Sys2Proof.Machine
end

