-- ==== Sys2Proof/Machine/CmdTest.lean ====
section
/-!
DEFINITION. The meaning of each command of the test access port.
-/

namespace Sys2Proof.Machine

/-- TAP_RESET (R569): TRST_N low, five TCK cycles with TMS high, or L1 put the TAP in Test-Logic-Reset with IDCODE
selected. -/
def execTapReset (s : State) : Host.Outcome State Fault Refusal :=
  runCmd (tapReset) s

/-- EXTEST (R577): EXTEST starts a test takeover in which scanned outputs take their update cells. -/
def execExtest (s : State) : Host.Outcome State Fault Refusal :=
  runCmd (tapExtest) s

/-- IDCODE (R573): IDCODE selects the 32-bit identity register. -/
def execIdcode (s : State) : Host.Outcome State Fault Refusal :=
  runCmd (tapIdcode) s

/-- SAMPLE_PRELOAD (R572): SAMPLE/PRELOAD captures the pins and preloads update cells without affecting the device. -/
def execSamplePreload (pins : BitVec 273) (s : State) : Host.Outcome State Fault Refusal :=
  runCmd (tapSample pins) s

/-- CLAMP (R577): CLAMP starts a takeover that holds the scanned outputs at their update values. -/
def execClamp (s : State) : Host.Outcome State Fault Refusal :=
  runCmd (tapClamp) s

/-- HIGHZ (R577): HIGHZ starts a takeover with the scanned outputs high impedance. -/
def execHighz (s : State) : Host.Outcome State Fault Refusal :=
  runCmd (tapHighz) s

/-- GATETEST (R579): GATETEST in MANUFACTURE drives each gate from its cell while every VMq is below 5 V and VGS is
good. -/
def execGatetest (s : State) : Host.Outcome State Fault Refusal :=
  runCmd (tapGatetest) s

/-- BYPASS (R572): BYPASS, or any unlisted or locked opcode, selects the 1-bit bypass register. -/
def execBypass (op : BitVec 8) (s : State) : Host.Outcome State Fault Refusal :=
  runCmd (tapBypass op) s

/-- PRIVATE_INSTRUCTION (R573): A private opcode 0x41 to 0x7F selects a vendor test register in MANUFACTURE or
PROVISIONED. -/
def execPrivateInstruction (op : BitVec 8) (s : State) : Host.Outcome State Fault Refusal :=
  runCmd (tapPrivate op) s

/-- TAP_UPDATE_DR (R579): Update-DR loads the boundary update cells, and under GATETEST commands the gates. -/
def execTapUpdateDr (cells : BitVec 273) (s : State) : Host.Outcome State Fault Refusal :=
  runCmd (tapUpdateDr cells) s

/-- TAKEOVER_END (R578): A test takeover ends and every pin returns to its normal function, giving one edge where levels
differ. -/
def execTakeoverEnd (ena : BitVec 16) (t : Nat) (s : State) : Host.Outcome State Fault Refusal :=
  runCmd (timed t (takeoverEnd ena)) s

/-- GATETEST_VM_CUTOFF (R579): A VMq reaching 5 V under GATETEST turns every gate off within 1 us. -/
def execGatetestVmCutoff (_q : Quad) (s : State) : Host.Outcome State Fault Refusal :=
  runCmd (gatetestCutoff) s

end Sys2Proof.Machine
end

