-- ==== Sys2Proof/Machine/Dispatch.lean ====
section
/-!
DEFINITION. The dispatch of the commands: one arm per constructor of `Instr`.
-/

namespace Sys2Proof.Machine

def exec (i : Instr) (s : State) : Host.Outcome State Fault Refusal :=
  match i with
  | .frameReceive w => Sys2Proof.Machine.execFrameReceive w s
  | .hpMasterTransfer w => Sys2Proof.Machine.execHpMasterTransfer w s
  | .nop f => Sys2Proof.Machine.execNop f s
  | .rallySync f => Sys2Proof.Machine.execRallySync f s
  | .collect f => Sys2Proof.Machine.execCollect f s
  | .getStatus f => Sys2Proof.Machine.execGetStatus f s
  | .getRetire f => Sys2Proof.Machine.execGetRetire f s
  | .mode f => Sys2Proof.Machine.execMode f s
  | .reset f => Sys2Proof.Machine.execReset f s
  | .resetBegin => Sys2Proof.Machine.execResetBegin s
  | .axisRearm f => Sys2Proof.Machine.execAxisRearm f s
  | .ident f => Sys2Proof.Machine.execIdent f s
  | .result f => Sys2Proof.Machine.execResult f s
  | .regRead f => Sys2Proof.Machine.execRegRead f s
  | .regWrite f => Sys2Proof.Machine.execRegWrite f s
  | .regBlockWrite f => Sys2Proof.Machine.execRegBlockWrite f s
  | .registerWrite addr typ data => Sys2Proof.Machine.execRegisterWrite addr typ data s
  | .unlockArm key => Sys2Proof.Machine.execUnlockArm key s
  | .wideLoLatch a origin data => Sys2Proof.Machine.execWideLoLatch a origin data s
  | .move f => Sys2Proof.Machine.execMove f s
  | .jog f => Sys2Proof.Machine.execJog f s
  | .stop f => Sys2Proof.Machine.execStop f s
  | .resume f => Sys2Proof.Machine.execResume f s
  | .posSet f => Sys2Proof.Machine.execPosSet f s
  | .source f => Sys2Proof.Machine.execSource f s
  | .engage f => Sys2Proof.Machine.execEngage f s
  | .exit f => Sys2Proof.Machine.execExit f s
  | .gearRatio f => Sys2Proof.Machine.execGearRatio f s
  | .camNext f => Sys2Proof.Machine.execCamNext f s
  | .measRead f => Sys2Proof.Machine.execMeasRead f s
  | .probe f => Sys2Proof.Machine.execProbe f s
  | .lkRead f => Sys2Proof.Machine.execLkRead f s
  | .lkWrite f => Sys2Proof.Machine.execLkWrite f s
  | .lkReadTimeout port key => Sys2Proof.Machine.execLkReadTimeout port key s
  | .recipeArm f => Sys2Proof.Machine.execRecipeArm f s
  | .recipeArmTakeUp => Sys2Proof.Machine.execRecipeArmTakeUp s
  | .recipeApply f => Sys2Proof.Machine.execRecipeApply f s
  | .recipeApplyTakeUp => Sys2Proof.Machine.execRecipeApplyTakeUp s
  | .recipeWaveCopy table => Sys2Proof.Machine.execRecipeWaveCopy table s
  | .traceRead f => Sys2Proof.Machine.execTraceRead f s
  | .snap f => Sys2Proof.Machine.execSnap f s
  | .whistleAt f => Sys2Proof.Machine.execWhistleAt f s
  | .snapRead f => Sys2Proof.Machine.execSnapRead f s
  | .stackInfo f => Sys2Proof.Machine.execStackInfo f s
  | .sessionOpen f mac => Sys2Proof.Machine.execSessionOpen f mac s
  | .sessionConfirm f => Sys2Proof.Machine.execSessionConfirm f s
  | .sessionClose f => Sys2Proof.Machine.execSessionClose f s
  | .keyInstall f => Sys2Proof.Machine.execKeyInstall f s
  | .lifecycle f => Sys2Proof.Machine.execLifecycle f s
  | .patchLoad f => Sys2Proof.Machine.execPatchLoad f s
  | .backstopSet f => Sys2Proof.Machine.execBackstopSet f s
  | .auditRead f => Sys2Proof.Machine.execAuditRead f s
  | .trngRead f => Sys2Proof.Machine.execTrngRead f s
  | .diagRun f => Sys2Proof.Machine.execDiagRun f s
  | .auxXfer f => Sys2Proof.Machine.execAuxXfer f s
  | .ticketResult ticket good svn => Sys2Proof.Machine.execTicketResult ticket good svn s
  | .plannerTakeUp a t => Sys2Proof.Machine.execPlannerTakeUp a t s
  | .segmentComputed t => Sys2Proof.Machine.execSegmentComputed t s
  | .segmentCommit a t => Sys2Proof.Machine.execSegmentCommit a t s
  | .cutInstant a => Sys2Proof.Machine.execCutInstant a s
  | .starvation a t => Sys2Proof.Machine.execStarvation a t s
  | .plannerStopRecord a t => Sys2Proof.Machine.execPlannerStopRecord a t s
  | .stillDelayExpire a => Sys2Proof.Machine.execStillDelayExpire a s
  | .energiseDone a => Sys2Proof.Machine.execEnergiseDone a s
  | .halfPeriodBoundary a => Sys2Proof.Machine.execHalfPeriodBoundary a s
  | .sampleInstant a => Sys2Proof.Machine.execSampleInstant a s
  | .computationDone a t => Sys2Proof.Machine.execComputationDone a t s
  | .boostTimeout a => Sys2Proof.Machine.execBoostTimeout a s
  | .updatePoint a => Sys2Proof.Machine.execUpdatePoint a s
  | .periodBoundary chan => Sys2Proof.Machine.execPeriodBoundary chan s
  | .pwmCommit chan => Sys2Proof.Machine.execPwmCommit chan s
  | .wtSwap table => Sys2Proof.Machine.execWtSwap table s
  | .wtFill table => Sys2Proof.Machine.execWtFill table s
  | .wtRevert table => Sys2Proof.Machine.execWtRevert table s
  | .wtOpDone table => Sys2Proof.Machine.execWtOpDone table s
  | .axWaveTableWrite a n => Sys2Proof.Machine.execAxWaveTableWrite a n s
  | .chopBlankEnd a w x => Sys2Proof.Machine.execChopBlankEnd a w x s
  | .chopOff a w x => Sys2Proof.Machine.execChopOff a w x s
  | .chopToffEnd a w => Sys2Proof.Machine.execChopToffEnd a w s
  | .probeAuto a => Sys2Proof.Machine.execProbeAuto a s
  | .probePeriod a di => Sys2Proof.Machine.execProbePeriod a di s
  | .probeDone a di => Sys2Proof.Machine.execProbeDone a di s
  | .stepEdge a rising dir x => Sys2Proof.Machine.execStepEdge a rising dir x s
  | .mchSample c => Sys2Proof.Machine.execMchSample c s
  | .mchPublish c => Sys2Proof.Machine.execMchPublish c s
  | .mchStale c => Sys2Proof.Machine.execMchStale c s
  | .mchCfgWrite c data => Sys2Proof.Machine.execMchCfgWrite c data s
  | .tripActive n t => Sys2Proof.Machine.execTripActive n t s
  | .tripInactive n t => Sys2Proof.Machine.execTripInactive n t s
  | .ocTrip a w x => Sys2Proof.Machine.execOcTrip a w x s
  | .snTrip a leg hs x => Sys2Proof.Machine.execSnTrip a leg hs x s
  | .crossOverlap a leg t => Sys2Proof.Machine.execCrossOverlap a leg t s
  | .escWinClose a => Sys2Proof.Machine.execEscWinClose a s
  | .bstLow a leg t => Sys2Proof.Machine.execBstLow a leg t s
  | .bstLowRelease a leg t => Sys2Proof.Machine.execBstLowRelease a leg t s
  | .cpUv q t => Sys2Proof.Machine.execCpUv q t s
  | .cpGood q t => Sys2Proof.Machine.execCpGood q t s
  | .vgsUv t => Sys2Proof.Machine.execVgsUv t s
  | .vgsGood t => Sys2Proof.Machine.execVgsGood t s
  | .vmOvTrip q x => Sys2Proof.Machine.execVmOvTrip q x s
  | .vmOvClear q x => Sys2Proof.Machine.execVmOvClear q x s
  | .vmUvTrip q x => Sys2Proof.Machine.execVmUvTrip q x s
  | .vmUvClear q x => Sys2Proof.Machine.execVmUvClear q x s
  | .brakeDecision q raw t => Sys2Proof.Machine.execBrakeDecision q raw t s
  | .diagStart q => Sys2Proof.Machine.execDiagStart q s
  | .diagPhaseEnd a v0 v1 v2 v3 => Sys2Proof.Machine.execDiagPhaseEnd a v0 v1 v2 v3 s
  | .currentAdcResult a w c => Sys2Proof.Machine.execCurrentAdcResult a w c s
  | .voltageAdcResult a code => Sys2Proof.Machine.execVoltageAdcResult a code s
  | .ainAdcResult code => Sys2Proof.Machine.execAinAdcResult code s
  | .tempResult n code => Sys2Proof.Machine.execTempResult n code s
  | .ainWmTrip n high x => Sys2Proof.Machine.execAinWmTrip n high x s
  | .wmDwellEnd n c x => Sys2Proof.Machine.execWmDwellEnd n c x s
  | .quadEdge a onA onB rising x => Sys2Proof.Machine.execQuadEdge a onA onB rising x s
  | .hallTransition a code x => Sys2Proof.Machine.execHallTransition a code x s
  | .wheelEdge a e => Sys2Proof.Machine.execWheelEdge a e s
  | .serRead a => Sys2Proof.Machine.execSerRead a s
  | .serFrameDone a bits complete t => Sys2Proof.Machine.execSerFrameDone a bits complete t s
  | .speedWindowEnd a => Sys2Proof.Machine.execSpeedWindowEnd a s
  | .speedTimeout a => Sys2Proof.Machine.execSpeedTimeout a s
  | .fbModeWrite a n => Sys2Proof.Machine.execFbModeWrite a n s
  | .homeArm a => Sys2Proof.Machine.execHomeArm a s
  | .homeCancel a => Sys2Proof.Machine.execHomeCancel a s
  | .auxTransferStart t => Sys2Proof.Machine.execAuxTransferStart t s
  | .auxTransferDone bits t => Sys2Proof.Machine.execAuxTransferDone bits t s
  | .portRoleWrite via aux role => Sys2Proof.Machine.execPortRoleWrite via aux role s
  | .lockerArbitrate bank t => Sys2Proof.Machine.execLockerArbitrate bank t s
  | .letEnd bank entry => Sys2Proof.Machine.execLetEnd bank entry s
  | .lineReadDone bank => Sys2Proof.Machine.execLineReadDone bank s
  | .lineWriteDone bank rb1 rb2 => Sys2Proof.Machine.execLineWriteDone bank rb1 rb2 s
  | .scrubTick => Sys2Proof.Machine.execScrubTick s
  | .partitionApply => Sys2Proof.Machine.execPartitionApply s
  | .deadballWrite b => Sys2Proof.Machine.execDeadballWrite b s
  | .traceAppend => Sys2Proof.Machine.execTraceAppend s
  | .linkUp l pings => Sys2Proof.Machine.execLinkUp l pings s
  | .linkDown l => Sys2Proof.Machine.execLinkDown l s
  | .trainFail l => Sys2Proof.Machine.execTrainFail l s
  | .flitReceive l bytes sample t => Sys2Proof.Machine.execFlitReceive l bytes sample t s
  | .nakReceive l seq => Sys2Proof.Machine.execNakReceive l seq s
  | .timeSend => Sys2Proof.Machine.execTimeSend s
  | .timeReceive time mark hops t => Sys2Proof.Machine.execTimeReceive time mark hops t s
  | .timeLock t => Sys2Proof.Machine.execTimeLock t s
  | .pingExchange x => Sys2Proof.Machine.execPingExchange x s
  | .enumReceive id => Sys2Proof.Machine.execEnumReceive id s
  | .enumEndReceive count ovf conf => Sys2Proof.Machine.execEnumEndReceive count ovf conf s
  | .dnPartnerTimeout => Sys2Proof.Machine.execDnPartnerTimeout s
  | .frameFlitReceive idx h words t => Sys2Proof.Machine.execFrameFlitReceive idx h words t s
  | .replyFlitReceive idx h words => Sys2Proof.Machine.execReplyFlitReceive idx h words s
  | .bcastReceive b l => Sys2Proof.Machine.execBcastReceive b l s
  | .barrier => Sys2Proof.Machine.execBarrier s
  | .barrierReceive fromUp t => Sys2Proof.Machine.execBarrierReceive fromUp t s
  | .gather => Sys2Proof.Machine.execGather s
  | .dataReceive src valid latch words => Sys2Proof.Machine.execDataReceive src valid latch words s
  | .stackReset level key => Sys2Proof.Machine.execStackReset level key s
  | .captLost t => Sys2Proof.Machine.execCaptLost t s
  | .lossTmoExpire => Sys2Proof.Machine.execLossTmoExpire s
  | .scheduledWhistle => Sys2Proof.Machine.execScheduledWhistle s
  | .whslEdge rising x => Sys2Proof.Machine.execWhslEdge rising x s
  | .whistleDriveEnd => Sys2Proof.Machine.execWhistleDriveEnd s
  | .whistleHoldoffEnd => Sys2Proof.Machine.execWhistleHoldoffEnd s
  | .bkStore => Sys2Proof.Machine.execBkStore s
  | .bkStoreDone ok => Sys2Proof.Machine.execBkStoreDone ok s
  | .stoLow b t => Sys2Proof.Machine.execStoLow b t s
  | .stoHigh b t => Sys2Proof.Machine.execStoHigh b t s
  | .stoDiscTimeout => Sys2Proof.Machine.execStoDiscTimeout s
  | .enaRise a t => Sys2Proof.Machine.execEnaRise a t s
  | .enaFall a t => Sys2Proof.Machine.execEnaFall a t s
  | .sessionTimeout port => Sys2Proof.Machine.execSessionTimeout port s
  | .lockoutEnd port => Sys2Proof.Machine.execLockoutEnd port s
  | .trngTestFail => Sys2Proof.Machine.execTrngTestFail s
  | .trngRecover => Sys2Proof.Machine.execTrngRecover s
  | .tamper detail => Sys2Proof.Machine.execTamper detail s
  | .refinEdgeTimeout t => Sys2Proof.Machine.execRefinEdgeTimeout t s
  | .calibrationInstant refOk fails => Sys2Proof.Machine.execCalibrationInstant refOk fails s
  | .referenceGood t => Sys2Proof.Machine.execReferenceGood t s
  | .refinEnWrite b => Sys2Proof.Machine.execRefinEnWrite b s
  | .modeTransitDone t => Sys2Proof.Machine.execModeTransitDone t s
  | .sleepEntry edge => Sys2Proof.Machine.execSleepEntry edge s
  | .wake whsl => Sys2Proof.Machine.execWake whsl s
  | .pdCtrlWrite quads lnk => Sys2Proof.Machine.execPdCtrlWrite quads lnk s
  | .domainUp n t => Sys2Proof.Machine.execDomainUp n t s
  | .domainLoss n t => Sys2Proof.Machine.execDomainLoss n t s
  | .supplyGood supply => Sys2Proof.Machine.execSupplyGood supply s
  | .supplyLost supply => Sys2Proof.Machine.execSupplyLost supply s
  | .nrstPulse width => Sys2Proof.Machine.execNrstPulse width s
  | .resetStretchEnd pinHigh => Sys2Proof.Machine.execResetStretchEnd pinHigh s
  | .nrstRelease => Sys2Proof.Machine.execNrstRelease s
  | .watchdogExpire => Sys2Proof.Machine.execWatchdogExpire s
  | .optionLoad tableOk badKeys badRecs => Sys2Proof.Machine.execOptionLoad tableOk badKeys badRecs s
  | .selfCheckDone rom ram kat trng => Sys2Proof.Machine.execSelfCheckDone rom ram kat trng s
  | .patchVerify slot sigOk => Sys2Proof.Machine.execPatchVerify slot sigOk s
  | .bootEnd t elapsed => Sys2Proof.Machine.execBootEnd t elapsed s
  | .interpreterRestart => Sys2Proof.Machine.execInterpreterRestart s
  | .blockResetDone => Sys2Proof.Machine.execBlockResetDone s
  | .blockResetHung => Sys2Proof.Machine.execBlockResetHung s
  | .tapReset => Sys2Proof.Machine.execTapReset s
  | .extest => Sys2Proof.Machine.execExtest s
  | .idcode => Sys2Proof.Machine.execIdcode s
  | .samplePreload pins => Sys2Proof.Machine.execSamplePreload pins s
  | .clamp => Sys2Proof.Machine.execClamp s
  | .highz => Sys2Proof.Machine.execHighz s
  | .gatetest => Sys2Proof.Machine.execGatetest s
  | .bypass op => Sys2Proof.Machine.execBypass op s
  | .privateInstruction op => Sys2Proof.Machine.execPrivateInstruction op s
  | .tapUpdateDr cells => Sys2Proof.Machine.execTapUpdateDr cells s
  | .takeoverEnd ena t => Sys2Proof.Machine.execTakeoverEnd ena t s
  | .gatetestVmCutoff q => Sys2Proof.Machine.execGatetestVmCutoff q s
  | .legEdge a leg rising => Sys2Proof.Machine.execLegEdge a leg rising s
  | .signatureVerifyDone => Sys2Proof.Machine.execSignatureVerifyDone s

end Sys2Proof.Machine
end

