-- ==== Sys2Proof/Safety.lean ====
section
/-!
DEFINITION. What a sound state of the part is, in the terms the statements use: the register file and the Locker's stored
bytes in canonical form, every queue within the size the spec gives it, and no Whistle left raised.
-/

namespace Sys2Proof.Machine

/-- The register file and the stored bytes are in canonical form, so that equal contents are equal data. -/
def State.canonical (s : State) : Bool := rfWf s.regs && cellWf s.lk.cells

/-- The queues of the spec hold no more than their places: the command queue (R351), the retirement log (R354), the tickets
(R356), the route-return store (R358), the store of accepted frames of each port (R316), the AUX queue (R327), the audit
buffer (R494), the trace buffer (R408), the Whistle schedules (R441), the replay buffers (R426). -/
def State.bounded (s : State) : Bool :=
  decide (s.ip.cmdq.length ≤ 16) && decide (s.ip.log.length ≤ 64) && decide (s.ip.tickets.length ≤ 8)
    && decide (s.ip.routes.length ≤ 16) && decide (s.hp.store.length ≤ 2) && decide (s.aux.store.length ≤ 2)
    && decide (s.auxm.queue.length ≤ 4) && decide (s.sec.auditBuf.length ≤ 16) && decide (s.lk.trace.length ≤ 8)
    && decide (s.cv.sched.length ≤ 4) && decide (s.cv.up.replay.length ≤ 31) && decide (s.cv.dn.replay.length ≤ 31)

/-- No Whistle is raised that has not been served (R450). -/
def State.served (s : State) : Bool := s.whReq.isEmpty

/-- A sound state. -/
def State.sound (s : State) : Bool := s.canonical && s.bounded && s.served

/-! ### What a command does -/

/-- The command completes in a next state in which `P` holds. -/
def Completes (c : Instr) (s : State) (P : State → Prop) : Prop := ∃ t, exec c s = .next t ∧ P t

/-- Every field of the register file that shares no bit with a field of `l` reads in `t` as in `s`. -/
def KeepsFields (l : List Fld) (s t : State) : Prop :=
  ∀ g : Fld, (∀ f ∈ l, g.addr ≠ f.addr ∨ g.hi < f.lo ∨ f.hi < g.lo) → t.get g = s.get g

/-- The Locker's jobs are those of before, but for a write of a buffered audit entry (R494), which the end of any command
can add. -/
def JobsKept (s t : State) : Prop :=
  (t.lk.jobs.filter fun j => j.why != .audit) = s.lk.jobs.filter fun j => j.why != .audit

/-- Beside the register file nothing has changed: `t` is `s` with other registers, with its own list of flits sent by the
command in hand, with the Locker's jobs kept, and with the next segment that an idle planner takes up at the end of any command
(R68). -/
def BesideRegs (s t : State) : Prop :=
  t = { s with
    regs := t.regs
    plnWork := t.plnWork
    cv := { s.cv with tx := t.cv.tx }
    lk := { s.lk with jobs := t.lk.jobs } } ∧ JobsKept s t

/-- The command changes nothing: registers, flits and all else are as before. -/
def Unchanged (s t : State) : Prop := BesideRegs s t ∧ t.regs = s.regs

/-- The command completes with `u` beside the registers: the fields of `l` read the values listed with them, and every field
that shares no bit with one of them or with a field of `more` reads as before. -/
def Does (c : Instr) (s u : State) (l : List (Fld × Nat)) (more : List Fld) : Prop :=
  Completes c s fun t => BesideRegs u t ∧ KeepsFields (l.map Prod.fst ++ more) s t ∧ ∀ p ∈ l, t.get p.1 = p.2

/-- The flits sent, the Locker's jobs and the planner's next work apart, the two states agree in all but the registers, the engines of the axes, the
records of the interpreter, the audit entries with their free values, and the time. -/
def BesideAxes (s t : State) : Prop :=
  t = { s with
    now := t.now
    freeCtr := t.freeCtr
    regs := t.regs
    axes := t.axes
    plnWork := t.plnWork
    ip := { s.ip with cmdq := t.ip.cmdq, ledger := t.ip.ledger, log := t.ip.log }
    sec := { s.sec with auditNext := t.sec.auditNext, auditBuf := t.sec.auditBuf, auditRate := t.sec.auditRate }
    cv := { s.cv with tx := t.cv.tx }
    lk := { s.lk with jobs := t.lk.jobs } }

/-- Beside what `BesideAxes` allows, only the engines of the axes of `l` have changed. -/
def OnlyAxes (l : List Axis) (s t : State) : Prop := BesideAxes s t ∧ ∀ b : Axis, b ∉ l → t.ax b = s.ax b

/-- The commanded motion of the axis is as before, but that a stall reaction may have ended (R183). -/
def MotionKept (a : Axis) (s t : State) : Prop :=
  { t.mot a with stallHold := none } = { s.mot a with stallHold := none }

/-- The address lies in one of the blocks of an axis: its own, its converters', its Backstop's. -/
def axisBlock (a : Axis) (addr : Nat) : Bool :=
  (decide (0x100000 + a.val * 0x1000 ≤ addr) && decide (addr < 0x101000 + a.val * 0x1000))
    || (decide (0x300000 + a.val * 0x100 ≤ addr) && decide (addr < 0x300100 + a.val * 0x100))
    || (decide (0x3F0000 + a.val * 0x40 ≤ addr) && decide (addr < 0x3F0040 + a.val * 0x40))

/-- Every field outside the blocks of the axes of `l` that shares no bit with a field of `more` reads in `t` as in `s`. -/
def KeepsBlocks (l : List Axis) (more : List Fld) (s t : State) : Prop :=
  ∀ g : Fld, (∀ a ∈ l, axisBlock a g.addr = false) → (∀ f ∈ more, g.addr ≠ f.addr ∨ g.hi < f.lo ∨ f.hi < g.lo) →
    t.get g = s.get g

/-- The fields in which retirements and the planner's counts show (R91 to R95). -/
def plannerFields : List Fld :=
  [F.LAST_COMMITTED_SEQ.all, F.PLN_STATUS.all, F.PLN_SEGS.all, F.PLN_OFFSIDE.all, F.PLN_CUT.all, F.PLN_EVENTS.all]

/-- Command number `q` has an outcome or has left the ledger (R91). -/
def Decided (q : BitVec 16) (t : State) : Prop := ∀ e ∈ t.ip.ledger, e.1.seq = q → e.2 ≠ none

/-- An event in a saturating count (R16). -/
def counted (s : State) (f : Fld) : Nat := min (s.get f + 1) (fieldMax f.hi f.lo)

/-- Axis `a` is in FAULT (R239): not energised, its motion ended where it stood, a follower DISENGAGED. -/
def InFault (a : Axis) (s t : State) : Prop :=
  t.axState a = 6 ∧ t.get (F.AX_STATE.ENERGISED a) = 0 ∧ (t.mot a).queue = [] ∧ (t.mot a).vel = 0
    ∧ (t.mot a).pos = (s.mot a).pos ∧ fstate t a = 0

/-! ### Resets -/

/-- `t` is held in a reset at level 1 or 2 with its cause (R525, R526, R530): the stretch runs, only `PD0` is up, the interpreter
and every queue are as after reset, the mode is BOOT; the fuses, the keys, the audit log and the stored bytes are kept. -/
def DeepReset (cause lvl detail : Nat) (s t : State) : Prop :=
  t.rst.boot = .stretch ∧ t.rst.level.val = lvl ∧ t.get F.RST_CAUSE.CAUSE = cause ∧ t.get F.RST_CAUSE.LEVEL = lvl
  ∧ t.get F.RST_CAUSE.DETAIL = detail ∧ t.mode = State.reset.mode ∧ t.pw.on = State.reset.pw.on ∧ t.ip = State.reset.ip
  ∧ t.hp = State.reset.hp ∧ t.aux = State.reset.aux ∧ t.axes = s.axes.map AxisSt.fresh
  ∧ t.sec.life = s.sec.life ∧ t.sec.keys = s.sec.keys ∧ t.sec.svn = s.sec.svn ∧ t.sec.auditLog = s.sec.auditLog
  ∧ t.sec.hp = State.reset.sec.hp ∧ t.sec.aux = State.reset.sec.aux
  ∧ t.lk.cells = s.lk.cells ∧ t.lk.gen = s.lk.gen ∧ t.lk.initPend = s.lk.initPend ∧ t.pending = s.pending

/-- `t` is held in a reset at level 3 with its cause (R93, R525): the stretch runs, planner and interpreter have lost their
queues, and the domains, the gates and the commanded motion go on. -/
def InterpreterReset (cause detail : Nat) (s t : State) : Prop :=
  t.rst.boot = .stretch ∧ t.rst.level = 3 ∧ t.get F.RST_CAUSE.CAUSE = cause ∧ t.get F.RST_CAUSE.LEVEL = 3
  ∧ t.get F.RST_CAUSE.DETAIL = detail ∧ t.ip.running = false ∧ t.ip.cmdq = [] ∧ t.ip.ledger = [] ∧ t.ip.tickets = []
  ∧ t.pw = s.pw ∧ t.lk.cells = s.lk.cells ∧ t.pending = s.pending
  ∧ ∀ a : Axis, (t.mot a).window = [] ∧ (t.mot a).pos = (s.mot a).pos ∧ (t.mot a).vel = (s.mot a).vel ∧ t.gd a = s.gd a
      ∧ t.pwm a = s.pwm a ∧ (t.mot a).queue.length = (s.mot a).queue.length

/-- One audit entry more (R494): the next number, its code and port in the buffer, or lost where 16 wait. -/
def Audited (code port : Nat) (s t : State) : Prop :=
  t.sec.auditNext = s.sec.auditNext + 1
  ∧ (s.sec.auditBuf.length < 16 → ∃ e, t.sec.auditBuf = s.sec.auditBuf ++ [e] ∧ e.no = s.sec.auditNext
      ∧ e.code.toNat = code ∧ e.port.toNat = port)
  ∧ (16 ≤ s.sec.auditBuf.length → t.sec.auditBuf = s.sec.auditBuf)

/-! ### Links and Whistles -/

/-- Time, registers, the Cenov link, the route-return store, the Locker's jobs and the planner's next work apart, nothing has
changed. -/
def BesideLinks (s t : State) : Prop :=
  t = { s with
    now := t.now
    regs := t.regs
    plnWork := t.plnWork
    cv := t.cv
    ip := { s.ip with routes := t.ip.routes }
    lk := { s.lk with jobs := t.lk.jobs } } ∧ JobsKept s t

/-- During the command a flit of this type and message has left port `l`, if its link is up in `s` and no older flit waits
there (R426, R427). -/
def Sends (l : Link) (typ : BitVec 4) (msg : CvMsg) (s t : State) : Prop :=
  linkUp s l = true → (s.cvPort l).waiting = [] → (s.cvPort l).replay.length < 31 →
    ∃ f ∈ t.cv.tx, f.1 = l ∧ f.2.typ = typ ∧ f.2.msg = msg

/-- A Whistle raised at instant `x` finds the latch ready (R448, R452): the part is awake and out of reset, no hold-off runs,
latching is not frozen, no trace stream and no recipe apply go with it. -/
structure LatchReady (s : State) (x : Nat) : Prop where
  on : s.pd 1 = true
  up : deepHeld s = false
  awake : s.mode ≠ 0
  free : ∀ e, s.wh.holdEnd = some e → e ≤ x
  thawed : s.get F.WH_CFG.FREEZE = 0
  quiet : s.get F.WH_CFG.TRC_STREAM = 0
  alone : s.lk.apply = none

/-- A latch of source `src` with detail `d` at instant `x` (R452, R453, R456): the record of 508 words begins with its number,
its source and its time, the hold-off runs, and only the fields of the latch have changed. -/
def Latched (src d x : Nat) (s t : State) : Prop :=
  let no := if s.get F.WH_STAT.LATCH_NO = 65535 then 1 else s.get F.WH_STAT.LATCH_NO + 1
  t.now = x ∧ t.get F.WH_STAT.LATCH_NO = no ∧ t.get F.WH_STAT.LAST_SRC = src ∧ t.get F.WH_STAT.WH_EVT = 1
  ∧ t.get F.WH_CNT.LATCH_CNT = counted s F.WH_CNT.LATCH_CNT
  ∧ KeepsFields [F.WH_STAT.all, F.WH_CNT.LATCH_CNT] s t
  ∧ t.wh.latchT = x ∧ t.wh.missed = 0 ∧ t.wh.holdEnd = some (x + s.get F.WH_CFG.WH_HOLDOFF * usT)
  ∧ t.axes = s.axes ∧ t.ip = s.ip ∧ t.lk.cells = s.lk.cells ∧ t.pending = s.pending
  ∧ ∃ r, t.wh.snap = some r ∧ r.length = 508
    ∧ r.take 4 = [BitVec.ofNat 32 (no + devId s % 16 * 65536 + 2 ^ 20 + src * 2 ^ 24), BitVec.ofNat 32 (x / nsT % 2 ^ 64),
        BitVec.ofNat 32 (x / nsT % 2 ^ 64 / 2 ^ 32), BitVec.ofNat 32 (min s.wh.missed 255 + d % 256 * 256)]

/-- A Whistle that found no free latch is counted, and the latch record stands (R452). -/
def Missed (s t : State) : Prop :=
  t.get F.WH_CNT.WH_MISSED = counted s F.WH_CNT.WH_MISSED ∧ t.wh.missed = s.wh.missed + 1 ∧ t.wh.snap = s.wh.snap
  ∧ t.wh.latchT = s.wh.latchT ∧ KeepsFields [F.WH_CNT.WH_MISSED] s t ∧ t.axes = s.axes ∧ t.ip = s.ip ∧ t.lk.cells = s.lk.cells

/-! ### Comparators -/

/-- The majority filter of a comparator after the samples of a list, the first at instant `t` (R296). -/
def FiltSt.takes (cfg : Word) (hold : Nat) : List Bool → Nat → FiltSt → FiltSt
  | [], _, f => f
  | b :: l, t, f => FiltSt.takes cfg hold l (t + sampleStep cfg) (f.push cfg hold t b)

/-- None of the samples of a list changes the output of the majority filter. -/
def FiltSt.steady (cfg : Word) (hold : Nat) (l : List Bool) (t : Nat) (f : FiltSt) : Prop :=
  ∀ k ≤ l.length, (f.takes cfg hold (l.take k) t).out = f.out

/-- The last sample of a list, and no earlier one, changes the output of the majority filter, to `on`. -/
def FiltSt.turns (cfg : Word) (hold : Nat) (l : List Bool) (t : Nat) (on : Bool) (f : FiltSt) : Prop :=
  l ≠ [] ∧ f.out = !on ∧ f.steady cfg hold l.dropLast t ∧ (f.takes cfg hold l t).out = on

/-! ### Frames in hand -/

/-- The opcode and frame of a command that is an opcode of the command set (R340 to R350); none for another command. -/
def frameOf : Instr → Option (Nat × Req)
  | .nop f => some (0x00, f)
  | .rallySync f => some (0x01, f)
  | .collect f => some (0x02, f)
  | .getStatus f => some (0x03, f)
  | .getRetire f => some (0x04, f)
  | .mode f => some (0x05, f)
  | .reset f => some (0x06, f)
  | .axisRearm f => some (0x07, f)
  | .ident f => some (0x08, f)
  | .result f => some (0x09, f)
  | .regRead f => some (0x10, f)
  | .regWrite f => some (0x11, f)
  | .regBlockWrite f => some (0x12, f)
  | .move f => some (0x20, f)
  | .jog f => some (0x21, f)
  | .stop f => some (0x22, f)
  | .resume f => some (0x23, f)
  | .posSet f => some (0x24, f)
  | .source f => some (0x30, f)
  | .engage f => some (0x31, f)
  | .exit f => some (0x32, f)
  | .gearRatio f => some (0x33, f)
  | .camNext f => some (0x34, f)
  | .measRead f => some (0x40, f)
  | .probe f => some (0x41, f)
  | .lkRead f => some (0x50, f)
  | .lkWrite f => some (0x51, f)
  | .recipeArm f => some (0x52, f)
  | .recipeApply f => some (0x53, f)
  | .traceRead f => some (0x54, f)
  | .snap f => some (0x60, f)
  | .whistleAt f => some (0x61, f)
  | .snapRead f => some (0x62, f)
  | .stackInfo f => some (0x63, f)
  | .sessionOpen f _ => some (0x70, f)
  | .sessionConfirm f => some (0x71, f)
  | .sessionClose f => some (0x72, f)
  | .keyInstall f => some (0x73, f)
  | .lifecycle f => some (0x74, f)
  | .patchLoad f => some (0x75, f)
  | .backstopSet f => some (0x76, f)
  | .auditRead f => some (0x77, f)
  | .trngRead f => some (0x78, f)
  | .diagRun f => some (0x80, f)
  | .auxXfer f => some (0x81, f)
  | _ => none

/-- A port of the device hears the frame while the interpreter runs, and no Whistle is left over (R304, R323). -/
structure Heard (f : Req) (s : State) : Prop where
  port : f.port = .hp ∨ f.port = .aux
  hears : portHears s f.port false = true ∨ portHears s f.port true = true
  runs : s.ip.running = true
  served : s.whReq = []

/-- The state in which a heard frame has been accepted (R315, R316): its instant has come, it is counted, the rally count and the
store of its port have moved, and an unlock or LO latch left by an earlier write has lapsed (R372, R378). -/
def accepted (op : Nat) (f : Req) (s : State) : State :=
  let s0 : State := ({ s with cv := { s.cv with tx := [] } } : State).at_ f.t
  endFrame (acceptFrame f.port 0 f.alive (sentCrc op f s0) (op == 0x01) s0)

/-- The checks of R333 in orders 1 to 5 pass for an accepted frame that names the device itself (COLLECT names the squad
member whose reply it wants), in the state `a` of its acceptance. -/
structure Admitted (op : Nat) (f : Req) (a : State) : Prop where
  opcode : opcodeDefined op = true
  length : lenAllowed op f.words.length = true
  device : op = 0x02 ∨ f.dev.toNat = devId a
  cls : classStatus a f.port (classOf a op f.words) = stOk
  mode : modeAllowed op a.mode = true

/-- A frame of an opcode is heard, and admitted in the state of its acceptance. -/
def FrameReady (op : Nat) (f : Req) (s : State) : Prop := Heard f s ∧ Admitted op f (accepted op f s)

/-- The frame names another device of the stack to its Captain. -/
def NamesAnother (f : Req) (s : State) : Prop :=
  isCaptain s = true ∧ f.dev.toNat ≠ devId s ∧ f.dev.toNat < s.get F.CV_STAT.STACK_N

/-- The port of `f` holds the reply to `f` (R316, R318, R322, R335): opcode, rally count, device, axis and tag of the frame,
and after the `HEALTH` word of R324 the payload `words`, sealed in the session `sess` of the frame where it has one; it is
ready 4 µs after the frame. Where the frame names another device of the stack, the fields of that word that are the device's (R325)
are open (assumption log 145). -/
def Replies (sess : Option (Session × Nat)) (op : Nat) (f : Req) (words : List Word) (t : State) : Prop :=
  let q := t.portSt f.port
  let r : Reply := { op := BitVec.ofNat 8 op, alive := f.alive, dev := f.dev, axis := f.axis, tag := f.tag, words := words }
  (q.store.head?.bind fun e => e.reply) = some r ∧ q.readyAt = f.t + replyTime ∧ q.outFor = some f.alive
    ∧ ∃ h : Word, (h = healthState t ∨ NamesAnother f t ∧ h &&& 0xFA00FFFF = h)
      ∧ q.out = sealReply sess r.op r.alive r.dev r.axis r.tag ((healthPort t q.flags ||| h) :: words)

/-- The payload of a reply with a status word (R335). -/
def statusWords (code detail seq : Nat) (data : List Word) : List Word := statusWord code detail seq :: data

/-- From `u` to `t` only the end of a frame has come (R316, R322, R360, R372, R378): the reply stands at its port, an armed
unlock has lapsed with its flag and latched LO words are gone, a refusal is counted, and an idle planner takes up its next work
(R68); the state of another device that the frame names is a free value of the model. -/
def FrameEnds (f : Req) (u t : State) : Prop :=
  t = { u with
    freeCtr := t.freeCtr
    regs := t.regs
    plnWork := t.plnWork
    hp := if f.port = .hp then { u.hp with store := t.hp.store, out := t.hp.out, outFor := t.hp.outFor, readyAt := t.hp.readyAt } else u.hp
    aux := if f.port = .aux then
      { u.aux with store := t.aux.store, out := t.aux.out, outFor := t.aux.outFor, readyAt := t.aux.readyAt } else u.aux
    ip := { u.ip with unlocked := false, loLatch := [] }
    lk := { u.lk with jobs := t.lk.jobs } } ∧ JobsKept u t
  ∧ KeepsFields [F.SYS_ACC_STAT.UNLOCK_LAPSED, F.CMD_REFUSE.REFUSE_CNT, F.CMD_REFUSE.LAST_CODE] u t
  ∧ t.get F.SYS_ACC_STAT.UNLOCK_LAPSED = (if u.ip.unlocked then 1 else u.get F.SYS_ACC_STAT.UNLOCK_LAPSED)
  ∧ (t.freeCtr = u.freeCtr ∨ NamesAnother f t ∧ t.freeCtr = u.freeCtr + 1)

/-- A refusal counts in `CMD_REFUSE` (R360); any other answer leaves it. -/
def RefusalCounted (code : Nat) (u t : State) : Prop :=
  if 0x10 ≤ code then
    t.get F.CMD_REFUSE.REFUSE_CNT = min (u.get F.CMD_REFUSE.REFUSE_CNT + 1) (fieldMax F.CMD_REFUSE.REFUSE_CNT.hi F.CMD_REFUSE.REFUSE_CNT.lo)
      ∧ t.get F.CMD_REFUSE.LAST_CODE = code
  else KeepsFields [F.SYS_ACC_STAT.UNLOCK_LAPSED] u t

/-- The Locker's jobs but for audit writes and those of a waiting read, without the instants from which they wait. -/
def otherJobs (p : Port) (k : ReadKey) (s : State) : List LkJob :=
  (s.lk.jobs.filter fun j => j.why != .audit && j.why != .reply p k).map fun j => { j with since := 0 }

/-- From acceptance `a` to `t` a command has only begun to wait for the lines of `count` words from byte address `addr` of the Locker
(R345, R347, R396, R494): it stands last among the waiting reads, in place of one with its key, each of those lines is asked for by
requester `who`, and no reply stands yet. -/
def WaitsForLines (op : Nat) (f : Req) (who : Fin 22) (addr count : Nat) (a t : State) : Prop :=
  t = { a with
    plnWork := t.plnWork
    lk := { a.lk with
      reads := (a.lk.reads.filter fun r => !r.is f.port (readKey f))
        ++ [{ op := BitVec.ofNat 8 op, req := f, idx := 0, addr := addr, count := count, lines := [] }]
      jobs := t.lk.jobs } }
  ∧ otherJobs f.port (readKey f) t = otherJobs f.port (readKey f) a
  ∧ (∀ j ∈ t.lk.jobs, j.why = .reply f.port (readKey f) → j.who = who ∧ j.bytes = none)
  ∧ ∀ line, addr / 32 ≤ line → line ≤ (addr + 4 * count - 1) / 32 → ∃ j ∈ t.lk.jobs, j.why = .reply f.port (readKey f)
      ∧ j.line ≤ line ∧ (line - j.line) % j.step = 0 ∧ (line - j.line) / j.step ≤ j.left

/-- The frame `f` as a queued command (R351): it has the next number, waits behind the others in the command queue, and stands
last among the commands not yet retired. -/
def queued (op : BitVec 8) (f : Req) (a : State) : State :=
  { a with ip := { a.ip with
    nextSeq := if a.ip.nextSeq = 0xFFFF then 1 else a.ip.nextSeq + 1
    cmdq := a.ip.cmdq ++ [qcmdOf op f a]
    ledger := a.ip.ledger ++ [(qcmdOf op f a, none)] } }

/-- From `a` to `u` a STARTED command has taken ticket `no`, the next one, with the work `jobs` for the security engine (R356):
the eight latest tickets are held, this one last and without a result. -/
def TicketTaken (no : BitVec 8) (jobs : List (BitVec 8 × SecJob)) (a u : State) : Prop :=
  u = { a with
    regs := u.regs
    ip := { a.ip with tickets := u.ip.tickets }
    sec := { a.sec with jobs := a.sec.jobs ++ jobs } }
  ∧ no.toNat = a.get F.CMD_TICKET.NEXT_TICKET ∧ u.get F.CMD_TICKET.NEXT_TICKET = (no.toNat + 1) % 256
  ∧ KeepsFields [F.CMD_TICKET.NEXT_TICKET] a u
  ∧ u.ip.tickets <:+ a.ip.tickets ++ [{ no := no, result := none }] ∧ u.ip.tickets.length = min 8 (a.ip.tickets.length + 1)

/-- The command of opcode `op` and frame `f` has ended in `t`: its work has led from acceptance to `u`, the reply carries the
status word and `data`, a refusal counts, and nothing else has changed. -/
def Ended (op : Nat) (f : Req) (s u : State) (code detail seq : Nat) (data : List Word) (t : State) : Prop :=
  Replies (sessN s f.port) op f (statusWords code detail seq data) t ∧ FrameEnds f u t ∧ RefusalCounted code u t

/-- The command of a frame completes with an answer, its work having led from acceptance to `u`. -/
def Answers (c : Instr) (s : State) (u : State) (code detail seq : Nat) (data : List Word) : Prop :=
  ∃ op f, frameOf c = some (op, f) ∧ Completes c s (Ended op f s u code detail seq data)

end Sys2Proof.Machine
end

