-- ==== Sys2Proof/Certificates/Slice0/Obligations.lean ====
section
/-!
DEFINITION. The statements for the provers. Each docstring says which rules of the spec its statement formalises.
-/

section

open Sys2Proof Sys2Proof.Machine

/-- For every command c, rest of the queue l and state s, step at s with c in front of l is exec of c at s with the
queue l; with an empty queue step answers s itself. That an empty queue idles is the model's choice (assumption log
2). -/
def Obligations.StepRunsTheFrontCommand : Prop :=  (∀ (c : Instr) (l : List Instr) (s : State),
      Machine.step { s with pending := c :: l } = Machine.exec c { s with pending := l })
  ∧ ∀ s : State, Machine.step { s with pending := [] } = .next { s with pending := [] }

/-- In State.reset every register address of the register map reads its reset word, the state is sound (canonical
memory, every queue within its bound, no Whistle left), and no command waits. The word is that of the register map;
for a field marked OPT or without a reset value it is the model's choice (assumption log 12 and 13). (R18.) -/
def Obligations.ResetHoldsTheStatedValues : Prop :=  State.reset.sound = true ∧ State.reset.pending = []
  ∧ ∀ (addr : Nat) (row : RegRow) (i j : Nat), ¬ isWaveAddr addr → regAt addr = some (row, i, j) →
      rfGet State.reset.regs addr = row.resetWord

/-- For every state s whose register file and Locker bytes are in canonical form (addresses rising, no entry equal to
what an unlisted address reads as), a step that answers a next state answers one with both in canonical form. So equal
contents stay equal data, and every address keeps exactly one value, through all 208 commands. (R361, R381, R388.) -/
def Obligations.EveryStepKeepsMemoryCanonical : Prop :=  ∀ s t : State, s.canonical = true → Machine.step s = .next t → t.canonical = true

/-- The register file and the stored bytes of State.reset are in canonical form, the start of the invariant
EveryStepKeepsMemoryCanonical. (R361.) -/
def Obligations.ResetIsCanonical : Prop :=  State.reset.canonical = true

/-- For every state s, if a step answers a next state t, the fused lifecycle code of t is not below that of s, the
number of the next audit entry is not below that of s, and the queue of t is the queue of s without its front command.
(R491, R494.) -/
def Obligations.LifecycleAndAuditNumbersGoForward : Prop :=  ∀ s t : State, Machine.step s = .next t →
    s.sec.life ≤ t.sec.life ∧ s.sec.auditNext ≤ t.sec.auditNext ∧ t.pending = s.pending.tail

/-- For every frame heard while the interpreter runs, NOP and RALLY_SYNC complete: the expected rally count becomes
ALIVE + 1 mod 16 and valid, the frame is counted, the stored reply has no payload after HEALTH, RALLY_SYNC leaves its
own frame alone in the reply store and NOP keeps the newest of the earlier ones behind it. Beside the acceptance and
the end of the frame nothing changes. A window outside a session whose words are a NOP with a good CRC and the expected rally
count, received as slave or run as master on HP once it is due, moves the rally count and stands first in the store. (R314, R315,
R316, R318, R326.) -/
def Obligations.NopAndRallySyncMoveTheRallyCount : Prop :=  (∀ (f : Req) (s : State), Heard f s → ∀ c : Instr, c = .nop f ∨ c = .rallySync f →
    let op := if c = .nop f then 0x00 else 0x01
    let a := accepted op f s
    Completes c s fun t =>
      Replies (sessN s f.port) op f [] t ∧ FrameEnds f a t
      ∧ t.get (portFld f.port F.HP_STAT.ALIVE_EXP F.AUX_PSTAT.ALIVE_EXP) = (f.alive.toNat + 1) % 16
      ∧ t.get (portFld f.port F.HP_STAT.ALIVE_VALID F.AUX_PSTAT.ALIVE_VALID) = 1
      ∧ (t.portSt f.port).store.length = (if op = 0x01 then 1 else min 2 ((s.portSt f.port).store.length + 1)))
    ∧ ∀ (w : Window) (s : State), s.whReq = [] → (w.port = .hp ∨ w.port = .aux) → sessOf s w.port = none → s.ip.running = true →
      (∀ r ∈ s.ip.pendReset, r.port ≠ w.port) → (∀ x, s.pw.sleepPend = some x → x.1 ≠ w.port) →
      let h := w.words.headD 0
      let p := w.port
      let expected := portFld p F.HP_STAT.ALIVE_EXP F.AUX_PSTAT.ALIVE_EXP
      headerOp h = 0x00 → headerLen h ≠ 31 → crc16 (wordsBytes (bodyWords w)) = BitVec.ofNat 16 (getBits (checkWord w) 31 16) →
      repeated s w = none → (∀ e ∈ (s.portSt p).store, e.alive.toNat ≠ getBits h 23 20) → s.get expected = getBits h 23 20 →
      let taken := fun t : State => t.get expected = (getBits h 23 20 + 1) % 16
        ∧ (t.portSt p).store.head?.map (fun e => e.alive.toNat) = some (getBits h 23 20)
      (portHears s p false = true → w.bits = 32 * (headerLen h + 2) → Completes (.frameReceive w) s taken)
      ∧ (p = .hp → portHears s .hp true = true → hpMasterReady w s = true → Completes (.hpMasterTransfer w) s taken)

/-- For every opcode of the command set but NOP and RALLY_SYNC and every frame that is heard: a payload length that is
not allowed answers BAD_LEN; then a DEV that is not the device and not reachable from a Captain answers NO_DEVICE
(COLLECT is exempt); then a class the port may not use answers AUTH_REQUIRED or ROLE_DENIED; then, for a frame to the
device itself, a mode that is not listed answers WRONG_MODE. A refused command has no effect beyond acceptance and,
for a class refusal, its audit entry, and receives no number. (R333, R336, R360.) -/
def Obligations.InterpreterChecksInOrder : Prop :=  ∀ (c : Instr) (op : Nat) (f : Req) (s : State), frameOf c = some (op, f) → op ≠ 0x00 → op ≠ 0x01 → Heard f s →
    let a := accepted op f s
    let here := op = 0x02 ∨ f.dev.toNat = devId a
    let reach := isCaptain a = true ∧ f.dev.toNat < a.get F.CV_STAT.STACK_N
    (lenAllowed op f.words.length = false → Answers c s a stBadLen 0 0 [])
    ∧ (lenAllowed op f.words.length = true → ¬ here → ¬ reach → Answers c s a stNoDevice 0 0 [])
    ∧ (lenAllowed op f.words.length = true → (here ∨ reach) → ∀ st, classStatus a f.port (classOf a op f.words) = st → st ≠ stOk →
        (st = stAuthRequired ∨ st = stRoleDenied)
        ∧ Completes c s fun t => ∃ u, Ended op f s u st 0 0 [] t ∧ u = { a with regs := u.regs, freeCtr := u.freeCtr, sec := u.sec }
          ∧ KeepsFields [F.SEC_AUDIT_CNT.AUDIT_LOST] a u)
    ∧ (lenAllowed op f.words.length = true → here → classStatus a f.port (classOf a op f.words) = stOk → modeAllowed op a.mode = false →
        Answers c s a stWrongMode 0 0 [])

/-- For every opcode of the command set but NOP, RALLY_SYNC and COLLECT: a frame that names another device of the
stack, heard by the Captain and passing orders 1, 2 and 4, answers ROUTED, and the route-return store ends with one
waiting entry of its DEV, ALIVE and TAG, the only one with that key; the store never grows past 16 from at most 16,
and nothing but the stack link and CMD_ROUTE changes beside it. A squad member that gets an IDENT frame with its own DEV sends the
words of R340 up under the index of the frame. (R340, R357, R358, R431.) -/
def Obligations.CaptainRoutesFramesOfOthers : Prop :=  (∀ (c : Instr) (op : Nat) (f : Req) (s : State), frameOf c = some (op, f) → op ≠ 0x00 → op ≠ 0x01 → op ≠ 0x02 → Heard f s →
    let a := accepted op f s
    lenAllowed op f.words.length = true → f.dev.toNat ≠ devId a → isCaptain a = true → f.dev.toNat < a.get F.CV_STAT.STACK_N →
    classStatus a f.port (classOf a op f.words) = stOk →
    Completes c s fun t => ∃ u idx, Ended op f s u stRouted 0 0 [] t
      ∧ u.ip.routes.getLast? = some { dev := f.dev, alive := f.alive, tag := f.tag, index := idx, reply := .waiting }
      ∧ (u.ip.routes.filter fun e => e.dev == f.dev && e.alive == f.alive && e.tag == f.tag).length = 1
      ∧ (a.ip.routes.length ≤ 16 → u.ip.routes.length ≤ 16)
      ∧ u = { a with regs := u.regs, ip := { a.ip with routes := u.ip.routes }, cv := u.cv }
      ∧ KeepsFields [F.CMD_ROUTE.RET_LOST, F.CMD_ROUTE.ROUTED_CNT] a u)
    ∧ ∀ (idx : BitVec 4) (h : Word) (words : List Word) (t0 : Nat) (s : State), s.whReq = [] → headerOp h = 0x08 → getBits h 19 16 = devId s →
      s.pd 8 = true → s.get F.CV_STAT.ROLE = 2 → s.ip.running = true → 2 ≤ s.mode →
      linkUp s .up = true → s.cv.up.waiting = [] → s.cv.up.replay.length + 2 ≤ 31 →
      Completes (.frameFlitReceive idx h words t0) s fun t => t.now = max s.now t0 ∧ t.axes = s.axes ∧ t.lk.cells = s.lk.cells
        ∧ ∃ e ∈ t.cv.up.replay, e.last = true ∧ ∃ hdr ws, e.msg = .reply (BitVec.ofNat 4 (getBits h 19 16)) idx hdr ws
          ∧ ws.tail = [0, BitVec.ofNat 32 (0x1680 + s.sec.life.toNat * 2 ^ 16), 0x11680A5B]

/-- For every frame heard and admitted, GET_STATUS, IDENT and STACK_INFO answer OK with the words the opcode tables
give, formed in the state of acceptance, and change nothing beside acceptance and the end of the frame. (R340, R348,
R364.) -/
def Obligations.StatusOpcodesAnswer : Prop :=  ∀ (f : Req) (s : State),
    (FrameReady 0x03 f s → let a := accepted 0x03 f s
      Answers (.getStatus f) s a stOk 0 0 [BitVec.ofNat 32 (a.mode + devId a % 16 * 2 ^ 4 + bitOf (isCaptain a) * 2 ^ 3),
        readWord a F.LAST_COMMITTED_SEQ.all.addr, readWord a F.CMD_STAT.all.addr, readWord a F.PLN_STATUS.all.addr,
        readWord a F.HP_ATTN.all.addr])
    ∧ (FrameReady 0x08 f s → let a := accepted 0x08 f s
      Answers (.ident f) s a stOk 0 0 [BitVec.ofNat 32 (0x1680 + a.sec.life.toNat * 2 ^ 16), 0x11680A5B])
    ∧ (FrameReady 0x63 f s → let a := accepted 0x63 f s
      Answers (.stackInfo f) s a stOk 0 0 [BitVec.ofNat 32 (max 1 (a.get F.CV_STAT.STACK_N) + devId a % 16 * 2 ^ 8
        + bitOf (isCaptain a) * 2 ^ 12 + bitOf (a.flag F.CV_STAT.ROLE_CONFLICT) * 2 ^ 13)])

/-- For every frame heard and admitted: RESULT answers NOT_FOUND, PENDING or the final status with the words from the
offset; GET_RETIRE answers up to 14 log entries from the number wanted, or none from an empty log; COLLECT answers
NOT_FOUND, PENDING, LINK_DOWN, or is a routed reply that leaves the store; SNAP_READ answers the words of its block, or
RANGE, with the first word beyond the block as DETAIL; AUDIT_READ answers NOT_FOUND where the ring holds no such entry and
else waits for the two lines of the entry; TRNG_READ answers as many words as asked, free values of the model, or RANGE or
BUSY. Nothing else changes. (R335, R354, R356, R358, R459, R494, R349.) -/
def Obligations.StoreReadsAnswer : Prop :=  ∀ (f : Req) (s : State), let w0 := f.words.getD 0 0
    (FrameReady 0x09 f s → let a := accepted 0x09 f s
      let held := a.ip.tickets.find? fun k => k.no.toNat == getBits w0 7 0
      (held = none → Answers (.result f) s a stNotFound 0 0 [])
      ∧ (∀ k, held = some k → k.result = none → Answers (.result f) s a stPending 0 0 [])
      ∧ (∀ k code ws, held = some k → k.result = some (code, ws) →
        Answers (.result f) s a code.toNat ws.length 0 ((ws.drop (getBits w0 12 8)).take 28)))
    ∧ (FrameReady 0x04 f s → let a := accepted 0x04 f s
      (∀ n, (∀ i, i < n → ((a.ip.log[i]?).map fun e => e.1.seq.toNat) ≠ some (getBits w0 15 0)) →
        ((a.ip.log[n]?).map fun e => e.1.seq.toNat) = some (getBits w0 15 0) →
        Answers (.getRetire f) s a stOk (min 14 (a.ip.log.length - n)) 0 (((a.ip.log.drop n).take 14).flatMap logWords))
      ∧ (a.ip.log = [] → Answers (.getRetire f) s a stOk 0 0 []))
    ∧ (FrameReady 0x02 f s → let a := accepted 0x02 f s
      let key := fun e : RouteEntry => e.dev == f.dev && e.alive.toNat == getBits w0 11 8 && e.tag.toNat == getBits w0 6 0
      let without := fun e : RouteEntry => { a with ip := { a.ip with routes := a.ip.routes.erase e } }
      let held := isCaptain a = true ∧ f.dev ≠ 0
      (a.ip.routes.find? key = none → Answers (.collect f) s a stNotFound 0 0 [])
      ∧ (∀ e, held → a.ip.routes.find? key = some e → e.reply = .waiting → Answers (.collect f) s a stPending 0 0 [])
      ∧ (∀ e, held → a.ip.routes.find? key = some e → e.reply = .lost → Answers (.collect f) s (without e) stLinkDown 0 0 [])
      ∧ (∀ e ws, held → a.ip.routes.find? key = some e → e.reply = .arrived ws →
          Completes (.collect f) s fun t => FrameEnds f (without e) t
            ∧ ((t.portSt f.port).store.head?.bind fun x => x.reply.map fun r => r.words) = some (ws.drop 1)))
    ∧ (FrameReady 0x62 f s → let a := accepted 0x62 f s
      let off := getBits (f.words.getD 1 0) 7 0
      let count := getBits (f.words.getD 1 0) 12 8
      (snapBlock a (getBits w0 7 0) = none → Answers (.snapRead f) s a stRange 0 0 [])
      ∧ (∀ ws, snapBlock a (getBits w0 7 0) = some ws → (count = 0 ∨ 28 < count ∨ ws.length < off + count) →
        Answers (.snapRead f) s a stRange (if count = 0 ∨ 28 < count then 0 else ws.length - off) 0 [])
      ∧ (∀ ws, snapBlock a (getBits w0 7 0) = some ws → 0 < count → count ≤ 28 → off + count ≤ ws.length →
        Answers (.snapRead f) s a stOk (a.get F.WH_STAT.LATCH_NO % 256) 0 ((ws.drop off).take count)))
    ∧ (FrameReady 0x77 f s → let a := accepted 0x77 f s
      ((∀ e ∈ a.sec.auditLog, e.1 % 4096 ≠ getBits w0 11 0) → Answers (.auditRead f) s a stNotFound 0 0 [])
      ∧ (∀ e ∈ a.sec.auditLog, e.1 % 4096 = getBits w0 11 0 →
          Completes (.auditRead f) s (WaitsForLines 0x77 f lkSecurity ((0x1FA000 + getBits w0 11 0 * 2) * 32) 16 a)))
    ∧ (FrameReady 0x78 f s → let a := accepted 0x78 f s
      let count := getBits w0 4 0
      (count = 0 ∨ 28 < count → Answers (.trngRead f) s a stRange 0 0 [])
      ∧ (0 < count → count ≤ 28 → (a.flag F.SEC_STAT.TRNG_FAIL = true ∨ a.flag F.BOOT_STAT.SELF_FAIL = true) →
        Answers (.trngRead f) s a stBusy 0 0 [])
      ∧ (0 < count → count ≤ 28 → a.flag F.SEC_STAT.TRNG_FAIL = false → a.flag F.BOOT_STAT.SELF_FAIL = false →
        Completes (.trngRead f) s fun t => ∃ ws : List Word, ws.length = count
          ∧ Ended 0x78 f s { a with freeCtr := a.freeCtr + count } stOk 0 0 ws t))

/-- For every frame heard and admitted, REG_READ answers RANGE with ACC_BAD for an access type other than 0, RANGE for
a count of 0 or above 28, and else OK with min(count, (0xFFFFFC - address)/4 + 1) words, the first as the register
reads at acceptance; ADDR_END is set where the count passes the end. Beside ADDR_END no register outside the addresses
read changes, and nothing but registers. (R364, R365, R366.) -/
def Obligations.RegReadAnswersWordByWord : Prop :=  ∀ (f : Req) (s : State), FrameReady 0x10 f s →
    let a := accepted 0x10 f s
    let w0 := f.words.getD 0 0
    let addr := getBits w0 23 2 * 4
    let count := getBits w0 28 24
    let n := min count ((0xFFFFFC - addr) / 4 + 1)
    (getBits w0 1 0 ≠ 0 → Completes (.regRead f) s fun t => ∃ u, Ended 0x10 f s u stRange 0 0 [] t ∧ u = { a with regs := u.regs }
      ∧ u.get F.SYS_ACC_STAT.ACC_BAD = 1 ∧ KeepsFields [F.SYS_ACC_STAT.ACC_BAD] a u)
    ∧ (getBits w0 1 0 = 0 → (count = 0 ∨ 28 < count) → Answers (.regRead f) s a stRange 0 0 [])
    ∧ (getBits w0 1 0 = 0 → 0 < count → count ≤ 28 → Completes (.regRead f) s fun t =>
      ∃ u ws, Ended 0x10 f s u stOk 0 0 ws t ∧ u = { a with regs := u.regs } ∧ ws.length = n
        ∧ (∃ b : State, b = (if n < count then a.raise F.SYS_ACC_STAT.ADDR_END else a) ∧ (ws, u) = regReads n addr b)
        ∧ (n = count → ws.head? = some (readWord a addr))
        ∧ (n < count → u.get F.SYS_ACC_STAT.ADDR_END = 1)
        ∧ ∀ g : Fld, g.addr < addr ∨ addr + 4 * n ≤ g.addr →
            (n < count → g.addr ≠ F.SYS_ACC_STAT.ADDR_END.addr ∨ 0 < g.lo) → u.get g = a.get g)

/-- For every frame heard and admitted, MEAS_READ answers OK with the ten words of R346 as they read at acceptance;
nothing but the FRESH bits of the seven measurement registers of that axis changes beside acceptance and the end of
the frame, and they read 0 afterwards while the domain of the axis is up. (R346, R364.) -/
def Obligations.MeasReadReturnsOneAxis : Prop :=  ∀ (f : Req) (s : State), FrameReady 0x40 f s →
    let a := accepted 0x40 f s
    let x := reqAxis f
    let fresh := [F.MS_CUR_W1.FRESH x, F.MS_CUR_W2.FRESH x, F.MS_SN_W1P.FRESH x, F.MS_SN_W1N.FRESH x, F.MS_SN_W2P.FRESH x,
      F.MS_SN_W2N.FRESH x, F.MS_VM.FRESH x]
    Completes (.measRead f) s fun t => ∃ u, Ended 0x40 f s u stOk 0 0 [readWord a (F.MS_CUR_W1.all x).addr, readWord a (F.MS_CUR_W2.all x).addr,
        readWord a (F.MS_SN_W1P.all x).addr, readWord a (F.MS_SN_W1N.all x).addr, readWord a (F.MS_SN_W2P.all x).addr,
        readWord a (F.MS_SN_W2N.all x).addr, readWord a (F.MS_VM.all x).addr, readWord a (F.AX_IREF.all x).addr,
        readWord a (F.AX_VCMD.all x).addr, readWord a (F.AX_LA.all x).addr] t
      ∧ u = { a with regs := u.regs } ∧ KeepsFields fresh a u ∧ (a.pd (3 + x.val / 4) = true → ∀ g ∈ fresh, u.get g = 0)

/-- For every frame heard and admitted that passes its checks of order 6 and 7, MOVE without REPLACE, RESUME and
RECIPE_APPLY answer QUEUED with the next number: the command stands last in the command queue and among the commands not
retired, and the next number is one higher, 1 after 0xFFFF. With 16 commands waiting they answer QUEUE_FULL. A MOVE out of
range answers RANGE, then a FAULT AXIS_FAULT, then a source other than PACKET WRONG_SOURCE; a stack time too near or a fifth
schedule answers RANGE or BUSY. RECIPE_ARM answers RECIPE_BAD for a slot outside the recipe partition and else waits for the
line of the slot's header. A queued MOVE may change the uncommitted plan of the moves before it on its axis, never what is
committed. Nothing else changes. A RECIPE_ARM at the front of the queue becomes the running arm of its slot; a RECIPE_APPLY
without a time schedules the armed recipe. (R351, R344, R347, R335, R72, R402, R404.) -/
def Obligations.QueuedCommandsWaitInTheQueue : Prop :=  ∀ (f : Req) (s : State),
    let ends := fun (c : Instr) (op : BitVec 8) (b : State) =>
      (b.ip.cmdq.length < 16 → Answers c s (queued op f b) stQueued 0 b.ip.nextSeq.toNat [])
      ∧ (16 ≤ b.ip.cmdq.length → Answers c s b stQueueFull 0 0 [])
    (FrameReady 0x20 f s → let a := accepted 0x20 f s
      let x := reqAxis f
      let ok := posLegal (moveTest a x (qcmdOf 0x20 f a))
      (ok = false → Answers (.move f) s a stRange 0 0 [])
      ∧ (ok = true → a.axState x = 6 → Answers (.move f) s a stAxisFault 0 0 [])
      ∧ (ok = true → a.axState x ≠ 6 → a.src x ≠ 0 → Answers (.move f) s a stWrongSource 0 0 [])
      ∧ (ok = true → a.axState x ≠ 6 → a.src x = 0 → (f.words.getD 0 0).getLsbD 2 = false →
        (16 ≤ a.ip.cmdq.length → Answers (.move f) s a stQueueFull 0 0 [])
        ∧ (a.ip.cmdq.length < 16 → Completes (.move f) s fun t => ∃ u, Ended 0x20 f s u stQueued 0 a.ip.nextSeq.toNat [] t
            ∧ u = { queued 0x20 f a with regs := u.regs, axes := u.axes } ∧ KeepsFields [F.PLN_OFFSIDE.COUNT] a u
            ∧ (∀ b : Axis, b ≠ x → u.ax b = a.ax b)
            ∧ u.ax x = { (a.ax x) with mot := { (a.mot x) with
                window := (u.mot x).window, phases := (u.mot x).phases, planEnd := (u.mot x).planEnd, chain := (u.mot x).chain
                seen := (u.mot x).seen } }
            ∧ ((u.mot x).chain.map fun c => c.seq) = (a.mot x).chain.map (fun c => c.seq)
            ∧ ((a.mot x).chain = [] → u = queued 0x20 f a))))
    ∧ (FrameReady 0x23 f s → let a := accepted 0x23 f s
      let x := reqAxis f
      (a.axState x = 6 → Answers (.resume f) s a stAxisFault 0 0 [])
      ∧ (a.axState x ≠ 6 → a.src x ≠ 0 → Answers (.resume f) s a stWrongSource 0 0 [])
      ∧ (a.axState x ≠ 6 → a.src x = 0 → ends (.resume f) 0x23 a))
    ∧ (FrameReady 0x52 f s → let a := accepted 0x52 f s
      let slot := getBits (f.words.getD 0 0) 7 0
      let inside := 0x20000 * (slot + 1) ≤ 0x100000 * (partRec a).2
      (¬ inside → Answers (.recipeArm f) s a stRecipeBad 0 0 [])
      ∧ (inside → Completes (.recipeArm f) s (WaitsForLines 0x52 f lkInterp (0x100000 * (partRec a).1 + slot * 0x20000) 1 a)))
    ∧ (FrameReady 0x53 f s → let a := accepted 0x53 f s
      let at_ := (f.words.getD 1 0).toNat + (f.words.getD 2 0).toNat * 2 ^ 32
      let timed := (f.words.getD 0 0).getLsbD 0
      let early := at_ < a.ltime + max 1 (a.get F.CV_STAT.STACK_N) * 160 + 2000
      let full := a.cv.sched.contains at_ = false ∧ 4 ≤ a.cv.sched.length
      (timed = true → early → Answers (.recipeApply f) s a stRange 0 0 [])
      ∧ (timed = true → ¬ early → full → Answers (.recipeApply f) s a stBusy 0 0 [])
      ∧ ((timed = false ∨ (¬ early ∧ ¬ full)) → ends (.recipeApply f) 0x53 a))
    ∧ (∀ (c : QCmd) (l : List QCmd), s.whReq = [] → s.ip.cmdq = c :: l → s.ip.running = true → s.lk.apply = none → s.lk.arm = none →
      (c.op = 0x52 → slotExists s (getBits (c.words.getD 0 0) 7 0) = true → Completes .recipeArmTakeUp s fun t => t.regs = s.regs
        ∧ ∃ a, t.lk.arm = some a ∧ a.seq = c.seq ∧ a.slot.toNat = getBits (c.words.getD 0 0) 7 0 ∧ a.lines = [])
      ∧ (c.op = 0x53 → s.lk.shadow ≠ none → (c.words.getD 0 0).getLsbD 0 = false → Completes .recipeApplyTakeUp s fun t =>
        t.lk.apply = some (c.seq, none) ∧ t.lk.shadow = s.lk.shadow ∧ t.get F.LK_RCP_STAT.APPLY_SCHED = 1
          ∧ KeepsFields [F.LK_RCP_STAT.APPLY_SCHED] s t))

/-- For every frame heard and admitted on an axis that is not in FAULT, with room in the queue or made there by the
waiting commands of the axis: on PACKET, JOG and a MOVE with REPLACE whose profile is usable and whose target passes R45
and R86, and a STOP of an axis that moves and is not stopping, also while the executor brakes it, answer QUEUED with the
next number and put a pending cut of their kind on the axis, at the first half-period boundary 40 µs later, for JOG and
REPLACE not before an unpowered deceleration under STOP_FREE ends (the model's reading, assumption log 135), planned from
the state the axis has there; JOG and REPLACE leave no earlier motion command of the axis waiting. Any other STOP is
decided at once: of a stopping or standing axis nothing is left planned behind the stop, and a follower leaves at its cut
instant. Other axes are untouched. (R352, R77, R54, R79, R87, R88, R100.) -/
def Obligations.CutCommandsStartACut : Prop :=  ∀ (f : Req) (s : State), let x := reqAxis f
    let room := fun a : State => a.axState x ≠ 6 ∧ (a.ip.cmdq.length < 16 ∨ axisWaits a x = true)
    let set := fun a : State => profOf a x (getBits (f.words.getD 0 0) 5 4)
    let due := fun a : State => halfAfter a x (a.now + 40 * usT)
    let free := fun a : State => halfAfter a x (max (a.now + 40 * usT) (freeUntil a x))
    let waits := fun u : State => ∃ q ∈ u.ip.cmdq, q.axis.toNat = x.val ∧ 0x20 ≤ q.op.toNat ∧ q.op.toNat < 0x40
    let local_ := fun a u : State => u.ip.nextSeq = (if a.ip.nextSeq = 0xFFFF then 1 else a.ip.nextSeq + 1)
        ∧ (∀ b : Axis, b ≠ x → u.ax b = a.ax b)
        ∧ u = { a with regs := u.regs, axes := u.axes, ip := { a.ip with nextSeq := u.ip.nextSeq, cmdq := u.ip.cmdq, ledger := u.ip.ledger, log := u.ip.log } }
    let cuts := fun (a u : State) (k : CutKind) =>
      let at_ := if k = .stop then due a else free a
      ∃ cut, (u.mot x).cut = some cut ∧ cut.kind = k ∧ cut.seq = some a.ip.nextSeq
        ∧ (u.mot x).window = [] ∧ cut.at_ = at_ ∧ cut.base = motionAt a x at_ ∧ (k ≠ .stop → ¬ waits u) ∧ local_ a u
    (FrameReady 0x22 f s → let a := accepted 0x22 f s
      let new := stopping a x = false ∧ (atStandstill a x = false ∨ (a.mot x).cut ≠ none)
      (a.axState x = 6 → Answers (.stop f) s a stAxisFault 0 0 [])
      ∧ (room a → a.src x = 0 → new → Completes (.stop f) s fun t => ∃ u, Ended 0x22 f s u stQueued 0 a.ip.nextSeq.toNat [] t ∧ cuts a u .stop)
      ∧ (room a → a.src x = 0 → ¬ new → Completes (.stop f) s fun t => ∃ u, Ended 0x22 f s u stQueued 0 a.ip.nextSeq.toNat [] t
          ∧ local_ a u ∧ ¬ waits u ∧ Decided a.ip.nextSeq u ∧ (u.mot x).cut = (a.mot x).cut ∧ (u.mot x).queue = (a.mot x).queue
          ∧ (u.mot x).brake = (a.mot x).brake ∧ (u.mot x).chain = [] ∧ (∀ g ∈ (u.mot x).window, g.kind = .stop)
          ∧ ∀ q ∈ openSeqs (a.mot x), Decided q u)
      ∧ (room a → a.src x ≠ 0 → Completes (.stop f) s fun t => ∃ u, Ended 0x22 f s u stQueued 0 a.ip.nextSeq.toNat [] t
          ∧ local_ a u ∧ ¬ waits u ∧ Decided a.ip.nextSeq u ∧ u.mot x = a.mot x ∧ (u.fol x).engSeq = none
          ∧ (fstate a x = 1 → fstate u x = 0)
          ∧ ((fstate a x = 2 ∨ fstate a x = 3) → fstate u x = fstate a x ∧ (u.fol x).exitAt = some (due a))))
    ∧ (FrameReady 0x21 f s → let a := accepted 0x21 f s
      room a → a.src x = 0 → (signedOf 32 (f.words.getD 1 0).toNat).natAbs ≤ 0x4E200000 → (set a).usable = true →
        Completes (.jog f) s fun t => ∃ u, Ended 0x21 f s u stQueued 0 a.ip.nextSeq.toNat [] t ∧ cuts a u .jog)
    ∧ (FrameReady 0x20 f s → let a := accepted 0x20 f s
      let d := moveDist (qcmdOf 0x20 f a)
      let jog := jogOpen a x || jogEnding a x
      let goal := fun at_ : Nat => if (f.words.getD 0 0).getLsbD 0 then (if jog then (motionAt a x at_).p else (a.mot x).target) + d else d
      room a → a.src x = 0 → (f.words.getD 0 0).getLsbD 2 = true → posLegal (moveTest a x (qcmdOf 0x20 f a)) = true →
        (set a).usable = true → posLegal (goal (due a)) = true → posLegal (goal (free a)) = true → outsideTravel a x (goal (due a)) = false →
        Completes (.move f) s fun t => ∃ u, Ended 0x20 f s u stQueued 0 a.ip.nextSeq.toNat [] t ∧ cuts a u .replace ∧ (u.mot x).target = goal (free a))

/-- For every frame heard and admitted that passes its checks, each of these commands answers STARTED with the next
ticket, which is held last among the at most eight tickets without a result; the ticket count moves on by one modulo
256; the work waits for the security engine, or in the queue of the AUX port. Nothing else changes. A pending SLEEP,
or for SESSION_OPEN a lockout or a failed TRNG, answers BUSY. The result of a PATCH_LOAD that verifies arms its slot, is audited
and ends its ticket with OK. (R356, R335, R484, R487, R491.) -/
def Obligations.StartedCommandsTakeATicket : Prop :=  ∀ (f : Req) (s : State), let w0 := f.words.getD 0 0
    let started := fun (op : Nat) (a : State) (j : SecJob) (t : State) =>
      ∃ u no, Ended op f s u stStarted no.toNat 0 [] t ∧ TicketTaken no [(no, j)] a u
    let awake := fun a : State => a.pw.sleepPend = none
    let healthy := fun a : State => a.flag F.BOOT_STAT.SELF_FAIL = false
    (FrameReady 0x70 f s → let a := accepted 0x70 f s
      ∀ mac, (awake a → healthy a → a.flag F.SEC_STAT.TRNG_FAIL = false → (a.sessPort f.port).lockEnd = none → (a.sessPort f.port).sess = none →
          Completes (.sessionOpen f mac) s (started 0x70 a (.sessOpen f.port f.words)))
        ∧ ((¬ awake a ∨ ¬ healthy a ∨ a.flag F.SEC_STAT.TRNG_FAIL = true ∨ (a.sessPort f.port).lockEnd ≠ none
            ∨ ((a.sessPort f.port).sess ≠ none ∧ mac = false)) → Answers (.sessionOpen f mac) s a stBusy 0 0 []))
    ∧ (FrameReady 0x71 f s → let a := accepted 0x71 f s
      (awake a → Completes (.sessionConfirm f) s (started 0x71 a (.sessConfirm f.port f.words)))
        ∧ (¬ awake a → Answers (.sessionConfirm f) s a stBusy 0 0 []))
    ∧ (FrameReady 0x73 f s → let a := accepted 0x73 f s
      (keyInstallRange a f.words = true → Answers (.keyInstall f) s a stRange 0 0 [])
        ∧ (keyInstallRange a f.words = false → awake a → healthy a →
          Completes (.keyInstall f) s (started 0x73 a (.keyInstall f.words (jobRole a f.port) f.port))))
    ∧ (FrameReady 0x74 f s → let a := accepted 0x74 f s
      (awake a → Completes (.lifecycle f) s (started 0x74 a (.lifecycle w0 (jobRole a f.port) f.port)))
        ∧ (¬ awake a → Answers (.lifecycle f) s a stBusy 0 0 []))
    ∧ (FrameReady 0x75 f s → let a := accepted 0x75 f s
      (4 ≤ getBits w0 3 0 → Answers (.patchLoad f) s a stRange 0 0 [])
        ∧ (∀ k : Fin 4, k.val = getBits w0 3 0 → awake a → healthy a →
          Completes (.patchLoad f) s (started 0x75 a (.patchLoad k (jobRole a f.port) f.port))))
    ∧ (FrameReady 0x81 f s → let a := accepted 0x81 f s
      let bits := getBits w0 26 16
      ((bits < 8 ∨ 1024 < bits) → Answers (.auxXfer f) s a stRange 0 0 [])
        ∧ (8 ≤ bits → bits ≤ 1024 → a.flag F.AUX_CFG.ROLE = false → awake a → a.auxm.queue.length < 4 →
          Completes (.auxXfer f) s fun t => ∃ u no q,
            Ended 0x81 f s { u with auxm := { a.auxm with queue := a.auxm.queue ++ [q] } } stStarted no.toNat 0 [] t
            ∧ TicketTaken no [] a u ∧ q.ticket = no ∧ q.sel.val = getBits w0 1 0 ∧ q.bits = bits ∧ q.words = f.words.drop 1))
    ∧ (∀ (no : BitVec 8) (k : Fin 4) (role : BitVec 2) (p : Port) (svn : BitVec 5), s.whReq = [] → s.pd 1 = true → s.get F.BOOT_STAT.SELF_FAIL = 0 →
      s.sec.jobs.find? (fun j => j.1 = no) = some (no, .patchLoad k role p) → Completes (.ticketResult no true svn) s fun t =>
        (∀ j ∈ t.sec.jobs, j.1 ≠ no) ∧ (t.sec.patches[k]).armed = some svn ∧ Audited 8 (portNo p) s t ∧ t.sec.keys = s.sec.keys
          ∧ t.sec.life = s.sec.life ∧ t.axes = s.axes ∧ t.ip.tickets = s.ip.tickets.map (fun q =>
            if q.no = no ∧ q.result = none then { q with result := some (BitVec.ofNat 8 stOk, []) } else q))

/-- For every frame heard and admitted, MODE answers RANGE for BOOT, BUSY while TRANSIT is set, OK without effect for
the present mode, WRONG_MODE for a target that R503 does not list; a listed target other than RUN and SLEEP, entered
at a standstill where it leaves RUN or HALT for READY, answers OK with TRANSIT set and the target in TRANSIT. RESET
answers RANGE for a target above 8, BUSY for a block while another block's reset runs, a moving axis of the quad or a
running STORE forbids it (an accepted block reset that has not begun counts as running: the model's choice, assumption log
146), LOCKED without its key, and else OK with the reset waiting 1 ms at most, behind those accepted before. Nothing else
changes. A waiting reset begins at L2, at L3, or as the reset of its block. (R339, R340, R341, R503, R506, R540.) -/
def Obligations.ModeAndResetAreAcceptedOrRefused : Prop :=  ∀ (f : Req) (s : State), let w0 := f.words.getD 0 0
    (FrameReady 0x05 f s → let a := accepted 0x05 f s
      let m := getBits w0 2 0
      let listed := (a.mode, m) ∈ [(2, 3), (2, 4), (2, 7), (2, 0), (3, 2), (3, 4), (3, 7), (3, 0), (4, 2), (4, 3), (4, 5), (4, 7),
        (4, 0), (5, 4), (5, 6), (5, 7), (6, 4), (6, 5), (6, 7), (7, 2), (7, 3), (7, 4), (7, 0)]
      (m = 1 → Answers (.mode f) s a stRange 0 0 [])
      ∧ (m ≠ 1 → a.flag F.MODE_STAT.TRANSIT = true → Answers (.mode f) s a stBusy 0 0 [])
      ∧ (m ≠ 1 → a.flag F.MODE_STAT.TRANSIT = false → m = a.mode → Answers (.mode f) s a stOk 0 0 [])
      ∧ (m ≠ 1 → a.flag F.MODE_STAT.TRANSIT = false → m ≠ a.mode → ¬ listed → Answers (.mode f) s a stWrongMode 0 0 [])
      ∧ (a.flag F.MODE_STAT.TRANSIT = false → m ≠ a.mode → listed → m ≠ 5 → m ≠ 0 → (m = 4 → (a.mode = 5 ∨ a.mode = 6) → allStill a = true) →
        Completes (.mode f) s fun t => ∃ u, Ended 0x05 f s u stOk 0 0 [] t ∧ u = { a with regs := u.regs, pw := { a.pw with transit := some (BitVec.ofNat 3 m, 1) } }
          ∧ u.get F.MODE_STAT.TRANSIT = 1 ∧ KeepsFields [F.MODE_STAT.TRANSIT] a u))
    ∧ (FrameReady 0x06 f s → let a := accepted 0x06 f s
      let t := getBits w0 3 0
      let busy := 2 ≤ t ∧ (a.rst.block ≠ none ∨ (∃ p ∈ a.ip.pendReset, 2 ≤ p.target.toNat)
        ∨ (∃ x : Axis, (quadOf x).val + 2 = t ∧ 2 ≤ a.axState x ∧ a.axState x ≤ 4) ∨ (t = 6 ∧ a.flag F.BK_DEV_STAT.STORE_BUSY = true))
      (8 < t → Answers (.reset f) s a stRange 0 0 [])
      ∧ (t ≤ 8 → busy → Answers (.reset f) s a stBusy 0 0 [])
      ∧ (t ≤ 8 → ¬ busy → getBits w0 31 16 ≠ 0x5A3C → Answers (.reset f) s a stLocked 0 0 [])
      ∧ (t ≤ 8 → ¬ busy → getBits w0 31 16 = 0x5A3C →
        Answers (.reset f) s { a with ip := { a.ip with
            pendReset := a.ip.pendReset ++ [{ target := BitVec.ofNat 4 t, port := f.port, deadline := f.t + msT }] } } stOk 0 0 []))
    ∧ (∀ (p : PendReset) (l : List PendReset), s.whReq = [] → s.ip.pendReset = p :: l → s.rst.boot = .done →
      (p.target = 0 → Completes .resetBegin s (DeepReset 5 2 (portNo p.port) s))
      ∧ (p.target = 1 → Completes .resetBegin s (InterpreterReset 5 (portNo p.port) s))
      ∧ (2 ≤ p.target.toNat → p.target.toNat ≤ 8 → Completes .resetBegin s fun t => t.ip.pendReset = l ∧ t.rst.block = some p.target
          ∧ t.get F.BLK_RST_STAT.BLK_BUSY = 2 ^ (p.target.toNat - 2)))

/-- For every frame heard and admitted: POS_SET of an axis at standstill with nothing planned sets position and target,
latches both encoder references and clears REMAIN_VALID and POSITION_UNCERTAIN; SOURCE of a DISENGAGED axis with nothing
planned sets SRC, and clears REMAIN_VALID where that is a change; of an engaged axis it takes the follower out first; BUSY
also answers it while an accepted ENGAGE has not begun (the model's choice, assumption log 138); EXIT
has no effect on a DISENGAGED axis, cancels a WAITING one, gives a STEPDIR or GEAR follower its cut instant and arms the
exit point of a CAM follower; GEAR_RATIO of an engaged axis takes the ratio registers for its next boundary and is BUSY
for another; PROBE starts a burst, or is BUSY. (R344, R345, R97, R100, R114, R125, R184, R185.) -/
def Obligations.PositionAndSourceCommandsAct : Prop :=  ∀ (f : Req) (s : State), let x := reqAxis f
    (FrameReady 0x24 f s → let a := accepted 0x24 f s
      let p := signedOf 48 ((f.words.getD 0 0).toNat + (f.words.getD 1 0).toNat % 65536 * 2 ^ 32)
      (a.axState x = 6 → Answers (.posSet f) s a stAxisFault 0 0 [])
      ∧ (a.axState x ≠ 6 → (a.axOn x = false ∨ atStandstill a x = false ∨ axisPlanned a x = true ∨ fstate a x ≠ 0) →
        Answers (.posSet f) s a stBusy 0 0 [])
      ∧ (a.axState x ≠ 6 → a.axOn x = true → atStandstill a x = true → axisPlanned a x = false → fstate a x = 0 →
        Completes (.posSet f) s fun t => ∃ u, Ended 0x24 f s u stOk 0 0 [] t
          ∧ u = { (a.modMot x fun m => { m with pos := p * 65536, target := p * 65536, planEnd := { p := p * 65536, v := 0, a := 0 } }) with regs := u.regs }
          ∧ u.get (F.AX_PLN_STAT.REMAIN_VALID x) = 0 ∧ u.get (F.AX_LA_STAT.POSITION_UNCERTAIN x) = 0
          ∧ u.get (F.AX_ENC_PREF_LO.PREF x) = toBits 64 (p * 65536) % 2 ^ 32 ∧ u.get (F.AX_ENC_PREF_HI.PREF x) = toBits 64 (p * 65536) / 2 ^ 32
          ∧ u.get (F.AX_ENC_CREF_LO.CREF x) = toBits 64 (fbUnwrapped a x) % 2 ^ 32
          ∧ u.get (F.AX_ENC_CREF_HI.CREF x) = toBits 64 (fbUnwrapped a x) / 2 ^ 32
          ∧ KeepsFields [F.AX_PLN_STAT.REMAIN_VALID x, F.AX_LA_STAT.POSITION_UNCERTAIN x, F.AX_ENC_CREF_LO.CREF x, F.AX_ENC_CREF_HI.CREF x,
              F.AX_ENC_PREF_LO.PREF x, F.AX_ENC_PREF_HI.PREF x, F.WH_LOST.POS_UNKNOWN] a u))
    ∧ (FrameReady 0x30 f s → let a := accepted 0x30 f s
      let k := getBits (f.words.getD 0 0) 1 0
      let ready := (k = 0 ∨ ((a.axState x = 1 ∨ a.axState x = 5) ∧ atStandstill a x = true)) ∧ axisPlanned a x = false
        ∧ (a.fol x).engSeq = none ∧ (a.fol x).exitAt = none ∧ a.axOn x = true
      (k ≠ 0 → a.axState x = 6 → Answers (.source f) s a stAxisFault 0 0 [])
      ∧ ((k = 0 ∨ a.axState x ≠ 6) → ¬ ready → Answers (.source f) s a stBusy 0 0 [])
      ∧ (ready → fstate a x = 0 → (k = 0 ∨ a.axState x ≠ 6) → Completes (.source f) s fun t => ∃ u, Ended 0x30 f s u stOk 0 0 [] t
          ∧ u = { (a.modFol x fun q => { q with srcPend := none }) with regs := u.regs }
          ∧ u.get (F.AX_FOLLOW_STAT.SRC x) = k
          ∧ u.get (F.AX_PLN_STAT.REMAIN_VALID x) = (if a.src x = k then a.get (F.AX_PLN_STAT.REMAIN_VALID x) else 0)
          ∧ KeepsFields [F.AX_FOLLOW_STAT.SRC x, F.AX_PLN_STAT.REMAIN_VALID x] a u)
      ∧ (ready → k = 0 → (fstate a x = 2 ∨ fstate a x = 3) → Completes (.source f) s fun t => Ended 0x30 f s
          (a.modFol x fun q => { q with srcPend := some 0, exitAt := some (halfAfter a x (a.now + 40 * usT)) }) stOk 0 0 [] t))
    ∧ (FrameReady 0x32 f s → let a := accepted 0x32 f s
      (fstate a x = 0 → Completes (.exit f) s (Ended 0x32 f s a stOk 0 0 []))
      ∧ (fstate a x = 1 → Completes (.exit f) s fun t => ∃ u, Ended 0x32 f s u stOk 0 0 [] t ∧ BesideAxes a u ∧ fstate u x = 0
          ∧ u.mot x = a.mot x ∧ (u.fol x).engSeq = none ∧ ∀ b : Axis, b ≠ x → u.ax b = a.ax b)
      ∧ ((fstate a x = 2 ∨ fstate a x = 3) → ¬ (a.src x = 3 ∧ fstate a x = 3) → Completes (.exit f) s
          (Ended 0x32 f s (a.modFol x fun q => { q with exitAt := some (halfAfter a x (a.now + 40 * usT)) }) stOk 0 0 []))
      ∧ (a.src x = 3 → fstate a x = 3 → Completes (.exit f) s (Ended 0x32 f s (a.modFol x fun q => { q with
          exitArmed := true, prevM := (mchAt a (chanOf a x) a.now).getD (a.fol x).prevM }) stOk 0 0 [])))
    ∧ (FrameReady 0x33 f s → let a := accepted 0x33 f s
      let engaged := a.src x = 2 ∧ (fstate a x = 2 ∨ fstate a x = 3)
      (¬ engaged → Answers (.gearRatio f) s a stBusy 0 0 [])
      ∧ (engaged → Answers (.gearRatio f) s (a.modFol x fun q => { q with
          gearPend := some (a.getS (F.AX_GEAR_NUM.NUM x), a.get (F.AX_GEAR_DEN.DEN x), a.get (F.AX_GEAR_RAMP.RAMP x)) }) stOk 0 0 []))
    ∧ (FrameReady 0x41 f s → let a := accepted 0x41 f s
      (probeReady a x = false → Answers (.probe f) s a stBusy 0 0 [])
      ∧ (probeReady a x = true → Completes (.probe f) s fun t => ∃ u p, Ended 0x41 f s u stOk 0 0 [] t
          ∧ u = { (a.modAx x fun q => { q with probe := some p }) with regs := u.regs } ∧ p.n = 0 ∧ p.at_ = a.now
          ∧ u.get (F.AX_PROBE_SET.PROBE_ACT x) = 1 ∧ KeepsFields [F.AX_PROBE_SET.PROBE_ACT x] a u))

/-- For every frame heard and admitted: ENGAGE of a PACKET axis answers WRONG_SOURCE and of an axis in FAULT
AXIS_FAULT; ENGAGE of a DISENGAGED STEPDIR or GEAR axis, ARMED or STOPPED at standstill with no engagement pending,
answers QUEUED with the next number: STEPDIR is ENGAGED at once in state FOLLOWING, GEAR holds its channel and ratio
for the next boundary. ENGAGE of a CAM axis, and CAM_NEXT of one that waits for its entry point or follows, wait for the line
of the table's directory entry, and CAM_NEXT of another axis answers BUSY. Only the axis named and the records of commands
change. (R345, R352, R99, R113, R396, R397.) -/
def Obligations.FollowersEngageUnderANumber : Prop :=  ∀ (f : Req) (s : State), let x := reqAxis f
    let w0 := f.words.getD 0 0
    let next := fun a : State => if a.ip.nextSeq = 0xFFFF then (1 : BitVec 16) else a.ip.nextSeq + 1
    (FrameReady 0x31 f s → let a := accepted 0x31 f s
      let calm := a.axState x ≠ 6 ∧ axisWaits a x = false ∧ fstate a x = 0 ∧ (a.fol x).engSeq = none ∧ (a.fol x).gearPend = none
        ∧ (a.axState x = 1 ∨ a.axState x = 5) ∧ atStandstill a x = true ∧ a.ip.cmdq.length < 16
      (a.axState x = 6 → Answers (.engage f) s a stAxisFault 0 0 [])
      ∧ (a.axState x ≠ 6 → a.src x = 0 → Answers (.engage f) s a stWrongSource 0 0 [])
      ∧ (calm → a.src x = 1 → Completes (.engage f) s fun t => ∃ u, Ended 0x31 f s u stQueued 0 a.ip.nextSeq.toNat [] t ∧ BesideAxes { a with ip := { a.ip with nextSeq := next a } } u
          ∧ fstate u x = 3 ∧ u.axState x = 3 ∧ (u.fol x).stepT = (a.mot x).pos ∧ (u.fol x).engSeq = none ∧ ∀ b : Axis, b ≠ x → u.ax b = a.ax b)
      ∧ (calm → a.src x = 2 → Completes (.engage f) s fun t => ∃ u, Ended 0x31 f s u stQueued 0 a.ip.nextSeq.toNat [] t
          ∧ u = { (a.modFol x fun q => { q with
                engSeq := some a.ip.nextSeq, gear := none
                gearPend := some (a.getS (F.AX_GEAR_NUM.NUM x), a.get (F.AX_GEAR_DEN.DEN x), a.get (F.AX_GEAR_RAMP.RAMP x)) }) with
              regs := u.regs, ip := { a.ip with nextSeq := next a, ledger := a.ip.ledger ++ [(qcmdOf 0x31 f a, none)] } }
          ∧ u.get (F.AX_FOLLOW_STAT.MCH x) = getBits w0 1 0 ∧ KeepsFields [F.AX_FOLLOW_STAT.MCH x] a u)
      ∧ (calm → a.src x = 3 → Completes (.engage f) s
          (WaitsForLines 0x31 f lkInterp (0x100000 * (partCam a).1 + 16 * getBits w0 15 8) 4 a)))
    ∧ (FrameReady 0x34 f s → let a := accepted 0x34 f s
      let active := axisWaits a x = false ∧ a.src x = 3 ∧ (fstate a x = 1 ∨ fstate a x = 3)
      (¬ active → Answers (.camNext f) s a stBusy 0 0 [])
      ∧ (active → Completes (.camNext f) s (WaitsForLines 0x34 f lkInterp (0x100000 * (partCam a).1 + 16 * getBits w0 7 0) 4 a)))

/-- For every frame heard and admitted: a REG_WRITE or BACKSTOP_SET whose first write fails, and a REG_BLOCK_WRITE
whose first word fails, answers the status of that check with DETAIL 0 and performs no later write. A write in the BK
block by REG_WRITE answers ROLE_DENIED, one outside it by BACKSTOP_SET RANGE. A write of SYS_SCRATCH by REG_WRITE or
REG_BLOCK_WRITE stores its data word and nothing else; a limit rate written by BACKSTOP_SET is stored and audited. A
payload whose every address is unimplemented answers OK and changes nothing but the unlock. (R343, R367, R371.) -/
def Obligations.WriteOpcodesStopAtTheFirstFailure : Prop :=  ∀ (f : Req) (s : State), let addr := getBits (f.words.getD 0 0) 23 2 * 4
    let typ := getBits (f.words.getD 0 0) 1 0
    let first := fun (bk : Bool) (a : State) => writeReg f.port bk addr typ (f.words.getD 1 0) a
    let bare := fun a : State => { a with ip := { a.ip with unlocked := false } }
    let scratch := fun (op : Nat) (a t : State) => ∃ u, Ended op f s u stOk 0 0 [] t ∧ u = { bare a with regs := u.regs }
      ∧ u.get F.SYS_SCRATCH.all = (f.words.getD 1 0).toNat ∧ KeepsFields [F.SYS_SCRATCH.all] a u
    let empty := fun n : Nat => inBk n = false ∧ isWaveAddr n = false ∧ regAt n = none
    (FrameReady 0x11 f s → let a := accepted 0x11 f s
      ((first false a).2 ≠ stOk → Answers (.regWrite f) s (first false a).1 (first false a).2 0 0 [])
      ∧ (f.words.length = 2 → typ = 0 → addr = F.SYS_SCRATCH.all.addr → Completes (.regWrite f) s (scratch 0x11 a))
      ∧ (typ ≠ 3 → inBk addr = true → Answers (.regWrite f) s (bare a) stRoleDenied 0 0 [])
      ∧ (f.words.length = 2 → typ ≠ 3 → empty addr → Answers (.regWrite f) s (bare a) stOk 0 0 []))
    ∧ (FrameReady 0x12 f s → let a := accepted 0x12 f s
      ((first false a).2 ≠ stOk → Answers (.regBlockWrite f) s (first false a).1 (first false a).2 0 0 [])
      ∧ (f.words.length = 2 → typ = 0 → addr = F.SYS_SCRATCH.all.addr → Completes (.regBlockWrite f) s (scratch 0x12 a))
      ∧ (typ ≠ 3 → addr + 4 * f.words.length < 0x1000000 → (∀ i < f.words.length - 1, empty (addr + 4 * i)) →
        Answers (.regBlockWrite f) s (bare a) stOk 0 0 []))
    ∧ (FrameReady 0x76 f s → let a := accepted 0x76 f s
      ((first true a).2 ≠ stOk → Answers (.backstopSet f) s (first true a).1 (first true a).2 0 0 [])
      ∧ (typ ≠ 3 → inBk addr = false → addr < 0x1000000 → Answers (.backstopSet f) s (bare a) stRange 0 0 [])
      ∧ (∀ x : Axis, f.words.length = 2 → typ = 0 → addr = (F.BK_VMAX.all x).addr → 1 ≤ (f.words.getD 1 0).toNat → (f.words.getD 1 0).toNat ≤ 1310720000 →
        Completes (.backstopSet f) s fun t => ∃ u, Ended 0x76 f s u stOk 0 0 [] t ∧ u.sec.auditNext = a.sec.auditNext + 1
          ∧ u = { bare a with regs := u.regs, freeCtr := u.freeCtr, sec := u.sec }
          ∧ u.get (F.BK_VMAX.VMAX x) = (f.words.getD 1 0).toNat ∧ KeepsFields [F.BK_VMAX.VMAX x, F.SEC_AUDIT_CNT.AUDIT_LOST] a u))

/-- For every frame heard and admitted: LK_READ and TRACE_READ answer RANGE for a misaligned address, a count of 0 or
above 28 or an end beyond their space, with the first word beyond it as DETAIL; else the read waits with jobs over the lines
of its bytes, and no reply stands until they are read. LK_WRITE answers RANGE for an address off a line or beyond the system
region, BUSY while a SLEEP waits, else STARTED with the next ticket and a job of its data. A command that waits for lines
answers BUSY at LK_READ_TIMEOUT, and neither it nor a job of it is left; READ_BUSY counts a read of words, DETAIL names the
first word that is missing (that a command which waits for a directory entry, a recipe header or an audit entry ends so,
uncounted, is the model's choice, assumption log 150). (R335, R347, R396, R393, R356.) -/
def Obligations.LockerOpcodesReadAndWriteLines : Prop :=  ∀ (f : Req) (s : State), let w0 := f.words.getD 0 0
    let count := getBits (f.words.getD 1 0) 4 0
    let misses := fun at_ top : Nat => if at_ % 4 ≠ 0 ∨ count = 0 ∨ 28 < count then 0 else (top - at_) / 4
    (FrameReady 0x50 f s → let a := accepted 0x50 f s
      let addr := getBits w0 25 0
      let ok := addr % 4 = 0 ∧ 0 < count ∧ count ≤ 28 ∧ addr + 4 * count ≤ 0x3F00000
      (¬ ok → Answers (.lkRead f) s a stRange (misses addr 0x3F00000) 0 [])
      ∧ (ok → Completes (.lkRead f) s (WaitsForLines 0x50 f lkInterp addr count a)))
    ∧ (FrameReady 0x54 f s → let a := accepted 0x54 f s
      let size := 0x100000 * (partTrc a).2
      let ok := w0.toNat % 4 = 0 ∧ 0 < count ∧ count ≤ 28 ∧ w0.toNat + 4 * count ≤ size
      (¬ ok → Answers (.traceRead f) s a stRange (misses w0.toNat size) 0 [])
      ∧ (ok → Completes (.traceRead f) s (WaitsForLines 0x54 f lkInterp (0x100000 * (partTrc a).1 + w0.toNat) count a)))
    ∧ (FrameReady 0x51 f s → let a := accepted 0x51 f s
      let addr := getBits w0 25 0
      let ok := addr % 32 = 0 ∧ addr + 4 * (f.words.length - 1) ≤ 0x3F00000
      (¬ ok → Answers (.lkWrite f) s a stRange 0 0 [])
      ∧ (ok → a.pw.sleepPend ≠ none → Answers (.lkWrite f) s a stBusy 0 0 [])
      ∧ (ok → a.pw.sleepPend = none → Completes (.lkWrite f) s fun t => ∃ u no, Ended 0x51 f s u stStarted no.toNat 0 [] t ∧ no.toNat = a.get F.CMD_TICKET.NEXT_TICKET
          ∧ u.ip.tickets.getLast? = some { no := no, result := none }
          ∧ ∃ j ∈ u.lk.jobs, j.why = .write no ∧ j.who = lkInterp ∧ j.line = addr / 32 ∧ j.step = 1
            ∧ j.bytes = some (wordsBytesLE (f.words.drop 1))))
    ∧ (∀ r, s.whReq = [] → readOf s f.port (readKey f) = some r → (f.port = .hp ∨ f.port = .aux) →
        (s.portSt f.port).store.head?.map (·.alive) = some f.alive →
        let words := r.op = 0x50 ∨ r.op = 0x54
        Completes (.lkReadTimeout f.port (readKey f)) s fun t =>
          readOf t f.port (readKey f) = none ∧ (∀ j ∈ t.lk.jobs, j.why ≠ .reply f.port (readKey f))
          ∧ ((t.portSt f.port).store.head?.bind fun e => e.reply.map fun q => q.words)
            = some (statusWords stBusy (if words then (r.fails Option.isNone).getD 0 else 0) 0 [])
          ∧ t.get F.LK_ARB_STAT.READ_BUSY = if words then counted s F.LK_ARB_STAT.READ_BUSY else s.get F.LK_ARB_STAT.READ_BUSY)

/-- For every frame heard and admitted: SESSION_CLOSE ends the session of its own port with an audit entry; DIAG_RUN
names the first masked axis that fails a condition in a BUSY answer, or requests a run on every masked axis;
AXIS_REARM counts an edge on each masked axis whose domain is up and, where no fault is latched at that very instant and no
shunt comparator is still tripped, releases its held switches, its first cause and its latched faults, LATE_RUN with a late
fault alone (assumption log 129); a fault latched at that instant stays, and a comparator still tripped latches OC again; SNAP
with FREEZE answers BUSY, during the hold-off the LTIME of the latest latch, else latches now; WHISTLE_AT answers
RANGE without its lead, BUSY for a fifth schedule, else holds the schedule. Axes that are not masked keep their
engines. (R40, R490, R243, R244, R245, R340, R348, R452, R441.) -/
def Obligations.SessionDiagnosticAndWhistleOpcodesAct : Prop :=  ∀ (f : Req) (s : State), let w0 := f.words.getD 0 0
    let masked := fun x : Axis => natBit w0.toNat x.val
    (FrameReady 0x72 f s → let a := accepted 0x72 f s
      ((a.sessPort f.port).sess = none → Answers (.sessionClose f) s a stOk 0 0 [])
      ∧ (∀ x, (a.sessPort f.port).sess = some x → Completes (.sessionClose f) s fun t => ∃ u, Ended 0x72 f s u stOk 0 0 [] t ∧ (u.sessPort f.port).sess = none
          ∧ u.sec.auditNext = a.sec.auditNext + 1 ∧ u = { a with regs := u.regs, freeCtr := u.freeCtr, sec := u.sec }
          ∧ KeepsFields [F.SEC_AUDIT_CNT.AUDIT_LOST] a u))
    ∧ (FrameReady 0x80 f s → let a := accepted 0x80 f s
      (∀ x : Axis, masked x = true → diagRefuses a x = true → (∀ y : Axis, y < x → masked y = true → diagRefuses a y = false) →
        Answers (.diagRun f) s a stBusy x.val 0 [])
      ∧ ((∀ x : Axis, masked x = true → diagRefuses a x = false) →
          Completes (.diagRun f) s fun t => ∃ u, Ended 0x80 f s u stOk 0 0 [] t ∧ BesideAxes a u
          ∧ (∀ x : Axis, masked x = true → (u.gd x).diagPend = [.command]) ∧ ∀ x : Axis, masked x = false → u.ax x = a.ax x))
    ∧ (FrameReady 0x07 f s → let a := accepted 0x07 f s
      let tripped := fun (x : Axis) (k : Fin 2) => a.axOn x = true ∧ a.get (F.AX_CC_CFG.MODE x) = 0 ∧ ocTripped a x k = true
      ((∀ (x : Axis) (k : Fin 2), masked x = true → ¬ tripped x k) → Completes (.axisRearm f) s fun t =>
        ∃ u, Ended 0x07 f s u stOk 0 0 [] t ∧ BesideAxes a u ∧ (∀ x : Axis, masked x = false → u.ax x = a.ax x)
        ∧ ∀ x : Axis, masked x = true → a.axOn x = true →
            u.get (F.AX_STATE_CNT.REARM_CNT x) = counted a (F.AX_STATE_CNT.REARM_CNT x)
            ∧ (freshFaults a x = 0 → u.get (F.AX_GD_FLT.SW_OFF x) = 0 ∧ u.get (F.AX_GD_FLT.FIRST_CAUSE x) = 0
              ∧ u.get (F.AX_GD_FLT.OC x) = 0 ∧ u.get (F.AX_GD_FLT.ESCALATED x) = 0 ∧ u.get (F.AX_DEADLINE.DEADLINE_FLT x) = 0
              ∧ u.get (F.AX_DEADLINE.LATE_RUN x) = (if a.get (F.AX_DEADLINE.DEADLINE_FLT x) = 1 then 0 else a.get (F.AX_DEADLINE.LATE_RUN x))
              ∧ (u.gd x).escEnd = none)
            ∧ (∀ r ∈ rearmRows a x, (freshFaults a x).getLsbD r.2.1 = true → u.get r.1 = a.get r.1))
      ∧ (a.lk.apply = none → Completes (.axisRearm f) s fun t => ∀ x : Axis, masked x = true → a.axOn x = true →
          t.get (F.AX_STATE_CNT.REARM_CNT x) = counted a (F.AX_STATE_CNT.REARM_CNT x)
          ∧ ∀ k : Fin 2, tripped x k → freshFaults a x = 0 → t.get (F.AX_GD_FLT.OC x) = 1))
    ∧ (FrameReady 0x60 f s → let a := accepted 0x60 f s
      (a.flag F.WH_CFG.FREEZE = true → Answers (.snap f) s a stBusy 0 0 [])
      ∧ (a.flag F.WH_CFG.FREEZE = false → deepHeld a = false → a.lk.apply = none →
        Completes (.snap f) s fun t => ∃ u,
          Ended 0x60 f s u stOk 0 0 [BitVec.ofNat 32 (u.wh.latchT / nsT), BitVec.ofNat 32 (u.wh.latchT / nsT / 2 ^ 32)] t
          ∧ u = { a with regs := u.regs, wh := u.wh, lk := { a.lk with trace := u.lk.trace, jobs := u.lk.jobs } }
          ∧ (holdingOff a = true → u.wh.latchT = a.wh.latchT ∧ u.wh.snap = a.wh.snap ∧ u.wh.missed = a.wh.missed + 1)
          ∧ (holdingOff a = false → u.wh.latchT = a.now ∧ u.wh.snap ≠ none ∧ u.wh.missed = 0 ∧ u.get F.WH_STAT.LAST_SRC = 2
            ∧ u.get F.WH_STAT.LATCH_NO = (if a.get F.WH_STAT.LATCH_NO = 65535 then 1 else a.get F.WH_STAT.LATCH_NO + 1))))
    ∧ (FrameReady 0x61 f s → let a := accepted 0x61 f s
      let at_ := w0.toNat + (f.words.getD 1 0).toNat * 2 ^ 32
      let early := at_ < a.ltime + max 1 (a.get F.CV_STAT.STACK_N) * 160 + 2000
      (early → Answers (.whistleAt f) s a stRange 0 0 [])
      ∧ (¬ early → a.cv.sched.contains at_ = false → 4 ≤ a.cv.sched.length → Answers (.whistleAt f) s a stBusy 0 0 [])
      ∧ (¬ early → (a.cv.sched.contains at_ = true ∨ a.cv.sched.length < 4) →
          Completes (.whistleAt f) s fun t => ∃ u, Ended 0x61 f s u stOk 0 0 [] t
          ∧ u = { a with cv := u.cv } ∧ u.cv.sched = (if a.cv.sched.contains at_ then a.cv.sched else a.cv.sched ++ [at_])))

/-- For every window on a port that hears it in its role, with no RESET and no SLEEP waiting for it: outside a session, a
slave frame shorter than its length field says is discarded with FRAME_ABORT, one whose CRC fails with CRC_BAD, and one
that comes while the interpreter does not run without a flag of its own; a frame of the same ALIVE and CRC as a stored one
is counted in DUP_CNT and not executed; a NOP with the expected rally count is accepted and moves it by one modulo 16. A
discarded or repeated frame changes nothing beside registers and its port. A window that passes every check with the
expected rally count, in a session or outside one, is executed as the command its header names, from the state in which the
reply before it has left. HP as master runs the same checks once T_IDLE and POLL have passed. (R315, R316, R323, R326; that
the words the master clocks behind the frame for its own reply are no part of it is the model's choice, assumption log
121.) -/
def Obligations.WindowsAreCheckedInOrder : Prop :=  ∀ (w : Window) (s : State), s.whReq = [] → (w.port = .hp ∨ w.port = .aux) →
    (∀ r ∈ s.ip.pendReset, r.port ≠ w.port) → (∀ x, s.pw.sleepPend = some x → x.1 ≠ w.port) →
    let h := w.words.headD 0
    let p := w.port
    let good := 32 ≤ w.bits ∧ headerLen h ≠ 31 ∧ w.bits = 32 * (headerLen h + 2)
    let crcOk := crc16 (wordsBytes (bodyWords w)) = BitVec.ofNat 16 (getBits (checkWord w) 31 16)
    let portOnly := fun t : State => t = { s with
        now := max s.now w.tRise, freeCtr := t.freeCtr, regs := t.regs, plnWork := t.plnWork
        hp := if p = .hp then t.hp else s.hp, aux := if p = .aux then t.aux else s.aux
        cv := { s.cv with tx := t.cv.tx }, lk := { s.lk with jobs := t.lk.jobs } } ∧ (t.portSt p).store = (s.portSt p).store
    let bad := fun (t : State) (flag : BitVec 9) => portOnly t ∧ (t.portSt p).flags &&& (flag ||| fDiscarded) = flag ||| fDiscarded
      ∧ t.get (portFld p F.HP_CNT0.FRAMES_BAD F.AUX_PCNT0.FRAMES_BAD) = counted s (portFld p F.HP_CNT0.FRAMES_BAD F.AUX_PCNT0.FRAMES_BAD)
      ∧ t.get (portFld p F.HP_STAT.ALIVE_EXP F.AUX_PSTAT.ALIVE_EXP) = s.get (portFld p F.HP_STAT.ALIVE_EXP F.AUX_PSTAT.ALIVE_EXP)
    let taken := fun t : State =>
      t.get (portFld p F.HP_STAT.ALIVE_EXP F.AUX_PSTAT.ALIVE_EXP) = (getBits h 23 20 + 1) % 16
        ∧ (t.portSt p).store.head?.map (fun e => e.alive.toNat) = some (getBits h 23 20)
    let fresh := repeated s w = none ∧ (s.portSt p).store.all (fun e => e.alive.toNat != getBits h 23 20) = true
      ∧ s.get (portFld p F.HP_STAT.ALIVE_EXP F.AUX_PSTAT.ALIVE_EXP) = getBits h 23 20
    let begun := fun master : Bool => shiftWindow w master (s.at_ w.tRise)
    let passes := fun master : Bool => crcOk ∧ headerLen h + 2 ≤ w.words.length ∧ macPasses s w = true ∧ s.ip.running = true ∧ fresh
      ∧ (s.portSt p).roleNext = [] ∧ (begun master).2 = false
    let runs := fun (c : Instr) => frameOf c = some ((headerOp h).toNat, frameReq s w)
      ∧ ∀ g mac, c = .sessionOpen g mac → mac = (sessOf s p).isSome
    (sessOf s p = none → portHears s p false = true →
      ((w.bits < 32 ∨ w.bits < 32 * (headerLen h + 2)) → Completes (.frameReceive w) s fun t => bad t fFrameAbort)
      ∧ (good → ¬ crcOk → Completes (.frameReceive w) s fun t => bad t fCrcBad)
      ∧ (good → crcOk → s.ip.running = false → Completes (.frameReceive w) s fun t => bad t 0)
      ∧ (good → crcOk → s.ip.running = true → repeated s w ≠ none → Completes (.frameReceive w) s fun t => portOnly t
          ∧ (t.portSt p).flags &&& fDup = fDup)
      ∧ (good → crcOk → s.ip.running = true → headerOp h = 0 → fresh → Completes (.frameReceive w) s taken))
    ∧ (sessOf s p = none → p = .hp → portHears s .hp true = true → hpMasterReady w s = true → headerLen h ≠ 31 → crcOk → s.ip.running = true →
      headerOp h = 0 → fresh → Completes (.hpMasterTransfer w) s taken)
    ∧ (∀ c : Instr, runs c →
      (portHears s p false = true → good → passes false →
        Completes (.frameReceive w) s fun t => exec c (begun false).1 = .next t)
      ∧ (p = .hp → portHears s .hp true = true → hpMasterReady w s = true → headerLen h ≠ 31 → passes true →
        Completes (.hpMasterTransfer w) s fun t => exec c (begun true).1 = .next t))

/-- With no Whistle left over: a waiting reset of a quad, the Locker or a port begins as the block reset of its
target, and one of the device at L2 or L3; a RECIPE_ARM at the front of the queue becomes the running arm of its slot;
a RECIPE_APPLY without a Whistle time schedules the armed recipe, or retires RECIPE_BAD with nothing armed; a waiting
wave table is copied once its table is free; the result of a lifecycle command without its key is LOCKED; a routed
IDENT frame to the device is answered upward with the words of R340. (R341, R540, R402, R404, R356, R357.) -/
def Obligations.AcceptedWorkGoesOnLater : Prop :=  ∀ s : State, s.whReq = [] →
    (∀ (p : PendReset) (l : List PendReset), s.ip.pendReset = p :: l → s.rst.boot = .done →
      (p.target = 0 → Completes .resetBegin s (DeepReset 5 2 (portNo p.port) s))
      ∧ (p.target = 1 → Completes .resetBegin s (InterpreterReset 5 (portNo p.port) s))
      ∧ (2 ≤ p.target.toNat → p.target.toNat ≤ 8 → Completes .resetBegin s fun t => t.ip.pendReset = l ∧ t.rst.block = some p.target
          ∧ t.get F.BLK_RST_STAT.BLK_BUSY = 2 ^ (p.target.toNat - 2)))
    ∧ (∀ (c : QCmd) (l : List QCmd), s.ip.cmdq = c :: l → s.ip.running = true → c.op = 0x52 → s.lk.apply = none → s.lk.arm = none →
        slotExists s (getBits (c.words.getD 0 0) 7 0) = true →
        Completes .recipeArmTakeUp s fun t => t.ip.cmdq = l.filter (fun q => q.seq ≠ c.seq) ∧ t.regs = s.regs
          ∧ ∃ a, t.lk.arm = some a ∧ a.seq = c.seq ∧ a.slot.toNat = getBits (c.words.getD 0 0) 7 0 ∧ a.lines = [])
    ∧ (∀ (c : QCmd) (l : List QCmd), s.ip.cmdq = c :: l → s.ip.running = true → c.op = 0x53 → s.lk.apply = none → s.lk.arm = none →
        (c.words.getD 0 0).getLsbD 0 = false → Completes .recipeApplyTakeUp s fun t =>
          if s.lk.shadow = none then t.lk.apply = none ∧ ∀ e ∈ t.ip.ledger, e.1.seq = c.seq → e.2 ≠ none
          else t.lk.apply = some (c.seq, none) ∧ t.lk.shadow = s.lk.shadow ∧ t.get F.LK_RCP_STAT.APPLY_SCHED = 1
            ∧ KeepsFields [F.LK_RCP_STAT.APPLY_SCHED] s t)
    ∧ (∀ (k : Fin 8) (ws : List Word), waveBusy s k.val = false → s.lk.waves.find? (fun w => w.1 = k) = some (k, ws) → s.get (F.WT_STAT.USERS k) ≠ 0 →
        Completes (.recipeWaveCopy k) s fun t => (∀ w ∈ t.lk.waves, w.1 ≠ k) ∧ t.get (F.WT_STAT.SWAP_PEND k) = 1
          ∧ (∀ j < 512, waveOf t k false j = ws.getD j 0) ∧ ∀ j < 512, waveOf t k true j = waveOf s k true j)
    ∧ (∀ (no : BitVec 8) (w : Word) (role : BitVec 2) (p : Port) (good : Bool) (svn : BitVec 5), s.pd 1 = true →
        s.sec.jobs.find? (fun j => j.1 = no) = some (no, .lifecycle w role p) → getBits w 31 16 ≠ 0x5A3C →
        Completes (.ticketResult no good svn) s fun t => t.sec.life = s.sec.life ∧ (∀ j ∈ t.sec.jobs, j.1 ≠ no) ∧ t.regs = s.regs
          ∧ t.ip.tickets = s.ip.tickets.map (fun k => if k.no = no ∧ k.result = none then { k with result := some (BitVec.ofNat 8 stLocked, []) } else k))
    ∧ (∀ (idx : BitVec 4) (h : Word) (words : List Word) (t0 : Nat), headerOp h = 0x08 → getBits h 19 16 = devId s → s.pd 8 = true →
        s.get F.CV_STAT.ROLE = 2 → s.ip.running = true → 2 ≤ s.mode → Completes (.frameFlitReceive idx h words t0) s fun t =>
          t.now = max s.now t0
          ∧ t = { s with now := t.now, regs := t.regs, plnWork := t.plnWork, ip := { s.ip with unlocked := false, loLatch := [] }, cv := t.cv, lk := { s.lk with jobs := t.lk.jobs } }
          ∧ (linkUp s .up = true → s.cv.up.waiting = [] → s.cv.up.replay.length + 2 ≤ 31 → ∃ e ∈ t.cv.up.replay, e.last = true
              ∧ ∃ hdr ws, e.msg = .reply (BitVec.ofNat 4 (getBits h 19 16)) idx hdr ws
                ∧ ws.tail = [0, BitVec.ofNat 32 (0x1680 + s.sec.life.toNat * 2 ^ 16), 0x11680A5B]))

/-- While the interpreter runs and no Whistle is left over: PLANNER_TAKE_UP takes the next motion command of the axis
off the queue (without a usable profile it is decided; outside travel LIMIT_REJ sets and it is decided; a plain MOVE
sets AX_TARGET); SEGMENT_COMPUTED appends the next segment of the chosen axis to its window; SEGMENT_COMMIT moves the
first window entry behind the committed segments that have not ended, or behind those of a pending cut, with its start,
and counts it, or finds the axis in a stop of the executor and is offside with its window; PLANNER_STOP_RECORD sets
target and remaining distance and cancels what is open and queued, or with a cut pending only what waits. Other axes and
all other state keep their values. (R46, R51, R58, R67, R77, R81, R84, R86, R88, R90.) -/
def Obligations.PlannerEventsMoveTheSegments : Prop :=  ∀ (a : Axis) (s : State) (t0 : Nat), s.ip.running = true → s.whReq = [] →
    let m := s.mot a
    (∀ c : QCmd, canTakeUp s a = true → nextCmd s a = some c → Completes (.plannerTakeUp a t0) s fun t =>
      OnlyAxes [a] s t ∧ t.now = max s.now t0 ∧ (∀ q ∈ t.ip.cmdq, q.seq ≠ c.seq)
        ∧ KeepsFields ((F.AX_PLN_STAT.all a) :: plannerFields) s t
        ∧ let raw := profOf s a ((c.words.getD 0 0).toNat / 16 % 4)
          ((c.op = 0x20 ∨ c.op = 0x21) → raw.usable = false → Decided c.seq t ∧ (t.mot a).queue = m.queue
            ∧ ((c.op = 0x21 ∨ m.chain = []) → t.ax a = s.ax a))
          ∧ (c.op = 0x23 → (s.axState a ≠ 5 ∨ s.get (F.AX_PLN_STAT.REMAIN_VALID a) = 0) → Decided c.seq t ∧ t.ax a = s.ax a)
          ∧ (c.op = 0x20 → raw.usable = true → natBit (c.words.getD 0 0).toNat 0 = false →
              (outsideTravel s a (moveDist c) = true → Decided c.seq t ∧ t.get (F.AX_PLN_STAT.LIMIT_REJ a) = 1)
              ∧ (outsideTravel s a (moveDist c) = false → t.get (F.AX_PLN_STAT.REMAIN_VALID a) = 0
                  ∧ (natBit (c.words.getD 0 0).toNat 2 = false → jogOpen s a = false → (t.mot a).target = moveDist c))))
    ∧ (∀ (b : Axis) (sg : Seg) (rest : List Phase), ((s.plnWork.filter (computable s)).or (chooseWork (s.at_ t0))) = some b →
        nextSeg (s.mot b).planEnd (s.mot b).phases = some (sg, rest) → Completes (.segmentComputed t0) s fun t =>
          OnlyAxes [b] { s with plnWork := t.plnWork } t ∧ t.now = max s.now t0 ∧ KeepsFields [F.PLN_STATUS.WINDOW_HWM] s t
            ∧ (t.mot b).window = (s.mot b).window ++ [sg] ∧ (t.mot b).phases = rest ∧ (t.mot b).planEnd = sg.after
            ∧ (t.mot b).queue = (s.mot b).queue)
    ∧ (∀ (sg : Seg) (rest : List Seg), m.window = sg :: rest → commitDue (s.at_ t0) a = true → stopRuns (s.at_ t0) a = false →
        Completes (.segmentCommit a t0) s fun t =>
          let live := liveSegs (max s.now t0) m.queue
          let wait := if needsEnergise s a then energiseTime s a else 0
          OnlyAxes [a] s t ∧ t.now = max s.now t0
            ∧ KeepsFields ([F.AX_STATE.STATE a, F.AX_STATE.ENERGISED a, F.AX_CC_FLAG.all a, F.AX_LA_STAT.ECO_SCALE a, F.AX_LA_STAT.ECO_ACT a]
                ++ plannerFields) s t
            ∧ t.get F.PLN_SEGS.COUNT = counted s F.PLN_SEGS.COUNT ∧ (t.mot a).window = rest
            ∧ (sg.last = true → sg.kind ≠ .stop → Decided sg.seq t)
            ∧ (m.cut = none → (t.mot a).queue = live ++ [{ sg with start := (
                if live = [] then (nextSample s a + wait) / nsT else (chainEndAt live).getD 0 / nsT) }]
              ∧ (live = [] → sg.kind ≠ .stop → s.axState a = 1 → t.axState a = 2))
            ∧ (∀ c : Cut, m.cut = some c → (t.mot a).queue = m.queue ∧ (t.mot a).cutQueue = m.cutQueue ++ [{ sg with start := (
                (chainEndAt m.cutQueue).getD (
                  if (m.cutQueue = [] ∧ atStandstill s a = true) ∨ freeUntil s a ≠ 0 then c.at_ + wait else c.at_)) / nsT }]))
    ∧ (m.window ≠ [] → stopRuns (s.at_ t0) a = true → Completes (.segmentCommit a t0) s fun t =>
        OnlyAxes [a] s t ∧ t.now = max s.now t0 ∧ KeepsFields [F.PLN_OFFSIDE.COUNT, F.AX_STATE.ENERGISED a, F.AX_CC_FLAG.all a, F.AX_LA_STAT.ECO_SCALE a, F.AX_LA_STAT.ECO_ACT a] s t
          ∧ t.get F.PLN_OFFSIDE.COUNT = min (s.get F.PLN_OFFSIDE.COUNT + m.window.length) (2 ^ 32 - 1)
          ∧ (t.mot a).window = [] ∧ (t.mot a).phases = [] ∧ (t.mot a).queue = m.queue)
    ∧ (∀ (n : Nat) (c : Cut), m.recordDue = some n → m.cut = some c → Completes (.plannerStopRecord a t0) s fun t =>
        OnlyAxes [a] s t ∧ t.now = max s.now t0 ∧ KeepsFields ((F.AX_PLN_STAT.REMAIN_VALID a) :: plannerFields) s t
          ∧ (t.mot a).recordDue = none ∧ (t.mot a).cut = m.cut ∧ (t.mot a).window = m.window ∧ (t.mot a).phases = m.phases
          ∧ (c.at_ < n → t.regs = s.regs ∧ t.ip = s.ip)
          ∧ (n ≤ c.at_ → (t.mot a).target = (match m.brake with | some b => b.endPos | none => m.pos)
              ∧ ∀ q ∈ t.ip.cmdq, ¬ (q.axis.toNat = a.val ∧ 0x20 ≤ q.op.toNat ∧ q.op.toNat < 0x40)))
    ∧ (∀ n : Nat, m.recordDue = some n → m.cut = none → Completes (.plannerStopRecord a t0) s fun t =>
        let rest := match m.brake with | some b => b.endPos | none => m.pos
        OnlyAxes [a] s t ∧ t.now = max s.now t0 ∧ KeepsFields ((F.AX_PLN_STAT.REMAIN_VALID a) :: plannerFields) s t
          ∧ (t.mot a).recordDue = none ∧ (t.mot a).target = rest ∧ (t.mot a).window = [] ∧ (t.mot a).phases = []
          ∧ (t.mot a).chain = [] ∧ (∀ g, m.stopGoal = some g → (t.mot a).remain = g - rest ∧ t.get (F.AX_PLN_STAT.REMAIN_VALID a) = 1)
          ∧ (m.stopGoal = none → t.get (F.AX_PLN_STAT.REMAIN_VALID a) = 0)
          ∧ (∀ q ∈ openSeqs m, Decided q t)
          ∧ ∀ c ∈ t.ip.cmdq, ¬ (c.axis.toNat = a.val ∧ 0x20 ≤ c.op.toNat ∧ c.op.toNat < 0x40))

/-- With no Whistle left over: at the cut instant the committed segments of the cut become the queue and the cut is
gone; one without segments drops what has not begun and retires; where its first segment is late, the window is offside
and the cut moves at least 40 µs on; a queue that ends with a velocity or an acceleration starves and brakes from the next
half-period boundary; STILL_DELAY puts the policy in force; the energising time ends; a half-period boundary advances the
timer and, for a PACKET axis, forms position, velocity and acceleration from its executing segment, or holds the position
at rest. (R57, R77, R78, R80, R84, R89, R90.) -/
def Obligations.ExecutorEventsOfAnAxis : Prop :=  ∀ (a : Axis) (s : State), s.whReq = [] →
    let m := s.mot a
    let k0 : KState := { p := m.pos, v := m.vel, a := m.acc }
    (∀ c : Cut, m.cut = some c →
      (m.cutQueue ≠ [] → Completes (.cutInstant a) s fun t =>
        OnlyAxes [a] s t ∧ t.now = max s.now c.at_ ∧ (t.mot a).cut = none ∧ (t.mot a).queue = m.cutQueue ∧ (t.mot a).cutQueue = []
          ∧ (t.mot a).brake = none ∧ (t.mot a).pos = m.pos
          ∧ KeepsFields ((F.AX_STATE.STATE a) :: (F.AX_PLN_STAT.REMAIN_VALID a) :: plannerFields) s t
          ∧ (∀ q ∈ c.cancels, Decided q t) ∧ (∀ q, c.seq = some q → (c.kind = .stop ∨ c.kind = .rangeStop) → Decided q t))
      ∧ (m.cutQueue = [] → m.window = [] → m.phases = [] → Completes (.cutInstant a) s fun t =>
        let live := liveSegs c.at_ m.queue
        OnlyAxes [a] s t ∧ t.now = max s.now c.at_ ∧ (t.mot a).cut = none ∧ (t.mot a).pos = m.pos
          ∧ (t.mot a).queue.map (fun g => g.start) = (m.queue.take (m.queue.length - live.length)).map (fun g => g.start)
          ∧ (live = [] → (t.mot a).queue = m.queue)
          ∧ ((c.kind = .stop ∨ c.kind = .rangeStop) → (t.mot a).target = c.base.p)
          ∧ KeepsFields ((F.AX_STATE.STATE a) :: (F.AX_PLN_STAT.REMAIN_VALID a) :: (F.AX_FOLLOW_STAT.all a) :: (F.AX_CAM_TABLE.all a)
              :: plannerFields) s t
          ∧ (∀ q ∈ c.cancels, Decided q t) ∧ (∀ q, c.seq = some q → Decided q t))
      ∧ (m.cutQueue = [] → (m.window ≠ [] ∨ m.phases ≠ []) → Completes (.cutInstant a) s fun t =>
        OnlyAxes [a] s t ∧ t.now = max s.now c.at_ ∧ (t.mot a).window = [] ∧ (t.mot a).queue = m.queue
          ∧ KeepsFields [F.PLN_OFFSIDE.COUNT, F.AX_PLN_STAT.CLIPPED a, F.PLN_EVENTS.CLIP_CNT] s t
          ∧ t.get F.PLN_OFFSIDE.COUNT = min (s.get F.PLN_OFFSIDE.COUNT + m.window.length) (2 ^ 32 - 1)
          ∧ ∃ c1, (t.mot a).cut = some c1 ∧ (c1.kind = c.kind ∨ c1.kind = .rangeStop) ∧ c1.seq = c.seq
              ∧ c1.at_ = halfAfter s a (if c.kind = .stop then c.at_ + 40 * usT else max (c.at_ + 40 * usT) (freeUntil s a))
              ∧ c1.base = motionAt s a c1.at_))
    ∧ (∀ (e t0 : Nat), chainEndAt m.queue = some e → e ≤ t0 → m.brake = none → (chainEndState m.queue k0).resting = false →
        cutTakes m e = false →
        Completes (.starvation a t0) s fun t =>
          OnlyAxes [a] s t ∧ t.get (F.AX_PLN_STAT.STARVED a) = 1 ∧ t.get F.PLN_EVENTS.STARVE_CNT = counted s F.PLN_EVENTS.STARVE_CNT
            ∧ KeepsFields [F.AX_PLN_STAT.STARVED a, F.PLN_EVENTS.STARVE_CNT, F.PLN_OFFSIDE.COUNT, F.AX_STATE.STATE a] s t
            ∧ t.axState a = (if s.axState a = 2 ∨ s.axState a = 3 then 4 else s.axState a)
            ∧ (t.mot a).queue = [] ∧ (t.mot a).pos = m.pos ∧ (t.mot a).cut = m.cut
            ∧ ∃ b, (t.mot a).brake = some b ∧ b.why = .starved ∧ b.from_ = e ∧ b.at_ = halfAfter s a e
                ∧ (t.mot a).recordDue = some b.endAt)
    ∧ (∀ u, m.stillAt = some u → m.queue = [] → m.cutQueue = [] → Does (.stillDelayExpire a) s
        ((s.at_ (u + s.get (F.AX_PLN_CFG.STILL_DELAY a) * msT)).modMot a fun m => { m with policyOn := true }) [] [])
    ∧ (∀ u, m.energiseEnd = some u → Does (.energiseDone a) s ((s.at_ u).modMot a fun m => { m with energiseEnd := none }) [] [])
    ∧ (s.axOn a = true → (s.pwm a).timer.run = true → (s.la a).stallDue = none → (s.la a).fallDue = false → (s.la a).boostEnd = none →
        (s.la a).resyncDue = false → s.src a = 0 → m.brake = none →
        let x := (s.pwm a).timer.next
        (∀ (g : Seg) (gs : List Seg), (dropEnded x m.queue k0).1 = g :: gs → g.start * nsT ≤ x →
          Completes (.halfPeriodBoundary a) s fun t => t.now = max s.now x ∧ (∀ b, b ≠ a → t.ax b = s.ax b)
            ∧ (t.mot a).pos = (g.eval (x - g.start * nsT)).p ∧ (t.mot a).vel = (g.eval (x - g.start * nsT)).v
            ∧ (t.mot a).acc = (g.eval (x - g.start * nsT)).a ∧ (m.cut = none → t.ip = s.ip) ∧ t.lk.cells = s.lk.cells)
        ∧ (m.queue = [] → Completes (.halfPeriodBoundary a) s fun t =>
            (t.mot a).pos = m.pos ∧ (t.mot a).vel = 0 ∧ (t.mot a).acc = 0 ∧ (t.mot a).queue = [] ∧ (m.cut = none → t.ip = s.ip)
              ∧ (∀ b, b ≠ a → t.ax b = s.ax b)
              ∧ (t.pwm a).timer = (if (s.pwm a).timer.nextIsPeriod
                  then { (s.pwm a).timer with next := x + perOf s a / 2, nextIsPeriod := false, periodAt := x }
                  else { (s.pwm a).timer with next := (s.pwm a).timer.periodAt + perOf s a, nextIsPeriod := true })))

/-- With no Whistle left over and no test takeover: an accepted active edge of a STEPDIR axis counts in AX_STEP_CNT by its
direction and moves the step target by the weight, or without AXnn_ENA counts in AX_STEP_IGN too and moves nothing; any
other accepted edge changes nothing but the levels held of the two pins (that it counts nothing under another source is the
model's choice, assumption log 140); a level shorter than STP_FILT changes nothing at all, neither at its beginning nor at
its end, and a direction level shorter than it leaves the direction. A channel on a commanded position takes the position of
its axis at the next 5 µs and is fresh, after a feedback loss with its second sample; a publishing channel sends its latest
sample out of both ports; without samples for STALE_T it is stale, keeps its latest position, and its followers leave. A
channel gone stale aside, no other register changes. A legal write of the source of a channel that no follower uses takes its
fields. (R102, R103, R104, R105, R108, R110, R111, R129.) -/
def Obligations.StepEdgesAndMasterSamples : Prop :=  ∀ s : State, s.whReq = [] →
    (∀ (a : Axis) (rising : Bool) (dir : Held) (x : Level), pinsHeld s = false →
      let n := filterLen (s.get (F.AX_STEP_CFG.STP_FILT a))
      let d := if dir.len < n then (s.fol a).dirLevel else dir.high
      let u := (s.at_ x.t).modFol a fun f => { f with dirLevel := d, stpLevel := rising }
      let ignored := s.axOn a = false ∨ x.len < n ∨ (s.fol a).stpLevel = rising
      (ignored → Does (.stepEdge a rising dir x) s (s.at_ x.t) [] [])
      ∧ (¬ ignored → (s.src a ≠ 1 ∨ stepActive s a rising = false) → Does (.stepEdge a rising dir x) s u [] [])
      ∧ (¬ ignored → s.src a = 1 → stepActive s a rising = true →
          ((s.gd a).ena = false → Does (.stepEdge a rising dir x) s u [(F.AX_STEP_IGN.IGN a, counted s (F.AX_STEP_IGN.IGN a)),
            (F.AX_STEP_CNT.CNT a, toBits 32 (s.getS (F.AX_STEP_CNT.CNT a) + stepDir s a d))] [])
          ∧ ((s.gd a).ena = true → Completes (.stepEdge a rising dir x) s fun t =>
              OnlyAxes [a] s t ∧ KeepsFields [F.AX_STEP_CNT.CNT a, F.AX_FOLLOW_STAT.STEP_FAST a] s t
                ∧ t.get (F.AX_STEP_CNT.CNT a) = toBits 32 (s.getS (F.AX_STEP_CNT.CNT a) + stepDir s a d)
                ∧ (t.fol a).stepT = (s.fol a).stepT + stepDir s a d * stepWeight s a
                ∧ (t.fol a).stepLast = some (x.t, stepDir s a d) ∧ t.mot a = s.mot a)))
    ∧ (∀ c : Fin 4, s.pd 1 = true →
      (let a := axisOf (s.get (F.MCH_CFG.AXIS c));
        s.get (F.MCH_CFG.SRC c) = 2 → s.axOn a = true →
          let fresh := (s.mch[c]).viaFb = false ∨ (s.mch[c]).samples ≠ []
          Does (.mchSample c) s
            ((s.at_ (mchSampleAt s)).modMch c fun x => { x with
              samples := (max s.now (mchSampleAt s), (s.mot a).pos) :: x.samples.take 1
              lastM := (s.mot a).pos
              lastAt := max s.now (mchSampleAt s)
              viaFb := if fresh then false else x.viaFb })
            (if fresh then [(F.MCH_CFG.STALE c, 0)] else []) [])
      ∧ ((s.get (F.MCH_CFG.SRC c) = 0 ∨ s.get (F.MCH_CFG.SRC c) = 3) → Does (.mchSample c) s (s.at_ (mchSampleAt s)) [] [])
      ∧ (∀ (x : Nat × Int) (l : List (Nat × Int)), s.get (F.MCH_CFG.PUBLISH c) = 1 → (s.mch[c]).samples = x :: l →
          Completes (.mchPublish c) s fun t => BesideRegs { s with now := t.now, cv := t.cv } t ∧ t.regs = s.regs
            ∧ t.now % (10 * usT) = 0 ∧ ∀ p : Link, linkUp s p = true → (s.cvPort p).waiting = [] → (s.cvPort p).replay.length < 31 →
                ∃ f ∈ t.cv.tx, f.1 = p ∧ f.2.typ = 10 ∧ f.2.msg =
                  .mch (BitVec.ofNat 4 (devId s)) { chan := c, pos := x.2, stamp := x.1 / nsT })
      ∧ (Completes (.mchStale c) s fun t =>
          t.now = max s.now ((s.mch[c]).lastAt + s.get (F.MCH_CFG.STALE_T c) * 10 * usT)
            ∧ t.get (F.MCH_CFG.STALE c) = 1 ∧ (t.mch[c]).samples = []
            ∧ t.get (F.MCH_CFG.STALE_EVT c) = (if s.get (F.MCH_CFG.STALE c) = 1 then s.get (F.MCH_CFG.STALE_EVT c) else 1)
            ∧ (t.mch[c]).lastM = (s.mch[c]).lastM
            ∧ ∀ a : Axis, (usesChan s c a = false → t.ax a = s.ax a)
              ∧ (usesChan s c a = true → (s.fol a).lossPend = none →
                  t.get (F.AX_FOLLOW_STAT.FOLLOW_LOST a) = 1 ∧ t.get (F.AX_FOLLOW_STAT.LOST_CAUSE a) = 2
                    ∧ (fstate s a = 1 → fstate t a = 0) ∧ (fstate s a ≠ 1 → (t.fol a).lossPend = some 2))))
    ∧ (∀ (c : Fin 4) (data : Word), s.ip.running = true → s.ip.loLatch = [] → s.pd 1 = true → 2 ≤ getBits data 23 16 →
      ¬ (getBits data 1 0 = 3 ∧ (getBits data 6 6 = 1 ∨ getBits data 13 10 = devId s)) → (∀ a : Axis, usesChan s c a = false) →
      Completes (.mchCfgWrite c data) s fun t => t.axes = s.axes ∧ t.now = s.now ∧ t.ip.wrStatus = 0 ∧ t.get (F.MCH_CFG.SRC c) = getBits data 1 0
        ∧ t.get (F.MCH_CFG.AXIS c) = getBits data 5 2 ∧ t.get (F.MCH_CFG.PUBLISH c) = getBits data 6 6 ∧ t.get (F.MCH_CFG.SCH c) = getBits data 9 8
        ∧ t.get (F.MCH_CFG.SDEV c) = getBits data 13 10 ∧ t.get (F.MCH_CFG.STALE_T c) = getBits data 23 16)

/-- With no Whistle left over or selected for a fault of the axis: a due sample instant starts a computation from the
present position, velocity and references (zero where the bridge is not energised), or, while one still runs, leaves it
running; a computation ends and, unless late, stages edges for all four legs, of an unenergised bridge without voltage; an
update point puts staged edges in force, none beyond the period, or, with the edges that were due not delivered, counts
LATE, and the third late period in a row is a deadline fault; a boost that times out fails. Only the axis and its blocks
change. That a computation running past its update point takes the place of the next one is the model's reading
(assumption log 40). (R38, R39, R40, R41, R154, R156, R182, R202.) -/
def Obligations.ControlComputationsAndUpdatePoints : Prop :=  ∀ (a : Axis) (s : State), s.whReq = [] → natBit (s.get F.WH_AX_SEL.FLT) a = false →
    (s.axOn a = true → (s.pwm a).sampleDue = true → (s.cc a).comp = none → Completes (.sampleInstant a) s fun t =>
      let r := if s.get (F.AX_STATE.ENERGISED a) = 1 then currentRefs s a (s.mot a).pos (s.get (F.AX_CC_FLAG.SCALE_EFF a)) else (0, 0)
      OnlyAxes [a] s t ∧ t.now = s.now ∧ KeepsBlocks [a] [] s t ∧ (s.get (F.AX_CC_CFG.MODE a) = 0 → KeepsFields [F.AX_IREF.all a] s t)
        ∧ (t.cc a).compDue = true ∧ t.get (F.AX_IREF.IREF_W1 a) = toBits 16 r.1 ∧ t.get (F.AX_IREF.IREF_W2 a) = toBits 16 r.2
        ∧ (t.pwm a).sampleDue = false ∧ t.mot a = s.mot a ∧ (∀ w : Fin 2, (t.cc a).w[w].sample = none ∧ (t.cc a).w[w].vs = 0)
        ∧ ∃ c, (t.cc a).comp = some c ∧ c.late = false ∧ c.passed = false ∧ c.t0 = lastBoundary s a ∧ c.pos = (s.mot a).pos ∧ c.vel = (s.mot a).vel
            ∧ c.iref1 = r.1 ∧ c.iref2 = r.2)
    ∧ (∀ c, s.axOn a = true → (s.pwm a).sampleDue = true → (s.cc a).comp = some c → Does (.sampleInstant a) s
        ((s.modPwm a fun p => { p with sampleDue := false }).modCc a fun q => { q with compDue := true, comp := some { c with passed := true } }) [] [])
    ∧ (∀ (c : Comp) (t0 : Nat), (s.cc a).comp = some c → Completes (.computationDone a t0) s fun t =>
      OnlyAxes [a] s t ∧ t.now = max s.now t0 ∧ KeepsBlocks [a] [] s t ∧ (t.cc a).comp = none ∧ t.mot a = s.mot a
        ∧ (t.cc a).compDue = ((s.cc a).compDue && c.late)
        ∧ (c.late = true → (t.pwm a).staged = (s.pwm a).staged)
        ∧ (s.get (F.AX_STATE.ENERGISED a) = 0 → t.get (F.AX_VCMD.VCMD_W1 a) = 0 ∧ t.get (F.AX_VCMD.VCMD_W2 a) = 0
          ∧ (c.late = false → (t.pwm a).staged = some (Vector.replicate 4
              { on := 0, off := 0, st := if s.policyNow a = some 2 ∧ s.axState a ≠ 0 ∧ s.axState a ≠ 6 then 1 else 3 })))
        ∧ (s.get (F.AX_STATE.ENERGISED a) = 1 → getBits c.cfg 0 0 = 0 → c.late = false → (t.pwm a).staged.isSome = true))
    ∧ (s.axOn a = true → (s.pwm a).updDue = true →
      let out := fun t : State => OnlyAxes [a] { s with tb := t.tb } t ∧ KeepsBlocks [a] plannerFields s t ∧ (t.pwm a).updDue = false
        ∧ (t.pwm a).staged = none ∧ (t.cc a).compDue = false ∧ t.tb = { s.tb with cal := t.tb.cal }
      let per := perOf s a
      (∀ e, (s.pwm a).staged = some e → (s.cc a).compDue = false → (s.pwm a).lateNow = false → Completes (.updatePoint a) s fun t => out t
        ∧ (chopping s a = false → ∀ l : Leg, edgeOf t a l = { on := min e[l].on per, off := min e[l].off per, st := e[l].st % 4 })
        ∧ t.get (F.AX_DEADLINE.LATE a) = s.get (F.AX_DEADLINE.LATE a)
        ∧ (atPeriod s a = true → t.get (F.AX_DEADLINE.LATE_RUN a) = 0))
      ∧ ((s.pwm a).staged = none → (s.cc a).compDue = true → Completes (.updatePoint a) s fun t => out t
        ∧ t.get (F.AX_DEADLINE.LATE a) = counted s (F.AX_DEADLINE.LATE a) ∧ (∀ c, (t.cc a).comp = some c → c.late = true)
        ∧ (atPeriod s a = false → (t.pwm a).lateNow = true ∧ t.mot a = s.mot a ∧ (∀ l : Leg, edgeOf t a l = edgeOf s a l)
            ∧ KeepsFields [F.AX_DEADLINE.LATE a, F.AX_PWM_GUARD.MINP_GUARD a] s t)
        ∧ (atPeriod s a = true → t.get (F.AX_DEADLINE.LATE_RUN a) = min 3 (s.get (F.AX_DEADLINE.LATE_RUN a) + 1)
            ∧ (2 ≤ s.get (F.AX_DEADLINE.LATE_RUN a) → t.get (F.AX_DEADLINE.DEADLINE_FLT a) = 1 ∧ InFault a s t))))
    ∧ (∀ e, (s.la a).boostEnd = some e → Does (.boostTimeout a) s
        ((s.at_ e).modLa a fun l => { l with boostEnd := none, recFrom := none, fallDue := true })
        [(F.AX_LA_STAT.BOOST_ACT a, 0), (F.AX_LA_STAT.BOOST_FAILED a, 1)] [])

/-- With no Whistle left over: at a due period boundary of an axis a pending set takes effect, carried time is dropped
with it, a pending cut moves with the timer, held interlock legs and released trips follow again; a privileged channel takes
its pending set and runs on by its period; a placed edge gives its leg, and no other, its level, once the present interval
has lasted its threshold, the incoming command after DLY_R or DLY_F; a fill, revert or copy writes the shadow buffer and
leaves the active one, BUSY clears, and with the copy SWAP_PEND. The table of a recipe is written to its shadow buffer and its swap armed; a COMMIT that
fits waits for the boundary outside CONFIG and MAINT, and so does a new TABLE; FILL and REVERT of a free table begin, and SWAP is
armed while it has users. (R77, R138, R140, R200, R201, R202, R205, R210, R211,
R218.) -/
def Obligations.PeriodBoundariesLegEdgesAndTableCopies : Prop :=  ∀ s : State, s.whReq = [] →
    (∀ a : Axis, s.axOn a = true → (s.pwm a).periodDue = true → Completes (.periodBoundary (.axis a)) s fun t =>
      OnlyAxes [a] s t ∧ t.now = s.now ∧ KeepsBlocks [a] (F.QD_GD_STAT.CP_FB_ACT (quadOf a) :: plannerFields) s t
        ∧ (t.pwm a).periodDue = false ∧ (t.gd a).crossHold = 0
        ∧ (t.pwm a).tripForce = (s.pwm a).tripForce &&& ~~~ (s.pwm a).tripDrop
        ∧ ((s.mot a).cut = none → t.mot a = s.mot a)
        ∧ (∀ c, (s.mot a).cut = some c → ∃ c1, (t.mot a).cut = some c1 ∧ c1.due = c.due ∧ c1.at_ = halfAfter t a c.due)
        ∧ (∀ x, (s.pwm a).pend = some x → (t.pwm a).pend = none ∧ t.get (F.AX_PWM_ACT.ACT a) = x.1.toNat % 2 ^ 29
            ∧ t.get (F.AX_PWM_ACT.COMMIT_PEND a) = 0 ∧ t.get (F.AX_PWM_DLY_ACT.DLY_ACT a) = x.2.toNat
            ∧ (t.pwm a).timer.next = (s.pwm a).timer.periodAt + perOf t a / 2 ∧ ∀ l : Leg, (t.pwm a).carry[l] = 0)
        ∧ ((s.pwm a).pend = none → (s.mot a).cut = none → KeepsFields [F.AX_EDGE_ON.all a 0, F.AX_EDGE_ON.all a 1,
            F.AX_EDGE_ON.all a 2, F.AX_EDGE_ON.all a 3, F.AX_EDGE_OFF.all a 0, F.AX_EDGE_OFF.all a 1, F.AX_EDGE_OFF.all a 2,
            F.AX_EDGE_OFF.all a 3, F.AX_PWM_GUARD.MINP_GUARD a, F.AX_PWM_CNT.MINP_RAISE a, F.AX_PWM_STAT.CLAMP a,
            F.AX_PWM_STAT.TRIP_ACT a, F.AX_STATE.ENERGISED a, F.AX_CC_FLAG.all a, F.AX_LA_STAT.ECO_SCALE a, F.AX_LA_STAT.ECO_ACT a,
            F.QD_GD_STAT.CP_FB_ACT (quadOf a)] s t))
    ∧ (∀ n : Fin 8, s.priv[n].timer.run = true → Completes (.periodBoundary (.priv n)) s fun t =>
      BesideRegs { s with now := max s.now s.priv[n].timer.next, priv := t.priv, tb := t.tb } t ∧ (∀ k : Fin 8, k ≠ n → t.priv[k] = s.priv[k])
        ∧ KeepsFields [F.PCH_CTRL.CLAMP n, F.PCH_CTRL.COMMIT_PEND n, F.PCH_CTRL.ACTIVE n, F.QD_GD_STAT.BRK_ACT (n - 4), F.QD_GD_CNT.BRK_STARTS (n - 4)] s t
        ∧ (t.priv[n]).pend = none ∧ (t.priv[n]).timer.periodAt = s.priv[n].timer.next
        ∧ (t.priv[n]).timer.next = s.priv[n].timer.next + (t.priv[n]).force.per
        ∧ (n.val < 4 → t.get (F.PCH_CTRL.ACTIVE n) = bitOf (t.priv[n]).force.en)
        ∧ (s.priv[n].pend = none → (t.priv[n]).force = s.priv[n].force)
        ∧ (∀ x, s.priv[n].pend = some x → (t.priv[n]).comm = x ∧ (t.priv[n]).force.per = x.per ∧ (t.priv[n]).force.en = x.en
            ∧ (t.priv[n]).force.on ≤ x.per ∧ (t.priv[n]).force.off ≤ x.per))
    ∧ (∀ (a : Axis) (l : Leg) (rising : Bool), s.axOn a = true → (s.pwm a).timer.run = true → (edgeOf s a l).st = 0 →
        (edgeOf s a l).on ≠ (edgeOf s a l).off → ¬ ((edgeOf s a l).on = 0 ∧ (edgeOf s a l).off = perOf s a) →
        let te := (s.pwm a).timer.periodAt + (if rising then (edgeOf s a l).on else (edgeOf s a l).off)
        let at_ := match legLast s a l with | some (b, since) => max te (since + minInterval s a b) | none => te
        Completes (.legEdge a l rising) s fun t =>
          OnlyAxes [a] s t ∧ t.now = max s.now te ∧ KeepsFields [F.AX_PWM_GUARD.MINP_GUARD a] s t ∧ t.mot a = s.mot a
            ∧ (∀ k : Leg, k ≠ l → (t.pwm a).legs[k] = (s.pwm a).legs[k]) ∧ (legLast t a l).map (·.1) = some rising
            ∧ ((legLast s a l).map (·.1) = some rising → (t.pwm a).legs[l] = (s.pwm a).legs[l] ∧ t.regs = s.regs)
            ∧ ((legLast s a l).map (·.1) ≠ some rising → (t.pwm a).legs[l].head? = some {
                  at_ := at_, on := at_ + (if rising then dlyR s a else dlyF s a), level := some rising }
                ∧ t.get (F.AX_PWM_GUARD.MINP_GUARD a) = (if te < at_ then counted s (F.AX_PWM_GUARD.MINP_GUARD a)
                    else s.get (F.AX_PWM_GUARD.MINP_GUARD a))))
    ∧ (∀ (k : Fin 8) (op : WtOp), s.wt[k].op = some op → Completes (.wtOpDone k) s fun t =>
      BesideRegs { s with wt := t.wt } t ∧ (t.wt[k]).op = none ∧ t.get (F.WT_STAT.BUSY k) = 0
        ∧ (∀ addr : Nat, addr ≠ (F.WT_STAT.all k).addr → (addr < waveAddr k.val false 0 ∨ waveAddr k.val true 0 ≤ addr) →
            rfGet t.regs addr = rfGet s.regs addr)
        ∧ (∀ j < 512, waveOf t k false j = if op = .fill then fillWord s k j else waveOf s k true j)
        ∧ t.get (F.WT_STAT.SWAP_PEND k) = (if op = .copy then 0 else s.get (F.WT_STAT.SWAP_PEND k))
        ∧ t.get (F.WT_STAT.USERS k) = s.get (F.WT_STAT.USERS k))
    ∧ (∀ (k : Fin 8) (ws : List Word), waveBusy s k.val = false → s.lk.waves.find? (fun w => w.1 = k) = some (k, ws) → s.get (F.WT_STAT.USERS k) ≠ 0 →
      Completes (.recipeWaveCopy k) s fun t => (∀ w ∈ t.lk.waves, w.1 ≠ k) ∧ t.get (F.WT_STAT.SWAP_PEND k) = 1
        ∧ (∀ j < 512, waveOf t k false j = ws.getD j 0) ∧ ∀ j < 512, waveOf t k true j = waveOf s k true j)
    ∧ (s.ip.running = true → s.ip.loLatch = [] →
      let ends := fun u : State => { u with ip := { u.ip with unlocked := false, wrStatus := 0 } }
      (∀ (a : Axis) (n : BitVec 3), s.pd (3 + (quadOf a).val) = true →
        (commitFits s a = true → s.mode ≠ 2 → s.mode ≠ 3 → Does (.pwmCommit (.axis a)) s
          (ends (s.modPwm a fun p => { p with
            pend := some (BitVec.ofNat 32 (s.get (F.AX_PWM_STG.all a)), BitVec.ofNat 32 (s.get (F.AX_PWM_DLY.all a))) }))
          [(F.AX_PWM_ACT.COMMIT_PEND a, 1)] [])
        ∧ (s.get (F.AX_WAVE.TABLE_PEND a) = 0 → n.toNat ≠ s.get (F.AX_WAVE.TABLE_ACT a) → Does (.axWaveTableWrite a n) s (ends s)
          [(F.AX_WAVE.TABLE a, n.toNat), (F.AX_WAVE.TABLE_PEND a, 1),
            (F.WT_STAT.USERS n.toNat, natSetBit (s.get (F.WT_STAT.USERS n.toNat)) a true)] []))
      ∧ (∀ k : Fin 8, s.pd 1 = true → waveBusy s k = false →
        Does (.wtFill k) s (ends (s.modWt k fun x => { x with op := some .fill })) [(F.WT_STAT.BUSY k, 1)] []
        ∧ Does (.wtRevert k) s (ends (s.modWt k fun x => { x with op := some .revert })) [(F.WT_STAT.BUSY k, 1)] []
        ∧ (s.get (F.WT_STAT.USERS k) ≠ 0 → Does (.wtSwap k) s (ends (s.modWt k fun x => { x with moved := 0 })) [(F.WT_STAT.SWAP_PEND k, 1)] [])))

/-- With no Whistle left over or selected for a fault of the axis: a chopped winding leaves its blanking watching, or,
with the comparator's filtered output already active, counts towards CHOP_SHORT and leaves the on state, and CHOP_SHORT_N such
starts or more are an overcurrent fault; with that output active after its blanking, or after one period, it leaves the on
state into SLOW or FAST by DECAY, and else only takes the samples; it begins its next cycle after TOFF, held while its threshold is 0. A probe burst starts where
its conditions hold at the end of an interval, goes on by one period, and ends with PROBE_DONE; a burst without a current
change leaves its two results open (free values). Only the axis and its blocks change. (R161, R162, R163, R188, R189,
R190, R293, R296, R297.) -/
def Obligations.ChoppersAndProbesOfAnAxis : Prop :=  ∀ (a : Axis) (s : State), s.whReq = [] → natBit (s.get F.WH_AX_SEL.FLT) a = false →
    (∀ (w : Fin 2) (x : Samples), chopping s a = true →
      let c := (s.cc a).w[w].chop
      let out := fun v : State => bitOf (v.cc a).oc[w].out
      let only := fun t : State => OnlyAxes [a] s t ∧ KeepsBlocks [a] plannerFields s t
      let offPhase := if s.get (F.AX_CHOP.DECAY a) = 0 then ChopPhase.slow else .fast
      (c.phase = .on → c.watch = false →
        let v := (ocFeed a w x s).1.at_ (c.from_ + s.get (F.AX_CHOP.CHOP_BLANK a) * 80)
        (ocTripped v a w = false → Completes (.chopBlankEnd a w x) s fun t => only t ∧ KeepsFields [ocOut a w] s t ∧ t.get (ocOut a w) = out v
          ∧ t.now = v.now ∧ (t.cc a).w[w].chop = { c with watch := true, shorts := 0 })
        ∧ (ocTripped v a w = true → c.shorts + 1 < s.get (F.AX_CHOP.CHOP_SHORT_N a) → Completes (.chopBlankEnd a w x) s fun t => only t
          ∧ (t.cc a).w[w].chop.phase = offPhase ∧ (t.cc a).w[w].chop.shorts = c.shorts + 1)
        ∧ (ocTripped v a w = true → s.get (F.AX_CHOP.CHOP_SHORT_N a) ≤ c.shorts + 1 → Completes (.chopBlankEnd a w x) s fun t => only t
          ∧ t.get (F.AX_CC_FLAG.CHOP_SHORT_EVT a) = 1 ∧ t.get (F.AX_GD_FLT.CHOP_SHORT a) = 1 ∧ (t.cc a).w[w].chop.shorts = 0))
      ∧ (let v := (ocFeed a w x (s.at_ x.t)).1
         let ends := c.from_ + perOf s a ≤ v.now ∨ (c.from_ + s.get (F.AX_CHOP.CHOP_BLANK a) * 80 ≤ v.now ∧ ocTripped v a w = true)
         (c.phase = .on → ends → Completes (.chopOff a w x) s fun t => only t ∧ t.now = v.now
            ∧ (t.cc a).w[w].chop.phase = offPhase ∧ (t.cc a).w[w].chop.from_ = v.now)
         ∧ ((c.phase ≠ .on ∨ ¬ ends) → Does (.chopOff a w x) s v [(ocOut a w, out v)] []))
      ∧ ((c.phase = .fast ∨ c.phase = .slow) → Completes (.chopToffEnd a w) s fun t => only t
          ∧ t.now = max s.now (c.from_ + s.get (F.AX_CHOP.TOFF a) * 800)
          ∧ (t.cc a).w[w].chop.phase = (if c.thr = 0 then .held else .on)
          ∧ (t.cc a).w[w].chop.pos = decide (0 ≤ if w = 0 then s.getS (F.AX_IREF.IREF_W1 a) else s.getS (F.AX_IREF.IREF_W2 a))))
    ∧ (∀ x, (s.ax a).probeAt = some x →
      let next := x + s.get (F.AX_PROBE_SET.PROBE_EVERY a) * 100 * msT
      (probeReady s a = true → Does (.probeAuto a) s
        ((s.at_ next).modAx a fun y => { y with probeAt := some next, probe := some {
          ticket := none, n := 0, at_ := max s.now next, sums := Vector.replicate 4 0, counts := Vector.replicate 4 0, bad := false } })
        [(F.AX_PROBE_SET.PROBE_ACT a, 1)] [])
      ∧ (probeReady s a = false → Does (.probeAuto a) s ((s.at_ next).modAx a fun y => { y with probeAt := some next }) [] []))
    ∧ ((s.ax a).probeAt = none → Does (.probeAuto a) s s [] [])
    ∧ (∀ (p : ProbeSt) (di : Int), (s.ax a).probe = some p →
      (p.n < s.get (F.AX_PROBE_CFG.PROBE_CYC a) * 4 → Completes (.probePeriod a di) s fun t =>
        let at_ := if p.n = 0 then p.at_ else p.at_ + probePeriod s a
        OnlyAxes [a] s t ∧ t.regs = s.regs ∧ t.now = max s.now at_
          ∧ ∃ q, (t.ax a).probe = some q ∧ q.n = p.n + 1 ∧ q.at_ = at_ ∧ q.ticket = p.ticket)
      ∧ (s.get (F.AX_PROBE_CFG.PROBE_CYC a) * 4 ≤ p.n → Completes (.probeDone a di) s fun t =>
        OnlyAxes [a] s t ∧ KeepsFields [F.AX_PROBE_SET.PROBE_ACT a, F.AX_PROBE_RES.all a] s t
          ∧ t.now = max s.now (p.at_ + probePeriod s a) ∧ (t.ax a).probe = none ∧ t.get (F.AX_PROBE_SET.PROBE_ACT a) = 0
          ∧ t.get (F.AX_PROBE_RES.PROBE_DONE a) = 1
          ∧ (p.bad = true ∨ (0 < p.n ∧ di ≤ 0) → t.freeCtr = s.freeCtr + 1
              ∧ t.get (F.AX_PROBE_RES.PROBE_DISP a) = (Config.freeWord s.freeCtr).toNat % 65536
              ∧ t.get (F.AX_PROBE_RES.PROBE_SAL a) = (Config.freeWord s.freeCtr).toNat / 65536 % 4096)))

/-- With no Whistle left over or selected for a fault of the axis: an overcurrent trip that the filters of the comparator
accept under PI latches OC and counts the Backstop violation, other samples only show in OC_OUT; an accepted trip
of a checked switch node latches SN_HS or SN_LS, an overlap counts and holds its leg, and in the third period in a row
latches CROSS; each latched switch fault holds its switches off, ends a stall reaction and opens the escalation window, and
a second one within it is ESCALATED and puts the axis in FAULT. A window closes by itself; a bootstrap trip is counted and
holds the high side, its release ends the level. A diagnostic run that waits starts, and its phases go on with their findings. Only the axis and its
blocks change. (R183, R232, R234, R235, R236,
R237, R238, R239, R293, R296, R297, R301.) -/
def Obligations.SwitchFaultsOfAnAxis : Prop :=  ∀ (a : Axis) (s : State) (t0 : Nat), s.whReq = [] → natBit (s.get F.WH_AX_SEL.FLT) a = false →
    let now := max s.now t0
    let swFault := fun (now : Nat) (f : Fld) (whole : Bool) (mask : BitVec 8) (t : State) =>
      let open_ := match (s.gd a).escEnd with | some e => decide (now < e) | none => false
      OnlyAxes [a] s t ∧ t.now = now ∧ KeepsBlocks [a] (F.SEC_AUDIT_CNT.all :: plannerFields) s t ∧ t.get f = 1
        ∧ t.get (F.AX_GD_FLT.SW_OFF a) = s.get (F.AX_GD_FLT.SW_OFF a) ||| (heldBy s a whole mask).toNat
        ∧ (open_ = true → t.get (F.AX_GD_FLT.ESCALATED a) = 1 ∧ InFault a s t)
        ∧ (open_ = false → (t.gd a).escEnd = some (now + s.get (F.AX_GD_CFG.ESC_WIN a) * msT) ∧ t.axState a = s.axState a
            ∧ t.mot a = { s.mot a with stallHold := none } ∧ (t.la a).stallDue = none)
    (∀ (w : Fin 2) (x : Samples), s.axOn a = true → s.get (F.AX_CC_CFG.MODE a) = 0 →
      let r := ocFeed a w x (s.at_ x.t)
      let out := bitOf (r.1.cc a).oc[w].out
      (r.2.isSome = true → Completes (.ocTrip a w x) s fun t =>
        swFault r.1.now (F.AX_GD_FLT.OC a) false (ocSwitches (noteGates a r.1) a w) t ∧ t.get (ocOut a w) = out
          ∧ t.get (F.BK_STAT.VIOL_OC a) = 1 ∧ t.get (F.BK_CNT.OC a) = counted s (F.BK_CNT.OC a))
      ∧ (r.2 = none → Does (.ocTrip a w x) s r.1 [(ocOut a w, out)] []))
    ∧ (∀ (w : Fin 2) (x : Samples), (s.axOn a = false ∨ s.get (F.AX_CC_CFG.MODE a) ≠ 0) → Does (.ocTrip a w x) s (s.at_ x.t) [] [])
    ∧ (∀ (leg : Leg) (hs : Bool) (x : Samples), s.axOn a = true →
        let i := snGate leg hs
        let r := snFeed a i x (noteGates a (s.at_ x.t))
        (r.2.isSome = true → Completes (.snTrip a leg hs x) s
          (swFault r.1.now (if hs then F.AX_GD_FLT.SN_HS a else F.AX_GD_FLT.SN_LS a) false (BitVec.ofNat 8 (2 ^ i.val))))
        ∧ (r.2 = none → Does (.snTrip a leg hs x) s r.1 [] []))
    ∧ (∀ leg : Leg, s.axOn a = true →
        let m := legMask (2 ^ leg.val)
        let third := (s.gd a).crossNow.getLsbD leg.val = false ∧ 2 ≤ (s.gd a).crossRun[leg]
        (BitVec.ofNat 8 (s.get (F.AX_GD_FLT.SW_OFF a)) &&& m = m →
          Does (.crossOverlap a leg t0) s (s.at_ t0) [(F.AX_GD_STAT.CROSS_CNT a, counted s (F.AX_GD_STAT.CROSS_CNT a))] [])
        ∧ (BitVec.ofNat 8 (s.get (F.AX_GD_FLT.SW_OFF a)) &&& m ≠ m → Completes (.crossOverlap a leg t0) s fun t =>
            OnlyAxes [a] s t ∧ t.get (F.AX_GD_STAT.CROSS_CNT a) = counted s (F.AX_GD_STAT.CROSS_CNT a)
              ∧ (t.gd a).crossHold.getLsbD leg.val = true ∧ (third → swFault now (F.AX_GD_FLT.CROSS a) true m t)
              ∧ (¬ third → KeepsFields [F.AX_GD_STAT.CROSS_CNT a] s t ∧ t.mot a = s.mot a)))
    ∧ (∀ e, (s.gd a).escEnd = some e → Does (.escWinClose a) s ((s.at_ e).modGd a fun g => { g with escEnd := none }) [] [])
    ∧ (∀ leg : Leg, s.axOn a = true →
        (Completes (.bstLow a leg t0) s fun t => OnlyAxes [a] s t ∧ t.now = now ∧ t.mot a = s.mot a
          ∧ KeepsFields [F.AX_GD_STAT.BST_LOW_ACT a, F.AX_GD_STAT.BST_LOW_CNT a] s t
          ∧ t.get (F.AX_GD_STAT.BST_LOW_ACT a) = natSetBit (s.get (F.AX_GD_STAT.BST_LOW_ACT a)) leg true
          ∧ t.get (F.AX_GD_STAT.BST_LOW_CNT a) = counted s (F.AX_GD_STAT.BST_LOW_CNT a)
          ∧ (t.gd a).bstHold.getLsbD leg.val = true)
        ∧ Does (.bstLowRelease a leg t0) s (s.at_ t0)
            [(F.AX_GD_STAT.BST_LOW_ACT a, natSetBit (s.get (F.AX_GD_STAT.BST_LOW_ACT a)) leg false)] [])
    ∧ (∀ (q : Quad) (w : DiagWhy) (l : List DiagWhy), diagConds s q = true → ((quadAxes q).any fun b => (s.gd b).diagRun.isSome) = false →
        (quadAxes q).find? (fun b => !(s.gd b).diagPend.isEmpty) = some a → (s.gd a).diagPend = w :: l →
        Completes (.diagStart q) s fun t => OnlyAxes [a] s t ∧ t.get (F.AX_GD_STAT.DIAG_BUSY a) = 1 ∧ (t.gd a).diagRun = some (w, 0)
          ∧ (t.gd a).diagPend = l ∧ MotionKept a s t)
    ∧ (∀ (w : DiagWhy) (ph : Fin 4) (v0 v1 v2 v3 : Nat), (s.gd a).diagRun = some (w, ph) → ph ≠ 3 → Does (.diagPhaseEnd a v0 v1 v2 v3) s
        (s.modGd a fun g => { g with diagRun := some (w, ph + 1), diagFind := phaseFindings s a ph v0 v1 v2 v3 g.diagFind }) [] [])

/-- With no Whistle left over or selected for an axis fault, no test takeover: an accepted enabled trip shows in LEVEL
and EVT and forces every axis of its AXES whose domain is up: TRIP_ACT sets, and with LATCH the axis is in FAULT with
TRIP_FLT; other axes keep their engines. A trip going inactive clears LEVEL and marks the forces it holds for release;
nothing else changes. A change within FILT of the one accepted last is none that the filter accepts (assumption log 105).
A fall of an STO input, and one that lasts alone for STO_DISC_T, takes every moving axis out of motion; a rise is no rearm edge;
AXnn_ENA falls and rises with its count, and the rise is one. (R215, R217, R218, R239, R243, R244, R478, R479, R480.) -/
def Obligations.TripInputsForceTheirAxes : Prop :=  ∀ (n : Fin 4) (s : State) (t0 : Nat), s.whReq = [] → s.get F.WH_AX_SEL.FLT = 0 → pinsHeld s = false →
    let bit : BitVec 4 := BitVec.ofNat 4 (2 ^ n.val)
    let hit := fun a : Axis => s.axOn a = true ∧ natBit (s.get (F.TRIP_CFG.AXES n)) a = true
    let soon := tripTooSoon (s.at_ t0) n
    let seen : State := { s with ms := { s.ms with tripAt := s.ms.tripAt.set n (some (max s.now t0)) } }
    (s.get (F.TRIP_CFG.EN n) = 1 → natBit (s.get F.TRIP_STAT.LEVEL) n = false → soon = false → Completes (.tripActive n t0) s fun t =>
      BesideAxes seen t ∧ t.now = max s.now t0 ∧ KeepsBlocks allAxes (F.TRIP_STAT.LEVEL :: F.TRIP_STAT.EVT :: plannerFields) s t
        ∧ t.get F.TRIP_STAT.LEVEL = natSetBit (s.get F.TRIP_STAT.LEVEL) n true
        ∧ t.get F.TRIP_STAT.EVT = natSetBit (s.get F.TRIP_STAT.EVT) n true
        ∧ ∀ a : Axis, (¬ hit a → t.ax a = s.ax a)
          ∧ (hit a → t.get (F.AX_PWM_STAT.TRIP_ACT a) = 1 ∧ (t.pwm a).tripForce = (s.pwm a).tripForce ||| bit
              ∧ (t.pwm a).tripDrop = (s.pwm a).tripDrop &&& ~~~ bit
              ∧ (s.get (F.TRIP_CFG.LATCH n) = 1 → t.get (F.AX_PWM_STAT.TRIP_FLT a) = 1 ∧ InFault a s t)
              ∧ (s.get (F.TRIP_CFG.LATCH n) = 0 → t.mot a = s.mot a ∧ t.axState a = s.axState a ∧ t.get (F.AX_STATE.ENERGISED a) = 0)))
    ∧ ((s.get (F.TRIP_CFG.EN n) = 0 ∨ natBit (s.get F.TRIP_STAT.LEVEL) n = true ∨ soon = true) →
        Does (.tripActive n t0) s (s.at_ t0) [] [])
    ∧ ((natBit (s.get F.TRIP_STAT.LEVEL) n = false ∨ soon = true) → Does (.tripInactive n t0) s (s.at_ t0) [] [])
    ∧ (natBit (s.get F.TRIP_STAT.LEVEL) n = true → soon = false → Completes (.tripInactive n t0) s fun t => BesideAxes seen t ∧ t.now = max s.now t0 ∧ KeepsFields [F.TRIP_STAT.LEVEL] s t
        ∧ t.get F.TRIP_STAT.LEVEL = natSetBit (s.get F.TRIP_STAT.LEVEL) n false
        ∧ ∀ a : Axis, t.ax a = { s.ax a with
            pwm := { s.pwm a with tripDrop := (s.pwm a).tripDrop ||| ((s.pwm a).tripForce &&& bit) } })
    ∧ (let lost := fun t : State => ∀ a : Axis, s.axOn a = true → (s.axState a = 2 ∨ s.axState a = 3 ∨ s.axState a = 4) →
        t.axState a = 0 ∧ t.get (F.AX_STATE.ENERGISED a) = 0 ∧ t.get (F.BK_STAT.EN_LOSS a) = 1
      (∀ b : Bool, stoShort (s.at_ t0) b = false →
        ((if b then s.bk.stoB else s.bk.stoA) = true → Completes (.stoLow b t0) s fun t => t.now = max s.now t0
          ∧ t.bk.stoA = (s.bk.stoA && b) ∧ t.bk.stoB = (s.bk.stoB && !b) ∧ t.get F.BK_DEV_STAT.STO_EVT = 1 ∧ lost t)
        ∧ ((if b then s.bk.stoB else s.bk.stoA) = false → Completes (.stoHigh b t0) s fun t => t.now = max s.now t0
          ∧ t.bk.stoA = (s.bk.stoA || !b) ∧ t.bk.stoB = (s.bk.stoB || b) ∧ t.ip = s.ip ∧ ∀ a : Axis, MotionKept a s t))
      ∧ (∀ d : Nat, s.bk.stoDiffAt = some d → s.get F.BK_DEV_STAT.STO_DISC = 0 → Completes .stoDiscTimeout s fun t =>
          t.now = max s.now (d + s.get F.BK_STO_CFG.STO_DISC_T * msT) ∧ t.get F.BK_DEV_STAT.STO_DISC = 1 ∧ lost t)
      ∧ (∀ a : Axis, s.axOn a = true →
        ((s.gd a).ena = true → Completes (.enaFall a t0) s fun t => OnlyAxes [a] s t ∧ (t.gd a).ena = false
          ∧ t.get (F.AX_STATE_CNT.ENA_FALL_CNT a) = counted s (F.AX_STATE_CNT.ENA_FALL_CNT a))
        ∧ ((s.gd a).ena = false → Completes (.enaRise a t0) s fun t => OnlyAxes [a] s t ∧ (t.gd a).ena = true
          ∧ t.get (F.AX_STATE_CNT.REARM_CNT a) = counted s (F.AX_STATE_CNT.REARM_CNT a))))

/-- With no Whistle left over or selected: in a quad whose domain is up a charge pump under voltage clears CP_OK and
starts the bootstrap fall-back, or without it faults every energised axis with CP_UV; VGS under voltage faults every
energised axis. The samples of a comparator of the motor supply pass its majority filter, and whatever they are, the command
completes and touches neither an axis outside the quad nor another part of the device. Where the last of them turns the
filtered output of a decided comparator: over-voltage sets OV_ACT, OV_EVT and the count and faults every axis with bridge
enable; under-voltage sets UV_ACT and UV_EVT and with UV_LATCH faults every energised axis, else holds its legs; a return
clears the level; a brake decision reaches its channel. Samples that turn nothing, or the output of an undecided comparator,
change the filter alone. (R230, R233, R239, R250, R251, R252, R253, R293, R294, R296, R299.) -/
def Obligations.SupplyEventsOfTheBridges : Prop :=  ∀ (q : Quad) (s : State) (t0 : Nat), s.whReq = [] → s.get F.WH_AX_SEL.FLT = 0 → natBit (s.get F.WH_MON_SEL.VMOV) q = false →
    natBit (s.get F.WH_MON_SEL.VMUV) q = false →
    let only := fun (more : List Fld) (t : State) => OnlyAxes (quadAxes q) s t ∧ t.now = max s.now t0
      ∧ KeepsBlocks (quadAxes q) (more ++ plannerFields) s t
    let m := s.ms.wm[vmMon q]
    let maj := wmMaj s (vmMon q)
    let last := fun x : Samples => max s.now (lastTick x maj)
    let monitor := fun (x : Samples) (more : List Fld) (t : State) => OnlyAxes (quadAxes q) { s with ms := t.ms } t ∧ t.now = last x
      ∧ KeepsBlocks (quadAxes q) (more ++ plannerFields) s t
    let turns := fun (c : Fin 3) (x : Samples) (on : Bool) => m.decided.getLsbD c = true ∧ (m.filt[c]).turns maj m.hold[c] x.raw x.t on
    let fed := fun (c : Fin 3) (x : Samples) =>
      { s with now := last x, ms := { s.ms with wm := s.ms.wm.set (vmMon q) { m with filt := m.filt.set c ((m.filt[c]).takes maj m.hold[c] x.raw x.t) } } }
    let still := fun (c : Fin 3) (x : Samples) => (m.filt[c]).steady maj m.hold[c] x.raw x.t ∨ m.decided.getLsbD c = false
    let rows := fun x : Samples => [((0 : Fin 3), Instr.vmUvTrip q x), (0, .vmUvClear q x), (1, .brakeDecision q x.raw x.t), (2, .vmOvTrip q x),
      (2, .vmOvClear q x)]
    let energised := fun a : Axis => s.get (F.AX_STATE.ENERGISED a) = 1
    let pwOnly := fun t : State => BesideAxes { s with pw := { s.pw with vgsUv := t.pw.vgsUv, supplies := t.pw.supplies } } t
      ∧ t.now = max s.now t0 ∧ KeepsBlocks allAxes plannerFields s t
    (s.pd (3 + q.val) = true →
      (s.get (F.QD_GD_CFG.BST_EN q) = 1 → Completes (.cpUv q t0) s fun t =>
        OnlyAxes (quadAxes q) s t ∧ KeepsFields [F.QD_GD_STAT.CP_OK q, F.QD_GD_STAT.CP_FB_ACT q, F.QD_GD_STAT.CP_FALLBACK q] s t
          ∧ t.get (F.QD_GD_STAT.CP_OK q) = 0 ∧ t.get (F.QD_GD_STAT.CP_FB_ACT q) = 1 ∧ t.get (F.QD_GD_STAT.CP_FALLBACK q) = 1
          ∧ ∀ a ∈ quadAxes q, t.ax a = { s.ax a with gd := { s.gd a with fallback := true, cpReturn := false } })
      ∧ (s.get (F.QD_GD_CFG.BST_EN q) = 0 → Completes (.cpUv q t0) s fun t => only [F.QD_GD_STAT.CP_OK q] t
          ∧ t.get (F.QD_GD_STAT.CP_OK q) = 0 ∧ ∀ a ∈ quadAxes q, energised a → t.get (F.AX_GD_FLT.CP_UV a) = 1 ∧ InFault a s t)
      ∧ (Completes (.cpGood q t0) s fun t => only [F.QD_GD_STAT.CP_OK q] t ∧ t.get (F.QD_GD_STAT.CP_OK q) = 1
          ∧ ∀ a ∈ quadAxes q, MotionKept a s t ∧ (t.gd a).fallback = (s.gd a).fallback
            ∧ (t.gd a).cpReturn = (if s.get (F.QD_GD_STAT.CP_FB_ACT q) = 1 then (s.gd a).fallback else (s.gd a).cpReturn))
      ∧ (∀ x : Samples,
        (∀ r ∈ rows x, Completes r.2 s fun t => OnlyAxes (quadAxes q) { s with ms := t.ms, priv := t.priv } t ∧ s.now ≤ t.now
          ∧ KeepsBlocks (quadAxes q) ([F.QD_GD_STAT.OV_ACT q, F.QD_GD_STAT.OV_EVT q, F.QD_GD_CNT.OV_TRIPS q, F.QD_GD_STAT.UV_ACT q,
              F.QD_GD_STAT.UV_EVT q] ++ plannerFields) s t)
        ∧ (∀ r ∈ rows x, still r.1 x → Does r.2 s (fed r.1 x) [] [])
        ∧ (turns 2 x true → s.get (F.QD_GD_STAT.VM_UNSETTLED q) = 0 → s.get (F.QD_GD_STAT.OV_ACT q) = 0 → Completes (.vmOvTrip q x) s fun t =>
            monitor x [F.QD_GD_STAT.OV_ACT q, F.QD_GD_STAT.OV_EVT q, F.QD_GD_CNT.OV_TRIPS q] t ∧ t.get (F.QD_GD_STAT.OV_ACT q) = 1
            ∧ t.get (F.QD_GD_STAT.OV_EVT q) = 1 ∧ t.get (F.QD_GD_CNT.OV_TRIPS q) = counted s (F.QD_GD_CNT.OV_TRIPS q)
            ∧ ∀ a ∈ quadAxes q, (bridgeEnabled s a = true → t.get (F.AX_GD_FLT.OV_TRIP a) = 1 ∧ InFault a s t)
              ∧ (bridgeEnabled s a = false → t.ax a = s.ax a))
        ∧ (turns 2 x false → s.get (F.QD_GD_STAT.VM_UNSETTLED q) = 0 → Completes (.vmOvClear q x) s fun t =>
            BesideRegs { s with now := last x, ms := t.ms } t ∧ t.get (F.QD_GD_STAT.OV_ACT q) = 0 ∧ KeepsFields [F.QD_GD_STAT.OV_ACT q] s t)
        ∧ (turns 0 x true → s.get (F.QD_GD_STAT.UV_ACT q) = 0 → Completes (.vmUvTrip q x) s fun t =>
            monitor x [F.QD_GD_STAT.UV_ACT q, F.QD_GD_STAT.UV_EVT q] t ∧ t.get (F.QD_GD_STAT.UV_ACT q) = 1 ∧ t.get (F.QD_GD_STAT.UV_EVT q) = 1
            ∧ ∀ a ∈ quadAxes q, (s.get (F.QD_GD_CFG.UV_LATCH q) = 1 → energised a → t.get (F.AX_GD_FLT.VM_UV a) = 1 ∧ InFault a s t)
              ∧ (s.get (F.QD_GD_CFG.UV_LATCH q) = 0 → (t.gd a).uvHold = true ∧ t.mot a = s.mot a ∧ t.axState a = s.axState a
                ∧ t.get (F.AX_STATE.ENERGISED a) = 0))
        ∧ (turns 0 x false → Completes (.vmUvClear q x) s fun t => monitor x [F.QD_GD_STAT.UV_ACT q] t ∧ t.get (F.QD_GD_STAT.UV_ACT q) = 0
            ∧ ∀ a ∈ quadAxes q, MotionKept a s t ∧ (t.gd a).uvHold = (s.gd a).uvHold)
        ∧ (∀ on : Bool, turns 1 x on → s.get (F.QD_GD_STAT.VM_UNSETTLED q) = 0 → Completes (.brakeDecision q x.raw x.t) s fun t =>
            BesideRegs { s with now := last x, ms := t.ms, priv := s.priv.set (brkChan q) { s.priv[brkChan q] with want := on } } t
              ∧ t.regs = s.regs)))
    ∧ (s.pd (3 + q.val) = false → ∀ x : Samples, ∀ r ∈ rows x, Does r.2 s (s.at_ x.t) [] [])
    ∧ (s.pw.vgsUv = false → Completes (.vgsUv t0) s fun t => pwOnly t ∧ t.pw.vgsUv = true ∧ t.pw.supplies.getLsbD 5 = false
        ∧ ∀ a : Axis, s.axOn a = true → energised a → t.get (F.AX_GD_FLT.VGS_UV a) = 1 ∧ InFault a s t)
    ∧ (Completes (.vgsGood t0) s fun t => pwOnly t ∧ t.pw.vgsUv = false ∧ t.pw.supplies.getLsbD 5 = true ∧ ∀ a : Axis, MotionKept a s t)

/-- With no Whistle left over or selected for an axis fault: an STO input going low is recorded and audited, and every
moving axis whose domain is up leaves motion for OFF with EN_LOSS; a return high is no rearm edge; a change that the STO
filter cannot have accepted yet is none (assumption log 105); a lasting difference sets STO_DISC and acts the same. A
falling AXnn_ENA is counted and takes the axis out of motion; a rising one is a rearm edge, after which a shunt comparator
that is still tripped latches OC again. The lowest pending diagnostic run of a quad starts; a phase goes on to the next; the
last one writes findings and PASS, and a failure is DIAG_FAIL in FAULT. (R243, R244, R245, R246, R478, R479, R480, R494,
R513.) -/
def Obligations.BridgeEnableAndDiagnostics : Prop :=  ∀ s : State, s.whReq = [] → s.get F.WH_AX_SEL.FLT = 0 →
    let lost := fun t : State => ∀ a : Axis, s.axOn a = true → (s.axState a = 2 ∨ s.axState a = 3 ∨ s.axState a = 4) →
      t.axState a = 0 ∧ t.get (F.AX_STATE.ENERGISED a) = 0 ∧ t.get (F.BK_STAT.EN_LOSS a) = 1
    let devOnly := fun (t : State) => BesideAxes { s with bk := t.bk } t
      ∧ KeepsBlocks allAxes (F.BK_DEV_STAT.STO_EVT :: F.BK_DEV_STAT.STO_DISC :: F.SEC_AUDIT_CNT.AUDIT_LOST :: plannerFields) s t
    (∀ (b : Bool) (t0 : Nat), (if b then s.bk.stoB else s.bk.stoA) = true → stoShort (s.at_ t0) b = false → Completes (.stoLow b t0) s fun t =>
      devOnly t ∧ t.now = max s.now t0 ∧ t.bk.stoA = (s.bk.stoA && b) ∧ t.bk.stoB = (s.bk.stoB && !b)
        ∧ t.get F.BK_DEV_STAT.STO_EVT = 1 ∧ t.sec.auditNext = s.sec.auditNext + 1 ∧ lost t
        ∧ t.get F.BK_DEV_STAT.STO_DISC = (if t.bk.stoA = false ∧ t.bk.stoB = false then 0 else s.get F.BK_DEV_STAT.STO_DISC))
    ∧ (∀ (b : Bool) (t0 : Nat), stoShort (s.at_ t0) b = true → Does (.stoLow b t0) s (s.at_ t0) [] [] ∧ Does (.stoHigh b t0) s (s.at_ t0) [] [])
    ∧ (∀ (b : Bool) (t0 : Nat), (if b then s.bk.stoB else s.bk.stoA) = false → Does (.stoLow b t0) s (s.at_ t0) [] [])
    ∧ (∀ (b : Bool) (t0 : Nat), (if b then s.bk.stoB else s.bk.stoA) = true → Does (.stoHigh b t0) s (s.at_ t0) [] [])
    ∧ (∀ (b : Bool) (t0 : Nat), (if b then s.bk.stoB else s.bk.stoA) = false → stoShort (s.at_ t0) b = false → Completes (.stoHigh b t0) s fun t =>
        BesideAxes { s with bk := t.bk } t ∧ t.now = max s.now t0
        ∧ t.bk.stoA = (s.bk.stoA || !b) ∧ t.bk.stoB = (s.bk.stoB || b) ∧ t.sec = s.sec ∧ t.ip = s.ip
        ∧ ∀ a : Axis, MotionKept a s t ∧ t.get (F.AX_GD_FLT.all a) = s.get (F.AX_GD_FLT.all a))
    ∧ (∀ t0 : Nat, s.bk.stoDiffAt = some t0 → s.get F.BK_DEV_STAT.STO_DISC = 0 → Completes .stoDiscTimeout s fun t =>
        devOnly t ∧ t.bk = s.bk ∧ t.now = max s.now (t0 + s.get F.BK_STO_CFG.STO_DISC_T * msT) ∧ t.get F.BK_DEV_STAT.STO_DISC = 1
          ∧ t.sec.auditNext = s.sec.auditNext + 1 ∧ lost t)
    ∧ (∀ (a : Axis) (t0 : Nat), pinsHeld s = false → s.axOn a = true →
        ((s.gd a).ena = true → Completes (.enaFall a t0) s fun t => OnlyAxes [a] s t ∧ KeepsBlocks [a] plannerFields s t ∧ t.now = max s.now t0
          ∧ (t.gd a).ena = false ∧ t.get (F.AX_STATE_CNT.ENA_FALL_CNT a) = counted s (F.AX_STATE_CNT.ENA_FALL_CNT a)
          ∧ ((s.axState a = 2 ∨ s.axState a = 3 ∨ s.axState a = 4) → t.axState a = 0 ∧ t.get (F.AX_STATE.ENERGISED a) = 0 ∧ t.get (F.BK_STAT.EN_LOSS a) = 1)
          ∧ ((s.axState a = 1 ∨ s.axState a = 5) → t.axState a = 0 ∧ MotionKept a s t))
        ∧ ((s.gd a).ena = false → Completes (.enaRise a t0) s fun t => OnlyAxes [a] s t
          ∧ KeepsBlocks [a] (F.SEC_AUDIT_CNT.all :: plannerFields) s t ∧ (t.gd a).ena = true
          ∧ t.get (F.AX_STATE_CNT.REARM_CNT a) = counted s (F.AX_STATE_CNT.REARM_CNT a)
          ∧ (let tripped := s.get (F.AX_CC_CFG.MODE a) = 0 ∧ ∃ w : Fin 2, s.flag (ocOut a w) = true
             freshFaults (s.at_ t0) a = 0 →
              (¬ tripped → t.get (F.AX_GD_FLT.SW_OFF a) = 0 ∧ t.get (F.AX_GD_FLT.FIRST_CAUSE a) = 0 ∧ (t.gd a).escEnd = none)
              ∧ (tripped → t.get (F.AX_GD_FLT.OC a) = 1 ∧ t.get (F.AX_GD_FLT.FIRST_CAUSE a) = 1 ∧ (t.gd a).escEnd ≠ none))))
    ∧ (∀ (q : Quad) (a : Axis) (w : DiagWhy) (l : List DiagWhy), diagConds s q = true →
        ((quadAxes q).any fun b => (s.gd b).diagRun.isSome) = false →
        (quadAxes q).find? (fun b => !(s.gd b).diagPend.isEmpty) = some a → (s.gd a).diagPend = w :: l →
        Completes (.diagStart q) s fun t => OnlyAxes [a] s t ∧ KeepsBlocks [a] [] s t ∧ t.get (F.AX_GD_STAT.DIAG_BUSY a) = 1
          ∧ (t.gd a).diagRun = some (w, 0) ∧ (t.gd a).diagPend = l ∧ MotionKept a s t)
    ∧ (∀ (a : Axis) (w : DiagWhy) (ph : Fin 4) (v0 v1 v2 v3 : Nat), (s.gd a).diagRun = some (w, ph) →
        let f := phaseFindings s a ph v0 v1 v2 v3 (s.gd a).diagFind
        (ph ≠ 3 → Does (.diagPhaseEnd a v0 v1 v2 v3) s (s.modGd a fun g => { g with diagRun := some (w, ph + 1), diagFind := f }) [] [])
        ∧ (ph = 3 → Completes (.diagPhaseEnd a v0 v1 v2 v3) s fun t => OnlyAxes [a] s t ∧ KeepsBlocks [a] plannerFields s t
            ∧ (t.gd a).diagRun = none ∧ t.get (F.AX_GD_STAT.DIAG_BUSY a) = 0 ∧ t.get (F.AX_GD_STAT.DIAG_DONE a) = 1
            ∧ t.get (F.AX_DIAG_RES.W1_FIND a) = f.toNat % 64 ∧ t.get (F.AX_DIAG_RES.W2_FIND a) = f.toNat / 64
            ∧ t.get (F.AX_DIAG_RES.PASS a) = bitOf (f == 0) ∧ (f = 0 → (t.gd a).diagPassed = true ∧ MotionKept a s t)
            ∧ (f ≠ 0 → t.get (F.AX_GD_FLT.DIAG_FAIL a) = 1 ∧ InFault a s t)))

/-- With no Whistle left over or selected for a fault of the axis: a current result, the mean of the conversions of
OVERSAMPLE, puts value, the next TAG modulo 16, FRESH and USABLE into the register of its winding (under PI with the sign
of the active state; under CHOP a code past the Backstop threshold is an overcurrent), and clears the comparator output
when it lies far below the threshold in force and no hold runs; the voltage converter of an axis and the general converter
write the next enabled input of their round robin, but during a diagnostic run the node is not given. Every other register
keeps its value. (R151, R152, R163, R286, R287, R288, R290, R292; the rounding of the mean and the free node are the
model's choices, assumption log 117 and 119.) -/
def Obligations.ConvertersWriteTheirResults : Prop :=  ∀ s : State, s.whReq = [] →
    (∀ (a : Axis) (w : Fin 2) (c0 c1 c2 c3 : Int), natBit (s.get F.WH_AX_SEL.FLT) a = false → s.axOn a = true →
      let code := adcMean (if s.get (F.AX_CC_CFG.MODE a) = 1 then 1 else oversample (ccCfg s a)) [c0, c1, c2, c3]
      let val := if w = 0 then F.MS_CUR_W1.VALUE a else F.MS_CUR_W2.VALUE a
      let tag := if w = 0 then F.MS_CUR_W1.TAG a else F.MS_CUR_W2.TAG a
      let fresh := if w = 0 then F.MS_CUR_W1.FRESH a else F.MS_CUR_W2.FRESH a
      let usab := if w = 0 then F.MS_CUR_W1.USABLE a else F.MS_CUR_W2.USABLE a
      let out := if w = 0 then F.MS_OC_STAT.OC_OUT_W1 a else F.MS_OC_STAT.OC_OUT_W2 a
      let pre := (s.cc a).w[w].pre
      let x := if atPeriod s a then 0 else perOf s a / 2
      let usable := s.flag (F.AX_STATE.ENERGISED a) && pre != 0
        && decide (sampleWindow (ccCfg s a) ≤ (s.cc a).w[w].preRun) && activeSign s a w x (x + 160) == pre
      let v := clampInt (-32768) 32767 (if pre < 0 then -code else code)
      let released := if code.natAbs + 128 < s.get (ocDac a w) * 32 ∧ ocHeld s a w = false then 0 else s.get out
      (s.get (F.AX_CC_CFG.MODE a) = 0 → Does (.currentAdcResult a w ⟨c0, c1, c2, c3⟩) s
          (s.modCc a fun c => { c with w := c.w.set w { c.w[w] with sample := if usable then some v else none } })
          [(val, toBits 16 v), (tag, (s.get tag + 1) % 16), (fresh, 1), (usab, bitOf usable), (out, released)] [])
      ∧ (s.get (F.AX_CC_CFG.MODE a) = 1 → code.natAbs ≤ s.get (F.BK_OC.OC_CODE a) * 32 → Does (.currentAdcResult a w ⟨c0, c1, c2, c3⟩) s s
          [(val, toBits 16 code), (tag, (s.get tag + 1) % 16), (fresh, 1), (usab, 0), (out, released)] [])
      ∧ (s.get (F.AX_CC_CFG.MODE a) = 1 → s.get (F.BK_OC.OC_CODE a) * 32 < code.natAbs → Completes (.currentAdcResult a w ⟨c0, c1, c2, c3⟩) s fun t =>
          OnlyAxes [a] s t ∧ KeepsBlocks [a] (F.SEC_AUDIT_CNT.all :: plannerFields) s t ∧ t.get val = toBits 16 code
            ∧ t.get (F.AX_GD_FLT.OC a) = 1 ∧ t.get (F.BK_STAT.VIOL_OC a) = 1 ∧ t.get (F.BK_CNT.OC a) = counted s (F.BK_CNT.OC a)))
    ∧ (∀ (a : Axis) (code : Nat), s.axOn a = true → (s.gd a).diagRun.isSome = true → Completes (.voltageAdcResult a code) s fun t =>
        BesideRegs { s with freeCtr := s.freeCtr + 1 } t ∧ KeepsFields [F.MS_VM.all a, F.MS_SN_W1P.all a, F.MS_SN_W1N.all a,
          F.MS_SN_W2P.all a, F.MS_SN_W2N.all a] s t)
    ∧ (∀ (a : Axis) (code : Nat), s.axOn a = true → (s.gd a).diagRun = none →
      let n := nodeFrom s a 5 s.ms.vNext[a]
      let r : Fld × Fld × Fld := match n with
        | 0 => (F.MS_VM.VALUE a, F.MS_VM.TAG a, F.MS_VM.FRESH a)
        | 1 => (F.MS_SN_W1P.VALUE a, F.MS_SN_W1P.TAG a, F.MS_SN_W1P.FRESH a)
        | 2 => (F.MS_SN_W1N.VALUE a, F.MS_SN_W1N.TAG a, F.MS_SN_W1N.FRESH a)
        | 3 => (F.MS_SN_W2P.VALUE a, F.MS_SN_W2P.TAG a, F.MS_SN_W2P.FRESH a)
        | 4 => (F.MS_SN_W2N.VALUE a, F.MS_SN_W2N.TAG a, F.MS_SN_W2N.FRESH a)
      nodeOn s a n = true ∧ Does (.voltageAdcResult a code) s { s with ms := { s.ms with vNext := s.ms.vNext.set a (n + 1) } }
        [(r.1, code % 2 ^ 14), (r.2.1, (s.get r.2.1 + 1) % 16), (r.2.2, 1)] [])
    ∧ (∀ code : Nat, s.pd 1 = true →
      (s.get F.MS_AIN_CFG.EN = 0 → Does (.ainAdcResult code) s s [] [])
      ∧ (s.get F.MS_AIN_CFG.EN ≠ 0 →
        let n := ainFrom s 8 s.ms.ainNext
        natBit (s.get F.MS_AIN_CFG.EN) n = true ∧ Does (.ainAdcResult code) s { s with ms := { s.ms with ainNext := n + 1 } }
          [(F.MS_AIN.VALUE n, code % 2 ^ 16), (F.MS_AIN.TAG n, (s.get (F.MS_AIN.TAG n) + 1) % 16), (F.MS_AIN.FRESH n, 1)] []))

/-- For every sensor whose domain is up and every result in 1/16 °C, with no Whistle left over: the result register
takes the value, the next TAG and FRESH; the bit of TEMP_WARN sets with TEMP_EVT when the result reaches TWARN, clears
when it falls 2 °C below, and stays otherwise. Nothing else in the machine changes: no axis, mode or output. (R289.)
-/
def Obligations.TemperatureWarnings : Prop :=  ∀ (n : Fin 6) (code : Int) (s : State), s.whReq = [] → tempOn s n = true →
    let w : Int := s.get F.MS_TEMP_CFG.TWARN * 16
    let old := natBit (s.get F.MS_TEMP_STAT.TEMP_WARN) n
    let warn := if old then decide (w - 32 < code) else decide (w ≤ code)
    Does (.tempResult n code) s s
      [(F.MS_TEMP.VALUE n, toBits 16 code), (F.MS_TEMP.TAG n, (s.get (F.MS_TEMP.TAG n) + 1) % 16), (F.MS_TEMP.FRESH n, 1),
        (F.MS_TEMP_STAT.TEMP_WARN, natSetBit (s.get F.MS_TEMP_STAT.TEMP_WARN) n warn),
        (F.MS_TEMP_STAT.TEMP_EVT, if warn = true ∧ old = false then natSetBit (s.get F.MS_TEMP_STAT.TEMP_EVT) n true
          else s.get F.MS_TEMP_STAT.TEMP_EVT)] []

/-- With no Whistle left over or selected: the samples of a comparator of an enabled AIN monitor pass its majority filter and
touch nothing but that monitor and its flag; where the last of them turns the filtered output of a decided comparator, its flag
sets or clears, with the event at each entry, and it goes to the threshold for the way back. At the end of a dwell, 2 µs and the
majority window after it came to its threshold, an undecided comparator is decided active when its filtered output is active at
the set threshold, or inactive when that is inactive at the release threshold, else it changes threshold and its filter begins
anew; the last decision clears UNSETTLED, for a motor supply an active under-voltage acts at its decision, an active over-voltage
and the brake decision with the last one. A comparator whose DAC changes has its output held for 100 ns. (R250, R251, R252,
R253, R293, R294, R295, R296, R298, R299.) -/
def Obligations.WindowMonitorsSettleAndTrip : Prop :=  ∀ s : State, s.whReq = [] → s.pd 1 = true → s.get F.WH_MON_SEL.all = 0 → s.get F.WH_AX_SEL.FLT = 0 →
    let feed := fun (n : Fin 12) (c : Fin 3) (x : Samples) =>
      let w := s.ms.wm[n]
      { s with
        now := if x.raw = [] then s.now else max s.now (lastTick x (wmMaj s n))
        ms := { s.ms with wm := s.ms.wm.set n { w with filt := w.filt.set c ((w.filt[c]).takes (wmMaj s n) w.hold[c] x.raw x.t) } } }
    (∀ (n : Fin 8) (high : Bool) (x : Samples),
      let f := if high then F.MS_WM_STAT.ABOVE n else F.MS_WM_STAT.BELOW n
      let e := if high then F.MS_WM_STAT.ABOVE_EVT n else F.MS_WM_STAT.BELOW_EVT n
      let i : Fin 3 := if high then 1 else 0
      let bit : BitVec 3 := BitVec.ofNat 3 (2 ^ i.val)
      let w := s.ms.wm[ainMon n]
      let maj := wmMaj s (ainMon n)
      (s.get (F.MS_WM_CFG.WM_EN n) = 0 → Does (.ainWmTrip n high x) s s [] [])
      ∧ (s.get (F.MS_WM_CFG.WM_EN n) = 1 →
        (Completes (.ainWmTrip n high x) s fun t => BesideRegs { s with now := t.now, ms := { s.ms with wm := t.ms.wm } } t
          ∧ KeepsFields [f, e] s t ∧ ∀ k : Fin 12, k ≠ ainMon n → t.ms.wm[k] = s.ms.wm[k])
        ∧ (((w.filt[i]).steady maj w.hold[i] x.raw x.t ∨ w.decided.getLsbD i = false) → Does (.ainWmTrip n high x) s (feed (ainMon n) i x) [] [])
        ∧ (∀ on : Bool, w.decided.getLsbD i = true → (w.filt[i]).turns maj w.hold[i] x.raw x.t on → Does (.ainWmTrip n high x) s
            (wmThreshold (ainMon n) i on ((feed (ainMon n) i x).modWm (ainMon n) fun w => { w with
              act := if on then w.act ||| bit else w.act &&& ~~~ bit }))
            [(f, bitOf on), (e, if on = true ∧ s.get f = 0 then 1 else s.get e)] [])))
    ∧ (∀ (n : Fin 12) (c : Fin 3) (x : Samples),
      let w := s.ms.wm[n]
      let bit : BitVec 3 := BitVec.ofNat 3 (2 ^ c.val)
      let live := w.decided.getLsbD c.val = false ∧ if n.val < 8 then s.get (F.MS_WM_CFG.WM_EN n) = 1 ∧ c ≠ 2 else s.pd (n.val - 5) = true
      let beyond := ((w.filt[c]).takes (wmMaj s n) w.hold[c] x.raw x.t).out
      let settled := w.decided ||| bit = if n.val < 8 then 3 else 7
      let e := (feed n c x).at_ (w.since[c] + wmDwell s n)
      let u := wmThreshold n c beyond (e.modWm n fun w => { w with
        decided := w.decided ||| bit
        act := if beyond then w.act ||| bit else w.act &&& ~~~ bit })
      (live → w.atRelease.getLsbD c.val = beyond → Does (.wmDwellEnd n c x) s
        ((wmThreshold n c (!beyond) e).modWm n fun w => { w with filt := w.filt.set c FiltSt.reset }) [] [])
      ∧ (live → w.atRelease.getLsbD c.val ≠ beyond →
        (n.val < 8 → Completes (.wmDwellEnd n c x) s fun t => BesideRegs u t ∧ KeepsFields [F.MS_WM_STAT.all n] s t
          ∧ (settled → t.get (F.MS_WM_STAT.UNSETTLED n) = 0)
          ∧ (beyond = true → t.get (if c = 1 then F.MS_WM_STAT.ABOVE n else F.MS_WM_STAT.BELOW n) = 1)
          ∧ (beyond = false → ¬ settled → t.regs = s.regs))
        ∧ (8 ≤ n.val → ¬ settled → ¬ (c = 0 ∧ beyond = true) → Does (.wmDwellEnd n c x) s u [] [])
        ∧ (∀ q : Quad, n = vmMon q → Completes (.wmDwellEnd n c x) s fun t => t.ms = u.ms
          ∧ (∀ b : Axis, b ∉ quadAxes q → t.ax b = s.ax b)
          ∧ (c = 0 → beyond = true → t.get (F.QD_GD_STAT.UV_ACT q) = 1)
          ∧ (settled → t.get (F.QD_GD_STAT.VM_UNSETTLED q) = 0 ∧ (t.priv[brkChan q]).want = (u.ms.wm[n]).act.getLsbD 1
            ∧ ((u.ms.wm[n]).act.getLsbD 2 = true → t.get (F.QD_GD_STAT.OV_ACT q) = 1))))
      ∧ (¬ live → Does (.wmDwellEnd n c x) s s [] []))
    ∧ (∀ (n : Fin 12) (c d : Fin 3) (rel : Bool),
      let x := (wmThreshold n c rel s).ms.wm[n]
      let dac := fun (s : State) => if (s.ms.wm[n]).atRelease.getLsbD d then (wmCodes s n d).2 else (wmCodes s n d).1
      x.atRelease.getLsbD d = (if d = c then rel else (s.ms.wm[n]).atRelease.getLsbD d)
        ∧ x.since[d] = (if d = c then s.now else (s.ms.wm[n]).since[d])
        ∧ x.hold[d] = (if dac (wmThreshold n c rel s) = dac s then (s.ms.wm[n]).hold[d] else s.now + 100 * nsT)
        ∧ x.decided = (s.ms.wm[n]).decided ∧ x.act = (s.ms.wm[n]).act)

/-- For an axis whose domain is up, with no Whistle left over and no test takeover: a level of FA, FB or FZ shorter than the filter,
and the return from one, do nothing. In QUAD an accepted edge of FA or FB that has no edge of the other input within 20 ns before
or behind it changes position and revolution counters by one in its direction, an index event latches IDX_POS, and with
HOME_ARMED sets both counters to 0; one of two edges of both inputs within 20 ns counts nothing, and the second sets QUAD_ERR
and FB_LOST; two edges of one input within 40 ns set OVERRUN and FB_LOST; an accepted edge of FZ counts nothing, and one to its
inactive level lets the next pulse have its index event. In another mode only the levels are kept. Unless a master
channel is fed by the axis, nothing but its decoder changes. The home bits arm and cancel. (R257, R258, R261, R265, R266, R267, R268, R269.) -/
def Obligations.QuadratureEdgesCount : Prop :=  ∀ (a : Axis) (onA onB rising : Bool) (x : Joint) (s : State), s.whReq = [] → pinsHeld s = false → s.axOn a = true →
    let inp := quadInput onA onB
    let c := s.core a
    let m : Int := revModulus s a
    let isA := inp = 0
    let n := fbSign s a (if (if isA then rising != c.fb else rising == c.fa) then 1 else -1)
    let p : Int := (s.get (F.AX_FB_POS.POS a) : Int) + n
    let level := if inp = 0 then c.fa else if inp = 1 then c.fb else c.fz
    let taken := fun d : FbCore => if inp = 0 then { d with fa := rising } else if inp = 1 then { d with fb := rising } else { d with fz := rising }
    let ignored := x.len < fbFilter s a ∨ level = rising
    let fast := closer 320 x.t (if inp = 0 then c.tA else if inp = 1 then c.tB else c.tZ)
    let err := closer 160 x.t (if isA then c.tB else c.tA)
    let index := fzActive s a c.fz = true ∧ c.idxDone = false
    let only := fun t : State => BesideAxes { s with mch := t.mch } t ∧ t.mot a = s.mot a
      ∧ (fast = true → t.get (F.AX_FB_STAT.OVERRUN a) = 1)
      ∧ ((∀ k : Fin 4, ¬ (s.get (F.MCH_CFG.SRC k) = 1 ∧ s.get (F.MCH_CFG.AXIS k) = a.val)) → OnlyAxes [a] s t
        ∧ KeepsFields [F.AX_FB_POS.all a, F.AX_FB_REV.all a, F.AX_FB_IDX_POS.all a, F.AX_FB_IDX_CNT.all a, F.AX_FB_STAT.all a] s t)
    let kept := fun t : State => t.get (F.AX_FB_POS.POS a) = s.get (F.AX_FB_POS.POS a) ∧ t.get (F.AX_FB_REV.REV a) = s.get (F.AX_FB_REV.REV a)
      ∧ t.get (F.AX_FB_STAT.IDX_EVT a) = s.get (F.AX_FB_STAT.IDX_EVT a)
    (ignored → Does (.quadEdge a onA onB rising x) s s [] [])
    ∧ (fbMode s a = 1 → ¬ ignored → inp = 2 → Completes (.quadEdge a onA onB rising x) s fun t => only t
      ∧ (t.core a).fz = rising ∧ (t.core a).tZ = some x.t ∧ kept t
      ∧ (fast = true → t.get (F.AX_FB_STAT.FB_LOST a) = 1)
      ∧ (fzActive s a rising = false → (t.core a).idxDone = false))
    ∧ (fbMode s a = 1 → ¬ ignored → inp ≠ 2 → err = false → 160 ≤ x.next → Completes (.quadEdge a onA onB rising x) s fun t => only t
      ∧ (¬ (index ∧ s.get (F.AX_FB_STAT.HOME_ARMED a) = 1) → t.get (F.AX_FB_POS.POS a) = (p % m).toNat
          ∧ t.get (F.AX_FB_REV.REV a) = toBits 16 (s.getS (F.AX_FB_REV.REV a) + p / m)
          ∧ (fast = true → t.get (F.AX_FB_STAT.FB_LOST a) = 1))
      ∧ (index → t.get (F.AX_FB_STAT.IDX_EVT a) = 1 ∧ t.get (F.AX_FB_IDX_POS.IDX_POS a) = (p % m).toNat)
      ∧ (index → s.get (F.AX_FB_STAT.HOME_ARMED a) = 1 → t.get (F.AX_FB_POS.POS a) = 0 ∧ t.get (F.AX_FB_REV.REV a) = 0
          ∧ t.get (F.AX_FB_STAT.HOME_ARMED a) = 0 ∧ t.get (F.AX_FB_STAT.HOMED a) = 1 ∧ t.get (F.AX_FB_STAT.FB_LOST a) = 0))
    ∧ (fbMode s a = 1 → ¬ ignored → inp ≠ 2 → err = false → x.next < 160 → Completes (.quadEdge a onA onB rising x) s fun t => only t ∧ kept t
      ∧ t.get (F.AX_FB_STAT.QUAD_ERR a) = s.get (F.AX_FB_STAT.QUAD_ERR a))
    ∧ (fbMode s a = 1 → ¬ ignored → inp ≠ 2 → err = true → Completes (.quadEdge a onA onB rising x) s fun t => only t ∧ kept t
      ∧ t.get (F.AX_FB_STAT.QUAD_ERR a) = 1 ∧ t.get (F.AX_FB_STAT.FB_LOST a) = 1)
    ∧ (fbMode s a ≠ 1 → ¬ ignored → Does (.quadEdge a onA onB rising x) s (s.modCore a taken) [] [])
    ∧ (s.ip.running = true → s.ip.loLatch = [] → s.pd (3 + (quadOf a).val) = true →
      let ends := { s with ip := { s.ip with unlocked := false, wrStatus := 0 } }
      (fbFollowed s a = false → Does (.homeArm a) s ends [(F.AX_FB_STAT.HOME_ARMED a, 1)] [])
      ∧ Does (.homeCancel a) s ends [(F.AX_FB_STAT.HOME_ARMED a, 0)] [])

/-- For an axis whose domain is up, with no Whistle left over and no test takeover: a Hall state shorter than the filter, and the
return from one, do nothing (a part of R257 and R258). In HALL (R270) a change that another one follows within less than 20 ns only takes the levels; any other is
judged: an invalid code sets HALL_INVALID and HALL_INV_ACT and leaves the count and the last valid code; a valid code clears
HALL_INV_ACT and is judged from the last valid code: one place counts one, two places count two the shorter way with
HALL_SKIP, three places change no count and set HALL_SKIP and FB_LOST. In another mode only the levels are kept. Unless a master
channel is fed by the axis, nothing but its decoder changes. (R271, R272.) -/
def Obligations.HallStatesJudged : Prop :=  ∀ (a : Axis) (code : BitVec 3) (x : Joint) (s : State), s.whReq = [] → pinsHeld s = false → s.axOn a = true →
    let m : Int := revModulus s a
    let pos := F.AX_FB_POS.POS a
    let rev := F.AX_FB_REV.REV a
    let c := s.core a
    let ignored := x.len < fbFilter s a ∨ (c.fa = code.getLsbD 0 ∧ c.fb = code.getLsbD 1 ∧ c.fz = code.getLsbD 2)
    let same := fun t : State => t.get pos = s.get pos ∧ t.get rev = s.get rev
    let by_ := fun (n : Int) (t : State) => t.get pos = (((s.get pos : Int) + fbSign s a n) % m).toNat
      ∧ t.get rev = toBits 16 (s.getS rev + ((s.get pos : Int) + fbSign s a n) / m)
    (ignored → Does (.hallTransition a code x) s s [] [])
    ∧ (fbMode s a ≠ 2 → ¬ ignored → Does (.hallTransition a code x) s
        (s.modCore a fun c => { c with fa := code.getLsbD 0, fb := code.getLsbD 1, fz := code.getLsbD 2 }) [] [])
    ∧ (fbMode s a = 2 → ¬ ignored → Completes (.hallTransition a code x) s fun t => BesideAxes { s with mch := t.mch } t
      ∧ ((∀ k : Fin 4, ¬ (s.get (F.MCH_CFG.SRC k) = 1 ∧ s.get (F.MCH_CFG.AXIS k) = a.val)) → OnlyAxes [a] s t
        ∧ KeepsFields [F.AX_FB_POS.all a, F.AX_FB_REV.all a, F.AX_FB_STAT.all a] s t)
      ∧ t.mot a = s.mot a
      ∧ (t.core a).fa = code.getLsbD 0 ∧ (t.core a).fb = code.getLsbD 1 ∧ (t.core a).fz = code.getLsbD 2
      ∧ (x.next < 160 → same t ∧ (t.core a).hall = c.hall
          ∧ t.get (F.AX_FB_STAT.HALL_INV_ACT a) = s.get (F.AX_FB_STAT.HALL_INV_ACT a))
      ∧ (160 ≤ x.next → match hallPlace code.toNat with
        | none => t.get (F.AX_FB_STAT.HALL_INVALID a) = 1 ∧ t.get (F.AX_FB_STAT.HALL_INV_ACT a) = 1 ∧ same t
            ∧ (t.core a).hall = c.hall
        | some k => t.get (F.AX_FB_STAT.HALL_INV_ACT a) = 0 ∧ (t.core a).hall = some k
            ∧ match c.hall with
              | none => same t
              | some k0 => match (k + 6 - k0) % 6 with
                | 0 => same t
                | 1 => by_ 1 t
                | 2 => by_ 2 t ∧ t.get (F.AX_FB_STAT.HALL_SKIP a) = 1
                | 4 => by_ (-2) t ∧ t.get (F.AX_FB_STAT.HALL_SKIP a) = 1
                | 5 => by_ (-1) t
                | _ => same t ∧ t.get (F.AX_FB_STAT.HALL_SKIP a) = 1 ∧ t.get (F.AX_FB_STAT.FB_LOST a) = 1))

/-- For an axis whose domain is up, with no Whistle left over: a level of the tooth train shorter than the filter, and
the return from one, do nothing in WHEEL, and an edge that is not active counts nothing; an active one that is no mark candidate counts one; at
the place of a missing-tooth mark it is TOOTH_ERR with FB_LOST and ends WHEEL_SYNC; a good serial frame sets the position
and clears SER_ERR_ACT, any other sets SER_ERR and SER_ERR_ACT and leaves the counters, and a late one does nothing more;
the speed window ends with the counted speed or a change of method, to the count if the speed has exceeded SPEED_X in it;
SPEED_TMO without an edge sets STILL and speed 0. Unless a master channel is fed by the axis, nothing but its decoder
changes. FB_MODE that leaves 0 for an edge mode clears the counters. (R257, R258, R273, R275, R276, R277, R279, R280, R282.) -/
def Obligations.WheelSerialAndSpeedEvents : Prop :=  ∀ (a : Axis) (rising : Bool) (t0 len : Nat) (s : State), s.whReq = [] → s.axOn a = true →
    let c := s.core a
    let m : Int := revModulus s a
    let one := fbSign s a 1
    let pos := F.AX_FB_POS.POS a
    let rev := F.AX_FB_REV.REV a
    let only := fun t : State => BesideAxes { s with mch := t.mch } t ∧ t.mot a = s.mot a
      ∧ ((∀ k : Fin 4, ¬ (s.get (F.MCH_CFG.SRC k) = 1 ∧ s.get (F.MCH_CFG.AXIS k) = a.val)) → OnlyAxes [a] s t
        ∧ KeepsFields [F.AX_FB_POS.all a, F.AX_FB_REV.all a, F.AX_FB_STAT.all a] s t)
    let stepped := fun t : State => t.get pos = (((s.get pos : Int) + one) % m).toNat
      ∧ t.get rev = toBits 16 (s.getS rev + ((s.get pos : Int) + one) / m)
    let markAt := if s.get (F.AX_FB_WHEEL.MISS a) ≠ 0 then s.get (F.AX_FB_WHEEL.TEETH a) - s.get (F.AX_FB_WHEEL.MISS a) - 1
      else s.get (F.AX_FB_WHEEL.TEETH a) - 1
    let short := len < fbFilter s a ∨ c.fa = rising
    let edge : Instr := .wheelEdge a ⟨rising, t0, len⟩
    let active := if s.get (F.AX_FB_CFG.WHEEL_EDGE a) = 0 then rising else !rising
    (pinsHeld s = false → fbMode s a = 3 → short → Does edge s s [] [])
    ∧ (pinsHeld s = false → fbMode s a = 3 → ¬ short → active = false → Completes edge s fun t => only t
      ∧ t.get pos = s.get pos ∧ t.get rev = s.get rev ∧ (t.core a).lastT = c.lastT ∧ (t.core a).tA = some t0
      ∧ (closer 320 t0 c.tA = true → t.get (F.AX_FB_STAT.OVERRUN a) = 1 ∧ t.get (F.AX_FB_STAT.FB_LOST a) = 1))
    ∧ (pinsHeld s = false → fbMode s a = 3 → ¬ short → active = true → c.zeroNext = false → c.lastP = none →
      ((s.get (F.AX_FB_STAT.WHEEL_SYNC a) = 0 ∨ wheelReads s a ≠ markAt) → Completes edge s fun t => only t ∧ stepped t
        ∧ t.get (F.AX_FB_STAT.WHEEL_SYNC a) = s.get (F.AX_FB_STAT.WHEEL_SYNC a))
      ∧ (s.get (F.AX_FB_STAT.WHEEL_SYNC a) = 1 → wheelReads s a = markAt → s.get (F.AX_FB_WHEEL.MISS a) ≠ 0 →
          Completes edge s fun t => only t ∧ stepped t ∧ t.get (F.AX_FB_STAT.WHEEL_SYNC a) = 0
            ∧ t.get (F.AX_FB_STAT.TOOTH_ERR a) = 1 ∧ t.get (F.AX_FB_STAT.FB_LOST a) = 1))
    ∧ (∀ (bits : List Bool) (complete : Bool), fbMode s a = 4 →
      ((s.ax a).fb.serLate = true → Does (.serFrameDone a bits complete t0) s (s.modFb a fun f => { f with serLate := false }) [] [])
      ∧ (∀ v, (s.ax a).fb.serLate = false → complete = true → serDecode s a bits = some v →
        Completes (.serFrameDone a bits complete t0) s fun t => only t
        ∧ t.get pos = (if s.get (F.AX_FB_CFG.FB_INV a) = 1 then (revModulus s a - v % revModulus s a) % revModulus s a else v % revModulus s a)
        ∧ t.get (F.AX_FB_STAT.SER_ERR_ACT a) = 0 ∧ (t.ax a).fb.serGood = true)
      ∧ ((s.ax a).fb.serLate = false → (complete = false ∨ serDecode s a bits = none) →
        Completes (.serFrameDone a bits complete t0) s fun t => only t
        ∧ t.get (F.AX_FB_STAT.SER_ERR a) = 1 ∧ t.get (F.AX_FB_STAT.SER_ERR_ACT a) = 1 ∧ t.get pos = s.get pos ∧ t.get rev = s.get rev))
    ∧ (fbMode s a ≠ 0 → fbMode s a ≠ 4 → Completes (.speedWindowEnd a) s fun t => OnlyAxes [a] s t ∧ t.mot a = s.mot a
      ∧ KeepsFields [F.AX_FB_STAT.SPEED_METH a] s t ∧ (t.core a).winFirst = none ∧ (t.core a).winLast = none
      ∧ (t.core a).winAt = c.winAt + s.get (F.AX_FB_SPD_CFG.SPEED_WIN a) * 10 * usT ∧ (t.core a).overX = false
      ∧ (∀ x y, s.get (F.AX_FB_STAT.SPEED_METH a) = 1 → c.winFirst = some x → c.winLast = some y → x < y →
          (t.core a).speed = divRound (c.winNet * (16 * tps : Nat)) (y - x) ∧ t.get (F.AX_FB_STAT.SPEED_METH a) = 1)
      ∧ (s.get (F.AX_FB_STAT.SPEED_METH a) = 1 → (c.winLast = none ∨ c.winFirst = c.winLast) →
          t.get (F.AX_FB_STAT.SPEED_METH a) = 0 ∧ (t.core a).speed = c.speed)
      ∧ (s.get (F.AX_FB_STAT.SPEED_METH a) = 0 → t.get (F.AX_FB_STAT.SPEED_METH a) = bitOf c.overX ∧ (t.core a).speed = c.speed))
    ∧ (∀ l, c.lastT = some l → s.get (F.AX_FB_STAT.SPEED_METH a) = 0 → fbMode s a ≠ 0 → fbMode s a ≠ 4 →
        Does (.speedTimeout a) s
          ((s.at_ (l + s.get (F.AX_FB_SPD_CFG.SPEED_TMO a) * msT)).modCore a fun c => { c with speed := 0 })
          [(F.AX_FB_STAT.STILL a, 1)] [])
    ∧ (∀ n : BitVec 3, s.ip.running = true → s.ip.loLatch = [] → s.pd (3 + (quadOf a).val) = true → fbMode s a = 0 → fbFollowed s a = false →
      n ≠ 0 → n.toNat ≤ 3 → (n = 3 → s.get (F.AX_FB_REV_COUNT.REV_COUNT a) = s.get (F.AX_FB_WHEEL.TEETH a)) → Completes (.fbModeWrite a n) s fun t =>
        t.get (F.AX_FB_CFG.FB_MODE a) = n.toNat ∧ t.get (F.AX_FB_POS.POS a) = 0 ∧ t.get (F.AX_FB_REV.REV a) = 0
          ∧ t.get (F.AX_FB_STAT.all a) = 0 ∧ (t.core a).speed = 0 ∧ t.now = s.now ∧ t.mot a = s.mot a)

/-- With no Whistle left over and the AUX port in the master role: a serial read of an axis in SERIAL falls due SER_PERIOD
after the one before and joins the reads that wait, and one that finds its predecessor unfinished sets SER_ERR, and the
running predecessor sets no position; the free port, idle for T_IDLE of the select before, starts the waiting read that fell
due first, else the oldest commanded transfer, with the settings its select has then and, most significant bit first, the bits of
its payload and 0 behind them; the end of a transfer, at the earliest when lead, clocks and lag have passed, frees the port, and
of a commanded one puts the received bits into its ticket as words, the first bit in bit 31. (R277, R308, R309, R327, R328,
R332, R350, R356.) -/
def Obligations.AuxPortRunsItsTransfers : Prop :=  ∀ (s : State) (t0 : Nat), s.whReq = [] →
    (∀ a : Axis, s.axOn a = true → fbMode s a = 4 → auxMaster s = true →
      let d := match (s.ax a).fb.serAt with
        | some t => s.at_ (t + s.get (F.AX_FB_SER.SER_PERIOD a) * usT)
        | none => s
      (s.auxm.serQ.contains a = false → auxReads s a = false →
        Does (.serRead a) s { d.modFb a (fun f => { f with serAt := some d.now }) with auxm := { s.auxm with serQ := s.auxm.serQ ++ [a] } } [] [])
      ∧ ((s.auxm.serQ.contains a = true ∨ auxReads s a = true) → Completes (.serRead a) s fun t =>
        BesideAxes { s with auxm := t.auxm, mch := t.mch } t ∧ t.get (F.AX_FB_STAT.SER_ERR a) = 1
          ∧ t.get (F.AX_FB_STAT.SER_ERR_ACT a) = 1 ∧ (t.ax a).fb.serAt = some d.now
          ∧ (auxReads s a = true → (t.ax a).fb.serLate = true) ∧ t.auxm.serQ.contains a = true ∧ t.auxm.cur = s.auxm.cur ∧ t.auxm.queue = s.auxm.queue
          ∧ t.get (F.AX_FB_POS.POS a) = s.get (F.AX_FB_POS.POS a) ∧ t.get (F.AX_FB_REV.REV a) = s.get (F.AX_FB_REV.REV a)))
    ∧ (auxMaster s = true → s.auxm.cur = none →
      let due := s.auxm.serQ.filter fun a => s.axOn a && fbMode s a == 4
      let runs := fun (x : Axis ⊕ AuxXfer) (sel bits : Nat) (tx : List Bool) (m : AuxSt) =>
        let k := auxSet s sel
        let rise := max s.now t0 + (k.lead + bits * (2 * k.div) + k.lag) * 80
        { m with cur := some x, set := k, tx := tx, riseAt := rise, idleEnd := rise + k.idle * 80 }
      (max s.now t0 < s.auxm.idleEnd → Does (.auxTransferStart t0) s (s.at_ t0) [] [])
      ∧ (∀ a l, s.auxm.idleEnd ≤ max s.now t0 → due = a :: l → Does (.auxTransferStart t0) s { s.at_ t0 with
          auxm := runs (.inl a) (s.get (F.AX_FB_SER.SEL a)) (s.get (F.AX_FB_SER.SER_LEN a)) [] { s.auxm with serQ := l } }
        [(F.AUX_STAT.CUR_SEL, s.get (F.AX_FB_SER.SEL a))] [])
      ∧ (∀ x l, s.auxm.idleEnd ≤ max s.now t0 → due = [] → s.auxm.queue = x :: l → Does (.auxTransferStart t0) s { s.at_ t0 with
          auxm := runs (.inr x) x.sel.val x.bits (txBits x) { s.auxm with serQ := [], queue := l } } [(F.AUX_STAT.CUR_SEL, x.sel.val)] [])
      ∧ (due = [] → s.auxm.queue = [] → Does (.auxTransferStart t0) s (s.at_ t0) [] []))
    ∧ (∀ x : AuxXfer, (txBits x).length = x.bits ∧ ∀ i < x.bits, (txBits x)[i]? = some ((x.words.getD (i / 32) 0).getLsbD (31 - i % 32)))
    ∧ (∀ bits : List Bool,
      let e := (s.at_ t0).at_ s.auxm.riseAt
      let free := { s.auxm with cur := none, idleEnd := e.now + s.auxm.set.idle * 80 }
      (∀ a, s.auxm.cur = some (.inl a) → Does (.auxTransferDone bits t0) s { e with auxm := free } [] [])
      ∧ (∀ x : AuxXfer, s.auxm.cur = some (.inr x) →
        let words := rxWords ((x.bits + 31) / 32) (bits.take x.bits)
        Does (.auxTransferDone bits t0) s
          { e with
            auxm := free
            ip := { s.ip with tickets := s.ip.tickets.map fun k =>
              if k.no = x.ticket ∧ k.result.isNone then { k with result := some (0, words) } else k } } [] []))

/-- With PD7 up, no Locker block reset and no Whistle left over: while DEADBALL is 1, or with no candidate, nothing is
granted; else the bank takes the access of the winner for 320 ns, or 1.28 µs for a write, with the winner as owner and
its k at 0, every loser has its k one higher, at most 8, and is in Let for 10 ns · 2^k, and WAIT_MAX marks the wait.
Other banks, the stored lines and the waiting jobs keep their values. The end of a back-off leaves k. DEADBALL takes its value;
a legal APPLY in CONFIG gives every region whose partition changes a new generation that waits for its lines. (R387, R395, R410,
R411, R412, R413, R414, R415.) -/
def Obligations.LockerBanksArbitrate : Prop :=  ∀ (b : Fin 8) (s : State) (t0 : Nat), s.whReq = [] →
    let s1 := s.at_ t0
    let k := s.lk.banks[b]
    (s.pd 7 = true → s.blockHeld 6 = false → k.busy = none →
      (s.get F.LK_ARB_CTRL.DEADBALL = 1 → Does (.lockerArbitrate b t0) s s1 [] [])
      ∧ (arbWinner s1 b = none → Does (.lockerArbitrate b t0) s s1 [] [])
      ∧ (∀ (w : Fin 26 × Fin 26) (r : Fin 22) (j : LkJob), s.get F.LK_ARB_CTRL.DEADBALL = 0 → arbWinner s1 b = some w → w.2.val = r.val →
          requestOf s1 r b = some j → Completes (.lockerArbitrate b t0) s fun t =>
            BesideRegs { s1 with lk := { s.lk with banks := t.lk.banks } } t ∧ (∀ c : Fin 8, c ≠ b → t.lk.banks[c] = s.lk.banks[c])
            ∧ KeepsFields [F.LK_WAIT_MAX.WAIT_MAX b, F.LK_WAIT_MAX.QMASK_CNT b] s t
            ∧ (t.lk.banks[b]).busy = some { job := j, endAt := max s.now t0 + (if j.bytes.isSome then 10240 else 2560) }
            ∧ (t.lk.banks[b]).owner = some r ∧ (t.lk.banks[b]).k[w.2] = 0
            ∧ (∀ e ∈ arbLosers s1 b w, e ≠ w.1 → e ≠ w.2 → (arbLosers s1 b w).count e = 1 → (t.lk.banks[b]).k[e] = min 8 (k.k[e] + 1)
                ∧ (t.lk.banks[b]).letEnd[e] = some (max s.now t0 + 80 * 2 ^ (t.lk.banks[b]).k[e]))
            ∧ (∀ e : Fin 26, e ∉ arbLosers s1 b w → e ≠ w.1 → e ≠ w.2 → (t.lk.banks[b]).k[e] = k.k[e])))
    ∧ (∀ (e : Fin 26) (x : Nat), k.letEnd[e] = some x → Does (.letEnd b e) s
        { s.at_ x with lk := { s.lk with banks := s.lk.banks.set b { k with letEnd := k.letEnd.set e none } } } [] [])
    ∧ (s.ip.running = true → s.ip.loLatch = [] → s.pd 7 = true →
      let ends := { s with ip := { s.ip with unlocked := false, wrStatus := 0 } }
      let rec_ := (s.get F.LK_PART_REC.BASE, s.get F.LK_PART_REC.SIZE)
      let cam := (s.get F.LK_PART_CAM.BASE, s.get F.LK_PART_CAM.SIZE)
      let trc := (s.get F.LK_PART_TRC.BASE, s.get F.LK_PART_TRC.SIZE)
      (∀ on : Bool, Does (.deadballWrite on) s ends [(F.LK_ARB_CTRL.DEADBALL, if on then 1 else 0)] [])
      ∧ (s.mode = 2 → s.pw.sleepPend = none → partsLegal rec_ cam trc = true → Completes .partitionApply s fun t =>
          t.axes = s.axes ∧ t.ip = ends.ip ∧ t.lk.cells = s.lk.cells
            ∧ ∀ r : Fin 64, let moved := r.val < 63 ∧ partOf (partRec s) (partCam s) (partTrc s) r ≠ partOf rec_ cam trc r
                t.lk.gen[r] = (if moved then s.lk.gen[r] + 1 else s.lk.gen[r])
                ∧ t.lk.initPend.getLsbD r.val = (s.lk.initPend.getLsbD r.val || decide moved)))

/-- With PD7 up and no Whistle left over: a read of the scrubber frees its bank, counts CORRECTED, STALE or
UNCORRECTABLE with the error address, moves on to the next line and writes a CORRECTED line back; a read of a
withdrawn job is only counted; reads change no stored byte. A write of LK_WRITE stores the line under the present
generation: with a GOOD first read-back the line is as encoded and its ticket ends OK after the last line; with two
bad read-backs WR_FAIL counts and the ticket is LOCKER_ERR. Every other line keeps its bytes. (R387, R388, R389, R390,
R392, R393, R396.) -/
def Obligations.LockerLinesReadAndWritten : Prop :=  ∀ (b : Fin 8) (acc : LkAcc) (s : State), s.whReq = [] → s.pd 7 = true → s.lk.banks[b].busy = some acc →
    let j := acc.job
    let s1 := s.at_ acc.endAt
    let bankFree := fun t : State => (t.lk.banks[b]).busy = none ∧ (∀ c : Fin 8, c ≠ b → t.lk.banks[c] = s.lk.banks[c])
    let res := readLine s j.line
    let counts := fun (more : List Fld) (t : State) => t.lk.cells = s.lk.cells ∧ t.axes = s.axes ∧ t.ip = s.ip
      ∧ KeepsFields ([F.LK_ECC_CNT.all, F.LK_ECC_CNT2.STALE_CNT, F.LK_ERR_ADDR.all] ++ more) s t
      ∧ (match res with
          | .good _ => KeepsFields more s t
          | .corrected _ => t.get F.LK_ECC_CNT.CE_CNT = counted s F.LK_ECC_CNT.CE_CNT ∧ KeepsFields (F.LK_ECC_CNT.CE_CNT :: more) s t
          | .stale => t.get F.LK_ECC_CNT2.STALE_CNT = counted s F.LK_ECC_CNT2.STALE_CNT ∧ t.get F.LK_ERR_ADDR.KIND = 1
              ∧ t.get F.LK_ERR_ADDR.REQ = j.who.val
          | .bad => t.get F.LK_ECC_CNT.UE_CNT = counted s F.LK_ECC_CNT.UE_CNT ∧ t.get F.LK_ERR_ADDR.KIND = 0
              ∧ t.get F.LK_ERR_ADDR.REQ = j.who.val)
    (j.bytes = none → j.why = .scrub → j.left = 0 → s.lk.jobs.contains j = true → Completes (.lineReadDone b) s fun t =>
      t.now = max s.now acc.endAt ∧ bankFree t ∧ counts [F.LK_SCRUB.all] t ∧ t.get F.LK_SCRUB.LINE = (j.line + 1) % 2097152
        ∧ ∀ d, res = .corrected d → ∃ x ∈ t.lk.jobs, x.why = .scrubBack ∧ x.line = j.line ∧ x.bytes = some d)
    ∧ (j.bytes = none → s.lk.jobs.any j.same = false → Completes (.lineReadDone b) s fun t =>
        t.now = max s.now acc.endAt ∧ bankFree t ∧ counts [] t ∧ JobsKept s t)
    ∧ (∀ (data : List Byte) (no : BitVec 8) (rb1 rb2 : List Byte), j.bytes = some data → j.why = .write no → s.lk.jobs.contains j = true →
        let good := fun rb : List Byte => ∃ d, rsDecode (tagOf s j.line) (takePad 0 36 rb) = .good d
        let code := fun (t : State) (c : BitVec 8) => t.ip = { s.ip with tickets := s.ip.tickets.map fun k =>
          if k.no = no ∧ k.result.isNone then { k with result := some (c, []) } else k }
        let frame := fun t : State => t.now = max s.now acc.endAt ∧ bankFree t ∧ t.axes = s.axes
          ∧ ∀ l, l ≠ j.line → storedLine t l = storedLine s l
        (good rb1 → rb1 = encodeLine s j.line (takePad 0 32 data) → Completes (.lineWriteDone b rb1 rb2) s fun t => frame t
          ∧ storedLine t j.line = encodeLine s j.line (takePad 0 32 data) ∧ t.regs = s.regs
          ∧ (j.left = 0 → code t 0) ∧ (j.left ≠ 0 → t.ip = s.ip))
        ∧ (¬ good rb1 → good rb2 → Completes (.lineWriteDone b rb1 rb2) s fun t => frame t ∧ storedLine t j.line = takePad 0 36 rb2
          ∧ t.regs = s.regs)
        ∧ (¬ good rb1 → ¬ good rb2 → Completes (.lineWriteDone b rb1 rb2) s fun t => frame t ∧ storedLine t j.line = takePad 0 36 rb2
          ∧ KeepsFields [F.LK_ECC_CNT2.WR_FAIL] s t ∧ t.get F.LK_ECC_CNT2.WR_FAIL = counted s F.LK_ECC_CNT2.WR_FAIL
          ∧ code t (BitVec.ofNat 8 stLockerErr)))

/-- With no Whistle left over: with PD7 up the scrubber asks, SCRUB_INT after its latest read, for the line LK_SCRUB names while SCRUB_EN is 1, and the
trace writer for the lines of its oldest record at TRC_HEAD while TRC_EN is 1 and it is not full; switched off they do
nothing. A recipe whose signature fails is rejected with cause 3, an audit entry and RECIPE_BAD; one that verifies and
whose records are legal and name no cam table is armed and completed. A cam-next whose table fails its signature is
decided. (R392, R398, R402, R408, R494.) -/
def Obligations.ScrubberTraceWriterAndSignatures : Prop :=  ∀ s : State, s.whReq = [] →
    let jobOnly := fun t : State => BesideRegs { s with lk := { s.lk with jobs := t.lk.jobs } } t ∧ t.regs = s.regs
    (s.pd 7 = true → s.lk.jobs.any (fun j => j.who == lkScrubber) = false →
      let due := s.at_ (s.lk.scrubAt + s.get F.LK_CFG.SCRUB_INT * msT)
      (s.get F.LK_CFG.SCRUB_EN = 1 → Completes .scrubTick s fun t =>
        BesideRegs { due with lk := { s.lk with jobs := t.lk.jobs, scrubAt := due.now } } t ∧ t.regs = s.regs
        ∧ ∃ j ∈ t.lk.jobs, j.who = lkScrubber ∧ j.why = .scrub ∧ j.line = s.get F.LK_SCRUB.LINE ∧ j.left = 0 ∧ j.bytes = none)
      ∧ (s.get F.LK_CFG.SCRUB_EN = 0 → Does .scrubTick s s [] []))
    ∧ (∀ (r : List Word) (l : List (List Word)), s.pd 7 = true → s.lk.trace = r :: l → s.lk.jobs.any (fun j => j.why == .trace) = false →
        s.get F.LK_TRC_STAT.TRC_FULL = 0 → trcSize s ≠ 0 →
        (s.get F.LK_TRC_CFG.TRC_EN = 1 → Completes .traceAppend s fun t => jobOnly t
          ∧ ∃ j ∈ t.lk.jobs, j.who = lkTrace ∧ j.why = .trace ∧ j.line = (partAddr (partTrc s) + s.lk.trcHead) / 32
              ∧ j.left = 63 ∧ j.bytes = some (wordsBytesLE (takePad 0 512 r)))
        ∧ (s.get F.LK_TRC_CFG.TRC_EN = 0 → Does .traceAppend s s [] []))
    ∧ (∀ a : ArmSt, s.lk.vals = [] → s.lk.arm = some a → a.sig = true →
        let slot := (a.head.getD 4 0).toNat % 256
        let s1 := addRecord a.slot.toNat a.digest a.version.toNat { s with
          cv := { s.cv with tx := [] }
          lk := { s.lk with arm := some { a with sig := false } } }
        (sigGood s slot a.digest a.signature = false → Completes .signatureVerifyDone s fun t =>
          t.get F.LK_RCP_STAT.REJ = 1 ∧ t.get F.LK_RCP_STAT.REJ_CAUSE = 3 ∧ t.lk.arm = none ∧ Decided a.seq t
            ∧ t.sec.auditNext = s.sec.auditNext + 1 ∧ t.sec.recs = s.sec.recs ∧ t.lk.shadow = s.lk.shadow ∧ t.axes = s.axes
            ∧ KeepsFields (F.LK_RCP_STAT.all :: F.SEC_AUDIT_CNT.all :: plannerFields) s t)
        ∧ (∀ recs, sigGood s slot a.digest a.signature = true → (highOf s a.slot.toNat).getD 0 ≤ a.version.toNat → a.recs = some recs →
            recsLegal recs s1 = true → (recs.filterMap fun r => match r with | .cam _ id => some id | _ => none) = [] →
            Completes .signatureVerifyDone s fun t => t.get F.LK_RCP_STAT.ARMED = 1 ∧ t.get F.LK_RCP_STAT.ARMED_SLOT = a.slot.toNat
              ∧ t.lk.arm = none ∧ t.lk.shadow = some { slot := a.slot, version := a.version, recs := recs } ∧ Decided a.seq t
              ∧ recOf t a.slot.toNat = some (a.digest, a.version.toNat) ∧ t.axes = s.axes
              ∧ KeepsFields (F.LK_RCP_STAT.all :: plannerFields) s t))
    ∧ (∀ (v : CamVal) (l : List CamVal) (tab : CamTab) (x : Axis) (q : BitVec 16) (par : CamPar), s.lk.vals = v :: l → v.sig = true → v.why = .next x q par →
        camParse v = some tab → sigGood s v.slot (camDigest v) (((lineBytes v.lines).drop (v.len - 64)).take 64) = false →
        Completes .signatureVerifyDone s fun t => t.lk.vals = l ∧ Decided q t ∧ t.axes = s.axes ∧ t.sec.recs = s.sec.recs
          ∧ t.sec.auditNext = s.sec.auditNext + 1)

/-- With no Whistle left over: a port that trains, PD8 up and the port out of reset, has LINK_UP and PARTNER at 1, has sent its
64 PING flits, and is otherwise fresh; UP also takes the mean delay of its exchanges as UP_DELAY and, undecided under AUTO,
ROLE 2; DN offers the next ID where one is held. A drop clears both bits, sets LINK_DROP, counts, fails a running barrier; on UP
a squad member loses its Captain; on DN a Captain has STACK_N 1 (a drop while a stack reset waits to leave may release it, and is left out here). A failed training sets TRAIN_FAIL; a PING exchange on UP sends
its PING and writes the mean of the last 16 delays, round trip less turnaround halved, to UP_DELAY. Nothing else changes. (R422,
R425, R428, R429, R430, R433, R436, R437, R440, R445, R446; how the mean is rounded, and that the exchanges of the training count
among the last 16, is the model's choice, assumption log 124.) -/
def Obligations.LinksTrainDropAndMeasureDelay : Prop :=  ∀ (l : Link) (d : Ping) (trained : List Ping) (s : State), s.whReq = [] →
    let delay := fun x : List Ping => min (divRound ((x.map fun p => (p.trip : Int) - p.turn).sum) (2 * x.length)).toNat 65535
    let dropped := s.cv.conflict.any fun c => c.1 == .up && c.2.2
    let pinged := fun t : State => (t.cv.tx.filter fun f => f.1 = l ∧ f.2.typ = 3 ∧ f.2.msg = .ping).length = 64
    let up := linkFld l F.CV_UP_STAT.LINK_UP F.CV_DN_STAT.LINK_UP
    let partner := linkFld l F.CV_UP_STAT.PARTNER F.CV_DN_STAT.PARTNER
    let drop := linkFld l F.CV_UP_STAT.LINK_DROP F.CV_DN_STAT.LINK_DROP
    let count := linkFld l F.CV_UP_STAT.RETRAIN_CNT F.CV_DN_STAT.RETRAIN_CNT
    let failed := linkFld l F.CV_UP_STAT.TRAIN_FAIL F.CV_DN_STAT.TRAIN_FAIL
    (pinsHeld s = false → s.pd 8 = true → linkUp s l = false →
      (l = .up → s.blockHeld 7 = false → Does (.linkUp l trained) s
        { s with cv := { s.cv with
          up := CvPort.reset
          upEver := true
          timeAt := some s.now
          pings := trained.take 16
          timeRef := none
          rate := none
          conflict := if dropped then none else s.cv.conflict } }
        [(up, 1), (partner, 1), (F.CV_TIME.UP_DELAY, delay trained),
          (F.CV_STAT.ROLE, if s.get F.CV_STAT.ROLE = 0 ∧ s.get F.CV_CFG.STACK_ROLE ∈ [0, 3] then 2 else s.get F.CV_STAT.ROLE),
          (F.CV_STAT.ROLE_CONFLICT, if dropped then 0 else s.get F.CV_STAT.ROLE_CONFLICT)] []
        ∧ Completes (.linkUp l trained) s pinged)
      ∧ (l = .dn → s.blockHeld 8 = false → s.get F.CV_CFG.DN_EN = 1 →
        Completes (.linkUp l trained) s pinged
        ∧ ((s.cv.hasId = false ∨ s.get F.CV_STAT.ROLE = 3) → Does (.linkUp l trained) s { s with cv := { s.cv with dn := CvPort.reset } }
          [(up, 1), (partner, 1)] [])
        ∧ (s.cv.hasId = true → s.get F.CV_STAT.ROLE ≠ 3 → Completes (.linkUp l trained) s fun t =>
          BesideLinks s t ∧ t.get up = 1 ∧ t.get partner = 1 ∧ KeepsFields [up, partner] s t ∧ t.cv.up = s.cv.up
            ∧ ∃ f ∈ t.cv.tx, f.1 = .dn ∧ f.2.typ = 4 ∧ f.2.msg = .enum (BitVec.ofNat 5 (devId s + 1)))))
    ∧ (linkUp s l = true → s.cv.rstPend = none → Completes (.linkDown l) s fun t =>
        BesideLinks s t ∧ t.now = s.now ∧ t.get up = 0 ∧ t.get partner = 0 ∧ t.get drop = 1 ∧ t.get count = counted s count
          ∧ t.cvPort l = CvPort.reset
          ∧ (s.get F.CV_OPS.BAR_BUSY = 1 → t.get F.CV_OPS.BAR_BUSY = 0 ∧ t.get F.CV_OPS.BAR_FAIL = 1 ∧ t.get F.CV_OPS.BAR_DONE = 1)
          ∧ (l = .up → t.cv.dn = s.cv.dn ∧ t.ip = s.ip
              ∧ (isMember s = true → s.get F.CV_STAT.CAPT_LOST = 0 → t.get F.CV_STAT.CAPT_LOST = 1 ∧ t.get F.CV_STAT.CAPT_LOST_EVT = 1
                  ∧ t.get F.CV_STAT.TIME_LOCK = 0 ∧ t.get F.CV_STAT.TIME_SLEW = 0 ∧ t.get F.TB_STATUS.SRC = 0
                  ∧ t.get F.TB_STATUS.TIMEBASE_DEGRADED = 1 ∧ t.cv.lossEnd = some (s.now + s.get F.CV_CFG.LOSS_TMO * msT))
              ∧ (isMember s = false → s.get F.CV_OPS.BAR_BUSY = 0 → KeepsFields [up, partner, drop, count] s t))
          ∧ (l = .dn →
              (isCaptain s = true → t.get F.CV_STAT.STACK_N = 1 ∧ t.cv.up = s.cv.up
                ∧ (1 < s.get F.CV_STAT.STACK_N → t.get F.CV_STAT.SQUAD_LOST = 1)
                ∧ ∀ r ∈ t.ip.routes, r.reply = .waiting → r.dev = 0)
              ∧ (isCaptain s = false → s.cv.hasId = true → t.get F.CV_STAT.STACK_N = (devId s + 1) % 32 ∧ t.ip = s.ip
                ∧ Sends .up typEnumEnd (.enumEnd (BitVec.ofNat 5 (devId s + 1)) false false) s t)))
    ∧ (s.pd 8 = true → linkUp s l = false → Does (.trainFail l) s s [(partner, 1), (failed, 1)] [])
    ∧ (linkUp s .up = true →
        let pings := (d :: s.cv.pings).take 16
        Does (.pingExchange d) s { s with cv := { s.cv with pings := pings } }
          [(F.CV_TIME.UP_DELAY, delay pings)] []
        ∧ Completes (.pingExchange d) s fun t => ∃ f ∈ t.cv.tx, f.1 = .up ∧ f.2.typ = 3 ∧ f.2.msg = .ping)
    ∧ (linkUp s .up = false → Does (.pingExchange d) s s [] [])

/-- On a link that is up, with no Whistle left over and no stack reset waiting to leave: a flit of 16 bytes with a bad CRC is
counted and, of a sequenced type, answered with a NAK of the number expected; one out of order likewise; a PING on DN is answered
with one; the sequenced flit expected moves the expected number by one, is acknowledged by a flit that leaves on its port, and,
MCH apart, changes no register; a squad member that has its Captain sends a FRAME message for another device on down, every flit
of it with its LAST. A NAK that names an unacknowledged flit counts a replay and sends it and every later one again, unless it is
the eighth for that flit; a NAK of another number changes nothing. Every flit that leaves has 16 bytes, a header with its number,
ACK and type, and its CRC behind them. A stack reset that waited is entered when its flit has left. (R422, R423, R424, R425, R426,
R427, R428, R442, R444.) -/
def Obligations.FlitsCheckedOrderedAndReplayed : Prop :=  ∀ (l : Link) (bytes : List Byte) (x : Option MchData) (q : BitVec 5) (t0 : Nat) (s : State), s.whReq = [] → linkUp s l = true →
    let hdr : BitVec 16 := bytes.getD 0 0 ++ bytes.getD 1 0
    let seq := BitVec.ofNat 5 (hdr.toNat / 2048)
    let typ := BitVec.ofNat 4 (hdr.toNat / 4)
    let bad := linkFld l F.CV_UP_CNT.CRC_ERR F.CV_DN_CNT.CRC_ERR
    let again := linkFld l F.CV_UP_CNT.REPLAY_CNT F.CV_DN_CNT.REPLAY_CNT
    let good := crc16 (bytes.take 14) = bytes.getD 14 0 ++ bytes.getD 15 0
    let formed := fun (t : State) (f : CvFlit) => f.bytes.length = 16
      ∧ f.bytes.getD 0 0 ++ f.bytes.getD 1 0 = f.seq ++ f.ack ++ f.typ ++ BitVec.ofBool f.last ++ (0 : BitVec 1)
      ∧ crc16 (f.bytes.take 14) = f.bytes.getD 14 0 ++ f.bytes.getD 15 0 ∧ f.bytes = flitBytes (devId t) f
    let nak := fun t : State => ∃ f, t.cv.tx = [(l, f)] ∧ f.typ = 1 ∧ f.ack = (s.cvPort l).rxSeq - 1 ∧ f.last = true
      ∧ f.msg = .nak (s.cvPort l).rxSeq ∧ formed t f
    let goesOn := typ = typFrame ∧ l = .up ∧ routesFrames s = true
      ∧ (s.cv.up.frameOn = some true ∨ (s.cv.up.frameOn = none ∧ (bytes.getD 2 0).toNat % 16 ≠ devId s))
    s.cv.rstPend = none →
    (bytes.length = 16 →
      (¬ good → Does (.flitReceive l bytes x t0) s (s.at_ t0) [(bad, counted s bad)] []
        ∧ (sequencedType typ = true → Completes (.flitReceive l bytes x t0) s nak))
      ∧ (good → 12 ≤ typ.toNat → Does (.flitReceive l bytes x t0) s (s.at_ t0) [(bad, counted s bad)] [])
      ∧ (good → typ.toNat < 4 → Completes (.flitReceive l bytes x t0) s fun t =>
          BesideLinks s t ∧ t.now = max s.now t0 ∧ t.regs = s.regs ∧ (t.cvPort l).rxSeq = (s.cvPort l).rxSeq
            ∧ (typ = 3 → l = .dn → ∃ f ∈ t.cv.tx, f.1 = .dn ∧ f.2.typ = 3 ∧ f.2.msg = .ping))
      ∧ (good → sequencedType typ = true → seq ≠ (s.cvPort l).rxSeq → Completes (.flitReceive l bytes x t0) s fun t =>
          BesideLinks s t ∧ t.now = max s.now t0 ∧ KeepsFields [bad] s t ∧ t.get bad = counted s bad
            ∧ (t.cvPort l).rxSeq = (s.cvPort l).rxSeq ∧ ∃ f ∈ t.cv.tx, f.1 = l ∧ f.2.typ = 1 ∧ f.2.msg = .nak (s.cvPort l).rxSeq)
      ∧ (good → sequencedType typ = true → seq = (s.cvPort l).rxSeq → (typ ≠ typMch ∨ x = none) →
          Completes (.flitReceive l bytes x t0) s fun t =>
            BesideLinks s t ∧ t.now = max s.now t0 ∧ t.regs = s.regs ∧ (t.cvPort l).rxSeq = (s.cvPort l).rxSeq + 1
              ∧ (∃ f ∈ t.cv.tx, f.1 = l ∧ f.2.ack = seq)
              ∧ (goesOn → linkUp s .dn = true → s.cv.dn.waiting = [] → s.cv.dn.replay.length < 31 →
                  ∃ f ∈ t.cv.tx, f.1 = .dn ∧ f.2.typ = typFrame ∧ f.2.last = hdr.getLsbD 1 ∧ f.2.msg = .forwarded bytes)
              ∧ ∀ f ∈ t.cv.tx, formed t f.2))
    ∧ (∀ (i : Nat), (s.cvPort l).replay.findIdx? (fun f => f.seq = q) = some i →
        (if i = 0 then (s.cvPort l).tries + 1 else 1) < 8 →
        Completes (.nakReceive l q) s fun t => BesideLinks s t ∧ t.now = s.now ∧ KeepsFields [again] s t ∧ t.get again = counted s again
          ∧ (t.cvPort l).tries = (if i = 0 then (s.cvPort l).tries + 1 else 1)
          ∧ (s.cvPort l).replay.drop i <+: (t.cvPort l).replay
          ∧ (((s.cvPort l).replay.drop i).map fun f => (l, f.seq, f.typ, f.part, f.msg)) <+: (t.cv.tx.map fun f => (f.1, f.2.seq, f.2.typ, f.2.part, f.2.msg))
          ∧ ((s.cvPort l).waiting = [] → t.cv.tx.length = ((s.cvPort l).replay.drop i).length)
          ∧ ∀ f ∈ t.cv.tx, f.2.ack = (s.cvPort l).rxSeq - 1 ∧ formed t f.2)
    ∧ (∀ (i : Nat), (s.cvPort l).replay.findIdx? (fun f => f.seq = q) = some i →
        8 ≤ (if i = 0 then (s.cvPort l).tries + 1 else 1) → Completes (.nakReceive l q) s fun t =>
          linkUp t l = false ∧ t.get (linkFld l F.CV_UP_STAT.LINK_DROP F.CV_DN_STAT.LINK_DROP) = 1)
    ∧ ((∀ f ∈ (s.cvPort l).replay, f.seq ≠ q) → Does (.nakReceive l q) s s [] []
        ∧ ∀ id : Fin 16, resetWaits s .up = false → resetWaits s .dn = false → (∀ v, levelNow s = some v → 2 ≤ v) →
            Completes (.nakReceive l q) { s with cv := { s.cv with rstPend := some (2, id.val) } } fun t => DeepReset 7 2 id.val s t)

/-- With PD8 up and no Whistle left over: on UP an ID below 16 is taken by a squad member without one, which offers
the next on DN, or reports the size where DN_EN is 0; its own ID again does the same; another sets ID_MISMATCH and
ROLE 3; ID 16 gives ROLE 3 and an overflow report; a Captain sets ROLE_CONFLICT; ROLE 0 and 3 ignore it. A size on DN
is written to STACK_N and goes up; a Captain judges SQUAD_LOST and the conflict by it, and one that has lost a device ends a running barrier. 1 ms after it has taken its
ID a device without a partner on DN reports the size. No register but the named changes. (R429, R430, R431, R437, R440, R445.) -/
def Obligations.EnumerationGivesIdsAndSize : Prop :=  ∀ (id : BitVec 5) (ovf conf : Bool) (s : State), s.whReq = [] → s.pd 8 = true →
    let size := BitVec.ofNat 5 (devId s + 1)
    let goesOn := fun (n : Nat) (t : State) =>
      (s.get F.CV_CFG.DN_EN = 1 → Sends .dn typEnum (.enum (BitVec.ofNat 5 (n + 1))) s t ∧ t.get F.CV_STAT.STACK_N = s.get F.CV_STAT.STACK_N)
      ∧ (s.get F.CV_CFG.DN_EN = 0 → Sends .up typEnumEnd (.enumEnd (BitVec.ofNat 5 (n + 1)) false false) s t
          ∧ t.get F.CV_STAT.STACK_N = (n + 1) % 32)
    let role := s.get F.CV_STAT.ROLE
    (linkUp s .up = true →
      (role = 2 → s.cv.hasId = false → id.toNat < 16 → Completes (.enumReceive id) s fun t =>
        BesideLinks s t ∧ t.now = s.now ∧ t.get F.CV_STAT.DEV_ID = id.toNat ∧ t.cv.hasId = true
          ∧ KeepsFields [F.CV_STAT.DEV_ID, F.CV_STAT.STACK_N] s t ∧ goesOn id.toNat t)
      ∧ (role = 2 → s.cv.hasId = false → id.toNat = 16 → Completes (.enumReceive id) s fun t =>
          BesideLinks s t ∧ t.get F.CV_STAT.ROLE = 3 ∧ KeepsFields [F.CV_STAT.ROLE] s t ∧ t.cv.hasId = false
            ∧ Sends .up typEnumEnd (.enumEnd 16 true false) s t)
      ∧ (role = 2 → s.cv.hasId = true → id.toNat = devId s → Completes (.enumReceive id) s fun t =>
          BesideLinks s t ∧ KeepsFields [F.CV_STAT.STACK_N] s t ∧ goesOn (devId s) t)
      ∧ (role = 2 → s.cv.hasId = true → id.toNat ≠ devId s →
          Does (.enumReceive id) s s [(F.CV_STAT.ID_MISMATCH, 1), (F.CV_STAT.ROLE, 3)] [])
      ∧ ((role = 0 ∨ role = 3) → Does (.enumReceive id) s s [] [])
      ∧ (role = 1 → s.mode ≠ 5 → s.pw.transit = none → Completes (.enumReceive id) s fun t =>
          BesideLinks s t ∧ t.get F.CV_STAT.ROLE_CONFLICT = 1 ∧ KeepsFields [F.CV_STAT.ROLE_CONFLICT] s t
            ∧ t.cv.conflict = some (.up, id.toNat, false) ∧ Sends .up typEnumEnd (.enumEnd id false true) s t)
      ∧ (role = 1 → s.mode = 5 → s.pw.transit = none → Completes (.enumReceive id) s fun t =>
          t.get F.CV_STAT.ROLE_CONFLICT = 1 ∧ t.get F.MODE_STAT.TRANSIT = 1 ∧ t.pw.transit = some (6, 4)
            ∧ KeepsFields [F.CV_STAT.ROLE_CONFLICT, F.MODE_STAT.TRANSIT] s t ∧ t.axes = s.axes ∧ t.ip = s.ip))
    ∧ (linkUp s .up = false → Does (.enumReceive id) s s [] [])
    ∧ (linkUp s .dn = true →
      (role ≠ 1 → Completes (.enumEndReceive id ovf conf) s fun t =>
        BesideLinks s t ∧ t.get F.CV_STAT.STACK_N = id.toNat ∧ KeepsFields [F.CV_STAT.STACK_N, F.CV_STAT.STACK_OVERFLOW] s t
          ∧ (ovf = true → devId s = 15 → t.get F.CV_STAT.STACK_OVERFLOW = 1)
          ∧ (devId s ≠ 15 → KeepsFields [F.CV_STAT.STACK_N] s t) ∧ Sends .up typEnumEnd (.enumEnd id ovf conf) s t)
      ∧ (role = 1 → conf = false → devId s ≠ 15 → Completes (.enumEndReceive id ovf conf) s fun t =>
          BesideLinks s t ∧ t.get F.CV_STAT.STACK_N = id.toNat
            ∧ t.get F.CV_STAT.SQUAD_LOST = (if id.toNat < s.get F.CV_STAT.STACK_N then 1 else s.get F.CV_STAT.SQUAD_LOST)
            ∧ t.get F.CV_STAT.ROLE_CONFLICT = (if s.cv.conflict.any (fun c => c.1 == .dn && decide (c.2.1 < id.toNat)) then 0
                else s.get F.CV_STAT.ROLE_CONFLICT)
            ∧ KeepsFields [F.CV_STAT.STACK_N, F.CV_STAT.SQUAD_LOST, F.CV_STAT.ROLE_CONFLICT, F.CV_OPS.GATHER_BUSY, F.CV_OPS.GATHER_DONE,
                F.CV_OPS.BAR_BUSY, F.CV_OPS.BAR_FAIL, F.CV_OPS.BAR_DONE] s t
            ∧ (id.toNat < s.get F.CV_STAT.STACK_N → s.get F.CV_OPS.BAR_BUSY = 1 → t.get F.CV_OPS.BAR_BUSY = 0 ∧ t.get F.CV_OPS.BAR_FAIL = 1)
            ∧ ∀ r ∈ t.ip.routes, r.reply = .waiting → r.dev.toNat < id.toNat)
      ∧ (role = 1 → conf = true → Completes (.enumEndReceive id ovf conf) s fun t =>
          t.get F.CV_STAT.STACK_N = id.toNat ∧ t.get F.CV_STAT.ROLE_CONFLICT = 1 ∧ t.cv.conflict = some (.dn, id.toNat, false) ∧ t.axes = s.axes))
    ∧ (s.cv.hasId = true → role ≠ 3 → linkUp s .dn = false → Completes .dnPartnerTimeout s fun t =>
        BesideLinks s t ∧ t.now = max s.now (s.cv.idAt + msT) ∧ t.get F.CV_STAT.STACK_N = (devId s + 1) % 32 ∧ KeepsFields [F.CV_STAT.STACK_N] s t
          ∧ Sends .up typEnumEnd (.enumEnd size false false) s t)
    ∧ ((s.cv.hasId = false ∨ role = 3 ∨ linkUp s .dn = true) → Does .dnPartnerTimeout s s [] [])

/-- With no Whistle left over: a Captain or locked squad member sends its time on DN; a squad member writes the
clamped difference to TIME_ERR, clears CAPT_LOST, and above 5 ns loses TIME_LOCK; unlocked it steps forward where it
stands still, else slews toward it up to 10 ms, until it is 0, and beyond sets TIME_FAR; within 1 ns for 100 µs it locks; without
TIME for 4 µs, or without UP, the Captain is lost and LOSS_TMO runs; at its end the device begins a transition to SAFE. No other
register changes. (R432, R433, R434, R435, R436, R504; the 4 µs before a first TIME flit are the model's reading, assumption log 152.) -/
def Obligations.StackTimeIsSentFollowedAndLost : Prop :=  ∀ (time : List Byte) (mark hops : Byte) (t0 : Nat) (s : State), s.whReq = [] →
    let deg := mark.getLsbD 7
    let sends := (isCaptain s || (s.get F.CV_STAT.ROLE == 2 && s.flag F.CV_STAT.TIME_LOCK)) && linkUp s .dn
    let x := max s.now t0
    let diff : Int := (bytesNat time.reverse * 8 + mark.toNat % 8 + s.get F.CV_TIME.UP_DELAY : Nat) - (x : Int)
    let locked := s.get F.CV_STAT.TIME_LOCK = 1 ∧ diff.natAbs ≤ 40
    let rest := [F.CV_TIME.TIME_ERR, F.CV_STAT.CAPT_LOST, F.CV_STAT.TIME_LOCK, F.CV_STAT.TIME_SLEW, F.CV_STAT.TIME_FAR, F.TB_STATUS.SRC,
      F.TB_STATUS.TIMEBASE_DEGRADED]
    Does .timeSend s s [] []
    ∧ (sends = false → Completes .timeSend s fun t => t.cv.tx = [])
    ∧ (sends = true → Completes .timeSend s fun t => ∃ f, t.cv.tx = [(.dn, f)] ∧ f.typ = 2 ∧ f.ack = s.cv.dn.rxSeq - 1 ∧ f.last = true
        ∧ f.msg = .time s.ltime (s.now % 8) (s.flag F.TB_STATUS.TIMEBASE_DEGRADED) (devId s) ∧ f.bytes = flitBytes (devId s) f)
    ∧ (isMember s = true → linkUp s .up = true → Completes (.timeReceive time mark hops t0) s fun t =>
        t.get F.CV_TIME.TIME_ERR = toBits 16 (clampInt (-32768) 32767 diff) ∧ t.get F.CV_STAT.CAPT_LOST = 0 ∧ t.cv.lossEnd = none
          ∧ t.cv.captDeg = deg ∧ KeepsFields rest s t ∧ t.ip = { s.ip with pendReset := t.ip.pendReset } ∧ t.lk.cells = s.lk.cells
          ∧ (locked → BesideLinks s t ∧ t.now = x ∧ t.cv.timeAt = some x ∧ t.get F.CV_STAT.TIME_LOCK = 1
              ∧ t.get F.TB_STATUS.TIMEBASE_DEGRADED = (if deg then 1 else 0) ∧ t.get F.TB_STATUS.SRC = s.get F.TB_STATUS.SRC)
          ∧ (40 < diff.natAbs → t.get F.CV_STAT.TIME_LOCK = 0)
          ∧ (¬ locked → 0 < diff → stackStill s = true → (t.now : Int) = x + diff ∧ t.get F.TB_STATUS.SRC = 2
              ∧ t.get F.TB_STATUS.TIMEBASE_DEGRADED = (if deg then 1 else 0) ∧ t.get F.CV_STAT.TIME_SLEW = 0 ∧ t.get F.CV_STAT.TIME_FAR = 0
              ∧ t.ip.pendReset = s.ip.pendReset.map fun p => { p with deadline := p.deadline + diff.toNat })
          ∧ (¬ locked → ¬ (0 < diff ∧ stackStill s = true) → BesideLinks s t ∧ t.now = x
              ∧ t.get F.CV_STAT.TIME_SLEW = (if diff ≠ 0 ∧ diff.natAbs ≤ 10 * msT then 1 else 0)
              ∧ t.cv.slewPpm = (if diff.natAbs ≤ 10 * msT then 1000 * diff.sign else 0)
              ∧ t.get F.CV_STAT.TIME_FAR = (if 10 * msT < diff.natAbs then 1 else 0)
              ∧ t.get F.TB_STATUS.SRC = s.get F.TB_STATUS.SRC))
    ∧ ((isMember s = false ∨ linkUp s .up = false) → Does (.timeReceive time mark hops t0) s s [] [])
    ∧ (∀ u : Nat, s.cv.errOkFrom = some u → isMember s = true → s.get F.CV_STAT.CAPT_LOST = 0 → u + 100 * usT ≤ t0 →
        Does (.timeLock t0) s { s.at_ t0 with cv := { s.cv with slewPpm := 0 } } [(F.CV_STAT.TIME_LOCK, 1), (F.CV_STAT.TIME_SLEW, 0), (F.TB_STATUS.SRC, 2),
          (F.TB_STATUS.TIMEBASE_DEGRADED, if s.cv.captDeg then 1 else 0)] [])
    ∧ (s.cv.errOkFrom = none → Does (.timeLock t0) s s [] [])
    ∧ (isMember s = true → s.get F.CV_STAT.CAPT_LOST = 0 →
        ((s.cv.upEver = true ∧ linkUp s .up = false) ∨ ∃ u, s.cv.timeAt = some u ∧ u + 4 * usT ≤ t0) →
        Does (.captLost t0) s { s.at_ t0 with cv := { s.cv with errOkFrom := none, slewPpm := 0, lossEnd := some (x + s.get F.CV_CFG.LOSS_TMO * msT) } }
          [(F.CV_STAT.CAPT_LOST, 1), (F.CV_STAT.CAPT_LOST_EVT, 1), (F.TB_STATUS.SRC, 0), (F.TB_STATUS.TIMEBASE_DEGRADED, 1),
            (F.CV_STAT.TIME_LOCK, 0), (F.CV_STAT.TIME_SLEW, 0)] [])
    ∧ (∀ e : Nat, s.cv.lossEnd = some e → s.pw.transit = none →
        (2 ≤ s.mode → s.mode ≤ 6 → Does .lossTmoExpire s
          { s.at_ e with cv := { s.cv with lossEnd := none }, pw := { s.pw with transit := some (7, 5) } } [(F.MODE_STAT.TRANSIT, 1)] [])
        ∧ ((s.mode < 2 ∨ s.mode = 7) → Does .lossTmoExpire s { s.at_ e with cv := { s.cv with lossEnd := none } } [] []))

/-- With PD8 up and no Whistle left over: a routed reply reaches exactly the waiting entry of its index and key at the
Captain; on an awake device a broadcast goes on through the other port and a schedule is held, a stack reset is
entered with cause 7, a gather request is answered upward, with MISMATCH where its own latch lies more than 20 ns from the one named; a barrier goes down, turns at the last device, waits for
routed replies, and ends at the Captain with its time in 10 ns; snapshot data fill the awaited slot and the read-out
ends with the last one. Otherwise nothing changes. A barrier and a gather start at an idle Captain, and the key of a stack reset
enters L2 once its flit can leave. (R358, R439, R440, R441, R442, R443.) -/
def Obligations.BroadcastsBarriersAndReturnsOfTheStack : Prop :=  ∀ (l : Link) (idx src : BitVec 4) (h : Word) (words : List Word) (tt t0 : Nat) (valid : Bool) (s : State),
    s.whReq = [] → s.pd 8 = true →
    let hit := fun e : RouteEntry => e.index = idx ∧ e.dev.toNat = getBits h 19 16 ∧ e.alive.toNat = getBits h 23 20
      ∧ e.tag.toNat = getBits h 6 0 ∧ e.reply = .waiting
    (isCaptain s = true → Does (.replyFlitReceive idx h words) s { s with ip := { s.ip with
      routes := s.ip.routes.map fun e => if hit e then { e with reply := .arrived words } else e } } [] [])
    ∧ (isCaptain s = false → Does (.replyFlitReceive idx h words) s s [] [])
    ∧ (linkUp s l = true → deepHeld s = false → s.mode ≠ 0 →
      (s.ltime ≤ tt → tt ∉ s.cv.sched → s.cv.sched.length < 4 → Completes (.bcastReceive (.whistle tt) l) s fun t =>
        BesideLinks s t ∧ t.regs = s.regs ∧ t.cv.sched = s.cv.sched ++ [tt] ∧ Sends (otherLink l) typBcast (.bcast (.whistle tt)) s t)
      ∧ (tt < s.ltime → LatchReady s s.now → s.get F.WH_DRIVE.DRV = 0 → Completes (.bcastReceive (.whistle tt) l) s fun t =>
          t.get F.CV_OPS.WH_LATE = 1 ∧ t.get F.WH_STAT.LAST_SRC = 3 ∧ t.cv.sched = s.cv.sched ∧ t.wh.latchT = s.now
            ∧ KeepsFields [F.CV_OPS.WH_LATE, F.WH_STAT.all, F.WH_CNT.LATCH_CNT] s t)
      ∧ ((∀ v, levelNow s = some v → 2 ≤ v) → Completes (.bcastReceive (.reset false src) l) s fun t => DeepReset 7 2 src.toNat s t)
      ∧ (levelNow s = none → Completes (.bcastReceive (.reset true src) l) s fun t => InterpreterReset 7 src.toNat s t ∧ t.cv.sched = [])
      ∧ (isCaptain s = false → s.cv.hasId = true → l = .dn → Completes (.bcastReceive (.gather tt) l) s fun t =>
          BesideLinks s t ∧ t.regs = s.regs ∧ Sends .up typBcast (.bcast (.gather tt)) s t)
      ∧ (isCaptain s = false → s.cv.hasId = true → l = .up → Completes (.bcastReceive (.gather tt) l) s fun t =>
          BesideLinks s t ∧ t.regs = s.regs ∧ Sends .dn typBcast (.bcast (.gather tt)) s t
            ∧ Sends .up typData (.data (BitVec.ofNat 4 (devId s)) (match s.wh.snap with
                | some w => gatherSlot (devId s) true (latchFar (s.wh.latchT / nsT) tt) (s.wh.latchT / nsT) w
                | none => absentSlot (devId s))) s t))
    ∧ ((linkUp s l = false ∨ deepHeld s = true ∨ s.mode = 0) → Does (.bcastReceive (.whistle tt) l) s s [] [])
    ∧ (linkUp s .up = true →
        (routedWaits s ≠ [] → Does (.barrierReceive true t0) s { s with cv := { s.cv with barHeld := some (routedWaits s) } } [] [])
        ∧ (routedWaits s = [] → Completes (.barrierReceive true t0) s fun t => BesideLinks s t ∧ t.regs = s.regs
            ∧ t.cv.barHeld = none
            ∧ Sends (if linkUp s .dn then .dn else .up) typBarrier .barrier s t))
    ∧ (linkUp s .dn = true →
        (isCaptain s = false → Completes (.barrierReceive false t0) s fun t =>
          BesideLinks s t ∧ t.regs = s.regs ∧ Sends .up typBarrier .barrier s t)
        ∧ (∀ u : Nat, isCaptain s = true → s.cv.barStart = some u → Does (.barrierReceive false t0) s
            { s.at_ t0 with cv := { s.cv with barStart := none } }
            [(F.CV_OPS.BAR_BUSY, 0), (F.CV_OPS.BAR_DONE, 1), (F.CV_OPS.BAR_TIME, min ((max s.now t0 - u) / 80) 65535)] []))
    ∧ (let left := s.cv.gatherWait &&& ~~~ BitVec.ofNat 16 (2 ^ src.toNat)
       let far := decide (20 < (tt : Int) - s.cv.gatherLatch) || decide (20 < (s.cv.gatherLatch : Int) - tt)
       let u := { s with cv := { s.cv with
         gather := s.cv.gather ++ [(src.toNat, if valid then gatherSlot src.toNat true far tt words else absentSlot src.toNat)]
         gatherWait := left } }
       s.get F.CV_OPS.GATHER_BUSY = 1 → s.cv.gatherWait.getLsbD src.toNat = true →
        (left ≠ 0 → Does (.dataReceive src valid tt words) s u [] [])
        ∧ (left = 0 → Does (.dataReceive src valid tt words) s u [(F.CV_OPS.GATHER_BUSY, 0), (F.CV_OPS.GATHER_DONE, 1)] []))
    ∧ ((s.get F.CV_OPS.GATHER_BUSY = 0 ∨ s.cv.gatherWait.getLsbD src.toNat = false) →
        Does (.dataReceive src valid tt words) s s [] [])
    ∧ (s.whReq = [] → s.ip.running = true → s.ip.loLatch = [] → s.pd 8 = true →
      (isCaptain s = true → linkUp s .dn = true →
        (s.get F.CV_OPS.BAR_BUSY = 0 → Completes .barrier s fun t => t.axes = s.axes ∧ t.now = s.now ∧ t.get F.CV_OPS.BAR_BUSY = 1
            ∧ KeepsFields [F.CV_OPS.BAR_BUSY] s t ∧ t.cv.barStart = some s.now ∧ Sends .dn typBarrier .barrier s t)
        ∧ (s.get F.CV_OPS.GATHER_BUSY = 0 → Completes .gather s fun t => t.axes = s.axes ∧ t.now = s.now ∧ t.cv.gatherLatch = s.wh.latchT / nsT
            ∧ KeepsFields [F.CV_OPS.GATHER_BUSY, F.CV_OPS.GATHER_DONE] s t ∧ Sends .dn typBcast (.bcast (.gather (s.wh.latchT / nsT))) s t))
      ∧ ((∀ l : Link, (s.cvPort l).waiting = [] ∧ (linkUp s l = true → (s.cvPort l).replay.length < 31)) →
          (∀ v, levelNow s = some v → 2 ≤ v) → Completes (.stackReset 1 0x5A3C) s (DeepReset 7 2 (devId s) s)))

/-- With PD1 up and no Whistle left over: the earliest held schedule leaves at its time, and with the latch ready a
latch with source 3 is taken, without a drive on WHSL for DRV 0; within the hold-off it is counted as missed. A
filtered falling edge, enabled, outside the hold-off and a test takeover, latches with source 1, or is missed under
FREEZE; a rising edge, one in the hold-off or one with PIN_IN_EN 0 latches nothing; a level shorter than WH_FILT, and the
return from it, do nothing. The drive and the hold-off end
with their own fields alone. (R441, R449, R451, R452, R453, R454, R456.) -/
def Obligations.WhistlesLatchMissAndRelease : Prop :=  ∀ (p : Level) (s : State), s.whReq = [] → s.pd 1 = true →
    let filt := s.get F.WH_CFG.WH_FILT * 10 * nsT
    (∀ (u : Nat) (us : List Nat), s.cv.sched = u :: us →
      let v := us.foldl min u
      let x := max s.now (v * nsT)
      (LatchReady s x → s.get F.WH_DRIVE.DRV = 0 → Completes .scheduledWhistle s fun t =>
        Latched 3 0 x s t ∧ t.cv.sched = s.cv.sched.filter (· ≠ v) ∧ t.wh.driveEnd = s.wh.driveEnd)
      ∧ (deepHeld s = false → s.mode ≠ 0 → s.lk.apply = none → (∃ e, s.wh.holdEnd = some e ∧ x < e) → Completes .scheduledWhistle s fun t =>
          Missed s t ∧ t.now = x ∧ t.cv.sched = s.cv.sched.filter (· ≠ v)))
    ∧ (s.cv.sched = [] → Does .scheduledWhistle s s [] [])
    ∧ (∀ rising : Bool, pinsHeld s = false → (p.len < filt ∨ s.wh.pinHigh = rising) → Does (.whslEdge rising p) s (s.at_ p.t) [] [])
    ∧ (let x := max s.now p.t
       pinsHeld s = false → filt ≤ p.len →
        (s.wh.pinHigh = true → s.get F.WH_CFG.PIN_IN_EN = 1 → LatchReady s x → Completes (.whslEdge false p) s fun t =>
          Latched 1 0 x s t ∧ t.wh.pinHigh = false ∧ t.wh.driveEnd = s.wh.driveEnd ∧ t.cv.sched = s.cv.sched)
        ∧ (s.wh.pinHigh = true → s.get F.WH_CFG.PIN_IN_EN = 1 → deepHeld s = false → s.mode ≠ 0 → s.lk.apply = none → s.get F.WH_CFG.FREEZE = 1 →
            (∀ e, s.wh.holdEnd = some e → e ≤ x) → Completes (.whslEdge false p) s fun t => Missed s t ∧ t.now = x ∧ t.wh.pinHigh = false)
        ∧ (s.wh.pinHigh = true → (s.get F.WH_CFG.PIN_IN_EN = 0 ∨ ∃ e, s.wh.holdEnd = some e ∧ x < e) → Does (.whslEdge false p) s
            { s.at_ p.t with wh := { s.wh with pinHigh := false } } [] [])
        ∧ (s.wh.pinHigh = false → Does (.whslEdge true p) s { s.at_ p.t with wh := { s.wh with pinHigh := true } } [] []))
    ∧ (∀ rising : Bool, pinsHeld s = true → Does (.whslEdge rising p) s s [] [])
    ∧ (∀ e : Nat, s.wh.driveEnd = some e → Does .whistleDriveEnd s
        { s.at_ e with wh := { s.wh with driveEnd := none, pinHigh := true } } [(F.WH_STAT.DRIVING, 0)] [])
    ∧ (∀ e : Nat, s.wh.holdEnd = some e → Does .whistleHoldoffEnd s { s.at_ e with wh := { s.wh with holdEnd := none } } [] [])

/-- With no Whistle left over: an nRST pulse below 1 µs, or while the pin is held, does nothing, one of 3 µs or more
is an L2 with cause 3, one in between is one or the other; a tamper event outside SLEEP is an L2 with cause 6; a wake
edge in SLEEP is an L2 with cause 8; the loss of PD0 is an L1 with cause 1; the loss of PD1, or of VCORE or VIOH with
PD1 up, is an L2 with cause 2; the watchdog is an L3 with cause 4 while the interpreter runs. (R305, R442, R493, R519,
R525, R526, R527, R529, R531, R559.) -/
def Obligations.ResetTriggersAndTheirCauses : Prop :=  ∀ (w t0 : Nat) (d : Fin 4) (whsl : Bool) (s : State), s.whReq = [] →
    let deep := ∀ v, levelNow s = some v → 2 ≤ v
    let held := s.rst.boot = .stretch ∨ s.rst.boot = .held
    (¬ held →
      (w < 1000 → Does (.nrstPulse w) s s [] [])
      ∧ (3000 ≤ w → deep → Completes (.nrstPulse w) s fun t => DeepReset 3 2 0 s t)
      ∧ (1000 ≤ w → w < 3000 → deep → Completes (.nrstPulse w) s fun t =>
          DeepReset 3 2 0 s t ∨ (BesideRegs { s with freeCtr := s.freeCtr + 1 } t ∧ t.regs = s.regs)))
    ∧ (held → Does (.nrstPulse w) s s [] [])
    ∧ (s.mode ≠ 0 → deep → Completes (.tamper d) s fun t => DeepReset 6 2 d.val s t)
    ∧ (s.mode = 0 → Does (.tamper d) s s [] [])
    ∧ (let works := if whsl then s.get F.PD_WAKE.WAKE_WHSL = 1 else s.pw.supplies.getLsbD 2 = true
       pinsHeld s = false →
        (s.mode = 0 → works → deep → Completes (.wake whsl) s fun t =>
          DeepReset 8 2 (if whsl then 2 else 1) s t ∧ t.get F.PD_WAKE.LAST_WAKE = (if whsl then 2 else 1))
        ∧ ((s.mode ≠ 0 ∨ ¬ works) → Does (.wake whsl) s s [] []))
    ∧ (s.pd 0 = true → (∀ v, levelNow s = some v → 1 ≤ v) →
        (Completes (.domainLoss 0 t0) s fun t => DeepReset 1 1 0 s t)
        ∧ Completes (.supplyLost 0) s fun t => DeepReset 1 1 0 s t ∧ t.pw.supplies.getLsbD 0 = false)
    ∧ (s.pd 1 = true → deep →
        (Completes (.domainLoss 1 t0) s fun t => DeepReset 2 2 1 s t)
        ∧ (Completes (.supplyLost 1) s fun t => DeepReset 2 2 1 s t ∧ t.pw.supplies.getLsbD 1 = false)
        ∧ Completes (.supplyLost 2) s fun t => DeepReset 2 2 1 s t ∧ t.pw.supplies.getLsbD 2 = false)
    ∧ (s.ip.running = true → levelNow s = none → Completes .watchdogExpire s fun t => InterpreterReset 4 0 s t)
    ∧ (s.ip.running = false → Does .watchdogExpire s s [] [])

/-- With no Whistle left over: the stretch ends into start-up, at L3 into a restart, or holds while the pin is low; a
good supply is noted, VGS ends its under voltage; a domain that may rise comes up alone, PD1 starts LTIME at zero, a
quad starts unsettled with its axes where they were and the rest untouched, and one that may not rise changes nothing;
the restart runs the interpreter from the number after the last retired one, with RESTART_VALID and L3_CNT. (R26, R27,
R93, R233, R466, R469, R515, R516, R528, R537, R539, R559.) -/
def Obligations.SuppliesDomainsAndRestart : Prop :=  ∀ (pin : Bool) (t0 : Nat) (s : State), s.whReq = [] →
    let after : RstSt := if s.rst.level = 3 then { s.rst with boot := .done, restart := true } else { s.rst with boot := .power }
    (s.rst.boot = .stretch → Does (.resetStretchEnd pin) s { s with rst := if pin then after else { s.rst with boot := .held } } [] [])
    ∧ (s.rst.boot ≠ .stretch → Does (.resetStretchEnd pin) s s [] [])
    ∧ (s.rst.boot = .held → Does .nrstRelease s { s with rst := after } [] [])
    ∧ (s.rst.boot ≠ .held → Does .nrstRelease s s [] [])
    ∧ (∀ i : Fin 6, i ≠ 5 → Does (.supplyGood i) s { s with pw := { s.pw with supplies := s.pw.supplies ||| BitVec.ofNat 6 (2 ^ i.val) } } [] [])
    ∧ (Completes (.supplyGood 5) s fun t => t.pw = { s.pw with supplies := s.pw.supplies ||| 32, vgsUv := false }
        ∧ BesideAxes { s with pw := t.pw } t ∧ KeepsBlocks allAxes plannerFields s t ∧ ∀ a : Axis, MotionKept a s t)
    ∧ (∀ n : Fin 10, mayRise s n.val = false → Does (.domainUp n t0) s s [] [])
    ∧ (∀ n : Fin 10, mayRise s n.val = true →
        let on : PowerSt := { s.pw with on := s.pw.on ||| BitVec.ofNat 10 (2 ^ n.val) }
        (n = 1 → Does (.domainUp n t0) s { s with now := 0, tb := TimeSt.reset, pw := on } [] [])
        ∧ ((n = 2 ∨ n = 8 ∨ n = 9 ∨ (n = 7 ∧ s.rst.boot ≠ .done)) → Does (.domainUp n t0) s { s.at_ t0 with pw := on } [] [])
        ∧ (n = 7 → s.rst.boot = .done → Completes (.domainUp n t0) s fun t =>
            t.pw = on ∧ t.now = max s.now t0 ∧ t.axes = s.axes ∧ t.ip = s.ip ∧ t.lk.cells = s.lk.cells
              ∧ KeepsFields [F.LK_PART_REC.all, F.LK_PART_CAM.all, F.LK_PART_TRC.all] s t)
        ∧ (∀ q : Quad, n.val = 3 + q.val → s.get F.TRIP_STAT.LEVEL = 0 → Completes (.domainUp n t0) s fun t =>
            t.pw = on ∧ t.now = max s.now t0 ∧ t.ip = s.ip ∧ t.lk.cells = s.lk.cells ∧ t.get (F.QD_GD_STAT.VM_UNSETTLED q) = 1
              ∧ (∀ a : Axis, a ∉ quadAxes q → t.ax a = s.ax a)
              ∧ ∀ a ∈ quadAxes q, (t.mot a).pos = (s.mot a).pos ∧ (t.mot a).stillAt = some (max s.now t0)))
    ∧ (let last := s.get F.LAST_COMMITTED_SEQ.SEQ
       let nxt := if s.get F.LAST_COMMITTED_SEQ.SEQ_VALID = 0 then 1 else if last = 0xFFFF then 1 else last + 1
       s.rst.restart = true → s.pd 2 = true → Completes .interpreterRestart s fun t =>
        t.ip = { s.ip with running := true, nextSeq := BitVec.ofNat 16 nxt } ∧ t.rst = { s.rst with restart := false }
          ∧ t.get F.CMD_STAT.RESTART_SEQ = nxt ∧ t.get F.CMD_STAT.RESTART_VALID = 1
          ∧ t.get F.CMD_STAT.L3_CNT = counted s F.CMD_STAT.L3_CNT ∧ KeepsFields [F.CMD_STAT.all] s t
          ∧ t.pw = s.pw ∧ t.lk.cells = s.lk.cells
          ∧ ∀ a : Axis, (t.mot a).pos = (s.mot a).pos ∧ (t.mot a).vel = (s.mot a).vel ∧ (t.mot a).queue = (s.mot a).queue
              ∧ t.gd a = s.gd a ∧ t.pwm a = s.pwm a)
    ∧ ((s.rst.restart = false ∨ s.pd 2 = false) → Does .interpreterRestart s s [] [])

/-- With no Whistle left over: in start-up with PD1 and PD7 up the options come from the primary image, else from the
mirror with OPT_MIRROR, and with neither OPT_BAD and BK_BAD set; unreadable keys are lost. A failed ROM or RAM test
halts BOOT, another failure sets SELF_FAIL. An armed patch that verifies at a sufficient version is applied and moves
the fuses, another sets PATCH_BAD with an audit entry. BOOT ends once, with the interpreter running, in READY or
CONFIG. Out of turn nothing changes. (R428, R471, R485, R494, R495, R504, R533, R534, R535, R537, R538, R545.) -/
def Obligations.BootLoadsChecksAndEnds : Prop :=  ∀ (ok rom ram kat trng : Bool) (bad : BitVec 16) (recs : List Nat) (slot : Fin 4) (t0 e : Nat) (s : State), s.whReq = [] →
    let prim := (readImage 0x1F8000 s).1
    let mirr := (readImage 0x1F8002 s).1
    let frame := fun t : State => t.pw = s.pw ∧ t.now = s.now ∧ t.lk.cells = s.lk.cells ∧ t.ip = s.ip ∧ t.sec.life = s.sec.life
    (s.rst.boot = .power → s.pd 1 = true → s.pd 7 = true → Completes (.optionLoad ok bad recs) s fun t =>
      frame t ∧ t.rst = { s.rst with boot := .loaded }
        ∧ (∀ w, prim.or mirr = some w →
            ∀ p ∈ [(F.BOOT_STAT.OPT_BAD, 0), (F.BOOT_STAT.OPT_MIRROR, if prim.isSome then 0 else 1),
              (F.HP_CFG.ROLE, getBits (w.getD 1 0) 0 0), (F.AUX_CFG.ROLE, getBits (w.getD 1 0) 1 1),
              (F.CV_CFG.STACK_ROLE, getBits (w.getD 1 0) 3 2), (F.TB_CTRL.REFIN_EN, getBits (w.getD 1 0) 4 4),
              (F.TB_CTRL.DEGRADED_HALT, getBits (w.getD 1 0) 5 5), (F.CV_CFG.RST_PROPAGATE, getBits (w.getD 1 0) 6 6),
              (F.MODE_CFG.BOOT_READY, getBits (w.getD 1 0) 7 7), (F.CV_CFG.LOSS_TMO, getBits (w.getD 1 0) 14 8),
              (F.SEC_CFG.C1_OPEN_HP, getBits (w.getD 1 0) 15 15), (F.SEC_CFG.SESS_TMO, getBits (w.getD 1 0) 23 16),
              (F.SEC_CFG.MAC_FAIL_MAX, getBits (w.getD 1 0) 28 24), (F.SEC_CFG.AUTH_FAIL_MAX, getBits (w.getD 2 0) 3 0),
              (F.BK_STO_CFG.STO_FILT, getBits (w.getD 2 0) 14 8), (F.BK_STO_CFG.STO_DISC_T, getBits (w.getD 2 0) 22 16),
              (F.BK_DEV_STAT.BK_VERSION, getBits (w.getD 4 0) 31 16)], t.get p.1 = p.2)
        ∧ (prim.or mirr = none → t.get F.BOOT_STAT.OPT_BAD = 1 ∧ t.get F.BOOT_STAT.OPT_MIRROR = 0 ∧ t.get F.BK_DEV_STAT.BK_BAD = 1)
        ∧ (ok = false → t.get F.BK_DEV_STAT.BK_BAD = 1)
        ∧ ∀ n : Fin 16, t.sec.keys[n] = if bad.getLsbD n.val = true ∧ n ≠ 0 then none else s.sec.keys[n])
    ∧ ((s.rst.boot ≠ .power ∨ s.pd 1 = false ∨ s.pd 7 = false) → Does (.optionLoad ok bad recs) s s [] [])
    ∧ (s.rst.boot = .loaded →
        ((rom && ram) = false → Does (.selfCheckDone rom ram kat trng) s { s with rst := { s.rst with boot := .halted } } [] [])
        ∧ ((rom && ram) = true → Completes (.selfCheckDone rom ram kat trng) s fun t => frame t
            ∧ t.rst = { s.rst with boot := .checked, toVerify := (List.finRange 4).filter fun p => (s.sec.patches[p]).armed.isSome }
            ∧ t.get F.BOOT_STAT.SELF_FAIL = (if kat && trng then 0 else 1) ∧ KeepsFields [F.BOOT_STAT.SELF_FAIL] s t ∧ t.axes = s.axes))
    ∧ (s.rst.boot ≠ .loaded → Does (.selfCheckDone rom ram kat trng) s s [] [])
    ∧ (s.rst.boot = .checked → slot ∈ s.rst.toVerify →
        let rst : RstSt := { s.rst with toVerify := s.rst.toVerify.filter (· ≠ slot) }
        let v := match s.sec.patches[slot].armed with | some v => v.toNat | none => 0
        let good := ok = true ∧ s.get F.BOOT_STAT.SELF_FAIL = 0 ∧ s.sec.svn ≤ v
        (good → Does (.patchVerify slot ok) s
          { s with
            rst := rst
            sec := { s.sec with patches := s.sec.patches.set slot { s.sec.patches[slot] with applied := true }, svn := v } }
          [(F.SEC_PATCH.PATCH_ACT, s.get F.SEC_PATCH.PATCH_ACT ||| 2 ^ slot.val)] [])
        ∧ (¬ good → Completes (.patchVerify slot ok) s fun t => frame t ∧ t.rst = rst ∧ t.get F.SEC_STAT.PATCH_BAD = 1
            ∧ KeepsFields [F.SEC_STAT.PATCH_BAD, F.SEC_AUDIT_CNT.AUDIT_LOST] s t ∧ Audited 9 2 s t
            ∧ t.sec.patches = s.sec.patches ∧ t.sec.svn = s.sec.svn ∧ t.axes = s.axes))
    ∧ ((s.rst.boot ≠ .checked ∨ slot ∉ s.rst.toVerify) → Does (.patchVerify slot ok) s s [] [])
    ∧ (s.rst.boot = .checked → s.rst.toVerify = [] → s.pd 2 = true → Completes (.bootEnd t0 e) s fun t =>
        t.now = max s.now t0 ∧ t.rst = { s.rst with boot := .done } ∧ t.ip.running = true ∧ t.ip.cmdq = s.ip.cmdq ∧ t.pw = s.pw
          ∧ t.tap.sensed = some s.sec.life ∧ t.sec.life = s.sec.life ∧ t.get F.BOOT_STAT.BOOT_TIME = min e 65535
          ∧ t.mode = (if s.get F.MODE_CFG.BOOT_READY = 1 ∧ s.get F.BK_DEV_STAT.BK_BAD = 0 ∧ s.get F.BOOT_STAT.OPT_BAD = 0
              ∧ s.get F.BOOT_STAT.SELF_FAIL = 0 ∧ s.sec.life ≠ 3 then 4 else 2)
          ∧ t.get F.MODE_STAT.PREV_MODE = 1 ∧ t.get F.MODE_STAT.LAST_TRIG = 2 ∧ t.get F.MODE_STAT.MODE_EVT = 1
          ∧ t.get F.TB_STATUS.SRC = (if refUsable s then 1 else s.get F.TB_STATUS.SRC) ∧ (s.sec.life = 0 → t.sec.ident.isSome = true))
    ∧ ((s.rst.boot ≠ .checked ∨ s.rst.toVerify ≠ [] ∨ s.pd 2 = false) → Does (.bootEnd t0 e) s s [] [])

/-- With no Whistle left over: a lost domain that is up is named in PD_LOSS and goes down; PD2 stops the interpreter
with its queues; a quad loses its axis engines and registers and names its axes in POS_UNKNOWN, other axes keep
theirs and its charge pump its state; PD7 loses the arbiter and the armed recipe but no stored line; PD8 takes the links down; PD9 takes every quad
and its charge pump. A lost VLK or VLNK loses PD7 or PD8, a lost VGS faults energised axes. A block reset ends with BLK_DONE, or as hung
with BLK_HUNG. PD_CTRL takes down the quads and links it names off. (R230, R355, R405, R466, R516, R517, R540, R541, R559.) -/
def Obligations.DomainLossesAndBlockResets : Prop :=  ∀ (n : Fin 10) (q : Quad) (t0 : Nat) (s : State), s.whReq = [] →
    let loss := fun (k : Nat) (t : State) => natBit (t.get F.PD_STAT.PD_LOSS) k = true ∧ t.pd k = false
    let locker := fun t : State => loss 7 t ∧ t.lk.cells = s.lk.cells ∧ t.lk.gen = s.lk.gen ∧ t.lk.banks = Vector.replicate 8 BankSt.reset
      ∧ t.lk.arm = none ∧ t.lk.shadow = none ∧ t.lk.apply = none ∧ t.axes = s.axes
      ∧ ∀ k, k ≠ 7 → k < 10 → t.pd k = s.pd k
    let links := fun t : State => loss 8 t ∧ t.axes = s.axes ∧ t.lk.cells = s.lk.cells ∧ (∀ k, k ≠ 8 → k < 10 → t.pd k = s.pd k)
      ∧ ∀ l : Link, linkUp s l = true → t.get (linkFld l F.CV_UP_STAT.LINK_UP F.CV_DN_STAT.LINK_UP) = 0
          ∧ t.get (linkFld l F.CV_UP_STAT.LINK_DROP F.CV_DN_STAT.LINK_DROP) = 1
    (s.pd n.val = false → Does (.domainLoss n t0) s s [] [])
    ∧ (s.pd 2 = true → Completes (.domainLoss 2 t0) s fun t => loss 2 t ∧ t.now = max s.now t0 ∧ t.ip.running = false ∧ t.ip.cmdq = []
        ∧ t.ip.ledger = [] ∧ t.ip.tickets = [] ∧ t.rst = { s.rst with restart := s.rst.boot == .done } ∧ t.lk.cells = s.lk.cells
        ∧ (∀ k, k ≠ 2 → k < 10 → t.pd k = s.pd k)
        ∧ ∀ a : Axis, (t.mot a).window = [] ∧ (t.mot a).pos = (s.mot a).pos ∧ (t.mot a).vel = (s.mot a).vel ∧ t.gd a = s.gd a
            ∧ t.pwm a = s.pwm a ∧ (t.mot a).queue.length = (s.mot a).queue.length)
    ∧ (n.val = 3 + q.val → s.pd n.val = true → (∀ c : Fin 4, fedBy s q c = false) → Completes (.domainLoss n t0) s fun t =>
        loss n.val t ∧ t.now = max s.now t0 ∧ (∀ k, k ≠ n.val → k < 10 → t.pd k = s.pd k) ∧ t.lk.cells = s.lk.cells
          ∧ t.ip.running = s.ip.running ∧ (∀ c ∈ t.ip.cmdq, quadCmd q c = false) ∧ natBit (t.get F.WH_LOST.QLOSS_EVT) q.val = true
          ∧ t.get (F.QD_GD_STAT.CP_OK q) = s.get (F.QD_GD_STAT.CP_OK q)
          ∧ (∀ a ∈ quadAxes q, t.ax a = (s.ax a).fresh ∧ natBit (t.get F.WH_LOST.POS_UNKNOWN) a.val = true ∧ t.axState a = 0)
          ∧ ∀ a : Axis, a ∉ quadAxes q → t.ax a = s.ax a ∧ t.axState a = s.axState a
              ∧ natBit (t.get F.WH_LOST.POS_UNKNOWN) a.val = natBit (s.get F.WH_LOST.POS_UNKNOWN) a.val)
    ∧ (s.pd 7 = true → Completes (.domainLoss 7 t0) s fun t => locker t ∧ t.now = max s.now t0)
    ∧ (s.pd 8 = true → Completes (.domainLoss 8 t0) s fun t => links t ∧ t.now = max s.now t0)
    ∧ (s.pd 9 = true → Completes (.domainLoss 9 t0) s fun t => t.now = max s.now t0 ∧ loss 9 t
        ∧ (∀ p : Quad, t.pd (3 + p.val) = false ∧ t.get (F.QD_GD_STAT.CP_OK p) = 0 ∧ (s.pd (3 + p.val) = true → natBit (t.get F.PD_STAT.PD_LOSS) (3 + p.val) = true))
        ∧ t.lk.cells = s.lk.cells)
    ∧ (s.pd 7 = true → Completes (.supplyLost 3) s fun t => locker t ∧ t.pw.supplies.getLsbD 3 = false)
    ∧ (s.pd 8 = true → Completes (.supplyLost 4) s fun t => links t ∧ t.pw.supplies.getLsbD 4 = false)
    ∧ (s.get F.WH_AX_SEL.FLT = 0 → s.pw.vgsUv = false → Completes (.supplyLost 5) s fun t => t.pw.vgsUv = true
        ∧ t.pw.supplies.getLsbD 5 = false ∧ t.pw.on = s.pw.on ∧ KeepsBlocks allAxes plannerFields s t
        ∧ ∀ a : Axis, s.axOn a = true → s.get (F.AX_STATE.ENERGISED a) = 1 → t.get (F.AX_GD_FLT.VGS_UV a) = 1 ∧ InFault a s t)
    ∧ (s.rst.block = none → Does .blockResetDone s s [] [] ∧ Does .blockResetHung s s [] [])
    ∧ (∀ b : BitVec 4, s.rst.block = some b → 2 ≤ b.toNat → b.toNat ≤ 8 →
        let bit := 2 ^ (b.toNat - 2)
        Does .blockResetHung s { s with rst := { s.rst with block := none } }
          [(F.BLK_RST_STAT.BLK_BUSY, 0), (F.BLK_RST_STAT.BLK_HUNG, s.get F.BLK_RST_STAT.BLK_HUNG ||| bit)] []
        ∧ ((6 ≤ b.toNat ∨ s.pd (b.toNat + 1) = false) → Does .blockResetDone s { s with rst := { s.rst with block := none } }
          [(F.BLK_RST_STAT.BLK_BUSY, 0), (F.BLK_RST_STAT.BLK_DONE, s.get F.BLK_RST_STAT.BLK_DONE ||| bit)] [])
        ∧ (b.toNat = 2 + q.val → s.pd (3 + q.val) = true → s.get F.TRIP_STAT.LEVEL = 0 → Completes .blockResetDone s fun t =>
            t.rst = { s.rst with block := none } ∧ t.get F.BLK_RST_STAT.BLK_BUSY = 0
              ∧ t.get F.BLK_RST_STAT.BLK_DONE = (s.get F.BLK_RST_STAT.BLK_DONE ||| bit) ∧ t.get (F.QD_GD_STAT.VM_UNSETTLED q) = 1
              ∧ t.ip = s.ip ∧ t.pw = s.pw ∧ ∀ a : Axis, a ∉ quadAxes q → t.ax a = s.ax a))
    ∧ (∀ (quads : BitVec 4) (lnk : Bool), s.ip.running = true → s.ip.loLatch = [] → s.pd 1 = true → (s.mode = 2 ∨ s.mode = 3) → s.ip.unlocked = true →
      Completes (.pdCtrlWrite quads lnk) s fun t => t.get F.PD_CTRL.QUAD_ON = quads.toNat ∧ t.get F.PD_CTRL.LNK_ON = (if lnk then 1 else 0)
        ∧ t.ip.wrStatus = 0 ∧ t.now = s.now ∧ t.lk.cells = s.lk.cells ∧ (∀ q : Quad, t.pd (3 + q.val) = (s.pd (3 + q.val) && quads.getLsbD q.val))
        ∧ t.pd 9 = (s.pd 9 && quads != 0) ∧ t.pd 8 = (s.pd 8 && lnk) ∧ t.pd 1 = true ∧ t.pd 2 = s.pd 2 ∧ t.pd 7 = s.pd 7)

/-- With no Whistle left over: a timed-out session of a port closes with an audit entry, the other port keeps its own;
a lockout ends at its instant; a failed TRNG test sets TRNG_FAIL with an audit entry and a recovery clears it, each
only with PD1 up; a store whose writes have ended, or failed, clears STORE_BUSY and sets STORE_DONE with an audit entry: a good
one takes the table, the next version and the new option words, a failed one sets STORE_FAIL and changes no option word; before
that, and with another result than its writes had, nothing changes. STORE in CONFIG begins the writes of the table.
(R471, R472, R487, R490, R492, R493, R494, R536.) -/
def Obligations.SecurityTimersTrngAndTheStoredTable : Prop :=  ∀ (p : Port) (s : State), s.whReq = [] →
    let audited := fun (l : List Fld) (code : Nat) (port : Nat) (t : State) => Audited code port s t
      ∧ KeepsFields (F.SEC_AUDIT_CNT.AUDIT_LOST :: l) s t ∧ t.axes = s.axes ∧ t.ip = s.ip ∧ t.sec.life = s.sec.life
      ∧ t.sec.keys = s.sec.keys
    (∀ x : Session, (s.sessPort p).sess = some x → Completes (.sessionTimeout p) s fun t =>
      audited [] 3 (portNo p) t ∧ t.now = max s.now (x.lastAt + s.get F.SEC_CFG.SESS_TMO * 10000 * msT) ∧ t.lk.cells = s.lk.cells ∧ (t.sessPort p) = { s.sessPort p with sess := none }
        ∧ ∀ o : Port, o ≠ p → t.sessPort o = s.sessPort o)
    ∧ ((s.sessPort p).sess = none → Does (.sessionTimeout p) s s [] [])
    ∧ (∀ e : Nat, (s.sessPort p).lockEnd = some e →
        Does (.lockoutEnd p) s ((s.at_ e).modSess p fun q => { q with lockEnd := none }) [] [])
    ∧ ((s.sessPort p).lockEnd = none → Does (.lockoutEnd p) s s [] [])
    ∧ (s.pd 1 = true →
        (Completes .trngTestFail s fun t => audited [F.SEC_STAT.TRNG_FAIL] 16 2 t ∧ t.now = s.now ∧ t.get F.SEC_STAT.TRNG_FAIL = 1
          ∧ t.lk.cells = s.lk.cells ∧ t.sec.hp = s.sec.hp ∧ t.sec.aux = s.sec.aux)
        ∧ Does .trngRecover s s [(F.SEC_STAT.TRNG_FAIL, 0)] [])
    ∧ (s.pd 1 = false → Does .trngTestFail s s [] [] ∧ Does .trngRecover s s [] [])
    ∧ (storeOver s = true → s.bk.failed = false → Completes (.bkStoreDone true) s fun t =>
          audited (F.BK_DEV_STAT.STORE_BUSY :: F.BK_DEV_STAT.STORE_DONE :: F.BK_DEV_STAT.BK_VERSION :: F.BK_DEV_STAT.BK_BAD
              :: (List.range 16).map fun i => (⟨0x640 + 4 * i, 31, 0⟩ : Fld)) 11 2 t
            ∧ t.now = s.now ∧ t.bk = { s.bk with storing := false, imaging := false } ∧ t.get F.BK_DEV_STAT.STORE_BUSY = 0
            ∧ t.get F.BK_DEV_STAT.STORE_DONE = 1 ∧ t.get F.BK_DEV_STAT.BK_VERSION = (s.get F.BK_DEV_STAT.BK_VERSION + 1) % 65536 ∧ t.get F.BK_DEV_STAT.BK_BAD = 0
            ∧ t.sec.bkTable = s.bk.table ∧ t.lk.cells = s.lk.cells
            ∧ ∀ i < 16, rfGet t.regs (0x640 + 4 * i) = (sealImage (storedImage s)).getD i 0)
    ∧ (storeOver s = true → s.bk.failed = true → Completes (.bkStoreDone false) s fun t =>
          audited [F.BK_DEV_STAT.STORE_BUSY, F.BK_DEV_STAT.STORE_DONE, F.BK_DEV_STAT.STORE_FAIL] 11 2 t
            ∧ t.now = s.now ∧ t.bk = { s.bk with storing := false, imaging := false } ∧ t.get F.BK_DEV_STAT.STORE_BUSY = 0
            ∧ t.get F.BK_DEV_STAT.STORE_DONE = 1 ∧ t.get F.BK_DEV_STAT.STORE_FAIL = 1 ∧ t.sec.bkTable = s.sec.bkTable ∧ t.lk.cells = s.lk.cells)
    ∧ (∀ ok : Bool, (storeOver s = false ∨ ok = s.bk.failed) → Does (.bkStoreDone ok) s s [] [])
    ∧ (s.ip.running = true → s.ip.loLatch = [] → s.pd 1 = true → s.mode = 2 → s.get F.BK_DEV_STAT.STORE_BUSY = 0 → s.pw.sleepPend = none →
      Completes .bkStore s fun t => KeepsFields [F.BK_DEV_STAT.STORE_BUSY] s t ∧ t.get F.BK_DEV_STAT.STORE_BUSY = 1 ∧ t.axes = s.axes ∧ t.now = s.now
        ∧ t.ip.wrStatus = 0 ∧ t.bk.storing = true ∧ t.bk.table = bkWords s ∧ t.lk.cells = s.lk.cells
        ∧ ∃ j ∈ t.lk.jobs, j.who = lkSecurity ∧ j.why = .store ∧ j.line = bkTableLine ∧ j.bytes = some (wordsBytesLE (bkWords s)))

/-- With no Whistle left over: a REFIN gap fails the reference, and as the source it is a counted loss to the internal
oscillator, with DEGRADED_HALT in RUN a transition to HALT; a calibration instant records each delay line it measured, sets
CAL_FAIL for the failed and may take the reference; a transition ends in its mode with the previous mode and trigger;
entry to SAFE stops every axis and empties the queues; an accepted SLEEP ends with PD0 alone up and its registers
kept, or wakes at once. A write of REFIN_EN that does not leave the reference takes its value. (R28, R29, R31, R32, R33, R498, R504, R506, R507, R518, R519, R520.) -/
def Obligations.TimeSourceModeChangesAndSleep : Prop :=  ∀ (t0 : Nat) (ok whsl : Bool) (fails : BitVec 144) (s : State), s.whReq = [] →
    let x := max s.now t0
    let gap : State := { s.at_ t0 with tb := { s.tb with refGood := false, testFrom := x } }
    let lost := [(F.TB_STATUS.REF_LOST, 1), (F.TB_STATUS.LOSS_COUNT, counted s F.TB_STATUS.LOSS_COUNT), (F.TB_STATUS.SRC, 0),
      (F.TB_STATUS.TIMEBASE_DEGRADED, 1)]
    (s.pd 1 = true →
      (s.get F.TB_STATUS.SRC ≠ 1 → Does (.refinEdgeTimeout t0) s gap [] [])
      ∧ (s.get F.TB_STATUS.SRC = 1 → (s.get F.TB_CTRL.DEGRADED_HALT = 0 ∨ s.mode ≠ 5) → s.pw.transit = none →
          Does (.refinEdgeTimeout t0) s gap lost [])
      ∧ (s.get F.TB_STATUS.SRC = 1 → s.get F.TB_CTRL.DEGRADED_HALT = 1 → s.mode = 5 → s.pw.transit = none →
          Does (.refinEdgeTimeout t0) s { gap with pw := { s.pw with transit := some (6, 3) } } ((F.MODE_STAT.TRANSIT, 1) :: lost) [])
      ∧ (let n := nextCal s
         let cal : Vector CalChan 72 := Vector.ofFn fun i : Fin 72 =>
           let c := s.tb.cal[i]
           { c with good := (if fails.getLsbD (2 * i.val) then c.good.1 else n, if fails.getLsbD (2 * i.val + 1) then c.good.2 else n) }
         let u : State := { s.at_ (n * 800000) with tb := { s.tb with calNo := n, cal := cal } }
         let mark := (F.TB_STATUS.CAL_FAIL, if fails = 0 then s.get F.TB_STATUS.CAL_FAIL else 1)
         let takes := refUsable s = true ∧ s.get F.TB_STATUS.SRC = 0 ∧ s.mode ≠ 1
         (takes → Does (.calibrationInstant true fails) s u [mark, (F.TB_STATUS.SRC, 1), (F.TB_STATUS.TIMEBASE_DEGRADED, 0)] [])
         ∧ (¬ takes → Does (.calibrationInstant true fails) s u [mark] [])
         ∧ (s.get F.TB_STATUS.SRC ≠ 1 → Does (.calibrationInstant false fails) s
              { u with tb := { u.tb with refGood := false, testFrom := u.now } } [mark] [])
         ∧ (s.get F.TB_STATUS.SRC = 1 → (s.get F.TB_CTRL.DEGRADED_HALT = 0 ∨ s.mode ≠ 5) → s.pw.transit = none →
              Does (.calibrationInstant false fails) s { u with tb := { u.tb with refGood := false, testFrom := u.now } } (mark :: lost) []))
      ∧ (s.tb.testFrom + msT ≤ t0 → Does (.referenceGood t0) s { s.at_ t0 with tb := { s.tb with refGood := true } } [] []))
    ∧ (s.pd 1 = false → Does (.refinEdgeTimeout t0) s (s.at_ t0) [] [] ∧ Does (.calibrationInstant ok fails) s s [] [])
    ∧ ((s.pd 1 = false ∨ t0 < s.tb.testFrom + msT) → Does (.referenceGood t0) s s [] [])
    ∧ (∀ (m : BitVec 3) (trig : Nat), s.pw.transit = some (m, trig) → s.pw.autoNext = none → trig < 16 →
        Completes (.modeTransitDone t0) s fun t => t.now = x ∧ t.pw = { s.pw with transit := none } ∧ t.mode = m.toNat
          ∧ t.get F.MODE_STAT.PREV_MODE = s.mode ∧ t.get F.MODE_STAT.LAST_TRIG = trig ∧ t.lk.cells = s.lk.cells
          ∧ t.get F.MODE_STAT.TRANSIT = (if s.pw.sleepPend.isSome then 1 else 0)
          ∧ t.get F.MODE_STAT.MODE_EVT = (if trig = 1 then s.get F.MODE_STAT.MODE_EVT else 1)
          ∧ (s.mode = 2 → ∀ a : Axis, t.get (F.BK_STAT.WIN_BAD a) =
              if s.get (F.BK_CFG.TRAVEL_EN a) = 1 ∧ travelMax s a ≤ travelMin s a then 1 else 0)
          ∧ (m ≠ 6 → m ≠ 7 → t.ip = s.ip ∧ ∀ a : Axis, MotionKept a s t)
          ∧ (m = 7 → t.ip.cmdq = [] ∧ t.lk.arm = none ∧ t.lk.apply = none ∧ ∀ a : Axis, s.axOn a = true →
              t.get (F.AX_STATE.SAFE_HELD a) = 1 ∧ (s.axState a ≠ 6 → t.axState a = 0 ∧ (t.mot a).queue = [] ∧ (t.mot a).vel = 0
                ∧ (t.mot a).pos = (s.mot a).pos ∧ fstate t a = 0)))
    ∧ (s.pw.transit = none → Does (.modeTransitDone t0) s (s.at_ t0) [] [])
    ∧ (s.pw.sleepPend.isSome = true → s.sec.auditBuf = [] →
        (Completes (.sleepEntry none) s fun t => t.mode = 0 ∧ t.pw.on = State.reset.pw.on ∧ t.ip = State.reset.ip ∧ t.rst.boot = .done
          ∧ t.axes = s.axes.map AxisSt.fresh ∧ t.sec.life = s.sec.life ∧ t.sec.keys = s.sec.keys ∧ t.sec.auditLog = s.sec.auditLog
          ∧ t.lk.cells = s.lk.cells ∧ ∀ g : Fld, g.addr ≠ F.MODE_STAT.MODE.addr →
              t.get g = if domainOf g.addr = 0 then s.get g else getBits (resetWord g.addr) g.hi g.lo)
        ∧ ((if whsl then s.get F.PD_WAKE.WAKE_WHSL = 1 else s.pw.supplies.getLsbD 2 = true) →
            Completes (.sleepEntry (some whsl)) s fun t => DeepReset 8 2 (if whsl then 2 else 1) s t))
    ∧ (s.pw.sleepPend = none → Does (.sleepEntry (some whsl)) s s [] [] ∧ Does (.sleepEntry none) s s [] [])
    ∧ (s.ip.running = true → s.ip.loLatch = [] → s.pd 1 = true → (ok = true ∨ s.get F.TB_STATUS.SRC ≠ 1) →
      Does (.refinEnWrite ok) s { s with ip := { s.ip with unlocked := false, wrStatus := 0 } } [(F.TB_CTRL.REFIN_EN, if ok then 1 else 0)] [])

/-- With no Whistle left over, no axis fault selected for one, and VDD33 good: an instruction becomes current with its
capture; a driving one with PD1 up begins a takeover: links that are up go down and every moving axis leaves motion
for OFF with EN_LOSS; GATETEST is taken in MANUFACTURE alone, else BYPASS; an unlisted or locked opcode is BYPASS;
Update-DR loads the cells of EXTEST and PRELOAD and under GATETEST the gates; a takeover ends with the enable inputs
at their levels; 5 V turns every gate off. (R569, R570, R571, R572, R573, R574, R575, R576, R577, R578, R579.) -/
def Obligations.TestAccessPortInstructions : Prop :=  ∀ (op : BitVec 8) (pins cells : BitVec 273) (ena : BitVec 16) (q : Quad) (t0 : Nat) (s : State),
    s.whReq = [] → s.get F.WH_AX_SEL.FLT = 0 → tapWorks s = true →
    let loaded := fun (i : TapInstr) (c : BitVec 273) => ({ s.tap with irCapture := irCapture s, instr := i, capture := c } : TapSt)
    let quiet := fun t : State => BesideAxes { s with tap := t.tap } t ∧ KeepsBlocks allAxes plannerFields s t ∧ ∀ a : Axis, MotionKept a s t
    let selects := fun (c : Instr) (x : TapSt) => (s.tap.takeover = false → Does c s { s with tap := x } [] [])
      ∧ (s.tap.takeover = true → Completes c s fun t => quiet t ∧ t.tap = x)
    let takes := fun (c : Instr) (x : TapSt) =>
      (s.pd 1 = false → Does c s { s with tap := x } [] [])
      ∧ (s.tap.takeover = true → s.pd 1 = true → Completes c s fun t => quiet t ∧ t.tap = x)
      ∧ (s.tap.takeover = false → s.pd 1 = true → Completes c s fun t => t.tap = { x with takeover := true } ∧ t.pw = s.pw
          ∧ t.now = s.now ∧ t.lk.cells = s.lk.cells
          ∧ (∀ l : Link, linkUp s l = true → t.get (linkFld l F.CV_UP_STAT.LINK_UP F.CV_DN_STAT.LINK_UP) = 0)
          ∧ ∀ a : Axis, s.axOn a = true → (s.axState a = 2 ∨ s.axState a = 3 ∨ s.axState a = 4) →
              t.axState a = 0 ∧ t.get (F.AX_STATE.ENERGISED a) = 0 ∧ t.get (F.BK_STAT.EN_LOSS a) = 1)
    selects .tapReset { s.tap with instr := .idcode, capture := tapIdentity }
    ∧ selects .idcode (loaded .idcode tapIdentity)
    ∧ (Completes (.samplePreload pins) s fun t => quiet t
        ∧ t.tap = loaded .samplePreload (if s.pd 1 then (pins &&& ~~~ gateCellMask) ||| gateCells t else 0)
        ∧ (s.tap.takeover = false → t.regs = s.regs ∧ t.axes = s.axes))
    ∧ (tapDecode s op = .bypass → selects (.bypass op) (loaded .bypass 0))
    ∧ (tapDecode s op ≠ .bypass → Does (.bypass op) s s [] [])
    ∧ (0x41 ≤ op.toNat → op.toNat ≤ 0x7F →
        (privOpen s = true → selects (.privateInstruction op) (loaded (.priv op) s.tap.capture))
        ∧ (privOpen s = false → selects (.privateInstruction op) (loaded .bypass 0)))
    ∧ ((op.toNat < 0x41 ∨ 0x7F < op.toNat) → Does (.privateInstruction op) s s [] [])
    ∧ takes .extest (loaded .extest s.tap.capture)
    ∧ takes .clamp (loaded .clamp 0)
    ∧ takes .highz (loaded .highz 0)
    ∧ (s.tap.sensed = some 0 → s.sec.life = 0 →
        takes .gatetest { loaded .gatetest s.tap.capture with gates := 0, cutOff := vmAbove5 s })
    ∧ ((s.tap.sensed ≠ some 0 ∨ s.sec.life ≠ 0) → selects .gatetest (loaded .bypass 0))
    ∧ (s.pd 1 = true →
        ((s.tap.instr = .extest ∨ s.tap.instr = .samplePreload) →
          Does (.tapUpdateDr cells) s { s with tap := { s.tap with update := cells } } [] [])
        ∧ (s.tap.instr = .gatetest → s.tap.takeover = true → Completes (.tapUpdateDr cells) s fun t =>
            t.tap = { s.tap with update := cells, gates := (cells >>> 96).setWidth 128 }
              ∧ BesideAxes { s with tap := t.tap } t ∧ KeepsFields (allAxes.map fun a => F.AX_GD_STAT.CROSS_CNT a.val) s t
              ∧ ∀ a : Axis, (s.axOn a = true → gateMask t a = .on (testGates t a) ∧ (t.gd a).lastForce = testGates t a
                  ∧ gatesOf t a &&& ~~~ testGates t a = 0 ∧ t.get (F.AX_GD_STAT.CROSS_CNT a) = min (s.get (F.AX_GD_STAT.CROSS_CNT a)
                      + bothOn (((cells >>> 96).setWidth 128 >>> (8 * a.val)).setWidth 8))
                      (fieldMax (F.AX_GD_STAT.CROSS_CNT a).hi (F.AX_GD_STAT.CROSS_CNT a).lo))
                ∧ (s.axOn a = false → t.ax a = s.ax a)))
    ∧ ((s.pd 1 = false ∨ s.tap.instr = .idcode ∨ s.tap.instr = .bypass) → Does (.tapUpdateDr cells) s s [] [])
    ∧ (s.tap.takeover = true → s.tap.instr.drives = false → Completes (.takeoverEnd ena t0) s fun t =>
        t.now = max s.now t0 ∧ t.tap = { s.tap with takeover := false, gates := 0 } ∧ t.pw = s.pw ∧ t.lk.cells = s.lk.cells
          ∧ ∀ a : Axis, (t.gd a).ena = ena.getLsbD a.val)
    ∧ ((s.tap.takeover = false ∨ s.tap.instr.drives = true) → Does (.takeoverEnd ena t0) s (s.at_ t0) [] [])
    ∧ (s.tap.instr = .gatetest → Completes (.gatetestVmCutoff q) s fun t => quiet t ∧ t.tap = { s.tap with cutOff := true }
        ∧ (s.tap.takeover = true → ∀ a : Axis, gatesOf t a = 0))
    ∧ (s.tap.instr ≠ .gatetest → Does (.gatetestVmCutoff q) s s [] [])

/-- With the interpreter running and no Whistle left over: access code 3 answers RANGE with ACC_BAD; the BK block
ROLE_DENIED; a register of a domain that is off, an address without a register and an active wave buffer take OK and
ignore the write; a change of an RWK field outside CONFIG and MAINT WRONG_MODE; a value out of range RANGE; a change
of an RWK field without the unlock LOCKED, counted; a state condition BUSY. The unlock is consumed, the status is
kept, a refusal is counted, and nothing else changes. The key arms the unlock, a LO word waits in its latch, and a new role of a port
waits for the reply of its frame. (R304, R360, R362, R366, R367, R368, R371, R372, R381.) -/
def Obligations.RegisterWriteChecksInOrder : Prop :=  ∀ (addr : BitVec 24) (typ : BitVec 2) (data : Word) (s : State), s.whReq = [] → s.ip.running = true →
    let A := addr.toNat / 4 * 4
    let mask := wrMask typ.toNat data
    let bits := wrBits typ.toNat data
    let s1 := consumeUnlock s
    let ends := fun (code : Nat) => { s1 with ip := { s1.ip with wrStatus := BitVec.ofNat 8 code } }
    let stop := fun (code : Nat) (more : List (Fld × Nat)) => Does (.registerWrite addr typ data) s (ends code)
      ((F.CMD_REFUSE.REFUSE_CNT, counted s F.CMD_REFUSE.REFUSE_CNT) :: (F.CMD_REFUSE.LAST_CODE, code) :: more) []
    let passes := fun (l : List (Fld × Nat)) => Does (.registerWrite addr typ data) s (ends 0) l []
    (typ = 3 → stop 0x12 [(F.SYS_ACC_STAT.ACC_BAD, 1)])
    ∧ (typ ≠ 3 → inBk A = true → stop 0x31 [])
    ∧ (typ ≠ 3 → inBk A = false →
      (s.pd (domainOf A) = false → passes [])
      ∧ (s.pd (domainOf A) = true → isWaveAddr A = true →
          let k := (A - 0x200000) / 0x1000
          (0x800 ≤ (A - 0x200000) % 0x1000 → passes [])
          ∧ ((A - 0x200000) % 0x1000 < 0x800 → waveBusy s k = true → stop 0x21 [(F.WT_STAT.REFUSED k, 1)])
          ∧ ((A - 0x200000) % 0x1000 < 0x800 → waveBusy s k = false →
              passes [((⟨A, 31, 0⟩ : Fld), ((rfGet s.regs A &&& ~~~ mask) ||| (bits &&& mask)).toNat)]))
      ∧ (s.pd (domainOf A) = true → isWaveAddr A = false → regAt A = none → passes [])
      ∧ (∀ (row : RegRow) (i j : Nat), s.pd (domainOf A) = true → isWaveAddr A = false → regAt A = some (row, i, j) →
          row.id ≠ .SYS_UNLOCK →
          let w := wrOf s1 row i j A mask bits
          let changed := rwkChanged row.fields w.old w.new = true
          let mode := s.mode = 2 ∨ s.mode = 3
          let range := fieldsInRange row.fields w.mask w.new = true ∧ crossLegal s1 w = true
          (changed → ¬ mode → stop 0x20 [])
          ∧ ((changed → mode) → ¬ range → row.id ≠ .AX_PWM_CTRL → stop 0x12 [])
          ∧ (changed → mode → range → s.ip.unlocked = false →
              stop 0x32 [(F.SYS_ACC_STAT.LOCK_REJ, 1), (F.SYS_ACC_STAT.LOCK_CNT, counted s F.SYS_ACC_STAT.LOCK_CNT)])
          ∧ ((changed → mode ∧ s.ip.unlocked = true) → range → stateAdmits s1 w = false → row.id ≠ .WT_CTRL → stop 0x21 [])))
    ∧ (s.ip.loLatch = [] →
      (∀ key : BitVec 16, s.pd 1 = true → Does (.unlockArm key) s { s with ip := { s.ip with unlocked := key == 0x5A3C, wrStatus := 0 } } [] [])
      ∧ (∀ (a : Axis) (origin : Bool), s.pd (3 + (quadOf a).val) = true → Does (.wideLoLatch a origin data) s { s with ip := { s.ip with
          unlocked := false, wrStatus := 0, loLatch := [((if origin then F.AX_CAM_ORIGIN_LO.all a else F.AX_CAM_OFFSET_LO.all a).addr, data)] } } [] [])
      ∧ (∀ (via : Port) (aux role : Bool), s.pd 1 = true → (s.mode = 2 ∨ s.mode = 3) → s.ip.unlocked = true →
          s.get (if aux then F.AUX_CFG.ROLE else F.HP_CFG.ROLE) ≠ (if role then 1 else 0) → (aux = true → role = true → ∀ a : Axis, fbMode s a ≠ 4) →
          Does (.portRoleWrite via aux role) s { s with
              hp := if via = .hp then { s.hp with roleNext := s.hp.roleNext ++ [(writerOf s.hp, aux, role)] } else s.hp
              aux := if via = .aux then { s.aux with roleNext := s.aux.roleNext ++ [(writerOf s.aux, aux, role)] } else s.aux
              ip := { s.ip with unlocked := false, wrStatus := 0 } }
            (if via = .up then [(if aux then F.AUX_CFG.ROLE else F.HP_CFG.ROLE, if role then 1 else 0)] else []) []))

/-- With the interpreter running, no Whistle left over, and a write to a register without an action that passes every
check: each bit of an RW or RWK field that the access selects takes its data bit, each selected bit of a W1C field
with data 1 clears, every other bit of the word and every other register keeps its value; the status is OK and the
unlock is consumed. A threshold of a window monitor holds the outputs of that monitor alone beside, and PROBE_AUTO starts or
ends the interval timer of its axis. Without the interpreter a write does nothing. (R8, R188, R293, R362, R367, R368, R369.) -/
def Obligations.PlainRegisterWritesStoreTheirFields : Prop :=  ∀ (addr : BitVec 24) (typ : BitVec 2) (data : Word) (row : RegRow) (i j : Nat) (s : State), s.whReq = [] →
    let A := addr.toNat / 4 * 4
    let s1 := consumeUnlock s
    let w := wrOf s1 row i j A (wrMask typ.toNat data) (wrBits typ.toNat data)
    (s.ip.running = true → typ ≠ 3 → inBk A = false → s.pd (domainOf A) = true → isWaveAddr A = false →
      regAt A = some (row, i, j) → s.ip.loLatch = [] →
      row.id ∉ [.SYS_UNLOCK, .TB_CTRL, .AX_CAM_OFFSET_LO, .AX_CAM_ORIGIN_LO, .AX_CAM_OFFSET_HI, .AX_CAM_ORIGIN_HI, .AX_PLN_CFG,
        .AX_CC_CFG, .WT_CTRL, .AX_WAVE, .AX_PWM_CTRL, .PCH_CTRL, .AX_FB_CFG, .AX_FB_CTRL, .MS_WM_CFG, .HP_CFG, .AUX_CFG,
        .LK_PART_CTRL, .CV_CFG, .CV_CTRL, .CV_STK_RST, .BK_DEV_CTRL, .PD_CTRL, .MCH_CFG] →
      (rwkChanged row.fields w.old w.new = true → (s.mode = 2 ∨ s.mode = 3) ∧ s.ip.unlocked = true) →
      fieldsInRange row.fields w.mask w.new = true → crossLegal s1 w = true → stateAdmits s1 w = true →
      (row.id ∉ [.MS_WM_THR, .QD_VM_THR, .QD_VM_UV, .AX_PROBE_CFG] →
        Does (.registerWrite addr typ data) s { s1 with ip := { s1.ip with wrStatus := 0 } } [((⟨A, 31, 0⟩ : Fld), w.new.toNat)] [])
      ∧ (row.id ∈ [.MS_WM_THR, .QD_VM_THR, .QD_VM_UV] → Completes (.registerWrite addr typ data) s fun t =>
          BesideRegs { s1 with ip := { s1.ip with wrStatus := 0 }, ms := { s.ms with wm := t.ms.wm } } t
            ∧ KeepsFields [⟨A, 31, 0⟩] s t ∧ t.get ⟨A, 31, 0⟩ = w.new.toNat
            ∧ ∀ n : Fin 12, { t.ms.wm[n] with hold := (s.ms.wm[n]).hold } = s.ms.wm[n])
      ∧ (row.id = .AX_PROBE_CFG → Completes (.registerWrite addr typ data) s fun t =>
          BesideRegs { s1.modAx (axisOf i) (fun x => { x with
              probeAt := if t.get (F.AX_PROBE_CFG.PROBE_AUTO i) = 1 then some (x.probeAt.getD s.now) else none }) with
            ip := { s1.ip with wrStatus := 0 } } t
            ∧ KeepsFields [⟨A, 31, 0⟩] s t ∧ t.get ⟨A, 31, 0⟩ = w.new.toNat)
      ∧ Completes (.registerWrite addr typ data) s fun t => ∀ b < 32,
          let stored := ∃ f ∈ row.fields, f.acc.stored = true ∧ f.lo ≤ b ∧ b ≤ f.hi
          let w1c := ∃ f ∈ row.fields, f.acc = .w1c ∧ f.lo ≤ b ∧ b ≤ f.hi
          let selected := (wrMask typ.toNat data).getLsbD b
          let value := (wrBits typ.toNat data).getLsbD b
          let old := (rfGet s.regs A).getLsbD b
          let now := (rfGet t.regs A).getLsbD b
          (selected = true → stored → ¬ w1c → now = value)
          ∧ (selected = true → ¬ stored → w1c → now = (old && !value))
          ∧ ((selected = false ∨ (¬ stored ∧ ¬ w1c)) → now = old))
    ∧ (s.ip.running = false → Does (.registerWrite addr typ data) s s [] [])

/-- With the interpreter running and no Whistle left over: the key arms the unlock and another value does not; a LO
word waits in its latch; MCH_CFG, DEADBALL and REFIN_EN take their fields, a change of a channel's source dropping its
samples and leaving the reference acting at once but for a squad member, which ignores it; a role
change waits for its reply; PD_CTRL takes quads and links down; STORE and the partition apply act in CONFIG; a stack
reset needs its key; a barrier or gather starts at an idle Captain. What a state or key does not allow is refused and
counted. (R29, R43, R108, R304, R378, R395, R413, R440, R442, R443, R472, R516.) -/
def Obligations.DeviceRegistersAct : Prop :=  ∀ s : State, s.whReq = [] → s.ip.running = true → s.ip.loLatch = [] →
    let ends := fun (u : State) (code : Nat) => { u with ip := { u.ip with unlocked := false, wrStatus := BitVec.ofNat 8 code } }
    let refused := fun (c : Instr) (code : Nat) => Does c s (ends s code)
      [(F.CMD_REFUSE.REFUSE_CNT, counted s F.CMD_REFUSE.REFUSE_CNT), (F.CMD_REFUSE.LAST_CODE, code)] []
    let config := s.mode = 2 ∨ s.mode = 3
    (s.pd 1 = true →
      (∀ key : BitVec 16, Does (.unlockArm key) s { s with ip := { s.ip with unlocked := key == 0x5A3C, wrStatus := 0 } } [] [])
      ∧ (∀ (c : Fin 4) (data : Word), 2 ≤ getBits data 23 16 →
          ¬ (getBits data 1 0 = 3 ∧ (getBits data 6 6 = 1 ∨ getBits data 13 10 = devId s)) → (∀ a : Axis, usesChan s c a = false) →
          let same := s.get (F.MCH_CFG.SRC c) = getBits data 1 0 ∧ s.get (F.MCH_CFG.AXIS c) = getBits data 5 2
            ∧ s.get (F.MCH_CFG.SCH c) = getBits data 9 8 ∧ s.get (F.MCH_CFG.SDEV c) = getBits data 13 10
          Does (.mchCfgWrite c data) s (ends (if same then s else s.modMch c fun x => { x with samples := [], rev16 := 0, revExt := 0, viaFb := false }) 0) [(F.MCH_CFG.SRC c, getBits data 1 0), (F.MCH_CFG.AXIS c, getBits data 5 2),
            (F.MCH_CFG.PUBLISH c, getBits data 6 6), (F.MCH_CFG.SCH c, getBits data 9 8), (F.MCH_CFG.SDEV c, getBits data 13 10),
            (F.MCH_CFG.STALE_T c, getBits data 23 16),
            (F.MCH_CFG.STALE_EVT c, if getBits data 25 25 = 1 then 0 else s.get (F.MCH_CFG.STALE_EVT c))] [])
      ∧ (∀ b : Bool,
          (¬ (b = false ∧ s.get F.TB_CTRL.REFIN_EN = 1 ∧ s.get F.TB_STATUS.SRC = 1 ∧ isMember s = false) →
            Does (.refinEnWrite b) s (ends s 0) [(F.TB_CTRL.REFIN_EN, if b then 1 else 0)] [])
          ∧ (b = false → s.get F.TB_CTRL.REFIN_EN = 1 → s.get F.TB_STATUS.SRC = 1 → isMember s = false → s.pw.transit = none →
              (s.get F.TB_CTRL.DEGRADED_HALT = 0 ∨ s.mode ≠ 5) → Does (.refinEnWrite b) s (ends s 0)
                [(F.TB_CTRL.REFIN_EN, 0), (F.TB_STATUS.SRC, 0), (F.TB_STATUS.TIMEBASE_DEGRADED, 1)] []))
      ∧ (∀ (via : Port) (aux role : Bool),
          let f := if aux then F.AUX_CFG.ROLE else F.HP_CFG.ROLE
          let same := s.get f = if role then 1 else 0
          let waits := ends { s with
            hp := if via = .hp then { s.hp with roleNext := s.hp.roleNext ++ [(writerOf s.hp, aux, role)] } else s.hp
            aux := if via = .aux then { s.aux with roleNext := s.aux.roleNext ++ [(writerOf s.aux, aux, role)] } else s.aux } 0
          let acts := Does (.portRoleWrite via aux role) s waits (if via = .up then [(f, if role then 1 else 0)] else []) []
          (same → rolePends aux s = false → Does (.portRoleWrite via aux role) s (ends s 0) [] [])
          ∧ (same → rolePends aux s = true → acts)
          ∧ (¬ same → ¬ config → refused (.portRoleWrite via aux role) 0x20)
          ∧ (¬ same → config → s.ip.unlocked = true → (aux = true → role = true → ∀ a : Axis, fbMode s a ≠ 4) → acts))
      ∧ (∀ (quads : BitVec 4) (lnk : Bool), config → s.ip.unlocked = true → Completes (.pdCtrlWrite quads lnk) s fun t =>
          t.get F.PD_CTRL.QUAD_ON = quads.toNat ∧ t.get F.PD_CTRL.LNK_ON = (if lnk then 1 else 0) ∧ t.ip.unlocked = false
            ∧ t.ip.wrStatus = 0 ∧ t.now = s.now ∧ t.lk.cells = s.lk.cells
            ∧ (∀ q : Quad, t.pd (3 + q.val) = (s.pd (3 + q.val) && quads.getLsbD q.val))
            ∧ t.pd 9 = (s.pd 9 && quads != 0) ∧ t.pd 8 = (s.pd 8 && lnk)
            ∧ t.pd 1 = true ∧ t.pd 2 = s.pd 2 ∧ t.pd 7 = s.pd 7)
      ∧ (s.mode = 2 →
          (s.get F.BK_DEV_STAT.STORE_BUSY = 0 → s.pw.sleepPend = none →
            Completes .bkStore s fun t =>
              (∃ jobs, t = { ends { s with bk := { s.bk with storing := true, table := bkWords s, imaging := false, failed := false } } 0 with
                regs := t.regs, plnWork := t.plnWork, cv := { s.cv with tx := t.cv.tx }, lk := { s.lk with jobs := jobs } })
              ∧ KeepsFields [F.BK_DEV_STAT.STORE_BUSY] s t ∧ t.get F.BK_DEV_STAT.STORE_BUSY = 1
              ∧ ∃ j ∈ t.lk.jobs, j.who = lkSecurity ∧ j.why = .store ∧ j.line = bkTableLine ∧ j.bytes = some (wordsBytesLE (bkWords s)))
          ∧ ((s.get F.BK_DEV_STAT.STORE_BUSY = 1 ∨ s.pw.sleepPend ≠ none) → refused .bkStore 0x21)))
    ∧ (s.mode ≠ 2 → Does .bkStore s { s with ip := { s.ip with wrStatus := 0x20 } } [] [])
    ∧ (∀ (a : Axis) (origin : Bool) (data : Word), s.pd (3 + (quadOf a).val) = true →
        let f := if origin then F.AX_CAM_ORIGIN_LO.all a else F.AX_CAM_OFFSET_LO.all a
        Does (.wideLoLatch a origin data) s (ends { s with ip := { s.ip with loLatch := [(f.addr, data)] } } 0) [] [])
    ∧ (s.pd 7 = true →
      (∀ b : Bool, Does (.deadballWrite b) s (ends s 0) [(F.LK_ARB_CTRL.DEADBALL, if b then 1 else 0)] [])
      ∧ (let rec_ := (s.get F.LK_PART_REC.BASE, s.get F.LK_PART_REC.SIZE)
         let cam := (s.get F.LK_PART_CAM.BASE, s.get F.LK_PART_CAM.SIZE)
         let trc := (s.get F.LK_PART_TRC.BASE, s.get F.LK_PART_TRC.SIZE)
         ((s.mode ≠ 2 ∨ s.pw.sleepPend ≠ none) → refused .partitionApply 0x21)
         ∧ (s.mode = 2 → s.pw.sleepPend = none → partsLegal rec_ cam trc = false →
            Does .partitionApply s (ends s 0) [(F.LK_PART_STAT.PART_REJ, 1)] [])
         ∧ (s.mode = 2 → s.pw.sleepPend = none → partsLegal rec_ cam trc = true → Completes .partitionApply s fun t =>
            t.axes = s.axes ∧ t.ip = (ends s 0).ip ∧ t.pw = s.pw
              ∧ t.lk.cells = s.lk.cells ∧ (∃ j ∈ t.lk.jobs, j.who = lkSecurity ∧ j.why = .image ∧ j.line = 0x1F8000)
              ∧ ∀ r : Fin 64, let moved := r.val < 63 ∧ partOf (partRec s) (partCam s) (partTrc s) r ≠ partOf rec_ cam trc r
                  t.lk.gen[r] = (if moved then s.lk.gen[r] + 1 else s.lk.gen[r])
                  ∧ t.lk.initPend.getLsbD r.val = (s.lk.initPend.getLsbD r.val || decide moved)
                   ∧ (moved → ∃ j ∈ t.lk.jobs, j.who = lkInterp ∧ j.why = .rewrite r.val ∧ j.line = r.val * 32768))))
    ∧ (s.pd 8 = true →
      (∀ (level : BitVec 2) (key : BitVec 16),
          let sent := ∀ l : Link, (s.cvPort l).waiting = [] ∧ (linkUp s l = true → (s.cvPort l).replay.length < 31)
          (¬ (key = 0x5A3C ∧ (level = 1 ∨ level = 2)) → refused (.stackReset level key) 0x12)
          ∧ (key = 0x5A3C → level = 1 → sent → (∀ v, levelNow s = some v → 2 ≤ v) → Completes (.stackReset level key) s fun t =>
              DeepReset 7 2 (devId s) s t)
          ∧ (key = 0x5A3C → level = 2 → sent → levelNow s = none → Completes (.stackReset level key) s fun t =>
              InterpreterReset 7 (devId s) s t)
          ∧ (∀ l : Link, key = 0x5A3C → (level = 1 ∨ level = 2) → linkUp s l = true → 31 ≤ (s.cvPort l).replay.length →
              Completes (.stackReset level key) s fun t => t.cv.rstPend = some (level.toNat + 1, devId s) ∧ t.rst = s.rst))
      ∧ ((isCaptain s = false ∨ s.get F.CV_OPS.BAR_BUSY = 1) → refused .barrier 0x21)
      ∧ (isCaptain s = true → s.get F.CV_OPS.BAR_BUSY = 0 →
          (linkUp s .dn = true → Completes .barrier s fun t => BesideLinks (ends s 0) t ∧ t.now = s.now ∧ t.get F.CV_OPS.BAR_BUSY = 1
            ∧ KeepsFields [F.CV_OPS.BAR_BUSY] s t ∧ t.cv.barStart = some s.now ∧ Sends .dn typBarrier .barrier s t)
          ∧ (linkUp s .dn = false → Does .barrier s (ends s 0) [(F.CV_OPS.BAR_DONE, 1), (F.CV_OPS.BAR_TIME, 0)] []))
      ∧ ((isCaptain s = false ∨ s.get F.CV_OPS.GATHER_BUSY = 1) → refused .gather 0x21)
      ∧ (isCaptain s = true → s.get F.CV_OPS.GATHER_BUSY = 0 →
          let latch := s.wh.latchT / nsT
          let wait := BitVec.ofNat 16 ((2 ^ s.get F.CV_STAT.STACK_N - 1) / 2 * 2)
          let waits := linkUp s .dn = true ∧ wait ≠ 0
          Completes .gather s fun t => BesideLinks (ends s 0) t ∧ t.now = s.now ∧ t.cv.gatherLatch = latch
            ∧ KeepsFields [F.CV_OPS.GATHER_BUSY, F.CV_OPS.GATHER_DONE] s t ∧ Sends .dn typBcast (.bcast (.gather latch)) s t
            ∧ t.cv.gather.head? = some (0, match s.wh.snap with | some ws => gatherSlot 0 true false latch ws | none => absentSlot 0)
            ∧ (waits → t.get F.CV_OPS.GATHER_BUSY = 1 ∧ t.cv.gatherWait = wait)
            ∧ (¬ waits → t.get F.CV_OPS.GATHER_BUSY = 0 ∧ t.get F.CV_OPS.GATHER_DONE = 1 ∧ t.cv.gatherWait = 0)))

/-- With the interpreter running, no latched LO word and no Whistle left over: a COMMIT that does not fit is RANGE
with COMMIT_REJ, in CONFIG or MAINT it applies, else it is pending; an action on a busy table is BUSY with REFUSED,
else FILL and REVERT begin and SWAP is armed or, without users, exchanges the buffers; TABLE waits for its boundary,
the axis a user of the new table; FB_MODE leaves 0 with cleared counters where its conditions hold; the home bits act
unless a follower uses the axis. Nothing else changes. (R138, R139, R140, R142, R143, R199, R200, R201, R203, R204,
R260, R269.) -/
def Obligations.AxisRegistersAct : Prop :=  ∀ s : State, s.whReq = [] → s.ip.running = true → s.ip.loLatch = [] →
    let ends := fun (u : State) (code : Nat) => { u with ip := { u.ip with unlocked := false, wrStatus := BitVec.ofNat 8 code } }
    let refused := fun (c : Instr) (code : Nat) (more : List (Fld × Nat)) => Does c s (ends s code)
      ((F.CMD_REFUSE.REFUSE_CNT, counted s F.CMD_REFUSE.REFUSE_CNT) :: (F.CMD_REFUSE.LAST_CODE, code) :: more) []
    let config := s.mode = 2 ∨ s.mode = 3
    (∀ a : Axis, s.pd (3 + (quadOf a).val) = true →
      let stg : Word × Word := (BitVec.ofNat 32 (s.get (F.AX_PWM_STG.all a)), BitVec.ofNat 32 (s.get (F.AX_PWM_DLY.all a)))
      let old := s.get (F.AX_WAVE.TABLE a)
      let act := s.get (F.AX_WAVE.TABLE_ACT a)
      (commitFits s a = false → refused (.pwmCommit (.axis a)) 0x12 [(F.AX_PWM_STAT.COMMIT_REJ a, 1)])
      ∧ (commitFits s a = true → ¬ config → Does (.pwmCommit (.axis a)) s (ends (s.modPwm a fun p => { p with pend := some stg }) 0)
          [(F.AX_PWM_ACT.COMMIT_PEND a, 1)] [])
      ∧ (commitFits s a = true → config → Completes (.pwmCommit (.axis a)) s fun t => OnlyAxes [a] (ends s 0) t ∧ t.now = s.now
          ∧ KeepsBlocks [a] [] s t ∧ t.get (F.AX_PWM_ACT.ACT a) = stg.1.toNat % 2 ^ 29 ∧ t.get (F.AX_PWM_ACT.COMMIT_PEND a) = 0
          ∧ t.get (F.AX_PWM_DLY_ACT.DLY_ACT a) = stg.2.toNat ∧ (t.pwm a).pend = none ∧ (t.pwm a).carry = Vector.replicate 4 0
          ∧ t.mot a = s.mot a)
      ∧ (∀ n : BitVec 3, s.get (F.AX_WAVE.TABLE_PEND a) = 0 →
          (n.toNat = act → Does (.axWaveTableWrite a n) s (ends s 0) [(F.AX_WAVE.TABLE a, n.toNat), (F.AX_WAVE.TABLE_PEND a, 0)] [])
          ∧ (n.toNat ≠ act → Does (.axWaveTableWrite a n) s (ends s 0) [(F.AX_WAVE.TABLE a, n.toNat), (F.AX_WAVE.TABLE_PEND a, 1),
              (F.WT_STAT.USERS n.toNat, natSetBit (s.get (F.WT_STAT.USERS n.toNat)) a true)] []))
      ∧ (∀ n : BitVec 3, s.get (F.AX_WAVE.TABLE_PEND a) = 1 → Completes (.axWaveTableWrite a n) s fun t =>
          t.axes = s.axes ∧ t.now = s.now ∧ t.get (F.AX_WAVE.TABLE a) = n.toNat
            ∧ t.get (F.AX_WAVE.TABLE_PEND a) = (if n.toNat = act then 0 else 1)
            ∧ (n.toNat ≠ act → natBit (t.get (F.WT_STAT.USERS n.toNat)) a = true)
            ∧ (old ≠ act → old ≠ n.toNat → natBit (t.get (F.WT_STAT.USERS old)) a = false))
      ∧ (∀ n : BitVec 3,
          let m := fbMode s a
          let teeth := n.toNat = 3 → s.get (F.AX_FB_REV_COUNT.REV_COUNT a) = s.get (F.AX_FB_WHEEL.TEETH a)
          let opens := fbFollowed s a = false
            ∧ (n.toNat = 4 → s.get F.AUX_CFG.ROLE = 0 ∧ serialSelTaken s a (s.get (F.AX_FB_SER.SEL a)) = false)
          (4 < n.toNat → refused (.fbModeWrite a n) 0x12 [])
          ∧ (n.toNat ≤ 4 → ¬ teeth → refused (.fbModeWrite a n) 0x12 [])
          ∧ (n.toNat = m → n.toNat ≤ 4 → teeth → Does (.fbModeWrite a n) s (ends s 0) [] [])
          ∧ (m ≠ 0 → n.toNat ≤ 4 → teeth → n.toNat ≠ 0 → n.toNat ≠ m → refused (.fbModeWrite a n) 0x21 [])
          ∧ (m = 0 → n.toNat ≠ 0 → n.toNat ≤ 4 → teeth → ¬ opens → refused (.fbModeWrite a n) 0x21 [])
          ∧ (m = 0 → n.toNat ≠ 0 → n.toNat ≤ 4 → teeth → opens → Completes (.fbModeWrite a n) s fun t =>
              t.get (F.AX_FB_CFG.FB_MODE a) = n.toNat ∧ t.get (F.AX_FB_POS.POS a) = 0 ∧ t.get (F.AX_FB_REV.REV a) = 0
                ∧ t.get (F.AX_FB_STAT.all a) = 0 ∧ (t.core a).speed = 0 ∧ t.now = s.now ∧ t.mot a = s.mot a)
          ∧ (m ≠ 0 → n.toNat = 0 → (∀ c : Fin 4, s.get (F.MCH_CFG.SRC c) ≠ 1 ∨ s.get (F.MCH_CFG.AXIS c) ≠ a.val) →
              Does (.fbModeWrite a n) s (ends s 0) [(F.AX_FB_CFG.FB_MODE a, 0)] []))
      ∧ (fbFollowed s a = true → refused (.homeArm a) 0x21 [])
      ∧ (fbFollowed s a = false → Does (.homeArm a) s (ends s 0) [(F.AX_FB_STAT.HOME_ARMED a, 1)] [])
      ∧ Does (.homeCancel a) s (ends s 0) [(F.AX_FB_STAT.HOME_ARMED a, 0)] [])
    ∧ (s.pd 1 = true →
      (∀ n : Fin 8,
        (¬ config → Does (.pwmCommit (.priv n)) s
          (ends { s with priv := s.priv.set n { s.priv[n] with pend := some (privStaging s n) } } 0) [(F.PCH_CTRL.COMMIT_PEND n, 1)] [])
        ∧ (config → Completes (.pwmCommit (.priv n)) s fun t => t.axes = s.axes ∧ t.now = s.now ∧ t.get (F.PCH_CTRL.COMMIT_PEND n) = 0
            ∧ (t.priv[n]).pend = none ∧ (t.priv[n]).comm = privStaging s n ∧ ∀ m : Fin 8, m ≠ n → t.priv[m] = s.priv[m]))
      ∧ ∀ k : Fin 8,
        (waveBusy s k = true → ∀ c ∈ [Instr.wtSwap k, .wtFill k, .wtRevert k], refused c 0x21 [(F.WT_STAT.REFUSED k, 1)])
        ∧ (waveBusy s k = false →
          Does (.wtFill k) s (ends (s.modWt k fun x => { x with op := some .fill }) 0) [(F.WT_STAT.BUSY k, 1)] []
          ∧ Does (.wtRevert k) s (ends (s.modWt k fun x => { x with op := some .revert }) 0) [(F.WT_STAT.BUSY k, 1)] []
          ∧ (s.get (F.WT_STAT.USERS k) ≠ 0 → Does (.wtSwap k) s (ends (s.modWt k fun x => { x with moved := 0 }) 0)
              [(F.WT_STAT.SWAP_PEND k, 1)] [])
          ∧ (s.get (F.WT_STAT.USERS k) = 0 → Completes (.wtSwap k) s fun t =>
              BesideRegs (ends (s.modWt k fun _ => { moved := 0, op := some .copy }) 0) t ∧ t.get (F.WT_STAT.SWAP_PEND k) = 1
                ∧ t.get (F.WT_STAT.BUSY k) = 1 ∧ t.get (F.WT_STAT.USERS k) = 0
                ∧ (∀ j < 512, waveOf t k false j = waveOf s k true j ∧ waveOf t k true j = waveOf s k false j)
                ∧ ∀ addr : Nat, addr ≠ (F.WT_STAT.all k).addr → (addr < waveAddr k.val false 0 ∨ waveAddr k.val false 0 + 0x1000 ≤ addr) →
                    rfGet t.regs addr = rfGet s.regs addr)))

end
end

