-- ==== Sys2Proof/Laws/Cells.lean ====
section
/-!
SUPPORT. The Locker's stored bytes: a byte written reads back, every other byte reads as before, and every operation keeps the
canonical form (R388).
-/

namespace Sys2Proof.Machine

/-- What a byte reads as: the listed value, else that of a new part. -/
theorem cellGet_cellInsert_same (l : List Host.Cell) (a : Nat) (w d : Byte) : cellGet (cellInsert l a w) a d = w := by
  induction l with
  | nil => simp [cellInsert, cellGet]
  | cons e l ih =>
    obtain ⟨b, v⟩ := e
    simp only [cellInsert]
    split
    · simp [cellGet]
    · split
      · simp [cellGet]
      · rename_i h1 h2
        simp [cellGet, ih, Ne.symm h2]

theorem cellGet_cellInsert_other (l : List Host.Cell) (a b : Nat) (w d : Byte) (h : b ≠ a) :
    cellGet (cellInsert l a w) b d = cellGet l b d := by
  induction l with
  | nil => simp [cellInsert, cellGet, Ne.symm h]
  | cons e l ih =>
    obtain ⟨c, v⟩ := e
    simp only [cellInsert]
    split
    · simp [cellGet, Ne.symm h]
    · split
      · rename_i h1 h2
        subst h2
        simp [cellGet, Ne.symm h]
      · simp [cellGet, ih]

theorem cellGet_cellErase_same (l : List Host.Cell) (a : Nat) (d : Byte) : cellGet (cellErase l a) a d = d := by
  induction l with
  | nil => rfl
  | cons e l ih =>
    obtain ⟨b, v⟩ := e
    simp only [cellErase]
    split
    · exact ih
    · rename_i h
      simp [cellGet, h, ih]

theorem cellGet_cellErase_other (l : List Host.Cell) (a b : Nat) (d : Byte) (h : b ≠ a) :
    cellGet (cellErase l a) b d = cellGet l b d := by
  induction l with
  | nil => rfl
  | cons e l ih =>
    obtain ⟨c, v⟩ := e
    simp only [cellErase]
    split
    · rename_i h1
      subst h1
      simp [cellGet, Ne.symm h, ih]
    · simp [cellGet, ih]

/-- A byte written reads back. -/
theorem cellGet_cellSet_same (l : List Host.Cell) (a : Nat) (w : Byte) : cellGet (cellSet l a w) a (lkDefault a) = w := by
  unfold cellSet
  split
  · rename_i h
    rw [cellGet_cellErase_same, h]
  · exact cellGet_cellInsert_same l a w _

/-- A write leaves every other byte alone. -/
theorem cellGet_cellSet_other (l : List Host.Cell) (a b : Nat) (w d : Byte) (h : b ≠ a) :
    cellGet (cellSet l a w) b d = cellGet l b d := by
  unfold cellSet
  split
  · exact cellGet_cellErase_other l a b d h
  · exact cellGet_cellInsert_other l a b w d h

/-- Bytes put from a key on leave every other key alone. -/
theorem cellGet_cellsPut_other (bs : List Byte) (l : List Host.Cell) (a b : Nat) (d : Byte) (h : b < a ∨ a + bs.length ≤ b) :
    cellGet (cellsPut l a bs) b d = cellGet l b d := by
  induction bs generalizing l a with
  | nil => rfl
  | cons x bs ih =>
    simp only [List.length_cons] at h
    rw [cellsPut, ih _ _ (by omega), cellGet_cellSet_other _ _ _ _ _ (by omega)]

/-! ### Canonical form -/

theorem cellSorted_mono (l : List Host.Cell) (lo lo' : Nat) (h : lo' ≤ lo) (hs : cellSorted lo l = true) :
    cellSorted lo' l = true := by
  cases l with
  | nil => rfl
  | cons e l =>
    obtain ⟨b, v⟩ := e
    simp only [cellSorted, Bool.and_eq_true, decide_eq_true_eq] at hs ⊢
    exact ⟨by omega, hs.2⟩

theorem cellSorted_cellErase (l : List Host.Cell) (lo a : Nat) (hs : cellSorted lo l = true) :
    cellSorted lo (cellErase l a) = true := by
  induction l generalizing lo with
  | nil => exact hs
  | cons e l ih =>
    obtain ⟨b, v⟩ := e
    simp only [cellSorted, Bool.and_eq_true, decide_eq_true_eq] at hs
    simp only [cellErase]
    split
    · exact cellSorted_mono _ (b + 1) lo (by omega) (ih _ hs.2)
    · simp only [cellSorted, Bool.and_eq_true, decide_eq_true_eq]
      exact ⟨hs.1, ih _ hs.2⟩

theorem cellSorted_cellInsert (l : List Host.Cell) (lo a : Nat) (w : Byte) (ha : lo ≤ a) (hs : cellSorted lo l = true) :
    cellSorted lo (cellInsert l a w) = true := by
  induction l generalizing lo with
  | nil => simp [cellInsert, cellSorted, ha]
  | cons e l ih =>
    obtain ⟨b, v⟩ := e
    simp only [cellSorted, Bool.and_eq_true, decide_eq_true_eq] at hs
    simp only [cellInsert]
    split
    · rename_i h
      simp only [cellSorted, Bool.and_eq_true, decide_eq_true_eq]
      exact ⟨ha, by omega, hs.2⟩
    · split
      · rename_i h1 h2
        subst h2
        simp only [cellSorted, Bool.and_eq_true, decide_eq_true_eq]
        exact ⟨ha, hs.2⟩
      · simp only [cellSorted, Bool.and_eq_true, decide_eq_true_eq]
        exact ⟨hs.1, ih _ (by omega) hs.2⟩

theorem mem_cellErase (l : List Host.Cell) (a : Nat) (e : Host.Cell) (h : e ∈ cellErase l a) : e ∈ l := by
  induction l with
  | nil => exact h
  | cons x l ih =>
    obtain ⟨b, v⟩ := x
    simp only [cellErase] at h
    split at h
    · exact List.mem_cons_of_mem _ (ih h)
    · rcases List.mem_cons.mp h with h | h
      · exact h ▸ List.mem_cons_self
      · exact List.mem_cons_of_mem _ (ih h)

theorem mem_cellInsert (l : List Host.Cell) (a : Nat) (w : Byte) (e : Host.Cell) (h : e ∈ cellInsert l a w) :
    e = (a, w) ∨ e ∈ l := by
  induction l with
  | nil => exact .inl (List.mem_singleton.mp h)
  | cons x l ih =>
    obtain ⟨b, v⟩ := x
    simp only [cellInsert] at h
    split at h
    · exact List.mem_cons.mp h
    · split at h
      · rcases List.mem_cons.mp h with h | h
        · exact .inl h
        · exact .inr (List.mem_cons_of_mem _ h)
      · rcases List.mem_cons.mp h with h | h
        · exact .inr (h ▸ List.mem_cons_self)
        · rcases ih h with h | h
          · exact .inl h
          · exact .inr (List.mem_cons_of_mem _ h)

/-- A write keeps the canonical form. -/
theorem cellWf_cellSet (l : List Host.Cell) (a : Nat) (w : Byte) (h : cellWf l = true) : cellWf (cellSet l a w) = true := by
  simp only [cellWf, Bool.and_eq_true, List.all_eq_true, bne_iff_ne, ne_eq] at h ⊢
  unfold cellSet
  split
  · exact ⟨cellSorted_cellErase _ _ _ h.1, fun e he => h.2 e (mem_cellErase _ _ _ he)⟩
  · rename_i hw
    refine ⟨cellSorted_cellInsert _ _ _ _ (Nat.zero_le _) h.1, fun e he => ?_⟩
    rcases mem_cellInsert _ _ _ _ he with he | he
    · subst he; exact hw
    · exact h.2 e he

theorem cellWf_cellsPut (bs : List Byte) (l : List Host.Cell) (a : Nat) (h : cellWf l = true) :
    cellWf (cellsPut l a bs) = true := by
  induction bs generalizing l a with
  | nil => exact h
  | cons b bs ih => exact ih _ _ (cellWf_cellSet _ _ _ h)

end Sys2Proof.Machine
end

