-- ==== Sys2Proof/Laws/State.lean ====
section
/-!
SUPPORT. What each named update of the state leaves alone and what it changes: one lemma per field per update, true by
`rfl`, so that no later proof unfolds a record update.
-/

namespace Sys2Proof.Machine


/-! ### `State.set` -/

@[simp] theorem State.set_now (s : State) (f : Fld) (v : Nat) : (s.set f v).now = s.now := rfl
@[simp] theorem State.set_freeCtr (s : State) (f : Fld) (v : Nat) : (s.set f v).freeCtr = s.freeCtr := rfl
@[simp] theorem State.set_axes (s : State) (f : Fld) (v : Nat) : (s.set f v).axes = s.axes := rfl
@[simp] theorem State.set_mch (s : State) (f : Fld) (v : Nat) : (s.set f v).mch = s.mch := rfl
@[simp] theorem State.set_wt (s : State) (f : Fld) (v : Nat) : (s.set f v).wt = s.wt := rfl
@[simp] theorem State.set_ms (s : State) (f : Fld) (v : Nat) : (s.set f v).ms = s.ms := rfl
@[simp] theorem State.set_ip (s : State) (f : Fld) (v : Nat) : (s.set f v).ip = s.ip := rfl
@[simp] theorem State.set_hp (s : State) (f : Fld) (v : Nat) : (s.set f v).hp = s.hp := rfl
@[simp] theorem State.set_aux (s : State) (f : Fld) (v : Nat) : (s.set f v).aux = s.aux := rfl
@[simp] theorem State.set_tb (s : State) (f : Fld) (v : Nat) : (s.set f v).tb = s.tb := rfl
@[simp] theorem State.set_pw (s : State) (f : Fld) (v : Nat) : (s.set f v).pw = s.pw := rfl
@[simp] theorem State.set_priv (s : State) (f : Fld) (v : Nat) : (s.set f v).priv = s.priv := rfl
@[simp] theorem State.set_bk (s : State) (f : Fld) (v : Nat) : (s.set f v).bk = s.bk := rfl
@[simp] theorem State.set_sec (s : State) (f : Fld) (v : Nat) : (s.set f v).sec = s.sec := rfl
@[simp] theorem State.set_lk (s : State) (f : Fld) (v : Nat) : (s.set f v).lk = s.lk := rfl
@[simp] theorem State.set_cv (s : State) (f : Fld) (v : Nat) : (s.set f v).cv = s.cv := rfl
@[simp] theorem State.set_wh (s : State) (f : Fld) (v : Nat) : (s.set f v).wh = s.wh := rfl
@[simp] theorem State.set_rst (s : State) (f : Fld) (v : Nat) : (s.set f v).rst = s.rst := rfl
@[simp] theorem State.set_auxm (s : State) (f : Fld) (v : Nat) : (s.set f v).auxm = s.auxm := rfl
@[simp] theorem State.set_tap (s : State) (f : Fld) (v : Nat) : (s.set f v).tap = s.tap := rfl
@[simp] theorem State.set_whReq (s : State) (f : Fld) (v : Nat) : (s.set f v).whReq = s.whReq := rfl
@[simp] theorem State.set_plnWork (s : State) (f : Fld) (v : Nat) : (s.set f v).plnWork = s.plnWork := rfl
@[simp] theorem State.set_pending (s : State) (f : Fld) (v : Nat) : (s.set f v).pending = s.pending := rfl
@[simp] theorem State.set_ax (s : State) (f : Fld) (v : Nat) (x : Axis) : (s.set f v).ax x = s.ax x := rfl
@[simp] theorem State.set_mot (s : State) (f : Fld) (v : Nat) (x : Axis) : (s.set f v).mot x = s.mot x := rfl
@[simp] theorem State.set_gd (s : State) (f : Fld) (v : Nat) (x : Axis) : (s.set f v).gd x = s.gd x := rfl
@[simp] theorem State.set_fol (s : State) (f : Fld) (v : Nat) (x : Axis) : (s.set f v).fol x = s.fol x := rfl
@[simp] theorem State.set_pwm (s : State) (f : Fld) (v : Nat) (x : Axis) : (s.set f v).pwm x = s.pwm x := rfl
@[simp] theorem State.set_cc (s : State) (f : Fld) (v : Nat) (x : Axis) : (s.set f v).cc x = s.cc x := rfl
@[simp] theorem State.set_la (s : State) (f : Fld) (v : Nat) (x : Axis) : (s.set f v).la x = s.la x := rfl
@[simp] theorem State.set_core (s : State) (f : Fld) (v : Nat) (x : Axis) : (s.set f v).core x = s.core x := rfl
@[simp] theorem State.set_pd (s : State) (f : Fld) (v : Nat) (n : Nat) : (s.set f v).pd n = s.pd n := rfl

/-! ### `State.setB` -/

@[simp] theorem State.setB_now (s : State) (f : Fld) (b : Bool) : (s.setB f b).now = s.now := rfl
@[simp] theorem State.setB_freeCtr (s : State) (f : Fld) (b : Bool) : (s.setB f b).freeCtr = s.freeCtr := rfl
@[simp] theorem State.setB_axes (s : State) (f : Fld) (b : Bool) : (s.setB f b).axes = s.axes := rfl
@[simp] theorem State.setB_mch (s : State) (f : Fld) (b : Bool) : (s.setB f b).mch = s.mch := rfl
@[simp] theorem State.setB_wt (s : State) (f : Fld) (b : Bool) : (s.setB f b).wt = s.wt := rfl
@[simp] theorem State.setB_ms (s : State) (f : Fld) (b : Bool) : (s.setB f b).ms = s.ms := rfl
@[simp] theorem State.setB_ip (s : State) (f : Fld) (b : Bool) : (s.setB f b).ip = s.ip := rfl
@[simp] theorem State.setB_hp (s : State) (f : Fld) (b : Bool) : (s.setB f b).hp = s.hp := rfl
@[simp] theorem State.setB_aux (s : State) (f : Fld) (b : Bool) : (s.setB f b).aux = s.aux := rfl
@[simp] theorem State.setB_tb (s : State) (f : Fld) (b : Bool) : (s.setB f b).tb = s.tb := rfl
@[simp] theorem State.setB_pw (s : State) (f : Fld) (b : Bool) : (s.setB f b).pw = s.pw := rfl
@[simp] theorem State.setB_priv (s : State) (f : Fld) (b : Bool) : (s.setB f b).priv = s.priv := rfl
@[simp] theorem State.setB_bk (s : State) (f : Fld) (b : Bool) : (s.setB f b).bk = s.bk := rfl
@[simp] theorem State.setB_sec (s : State) (f : Fld) (b : Bool) : (s.setB f b).sec = s.sec := rfl
@[simp] theorem State.setB_lk (s : State) (f : Fld) (b : Bool) : (s.setB f b).lk = s.lk := rfl
@[simp] theorem State.setB_cv (s : State) (f : Fld) (b : Bool) : (s.setB f b).cv = s.cv := rfl
@[simp] theorem State.setB_wh (s : State) (f : Fld) (b : Bool) : (s.setB f b).wh = s.wh := rfl
@[simp] theorem State.setB_rst (s : State) (f : Fld) (b : Bool) : (s.setB f b).rst = s.rst := rfl
@[simp] theorem State.setB_auxm (s : State) (f : Fld) (b : Bool) : (s.setB f b).auxm = s.auxm := rfl
@[simp] theorem State.setB_tap (s : State) (f : Fld) (b : Bool) : (s.setB f b).tap = s.tap := rfl
@[simp] theorem State.setB_whReq (s : State) (f : Fld) (b : Bool) : (s.setB f b).whReq = s.whReq := rfl
@[simp] theorem State.setB_plnWork (s : State) (f : Fld) (b : Bool) : (s.setB f b).plnWork = s.plnWork := rfl
@[simp] theorem State.setB_pending (s : State) (f : Fld) (b : Bool) : (s.setB f b).pending = s.pending := rfl
@[simp] theorem State.setB_ax (s : State) (f : Fld) (b : Bool) (x : Axis) : (s.setB f b).ax x = s.ax x := rfl
@[simp] theorem State.setB_mot (s : State) (f : Fld) (b : Bool) (x : Axis) : (s.setB f b).mot x = s.mot x := rfl
@[simp] theorem State.setB_gd (s : State) (f : Fld) (b : Bool) (x : Axis) : (s.setB f b).gd x = s.gd x := rfl
@[simp] theorem State.setB_fol (s : State) (f : Fld) (b : Bool) (x : Axis) : (s.setB f b).fol x = s.fol x := rfl
@[simp] theorem State.setB_pwm (s : State) (f : Fld) (b : Bool) (x : Axis) : (s.setB f b).pwm x = s.pwm x := rfl
@[simp] theorem State.setB_cc (s : State) (f : Fld) (b : Bool) (x : Axis) : (s.setB f b).cc x = s.cc x := rfl
@[simp] theorem State.setB_la (s : State) (f : Fld) (b : Bool) (x : Axis) : (s.setB f b).la x = s.la x := rfl
@[simp] theorem State.setB_core (s : State) (f : Fld) (b : Bool) (x : Axis) : (s.setB f b).core x = s.core x := rfl
@[simp] theorem State.setB_pd (s : State) (f : Fld) (b : Bool) (n : Nat) : (s.setB f b).pd n = s.pd n := rfl

/-! ### `State.setS` -/

@[simp] theorem State.setS_now (s : State) (f : Fld) (v : Int) : (s.setS f v).now = s.now := rfl
@[simp] theorem State.setS_freeCtr (s : State) (f : Fld) (v : Int) : (s.setS f v).freeCtr = s.freeCtr := rfl
@[simp] theorem State.setS_axes (s : State) (f : Fld) (v : Int) : (s.setS f v).axes = s.axes := rfl
@[simp] theorem State.setS_mch (s : State) (f : Fld) (v : Int) : (s.setS f v).mch = s.mch := rfl
@[simp] theorem State.setS_wt (s : State) (f : Fld) (v : Int) : (s.setS f v).wt = s.wt := rfl
@[simp] theorem State.setS_ms (s : State) (f : Fld) (v : Int) : (s.setS f v).ms = s.ms := rfl
@[simp] theorem State.setS_ip (s : State) (f : Fld) (v : Int) : (s.setS f v).ip = s.ip := rfl
@[simp] theorem State.setS_hp (s : State) (f : Fld) (v : Int) : (s.setS f v).hp = s.hp := rfl
@[simp] theorem State.setS_aux (s : State) (f : Fld) (v : Int) : (s.setS f v).aux = s.aux := rfl
@[simp] theorem State.setS_tb (s : State) (f : Fld) (v : Int) : (s.setS f v).tb = s.tb := rfl
@[simp] theorem State.setS_pw (s : State) (f : Fld) (v : Int) : (s.setS f v).pw = s.pw := rfl
@[simp] theorem State.setS_priv (s : State) (f : Fld) (v : Int) : (s.setS f v).priv = s.priv := rfl
@[simp] theorem State.setS_bk (s : State) (f : Fld) (v : Int) : (s.setS f v).bk = s.bk := rfl
@[simp] theorem State.setS_sec (s : State) (f : Fld) (v : Int) : (s.setS f v).sec = s.sec := rfl
@[simp] theorem State.setS_lk (s : State) (f : Fld) (v : Int) : (s.setS f v).lk = s.lk := rfl
@[simp] theorem State.setS_cv (s : State) (f : Fld) (v : Int) : (s.setS f v).cv = s.cv := rfl
@[simp] theorem State.setS_wh (s : State) (f : Fld) (v : Int) : (s.setS f v).wh = s.wh := rfl
@[simp] theorem State.setS_rst (s : State) (f : Fld) (v : Int) : (s.setS f v).rst = s.rst := rfl
@[simp] theorem State.setS_auxm (s : State) (f : Fld) (v : Int) : (s.setS f v).auxm = s.auxm := rfl
@[simp] theorem State.setS_tap (s : State) (f : Fld) (v : Int) : (s.setS f v).tap = s.tap := rfl
@[simp] theorem State.setS_whReq (s : State) (f : Fld) (v : Int) : (s.setS f v).whReq = s.whReq := rfl
@[simp] theorem State.setS_plnWork (s : State) (f : Fld) (v : Int) : (s.setS f v).plnWork = s.plnWork := rfl
@[simp] theorem State.setS_pending (s : State) (f : Fld) (v : Int) : (s.setS f v).pending = s.pending := rfl
@[simp] theorem State.setS_ax (s : State) (f : Fld) (v : Int) (x : Axis) : (s.setS f v).ax x = s.ax x := rfl
@[simp] theorem State.setS_mot (s : State) (f : Fld) (v : Int) (x : Axis) : (s.setS f v).mot x = s.mot x := rfl
@[simp] theorem State.setS_gd (s : State) (f : Fld) (v : Int) (x : Axis) : (s.setS f v).gd x = s.gd x := rfl
@[simp] theorem State.setS_fol (s : State) (f : Fld) (v : Int) (x : Axis) : (s.setS f v).fol x = s.fol x := rfl
@[simp] theorem State.setS_pwm (s : State) (f : Fld) (v : Int) (x : Axis) : (s.setS f v).pwm x = s.pwm x := rfl
@[simp] theorem State.setS_cc (s : State) (f : Fld) (v : Int) (x : Axis) : (s.setS f v).cc x = s.cc x := rfl
@[simp] theorem State.setS_la (s : State) (f : Fld) (v : Int) (x : Axis) : (s.setS f v).la x = s.la x := rfl
@[simp] theorem State.setS_core (s : State) (f : Fld) (v : Int) (x : Axis) : (s.setS f v).core x = s.core x := rfl
@[simp] theorem State.setS_pd (s : State) (f : Fld) (v : Int) (n : Nat) : (s.setS f v).pd n = s.pd n := rfl

/-! ### `State.raise` -/

@[simp] theorem State.raise_now (s : State) (f : Fld) : (s.raise f).now = s.now := rfl
@[simp] theorem State.raise_freeCtr (s : State) (f : Fld) : (s.raise f).freeCtr = s.freeCtr := rfl
@[simp] theorem State.raise_axes (s : State) (f : Fld) : (s.raise f).axes = s.axes := rfl
@[simp] theorem State.raise_mch (s : State) (f : Fld) : (s.raise f).mch = s.mch := rfl
@[simp] theorem State.raise_wt (s : State) (f : Fld) : (s.raise f).wt = s.wt := rfl
@[simp] theorem State.raise_ms (s : State) (f : Fld) : (s.raise f).ms = s.ms := rfl
@[simp] theorem State.raise_ip (s : State) (f : Fld) : (s.raise f).ip = s.ip := rfl
@[simp] theorem State.raise_hp (s : State) (f : Fld) : (s.raise f).hp = s.hp := rfl
@[simp] theorem State.raise_aux (s : State) (f : Fld) : (s.raise f).aux = s.aux := rfl
@[simp] theorem State.raise_tb (s : State) (f : Fld) : (s.raise f).tb = s.tb := rfl
@[simp] theorem State.raise_pw (s : State) (f : Fld) : (s.raise f).pw = s.pw := rfl
@[simp] theorem State.raise_priv (s : State) (f : Fld) : (s.raise f).priv = s.priv := rfl
@[simp] theorem State.raise_bk (s : State) (f : Fld) : (s.raise f).bk = s.bk := rfl
@[simp] theorem State.raise_sec (s : State) (f : Fld) : (s.raise f).sec = s.sec := rfl
@[simp] theorem State.raise_lk (s : State) (f : Fld) : (s.raise f).lk = s.lk := rfl
@[simp] theorem State.raise_cv (s : State) (f : Fld) : (s.raise f).cv = s.cv := rfl
@[simp] theorem State.raise_wh (s : State) (f : Fld) : (s.raise f).wh = s.wh := rfl
@[simp] theorem State.raise_rst (s : State) (f : Fld) : (s.raise f).rst = s.rst := rfl
@[simp] theorem State.raise_auxm (s : State) (f : Fld) : (s.raise f).auxm = s.auxm := rfl
@[simp] theorem State.raise_tap (s : State) (f : Fld) : (s.raise f).tap = s.tap := rfl
@[simp] theorem State.raise_whReq (s : State) (f : Fld) : (s.raise f).whReq = s.whReq := rfl
@[simp] theorem State.raise_plnWork (s : State) (f : Fld) : (s.raise f).plnWork = s.plnWork := rfl
@[simp] theorem State.raise_pending (s : State) (f : Fld) : (s.raise f).pending = s.pending := rfl
@[simp] theorem State.raise_ax (s : State) (f : Fld) (x : Axis) : (s.raise f).ax x = s.ax x := rfl
@[simp] theorem State.raise_mot (s : State) (f : Fld) (x : Axis) : (s.raise f).mot x = s.mot x := rfl
@[simp] theorem State.raise_gd (s : State) (f : Fld) (x : Axis) : (s.raise f).gd x = s.gd x := rfl
@[simp] theorem State.raise_fol (s : State) (f : Fld) (x : Axis) : (s.raise f).fol x = s.fol x := rfl
@[simp] theorem State.raise_pwm (s : State) (f : Fld) (x : Axis) : (s.raise f).pwm x = s.pwm x := rfl
@[simp] theorem State.raise_cc (s : State) (f : Fld) (x : Axis) : (s.raise f).cc x = s.cc x := rfl
@[simp] theorem State.raise_la (s : State) (f : Fld) (x : Axis) : (s.raise f).la x = s.la x := rfl
@[simp] theorem State.raise_core (s : State) (f : Fld) (x : Axis) : (s.raise f).core x = s.core x := rfl
@[simp] theorem State.raise_pd (s : State) (f : Fld) (n : Nat) : (s.raise f).pd n = s.pd n := rfl

/-! ### `State.count` -/

@[simp] theorem State.count_now (s : State) (f : Fld) (n : Nat) : (s.count f n).now = s.now := rfl
@[simp] theorem State.count_freeCtr (s : State) (f : Fld) (n : Nat) : (s.count f n).freeCtr = s.freeCtr := rfl
@[simp] theorem State.count_axes (s : State) (f : Fld) (n : Nat) : (s.count f n).axes = s.axes := rfl
@[simp] theorem State.count_mch (s : State) (f : Fld) (n : Nat) : (s.count f n).mch = s.mch := rfl
@[simp] theorem State.count_wt (s : State) (f : Fld) (n : Nat) : (s.count f n).wt = s.wt := rfl
@[simp] theorem State.count_ms (s : State) (f : Fld) (n : Nat) : (s.count f n).ms = s.ms := rfl
@[simp] theorem State.count_ip (s : State) (f : Fld) (n : Nat) : (s.count f n).ip = s.ip := rfl
@[simp] theorem State.count_hp (s : State) (f : Fld) (n : Nat) : (s.count f n).hp = s.hp := rfl
@[simp] theorem State.count_aux (s : State) (f : Fld) (n : Nat) : (s.count f n).aux = s.aux := rfl
@[simp] theorem State.count_tb (s : State) (f : Fld) (n : Nat) : (s.count f n).tb = s.tb := rfl
@[simp] theorem State.count_pw (s : State) (f : Fld) (n : Nat) : (s.count f n).pw = s.pw := rfl
@[simp] theorem State.count_priv (s : State) (f : Fld) (n : Nat) : (s.count f n).priv = s.priv := rfl
@[simp] theorem State.count_bk (s : State) (f : Fld) (n : Nat) : (s.count f n).bk = s.bk := rfl
@[simp] theorem State.count_sec (s : State) (f : Fld) (n : Nat) : (s.count f n).sec = s.sec := rfl
@[simp] theorem State.count_lk (s : State) (f : Fld) (n : Nat) : (s.count f n).lk = s.lk := rfl
@[simp] theorem State.count_cv (s : State) (f : Fld) (n : Nat) : (s.count f n).cv = s.cv := rfl
@[simp] theorem State.count_wh (s : State) (f : Fld) (n : Nat) : (s.count f n).wh = s.wh := rfl
@[simp] theorem State.count_rst (s : State) (f : Fld) (n : Nat) : (s.count f n).rst = s.rst := rfl
@[simp] theorem State.count_auxm (s : State) (f : Fld) (n : Nat) : (s.count f n).auxm = s.auxm := rfl
@[simp] theorem State.count_tap (s : State) (f : Fld) (n : Nat) : (s.count f n).tap = s.tap := rfl
@[simp] theorem State.count_whReq (s : State) (f : Fld) (n : Nat) : (s.count f n).whReq = s.whReq := rfl
@[simp] theorem State.count_plnWork (s : State) (f : Fld) (n : Nat) : (s.count f n).plnWork = s.plnWork := rfl
@[simp] theorem State.count_pending (s : State) (f : Fld) (n : Nat) : (s.count f n).pending = s.pending := rfl
@[simp] theorem State.count_ax (s : State) (f : Fld) (n : Nat) (x : Axis) : (s.count f n).ax x = s.ax x := rfl
@[simp] theorem State.count_mot (s : State) (f : Fld) (n : Nat) (x : Axis) : (s.count f n).mot x = s.mot x := rfl
@[simp] theorem State.count_gd (s : State) (f : Fld) (n : Nat) (x : Axis) : (s.count f n).gd x = s.gd x := rfl
@[simp] theorem State.count_fol (s : State) (f : Fld) (n : Nat) (x : Axis) : (s.count f n).fol x = s.fol x := rfl
@[simp] theorem State.count_pwm (s : State) (f : Fld) (n : Nat) (x : Axis) : (s.count f n).pwm x = s.pwm x := rfl
@[simp] theorem State.count_cc (s : State) (f : Fld) (n : Nat) (x : Axis) : (s.count f n).cc x = s.cc x := rfl
@[simp] theorem State.count_la (s : State) (f : Fld) (n : Nat) (x : Axis) : (s.count f n).la x = s.la x := rfl
@[simp] theorem State.count_core (s : State) (f : Fld) (n : Nat) (x : Axis) : (s.count f n).core x = s.core x := rfl
@[simp] theorem State.count_pd (s : State) (f : Fld) (n : Nat) (k : Nat) : (s.count f n).pd k = s.pd k := rfl

/-! ### `State.inc` -/

@[simp] theorem State.inc_now (s : State) (f : Fld) : (s.inc f).now = s.now := rfl
@[simp] theorem State.inc_freeCtr (s : State) (f : Fld) : (s.inc f).freeCtr = s.freeCtr := rfl
@[simp] theorem State.inc_axes (s : State) (f : Fld) : (s.inc f).axes = s.axes := rfl
@[simp] theorem State.inc_mch (s : State) (f : Fld) : (s.inc f).mch = s.mch := rfl
@[simp] theorem State.inc_wt (s : State) (f : Fld) : (s.inc f).wt = s.wt := rfl
@[simp] theorem State.inc_ms (s : State) (f : Fld) : (s.inc f).ms = s.ms := rfl
@[simp] theorem State.inc_ip (s : State) (f : Fld) : (s.inc f).ip = s.ip := rfl
@[simp] theorem State.inc_hp (s : State) (f : Fld) : (s.inc f).hp = s.hp := rfl
@[simp] theorem State.inc_aux (s : State) (f : Fld) : (s.inc f).aux = s.aux := rfl
@[simp] theorem State.inc_tb (s : State) (f : Fld) : (s.inc f).tb = s.tb := rfl
@[simp] theorem State.inc_pw (s : State) (f : Fld) : (s.inc f).pw = s.pw := rfl
@[simp] theorem State.inc_priv (s : State) (f : Fld) : (s.inc f).priv = s.priv := rfl
@[simp] theorem State.inc_bk (s : State) (f : Fld) : (s.inc f).bk = s.bk := rfl
@[simp] theorem State.inc_sec (s : State) (f : Fld) : (s.inc f).sec = s.sec := rfl
@[simp] theorem State.inc_lk (s : State) (f : Fld) : (s.inc f).lk = s.lk := rfl
@[simp] theorem State.inc_cv (s : State) (f : Fld) : (s.inc f).cv = s.cv := rfl
@[simp] theorem State.inc_wh (s : State) (f : Fld) : (s.inc f).wh = s.wh := rfl
@[simp] theorem State.inc_rst (s : State) (f : Fld) : (s.inc f).rst = s.rst := rfl
@[simp] theorem State.inc_auxm (s : State) (f : Fld) : (s.inc f).auxm = s.auxm := rfl
@[simp] theorem State.inc_tap (s : State) (f : Fld) : (s.inc f).tap = s.tap := rfl
@[simp] theorem State.inc_whReq (s : State) (f : Fld) : (s.inc f).whReq = s.whReq := rfl
@[simp] theorem State.inc_plnWork (s : State) (f : Fld) : (s.inc f).plnWork = s.plnWork := rfl
@[simp] theorem State.inc_pending (s : State) (f : Fld) : (s.inc f).pending = s.pending := rfl
@[simp] theorem State.inc_ax (s : State) (f : Fld) (x : Axis) : (s.inc f).ax x = s.ax x := rfl
@[simp] theorem State.inc_mot (s : State) (f : Fld) (x : Axis) : (s.inc f).mot x = s.mot x := rfl
@[simp] theorem State.inc_gd (s : State) (f : Fld) (x : Axis) : (s.inc f).gd x = s.gd x := rfl
@[simp] theorem State.inc_fol (s : State) (f : Fld) (x : Axis) : (s.inc f).fol x = s.fol x := rfl
@[simp] theorem State.inc_pwm (s : State) (f : Fld) (x : Axis) : (s.inc f).pwm x = s.pwm x := rfl
@[simp] theorem State.inc_cc (s : State) (f : Fld) (x : Axis) : (s.inc f).cc x = s.cc x := rfl
@[simp] theorem State.inc_la (s : State) (f : Fld) (x : Axis) : (s.inc f).la x = s.la x := rfl
@[simp] theorem State.inc_core (s : State) (f : Fld) (x : Axis) : (s.inc f).core x = s.core x := rfl
@[simp] theorem State.inc_pd (s : State) (f : Fld) (n : Nat) : (s.inc f).pd n = s.pd n := rfl

/-! ### `State.mark` -/

@[simp] theorem State.mark_now (s : State) (f : Fld) (v : Nat) : (s.mark f v).now = s.now := rfl
@[simp] theorem State.mark_freeCtr (s : State) (f : Fld) (v : Nat) : (s.mark f v).freeCtr = s.freeCtr := rfl
@[simp] theorem State.mark_axes (s : State) (f : Fld) (v : Nat) : (s.mark f v).axes = s.axes := rfl
@[simp] theorem State.mark_mch (s : State) (f : Fld) (v : Nat) : (s.mark f v).mch = s.mch := rfl
@[simp] theorem State.mark_wt (s : State) (f : Fld) (v : Nat) : (s.mark f v).wt = s.wt := rfl
@[simp] theorem State.mark_ms (s : State) (f : Fld) (v : Nat) : (s.mark f v).ms = s.ms := rfl
@[simp] theorem State.mark_ip (s : State) (f : Fld) (v : Nat) : (s.mark f v).ip = s.ip := rfl
@[simp] theorem State.mark_hp (s : State) (f : Fld) (v : Nat) : (s.mark f v).hp = s.hp := rfl
@[simp] theorem State.mark_aux (s : State) (f : Fld) (v : Nat) : (s.mark f v).aux = s.aux := rfl
@[simp] theorem State.mark_tb (s : State) (f : Fld) (v : Nat) : (s.mark f v).tb = s.tb := rfl
@[simp] theorem State.mark_pw (s : State) (f : Fld) (v : Nat) : (s.mark f v).pw = s.pw := rfl
@[simp] theorem State.mark_priv (s : State) (f : Fld) (v : Nat) : (s.mark f v).priv = s.priv := rfl
@[simp] theorem State.mark_bk (s : State) (f : Fld) (v : Nat) : (s.mark f v).bk = s.bk := rfl
@[simp] theorem State.mark_sec (s : State) (f : Fld) (v : Nat) : (s.mark f v).sec = s.sec := rfl
@[simp] theorem State.mark_lk (s : State) (f : Fld) (v : Nat) : (s.mark f v).lk = s.lk := rfl
@[simp] theorem State.mark_cv (s : State) (f : Fld) (v : Nat) : (s.mark f v).cv = s.cv := rfl
@[simp] theorem State.mark_wh (s : State) (f : Fld) (v : Nat) : (s.mark f v).wh = s.wh := rfl
@[simp] theorem State.mark_rst (s : State) (f : Fld) (v : Nat) : (s.mark f v).rst = s.rst := rfl
@[simp] theorem State.mark_auxm (s : State) (f : Fld) (v : Nat) : (s.mark f v).auxm = s.auxm := rfl
@[simp] theorem State.mark_tap (s : State) (f : Fld) (v : Nat) : (s.mark f v).tap = s.tap := rfl
@[simp] theorem State.mark_whReq (s : State) (f : Fld) (v : Nat) : (s.mark f v).whReq = s.whReq := rfl
@[simp] theorem State.mark_plnWork (s : State) (f : Fld) (v : Nat) : (s.mark f v).plnWork = s.plnWork := rfl
@[simp] theorem State.mark_pending (s : State) (f : Fld) (v : Nat) : (s.mark f v).pending = s.pending := rfl
@[simp] theorem State.mark_ax (s : State) (f : Fld) (v : Nat) (x : Axis) : (s.mark f v).ax x = s.ax x := rfl
@[simp] theorem State.mark_mot (s : State) (f : Fld) (v : Nat) (x : Axis) : (s.mark f v).mot x = s.mot x := rfl
@[simp] theorem State.mark_gd (s : State) (f : Fld) (v : Nat) (x : Axis) : (s.mark f v).gd x = s.gd x := rfl
@[simp] theorem State.mark_fol (s : State) (f : Fld) (v : Nat) (x : Axis) : (s.mark f v).fol x = s.fol x := rfl
@[simp] theorem State.mark_pwm (s : State) (f : Fld) (v : Nat) (x : Axis) : (s.mark f v).pwm x = s.pwm x := rfl
@[simp] theorem State.mark_cc (s : State) (f : Fld) (v : Nat) (x : Axis) : (s.mark f v).cc x = s.cc x := rfl
@[simp] theorem State.mark_la (s : State) (f : Fld) (v : Nat) (x : Axis) : (s.mark f v).la x = s.la x := rfl
@[simp] theorem State.mark_core (s : State) (f : Fld) (v : Nat) (x : Axis) : (s.mark f v).core x = s.core x := rfl
@[simp] theorem State.mark_pd (s : State) (f : Fld) (v : Nat) (n : Nat) : (s.mark f v).pd n = s.pd n := rfl

/-! ### `State.setWord` -/

@[simp] theorem State.setWord_now (s : State) (a : Nat) (w : Word) : (s.setWord a w).now = s.now := rfl
@[simp] theorem State.setWord_freeCtr (s : State) (a : Nat) (w : Word) : (s.setWord a w).freeCtr = s.freeCtr := rfl
@[simp] theorem State.setWord_axes (s : State) (a : Nat) (w : Word) : (s.setWord a w).axes = s.axes := rfl
@[simp] theorem State.setWord_mch (s : State) (a : Nat) (w : Word) : (s.setWord a w).mch = s.mch := rfl
@[simp] theorem State.setWord_wt (s : State) (a : Nat) (w : Word) : (s.setWord a w).wt = s.wt := rfl
@[simp] theorem State.setWord_ms (s : State) (a : Nat) (w : Word) : (s.setWord a w).ms = s.ms := rfl
@[simp] theorem State.setWord_ip (s : State) (a : Nat) (w : Word) : (s.setWord a w).ip = s.ip := rfl
@[simp] theorem State.setWord_hp (s : State) (a : Nat) (w : Word) : (s.setWord a w).hp = s.hp := rfl
@[simp] theorem State.setWord_aux (s : State) (a : Nat) (w : Word) : (s.setWord a w).aux = s.aux := rfl
@[simp] theorem State.setWord_tb (s : State) (a : Nat) (w : Word) : (s.setWord a w).tb = s.tb := rfl
@[simp] theorem State.setWord_pw (s : State) (a : Nat) (w : Word) : (s.setWord a w).pw = s.pw := rfl
@[simp] theorem State.setWord_priv (s : State) (a : Nat) (w : Word) : (s.setWord a w).priv = s.priv := rfl
@[simp] theorem State.setWord_bk (s : State) (a : Nat) (w : Word) : (s.setWord a w).bk = s.bk := rfl
@[simp] theorem State.setWord_sec (s : State) (a : Nat) (w : Word) : (s.setWord a w).sec = s.sec := rfl
@[simp] theorem State.setWord_lk (s : State) (a : Nat) (w : Word) : (s.setWord a w).lk = s.lk := rfl
@[simp] theorem State.setWord_cv (s : State) (a : Nat) (w : Word) : (s.setWord a w).cv = s.cv := rfl
@[simp] theorem State.setWord_wh (s : State) (a : Nat) (w : Word) : (s.setWord a w).wh = s.wh := rfl
@[simp] theorem State.setWord_rst (s : State) (a : Nat) (w : Word) : (s.setWord a w).rst = s.rst := rfl
@[simp] theorem State.setWord_auxm (s : State) (a : Nat) (w : Word) : (s.setWord a w).auxm = s.auxm := rfl
@[simp] theorem State.setWord_tap (s : State) (a : Nat) (w : Word) : (s.setWord a w).tap = s.tap := rfl
@[simp] theorem State.setWord_whReq (s : State) (a : Nat) (w : Word) : (s.setWord a w).whReq = s.whReq := rfl
@[simp] theorem State.setWord_plnWork (s : State) (a : Nat) (w : Word) : (s.setWord a w).plnWork = s.plnWork := rfl
@[simp] theorem State.setWord_pending (s : State) (a : Nat) (w : Word) : (s.setWord a w).pending = s.pending := rfl
@[simp] theorem State.setWord_ax (s : State) (a : Nat) (w : Word) (x : Axis) : (s.setWord a w).ax x = s.ax x := rfl
@[simp] theorem State.setWord_mot (s : State) (a : Nat) (w : Word) (x : Axis) : (s.setWord a w).mot x = s.mot x := rfl
@[simp] theorem State.setWord_gd (s : State) (a : Nat) (w : Word) (x : Axis) : (s.setWord a w).gd x = s.gd x := rfl
@[simp] theorem State.setWord_fol (s : State) (a : Nat) (w : Word) (x : Axis) : (s.setWord a w).fol x = s.fol x := rfl
@[simp] theorem State.setWord_pwm (s : State) (a : Nat) (w : Word) (x : Axis) : (s.setWord a w).pwm x = s.pwm x := rfl
@[simp] theorem State.setWord_cc (s : State) (a : Nat) (w : Word) (x : Axis) : (s.setWord a w).cc x = s.cc x := rfl
@[simp] theorem State.setWord_la (s : State) (a : Nat) (w : Word) (x : Axis) : (s.setWord a w).la x = s.la x := rfl
@[simp] theorem State.setWord_core (s : State) (a : Nat) (w : Word) (x : Axis) : (s.setWord a w).core x = s.core x := rfl
@[simp] theorem State.setWord_pd (s : State) (a : Nat) (w : Word) (n : Nat) : (s.setWord a w).pd n = s.pd n := rfl

/-! ### `State.at_` -/

@[simp] theorem State.at_freeCtr (s : State) (t : Nat) : (s.at_ t).freeCtr = s.freeCtr := rfl
@[simp] theorem State.at_regs (s : State) (t : Nat) : (s.at_ t).regs = s.regs := rfl
@[simp] theorem State.at_axes (s : State) (t : Nat) : (s.at_ t).axes = s.axes := rfl
@[simp] theorem State.at_mch (s : State) (t : Nat) : (s.at_ t).mch = s.mch := rfl
@[simp] theorem State.at_wt (s : State) (t : Nat) : (s.at_ t).wt = s.wt := rfl
@[simp] theorem State.at_ms (s : State) (t : Nat) : (s.at_ t).ms = s.ms := rfl
@[simp] theorem State.at_ip (s : State) (t : Nat) : (s.at_ t).ip = s.ip := rfl
@[simp] theorem State.at_hp (s : State) (t : Nat) : (s.at_ t).hp = s.hp := rfl
@[simp] theorem State.at_aux (s : State) (t : Nat) : (s.at_ t).aux = s.aux := rfl
@[simp] theorem State.at_tb (s : State) (t : Nat) : (s.at_ t).tb = s.tb := rfl
@[simp] theorem State.at_pw (s : State) (t : Nat) : (s.at_ t).pw = s.pw := rfl
@[simp] theorem State.at_priv (s : State) (t : Nat) : (s.at_ t).priv = s.priv := rfl
@[simp] theorem State.at_bk (s : State) (t : Nat) : (s.at_ t).bk = s.bk := rfl
@[simp] theorem State.at_sec (s : State) (t : Nat) : (s.at_ t).sec = s.sec := rfl
@[simp] theorem State.at_lk (s : State) (t : Nat) : (s.at_ t).lk = s.lk := rfl
@[simp] theorem State.at_cv (s : State) (t : Nat) : (s.at_ t).cv = s.cv := rfl
@[simp] theorem State.at_wh (s : State) (t : Nat) : (s.at_ t).wh = s.wh := rfl
@[simp] theorem State.at_rst (s : State) (t : Nat) : (s.at_ t).rst = s.rst := rfl
@[simp] theorem State.at_auxm (s : State) (t : Nat) : (s.at_ t).auxm = s.auxm := rfl
@[simp] theorem State.at_tap (s : State) (t : Nat) : (s.at_ t).tap = s.tap := rfl
@[simp] theorem State.at_whReq (s : State) (t : Nat) : (s.at_ t).whReq = s.whReq := rfl
@[simp] theorem State.at_plnWork (s : State) (t : Nat) : (s.at_ t).plnWork = s.plnWork := rfl
@[simp] theorem State.at_pending (s : State) (t : Nat) : (s.at_ t).pending = s.pending := rfl
@[simp] theorem State.at_ax (s : State) (t : Nat) (x : Axis) : (s.at_ t).ax x = s.ax x := rfl
@[simp] theorem State.at_mot (s : State) (t : Nat) (x : Axis) : (s.at_ t).mot x = s.mot x := rfl
@[simp] theorem State.at_gd (s : State) (t : Nat) (x : Axis) : (s.at_ t).gd x = s.gd x := rfl
@[simp] theorem State.at_fol (s : State) (t : Nat) (x : Axis) : (s.at_ t).fol x = s.fol x := rfl
@[simp] theorem State.at_pwm (s : State) (t : Nat) (x : Axis) : (s.at_ t).pwm x = s.pwm x := rfl
@[simp] theorem State.at_cc (s : State) (t : Nat) (x : Axis) : (s.at_ t).cc x = s.cc x := rfl
@[simp] theorem State.at_la (s : State) (t : Nat) (x : Axis) : (s.at_ t).la x = s.la x := rfl
@[simp] theorem State.at_core (s : State) (t : Nat) (x : Axis) : (s.at_ t).core x = s.core x := rfl
@[simp] theorem State.at_get (s : State) (t : Nat) (g : Fld) : (s.at_ t).get g = s.get g := rfl
@[simp] theorem State.at_flag (s : State) (t : Nat) (g : Fld) : (s.at_ t).flag g = s.flag g := rfl
@[simp] theorem State.at_pd (s : State) (t : Nat) (n : Nat) : (s.at_ t).pd n = s.pd n := rfl

/-! ### `State.modAx` -/

@[simp] theorem State.modAx_now (s : State) (a : Axis) (f : AxisSt → AxisSt) : (s.modAx a f).now = s.now := rfl
@[simp] theorem State.modAx_freeCtr (s : State) (a : Axis) (f : AxisSt → AxisSt) : (s.modAx a f).freeCtr = s.freeCtr := rfl
@[simp] theorem State.modAx_regs (s : State) (a : Axis) (f : AxisSt → AxisSt) : (s.modAx a f).regs = s.regs := rfl
@[simp] theorem State.modAx_mch (s : State) (a : Axis) (f : AxisSt → AxisSt) : (s.modAx a f).mch = s.mch := rfl
@[simp] theorem State.modAx_wt (s : State) (a : Axis) (f : AxisSt → AxisSt) : (s.modAx a f).wt = s.wt := rfl
@[simp] theorem State.modAx_ms (s : State) (a : Axis) (f : AxisSt → AxisSt) : (s.modAx a f).ms = s.ms := rfl
@[simp] theorem State.modAx_ip (s : State) (a : Axis) (f : AxisSt → AxisSt) : (s.modAx a f).ip = s.ip := rfl
@[simp] theorem State.modAx_hp (s : State) (a : Axis) (f : AxisSt → AxisSt) : (s.modAx a f).hp = s.hp := rfl
@[simp] theorem State.modAx_aux (s : State) (a : Axis) (f : AxisSt → AxisSt) : (s.modAx a f).aux = s.aux := rfl
@[simp] theorem State.modAx_tb (s : State) (a : Axis) (f : AxisSt → AxisSt) : (s.modAx a f).tb = s.tb := rfl
@[simp] theorem State.modAx_pw (s : State) (a : Axis) (f : AxisSt → AxisSt) : (s.modAx a f).pw = s.pw := rfl
@[simp] theorem State.modAx_priv (s : State) (a : Axis) (f : AxisSt → AxisSt) : (s.modAx a f).priv = s.priv := rfl
@[simp] theorem State.modAx_bk (s : State) (a : Axis) (f : AxisSt → AxisSt) : (s.modAx a f).bk = s.bk := rfl
@[simp] theorem State.modAx_sec (s : State) (a : Axis) (f : AxisSt → AxisSt) : (s.modAx a f).sec = s.sec := rfl
@[simp] theorem State.modAx_lk (s : State) (a : Axis) (f : AxisSt → AxisSt) : (s.modAx a f).lk = s.lk := rfl
@[simp] theorem State.modAx_cv (s : State) (a : Axis) (f : AxisSt → AxisSt) : (s.modAx a f).cv = s.cv := rfl
@[simp] theorem State.modAx_wh (s : State) (a : Axis) (f : AxisSt → AxisSt) : (s.modAx a f).wh = s.wh := rfl
@[simp] theorem State.modAx_rst (s : State) (a : Axis) (f : AxisSt → AxisSt) : (s.modAx a f).rst = s.rst := rfl
@[simp] theorem State.modAx_auxm (s : State) (a : Axis) (f : AxisSt → AxisSt) : (s.modAx a f).auxm = s.auxm := rfl
@[simp] theorem State.modAx_tap (s : State) (a : Axis) (f : AxisSt → AxisSt) : (s.modAx a f).tap = s.tap := rfl
@[simp] theorem State.modAx_whReq (s : State) (a : Axis) (f : AxisSt → AxisSt) : (s.modAx a f).whReq = s.whReq := rfl
@[simp] theorem State.modAx_plnWork (s : State) (a : Axis) (f : AxisSt → AxisSt) : (s.modAx a f).plnWork = s.plnWork := rfl
@[simp] theorem State.modAx_pending (s : State) (a : Axis) (f : AxisSt → AxisSt) : (s.modAx a f).pending = s.pending := rfl
@[simp] theorem State.modAx_get (s : State) (a : Axis) (f : AxisSt → AxisSt) (g : Fld) : (s.modAx a f).get g = s.get g := rfl
@[simp] theorem State.modAx_flag (s : State) (a : Axis) (f : AxisSt → AxisSt) (g : Fld) : (s.modAx a f).flag g = s.flag g := rfl
@[simp] theorem State.modAx_pd (s : State) (a : Axis) (f : AxisSt → AxisSt) (n : Nat) : (s.modAx a f).pd n = s.pd n := rfl

/-! ### `State.modMot` -/

@[simp] theorem State.modMot_now (s : State) (a : Axis) (f : MotionSt → MotionSt) : (s.modMot a f).now = s.now := rfl
@[simp] theorem State.modMot_freeCtr (s : State) (a : Axis) (f : MotionSt → MotionSt) : (s.modMot a f).freeCtr = s.freeCtr := rfl
@[simp] theorem State.modMot_regs (s : State) (a : Axis) (f : MotionSt → MotionSt) : (s.modMot a f).regs = s.regs := rfl
@[simp] theorem State.modMot_mch (s : State) (a : Axis) (f : MotionSt → MotionSt) : (s.modMot a f).mch = s.mch := rfl
@[simp] theorem State.modMot_wt (s : State) (a : Axis) (f : MotionSt → MotionSt) : (s.modMot a f).wt = s.wt := rfl
@[simp] theorem State.modMot_ms (s : State) (a : Axis) (f : MotionSt → MotionSt) : (s.modMot a f).ms = s.ms := rfl
@[simp] theorem State.modMot_ip (s : State) (a : Axis) (f : MotionSt → MotionSt) : (s.modMot a f).ip = s.ip := rfl
@[simp] theorem State.modMot_hp (s : State) (a : Axis) (f : MotionSt → MotionSt) : (s.modMot a f).hp = s.hp := rfl
@[simp] theorem State.modMot_aux (s : State) (a : Axis) (f : MotionSt → MotionSt) : (s.modMot a f).aux = s.aux := rfl
@[simp] theorem State.modMot_tb (s : State) (a : Axis) (f : MotionSt → MotionSt) : (s.modMot a f).tb = s.tb := rfl
@[simp] theorem State.modMot_pw (s : State) (a : Axis) (f : MotionSt → MotionSt) : (s.modMot a f).pw = s.pw := rfl
@[simp] theorem State.modMot_priv (s : State) (a : Axis) (f : MotionSt → MotionSt) : (s.modMot a f).priv = s.priv := rfl
@[simp] theorem State.modMot_bk (s : State) (a : Axis) (f : MotionSt → MotionSt) : (s.modMot a f).bk = s.bk := rfl
@[simp] theorem State.modMot_sec (s : State) (a : Axis) (f : MotionSt → MotionSt) : (s.modMot a f).sec = s.sec := rfl
@[simp] theorem State.modMot_lk (s : State) (a : Axis) (f : MotionSt → MotionSt) : (s.modMot a f).lk = s.lk := rfl
@[simp] theorem State.modMot_cv (s : State) (a : Axis) (f : MotionSt → MotionSt) : (s.modMot a f).cv = s.cv := rfl
@[simp] theorem State.modMot_wh (s : State) (a : Axis) (f : MotionSt → MotionSt) : (s.modMot a f).wh = s.wh := rfl
@[simp] theorem State.modMot_rst (s : State) (a : Axis) (f : MotionSt → MotionSt) : (s.modMot a f).rst = s.rst := rfl
@[simp] theorem State.modMot_auxm (s : State) (a : Axis) (f : MotionSt → MotionSt) : (s.modMot a f).auxm = s.auxm := rfl
@[simp] theorem State.modMot_tap (s : State) (a : Axis) (f : MotionSt → MotionSt) : (s.modMot a f).tap = s.tap := rfl
@[simp] theorem State.modMot_whReq (s : State) (a : Axis) (f : MotionSt → MotionSt) : (s.modMot a f).whReq = s.whReq := rfl
@[simp] theorem State.modMot_plnWork (s : State) (a : Axis) (f : MotionSt → MotionSt) : (s.modMot a f).plnWork = s.plnWork := rfl
@[simp] theorem State.modMot_pending (s : State) (a : Axis) (f : MotionSt → MotionSt) : (s.modMot a f).pending = s.pending := rfl
@[simp] theorem State.modMot_get (s : State) (a : Axis) (f : MotionSt → MotionSt) (g : Fld) : (s.modMot a f).get g = s.get g := rfl
@[simp] theorem State.modMot_flag (s : State) (a : Axis) (f : MotionSt → MotionSt) (g : Fld) : (s.modMot a f).flag g = s.flag g := rfl
@[simp] theorem State.modMot_pd (s : State) (a : Axis) (f : MotionSt → MotionSt) (n : Nat) : (s.modMot a f).pd n = s.pd n := rfl

/-! ### `State.modGd` -/

@[simp] theorem State.modGd_now (s : State) (a : Axis) (f : GateSt → GateSt) : (s.modGd a f).now = s.now := rfl
@[simp] theorem State.modGd_freeCtr (s : State) (a : Axis) (f : GateSt → GateSt) : (s.modGd a f).freeCtr = s.freeCtr := rfl
@[simp] theorem State.modGd_regs (s : State) (a : Axis) (f : GateSt → GateSt) : (s.modGd a f).regs = s.regs := rfl
@[simp] theorem State.modGd_mch (s : State) (a : Axis) (f : GateSt → GateSt) : (s.modGd a f).mch = s.mch := rfl
@[simp] theorem State.modGd_wt (s : State) (a : Axis) (f : GateSt → GateSt) : (s.modGd a f).wt = s.wt := rfl
@[simp] theorem State.modGd_ms (s : State) (a : Axis) (f : GateSt → GateSt) : (s.modGd a f).ms = s.ms := rfl
@[simp] theorem State.modGd_ip (s : State) (a : Axis) (f : GateSt → GateSt) : (s.modGd a f).ip = s.ip := rfl
@[simp] theorem State.modGd_hp (s : State) (a : Axis) (f : GateSt → GateSt) : (s.modGd a f).hp = s.hp := rfl
@[simp] theorem State.modGd_aux (s : State) (a : Axis) (f : GateSt → GateSt) : (s.modGd a f).aux = s.aux := rfl
@[simp] theorem State.modGd_tb (s : State) (a : Axis) (f : GateSt → GateSt) : (s.modGd a f).tb = s.tb := rfl
@[simp] theorem State.modGd_pw (s : State) (a : Axis) (f : GateSt → GateSt) : (s.modGd a f).pw = s.pw := rfl
@[simp] theorem State.modGd_priv (s : State) (a : Axis) (f : GateSt → GateSt) : (s.modGd a f).priv = s.priv := rfl
@[simp] theorem State.modGd_bk (s : State) (a : Axis) (f : GateSt → GateSt) : (s.modGd a f).bk = s.bk := rfl
@[simp] theorem State.modGd_sec (s : State) (a : Axis) (f : GateSt → GateSt) : (s.modGd a f).sec = s.sec := rfl
@[simp] theorem State.modGd_lk (s : State) (a : Axis) (f : GateSt → GateSt) : (s.modGd a f).lk = s.lk := rfl
@[simp] theorem State.modGd_cv (s : State) (a : Axis) (f : GateSt → GateSt) : (s.modGd a f).cv = s.cv := rfl
@[simp] theorem State.modGd_wh (s : State) (a : Axis) (f : GateSt → GateSt) : (s.modGd a f).wh = s.wh := rfl
@[simp] theorem State.modGd_rst (s : State) (a : Axis) (f : GateSt → GateSt) : (s.modGd a f).rst = s.rst := rfl
@[simp] theorem State.modGd_auxm (s : State) (a : Axis) (f : GateSt → GateSt) : (s.modGd a f).auxm = s.auxm := rfl
@[simp] theorem State.modGd_tap (s : State) (a : Axis) (f : GateSt → GateSt) : (s.modGd a f).tap = s.tap := rfl
@[simp] theorem State.modGd_whReq (s : State) (a : Axis) (f : GateSt → GateSt) : (s.modGd a f).whReq = s.whReq := rfl
@[simp] theorem State.modGd_plnWork (s : State) (a : Axis) (f : GateSt → GateSt) : (s.modGd a f).plnWork = s.plnWork := rfl
@[simp] theorem State.modGd_pending (s : State) (a : Axis) (f : GateSt → GateSt) : (s.modGd a f).pending = s.pending := rfl
@[simp] theorem State.modGd_get (s : State) (a : Axis) (f : GateSt → GateSt) (g : Fld) : (s.modGd a f).get g = s.get g := rfl
@[simp] theorem State.modGd_flag (s : State) (a : Axis) (f : GateSt → GateSt) (g : Fld) : (s.modGd a f).flag g = s.flag g := rfl
@[simp] theorem State.modGd_pd (s : State) (a : Axis) (f : GateSt → GateSt) (n : Nat) : (s.modGd a f).pd n = s.pd n := rfl

/-! ### `State.modFol` -/

@[simp] theorem State.modFol_now (s : State) (a : Axis) (f : FollowSt → FollowSt) : (s.modFol a f).now = s.now := rfl
@[simp] theorem State.modFol_freeCtr (s : State) (a : Axis) (f : FollowSt → FollowSt) : (s.modFol a f).freeCtr = s.freeCtr := rfl
@[simp] theorem State.modFol_regs (s : State) (a : Axis) (f : FollowSt → FollowSt) : (s.modFol a f).regs = s.regs := rfl
@[simp] theorem State.modFol_mch (s : State) (a : Axis) (f : FollowSt → FollowSt) : (s.modFol a f).mch = s.mch := rfl
@[simp] theorem State.modFol_wt (s : State) (a : Axis) (f : FollowSt → FollowSt) : (s.modFol a f).wt = s.wt := rfl
@[simp] theorem State.modFol_ms (s : State) (a : Axis) (f : FollowSt → FollowSt) : (s.modFol a f).ms = s.ms := rfl
@[simp] theorem State.modFol_ip (s : State) (a : Axis) (f : FollowSt → FollowSt) : (s.modFol a f).ip = s.ip := rfl
@[simp] theorem State.modFol_hp (s : State) (a : Axis) (f : FollowSt → FollowSt) : (s.modFol a f).hp = s.hp := rfl
@[simp] theorem State.modFol_aux (s : State) (a : Axis) (f : FollowSt → FollowSt) : (s.modFol a f).aux = s.aux := rfl
@[simp] theorem State.modFol_tb (s : State) (a : Axis) (f : FollowSt → FollowSt) : (s.modFol a f).tb = s.tb := rfl
@[simp] theorem State.modFol_pw (s : State) (a : Axis) (f : FollowSt → FollowSt) : (s.modFol a f).pw = s.pw := rfl
@[simp] theorem State.modFol_priv (s : State) (a : Axis) (f : FollowSt → FollowSt) : (s.modFol a f).priv = s.priv := rfl
@[simp] theorem State.modFol_bk (s : State) (a : Axis) (f : FollowSt → FollowSt) : (s.modFol a f).bk = s.bk := rfl
@[simp] theorem State.modFol_sec (s : State) (a : Axis) (f : FollowSt → FollowSt) : (s.modFol a f).sec = s.sec := rfl
@[simp] theorem State.modFol_lk (s : State) (a : Axis) (f : FollowSt → FollowSt) : (s.modFol a f).lk = s.lk := rfl
@[simp] theorem State.modFol_cv (s : State) (a : Axis) (f : FollowSt → FollowSt) : (s.modFol a f).cv = s.cv := rfl
@[simp] theorem State.modFol_wh (s : State) (a : Axis) (f : FollowSt → FollowSt) : (s.modFol a f).wh = s.wh := rfl
@[simp] theorem State.modFol_rst (s : State) (a : Axis) (f : FollowSt → FollowSt) : (s.modFol a f).rst = s.rst := rfl
@[simp] theorem State.modFol_auxm (s : State) (a : Axis) (f : FollowSt → FollowSt) : (s.modFol a f).auxm = s.auxm := rfl
@[simp] theorem State.modFol_tap (s : State) (a : Axis) (f : FollowSt → FollowSt) : (s.modFol a f).tap = s.tap := rfl
@[simp] theorem State.modFol_whReq (s : State) (a : Axis) (f : FollowSt → FollowSt) : (s.modFol a f).whReq = s.whReq := rfl
@[simp] theorem State.modFol_plnWork (s : State) (a : Axis) (f : FollowSt → FollowSt) : (s.modFol a f).plnWork = s.plnWork := rfl
@[simp] theorem State.modFol_pending (s : State) (a : Axis) (f : FollowSt → FollowSt) : (s.modFol a f).pending = s.pending := rfl
@[simp] theorem State.modFol_get (s : State) (a : Axis) (f : FollowSt → FollowSt) (g : Fld) : (s.modFol a f).get g = s.get g := rfl
@[simp] theorem State.modFol_flag (s : State) (a : Axis) (f : FollowSt → FollowSt) (g : Fld) : (s.modFol a f).flag g = s.flag g := rfl
@[simp] theorem State.modFol_pd (s : State) (a : Axis) (f : FollowSt → FollowSt) (n : Nat) : (s.modFol a f).pd n = s.pd n := rfl

/-! ### `State.modPwm` -/

@[simp] theorem State.modPwm_now (s : State) (a : Axis) (f : PwmSt → PwmSt) : (s.modPwm a f).now = s.now := rfl
@[simp] theorem State.modPwm_freeCtr (s : State) (a : Axis) (f : PwmSt → PwmSt) : (s.modPwm a f).freeCtr = s.freeCtr := rfl
@[simp] theorem State.modPwm_regs (s : State) (a : Axis) (f : PwmSt → PwmSt) : (s.modPwm a f).regs = s.regs := rfl
@[simp] theorem State.modPwm_mch (s : State) (a : Axis) (f : PwmSt → PwmSt) : (s.modPwm a f).mch = s.mch := rfl
@[simp] theorem State.modPwm_wt (s : State) (a : Axis) (f : PwmSt → PwmSt) : (s.modPwm a f).wt = s.wt := rfl
@[simp] theorem State.modPwm_ms (s : State) (a : Axis) (f : PwmSt → PwmSt) : (s.modPwm a f).ms = s.ms := rfl
@[simp] theorem State.modPwm_ip (s : State) (a : Axis) (f : PwmSt → PwmSt) : (s.modPwm a f).ip = s.ip := rfl
@[simp] theorem State.modPwm_hp (s : State) (a : Axis) (f : PwmSt → PwmSt) : (s.modPwm a f).hp = s.hp := rfl
@[simp] theorem State.modPwm_aux (s : State) (a : Axis) (f : PwmSt → PwmSt) : (s.modPwm a f).aux = s.aux := rfl
@[simp] theorem State.modPwm_tb (s : State) (a : Axis) (f : PwmSt → PwmSt) : (s.modPwm a f).tb = s.tb := rfl
@[simp] theorem State.modPwm_pw (s : State) (a : Axis) (f : PwmSt → PwmSt) : (s.modPwm a f).pw = s.pw := rfl
@[simp] theorem State.modPwm_priv (s : State) (a : Axis) (f : PwmSt → PwmSt) : (s.modPwm a f).priv = s.priv := rfl
@[simp] theorem State.modPwm_bk (s : State) (a : Axis) (f : PwmSt → PwmSt) : (s.modPwm a f).bk = s.bk := rfl
@[simp] theorem State.modPwm_sec (s : State) (a : Axis) (f : PwmSt → PwmSt) : (s.modPwm a f).sec = s.sec := rfl
@[simp] theorem State.modPwm_lk (s : State) (a : Axis) (f : PwmSt → PwmSt) : (s.modPwm a f).lk = s.lk := rfl
@[simp] theorem State.modPwm_cv (s : State) (a : Axis) (f : PwmSt → PwmSt) : (s.modPwm a f).cv = s.cv := rfl
@[simp] theorem State.modPwm_wh (s : State) (a : Axis) (f : PwmSt → PwmSt) : (s.modPwm a f).wh = s.wh := rfl
@[simp] theorem State.modPwm_rst (s : State) (a : Axis) (f : PwmSt → PwmSt) : (s.modPwm a f).rst = s.rst := rfl
@[simp] theorem State.modPwm_auxm (s : State) (a : Axis) (f : PwmSt → PwmSt) : (s.modPwm a f).auxm = s.auxm := rfl
@[simp] theorem State.modPwm_tap (s : State) (a : Axis) (f : PwmSt → PwmSt) : (s.modPwm a f).tap = s.tap := rfl
@[simp] theorem State.modPwm_whReq (s : State) (a : Axis) (f : PwmSt → PwmSt) : (s.modPwm a f).whReq = s.whReq := rfl
@[simp] theorem State.modPwm_plnWork (s : State) (a : Axis) (f : PwmSt → PwmSt) : (s.modPwm a f).plnWork = s.plnWork := rfl
@[simp] theorem State.modPwm_pending (s : State) (a : Axis) (f : PwmSt → PwmSt) : (s.modPwm a f).pending = s.pending := rfl
@[simp] theorem State.modPwm_get (s : State) (a : Axis) (f : PwmSt → PwmSt) (g : Fld) : (s.modPwm a f).get g = s.get g := rfl
@[simp] theorem State.modPwm_flag (s : State) (a : Axis) (f : PwmSt → PwmSt) (g : Fld) : (s.modPwm a f).flag g = s.flag g := rfl
@[simp] theorem State.modPwm_pd (s : State) (a : Axis) (f : PwmSt → PwmSt) (n : Nat) : (s.modPwm a f).pd n = s.pd n := rfl

/-! ### `State.modCc` -/

@[simp] theorem State.modCc_now (s : State) (a : Axis) (f : CcSt → CcSt) : (s.modCc a f).now = s.now := rfl
@[simp] theorem State.modCc_freeCtr (s : State) (a : Axis) (f : CcSt → CcSt) : (s.modCc a f).freeCtr = s.freeCtr := rfl
@[simp] theorem State.modCc_regs (s : State) (a : Axis) (f : CcSt → CcSt) : (s.modCc a f).regs = s.regs := rfl
@[simp] theorem State.modCc_mch (s : State) (a : Axis) (f : CcSt → CcSt) : (s.modCc a f).mch = s.mch := rfl
@[simp] theorem State.modCc_wt (s : State) (a : Axis) (f : CcSt → CcSt) : (s.modCc a f).wt = s.wt := rfl
@[simp] theorem State.modCc_ms (s : State) (a : Axis) (f : CcSt → CcSt) : (s.modCc a f).ms = s.ms := rfl
@[simp] theorem State.modCc_ip (s : State) (a : Axis) (f : CcSt → CcSt) : (s.modCc a f).ip = s.ip := rfl
@[simp] theorem State.modCc_hp (s : State) (a : Axis) (f : CcSt → CcSt) : (s.modCc a f).hp = s.hp := rfl
@[simp] theorem State.modCc_aux (s : State) (a : Axis) (f : CcSt → CcSt) : (s.modCc a f).aux = s.aux := rfl
@[simp] theorem State.modCc_tb (s : State) (a : Axis) (f : CcSt → CcSt) : (s.modCc a f).tb = s.tb := rfl
@[simp] theorem State.modCc_pw (s : State) (a : Axis) (f : CcSt → CcSt) : (s.modCc a f).pw = s.pw := rfl
@[simp] theorem State.modCc_priv (s : State) (a : Axis) (f : CcSt → CcSt) : (s.modCc a f).priv = s.priv := rfl
@[simp] theorem State.modCc_bk (s : State) (a : Axis) (f : CcSt → CcSt) : (s.modCc a f).bk = s.bk := rfl
@[simp] theorem State.modCc_sec (s : State) (a : Axis) (f : CcSt → CcSt) : (s.modCc a f).sec = s.sec := rfl
@[simp] theorem State.modCc_lk (s : State) (a : Axis) (f : CcSt → CcSt) : (s.modCc a f).lk = s.lk := rfl
@[simp] theorem State.modCc_cv (s : State) (a : Axis) (f : CcSt → CcSt) : (s.modCc a f).cv = s.cv := rfl
@[simp] theorem State.modCc_wh (s : State) (a : Axis) (f : CcSt → CcSt) : (s.modCc a f).wh = s.wh := rfl
@[simp] theorem State.modCc_rst (s : State) (a : Axis) (f : CcSt → CcSt) : (s.modCc a f).rst = s.rst := rfl
@[simp] theorem State.modCc_auxm (s : State) (a : Axis) (f : CcSt → CcSt) : (s.modCc a f).auxm = s.auxm := rfl
@[simp] theorem State.modCc_tap (s : State) (a : Axis) (f : CcSt → CcSt) : (s.modCc a f).tap = s.tap := rfl
@[simp] theorem State.modCc_whReq (s : State) (a : Axis) (f : CcSt → CcSt) : (s.modCc a f).whReq = s.whReq := rfl
@[simp] theorem State.modCc_plnWork (s : State) (a : Axis) (f : CcSt → CcSt) : (s.modCc a f).plnWork = s.plnWork := rfl
@[simp] theorem State.modCc_pending (s : State) (a : Axis) (f : CcSt → CcSt) : (s.modCc a f).pending = s.pending := rfl
@[simp] theorem State.modCc_get (s : State) (a : Axis) (f : CcSt → CcSt) (g : Fld) : (s.modCc a f).get g = s.get g := rfl
@[simp] theorem State.modCc_flag (s : State) (a : Axis) (f : CcSt → CcSt) (g : Fld) : (s.modCc a f).flag g = s.flag g := rfl
@[simp] theorem State.modCc_pd (s : State) (a : Axis) (f : CcSt → CcSt) (n : Nat) : (s.modCc a f).pd n = s.pd n := rfl

/-! ### `State.modLa` -/

@[simp] theorem State.modLa_now (s : State) (a : Axis) (f : LaSt → LaSt) : (s.modLa a f).now = s.now := rfl
@[simp] theorem State.modLa_freeCtr (s : State) (a : Axis) (f : LaSt → LaSt) : (s.modLa a f).freeCtr = s.freeCtr := rfl
@[simp] theorem State.modLa_regs (s : State) (a : Axis) (f : LaSt → LaSt) : (s.modLa a f).regs = s.regs := rfl
@[simp] theorem State.modLa_mch (s : State) (a : Axis) (f : LaSt → LaSt) : (s.modLa a f).mch = s.mch := rfl
@[simp] theorem State.modLa_wt (s : State) (a : Axis) (f : LaSt → LaSt) : (s.modLa a f).wt = s.wt := rfl
@[simp] theorem State.modLa_ms (s : State) (a : Axis) (f : LaSt → LaSt) : (s.modLa a f).ms = s.ms := rfl
@[simp] theorem State.modLa_ip (s : State) (a : Axis) (f : LaSt → LaSt) : (s.modLa a f).ip = s.ip := rfl
@[simp] theorem State.modLa_hp (s : State) (a : Axis) (f : LaSt → LaSt) : (s.modLa a f).hp = s.hp := rfl
@[simp] theorem State.modLa_aux (s : State) (a : Axis) (f : LaSt → LaSt) : (s.modLa a f).aux = s.aux := rfl
@[simp] theorem State.modLa_tb (s : State) (a : Axis) (f : LaSt → LaSt) : (s.modLa a f).tb = s.tb := rfl
@[simp] theorem State.modLa_pw (s : State) (a : Axis) (f : LaSt → LaSt) : (s.modLa a f).pw = s.pw := rfl
@[simp] theorem State.modLa_priv (s : State) (a : Axis) (f : LaSt → LaSt) : (s.modLa a f).priv = s.priv := rfl
@[simp] theorem State.modLa_bk (s : State) (a : Axis) (f : LaSt → LaSt) : (s.modLa a f).bk = s.bk := rfl
@[simp] theorem State.modLa_sec (s : State) (a : Axis) (f : LaSt → LaSt) : (s.modLa a f).sec = s.sec := rfl
@[simp] theorem State.modLa_lk (s : State) (a : Axis) (f : LaSt → LaSt) : (s.modLa a f).lk = s.lk := rfl
@[simp] theorem State.modLa_cv (s : State) (a : Axis) (f : LaSt → LaSt) : (s.modLa a f).cv = s.cv := rfl
@[simp] theorem State.modLa_wh (s : State) (a : Axis) (f : LaSt → LaSt) : (s.modLa a f).wh = s.wh := rfl
@[simp] theorem State.modLa_rst (s : State) (a : Axis) (f : LaSt → LaSt) : (s.modLa a f).rst = s.rst := rfl
@[simp] theorem State.modLa_auxm (s : State) (a : Axis) (f : LaSt → LaSt) : (s.modLa a f).auxm = s.auxm := rfl
@[simp] theorem State.modLa_tap (s : State) (a : Axis) (f : LaSt → LaSt) : (s.modLa a f).tap = s.tap := rfl
@[simp] theorem State.modLa_whReq (s : State) (a : Axis) (f : LaSt → LaSt) : (s.modLa a f).whReq = s.whReq := rfl
@[simp] theorem State.modLa_plnWork (s : State) (a : Axis) (f : LaSt → LaSt) : (s.modLa a f).plnWork = s.plnWork := rfl
@[simp] theorem State.modLa_pending (s : State) (a : Axis) (f : LaSt → LaSt) : (s.modLa a f).pending = s.pending := rfl
@[simp] theorem State.modLa_get (s : State) (a : Axis) (f : LaSt → LaSt) (g : Fld) : (s.modLa a f).get g = s.get g := rfl
@[simp] theorem State.modLa_flag (s : State) (a : Axis) (f : LaSt → LaSt) (g : Fld) : (s.modLa a f).flag g = s.flag g := rfl
@[simp] theorem State.modLa_pd (s : State) (a : Axis) (f : LaSt → LaSt) (n : Nat) : (s.modLa a f).pd n = s.pd n := rfl

/-! ### `State.modFb` -/

@[simp] theorem State.modFb_now (s : State) (a : Axis) (f : FbSt → FbSt) : (s.modFb a f).now = s.now := rfl
@[simp] theorem State.modFb_freeCtr (s : State) (a : Axis) (f : FbSt → FbSt) : (s.modFb a f).freeCtr = s.freeCtr := rfl
@[simp] theorem State.modFb_regs (s : State) (a : Axis) (f : FbSt → FbSt) : (s.modFb a f).regs = s.regs := rfl
@[simp] theorem State.modFb_mch (s : State) (a : Axis) (f : FbSt → FbSt) : (s.modFb a f).mch = s.mch := rfl
@[simp] theorem State.modFb_wt (s : State) (a : Axis) (f : FbSt → FbSt) : (s.modFb a f).wt = s.wt := rfl
@[simp] theorem State.modFb_ms (s : State) (a : Axis) (f : FbSt → FbSt) : (s.modFb a f).ms = s.ms := rfl
@[simp] theorem State.modFb_ip (s : State) (a : Axis) (f : FbSt → FbSt) : (s.modFb a f).ip = s.ip := rfl
@[simp] theorem State.modFb_hp (s : State) (a : Axis) (f : FbSt → FbSt) : (s.modFb a f).hp = s.hp := rfl
@[simp] theorem State.modFb_aux (s : State) (a : Axis) (f : FbSt → FbSt) : (s.modFb a f).aux = s.aux := rfl
@[simp] theorem State.modFb_tb (s : State) (a : Axis) (f : FbSt → FbSt) : (s.modFb a f).tb = s.tb := rfl
@[simp] theorem State.modFb_pw (s : State) (a : Axis) (f : FbSt → FbSt) : (s.modFb a f).pw = s.pw := rfl
@[simp] theorem State.modFb_priv (s : State) (a : Axis) (f : FbSt → FbSt) : (s.modFb a f).priv = s.priv := rfl
@[simp] theorem State.modFb_bk (s : State) (a : Axis) (f : FbSt → FbSt) : (s.modFb a f).bk = s.bk := rfl
@[simp] theorem State.modFb_sec (s : State) (a : Axis) (f : FbSt → FbSt) : (s.modFb a f).sec = s.sec := rfl
@[simp] theorem State.modFb_lk (s : State) (a : Axis) (f : FbSt → FbSt) : (s.modFb a f).lk = s.lk := rfl
@[simp] theorem State.modFb_cv (s : State) (a : Axis) (f : FbSt → FbSt) : (s.modFb a f).cv = s.cv := rfl
@[simp] theorem State.modFb_wh (s : State) (a : Axis) (f : FbSt → FbSt) : (s.modFb a f).wh = s.wh := rfl
@[simp] theorem State.modFb_rst (s : State) (a : Axis) (f : FbSt → FbSt) : (s.modFb a f).rst = s.rst := rfl
@[simp] theorem State.modFb_auxm (s : State) (a : Axis) (f : FbSt → FbSt) : (s.modFb a f).auxm = s.auxm := rfl
@[simp] theorem State.modFb_tap (s : State) (a : Axis) (f : FbSt → FbSt) : (s.modFb a f).tap = s.tap := rfl
@[simp] theorem State.modFb_whReq (s : State) (a : Axis) (f : FbSt → FbSt) : (s.modFb a f).whReq = s.whReq := rfl
@[simp] theorem State.modFb_plnWork (s : State) (a : Axis) (f : FbSt → FbSt) : (s.modFb a f).plnWork = s.plnWork := rfl
@[simp] theorem State.modFb_pending (s : State) (a : Axis) (f : FbSt → FbSt) : (s.modFb a f).pending = s.pending := rfl
@[simp] theorem State.modFb_get (s : State) (a : Axis) (f : FbSt → FbSt) (g : Fld) : (s.modFb a f).get g = s.get g := rfl
@[simp] theorem State.modFb_flag (s : State) (a : Axis) (f : FbSt → FbSt) (g : Fld) : (s.modFb a f).flag g = s.flag g := rfl
@[simp] theorem State.modFb_pd (s : State) (a : Axis) (f : FbSt → FbSt) (n : Nat) : (s.modFb a f).pd n = s.pd n := rfl

/-! ### `State.modCore` -/

@[simp] theorem State.modCore_now (s : State) (a : Axis) (f : FbCore → FbCore) : (s.modCore a f).now = s.now := rfl
@[simp] theorem State.modCore_freeCtr (s : State) (a : Axis) (f : FbCore → FbCore) : (s.modCore a f).freeCtr = s.freeCtr := rfl
@[simp] theorem State.modCore_regs (s : State) (a : Axis) (f : FbCore → FbCore) : (s.modCore a f).regs = s.regs := rfl
@[simp] theorem State.modCore_mch (s : State) (a : Axis) (f : FbCore → FbCore) : (s.modCore a f).mch = s.mch := rfl
@[simp] theorem State.modCore_wt (s : State) (a : Axis) (f : FbCore → FbCore) : (s.modCore a f).wt = s.wt := rfl
@[simp] theorem State.modCore_ms (s : State) (a : Axis) (f : FbCore → FbCore) : (s.modCore a f).ms = s.ms := rfl
@[simp] theorem State.modCore_ip (s : State) (a : Axis) (f : FbCore → FbCore) : (s.modCore a f).ip = s.ip := rfl
@[simp] theorem State.modCore_hp (s : State) (a : Axis) (f : FbCore → FbCore) : (s.modCore a f).hp = s.hp := rfl
@[simp] theorem State.modCore_aux (s : State) (a : Axis) (f : FbCore → FbCore) : (s.modCore a f).aux = s.aux := rfl
@[simp] theorem State.modCore_tb (s : State) (a : Axis) (f : FbCore → FbCore) : (s.modCore a f).tb = s.tb := rfl
@[simp] theorem State.modCore_pw (s : State) (a : Axis) (f : FbCore → FbCore) : (s.modCore a f).pw = s.pw := rfl
@[simp] theorem State.modCore_priv (s : State) (a : Axis) (f : FbCore → FbCore) : (s.modCore a f).priv = s.priv := rfl
@[simp] theorem State.modCore_bk (s : State) (a : Axis) (f : FbCore → FbCore) : (s.modCore a f).bk = s.bk := rfl
@[simp] theorem State.modCore_sec (s : State) (a : Axis) (f : FbCore → FbCore) : (s.modCore a f).sec = s.sec := rfl
@[simp] theorem State.modCore_lk (s : State) (a : Axis) (f : FbCore → FbCore) : (s.modCore a f).lk = s.lk := rfl
@[simp] theorem State.modCore_cv (s : State) (a : Axis) (f : FbCore → FbCore) : (s.modCore a f).cv = s.cv := rfl
@[simp] theorem State.modCore_wh (s : State) (a : Axis) (f : FbCore → FbCore) : (s.modCore a f).wh = s.wh := rfl
@[simp] theorem State.modCore_rst (s : State) (a : Axis) (f : FbCore → FbCore) : (s.modCore a f).rst = s.rst := rfl
@[simp] theorem State.modCore_auxm (s : State) (a : Axis) (f : FbCore → FbCore) : (s.modCore a f).auxm = s.auxm := rfl
@[simp] theorem State.modCore_tap (s : State) (a : Axis) (f : FbCore → FbCore) : (s.modCore a f).tap = s.tap := rfl
@[simp] theorem State.modCore_whReq (s : State) (a : Axis) (f : FbCore → FbCore) : (s.modCore a f).whReq = s.whReq := rfl
@[simp] theorem State.modCore_plnWork (s : State) (a : Axis) (f : FbCore → FbCore) : (s.modCore a f).plnWork = s.plnWork := rfl
@[simp] theorem State.modCore_pending (s : State) (a : Axis) (f : FbCore → FbCore) : (s.modCore a f).pending = s.pending := rfl
@[simp] theorem State.modCore_get (s : State) (a : Axis) (f : FbCore → FbCore) (g : Fld) : (s.modCore a f).get g = s.get g := rfl
@[simp] theorem State.modCore_flag (s : State) (a : Axis) (f : FbCore → FbCore) (g : Fld) : (s.modCore a f).flag g = s.flag g := rfl
@[simp] theorem State.modCore_pd (s : State) (a : Axis) (f : FbCore → FbCore) (n : Nat) : (s.modCore a f).pd n = s.pd n := rfl

/-! ### `State.modWt` -/

@[simp] theorem State.modWt_now (s : State) (t : Fin 8) (f : WtSt → WtSt) : (s.modWt t f).now = s.now := rfl
@[simp] theorem State.modWt_freeCtr (s : State) (t : Fin 8) (f : WtSt → WtSt) : (s.modWt t f).freeCtr = s.freeCtr := rfl
@[simp] theorem State.modWt_regs (s : State) (t : Fin 8) (f : WtSt → WtSt) : (s.modWt t f).regs = s.regs := rfl
@[simp] theorem State.modWt_axes (s : State) (t : Fin 8) (f : WtSt → WtSt) : (s.modWt t f).axes = s.axes := rfl
@[simp] theorem State.modWt_mch (s : State) (t : Fin 8) (f : WtSt → WtSt) : (s.modWt t f).mch = s.mch := rfl
@[simp] theorem State.modWt_ms (s : State) (t : Fin 8) (f : WtSt → WtSt) : (s.modWt t f).ms = s.ms := rfl
@[simp] theorem State.modWt_ip (s : State) (t : Fin 8) (f : WtSt → WtSt) : (s.modWt t f).ip = s.ip := rfl
@[simp] theorem State.modWt_hp (s : State) (t : Fin 8) (f : WtSt → WtSt) : (s.modWt t f).hp = s.hp := rfl
@[simp] theorem State.modWt_aux (s : State) (t : Fin 8) (f : WtSt → WtSt) : (s.modWt t f).aux = s.aux := rfl
@[simp] theorem State.modWt_tb (s : State) (t : Fin 8) (f : WtSt → WtSt) : (s.modWt t f).tb = s.tb := rfl
@[simp] theorem State.modWt_pw (s : State) (t : Fin 8) (f : WtSt → WtSt) : (s.modWt t f).pw = s.pw := rfl
@[simp] theorem State.modWt_priv (s : State) (t : Fin 8) (f : WtSt → WtSt) : (s.modWt t f).priv = s.priv := rfl
@[simp] theorem State.modWt_bk (s : State) (t : Fin 8) (f : WtSt → WtSt) : (s.modWt t f).bk = s.bk := rfl
@[simp] theorem State.modWt_sec (s : State) (t : Fin 8) (f : WtSt → WtSt) : (s.modWt t f).sec = s.sec := rfl
@[simp] theorem State.modWt_lk (s : State) (t : Fin 8) (f : WtSt → WtSt) : (s.modWt t f).lk = s.lk := rfl
@[simp] theorem State.modWt_cv (s : State) (t : Fin 8) (f : WtSt → WtSt) : (s.modWt t f).cv = s.cv := rfl
@[simp] theorem State.modWt_wh (s : State) (t : Fin 8) (f : WtSt → WtSt) : (s.modWt t f).wh = s.wh := rfl
@[simp] theorem State.modWt_rst (s : State) (t : Fin 8) (f : WtSt → WtSt) : (s.modWt t f).rst = s.rst := rfl
@[simp] theorem State.modWt_auxm (s : State) (t : Fin 8) (f : WtSt → WtSt) : (s.modWt t f).auxm = s.auxm := rfl
@[simp] theorem State.modWt_tap (s : State) (t : Fin 8) (f : WtSt → WtSt) : (s.modWt t f).tap = s.tap := rfl
@[simp] theorem State.modWt_whReq (s : State) (t : Fin 8) (f : WtSt → WtSt) : (s.modWt t f).whReq = s.whReq := rfl
@[simp] theorem State.modWt_plnWork (s : State) (t : Fin 8) (f : WtSt → WtSt) : (s.modWt t f).plnWork = s.plnWork := rfl
@[simp] theorem State.modWt_pending (s : State) (t : Fin 8) (f : WtSt → WtSt) : (s.modWt t f).pending = s.pending := rfl
@[simp] theorem State.modWt_ax (s : State) (t : Fin 8) (f : WtSt → WtSt) (x : Axis) : (s.modWt t f).ax x = s.ax x := rfl
@[simp] theorem State.modWt_mot (s : State) (t : Fin 8) (f : WtSt → WtSt) (x : Axis) : (s.modWt t f).mot x = s.mot x := rfl
@[simp] theorem State.modWt_gd (s : State) (t : Fin 8) (f : WtSt → WtSt) (x : Axis) : (s.modWt t f).gd x = s.gd x := rfl
@[simp] theorem State.modWt_fol (s : State) (t : Fin 8) (f : WtSt → WtSt) (x : Axis) : (s.modWt t f).fol x = s.fol x := rfl
@[simp] theorem State.modWt_pwm (s : State) (t : Fin 8) (f : WtSt → WtSt) (x : Axis) : (s.modWt t f).pwm x = s.pwm x := rfl
@[simp] theorem State.modWt_cc (s : State) (t : Fin 8) (f : WtSt → WtSt) (x : Axis) : (s.modWt t f).cc x = s.cc x := rfl
@[simp] theorem State.modWt_la (s : State) (t : Fin 8) (f : WtSt → WtSt) (x : Axis) : (s.modWt t f).la x = s.la x := rfl
@[simp] theorem State.modWt_core (s : State) (t : Fin 8) (f : WtSt → WtSt) (x : Axis) : (s.modWt t f).core x = s.core x := rfl
@[simp] theorem State.modWt_get (s : State) (t : Fin 8) (f : WtSt → WtSt) (g : Fld) : (s.modWt t f).get g = s.get g := rfl
@[simp] theorem State.modWt_flag (s : State) (t : Fin 8) (f : WtSt → WtSt) (g : Fld) : (s.modWt t f).flag g = s.flag g := rfl
@[simp] theorem State.modWt_pd (s : State) (t : Fin 8) (f : WtSt → WtSt) (n : Nat) : (s.modWt t f).pd n = s.pd n := rfl

/-! ### `State.modMch` -/

@[simp] theorem State.modMch_now (s : State) (c : Fin 4) (f : MchSt → MchSt) : (s.modMch c f).now = s.now := rfl
@[simp] theorem State.modMch_freeCtr (s : State) (c : Fin 4) (f : MchSt → MchSt) : (s.modMch c f).freeCtr = s.freeCtr := rfl
@[simp] theorem State.modMch_regs (s : State) (c : Fin 4) (f : MchSt → MchSt) : (s.modMch c f).regs = s.regs := rfl
@[simp] theorem State.modMch_axes (s : State) (c : Fin 4) (f : MchSt → MchSt) : (s.modMch c f).axes = s.axes := rfl
@[simp] theorem State.modMch_wt (s : State) (c : Fin 4) (f : MchSt → MchSt) : (s.modMch c f).wt = s.wt := rfl
@[simp] theorem State.modMch_ms (s : State) (c : Fin 4) (f : MchSt → MchSt) : (s.modMch c f).ms = s.ms := rfl
@[simp] theorem State.modMch_ip (s : State) (c : Fin 4) (f : MchSt → MchSt) : (s.modMch c f).ip = s.ip := rfl
@[simp] theorem State.modMch_hp (s : State) (c : Fin 4) (f : MchSt → MchSt) : (s.modMch c f).hp = s.hp := rfl
@[simp] theorem State.modMch_aux (s : State) (c : Fin 4) (f : MchSt → MchSt) : (s.modMch c f).aux = s.aux := rfl
@[simp] theorem State.modMch_tb (s : State) (c : Fin 4) (f : MchSt → MchSt) : (s.modMch c f).tb = s.tb := rfl
@[simp] theorem State.modMch_pw (s : State) (c : Fin 4) (f : MchSt → MchSt) : (s.modMch c f).pw = s.pw := rfl
@[simp] theorem State.modMch_priv (s : State) (c : Fin 4) (f : MchSt → MchSt) : (s.modMch c f).priv = s.priv := rfl
@[simp] theorem State.modMch_bk (s : State) (c : Fin 4) (f : MchSt → MchSt) : (s.modMch c f).bk = s.bk := rfl
@[simp] theorem State.modMch_sec (s : State) (c : Fin 4) (f : MchSt → MchSt) : (s.modMch c f).sec = s.sec := rfl
@[simp] theorem State.modMch_lk (s : State) (c : Fin 4) (f : MchSt → MchSt) : (s.modMch c f).lk = s.lk := rfl
@[simp] theorem State.modMch_cv (s : State) (c : Fin 4) (f : MchSt → MchSt) : (s.modMch c f).cv = s.cv := rfl
@[simp] theorem State.modMch_wh (s : State) (c : Fin 4) (f : MchSt → MchSt) : (s.modMch c f).wh = s.wh := rfl
@[simp] theorem State.modMch_rst (s : State) (c : Fin 4) (f : MchSt → MchSt) : (s.modMch c f).rst = s.rst := rfl
@[simp] theorem State.modMch_auxm (s : State) (c : Fin 4) (f : MchSt → MchSt) : (s.modMch c f).auxm = s.auxm := rfl
@[simp] theorem State.modMch_tap (s : State) (c : Fin 4) (f : MchSt → MchSt) : (s.modMch c f).tap = s.tap := rfl
@[simp] theorem State.modMch_whReq (s : State) (c : Fin 4) (f : MchSt → MchSt) : (s.modMch c f).whReq = s.whReq := rfl
@[simp] theorem State.modMch_plnWork (s : State) (c : Fin 4) (f : MchSt → MchSt) : (s.modMch c f).plnWork = s.plnWork := rfl
@[simp] theorem State.modMch_pending (s : State) (c : Fin 4) (f : MchSt → MchSt) : (s.modMch c f).pending = s.pending := rfl
@[simp] theorem State.modMch_ax (s : State) (c : Fin 4) (f : MchSt → MchSt) (x : Axis) : (s.modMch c f).ax x = s.ax x := rfl
@[simp] theorem State.modMch_mot (s : State) (c : Fin 4) (f : MchSt → MchSt) (x : Axis) : (s.modMch c f).mot x = s.mot x := rfl
@[simp] theorem State.modMch_gd (s : State) (c : Fin 4) (f : MchSt → MchSt) (x : Axis) : (s.modMch c f).gd x = s.gd x := rfl
@[simp] theorem State.modMch_fol (s : State) (c : Fin 4) (f : MchSt → MchSt) (x : Axis) : (s.modMch c f).fol x = s.fol x := rfl
@[simp] theorem State.modMch_pwm (s : State) (c : Fin 4) (f : MchSt → MchSt) (x : Axis) : (s.modMch c f).pwm x = s.pwm x := rfl
@[simp] theorem State.modMch_cc (s : State) (c : Fin 4) (f : MchSt → MchSt) (x : Axis) : (s.modMch c f).cc x = s.cc x := rfl
@[simp] theorem State.modMch_la (s : State) (c : Fin 4) (f : MchSt → MchSt) (x : Axis) : (s.modMch c f).la x = s.la x := rfl
@[simp] theorem State.modMch_core (s : State) (c : Fin 4) (f : MchSt → MchSt) (x : Axis) : (s.modMch c f).core x = s.core x := rfl
@[simp] theorem State.modMch_get (s : State) (c : Fin 4) (f : MchSt → MchSt) (g : Fld) : (s.modMch c f).get g = s.get g := rfl
@[simp] theorem State.modMch_flag (s : State) (c : Fin 4) (f : MchSt → MchSt) (g : Fld) : (s.modMch c f).flag g = s.flag g := rfl
@[simp] theorem State.modMch_pd (s : State) (c : Fin 4) (f : MchSt → MchSt) (n : Nat) : (s.modMch c f).pd n = s.pd n := rfl

/-! ### `State.modPriv` -/

@[simp] theorem State.modPriv_now (s : State) (c : Fin 8) (f : PrivSt → PrivSt) : (s.modPriv c f).now = s.now := rfl
@[simp] theorem State.modPriv_freeCtr (s : State) (c : Fin 8) (f : PrivSt → PrivSt) : (s.modPriv c f).freeCtr = s.freeCtr := rfl
@[simp] theorem State.modPriv_regs (s : State) (c : Fin 8) (f : PrivSt → PrivSt) : (s.modPriv c f).regs = s.regs := rfl
@[simp] theorem State.modPriv_axes (s : State) (c : Fin 8) (f : PrivSt → PrivSt) : (s.modPriv c f).axes = s.axes := rfl
@[simp] theorem State.modPriv_mch (s : State) (c : Fin 8) (f : PrivSt → PrivSt) : (s.modPriv c f).mch = s.mch := rfl
@[simp] theorem State.modPriv_wt (s : State) (c : Fin 8) (f : PrivSt → PrivSt) : (s.modPriv c f).wt = s.wt := rfl
@[simp] theorem State.modPriv_ms (s : State) (c : Fin 8) (f : PrivSt → PrivSt) : (s.modPriv c f).ms = s.ms := rfl
@[simp] theorem State.modPriv_ip (s : State) (c : Fin 8) (f : PrivSt → PrivSt) : (s.modPriv c f).ip = s.ip := rfl
@[simp] theorem State.modPriv_hp (s : State) (c : Fin 8) (f : PrivSt → PrivSt) : (s.modPriv c f).hp = s.hp := rfl
@[simp] theorem State.modPriv_aux (s : State) (c : Fin 8) (f : PrivSt → PrivSt) : (s.modPriv c f).aux = s.aux := rfl
@[simp] theorem State.modPriv_tb (s : State) (c : Fin 8) (f : PrivSt → PrivSt) : (s.modPriv c f).tb = s.tb := rfl
@[simp] theorem State.modPriv_pw (s : State) (c : Fin 8) (f : PrivSt → PrivSt) : (s.modPriv c f).pw = s.pw := rfl
@[simp] theorem State.modPriv_bk (s : State) (c : Fin 8) (f : PrivSt → PrivSt) : (s.modPriv c f).bk = s.bk := rfl
@[simp] theorem State.modPriv_sec (s : State) (c : Fin 8) (f : PrivSt → PrivSt) : (s.modPriv c f).sec = s.sec := rfl
@[simp] theorem State.modPriv_lk (s : State) (c : Fin 8) (f : PrivSt → PrivSt) : (s.modPriv c f).lk = s.lk := rfl
@[simp] theorem State.modPriv_cv (s : State) (c : Fin 8) (f : PrivSt → PrivSt) : (s.modPriv c f).cv = s.cv := rfl
@[simp] theorem State.modPriv_wh (s : State) (c : Fin 8) (f : PrivSt → PrivSt) : (s.modPriv c f).wh = s.wh := rfl
@[simp] theorem State.modPriv_rst (s : State) (c : Fin 8) (f : PrivSt → PrivSt) : (s.modPriv c f).rst = s.rst := rfl
@[simp] theorem State.modPriv_auxm (s : State) (c : Fin 8) (f : PrivSt → PrivSt) : (s.modPriv c f).auxm = s.auxm := rfl
@[simp] theorem State.modPriv_tap (s : State) (c : Fin 8) (f : PrivSt → PrivSt) : (s.modPriv c f).tap = s.tap := rfl
@[simp] theorem State.modPriv_whReq (s : State) (c : Fin 8) (f : PrivSt → PrivSt) : (s.modPriv c f).whReq = s.whReq := rfl
@[simp] theorem State.modPriv_plnWork (s : State) (c : Fin 8) (f : PrivSt → PrivSt) : (s.modPriv c f).plnWork = s.plnWork := rfl
@[simp] theorem State.modPriv_pending (s : State) (c : Fin 8) (f : PrivSt → PrivSt) : (s.modPriv c f).pending = s.pending := rfl
@[simp] theorem State.modPriv_ax (s : State) (c : Fin 8) (f : PrivSt → PrivSt) (x : Axis) : (s.modPriv c f).ax x = s.ax x := rfl
@[simp] theorem State.modPriv_mot (s : State) (c : Fin 8) (f : PrivSt → PrivSt) (x : Axis) : (s.modPriv c f).mot x = s.mot x := rfl
@[simp] theorem State.modPriv_gd (s : State) (c : Fin 8) (f : PrivSt → PrivSt) (x : Axis) : (s.modPriv c f).gd x = s.gd x := rfl
@[simp] theorem State.modPriv_fol (s : State) (c : Fin 8) (f : PrivSt → PrivSt) (x : Axis) : (s.modPriv c f).fol x = s.fol x := rfl
@[simp] theorem State.modPriv_pwm (s : State) (c : Fin 8) (f : PrivSt → PrivSt) (x : Axis) : (s.modPriv c f).pwm x = s.pwm x := rfl
@[simp] theorem State.modPriv_cc (s : State) (c : Fin 8) (f : PrivSt → PrivSt) (x : Axis) : (s.modPriv c f).cc x = s.cc x := rfl
@[simp] theorem State.modPriv_la (s : State) (c : Fin 8) (f : PrivSt → PrivSt) (x : Axis) : (s.modPriv c f).la x = s.la x := rfl
@[simp] theorem State.modPriv_core (s : State) (c : Fin 8) (f : PrivSt → PrivSt) (x : Axis) : (s.modPriv c f).core x = s.core x := rfl
@[simp] theorem State.modPriv_get (s : State) (c : Fin 8) (f : PrivSt → PrivSt) (g : Fld) : (s.modPriv c f).get g = s.get g := rfl
@[simp] theorem State.modPriv_flag (s : State) (c : Fin 8) (f : PrivSt → PrivSt) (g : Fld) : (s.modPriv c f).flag g = s.flag g := rfl
@[simp] theorem State.modPriv_pd (s : State) (c : Fin 8) (f : PrivSt → PrivSt) (n : Nat) : (s.modPriv c f).pd n = s.pd n := rfl

/-! ### `State.modWm` -/

@[simp] theorem State.modWm_now (s : State) (n : Fin 12) (f : WmSt → WmSt) : (s.modWm n f).now = s.now := rfl
@[simp] theorem State.modWm_freeCtr (s : State) (n : Fin 12) (f : WmSt → WmSt) : (s.modWm n f).freeCtr = s.freeCtr := rfl
@[simp] theorem State.modWm_regs (s : State) (n : Fin 12) (f : WmSt → WmSt) : (s.modWm n f).regs = s.regs := rfl
@[simp] theorem State.modWm_axes (s : State) (n : Fin 12) (f : WmSt → WmSt) : (s.modWm n f).axes = s.axes := rfl
@[simp] theorem State.modWm_mch (s : State) (n : Fin 12) (f : WmSt → WmSt) : (s.modWm n f).mch = s.mch := rfl
@[simp] theorem State.modWm_wt (s : State) (n : Fin 12) (f : WmSt → WmSt) : (s.modWm n f).wt = s.wt := rfl
@[simp] theorem State.modWm_ip (s : State) (n : Fin 12) (f : WmSt → WmSt) : (s.modWm n f).ip = s.ip := rfl
@[simp] theorem State.modWm_hp (s : State) (n : Fin 12) (f : WmSt → WmSt) : (s.modWm n f).hp = s.hp := rfl
@[simp] theorem State.modWm_aux (s : State) (n : Fin 12) (f : WmSt → WmSt) : (s.modWm n f).aux = s.aux := rfl
@[simp] theorem State.modWm_tb (s : State) (n : Fin 12) (f : WmSt → WmSt) : (s.modWm n f).tb = s.tb := rfl
@[simp] theorem State.modWm_pw (s : State) (n : Fin 12) (f : WmSt → WmSt) : (s.modWm n f).pw = s.pw := rfl
@[simp] theorem State.modWm_priv (s : State) (n : Fin 12) (f : WmSt → WmSt) : (s.modWm n f).priv = s.priv := rfl
@[simp] theorem State.modWm_bk (s : State) (n : Fin 12) (f : WmSt → WmSt) : (s.modWm n f).bk = s.bk := rfl
@[simp] theorem State.modWm_sec (s : State) (n : Fin 12) (f : WmSt → WmSt) : (s.modWm n f).sec = s.sec := rfl
@[simp] theorem State.modWm_lk (s : State) (n : Fin 12) (f : WmSt → WmSt) : (s.modWm n f).lk = s.lk := rfl
@[simp] theorem State.modWm_cv (s : State) (n : Fin 12) (f : WmSt → WmSt) : (s.modWm n f).cv = s.cv := rfl
@[simp] theorem State.modWm_wh (s : State) (n : Fin 12) (f : WmSt → WmSt) : (s.modWm n f).wh = s.wh := rfl
@[simp] theorem State.modWm_rst (s : State) (n : Fin 12) (f : WmSt → WmSt) : (s.modWm n f).rst = s.rst := rfl
@[simp] theorem State.modWm_auxm (s : State) (n : Fin 12) (f : WmSt → WmSt) : (s.modWm n f).auxm = s.auxm := rfl
@[simp] theorem State.modWm_tap (s : State) (n : Fin 12) (f : WmSt → WmSt) : (s.modWm n f).tap = s.tap := rfl
@[simp] theorem State.modWm_whReq (s : State) (n : Fin 12) (f : WmSt → WmSt) : (s.modWm n f).whReq = s.whReq := rfl
@[simp] theorem State.modWm_plnWork (s : State) (n : Fin 12) (f : WmSt → WmSt) : (s.modWm n f).plnWork = s.plnWork := rfl
@[simp] theorem State.modWm_pending (s : State) (n : Fin 12) (f : WmSt → WmSt) : (s.modWm n f).pending = s.pending := rfl
@[simp] theorem State.modWm_ax (s : State) (n : Fin 12) (f : WmSt → WmSt) (x : Axis) : (s.modWm n f).ax x = s.ax x := rfl
@[simp] theorem State.modWm_mot (s : State) (n : Fin 12) (f : WmSt → WmSt) (x : Axis) : (s.modWm n f).mot x = s.mot x := rfl
@[simp] theorem State.modWm_gd (s : State) (n : Fin 12) (f : WmSt → WmSt) (x : Axis) : (s.modWm n f).gd x = s.gd x := rfl
@[simp] theorem State.modWm_fol (s : State) (n : Fin 12) (f : WmSt → WmSt) (x : Axis) : (s.modWm n f).fol x = s.fol x := rfl
@[simp] theorem State.modWm_pwm (s : State) (n : Fin 12) (f : WmSt → WmSt) (x : Axis) : (s.modWm n f).pwm x = s.pwm x := rfl
@[simp] theorem State.modWm_cc (s : State) (n : Fin 12) (f : WmSt → WmSt) (x : Axis) : (s.modWm n f).cc x = s.cc x := rfl
@[simp] theorem State.modWm_la (s : State) (n : Fin 12) (f : WmSt → WmSt) (x : Axis) : (s.modWm n f).la x = s.la x := rfl
@[simp] theorem State.modWm_core (s : State) (n : Fin 12) (f : WmSt → WmSt) (x : Axis) : (s.modWm n f).core x = s.core x := rfl
@[simp] theorem State.modWm_get (s : State) (n : Fin 12) (f : WmSt → WmSt) (g : Fld) : (s.modWm n f).get g = s.get g := rfl
@[simp] theorem State.modWm_flag (s : State) (n : Fin 12) (f : WmSt → WmSt) (g : Fld) : (s.modWm n f).flag g = s.flag g := rfl
@[simp] theorem State.modWm_pd (s : State) (n : Fin 12) (f : WmSt → WmSt) (k : Nat) : (s.modWm n f).pd k = s.pd k := rfl

/-! ### `State.modTripAt` -/

@[simp] theorem State.modTripAt_now (s : State) (n : Fin 4) : (s.modTripAt n).now = s.now := rfl
@[simp] theorem State.modTripAt_freeCtr (s : State) (n : Fin 4) : (s.modTripAt n).freeCtr = s.freeCtr := rfl
@[simp] theorem State.modTripAt_regs (s : State) (n : Fin 4) : (s.modTripAt n).regs = s.regs := rfl
@[simp] theorem State.modTripAt_axes (s : State) (n : Fin 4) : (s.modTripAt n).axes = s.axes := rfl
@[simp] theorem State.modTripAt_mch (s : State) (n : Fin 4) : (s.modTripAt n).mch = s.mch := rfl
@[simp] theorem State.modTripAt_wt (s : State) (n : Fin 4) : (s.modTripAt n).wt = s.wt := rfl
@[simp] theorem State.modTripAt_ip (s : State) (n : Fin 4) : (s.modTripAt n).ip = s.ip := rfl
@[simp] theorem State.modTripAt_hp (s : State) (n : Fin 4) : (s.modTripAt n).hp = s.hp := rfl
@[simp] theorem State.modTripAt_aux (s : State) (n : Fin 4) : (s.modTripAt n).aux = s.aux := rfl
@[simp] theorem State.modTripAt_tb (s : State) (n : Fin 4) : (s.modTripAt n).tb = s.tb := rfl
@[simp] theorem State.modTripAt_pw (s : State) (n : Fin 4) : (s.modTripAt n).pw = s.pw := rfl
@[simp] theorem State.modTripAt_priv (s : State) (n : Fin 4) : (s.modTripAt n).priv = s.priv := rfl
@[simp] theorem State.modTripAt_bk (s : State) (n : Fin 4) : (s.modTripAt n).bk = s.bk := rfl
@[simp] theorem State.modTripAt_sec (s : State) (n : Fin 4) : (s.modTripAt n).sec = s.sec := rfl
@[simp] theorem State.modTripAt_lk (s : State) (n : Fin 4) : (s.modTripAt n).lk = s.lk := rfl
@[simp] theorem State.modTripAt_cv (s : State) (n : Fin 4) : (s.modTripAt n).cv = s.cv := rfl
@[simp] theorem State.modTripAt_wh (s : State) (n : Fin 4) : (s.modTripAt n).wh = s.wh := rfl
@[simp] theorem State.modTripAt_rst (s : State) (n : Fin 4) : (s.modTripAt n).rst = s.rst := rfl
@[simp] theorem State.modTripAt_auxm (s : State) (n : Fin 4) : (s.modTripAt n).auxm = s.auxm := rfl
@[simp] theorem State.modTripAt_tap (s : State) (n : Fin 4) : (s.modTripAt n).tap = s.tap := rfl
@[simp] theorem State.modTripAt_whReq (s : State) (n : Fin 4) : (s.modTripAt n).whReq = s.whReq := rfl
@[simp] theorem State.modTripAt_plnWork (s : State) (n : Fin 4) : (s.modTripAt n).plnWork = s.plnWork := rfl
@[simp] theorem State.modTripAt_pending (s : State) (n : Fin 4) : (s.modTripAt n).pending = s.pending := rfl
@[simp] theorem State.modTripAt_ax (s : State) (n : Fin 4) (x : Axis) : (s.modTripAt n).ax x = s.ax x := rfl
@[simp] theorem State.modTripAt_mot (s : State) (n : Fin 4) (x : Axis) : (s.modTripAt n).mot x = s.mot x := rfl
@[simp] theorem State.modTripAt_gd (s : State) (n : Fin 4) (x : Axis) : (s.modTripAt n).gd x = s.gd x := rfl
@[simp] theorem State.modTripAt_fol (s : State) (n : Fin 4) (x : Axis) : (s.modTripAt n).fol x = s.fol x := rfl
@[simp] theorem State.modTripAt_pwm (s : State) (n : Fin 4) (x : Axis) : (s.modTripAt n).pwm x = s.pwm x := rfl
@[simp] theorem State.modTripAt_cc (s : State) (n : Fin 4) (x : Axis) : (s.modTripAt n).cc x = s.cc x := rfl
@[simp] theorem State.modTripAt_la (s : State) (n : Fin 4) (x : Axis) : (s.modTripAt n).la x = s.la x := rfl
@[simp] theorem State.modTripAt_core (s : State) (n : Fin 4) (x : Axis) : (s.modTripAt n).core x = s.core x := rfl
@[simp] theorem State.modTripAt_get (s : State) (n : Fin 4) (g : Fld) : (s.modTripAt n).get g = s.get g := rfl
@[simp] theorem State.modTripAt_flag (s : State) (n : Fin 4) (g : Fld) : (s.modTripAt n).flag g = s.flag g := rfl
@[simp] theorem State.modTripAt_pd (s : State) (n : Fin 4) (k : Nat) : (s.modTripAt n).pd k = s.pd k := rfl

/-! ### `State.modStoAt` -/

@[simp] theorem State.modStoAt_now (s : State) (b : Bool) : (s.modStoAt b).now = s.now := rfl
@[simp] theorem State.modStoAt_freeCtr (s : State) (b : Bool) : (s.modStoAt b).freeCtr = s.freeCtr := rfl
@[simp] theorem State.modStoAt_regs (s : State) (b : Bool) : (s.modStoAt b).regs = s.regs := rfl
@[simp] theorem State.modStoAt_axes (s : State) (b : Bool) : (s.modStoAt b).axes = s.axes := rfl
@[simp] theorem State.modStoAt_mch (s : State) (b : Bool) : (s.modStoAt b).mch = s.mch := rfl
@[simp] theorem State.modStoAt_wt (s : State) (b : Bool) : (s.modStoAt b).wt = s.wt := rfl
@[simp] theorem State.modStoAt_ms (s : State) (b : Bool) : (s.modStoAt b).ms = s.ms := rfl
@[simp] theorem State.modStoAt_ip (s : State) (b : Bool) : (s.modStoAt b).ip = s.ip := rfl
@[simp] theorem State.modStoAt_hp (s : State) (b : Bool) : (s.modStoAt b).hp = s.hp := rfl
@[simp] theorem State.modStoAt_aux (s : State) (b : Bool) : (s.modStoAt b).aux = s.aux := rfl
@[simp] theorem State.modStoAt_tb (s : State) (b : Bool) : (s.modStoAt b).tb = s.tb := rfl
@[simp] theorem State.modStoAt_pw (s : State) (b : Bool) : (s.modStoAt b).pw = s.pw := rfl
@[simp] theorem State.modStoAt_priv (s : State) (b : Bool) : (s.modStoAt b).priv = s.priv := rfl
@[simp] theorem State.modStoAt_sec (s : State) (b : Bool) : (s.modStoAt b).sec = s.sec := rfl
@[simp] theorem State.modStoAt_lk (s : State) (b : Bool) : (s.modStoAt b).lk = s.lk := rfl
@[simp] theorem State.modStoAt_cv (s : State) (b : Bool) : (s.modStoAt b).cv = s.cv := rfl
@[simp] theorem State.modStoAt_wh (s : State) (b : Bool) : (s.modStoAt b).wh = s.wh := rfl
@[simp] theorem State.modStoAt_rst (s : State) (b : Bool) : (s.modStoAt b).rst = s.rst := rfl
@[simp] theorem State.modStoAt_auxm (s : State) (b : Bool) : (s.modStoAt b).auxm = s.auxm := rfl
@[simp] theorem State.modStoAt_tap (s : State) (b : Bool) : (s.modStoAt b).tap = s.tap := rfl
@[simp] theorem State.modStoAt_whReq (s : State) (b : Bool) : (s.modStoAt b).whReq = s.whReq := rfl
@[simp] theorem State.modStoAt_plnWork (s : State) (b : Bool) : (s.modStoAt b).plnWork = s.plnWork := rfl
@[simp] theorem State.modStoAt_pending (s : State) (b : Bool) : (s.modStoAt b).pending = s.pending := rfl
@[simp] theorem State.modStoAt_ax (s : State) (b : Bool) (x : Axis) : (s.modStoAt b).ax x = s.ax x := rfl
@[simp] theorem State.modStoAt_mot (s : State) (b : Bool) (x : Axis) : (s.modStoAt b).mot x = s.mot x := rfl
@[simp] theorem State.modStoAt_gd (s : State) (b : Bool) (x : Axis) : (s.modStoAt b).gd x = s.gd x := rfl
@[simp] theorem State.modStoAt_fol (s : State) (b : Bool) (x : Axis) : (s.modStoAt b).fol x = s.fol x := rfl
@[simp] theorem State.modStoAt_pwm (s : State) (b : Bool) (x : Axis) : (s.modStoAt b).pwm x = s.pwm x := rfl
@[simp] theorem State.modStoAt_cc (s : State) (b : Bool) (x : Axis) : (s.modStoAt b).cc x = s.cc x := rfl
@[simp] theorem State.modStoAt_la (s : State) (b : Bool) (x : Axis) : (s.modStoAt b).la x = s.la x := rfl
@[simp] theorem State.modStoAt_core (s : State) (b : Bool) (x : Axis) : (s.modStoAt b).core x = s.core x := rfl
@[simp] theorem State.modStoAt_get (s : State) (b : Bool) (g : Fld) : (s.modStoAt b).get g = s.get g := rfl
@[simp] theorem State.modStoAt_flag (s : State) (b : Bool) (g : Fld) : (s.modStoAt b).flag g = s.flag g := rfl
@[simp] theorem State.modStoAt_pd (s : State) (b : Bool) (k : Nat) : (s.modStoAt b).pd k = s.pd k := rfl

/-! ### `State.modCv` -/

@[simp] theorem State.modCv_now (s : State) (l : Link) (f : CvPort → CvPort) : (s.modCv l f).now = s.now := by cases l <;> rfl
@[simp] theorem State.modCv_freeCtr (s : State) (l : Link) (f : CvPort → CvPort) : (s.modCv l f).freeCtr = s.freeCtr := by cases l <;> rfl
@[simp] theorem State.modCv_regs (s : State) (l : Link) (f : CvPort → CvPort) : (s.modCv l f).regs = s.regs := by cases l <;> rfl
@[simp] theorem State.modCv_axes (s : State) (l : Link) (f : CvPort → CvPort) : (s.modCv l f).axes = s.axes := by cases l <;> rfl
@[simp] theorem State.modCv_mch (s : State) (l : Link) (f : CvPort → CvPort) : (s.modCv l f).mch = s.mch := by cases l <;> rfl
@[simp] theorem State.modCv_wt (s : State) (l : Link) (f : CvPort → CvPort) : (s.modCv l f).wt = s.wt := by cases l <;> rfl
@[simp] theorem State.modCv_ms (s : State) (l : Link) (f : CvPort → CvPort) : (s.modCv l f).ms = s.ms := by cases l <;> rfl
@[simp] theorem State.modCv_ip (s : State) (l : Link) (f : CvPort → CvPort) : (s.modCv l f).ip = s.ip := by cases l <;> rfl
@[simp] theorem State.modCv_hp (s : State) (l : Link) (f : CvPort → CvPort) : (s.modCv l f).hp = s.hp := by cases l <;> rfl
@[simp] theorem State.modCv_aux (s : State) (l : Link) (f : CvPort → CvPort) : (s.modCv l f).aux = s.aux := by cases l <;> rfl
@[simp] theorem State.modCv_tb (s : State) (l : Link) (f : CvPort → CvPort) : (s.modCv l f).tb = s.tb := by cases l <;> rfl
@[simp] theorem State.modCv_pw (s : State) (l : Link) (f : CvPort → CvPort) : (s.modCv l f).pw = s.pw := by cases l <;> rfl
@[simp] theorem State.modCv_priv (s : State) (l : Link) (f : CvPort → CvPort) : (s.modCv l f).priv = s.priv := by cases l <;> rfl
@[simp] theorem State.modCv_bk (s : State) (l : Link) (f : CvPort → CvPort) : (s.modCv l f).bk = s.bk := by cases l <;> rfl
@[simp] theorem State.modCv_sec (s : State) (l : Link) (f : CvPort → CvPort) : (s.modCv l f).sec = s.sec := by cases l <;> rfl
@[simp] theorem State.modCv_lk (s : State) (l : Link) (f : CvPort → CvPort) : (s.modCv l f).lk = s.lk := by cases l <;> rfl
@[simp] theorem State.modCv_wh (s : State) (l : Link) (f : CvPort → CvPort) : (s.modCv l f).wh = s.wh := by cases l <;> rfl
@[simp] theorem State.modCv_rst (s : State) (l : Link) (f : CvPort → CvPort) : (s.modCv l f).rst = s.rst := by cases l <;> rfl
@[simp] theorem State.modCv_auxm (s : State) (l : Link) (f : CvPort → CvPort) : (s.modCv l f).auxm = s.auxm := by cases l <;> rfl
@[simp] theorem State.modCv_tap (s : State) (l : Link) (f : CvPort → CvPort) : (s.modCv l f).tap = s.tap := by cases l <;> rfl
@[simp] theorem State.modCv_whReq (s : State) (l : Link) (f : CvPort → CvPort) : (s.modCv l f).whReq = s.whReq := by cases l <;> rfl
@[simp] theorem State.modCv_plnWork (s : State) (l : Link) (f : CvPort → CvPort) : (s.modCv l f).plnWork = s.plnWork := by cases l <;> rfl
@[simp] theorem State.modCv_pending (s : State) (l : Link) (f : CvPort → CvPort) : (s.modCv l f).pending = s.pending := by cases l <;> rfl
@[simp] theorem State.modCv_ax (s : State) (l : Link) (f : CvPort → CvPort) (x : Axis) : (s.modCv l f).ax x = s.ax x := by cases l <;> rfl
@[simp] theorem State.modCv_mot (s : State) (l : Link) (f : CvPort → CvPort) (x : Axis) : (s.modCv l f).mot x = s.mot x := by cases l <;> rfl
@[simp] theorem State.modCv_gd (s : State) (l : Link) (f : CvPort → CvPort) (x : Axis) : (s.modCv l f).gd x = s.gd x := by cases l <;> rfl
@[simp] theorem State.modCv_fol (s : State) (l : Link) (f : CvPort → CvPort) (x : Axis) : (s.modCv l f).fol x = s.fol x := by cases l <;> rfl
@[simp] theorem State.modCv_pwm (s : State) (l : Link) (f : CvPort → CvPort) (x : Axis) : (s.modCv l f).pwm x = s.pwm x := by cases l <;> rfl
@[simp] theorem State.modCv_cc (s : State) (l : Link) (f : CvPort → CvPort) (x : Axis) : (s.modCv l f).cc x = s.cc x := by cases l <;> rfl
@[simp] theorem State.modCv_la (s : State) (l : Link) (f : CvPort → CvPort) (x : Axis) : (s.modCv l f).la x = s.la x := by cases l <;> rfl
@[simp] theorem State.modCv_core (s : State) (l : Link) (f : CvPort → CvPort) (x : Axis) : (s.modCv l f).core x = s.core x := by cases l <;> rfl
@[simp] theorem State.modCv_get (s : State) (l : Link) (f : CvPort → CvPort) (g : Fld) : (s.modCv l f).get g = s.get g := by cases l <;> rfl
@[simp] theorem State.modCv_flag (s : State) (l : Link) (f : CvPort → CvPort) (g : Fld) : (s.modCv l f).flag g = s.flag g := by cases l <;> rfl
@[simp] theorem State.modCv_pd (s : State) (l : Link) (f : CvPort → CvPort) (n : Nat) : (s.modCv l f).pd n = s.pd n := by cases l <;> rfl

/-! ### `State.withPending` -/

@[simp] theorem State.withPending_now (s : State) (l : List Instr) : (s.withPending l).now = s.now := rfl
@[simp] theorem State.withPending_freeCtr (s : State) (l : List Instr) : (s.withPending l).freeCtr = s.freeCtr := rfl
@[simp] theorem State.withPending_regs (s : State) (l : List Instr) : (s.withPending l).regs = s.regs := rfl
@[simp] theorem State.withPending_axes (s : State) (l : List Instr) : (s.withPending l).axes = s.axes := rfl
@[simp] theorem State.withPending_mch (s : State) (l : List Instr) : (s.withPending l).mch = s.mch := rfl
@[simp] theorem State.withPending_wt (s : State) (l : List Instr) : (s.withPending l).wt = s.wt := rfl
@[simp] theorem State.withPending_ms (s : State) (l : List Instr) : (s.withPending l).ms = s.ms := rfl
@[simp] theorem State.withPending_ip (s : State) (l : List Instr) : (s.withPending l).ip = s.ip := rfl
@[simp] theorem State.withPending_hp (s : State) (l : List Instr) : (s.withPending l).hp = s.hp := rfl
@[simp] theorem State.withPending_aux (s : State) (l : List Instr) : (s.withPending l).aux = s.aux := rfl
@[simp] theorem State.withPending_tb (s : State) (l : List Instr) : (s.withPending l).tb = s.tb := rfl
@[simp] theorem State.withPending_pw (s : State) (l : List Instr) : (s.withPending l).pw = s.pw := rfl
@[simp] theorem State.withPending_priv (s : State) (l : List Instr) : (s.withPending l).priv = s.priv := rfl
@[simp] theorem State.withPending_bk (s : State) (l : List Instr) : (s.withPending l).bk = s.bk := rfl
@[simp] theorem State.withPending_sec (s : State) (l : List Instr) : (s.withPending l).sec = s.sec := rfl
@[simp] theorem State.withPending_lk (s : State) (l : List Instr) : (s.withPending l).lk = s.lk := rfl
@[simp] theorem State.withPending_cv (s : State) (l : List Instr) : (s.withPending l).cv = s.cv := rfl
@[simp] theorem State.withPending_wh (s : State) (l : List Instr) : (s.withPending l).wh = s.wh := rfl
@[simp] theorem State.withPending_rst (s : State) (l : List Instr) : (s.withPending l).rst = s.rst := rfl
@[simp] theorem State.withPending_auxm (s : State) (l : List Instr) : (s.withPending l).auxm = s.auxm := rfl
@[simp] theorem State.withPending_tap (s : State) (l : List Instr) : (s.withPending l).tap = s.tap := rfl
@[simp] theorem State.withPending_whReq (s : State) (l : List Instr) : (s.withPending l).whReq = s.whReq := rfl
@[simp] theorem State.withPending_plnWork (s : State) (l : List Instr) : (s.withPending l).plnWork = s.plnWork := rfl
@[simp] theorem State.withPending_ax (s : State) (l : List Instr) (x : Axis) : (s.withPending l).ax x = s.ax x := rfl
@[simp] theorem State.withPending_mot (s : State) (l : List Instr) (x : Axis) : (s.withPending l).mot x = s.mot x := rfl
@[simp] theorem State.withPending_gd (s : State) (l : List Instr) (x : Axis) : (s.withPending l).gd x = s.gd x := rfl
@[simp] theorem State.withPending_fol (s : State) (l : List Instr) (x : Axis) : (s.withPending l).fol x = s.fol x := rfl
@[simp] theorem State.withPending_pwm (s : State) (l : List Instr) (x : Axis) : (s.withPending l).pwm x = s.pwm x := rfl
@[simp] theorem State.withPending_cc (s : State) (l : List Instr) (x : Axis) : (s.withPending l).cc x = s.cc x := rfl
@[simp] theorem State.withPending_la (s : State) (l : List Instr) (x : Axis) : (s.withPending l).la x = s.la x := rfl
@[simp] theorem State.withPending_core (s : State) (l : List Instr) (x : Axis) : (s.withPending l).core x = s.core x := rfl
@[simp] theorem State.withPending_get (s : State) (l : List Instr) (g : Fld) : (s.withPending l).get g = s.get g := rfl
@[simp] theorem State.withPending_flag (s : State) (l : List Instr) (g : Fld) : (s.withPending l).flag g = s.flag g := rfl
@[simp] theorem State.withPending_pd (s : State) (l : List Instr) (n : Nat) : (s.withPending l).pd n = s.pd n := rfl

/-! ### What the updates change -/

@[simp] theorem State.at_now (s : State) (t : Nat) : (s.at_ t).now = max s.now t := rfl
@[simp] theorem State.withPending_pending (s : State) (l : List Instr) : (s.withPending l).pending = l := rfl
@[simp] theorem State.free_2 (s : State) : s.free.2 = { s with freeCtr := s.freeCtr + 1 } := rfl

@[simp] theorem State.modAx_ax_self (s : State) (a : Axis) (f : AxisSt → AxisSt) : (s.modAx a f).ax a = f (s.ax a) := by
  simp [State.modAx, State.ax]

theorem State.modAx_ax_ne (s : State) (a b : Axis) (f : AxisSt → AxisSt) (h : b ≠ a) : (s.modAx a f).ax b = s.ax b := by
  have h' : (a : Nat) ≠ b := fun e => h (Fin.ext e.symm)
  simp [State.modAx, State.ax, Vector.getElem_set_ne, h']

@[simp] theorem State.modMot_mot_self (s : State) (a : Axis) (f : MotionSt → MotionSt) : (s.modMot a f).mot a = f (s.mot a) := by
  simp [State.modMot, State.mot]
theorem State.modMot_mot_ne (s : State) (a b : Axis) (f : MotionSt → MotionSt) (h : b ≠ a) : (s.modMot a f).mot b = s.mot b := by
  simp [State.modMot, State.mot, State.modAx_ax_ne _ _ _ _ h]
@[simp] theorem State.modGd_gd_self (s : State) (a : Axis) (f : GateSt → GateSt) : (s.modGd a f).gd a = f (s.gd a) := by
  simp [State.modGd, State.gd]
theorem State.modGd_gd_ne (s : State) (a b : Axis) (f : GateSt → GateSt) (h : b ≠ a) : (s.modGd a f).gd b = s.gd b := by
  simp [State.modGd, State.gd, State.modAx_ax_ne _ _ _ _ h]
@[simp] theorem State.modFol_fol_self (s : State) (a : Axis) (f : FollowSt → FollowSt) : (s.modFol a f).fol a = f (s.fol a) := by
  simp [State.modFol, State.fol]
theorem State.modFol_fol_ne (s : State) (a b : Axis) (f : FollowSt → FollowSt) (h : b ≠ a) : (s.modFol a f).fol b = s.fol b := by
  simp [State.modFol, State.fol, State.modAx_ax_ne _ _ _ _ h]
@[simp] theorem State.modPwm_pwm_self (s : State) (a : Axis) (f : PwmSt → PwmSt) : (s.modPwm a f).pwm a = f (s.pwm a) := by
  simp [State.modPwm, State.pwm]
theorem State.modPwm_pwm_ne (s : State) (a b : Axis) (f : PwmSt → PwmSt) (h : b ≠ a) : (s.modPwm a f).pwm b = s.pwm b := by
  simp [State.modPwm, State.pwm, State.modAx_ax_ne _ _ _ _ h]
@[simp] theorem State.modCc_cc_self (s : State) (a : Axis) (f : CcSt → CcSt) : (s.modCc a f).cc a = f (s.cc a) := by
  simp [State.modCc, State.cc]
theorem State.modCc_cc_ne (s : State) (a b : Axis) (f : CcSt → CcSt) (h : b ≠ a) : (s.modCc a f).cc b = s.cc b := by
  simp [State.modCc, State.cc, State.modAx_ax_ne _ _ _ _ h]
@[simp] theorem State.modLa_la_self (s : State) (a : Axis) (f : LaSt → LaSt) : (s.modLa a f).la a = f (s.la a) := by
  simp [State.modLa, State.la]
theorem State.modLa_la_ne (s : State) (a b : Axis) (f : LaSt → LaSt) (h : b ≠ a) : (s.modLa a f).la b = s.la b := by
  simp [State.modLa, State.la, State.modAx_ax_ne _ _ _ _ h]
@[simp] theorem State.modCore_core_self (s : State) (a : Axis) (f : FbCore → FbCore) : (s.modCore a f).core a = f (s.core a) := by
  simp [State.modCore, State.modFb, State.core]
theorem State.modCore_core_ne (s : State) (a b : Axis) (f : FbCore → FbCore) (h : b ≠ a) : (s.modCore a f).core b = s.core b := by
  simp [State.modCore, State.modFb, State.core, State.modAx_ax_ne _ _ _ _ h]
@[simp] theorem State.modMot_gd (s : State) (a b : Axis) (f : MotionSt → MotionSt) : (s.modMot a f).gd b = s.gd b := by
  by_cases h : b = a
  · subst h; simp [State.modMot, State.gd]
  · simp [State.modMot, State.gd, State.modAx_ax_ne _ _ _ _ h]
@[simp] theorem State.modMot_fol (s : State) (a b : Axis) (f : MotionSt → MotionSt) : (s.modMot a f).fol b = s.fol b := by
  by_cases h : b = a
  · subst h; simp [State.modMot, State.fol]
  · simp [State.modMot, State.fol, State.modAx_ax_ne _ _ _ _ h]
@[simp] theorem State.modMot_pwm (s : State) (a b : Axis) (f : MotionSt → MotionSt) : (s.modMot a f).pwm b = s.pwm b := by
  by_cases h : b = a
  · subst h; simp [State.modMot, State.pwm]
  · simp [State.modMot, State.pwm, State.modAx_ax_ne _ _ _ _ h]
@[simp] theorem State.modMot_cc (s : State) (a b : Axis) (f : MotionSt → MotionSt) : (s.modMot a f).cc b = s.cc b := by
  by_cases h : b = a
  · subst h; simp [State.modMot, State.cc]
  · simp [State.modMot, State.cc, State.modAx_ax_ne _ _ _ _ h]
@[simp] theorem State.modMot_la (s : State) (a b : Axis) (f : MotionSt → MotionSt) : (s.modMot a f).la b = s.la b := by
  by_cases h : b = a
  · subst h; simp [State.modMot, State.la]
  · simp [State.modMot, State.la, State.modAx_ax_ne _ _ _ _ h]
@[simp] theorem State.modMot_core (s : State) (a b : Axis) (f : MotionSt → MotionSt) : (s.modMot a f).core b = s.core b := by
  by_cases h : b = a
  · subst h; simp [State.modMot, State.core]
  · simp [State.modMot, State.core, State.modAx_ax_ne _ _ _ _ h]
@[simp] theorem State.modGd_mot (s : State) (a b : Axis) (f : GateSt → GateSt) : (s.modGd a f).mot b = s.mot b := by
  by_cases h : b = a
  · subst h; simp [State.modGd, State.mot]
  · simp [State.modGd, State.mot, State.modAx_ax_ne _ _ _ _ h]
@[simp] theorem State.modGd_fol (s : State) (a b : Axis) (f : GateSt → GateSt) : (s.modGd a f).fol b = s.fol b := by
  by_cases h : b = a
  · subst h; simp [State.modGd, State.fol]
  · simp [State.modGd, State.fol, State.modAx_ax_ne _ _ _ _ h]
@[simp] theorem State.modGd_pwm (s : State) (a b : Axis) (f : GateSt → GateSt) : (s.modGd a f).pwm b = s.pwm b := by
  by_cases h : b = a
  · subst h; simp [State.modGd, State.pwm]
  · simp [State.modGd, State.pwm, State.modAx_ax_ne _ _ _ _ h]
@[simp] theorem State.modGd_cc (s : State) (a b : Axis) (f : GateSt → GateSt) : (s.modGd a f).cc b = s.cc b := by
  by_cases h : b = a
  · subst h; simp [State.modGd, State.cc]
  · simp [State.modGd, State.cc, State.modAx_ax_ne _ _ _ _ h]
@[simp] theorem State.modGd_la (s : State) (a b : Axis) (f : GateSt → GateSt) : (s.modGd a f).la b = s.la b := by
  by_cases h : b = a
  · subst h; simp [State.modGd, State.la]
  · simp [State.modGd, State.la, State.modAx_ax_ne _ _ _ _ h]
@[simp] theorem State.modGd_core (s : State) (a b : Axis) (f : GateSt → GateSt) : (s.modGd a f).core b = s.core b := by
  by_cases h : b = a
  · subst h; simp [State.modGd, State.core]
  · simp [State.modGd, State.core, State.modAx_ax_ne _ _ _ _ h]
@[simp] theorem State.modFol_mot (s : State) (a b : Axis) (f : FollowSt → FollowSt) : (s.modFol a f).mot b = s.mot b := by
  by_cases h : b = a
  · subst h; simp [State.modFol, State.mot]
  · simp [State.modFol, State.mot, State.modAx_ax_ne _ _ _ _ h]
@[simp] theorem State.modFol_gd (s : State) (a b : Axis) (f : FollowSt → FollowSt) : (s.modFol a f).gd b = s.gd b := by
  by_cases h : b = a
  · subst h; simp [State.modFol, State.gd]
  · simp [State.modFol, State.gd, State.modAx_ax_ne _ _ _ _ h]
@[simp] theorem State.modFol_pwm (s : State) (a b : Axis) (f : FollowSt → FollowSt) : (s.modFol a f).pwm b = s.pwm b := by
  by_cases h : b = a
  · subst h; simp [State.modFol, State.pwm]
  · simp [State.modFol, State.pwm, State.modAx_ax_ne _ _ _ _ h]
@[simp] theorem State.modFol_cc (s : State) (a b : Axis) (f : FollowSt → FollowSt) : (s.modFol a f).cc b = s.cc b := by
  by_cases h : b = a
  · subst h; simp [State.modFol, State.cc]
  · simp [State.modFol, State.cc, State.modAx_ax_ne _ _ _ _ h]
@[simp] theorem State.modFol_la (s : State) (a b : Axis) (f : FollowSt → FollowSt) : (s.modFol a f).la b = s.la b := by
  by_cases h : b = a
  · subst h; simp [State.modFol, State.la]
  · simp [State.modFol, State.la, State.modAx_ax_ne _ _ _ _ h]
@[simp] theorem State.modFol_core (s : State) (a b : Axis) (f : FollowSt → FollowSt) : (s.modFol a f).core b = s.core b := by
  by_cases h : b = a
  · subst h; simp [State.modFol, State.core]
  · simp [State.modFol, State.core, State.modAx_ax_ne _ _ _ _ h]
@[simp] theorem State.modPwm_mot (s : State) (a b : Axis) (f : PwmSt → PwmSt) : (s.modPwm a f).mot b = s.mot b := by
  by_cases h : b = a
  · subst h; simp [State.modPwm, State.mot]
  · simp [State.modPwm, State.mot, State.modAx_ax_ne _ _ _ _ h]
@[simp] theorem State.modPwm_gd (s : State) (a b : Axis) (f : PwmSt → PwmSt) : (s.modPwm a f).gd b = s.gd b := by
  by_cases h : b = a
  · subst h; simp [State.modPwm, State.gd]
  · simp [State.modPwm, State.gd, State.modAx_ax_ne _ _ _ _ h]
@[simp] theorem State.modPwm_fol (s : State) (a b : Axis) (f : PwmSt → PwmSt) : (s.modPwm a f).fol b = s.fol b := by
  by_cases h : b = a
  · subst h; simp [State.modPwm, State.fol]
  · simp [State.modPwm, State.fol, State.modAx_ax_ne _ _ _ _ h]
@[simp] theorem State.modPwm_cc (s : State) (a b : Axis) (f : PwmSt → PwmSt) : (s.modPwm a f).cc b = s.cc b := by
  by_cases h : b = a
  · subst h; simp [State.modPwm, State.cc]
  · simp [State.modPwm, State.cc, State.modAx_ax_ne _ _ _ _ h]
@[simp] theorem State.modPwm_la (s : State) (a b : Axis) (f : PwmSt → PwmSt) : (s.modPwm a f).la b = s.la b := by
  by_cases h : b = a
  · subst h; simp [State.modPwm, State.la]
  · simp [State.modPwm, State.la, State.modAx_ax_ne _ _ _ _ h]
@[simp] theorem State.modPwm_core (s : State) (a b : Axis) (f : PwmSt → PwmSt) : (s.modPwm a f).core b = s.core b := by
  by_cases h : b = a
  · subst h; simp [State.modPwm, State.core]
  · simp [State.modPwm, State.core, State.modAx_ax_ne _ _ _ _ h]
@[simp] theorem State.modCc_mot (s : State) (a b : Axis) (f : CcSt → CcSt) : (s.modCc a f).mot b = s.mot b := by
  by_cases h : b = a
  · subst h; simp [State.modCc, State.mot]
  · simp [State.modCc, State.mot, State.modAx_ax_ne _ _ _ _ h]
@[simp] theorem State.modCc_gd (s : State) (a b : Axis) (f : CcSt → CcSt) : (s.modCc a f).gd b = s.gd b := by
  by_cases h : b = a
  · subst h; simp [State.modCc, State.gd]
  · simp [State.modCc, State.gd, State.modAx_ax_ne _ _ _ _ h]
@[simp] theorem State.modCc_fol (s : State) (a b : Axis) (f : CcSt → CcSt) : (s.modCc a f).fol b = s.fol b := by
  by_cases h : b = a
  · subst h; simp [State.modCc, State.fol]
  · simp [State.modCc, State.fol, State.modAx_ax_ne _ _ _ _ h]
@[simp] theorem State.modCc_pwm (s : State) (a b : Axis) (f : CcSt → CcSt) : (s.modCc a f).pwm b = s.pwm b := by
  by_cases h : b = a
  · subst h; simp [State.modCc, State.pwm]
  · simp [State.modCc, State.pwm, State.modAx_ax_ne _ _ _ _ h]
@[simp] theorem State.modCc_la (s : State) (a b : Axis) (f : CcSt → CcSt) : (s.modCc a f).la b = s.la b := by
  by_cases h : b = a
  · subst h; simp [State.modCc, State.la]
  · simp [State.modCc, State.la, State.modAx_ax_ne _ _ _ _ h]
@[simp] theorem State.modCc_core (s : State) (a b : Axis) (f : CcSt → CcSt) : (s.modCc a f).core b = s.core b := by
  by_cases h : b = a
  · subst h; simp [State.modCc, State.core]
  · simp [State.modCc, State.core, State.modAx_ax_ne _ _ _ _ h]
@[simp] theorem State.modLa_mot (s : State) (a b : Axis) (f : LaSt → LaSt) : (s.modLa a f).mot b = s.mot b := by
  by_cases h : b = a
  · subst h; simp [State.modLa, State.mot]
  · simp [State.modLa, State.mot, State.modAx_ax_ne _ _ _ _ h]
@[simp] theorem State.modLa_gd (s : State) (a b : Axis) (f : LaSt → LaSt) : (s.modLa a f).gd b = s.gd b := by
  by_cases h : b = a
  · subst h; simp [State.modLa, State.gd]
  · simp [State.modLa, State.gd, State.modAx_ax_ne _ _ _ _ h]
@[simp] theorem State.modLa_fol (s : State) (a b : Axis) (f : LaSt → LaSt) : (s.modLa a f).fol b = s.fol b := by
  by_cases h : b = a
  · subst h; simp [State.modLa, State.fol]
  · simp [State.modLa, State.fol, State.modAx_ax_ne _ _ _ _ h]
@[simp] theorem State.modLa_pwm (s : State) (a b : Axis) (f : LaSt → LaSt) : (s.modLa a f).pwm b = s.pwm b := by
  by_cases h : b = a
  · subst h; simp [State.modLa, State.pwm]
  · simp [State.modLa, State.pwm, State.modAx_ax_ne _ _ _ _ h]
@[simp] theorem State.modLa_cc (s : State) (a b : Axis) (f : LaSt → LaSt) : (s.modLa a f).cc b = s.cc b := by
  by_cases h : b = a
  · subst h; simp [State.modLa, State.cc]
  · simp [State.modLa, State.cc, State.modAx_ax_ne _ _ _ _ h]
@[simp] theorem State.modLa_core (s : State) (a b : Axis) (f : LaSt → LaSt) : (s.modLa a f).core b = s.core b := by
  by_cases h : b = a
  · subst h; simp [State.modLa, State.core]
  · simp [State.modLa, State.core, State.modAx_ax_ne _ _ _ _ h]
@[simp] theorem State.modFb_mot (s : State) (a b : Axis) (f : FbSt → FbSt) : (s.modFb a f).mot b = s.mot b := by
  by_cases h : b = a
  · subst h; simp [State.modFb, State.mot]
  · simp [State.modFb, State.mot, State.modAx_ax_ne _ _ _ _ h]
@[simp] theorem State.modFb_gd (s : State) (a b : Axis) (f : FbSt → FbSt) : (s.modFb a f).gd b = s.gd b := by
  by_cases h : b = a
  · subst h; simp [State.modFb, State.gd]
  · simp [State.modFb, State.gd, State.modAx_ax_ne _ _ _ _ h]
@[simp] theorem State.modFb_fol (s : State) (a b : Axis) (f : FbSt → FbSt) : (s.modFb a f).fol b = s.fol b := by
  by_cases h : b = a
  · subst h; simp [State.modFb, State.fol]
  · simp [State.modFb, State.fol, State.modAx_ax_ne _ _ _ _ h]
@[simp] theorem State.modFb_pwm (s : State) (a b : Axis) (f : FbSt → FbSt) : (s.modFb a f).pwm b = s.pwm b := by
  by_cases h : b = a
  · subst h; simp [State.modFb, State.pwm]
  · simp [State.modFb, State.pwm, State.modAx_ax_ne _ _ _ _ h]
@[simp] theorem State.modFb_cc (s : State) (a b : Axis) (f : FbSt → FbSt) : (s.modFb a f).cc b = s.cc b := by
  by_cases h : b = a
  · subst h; simp [State.modFb, State.cc]
  · simp [State.modFb, State.cc, State.modAx_ax_ne _ _ _ _ h]
@[simp] theorem State.modFb_la (s : State) (a b : Axis) (f : FbSt → FbSt) : (s.modFb a f).la b = s.la b := by
  by_cases h : b = a
  · subst h; simp [State.modFb, State.la]
  · simp [State.modFb, State.la, State.modAx_ax_ne _ _ _ _ h]
@[simp] theorem State.modCore_mot (s : State) (a b : Axis) (f : FbCore → FbCore) : (s.modCore a f).mot b = s.mot b := by
  by_cases h : b = a
  · subst h; simp [State.modCore, State.modFb, State.mot]
  · simp [State.modCore, State.modFb, State.mot, State.modAx_ax_ne _ _ _ _ h]
@[simp] theorem State.modCore_gd (s : State) (a b : Axis) (f : FbCore → FbCore) : (s.modCore a f).gd b = s.gd b := by
  by_cases h : b = a
  · subst h; simp [State.modCore, State.modFb, State.gd]
  · simp [State.modCore, State.modFb, State.gd, State.modAx_ax_ne _ _ _ _ h]
@[simp] theorem State.modCore_fol (s : State) (a b : Axis) (f : FbCore → FbCore) : (s.modCore a f).fol b = s.fol b := by
  by_cases h : b = a
  · subst h; simp [State.modCore, State.modFb, State.fol]
  · simp [State.modCore, State.modFb, State.fol, State.modAx_ax_ne _ _ _ _ h]
@[simp] theorem State.modCore_pwm (s : State) (a b : Axis) (f : FbCore → FbCore) : (s.modCore a f).pwm b = s.pwm b := by
  by_cases h : b = a
  · subst h; simp [State.modCore, State.modFb, State.pwm]
  · simp [State.modCore, State.modFb, State.pwm, State.modAx_ax_ne _ _ _ _ h]
@[simp] theorem State.modCore_cc (s : State) (a b : Axis) (f : FbCore → FbCore) : (s.modCore a f).cc b = s.cc b := by
  by_cases h : b = a
  · subst h; simp [State.modCore, State.modFb, State.cc]
  · simp [State.modCore, State.modFb, State.cc, State.modAx_ax_ne _ _ _ _ h]
@[simp] theorem State.modCore_la (s : State) (a b : Axis) (f : FbCore → FbCore) : (s.modCore a f).la b = s.la b := by
  by_cases h : b = a
  · subst h; simp [State.modCore, State.modFb, State.la]
  · simp [State.modCore, State.modFb, State.la, State.modAx_ax_ne _ _ _ _ h]

end Sys2Proof.Machine
end

