-- ==== Sys2Proof/Laws/Regs.lean ====
section
/-!
SUPPORT. Reading a field after a write: the field written reads back, every field that shares no bit with it reads as before
(R8, R15); and the register file keeps its canonical form.
-/

namespace Sys2Proof.Machine

/-! ### Bit fields -/

theorem fieldMask_getLsbD (hi lo k : Nat) (h : k < 32) :
    (fieldMask hi lo).getLsbD k = (decide (lo ≤ k) && decide (k ≤ hi)) := by
  simp only [fieldMask, BitVec.getLsbD_and, BitVec.getLsbD_ushiftRight, BitVec.getLsbD_shiftLeft, BitVec.getLsbD_allOnes]
  by_cases h1 : lo ≤ k <;> by_cases h2 : k ≤ hi <;> simp [h, h1, h2] <;> omega

theorem putBits_getLsbD (w : Word) (hi lo v k : Nat) (h : k < 32) :
    (putBits w hi lo v).getLsbD k = if lo ≤ k ∧ k ≤ hi then v.testBit (k - lo) else w.getLsbD k := by
  simp only [putBits, BitVec.getLsbD_or, BitVec.getLsbD_and, BitVec.getLsbD_not, BitVec.getLsbD_shiftLeft,
    fieldMask_getLsbD _ _ _ h, BitVec.getLsbD_ofNat]
  have h' : k - lo < 32 := by omega
  by_cases h1 : lo ≤ k <;> by_cases h2 : k ≤ hi <;> simp [h, h', h1, h2]

theorem getBits_testBit (w : Word) (hi lo k : Nat) :
    (getBits w hi lo).testBit k = (decide (lo + k < 32) && decide (lo + k ≤ hi) && w.getLsbD (lo + k)) := by
  simp only [getBits, ← BitVec.getLsbD.eq_1, BitVec.getLsbD_ushiftRight, BitVec.getLsbD_and]
  by_cases h : lo + k < 32
  · rw [fieldMask_getLsbD _ _ _ h]
    by_cases h2 : lo + k ≤ hi <;> simp [h, h2]
  · have : w.getLsbD (lo + k) = false := BitVec.getLsbD_of_ge _ _ (by omega)
    simp [this]

/-- A field reads back what was put into it. -/
theorem getBits_putBits_same (w : Word) (hi lo v : Nat) (h : hi < 32) (hv : v < 2 ^ (hi + 1 - lo)) (hl : lo ≤ hi) :
    getBits (putBits w hi lo v) hi lo = v := by
  apply Nat.eq_of_testBit_eq
  intro k
  rw [getBits_testBit]
  by_cases hk : lo + k ≤ hi
  · have h32 : lo + k < 32 := by omega
    rw [putBits_getLsbD _ _ _ _ _ h32]
    simp [h32, hk]
  · have : v.testBit k = false := Nat.testBit_lt_two_pow (Nat.lt_of_lt_of_le hv (Nat.pow_le_pow_right (by omega) (by omega)))
    simp [hk, this]

/-- A field that shares no bit with the one put reads as before. -/
theorem getBits_putBits_other (w : Word) (hi lo v hi' lo' : Nat) (h : hi' < lo ∨ hi < lo') :
    getBits (putBits w hi lo v) hi' lo' = getBits w hi' lo' := by
  apply Nat.eq_of_testBit_eq
  intro k
  rw [getBits_testBit, getBits_testBit]
  by_cases h32 : lo' + k < 32
  · rw [putBits_getLsbD _ _ _ _ _ h32]
    by_cases hk : lo' + k ≤ hi'
    · have : ¬ (lo ≤ lo' + k ∧ lo' + k ≤ hi) := by omega
      simp [this]
    · simp [hk]
  · simp [h32]

/-! ### The register file -/

theorem rfGet_rfInsert_same (l : List (Nat × Word)) (a : Nat) (w : Word) : rfGet (rfInsert l a w) a = w := by
  induction l with
  | nil => simp [rfInsert, rfGet]
  | cons e l ih =>
    obtain ⟨b, v⟩ := e
    simp only [rfInsert]
    split
    · simp [rfGet]
    · split
      · simp [rfGet]
      · rename_i h1 h2
        simp [rfGet, ih, Ne.symm h2]

theorem rfGet_rfInsert_other (l : List (Nat × Word)) (a b : Nat) (w : Word) (h : b ≠ a) :
    rfGet (rfInsert l a w) b = rfGet l b := by
  induction l with
  | nil => simp [rfInsert, rfGet, Ne.symm h]
  | cons e l ih =>
    obtain ⟨c, v⟩ := e
    simp only [rfInsert]
    split
    · simp [rfGet, Ne.symm h]
    · split
      · rename_i h1 h2
        subst h2
        simp [rfGet, Ne.symm h]
      · simp [rfGet, ih]

theorem rfGet_rfErase_same (l : List (Nat × Word)) (a : Nat) : rfGet (rfErase l a) a = resetWord a := by
  induction l with
  | nil => rfl
  | cons e l ih =>
    obtain ⟨b, v⟩ := e
    simp only [rfErase]
    split
    · exact ih
    · rename_i h
      simp [rfGet, h, ih]

theorem rfGet_rfErase_other (l : List (Nat × Word)) (a b : Nat) (h : b ≠ a) : rfGet (rfErase l a) b = rfGet l b := by
  induction l with
  | nil => rfl
  | cons e l ih =>
    obtain ⟨c, v⟩ := e
    simp only [rfErase]
    split
    · rename_i h1
      subst h1
      simp [rfGet, Ne.symm h, ih]
    · simp [rfGet, ih]

/-- A word written to the register file reads back. -/
theorem rfGet_rfSet_same (l : List (Nat × Word)) (a : Nat) (w : Word) : rfGet (rfSet l a w) a = w := by
  unfold rfSet
  split
  · rename_i h
    rw [rfGet_rfErase_same, h]
  · exact rfGet_rfInsert_same l a w

/-- A write leaves every other address alone. -/
theorem rfGet_rfSet_other (l : List (Nat × Word)) (a b : Nat) (w : Word) (h : b ≠ a) : rfGet (rfSet l a w) b = rfGet l b := by
  unfold rfSet
  split
  · exact rfGet_rfErase_other l a b h
  · exact rfGet_rfInsert_other l a b w h

/-! ### Fields of the state -/

/-- A field that was set reads the value, if it fits. -/
theorem State.get_set_same (s : State) (f : Fld) (v : Nat) (h : f.hi < 32) (hl : f.lo ≤ f.hi) (hv : v < 2 ^ (f.hi + 1 - f.lo)) :
    (s.set f v).get f = v := by
  simp [State.get, State.set, rfGet_rfSet_same, getBits_putBits_same _ _ _ _ h hv hl]

/-- A field that shares no bit with the one set reads as before. -/
theorem State.get_set_other (s : State) (f g : Fld) (v : Nat) (h : g.addr ≠ f.addr ∨ g.hi < f.lo ∨ f.hi < g.lo) :
    (s.set f v).get g = s.get g := by
  by_cases ha : g.addr = f.addr
  · have hd : g.hi < f.lo ∨ f.hi < g.lo := by
      rcases h with h | h
      · exact absurd ha h
      · exact h
    simp [State.get, State.set, ha, rfGet_rfSet_same, getBits_putBits_other _ _ _ _ _ _ hd]
  · simp [State.get, State.set, rfGet_rfSet_other _ _ _ _ ha]

/-- A word that was set reads back. -/
theorem State.setWord_get_word (s : State) (a : Nat) (w : Word) : rfGet (s.setWord a w).regs a = w :=
  rfGet_rfSet_same s.regs a w

/-! ### Canonical form -/

theorem rfSorted_mono (l : List (Nat × Word)) (lo lo' : Nat) (h : lo' ≤ lo) (hs : rfSorted lo l = true) :
    rfSorted lo' l = true := by
  cases l with
  | nil => rfl
  | cons e l =>
    obtain ⟨b, v⟩ := e
    simp only [rfSorted, Bool.and_eq_true, decide_eq_true_eq] at hs ⊢
    exact ⟨by omega, hs.2⟩

theorem rfSorted_rfErase (l : List (Nat × Word)) (lo a : Nat) (hs : rfSorted lo l = true) : rfSorted lo (rfErase l a) = true := by
  induction l generalizing lo with
  | nil => exact hs
  | cons e l ih =>
    obtain ⟨b, v⟩ := e
    simp only [rfSorted, Bool.and_eq_true, decide_eq_true_eq] at hs
    simp only [rfErase]
    split
    · exact rfSorted_mono _ (b + 1) lo (by omega) (ih _ hs.2)
    · simp only [rfSorted, Bool.and_eq_true, decide_eq_true_eq]
      exact ⟨hs.1, ih _ hs.2⟩

theorem rfSorted_rfInsert (l : List (Nat × Word)) (lo a : Nat) (w : Word) (ha : lo ≤ a) (hs : rfSorted lo l = true) :
    rfSorted lo (rfInsert l a w) = true := by
  induction l generalizing lo with
  | nil => simp [rfInsert, rfSorted, ha]
  | cons e l ih =>
    obtain ⟨b, v⟩ := e
    simp only [rfSorted, Bool.and_eq_true, decide_eq_true_eq] at hs
    simp only [rfInsert]
    split
    · rename_i h
      simp only [rfSorted, Bool.and_eq_true, decide_eq_true_eq]
      exact ⟨ha, by omega, hs.2⟩
    · split
      · rename_i h1 h2
        subst h2
        simp only [rfSorted, Bool.and_eq_true, decide_eq_true_eq]
        exact ⟨ha, hs.2⟩
      · simp only [rfSorted, Bool.and_eq_true, decide_eq_true_eq]
        exact ⟨hs.1, ih _ (by omega) hs.2⟩

theorem mem_rfErase (l : List (Nat × Word)) (a : Nat) (e : Nat × Word) (h : e ∈ rfErase l a) : e ∈ l := by
  induction l with
  | nil => exact h
  | cons x l ih =>
    obtain ⟨b, v⟩ := x
    simp only [rfErase] at h
    split at h
    · exact List.mem_cons_of_mem _ (ih h)
    · rcases List.mem_cons.mp h with h | h
      · exact h ▸ List.mem_cons_self
      · exact List.mem_cons_of_mem _ (ih h)

theorem mem_rfInsert (l : List (Nat × Word)) (a : Nat) (w : Word) (e : Nat × Word) (h : e ∈ rfInsert l a w) :
    e = (a, w) ∨ e ∈ l := by
  induction l with
  | nil => exact .inl (List.mem_singleton.mp h)
  | cons x l ih =>
    obtain ⟨b, v⟩ := x
    simp only [rfInsert] at h
    split at h
    · exact List.mem_cons.mp h
    · split at h
      · rcases List.mem_cons.mp h with h | h
        · exact .inl h
        · exact .inr (List.mem_cons_of_mem _ h)
      · rcases List.mem_cons.mp h with h | h
        · exact .inr (h ▸ List.mem_cons_self)
        · rcases ih h with h | h
          · exact .inl h
          · exact .inr (List.mem_cons_of_mem _ h)

/-- A write keeps the canonical form of a register file (R381). -/
theorem rfWf_rfSet (l : List (Nat × Word)) (a : Nat) (w : Word) (h : rfWf l = true) : rfWf (rfSet l a w) = true := by
  simp only [rfWf, Bool.and_eq_true, List.all_eq_true, bne_iff_ne, ne_eq] at h ⊢
  unfold rfSet
  split
  · exact ⟨rfSorted_rfErase _ _ _ h.1, fun e he => h.2 e (mem_rfErase _ _ _ he)⟩
  · rename_i hw
    refine ⟨rfSorted_rfInsert _ _ _ _ (Nat.zero_le _) h.1, fun e he => ?_⟩
    rcases mem_rfInsert _ _ _ _ he with he | he
    · subst he; exact hw
    · exact h.2 e he

end Sys2Proof.Machine
end

