-- ==== Sys2Proof/Laws/Keeps.lean ====
section
/-!
SUPPORT. What every operation of the block keeps: the canonical form of the register file and of the Locker's stored bytes,
the queue of waiting commands, and the directions in which the fused lifecycle and the audit numbers move.
-/

namespace Sys2Proof.Machine

/-- From `r` to `t`: canonical memory stays canonical, the queue of waiting commands is untouched, the lifecycle and the audit
numbers do not go back. -/
structure Keeps (r t : State) : Prop where
  regs : rfWf r.regs = true → rfWf t.regs = true
  cells : cellWf r.lk.cells = true → cellWf t.lk.cells = true
  pending : t.pending = r.pending
  life : r.sec.life ≤ t.sec.life
  audit : r.sec.auditNext ≤ t.sec.auditNext

theorem Keeps.refl (r : State) : Keeps r r := ⟨id, id, rfl, BitVec.le_refl _, Nat.le_refl _⟩

theorem Keeps.trans {r s t : State} (h : Keeps r s) (k : Keeps s t) : Keeps r t :=
  ⟨k.regs ∘ h.regs, k.cells ∘ h.cells, k.pending.trans h.pending, BitVec.le_trans h.life k.life, Nat.le_trans h.audit k.audit⟩

/-- An update that touches none of the five parts. -/
theorem Keeps.congr {r s t : State} (h : Keeps r s) (h1 : t.regs = s.regs) (h2 : t.lk.cells = s.lk.cells)
    (h3 : t.pending = s.pending) (h4 : t.sec.life = s.sec.life) (h5 : t.sec.auditNext = s.sec.auditNext) : Keeps r t :=
  ⟨fun k => h1 ▸ h.regs k, fun k => h2 ▸ h.cells k, h3.trans h.pending, h4 ▸ h.life, h5 ▸ h.audit⟩

/-- `Keeps` said of the five parts themselves. -/
structure KeepsParts (r : State) (regs : List (Nat × Word)) (cells : List Host.Cell) (pending : List Instr) (life : BitVec 2)
    (audit : Nat) : Prop where
  regs : rfWf r.regs = true → rfWf regs = true
  cells : cellWf r.lk.cells = true → cellWf cells = true
  pending : pending = r.pending
  life : r.sec.life ≤ life
  audit : r.sec.auditNext ≤ audit

theorem Keeps.parts {r s : State} (h : Keeps r s) :
    KeepsParts r s.regs s.lk.cells s.pending s.sec.life s.sec.auditNext :=
  ⟨h.regs, h.cells, h.pending, h.life, h.audit⟩

/-- A state written out as a record. -/
theorem Keeps.mk_iff {r : State} 
    {now : Nat} {freeCtr : Nat} {regs : List (Nat × Word)} {axes : Vector AxisSt 16} {mch : Vector MchSt 4} {wt : Vector
    WtSt 8} {ms : MsSt} {ip : InterpSt} {hp : PortSt} {aux : PortSt} {tb : TimeSt} {pw : PowerSt} {priv : Vector
    PrivSt 8} {bk : BkSt} {sec : SecSt} {lk : LkSt} {cv : CvSt} {wh : WhSt} {rst : RstSt} {auxm : AuxSt} {tap : TapSt}
    {whReq : List (Nat × Nat)} {plnWork : Option Axis} {pending : List Instr} :
    Keeps r ⟨now, freeCtr, regs, axes, mch, wt, ms, ip, hp, aux, tb, pw, priv, bk, sec, lk, cv, wh, rst, auxm, tap, whReq,
      plnWork, pending⟩ ↔
      KeepsParts r regs lk.cells pending sec.life sec.auditNext :=
  ⟨fun h => ⟨h.regs, h.cells, h.pending, h.life, h.audit⟩, fun h => ⟨h.regs, h.cells, h.pending, h.life, h.audit⟩⟩

theorem Keeps.ite {r a b : State} {c : Prop} [Decidable c] (ha : Keeps r a) (hb : Keeps r b) :
    Keeps r (if c then a else b) := by
  split
  · exact ha
  · exact hb

theorem Keeps.ite_fst {α : Type} {r : State} {a b : State × α} {c : Prop} [Decidable c] (ha : Keeps r a.1) (hb : Keeps r b.1) :
    Keeps r (if c then a else b).1 := by
  split
  · exact ha
  · exact hb

theorem Keeps.ite_snd {α : Type} {r : State} {a b : α × State} {c : Prop} [Decidable c] (ha : Keeps r a.2) (hb : Keeps r b.2) :
    Keeps r (if c then a else b).2 := by
  split
  · exact ha
  · exact hb

theorem Keeps.each {α : Type} {r s : State} {f : α → State → State} (hf : ∀ x t, Keeps r t → Keeps r (f x t)) (l : List α)
    (h : Keeps r s) : Keeps r (s.each l f) := by
  induction l generalizing s with
  | nil => exact h
  | cons x l ih => exact ih (hf x s h)

theorem Keeps.foldl {α : Type} {r s : State} {f : State → α → State} (hf : ∀ x t, Keeps r t → Keeps r (f t x)) (l : List α)
    (h : Keeps r s) : Keeps r (l.foldl f s) := by
  induction l generalizing s with
  | nil => exact h
  | cons x l ih => exact ih (hf x s h)

theorem State.setWord_keeps {r : State} (s : State) (a : Nat) (w : Word) (h : Keeps r s) : Keeps r (s.setWord a w) :=
  ⟨fun k => rfWf_rfSet _ _ _ (h.regs k), h.cells, h.pending, h.life, h.audit⟩

theorem State.set_keeps {r : State} (s : State) (f : Fld) (v : Nat) (h : Keeps r s) : Keeps r (s.set f v) :=
  ⟨fun k => rfWf_rfSet _ _ _ (h.regs k), h.cells, h.pending, h.life, h.audit⟩

end Sys2Proof.Machine
end

