-- ==== Sys2Proof/Laws/KeepsOps.lean ====
section
/-!
SUPPORT. What the operations of the named operations over registers and memory keep (Laws/Keeps.lean), one lemma for each.
-/

namespace Sys2Proof.Machine

theorem State.setB_keeps {r0 : State} (s : State) (f : Fld) (b : Bool) (hk : Keeps r0 s) :
    Keeps r0 (State.setB s f b) := by
  unfold State.setB
  repeat' with_reducible first | assumption | extract_lets | apply State.set_keeps

theorem State.setS_keeps {r0 : State} (s : State) (f : Fld) (v : Int) (hk : Keeps r0 s) :
    Keeps r0 (State.setS s f v) := by
  unfold State.setS
  repeat' with_reducible first | assumption | extract_lets | apply State.set_keeps

theorem State.raise_keeps {r0 : State} (s : State) (f : Fld) (hk : Keeps r0 s) :
    Keeps r0 (State.raise s f) := by
  unfold State.raise
  repeat' with_reducible first | assumption | extract_lets | apply State.set_keeps

theorem State.count_keeps {r0 : State} (s : State) (f : Fld) (n : Nat) (hk : Keeps r0 s) :
    Keeps r0 (State.count s f n) := by
  unfold State.count
  repeat' with_reducible first | assumption | extract_lets | apply State.set_keeps

theorem State.inc_keeps {r0 : State} (s : State) (f : Fld) (hk : Keeps r0 s) :
    Keeps r0 (State.inc s f) := by
  unfold State.inc
  repeat' with_reducible first | assumption | extract_lets | apply State.count_keeps

theorem State.mark_keeps {r0 : State} (s : State) (f : Fld) (v : Nat) (hk : Keeps r0 s) :
    Keeps r0 (State.mark s f v) := by
  unfold State.mark
  repeat' with_reducible first | assumption | extract_lets | apply State.set_keeps

theorem State.at_keeps {r0 : State} (s : State) (t : Nat) (hk : Keeps r0 s) :
    Keeps r0 (State.at_ s t) := by
  unfold State.at_
  repeat' with_reducible first
    | assumption | extract_lets | apply Keeps.ite | (intro _ _ _) | (intro _ _)
    | (simp only [Keeps.mk_iff]; apply Keeps.parts)

theorem State.free_keeps {r0 : State} (s : State) (hk : Keeps r0 s) :
    Keeps r0 (State.free s).2 := by
  unfold State.free
  repeat' with_reducible first
    | assumption | extract_lets | apply Keeps.ite_snd | apply Keeps.ite | (intro _ _ _) | (intro _ _)
    | (simp only [Keeps.mk_iff]; apply Keeps.parts)

theorem State.modAx_keeps {r0 : State} (s : State) (a : Axis) (f : AxisSt → AxisSt) (hk : Keeps r0 s) :
    Keeps r0 (State.modAx s a f) := by
  unfold State.modAx
  repeat' with_reducible first
    | assumption | extract_lets | apply State.set_keeps | apply Keeps.ite | (intro _ _ _) | (intro _ _)
    | (simp only [Keeps.mk_iff]; apply Keeps.parts)

theorem State.modMot_keeps {r0 : State} (s : State) (a : Axis) (f : MotionSt → MotionSt) (hk : Keeps r0 s) :
    Keeps r0 (State.modMot s a f) := by
  unfold State.modMot
  repeat' with_reducible first | assumption | extract_lets | apply State.modAx_keeps

theorem State.modGd_keeps {r0 : State} (s : State) (a : Axis) (f : GateSt → GateSt) (hk : Keeps r0 s) :
    Keeps r0 (State.modGd s a f) := by
  unfold State.modGd
  repeat' with_reducible first | assumption | extract_lets | apply State.modAx_keeps

theorem State.modFol_keeps {r0 : State} (s : State) (a : Axis) (f : FollowSt → FollowSt) (hk : Keeps r0 s) :
    Keeps r0 (State.modFol s a f) := by
  unfold State.modFol
  repeat' with_reducible first | assumption | extract_lets | apply State.modAx_keeps

theorem State.modPwm_keeps {r0 : State} (s : State) (a : Axis) (f : PwmSt → PwmSt) (hk : Keeps r0 s) :
    Keeps r0 (State.modPwm s a f) := by
  unfold State.modPwm
  repeat' with_reducible first | assumption | extract_lets | apply State.modAx_keeps

theorem State.modCc_keeps {r0 : State} (s : State) (a : Axis) (f : CcSt → CcSt) (hk : Keeps r0 s) :
    Keeps r0 (State.modCc s a f) := by
  unfold State.modCc
  repeat' with_reducible first | assumption | extract_lets | apply State.modAx_keeps

theorem State.modLa_keeps {r0 : State} (s : State) (a : Axis) (f : LaSt → LaSt) (hk : Keeps r0 s) :
    Keeps r0 (State.modLa s a f) := by
  unfold State.modLa
  repeat' with_reducible first | assumption | extract_lets | apply State.modAx_keeps

theorem State.modWt_keeps {r0 : State} (s : State) (t : Fin 8) (f : WtSt → WtSt) (hk : Keeps r0 s) :
    Keeps r0 (State.modWt s t f) := by
  unfold State.modWt
  repeat' with_reducible first
    | assumption | extract_lets | apply State.set_keeps | apply Keeps.ite | (intro _ _ _) | (intro _ _)
    | (simp only [Keeps.mk_iff]; apply Keeps.parts)

theorem State.modFb_keeps {r0 : State} (s : State) (a : Axis) (f : FbSt → FbSt) (hk : Keeps r0 s) :
    Keeps r0 (State.modFb s a f) := by
  unfold State.modFb
  repeat' with_reducible first | assumption | extract_lets | apply State.modAx_keeps

theorem State.modCore_keeps {r0 : State} (s : State) (a : Axis) (f : FbCore → FbCore) (hk : Keeps r0 s) :
    Keeps r0 (State.modCore s a f) := by
  unfold State.modCore
  repeat' with_reducible first | assumption | extract_lets | apply State.modFb_keeps

theorem beginMotion_keeps {r0 : State} (a : Axis) (s : State) (hk : Keeps r0 s) :
    Keeps r0 (beginMotion a s) := by
  unfold beginMotion
  repeat' with_reducible first | assumption | extract_lets | apply State.modMot_keeps

end Sys2Proof.Machine
end

