-- ==== Sys2Proof/Laws/KeepsPlanner.lean ====
section
/-!
SUPPORT. What the operations of the planner keep (Laws/Keeps.lean), one lemma for each.
-/

namespace Sys2Proof.Machine

theorem logRetire_keeps {r0 : State} (c : QCmd) (o : Outc) (s : State) (hk : Keeps r0 s) :
    Keeps r0 (logRetire c o s) := by
  unfold logRetire
  repeat' with_reducible first
    | assumption | extract_lets | apply State.inc_keeps | apply State.set_keeps | apply Keeps.ite | (intro _ _ _)
    | (intro _ _) | (simp only [Keeps.mk_iff]; apply Keeps.parts) | split | dsimp +zetaDelta only

theorem flushLedger_keeps {r : State} (l : List (QCmd × Option Outc)) (s : State) (h : Keeps r s) :
    Keeps r (flushLedger l s) := by
  induction l generalizing s with
  | nil => exact Keeps.mk_iff.mpr h.parts
  | cons e l ih =>
    obtain ⟨c, o⟩ := e
    cases o with
    | none => exact Keeps.mk_iff.mpr h.parts
    | some o => exact ih _ (logRetire_keeps c o _ (Keeps.mk_iff.mpr h.parts))

theorem retire_keeps {r0 : State} (seq : BitVec 16) (o : Outc) (s : State) (hk : Keeps r0 s) :
    Keeps r0 (retire seq o s) := by
  unfold retire
  repeat' with_reducible first | assumption | extract_lets | apply flushLedger_keeps

theorem retireAll_keeps {r0 : State} (l : List (BitVec 16)) (o : Outc) (s : State) (hk : Keeps r0 s) :
    Keeps r0 (retireAll l o s) := by
  unfold retireAll
  repeat' with_reducible first
    | assumption | extract_lets | apply retire_keeps | apply Keeps.each | apply Keeps.ite | (intro _ _ _)

theorem cancelWaiting_keeps {r0 : State} (a : Axis) (s : State) (hk : Keeps r0 s) :
    Keeps r0 (cancelWaiting a s) := by
  unfold cancelWaiting
  repeat' with_reducible first
    | assumption | extract_lets | apply retireAll_keeps | apply Keeps.ite | (intro _ _ _) | (intro _ _)
    | (simp only [Keeps.mk_iff]; apply Keeps.parts) | split | dsimp +zetaDelta only

theorem countOffside_keeps {r0 : State} (n : Nat) (s : State) (hk : Keeps r0 s) :
    Keeps r0 (countOffside n s) := by
  unfold countOffside
  repeat' with_reducible first | assumption | extract_lets | apply State.count_keeps | apply Keeps.ite

theorem discardWindow_keeps {r0 : State} (a : Axis) (s : State) (hk : Keeps r0 s) :
    Keeps r0 (discardWindow a s) := by
  unfold discardWindow
  repeat' with_reducible first | assumption | extract_lets | apply State.modMot_keeps | apply countOffside_keeps

theorem countCut_keeps {r0 : State} (n : Nat) (s : State) (hk : Keeps r0 s) :
    Keeps r0 (countCut n s) := by
  unfold countCut
  repeat' with_reducible first | assumption | extract_lets | apply State.count_keeps | apply Keeps.ite

theorem clearRemain_keeps {r0 : State} (a : Axis) (s : State) (hk : Keeps r0 s) :
    Keeps r0 (clearRemain a s) := by
  unfold clearRemain
  repeat' with_reducible first | assumption | extract_lets | apply State.set_keeps

theorem dropCut_keeps {r0 : State} (o r : Outc) (a : Axis) (s : State) (hk : Keeps r0 s) :
    Keeps r0 (dropCut o r a s) := by
  unfold dropCut
  repeat' with_reducible first
    | assumption | extract_lets | apply State.modMot_keeps | apply countCut_keeps | apply retire_keeps
    | apply retireAll_keeps | apply Keeps.ite | (intro _ _ _) | (intro _ _)
    | (simp only [Keeps.mk_iff]; apply Keeps.parts) | split

theorem discardCut_keeps {r0 : State} (a : Axis) (s : State) (hk : Keeps r0 s) :
    Keeps r0 (discardCut a s) := by
  unfold discardCut
  repeat' with_reducible first | assumption | extract_lets | apply dropCut_keeps

theorem endStall_keeps {r0 : State} (a : Axis) (s : State) (hk : Keeps r0 s) :
    Keeps r0 (endStall a s) := by
  unfold endStall
  repeat' with_reducible first | assumption | extract_lets | apply State.modLa_keeps | apply State.modMot_keeps

theorem haltMotion_keeps {r0 : State} (a : Axis) (s : State) (hk : Keeps r0 s) :
    Keeps r0 (haltMotion a s) := by
  unfold haltMotion
  repeat' with_reducible first
    | assumption | extract_lets | apply State.at_keeps | apply State.modMot_keeps | apply State.raise_keeps
    | apply cancelWaiting_keeps | apply clearRemain_keeps | apply countCut_keeps | apply discardWindow_keeps
    | apply dropCut_keeps | apply endStall_keeps | apply retireAll_keeps | apply Keeps.ite

theorem noteClip_keeps {r0 : State} (a : Axis) (p q : Prof) (s : State) (hk : Keeps r0 s) :
    Keeps r0 (noteClip a p q s) := by
  unfold noteClip
  repeat' with_reducible first
    | assumption | extract_lets | apply State.inc_keeps | apply State.raise_keeps | apply Keeps.ite

theorem noteStop_keeps {r0 : State} (a : Axis) (s : State) (hk : Keeps r0 s) :
    Keeps r0 (noteStop a s) := by
  unfold noteStop
  repeat' with_reducible first | assumption | extract_lets | apply noteClip_keeps

theorem planCut_keeps {r0 : State} (a : Axis) (c : Cut) (s : State) (hk : Keeps r0 s) :
    Keeps r0 (planCut a c s) := by
  unfold planCut
  repeat' with_reducible first
    | assumption | extract_lets | apply State.modMot_keeps | apply State.set_keeps | apply noteStop_keeps
    | apply Keeps.ite

theorem startCut_keeps {r0 : State} (a : Axis) (c : Cut) (s : State) (hk : Keeps r0 s) :
    Keeps r0 (startCut a c s) := by
  unfold startCut
  repeat' with_reducible first
    | assumption | extract_lets | apply discardCut_keeps | apply discardWindow_keeps | apply planCut_keeps

theorem recut_keeps {r0 : State} (a : Axis) (c : Cut) (s : State) (hk : Keeps r0 s) :
    Keeps r0 (recut a c s) := by
  unfold recut
  repeat' with_reducible first
    | assumption | extract_lets | apply State.modMot_keeps | apply countCut_keeps | apply discardWindow_keeps
    | apply planCut_keeps

theorem cutFollowsTimer_keeps {r0 : State} (a : Axis) (s : State) (hk : Keeps r0 s) :
    Keeps r0 (cutFollowsTimer a s) := by
  unfold cutFollowsTimer
  repeat' with_reducible first
    | assumption | extract_lets | apply State.at_keeps | apply recut_keeps | apply Keeps.ite | (intro _ _ _)
    | (intro _ _) | (simp only [Keeps.mk_iff]; apply Keeps.parts) | split

theorem dropBehind_keeps {r0 : State} (a : Axis) (s : State) (hk : Keeps r0 s) :
    Keeps r0 (dropBehind a s) := by
  unfold dropBehind
  repeat' with_reducible first
    | assumption | extract_lets | apply State.modMot_keeps | apply countOffside_keeps | apply retireAll_keeps

theorem stopPacket_keeps {r0 : State} (a : Axis) (seq : Option (BitVec 16)) (s : State) (hk : Keeps r0 s) :
    Keeps r0 (stopPacket a seq s) := by
  unfold stopPacket
  repeat' with_reducible first
    | assumption | extract_lets | apply cancelWaiting_keeps | apply dropBehind_keeps | apply noteStop_keeps
    | apply retire_keeps | apply startCut_keeps | apply Keeps.ite | (intro _ _ _) | (intro _ _)
    | (simp only [Keeps.mk_iff]; apply Keeps.parts) | split

theorem replan_keeps {r0 : State} (a : Axis) (chain : List PMove) (s : State) (hk : Keeps r0 s) :
    Keeps r0 (replan a chain s) := by
  unfold replan
  repeat' with_reducible first | assumption | extract_lets | apply State.modMot_keeps | apply countOffside_keeps

theorem reblend_keeps {r0 : State} (a : Axis) (s : State) (hk : Keeps r0 s) :
    Keeps r0 (reblend a s) := by
  unfold reblend
  repeat' with_reducible first
    | assumption | extract_lets | apply State.modMot_keeps | apply replan_keeps | apply Keeps.ite | (intro _ _ _)
    | (intro _ _) | (simp only [Keeps.mk_iff]; apply Keeps.parts) | split

theorem addMove_keeps {r0 : State} (a : Axis) (mv : PMove) (s : State) (hk : Keeps r0 s) :
    Keeps r0 (addMove a mv s) := by
  unfold addMove
  repeat' with_reducible first
    | assumption | extract_lets | apply State.modMot_keeps | apply replan_keeps | apply Keeps.ite

theorem newProfiles_keeps {r0 : State} (a : Axis) (s : State) (hk : Keeps r0 s) :
    Keeps r0 (newProfiles a s) := by
  unfold newProfiles
  repeat' with_reducible first
    | assumption | extract_lets | apply State.each_keeps | apply State.modMot_keeps | apply State.set_keeps
    | apply discardWindow_keeps | apply noteClip_keeps | apply noteStop_keeps | apply recut_keeps
    | apply retire_keeps | apply retireAll_keeps | apply stopPacket_keeps | apply Keeps.each | apply Keeps.ite
    | (intro _ _ _) | (intro _ _) | (simp only [Keeps.mk_iff]; apply Keeps.parts) | split

theorem takeMove_keeps {r0 : State} (a : Axis) (c : QCmd) (s : State) (hk : Keeps r0 s) :
    Keeps r0 (takeMove a c s) := by
  unfold takeMove
  repeat' with_reducible first
    | assumption | extract_lets | apply State.inc_keeps | apply State.raise_keeps | apply addMove_keeps
    | apply cancelWaiting_keeps | apply clearRemain_keeps | apply noteClip_keeps | apply reblend_keeps
    | apply retire_keeps | apply startCut_keeps | apply stopPacket_keeps | apply Keeps.ite

theorem takeJog_keeps {r0 : State} (a : Axis) (c : QCmd) (s : State) (hk : Keeps r0 s) :
    Keeps r0 (takeJog a c s) := by
  unfold takeJog
  repeat' with_reducible first
    | assumption | extract_lets | apply cancelWaiting_keeps | apply clearRemain_keeps | apply noteClip_keeps
    | apply retire_keeps | apply startCut_keeps | apply Keeps.ite

theorem takeResume_keeps {r0 : State} (a : Axis) (c : QCmd) (s : State) (hk : Keeps r0 s) :
    Keeps r0 (takeResume a c s) := by
  unfold takeResume
  repeat' with_reducible first
    | assumption | extract_lets | apply addMove_keeps | apply clearRemain_keeps | apply noteClip_keeps
    | apply retire_keeps | apply Keeps.ite

theorem takeUp_keeps {r0 : State} (a : Axis) (c : QCmd) (s : State) (hk : Keeps r0 s) :
    Keeps r0 (takeUp a c s) := by
  unfold takeUp
  repeat' with_reducible first
    | assumption | extract_lets | apply stopPacket_keeps | apply takeJog_keeps | apply takeMove_keeps
    | apply takeResume_keeps | apply Keeps.ite

theorem unqueue_keeps {r0 : State} (seq : BitVec 16) (s : State) (hk : Keeps r0 s) :
    Keeps r0 (unqueue seq s) := by
  unfold unqueue
  repeat' with_reducible first
    | assumption | extract_lets | apply Keeps.ite | (intro _ _ _) | (intro _ _)
    | (simp only [Keeps.mk_iff]; apply Keeps.parts)

theorem plannerTakeUp_keeps {r0 : State} (a : Axis) (s : State) (hk : Keeps r0 s) :
    Keeps r0 (plannerTakeUp a s) := by
  unfold plannerTakeUp
  repeat' with_reducible first
    | assumption | extract_lets | apply takeUp_keeps | apply unqueue_keeps | apply Keeps.ite | (intro _ _ _)
    | (intro _ _) | split

theorem computeSeg_keeps {r0 : State} (a : Axis) (s : State) (hk : Keeps r0 s) :
    Keeps r0 (computeSeg a s) := by
  unfold computeSeg
  repeat' with_reducible first
    | assumption | extract_lets | apply State.mark_keeps | apply State.modMot_keeps | apply Keeps.ite | (intro _ _ _)
    | (intro _ _) | split

theorem wakePlanner_keeps {r0 : State} (s : State) (hk : Keeps r0 s) :
    Keeps r0 (wakePlanner s) := by
  unfold wakePlanner
  repeat' with_reducible first
    | assumption | extract_lets | apply Keeps.ite | (intro _ _ _) | (intro _ _)
    | (simp only [Keeps.mk_iff]; apply Keeps.parts) | split

theorem segmentComputed_keeps {r0 : State} (s : State) (hk : Keeps r0 s) :
    Keeps r0 (segmentComputed s) := by
  unfold segmentComputed
  repeat' with_reducible first
    | assumption | extract_lets | apply computeSeg_keeps | apply Keeps.ite | (intro _ _ _) | (intro _ _)
    | (simp only [Keeps.mk_iff]; apply Keeps.parts) | split

theorem startState_keeps {r0 : State} (a : Axis) (k : SegKind) (s : State) (hk : Keeps r0 s) :
    Keeps r0 (startState a k s) := by
  unfold startState
  repeat' with_reducible first | assumption | extract_lets | apply State.set_keeps | apply Keeps.ite

theorem completeLast_keeps {r0 : State} (a : Axis) (sg : Seg) (s : State) (hk : Keeps r0 s) :
    Keeps r0 (completeLast a sg s) := by
  unfold completeLast
  repeat' with_reducible first
    | assumption | extract_lets | apply State.modMot_keeps | apply retire_keeps | apply Keeps.ite

theorem leaveStill_keeps {r0 : State} (a : Axis) (until_ : Option Nat) (s : State) (hk : Keeps r0 s) :
    Keeps r0 (leaveStill a until_ s) := by
  unfold leaveStill
  repeat' with_reducible first | assumption | extract_lets | apply State.modMot_keeps

theorem commitSeg_keeps {r0 : State} (a : Axis) (sg : Seg) (s : State) (hk : Keeps r0 s) :
    Keeps r0 (commitSeg a sg s) := by
  unfold commitSeg
  repeat' with_reducible first
    | assumption | extract_lets | apply State.at_keeps | apply State.inc_keeps | apply State.modMot_keeps
    | apply completeLast_keeps | apply leaveStill_keeps | apply startState_keeps | apply Keeps.ite | (intro _ _ _)
    | (intro _ _) | (simp only [Keeps.mk_iff]; apply Keeps.parts) | split | dsimp +zetaDelta only

theorem segmentCommit_keeps {r0 : State} (a : Axis) (s : State) (hk : Keeps r0 s) :
    Keeps r0 (segmentCommit a s) := by
  unfold segmentCommit
  repeat' with_reducible first
    | assumption | extract_lets | apply commitSeg_keeps | apply discardWindow_keeps | apply Keeps.ite | (intro _ _ _)
    | (intro _ _) | (simp only [Keeps.mk_iff]; apply Keeps.parts) | split

theorem brakeAt_keeps {r0 : State} (a : Axis) (why : BrakeWhy) (from_ : Nat) (p0 : Int) (at_ : Nat) (k : KState) (s :
    State) (hk : Keeps r0 s) :
    Keeps r0 (brakeAt a why from_ p0 at_ k s) := by
  unfold brakeAt
  repeat' with_reducible first
    | assumption | extract_lets | apply State.modMot_keeps | apply State.set_keeps | apply discardWindow_keeps
    | apply Keeps.ite

theorem startBrake_keeps {r0 : State} (a : Axis) (why : BrakeWhy) (t after : Nat) (k : KState) (s : State) (hk : Keeps
    r0 s) :
    Keeps r0 (startBrake a why t after k s) := by
  unfold startBrake
  repeat' with_reducible first | assumption | extract_lets | apply brakeAt_keeps

theorem starve_keeps {r0 : State} (a : Axis) (t : Nat) (s : State) (hk : Keeps r0 s) :
    Keeps r0 (starve a t s) := by
  unfold starve
  repeat' with_reducible first
    | assumption | extract_lets | apply State.inc_keeps | apply State.raise_keeps | apply startBrake_keeps
    | apply Keeps.ite | (intro _ _ _) | (intro _ _) | (simp only [Keeps.mk_iff]; apply Keeps.parts) | split

theorem stillDelay_keeps {r0 : State} (a : Axis) (s : State) (hk : Keeps r0 s) :
    Keeps r0 (stillDelay a s) := by
  unfold stillDelay
  repeat' with_reducible first
    | assumption | extract_lets | apply State.at_keeps | apply State.modMot_keeps | apply Keeps.ite | (intro _ _ _)
    | (intro _ _) | (simp only [Keeps.mk_iff]; apply Keeps.parts) | split

theorem energiseDone_keeps {r0 : State} (a : Axis) (s : State) (hk : Keeps r0 s) :
    Keeps r0 (energiseDone a s) := by
  unfold energiseDone
  repeat' with_reducible first
    | assumption | extract_lets | apply State.at_keeps | apply State.modMot_keeps | apply Keeps.ite | (intro _ _ _)
    | (intro _ _) | split

end Sys2Proof.Machine
end

