-- ==== Sys2Proof/Laws/KeepsFollow.lean ====
section
/-!
SUPPORT. What the operations of step following keep (Laws/Keeps.lean), one lemma for each.
-/

namespace Sys2Proof.Machine

theorem State.modMch_keeps {r0 : State} (s : State) (c : Fin 4) (f : MchSt → MchSt) (hk : Keeps r0 s) :
    Keeps r0 (State.modMch s c f) := by
  unfold State.modMch
  repeat' with_reducible first
    | assumption | extract_lets | apply State.set_keeps | apply Keeps.ite | (intro _ _ _) | (intro _ _)
    | (simp only [Keeps.mk_iff]; apply Keeps.parts)

theorem mchPush_keeps {r0 : State} (c : Fin 4) (t : Nat) (m : Int) (s : State) (hk : Keeps r0 s) :
    Keeps r0 (mchPush c t m s) := by
  unfold mchPush
  repeat' with_reducible first | assumption | extract_lets | apply State.modMch_keeps

theorem disengage_keeps {r0 : State} (a : Axis) (s : State) (hk : Keeps r0 s) :
    Keeps r0 (disengage a s) := by
  unfold disengage
  repeat' with_reducible first | assumption | extract_lets | apply State.modFol_keeps | apply State.set_keeps

theorem retireEngage_keeps {r0 : State} (a : Axis) (o : Outc) (s : State) (hk : Keeps r0 s) :
    Keeps r0 (retireEngage a o s) := by
  unfold retireEngage
  repeat' with_reducible first
    | assumption | extract_lets | apply State.modFol_keeps | apply retire_keeps | apply Keeps.ite | (intro _ _ _)
    | (intro _ _) | split

theorem cancelEngage_keeps {r0 : State} (a : Axis) (s : State) (hk : Keeps r0 s) :
    Keeps r0 (cancelEngage a s) := by
  unfold cancelEngage
  repeat' with_reducible first
    | assumption | extract_lets | apply State.set_keeps | apply disengage_keeps | apply retireEngage_keeps
    | apply Keeps.ite

theorem noteLoss_keeps {r0 : State} (a : Axis) (cause : Fin 5) (s : State) (hk : Keeps r0 s) :
    Keeps r0 (noteLoss a cause s) := by
  unfold noteLoss
  repeat' with_reducible first | assumption | extract_lets | apply State.raise_keeps | apply State.set_keeps

theorem followLoss_keeps {r0 : State} (a : Axis) (cause : Fin 5) (s : State) (hk : Keeps r0 s) :
    Keeps r0 (followLoss a cause s) := by
  unfold followLoss
  repeat' with_reducible first
    | assumption | extract_lets | apply State.modFol_keeps | apply cancelEngage_keeps | apply noteLoss_keeps
    | apply Keeps.ite

theorem followExit_keeps {r0 : State} (a : Axis) (s : State) (hk : Keeps r0 s) :
    Keeps r0 (followExit a s) := by
  unfold followExit
  repeat' with_reducible first
    | assumption | extract_lets | apply State.modFol_keeps | apply cancelEngage_keeps | apply Keeps.ite

theorem mchStale_keeps {r0 : State} (fb : Bool) (c : Fin 4) (s : State) (hk : Keeps r0 s) :
    Keeps r0 (mchStale fb c s) := by
  unfold mchStale
  repeat' with_reducible first
    | assumption | extract_lets | apply State.each_keeps | apply State.modMch_keeps | apply State.raise_keeps
    | apply State.set_keeps | apply followLoss_keeps | apply Keeps.each | apply Keeps.ite | (intro _ _ _)

theorem mchStaleTimeout_keeps {r0 : State} (c : Fin 4) (s : State) (hk : Keeps r0 s) :
    Keeps r0 (mchStaleTimeout c s) := by
  unfold mchStaleTimeout
  repeat' with_reducible first | assumption | extract_lets | apply State.at_keeps | apply mchStale_keeps

theorem mchRestart_keeps {r0 : State} (c : Fin 4) (s : State) (hk : Keeps r0 s) :
    Keeps r0 (mchRestart c s) := by
  unfold mchRestart
  repeat' with_reducible first | assumption | extract_lets | apply State.modMch_keeps

theorem mchZero_keeps {r0 : State} (c : Fin 4) (s : State) (hk : Keeps r0 s) :
    Keeps r0 (mchZero c s) := by
  unfold mchZero
  repeat' with_reducible first | assumption | extract_lets | apply State.modMch_keeps

theorem mchZeroed_keeps {r0 : State} (a : Axis) (s : State) (hk : Keeps r0 s) :
    Keeps r0 (mchZeroed a s) := by
  unfold mchZeroed
  repeat' with_reducible first
    | assumption | extract_lets | apply State.each_keeps | apply mchZero_keeps | apply Keeps.each | apply Keeps.ite
    | (intro _ _ _)

theorem mchFresh_keeps {r0 : State} (c : Fin 4) (s : State) (hk : Keeps r0 s) :
    Keeps r0 (mchFresh c s) := by
  unfold mchFresh
  repeat' with_reducible first
    | assumption | extract_lets | apply State.modMch_keeps | apply State.set_keeps | apply Keeps.ite

theorem stepInterp_keeps {r0 : State} (a : Axis) (t : Nat) (d : Int) (s : State) (hk : Keeps r0 s) :
    Keeps r0 (stepInterp a t d s) := by
  unfold stepInterp
  repeat' with_reducible first
    | assumption | extract_lets | apply State.modFol_keeps | apply State.raise_keeps | apply Keeps.ite
    | (intro _ _ _) | (intro _ _) | (simp only [Keeps.mk_iff]; apply Keeps.parts) | split | dsimp +zetaDelta only

theorem stepEdge_keeps {r0 : State} (a : Axis) (rising : Bool) (dir : Held) (x : Level) (s : State) (hk : Keeps r0 s) :
    Keeps r0 (stepEdge a rising dir x s) := by
  unfold stepEdge
  repeat' with_reducible first
    | assumption | extract_lets | apply State.at_keeps | apply State.inc_keeps | apply State.modFol_keeps
    | apply State.setS_keeps | apply stepInterp_keeps | apply Keeps.ite

theorem stepAdvance_keeps {r0 : State} (a : Axis) (t th : Nat) (s : State) (hk : Keeps r0 s) :
    Keeps r0 (stepAdvance a t th s).2 := by
  unfold stepAdvance
  repeat' with_reducible first
    | assumption | extract_lets | apply State.raise_keeps | apply followLoss_keeps | apply Keeps.ite_snd

theorem gearStart_keeps {r0 : State} (a : Axis) (m : Int) (s : State) (hk : Keeps r0 s) :
    Keeps r0 (gearStart a m s) := by
  unfold gearStart
  repeat' with_reducible first
    | assumption | extract_lets | apply State.at_keeps | apply State.modFol_keeps | apply State.set_keeps
    | apply beginMotion_keeps | apply retireEngage_keeps | apply Keeps.ite | apply Keeps.ite_fst
    | apply Keeps.ite_snd | (intro _ _ _) | (intro _ _) | (simp only [Keeps.mk_iff]; apply Keeps.parts) | split

theorem gearAdvance_keeps {r s s1 : State} {a : Axis} {t : Nat} {p : Int} (h : Keeps r s)
    (e : gearAdvance a t s = some (p, s1)) : Keeps r s1 := by
  unfold gearAdvance at e
  split at e
  · cases e
  · dsimp only at e
    split at e
    · cases e
    · cases e
      repeat' with_reducible first
        | assumption | apply State.modFol_keeps | apply State.set_keeps | apply gearStart_keeps | apply Keeps.ite

theorem takeCamRegs_keeps {r0 : State} (a : Axis) (s : State) (hk : Keeps r0 s) :
    Keeps r0 (takeCamRegs a s) := by
  unfold takeCamRegs
  repeat' with_reducible first | assumption | extract_lets | apply State.modFol_keeps

theorem setOffset_keeps {r0 : State} (a : Axis) (v : Int) (s : State) (hk : Keeps r0 s) :
    Keeps r0 (setOffset a v s) := by
  unfold setOffset
  repeat' with_reducible first | assumption | extract_lets | apply State.modFol_keeps | apply State.set_keeps

theorem camReport_keeps {r0 : State} (a : Axis) (c m : Int) (s : State) (hk : Keeps r0 s) :
    Keeps r0 (camReport a c m s) := by
  unfold camReport
  repeat' with_reducible first | assumption | extract_lets | apply State.setS_keeps | apply State.set_keeps

theorem camEntry_keeps {r0 : State} (a : Axis) (tab : CamTab) (c m : Int) (s : State) (hk : Keeps r0 s) :
    Keeps r0 (camEntry a tab c m s) := by
  unfold camEntry
  repeat' with_reducible first
    | assumption | extract_lets | apply State.modFol_keeps | apply State.raise_keeps | apply State.set_keeps
    | apply beginMotion_keeps | apply cancelEngage_keeps | apply followLoss_keeps | apply retireEngage_keeps
    | apply setOffset_keeps | apply Keeps.ite | (intro _ _ _) | (intro _ _)
    | (simp only [Keeps.mk_iff]; apply Keeps.parts) | split

theorem camSwitch_keeps {r0 : State} (a : Axis) (tab nxt : CamTab) (mm c m : Int) (s : State) (hk : Keeps r0 s) :
    Keeps r0 (camSwitch a tab nxt mm c m s) := by
  unfold camSwitch
  repeat' with_reducible first
    | assumption | extract_lets | apply State.modFol_keeps | apply State.raise_keeps | apply State.set_keeps
    | apply setOffset_keeps | apply Keeps.ite | apply Keeps.ite_fst | apply Keeps.ite_snd | (intro _ _ _)
    | (intro _ _) | (simp only [Keeps.mk_iff]; apply Keeps.parts) | split

theorem camMargin_keeps {r0 : State} (a : Axis) (tab : CamTab) (m : Int) (s : State) (hk : Keeps r0 s) :
    Keeps r0 (camMargin a tab m s) := by
  unfold camMargin
  repeat' with_reducible first | assumption | extract_lets | apply State.raise_keeps | apply Keeps.ite

theorem camFollow_keeps {r0 : State} (a : Axis) (tab : CamTab) (m : Int) (s : State) (hk : Keeps r0 s) :
    Keeps r0 (camFollow a tab m s).2 := by
  unfold camFollow
  repeat' with_reducible first
    | assumption | extract_lets | apply camMargin_keeps | apply camReport_keeps | apply camSwitch_keeps
    | apply State.modFol_keeps | apply Keeps.ite | split | dsimp +zetaDelta only

theorem camAdvance_keeps {r0 : State} (a : Axis) (t th : Nat) (s : State) (hk : Keeps r0 s) :
    Keeps r0 (camAdvance a t th s).2.1 := by
  have hf := fun tab m => camFollow_keeps a tab m s hk
  unfold camAdvance
  split
  · rename_i m tab _ _
    have h1 := hf tab m
    extract_lets
    repeat' with_reducible first
      | assumption | extract_lets | apply State.modFol_keeps | apply camEntry_keeps | apply camReport_keeps
      | apply camMargin_keeps | apply followLoss_keeps | split
    all_goals simp_all only
  · exact hk

theorem takeSource_keeps {r0 : State} (a : Axis) (src : Nat) (s : State) (hk : Keeps r0 s) :
    Keeps r0 (takeSource a src s) := by
  unfold takeSource
  repeat' with_reducible first
    | assumption | extract_lets | apply State.modFol_keeps | apply State.set_keeps | apply clearRemain_keeps
    | apply Keeps.ite

theorem takePendSource_keeps {r0 : State} (a : Axis) (s : State) (hk : Keeps r0 s) :
    Keeps r0 (takePendSource a s) := by
  unfold takePendSource
  repeat' with_reducible first
    | assumption | extract_lets | apply takeSource_keeps | apply Keeps.ite | (intro _ _ _) | (intro _ _) | split

theorem engageStep_keeps {r0 : State} (a : Axis) (s : State) (hk : Keeps r0 s) :
    Keeps r0 (engageStep a s) := by
  unfold engageStep
  repeat' with_reducible first
    | assumption | extract_lets | apply State.modFol_keeps | apply State.set_keeps | apply beginMotion_keeps
    | apply retireEngage_keeps

theorem engageGear_keeps {r0 : State} (a : Axis) (c : Fin 4) (s : State) (hk : Keeps r0 s) :
    Keeps r0 (engageGear a c s) := by
  unfold engageGear
  repeat' with_reducible first | assumption | extract_lets | apply State.modFol_keeps | apply State.set_keeps

theorem engageCam_keeps {r0 : State} (a : Axis) (c : Fin 4) (tab : CamTab) (s : State) (hk : Keeps r0 s) :
    Keeps r0 (engageCam a c tab s) := by
  unfold engageCam
  repeat' with_reducible first | assumption | extract_lets | apply State.modFol_keeps | apply State.set_keeps

theorem holdNext_keeps {r0 : State} (a : Axis) (tab : CamTab) (par : CamPar) (s : State) (hk : Keeps r0 s) :
    Keeps r0 (holdNext a tab par s) := by
  unfold holdNext
  repeat' with_reducible first | assumption | extract_lets | apply State.modFol_keeps | apply State.set_keeps

theorem exitCmd_keeps {r0 : State} (a : Axis) (s : State) (hk : Keeps r0 s) :
    Keeps r0 (exitCmd a s) := by
  unfold exitCmd
  repeat' with_reducible first
    | assumption | extract_lets | apply State.modFol_keeps | apply followExit_keeps | apply Keeps.ite

end Sys2Proof.Machine
end

