-- ==== Sys2Proof/Laws/KeepsExecutor.lean ====
section
/-!
SUPPORT. What the operations of the segment executor keep (Laws/Keeps.lean), one lemma for each.
-/

namespace Sys2Proof.Machine

theorem reachStandstill_keeps {r0 : State} (a : Axis) (e : Nat) (k : SegKind) (s : State) (hk : Keeps r0 s) :
    Keeps r0 (reachStandstill a e k s) := by
  unfold reachStandstill
  repeat' with_reducible first
    | assumption | extract_lets | apply State.modMot_keeps | apply State.set_keeps | apply clearRemain_keeps
    | apply disengage_keeps | apply takePendSource_keeps | apply Keeps.ite

theorem recordStop_keeps {r0 : State} (a : Axis) (rest : Int) (goal : Option Int) (s : State) (hk : Keeps r0 s) :
    Keeps r0 (recordStop a rest goal s) := by
  unfold recordStop
  repeat' with_reducible first
    | assumption | extract_lets | apply State.modMot_keeps | apply State.set_keeps | apply Keeps.ite | (intro _ _ _)
    | (intro _ _) | (simp only [Keeps.mk_iff]; apply Keeps.parts) | split

theorem recordIfDue_keeps {r0 : State} (a : Axis) (t : Nat) (s : State) (hk : Keeps r0 s) :
    Keeps r0 (recordIfDue a t s) := by
  unfold recordIfDue
  repeat' with_reducible first
    | assumption | extract_lets | apply State.modMot_keeps | apply recordStop_keeps | apply Keeps.ite | (intro _ _ _)
    | (intro _ _) | (simp only [Keeps.mk_iff]; apply Keeps.parts) | split

theorem carrySegs_keeps {r0 : State} (a : Axis) (c : Cut) (s : State) (hk : Keeps r0 s) :
    Keeps r0 (carrySegs a c s) := by
  unfold carrySegs
  repeat' with_reducible first
    | assumption | extract_lets | apply State.at_keeps | apply State.modMot_keeps | apply clearRemain_keeps
    | apply countCut_keeps | apply recordStop_keeps | apply startState_keeps | apply Keeps.ite | (intro _ _ _)
    | (intro _ _) | (simp only [Keeps.mk_iff]; apply Keeps.parts) | split | dsimp +zetaDelta only

theorem carryNone_keeps {r0 : State} (a : Axis) (c : Cut) (s : State) (hk : Keeps r0 s) :
    Keeps r0 (carryNone a c s) := by
  unfold carryNone
  repeat' with_reducible first
    | assumption | extract_lets | apply State.at_keeps | apply State.modMot_keeps | apply clearRemain_keeps
    | apply countCut_keeps | apply reachStandstill_keeps | apply recordStop_keeps | apply Keeps.ite

theorem carryCut_keeps {r0 : State} (a : Axis) (c : Cut) (s : State) (hk : Keeps r0 s) :
    Keeps r0 (carryCut a c s) := by
  unfold carryCut
  repeat' with_reducible first
    | assumption | extract_lets | apply State.at_keeps | apply cancelWaiting_keeps | apply carryNone_keeps
    | apply carrySegs_keeps | apply recordIfDue_keeps | apply retire_keeps | apply retireAll_keeps | apply Keeps.ite
    | (intro _ _ _) | (intro _ _) | (simp only [Keeps.mk_iff]; apply Keeps.parts) | split

theorem cutInstant_keeps {r0 : State} (a : Axis) (s : State) (hk : Keeps r0 s) :
    Keeps r0 (cutInstant a s) := by
  unfold cutInstant
  repeat' with_reducible first
    | assumption | extract_lets | apply State.at_keeps | apply carryCut_keeps | apply discardWindow_keeps
    | apply planCut_keeps | apply Keeps.ite | (intro _ _ _) | (intro _ _)
    | (simp only [Keeps.mk_iff]; apply Keeps.parts) | split

theorem plannerStopRecord_keeps {r0 : State} (a : Axis) (s : State) (hk : Keeps r0 s) :
    Keeps r0 (plannerStopRecord a s) := by
  unfold plannerStopRecord
  repeat' with_reducible first
    | assumption | extract_lets | apply State.at_keeps | apply State.modMot_keeps | apply cancelWaiting_keeps
    | apply discardWindow_keeps | apply recordIfDue_keeps | apply recordStop_keeps | apply retireAll_keeps
    | apply Keeps.ite | (intro _ _ _) | (intro _ _) | (simp only [Keeps.mk_iff]; apply Keeps.parts) | split

theorem setKin_keeps {r0 : State} (a : Axis) (k : KState) (s : State) (hk : Keeps r0 s) :
    Keeps r0 (setKin a k s) := by
  unfold setKin
  repeat' with_reducible first | assumption | extract_lets | apply State.modMot_keeps

theorem runBrake_keeps {r0 : State} (a : Axis) (b : Brake) (t : Nat) (s : State) (hk : Keeps r0 s) :
    Keeps r0 (runBrake a b t s) := by
  unfold runBrake
  repeat' with_reducible first
    | assumption | extract_lets | apply State.at_keeps | apply State.raise_keeps | apply reachStandstill_keeps
    | apply setKin_keeps | apply Keeps.ite

theorem runQueue_keeps {r0 : State} (a : Axis) (t : Nat) (s : State) (hk : Keeps r0 s) :
    Keeps r0 (runQueue a t s) := by
  unfold runQueue
  repeat' with_reducible first
    | assumption | extract_lets | apply State.modMot_keeps | apply reachStandstill_keeps | apply runBrake_keeps
    | apply setKin_keeps | apply starve_keeps | apply Keeps.ite | (intro _ _ _) | (intro _ _)
    | (simp only [Keeps.mk_iff]; apply Keeps.parts) | split

theorem setFollowed_keeps {r0 : State} (a : Axis) (p : Int) (th : Nat) (s : State) (hk : Keeps r0 s) :
    Keeps r0 (setFollowed a p th s) := by
  unfold setFollowed
  repeat' with_reducible first | assumption | extract_lets | apply State.modMot_keeps

theorem followStop_keeps {r0 : State} (a : Axis) (t : Nat) (s : State) (hk : Keeps r0 s) :
    Keeps r0 (followStop a t s) := by
  unfold followStop
  repeat' with_reducible first
    | assumption | extract_lets | apply State.modFol_keeps | apply State.modMot_keeps | apply State.set_keeps
    | apply noteStop_keeps | apply reachStandstill_keeps | apply Keeps.ite

theorem followBrake_keeps {r0 : State} (a : Axis) (why : BrakeWhy) (t after : Nat) (s : State) (hk : Keeps r0 s) :
    Keeps r0 (followBrake a why t after s) := by
  unfold followBrake
  repeat' with_reducible first
    | assumption | extract_lets | apply State.modFol_keeps | apply State.raise_keeps | apply State.set_keeps
    | apply reachStandstill_keeps | apply startBrake_keeps | apply Keeps.ite

theorem runFollow_keeps {r0 : State} (a : Axis) (t : Nat) (s : State) (hk : Keeps r0 s) :
    Keeps r0 (runFollow a t s) := by
  unfold runFollow
  repeat' with_reducible first
    | assumption | extract_lets | apply camAdvance_keeps | apply followBrake_keeps | apply followStop_keeps
    | apply followLoss_keeps | apply runBrake_keeps | apply setFollowed_keeps | apply stepAdvance_keeps
    | refine gearAdvance_keeps ?_ (by assumption) | apply Keeps.ite | (intro _ _ _) | (intro _ _) | split
    | dsimp +zetaDelta only

theorem runMotion_keeps {r0 : State} (a : Axis) (t : Nat) (s : State) (hk : Keeps r0 s) :
    Keeps r0 (runMotion a t s) := by
  unfold runMotion
  repeat' with_reducible first
    | assumption | extract_lets | apply runBrake_keeps | apply runFollow_keeps | apply runQueue_keeps
    | apply setKin_keeps | apply Keeps.ite | (intro _ _ _) | (intro _ _) | split

theorem clampAxis_keeps {r0 : State} (a : Axis) (t : Nat) (s : State) (hk : Keeps r0 s) :
    Keeps r0 (clampAxis a t s) := by
  unfold clampAxis
  repeat' with_reducible first
    | assumption | extract_lets | apply State.modMot_keeps | apply State.raise_keeps | apply brakeAt_keeps
    | apply cancelEngage_keeps | apply countCut_keeps | apply discardCut_keeps | apply discardWindow_keeps
    | apply followBrake_keeps | apply reachStandstill_keeps | apply Keeps.ite

end Sys2Proof.Machine
end

