-- ==== Sys2Proof/Laws/KeepsAxisState.lean ====
section
/-!
SUPPORT. What the operations of the axis states keep (Laws/Keeps.lean), one lemma for each.
-/

namespace Sys2Proof.Machine

theorem audit_keeps {r : State} (code role port axis status : Nat) (data : List Word) (s : State) (h : Keeps r s) :
    Keeps r (audit code role port axis status data s) := by
  unfold audit
  extract_lets e s1
  split
  · exact State.inc_keeps _ _ ⟨h.regs, h.cells, h.pending, h.life, Nat.le_succ_of_le h.audit⟩
  · exact ⟨h.regs, h.cells, h.pending, h.life, Nat.le_succ_of_le h.audit⟩

theorem auditLimited_keeps {r0 : State} (key code role port axis status : Nat) (data : List Word) (s : State) (hk :
    Keeps r0 s) :
    Keeps r0 (auditLimited key code role port axis status data s) := by
  unfold auditLimited
  repeat' with_reducible first
    | assumption | extract_lets | apply audit_keeps | apply Keeps.ite | (intro _ _ _) | (intro _ _)
    | (simp only [Keeps.mk_iff]; apply Keeps.parts) | split

theorem raiseWhistle_keeps {r0 : State} (code detail : Nat) (s : State) (hk : Keeps r0 s) :
    Keeps r0 (raiseWhistle code detail s) := by
  unfold raiseWhistle
  repeat' with_reducible first
    | assumption | extract_lets | apply Keeps.ite | (intro _ _ _) | (intro _ _)
    | (simp only [Keeps.mk_iff]; apply Keeps.parts)

theorem faultWhistle_keeps {r0 : State} (a : Axis) (s : State) (hk : Keeps r0 s) :
    Keeps r0 (faultWhistle a s) := by
  unfold faultWhistle
  repeat' with_reducible first | assumption | extract_lets | apply raiseWhistle_keeps | apply Keeps.ite

theorem beginTransit_keeps {r0 : State} (m trig : Nat) (s : State) (hk : Keeps r0 s) :
    Keeps r0 (beginTransit m trig s) := by
  unfold beginTransit
  repeat' with_reducible first
    | assumption | extract_lets | apply State.set_keeps | apply Keeps.ite | (intro _ _ _) | (intro _ _)
    | (simp only [Keeps.mk_iff]; apply Keeps.parts)

theorem autoTransit_keeps {r0 : State} (m trig : Nat) (s : State) (hk : Keeps r0 s) :
    Keeps r0 (autoTransit m trig s) := by
  unfold autoTransit
  repeat' with_reducible first
    | assumption | extract_lets | apply beginTransit_keeps | apply Keeps.ite | (intro _ _ _) | (intro _ _)
    | (simp only [Keeps.mk_iff]; apply Keeps.parts) | split

theorem noteLows_keeps {r0 : State} (a : Axis) (t : Nat) (s : State) (hk : Keeps r0 s) :
    Keeps r0 (noteLows a t s) := by
  unfold noteLows
  repeat' with_reducible first
    | assumption | extract_lets | apply State.each_keeps | apply State.modGd_keeps | apply State.set_keeps
    | apply Keeps.each | apply Keeps.ite | (intro _ _ _)

theorem noteGates_keeps {r0 : State} (a : Axis) (s : State) (hk : Keeps r0 s) :
    Keeps r0 (noteGates a s) := by
  unfold noteGates
  repeat' with_reducible first | assumption | extract_lets | apply State.modGd_keeps | apply noteLows_keeps

theorem setScale_keeps {r0 : State} (a : Axis) (rule scale : Nat) (s : State) (hk : Keeps r0 s) :
    Keeps r0 (setScale a rule scale s) := by
  unfold setScale
  repeat' with_reducible first
    | assumption | extract_lets | apply State.modLa_keeps | apply State.set_keeps | apply State.setB_keeps
    | apply Keeps.ite

theorem startScale_keeps {r0 : State} (a : Axis) (s : State) (hk : Keeps r0 s) :
    Keeps r0 (startScale a s) := by
  unfold startScale
  repeat' with_reducible first | assumption | extract_lets | apply setScale_keeps

theorem dropEnergised_keeps {r0 : State} (a : Axis) (s : State) (hk : Keeps r0 s) :
    Keeps r0 (dropEnergised a s) := by
  unfold dropEnergised
  repeat' with_reducible first
    | assumption | extract_lets | apply State.modCc_keeps | apply State.modPwm_keeps | apply State.set_keeps
    | apply Keeps.ite

theorem takeEnergised_keeps {r0 : State} (a : Axis) (s : State) (hk : Keeps r0 s) :
    Keeps r0 (takeEnergised a s) := by
  unfold takeEnergised
  repeat' with_reducible first
    | assumption | extract_lets | apply State.modCc_keeps | apply State.set_keeps | apply startScale_keeps
    | apply Keeps.ite

theorem refreshEnergised_keeps {r0 : State} (a : Axis) (s : State) (hk : Keeps r0 s) :
    Keeps r0 (refreshEnergised a s) := by
  unfold refreshEnergised
  repeat' with_reducible first
    | assumption | extract_lets | apply dropEnergised_keeps | apply noteGates_keeps | apply takeEnergised_keeps
    | apply Keeps.ite

theorem commitEnergise_keeps {r0 : State} (a : Axis) (s : State) (hk : Keeps r0 s) :
    Keeps r0 (commitEnergise a s) := by
  unfold commitEnergise
  repeat' with_reducible first
    | assumption | extract_lets | apply refreshEnergised_keeps | apply segmentCommit_keeps | apply Keeps.ite

theorem faultSource_keeps {r0 : State} (a : Axis) (s : State) (hk : Keeps r0 s) :
    Keeps r0 (faultSource a s) := by
  unfold faultSource
  repeat' with_reducible first
    | assumption | extract_lets | apply takeSource_keeps | apply Keeps.ite | (intro _ _ _) | (intro _ _)
    | (simp only [Keeps.mk_iff]; apply Keeps.parts) | split

theorem refreshAxis_keeps {r0 : State} (a : Axis) (s : State) (hk : Keeps r0 s) :
    Keeps r0 (refreshAxis a s) := by
  unfold refreshAxis
  repeat' with_reducible first
    | assumption | extract_lets | apply State.set_keeps | apply endStall_keeps | apply faultSource_keeps
    | apply refreshEnergised_keeps | apply takePendSource_keeps | apply Keeps.ite

theorem refreshAll_keeps {r0 : State} (s : State) (hk : Keeps r0 s) :
    Keeps r0 (refreshAll s) := by
  unfold refreshAll
  repeat' with_reducible first | assumption | extract_lets | apply refreshAxis_keeps | apply Keeps.each

theorem loseReady_keeps {r0 : State} (a : Axis) (s : State) (hk : Keeps r0 s) :
    Keeps r0 (loseReady a s) := by
  unfold loseReady
  repeat' with_reducible first
    | assumption | extract_lets | apply State.set_keeps | apply clampAxis_keeps | apply endStall_keeps
    | apply refreshAxis_keeps | apply refreshEnergised_keeps | apply Keeps.ite

theorem noteCause_keeps {r0 : State} (a : Axis) (cause : Nat) (s : State) (hk : Keeps r0 s) :
    Keeps r0 (noteCause a cause s) := by
  unfold noteCause
  repeat' with_reducible first | assumption | extract_lets | apply State.set_keeps | apply Keeps.ite

theorem noteFresh_keeps {r0 : State} (a : Axis) (cause : Nat) (s : State) (hk : Keeps r0 s) :
    Keeps r0 (noteFresh a cause s) := by
  unfold noteFresh
  repeat' with_reducible first | assumption | extract_lets | apply State.modGd_keeps

theorem latchFault_keeps {r0 : State} (a : Axis) (f : Fld) (cause : Nat) (s : State) (hk : Keeps r0 s) :
    Keeps r0 (latchFault a f cause s) := by
  unfold latchFault
  repeat' with_reducible first
    | assumption | extract_lets | apply State.raise_keeps | apply faultWhistle_keeps | apply noteCause_keeps
    | apply noteFresh_keeps | apply Keeps.ite

theorem enterFault_keeps {r0 : State} (a : Axis) (s : State) (hk : Keeps r0 s) :
    Keeps r0 (enterFault a s) := by
  unfold enterFault
  repeat' with_reducible first
    | assumption | extract_lets | apply State.set_keeps | apply disengage_keeps | apply haltMotion_keeps
    | apply refreshEnergised_keeps | apply retireEngage_keeps

theorem axisFault_keeps {r0 : State} (a : Axis) (f : Fld) (cause : Nat) (s : State) (hk : Keeps r0 s) :
    Keeps r0 (axisFault a f cause s) := by
  unfold axisFault
  repeat' with_reducible first | assumption | extract_lets | apply enterFault_keeps | apply latchFault_keeps

theorem switchFault_keeps {r0 : State} (a : Axis) (f : Fld) (cause : Nat) (whole : Bool) (mask : BitVec 8) (s : State)
    (hk : Keeps r0 s) :
    Keeps r0 (switchFault a f cause whole mask s) := by
  unfold switchFault
  repeat' with_reducible first
    | assumption | extract_lets | apply State.modGd_keeps | apply State.set_keeps | apply axisFault_keeps
    | apply endStall_keeps | apply latchFault_keeps | apply Keeps.ite | (intro _ _ _) | (intro _ _)
    | (simp only [Keeps.mk_iff]; apply Keeps.parts) | split

theorem clearIf_keeps {r0 : State} (c : Bool) (f : Fld) (s : State) (hk : Keeps r0 s) :
    Keeps r0 (clearIf c f s) := by
  unfold clearIf
  repeat' with_reducible first | assumption | extract_lets | apply State.set_keeps | apply Keeps.ite

theorem requestDiag_keeps {r0 : State} (a : Axis) (w : DiagWhy) (s : State) (hk : Keeps r0 s) :
    Keeps r0 (requestDiag a w s) := by
  unfold requestDiag
  repeat' with_reducible first | assumption | extract_lets | apply State.modGd_keeps | apply Keeps.ite

theorem clearFaults_keeps {r0 : State} (a : Axis) (s0 : State) (hk : Keeps r0 s0) :
    Keeps r0 (clearFaults a s0) := by
  unfold clearFaults
  repeat' with_reducible first
    | assumption | extract_lets | apply State.each_keeps | apply State.modGd_keeps | apply State.set_keeps
    | apply clearIf_keeps | apply Keeps.each | apply Keeps.ite | apply Keeps.ite_fst | apply Keeps.ite_snd
    | (intro _ _ _)

theorem rearmClear_keeps {r0 : State} (a : Axis) (s : State) (hk : Keeps r0 s) :
    Keeps r0 (rearmClear a s) := by
  unfold rearmClear
  repeat' with_reducible first
    | assumption | extract_lets | apply State.inc_keeps | apply State.modGd_keeps | apply State.set_keeps
    | apply clearFaults_keeps | apply loseReady_keeps | apply refreshAxis_keeps | apply requestDiag_keeps
    | apply Keeps.ite

end Sys2Proof.Machine
end

