-- ==== Sys2Proof/Laws/KeepsGate.lean ====
section
/-!
SUPPORT. What the operations of the gate drivers keep (Laws/Keeps.lean), one lemma for each.
-/

namespace Sys2Proof.Machine

theorem countViolation_keeps {r0 : State} (a : Axis) (kind : Nat) (flag cnt : Fld) (s : State) (hk : Keeps r0 s) :
    Keeps r0 (countViolation a kind flag cnt s) := by
  unfold countViolation
  repeat' with_reducible first
    | assumption | extract_lets | apply State.inc_keeps | apply State.raise_keeps | apply auditLimited_keeps

theorem overcurrent_keeps {r0 : State} (a : Axis) (w : Fin 2) (s : State) (hk : Keeps r0 s) :
    Keeps r0 (overcurrent a w s) := by
  unfold overcurrent
  repeat' with_reducible first
    | assumption | extract_lets | apply countViolation_keeps | apply noteGates_keeps | apply switchFault_keeps

theorem ocFeed_keeps {r0 : State} (a : Axis) (w : Fin 2) (x : Samples) (s : State) (hk : Keeps r0 s) :
    Keeps r0 (ocFeed a w x s).1 := by
  unfold ocFeed
  repeat' with_reducible first
    | assumption | extract_lets | apply State.at_keeps | apply State.modCc_keeps | apply State.set_keeps
    | apply State.setB_keeps

theorem ocTrip_keeps {r0 : State} (a : Axis) (w : Fin 2) (x : Samples) (s : State) (hk : Keeps r0 s) :
    Keeps r0 (ocTrip a w x s) := by
  unfold ocTrip
  repeat' with_reducible first
    | assumption | extract_lets | apply noteGates_keeps | apply ocFeed_keeps | apply overcurrent_keeps
    | apply Keeps.ite | apply Keeps.ite_fst | apply Keeps.ite_snd | (intro _ _ _) | (intro _ _)
    | (simp only [Keeps.mk_iff]; apply Keeps.parts) | split

theorem rearmEdge_keeps {r0 : State} (a : Axis) (s0 : State) (hk : Keeps r0 s0) :
    Keeps r0 (rearmEdge a s0) := by
  unfold rearmEdge
  repeat' with_reducible first
    | assumption | extract_lets | apply State.each_keeps | apply overcurrent_keeps | apply rearmClear_keeps
    | apply Keeps.each | apply Keeps.ite | (intro _ _ _)

theorem beforeBst_keeps {r0 : State} (a : Axis) (leg : Leg) (t : Nat) (s : State) (hk : Keeps r0 s) :
    Keeps r0 (beforeBst a leg t s) := by
  unfold beforeBst
  repeat' with_reducible first
    | assumption | extract_lets | apply State.modGd_keeps | apply State.set_keeps | apply Keeps.ite

theorem snFeed_keeps {r0 : State} (a : Axis) (i : Fin 8) (x : Samples) (s : State) (hk : Keeps r0 s) :
    Keeps r0 (snFeed a i x s).1 := by
  unfold snFeed
  repeat' with_reducible first | assumption | extract_lets | apply State.at_keeps | apply State.modGd_keeps

theorem snTrip_keeps {r0 : State} (a : Axis) (leg : Leg) (hs : Bool) (x : Samples) (s : State) (hk : Keeps r0 s) :
    Keeps r0 (snTrip a leg hs x s) := by
  unfold snTrip
  repeat' with_reducible first
    | assumption | extract_lets | apply State.at_keeps | apply noteGates_keeps | apply snFeed_keeps
    | apply switchFault_keeps | apply Keeps.ite | apply Keeps.ite_fst | apply Keeps.ite_snd | (intro _ _ _)
    | (intro _ _) | (simp only [Keeps.mk_iff]; apply Keeps.parts) | split

theorem crossOverlap_keeps {r0 : State} (a : Axis) (leg : Leg) (s : State) (hk : Keeps r0 s) :
    Keeps r0 (crossOverlap a leg s) := by
  unfold crossOverlap
  repeat' with_reducible first
    | assumption | extract_lets | apply State.inc_keeps | apply State.modGd_keeps | apply noteGates_keeps
    | apply switchFault_keeps | apply Keeps.ite

theorem crossPeriod_keeps {r0 : State} (a : Axis) (s : State) (hk : Keeps r0 s) :
    Keeps r0 (crossPeriod a s) := by
  unfold crossPeriod
  repeat' with_reducible first | assumption | extract_lets | apply State.modGd_keeps

theorem escWinClose_keeps {r0 : State} (a : Axis) (s : State) (hk : Keeps r0 s) :
    Keeps r0 (escWinClose a s) := by
  unfold escWinClose
  repeat' with_reducible first
    | assumption | extract_lets | apply State.at_keeps | apply State.modGd_keeps | apply Keeps.ite | (intro _ _ _)
    | (intro _ _) | split

theorem bstLow_keeps {r0 : State} (a : Axis) (leg : Leg) (s : State) (hk : Keeps r0 s) :
    Keeps r0 (bstLow a leg s) := by
  unfold bstLow
  repeat' with_reducible first
    | assumption | extract_lets | apply State.inc_keeps | apply State.modGd_keeps | apply State.set_keeps
    | apply noteGates_keeps | apply Keeps.ite

theorem bstLowRelease_keeps {r0 : State} (a : Axis) (leg : Leg) (s : State) (hk : Keeps r0 s) :
    Keeps r0 (bstLowRelease a leg s) := by
  unfold bstLowRelease
  repeat' with_reducible first | assumption | extract_lets | apply State.set_keeps | apply Keeps.ite

theorem faultEnergised_keeps {r0 : State} (axes : List Axis) (f : Nat → Fld) (cause : Nat) (before s : State) (hk :
    Keeps r0 s) :
    Keeps r0 (faultEnergised axes f cause before s) := by
  unfold faultEnergised
  repeat' with_reducible first
    | assumption | extract_lets | apply axisFault_keeps | apply refreshAxis_keeps | apply Keeps.each
    | apply Keeps.ite | (intro _ _ _)

theorem cpUv_keeps {r0 : State} (q : Quad) (s0 : State) (hk : Keeps r0 s0) :
    Keeps r0 (cpUv q s0) := by
  unfold cpUv
  repeat' with_reducible first
    | assumption | extract_lets | apply State.each_keeps | apply State.modGd_keeps | apply State.raise_keeps
    | apply State.set_keeps | apply fallback_keeps | apply faultEnergised_keeps | apply Keeps.each | apply Keeps.ite
    | (intro _ _ _)

theorem cpGood_keeps {r0 : State} (q : Quad) (s : State) (hk : Keeps r0 s) :
    Keeps r0 (cpGood q s) := by
  unfold cpGood
  repeat' with_reducible first
    | assumption | extract_lets | apply State.each_keeps | apply State.modGd_keeps | apply State.set_keeps
    | apply refreshAxis_keeps | apply Keeps.each | apply Keeps.ite | (intro _ _ _)

theorem cpPeriod_keeps {r0 : State} (a : Axis) (s : State) (hk : Keeps r0 s) :
    Keeps r0 (cpPeriod a s) := by
  unfold cpPeriod
  repeat' with_reducible first
    | assumption | extract_lets | apply State.modGd_keeps | apply State.set_keeps | apply fallback_keeps
    | apply Keeps.ite

theorem vgsUv_keeps {r0 : State} (s : State) (hk : Keeps r0 s) :
    Keeps r0 (vgsUv s) := by
  unfold vgsUv
  repeat' with_reducible first
    | assumption | extract_lets | apply faultEnergised_keeps | apply Keeps.ite | (intro _ _ _) | (intro _ _)
    | (simp only [Keeps.mk_iff]; apply Keeps.parts)

theorem vgsGood_keeps {r0 : State} (s : State) (hk : Keeps r0 s) :
    Keeps r0 (vgsGood s) := by
  unfold vgsGood
  repeat' with_reducible first
    | assumption | extract_lets | apply refreshAll_keeps | apply vgsUv_keeps | apply Keeps.ite | (intro _ _ _)
    | (intro _ _) | (simp only [Keeps.mk_iff]; apply Keeps.parts)

theorem vmOvTrip_keeps {r0 : State} (q : Quad) (s : State) (hk : Keeps r0 s) :
    Keeps r0 (vmOvTrip q s) := by
  unfold vmOvTrip
  repeat' with_reducible first
    | assumption | extract_lets | apply State.inc_keeps | apply State.raise_keeps | apply State.set_keeps
    | apply axisFault_keeps | apply raiseWhistle_keeps | apply Keeps.each | apply Keeps.ite | (intro _ _ _)

theorem vmOvClear_keeps {r0 : State} (q : Quad) (s : State) (hk : Keeps r0 s) :
    Keeps r0 (vmOvClear q s) := by
  unfold vmOvClear
  repeat' with_reducible first | assumption | extract_lets | apply State.set_keeps

theorem vmUvTrip_keeps {r0 : State} (q : Quad) (s0 : State) (hk : Keeps r0 s0) :
    Keeps r0 (vmUvTrip q s0) := by
  unfold vmUvTrip
  repeat' with_reducible first
    | assumption | extract_lets | apply State.each_keeps | apply State.modGd_keeps | apply State.raise_keeps
    | apply State.set_keeps | apply faultEnergised_keeps | apply raiseWhistle_keeps | apply refreshEnergised_keeps
    | apply Keeps.each | apply Keeps.ite | (intro _ _ _)

theorem vmUvClear_keeps {r0 : State} (q : Quad) (s : State) (hk : Keeps r0 s) :
    Keeps r0 (vmUvClear q s) := by
  unfold vmUvClear
  repeat' with_reducible first
    | assumption | extract_lets | apply State.set_keeps | apply refreshAxis_keeps | apply Keeps.each
    | apply Keeps.ite

theorem uvPeriod_keeps {r0 : State} (a : Axis) (s : State) (hk : Keeps r0 s) :
    Keeps r0 (uvPeriod a s) := by
  unfold uvPeriod
  repeat' with_reducible first
    | assumption | extract_lets | apply State.modGd_keeps | apply refreshEnergised_keeps | apply Keeps.ite

theorem brakeWant_keeps {r0 : State} (q : Quad) (on : Bool) (s : State) (hk : Keeps r0 s) :
    Keeps r0 (brakeWant q on s) := by
  unfold brakeWant
  repeat' with_reducible first
    | assumption | extract_lets | apply State.set_keeps | apply Keeps.ite | (intro _ _ _) | (intro _ _)
    | (simp only [Keeps.mk_iff]; apply Keeps.parts)

theorem brakeDecision_keeps {r0 : State} (q : Quad) (on : Bool) (s : State) (hk : Keeps r0 s) :
    Keeps r0 (brakeDecision q on s) := by
  unfold brakeDecision
  repeat' with_reducible first | assumption | extract_lets | apply brakeWant_keeps | apply Keeps.ite

theorem diagStart_keeps {r0 : State} (q : Quad) (s : State) (hk : Keeps r0 s) :
    Keeps r0 (diagStart q s) := by
  unfold diagStart
  repeat' with_reducible first
    | assumption | extract_lets | apply State.modGd_keeps | apply State.set_keeps | apply refreshAxis_keeps
    | apply Keeps.ite | (intro _ _ _) | (intro _ _) | (simp only [Keeps.mk_iff]; apply Keeps.parts) | split

theorem diagEnd_keeps {r0 : State} (a : Axis) (w : DiagWhy) (f : BitVec 12) (s : State) (hk : Keeps r0 s) :
    Keeps r0 (diagEnd a w f s) := by
  unfold diagEnd
  repeat' with_reducible first
    | assumption | extract_lets | apply State.modGd_keeps | apply State.raise_keeps | apply State.setB_keeps
    | apply State.set_keeps | apply axisFault_keeps | apply refreshAxis_keeps | apply Keeps.ite

theorem diagPhaseEnd_keeps {r0 : State} (a : Axis) (v0 v1 v2 v3 : Nat) (s : State) (hk : Keeps r0 s) :
    Keeps r0 (diagPhaseEnd a v0 v1 v2 v3 s) := by
  unfold diagPhaseEnd
  repeat' with_reducible first
    | assumption | extract_lets | apply State.modGd_keeps | apply diagEnd_keeps | apply Keeps.ite | (intro _ _ _)
    | (intro _ _) | split

theorem firstDiag_keeps {r0 : State} (a : Axis) (s : State) (hk : Keeps r0 s) :
    Keeps r0 (firstDiag a s) := by
  unfold firstDiag
  repeat' with_reducible first | assumption | extract_lets | apply requestDiag_keeps | apply Keeps.ite

theorem enableLost_keeps {r0 : State} (a : Axis) (s : State) (hk : Keeps r0 s) :
    Keeps r0 (enableLost a s) := by
  unfold enableLost
  repeat' with_reducible first
    | assumption | extract_lets | apply State.raise_keeps | apply loseReady_keeps | apply refreshAxis_keeps
    | apply Keeps.ite

theorem enaRise_keeps {r0 : State} (a : Axis) (s : State) (hk : Keeps r0 s) :
    Keeps r0 (enaRise a s) := by
  unfold enaRise
  repeat' with_reducible first
    | assumption | extract_lets | apply State.modGd_keeps | apply rearmEdge_keeps | apply Keeps.ite

theorem enaFall_keeps {r0 : State} (a : Axis) (s : State) (hk : Keeps r0 s) :
    Keeps r0 (enaFall a s) := by
  unfold enaFall
  repeat' with_reducible first
    | assumption | extract_lets | apply State.inc_keeps | apply State.modGd_keeps | apply enableLost_keeps
    | apply Keeps.ite

theorem stoLevels_keeps {r0 : State} (x y : Bool) (s : State) (hk : Keeps r0 s) :
    Keeps r0 (stoLevels x y s) := by
  unfold stoLevels
  repeat' with_reducible first
    | assumption | extract_lets | apply State.set_keeps | apply Keeps.ite | (intro _ _ _) | (intro _ _)
    | (simp only [Keeps.mk_iff]; apply Keeps.parts) | split | dsimp +zetaDelta only

theorem State.modStoAt_keeps {r0 : State} (s : State) (b : Bool) (hk : Keeps r0 s) :
    Keeps r0 (State.modStoAt s b) := by
  unfold State.modStoAt
  repeat' with_reducible first
    | assumption | extract_lets | apply State.set_keeps | apply Keeps.ite | (intro _ _ _) | (intro _ _)
    | (simp only [Keeps.mk_iff]; apply Keeps.parts)

theorem stoLow_keeps {r0 : State} (b : Bool) (s : State) (hk : Keeps r0 s) :
    Keeps r0 (stoLow b s) := by
  unfold stoLow
  repeat' with_reducible first
    | assumption | extract_lets | apply State.each_keeps | apply State.modStoAt_keeps | apply State.raise_keeps
    | apply audit_keeps | apply enableLost_keeps | apply stoLevels_keeps | apply Keeps.each | apply Keeps.ite

theorem stoHigh_keeps {r0 : State} (b : Bool) (s : State) (hk : Keeps r0 s) :
    Keeps r0 (stoHigh b s) := by
  unfold stoHigh
  repeat' with_reducible first
    | assumption | extract_lets | apply State.modStoAt_keeps | apply refreshAll_keeps | apply stoLevels_keeps
    | apply Keeps.ite

theorem stoDiscTimeout_keeps {r0 : State} (s : State) (hk : Keeps r0 s) :
    Keeps r0 (stoDiscTimeout s) := by
  unfold stoDiscTimeout
  repeat' with_reducible first
    | assumption | extract_lets | apply State.at_keeps | apply State.set_keeps | apply audit_keeps
    | apply enableLost_keeps | apply Keeps.each | apply Keeps.ite | (intro _ _ _) | (intro _ _) | split

end Sys2Proof.Machine
end

