-- ==== Sys2Proof/Laws/KeepsPwm.lean ====
section
/-!
SUPPORT. What the operations of the PWM channels keep (Laws/Keeps.lean), one lemma for each.
-/

namespace Sys2Proof.Machine

theorem advanceTimer_keeps {r0 : State} (a : Axis) (s : State) (hk : Keeps r0 s) :
    Keeps r0 (advanceTimer a s) := by
  unfold advanceTimer
  repeat' with_reducible first | assumption | extract_lets | apply State.modPwm_keeps

theorem setEdge_keeps {r0 : State} (a : Axis) (l : Leg) (e : LegEdge) (s : State) (hk : Keeps r0 s) :
    Keeps r0 (setEdge a l e s) := by
  unfold setEdge
  repeat' with_reducible first | assumption | extract_lets | apply State.set_keeps

theorem takeEdge_keeps {r0 : State} (a : Axis) (l : Leg) (e : LegEdge) (s : State) (hk : Keeps r0 s) :
    Keeps r0 (takeEdge a l e s) := by
  unfold takeEdge
  repeat' with_reducible first
    | assumption | extract_lets | apply State.raise_keeps | apply setEdge_keeps | apply Keeps.ite

theorem addEdge_keeps {r0 : State} (a : Axis) (l : Leg) (e : LegEv) (s : State) (hk : Keeps r0 s) :
    Keeps r0 (addEdge a l e s) := by
  unfold addEdge
  repeat' with_reducible first | assumption | extract_lets | apply State.at_keeps | apply State.modPwm_keeps

theorem driveLeg_keeps {r0 : State} (a : Axis) (l : Leg) (high : Bool) (te : Nat) (s : State) (hk : Keeps r0 s) :
    Keeps r0 (driveLeg a l high te s) := by
  unfold driveLeg
  repeat' with_reducible first
    | assumption | extract_lets | apply State.inc_keeps | apply State.modGd_keeps | apply addEdge_keeps
    | apply noteLows_keeps | apply Keeps.ite

theorem floatLeg_keeps {r0 : State} (a : Axis) (l : Leg) (te : Nat) (s : State) (hk : Keeps r0 s) :
    Keeps r0 (floatLeg a l te s) := by
  unfold floatLeg
  repeat' with_reducible first
    | assumption | extract_lets | apply State.at_keeps | apply State.modPwm_keeps | apply State.set_keeps
    | apply addEdge_keeps | apply noteLows_keeps | apply Keeps.ite

theorem dropLeg_keeps {r0 : State} (a : Axis) (l : Leg) (te : Nat) (s : State) (hk : Keeps r0 s) :
    Keeps r0 (dropLeg a l te s) := by
  unfold dropLeg
  repeat' with_reducible first
    | assumption | extract_lets | apply State.at_keeps | apply State.modPwm_keeps | apply State.set_keeps
    | apply addEdge_keeps | apply noteLows_keeps | apply Keeps.ite | (intro _ _ _) | (intro _ _)
    | (simp only [Keeps.mk_iff]; apply Keeps.parts) | split

theorem levelLeg_keeps {r0 : State} (a : Axis) (x te : Nat) (l : Leg) (s : State) (hk : Keeps r0 s) :
    Keeps r0 (levelLeg a x te l s) := by
  unfold levelLeg
  repeat' with_reducible first
    | assumption | extract_lets | apply driveLeg_keeps | apply floatLeg_keeps | apply Keeps.ite | (intro _ _ _)
    | (intro _ _) | split

theorem levelLegs_keeps {r0 : State} (a : Axis) (x te : Nat) (s : State) (hk : Keeps r0 s) :
    Keeps r0 (levelLegs a x te s) := by
  unfold levelLegs
  repeat' with_reducible first
    | assumption | extract_lets | apply State.each_keeps | apply levelLeg_keeps | apply Keeps.each | apply Keeps.ite

theorem legEdge_keeps {r0 : State} (a : Axis) (l : Leg) (rising : Bool) (s : State) (hk : Keeps r0 s) :
    Keeps r0 (legEdge a l rising s) := by
  unfold legEdge
  repeat' with_reducible first
    | assumption | extract_lets | apply State.at_keeps | apply driveLeg_keeps | apply noteGates_keeps
    | apply Keeps.ite

theorem applyCommit_keeps {r0 : State} (a : Axis) (set : Word × Word) (s : State) (hk : Keeps r0 s) :
    Keeps r0 (applyCommit a set s) := by
  unfold applyCommit
  repeat' with_reducible first
    | assumption | extract_lets | apply State.each_keeps | apply State.modPwm_keeps | apply State.set_keeps
    | apply takeEdge_keeps | apply Keeps.each | apply Keeps.ite | apply Keeps.ite_fst | apply Keeps.ite_snd
    | (intro _ _ _)

theorem commitAxis_keeps {r0 : State} (a : Axis) (s : State) (hk : Keeps r0 s) :
    Keeps r0 (commitAxis a s).1 := by
  unfold commitAxis
  repeat' with_reducible first
    | assumption | extract_lets | apply State.modPwm_keeps | apply State.raise_keeps | apply State.set_keeps
    | apply applyCommit_keeps | apply Keeps.ite_fst

theorem State.modPriv_keeps {r0 : State} (s : State) (c : Fin 8) (f : PrivSt → PrivSt) (hk : Keeps r0 s) :
    Keeps r0 (State.modPriv s c f) := by
  unfold State.modPriv
  repeat' with_reducible first
    | assumption | extract_lets | apply State.set_keeps | apply Keeps.ite | (intro _ _ _) | (intro _ _)
    | (simp only [Keeps.mk_iff]; apply Keeps.parts)

theorem privRun_keeps {r0 : State} (c : Fin 8) (s : State) (hk : Keeps r0 s) :
    Keeps r0 (privRun c s) := by
  unfold privRun
  repeat' with_reducible first
    | assumption | extract_lets | apply State.inc_keeps | apply State.setB_keeps | apply Keeps.ite

theorem applyPriv_keeps {r0 : State} (c : Fin 8) (set : PrivSet) (s : State) (hk : Keeps r0 s) :
    Keeps r0 (applyPriv c set s) := by
  unfold applyPriv
  repeat' with_reducible first
    | assumption | extract_lets | apply State.modPriv_keeps | apply State.raise_keeps | apply State.set_keeps
    | apply Keeps.ite

theorem commitPriv_keeps {r0 : State} (c : Fin 8) (s : State) (hk : Keeps r0 s) :
    Keeps r0 (commitPriv c s) := by
  unfold commitPriv
  repeat' with_reducible first
    | assumption | extract_lets | apply State.modPriv_keeps | apply State.set_keeps | apply applyPriv_keeps
    | apply privRun_keeps | apply Keeps.ite

theorem startTimer_keeps {r0 : State} (a : Axis) (s : State) (hk : Keeps r0 s) :
    Keeps r0 (startTimer a s) := by
  unfold startTimer
  repeat' with_reducible first
    | assumption | extract_lets | apply State.modCc_keeps | apply State.modPwm_keeps | apply applyCommit_keeps
    | apply Keeps.ite | (intro _ _ _) | (intro _ _) | (simp only [Keeps.mk_iff]; apply Keeps.parts) | split
    | dsimp +zetaDelta only

theorem startPriv_keeps {r0 : State} (c : Fin 8) (s : State) (hk : Keeps r0 s) :
    Keeps r0 (startPriv c s) := by
  unfold startPriv
  repeat' with_reducible first
    | assumption | extract_lets | apply State.modPriv_keeps | apply applyPriv_keeps | apply Keeps.ite | (intro _ _ _)
    | (intro _ _) | split | dsimp +zetaDelta only

theorem startTimers_keeps {r0 : State} (s : State) (hk : Keeps r0 s) :
    Keeps r0 (startTimers s) := by
  unfold startTimers
  repeat' with_reducible first
    | assumption | extract_lets | apply startPriv_keeps | apply startTimer_keeps | apply Keeps.each

theorem endRefresh_keeps {r0 : State} (a : Axis) (s : State) (hk : Keeps r0 s) :
    Keeps r0 (endRefresh a s) := by
  unfold endRefresh
  repeat' with_reducible first
    | assumption | extract_lets | apply State.each_keeps | apply State.modPwm_keeps | apply takeEdge_keeps
    | apply Keeps.each | apply Keeps.ite | apply Keeps.ite_fst | apply Keeps.ite_snd | (intro _ _ _)

theorem endPeriod_keeps {r0 : State} (a : Axis) (late : Bool) (s : State) (hk : Keeps r0 s) :
    Keeps r0 (endPeriod a late s) := by
  unfold endPeriod
  repeat' with_reducible first
    | assumption | extract_lets | apply State.modPwm_keeps | apply State.set_keeps | apply axisFault_keeps
    | apply Keeps.ite

theorem calSwap_keeps {r0 : State} (l : List (Fin 72)) (s : State) (hk : Keeps r0 s) :
    Keeps r0 (calSwap l s) := by
  unfold calSwap
  repeat' with_reducible first
    | assumption | extract_lets | apply State.set_keeps | apply Keeps.foldl | apply Keeps.ite | (intro _ _ _)
    | (intro _ _) | (simp only [Keeps.mk_iff]; apply Keeps.parts)

theorem updatePoint_keeps {r0 : State} (a : Axis) (s : State) (hk : Keeps r0 s) :
    Keeps r0 (updatePoint a s) := by
  unfold updatePoint
  repeat' with_reducible first
    | assumption | extract_lets | apply State.each_keeps | apply State.inc_keeps | apply State.modCc_keeps
    | apply State.modPwm_keeps | apply calSwap_keeps | apply endPeriod_keeps | apply endRefresh_keeps
    | apply levelLegs_keeps | apply noteGates_keeps | apply takeEdge_keeps | apply Keeps.each | apply Keeps.ite
    | (intro _ _ _) | (intro _ _) | (simp only [Keeps.mk_iff]; apply Keeps.parts) | split | dsimp +zetaDelta only

theorem insertRefresh_keeps {r0 : State} (a : Axis) (l : Leg) (s : State) (hk : Keeps r0 s) :
    Keeps r0 (insertRefresh a l s) := by
  unfold insertRefresh
  repeat' with_reducible first
    | assumption | extract_lets | apply State.count_keeps | apply State.modGd_keeps | apply State.modPwm_keeps
    | apply levelLeg_keeps | apply takeEdge_keeps | apply Keeps.ite

theorem countLows_keeps {r0 : State} (a : Axis) (t : Nat) (s : State) (hk : Keeps r0 s) :
    Keeps r0 (countLows a t s) := by
  unfold countLows
  repeat' with_reducible first | assumption | extract_lets | apply State.modGd_keeps

theorem tripPeriod_keeps {r0 : State} (a : Axis) (s : State) (hk : Keeps r0 s) :
    Keeps r0 (tripPeriod a s) := by
  unfold tripPeriod
  repeat' with_reducible first
    | assumption | extract_lets | apply State.modPwm_keeps | apply State.setB_keeps | apply refreshEnergised_keeps
    | apply Keeps.ite

theorem periodBoundary_keeps {r0 : State} (a : Axis) (s : State) (hk : Keeps r0 s) :
    Keeps r0 (periodBoundary a s) := by
  unfold periodBoundary
  repeat' with_reducible first
    | assumption | extract_lets | apply State.each_keeps | apply State.modPwm_keeps | apply applyCommit_keeps
    | apply countLows_keeps | apply cpPeriod_keeps | apply crossPeriod_keeps | apply cutFollowsTimer_keeps
    | apply insertRefresh_keeps | apply levelLegs_keeps | apply noteGates_keeps | apply tripPeriod_keeps
    | apply uvPeriod_keeps | apply Keeps.each | apply Keeps.ite | (intro _ _ _) | (intro _ _)
    | (simp only [Keeps.mk_iff]; apply Keeps.parts) | split | dsimp +zetaDelta only

theorem privBoundary_keeps {r0 : State} (c : Fin 8) (s : State) (hk : Keeps r0 s) :
    Keeps r0 (privBoundary c s) := by
  unfold privBoundary
  repeat' with_reducible first
    | assumption | extract_lets | apply State.at_keeps | apply State.modPriv_keeps | apply applyPriv_keeps
    | apply calSwap_keeps | apply privRun_keeps | apply Keeps.ite | (intro _ _ _) | (intro _ _)
    | (simp only [Keeps.mk_iff]; apply Keeps.parts) | split | dsimp +zetaDelta only

theorem State.modTripAt_keeps {r0 : State} (s : State) (n : Fin 4) (hk : Keeps r0 s) :
    Keeps r0 (State.modTripAt s n) := by
  unfold State.modTripAt
  repeat' with_reducible first
    | assumption | extract_lets | apply State.set_keeps | apply Keeps.ite | (intro _ _ _) | (intro _ _)
    | (simp only [Keeps.mk_iff]; apply Keeps.parts)

theorem tripActive_keeps {r0 : State} (n : Fin 4) (s : State) (hk : Keeps r0 s) :
    Keeps r0 (tripActive n s) := by
  unfold tripActive
  repeat' with_reducible first
    | assumption | extract_lets | apply State.each_keeps | apply State.modPwm_keeps | apply State.modTripAt_keeps
    | apply State.set_keeps | apply axisFault_keeps | apply refreshEnergised_keeps | apply Keeps.each
    | apply Keeps.ite | (intro _ _ _)

theorem tripInactive_keeps {r0 : State} (n : Fin 4) (s : State) (hk : Keeps r0 s) :
    Keeps r0 (tripInactive n s) := by
  unfold tripInactive
  repeat' with_reducible first
    | assumption | extract_lets | apply State.each_keeps | apply State.modPwm_keeps | apply State.modTripAt_keeps
    | apply State.set_keeps | apply Keeps.each | apply Keeps.ite | (intro _ _ _)

end Sys2Proof.Machine
end

