-- ==== Sys2Proof/Laws/KeepsCurrent.lean ====
section
/-!
SUPPORT. What the operations of current regulation keep (Laws/Keeps.lean), one lemma for each.
-/

namespace Sys2Proof.Machine

theorem rfWf_foldl (l : List Nat) (addr : Nat → Nat) (f : Nat → Word) (regs : List (Nat × Word)) (h : rfWf regs =
    true) :
    rfWf (l.foldl (fun r j => rfSet r (addr j) (f j)) regs) = true := by
  induction l generalizing regs with
  | nil => exact h
  | cons j l ih => exact ih _ (rfWf_rfSet _ _ _ h)

theorem setWave_keeps {r : State} (t : Nat) (active : Bool) (f : Nat → Word) (s : State) (h : Keeps r s) :
    Keeps r (setWave t active f s) := by
  unfold setWave
  generalize List.range 512 = l
  exact ⟨fun k => rfWf_foldl l _ _ _ (h.regs k), h.cells, h.pending, h.life, h.audit⟩

theorem wtStart_keeps {r0 : State} (t : Fin 8) (op : WtOp) (s : State) (hk : Keeps r0 s) :
    Keeps r0 (wtStart t op s).1 := by
  unfold wtStart
  repeat' with_reducible first
    | assumption | extract_lets | apply State.modWt_keeps | apply State.raise_keeps | apply State.set_keeps
    | apply Keeps.ite_fst

theorem wtAllMoved_keeps {r0 : State} (t : Fin 8) (s : State) (hk : Keeps r0 s) :
    Keeps r0 (wtAllMoved t s) := by
  unfold wtAllMoved
  repeat' with_reducible first
    | assumption | extract_lets | apply State.modWt_keeps | apply State.set_keeps | apply setWave_keeps

theorem wtSwap_keeps {r0 : State} (t : Fin 8) (s : State) (hk : Keeps r0 s) :
    Keeps r0 (wtSwap t s).1 := by
  unfold wtSwap
  repeat' with_reducible first
    | assumption | extract_lets | apply State.modWt_keeps | apply State.raise_keeps | apply State.set_keeps
    | apply wtAllMoved_keeps | apply Keeps.ite_fst | apply Keeps.ite

theorem wtOpDone_keeps {r0 : State} (t : Fin 8) (s : State) (hk : Keeps r0 s) :
    Keeps r0 (wtOpDone t s) := by
  unfold wtOpDone
  repeat' with_reducible first
    | assumption | extract_lets | apply State.modWt_keeps | apply State.set_keeps | apply setWave_keeps
    | apply Keeps.ite | (intro _ _ _) | (intro _ _) | split | dsimp +zetaDelta only

theorem wtMove_keeps {r0 : State} (a : Axis) (t : Fin 8) (s : State) (hk : Keeps r0 s) :
    Keeps r0 (wtMove a t s) := by
  unfold wtMove
  repeat' with_reducible first
    | assumption | extract_lets | apply State.modWt_keeps | apply wtAllMoved_keeps | apply Keeps.ite

theorem wtLeave_keeps {r0 : State} (a : Axis) (t : Fin 8) (s : State) (hk : Keeps r0 s) :
    Keeps r0 (wtLeave a t s) := by
  unfold wtLeave
  repeat' with_reducible first
    | assumption | extract_lets | apply State.set_keeps | apply wtAllMoved_keeps | apply Keeps.ite

theorem waveTableWrite_keeps {r0 : State} (a : Axis) (n : Nat) (s : State) (hk : Keeps r0 s) :
    Keeps r0 (waveTableWrite a n s) := by
  unfold waveTableWrite
  repeat' with_reducible first
    | assumption | extract_lets | apply State.set_keeps | apply wtLeave_keeps | apply Keeps.ite

theorem waveStep_keeps {r0 : State} (a : Axis) (s : State) (hk : Keeps r0 s) :
    Keeps r0 (waveStep a s).1 := by
  unfold waveStep
  repeat' with_reducible first
    | assumption | extract_lets | apply State.set_keeps | apply wtLeave_keeps | apply wtMove_keeps
    | apply Keeps.ite_fst

theorem updateScale_keeps {r0 : State} (a : Axis) (s : State) (hk : Keeps r0 s) :
    Keeps r0 (updateScale a s) := by
  unfold updateScale
  repeat' with_reducible first | assumption | extract_lets | apply setScale_keeps

theorem setOcDac_keeps {r0 : State} (a : Axis) (w : Fin 2) (code : Nat) (s : State) (hk : Keeps r0 s) :
    Keeps r0 (setOcDac a w code s) := by
  unfold setOcDac
  repeat' with_reducible first
    | assumption | extract_lets | apply State.modCc_keeps | apply State.set_keeps | apply Keeps.ite

theorem loadOcDac_keeps {r0 : State} (a : Axis) (s : State) (hk : Keeps r0 s) :
    Keeps r0 (loadOcDac a s) := by
  unfold loadOcDac
  repeat' with_reducible first | assumption | extract_lets | apply setOcDac_keeps

theorem sampleHalf_keeps {r0 : State} (a : Axis) (s : State) (hk : Keeps r0 s) :
    Keeps r0 (sampleHalf a s) := by
  unfold sampleHalf
  repeat' with_reducible first | assumption | extract_lets | apply State.modCc_keeps

theorem modChop_keeps {r0 : State} (a : Axis) (w : Fin 2) (f : WindSt → WindSt) (s : State) (hk : Keeps r0 s) :
    Keeps r0 (modChop a w f s) := by
  unfold modChop
  repeat' with_reducible first | assumption | extract_lets | apply State.modCc_keeps

theorem chopLegs_keeps {r0 : State} (a : Axis) (w : Fin 2) (t : Nat) (s : State) (hk : Keeps r0 s) :
    Keeps r0 (chopLegs a w t s) := by
  unfold chopLegs
  repeat' with_reducible first
    | assumption | extract_lets | apply State.modPwm_keeps | apply driveLeg_keeps | apply setEdge_keeps

theorem chopCount_keeps {r0 : State} (a : Axis) (w : Fin 2) (t : Nat) (s : State) (hk : Keeps r0 s) :
    Keeps r0 (chopCount a w t s) := by
  unfold chopCount
  exact modChop_keeps _ _ _ _ hk

theorem chopEnter_keeps {r0 : State} (a : Axis) (w : Fin 2) (ph : ChopPhase) (s : State) (hk : Keeps r0 s) :
    Keeps r0 (chopEnter a w ph s) := by
  unfold chopEnter
  repeat' with_reducible first
    | assumption | extract_lets | apply chopCount_keeps | apply chopLegs_keeps | apply modChop_keeps
    | apply noteGates_keeps

theorem chopMixed_keeps {r0 : State} (a : Axis) (w : Fin 2) (t : Nat) (s : State) (hk : Keeps r0 s) :
    Keeps r0 (chopMixed a w t s) := by
  unfold chopMixed
  repeat' with_reducible first
    | assumption | extract_lets | apply chopLegs_keeps | apply modChop_keeps | apply noteGates_keeps
    | apply Keeps.ite

theorem chopOffLegs_keeps {r0 : State} (a : Axis) (w : Fin 2) (s : State) (hk : Keeps r0 s) :
    Keeps r0 (chopOffLegs a w s) := by
  unfold chopOffLegs
  repeat' with_reducible first | assumption | extract_lets | apply driveLeg_keeps | apply Keeps.ite

theorem chopCycle_keeps {r0 : State} (a : Axis) (w : Fin 2) (s : State) (hk : Keeps r0 s) :
    Keeps r0 (chopCycle a w s) := by
  unfold chopCycle
  repeat' with_reducible first
    | assumption | extract_lets | apply chopCount_keeps | apply chopEnter_keeps | apply modChop_keeps

theorem chopBoundary_keeps {r0 : State} (a : Axis) (s : State) (hk : Keeps r0 s) :
    Keeps r0 (chopBoundary a s) := by
  unfold chopBoundary
  repeat' with_reducible first
    | assumption | extract_lets | apply State.each_keeps | apply chopCycle_keeps | apply chopMixed_keeps
    | apply loadOcDac_keeps | apply modChop_keeps | apply Keeps.each | apply Keeps.ite | (intro _ _ _)

theorem chopRelease_keeps {r0 : State} (a : Axis) (w : Fin 2) (trip : Bool) (s : State) (hk : Keeps r0 s) :
    Keeps r0 (chopRelease a w trip s) := by
  unfold chopRelease
  repeat' with_reducible first
    | assumption | extract_lets | apply chopCount_keeps | apply chopEnter_keeps | apply chopOffLegs_keeps
    | apply dropLeg_keeps | apply Keeps.ite

theorem chopOff_keeps {r0 : State} (a : Axis) (w : Fin 2) (x : Samples) (s : State) (hk : Keeps r0 s) :
    Keeps r0 (chopOff a w x s) := by
  unfold chopOff
  repeat' with_reducible first
    | assumption | extract_lets | apply chopRelease_keeps | apply ocFeed_keeps | apply Keeps.ite

theorem chopToffEnd_keeps {r0 : State} (a : Axis) (w : Fin 2) (s : State) (hk : Keeps r0 s) :
    Keeps r0 (chopToffEnd a w s) := by
  unfold chopToffEnd
  repeat' with_reducible first
    | assumption | extract_lets | apply State.at_keeps | apply chopCycle_keeps | apply chopMixed_keeps
    | apply Keeps.ite

theorem chopShort_keeps {r0 : State} (a : Axis) (w : Fin 2) (s : State) (hk : Keeps r0 s) :
    Keeps r0 (chopShort a w s) := by
  unfold chopShort
  repeat' with_reducible first
    | assumption | extract_lets | apply State.raise_keeps | apply noteGates_keeps | apply switchFault_keeps

theorem chopBlankEnd_keeps {r0 : State} (a : Axis) (w : Fin 2) (x : Samples) (s : State) (hk : Keeps r0 s) :
    Keeps r0 (chopBlankEnd a w x s) := by
  unfold chopBlankEnd
  repeat' with_reducible first
    | assumption | extract_lets | apply State.at_keeps | apply chopRelease_keeps | apply chopShort_keeps
    | apply modChop_keeps | apply ocFeed_keeps | apply Keeps.ite

theorem pulseLeg_keeps {r0 : State} (a : Axis) (l : Leg) (centredMid mid : Bool) (h : Int) (s : State) (hk : Keeps r0
    s) :
    Keeps r0 (pulseLeg a l centredMid mid h s).2 := by
  unfold pulseLeg
  repeat' with_reducible first | assumption | extract_lets | apply State.count_keeps | apply State.modPwm_keeps

theorem clampLeg_keeps {r0 : State} (a : Axis) (l : Leg) (s : State) (hk : Keeps r0 s) :
    Keeps r0 (clampLeg a l s).2 := by
  unfold clampLeg
  repeat' with_reducible first | assumption | extract_lets | apply State.modPwm_keeps

theorem windingEdges_keeps {r0 : State} (a : Axis) (w : Fin 2) (lc mid : Bool) (u : Rat) (s : State) (hk : Keeps r0 s)
    :
    Keeps r0 (windingEdges a w lc mid u s).2.2 := by
  unfold windingEdges
  repeat' with_reducible first | assumption | extract_lets | apply clampLeg_keeps | apply pulseLeg_keeps | split

theorem startComp_keeps {r0 : State} (a : Axis) (s : State) (hk : Keeps r0 s) :
    Keeps r0 (startComp a s) := by
  unfold startComp
  repeat' with_reducible first
    | assumption | extract_lets | apply State.each_keeps | apply State.modCc_keeps | apply State.setS_keeps
    | apply chopCount_keeps | apply chopMixed_keeps | apply Keeps.each | apply Keeps.ite | apply Keeps.ite_fst
    | apply Keeps.ite_snd | (intro _ _ _)

theorem sampleInstant_keeps {r0 : State} (a : Axis) (s : State) (hk : Keeps r0 s) :
    Keeps r0 (sampleInstant a s) := by
  unfold sampleInstant
  repeat' with_reducible first
    | assumption | extract_lets | apply State.modCc_keeps | apply State.modPwm_keeps | apply startComp_keeps
    | apply Keeps.ite

theorem putResult_keeps {r0 : State} (value tag fresh : Fld) (v : Nat) (s : State) (hk : Keeps r0 s) :
    Keeps r0 (putResult value tag fresh v s) := by
  unfold putResult
  repeat' with_reducible first | assumption | extract_lets | apply State.set_keeps

theorem currentAdc_keeps {r0 : State} (a : Axis) (w : Fin 2) (codes : List Int) (s : State) (hk : Keeps r0 s) :
    Keeps r0 (currentAdc a w codes s) := by
  unfold currentAdc
  repeat' with_reducible first
    | assumption | extract_lets | apply State.setB_keeps | apply modChop_keeps | apply noteGates_keeps
    | apply overcurrent_keeps | apply putResult_keeps | apply Keeps.ite

end Sys2Proof.Machine
end

