-- ==== Sys2Proof/Laws/KeepsLoadAngle.lean ====
section
/-!
SUPPORT. What the operations of load-angle observation keep (Laws/Keeps.lean), one lemma for each.
-/

namespace Sys2Proof.Machine

theorem declareStall_keeps {r0 : State} (a : Axis) (p : Nat) (collapse : Bool) (s : State) (hk : Keeps r0 s) :
    Keeps r0 (declareStall a p collapse s) := by
  unfold declareStall
  repeat' with_reducible first | assumption | extract_lets | apply State.modLa_keeps | apply Keeps.ite

theorem angleStall_keeps {r0 : State} (a : Axis) (c : Comp) (valid : Bool) (delta : Int) (s : State) (hk : Keeps r0 s) :
    Keeps r0 (angleStall a c valid delta s) := by
  unfold angleStall
  repeat' with_reducible first
    | assumption | extract_lets | apply State.modLa_keeps | apply declareStall_keeps | apply Keeps.ite

theorem collapseStall_keeps {r0 : State} (a : Axis) (c : Comp) (valid : Bool) (mag : Nat) (s : State) (hk : Keeps r0
    s) :
    Keeps r0 (collapseStall a c valid mag s) := by
  unfold collapseStall
  repeat' with_reducible first
    | assumption | extract_lets | apply State.modLa_keeps | apply declareStall_keeps | apply Keeps.ite

theorem endBoost_keeps {r0 : State} (a : Axis) (s : State) (hk : Keeps r0 s) :
    Keeps r0 (endBoost a s) := by
  unfold endBoost
  repeat' with_reducible first | assumption | extract_lets | apply State.modLa_keeps | apply State.set_keeps

theorem failBoost_keeps {r0 : State} (a : Axis) (s : State) (hk : Keeps r0 s) :
    Keeps r0 (failBoost a s) := by
  unfold failBoost
  repeat' with_reducible first
    | assumption | extract_lets | apply State.modLa_keeps | apply State.raise_keeps | apply endBoost_keeps

theorem boostStep_keeps {r0 : State} (a : Axis) (c : Comp) (valid : Bool) (delta : Int) (s : State) (hk : Keeps r0 s) :
    Keeps r0 (boostStep a c valid delta s) := by
  unfold boostStep
  repeat' with_reducible first
    | assumption | extract_lets | apply State.inc_keeps | apply State.modLa_keeps | apply State.raise_keeps
    | apply endBoost_keeps | apply failBoost_keeps | apply Keeps.ite

theorem boostTimeout_keeps {r0 : State} (a : Axis) (s : State) (hk : Keeps r0 s) :
    Keeps r0 (boostTimeout a s) := by
  unfold boostTimeout
  repeat' with_reducible first
    | assumption | extract_lets | apply State.at_keeps | apply failBoost_keeps | apply Keeps.ite | (intro _ _ _)
    | (intro _ _) | split

theorem ecoStep_keeps {r0 : State} (a : Axis) (valid : Bool) (delta : Int) (tc : Nat) (s : State) (hk : Keeps r0 s) :
    Keeps r0 (ecoStep a valid delta tc s) := by
  unfold ecoStep
  repeat' with_reducible first
    | assumption | extract_lets | apply State.modLa_keeps | apply State.set_keeps | apply Keeps.ite

theorem probeStart_keeps {r0 : State} (a : Axis) (ticket : Option (BitVec 8)) (s : State) (hk : Keeps r0 s) :
    Keeps r0 (probeStart a ticket s) := by
  unfold probeStart
  repeat' with_reducible first | assumption | extract_lets | apply State.modAx_keeps | apply State.set_keeps

theorem probeTimer_keeps {r0 : State} (a : Axis) (s : State) (hk : Keeps r0 s) :
    Keeps r0 (probeTimer a s) := by
  unfold probeTimer
  repeat' with_reducible first | assumption | extract_lets | apply State.modAx_keeps

theorem probeAuto_keeps {r0 : State} (a : Axis) (s : State) (hk : Keeps r0 s) :
    Keeps r0 (probeAuto a s) := by
  unfold probeAuto
  repeat' with_reducible first
    | assumption | extract_lets | apply State.at_keeps | apply State.modAx_keeps | apply probeStart_keeps
    | apply Keeps.ite | (intro _ _ _) | (intro _ _) | (simp only [Keeps.mk_iff]; apply Keeps.parts) | split

theorem probeStep_keeps {r0 : State} (a : Axis) (di : Int) (s : State) (hk : Keeps r0 s) :
    Keeps r0 (probeStep a di s) := by
  unfold probeStep
  repeat' with_reducible first
    | assumption | extract_lets | apply State.at_keeps | apply State.modAx_keeps | apply Keeps.ite | (intro _ _ _)
    | (intro _ _) | split

theorem probeResults_keeps {r0 : State} (a : Axis) (p : ProbeSt) (s : State) (hk : Keeps r0 s) :
    Keeps r0 (probeResults a p s) := by
  unfold probeResults
  repeat' with_reducible first
    | assumption | extract_lets | apply State.raise_keeps | apply State.setS_keeps | apply State.set_keeps
    | apply Keeps.ite

theorem probeClear_keeps {r0 : State} (a : Axis) (s : State) (hk : Keeps r0 s) :
    Keeps r0 (probeClear a s) := by
  unfold probeClear
  repeat' with_reducible first
    | assumption | extract_lets | apply State.modAx_keeps | apply State.modCc_keeps | apply State.set_keeps

theorem probeDone_keeps {r0 : State} (a : Axis) (di : Int) (s : State) (hk : Keeps r0 s) :
    Keeps r0 (probeDone a di s) := by
  unfold probeDone
  repeat' with_reducible first
    | assumption | extract_lets | apply State.at_keeps | apply State.free_keeps | apply State.raise_keeps
    | apply State.set_keeps | apply probeClear_keeps | apply probeResults_keeps | apply Keeps.ite | (intro _ _ _)
    | (intro _ _) | split

theorem probeAbort_keeps {r0 : State} (a : Axis) (s : State) (hk : Keeps r0 s) :
    Keeps r0 (probeAbort a s) := by
  unfold probeAbort
  repeat' with_reducible first
    | assumption | extract_lets | apply State.raise_keeps | apply probeClear_keeps | apply Keeps.ite

theorem piCompute_keeps {r0 : State} (a : Axis) (c : Comp) (s : State) (hk : Keeps r0 s) :
    Keeps r0 (piCompute a c s) := by
  unfold piCompute
  repeat' with_reducible first
    | assumption | extract_lets | apply State.count_keeps | apply State.modCc_keeps | apply State.modPwm_keeps
    | apply State.raise_keeps | apply State.setB_keeps | apply State.setS_keeps | apply State.set_keeps
    | apply windingEdges_keeps | apply Keeps.ite

theorem idleCompute_keeps {r0 : State} (a : Axis) (c : Comp) (s : State) (hk : Keeps r0 s) :
    Keeps r0 (idleCompute a c s) := by
  unfold idleCompute
  repeat' with_reducible first
    | assumption | extract_lets | apply State.modPwm_keeps | apply State.set_keeps | apply Keeps.ite

theorem chopCompute_keeps {r0 : State} (a : Axis) (c : Comp) (s : State) (hk : Keeps r0 s) :
    Keeps r0 (chopCompute a c s) := by
  unfold chopCompute
  repeat' with_reducible first | assumption | extract_lets | apply State.modCc_keeps | apply State.setS_keeps

theorem countSkips_keeps {r0 : State} (a : Axis) (s : State) (hk : Keeps r0 s) :
    Keeps r0 (countSkips a s) := by
  unfold countSkips
  repeat' with_reducible first
    | assumption | extract_lets | apply State.inc_keeps | apply State.raise_keeps | apply modChop_keeps
    | apply Keeps.ite | (intro _ _ _) | (intro _ _) | split | dsimp +zetaDelta only

theorem observe_keeps {r0 : State} (a : Axis) (c : Comp) (i1 i2 : Rat) (s : State) (hk : Keeps r0 s) :
    Keeps r0 (observe a c i1 i2 s) := by
  unfold observe
  repeat' with_reducible first
    | assumption | extract_lets | apply State.modCc_keeps | apply State.modLa_keeps | apply State.setB_keeps
    | apply State.setS_keeps | apply State.set_keeps | apply angleStall_keeps | apply boostStep_keeps
    | apply collapseStall_keeps | apply ecoStep_keeps | apply Keeps.ite

theorem computationDone_keeps {r0 : State} (a : Axis) (s : State) (hk : Keeps r0 s) :
    Keeps r0 (computationDone a s) := by
  unfold computationDone
  repeat' with_reducible first
    | assumption | extract_lets | apply State.modCc_keeps | apply chopCompute_keeps | apply countSkips_keeps
    | apply idleCompute_keeps | apply observe_keeps | apply piCompute_keeps | apply Keeps.ite | (intro _ _ _)
    | (intro _ _) | (simp only [Keeps.mk_iff]; apply Keeps.parts) | split

theorem markUncertain_keeps {r0 : State} (a : Axis) (s : State) (hk : Keeps r0 s) :
    Keeps r0 (markUncertain a s) := by
  unfold markUncertain
  repeat' with_reducible first
    | assumption | extract_lets | apply State.modLa_keeps | apply State.set_keeps | apply Keeps.ite

theorem stallStop_keeps {r0 : State} (a : Axis) (free : Bool) (t : Nat) (s : State) (hk : Keeps r0 s) :
    Keeps r0 (stallStop a free t s) := by
  unfold stallStop
  repeat' with_reducible first
    | assumption | extract_lets | apply State.modMot_keeps | apply countCut_keeps | apply discardCut_keeps
    | apply discardWindow_keeps | apply followBrake_keeps | apply markUncertain_keeps | apply reachStandstill_keeps
    | apply refreshEnergised_keeps | apply startBrake_keeps | apply Keeps.ite | (intro _ _ _) | (intro _ _)
    | (simp only [Keeps.mk_iff]; apply Keeps.parts) | split | dsimp +zetaDelta only

theorem fallback_keeps {r0 : State} (a : Axis) (t : Nat) (s : State) (hk : Keeps r0 s) :
    Keeps r0 (fallback a t s) := by
  unfold fallback
  repeat' with_reducible first | assumption | extract_lets | apply stallStop_keeps

theorem stallReaction_keeps {r0 : State} (a : Axis) (t : Nat) (s : State) (hk : Keeps r0 s) :
    Keeps r0 (stallReaction a t s) := by
  unfold stallReaction
  repeat' with_reducible first
    | assumption | extract_lets | apply State.inc_keeps | apply State.modLa_keeps | apply State.raise_keeps
    | apply State.set_keeps | apply endBoost_keeps | apply fallback_keeps | apply markUncertain_keeps
    | apply raiseWhistle_keeps | apply stallStop_keeps | apply Keeps.ite | (intro _ _ _) | (intro _ _)
    | (simp only [Keeps.mk_iff]; apply Keeps.parts) | split

theorem boostLeave_keeps {r0 : State} (a : Axis) (s : State) (hk : Keeps r0 s) :
    Keeps r0 (boostLeave a s) := by
  unfold boostLeave
  repeat' with_reducible first
    | assumption | extract_lets | apply endBoost_keeps | apply markUncertain_keeps | apply Keeps.ite

theorem encResync_keeps {r0 : State} (a : Axis) (s : State) (hk : Keeps r0 s) :
    Keeps r0 (encResync a s) := by
  unfold encResync
  repeat' with_reducible first
    | assumption | extract_lets | apply State.modLa_keeps | apply State.modMot_keeps | apply State.raise_keeps
    | apply State.set_keeps | apply Keeps.ite

end Sys2Proof.Machine
end

