-- ==== Sys2Proof/Laws/KeepsFeedback.lean ====
section
/-!
SUPPORT. What the operations of encoders and wheels keep (Laws/Keeps.lean), one lemma for each.
-/

namespace Sys2Proof.Machine

theorem fbCount_keeps {r0 : State} (a : Axis) (n : Int) (s : State) (hk : Keeps r0 s) :
    Keeps r0 (fbCount a n s) := by
  unfold fbCount
  repeat' with_reducible first | assumption | extract_lets | apply State.setS_keeps | apply State.set_keeps

theorem fbLost_keeps {r0 : State} (a : Axis) (s : State) (hk : Keeps r0 s) :
    Keeps r0 (fbLost a s) := by
  unfold fbLost
  repeat' with_reducible first | assumption | extract_lets | apply State.raise_keeps

theorem fbSpeedEdge_keeps {r0 : State} (a : Axis) (n : Int) (t : Nat) (s : State) (hk : Keeps r0 s) :
    Keeps r0 (fbSpeedEdge a n t s) := by
  unfold fbSpeedEdge
  repeat' with_reducible first
    | assumption | extract_lets | apply State.modCore_keeps | apply State.raise_keeps | apply State.set_keeps
    | apply State.setB_keeps | apply Keeps.ite

theorem speedWindowEnd_keeps {r0 : State} (a : Axis) (s : State) (hk : Keeps r0 s) :
    Keeps r0 (speedWindowEnd a s) := by
  unfold speedWindowEnd
  repeat' with_reducible first
    | assumption | extract_lets | apply State.at_keeps | apply State.modCore_keeps | apply State.set_keeps
    | apply Keeps.ite | (intro _ _ _) | (intro _ _) | (simp only [Keeps.mk_iff]; apply Keeps.parts) | split

theorem speedTimeout_keeps {r0 : State} (a : Axis) (s : State) (hk : Keeps r0 s) :
    Keeps r0 (speedTimeout a s) := by
  unfold speedTimeout
  repeat' with_reducible first
    | assumption | extract_lets | apply State.at_keeps | apply State.modCore_keeps | apply State.set_keeps
    | apply Keeps.ite | (intro _ _ _) | (intro _ _) | split

theorem fbAfter_keeps {r0 : State} (a : Axis) (s : State) (hk : Keeps r0 s) :
    Keeps r0 (fbAfter a s) := by
  unfold fbAfter
  repeat' with_reducible first
    | assumption | extract_lets | apply State.each_keeps | apply mchStale_keeps | apply Keeps.each | apply Keeps.ite
    | (intro _ _ _)

theorem indexEvent_keeps {r0 : State} (a : Axis) (neg : Bool) (s : State) (hk : Keeps r0 s) :
    Keeps r0 (indexEvent a neg s) := by
  unfold indexEvent
  repeat' with_reducible first
    | assumption | extract_lets | apply State.modCore_keeps | apply State.raise_keeps | apply State.set_keeps
    | apply State.setS_keeps | apply fbLost_keeps | apply mchZeroed_keeps | apply Keeps.ite | (intro _ _ _)
    | (intro _ _) | (simp only [Keeps.mk_iff]; apply Keeps.parts) | split | dsimp +zetaDelta only

theorem quadCount_keeps {r0 : State} (a : Axis) (n : Int) (t : Nat) (s : State) (hk : Keeps r0 s) :
    Keeps r0 (quadCount a n t s) := by
  unfold quadCount
  repeat' with_reducible first
    | assumption | extract_lets | apply State.modCore_keeps | apply fbCount_keeps | apply fbSpeedEdge_keeps
    | apply indexEvent_keeps | apply Keeps.ite

theorem overrun_keeps {r0 : State} (a : Axis) (last : Option Nat) (t : Nat) (s : State) (hk : Keeps r0 s) :
    Keeps r0 (overrun a last t s) := by
  unfold overrun
  repeat' with_reducible first
    | assumption | extract_lets | apply State.raise_keeps | apply fbLost_keeps | apply Keeps.ite

theorem indexEdge_keeps {r0 : State} (a : Axis) (rising : Bool) (t : Nat) (s : State) (hk : Keeps r0 s) :
    Keeps r0 (indexEdge a rising t s) := by
  unfold indexEdge
  repeat' with_reducible first | assumption | extract_lets | apply State.modCore_keeps | apply overrun_keeps

theorem trackEdge_keeps {r0 : State} (a : Axis) (inp : Fin 3) (rising : Bool) (x : Joint) (s : State) (hk : Keeps r0
    s) :
    Keeps r0 (trackEdge a inp rising x s) := by
  unfold trackEdge
  repeat' with_reducible first
    | assumption | extract_lets | apply State.modCore_keeps | apply State.raise_keeps | apply fbLost_keeps
    | apply overrun_keeps | apply quadCount_keeps | apply Keeps.ite

theorem quadEdge_keeps {r0 : State} (a : Axis) (inp : Fin 3) (rising : Bool) (x : Joint) (s : State) (hk : Keeps r0 s) :
    Keeps r0 (quadEdge a inp rising x s) := by
  unfold quadEdge
  repeat' with_reducible first
    | assumption | extract_lets | apply State.modCore_keeps | apply fbAfter_keeps | apply indexEdge_keeps
    | apply trackEdge_keeps | apply Keeps.ite

theorem hallInputs_keeps {r0 : State} (a : Axis) (code t : Nat) (s : State) (hk : Keeps r0 s) :
    Keeps r0 (hallInputs a code t s) := by
  unfold hallInputs
  repeat' with_reducible first
    | assumption | extract_lets | apply State.modCore_keeps | apply State.raise_keeps | apply fbLost_keeps
    | apply Keeps.ite

theorem hallJudge_keeps {r0 : State} (a : Axis) (code t : Nat) (s : State) (hk : Keeps r0 s) :
    Keeps r0 (hallJudge a code t s) := by
  unfold hallJudge
  repeat' with_reducible first
    | assumption | extract_lets | apply State.modCore_keeps | apply State.raise_keeps | apply State.set_keeps
    | apply fbCount_keeps | apply fbLost_keeps | apply fbSpeedEdge_keeps | apply Keeps.ite | (intro _ _ _)
    | (intro _ _) | (simp only [Keeps.mk_iff]; apply Keeps.parts) | split | dsimp +zetaDelta only

theorem hallTransition_keeps {r0 : State} (a : Axis) (code : Nat) (x : Joint) (s : State) (hk : Keeps r0 s) :
    Keeps r0 (hallTransition a code x s) := by
  unfold hallTransition
  repeat' with_reducible first
    | assumption | extract_lets | apply State.modCore_keeps | apply fbAfter_keeps | apply hallInputs_keeps
    | apply hallJudge_keeps | apply Keeps.ite

theorem wheelCount_keeps {r0 : State} (a : Axis) (n : Nat) (t : Nat) (s : State) (hk : Keeps r0 s) :
    Keeps r0 (wheelCount a n t s) := by
  unfold wheelCount
  repeat' with_reducible first
    | assumption | extract_lets | apply State.modCore_keeps | apply fbCount_keeps | apply fbSpeedEdge_keeps
    | apply Keeps.ite

theorem wheelFirst_keeps {r0 : State} (a : Axis) (extra : Bool) (t : Nat) (s : State) (hk : Keeps r0 s) :
    Keeps r0 (wheelFirst a extra t s) := by
  unfold wheelFirst
  repeat' with_reducible first
    | assumption | extract_lets | apply State.modCore_keeps | apply State.set_keeps | apply State.setS_keeps
    | apply fbSpeedEdge_keeps | apply Keeps.ite

theorem wheelInput_keeps {r0 : State} (a : Axis) (rising : Bool) (t : Nat) (s : State) (hk : Keeps r0 s) :
    Keeps r0 (wheelInput a rising t s) := by
  unfold wheelInput
  repeat' with_reducible first | assumption | extract_lets | apply State.modCore_keeps | apply overrun_keeps

theorem wheelEdge_keeps {r0 : State} (a : Axis) (e : Edge) (s : State) (hk : Keeps r0 s) :
    Keeps r0 (wheelEdge a e s) := by
  unfold wheelEdge
  repeat' with_reducible first
    | assumption | extract_lets | apply State.modCore_keeps | apply State.raise_keeps | apply State.set_keeps
    | apply fbAfter_keeps | apply fbLost_keeps | apply fbSpeedEdge_keeps | apply wheelCount_keeps
    | apply wheelFirst_keeps | apply wheelInput_keeps | apply Keeps.ite

theorem serGoodFrame_keeps {r0 : State} (a : Axis) (v : Nat) (t : Nat) (s : State) (hk : Keeps r0 s) :
    Keeps r0 (serGoodFrame a v t s) := by
  unfold serGoodFrame
  repeat' with_reducible first
    | assumption | extract_lets | apply State.modCore_keeps | apply State.modFb_keeps | apply State.raise_keeps
    | apply State.set_keeps | apply State.setB_keeps | apply State.setS_keeps | apply fbLost_keeps | apply Keeps.ite

theorem serFrameDone_keeps {r0 : State} (a : Axis) (bits : List Bool) (complete : Bool) (t : Nat) (s : State) (hk :
    Keeps r0 s) :
    Keeps r0 (serFrameDone a bits complete t s) := by
  unfold serFrameDone
  repeat' with_reducible first
    | assumption | extract_lets | apply State.modFb_keeps | apply State.raise_keeps | apply State.set_keeps
    | apply fbAfter_keeps | apply serGoodFrame_keeps | apply Keeps.ite | (intro _ _ _) | (intro _ _)
    | (simp only [Keeps.mk_iff]; apply Keeps.parts) | split | dsimp +zetaDelta only

theorem fbModeSet_keeps {r0 : State} (a : Axis) (mode : Nat) (s : State) (hk : Keeps r0 s) :
    Keeps r0 (fbModeSet a mode s) := by
  unfold fbModeSet
  repeat' with_reducible first
    | assumption | extract_lets | apply State.modCore_keeps | apply State.modFb_keeps | apply State.set_keeps
    | apply fbAfter_keeps | apply mchZeroed_keeps | apply Keeps.ite

theorem homeArm_keeps {r0 : State} (a : Axis) (s : State) (hk : Keeps r0 s) :
    Keeps r0 (homeArm a s).1 := by
  unfold homeArm
  repeat' with_reducible first | assumption | extract_lets | apply State.set_keeps | apply Keeps.ite_fst

theorem homeCancel_keeps {r0 : State} (a : Axis) (s : State) (hk : Keeps r0 s) :
    Keeps r0 (homeCancel a s) := by
  unfold homeCancel
  repeat' with_reducible first | assumption | extract_lets | apply State.set_keeps

theorem mchSample_keeps {r0 : State} (c : Fin 4) (s : State) (hk : Keeps r0 s) :
    Keeps r0 (mchSample c s) := by
  unfold mchSample
  repeat' with_reducible first
    | assumption | extract_lets | apply State.at_keeps | apply State.modMch_keeps | apply mchFresh_keeps
    | apply mchPush_keeps | apply mchStale_keeps | apply Keeps.ite | apply Keeps.ite_fst | apply Keeps.ite_snd
    | (intro _ _ _) | (intro _ _) | (simp only [Keeps.mk_iff]; apply Keeps.parts) | split

theorem mchReceive_keeps {r0 : State} (c : Fin 4) (t : Nat) (m : Int) (s : State) (hk : Keeps r0 s) :
    Keeps r0 (mchReceive c t m s) := by
  unfold mchReceive
  repeat' with_reducible first | assumption | extract_lets | apply mchFresh_keeps | apply mchPush_keeps

end Sys2Proof.Machine
end

