-- ==== Sys2Proof/Laws/KeepsMeasure.lean ====
section
/-!
SUPPORT. What the operations of measurement keep (Laws/Keeps.lean), one lemma for each.
-/

namespace Sys2Proof.Machine

theorem nodeResult_keeps {r0 : State} (a : Axis) (n : Fin 5) (code : Nat) (s : State) (hk : Keeps r0 s) :
    Keeps r0 (nodeResult a n code s) := by
  unfold nodeResult
  repeat' with_reducible first
    | assumption | extract_lets | apply putResult_keeps | apply Keeps.ite | (intro _ _ _) | (intro _ _) | split

theorem voltageAdc_keeps {r0 : State} (a : Axis) (code : Nat) (s : State) (hk : Keeps r0 s) :
    Keeps r0 (voltageAdc a code s) := by
  unfold voltageAdc
  repeat' with_reducible first
    | assumption | extract_lets | apply State.free_keeps | apply State.set_keeps | apply nodeResult_keeps
    | apply Keeps.ite | apply Keeps.ite_fst | apply Keeps.ite_snd | (intro _ _ _) | (intro _ _)
    | (simp only [Keeps.mk_iff]; apply Keeps.parts)

theorem ainAdc_keeps {r0 : State} (code : Nat) (s : State) (hk : Keeps r0 s) :
    Keeps r0 (ainAdc code s) := by
  unfold ainAdc
  repeat' with_reducible first
    | assumption | extract_lets | apply putResult_keeps | apply Keeps.ite | (intro _ _ _) | (intro _ _)
    | (simp only [Keeps.mk_iff]; apply Keeps.parts)

theorem tempResult_keeps {r0 : State} (n : Fin 6) (code : Int) (s : State) (hk : Keeps r0 s) :
    Keeps r0 (tempResult n code s) := by
  unfold tempResult
  repeat' with_reducible first
    | assumption | extract_lets | apply State.set_keeps | apply putResult_keeps | apply Keeps.ite

theorem State.modWm_keeps {r0 : State} (s : State) (n : Fin 12) (f : WmSt → WmSt) (hk : Keeps r0 s) :
    Keeps r0 (State.modWm s n f) := by
  unfold State.modWm
  repeat' with_reducible first
    | assumption | extract_lets | apply State.set_keeps | apply Keeps.ite | (intro _ _ _) | (intro _ _)
    | (simp only [Keeps.mk_iff]; apply Keeps.parts)

theorem wmSettle_keeps {r0 : State} (n : Fin 12) (before s : State) (hk : Keeps r0 s) :
    Keeps r0 (wmSettle n before s) := by
  unfold wmSettle
  repeat' with_reducible first | assumption | extract_lets | apply State.modWm_keeps

theorem wmThreshold_keeps {r0 : State} (n : Fin 12) (c : Fin 3) (rel : Bool) (s : State) (hk : Keeps r0 s) :
    Keeps r0 (wmThreshold n c rel s) := by
  unfold wmThreshold
  repeat' with_reducible first
    | assumption | extract_lets | apply State.modWm_keeps | apply State.set_keeps | apply wmSettle_keeps

theorem ainOutput_keeps {r0 : State} (n : Fin 8) (high on : Bool) (s : State) (hk : Keeps r0 s) :
    Keeps r0 (ainOutput n high on s) := by
  unfold ainOutput
  repeat' with_reducible first
    | assumption | extract_lets | apply State.raise_keeps | apply State.setB_keeps | apply raiseWhistle_keeps
    | apply Keeps.ite

theorem wmDecide_keeps {r0 : State} (n : Fin 12) (c : Fin 3) (active : Bool) (s : State) (hk : Keeps r0 s) :
    Keeps r0 (wmDecide n c active s) := by
  unfold wmDecide
  repeat' with_reducible first | assumption | extract_lets | apply State.modWm_keeps | apply wmThreshold_keeps

theorem wmFeed_keeps {r0 : State} (n : Fin 12) (c : Fin 3) (f : Bool → State → State)
    (hf : ∀ b t, Keeps r0 t → Keeps r0 (f b t)) (l : List Bool) (t : Nat) (s : State) (hk : Keeps r0 s) :
    Keeps r0 (wmFeed n c f l t s) := by
  induction l generalizing t s with
  | nil => exact hk
  | cons b l ih =>
    unfold wmFeed
    repeat' with_reducible first
      | assumption | extract_lets | apply ih | apply State.modWm_keeps | apply State.at_keeps | apply hf
      | apply Keeps.ite

theorem ainDecides_keeps {r0 : State} (n : Fin 8) (high : Bool) (active : Bool) (s : State) (hk : Keeps r0 s) :
    Keeps r0 (ainDecides n high active s) := by
  unfold ainDecides
  repeat' with_reducible first
    | assumption | extract_lets | apply ainOutput_keeps | apply wmDecide_keeps | apply Keeps.ite

theorem ainWmTrip_keeps {r0 : State} (n : Fin 8) (high : Bool) (x : Samples) (s : State) (hk : Keeps r0 s) :
    Keeps r0 (ainWmTrip n high x s) := by
  unfold ainWmTrip
  repeat' with_reducible first
    | assumption | extract_lets | apply ainDecides_keeps | apply wmFeed_keeps | apply Keeps.ite

theorem wmEnable_keeps {r0 : State} (n : Fin 8) (s : State) (hk : Keeps r0 s) :
    Keeps r0 (wmEnable n s) := by
  unfold wmEnable
  repeat' with_reducible first | assumption | extract_lets | apply State.modWm_keeps | apply State.set_keeps

theorem vmActs_keeps {r0 : State} (q : Quad) (c : Fin 3) (active : Bool) (s : State) (hk : Keeps r0 s) :
    Keeps r0 (vmActs q c active s) := by
  unfold vmActs
  repeat' with_reducible first
    | assumption | extract_lets | apply brakeDecision_keeps | apply vmOvClear_keeps | apply vmOvTrip_keeps
    | apply vmUvClear_keeps | apply vmUvTrip_keeps | apply Keeps.ite | (intro _ _ _) | (intro _ _)
    | (simp only [Keeps.mk_iff]; apply Keeps.parts) | split

theorem vmDecides_keeps {r0 : State} (q : Quad) (c : Fin 3) (active : Bool) (s : State) (hk : Keeps r0 s) :
    Keeps r0 (vmDecides q c active s) := by
  unfold vmDecides
  repeat' with_reducible first
    | assumption | extract_lets | apply vmActs_keeps | apply wmDecide_keeps | apply Keeps.ite

theorem vmSamples_keeps {r0 : State} (q : Quad) (c : Fin 3) (x : Samples) (s : State) (hk : Keeps r0 s) :
    Keeps r0 (vmSamples q c x s) := by
  unfold vmSamples
  repeat' with_reducible first
    | assumption | extract_lets | apply vmDecides_keeps | apply wmFeed_keeps | apply Keeps.ite

theorem vmStart_keeps {r0 : State} (q : Quad) (s : State) (hk : Keeps r0 s) :
    Keeps r0 (vmStart q s) := by
  unfold vmStart
  repeat' with_reducible first
    | assumption | extract_lets | apply State.modWm_keeps | apply State.set_keeps | apply brakeWant_keeps

theorem vmSettled_keeps {r0 : State} (q : Quad) (s : State) (hk : Keeps r0 s) :
    Keeps r0 (vmSettled q s) := by
  unfold vmSettled
  repeat' with_reducible first
    | assumption | extract_lets | apply State.each_keeps | apply State.set_keeps | apply brakeDecision_keeps
    | apply refreshAxis_keeps | apply vmOvTrip_keeps | apply Keeps.each | apply Keeps.ite

theorem wmAlternate_keeps {r0 : State} (n : Fin 12) (c : Fin 3) (rel : Bool) (s : State) (hk : Keeps r0 s) :
    Keeps r0 (wmAlternate n c rel s) := by
  unfold wmAlternate
  repeat' with_reducible first
    | assumption | extract_lets | apply State.modWm_keeps | apply State.set_keeps | apply wmThreshold_keeps

theorem wmSettled_keeps {r0 : State} (n : Fin 12) (s : State) (hk : Keeps r0 s) :
    Keeps r0 (wmSettled n s) := by
  unfold wmSettled
  repeat' with_reducible first
    | assumption | extract_lets | apply State.set_keeps | apply vmSettled_keeps | apply Keeps.ite

theorem wmDwellEnd_keeps {r0 : State} (n : Fin 12) (c : Fin 3) (x : Samples) (s : State) (hk : Keeps r0 s) :
    Keeps r0 (wmDwellEnd n c x s) := by
  unfold wmDwellEnd
  repeat' with_reducible first
    | assumption | extract_lets | apply wmFeed_keeps | apply State.at_keeps | apply State.modWm_keeps
    | apply ainOutput_keeps | apply vmUvTrip_keeps | apply wmAlternate_keeps | apply wmDecide_keeps
    | apply wmSettled_keeps | apply Keeps.ite | (intro _ _ _)

end Sys2Proof.Machine
end

