-- ==== Sys2Proof/Laws/KeepsBoundary.lean ====
section
/-!
SUPPORT. What the operations of the period boundary keep (Laws/Keeps.lean), one lemma for each.
-/

namespace Sys2Proof.Machine

theorem backstopCheck_keeps {r0 : State} (a : Axis) (v0 : Int) (th : Nat) (s : State) (hk : Keeps r0 s) :
    Keeps r0 (backstopCheck a v0 th s) := by
  unfold backstopCheck
  repeat' with_reducible first
    | assumption | extract_lets | apply autoTransit_keeps | apply clampAxis_keeps | apply countViolation_keeps
    | apply Keeps.ite

theorem waveBoundary_keeps {r0 : State} (a : Axis) (p0 : Int) (s : State) (hk : Keeps r0 s) :
    Keeps r0 (waveBoundary a p0 s) := by
  unfold waveBoundary
  repeat' with_reducible first
    | assumption | extract_lets | apply probeAbort_keeps | apply waveStep_keeps | apply Keeps.ite | (intro _ _ _)
    | (intro _ _) | split | dsimp +zetaDelta only

theorem halfBoundary_keeps {r0 : State} (a : Axis) (s : State) (hk : Keeps r0 s) :
    Keeps r0 (halfBoundary a s) := by
  unfold halfBoundary
  repeat' with_reducible first
    | assumption | extract_lets | apply State.at_keeps | apply State.modLa_keeps | apply advanceTimer_keeps
    | apply backstopCheck_keeps | apply boostLeave_keeps | apply chopBoundary_keeps | apply encResync_keeps
    | apply refreshAxis_keeps | apply refreshEnergised_keeps | apply runMotion_keeps | apply sampleHalf_keeps
    | apply stallReaction_keeps | apply updateScale_keeps | apply waveBoundary_keeps | apply Keeps.ite

end Sys2Proof.Machine
end

