-- ==== Sys2Proof/Laws/KeepsLocker.lean ====
section
/-!
SUPPORT. What the operations of the Locker keep (Laws/Keeps.lean), one lemma for each.
-/

namespace Sys2Proof.Machine

theorem putLine_keeps {r0 : State} (line : Nat) (bytes : List Byte) (s : State) (hk : Keeps r0 s) :
    Keeps r0 (putLine line bytes s) :=
  ⟨hk.regs, fun k => cellWf_cellsPut _ _ _ (hk.cells k), hk.pending, hk.life, hk.audit⟩

theorem countLine_keeps {r0 : State} (who : Fin 22) (line : Nat) (r : LineRes) (s : State) (hk : Keeps r0 s) :
    Keeps r0 (countLine who line r s) := by
  unfold countLine
  repeat' with_reducible first
    | assumption | extract_lets | apply State.inc_keeps | apply State.set_keeps | apply Keeps.ite | (intro _ _ _)
    | (intro _ _) | split

theorem peekLines_keeps {r0 : State} (who : Fin 22) (n line : Nat) (s : State) (hk : Keeps r0 s) :
    Keeps r0 (peekLines who n line s).2 := by
  induction n generalizing line s with
  | zero => exact hk
  | succ n ih =>
    unfold peekLines
    extract_lets r s1
    split
    · exact countLine_keeps _ _ _ _ hk
    · exact ih _ _ (countLine_keeps _ _ _ _ hk)

theorem setJobs_keeps {r0 : State} (new : List LkJob) (s : State) (hk : Keeps r0 s) :
    Keeps r0 (setJobs new s) := by
  unfold setJobs
  repeat' with_reducible first
    | assumption | extract_lets | apply Keeps.ite | (intro _ _ _) | (intro _ _)
    | (simp only [Keeps.mk_iff]; apply Keeps.parts)

theorem addJob_keeps {r0 : State} (j : LkJob) (s : State) (hk : Keeps r0 s) :
    Keeps r0 (addJob j s) := by
  unfold addJob
  repeat' with_reducible first | assumption | extract_lets | apply setJobs_keeps

theorem dropJobs_keeps {r0 : State} (p : LkJob → Bool) (s : State) (hk : Keeps r0 s) :
    Keeps r0 (dropJobs p s) := by
  unfold dropJobs
  repeat' with_reducible first | assumption | extract_lets | apply setJobs_keeps

theorem readJob_keeps {r0 : State} (who : Fin 22) (why : LkWhy) (line n : Nat) (s : State) (hk : Keeps r0 s) :
    Keeps r0 (readJob who why line n s) := by
  unfold readJob
  repeat' with_reducible first
    | assumption | extract_lets | apply addJob_keeps | apply Keeps.foldl | apply Keeps.ite | (intro _ _ _)

theorem writeJob_keeps {r0 : State} (who : Fin 22) (why : LkWhy) (line : Nat) (bytes : List Byte) (s : State) (hk :
    Keeps r0 s) :
    Keeps r0 (writeJob who why line bytes s) := by
  unfold writeJob
  repeat' with_reducible first | assumption | extract_lets | apply addJob_keeps

theorem lkArbitrate_keeps {r0 : State} (b : Fin 8) (s : State) (hk : Keeps r0 s) :
    Keeps r0 (lkArbitrate b s) := by
  unfold lkArbitrate
  repeat' with_reducible first
    | assumption | extract_lets | apply State.inc_keeps | apply State.mark_keeps | apply State.set_keeps
    | apply Keeps.foldl | apply Keeps.ite | apply Keeps.ite_fst | apply Keeps.ite_snd | (intro _ _ _) | (intro _ _)
    | (simp only [Keeps.mk_iff]; apply Keeps.parts) | split | dsimp +zetaDelta only

theorem letEnds_keeps {r0 : State} (b : Fin 8) (e : Fin 26) (s : State) (hk : Keeps r0 s) : Keeps r0 (letEnds b e s)
    := by
  unfold letEnds
  extract_lets k
  split
  · exact hk
  · exact Keeps.mk_iff.mpr ⟨hk.regs, hk.cells, hk.pending, hk.life, hk.audit⟩

theorem endAccess_keeps {r0 s s1 : State} {b : Fin 8} {j : LkJob} {c : Bool} (hk : Keeps r0 s)
    (e : endAccess b s = some (j, c, s1)) : Keeps r0 s1 := by
  unfold endAccess at e
  split at e
  · cases e
  · cases e
    exact setJobs_keeps _ _ (Keeps.mk_iff.mpr hk.parts)

theorem finishWrite_keeps {r0 : State} (line : Nat) (data rb1 rb2 : List Byte) (s : State) (hk : Keeps r0 s) :
    Keeps r0 (finishWrite line data rb1 rb2 s).1 := by
  unfold finishWrite
  repeat' with_reducible first
    | assumption | extract_lets | apply State.inc_keeps | apply putLine_keeps | apply Keeps.ite_fst

end Sys2Proof.Machine
end

