-- ==== Sys2Proof/Laws/KeepsLiveRegs.lean ====
section
/-!
SUPPORT. What the operations of live register fields keep (Laws/Keeps.lean), one lemma for each.
-/

namespace Sys2Proof.Machine

theorem clearRead_keeps {r0 : State} (addr : Nat) (s : State) (hk : Keeps r0 s) :
    Keeps r0 (clearRead addr s) := by
  unfold clearRead
  repeat' with_reducible first
    | assumption | extract_lets | apply State.setWord_keeps | apply Keeps.foldl | apply Keeps.ite | (intro _ _ _)
    | (intro _ _) | split

theorem regRead_keeps {r0 : State} (addr : Nat) (s : State) (hk : Keeps r0 s) :
    Keeps r0 (regRead addr s).2 := by
  unfold regRead
  repeat' with_reducible first | assumption | extract_lets | apply clearRead_keeps

theorem regReads_keeps {r0 : State} (n addr : Nat) (s : State) (hk : Keeps r0 s) : Keeps r0 (regReads n addr s).2 :=
    by
  induction n generalizing addr s with
  | zero => exact hk
  | succ n ih => exact ih _ _ (regRead_keeps _ _ hk)

theorem readEach_keeps {r0 : State} (l : List Nat) (s : State) (hk : Keeps r0 s) : Keeps r0 (readEach l s).2 := by
  induction l generalizing s with
  | nil => exact hk
  | cons a l ih => exact ih _ (regRead_keeps _ _ hk)

end Sys2Proof.Machine
end

