-- ==== Sys2Proof/Laws/KeepsTimeBase.lean ====
section
/-!
SUPPORT. What the operations of the time base keep (Laws/Keeps.lean), one lemma for each.
-/

namespace Sys2Proof.Machine

theorem toInternal_keeps {r0 : State} (s : State) (hk : Keeps r0 s) :
    Keeps r0 (toInternal s) := by
  unfold toInternal
  repeat' with_reducible first
    | assumption | extract_lets | apply State.set_keeps | apply autoTransit_keeps | apply Keeps.ite

theorem refFail_keeps {r0 : State} (s : State) (hk : Keeps r0 s) :
    Keeps r0 (refFail s) := by
  unfold refFail
  repeat' with_reducible first
    | assumption | extract_lets | apply State.inc_keeps | apply State.raise_keeps | apply toInternal_keeps
    | apply Keeps.ite | (intro _ _ _) | (intro _ _) | (simp only [Keeps.mk_iff]; apply Keeps.parts) | split
    | dsimp +zetaDelta only

theorem refinEdgeTimeout_keeps {r0 : State} (s : State) (hk : Keeps r0 s) :
    Keeps r0 (refinEdgeTimeout s) := by
  unfold refinEdgeTimeout
  repeat' with_reducible first | assumption | extract_lets | apply refFail_keeps | apply Keeps.ite

theorem toReference_keeps {r0 : State} (s : State) (hk : Keeps r0 s) :
    Keeps r0 (toReference s) := by
  unfold toReference
  repeat' with_reducible first | assumption | extract_lets | apply State.set_keeps

theorem calibrationInstant_keeps {r0 : State} (refOk : Bool) (fails : BitVec 144) (s : State) (hk : Keeps r0 s) :
    Keeps r0 (calibrationInstant refOk fails s) := by
  unfold calibrationInstant
  repeat' with_reducible first
    | assumption | extract_lets | apply State.at_keeps | apply State.raise_keeps | apply refFail_keeps
    | apply toReference_keeps | apply Keeps.ite | (intro _ _ _) | (intro _ _)
    | (simp only [Keeps.mk_iff]; apply Keeps.parts) | split | dsimp +zetaDelta only

theorem referenceGood_keeps {r0 : State} (t : Nat) (s : State) (hk : Keeps r0 s) :
    Keeps r0 (referenceGood t s) := by
  unfold referenceGood
  repeat' with_reducible first
    | assumption | extract_lets | apply State.at_keeps | apply Keeps.ite | (intro _ _ _) | (intro _ _)
    | (simp only [Keeps.mk_iff]; apply Keeps.parts)

theorem refinEnWrite_keeps {r0 : State} (b : Bool) (s : State) (hk : Keeps r0 s) :
    Keeps r0 (refinEnWrite b s) := by
  unfold refinEnWrite
  repeat' with_reducible first
    | assumption | extract_lets | apply State.setB_keeps | apply toInternal_keeps | apply Keeps.ite

theorem bootSource_keeps {r0 : State} (s : State) (hk : Keeps r0 s) :
    Keeps r0 (bootSource s) := by
  unfold bootSource
  repeat' with_reducible first | assumption | extract_lets | apply toReference_keeps | apply Keeps.ite

end Sys2Proof.Machine
end

