-- ==== Sys2Proof/Laws/KeepsMode.lean ====
section
/-!
SUPPORT. What the operations of the device mode keep (Laws/Keeps.lean), one lemma for each.
-/

namespace Sys2Proof.Machine

theorem cancelAll_keeps {r0 : State} (s : State) (hk : Keeps r0 s) :
    Keeps r0 (cancelAll s) := by
  unfold cancelAll
  repeat' with_reducible first
    | assumption | extract_lets | apply retireAll_keeps | apply Keeps.ite | (intro _ _ _) | (intro _ _)
    | (simp only [Keeps.mk_iff]; apply Keeps.parts)

theorem cancelLocker_keeps {r0 : State} (s : State) (hk : Keeps r0 s) :
    Keeps r0 (cancelLocker s) := by
  unfold cancelLocker
  repeat' with_reducible first
    | assumption | extract_lets | apply State.set_keeps | apply dropJobs_keeps | apply Keeps.ite | (intro _ _ _)
    | (intro _ _) | (simp only [Keeps.mk_iff]; apply Keeps.parts)

theorem safeAxis_keeps {r0 : State} (a : Axis) (s : State) (hk : Keeps r0 s) :
    Keeps r0 (safeAxis a s) := by
  unfold safeAxis
  repeat' with_reducible first
    | assumption | extract_lets | apply State.set_keeps | apply disengage_keeps | apply haltMotion_keeps
    | apply refreshAxis_keeps | apply retireEngage_keeps | apply Keeps.ite

theorem enterSafe_keeps {r0 : State} (s : State) (hk : Keeps r0 s) :
    Keeps r0 (enterSafe s) := by
  unfold enterSafe
  repeat' with_reducible first
    | assumption | extract_lets | apply cancelAll_keeps | apply cancelLocker_keeps | apply safeAxis_keeps
    | apply Keeps.each

theorem enterHalt_keeps {r0 : State} (s : State) (hk : Keeps r0 s) :
    Keeps r0 (enterHalt s) := by
  unfold enterHalt
  repeat' with_reducible first
    | assumption | extract_lets | apply followExit_keeps | apply stopPacket_keeps | apply Keeps.each
    | apply Keeps.ite | (intro _ _ _)

theorem judgeWindows_keeps {r0 : State} (s : State) (hk : Keeps r0 s) :
    Keeps r0 (judgeWindows s) := by
  unfold judgeWindows
  repeat' with_reducible first
    | assumption | extract_lets | apply State.setB_keeps | apply Keeps.each | apply Keeps.ite | (intro _ _ _)

theorem takeMode_keeps {r0 : State} (m trig : Nat) (s : State) (hk : Keeps r0 s) :
    Keeps r0 (takeMode m trig s) := by
  unfold takeMode
  repeat' with_reducible first
    | assumption | extract_lets | apply State.raise_keeps | apply State.set_keeps | apply enterHalt_keeps
    | apply enterSafe_keeps | apply judgeWindows_keeps | apply refreshAll_keeps | apply startTimers_keeps
    | apply Keeps.ite

theorem modeTransitDone_keeps {r0 : State} (s : State) (hk : Keeps r0 s) :
    Keeps r0 (modeTransitDone s) := by
  unfold modeTransitDone
  repeat' with_reducible first
    | assumption | extract_lets | apply State.setB_keeps | apply beginTransit_keeps | apply takeMode_keeps
    | apply Keeps.ite | (intro _ _ _) | (intro _ _) | (simp only [Keeps.mk_iff]; apply Keeps.parts) | split
    | dsimp +zetaDelta only

theorem modeBegin_keeps {r0 : State} (p : Port) (m : Nat) (s : State) (hk : Keeps r0 s) :
    Keeps r0 (modeBegin p m s) := by
  unfold modeBegin
  repeat' with_reducible first
    | assumption | extract_lets | apply State.set_keeps | apply beginTransit_keeps | apply Keeps.ite | (intro _ _ _)
    | (intro _ _) | (simp only [Keeps.mk_iff]; apply Keeps.parts)

end Sys2Proof.Machine
end

