-- ==== Sys2Proof/Laws/KeepsCenov.lean ====
section
/-!
SUPPORT. What the operations of the Cenov ports keep (Laws/Keeps.lean), one lemma for each.
-/

namespace Sys2Proof.Machine

theorem State.modCv_keeps {r0 : State} (s : State) (l : Link) (f : CvPort → CvPort) (hk : Keeps r0 s) :
    Keeps r0 (State.modCv s l f) := by
  unfold State.modCv
  repeat' with_reducible first
    | assumption | extract_lets | apply Keeps.ite | (intro _ _ _) | (intro _ _)
    | (simp only [Keeps.mk_iff]; apply Keeps.parts) | split

theorem transmit_keeps {r0 : State} (l : Link) (fs : List CvFlit) (s : State) (hk : Keeps r0 s) :
    Keeps r0 (transmit l fs s) := by
  unfold transmit
  repeat' with_reducible first
    | assumption | extract_lets | apply Keeps.ite | (intro _ _ _) | (intro _ _)
    | (simp only [Keeps.mk_iff]; apply Keeps.parts)

theorem pumpPort_keeps {r0 : State} (l : Link) (n : Nat) (s : State) (hk : Keeps r0 s) : Keeps r0 (pumpPort l n s) :=
    by
  induction n generalizing s with
  | zero => exact hk
  | succ n ih =>
    unfold pumpPort
    extract_lets p
    split
    · exact hk
    · split
      · exact hk
      · exact ih _ (Keeps.mk_iff.mpr (State.modCv_keeps _ _ _ hk).parts)

theorem sendFlits_keeps {r0 : State} (l : Link) (fs : List CvFlit) (s : State) (hk : Keeps r0 s) :
    Keeps r0 (sendFlits l fs s) := by
  unfold sendFlits
  repeat' with_reducible first
    | assumption | extract_lets | apply State.modCv_keeps | apply pumpPort_keeps | apply Keeps.foldl
    | apply Keeps.ite

theorem sendMsg_keeps {r0 : State} (l : Link) (typ : BitVec 4) (n : Nat) (msg : CvMsg) (s : State) (hk : Keeps r0 s) :
    Keeps r0 (sendMsg l typ n msg s) := by
  unfold sendMsg
  repeat' with_reducible first | assumption | extract_lets | apply sendFlits_keeps

theorem sendPlain_keeps {r0 : State} (l : Link) (typ : BitVec 4) (msg : CvMsg) (s : State) (hk : Keeps r0 s) :
    Keeps r0 (sendPlain l typ msg s) := by
  unfold sendPlain
  repeat' with_reducible first | assumption | extract_lets | apply transmit_keeps | apply Keeps.ite

theorem ackPort_keeps {r0 : State} (l : Link) (ack : BitVec 5) (s : State) (hk : Keeps r0 s) :
    Keeps r0 (ackPort l ack s) := by
  unfold ackPort
  repeat' with_reducible first
    | assumption | extract_lets | apply State.modCv_keeps | apply pumpPort_keeps | apply Keeps.ite | (intro _ _ _)
    | (intro _ _) | split

theorem lastDevice_keeps {r0 : State} (s : State) (hk : Keeps r0 s) :
    Keeps r0 (lastDevice s) := by
  unfold lastDevice
  repeat' with_reducible first | assumption | extract_lets | apply State.set_keeps | apply sendMsg_keeps

theorem offerId_keeps {r0 : State} (s : State) (hk : Keeps r0 s) :
    Keeps r0 (offerId s) := by
  unfold offerId
  repeat' with_reducible first
    | assumption | extract_lets | apply lastDevice_keeps | apply sendMsg_keeps | apply Keeps.ite

theorem becomeCaptain_keeps {r0 : State} (s : State) (hk : Keeps r0 s) :
    Keeps r0 (becomeCaptain s) := by
  unfold becomeCaptain
  repeat' with_reducible first
    | assumption | extract_lets | apply State.set_keeps | apply offerId_keeps | apply Keeps.ite | (intro _ _ _)
    | (intro _ _) | (simp only [Keeps.mk_iff]; apply Keeps.parts)

theorem takeRole_keeps {r0 : State} (s : State) (hk : Keeps r0 s) :
    Keeps r0 (takeRole s) := by
  unfold takeRole
  repeat' with_reducible first
    | assumption | extract_lets | apply State.set_keeps | apply becomeCaptain_keeps | apply Keeps.ite | (intro _ _ _)
    | (intro _ _) | (simp only [Keeps.mk_iff]; apply Keeps.parts) | split

theorem roleFromFrame_keeps {r0 : State} (s : State) (hk : Keeps r0 s) :
    Keeps r0 (roleFromFrame s) := by
  unfold roleFromFrame
  repeat' with_reducible first | assumption | extract_lets | apply becomeCaptain_keeps | apply Keeps.ite

theorem setConflict_keeps {r0 : State} (l : Link) (id : Nat) (s : State) (hk : Keeps r0 s) :
    Keeps r0 (setConflict l id s) := by
  unfold setConflict
  repeat' with_reducible first
    | assumption | extract_lets | apply State.set_keeps | apply autoTransit_keeps | apply Keeps.ite | (intro _ _ _)
    | (intro _ _) | (simp only [Keeps.mk_iff]; apply Keeps.parts)

theorem clearConflict_keeps {r0 : State} (l : Link) (n : Nat) (s : State) (hk : Keeps r0 s) :
    Keeps r0 (clearConflict l n s) := by
  unfold clearConflict
  repeat' with_reducible first
    | assumption | extract_lets | apply State.set_keeps | apply Keeps.ite | (intro _ _ _) | (intro _ _)
    | (simp only [Keeps.mk_iff]; apply Keeps.parts)

theorem gatherCheck_keeps {r0 : State} (s : State) (hk : Keeps r0 s) :
    Keeps r0 (gatherCheck s) := by
  unfold gatherCheck
  repeat' with_reducible first
    | assumption | extract_lets | apply State.raise_keeps | apply State.set_keeps | apply Keeps.ite

theorem gatherLost_keeps {r0 : State} (n : Nat) (s : State) (hk : Keeps r0 s) :
    Keeps r0 (gatherLost n s) := by
  unfold gatherLost
  repeat' with_reducible first
    | assumption | extract_lets | apply gatherCheck_keeps | apply Keeps.ite | (intro _ _ _) | (intro _ _)
    | (simp only [Keeps.mk_iff]; apply Keeps.parts)

theorem barrierFails_keeps {r0 : State} (s : State) (hk : Keeps r0 s) :
    Keeps r0 (barrierFails s) := by
  unfold barrierFails
  repeat' with_reducible first
    | assumption | extract_lets | apply State.raise_keeps | apply State.set_keeps | apply Keeps.ite | (intro _ _ _)
    | (intro _ _) | (simp only [Keeps.mk_iff]; apply Keeps.parts)

theorem squadShrinks_keeps {r0 : State} (n : Nat) (s : State) (hk : Keeps r0 s) :
    Keeps r0 (squadShrinks n s) := by
  unfold squadShrinks
  repeat' with_reducible first
    | assumption | extract_lets | apply State.raise_keeps | apply State.set_keeps | apply barrierFails_keeps
    | apply gatherLost_keeps | apply Keeps.ite | (intro _ _ _) | (intro _ _)
    | (simp only [Keeps.mk_iff]; apply Keeps.parts) | split | dsimp +zetaDelta only

theorem captLost_keeps {r0 : State} (s : State) (hk : Keeps r0 s) :
    Keeps r0 (captLost s) := by
  unfold captLost
  repeat' with_reducible first
    | assumption | extract_lets | apply State.raise_keeps | apply State.set_keeps | apply Keeps.ite | (intro _ _ _)
    | (intro _ _) | (simp only [Keeps.mk_iff]; apply Keeps.parts)

theorem captLostAt_keeps {r0 : State} (t : Nat) (s : State) (hk : Keeps r0 s) :
    Keeps r0 (captLostAt t s) := by
  unfold captLostAt
  repeat' with_reducible first
    | assumption | extract_lets | apply State.at_keeps | apply captLost_keeps | apply Keeps.ite

theorem lossTmoExpire_keeps {r0 : State} (s : State) (hk : Keeps r0 s) :
    Keeps r0 (lossTmoExpire s) := by
  unfold lossTmoExpire
  repeat' with_reducible first
    | assumption | extract_lets | apply State.at_keeps | apply autoTransit_keeps | apply Keeps.ite | (intro _ _ _)
    | (intro _ _) | (simp only [Keeps.mk_iff]; apply Keeps.parts) | split

theorem linkComesUp_keeps {r0 : State} (l : Link) (pings : List Ping) (s : State) (hk : Keeps r0 s) :
    Keeps r0 (linkComesUp l pings s) := by
  unfold linkComesUp
  repeat' with_reducible first
    | assumption | extract_lets | apply State.modCv_keeps | apply State.set_keeps | apply clearConflict_keeps
    | apply offerId_keeps | apply transmit_keeps | apply Keeps.ite | (intro _ _ _) | (intro _ _)
    | (simp only [Keeps.mk_iff]; apply Keeps.parts) | split

theorem linkGoesDown_keeps {r0 : State} (l : Link) (s : State) (hk : Keeps r0 s) :
    Keeps r0 (linkGoesDown l s) := by
  unfold linkGoesDown
  repeat' with_reducible first
    | assumption | extract_lets | apply State.inc_keeps | apply State.modCv_keeps | apply State.raise_keeps
    | apply State.set_keeps | apply barrierFails_keeps | apply captLost_keeps | apply lastDevice_keeps
    | apply squadShrinks_keeps | apply Keeps.ite | (intro _ _ _) | (intro _ _)
    | (simp only [Keeps.mk_iff]; apply Keeps.parts) | split | dsimp +zetaDelta only

theorem dnDisabled_keeps {r0 : State} (s : State) (hk : Keeps r0 s) :
    Keeps r0 (dnDisabled s) := by
  unfold dnDisabled
  repeat' with_reducible first
    | assumption | extract_lets | apply lastDevice_keeps | apply linkGoesDown_keeps | apply Keeps.ite

theorem linksOff_keeps {r0 : State} (s : State) (hk : Keeps r0 s) :
    Keeps r0 (linksOff s) := by
  unfold linksOff
  repeat' with_reducible first
    | assumption | extract_lets | apply linkGoesDown_keeps | apply Keeps.ite | (intro _ _ _) | (intro _ _)
    | (simp only [Keeps.mk_iff]; apply Keeps.parts)

theorem trainFail_keeps {r0 : State} (l : Link) (s : State) (hk : Keeps r0 s) :
    Keeps r0 (trainFail l s) := by
  unfold trainFail
  repeat' with_reducible first
    | assumption | extract_lets | apply State.raise_keeps | apply State.set_keeps | apply Keeps.ite

theorem enumReceive_keeps {r0 : State} (id : BitVec 5) (s : State) (hk : Keeps r0 s) :
    Keeps r0 (enumReceive id s) := by
  unfold enumReceive
  repeat' with_reducible first
    | assumption | extract_lets | apply State.set_keeps | apply offerId_keeps | apply sendMsg_keeps
    | apply setConflict_keeps | apply Keeps.ite | (intro _ _ _) | (intro _ _)
    | (simp only [Keeps.mk_iff]; apply Keeps.parts) | split

theorem enumEndReceive_keeps {r0 : State} (count : BitVec 5) (ovf conf : Bool) (s : State) (hk : Keeps r0 s) :
    Keeps r0 (enumEndReceive count ovf conf s) := by
  unfold enumEndReceive
  repeat' with_reducible first
    | assumption | extract_lets | apply State.raise_keeps | apply State.set_keeps | apply clearConflict_keeps
    | apply sendMsg_keeps | apply setConflict_keeps | apply squadShrinks_keeps | apply Keeps.ite

theorem dnPartnerTimeout_keeps {r0 : State} (s : State) (hk : Keeps r0 s) :
    Keeps r0 (dnPartnerTimeout s) := by
  unfold dnPartnerTimeout
  repeat' with_reducible first
    | assumption | extract_lets | apply State.at_keeps | apply lastDevice_keeps | apply Keeps.ite

theorem timeSend_keeps {r0 : State} (s : State) (hk : Keeps r0 s) :
    Keeps r0 (timeSend s) := by
  unfold timeSend
  repeat' with_reducible first | assumption | extract_lets | apply sendPlain_keeps | apply Keeps.ite

theorem stepTime_keeps {r0 : State} (d : Nat) (s : State) (hk : Keeps r0 s) : Keeps r0 (stepTime d s) := by
  have h1 : Keeps r0 (s.each allAxes fun a s => s.modAx a (AxisSt.shift d)) :=
    Keeps.each (fun _ _ h => State.modAx_keeps _ _ _ h) _ hk
  exact Keeps.mk_iff.mpr ⟨h1.regs, hk.cells, h1.pending, hk.life, hk.audit⟩

theorem slewTime_keeps {r0 : State} (ppm : Int) (s : State) (hk : Keeps r0 s) :
    Keeps r0 (slewTime ppm s) := by
  unfold slewTime
  repeat' with_reducible first
    | assumption | extract_lets | apply State.setB_keeps | apply Keeps.ite | (intro _ _ _) | (intro _ _)
    | (simp only [Keeps.mk_iff]; apply Keeps.parts)

theorem timeAct_keeps {r0 : State} (diff : Int) (deg : Bool) (s : State) (hk : Keeps r0 s) :
    Keeps r0 (timeAct diff deg s).1 := by
  unfold timeAct
  repeat' with_reducible first
    | assumption | extract_lets | apply State.set_keeps | apply State.setB_keeps | apply slewTime_keeps
    | apply stepTime_keeps | apply Keeps.ite | apply Keeps.ite_fst | apply Keeps.ite_snd | (intro _ _ _)
    | (intro _ _) | (simp only [Keeps.mk_iff]; apply Keeps.parts)

theorem takeRate_keeps {r0 : State} (stack : Nat) (s : State) (hk : Keeps r0 s) :
    Keeps r0 (takeRate stack s) := by
  unfold takeRate
  repeat' with_reducible first
    | assumption | extract_lets | apply Keeps.ite | (intro _ _ _) | (intro _ _)
    | (simp only [Keeps.mk_iff]; apply Keeps.parts)

theorem timeReceive_keeps {r0 : State} (time : List Byte) (mark _hops : Byte) (t : Nat) (s : State) (hk : Keeps r0 s) :
    Keeps r0 (timeReceive time mark _hops t s) := by
  unfold timeReceive
  repeat' with_reducible first
    | assumption | extract_lets | apply State.at_keeps | apply State.set_keeps | apply State.setB_keeps
    | apply takeRate_keeps | apply timeAct_keeps | apply Keeps.ite | apply Keeps.ite_fst | apply Keeps.ite_snd
    | (intro _ _ _) | (intro _ _) | (simp only [Keeps.mk_iff]; apply Keeps.parts) | split | dsimp +zetaDelta only

theorem timeLock_keeps {r0 : State} (t : Nat) (s : State) (hk : Keeps r0 s) :
    Keeps r0 (timeLock t s) := by
  unfold timeLock
  repeat' with_reducible first
    | assumption | extract_lets | apply State.at_keeps | apply State.set_keeps | apply State.setB_keeps
    | apply slewTime_keeps | apply Keeps.ite | (intro _ _ _) | (intro _ _)
    | (simp only [Keeps.mk_iff]; apply Keeps.parts) | split

theorem pingExchange_keeps {r0 : State} (x : Ping) (s : State) (hk : Keeps r0 s) :
    Keeps r0 (pingExchange x s) := by
  unfold pingExchange
  repeat' with_reducible first
    | assumption | extract_lets | apply State.set_keeps | apply sendPlain_keeps | apply Keeps.ite | (intro _ _ _)
    | (intro _ _) | (simp only [Keeps.mk_iff]; apply Keeps.parts)

theorem broadcast_keeps {r0 : State} (op : Bcast) (s : State) (hk : Keeps r0 s) :
    Keeps r0 (broadcast op s) := by
  unfold broadcast
  repeat' with_reducible first | assumption | extract_lets | apply sendMsg_keeps

theorem barrierStart_keeps {r0 : State} (s : State) (hk : Keeps r0 s) :
    Keeps r0 (barrierStart s).1 := by
  unfold barrierStart
  repeat' with_reducible first
    | assumption | extract_lets | apply State.raise_keeps | apply State.set_keeps | apply sendMsg_keeps
    | apply Keeps.ite_fst | apply Keeps.ite | (intro _ _ _) | (intro _ _)
    | (simp only [Keeps.mk_iff]; apply Keeps.parts)

theorem barrierForward_keeps {r0 : State} (s : State) (hk : Keeps r0 s) :
    Keeps r0 (barrierForward s) := by
  unfold barrierForward
  repeat' with_reducible first | assumption | extract_lets | apply sendMsg_keeps | apply Keeps.ite

theorem barrierRelease_keeps {r0 : State} (s : State) (hk : Keeps r0 s) :
    Keeps r0 (barrierRelease s) := by
  unfold barrierRelease
  repeat' with_reducible first
    | assumption | extract_lets | apply barrierForward_keeps | apply Keeps.ite | (intro _ _ _) | (intro _ _)
    | (simp only [Keeps.mk_iff]; apply Keeps.parts) | split

theorem barrierReceive_keeps {r0 : State} (fromUp : Bool) (t : Nat) (s : State) (hk : Keeps r0 s) :
    Keeps r0 (barrierReceive fromUp t s) := by
  unfold barrierReceive
  repeat' with_reducible first
    | assumption | extract_lets | apply State.at_keeps | apply State.raise_keeps | apply State.set_keeps
    | apply barrierRelease_keeps | apply sendMsg_keeps | apply Keeps.ite | (intro _ _ _) | (intro _ _)
    | (simp only [Keeps.mk_iff]; apply Keeps.parts) | split

theorem gatherStart_keeps {r0 : State} (s : State) (hk : Keeps r0 s) :
    Keeps r0 (gatherStart s).1 := by
  unfold gatherStart
  repeat' with_reducible first
    | assumption | extract_lets | apply State.set_keeps | apply broadcast_keeps | apply gatherCheck_keeps
    | apply gatherLost_keeps | apply Keeps.ite_fst | apply Keeps.ite | (intro _ _ _) | (intro _ _)
    | (simp only [Keeps.mk_iff]; apply Keeps.parts) | split | dsimp +zetaDelta only

theorem dataReceive_keeps {r0 : State} (src : BitVec 4) (valid : Bool) (latch : Nat) (words : List Word) (s : State)
    (hk : Keeps r0 s) :
    Keeps r0 (dataReceive src valid latch words s) := by
  unfold dataReceive
  repeat' with_reducible first
    | assumption | extract_lets | apply gatherCheck_keeps | apply Keeps.ite | (intro _ _ _) | (intro _ _)
    | (simp only [Keeps.mk_iff]; apply Keeps.parts)

theorem gatherAnswer_keeps {r0 : State} (latch : Nat) (s : State) (hk : Keeps r0 s) :
    Keeps r0 (gatherAnswer latch s) := by
  unfold gatherAnswer
  repeat' with_reducible first | assumption | extract_lets | apply sendMsg_keeps | apply Keeps.ite

theorem sendNak_keeps {r0 : State} (l : Link) (s : State) (hk : Keeps r0 s) :
    Keeps r0 (sendNak l s) := by
  unfold sendNak
  repeat' with_reducible first | assumption | extract_lets | apply sendPlain_keeps

theorem countBad_keeps {r0 : State} (l : Link) (s : State) (hk : Keeps r0 s) :
    Keeps r0 (countBad l s) := by
  unfold countBad
  repeat' with_reducible first | assumption | extract_lets | apply State.inc_keeps

theorem nakReceive_keeps {r0 : State} (l : Link) (seq : BitVec 5) (s : State) (hk : Keeps r0 s) :
    Keeps r0 (nakReceive l seq s) := by
  unfold nakReceive
  repeat' with_reducible first
    | assumption | extract_lets | apply State.inc_keeps | apply State.modCv_keeps | apply linkGoesDown_keeps
    | apply pumpPort_keeps | apply transmit_keeps | apply Keeps.ite | (intro _ _ _) | (intro _ _)
    | (simp only [Keeps.mk_iff]; apply Keeps.parts) | split

theorem relayFlit_keeps {r0 : State} (l : Link) (typ : BitVec 4) (last : Bool) (bytes : List Byte) (s : State) (hk :
    Keeps r0 s) :
    Keeps r0 (relayFlit l typ last bytes s) := by
  unfold relayFlit
  repeat' with_reducible first | assumption | extract_lets | apply sendFlits_keeps

theorem relayFrame_keeps {r0 : State} (last : Bool) (bytes : List Byte) (s : State) (hk : Keeps r0 s) :
    Keeps r0 (relayFrame last bytes s) := by
  unfold relayFrame
  repeat' with_reducible first
    | assumption | extract_lets | apply State.modCv_keeps | apply relayFlit_keeps | apply Keeps.ite

theorem forwardFlit_keeps {r0 : State} (l : Link) (typ : BitVec 4) (last : Bool) (bytes : List Byte) (s : State) (hk :
    Keeps r0 s) :
    Keeps r0 (forwardFlit l typ last bytes s) := by
  unfold forwardFlit
  repeat' with_reducible first
    | assumption | extract_lets | apply relayFlit_keeps | apply relayFrame_keeps | apply Keeps.ite | (intro _ _ _)
    | (intro _ _) | (simp only [Keeps.mk_iff]; apply Keeps.parts) | split

theorem sendIdle_keeps {r0 : State} (l : Link) (s : State) (hk : Keeps r0 s) :
    Keeps r0 (sendIdle l s) := by
  unfold sendIdle
  repeat' with_reducible first | assumption | extract_lets | apply sendPlain_keeps | apply Keeps.ite

theorem mchArrive_keeps {r0 : State} (src : BitVec 4) (d : MchData) (t : Nat) (s : State) (hk : Keeps r0 s) :
    Keeps r0 (mchArrive src d t s) := by
  unfold mchArrive
  repeat' with_reducible first
    | assumption | extract_lets | apply State.at_keeps | apply State.each_keeps | apply mchReceive_keeps
    | apply Keeps.each | apply Keeps.ite | (intro _ _ _)

theorem flitReceive_keeps {r0 : State} (l : Link) (bytes : List Byte) (sample : Option MchData) (t : Nat) (s : State)
    (hk : Keeps r0 s) :
    Keeps r0 (flitReceive l bytes sample t s) := by
  unfold flitReceive
  repeat' with_reducible first
    | assumption | extract_lets | apply State.at_keeps | apply State.modCv_keeps | apply ackPort_keeps
    | apply countBad_keeps | apply forwardFlit_keeps | apply mchArrive_keeps | apply sendIdle_keeps
    | apply sendNak_keeps | apply sendPlain_keeps | apply Keeps.ite | (intro _ _ _) | (intro _ _)
    | (simp only [Keeps.mk_iff]; apply Keeps.parts) | split

theorem mchPublish_keeps {r0 : State} (c : Fin 4) (s : State) (hk : Keeps r0 s) :
    Keeps r0 (mchPublish c s) := by
  unfold mchPublish
  repeat' with_reducible first
    | assumption | extract_lets | apply State.at_keeps | apply sendMsg_keeps | apply Keeps.ite | (intro _ _ _)
    | (intro _ _) | split

end Sys2Proof.Machine
end

