-- ==== Sys2Proof/Laws/KeepsLockerUse.lean ====
section
/-!
SUPPORT. What the operations of the users of the Locker keep (Laws/Keeps.lean), one lemma for each.
-/

namespace Sys2Proof.Machine

theorem loadParts_keeps {r0 : State} (s : State) (hk : Keeps r0 s) :
    Keeps r0 (loadParts s) := by
  unfold loadParts
  repeat' with_reducible first | assumption | extract_lets | apply State.set_keeps

theorem startRewrites_keeps {r0 : State} (s : State) (hk : Keeps r0 s) :
    Keeps r0 (startRewrites s) := by
  unfold startRewrites
  repeat' with_reducible first
    | assumption | extract_lets | apply addJob_keeps | apply Keeps.foldl | apply Keeps.ite | (intro _ _ _)

theorem setImage_keeps {r0 : State} (img : List Word) (s : State) (hk : Keeps r0 s) :
    Keeps r0 (setImage img s) := by
  unfold setImage
  repeat' with_reducible first
    | assumption | extract_lets | apply State.setWord_keeps | apply Keeps.foldl | apply Keeps.ite | (intro _ _ _)

theorem writeImage_keeps {r0 : State} (s : State) (hk : Keeps r0 s) :
    Keeps r0 (writeImage s) := by
  unfold writeImage
  repeat' with_reducible first | assumption | extract_lets | apply addJob_keeps

theorem bkStore_keeps {r0 : State} (s : State) (hk : Keeps r0 s) :
    Keeps r0 (bkStore s) := by
  unfold bkStore
  repeat' with_reducible first
    | assumption | extract_lets | apply State.set_keeps | apply writeJob_keeps | apply Keeps.ite | (intro _ _ _)
    | (intro _ _) | (simp only [Keeps.mk_iff]; apply Keeps.parts) | split | dsimp +zetaDelta only

theorem storeFailed_keeps {r0 : State} (s : State) (hk : Keeps r0 s) :
    Keeps r0 (storeFailed s) := by
  unfold storeFailed
  repeat' with_reducible first
    | assumption | extract_lets | apply dropJobs_keeps | apply Keeps.ite | (intro _ _ _) | (intro _ _)
    | (simp only [Keeps.mk_iff]; apply Keeps.parts)

theorem storeLine_keeps {r0 : State} (last ok : Bool) (s : State) (hk : Keeps r0 s) :
    Keeps r0 (storeLine last ok s) := by
  unfold storeLine
  repeat' with_reducible first
    | assumption | extract_lets | apply storeFailed_keeps | apply writeImage_keeps | apply Keeps.ite | (intro _ _ _)
    | (intro _ _) | (simp only [Keeps.mk_iff]; apply Keeps.parts)

theorem imageLine_keeps {r0 : State} (ok : Bool) (s : State) (hk : Keeps r0 s) :
    Keeps r0 (imageLine ok s) := by
  unfold imageLine
  repeat' with_reducible first | assumption | extract_lets | apply storeFailed_keeps | apply Keeps.ite

theorem addRecord_keeps {r0 : State} (obj : Nat) (digest : List Word) (version : Nat) (s : State) (hk : Keeps r0 s) :
    Keeps r0 (addRecord obj digest version s) := by
  unfold addRecord
  repeat' with_reducible first
    | assumption | extract_lets | apply Keeps.ite | (intro _ _ _) | (intro _ _)
    | (simp only [Keeps.mk_iff]; apply Keeps.parts)

theorem addSpan_keeps {r0 : State} (obj base len : Nat) (s : State) (hk : Keeps r0 s) :
    Keeps r0 (addSpan obj base len s) := by
  unfold addSpan
  repeat' with_reducible first
    | assumption | extract_lets | apply Keeps.ite | apply Keeps.ite_fst | apply Keeps.ite_snd | (intro _ _ _)
    | (intro _ _) | (simp only [Keeps.mk_iff]; apply Keeps.parts)

theorem dropRecord_keeps {r0 : State} (obj : Nat) (s : State) (hk : Keeps r0 s) :
    Keeps r0 (dropRecord obj s) := by
  unfold dropRecord
  repeat' with_reducible first
    | assumption | extract_lets | apply Keeps.ite | (intro _ _ _) | (intro _ _)
    | (simp only [Keeps.mk_iff]; apply Keeps.parts)

theorem touchLine_keeps {r0 : State} (line : Nat) (s : State) (hk : Keeps r0 s) :
    Keeps r0 (touchLine line s) := by
  unfold touchLine
  repeat' with_reducible first
    | assumption | extract_lets | apply State.each_keeps | apply dropRecord_keeps | apply Keeps.each
    | apply Keeps.ite | apply Keeps.ite_fst | apply Keeps.ite_snd | (intro _ _ _)

theorem auditReject_keeps {r0 : State} (slot cause : Nat) (s : State) (hk : Keeps r0 s) :
    Keeps r0 (auditReject slot cause s) := by
  unfold auditReject
  repeat' with_reducible first | assumption | extract_lets | apply audit_keeps

theorem camReads_keeps {r0 : State} (s : State) (hk : Keeps r0 s) :
    Keeps r0 (camReads s) := by
  unfold camReads
  repeat' with_reducible first
    | assumption | extract_lets | apply readJob_keeps | apply Keeps.ite | (intro _ _ _) | (intro _ _)
    | (simp only [Keeps.mk_iff]; apply Keeps.parts) | split

theorem dropVals_keeps {r0 : State} (p : CamVal → Bool) (s : State) (hk : Keeps r0 s) :
    Keeps r0 (dropVals p s) := by
  unfold dropVals
  repeat' with_reducible first
    | assumption | extract_lets | apply camReads_keeps | apply dropJobs_keeps | apply Keeps.ite | (intro _ _ _)
    | (intro _ _) | (simp only [Keeps.mk_iff]; apply Keeps.parts)

theorem armReject_keeps {r0 : State} (cause : Nat) (s : State) (hk : Keeps r0 s) :
    Keeps r0 (armReject cause s) := by
  unfold armReject
  repeat' with_reducible first
    | assumption | extract_lets | apply State.raise_keeps | apply State.set_keeps | apply auditReject_keeps
    | apply dropJobs_keeps | apply dropVals_keeps | apply retire_keeps | apply Keeps.ite | (intro _ _ _)
    | (intro _ _) | (simp only [Keeps.mk_iff]; apply Keeps.parts) | split

theorem camRefused_keeps {r0 : State} (v : CamVal) (s : State) (hk : Keeps r0 s) :
    Keeps r0 (camRefused v s) := by
  unfold camRefused
  repeat' with_reducible first
    | assumption | extract_lets | apply armReject_keeps | apply retire_keeps | apply retireEngage_keeps
    | apply Keeps.ite | (intro _ _ _) | (intro _ _) | (simp only [Keeps.mk_iff]; apply Keeps.parts) | split

theorem camDeliver_keeps {r0 : State} (v : CamVal) (tab : CamTab) (s : State) (hk : Keeps r0 s) :
    Keeps r0 (camDeliver v tab s) := by
  unfold camDeliver
  repeat' with_reducible first
    | assumption | extract_lets | apply engageCam_keeps | apply holdNext_keeps | apply retire_keeps
    | apply retireEngage_keeps | apply Keeps.ite | (intro _ _ _) | (intro _ _)
    | (simp only [Keeps.mk_iff]; apply Keeps.parts) | split

theorem camNextVal_keeps {r0 : State} (s : State) (hk : Keeps r0 s) :
    Keeps r0 (camNextVal s) := by
  unfold camNextVal
  repeat' with_reducible first
    | assumption | extract_lets | apply dropJobs_keeps | apply dropVals_keeps | apply Keeps.ite | (intro _ _ _)
    | (intro _ _) | (simp only [Keeps.mk_iff]; apply Keeps.parts)

theorem camFail_keeps {r0 : State} (v : CamVal) (s : State) (hk : Keeps r0 s) :
    Keeps r0 (camFail v s) := by
  unfold camFail
  repeat' with_reducible first | assumption | extract_lets | apply camNextVal_keeps | apply camRefused_keeps

theorem camValidate_keeps {r0 : State} (id : BitVec 8) (why : CamFor) (s : State) (hk : Keeps r0 s) :
    Keeps r0 (camValidate id why s) := by
  unfold camValidate
  repeat' with_reducible first
    | assumption | extract_lets | apply camReads_keeps | apply Keeps.ite | (intro _ _ _) | (intro _ _)
    | (simp only [Keeps.mk_iff]; apply Keeps.parts)

theorem putVal_keeps {r0 : State} (v : CamVal) (s : State) (hk : Keeps r0 s) :
    Keeps r0 (putVal v s) := by
  unfold putVal
  repeat' with_reducible first
    | assumption | extract_lets | apply Keeps.ite | (intro _ _ _) | (intro _ _)
    | (simp only [Keeps.mk_iff]; apply Keeps.parts)

theorem camDir_keeps {r0 : State} (v : CamVal) (d : List Byte) (s : State) (hk : Keeps r0 s) :
    Keeps r0 (camDir v d s) := by
  unfold camDir
  repeat' with_reducible first
    | assumption | extract_lets | apply camEntryOf_keeps | apply camFail_keeps | apply camReads_keeps
    | apply putVal_keeps | apply Keeps.ite | (intro _ _ _) | (intro _ _)
    | (simp only [Keeps.mk_iff]; apply Keeps.parts) | split

theorem camHead_keeps {r0 : State} (v : CamVal) (s : State) (hk : Keeps r0 s) :
    Keeps r0 (camHead v s) := by
  unfold camHead
  repeat' with_reducible first
    | assumption | extract_lets | apply camDeliver_keeps | apply camFail_keeps | apply camNextVal_keeps
    | apply Keeps.ite | (intro _ _ _) | (intro _ _) | (simp only [Keeps.mk_iff]; apply Keeps.parts) | split

theorem camLine_keeps {r0 : State} (line : Nat) (d : Option (List Byte)) (s : State) (hk : Keeps r0 s) :
    Keeps r0 (camLine line d s) := by
  unfold camLine
  repeat' with_reducible first
    | assumption | extract_lets | apply camDir_keeps | apply camFail_keeps | apply camHead_keeps | apply putVal_keeps
    | apply Keeps.ite | (intro _ _ _) | (intro _ _) | (simp only [Keeps.mk_iff]; apply Keeps.parts) | split

theorem camSigned_keeps {r0 : State} (v : CamVal) (s : State) (hk : Keeps r0 s) :
    Keeps r0 (camSigned v s) := by
  unfold camSigned
  repeat' with_reducible first
    | assumption | extract_lets | apply addRecord_keeps | apply addSpan_keeps | apply auditReject_keeps
    | apply camDeliver_keeps | apply camFail_keeps | apply camNextVal_keeps | apply Keeps.ite | (intro _ _ _)
    | (intro _ _) | (simp only [Keeps.mk_iff]; apply Keeps.parts) | split

theorem prefetchAsk_keeps {r0 : State} (a : Axis) (s : State) (hk : Keeps r0 s) :
    Keeps r0 (prefetchAsk a s) := by
  unfold prefetchAsk
  repeat' with_reducible first
    | assumption | extract_lets | apply State.modFol_keeps | apply readJob_keeps | apply Keeps.ite
    | apply Keeps.ite_fst | apply Keeps.ite_snd | (intro _ _ _) | (intro _ _)
    | (simp only [Keeps.mk_iff]; apply Keeps.parts) | split

theorem prefetchNext_keeps {r0 : State} (a : Axis) (s : State) (hk : Keeps r0 s) :
    Keeps r0 (prefetchNext a s) := by
  unfold prefetchNext
  repeat' with_reducible first
    | assumption | extract_lets | apply prefetchAsk_keeps | apply Keeps.foldl | apply Keeps.ite | (intro _ _ _)

theorem prefetchLine_keeps {r0 : State} (a : Axis) (nxt : Bool) (line : Nat) (d : Option (List Byte)) (s : State) (hk
    : Keeps r0 s) :
    Keeps r0 (prefetchLine a nxt line d s) := by
  unfold prefetchLine
  repeat' with_reducible first
    | assumption | extract_lets | apply State.modFol_keeps | apply followLoss_keeps | apply prefetchNext_keeps
    | apply Keeps.ite | apply Keeps.ite_fst | apply Keeps.ite_snd | (intro _ _ _) | (intro _ _)
    | (simp only [Keeps.mk_iff]; apply Keeps.parts) | split | dsimp +zetaDelta only

theorem traceStart_keeps {r0 : State} (s : State) (hk : Keeps r0 s) :
    Keeps r0 (traceStart s) := by
  unfold traceStart
  repeat' with_reducible first
    | assumption | extract_lets | apply writeJob_keeps | apply Keeps.ite | (intro _ _ _) | (intro _ _)
    | (simp only [Keeps.mk_iff]; apply Keeps.parts) | split

theorem traceRecord_keeps {r0 : State} (ws : List Word) (s : State) (hk : Keeps r0 s) :
    Keeps r0 (traceRecord ws s) := by
  unfold traceRecord
  repeat' with_reducible first
    | assumption | extract_lets | apply State.inc_keeps | apply traceStart_keeps | apply Keeps.ite | (intro _ _ _)
    | (intro _ _) | (simp only [Keeps.mk_iff]; apply Keeps.parts)

theorem traceLine_keeps {r0 : State} (last : Bool) (s : State) (hk : Keeps r0 s) :
    Keeps r0 (traceLine last s) := by
  unfold traceLine
  repeat' with_reducible first
    | assumption | extract_lets | apply State.count_keeps | apply State.raise_keeps | apply State.set_keeps
    | apply traceStart_keeps | apply Keeps.ite | (intro _ _ _) | (intro _ _)
    | (simp only [Keeps.mk_iff]; apply Keeps.parts) | split | dsimp +zetaDelta only

theorem traceRestart_keeps {r0 : State} (s : State) (hk : Keeps r0 s) :
    Keeps r0 (traceRestart s) := by
  unfold traceRestart
  repeat' with_reducible first
    | assumption | extract_lets | apply State.set_keeps | apply dropJobs_keeps | apply traceStart_keeps
    | apply Keeps.ite | (intro _ _ _) | (intro _ _) | (simp only [Keeps.mk_iff]; apply Keeps.parts)

theorem traceAppend_keeps {r0 : State} (s : State) (hk : Keeps r0 s) :
    Keeps r0 (traceAppend s) := by
  unfold traceAppend
  repeat' with_reducible first | assumption | extract_lets | apply traceStart_keeps | apply Keeps.ite

theorem scrubTick_keeps {r0 : State} (s : State) (hk : Keeps r0 s) :
    Keeps r0 (scrubTick s) := by
  unfold scrubTick
  repeat' with_reducible first
    | assumption | extract_lets | apply State.at_keeps | apply readJob_keeps | apply Keeps.ite | (intro _ _ _)
    | (intro _ _) | (simp only [Keeps.mk_iff]; apply Keeps.parts)

theorem scrubLine_keeps {r0 : State} (line : Nat) (r : LineRes) (s : State) (hk : Keeps r0 s) :
    Keeps r0 (scrubLine line r s) := by
  unfold scrubLine
  repeat' with_reducible first
    | assumption | extract_lets | apply State.set_keeps | apply writeJob_keeps | apply Keeps.ite | (intro _ _ _)
    | (intro _ _) | split

theorem partitionApply_keeps {r0 : State} (s : State) (hk : Keeps r0 s) :
    Keeps r0 (partitionApply s) := by
  unfold partitionApply
  repeat' with_reducible first
    | assumption | extract_lets | apply State.raise_keeps | apply dropJobs_keeps | apply setImage_keeps
    | apply startRewrites_keeps | apply traceRestart_keeps | apply writeImage_keeps | apply Keeps.ite
    | apply Keeps.ite_fst | apply Keeps.ite_snd | (intro _ _ _) | (intro _ _)
    | (simp only [Keeps.mk_iff]; apply Keeps.parts) | split | dsimp +zetaDelta only

theorem auditPut_keeps {r0 : State} (s : State) (hk : Keeps r0 s) :
    Keeps r0 (auditPut s) := by
  unfold auditPut
  repeat' with_reducible first
    | assumption | extract_lets | apply Keeps.ite | (intro _ _ _) | (intro _ _)
    | (simp only [Keeps.mk_iff]; apply Keeps.parts) | split

theorem auditStart_keeps {r0 : State} (s : State) (hk : Keeps r0 s) :
    Keeps r0 (auditStart s) := by
  unfold auditStart
  repeat' with_reducible first | assumption | extract_lets | apply addJob_keeps | apply audit_keeps | apply Keeps.ite

theorem auditFlush_keeps {r0 : State} (s : State) (hk : Keeps r0 s) :
    Keeps r0 (auditFlush s) := by
  unfold auditFlush
  repeat' with_reducible first
    | assumption | extract_lets | apply auditPut_keeps | apply Keeps.each | apply Keeps.ite | (intro _ _ _)

end Sys2Proof.Machine
end

