-- ==== Sys2Proof/Laws/KeepsPower.lean ====
section
/-!
SUPPORT. What the operations of the power controller and resets keep (Laws/Keeps.lean), one lemma for each.
-/

namespace Sys2Proof.Machine

theorem rfSorted_filter (p : Nat × Word → Bool) (l : List (Nat × Word)) (lo : Nat) (h : rfSorted lo l = true) :
    rfSorted lo (l.filter p) = true := by
  induction l generalizing lo with
  | nil => exact h
  | cons e l ih =>
    obtain ⟨b, w⟩ := e
    simp only [rfSorted, Bool.and_eq_true, decide_eq_true_eq] at h
    rw [List.filter_cons]
    split
    · simp only [rfSorted, Bool.and_eq_true, decide_eq_true_eq]
      exact ⟨h.1, ih _ h.2⟩
    · exact rfSorted_mono _ (b + 1) lo (by omega) (ih _ h.2)

/-- Taking entries out keeps the canonical form. -/
theorem rfWf_filter (p : Nat × Word → Bool) (l : List (Nat × Word)) (h : rfWf l = true) : rfWf (l.filter p) = true :=
    by
  simp only [rfWf, Bool.and_eq_true, List.all_eq_true] at h ⊢
  exact ⟨rfSorted_filter _ _ _ h.1, fun e he => h.2 e (List.mem_filter.mp he).1⟩

theorem rfSorted_levelRegs (lvl : Nat) (l : List (Nat × Word)) (lo : Nat) (h : rfSorted lo l = true) :
    rfSorted lo (levelRegs lvl l) = true := by
  induction l generalizing lo with
  | nil => exact h
  | cons e l ih =>
    obtain ⟨b, w⟩ := e
    simp only [rfSorted, Bool.and_eq_true, decide_eq_true_eq] at h
    have ht := ih _ h.2
    unfold levelRegs at ht ⊢
    rw [List.filterMap_cons]
    by_cases hw : levelWord lvl b w = resetWord b
    · simp only [hw, if_true]
      exact rfSorted_mono _ (b + 1) lo (by omega) ht
    · simp only [hw, if_false, rfSorted, Bool.and_eq_true, decide_eq_true_eq]
      exact ⟨h.1, ht⟩

/-- A reset at a level keeps the canonical form. -/
theorem rfWf_levelRegs (lvl : Nat) (l : List (Nat × Word)) (h : rfWf l = true) : rfWf (levelRegs lvl l) = true := by
  simp only [rfWf, Bool.and_eq_true, List.all_eq_true] at h ⊢
  refine ⟨rfSorted_levelRegs _ _ _ h.1, fun e he => ?_⟩
  obtain ⟨x, -, hx⟩ := List.mem_filterMap.mp he
  dsimp only at hx
  split at hx
  · cases hx
  · rename_i hn
    cases hx
    simpa using hn

theorem dropRegs_keeps {r0 : State} (p : Nat → Bool) (s : State) (hk : Keeps r0 s) : Keeps r0 (dropRegs p s) :=
  ⟨fun k => rfWf_filter _ _ (hk.regs k), hk.cells, hk.pending, hk.life, hk.audit⟩

theorem cancelQuad_keeps {r0 : State} (q : Quad) (s : State) (hk : Keeps r0 s) :
    Keeps r0 (cancelQuad q s) := by
  unfold cancelQuad
  repeat' with_reducible first
    | assumption | extract_lets | apply retireAll_keeps | apply Keeps.ite | (intro _ _ _) | (intro _ _)
    | (simp only [Keeps.mk_iff]; apply Keeps.parts)

theorem wtHome_keeps {r0 : State} (a : Axis) (s : State) (hk : Keeps r0 s) :
    Keeps r0 (wtHome a s) := by
  unfold wtHome
  repeat' with_reducible first
    | assumption | extract_lets | apply State.set_keeps | apply wtLeave_keeps | apply wtMove_keeps
    | apply Keeps.foldl | apply Keeps.ite | (intro _ _ _)

theorem quadLost_keeps {r0 : State} (q : Quad) (s : State) (hk : Keeps r0 s) :
    Keeps r0 (quadLost q s) := by
  unfold quadLost
  repeat' with_reducible first
    | assumption | extract_lets | apply State.each_keeps | apply State.modAx_keeps | apply State.set_keeps
    | apply State.setB_keeps | apply brakeWant_keeps | apply cancelQuad_keeps | apply dropJobs_keeps
    | apply dropRegs_keeps | apply mchStale_keeps | apply mchZero_keeps | apply wtHome_keeps | apply Keeps.each
    | apply Keeps.foldl | apply Keeps.ite | (intro _ _ _) | (intro _ _)
    | (simp only [Keeps.mk_iff]; apply Keeps.parts)

theorem pumpsOff_keeps {r0 : State} (s : State) (hk : Keeps r0 s) :
    Keeps r0 (pumpsOff s) := by
  unfold pumpsOff
  repeat' with_reducible first
    | assumption | extract_lets | apply State.each_keeps | apply State.set_keeps | apply Keeps.each | apply Keeps.ite
    | (intro _ _ _) | (intro _ _) | (simp only [Keeps.mk_iff]; apply Keeps.parts)

theorem quadDown_keeps {r0 : State} (q : Quad) (s : State) (hk : Keeps r0 s) :
    Keeps r0 (quadDown q s) := by
  unfold quadDown
  repeat' with_reducible first
    | assumption | extract_lets | apply quadLost_keeps | apply Keeps.ite | (intro _ _ _) | (intro _ _)
    | (simp only [Keeps.mk_iff]; apply Keeps.parts)

theorem tripResume_keeps {r0 : State} (a : Axis) (s : State) (hk : Keeps r0 s) :
    Keeps r0 (tripResume a s) := by
  unfold tripResume
  repeat' with_reducible first
    | assumption | extract_lets | apply State.modPwm_keeps | apply State.set_keeps | apply axisFault_keeps
    | apply Keeps.foldl | apply Keeps.ite | (intro _ _ _)

theorem quadStart_keeps {r0 : State} (q : Quad) (s : State) (hk : Keeps r0 s) :
    Keeps r0 (quadStart q s) := by
  unfold quadStart
  repeat' with_reducible first
    | assumption | extract_lets | apply State.modMot_keeps | apply firstDiag_keeps | apply loadOcDac_keeps
    | apply refreshAxis_keeps | apply startTimer_keeps | apply tripResume_keeps | apply vmStart_keeps
    | apply Keeps.each | apply Keeps.ite | (intro _ _ _)

theorem lockerReset_keeps {r0 : State} (s : State) (hk : Keeps r0 s) :
    Keeps r0 (lockerReset s) := by
  unfold lockerReset
  repeat' with_reducible first
    | assumption | extract_lets | apply State.raise_keeps | apply State.set_keeps | apply dropJobs_keeps
    | apply dropVals_keeps | apply loadParts_keeps | apply retire_keeps | apply Keeps.foldl | apply Keeps.ite
    | (intro _ _ _) | (intro _ _) | (simp only [Keeps.mk_iff]; apply Keeps.parts) | split | dsimp +zetaDelta only

theorem lockerDown_keeps {r0 : State} (s : State) (hk : Keeps r0 s) :
    Keeps r0 (lockerDown s) := by
  unfold lockerDown
  repeat' with_reducible first
    | assumption | extract_lets | apply dropJobs_keeps | apply dropRegs_keeps | apply lockerReset_keeps
    | apply Keeps.ite | (intro _ _ _) | (intro _ _) | (simp only [Keeps.mk_iff]; apply Keeps.parts)

theorem interpreterLost_keeps {r0 : State} (s : State) (hk : Keeps r0 s) :
    Keeps r0 (interpreterLost s) := by
  unfold interpreterLost
  repeat' with_reducible first
    | assumption | extract_lets | apply State.each_keeps | apply State.modFol_keeps | apply State.modMot_keeps
    | apply State.raise_keeps | apply State.set_keeps | apply barrierRelease_keeps | apply dropJobs_keeps
    | apply Keeps.each | apply Keeps.ite | (intro _ _ _) | (intro _ _)
    | (simp only [Keeps.mk_iff]; apply Keeps.parts) | split | dsimp +zetaDelta only

/-- A reset of the register file at a level. -/
theorem levelRegs_keeps {r0 : State} (lvl : Nat) (s : State) (hk : Keeps r0 s) :
    Keeps r0 { s with regs := levelRegs lvl s.regs } := by
  simp only [Keeps.mk_iff]
  exact ⟨fun k => rfWf_levelRegs lvl s.regs (hk.regs k), hk.cells, hk.pending, hk.life, hk.audit⟩

theorem deepReset_keeps {r0 : State} (lvl : Nat) (s : State) (hk : Keeps r0 s) : Keeps r0 (deepReset lvl s) := by
  unfold deepReset
  simp only [Keeps.mk_iff]
  exact ⟨fun k => rfWf_levelRegs lvl s.regs (hk.regs k), hk.cells, hk.pending, hk.life, hk.audit⟩

theorem resetTrigger_keeps {r0 : State} (cause lvl detail : Nat) (s : State) (hk : Keeps r0 s) :
    Keeps r0 (resetTrigger cause lvl detail s) := by
  unfold resetTrigger
  extract_lets deep s1 x s2 s3 s4
  have h1 : Keeps r0 s1 := Keeps.ite (broadcast_keeps _ _ hk) hk
  clear_value s1
  have h2 : Keeps r0 s2 := by
    simp only [s2]
    split
    · exact deepReset_keeps _ _ h1
    · exact levelRegs_keeps 3 x (interpreterLost_keeps _ h1)
  clear_value s2
  have h3 : Keeps r0 s3 := State.set_keeps _ _ _ (State.set_keeps _ _ _ (State.set_keeps _ _ _ h2))
  have h4 : Keeps r0 s4 := Keeps.ite h3 (State.inc_keeps _ _ h3)
  exact Keeps.mk_iff.mpr h4.parts

theorem nrstPulse_keeps {r0 : State} (width : Nat) (s : State) (hk : Keeps r0 s) :
    Keeps r0 (nrstPulse width s) := by
  unfold nrstPulse
  repeat' with_reducible first
    | assumption | extract_lets | apply State.free_keeps | apply resetTrigger_keeps | apply Keeps.ite

theorem watchdogExpire_keeps {r0 : State} (s : State) (hk : Keeps r0 s) :
    Keeps r0 (watchdogExpire s) := by
  unfold watchdogExpire
  repeat' with_reducible first | assumption | extract_lets | apply resetTrigger_keeps | apply Keeps.ite

theorem tamperEvent_keeps {r0 : State} (detail : Fin 4) (s : State) (hk : Keeps r0 s) :
    Keeps r0 (tamperEvent detail s) := by
  unfold tamperEvent
  repeat' with_reducible first | assumption | extract_lets | apply resetTrigger_keeps | apply Keeps.ite

theorem awaitRestart_keeps {r0 : State} (s : State) (hk : Keeps r0 s) :
    Keeps r0 (awaitRestart s) := by
  unfold awaitRestart
  repeat' with_reducible first
    | assumption | extract_lets | apply Keeps.ite | (intro _ _ _) | (intro _ _)
    | (simp only [Keeps.mk_iff]; apply Keeps.parts)

theorem stretchOver_keeps {r0 : State} (s : State) (hk : Keeps r0 s) :
    Keeps r0 (stretchOver s) := by
  unfold stretchOver
  repeat' with_reducible first
    | assumption | extract_lets | apply awaitRestart_keeps | apply Keeps.ite | (intro _ _ _) | (intro _ _)
    | (simp only [Keeps.mk_iff]; apply Keeps.parts)

theorem resetStretchEnd_keeps {r0 : State} (pinHigh : Bool) (s : State) (hk : Keeps r0 s) :
    Keeps r0 (resetStretchEnd pinHigh s) := by
  unfold resetStretchEnd
  repeat' with_reducible first
    | assumption | extract_lets | apply stretchOver_keeps | apply Keeps.ite | (intro _ _ _) | (intro _ _)
    | (simp only [Keeps.mk_iff]; apply Keeps.parts)

theorem nrstRelease_keeps {r0 : State} (s : State) (hk : Keeps r0 s) :
    Keeps r0 (nrstRelease s) := by
  unfold nrstRelease
  repeat' with_reducible first | assumption | extract_lets | apply stretchOver_keeps | apply Keeps.ite

theorem interpreterRestart_keeps {r0 : State} (s : State) (hk : Keeps r0 s) :
    Keeps r0 (interpreterRestart s) := by
  unfold interpreterRestart
  repeat' with_reducible first
    | assumption | extract_lets | apply State.each_keeps | apply State.inc_keeps | apply State.modMot_keeps
    | apply State.set_keeps | apply Keeps.each | apply Keeps.ite | (intro _ _ _) | (intro _ _)
    | (simp only [Keeps.mk_iff]; apply Keeps.parts) | split | dsimp +zetaDelta only

theorem domainUp_keeps {r0 : State} (n t : Nat) (s : State) (hk : Keeps r0 s) :
    Keeps r0 (domainUp n t s) := by
  unfold domainUp
  repeat' with_reducible first
    | assumption | extract_lets | apply State.at_keeps | apply loadParts_keeps | apply quadStart_keeps
    | apply startRewrites_keeps | apply Keeps.ite | (intro _ _ _) | (intro _ _)
    | (simp only [Keeps.mk_iff]; apply Keeps.parts) | split | dsimp +zetaDelta only

theorem driversDown_keeps {r0 : State} (s : State) (hk : Keeps r0 s) :
    Keeps r0 (driversDown s) := by
  unfold driversDown
  repeat' with_reducible first
    | assumption | extract_lets | apply pumpsOff_keeps | apply quadDown_keeps | apply Keeps.foldl

theorem domainLoss_keeps {r0 : State} (n t : Nat) (s : State) (hk : Keeps r0 s) : Keeps r0 (domainLoss n t s) := by
  unfold domainLoss
  split
  · exact hk
  · extract_lets lost s1
    have h1 : Keeps r0 s1 := State.set_keeps _ _ _ (State.at_keeps _ _ hk)
    clear_value s1
    split
    · exact resetTrigger_keeps _ _ _ _ h1
    · exact resetTrigger_keeps _ _ _ _ h1
    · have h := interpreterLost_keeps _ h1
      simp only [Keeps.mk_iff]
      exact ⟨fun k => rfWf_levelRegs 3 _ (h.regs k), h.cells, h.pending, h.life, h.audit⟩
    · exact quadDown_keeps _ _ h1
    · exact quadDown_keeps _ _ h1
    · exact quadDown_keeps _ _ h1
    · exact quadDown_keeps _ _ h1
    · exact lockerDown_keeps _ h1
    · exact linksOff_keeps _ h1
    · exact driversDown_keeps _ h1

theorem pdCtrlWrite_keeps {r0 : State} (quads : Nat) (lnk : Bool) (s : State) (hk : Keeps r0 s) :
    Keeps r0 (pdCtrlWrite quads lnk s) := by
  unfold pdCtrlWrite
  repeat' with_reducible first
    | assumption | extract_lets | apply State.set_keeps | apply State.setB_keeps | apply linksOff_keeps
    | apply pumpsOff_keeps | apply quadDown_keeps | apply Keeps.foldl | apply Keeps.ite | (intro _ _ _)

theorem supplyGood_keeps {r0 : State} (i : Fin 6) (s : State) (hk : Keeps r0 s) :
    Keeps r0 (supplyGood i s) := by
  unfold supplyGood
  repeat' with_reducible first
    | assumption | extract_lets | apply vgsGood_keeps | apply Keeps.ite | (intro _ _ _) | (intro _ _)
    | (simp only [Keeps.mk_iff]; apply Keeps.parts) | split | dsimp +zetaDelta only

theorem supplyLost_keeps {r0 : State} (i : Fin 6) (s : State) (hk : Keeps r0 s) :
    Keeps r0 (supplyLost i s) := by
  unfold supplyLost
  repeat' with_reducible first
    | assumption | extract_lets | apply domainLoss_keeps | apply vgsUv_keeps | apply Keeps.ite | (intro _ _ _)
    | (intro _ _) | (simp only [Keeps.mk_iff]; apply Keeps.parts) | split | dsimp +zetaDelta only

theorem wakeUp_keeps {r0 : State} (whsl : Bool) (s : State) (hk : Keeps r0 s) :
    Keeps r0 (wakeUp whsl s) := by
  unfold wakeUp
  repeat' with_reducible first
    | assumption | extract_lets | apply State.set_keeps | apply resetTrigger_keeps | apply Keeps.ite

theorem sleepEntry_keeps {r0 : State} (edge : Option Bool) (s : State) (hk : Keeps r0 s) : Keeps r0 (sleepEntry edge
    s) := by
  unfold sleepEntry
  split
  · exact hk
  · rename_i t _
    have h1 := auditFlush_keeps _ (State.at_keeps s t hk)
    have hr := deepReset_keeps 2 _ h1
    extract_lets s1 r x s2 s3
    have h2 : Keeps r0 s2 := by
      simp only [s2, Keeps.mk_iff]
      exact ⟨fun k => rfWf_filter _ _ (h1.regs k), hr.cells, hr.pending, hr.life, hr.audit⟩
    have h3 : Keeps r0 s3 := State.set_keeps _ _ _ h2
    split
    · exact wakeUp_keeps _ _ h3
    · exact h3

theorem readImage_keeps {r0 : State} (line : Nat) (s : State) (hk : Keeps r0 s) :
    Keeps r0 (readImage line s).2 := by
  unfold readImage
  repeat' with_reducible first | assumption | extract_lets | apply peekLines_keeps

theorem loadImage_keeps {r0 : State} (w : List Word) (s : State) (hk : Keeps r0 s) :
    Keeps r0 (loadImage w s) := by
  unfold loadImage
  repeat' with_reducible first
    | assumption | extract_lets | apply State.setWord_keeps | apply State.set_keeps | apply loadParts_keeps
    | apply Keeps.foldl | apply Keeps.ite | (intro _ _ _)

theorem loadBackstop_keeps {r0 : State} (ws : List Word) (s : State) (hk : Keeps r0 s) :
    Keeps r0 (loadBackstop ws s) := by
  unfold loadBackstop
  repeat' with_reducible first
    | assumption | extract_lets | apply State.setWord_keeps | apply Keeps.foldl | apply Keeps.ite | (intro _ _ _)

theorem optionLoad_keeps {r0 : State} (tableOk : Bool) (s : State) (hk : Keeps r0 s) :
    Keeps r0 (optionLoad tableOk s) := by
  unfold optionLoad
  repeat' with_reducible first
    | assumption | extract_lets | apply State.setB_keeps | apply State.set_keeps | apply loadBackstop_keeps
    | apply loadImage_keeps | apply loadOcDac_keeps | apply readImage_keeps | apply takeRole_keeps | apply Keeps.each
    | apply Keeps.ite | (intro _ _ _) | (intro _ _) | (simp only [Keeps.mk_iff]; apply Keeps.parts) | split
    | dsimp +zetaDelta only

theorem selfCheckDone_keeps {r0 : State} (rom ram kat trng : Bool) (s : State) (hk : Keeps r0 s) :
    Keeps r0 (selfCheckDone rom ram kat trng s) := by
  unfold selfCheckDone
  repeat' with_reducible first
    | assumption | extract_lets | apply State.setB_keeps | apply startRewrites_keeps | apply Keeps.ite
    | (intro _ _ _) | (intro _ _) | (simp only [Keeps.mk_iff]; apply Keeps.parts)

theorem patchVerify_keeps {r0 : State} (slot : Fin 4) (sigOk : Bool) (s : State) (hk : Keeps r0 s) :
    Keeps r0 (patchVerify slot sigOk s) := by
  unfold patchVerify
  repeat' with_reducible first
    | assumption | extract_lets | apply State.set_keeps | apply audit_keeps | apply Keeps.ite | (intro _ _ _)
    | (intro _ _) | (simp only [Keeps.mk_iff]; apply Keeps.parts) | split | dsimp +zetaDelta only

theorem State.frees_keeps {r0 : State} (s : State) (n : Nat) (hk : Keeps r0 s) : Keeps r0 (State.frees s n).2 := by
  induction n generalizing s with
  | zero => exact hk
  | succ n ih => exact ih _ (State.free_keeps _ hk)

theorem freshScalar_keeps {r0 : State} (s : State) (hk : Keeps r0 s) :
    Keeps r0 (freshScalar s).2 := by
  unfold freshScalar
  repeat' with_reducible first | assumption | extract_lets | apply State.frees_keeps

theorem makeIdentity_keeps {r0 : State} (s : State) (hk : Keeps r0 s) :
    Keeps r0 (makeIdentity s) := by
  unfold makeIdentity
  repeat' with_reducible first
    | assumption | extract_lets | apply freshScalar_keeps | apply Keeps.ite | (intro _ _ _) | (intro _ _)
    | (simp only [Keeps.mk_iff]; apply Keeps.parts)

theorem bootAudits_keeps {r0 : State} (s : State) (hk : Keeps r0 s) :
    Keeps r0 (bootAudits s) := by
  unfold bootAudits
  repeat' with_reducible first | assumption | extract_lets | apply audit_keeps | apply Keeps.ite

theorem bootEnd_keeps {r0 : State} (t elapsed : Nat) (s : State) (hk : Keeps r0 s) :
    Keeps r0 (bootEnd t elapsed s) := by
  unfold bootEnd
  repeat' with_reducible first
    | assumption | extract_lets | apply State.at_keeps | apply State.raise_keeps | apply State.set_keeps
    | apply bootAudits_keeps | apply bootSource_keeps | apply firstDiag_keeps | apply makeIdentity_keeps
    | apply refreshAll_keeps | apply startTimers_keeps | apply Keeps.each | apply Keeps.ite | (intro _ _ _)
    | (intro _ _) | (simp only [Keeps.mk_iff]; apply Keeps.parts) | split | dsimp +zetaDelta only

theorem beginReset_keeps {r0 : State} (p : PendReset) (s : State) (hk : Keeps r0 s) :
    Keeps r0 (beginReset p s) := by
  unfold beginReset
  repeat' with_reducible first
    | assumption | extract_lets | apply State.set_keeps | apply linkGoesDown_keeps | apply lockerReset_keeps
    | apply quadLost_keeps | apply resetTrigger_keeps | apply Keeps.ite | (intro _ _ _) | (intro _ _)
    | (simp only [Keeps.mk_iff]; apply Keeps.parts) | split | dsimp +zetaDelta only

theorem resetBegin_keeps {r0 : State} (s : State) (hk : Keeps r0 s) :
    Keeps r0 (resetBegin s) := by
  unfold resetBegin
  repeat' with_reducible first
    | assumption | extract_lets | apply State.at_keeps | apply beginReset_keeps | apply Keeps.ite | (intro _ _ _)
    | (intro _ _) | (simp only [Keeps.mk_iff]; apply Keeps.parts) | split

theorem blockResetDone_keeps {r0 : State} (s : State) (hk : Keeps r0 s) :
    Keeps r0 (blockResetDone s) := by
  unfold blockResetDone
  repeat' with_reducible first
    | assumption | extract_lets | apply State.set_keeps | apply quadStart_keeps | apply Keeps.ite | (intro _ _ _)
    | (intro _ _) | (simp only [Keeps.mk_iff]; apply Keeps.parts) | split | dsimp +zetaDelta only

theorem blockResetHung_keeps {r0 : State} (s : State) (hk : Keeps r0 s) :
    Keeps r0 (blockResetHung s) := by
  unfold blockResetHung
  repeat' with_reducible first
    | assumption | extract_lets | apply State.set_keeps | apply Keeps.ite | (intro _ _ _) | (intro _ _)
    | (simp only [Keeps.mk_iff]; apply Keeps.parts) | split | dsimp +zetaDelta only

end Sys2Proof.Machine
end

