-- ==== Sys2Proof/Laws/KeepsStack.lean ====
section
/-!
SUPPORT. What the operations of the stack keep (Laws/Keeps.lean), one lemma for each.
-/

namespace Sys2Proof.Machine

theorem addSchedule_keeps {r0 : State} (t : Nat) (s : State) (hk : Keeps r0 s) :
    Keeps r0 (addSchedule t s) := by
  unfold addSchedule
  repeat' with_reducible first
    | assumption | extract_lets | apply Keeps.ite | (intro _ _ _) | (intro _ _)
    | (simp only [Keeps.mk_iff]; apply Keeps.parts)

theorem resetLeaves_keeps {r0 : State} (s : State) (hk : Keeps r0 s) :
    Keeps r0 (resetLeaves s) := by
  unfold resetLeaves
  repeat' with_reducible first
    | assumption | extract_lets | apply resetTrigger_keeps | apply Keeps.ite | (intro _ _ _) | (intro _ _)
    | (simp only [Keeps.mk_iff]; apply Keeps.parts) | split

theorem stackReset_keeps {r0 : State} (lvl : Nat) (s : State) (hk : Keeps r0 s) :
    Keeps r0 (stackReset lvl s) := by
  unfold stackReset
  repeat' with_reducible first
    | assumption | extract_lets | apply broadcast_keeps | apply resetLeaves_keeps | apply Keeps.ite | (intro _ _ _)
    | (intro _ _) | (simp only [Keeps.mk_iff]; apply Keeps.parts)

theorem actOnBcast_keeps {r0 : State} (op : Bcast) (s : State) (hk : Keeps r0 s) :
    Keeps r0 (actOnBcast op s) := by
  unfold actOnBcast
  repeat' with_reducible first
    | assumption | extract_lets | apply State.raise_keeps | apply addSchedule_keeps | apply gatherAnswer_keeps
    | apply raiseWhistle_keeps | apply resetTrigger_keeps | apply Keeps.ite | (intro _ _ _) | (intro _ _)
    | (simp only [Keeps.mk_iff]; apply Keeps.parts) | split

theorem bcastReceive_keeps {r0 : State} (op : Bcast) (l : Link) (s : State) (hk : Keeps r0 s) :
    Keeps r0 (bcastReceive op l s) := by
  unfold bcastReceive
  repeat' with_reducible first
    | assumption | extract_lets | apply actOnBcast_keeps | apply sendMsg_keeps | apply Keeps.ite

end Sys2Proof.Machine
end

