-- ==== Sys2Proof/Laws/KeepsRegAccess.lean ====
section
/-!
SUPPORT. What the operations of register access keep (Laws/Keeps.lean), one lemma for each.
-/

namespace Sys2Proof.Machine

theorem wtAction_keeps {r0 : State} (t : Fin 8) (swap fill : Bool) (s : State) (hk : Keeps r0 s) :
    Keeps r0 (wtAction t swap fill s) := by
  unfold wtAction
  repeat' with_reducible first
    | assumption | extract_lets | apply wtStart_keeps | apply wtSwap_keeps | apply Keeps.ite | (intro _ _ _)
    | (intro _ _) | split

theorem roleWrite_keeps {r0 : State} (via : Port) (aux role : Bool) (s : State) (hk : Keeps r0 s) :
    Keeps r0 (roleWrite via aux role s) := by
  unfold roleWrite
  repeat' with_reducible first
    | assumption | extract_lets | apply State.setB_keeps | apply Keeps.ite | (intro _ _ _) | (intro _ _)
    | (simp only [Keeps.mk_iff]; apply Keeps.parts) | split

theorem latchLo_keeps {r0 : State} (addr : Nat) (w : Word) (s : State) (hk : Keeps r0 s) :
    Keeps r0 (latchLo addr w s) := by
  unfold latchLo
  repeat' with_reducible first
    | assumption | extract_lets | apply Keeps.ite | (intro _ _ _) | (intro _ _)
    | (simp only [Keeps.mk_iff]; apply Keeps.parts)

theorem applyHi_keeps {r0 : State} (addr : Nat) (w : Word) (s : State) (hk : Keeps r0 s) :
    Keeps r0 (applyHi addr w s) := by
  unfold applyHi
  repeat' with_reducible first
    | assumption | extract_lets | apply State.setWord_keeps | apply Keeps.ite | (intro _ _ _) | (intro _ _)
    | (simp only [Keeps.mk_iff]; apply Keeps.parts)

theorem performWrite_keeps {r0 : State} (via : Port) (w : RegWr) (s : State) (hk : Keeps r0 s) :
    Keeps r0 (performWrite via w s) := by
  unfold performWrite
  repeat' with_reducible first
    | assumption | extract_lets | apply State.modCore_keeps | apply State.setWord_keeps | apply applyHi_keeps
    | apply barrierStart_keeps | apply bkStore_keeps | apply commitAxis_keeps | apply commitPriv_keeps
    | apply dnDisabled_keeps | apply fbModeSet_keeps | apply gatherStart_keeps | apply homeArm_keeps
    | apply homeCancel_keeps | apply latchLo_keeps | apply loadOcDac_keeps | apply loseReady_keeps
    | apply mchRestart_keeps | apply partitionApply_keeps | apply pdCtrlWrite_keeps | apply probeTimer_keeps
    | apply refinEnWrite_keeps | apply refreshEnergised_keeps | apply roleWrite_keeps | apply stackReset_keeps
    | apply waveTableWrite_keeps | apply wmEnable_keeps | apply wmSettle_keeps | apply wtAction_keeps
    | apply Keeps.ite | apply Keeps.ite_fst | apply Keeps.ite_snd | (intro _ _ _) | (intro _ _)
    | (simp only [Keeps.mk_iff]; apply Keeps.parts) | split

theorem consumeUnlock_keeps {r0 : State} (s : State) (hk : Keeps r0 s) :
    Keeps r0 (consumeUnlock s) := by
  unfold consumeUnlock
  repeat' with_reducible first
    | assumption | extract_lets | apply Keeps.ite | (intro _ _ _) | (intro _ _)
    | (simp only [Keeps.mk_iff]; apply Keeps.parts)

theorem waveWrite_keeps {r0 : State} (addr : Nat) (mask bits : Word) (s : State) (hk : Keeps r0 s) :
    Keeps r0 (waveWrite addr mask bits s).1 := by
  unfold waveWrite
  repeat' with_reducible first
    | assumption | extract_lets | apply State.raise_keeps | apply State.setWord_keeps | apply Keeps.ite_fst

theorem checkedWrite_keeps {r0 : State} (via : Port) (unlocked : Bool) (w : RegWr) (s : State) (hk : Keeps r0 s) :
    Keeps r0 (checkedWrite via unlocked w s).1 := by
  unfold checkedWrite
  repeat' with_reducible first
    | assumption | extract_lets | apply State.inc_keeps | apply State.raise_keeps | apply commitAxis_keeps
    | apply performWrite_keeps | apply Keeps.ite_fst | apply Keeps.ite

theorem unlockWrite_keeps {r0 : State} (key : Nat) (s : State) (hk : Keeps r0 s) :
    Keeps r0 (unlockWrite key s) := by
  unfold unlockWrite
  repeat' with_reducible first
    | assumption | extract_lets | apply Keeps.ite | (intro _ _ _) | (intro _ _)
    | (simp only [Keeps.mk_iff]; apply Keeps.parts)

theorem writeReg_keeps {r0 : State} (via : Port) (bk : Bool) (addr typ : Nat) (data : Word) (s0 : State) (hk : Keeps
    r0 s0) :
    Keeps r0 (writeReg via bk addr typ data s0).1 := by
  unfold writeReg
  repeat' with_reducible first
    | assumption | extract_lets | apply State.raise_keeps | apply checkedWrite_keeps | apply consumeUnlock_keeps
    | apply unlockWrite_keeps | apply waveWrite_keeps | apply Keeps.ite_fst | apply Keeps.ite | (intro _ _ _)
    | (intro _ _) | split

theorem writeAll_keeps {r0 : State} (via : Port) (bk : Bool) (l : List (Nat × Nat × Word)) (k : Nat) (s : State)
    (hk : Keeps r0 s) : Keeps r0 (writeAll via bk l k s).1 := by
  induction l generalizing k s with
  | nil => exact hk
  | cons e l ih =>
    obtain ⟨addr, typ, data⟩ := e
    unfold writeAll
    extract_lets r
    split
    · exact ih _ _ (writeReg_keeps _ _ _ _ _ _ hk)
    · exact writeReg_keeps _ _ _ _ _ _ hk

theorem endFrame_keeps {r0 : State} (s : State) (hk : Keeps r0 s) :
    Keeps r0 (endFrame s) := by
  unfold endFrame
  repeat' with_reducible first
    | assumption | extract_lets | apply State.raise_keeps | apply Keeps.ite | (intro _ _ _) | (intro _ _)
    | (simp only [Keeps.mk_iff]; apply Keeps.parts)

end Sys2Proof.Machine
end

