-- ==== Sys2Proof/Laws/KeepsRecipe.lean ====
section
/-!
SUPPORT. What the operations of recipes keep (Laws/Keeps.lean), one lemma for each.
-/

namespace Sys2Proof.Machine

theorem performReg_keeps {r0 : State} (addr data : Word) (s : State) (hk : Keeps r0 s) :
    Keeps r0 (performReg addr data s) := by
  unfold performReg
  repeat' with_reducible first
    | assumption | extract_lets | apply performWrite_keeps | apply Keeps.ite | (intro _ _ _) | (intro _ _) | split

theorem recipeArmTakeUp_keeps {r0 : State} (s : State) (hk : Keeps r0 s) :
    Keeps r0 (recipeArmTakeUp s) := by
  unfold recipeArmTakeUp
  repeat' with_reducible first
    | assumption | extract_lets | apply armReject_keeps | apply readJob_keeps | apply unqueue_keeps | apply Keeps.ite
    | (intro _ _ _) | (intro _ _) | (simp only [Keeps.mk_iff]; apply Keeps.parts) | split | dsimp +zetaDelta only

theorem armLoad_keeps {r0 : State} (a : ArmSt) (s : State) (hk : Keeps r0 s) :
    Keeps r0 (armLoad a s) := by
  unfold armLoad
  repeat' with_reducible first
    | assumption | extract_lets | apply State.set_keeps | apply retire_keeps | apply Keeps.ite | (intro _ _ _)
    | (intro _ _) | (simp only [Keeps.mk_iff]; apply Keeps.parts) | split | dsimp +zetaDelta only

theorem armCams_keeps {r0 : State} (s : State) (hk : Keeps r0 s) :
    Keeps r0 (armCams s) := by
  unfold armCams
  repeat' with_reducible first
    | assumption | extract_lets | apply armLoad_keeps | apply camValidate_keeps | apply Keeps.ite | (intro _ _ _)
    | (intro _ _) | (simp only [Keeps.mk_iff]; apply Keeps.parts) | split

theorem armChecks_keeps {r0 : State} (a : ArmSt) (s : State) (hk : Keeps r0 s) :
    Keeps r0 (armChecks a s) := by
  unfold armChecks
  repeat' with_reducible first
    | assumption | extract_lets | apply armCams_keeps | apply armReject_keeps | apply Keeps.ite | (intro _ _ _)
    | (intro _ _) | (simp only [Keeps.mk_iff]; apply Keeps.parts) | split

theorem armDigest_keeps {r0 : State} (a : ArmSt) (s : State) (hk : Keeps r0 s) :
    Keeps r0 (armDigest a s) := by
  unfold armDigest
  repeat' with_reducible first
    | assumption | extract_lets | apply armChecks_keeps | apply armReject_keeps | apply Keeps.ite | (intro _ _ _)
    | (intro _ _) | (simp only [Keeps.mk_iff]; apply Keeps.parts) | split

theorem armHeader_keeps {r0 : State} (a : ArmSt) (s : State) (hk : Keeps r0 s) :
    Keeps r0 (armHeader a s) := by
  unfold armHeader
  repeat' with_reducible first
    | assumption | extract_lets | apply armReject_keeps | apply readJob_keeps | apply Keeps.ite | (intro _ _ _)
    | (intro _ _) | (simp only [Keeps.mk_iff]; apply Keeps.parts) | split

theorem armLine_keeps {r0 : State} (line : Nat) (d : Option (List Byte)) (s : State) (hk : Keeps r0 s) :
    Keeps r0 (armLine line d s) := by
  unfold armLine
  repeat' with_reducible first
    | assumption | extract_lets | apply armDigest_keeps | apply armHeader_keeps | apply armReject_keeps
    | apply Keeps.ite | (intro _ _ _) | (intro _ _) | (simp only [Keeps.mk_iff]; apply Keeps.parts) | split
    | dsimp +zetaDelta only

theorem armSigned_keeps {r0 : State} (a : ArmSt) (s : State) (hk : Keeps r0 s) :
    Keeps r0 (armSigned a s) := by
  unfold armSigned
  repeat' with_reducible first
    | assumption | extract_lets | apply addRecord_keeps | apply armChecks_keeps | apply armReject_keeps
    | apply Keeps.ite | (intro _ _ _) | (intro _ _) | (simp only [Keeps.mk_iff]; apply Keeps.parts) | split
    | dsimp +zetaDelta only

theorem signatureDone_keeps {r0 : State} (s : State) (hk : Keeps r0 s) :
    Keeps r0 (signatureDone s) := by
  unfold signatureDone
  repeat' with_reducible first
    | assumption | extract_lets | apply armCams_keeps | apply armSigned_keeps | apply camSigned_keeps
    | apply Keeps.ite | (intro _ _ _) | (intro _ _) | split

theorem recipeApplyTakeUp_keeps {r0 : State} (s : State) (hk : Keeps r0 s) :
    Keeps r0 (recipeApplyTakeUp s) := by
  unfold recipeApplyTakeUp
  repeat' with_reducible first
    | assumption | extract_lets | apply State.set_keeps | apply actOnBcast_keeps | apply broadcast_keeps
    | apply retire_keeps | apply unqueue_keeps | apply Keeps.ite | (intro _ _ _) | (intro _ _)
    | (simp only [Keeps.mk_iff]; apply Keeps.parts) | split | dsimp +zetaDelta only

theorem applySource_keeps {r0 : State} (a : Axis) (src : Fin 4) (s : State) (hk : Keeps r0 s) :
    Keeps r0 (applySource a src s) := by
  unfold applySource
  repeat' with_reducible first
    | assumption | extract_lets | apply State.modFol_keeps | apply followExit_keeps | apply stopPacket_keeps
    | apply takePendSource_keeps | apply Keeps.ite

theorem applyCam_keeps {r0 : State} (a : Axis) (id : BitVec 8) (s : State) (hk : Keeps r0 s) :
    Keeps r0 (applyCam a id s) := by
  unfold applyCam
  repeat' with_reducible first | assumption | extract_lets | apply camValidate_keeps | apply Keeps.ite

theorem waveCopy_keeps {r0 : State} (t : Fin 8) (ws : List Word) (s : State) (hk : Keeps r0 s) :
    Keeps r0 (waveCopy t ws s) := by
  unfold waveCopy
  repeat' with_reducible first | assumption | extract_lets | apply setWave_keeps | apply wtSwap_keeps

theorem applyWave_keeps {r0 : State} (t : Fin 8) (ws : List Word) (s : State) (hk : Keeps r0 s) :
    Keeps r0 (applyWave t ws s) := by
  unfold applyWave
  repeat' with_reducible first
    | assumption | extract_lets | apply waveCopy_keeps | apply Keeps.ite | (intro _ _ _) | (intro _ _)
    | (simp only [Keeps.mk_iff]; apply Keeps.parts)

theorem recipeWaveCopy_keeps {r0 : State} (t : Fin 8) (s : State) (hk : Keeps r0 s) :
    Keeps r0 (recipeWaveCopy t s) := by
  unfold recipeWaveCopy
  repeat' with_reducible first
    | assumption | extract_lets | apply waveCopy_keeps | apply Keeps.ite | (intro _ _ _) | (intro _ _)
    | (simp only [Keeps.mk_iff]; apply Keeps.parts) | split

theorem applyRegs_keeps {r0 : State} (r : RcpRec) (s : State) (hk : Keeps r0 s) :
    Keeps r0 (applyRegs r s) := by
  unfold applyRegs
  repeat' with_reducible first
    | assumption | extract_lets | apply performReg_keeps | apply Keeps.ite | (intro _ _ _) | (intro _ _) | split

theorem applySources_keeps {r0 : State} (r : RcpRec) (s : State) (hk : Keeps r0 s) :
    Keeps r0 (applySources r s) := by
  unfold applySources
  repeat' with_reducible first
    | assumption | extract_lets | apply applySource_keeps | apply Keeps.ite | (intro _ _ _) | (intro _ _) | split

theorem applyCams_keeps {r0 : State} (r : RcpRec) (s : State) (hk : Keeps r0 s) :
    Keeps r0 (applyCams r s) := by
  unfold applyCams
  repeat' with_reducible first
    | assumption | extract_lets | apply applyCam_keeps | apply Keeps.ite | (intro _ _ _) | (intro _ _) | split

theorem applyWaves_keeps {r0 : State} (r : RcpRec) (s : State) (hk : Keeps r0 s) :
    Keeps r0 (applyWaves r s) := by
  unfold applyWaves
  repeat' with_reducible first
    | assumption | extract_lets | apply applyWave_keeps | apply Keeps.ite | (intro _ _ _) | (intro _ _) | split

theorem applyRecipe_keeps {r0 : State} (s : State) (hk : Keeps r0 s) :
    Keeps r0 (applyRecipe s) := by
  unfold applyRecipe
  repeat' with_reducible first
    | assumption | extract_lets | apply State.each_keeps | apply State.set_keeps | apply applyCams_keeps
    | apply applyRegs_keeps | apply applySources_keeps | apply applyWaves_keeps | apply commitAxis_keeps
    | apply newProfiles_keeps | apply retire_keeps | apply Keeps.each | apply Keeps.ite | apply Keeps.ite_fst
    | apply Keeps.ite_snd | (intro _ _ _) | (intro _ _) | (simp only [Keeps.mk_iff]; apply Keeps.parts) | split
    | dsimp +zetaDelta only

end Sys2Proof.Machine
end

