-- ==== Sys2Proof/Laws/KeepsWhistle.lean ====
section
/-!
SUPPORT. What the operations of the Whistle keep (Laws/Keeps.lean), one lemma for each.
-/

namespace Sys2Proof.Machine

theorem takeLatch_keeps {r0 : State} (reqs : List (Nat × Nat)) (src : Nat × Nat) (s : State) (hk : Keeps r0 s) :
    Keeps r0 (takeLatch reqs src s) := by
  unfold takeLatch
  repeat' with_reducible first
    | assumption | extract_lets | apply State.inc_keeps | apply State.raise_keeps | apply State.set_keeps
    | apply traceRecord_keeps | apply Keeps.ite | (intro _ _ _) | (intro _ _)
    | (simp only [Keeps.mk_iff]; apply Keeps.parts) | split | dsimp +zetaDelta only

theorem missLatch_keeps {r0 : State} (s : State) (hk : Keeps r0 s) :
    Keeps r0 (missLatch s) := by
  unfold missLatch
  repeat' with_reducible first
    | assumption | extract_lets | apply State.inc_keeps | apply Keeps.ite | (intro _ _ _) | (intro _ _)
    | (simp only [Keeps.mk_iff]; apply Keeps.parts)

theorem whistleNow_keeps {r0 : State} (reqs : List (Nat × Nat)) (s : State) (hk : Keeps r0 s) :
    Keeps r0 (whistleNow reqs s) := by
  unfold whistleNow
  repeat' with_reducible first
    | assumption | extract_lets | apply applyRecipe_keeps | apply missLatch_keeps | apply takeLatch_keeps
    | apply Keeps.ite | (intro _ _ _) | (intro _ _) | split

theorem serveWhistles_keeps {r0 : State} (s : State) (hk : Keeps r0 s) :
    Keeps r0 (serveWhistles s) := by
  unfold serveWhistles
  repeat' with_reducible first
    | assumption | extract_lets | apply whistleNow_keeps | apply Keeps.ite | (intro _ _ _) | (intro _ _)
    | (simp only [Keeps.mk_iff]; apply Keeps.parts)

theorem finish_keeps {r0 : State} (s : State) (hk : Keeps r0 s) :
    Keeps r0 (finish s) := by
  unfold finish
  repeat' with_reducible first
    | assumption | extract_lets | apply wakePlanner_keeps | apply auditStart_keeps | apply serveWhistles_keeps
    | (simp only [Keeps.mk_iff]; apply Keeps.parts)

theorem scheduledWhistle_keeps {r0 : State} (s : State) (hk : Keeps r0 s) :
    Keeps r0 (scheduledWhistle s) := by
  unfold scheduledWhistle
  repeat' with_reducible first
    | assumption | extract_lets | apply State.at_keeps | apply raiseWhistle_keeps | apply Keeps.foldl
    | apply Keeps.ite | (intro _ _ _) | (intro _ _) | (simp only [Keeps.mk_iff]; apply Keeps.parts) | split

theorem whslEdge_keeps {r0 : State} (rising : Bool) (x : Level) (s : State) (hk : Keeps r0 s) :
    Keeps r0 (whslEdge rising x s) := by
  unfold whslEdge
  repeat' with_reducible first
    | assumption | extract_lets | apply State.at_keeps | apply raiseWhistle_keeps | apply Keeps.ite | (intro _ _ _)
    | (intro _ _) | (simp only [Keeps.mk_iff]; apply Keeps.parts) | split | dsimp +zetaDelta only

theorem whistleDriveEnd_keeps {r0 : State} (s : State) (hk : Keeps r0 s) :
    Keeps r0 (whistleDriveEnd s) := by
  unfold whistleDriveEnd
  repeat' with_reducible first
    | assumption | extract_lets | apply State.at_keeps | apply State.set_keeps | apply Keeps.ite | (intro _ _ _)
    | (intro _ _) | (simp only [Keeps.mk_iff]; apply Keeps.parts) | split

theorem whistleHoldoffEnd_keeps {r0 : State} (s : State) (hk : Keeps r0 s) :
    Keeps r0 (whistleHoldoffEnd s) := by
  unfold whistleHoldoffEnd
  repeat' with_reducible first
    | assumption | extract_lets | apply State.at_keeps | apply Keeps.ite | (intro _ _ _) | (intro _ _)
    | (simp only [Keeps.mk_iff]; apply Keeps.parts) | split

end Sys2Proof.Machine
end

