-- ==== Sys2Proof/Laws/KeepsSecurity.lean ====
section
/-!
SUPPORT. What the operations of the security engine keep (Laws/Keeps.lean), one lemma for each.
-/

namespace Sys2Proof.Machine

theorem newTicket_keeps {r0 : State} (s : State) (hk : Keeps r0 s) :
    Keeps r0 (newTicket s).2 := by
  unfold newTicket
  repeat' with_reducible first
    | assumption | extract_lets | apply State.set_keeps | apply Keeps.ite_snd | apply Keeps.ite | (intro _ _ _)
    | (intro _ _) | (simp only [Keeps.mk_iff]; apply Keeps.parts)

theorem endTicket_keeps {r0 : State} (no : BitVec 8) (code : Nat) (words : List Word) (s : State) (hk : Keeps r0 s) :
    Keeps r0 (endTicket no code words s) := by
  unfold endTicket
  repeat' with_reducible first
    | assumption | extract_lets | apply Keeps.ite | (intro _ _ _) | (intro _ _)
    | (simp only [Keeps.mk_iff]; apply Keeps.parts)

theorem startJob_keeps {r0 : State} (j : SecJob) (s : State) (hk : Keeps r0 s) :
    Keeps r0 (startJob j s).2 := by
  unfold startJob
  repeat' with_reducible first
    | assumption | extract_lets | apply newTicket_keeps | apply Keeps.ite_snd | apply Keeps.ite | (intro _ _ _)
    | (intro _ _) | (simp only [Keeps.mk_iff]; apply Keeps.parts)

theorem State.modSess_keeps {r0 : State} (s : State) (p : Port) (f : SessPort → SessPort) (hk : Keeps r0 s) :
    Keeps r0 (State.modSess s p f) := by
  unfold State.modSess
  repeat' with_reducible first
    | assumption | extract_lets | apply Keeps.ite | (intro _ _ _) | (intro _ _)
    | (simp only [Keeps.mk_iff]; apply Keeps.parts) | split

theorem closeSession_keeps {r0 : State} (p : Port) (s : State) (hk : Keeps r0 s) :
    Keeps r0 (closeSession p s) := by
  unfold closeSession
  repeat' with_reducible first
    | assumption | extract_lets | apply State.modSess_keeps | apply audit_keeps | apply Keeps.ite | (intro _ _ _)
    | (intro _ _) | split

theorem sessionFailure_keeps {r0 : State} (p : Port) (s : State) (hk : Keeps r0 s) :
    Keeps r0 (sessionFailure p s) := by
  unfold sessionFailure
  repeat' with_reducible first
    | assumption | extract_lets | apply State.inc_keeps | apply State.modSess_keeps | apply audit_keeps
    | apply Keeps.ite

theorem lockoutEnd_keeps {r0 : State} (p : Port) (s : State) (hk : Keeps r0 s) :
    Keeps r0 (lockoutEnd p s) := by
  unfold lockoutEnd
  repeat' with_reducible first
    | assumption | extract_lets | apply State.at_keeps | apply State.modSess_keeps | apply Keeps.ite | (intro _ _ _)
    | (intro _ _) | split

theorem sessionTimeout_keeps {r0 : State} (p : Port) (s : State) (hk : Keeps r0 s) :
    Keeps r0 (sessionTimeout p s) := by
  unfold sessionTimeout
  repeat' with_reducible first
    | assumption | extract_lets | apply State.at_keeps | apply closeSession_keeps | apply Keeps.ite | (intro _ _ _)
    | (intro _ _) | (simp only [Keeps.mk_iff]; apply Keeps.parts) | split

theorem openSession_keeps {r0 : State} (p : Port) (words : List Word) (s : State) (hk : Keeps r0 s) :
    Keeps r0 (openSession p words s).1 := by
  unfold openSession
  repeat' with_reducible first
    | assumption | extract_lets | apply State.frees_keeps | apply State.modSess_keeps | apply freshScalar_keeps
    | apply sessionFailure_keeps | apply Keeps.ite | apply Keeps.ite_fst | apply Keeps.ite_snd | (intro _ _ _)
    | (intro _ _) | (simp only [Keeps.mk_iff]; apply Keeps.parts) | split

theorem confirmSession_keeps {r0 : State} (p : Port) (words : List Word) (s : State) (hk : Keeps r0 s) :
    Keeps r0 (confirmSession p words s).1 := by
  unfold confirmSession
  repeat' with_reducible first
    | assumption | extract_lets | apply State.modSess_keeps | apply audit_keeps | apply sessionFailure_keeps
    | apply Keeps.ite | apply Keeps.ite_fst | apply Keeps.ite_snd | (intro _ _ _) | (intro _ _)
    | (simp only [Keeps.mk_iff]; apply Keeps.parts) | split

theorem installKey_keeps {r0 : State} (words : List Word) (role : BitVec 2) (p : Port) (s : State) (hk : Keeps r0 s) :
    Keeps r0 (installKey words role p s).1 := by
  unfold installKey
  repeat' with_reducible first
    | assumption | extract_lets | apply State.set_keeps | apply audit_keeps | apply Keeps.ite_fst | apply Keeps.ite
    | (intro _ _ _) | (intro _ _) | (simp only [Keeps.mk_iff]; apply Keeps.parts) | split | dsimp +zetaDelta only

theorem tapRevoke_keeps {r0 : State} (s : State) (hk : Keeps r0 s) :
    Keeps r0 (tapRevoke s) := by
  unfold tapRevoke
  repeat' with_reducible first
    | assumption | extract_lets | apply refreshAll_keeps | apply Keeps.ite | (intro _ _ _) | (intro _ _)
    | (simp only [Keeps.mk_iff]; apply Keeps.parts)

/-- A permitted transition of the lifecycle goes forward (R491). -/
theorem lifePermitted_forward {s : State} {target : Nat} {role : BitVec 2} (h : lifePermitted s target role = true) :
    s.sec.life ≤ BitVec.ofNat 2 target := by
  unfold lifePermitted at h
  rw [BitVec.le_def]
  split at h
  all_goals first | (rename_i h1; rw [h1]; decide) | cases h

theorem lifeCycle_keeps {r0 : State} (w : Word) (role : BitVec 2) (p : Port) (s : State) (hk : Keeps r0 s) :
    Keeps r0 (lifeCycle w role p s).1 := by
  unfold lifeCycle
  dsimp only
  split
  · exact hk
  · split
    · exact hk
    · rename_i hp
      have hp := Decidable.not_not.mp hp
      have h1 : Keeps r0 { s with sec := { s.sec with life := BitVec.ofNat 2 (getBits w 1 0) } } :=
        ⟨hk.regs, hk.cells, hk.pending, BitVec.le_trans hk.life (lifePermitted_forward hp), hk.audit⟩
      exact tapRevoke_keeps _ (closeSession_keeps _ _ (closeSession_keeps _ _ (audit_keeps _ _ _ _ _ _ _
        (Keeps.ite (Keeps.mk_iff.mpr h1.parts) h1))))

theorem patchLoad_keeps {r0 : State} (slot : Fin 4) (role : BitVec 2) (p : Port) (good : Bool) (svn : BitVec 5) (s :
    State) (hk : Keeps r0 s) :
    Keeps r0 (patchLoad slot role p good svn s).1 := by
  unfold patchLoad
  repeat' with_reducible first
    | assumption | extract_lets | apply State.set_keeps | apply audit_keeps | apply Keeps.ite_fst | apply Keeps.ite
    | (intro _ _ _) | (intro _ _) | (simp only [Keeps.mk_iff]; apply Keeps.parts) | split | dsimp +zetaDelta only

theorem ticketResult_keeps {r0 : State} (ticket : BitVec 8) (good : Bool) (svn : BitVec 5) (s : State) (hk : Keeps r0
    s) :
    Keeps r0 (ticketResult ticket good svn s) := by
  unfold ticketResult
  repeat' with_reducible first
    | assumption | extract_lets | apply confirmSession_keeps | apply endTicket_keeps | apply installKey_keeps
    | apply lifeCycle_keeps | apply openSession_keeps | apply patchLoad_keeps | apply Keeps.ite | (intro _ _ _)
    | (intro _ _) | (simp only [Keeps.mk_iff]; apply Keeps.parts) | split | dsimp +zetaDelta only

theorem trngTestFail_keeps {r0 : State} (s : State) (hk : Keeps r0 s) :
    Keeps r0 (trngTestFail s) := by
  unfold trngTestFail
  repeat' with_reducible first | assumption | extract_lets | apply State.set_keeps | apply audit_keeps

theorem trngRecover_keeps {r0 : State} (s : State) (hk : Keeps r0 s) :
    Keeps r0 (trngRecover s) := by
  unfold trngRecover
  repeat' with_reducible first | assumption | extract_lets | apply State.set_keeps

theorem keysUnreadable_keeps {r0 : State} (bad : BitVec 16) (recs : List Nat) (s : State) (hk : Keeps r0 s) :
    Keeps r0 (keysUnreadable bad recs s) := by
  unfold keysUnreadable
  repeat' with_reducible first
    | assumption | extract_lets | apply State.set_keeps | apply Keeps.ite | (intro _ _ _) | (intro _ _)
    | (simp only [Keeps.mk_iff]; apply Keeps.parts) | split | dsimp +zetaDelta only

end Sys2Proof.Machine
end

