-- ==== Sys2Proof/Laws/KeepsPort.lean ====
section
/-!
SUPPORT. What the operations of the host ports keep (Laws/Keeps.lean), one lemma for each.
-/

namespace Sys2Proof.Machine

theorem State.modPort_keeps {r0 : State} (s : State) (p : Port) (f : PortSt → PortSt) (hk : Keeps r0 s) :
    Keeps r0 (State.modPort s p f) := by
  unfold State.modPort
  repeat' with_reducible first
    | assumption | extract_lets | apply Keeps.ite | (intro _ _ _) | (intro _ _)
    | (simp only [Keeps.mk_iff]; apply Keeps.parts) | split

theorem putOut_keeps {r0 : State} (p : Port) (sess : Option (Session × Nat)) (accepted : Bool) (r : Reply) (health :
    Word) (t : Nat) (s : State) (hk : Keeps r0 s) :
    Keeps r0 (putOut p sess accepted r health t s) := by
  unfold putOut
  repeat' with_reducible first | assumption | extract_lets | apply State.modPort_keeps

theorem healthOf_keeps {r0 : State} (dev : BitVec 4) (s : State) (hk : Keeps r0 s) :
    Keeps r0 (healthOf dev s).2 := by
  unfold healthOf
  repeat' with_reducible first
    | assumption | extract_lets | apply State.free_keeps | apply Keeps.ite | apply Keeps.ite_fst
    | apply Keeps.ite_snd

theorem statusReply_keeps {r0 : State} (p : Port) (h : Word) (t : Nat) (s : State) (hk : Keeps r0 s) :
    Keeps r0 (statusReply p h t s) := by
  unfold statusReply
  repeat' with_reducible first | assumption | extract_lets | apply healthOf_keeps | apply putOut_keeps

theorem acceptRally_keeps {r0 : State} (p : Port) (alive : BitVec 4) (crc : BitVec 16) (sync : Bool) (s : State) (hk :
    Keeps r0 s) :
    Keeps r0 (acceptRally p alive crc sync s) := by
  unfold acceptRally
  repeat' with_reducible first
    | assumption | extract_lets | apply State.modPort_keeps | apply State.modSess_keeps | apply State.set_keeps

theorem countRefusal_keeps {r0 : State} (a : Ans) (s : State) (hk : Keeps r0 s) :
    Keeps r0 (countRefusal a s) := by
  unfold countRefusal
  repeat' with_reducible first
    | assumption | extract_lets | apply State.inc_keeps | apply State.set_keeps | apply Keeps.ite | (intro _ _ _)
    | (intro _ _) | split

theorem deliverPort_keeps {r0 : State} (p : Port) (sess : Option (Session × Nat)) (op : BitVec 8) (f : Req) (a : Ans)
    (t : Nat) (s : State) (hk : Keeps r0 s) :
    Keeps r0 (deliverPort p sess op f a t s) := by
  unfold deliverPort
  repeat' with_reducible first
    | assumption | extract_lets | apply State.modPort_keeps | apply healthOf_keeps | apply putOut_keeps
    | apply Keeps.ite | apply Keeps.ite_fst | apply Keeps.ite_snd | (intro _ _ _) | (intro _ _)
    | (simp only [Keeps.mk_iff]; apply Keeps.parts) | split | dsimp +zetaDelta only

theorem deliverUp_keeps {r0 : State} (idx : BitVec 4) (op : BitVec 8) (f : Req) (a : Ans) (s : State) (hk : Keeps r0
    s) :
    Keeps r0 (deliverUp idx op f a s) := by
  unfold deliverUp
  repeat' with_reducible first | assumption | extract_lets | apply sendMsg_keeps

theorem deliver_keeps {r0 : State} (sess : Option (Session × Nat)) (idx : BitVec 4) (op : BitVec 8) (f : Req) (a :
    Ans) (t : Nat) (s : State) (hk : Keeps r0 s) :
    Keeps r0 (deliver sess idx op f a t s) := by
  unfold deliver
  repeat' with_reducible first
    | assumption | extract_lets | apply deliverPort_keeps | apply deliverUp_keeps | apply Keeps.ite | (intro _ _ _)
    | (intro _ _) | split

end Sys2Proof.Machine
end

