-- ==== Sys2Proof/Laws/KeepsInterp.lean ====
section
/-!
SUPPORT. What the operations of the interpreter keep (Laws/Keeps.lean), one lemma for each.
-/

namespace Sys2Proof.Machine

theorem opCollect_keeps {r0 : State} (f : Req) (s : State) (hk : Keeps r0 s) :
    Keeps r0 (opCollect f s).1 := by
  unfold opCollect
  repeat' with_reducible first
    | assumption | extract_lets | apply Keeps.ite | apply Keeps.ite_fst | apply Keeps.ite_snd | (intro _ _ _)
    | (intro _ _) | (simp only [Keeps.mk_iff]; apply Keeps.parts) | split | dsimp +zetaDelta only

theorem opGetStatus_keeps {r0 : State} (s : State) (hk : Keeps r0 s) :
    Keeps r0 (opGetStatus s).1 := by
  unfold opGetStatus
  repeat' with_reducible first | assumption

theorem opGetRetire_keeps {r0 : State} (f : Req) (s : State) (hk : Keeps r0 s) :
    Keeps r0 (opGetRetire f s).1 := by
  unfold opGetRetire
  repeat' with_reducible first | assumption

theorem opMode_keeps {r0 : State} (f : Req) (s : State) (hk : Keeps r0 s) :
    Keeps r0 (opMode f s).1 := by
  unfold opMode
  repeat' with_reducible first | assumption | extract_lets | apply modeBegin_keeps | apply Keeps.ite_fst

theorem opReset_keeps {r0 : State} (f : Req) (s : State) (hk : Keeps r0 s) :
    Keeps r0 (opReset f s).1 := by
  unfold opReset
  repeat' with_reducible first
    | assumption | extract_lets | apply Keeps.ite | apply Keeps.ite_fst | apply Keeps.ite_snd | (intro _ _ _)
    | (intro _ _) | (simp only [Keeps.mk_iff]; apply Keeps.parts)

theorem opAxisRearm_keeps {r0 : State} (f : Req) (s : State) (hk : Keeps r0 s) :
    Keeps r0 (opAxisRearm f s).1 := by
  unfold opAxisRearm
  repeat' with_reducible first | assumption | extract_lets | apply rearmEdge_keeps | apply Keeps.each

theorem opIdent_keeps {r0 : State} (s : State) (hk : Keeps r0 s) :
    Keeps r0 (opIdent s).1 := by
  unfold opIdent
  repeat' with_reducible first | assumption

theorem opResult_keeps {r0 : State} (f : Req) (s : State) (hk : Keeps r0 s) :
    Keeps r0 (opResult f s).1 := by
  unfold opResult
  repeat' with_reducible first
    | assumption | extract_lets | apply Keeps.ite_fst | apply Keeps.ite | (intro _ _ _) | (intro _ _) | split

theorem opRegRead_keeps {r0 : State} (f : Req) (s : State) (hk : Keeps r0 s) :
    Keeps r0 (opRegRead f s).1 := by
  unfold opRegRead
  repeat' with_reducible first
    | assumption | extract_lets | apply State.raise_keeps | apply regReads_keeps | apply Keeps.ite_fst
    | apply Keeps.ite

theorem writeAns_keeps {r0 : State} (r : State × Nat × Nat) (hk : Keeps r0 r.1) : Keeps r0 (writeAns r).1 := hk

theorem opRegWrite_keeps {r0 : State} (f : Req) (s : State) (hk : Keeps r0 s) :
    Keeps r0 (opRegWrite f s).1 := by
  unfold opRegWrite
  repeat' with_reducible first | assumption | extract_lets | apply writeAll_keeps | apply writeAns_keeps

theorem opRegBlockWrite_keeps {r0 : State} (f : Req) (s : State) (hk : Keeps r0 s) :
    Keeps r0 (opRegBlockWrite f s).1 := by
  unfold opRegBlockWrite
  repeat' with_reducible first | assumption | extract_lets | apply writeAll_keeps | apply writeAns_keeps

theorem opBackstopSet_keeps {r0 : State} (f : Req) (s : State) (hk : Keeps r0 s) :
    Keeps r0 (opBackstopSet f s).1 := by
  unfold opBackstopSet
  repeat' with_reducible first
    | assumption | extract_lets | apply audit_keeps | apply writeAll_keeps | apply writeAns_keeps
    | apply Keeps.ite_fst | apply Keeps.ite

theorem numberCmd_keeps {r0 : State} (c : QCmd) (s : State) (hk : Keeps r0 s) :
    Keeps r0 (numberCmd c s) := by
  unfold numberCmd
  repeat' with_reducible first
    | assumption | extract_lets | apply Keeps.ite | (intro _ _ _) | (intro _ _)
    | (simp only [Keeps.mk_iff]; apply Keeps.parts)

theorem waitCmd_keeps {r0 : State} (c : QCmd) (s : State) (hk : Keeps r0 s) :
    Keeps r0 (waitCmd c s) := by
  unfold waitCmd
  repeat' with_reducible first
    | assumption | extract_lets | apply Keeps.ite | (intro _ _ _) | (intro _ _)
    | (simp only [Keeps.mk_iff]; apply Keeps.parts)

theorem queueCmd_keeps {r0 : State} (op : BitVec 8) (f : Req) (s : State) (hk : Keeps r0 s) :
    Keeps r0 (queueCmd op f s).1 := by
  unfold queueCmd
  repeat' with_reducible first
    | assumption | extract_lets | apply numberCmd_keeps | apply waitCmd_keeps | apply Keeps.ite_fst

theorem cutCmd_keeps {r0 : State} (op : BitVec 8) (a : Axis) (f : Req) (s : State) (hk : Keeps r0 s) :
    Keeps r0 (cutCmd op a f s).1 := by
  unfold cutCmd
  repeat' with_reducible first
    | assumption | extract_lets | apply cancelWaiting_keeps | apply numberCmd_keeps | apply takeUp_keeps
    | apply Keeps.ite | apply Keeps.ite_fst

theorem opMove_keeps {r0 : State} (f : Req) (s : State) (hk : Keeps r0 s) :
    Keeps r0 (opMove f s).1 := by
  unfold opMove
  repeat' with_reducible first
    | assumption | extract_lets | apply cutCmd_keeps | apply queueCmd_keeps | apply reblend_keeps | apply Keeps.ite
    | apply Keeps.ite_fst

theorem opJog_keeps {r0 : State} (f : Req) (s : State) (hk : Keeps r0 s) :
    Keeps r0 (opJog f s).1 := by
  unfold opJog
  repeat' with_reducible first | assumption | extract_lets | apply cutCmd_keeps | apply Keeps.ite_fst

theorem stopFollower_keeps {r0 : State} (a : Axis) (c : QCmd) (s : State) (hk : Keeps r0 s) :
    Keeps r0 (stopFollower a c s) := by
  unfold stopFollower
  repeat' with_reducible first
    | assumption | extract_lets | apply cancelWaiting_keeps | apply followExit_keeps | apply retireEngage_keeps
    | apply retire_keeps

theorem opStop_keeps {r0 : State} (f : Req) (s : State) (hk : Keeps r0 s) :
    Keeps r0 (opStop f s).1 := by
  unfold opStop
  repeat' with_reducible first
    | assumption | extract_lets | apply cancelWaiting_keeps | apply numberCmd_keeps | apply stopFollower_keeps
    | apply takeUp_keeps | apply Keeps.ite_fst | apply Keeps.ite

theorem opResume_keeps {r0 : State} (f : Req) (s : State) (hk : Keeps r0 s) :
    Keeps r0 (opResume f s).1 := by
  unfold opResume
  repeat' with_reducible first | assumption | extract_lets | apply queueCmd_keeps | apply Keeps.ite_fst

theorem setWide48_keeps {r0 : State} (lo hi : Fld) (v : Int) (s : State) (hk : Keeps r0 s) :
    Keeps r0 (setWide48 lo hi v s) := by
  unfold setWide48
  repeat' with_reducible first | assumption | extract_lets | apply State.set_keeps

theorem posSet_keeps {r0 : State} (a : Axis) (p : Int) (s : State) (hk : Keeps r0 s) :
    Keeps r0 (posSet a p s) := by
  unfold posSet
  repeat' with_reducible first
    | assumption | extract_lets | apply State.modMot_keeps | apply State.set_keeps | apply clearRemain_keeps
    | apply setWide48_keeps

theorem opPosSet_keeps {r0 : State} (f : Req) (s : State) (hk : Keeps r0 s) :
    Keeps r0 (opPosSet f s).1 := by
  unfold opPosSet
  repeat' with_reducible first | assumption | extract_lets | apply posSet_keeps | apply Keeps.ite_fst

theorem endRead_keeps {r0 : State} (p : Port) (k : ReadKey) (s : State) (hk : Keeps r0 s) :
    Keeps r0 (endRead p k s) := by
  unfold endRead
  repeat' with_reducible first
    | assumption | extract_lets | apply dropJobs_keeps | apply Keeps.ite | (intro _ _ _) | (intro _ _)
    | (simp only [Keeps.mk_iff]; apply Keeps.parts)

theorem startRead_keeps {r0 : State} (who : Fin 22) (op : BitVec 8) (f : Req) (addr count : Nat) (s : State) (hk :
    Keeps r0 s) :
    Keeps r0 (startRead who op f addr count s) := by
  unfold startRead
  repeat' with_reducible first
    | assumption | extract_lets | apply endRead_keeps | apply readJob_keeps | apply Keeps.ite | (intro _ _ _)
    | (intro _ _) | (simp only [Keeps.mk_iff]; apply Keeps.parts) | split | dsimp +zetaDelta only

theorem opSource_keeps {r0 : State} (f : Req) (s : State) (hk : Keeps r0 s) :
    Keeps r0 (opSource f s).1 := by
  unfold opSource
  repeat' with_reducible first
    | assumption | extract_lets | apply State.modFol_keeps | apply followExit_keeps | apply takePendSource_keeps
    | apply takeSource_keeps | apply Keeps.ite | apply Keeps.ite_fst

theorem takeEngage_keeps {r0 : State} (a : Axis) (chan : Fin 4) (id : BitVec 8) (c : QCmd) (s : State) (hk : Keeps r0
    s) :
    Keeps r0 (takeEngage a chan id c s) := by
  unfold takeEngage
  repeat' with_reducible first
    | assumption | extract_lets | apply State.modFol_keeps | apply State.set_keeps | apply camValidate_keeps
    | apply engageGear_keeps | apply engageStep_keeps | apply takeCamRegs_keeps | apply Keeps.ite | (intro _ _ _)
    | (intro _ _) | (simp only [Keeps.mk_iff]; apply Keeps.parts) | split

theorem takeUpEngage_keeps {r0 : State} (f : Req) (s : State) (hk : Keeps r0 s) :
    Keeps r0 (takeUpEngage f s).1 := by
  unfold takeUpEngage
  repeat' with_reducible first
    | assumption | extract_lets | apply numberCmd_keeps | apply takeEngage_keeps | apply Keeps.ite
    | apply Keeps.ite_fst

theorem opEngage_keeps {r0 : State} (f : Req) (s : State) (hk : Keeps r0 s) :
    Keeps r0 (opEngage f s).1 := by
  unfold opEngage
  repeat' with_reducible first
    | assumption | extract_lets | apply startRead_keeps | apply takeUpEngage_keeps | apply Keeps.ite
    | apply Keeps.ite_fst

theorem opExit_keeps {r0 : State} (f : Req) (s : State) (hk : Keeps r0 s) :
    Keeps r0 (opExit f s).1 := by
  unfold opExit
  repeat' with_reducible first | assumption | extract_lets | apply exitCmd_keeps | apply Keeps.ite_fst

theorem takeRatio_keeps {r0 : State} (a : Axis) (s : State) (hk : Keeps r0 s) :
    Keeps r0 (takeRatio a s) := by
  unfold takeRatio
  repeat' with_reducible first | assumption | extract_lets | apply State.modFol_keeps

theorem opGearRatio_keeps {r0 : State} (f : Req) (s : State) (hk : Keeps r0 s) :
    Keeps r0 (opGearRatio f s).1 := by
  unfold opGearRatio
  repeat' with_reducible first | assumption | extract_lets | apply takeRatio_keeps | apply Keeps.ite_fst

theorem takeUpCamNext_keeps {r0 : State} (f : Req) (s : State) (hk : Keeps r0 s) :
    Keeps r0 (takeUpCamNext f s).1 := by
  unfold takeUpCamNext
  repeat' with_reducible first
    | assumption | extract_lets | apply camValidate_keeps | apply numberCmd_keeps | apply Keeps.ite
    | apply Keeps.ite_fst

theorem opCamNext_keeps {r0 : State} (f : Req) (s : State) (hk : Keeps r0 s) :
    Keeps r0 (opCamNext f s).1 := by
  unfold opCamNext
  repeat' with_reducible first
    | assumption | extract_lets | apply startRead_keeps | apply Keeps.ite | apply Keeps.ite_fst

theorem opMeasRead_keeps {r0 : State} (f : Req) (s : State) (hk : Keeps r0 s) :
    Keeps r0 (opMeasRead f s).1 := by
  unfold opMeasRead
  repeat' with_reducible first | assumption | extract_lets | apply readEach_keeps

theorem opProbe_keeps {r0 : State} (f : Req) (s : State) (hk : Keeps r0 s) :
    Keeps r0 (opProbe f s).1 := by
  unfold opProbe
  repeat' with_reducible first | assumption | extract_lets | apply probeStart_keeps | apply Keeps.ite_fst

theorem opLkRead_keeps {r0 : State} (f : Req) (s : State) (hk : Keeps r0 s) :
    Keeps r0 (opLkRead f s).1 := by
  unfold opLkRead
  repeat' with_reducible first
    | assumption | extract_lets | apply startRead_keeps | apply Keeps.ite | apply Keeps.ite_fst

theorem opLkWrite_keeps {r0 : State} (f : Req) (s : State) (hk : Keeps r0 s) :
    Keeps r0 (opLkWrite f s).1 := by
  unfold opLkWrite
  repeat' with_reducible first
    | assumption | extract_lets | apply newTicket_keeps | apply touchLine_keeps | apply writeJob_keeps
    | apply Keeps.foldl | apply Keeps.ite_fst | apply Keeps.ite | (intro _ _ _)

theorem opRecipeArm_keeps {r0 : State} (f : Req) (s : State) (hk : Keeps r0 s) :
    Keeps r0 (opRecipeArm f s).1 := by
  unfold opRecipeArm
  repeat' with_reducible first
    | assumption | extract_lets | apply startRead_keeps | apply Keeps.ite | apply Keeps.ite_fst

theorem opRecipeApply_keeps {r0 : State} (f : Req) (s : State) (hk : Keeps r0 s) :
    Keeps r0 (opRecipeApply f s).1 := by
  unfold opRecipeApply
  repeat' with_reducible first | assumption | extract_lets | apply queueCmd_keeps | apply Keeps.ite_fst

theorem opTraceRead_keeps {r0 : State} (f : Req) (s : State) (hk : Keeps r0 s) :
    Keeps r0 (opTraceRead f s).1 := by
  unfold opTraceRead
  repeat' with_reducible first
    | assumption | extract_lets | apply startRead_keeps | apply Keeps.ite | apply Keeps.ite_fst

theorem opSnap_keeps {r0 : State} (s : State) (hk : Keeps r0 s) :
    Keeps r0 (opSnap s).1 := by
  unfold opSnap
  repeat' with_reducible first
    | assumption | extract_lets | apply raiseWhistle_keeps | apply serveWhistles_keeps | apply Keeps.ite_fst

theorem opWhistleAt_keeps {r0 : State} (f : Req) (s : State) (hk : Keeps r0 s) :
    Keeps r0 (opWhistleAt f s).1 := by
  unfold opWhistleAt
  repeat' with_reducible first
    | assumption | extract_lets | apply addSchedule_keeps | apply broadcast_keeps | apply Keeps.ite_fst

theorem opSnapRead_keeps {r0 : State} (f : Req) (s : State) (hk : Keeps r0 s) :
    Keeps r0 (opSnapRead f s).1 := by
  unfold opSnapRead
  repeat' with_reducible first
    | assumption | extract_lets | apply Keeps.ite | apply Keeps.ite_fst | apply Keeps.ite_snd | (intro _ _ _)
    | (intro _ _) | (simp only [Keeps.mk_iff]; apply Keeps.parts) | split

theorem opStackInfo_keeps {r0 : State} (s : State) (hk : Keeps r0 s) :
    Keeps r0 (opStackInfo s).1 := by
  unfold opStackInfo
  repeat' with_reducible first | assumption

theorem opSessionOpen_keeps {r0 : State} (f : Req) (mac : Bool) (s : State) (hk : Keeps r0 s) :
    Keeps r0 (opSessionOpen f mac s).1 := by
  unfold opSessionOpen
  repeat' with_reducible first
    | assumption | extract_lets | apply closeSession_keeps | apply startJob_keeps | apply Keeps.ite_fst
    | apply Keeps.ite

theorem opSessionConfirm_keeps {r0 : State} (f : Req) (s : State) (hk : Keeps r0 s) :
    Keeps r0 (opSessionConfirm f s).1 := by
  unfold opSessionConfirm
  repeat' with_reducible first | assumption | extract_lets | apply startJob_keeps | apply Keeps.ite_fst

theorem opSessionClose_keeps {r0 : State} (f : Req) (s : State) (hk : Keeps r0 s) :
    Keeps r0 (opSessionClose f s).1 := by
  unfold opSessionClose
  repeat' with_reducible first | assumption | extract_lets | apply closeSession_keeps

theorem opKeyInstall_keeps {r0 : State} (f : Req) (s : State) (hk : Keeps r0 s) :
    Keeps r0 (opKeyInstall f s).1 := by
  unfold opKeyInstall
  repeat' with_reducible first | assumption | extract_lets | apply startJob_keeps | apply Keeps.ite_fst

theorem opLifecycle_keeps {r0 : State} (f : Req) (s : State) (hk : Keeps r0 s) :
    Keeps r0 (opLifecycle f s).1 := by
  unfold opLifecycle
  repeat' with_reducible first | assumption | extract_lets | apply startJob_keeps | apply Keeps.ite_fst

theorem opPatchLoad_keeps {r0 : State} (f : Req) (s : State) (hk : Keeps r0 s) :
    Keeps r0 (opPatchLoad f s).1 := by
  unfold opPatchLoad
  repeat' with_reducible first
    | assumption | extract_lets | apply patchLoad_keeps | apply startJob_keeps | apply Keeps.ite_fst

theorem opAuditRead_keeps {r0 : State} (f : Req) (s : State) (hk : Keeps r0 s) :
    Keeps r0 (opAuditRead f s).1 := by
  unfold opAuditRead
  repeat' with_reducible first
    | assumption | extract_lets | apply startRead_keeps | apply Keeps.ite | apply Keeps.ite_fst

theorem opTrngRead_keeps {r0 : State} (f : Req) (s : State) (hk : Keeps r0 s) :
    Keeps r0 (opTrngRead f s).1 := by
  unfold opTrngRead
  repeat' with_reducible first | assumption | extract_lets | apply State.frees_keeps | apply Keeps.ite_fst

theorem opDiagRun_keeps {r0 : State} (f : Req) (s : State) (hk : Keeps r0 s) :
    Keeps r0 (opDiagRun f s).1 := by
  unfold opDiagRun
  repeat' with_reducible first
    | assumption | extract_lets | apply refreshAxis_keeps | apply requestDiag_keeps | apply Keeps.each
    | apply Keeps.ite_fst | apply Keeps.ite | (intro _ _ _) | (intro _ _) | split

theorem opAuxXfer_keeps {r0 : State} (f : Req) (s : State) (hk : Keeps r0 s) :
    Keeps r0 (opAuxXfer f s).1 := by
  unfold opAuxXfer
  repeat' with_reducible first
    | assumption | extract_lets | apply State.raise_keeps | apply newTicket_keeps | apply Keeps.ite_fst
    | apply Keeps.ite | (intro _ _ _) | (intro _ _) | (simp only [Keeps.mk_iff]; apply Keeps.parts)

end Sys2Proof.Machine
end

