-- ==== Sys2Proof/Laws/KeepsFrames.lean ====
section
/-!
SUPPORT. What the operations of frames keep (Laws/Keeps.lean), one lemma for each.
-/

namespace Sys2Proof.Machine

theorem bodyOf_keeps {r0 : State} (op : Nat) (mac : Bool) (f : Req) (s : State) (hk : Keeps r0 s) :
    Keeps r0 (bodyOf op mac f s).1 := by
  unfold bodyOf
  repeat' with_reducible first
    | assumption | extract_lets | apply opAuditRead_keeps | apply opAuxXfer_keeps | apply opAxisRearm_keeps
    | apply opBackstopSet_keeps | apply opCamNext_keeps | apply opCollect_keeps | apply opDiagRun_keeps
    | apply opEngage_keeps | apply opExit_keeps | apply opGearRatio_keeps | apply opGetRetire_keeps
    | apply opGetStatus_keeps | apply opIdent_keeps | apply opJog_keeps | apply opKeyInstall_keeps
    | apply opLifecycle_keeps | apply opLkRead_keeps | apply opLkWrite_keeps | apply opMeasRead_keeps
    | apply opMode_keeps | apply opMove_keeps | apply opPatchLoad_keeps | apply opPosSet_keeps | apply opProbe_keeps
    | apply opRecipeApply_keeps | apply opRecipeArm_keeps | apply opRegBlockWrite_keeps | apply opRegRead_keeps
    | apply opRegWrite_keeps | apply opReset_keeps | apply opResult_keeps | apply opResume_keeps
    | apply opSessionClose_keeps | apply opSessionConfirm_keeps | apply opSessionOpen_keeps | apply opSnapRead_keeps
    | apply opSnap_keeps | apply opSource_keeps | apply opStackInfo_keeps | apply opStop_keeps
    | apply opTraceRead_keeps | apply opTrngRead_keeps | apply opWhistleAt_keeps | apply Keeps.ite_fst
    | apply Keeps.ite | (intro _ _ _) | (intro _ _) | split

theorem auditRefused_keeps {r0 : State} (f : Req) (st : Nat) (s : State) (hk : Keeps r0 s) :
    Keeps r0 (auditRefused f st s) := by
  unfold auditRefused
  repeat' with_reducible first | assumption | extract_lets | apply auditLimited_keeps

theorem routeFrame_keeps {r0 : State} (op : Nat) (f : Req) (s : State) (hk : Keeps r0 s) :
    Keeps r0 (routeFrame op f s) := by
  unfold routeFrame
  repeat' with_reducible first
    | assumption | extract_lets | apply State.inc_keeps | apply sendMsg_keeps | apply Keeps.ite | (intro _ _ _)
    | (intro _ _) | (simp only [Keeps.mk_iff]; apply Keeps.parts)

theorem execChecks_keeps {r0 : State} (op : Nat) (body : Req → State → State × Ans) (f : Req) (s : State) (hbody : ∀ f
    t, Keeps r0 t → Keeps r0 (body f t).1) (hk : Keeps r0 s) :
    Keeps r0 (execChecks op body f s).1 := by
  unfold execChecks
  repeat' with_reducible first | assumption | extract_lets | apply Keeps.ite_fst | apply Keeps.ite | apply hbody

theorem interpret_keeps {r0 : State} (op : Nat) (body : Req → State → State × Ans) (f : Req) (s : State) (hbody : ∀ f
    t, Keeps r0 t → Keeps r0 (body f t).1) (hk : Keeps r0 s) :
    Keeps r0 (interpret op body f s).1 := by
  unfold interpret
  repeat' with_reducible first
    | assumption | extract_lets | apply auditRefused_keeps | apply execChecks_keeps | apply routeFrame_keeps
    | apply Keeps.ite_fst

theorem runCommand_keeps {r0 : State} (r : State × Ans) (hk : Keeps r0 r.1) : Keeps r0 (runCommand r).1 :=
  endFrame_keeps _ (countRefusal_keeps _ _ hk)

theorem acceptFrame_keeps {r0 : State} (p : Port) (flags : BitVec 9) (alive : BitVec 4) (crc : BitVec 16) (sync :
    Bool) (s : State) (hk : Keeps r0 s) :
    Keeps r0 (acceptFrame p flags alive crc sync s) := by
  unfold acceptFrame
  repeat' with_reducible first
    | assumption | extract_lets | apply State.inc_keeps | apply State.modPort_keeps | apply acceptRally_keeps
    | apply roleFromFrame_keeps | apply Keeps.ite

theorem discardFrame_keeps {r0 : State} (p : Port) (flags : BitVec 9) (h : Word) (t : Nat) (s : State) (hk : Keeps r0
    s) :
    Keeps r0 (discardFrame p flags h t s) := by
  unfold discardFrame
  repeat' with_reducible first
    | assumption | extract_lets | apply State.inc_keeps | apply State.modPort_keeps | apply statusReply_keeps

theorem executeFrame_keeps {r0 : State} (op : Nat) (body : Req → State → State × Ans) (f : Req) (sess : Option
    (Session × Nat)) (s : State) (hbody : ∀ f t, Keeps r0 t → Keeps r0 (body f t).1) (hk : Keeps r0 s) :
    Keeps r0 (executeFrame op body f sess s) := by
  unfold executeFrame
  repeat' with_reducible first
    | assumption | extract_lets | apply deliver_keeps | apply endFrame_keeps | apply interpret_keeps
    | apply runCommand_keeps | apply Keeps.ite

theorem markRead_keeps {r0 : State} (idx : BitVec 4) (f : Req) (s : State) (hk : Keeps r0 s) :
    Keeps r0 (markRead idx f s) := by
  unfold markRead
  repeat' with_reducible first
    | assumption | extract_lets | apply Keeps.ite | (intro _ _ _) | (intro _ _)
    | (simp only [Keeps.mk_iff]; apply Keeps.parts)

theorem executeRouted_keeps {r0 : State} (op : Nat) (body : Req → State → State × Ans) (idx : BitVec 4) (f : Req) (s :
    State) (hbody : ∀ f t, Keeps r0 t → Keeps r0 (body f t).1) (hk : Keeps r0 s) :
    Keeps r0 (executeRouted op body idx f s) := by
  unfold executeRouted
  repeat' with_reducible first
    | assumption | extract_lets | apply deliverUp_keeps | apply endFrame_keeps | apply execChecks_keeps
    | apply markRead_keeps | apply runCommand_keeps | apply Keeps.ite_fst | apply Keeps.ite | apply hbody
    | (intro _ _ _) | (intro _ _) | split

theorem frameCommand_keeps {r0 : State} (op : Nat) (body : Req → State → State × Ans) (f : Req) (s0 : State) (hbody :
    ∀ f t, Keeps r0 t → Keeps r0 (body f t).1) (hk : Keeps r0 s0) :
    Keeps r0 (frameCommand op body f s0) := by
  unfold frameCommand
  repeat' with_reducible first
    | assumption | extract_lets | apply State.at_keeps | apply acceptFrame_keeps | apply discardFrame_keeps
    | apply executeFrame_keeps | apply executeRouted_keeps | apply Keeps.ite

theorem shiftWindow_keeps {r0 : State} (w : Window) (master : Bool) (s : State) (hk : Keeps r0 s) :
    Keeps r0 (shiftWindow w master s).1 := by
  unfold shiftWindow
  repeat' with_reducible first
    | assumption | extract_lets | apply State.inc_keeps | apply State.modPort_keeps | apply State.setB_keeps
    | apply Keeps.ite

theorem macFailure_keeps {r0 : State} (p : Port) (s : State) (hk : Keeps r0 s) :
    Keeps r0 (macFailure p s) := by
  unfold macFailure
  repeat' with_reducible first
    | assumption | extract_lets | apply State.modSess_keeps | apply closeSession_keeps | apply Keeps.ite

theorem resend_keeps {r0 : State} (p : Port) (flags : BitVec 9) (e : StoreEnt) (t : Nat) (s : State) (hk : Keeps r0 s) :
    Keeps r0 (resend p flags e t s) := by
  unfold resend
  repeat' with_reducible first
    | assumption | extract_lets | apply State.inc_keeps | apply State.modPort_keeps | apply healthOf_keeps
    | apply putOut_keeps | apply Keeps.ite | apply Keeps.ite_fst | apply Keeps.ite_snd | (intro _ _ _) | (intro _ _)
    | (simp only [Keeps.mk_iff]; apply Keeps.parts) | split

theorem judgeFrame_keeps {r0 : State} (w : Window) (extra : BitVec 9) (s : State) (hk : Keeps r0 s) :
    Keeps r0 (judgeFrame w extra s) := by
  unfold judgeFrame
  repeat' with_reducible first
    | assumption | extract_lets | apply acceptFrame_keeps | apply bodyOf_keeps | apply discardFrame_keeps
    | apply executeFrame_keeps | apply resend_keeps | apply Keeps.ite | (intro _ _ _) | (intro _ _) | split

theorem checkFrame_keeps {r0 : State} (w : Window) (master : Bool) (extra : BitVec 9) (s : State) (hk : Keeps r0 s) :
    Keeps r0 (checkFrame w master extra s) := by
  unfold checkFrame
  repeat' with_reducible first
    | assumption | extract_lets | apply discardFrame_keeps | apply judgeFrame_keeps | apply macFailure_keeps
    | apply Keeps.ite | (intro _ _ _) | (intro _ _) | split

theorem takeRoles_keeps {r0 : State} (l : List (Option (BitVec 4) × Bool × Bool)) (s : State) (hk : Keeps r0 s) :
    Keeps r0 (takeRoles l s) := by
  unfold takeRoles
  repeat' with_reducible first
    | assumption | extract_lets | apply State.each_keeps | apply State.setB_keeps | apply Keeps.each
    | apply Keeps.ite | apply Keeps.ite_fst | apply Keeps.ite_snd | (intro _ _ _)

theorem windowReset_keeps {r0 : State} (p : Port) (s : State) (hk : Keeps r0 s) :
    Keeps r0 (windowReset p s) := by
  unfold windowReset
  repeat' with_reducible first
    | assumption | extract_lets | apply beginReset_keeps | apply Keeps.ite | (intro _ _ _) | (intro _ _)
    | (simp only [Keeps.mk_iff]; apply Keeps.parts) | split

theorem sleepDue_keeps {r0 : State} (s : State) (hk : Keeps r0 s) :
    Keeps r0 (sleepDue s) := by
  unfold sleepDue
  repeat' with_reducible first
    | assumption | extract_lets | apply Keeps.ite | apply Keeps.ite_fst | apply Keeps.ite_snd | (intro _ _ _)
    | (intro _ _) | (simp only [Keeps.mk_iff]; apply Keeps.parts)

theorem portWindow_keeps {r0 : State} (w : Window) (master : Bool) (s0 : State) (hk : Keeps r0 s0) :
    Keeps r0 (portWindow w master s0) := by
  unfold portWindow
  repeat' with_reducible first
    | assumption | extract_lets | apply State.at_keeps | apply State.modPort_keeps | apply checkFrame_keeps
    | apply shiftWindow_keeps | apply sleepDue_keeps | apply takeRoles_keeps | apply windowReset_keeps
    | apply Keeps.ite

theorem frameReceive_keeps {r0 : State} (w : Window) (s : State) (hk : Keeps r0 s) :
    Keeps r0 (frameReceive w s) := by
  unfold frameReceive
  repeat' with_reducible first | assumption | extract_lets | apply portWindow_keeps

theorem hpMasterTransfer_keeps {r0 : State} (w : Window) (s : State) (hk : Keeps r0 s) :
    Keeps r0 (hpMasterTransfer w s) := by
  unfold hpMasterTransfer
  repeat' with_reducible first | assumption | extract_lets | apply portWindow_keeps | apply Keeps.ite

theorem frameFlitReceive_keeps {r0 : State} (idx : BitVec 4) (h : Word) (words : List Word) (t : Nat) (s0 : State) (hk
    : Keeps r0 s0) :
    Keeps r0 (frameFlitReceive idx h words t s0) := by
  unfold frameFlitReceive
  repeat' with_reducible first
    | assumption | extract_lets | apply State.at_keeps | apply bodyOf_keeps | apply executeRouted_keeps
    | apply Keeps.ite

theorem replyFlitReceive_keeps {r0 : State} (idx : BitVec 4) (h : Word) (words : List Word) (s : State) (hk : Keeps r0
    s) :
    Keeps r0 (replyFlitReceive idx h words s) := by
  unfold replyFlitReceive
  repeat' with_reducible first
    | assumption | extract_lets | apply Keeps.ite | (intro _ _ _) | (intro _ _)
    | (simp only [Keeps.mk_iff]; apply Keeps.parts)

end Sys2Proof.Machine
end

