-- ==== Sys2Proof/Laws/KeepsLockerDone.lean ====
section
/-!
SUPPORT. What the operations of completed Locker accesses keep (Laws/Keeps.lean), one lemma for each.
-/

namespace Sys2Proof.Machine

theorem lateAnswer_keeps {r0 : State} (r : LkRead) (a : Ans) (s : State) (hk : Keeps r0 s) :
    Keeps r0 (lateAnswer r a s) := by
  unfold lateAnswer
  repeat' with_reducible first
    | assumption | extract_lets | apply State.modPort_keeps | apply barrierRelease_keeps | apply countRefusal_keeps
    | apply deliver_keeps | apply Keeps.ite

theorem readResult_keeps {r0 : State} (r : LkRead) (s : State) (hk : Keeps r0 s) :
    Keeps r0 (readResult r s).1 := by
  unfold readResult
  repeat' with_reducible first
    | assumption | extract_lets | apply camEntryOf_keeps | apply queueCmd_keeps | apply takeUpCamNext_keeps
    | apply takeUpEngage_keeps | apply Keeps.ite | apply Keeps.ite_fst | apply Keeps.ite_snd | (intro _ _ _)
    | (intro _ _) | (simp only [Keeps.mk_iff]; apply Keeps.parts) | split

theorem replyLine_keeps {r0 : State} (p : Port) (k : ReadKey) (line : Nat) (d : Option (List Byte)) (s : State) (hk :
    Keeps r0 s) :
    Keeps r0 (replyLine p k line d s) := by
  unfold replyLine
  repeat' with_reducible first
    | assumption | extract_lets | apply endRead_keeps | apply lateAnswer_keeps | apply readResult_keeps
    | apply Keeps.ite | apply Keeps.ite_fst | apply Keeps.ite_snd | (intro _ _ _) | (intro _ _)
    | (simp only [Keeps.mk_iff]; apply Keeps.parts) | split

theorem lkReadTimeout_keeps {r0 : State} (p : Port) (k : ReadKey) (s : State) (hk : Keeps r0 s) :
    Keeps r0 (lkReadTimeout p k s) := by
  unfold lkReadTimeout
  repeat' with_reducible first
    | assumption | extract_lets | apply State.at_keeps | apply State.inc_keeps | apply endRead_keeps
    | apply lateAnswer_keeps | apply Keeps.ite | (intro _ _ _) | (intro _ _)
    | (simp only [Keeps.mk_iff]; apply Keeps.parts) | split

theorem lineRead_keeps {r0 : State} (j : LkJob) (r : LineRes) (s : State) (hk : Keeps r0 s) :
    Keeps r0 (lineRead j r s) := by
  unfold lineRead
  repeat' with_reducible first
    | assumption | extract_lets | apply armLine_keeps | apply camLine_keeps | apply prefetchLine_keeps
    | apply replyLine_keeps | apply scrubLine_keeps | apply Keeps.ite | (intro _ _ _) | (intro _ _)
    | (simp only [Keeps.mk_iff]; apply Keeps.parts) | split

theorem lineReadDone_keeps {r0 : State} (b : Fin 8) (s : State) (hk : Keeps r0 s) :
    Keeps r0 (lineReadDone b s) := by
  unfold lineReadDone
  split
  · exact hk
  · split
    · exact hk
    · split
      · exact hk
      · rename_i h
        have h1 := endAccess_keeps hk h
        exact Keeps.ite (lineRead_keeps _ _ _ (countLine_keeps _ _ _ _ h1)) (countLine_keeps _ _ _ _ h1)

theorem lineWritten_keeps {r0 : State} (j : LkJob) (ok : Bool) (s : State) (hk : Keeps r0 s) :
    Keeps r0 (lineWritten j ok s) := by
  unfold lineWritten
  repeat' with_reducible first
    | assumption | extract_lets | apply audit_keeps | apply auditPut_keeps | apply endTicket_keeps
    | apply imageLine_keeps | apply storeLine_keeps | apply traceLine_keeps | apply Keeps.ite | (intro _ _ _)
    | (intro _ _) | (simp only [Keeps.mk_iff]; apply Keeps.parts) | split

theorem lineWriteDone_keeps {r0 : State} (b : Fin 8) (rb1 rb2 : List Byte) (s : State) (hk : Keeps r0 s) :
    Keeps r0 (lineWriteDone b rb1 rb2 s) := by
  unfold lineWriteDone
  split
  · exact hk
  · split
    · exact hk
    · split
      · exact hk
      · rename_i h
        have h1 := fun line data => finishWrite_keeps (r0 := r0) line data rb1 rb2 _ (endAccess_keeps hk h)
        exact Keeps.ite (lineWritten_keeps _ _ _ (h1 _ _)) (h1 _ _)

/-- Keeping the stored limit words leaves what `Keeps` speaks of as it was. -/
theorem bkTable_keeps {r0 : State} (x : List Word) (s : State) (hk : Keeps r0 s) :
    Keeps r0 { s with sec := { s.sec with bkTable := x } } := Keeps.mk_iff.mpr hk.parts

theorem bkStoreDone_keeps {r0 : State} (ok : Bool) (s : State) (hk : Keeps r0 s) :
    Keeps r0 (bkStoreDone ok s) := by
  unfold bkStoreDone
  apply Keeps.ite hk
  extract_lets img b s1 s2
  have h1 : Keeps r0 s1 := Keeps.mk_iff.mpr hk.parts
  have h2 : Keeps r0 s2 := State.raise_keeps _ _ (State.set_keeps _ _ _ h1)
  clear_value s2
  apply Keeps.ite
  · exact audit_keeps _ _ _ _ _ _ _ (State.set_keeps _ _ _ (State.set_keeps _ _ _ (bkTable_keeps s2.bk.table _ (setImage_keeps _ _ h2))))
  · exact audit_keeps _ _ _ _ _ _ _ (State.raise_keeps _ _ h2)

end Sys2Proof.Machine
end

