-- ==== Sys2Proof/Laws/KeepsAuxMaster.lean ====
section
/-!
SUPPORT. What the operations of the AUX master keep (Laws/Keeps.lean), one lemma for each.
-/

namespace Sys2Proof.Machine

theorem serRead_keeps {r0 : State} (a : Axis) (s : State) (hk : Keeps r0 s) :
    Keeps r0 (serRead a s) := by
  unfold serRead
  repeat' with_reducible first
    | assumption | extract_lets | apply State.at_keeps | apply State.modFb_keeps | apply State.raise_keeps
    | apply State.set_keeps | apply fbAfter_keeps | apply Keeps.ite | (intro _ _ _) | (intro _ _)
    | (simp only [Keeps.mk_iff]; apply Keeps.parts) | split | dsimp +zetaDelta only

theorem auxRun_keeps {r0 : State} (x : Axis ⊕ AuxXfer) (sel bits : Nat) (tx : List Bool) (s : State) (hk : Keeps r0 s) :
    Keeps r0 (auxRun x sel bits tx s) := by
  unfold auxRun
  repeat' with_reducible first
    | assumption | extract_lets | apply State.set_keeps | apply Keeps.ite | (intro _ _ _) | (intro _ _)
    | (simp only [Keeps.mk_iff]; apply Keeps.parts)

theorem auxTransferStart_keeps {r0 : State} (s : State) (hk : Keeps r0 s) :
    Keeps r0 (auxTransferStart s) := by
  unfold auxTransferStart
  repeat' with_reducible first
    | assumption | extract_lets | apply auxRun_keeps | apply Keeps.ite | (intro _ _ _) | (intro _ _)
    | (simp only [Keeps.mk_iff]; apply Keeps.parts) | split

theorem auxTransferDone_keeps {r0 : State} (bits : List Bool) (s : State) (hk : Keeps r0 s) :
    Keeps r0 (auxTransferDone bits s) := by
  unfold auxTransferDone
  repeat' with_reducible first
    | assumption | extract_lets | apply State.at_keeps | apply State.set_keeps | apply endTicket_keeps
    | apply Keeps.ite | (intro _ _ _) | (intro _ _) | (simp only [Keeps.mk_iff]; apply Keeps.parts) | split
    | dsimp +zetaDelta only

end Sys2Proof.Machine
end

