-- ==== Sys2Proof/Laws/KeepsTap.lean ====
section
/-!
SUPPORT. What the operations of the test access port keep (Laws/Keeps.lean), one lemma for each.
-/

namespace Sys2Proof.Machine

theorem takeoverBegin_keeps {r0 : State} (s : State) (hk : Keeps r0 s) :
    Keeps r0 (takeoverBegin s) := by
  unfold takeoverBegin
  repeat' with_reducible first
    | assumption | extract_lets | apply enableLost_keeps | apply linkGoesDown_keeps | apply refreshAll_keeps
    | apply Keeps.each | apply Keeps.ite | (intro _ _ _) | (intro _ _)
    | (simp only [Keeps.mk_iff]; apply Keeps.parts) | split | dsimp +zetaDelta only

theorem tapLoad_keeps {r0 : State} (i : TapInstr) (s : State) (hk : Keeps r0 s) :
    Keeps r0 (tapLoad i s) := by
  unfold tapLoad
  repeat' with_reducible first
    | assumption | extract_lets | apply refreshAll_keeps | apply takeoverBegin_keeps | apply Keeps.ite
    | (intro _ _ _) | (intro _ _) | (simp only [Keeps.mk_iff]; apply Keeps.parts) | split | dsimp +zetaDelta only

theorem tapReset_keeps {r0 : State} (s : State) (hk : Keeps r0 s) :
    Keeps r0 (tapReset s) := by
  unfold tapReset
  repeat' with_reducible first
    | assumption | extract_lets | apply refreshAll_keeps | apply Keeps.ite | (intro _ _ _) | (intro _ _)
    | (simp only [Keeps.mk_iff]; apply Keeps.parts) | split | dsimp +zetaDelta only

theorem tapExtest_keeps {r0 : State} (s : State) (hk : Keeps r0 s) :
    Keeps r0 (tapExtest s) := by
  unfold tapExtest
  repeat' with_reducible first | assumption | extract_lets | apply tapLoad_keeps

theorem tapClamp_keeps {r0 : State} (s : State) (hk : Keeps r0 s) :
    Keeps r0 (tapClamp s) := by
  unfold tapClamp
  repeat' with_reducible first | assumption | extract_lets | apply tapLoad_keeps

theorem tapHighz_keeps {r0 : State} (s : State) (hk : Keeps r0 s) :
    Keeps r0 (tapHighz s) := by
  unfold tapHighz
  repeat' with_reducible first | assumption | extract_lets | apply tapLoad_keeps

theorem tapIdcode_keeps {r0 : State} (s : State) (hk : Keeps r0 s) :
    Keeps r0 (tapIdcode s) := by
  unfold tapIdcode
  repeat' with_reducible first | assumption | extract_lets | apply tapLoad_keeps

theorem tapSample_keeps {r0 : State} (pins : BitVec 273) (s : State) (hk : Keeps r0 s) :
    Keeps r0 (tapSample pins s) := by
  unfold tapSample
  repeat' with_reducible first
    | assumption | extract_lets | apply tapLoad_keeps | apply Keeps.ite | (intro _ _ _) | (intro _ _)
    | (simp only [Keeps.mk_iff]; apply Keeps.parts)

theorem tapBypass_keeps {r0 : State} (op : BitVec 8) (s : State) (hk : Keeps r0 s) :
    Keeps r0 (tapBypass op s) := by
  unfold tapBypass
  repeat' with_reducible first | assumption | extract_lets | apply tapLoad_keeps | apply Keeps.ite

theorem tapGatetest_keeps {r0 : State} (s : State) (hk : Keeps r0 s) :
    Keeps r0 (tapGatetest s) := by
  unfold tapGatetest
  repeat' with_reducible first
    | assumption | extract_lets | apply tapLoad_keeps | apply Keeps.ite | (intro _ _ _) | (intro _ _)
    | (simp only [Keeps.mk_iff]; apply Keeps.parts)

theorem tapPrivate_keeps {r0 : State} (op : BitVec 8) (s : State) (hk : Keeps r0 s) :
    Keeps r0 (tapPrivate op s) := by
  unfold tapPrivate
  repeat' with_reducible first | assumption | extract_lets | apply tapLoad_keeps | apply Keeps.ite

theorem gateCommands_keeps {r0 : State} (cells : BitVec 273) (s : State) (hk : Keeps r0 s) :
    Keeps r0 (gateCommands cells s) := by
  unfold gateCommands
  repeat' with_reducible first
    | assumption | extract_lets | apply State.count_keeps | apply noteGates_keeps | apply Keeps.each
    | apply Keeps.ite | (intro _ _ _) | (intro _ _) | (simp only [Keeps.mk_iff]; apply Keeps.parts) | split
    | dsimp +zetaDelta only

theorem tapUpdateDr_keeps {r0 : State} (cells : BitVec 273) (s : State) (hk : Keeps r0 s) :
    Keeps r0 (tapUpdateDr cells s) := by
  unfold tapUpdateDr
  repeat' with_reducible first
    | assumption | extract_lets | apply gateCommands_keeps | apply Keeps.ite | (intro _ _ _) | (intro _ _)
    | (simp only [Keeps.mk_iff]; apply Keeps.parts) | split

theorem takeoverEnd_keeps {r0 : State} (ena : BitVec 16) (s : State) (hk : Keeps r0 s) :
    Keeps r0 (takeoverEnd ena s) := by
  unfold takeoverEnd
  repeat' with_reducible first
    | assumption | extract_lets | apply enaFall_keeps | apply enaRise_keeps | apply refreshAll_keeps
    | apply Keeps.each | apply Keeps.ite | (intro _ _ _) | (intro _ _)
    | (simp only [Keeps.mk_iff]; apply Keeps.parts) | split | dsimp +zetaDelta only

theorem gatetestCutoff_keeps {r0 : State} (s : State) (hk : Keeps r0 s) :
    Keeps r0 (gatetestCutoff s) := by
  unfold gatetestCutoff
  repeat' with_reducible first
    | assumption | extract_lets | apply refreshAll_keeps | apply Keeps.ite | (intro _ _ _) | (intro _ _)
    | (simp only [Keeps.mk_iff]; apply Keeps.parts)

end Sys2Proof.Machine
end

