-- ==== Sys2Proof/Laws/KeepsCommand.lean ====
section
/-!
SUPPORT. What the operations of commands keep (Laws/Keeps.lean), one lemma for each.
-/

namespace Sys2Proof.Machine

theorem timed_keeps {r0 : State} (t : Nat) (f : State → State) (s : State) (hf : ∀ t, Keeps r0 t → Keeps r0 (f t)) (hk
    : Keeps r0 s) :
    Keeps r0 (timed t f s) := by
  unfold timed
  repeat' with_reducible first | assumption | extract_lets | apply State.at_keeps | apply Keeps.ite | apply hf

theorem whileRunning_keeps {r0 : State} (f : State → State) (s : State) (hf : ∀ t, Keeps r0 t → Keeps r0 (f t)) (hk :
    Keeps r0 s) :
    Keeps r0 (whileRunning f s) := by
  unfold whileRunning
  repeat' with_reducible first | assumption | extract_lets | apply Keeps.ite | apply hf

theorem inDomain_keeps {r0 : State} (n : Nat) (f : State → State) (s : State) (hf : ∀ t, Keeps r0 t → Keeps r0 (f t))
    (hk : Keeps r0 s) :
    Keeps r0 (inDomain n f s) := by
  unfold inDomain
  repeat' with_reducible first | assumption | extract_lets | apply Keeps.ite | apply hf

theorem onPins_keeps {r0 : State} (f : State → State) (s : State) (hf : ∀ t, Keeps r0 t → Keeps r0 (f t)) (hk : Keeps
    r0 s) :
    Keeps r0 (onPins f s) := by
  unfold onPins
  repeat' with_reducible first | assumption | extract_lets | apply Keeps.ite | apply hf

theorem hostWrite_keeps {r0 : State} (via : Port) (bk : Bool) (addr typ : Nat) (data : Word) (s : State) (hk : Keeps
    r0 s) :
    Keeps r0 (hostWrite via bk addr typ data s) := by
  unfold hostWrite
  repeat' with_reducible first
    | assumption | extract_lets | apply countRefusal_keeps | apply writeReg_keeps | apply Keeps.ite | (intro _ _ _)
    | (intro _ _) | (simp only [Keeps.mk_iff]; apply Keeps.parts)

theorem fieldWrite_keeps {r0 : State} (via : Port) (bk : Bool) (f : Fld) (v : Nat) (s : State) (hk : Keeps r0 s) :
    Keeps r0 (fieldWrite via bk f v s) := by
  unfold fieldWrite
  repeat' with_reducible first | assumption | extract_lets | apply hostWrite_keeps

theorem strobe_keeps {r0 : State} (via : Port) (bk : Bool) (f : Fld) (s : State) (hk : Keeps r0 s) :
    Keeps r0 (strobe via bk f s) := by
  unfold strobe
  repeat' with_reducible first | assumption | extract_lets | apply fieldWrite_keeps

theorem chanBoundary_keeps {r0 : State} (c : Chan) (s : State) (hk : Keeps r0 s) :
    Keeps r0 (chanBoundary c s) := by
  unfold chanBoundary
  repeat' with_reducible first
    | assumption | extract_lets | apply periodBoundary_keeps | apply privBoundary_keeps | apply Keeps.ite
    | (intro _ _ _) | (intro _ _) | split

theorem chanCommit_keeps {r0 : State} (c : Chan) (s : State) (hk : Keeps r0 s) :
    Keeps r0 (chanCommit c s) := by
  unfold chanCommit
  repeat' with_reducible first
    | assumption | extract_lets | apply strobe_keeps | apply Keeps.ite | (intro _ _ _) | (intro _ _) | split

theorem supplyBit_keeps {r0 : State} (i : Nat) (good : Bool) (s : State) (hk : Keeps r0 s) :
    Keeps r0 (supplyBit i good s) := by
  unfold supplyBit
  repeat' with_reducible first
    | assumption | extract_lets | apply Keeps.ite | (intro _ _ _) | (intro _ _)
    | (simp only [Keeps.mk_iff]; apply Keeps.parts)

theorem storeTable_keeps {r0 : State} (s : State) (hk : Keeps r0 s) :
    Keeps r0 (storeTable s) := by
  unfold storeTable
  repeat' with_reducible first
    | assumption | extract_lets | apply strobe_keeps | apply Keeps.ite | (intro _ _ _) | (intro _ _)
    | (simp only [Keeps.mk_iff]; apply Keeps.parts)

theorem loadOptions_keeps {r0 : State} (tableOk : Bool) (badKeys : BitVec 16) (badRecs : List Nat) (s : State) (hk :
    Keeps r0 s) :
    Keeps r0 (loadOptions tableOk badKeys badRecs s) := by
  unfold loadOptions
  repeat' with_reducible first
    | assumption | extract_lets | apply keysUnreadable_keeps | apply optionLoad_keeps | apply Keeps.ite

end Sys2Proof.Machine
end

