-- ==== Sys2Proof/Laws/Ends.lean ====
section
/-!
SUPPORT. How a command ends: without a Whistle raised, the state of its work but for a job of the audit log; and the parts
of the end of a frame (R372, R378, R360).
-/

namespace Sys2Proof.Machine

theorem JobsKept.refl (s : State) : JobsKept s s := rfl

theorem JobsKept.trans {r s t : State} (h : JobsKept r s) (k : JobsKept s t) : JobsKept r t := Eq.trans k h

/-- A job that another one joins makes a request only where it made one before. -/
theorem LkJob.asks_joined {pre post : List LkJob} {j x : LkJob} (hx : x ≠ j) (h : x.asks (pre ++ j :: post) = true) :
    x.asks (pre ++ post) = true := by
  simp only [LkJob.asks, beq_iff_eq, List.find?_append, List.find?_cons] at h ⊢
  cases hp : pre.find? x.meets with
  | some y => simpa [hp] using h
  | none =>
    cases hm : x.meets j with
    | true => simp [hp, hm] at h; exact absurd h.symm hx
    | false => simpa [hp, hm] using h

/-- An audit write among the Locker's jobs leaves the others as they were. -/
theorem addJob_kept (s : State) (j : LkJob) (h : j.why = .audit) : JobsKept s (addJob j s) := by
  have hr : j.rewrites = false := by simp [LkJob.rewrites, h]
  have hl := List.takeWhile_append_dropWhile (p := fun x : LkJob => !x.rewrites) (l := s.lk.jobs)
  simp only [JobsKept, addJob, hr, Bool.false_eq_true, if_false, setJobs]
  rw [List.filter_map, List.filter_congr (q := fun x : LkJob => x.why != .audit)]
  · rw [List.filter_append, List.filter_cons, h, bne_self_eq_false, if_neg Bool.false_ne_true, ← List.filter_append, hl]
    refine (List.map_congr_left fun x hx => ?_).trans (List.map_id _)
    have hxj : x ≠ j := by
      rintro rfl
      simp [h] at hx
    split
    · rename_i hc
      simp only [Bool.and_eq_true, Bool.not_eq_true'] at hc
      have := LkJob.asks_joined hxj hc.1
      rw [hl, hc.2] at this
      cases this
    · rfl
  · intro x _
    simp only [Function.comp]
    split <;> rfl

/-- The writing of audit entries starts with at most one job (R494). -/
theorem auditStart_settles (u : State) :
    auditStart u = { u with lk := { u.lk with jobs := (auditStart u).lk.jobs } } ∧ JobsKept u (auditStart u) := by
  unfold auditStart
  split
  · exact ⟨rfl, rfl⟩
  · exact ⟨rfl, addJob_kept _ _ rfl⟩

/-- Waking the planner sets the next work and nothing else (R68). -/
theorem wakePlanner_eq (u : State) : wakePlanner u = { u with plnWork := (wakePlanner u).plnWork } := by
  unfold wakePlanner
  split <;> rfl

/-- What the end of a command does where no Whistle is raised: at most a job of the audit log more (R494), and the planner's next
work (R68). -/
def settle (u : State) : State := wakePlanner (auditStart u)

theorem settle_eq (u : State) :
    settle u = { u with plnWork := (settle u).plnWork, lk := { u.lk with jobs := (settle u).lk.jobs } } ∧ JobsKept u (settle u) := by
  obtain ⟨h, hj⟩ := auditStart_settles u
  have e : settle u = { auditStart u with plnWork := (settle u).plnWork } := wakePlanner_eq (auditStart u)
  have hl : (settle u).lk = (auditStart u).lk := by rw [e]
  refine ⟨?_, ?_⟩
  · rw [hl]; rw [h] at e; rw [e]
  · simpa only [JobsKept, hl] using hj

/-- The end of a command that has raised no Whistle. -/
theorem finish_served (u : State) (h : u.whReq = []) : finish u = settle u := by
  simp only [finish, settle, serveWhistles, h, whistleNow]
  congr 2
  cases u
  cases h
  rfl

/-- A command whose work raises no Whistle ends in the state of its work, but for a job of the audit log and the planner's next
work. -/
theorem runCmd_served {f : State → State} {s : State} (h : (f { s with cv := { s.cv with tx := [] } }).whReq = []) :
    runCmd f s = .next (settle (f { s with cv := { s.cv with tx := [] } })) := by
  rw [runCmd, finish_served _ h]

theorem KeepsFields.refl (l : List Fld) (s : State) : KeepsFields l s s := fun _ _ => rfl

theorem KeepsFields.trans {l : List Fld} {r s t : State} (h : KeepsFields l r s) (k : KeepsFields l s t) : KeepsFields l r t :=
  fun g hg => (k g hg).trans (h g hg)

theorem KeepsFields.set {l : List Fld} {s t : State} (h : KeepsFields l s t) {f : Fld} (v : Nat) (hf : f ∈ l) :
    KeepsFields l s (t.set f v) := fun g hg => (State.get_set_other t f g v (hg f hf)).trans (h g hg)

theorem KeepsFields.congr {l : List Fld} {s t u : State} (h : KeepsFields l s t) (e : u.regs = t.regs) : KeepsFields l s u :=
  fun g hg => (show u.get g = t.get g by simp only [State.get, e]).trans (h g hg)

theorem get_le_max (s : State) (f : Fld) : s.get f ≤ fieldMax f.hi f.lo := by
  have : s.get f < 2 ^ (f.hi + 1 - f.lo) := by
    apply Nat.lt_pow_two_of_testBit
    intro i hi
    simp only [State.get, getBits_testBit]
    have : ¬ (f.lo + i ≤ f.hi) := by omega
    simp [this]
  simp only [fieldMax]; omega

theorem healthState_congr {s t : State} (h : t.regs = s.regs) (hq : t.ip.cmdq = s.ip.cmdq) : healthState t = healthState s := by
  have hg : t.get = s.get := funext fun f => by simp only [State.get, h]
  have hf : t.flag = s.flag := funext fun f => by simp only [State.flag, hg]
  have hA : anyFault t = anyFault s := funext fun a => by simp only [anyFault, hg, hf]
  have hB : hpAttn t = hpAttn s := by simp only [hpAttn, hg, hf]
  simp only [healthState, hA, hB, hq]

/-- The state after `endFrame`. -/
theorem endFrame_eq (s : State) : endFrame s = { s with
    regs := (if s.ip.unlocked then s.set F.SYS_ACC_STAT.UNLOCK_LAPSED 1 else s).regs
    ip := { s.ip with unlocked := false, loLatch := [] } } := by
  unfold endFrame State.raise
  split <;> rename_i h <;> simp [State.set]

theorem countRefusal_eq (a : Ans) (s : State) : countRefusal a s = { s with regs := (countRefusal a s).regs } := by
  unfold countRefusal
  split
  · split <;> rfl
  · rfl

end Sys2Proof.Machine
end

