-- ==== Sys2Proof/Laws/FrameAnswers.lean ====
section
/-!
SUPPORT. What a command of a frame does once its port has heard it and the interpreter has admitted it: one lemma carries
acceptance (R315, R316), the checks of R333, the reply (R318) and the end of the frame (R372).
-/

namespace Sys2Proof.Machine

/-- A heard frame of an opcode other than NOP and rally sync is interpreted in the state of its acceptance. -/
theorem frameCommand_heard {op : Nat} {body : Req → State → State × Ans} {f : Req} {s u : State} {a : Ans}
    (hh : Heard f s) (ho : op ≠ 0x00 ∧ op ≠ 0x01) (hi : interpret op body f (accepted op f s) = (u, a)) :
    frameCommand op body f { s with cv := { s.cv with tx := [] } } =
      deliver (sessN s f.port) 0 (BitVec.ofNat 8 op) f a f.t (endFrame (countRefusal a u)) := by
  unfold accepted at hi
  dsimp only at hi
  have hp : f.port ≠ .up := by rcases hh.port with h | h <;> simp [h]
  have hears : ∀ m, portHears (({ s with cv := { s.cv with tx := [] } } : State).at_ f.t) f.port m = portHears s f.port m := fun _ => rfl
  have hs : sessN (({ s with cv := { s.cv with tx := [] } } : State).at_ f.t) f.port = sessN s f.port := by
    rcases hh.port with h | h <;> rw [h] <;> rfl
  have hr : (({ s with cv := { s.cv with tx := [] } } : State).at_ f.t).ip.running = true := hh.runs
  unfold frameCommand
  dsimp only
  rw [if_neg hp, hears, hears, if_neg (not_not.mpr hh.hears), if_neg (not_not.mpr hr), hs]
  unfold executeFrame
  dsimp only
  rw [if_neg (by simp [ho])]
  simp only [hi, runCommand]

/-- The checks of R333 in orders 1 to 5 pass: the body of the opcode runs. -/
theorem interpret_admitted {op : Nat} {body : Req → State → State × Ans} {f : Req} {a : State} (ha : Admitted op f a) :
    interpret op body f a = body f a := by
  unfold interpret
  have hd : (op != 0x02 && f.dev.toNat != devId a) = false := by rcases ha.device with h | h <;> simp [h]
  simp only [ha.opcode, ha.length, hd, ha.cls, not_true_eq_false, if_false, Bool.false_and, Bool.false_eq_true, ne_eq]
  rw [execChecks, if_pos ha.mode]

theorem KeepsFields.endFrame {l : List Fld} {s t : State} (h : KeepsFields l s t) (hf : F.SYS_ACC_STAT.UNLOCK_LAPSED ∈ l) :
    KeepsFields l s (endFrame t) := by
  unfold Machine.endFrame
  refine KeepsFields.congr ?_ (t := if t.ip.unlocked then t.raise F.SYS_ACC_STAT.UNLOCK_LAPSED else t) rfl
  split
  · exact KeepsFields.set h 1 hf
  · exact h

theorem KeepsFields.countRefusal {l : List Fld} {s t : State} (h : KeepsFields l s t) (a : Ans)
    (hf : F.CMD_REFUSE.REFUSE_CNT ∈ l) (hg : F.CMD_REFUSE.LAST_CODE ∈ l) : KeepsFields l s (countRefusal a t) := by
  unfold Machine.countRefusal
  split
  · split
    · exact KeepsFields.set (KeepsFields.set h _ hf) _ hg
    · exact h
  · exact h

theorem NamesAnother.congr {f : Req} {s t : State} (h : t.regs = s.regs) (hn : NamesAnother f s) : NamesAnother f t := by
  have hg : t.get = s.get := funext fun g => by simp only [State.get, h]
  unfold NamesAnother isCaptain devId at *
  rw [hg]; exact hn

/-- The device's part of a HEALTH word: the device's own, or that of another one that the frame names, a free value (R325). -/
theorem healthOf_spec (f : Req) (s : State) :
    (healthOf f.dev s).2 = { s with freeCtr := (healthOf f.dev s).2.freeCtr }
    ∧ ((healthOf f.dev s).2.freeCtr = s.freeCtr ∨ NamesAnother f s ∧ (healthOf f.dev s).2.freeCtr = s.freeCtr + 1)
    ∧ ((healthOf f.dev s).1 = healthState s ∨ NamesAnother f s ∧ (healthOf f.dev s).1 &&& 0xFA00FFFF = (healthOf f.dev s).1) := by
  unfold healthOf
  split
  · rename_i h
    exact ⟨rfl, .inr ⟨h, rfl⟩, .inr ⟨h, by rw [BitVec.and_assoc, BitVec.and_self]⟩⟩
  · exact ⟨rfl, .inl rfl, .inl rfl⟩

/-- What the delivery of a reply changes at its port. -/
def PortSt.answered (x q : PortSt) : PortSt := { x with store := q.store, out := q.out, outFor := q.outFor, readyAt := q.readyAt }

/-- The reply of a heard frame is put at its port (R316, R318, R322). -/
theorem deliver_now {sess : Option (Session × Nat)} {op : BitVec 8} {f : Req} {v : State} {a : Ans} (hl : a ≠ .later)
    (hp : f.port = .hp ∨ f.port = .aux) (hst : (v.portSt f.port).store.head?.map (·.alive) = some f.alive) :
    ∃ (q : PortSt) (c : Nat) (h : Word), deliver sess 0 op f a f.t v
        = ({ v with freeCtr := c } : State).modPort f.port (fun x => x.answered q)
      ∧ (q.store.head?.bind fun e => e.reply)
        = some { op := op, alive := f.alive, dev := f.dev, axis := f.axis, tag := f.tag, words := a.words }
      ∧ q.readyAt = f.t + replyTime ∧ q.outFor = some f.alive ∧ q.store.length = (v.portSt f.port).store.length
      ∧ (c = v.freeCtr ∨ NamesAnother f v ∧ c = v.freeCtr + 1)
      ∧ ((∀ ws, a ≠ .routed ws) → (h = healthState v ∨ NamesAnother f v ∧ h &&& 0xFA00FFFF = h)
        ∧ q.out = sealReply sess op f.alive f.dev f.axis f.tag ((healthPort v (v.portSt f.port).flags ||| h) :: a.words)) := by
  let r : Reply := { op := op, alive := f.alive, dev := f.dev, axis := f.axis, tag := f.tag, words := a.words }
  let st := (v.portSt f.port).store.map fun e => if e.alive = f.alive then { e with reply := some r } else e
  let w := v.modPort f.port fun q => { q with store := q.store.map fun e => if e.alive = f.alive then { e with reply := some r } else e }
  have main : (st.head?.any fun e => e.alive == f.alive) = true ∧ (st.head?.bind fun e => e.reply) = some r := by
    cases hl : (v.portSt f.port).store with
    | nil => simp [hl] at hst
    | cons e l =>
      simp only [hl, List.head?_cons, Option.map_some, Option.some.injEq] at hst
      simp [st, hl, hst]
  have hd : deliver sess 0 op f a f.t v = deliverPort f.port sess op f a f.t v := by
    rcases hp with h | h <;> cases a <;> first | (exact absurd rfl hl) | (simp only [deliver, h])
  have hwr : w.regs = v.regs := by rcases hp with h | h <;> simp only [w, h] <;> rfl
  have hwq : w.ip.cmdq = v.ip.cmdq := by rcases hp with h | h <;> simp only [w, h] <;> rfl
  have hwi : w.ip.running = v.ip.running := by rcases hp with h | h <;> simp only [w, h] <;> rfl
  have hwf : (w.portSt f.port).flags = (v.portSt f.port).flags := by rcases hp with h | h <;> simp only [w, h] <;> rfl
  have hws : (w.portSt f.port).store = st := by rcases hp with h | h <;> simp only [w, st, h] <;> rfl
  have hwc : w.freeCtr = v.freeCtr := by rcases hp with h | h <;> simp only [w, h] <;> rfl
  have hh : healthState w = healthState v := healthState_congr hwr hwq
  obtain ⟨o1, o2, o3⟩ := healthOf_spec f w
  let put := fun (h : Word) (c : Nat) => putOut f.port sess true r (healthPort w (w.portSt f.port).flags ||| h) f.t { w with freeCtr := c }
  have hput : ∀ h c, put h c = ({ v with freeCtr := c } : State).modPort f.port (fun x => x.answered { v.portSt f.port with
      store := st
      out := sealReply sess op f.alive f.dev f.axis f.tag ((healthPort v (v.portSt f.port).flags ||| h) :: a.words)
      outFor := some f.alive
      readyAt := f.t + replyTime }) := by
    intro h c
    have : healthPort w (w.portSt f.port).flags = healthPort v (v.portSt f.port).flags := by simp only [healthPort, hwi, hwf]
    simp only [put, this]
    rcases hp with e | e <;> simp only [w, st, e] <;> rfl
  have hdp : ∃ h c, deliverPort f.port sess op f a f.t v = put h c ∧ (c = v.freeCtr ∨ NamesAnother f v ∧ c = v.freeCtr + 1)
      ∧ ((∀ ws, a ≠ .routed ws) → (h = healthState v ∨ NamesAnother f v ∧ h &&& 0xFA00FFFF = h)) := by
    have own : ∀ (b : Bool), b = true → (if b = true then putOut f.port sess true r (healthPort w (w.portSt f.port).flags ||| (healthOf f.dev w).1) f.t
        (healthOf f.dev w).2 else w) = put (healthOf f.dev w).1 (healthOf f.dev w).2.freeCtr := by
      intro b hb
      rw [if_pos hb]; simp only [put]; rw [← o1]
    have oc : (healthOf f.dev w).2.freeCtr = v.freeCtr ∨ NamesAnother f v ∧ (healthOf f.dev w).2.freeCtr = v.freeCtr + 1 := by
      rw [← hwc]; exact o2.imp id fun x => ⟨x.1.congr hwr.symm, x.2⟩
    have oh : (healthOf f.dev w).1 = healthState v ∨ NamesAnother f v ∧ (healthOf f.dev w).1 &&& 0xFA00FFFF = (healthOf f.dev w).1 := by
      rw [← hh]; exact o3.imp id fun x => ⟨x.1.congr hwr.symm, x.2⟩
    have hany : ((w.portSt f.port).store.head?.any fun e => e.alive == f.alive) = true := by rw [hws]; exact main.1
    unfold deliverPort
    dsimp only
    cases a with
    | routed ws =>
      cases ws with
      | nil => exact ⟨_, _, own _ hany, oc, fun h => absurd rfl (h _)⟩
      | cons x ws => exact ⟨x &&& 0xFA00FFFF, v.freeCtr, (if_pos hany).trans (by simp only [put]; rw [← hwc]), .inl rfl, fun h => absurd rfl (h _)⟩
    | _ => exact ⟨_, _, own _ hany, oc, fun _ => oh⟩
  obtain ⟨h, c, h1, h2, h3⟩ := hdp
  refine ⟨_, c, h, hd.trans (h1.trans (hput h c)), main.2, rfl, rfl, by simp [st], h2, fun hr => ⟨h3 hr, rfl⟩⟩

/-- The end of a frame whose answer is formed at once, whatever the answer. -/
theorem frame_ends {sess : Option (Session × Nat)} {op : Nat} {f : Req} {u : State} {a : Ans} (hl : a ≠ .later)
    (hp : f.port = .hp ∨ f.port = .aux) (hst : (u.portSt f.port).store.head?.map (·.alive) = some f.alive) :
    ∃ t, settle (deliver sess 0 (BitVec.ofNat 8 op) f a f.t (endFrame (countRefusal a u))) = t
      ∧ FrameEnds f u t ∧ ((∀ ws, a ≠ .routed ws) → Replies sess op f a.words t)
      ∧ ((t.portSt f.port).store.head?.bind fun e => e.reply)
        = some { op := BitVec.ofNat 8 op, alive := f.alive, dev := f.dev, axis := f.axis, tag := f.tag, words := a.words }
      ∧ (t.portSt f.port).store.length = (u.portSt f.port).store.length
      ∧ t.regs = (endFrame (countRefusal a u)).regs := by
  refine ⟨_, rfl, ?_⟩
  generalize hv : endFrame (countRefusal a u) = v
  have hvu : v = { u with regs := v.regs, ip := { u.ip with unlocked := false, loLatch := [] } } := by
    rw [← hv, endFrame_eq, countRefusal_eq]
  have hst' : (v.portSt f.port).store.head?.map (·.alive) = some f.alive := by
    rw [hvu]; rcases hp with h | h <;> rw [h] at hst ⊢ <;> exact hst
  obtain ⟨q, c, hw, hq, h1, h2, h5, h4, h6, h3⟩ := deliver_now (sess := sess) (op := BitVec.ofNat 8 op) hl hp hst'
  rw [hq]
  obtain ⟨hs, hj⟩ := settle_eq (({ v with freeCtr := c } : State).modPort f.port fun x => x.answered q)
  generalize settle (({ v with freeCtr := c } : State).modPort f.port fun x => x.answered q) = t at hs hj
  have ht : t = { u with
      freeCtr := c
      regs := v.regs
      plnWork := t.plnWork
      hp := if f.port = .hp then u.hp.answered q else u.hp
      aux := if f.port = .aux then u.aux.answered q else u.aux
      ip := { u.ip with unlocked := false, loLatch := [] }
      lk := { u.lk with jobs := t.lk.jobs } } := by
    rw [hs, hvu]; rcases hp with h | h <;> rw [h] <;> rfl
  have hjk : JobsKept u t := by
    have : JobsKept u (({ v with freeCtr := c } : State).modPort f.port fun x => x.answered q) := by
      rw [hvu]; rcases hp with h | h <;> rw [h] <;> rfl
    exact this.trans hj
  have hreg : t.regs = v.regs := by rw [ht]
  have hcq : t.ip.cmdq = v.ip.cmdq := by rw [ht, hvu]
  have hrun : t.ip.running = v.ip.running := by rw [ht, hvu]
  have hcu : t.freeCtr = c := by rw [ht]
  have hvc : v.freeCtr = u.freeCtr := by rw [hvu]
  have hport : t.portSt f.port = (v.portSt f.port).answered q := by
    rw [ht, hvu]; rcases hp with h | h <;> rw [h] <;> rfl
  have hfr : t.freeCtr = u.freeCtr ∨ NamesAnother f t ∧ t.freeCtr = u.freeCtr + 1 := by
    rw [hcu, ← hvc]; exact h6.imp id fun x => ⟨x.1.congr hreg, x.2⟩
  refine ⟨⟨?_, hjk, ?_, ?_, hfr⟩, fun hr => ?_, ?_, ?_, hreg⟩
  · have e1 : t.hp = if f.port = .hp then u.hp.answered q else u.hp := by rw [ht]
    have e2 : t.aux = if f.port = .aux then u.aux.answered q else u.aux := by rw [ht]
    rw [e1, e2, hreg, hcu]
    rcases hp with h | h <;> rw [h] at ht ⊢ <;> simpa [PortSt.answered] using ht
  · refine KeepsFields.congr ?_ hreg
    rw [← hv]
    exact KeepsFields.endFrame (KeepsFields.countRefusal (KeepsFields.refl _ _) _ (by simp) (by simp)) (by simp)
  · have : t.get F.SYS_ACC_STAT.UNLOCK_LAPSED = v.get F.SYS_ACC_STAT.UNLOCK_LAPSED := by simp only [State.get, hreg]
    rw [this, ← hv]
    unfold endFrame
    have hcu : (countRefusal a u).ip = u.ip := by rw [countRefusal_eq]
    have hg : (countRefusal a u).get F.SYS_ACC_STAT.UNLOCK_LAPSED = u.get F.SYS_ACC_STAT.UNLOCK_LAPSED := by
      apply KeepsFields.countRefusal (l := [F.CMD_REFUSE.REFUSE_CNT, F.CMD_REFUSE.LAST_CODE]) (KeepsFields.refl _ _) _ (by simp) (by simp)
      simp
    rw [hcu]
    by_cases hun : u.ip.unlocked = true
    · simp only [hun, if_true]
      exact State.get_set_same _ _ _ (by decide) (by decide) (by decide)
    · simp only [hun]
      exact hg
  · simp only [Replies]
    rw [hport]
    obtain ⟨g1, g2⟩ := h3 hr
    refine ⟨h1, h2, h5, hw, ?_, ?_⟩
    · rw [healthState_congr hreg hcq]
      exact g1.imp id fun x => ⟨x.1.congr hreg, x.2⟩
    · have : healthPort t (v.portSt f.port).flags = healthPort v (v.portSt f.port).flags := by simp only [healthPort, hrun]
      change _ = sealReply _ _ _ _ _ _ ((healthPort t (v.portSt f.port).flags ||| hw) :: _)
      rw [this]; exact g2
  · rw [hport]; exact h1
  · rw [hport]
    have : (v.portSt f.port).store.length = (u.portSt f.port).store.length := by
      rw [hvu]; rcases hp with h | h <;> rw [h] <;> rfl
    exact h4.trans this

/-- How a refusal is counted at the end of a frame (R360). -/
theorem refusal_counted {u t : State} {code detail seq : Nat} {data : List Word} (hc : code < 256)
    (hreg : t.regs = (endFrame (countRefusal (.now code detail seq data) u)).regs) : RefusalCounted code u t := by
  generalize hv : endFrame (countRefusal (.now code detail seq data) u) = v at hreg
  have hle : ∀ g, g.addr ≠ 0xc → t.get g = (countRefusal (.now code detail seq data) u).get g := by
    intro g hg
    have : t.get g = v.get g := by simp only [State.get, hreg]
    rw [this, ← hv]
    exact KeepsFields.endFrame (l := [F.SYS_ACC_STAT.UNLOCK_LAPSED]) (KeepsFields.refl _ _) (by simp) g (by simp; left; exact hg)
  unfold RefusalCounted
  split
  · rename_i hge
    rw [hle _ (by decide), hle _ (by decide)]
    unfold countRefusal
    dsimp only
    rw [if_pos hge]
    refine ⟨?_, State.get_set_same _ _ _ (by decide) (by decide) hc⟩
    rw [State.get_set_other _ _ _ _ (by decide)]
    unfold State.inc State.count
    rw [State.get_set_same _ _ _ (by decide) (by decide) ?_]
    · rfl
    · unfold satAdd
      exact Nat.lt_of_le_of_lt (Nat.min_le_right _ _) (by decide)
  · rename_i hge
    refine KeepsFields.congr ?_ hreg
    rw [← hv]
    unfold countRefusal
    dsimp only
    rw [if_neg hge]
    exact KeepsFields.endFrame (KeepsFields.refl _ _) (by simp)

/-- A command whose frame is heard, and whose answer is formed at once, whatever the answer. -/
theorem heard_ends {op : Nat} {body : Req → State → State × Ans} {f : Req} {s u : State} {a : Ans} (hl : a ≠ .later)
    (hh : Heard f s) (ho : op ≠ 0x00 ∧ op ≠ 0x01) (hi : interpret op body f (accepted op f s) = (u, a)) (hw : u.whReq = [])
    (hst : (u.portSt f.port).store.head?.map (·.alive) = some f.alive) :
    ∃ t, runCmd (frameCommand op body f) s = .next t
      ∧ FrameEnds f u t ∧ ((∀ ws, a ≠ .routed ws) → Replies (sessN s f.port) op f a.words t)
      ∧ ((t.portSt f.port).store.head?.bind fun e => e.reply)
        = some { op := BitVec.ofNat 8 op, alive := f.alive, dev := f.dev, axis := f.axis, tag := f.tag, words := a.words }
      ∧ t.regs = (endFrame (countRefusal a u)).regs := by
  obtain ⟨t, ht, h1, h2, h3, -, h4⟩ := frame_ends (sess := sessN s f.port) (op := op) hl hh.port hst
  refine ⟨t, ?_, h1, h2, h3, h4⟩
  have e := frameCommand_heard hh ho hi
  rw [runCmd_served, e, ht]
  rw [e]
  obtain ⟨q, c, hw', hq, -⟩ := deliver_now (sess := sessN s f.port) (op := BitVec.ofNat 8 op) (v := endFrame (countRefusal a u)) hl hh.port
    (by rw [endFrame_eq, countRefusal_eq]; rcases hh.port with h | h <;> rw [h] at hst ⊢ <;> exact hst)
  rw [hq, endFrame_eq, countRefusal_eq]
  rcases hh.port with h | h <;> rw [h] <;> exact hw

/-- A command whose frame is heard, and which the interpreter answers at once. -/
theorem heard_answers {op : Nat} {body : Req → State → State × Ans} {f : Req} {s u : State} {code detail seq : Nat} {data : List Word}
    (hh : Heard f s) (ho : op ≠ 0x00 ∧ op ≠ 0x01)
    (hi : interpret op body f (accepted op f s) = (u, .now code detail seq data)) (hw : u.whReq = [])
    (hst : (u.portSt f.port).store.head?.map (·.alive) = some f.alive) (hc : code < 256) :
    ∃ t, runCmd (frameCommand op body f) s = .next t ∧ Replies (sessN s f.port) op f (statusWords code detail seq data) t
      ∧ FrameEnds f u t ∧ RefusalCounted code u t := by
  obtain ⟨t, ht, h1, h2, -, h4⟩ := heard_ends (by simp) hh ho hi hw hst
  exact ⟨t, ht, h2 (by simp), h1, refusal_counted hc h4⟩

/-- A command whose frame is heard and admitted, and whose body answers at once. -/
theorem frame_answers {op : Nat} {body : Req → State → State × Ans} {f : Req} {s u : State} {code detail seq : Nat} {data : List Word}
    (h : FrameReady op f s) (ho : op ≠ 0x00 ∧ op ≠ 0x01)
    (hb : body f (accepted op f s) = (u, .now code detail seq data)) (hw : u.whReq = [])
    (hst : (u.portSt f.port).store.head?.map (·.alive) = some f.alive) (hc : code < 256) :
    ∃ t, runCmd (frameCommand op body f) s = .next t ∧ Replies (sessN s f.port) op f (statusWords code detail seq data) t
      ∧ FrameEnds f u t ∧ RefusalCounted code u t :=
  heard_answers h.1 ho ((interpret_admitted h.2).trans hb) hw hst hc

theorem State.modCv_eq (s : State) (l : Link) (g : CvPort → CvPort) : s.modCv l g = { s with cv := (s.modCv l g).cv } := by
  cases l <;> rfl

theorem transmit_eq (l : Link) (fs : List CvFlit) (s : State) : transmit l fs s = { s with cv := (transmit l fs s).cv } := rfl

theorem pumpPort_eq (l : Link) (n : Nat) (s : State) : pumpPort l n s = { s with cv := (pumpPort l n s).cv } := by
  induction n generalizing s with
  | zero => rfl
  | succ n ih =>
    unfold pumpPort
    dsimp only
    split
    · rfl
    · split
      · rfl
      · rw [ih, transmit_eq, State.modCv_eq]

theorem sendFlits_eq (l : Link) (fs : List CvFlit) (s : State) : sendFlits l fs s = { s with cv := (sendFlits l fs s).cv } := by
  unfold sendFlits
  split
  · rfl
  · rw [pumpPort_eq, State.modCv_eq]

theorem sendMsg_eq (l : Link) (typ : BitVec 4) (n : Nat) (m : CvMsg) (s : State) :
    sendMsg l typ n m s = { s with cv := (sendMsg l typ n m s).cv } := sendFlits_eq _ _ _

theorem roleFromFrame_eq (s : State) :
    roleFromFrame s = { s with regs := (roleFromFrame s).regs, cv := (roleFromFrame s).cv } := by
  unfold roleFromFrame becomeCaptain offerId lastDevice
  dsimp only
  split
  · split
    · rw [sendMsg_eq]; rfl
    · split
      · rw [sendMsg_eq]; rfl
      · rfl
  · rfl

/-- Acceptance makes the frame the newest entry of its port's store (R316). -/
theorem accepted_head {op : Nat} {f : Req} {s : State} (hp : f.port = .hp ∨ f.port = .aux) :
    ((accepted op f s).portSt f.port).store.head?.map (·.alive) = some f.alive := by
  unfold accepted
  rw [endFrame_eq]
  unfold acceptFrame acceptRally
  rcases hp with h | h
  all_goals
    rw [h]
    dsimp only
    split <;> split <;> (try rw [roleFromFrame_eq]) <;> (dsimp only [State.modPort, State.modSess, State.portSt]; split <;> rfl)

/-- What acceptance changes: the instant, registers, its port, its session's count, an unlock or LO latch left over and, where the
frame settles the role, the stack (R315, R316, R372, R378, R428, R488). -/
theorem accepted_eq {op : Nat} {f : Req} {s : State} (hp : f.port = .hp ∨ f.port = .aux) :
    accepted op f s = { s with
      now := max s.now f.t
      regs := (accepted op f s).regs
      hp := (accepted op f s).hp
      aux := (accepted op f s).aux
      ip := { s.ip with unlocked := false, loLatch := [] }
      sec := { s.sec with hp := (accepted op f s).sec.hp, aux := (accepted op f s).sec.aux }
      cv := (accepted op f s).cv } := by
  unfold accepted
  rw [endFrame_eq]
  unfold acceptFrame acceptRally
  rcases hp with h | h
  all_goals
    rw [h]
    dsimp only
    split <;> split <;> (try rw [roleFromFrame_eq]) <;> (dsimp only [State.modPort, State.modSess]; split <;> rfl)

theorem accepted_whReq {op : Nat} {f : Req} {s : State} (hp : f.port = .hp ∨ f.port = .aux) (h : s.whReq = []) :
    (accepted op f s).whReq = [] := by
  rw [accepted_eq hp]; exact h
/-- What the body leaves of the port's store and of the Whistles is what acceptance left, if it touches neither. -/
theorem accepted_rest {op : Nat} {f : Req} {s u : State} (h : Heard f s) (h1 : u.whReq = (accepted op f s).whReq)
    (h2 : u.hp = (accepted op f s).hp) (h3 : u.aux = (accepted op f s).aux) :
    u.whReq = [] ∧ (u.portSt f.port).store.head?.map (·.alive) = some f.alive := by
  refine ⟨h1.trans (accepted_whReq h.port h.served), ?_⟩
  have := accepted_head (op := op) (s := s) h.port
  rcases h.port with hp | hp <;> rw [hp] at this ⊢ <;> simpa only [State.portSt, h2, h3] using this

/-- An opcode whose body answers at once and touches neither the ports nor the Whistles. -/
theorem answers_of {c : Instr} {op : Nat} {body : Req → State → State × Ans} {f : Req} {s u : State} {code detail seq : Nat}
    {data : List Word} (hf : frameOf c = some (op, f)) (hx : exec c s = runCmd (frameCommand op body f) s) (hh : Heard f s)
    (ho : op ≠ 0x00 ∧ op ≠ 0x01) (hi : interpret op body f (accepted op f s) = (u, .now code detail seq data))
    (h1 : u.whReq = (accepted op f s).whReq) (h2 : u.hp = (accepted op f s).hp) (h3 : u.aux = (accepted op f s).aux)
    (hc : code < 256) : Answers c s u code detail seq data := by
  obtain ⟨e1, e2⟩ := accepted_rest hh h1 h2 h3
  obtain ⟨t, ht, h⟩ := heard_answers hh ho hi e1 e2 hc
  exact ⟨op, f, hf, t, hx.trans ht, h⟩

/-- An admitted opcode whose body answers at once and touches neither the ports nor the Whistles. -/
theorem answers_ready {c : Instr} {op : Nat} {body : Req → State → State × Ans} {f : Req} {s u : State} {code detail seq : Nat}
    {data : List Word} (h : FrameReady op f s) (hf : frameOf c = some (op, f)) (hx : exec c s = runCmd (frameCommand op body f) s)
    (ho : op ≠ 0x00 ∧ op ≠ 0x01) (hb : body f (accepted op f s) = (u, .now code detail seq data))
    (h1 : u.whReq = (accepted op f s).whReq) (h2 : u.hp = (accepted op f s).hp) (h3 : u.aux = (accepted op f s).aux)
    (hc : code < 256) : Answers c s u code detail seq data :=
  answers_of hf hx h.1 ho ((interpret_admitted h.2).trans hb) h1 h2 h3 hc

end Sys2Proof.Machine
end

