-- ==== Sys2Proof/WellFormed.lean ====
section
/-!
DEFINITION. Well-formed commands: the operands that the hardware, or the outside world, can give a command. The step is
total and gives ill-formed commands a meaning too; no statement rests on that.
-/

namespace Sys2Proof

/-- A number fits an unsigned field of `n` bits. -/
def fits (n v : Nat) : Bool := decide (v < 2 ^ n)

/-- An integer fits a two's complement field of `n` bits. -/
def fitsS (n : Nat) (v : Int) : Bool := decide (-(2 : Int) ^ (n - 1) ≤ v) && decide (v < (2 : Int) ^ (n - 1))

/-- The port has select windows and sessions of its own (R306, R488): a frame over `UP` has none. -/
def Port.pinned : Port → Bool
  | .up => false
  | _ => true

/-- A select window (R306): on a port with pins, not ending before it began, with one word for every 32 bits begun. -/
def Window.wellFormed (w : Window) : Bool :=
  w.port.pinned && decide (w.tFall ≤ w.tRise) && w.words.length == (w.bits + 31) / 32

/-- An accepted frame (R311, R312): at most 30 payload words. -/
def Req.wellFormed (f : Req) : Bool := decide (f.words.length ≤ 30)

/-- The content of an MCH flit (R110): a 48.16 position and a 64-bit time. -/
def MchData.wellFormed (d : MchData) : Bool := fitsS 64 d.pos && fits 64 d.stamp

/-- A stack time fits 64 bits (R433). -/
def Bcast.wellFormed : Bcast → Bool
  | .whistle t => fits 64 t
  | .reset _ _ => true
  | .gather l => fits 64 l

/-- The opcodes of the instructions with a row of their own (R572). -/
def ownOpcode (op : BitVec 8) : Bool := decide (op.toNat ≤ 4)

/-- The private opcodes (R573). -/
def privateOpcode (op : BitVec 8) : Bool := decide (0x41 ≤ op.toNat) && decide (op.toNat ≤ 0x7F)

/-- The checks on the operands of a command. -/
def Instr.wellFormed : Instr → Bool
  | .frameReceive w => w.wellFormed
  | .hpMasterTransfer w => w.wellFormed && w.port == .hp
  | .nop f => f.wellFormed
  | .rallySync f => f.wellFormed
  | .collect f => f.wellFormed
  | .getStatus f => f.wellFormed
  | .getRetire f => f.wellFormed
  | .mode f => f.wellFormed
  | .reset f => f.wellFormed
  | .resetBegin => true
  | .axisRearm f => f.wellFormed
  | .ident f => f.wellFormed
  | .result f => f.wellFormed
  | .regRead f => f.wellFormed
  | .regWrite f => f.wellFormed
  | .regBlockWrite f => f.wellFormed
  | .registerWrite _ _ _ => true
  | .unlockArm _ => true
  | .wideLoLatch _ _ _ => true
  | .move f => f.wellFormed
  | .jog f => f.wellFormed
  | .stop f => f.wellFormed
  | .resume f => f.wellFormed
  | .posSet f => f.wellFormed
  | .source f => f.wellFormed
  | .engage f => f.wellFormed
  | .exit f => f.wellFormed
  | .gearRatio f => f.wellFormed
  | .camNext f => f.wellFormed
  | .measRead f => f.wellFormed
  | .probe f => f.wellFormed
  | .lkRead f => f.wellFormed
  | .lkWrite f => f.wellFormed
  | .lkReadTimeout _ _ => true
  | .recipeArm f => f.wellFormed
  | .recipeArmTakeUp => true
  | .recipeApply f => f.wellFormed
  | .recipeApplyTakeUp => true
  | .recipeWaveCopy _ => true
  | .traceRead f => f.wellFormed
  | .snap f => f.wellFormed
  | .whistleAt f => f.wellFormed
  | .snapRead f => f.wellFormed
  | .stackInfo f => f.wellFormed
  | .sessionOpen f _ => f.wellFormed
  | .sessionConfirm f => f.wellFormed
  | .sessionClose f => f.wellFormed
  | .keyInstall f => f.wellFormed
  | .lifecycle f => f.wellFormed
  | .patchLoad f => f.wellFormed
  | .backstopSet f => f.wellFormed
  | .auditRead f => f.wellFormed
  | .trngRead f => f.wellFormed
  | .diagRun f => f.wellFormed
  | .auxXfer f => f.wellFormed
  | .ticketResult _ _ _ => true
  | .plannerTakeUp _ _ => true
  | .segmentComputed _ => true
  | .segmentCommit _ _ => true
  | .cutInstant _ => true
  | .starvation _ _ => true
  | .plannerStopRecord _ _ => true
  | .stillDelayExpire _ => true
  | .energiseDone _ => true
  | .halfPeriodBoundary _ => true
  | .sampleInstant _ => true
  | .computationDone _ _ => true
  | .boostTimeout _ => true
  | .updatePoint _ => true
  | .periodBoundary _ => true
  | .pwmCommit _ => true
  | .wtSwap _ => true
  | .wtFill _ => true
  | .wtRevert _ => true
  | .wtOpDone _ => true
  | .axWaveTableWrite _ _ => true
  | .chopBlankEnd _ _ _ => true
  | .chopOff _ _ _ => true
  | .chopToffEnd _ _ => true
  | .probeAuto _ => true
  | .probePeriod _ _ => true
  | .probeDone _ _ => true
  | .stepEdge _ _ _ _ => true
  | .mchSample _ => true
  | .mchPublish _ => true
  | .mchStale _ => true
  | .mchCfgWrite _ _ => true
  | .tripActive _ _ => true
  | .tripInactive _ _ => true
  | .ocTrip _ _ _ => true
  | .snTrip _ _ _ _ => true
  | .crossOverlap _ _ _ => true
  | .escWinClose _ => true
  | .bstLow _ _ _ => true
  | .bstLowRelease _ _ _ => true
  | .cpUv _ _ => true
  | .cpGood _ _ => true
  | .vgsUv _ => true
  | .vgsGood _ => true
  | .vmOvTrip _ _ => true
  | .vmOvClear _ _ => true
  | .vmUvTrip _ _ => true
  | .vmUvClear _ _ => true
  | .brakeDecision _ _ _ => true
  | .diagStart _ => true
  | .diagPhaseEnd _ v0 v1 v2 v3 => fits 14 v0 && fits 14 v1 && fits 14 v2 && fits 14 v3
  | .currentAdcResult _ _ c => fitsS 16 c.c0 && fitsS 16 c.c1 && fitsS 16 c.c2 && fitsS 16 c.c3
  | .voltageAdcResult _ code => fits 14 code
  | .ainAdcResult code => fits 16 code
  | .tempResult _ code => fitsS 16 code
  | .ainWmTrip _ _ _ => true
  | .wmDwellEnd _ _ _ => true
  | .quadEdge _ onA onB _ _ => !(onA && onB)
  | .hallTransition _ _ _ => true
  | .wheelEdge _ _ => true
  | .serRead _ => true
  | .serFrameDone _ bits _ _ => decide (bits.length ≤ 64)
  | .speedWindowEnd _ => true
  | .speedTimeout _ => true
  | .fbModeWrite _ _ => true
  | .homeArm _ => true
  | .homeCancel _ => true
  | .auxTransferStart _ => true
  | .auxTransferDone bits _ => decide (bits.length ≤ 1024)
  | .portRoleWrite _ _ _ => true
  | .lockerArbitrate _ _ => true
  | .letEnd _ _ => true
  | .lineReadDone _ => true
  | .lineWriteDone _ rb1 rb2 => rb1.length == 36 && rb2.length == 36
  | .scrubTick => true
  | .partitionApply => true
  | .deadballWrite _ => true
  | .traceAppend => true
  | .linkUp _ pings => pings.length == 64 && pings.all fun x => decide (x.turn ≤ x.trip)
  | .linkDown _ => true
  | .trainFail _ => true
  | .flitReceive _ bytes sample _ => bytes.length == 16 && (match sample with | some d => d.wellFormed | none => true)
  | .nakReceive _ _ => true
  | .timeSend => true
  | .timeReceive time _ _ _ => time.length == 8
  | .timeLock _ => true
  | .pingExchange x => decide (x.turn ≤ x.trip)
  | .enumReceive _ => true
  | .enumEndReceive _ _ _ => true
  | .dnPartnerTimeout => true
  | .frameFlitReceive _ h words _ => words.length == (h.toNat / 128) % 32 && decide (words.length ≤ 30)
  | .replyFlitReceive _ h words => words.length == (h.toNat / 128) % 32
  | .bcastReceive b _ => b.wellFormed
  | .barrier => true
  | .barrierReceive _ _ => true
  | .gather => true
  | .dataReceive _ _ latch words => fits 64 latch && decide (words.length ≤ 508)
  | .stackReset _ _ => true
  | .captLost _ => true
  | .lossTmoExpire => true
  | .scheduledWhistle => true
  | .whslEdge _ _ => true
  | .whistleDriveEnd => true
  | .whistleHoldoffEnd => true
  | .bkStore => true
  | .bkStoreDone _ => true
  | .stoLow _ _ => true
  | .stoHigh _ _ => true
  | .stoDiscTimeout => true
  | .enaRise _ _ => true
  | .enaFall _ _ => true
  | .sessionTimeout port => port.pinned
  | .lockoutEnd port => port.pinned
  | .trngTestFail => true
  | .trngRecover => true
  | .tamper _ => true
  | .refinEdgeTimeout _ => true
  | .calibrationInstant _ _ => true
  | .referenceGood _ => true
  | .refinEnWrite _ => true
  | .modeTransitDone _ => true
  | .sleepEntry _ => true
  | .wake _ => true
  | .pdCtrlWrite _ _ => true
  | .domainUp _ _ => true
  | .domainLoss _ _ => true
  | .supplyGood _ => true
  | .supplyLost _ => true
  | .nrstPulse _ => true
  | .resetStretchEnd _ => true
  | .nrstRelease => true
  | .watchdogExpire => true
  | .optionLoad _ _ badRecs => badRecs.all (fun n => decide (n < 512))
  | .selfCheckDone _ _ _ _ => true
  | .patchVerify _ _ => true
  | .bootEnd _ _ => true
  | .interpreterRestart => true
  | .blockResetDone => true
  | .blockResetHung => true
  | .tapReset => true
  | .extest => true
  | .idcode => true
  | .samplePreload _ => true
  | .clamp => true
  | .highz => true
  | .gatetest => true
  | .bypass op => !ownOpcode op
  | .privateInstruction op => privateOpcode op
  | .tapUpdateDr _ => true
  | .takeoverEnd _ _ => true
  | .gatetestVmCutoff _ => true
  | .legEdge _ _ _ => true
  | .signatureVerifyDone => true

end Sys2Proof
end

