-- ==== Sys2Proof/Tests/Slice0.lean ====
section
/-! SUPPORT. Tests: the ill-formed terms that WellFormed refuses, a concrete state and operands that meet the hypotheses of each
obligation, each clause of it at a boundary of its range where it has one, and results of single steps whose expected values come
from the words of the spec. -/

namespace Sys2Proof.Tests

open Sys2Proof.Machine

set_option Elab.async false

/-! ### States and frames of the tests -/

/-- A part that has started up, in device mode `m`: every domain and supply up, the interpreter running. -/
def live (m : Nat) : State :=
  let s : State := { State.reset with
    pw := { State.reset.pw with on := 0x3FF, supplies := 63, vgsUv := false }
    rst := { State.reset.rst with boot := .done }
    ip := { State.reset.ip with running := true } }
  s.set F.MODE_STAT.MODE m

/-- A state with several fields of registers set. -/
def setAll (l : List (Fld × Nat)) (s : State) : State := l.foldl (fun t p => t.set p.1 p.2) s

/-- A frame on `HP` for axis 0 of device 0 with the payload `words`. -/
def req (words : List Word) : Req :=
  { port := .hp, alive := 0, dev := 0, axis := 0, tag := 0, words := words, t := 0 }

/-- `Heard` as a computation. -/
def heardB (f : Req) (s : State) : Bool :=
  (f.port == .hp || f.port == .aux) && (portHears s f.port false || portHears s f.port true) && s.ip.running && s.whReq.isEmpty

/-- `Admitted` as a computation. -/
def admittedB (op : Nat) (f : Req) (a : State) : Bool :=
  opcodeDefined op && lenAllowed op f.words.length && (op == 0x02 || f.dev.toNat == devId a)
    && classStatus a f.port (classOf a op f.words) == stOk && modeAllowed op a.mode

theorem heard_of {f : Req} {s : State} (h : heardB f s = true) : Heard f s := by
  simp only [heardB, Bool.and_eq_true, Bool.or_eq_true, beq_iff_eq, List.isEmpty_iff] at h
  exact ⟨h.1.1.1, h.1.1.2, h.1.2, h.2⟩

theorem admitted_of {op : Nat} {f : Req} {a : State} (h : admittedB op f a = true) : Admitted op f a := by
  simp only [admittedB, Bool.and_eq_true, Bool.or_eq_true, beq_iff_eq] at h
  exact ⟨h.1.1.1.1, h.1.1.1.2, h.1.1.2, h.1.2, h.2⟩

/-- Frame `f` of opcode `op` is heard and admitted in `s`, and the state of its acceptance meets `P`. -/
def Meets (op : Nat) (f : Req) (s : State) (P : State → Bool) : Prop := FrameReady op f s ∧ P (accepted op f s) = true

/-- `Meets` as a computation. -/
def meetsB (op : Nat) (f : Req) (s : State) (P : State → Bool) : Bool :=
  heardB f s && admittedB op f (accepted op f s) && P (accepted op f s)

theorem meets {op : Nat} {f : Req} {s : State} {P : State → Bool} (h : meetsB op f s P = true) : Meets op f s P := by
  simp only [meetsB, Bool.and_eq_true] at h
  exact ⟨⟨heard_of h.1.1, admitted_of h.1.2⟩, h.2⟩

/-- What a command leaves in its next state. -/
def after (c : Instr) (s : State) (P : State → Bool) : Bool := match exec c s with | .next t => P t | _ => false

/-! ### Ill-formed commands -/

/-- A window longer than its words, one that ends before it began, and one on a port without pins (R306). -/
theorem test_window_refused :
    Instr.wellFormed (.frameReceive ⟨.hp, 0, 1, 33, false, [0]⟩) = false
      ∧ Instr.wellFormed (.frameReceive ⟨.hp, 2, 1, 32, false, [0]⟩) = false
      ∧ Instr.wellFormed (.hpMasterTransfer ⟨.aux, 0, 1, 32, false, [0]⟩) = false
      ∧ Instr.wellFormed (.frameReceive ⟨.up, 0, 1, 32, false, [0]⟩) = false
      ∧ Instr.wellFormed (.frameReceive ⟨.hp, 0, 1, 32, false, [0]⟩) = true := by decide

/-- A frame of 31 payload words; 30 are the most (R311, R312). -/
theorem test_long_frame_refused :
    Instr.wellFormed (.regWrite (req (List.replicate 31 0))) = false
      ∧ Instr.wellFormed (.regWrite (req (List.replicate 30 0))) = true := by decide

/-- Converter codes outside their widths: 14 bits, 16 bits, 16 bits signed (R285 to R289). -/
theorem test_codes_refused :
    Instr.wellFormed (.voltageAdcResult 0 16384) = false ∧ Instr.wellFormed (.ainAdcResult 65536) = false
      ∧ Instr.wellFormed (.currentAdcResult 0 0 ⟨0, 0, 0, 32768⟩) = false ∧ Instr.wellFormed (.tempResult 0 (-32769)) = false
      ∧ Instr.wellFormed (.diagPhaseEnd 0 0 0 16384 0) = false ∧ Instr.wellFormed (.currentAdcResult 0 0 ⟨-32768, 0, 0, 0⟩) = true := by
  decide

/-- A quadrature edge on two inputs at once (R265). -/
theorem test_quadEdge_refused :
    Instr.wellFormed (.quadEdge 0 true true true ⟨0, 0, 0⟩) = false ∧ Instr.wellFormed (.quadEdge 0 false true true ⟨0, 0, 0⟩) = true := by
  decide

/-- Serial frames above 64 bits and AUX transfers above 1,024 (R277, R350). -/
theorem test_bits_refused :
    Instr.wellFormed (.serFrameDone 0 (List.replicate 65 true) true 0) = false
      ∧ Instr.wellFormed (.auxTransferDone (List.replicate 1025 true) 0) = false := by decide +kernel

/-- Read-backs that are no 36 bytes, and flits that are no 16 bytes (R388, R423). -/
theorem test_sizes_refused :
    Instr.wellFormed (.lineWriteDone 0 [0] (List.replicate 36 0)) = false
      ∧ Instr.wellFormed (.flitReceive .up (List.replicate 15 0) none 0) = false
      ∧ Instr.wellFormed (.flitReceive .up (List.replicate 16 0) (some ⟨0, 2 ^ 63, 0⟩) 0) = false
      ∧ Instr.wellFormed (.dataReceive 0 true 0 (List.replicate 509 0)) = false
      ∧ Instr.wellFormed (.frameFlitReceive 0 0x80 [] 0) = false ∧ Instr.wellFormed (.replyFlitReceive 0 0x80 []) = false := by
  decide +kernel

/-- A time of 7 bytes (R432), times beyond 64 bits (R439, R443), 63 exchanges of a training and one whose turnaround is longer than its
trip (R422, R433), a bad record beyond the image (R533). -/
theorem test_times_refused :
    Instr.wellFormed (.timeReceive (List.replicate 7 0) 0 0 0) = false ∧ Instr.wellFormed (.timeReceive (List.replicate 8 0) 0 0 0) = true
      ∧ Instr.wellFormed (.linkUp .up (List.replicate 63 ⟨1, 1⟩)) = false ∧ Instr.wellFormed (.linkUp .up (List.replicate 64 ⟨1, 1⟩)) = true
      ∧ Instr.wellFormed (.pingExchange ⟨1, 2⟩) = false ∧ Instr.wellFormed (.bcastReceive (.whistle (2 ^ 64)) .up) = false
      ∧ Instr.wellFormed (.bcastReceive (.gather (2 ^ 64)) .up) = false ∧ Instr.wellFormed (.optionLoad true 0 [512]) = false := by
  decide

/-- A session on `UP`, a BYPASS opcode that has a row of its own, a private opcode outside 0x41 to 0x7F (R488, R572). -/
theorem test_opcodes_refused :
    Instr.wellFormed (.sessionTimeout .up) = false ∧ Instr.wellFormed (.lockoutEnd .up) = false
      ∧ Instr.wellFormed (.bypass 4) = false ∧ Instr.wellFormed (.privateInstruction 0x40) = false
      ∧ Instr.wellFormed (.privateInstruction 0x80) = false := by decide

/-! ### The machine as a whole -/

/-- The premises of the whole-machine statements: a canonical state whose step answers a next state, and an address of the
register map with its row (R361). -/
theorem witness_step :
    State.reset.canonical = true ∧ (∃ t, step { State.reset with pending := [.scrubTick] } = .next t)
      ∧ ∃ row i j, regAt 0x40 = some (row, i, j) ∧ ¬ isWaveAddr 0x40 := ⟨by decide, ⟨_, rfl⟩, _, _, _, rfl, by decide⟩

/-- RALLY counts: NOP with ALIVE 15 makes the expected count 0 (R316). -/
theorem witness_rally :
    Heard (req []) (live 2) ∧ after (.nop { req [] with alive := 15 }) (live 2)
      (fun t => t.get F.HP_STAT.ALIVE_EXP = 0 && t.get F.HP_STAT.ALIVE_VALID = 1) = true :=
  ⟨heard_of (by decide +kernel), by decide +kernel⟩

/-! ### The interpreter's checks -/

/-- The checks of R333 from order 2 on, each failing in a frame that passes the ones before: length, device, class
(AUTH_REQUIRED and ROLE_DENIED), mode. -/
theorem witness_checks :
    (let f := req [0]; Heard f (live 4) ∧ lenAllowed 0x22 f.words.length = false)
      ∧ (let f := { req [] with dev := 1 }; let a := accepted 0x22 f (live 4)
         Heard f (live 4) ∧ lenAllowed 0x22 f.words.length = true ∧ ¬ (f.dev.toNat = devId a)
           ∧ ¬ (isCaptain a = true ∧ f.dev.toNat < a.get F.CV_STAT.STACK_N))
      ∧ (let s : State := { live 4 with sec := { (live 4).sec with life := 2 } }; let f := req []; let a := accepted 0x22 f s
         Heard f s ∧ f.dev.toNat = devId a ∧ classStatus a f.port (classOf a 0x22 f.words) = stAuthRequired)
      ∧ (let s : State := { live 4 with sec := { (live 4).sec with decom := true } }; let f := req []; let a := accepted 0x22 f s
         Heard f s ∧ f.dev.toNat = devId a ∧ classStatus a f.port (classOf a 0x22 f.words) = stRoleDenied)
      ∧ (let f := req []; let a := accepted 0x22 f (live 2)
         Heard f (live 2) ∧ classStatus a f.port (classOf a 0x22 f.words) = stOk ∧ modeAllowed 0x22 a.mode = false) :=
  ⟨⟨heard_of (by decide +kernel), by decide⟩, ⟨heard_of (by decide +kernel), by decide +kernel⟩,
    ⟨heard_of (by decide +kernel), by decide +kernel⟩, ⟨heard_of (by decide +kernel), by decide +kernel⟩,
    ⟨heard_of (by decide +kernel), by decide +kernel⟩⟩

/-- A Captain of two devices. -/
def captain (m : Nat) : State :=
  let s := setAll [(F.CV_STAT.ROLE, 1), (F.CV_STAT.STACK_N, 2)] (live m)
  { s with cv := { s.cv with hasId := true } }

/-- A frame for squad member 1, heard by the Captain (R357). -/
theorem witness_route :
    let f := { req [] with dev := 1 }
    let a := accepted 0x22 f (captain 4)
    Heard f (captain 4) ∧ lenAllowed 0x22 f.words.length = true ∧ f.dev.toNat ≠ devId a ∧ isCaptain a = true
      ∧ f.dev.toNat < a.get F.CV_STAT.STACK_N ∧ classStatus a f.port (classOf a 0x22 f.words) = stOk :=
  ⟨heard_of (by decide +kernel), by decide +kernel⟩

/-! ### Opcodes that answer -/

/-- GET_STATUS, IDENT, STACK_INFO and MEAS_READ in CONFIG (R340, R346, R348). -/
theorem witness_status :
    Meets 0x03 (req []) (live 2) (fun _ => true) ∧ Meets 0x08 (req []) (live 2) (fun _ => true)
      ∧ Meets 0x63 (req []) (live 2) (fun _ => true) ∧ Meets 0x40 (req []) (live 2) (fun a => a.pd 3) :=
  ⟨meets (by decide +kernel), meets (by decide +kernel), meets (by decide +kernel), meets (by decide +kernel)⟩

/-- A state with its interpreter records changed. -/
def withIp (g : InterpSt → InterpSt) (s : State) : State := { s with ip := g s.ip }

/-- RESULT for a ticket that is not held, one that runs, one that has ended (R356). -/
theorem witness_result :
    Meets 0x09 (req [0]) (live 2) (fun a => a.ip.tickets.find? (fun k => k.no.toNat == 0) = none)
      ∧ Meets 0x09 (req [0]) (withIp (fun p => { p with tickets := [⟨0, none⟩] }) (live 2))
        (fun a => (a.ip.tickets.find? fun k => k.no.toNat == 0).map (·.result) = some none)
      ∧ Meets 0x09 (req [0]) (withIp (fun p => { p with tickets := [⟨0, some (0, [7])⟩] }) (live 2))
        (fun a => (a.ip.tickets.find? fun k => k.no.toNat == 0).map (·.result) = some (some (0, [7]))) :=
  ⟨meets (by decide +kernel), meets (by decide +kernel), meets (by decide +kernel)⟩

/-- A queued command of axis 0 with number `q`. -/
def qc (q : BitVec 16) (op : BitVec 8) (words : List Word) : QCmd :=
  { seq := q, op := op, axis := 0, tag := 0, port := .hp, alive := 0, words := words }

/-- GET_RETIRE with the number wanted second in the log, and with an empty log (R354). -/
theorem witness_retire :
    Meets 0x04 (req [2]) (withIp (fun p => { p with log := [(qc 1 0x22 [], .completed), (qc 2 0x22 [], .completed)] }) (live 2))
        (fun a => decide (((a.ip.log[0]?).map fun e => e.1.seq.toNat) ≠ some 2) && decide (((a.ip.log[1]?).map fun e => e.1.seq.toNat) = some 2))
      ∧ Meets 0x04 (req [2]) (live 2) (fun a => a.ip.log.isEmpty) :=
  ⟨meets (by decide +kernel), meets (by decide +kernel)⟩

/-- COLLECT of device 1 with no entry, and with one that waits, is lost, has arrived (R358). -/
theorem witness_collect :
    let f : Req := { req [0] with dev := 1 }
    let key := fun e : RouteEntry => e.dev == f.dev && e.alive.toNat == 0 && e.tag.toNat == 0
    let holds := fun (r : RouteReply) (a : State) =>
      decide (isCaptain a = true ∧ f.dev ≠ 0 ∧ f.dev.toNat < a.get F.CV_STAT.STACK_N ∧ (a.ip.routes.find? key).map (·.reply) = some r)
    let store := fun (r : RouteReply) => withIp (fun p => { p with routes := [⟨1, 0, 0, 0, r⟩] }) (captain 2)
    Meets 0x02 f (captain 2) (fun a => a.ip.routes.find? key = none) ∧ Meets 0x02 f (store .waiting) (holds .waiting)
      ∧ Meets 0x02 f (store .lost) (holds .lost) ∧ Meets 0x02 f (store (.arrived [1, 2])) (holds (.arrived [1, 2])) :=
  ⟨meets (by decide +kernel), meets (by decide +kernel), meets (by decide +kernel), meets (by decide +kernel)⟩

/-- SNAP_READ of the first block that does not exist, of no word, of 29 words, past the end of block 17 and up to it
(R459). -/
theorem witness_snapRead :
    Meets 0x62 (req [18, 0]) (live 2) (fun a => snapBlock a 18 = none)
      ∧ Meets 0x62 (req [17, 0]) (live 2) (fun a => (snapBlock a 17).isSome)
      ∧ Meets 0x62 (req [0, 29 * 256]) (live 2) (fun a => (snapBlock a 0).isSome)
      ∧ Meets 0x62 (req [17, 4 * 256 + 1]) (live 2) (fun a => decide (((snapBlock a 17).map (·.length)).getD 9 < 5))
      ∧ Meets 0x62 (req [17, 4 * 256]) (live 2) (fun a => decide (4 ≤ ((snapBlock a 17).map (·.length)).getD 0)) :=
  ⟨meets (by decide +kernel), meets (by decide +kernel), meets (by decide +kernel), meets (by decide +kernel),
    meets (by decide +kernel)⟩

/-- AUDIT_READ of an entry that is not held, of one whose lines read good, of one whose first line is bad (R494). -/
theorem witness_auditRead :
    let s : State := { live 2 with sec := { (live 2).sec with auditLog := [(0, List.replicate 16 0)] } }
    let spoilt : State := { s with lk := { s.lk with cells := (List.range 3).map fun i => (36 * 0x1FA000 + i, 0xFF) } }
    Meets 0x77 (req [0]) (live 2) (fun a => a.sec.auditLog.isEmpty)
      ∧ Meets 0x77 (req [0]) s (fun a => match readLine a 0x1FA000, readLine a 0x1FA001 with | .good _, .good _ => true | _, _ => false)
      ∧ Meets 0x77 (req [0]) spoilt (fun a => match readLine a 0x1FA000 with | .bad => true | _ => false) :=
  ⟨meets (by decide +kernel), meets (by decide +kernel), meets (by decide +kernel)⟩

/-- TRNG_READ of 0 and of 29 words, with a failed TRNG, of 1 and of 28 words (R349). -/
theorem witness_trngRead :
    Meets 0x78 (req [0]) (live 2) (fun _ => true) ∧ Meets 0x78 (req [29]) (live 2) (fun _ => true)
      ∧ Meets 0x78 (req [1]) ((live 2).set F.SEC_STAT.TRNG_FAIL 1) (fun a => a.flag F.SEC_STAT.TRNG_FAIL)
      ∧ Meets 0x78 (req [1]) (live 2) (fun a => !a.flag F.SEC_STAT.TRNG_FAIL && !a.flag F.BOOT_STAT.SELF_FAIL)
      ∧ Meets 0x78 (req [28]) (live 2) (fun a => !a.flag F.SEC_STAT.TRNG_FAIL && !a.flag F.BOOT_STAT.SELF_FAIL) :=
  ⟨meets (by decide +kernel), meets (by decide +kernel), meets (by decide +kernel), meets (by decide +kernel),
    meets (by decide +kernel)⟩

/-- REG_READ with access code 1, of 0 and 29 words, of 28 words from 0, of 2 words from the last address (R364 to R366). -/
theorem witness_regRead :
    Meets 0x10 (req [1]) (live 2) (fun _ => true) ∧ Meets 0x10 (req [0]) (live 2) (fun _ => true)
      ∧ Meets 0x10 (req [0x1D000000]) (live 2) (fun _ => true) ∧ Meets 0x10 (req [0x1C000000]) (live 2) (fun _ => true)
      ∧ Meets 0x10 (req [0x02FFFFFC]) (live 2) (fun _ => getBits (0x02FFFFFC : Word) 23 2 * 4 = 0xFFFFFC) :=
  ⟨meets (by decide +kernel), meets (by decide +kernel), meets (by decide +kernel), meets (by decide +kernel),
    meets (by decide +kernel)⟩

/-! ### Opcodes that wait, cut and start work -/

/-- A part in RUN whose axis 0 has a usable profile set 0. -/
def ready0 : State := setAll [(F.AX_VMAX.VMAX 0 0, 256000), (F.AX_AMAX.AMAX 0 0, 100000)] (live 5)

/-- Sixteen commands of axis 1 that wait. -/
def fullQueue : List QCmd := List.replicate 16 { qc 1 0x20 [0, 0, 0] with axis := 1 }

/-- MOVE: a target past the position range, of a faulted axis, of a follower, into a queue with room, with number 0xFFFF, into
a full queue (R344, R351). -/
theorem witness_move :
    let f := req [0, 1, 0]
    let far := req [0, 0, 0x8000]
    let ok := fun (a : State) => posLegal (moveTest a 0 (qcmdOf 0x20 f a))
    let waits := fun (a : State) => ok a && decide (a.axState 0 ≠ 6 ∧ a.src 0 = 0 ∧ (f.words.getD 0 0).getLsbD 2 = false)
    Meets 0x20 (req [1, 0xFFFFFFFF, 0x7FFF]) (ready0.modMot 0 fun m => { m with target := 65536 })
        (fun a => !posLegal (moveTest a 0 (qcmdOf 0x20 (req [1, 0xFFFFFFFF, 0x7FFF]) a)))
      ∧ Meets 0x20 far ready0 (fun a => posLegal (moveTest a 0 (qcmdOf 0x20 far a)))
      ∧ Meets 0x20 f (ready0.set (F.AX_STATE.STATE 0) 6) (fun a => ok a && decide (a.axState 0 = 6))
      ∧ Meets 0x20 f (ready0.set (F.AX_FOLLOW_STAT.SRC 0) 1) (fun a => ok a && decide (a.axState 0 ≠ 6 ∧ a.src 0 ≠ 0))
      ∧ Meets 0x20 f (withIp (fun p => { p with nextSeq := 0xFFFF, cmdq := fullQueue.drop 1 }) ready0)
        (fun a => waits a && decide (a.ip.cmdq.length < 16))
      ∧ Meets 0x20 f (withIp (fun p => { p with cmdq := fullQueue }) ready0) (fun a => waits a && decide (16 ≤ a.ip.cmdq.length)) :=
  ⟨meets (by decide +kernel), meets (by decide +kernel), meets (by decide +kernel), meets (by decide +kernel),
    meets (by decide +kernel), meets (by decide +kernel)⟩

/-- RESUME of a faulted axis, of a follower, with room and without (R344). -/
theorem witness_resume :
    Meets 0x23 (req [0]) (ready0.set (F.AX_STATE.STATE 0) 6) (fun a => a.axState 0 = 6)
      ∧ Meets 0x23 (req [0]) (ready0.set (F.AX_FOLLOW_STAT.SRC 0) 3) (fun a => decide (a.axState 0 ≠ 6 ∧ a.src 0 ≠ 0))
      ∧ Meets 0x23 (req [0]) ready0 (fun a => decide (a.axState 0 ≠ 6 ∧ a.src 0 = 0 ∧ a.ip.cmdq.length < 16))
      ∧ Meets 0x23 (req [0]) (withIp (fun p => { p with cmdq := fullQueue }) ready0)
        (fun a => decide (a.axState 0 ≠ 6 ∧ a.src 0 = 0 ∧ 16 ≤ a.ip.cmdq.length)) :=
  ⟨meets (by decide +kernel), meets (by decide +kernel), meets (by decide +kernel), meets (by decide +kernel)⟩

/-- The stored line `line` of the Locker holds the 32 bytes `d`. -/
def withLine (line : Nat) (d : List Byte) (s : State) : State := putLine line (encodeLine s line d) s

/-- RECIPE_ARM of the last slot of a partition of 1 MiB, and of the first one past it (R347, R397). -/
theorem witness_recipeArm :
    let small := (live 4).set ⟨0x64C, 13, 8⟩ 1
    Meets 0x52 (req [8]) small (fun a => !decide (0x20000 * (8 + 1) ≤ 0x100000 * (partRec a).2))
      ∧ Meets 0x52 (req [7]) small (fun a => decide (0x20000 * (7 + 1) ≤ 0x100000 * (partRec a).2)) :=
  ⟨meets (by decide +kernel), meets (by decide +kernel)⟩

/-- RECIPE_APPLY and WHISTLE_AT one nanosecond too early and just in time, with three and four schedules held (R347, R348,
R441); RECIPE_APPLY without a time. -/
theorem witness_schedules :
    let s3 : State := { live 5 with cv := { (live 5).cv with sched := [1, 2, 3] } }
    let s4 : State := { live 5 with cv := { (live 5).cv with sched := [1, 2, 3, 4] } }
    let early := fun (n : Nat) (a : State) => decide (n < a.ltime + max 1 (a.get F.CV_STAT.STACK_N) * 160 + 2000)
    let free := fun (n : Nat) (a : State) => !a.cv.sched.contains n && decide (a.cv.sched.length < 4)
    let full := fun (n : Nat) (a : State) => !a.cv.sched.contains n && decide (4 ≤ a.cv.sched.length)
    Meets 0x53 (req [1, 2159, 0]) s3 (early 2159)
      ∧ Meets 0x53 (req [1, 2160, 0]) s4 (fun a => !early 2160 a && full 2160 a)
      ∧ Meets 0x53 (req [1, 2160, 0]) s3 (fun a => !early 2160 a && free 2160 a && decide (a.ip.cmdq.length < 16))
      ∧ Meets 0x53 (req [0, 0, 0]) (live 5) (fun a => decide (a.ip.cmdq.length < 16))
      ∧ Meets 0x61 (req [2159, 0]) s3 (early 2159) ∧ Meets 0x61 (req [2160, 0]) s4 (fun a => !early 2160 a && full 2160 a)
      ∧ Meets 0x61 (req [2160, 0]) s3 (fun a => !early 2160 a && free 2160 a) :=
  ⟨meets (by decide +kernel), meets (by decide +kernel), meets (by decide +kernel), meets (by decide +kernel),
    meets (by decide +kernel), meets (by decide +kernel), meets (by decide +kernel)⟩

/-- A moving axis 0 in RUN. -/
def moving0 : State := (ready0.set (F.AX_STATE.STATE 0) 2).modMot 0 fun m => { m with vel := 2 ^ 32 }

/-- STOP of a moving axis, JOG at the largest velocity of R45, MOVE with REPLACE (R352, R54, R79). -/
theorem witness_cuts :
    let room := fun (a : State) => decide (a.axState 0 ≠ 6 ∧ a.src 0 = 0 ∧ a.ip.cmdq.length < 16)
      && (a.mot 0).brake.isNone && (a.mot 0).recordDue.isNone
    let set := fun (a : State) => (profOf a 0 0).usable
    Meets 0x22 (req []) moving0 (fun a => room a && !stopping a 0 && !atStandstill a 0)
      ∧ Meets 0x21 (req [0, 0x4E200000]) moving0 (fun a => room a && set a && decide ((signedOf 32 0x4E200000).natAbs ≤ 0x4E200000))
      ∧ Meets 0x20 (req [4, 1000, 0]) moving0
        (fun a => room a && set a && posLegal (moveTest a 0 (qcmdOf 0x20 (req [4, 1000, 0]) a)) && posLegal (moveDist (qcmdOf 0x20 (req [4, 1000, 0]) a))
          && !outsideTravel a 0 (moveDist (qcmdOf 0x20 (req [4, 1000, 0]) a)))
      ∧ Meets 0x22 (req []) ready0 (fun a => decide (a.axState 0 ≠ 6 ∧ a.src 0 = 0) && atStandstill a 0 && (a.mot 0).cut.isNone)
      ∧ Meets 0x22 (req []) (ready0.set (F.AX_FOLLOW_STAT.SRC 0) 2) (fun a => decide (a.axState 0 ≠ 6 ∧ a.src 0 ≠ 0 ∧ a.ip.cmdq.length < 16)) :=
  ⟨meets (by decide +kernel), meets (by decide +kernel), meets (by decide +kernel), meets (by decide +kernel), meets (by decide +kernel)⟩

/-- A part in MAINT with a SLEEP that waits. -/
def sleepy : State := { live 3 with pw := { (live 3).pw with sleepPend := some (.hp, 0) } }

/-- A session open on `HP` with role `r`. -/
def sessionOf (r : BitVec 2) : Session :=
  { role := r, ext := false, kH2D := 0, kD2H := 0, kHC := 0, kDC := 0, context := [], n := 0, macFails := 0, lastAt := 0 }

/-- SESSION_OPEN that starts, and that finds a SLEEP, a failed TRNG, a lockout; SESSION_CONFIRM and LIFECYCLE that start and that
find a SLEEP (R356, R487, R491). -/
theorem witness_sessionOpen :
    let w := req (List.replicate 17 0)
    Meets 0x70 w (live 2) (fun a => a.pw.sleepPend.isNone && !a.flag F.BOOT_STAT.SELF_FAIL && !a.flag F.SEC_STAT.TRNG_FAIL
        && (a.sessPort .hp).lockEnd.isNone && (a.sessPort .hp).sess.isNone)
      ∧ Meets 0x70 w sleepy (fun a => a.pw.sleepPend.isSome)
      ∧ Meets 0x70 w ((live 2).set F.SEC_STAT.TRNG_FAIL 1) (fun a => a.flag F.SEC_STAT.TRNG_FAIL)
      ∧ Meets 0x70 w ((live 2).modSess .hp fun q => { q with lockEnd := some 1 }) (fun a => (a.sessPort .hp).lockEnd.isSome)
      ∧ Meets 0x71 (req [0, 0, 0, 0]) (live 2) (fun a => a.pw.sleepPend.isNone)
      ∧ Meets 0x71 (req [0, 0, 0, 0]) sleepy (fun a => a.pw.sleepPend.isSome)
      ∧ Meets 0x74 (req [0]) (live 3) (fun a => a.pw.sleepPend.isNone) ∧ Meets 0x74 (req [0]) sleepy (fun a => a.pw.sleepPend.isSome) :=
  ⟨meets (by decide +kernel), meets (by decide +kernel), meets (by decide +kernel), meets (by decide +kernel),
    meets (by decide +kernel), meets (by decide +kernel), meets (by decide +kernel), meets (by decide +kernel)⟩

/-- The compressed base point of P-256 as the payload of KEY_INSTALL: a serial, then 33 bytes and three of padding (R484). -/
def basePoint : List Word :=
  [0x036B17D1, 0xF2E12C42, 0x47F8BCE6, 0xE563A440, 0xF277037D, 0x812DEB33, 0xA0F4A139, 0x45D898C2, 0x96000000]

/-- KEY_INSTALL of slot 0, and of slot 1 in MANUFACTURE; PATCH_LOAD of slot 4 and of slot 3; AUX_XFER of 7, 1,025, 8 and 1,024
bits (R484, R485, R350). -/
theorem witness_started :
    let awake := fun (a : State) => a.pw.sleepPend.isNone && !a.flag F.BOOT_STAT.SELF_FAIL
    let key := fun (slot : Word) => req ([slot, 1] ++ basePoint)
    let xfer := fun (n : Word) (k : Nat) => req (n <<< 16 :: List.replicate k 0)
    let fits := fun (n : Nat) (a : State) => decide (8 ≤ n ∧ n ≤ 1024) && !a.flag F.AUX_CFG.ROLE && a.pw.sleepPend.isNone
      && decide (a.auxm.queue.length < 4)
    Meets 0x73 (key 0) (live 3) (fun a => keyInstallRange a (key 0).words)
      ∧ Meets 0x73 (key 1) (live 3) (fun a => !keyInstallRange a (key 1).words && awake a)
      ∧ Meets 0x75 (req [4]) (live 3) (fun _ => 4 ≤ getBits (4 : Word) 3 0)
      ∧ Meets 0x75 (req [3]) (live 3) (fun a => (3 : Fin 4).val = getBits (3 : Word) 3 0 && awake a)
      ∧ Meets 0x81 (xfer 7 1) (live 2) (fun _ => getBits (7 <<< 16 : Word) 26 16 < 8)
      ∧ Meets 0x81 (xfer 1025 1) (live 2) (fun _ => 1024 < getBits (1025 <<< 16 : Word) 26 16)
      ∧ Meets 0x81 (xfer 8 1) (live 2) (fits (getBits (8 <<< 16 : Word) 26 16))
      ∧ Meets 0x81 (xfer 1024 29) (live 2) (fits (getBits (1024 <<< 16 : Word) 26 16)) :=
  ⟨meets (by decide +kernel), meets (by decide +kernel), meets (by decide +kernel), meets (by decide +kernel),
    meets (by decide +kernel), meets (by decide +kernel), meets (by decide +kernel), meets (by decide +kernel)⟩

/-- MODE to BOOT, during a transition, to the present mode, to one that is not listed, to one that is, and from RUN to READY at a
standstill; RESET of target 9, without its key, with it (R341, R503). -/
theorem witness_modeReset :
    let calm := fun (a : State) => !a.flag F.MODE_STAT.TRANSIT
    Meets 0x05 (req [1]) (live 2) (fun _ => true)
      ∧ Meets 0x05 (req [4]) ((live 2).set F.MODE_STAT.TRANSIT 1) (fun a => a.flag F.MODE_STAT.TRANSIT)
      ∧ Meets 0x05 (req [2]) (live 2) (fun a => calm a && decide (2 = a.mode))
      ∧ Meets 0x05 (req [5]) (live 2) (fun a => calm a && decide (a.mode = 2))
      ∧ Meets 0x05 (req [4]) (live 2) (fun a => calm a && decide (a.mode = 2))
      ∧ Meets 0x05 (req [4]) (live 6) (fun a => calm a && decide (a.mode = 6) && allStill a)
      ∧ Meets 0x06 (req [9]) (live 2) (fun _ => 8 < getBits (9 : Word) 3 0)
      ∧ Meets 0x06 (req [1]) (live 2) (fun _ => getBits (1 : Word) 31 16 ≠ 0x5A3C)
      ∧ Meets 0x06 (req [0x5A3C0001]) (live 2) (fun _ => getBits (0x5A3C0001 : Word) 3 0 < 2 && getBits (0x5A3C0001 : Word) 31 16 = 0x5A3C) :=
  ⟨meets (by decide +kernel), meets (by decide +kernel), meets (by decide +kernel), meets (by decide +kernel),
    meets (by decide +kernel), meets (by decide +kernel), meets (by decide +kernel), meets (by decide +kernel),
    meets (by decide +kernel)⟩

/-- POS_SET of a faulted, a moving, a still axis; SOURCE of a faulted, a planned, an ARMED axis (R344, R345). -/
theorem witness_position :
    Meets 0x24 (req [0, 0]) (ready0.set (F.AX_STATE.STATE 0) 6) (fun a => a.axState 0 = 6)
      ∧ Meets 0x24 (req [0, 0]) moving0 (fun a => decide (a.axState 0 ≠ 6) && !atStandstill a 0)
      ∧ Meets 0x24 (req [0xFFFFFFFF, 0x7FFF]) ready0
        (fun a => decide (a.axState 0 ≠ 6) && a.axOn 0 && atStandstill a 0 && !axisPlanned a 0 && decide (fstate a 0 = 0))
      ∧ Meets 0x30 (req [1]) (ready0.set (F.AX_STATE.STATE 0) 6) (fun a => a.axState 0 = 6)
      ∧ Meets 0x30 (req [1]) (withIp (fun p => { p with cmdq := [qc 1 0x20 [0, 0, 0]] }) ready0)
        (fun a => decide (a.axState 0 ≠ 6) && axisPlanned a 0)
      ∧ Meets 0x30 (req [3]) (ready0.set (F.AX_STATE.STATE 0) 1)
        (fun a => decide (a.axState 0 = 1 ∨ a.axState 0 = 5) && atStandstill a 0 && !axisPlanned a 0 && (a.fol 0).engSeq.isNone && (a.fol 0).exitAt.isNone
          && a.axOn 0 && decide (fstate a 0 = 0)) :=
  ⟨meets (by decide +kernel), meets (by decide +kernel), meets (by decide +kernel), meets (by decide +kernel),
    meets (by decide +kernel), meets (by decide +kernel)⟩

/-- Axis 0 of source `k` in follow state `f`, ARMED. -/
def follower (k f : Nat) : State :=
  setAll [(F.AX_STATE.STATE 0, 1), (F.AX_FOLLOW_STAT.SRC 0, k), (F.AX_FOLLOW_STAT.FSTATE 0, f)] ready0

/-- SOURCE PACKET of an engaged follower, EXIT of a WAITING one and of an ENGAGED cam follower (R97, R100, R125). -/
theorem witness_leave :
    Meets 0x30 (req [0]) (follower 2 3)
        (fun a => !axisPlanned a 0 && (a.fol 0).engSeq.isNone && (a.fol 0).exitAt.isNone && a.axOn 0 && decide (fstate a 0 = 2 ∨ fstate a 0 = 3))
      ∧ Meets 0x32 (req []) (follower 3 1) (fun a => decide (fstate a 0 = 1))
      ∧ Meets 0x32 (req []) (follower 3 3) (fun a => decide (a.src 0 = 3 ∧ fstate a 0 = 3)) :=
  ⟨meets (by decide +kernel), meets (by decide +kernel), meets (by decide +kernel)⟩

/-- EXIT of a DISENGAGED axis and of an engaged GEAR axis; GEAR_RATIO of both; PROBE of an axis that is not ready and of one in
HOLD at a standstill (R345, R346). -/
theorem witness_follow :
    Meets 0x32 (req []) (follower 2 0) (fun a => fstate a 0 = 0)
      ∧ Meets 0x32 (req []) (follower 2 3) (fun a => decide ((fstate a 0 = 2 ∨ fstate a 0 = 3) ∧ a.src 0 ≠ 3))
      ∧ Meets 0x33 (req []) (follower 2 0) (fun a => !decide (a.src 0 = 2 ∧ (fstate a 0 = 2 ∨ fstate a 0 = 3)))
      ∧ Meets 0x33 (req []) (follower 2 2) (fun a => decide (a.src 0 = 2 ∧ (fstate a 0 = 2 ∨ fstate a 0 = 3)))
      ∧ Meets 0x41 (req []) ready0 (fun a => !probeReady a 0)
      ∧ Meets 0x41 (req []) (((ready0.set (F.AX_STATE.STATE 0) 1).set (F.AX_STATE.ENERGISED 0) 1).modMot 0 fun m => { m with policyOn := true })
        (fun a => probeReady a 0) :=
  ⟨meets (by decide +kernel), meets (by decide +kernel), meets (by decide +kernel), meets (by decide +kernel),
    meets (by decide +kernel), meets (by decide +kernel)⟩

/-- ENGAGE of a faulted axis, of a PACKET axis, and of a STEPDIR, GEAR and CAM axis at standstill (R345). -/
theorem witness_engage :
    let calm := fun (k : Nat) (a : State) => decide (a.axState 0 ≠ 6) && !axisWaits a 0 && decide (fstate a 0 = 0) && (a.fol 0).engSeq.isNone
      && (a.fol 0).gearPend.isNone && decide (a.axState 0 = 1 ∨ a.axState 0 = 5) && atStandstill a 0 && decide (a.ip.cmdq.length < 16)
      && decide (a.src 0 = k)
    Meets 0x31 (req [0]) (ready0.set (F.AX_STATE.STATE 0) 6) (fun a => a.axState 0 = 6)
      ∧ Meets 0x31 (req [0]) (follower 0 0) (fun a => decide (a.axState 0 ≠ 6 ∧ a.src 0 = 0))
      ∧ Meets 0x31 (req [0]) (follower 1 0) (calm 1) ∧ Meets 0x31 (req [0]) (follower 2 0) (calm 2)
      ∧ Meets 0x31 (req [0]) (follower 3 0) (calm 3) :=
  ⟨meets (by decide +kernel), meets (by decide +kernel), meets (by decide +kernel), meets (by decide +kernel),
    meets (by decide +kernel)⟩

/-- CAM_NEXT of an axis without an active table and of an active CAM axis (R345). -/
theorem witness_camNext :
    let active := fun (a : State) => !axisWaits a 0 && decide (a.src 0 = 3) && decide (fstate a 0 = 1 ∨ fstate a 0 = 3)
    Meets 0x34 (req [0]) (follower 3 0) (fun a => !active a) ∧ Meets 0x34 (req [0]) (follower 3 3) active
      ∧ Meets 0x34 (req [0]) (follower 3 1) active :=
  ⟨meets (by decide +kernel), meets (by decide +kernel), meets (by decide +kernel)⟩

/-- REG_WRITE and REG_BLOCK_WRITE: a first write with access code 3, one of SYS_SCRATCH, one in the BK block, one of an address
without a register, up to the last words of the map (R343, R367). -/
theorem witness_writes :
    let first := fun (w d : Word) (a : State) => (writeReg .hp false (getBits w 23 2 * 4) (getBits w 1 0) d a).2
    let empty := fun (n : Nat) => !inBk n && !isWaveAddr n && (regAt n).isNone
    Meets 0x11 (req [3, 0]) (live 2) (fun a => first 3 0 a ≠ stOk)
      ∧ Meets 0x11 (req [0x10, 7]) (live 2) (fun _ => getBits (0x10 : Word) 23 2 * 4 = F.SYS_SCRATCH.all.addr)
      ∧ Meets 0x11 (req [0x3F0000, 0]) (live 2) (fun _ => inBk 0x3F0000) ∧ Meets 0x11 (req [0xFFFFFC, 0]) (live 2) (fun _ => empty 0xFFFFFC)
      ∧ Meets 0x12 (req [3, 0]) (live 2) (fun a => first 3 0 a ≠ stOk)
      ∧ Meets 0x12 (req [0x10, 7]) (live 2) (fun _ => getBits (0x10 : Word) 23 2 * 4 = F.SYS_SCRATCH.all.addr)
      ∧ Meets 0x12 (req [0xFFFFF0, 0, 0]) (live 2)
        (fun _ => decide (0xFFFFF0 + 4 * 3 < 0x1000000) && empty 0xFFFFF0 && empty 0xFFFFF4) :=
  ⟨meets (by decide +kernel), meets (by decide +kernel), meets (by decide +kernel), meets (by decide +kernel),
    meets (by decide +kernel), meets (by decide +kernel), meets (by decide +kernel)⟩

/-- BACKSTOP_SET with access code 3, outside the BK block, of the lowest and the highest velocity limit (R498). -/
theorem witness_backstopSet :
    Meets 0x76 (req [3, 0]) (live 2) (fun a => (writeReg .hp true 0 3 0 a).2 ≠ stOk)
      ∧ Meets 0x76 (req [0x10, 0]) (live 2) (fun _ => !inBk 0x10)
      ∧ Meets 0x76 (req [0x3F0008, 1]) (live 2) (fun _ => (F.BK_VMAX.all 0).addr = 0x3F0008)
      ∧ Meets 0x76 (req [0x3F03C8, 1310720000]) (live 2) (fun _ => (F.BK_VMAX.all 15).addr = 0x3F03C8) :=
  ⟨meets (by decide +kernel), meets (by decide +kernel), meets (by decide +kernel), meets (by decide +kernel)⟩

/-- LK_READ misaligned, of 0 and of 29 words, past the system region and up to it; TRACE_READ likewise; LK_WRITE off a line, with
a SLEEP that waits, of the last line (R347, R396). -/
theorem witness_lockerOps :
    Meets 0x50 (req [2, 1]) (live 2) (fun _ => true) ∧ Meets 0x50 (req [0, 0]) (live 2) (fun _ => true)
      ∧ Meets 0x50 (req [0, 29]) (live 2) (fun _ => true)
      ∧ Meets 0x50 (req [0x3EFFFFC, 2]) (live 2) (fun _ => decide (0x3F00000 < 0x3EFFFFC + 4 * 2))
      ∧ Meets 0x50 (req [0x3EFFFFC, 1]) (live 2) (fun _ => decide (0x3EFFFFC + 4 * 1 ≤ 0x3F00000))
      ∧ Meets 0x54 (req [2, 1]) (live 2) (fun _ => true)
      ∧ Meets 0x54 (req [0xEFFFFC, 1]) (live 2) (fun a => decide (0xEFFFFC + 4 * 1 ≤ 0x100000 * (partTrc a).2))
      ∧ Meets 0x51 (req (1 :: List.replicate 8 0)) (live 3) (fun _ => true)
      ∧ Meets 0x51 (req (0 :: List.replicate 8 0)) sleepy (fun a => a.pw.sleepPend.isSome)
      ∧ Meets 0x51 (req (0x3EFFFE0 :: List.replicate 8 0)) (live 3) (fun a => a.pw.sleepPend.isNone) :=
  ⟨meets (by decide +kernel), meets (by decide +kernel), meets (by decide +kernel), meets (by decide +kernel),
    meets (by decide +kernel), meets (by decide +kernel), meets (by decide +kernel), meets (by decide +kernel),
    meets (by decide +kernel), meets (by decide +kernel)⟩

/-- A waiting LK_READ of the frame that is newest in the store of its port (R396). -/
theorem witness_lkReadTimeout :
    let s : State := { live 2 with
      hp := { (live 2).hp with store := [⟨0, 0, none, none⟩] }
      lk := { (live 2).lk with reads := [⟨0x50, req [0, 1], 0, 0, 1, []⟩] } }
    s.whReq = [] ∧ (readOf s .hp ⟨0, 0⟩).isSome = true ∧ readKey (req [0, 1]) = ⟨0, 0⟩ ∧ (s.portSt .hp).store.head?.map (·.alive) = some 0 := by decide +kernel

/-- SESSION_CLOSE without and with a session, DIAG_RUN of an axis that may not and of one that may run, AXIS_REARM of axis 15
(R490, R245, R340). -/
theorem witness_sessionDiag :
    let able := setAll [(F.QD_GD_STAT.VM_UNSETTLED 0, 0), (F.QD_GD_STAT.UV_ACT 0, 0)] (live 4)
    Meets 0x72 (req []) (live 2) (fun a => (a.sessPort .hp).sess.isNone)
      ∧ Meets 0x72 (req []) ((live 2).modSess .hp fun q => { q with sess := some (sessionOf 0) })
        (fun a => (a.sessPort .hp).sess.isSome)
      ∧ Meets 0x80 (req [1]) ((able).set (F.AX_STATE.ENERGISED 0) 1) (fun a => diagRefuses a 0)
      ∧ Meets 0x80 (req [1]) able (fun a => (List.finRange 16).all fun x => !natBit 1 x.val || !diagRefuses a x)
      ∧ Meets 0x07 (req [0x8000]) (live 4) (fun a => a.axOn 15 && natBit 0x8000 15) :=
  ⟨meets (by decide +kernel), meets (by decide +kernel), meets (by decide +kernel), meets (by decide +kernel),
    meets (by decide +kernel)⟩

/-- AXIS_REARM of axis 15 with its shunt comparator still tripped, and with an overcurrent latched at that very instant (R40, R244). -/
theorem witness_rearm :
    let oc := (live 4).modCc 15 fun c => { c with oc := c.oc.set 1 { FiltSt.reset with out := true, acc := true } }
    let hot := ((live 4).set (F.AX_GD_FLT.OC 15) 1).modGd 15 fun g => { g with fltAt := 0, fltSet := 2 }
    Meets 0x07 (req [0x8000]) oc (fun a => a.axOn 15 && natBit 0x8000 15 && decide (a.get (F.AX_CC_CFG.MODE 15) = 0)
        && ocTripped a 15 1 && freshFaults a 15 == 0 && a.lk.apply.isNone)
      ∧ Meets 0x07 (req [0x8000]) hot (fun a => a.axOn 15 && decide ((F.AX_GD_FLT.OC 15, 1, true) ∈ rearmRows a 15)
        && (freshFaults a 15).getLsbD 1 && !ocTripped a 15 0 && !ocTripped a 15 1) :=
  ⟨meets (by decide +kernel), meets (by decide +kernel)⟩

/-- SNAP under FREEZE, within the hold-off and at its end (R348, R452). -/
theorem witness_snap :
    let held : State := { live 4 with wh := { (live 4).wh with holdEnd := some 1 } }
    let ended : State := { live 4 with wh := { (live 4).wh with holdEnd := some 0 } }
    let open_ := fun (a : State) => !a.flag F.WH_CFG.FREEZE && !deepHeld a && a.lk.apply.isNone
    Meets 0x60 (req []) ((live 4).set F.WH_CFG.FREEZE 1) (fun a => a.flag F.WH_CFG.FREEZE)
      ∧ Meets 0x60 (req []) held (fun a => open_ a && holdingOff a) ∧ Meets 0x60 (req []) ended (fun a => open_ a && !holdingOff a) :=
  ⟨meets (by decide +kernel), meets (by decide +kernel), meets (by decide +kernel)⟩

/-! ### Windows -/

/-- A NOP frame with ALIVE `n` as it is shifted in: header and check word (R311, R313). -/
def nopWindow (n : Nat) : Window :=
  let h : Word := BitVec.ofNat 32 (n * 2 ^ 20)
  ⟨.hp, 0, 1, 64, false, [h, BitVec.ofNat 32 ((crc16 (wordsBytes [h])).toNat * 65536)]⟩

/-- Windows of the four cases of R315 and R316: one word short, with a wrong CRC, a repetition of a stored frame, a new NOP; HP as
the master, which clocks the words of its own reply (R326); a window that passes every check outside a session and in one. -/
theorem witness_windows :
    let good := fun (w : Window) => decide (32 ≤ w.bits ∧ headerLen (w.words.headD 0) ≠ 31 ∧ w.bits = 32 * (headerLen (w.words.headD 0) + 2))
    let crcOk := fun (w : Window) => crc16 (wordsBytes (bodyWords w)) == BitVec.ofNat 16 (getBits (checkWord w) 31 16)
    let w := nopWindow 0
    let short : Window := { w with bits := 63 }
    let spoilt : Window := { w with words := [0, 0] }
    let stored : State := { live 2 with hp := { (live 2).hp with store := [⟨0, BitVec.ofNat 16 (getBits (checkWord w) 31 16), none, none⟩] } }
    let master := (live 2).set F.HP_CFG.ROLE 1
    let more := masterWords w master
    let mw : Window := { w with tRise := 1000000, bits := 32 * more, words := w.words ++ List.replicate (more - 2) 0 }
    let met : State := { live 2 with hp := { (live 2).hp with readyAt := 1 } }
    let sess := met.modSess .hp fun q => { q with sess := some (sessionOf 0) }
    let sw : Window := { w with words := [0, checkWord w + BitVec.ofNat 32 (tagBits (macTag 0 0 0 []) 0)] }
    let passes := fun (w : Window) (m : Bool) (s : State) => crcOk w && decide (headerLen (w.words.headD 0) + 2 ≤ w.words.length) && macPasses s w
      && s.ip.running && (repeated s w).isNone && (s.portSt .hp).store.isEmpty && decide (s.get F.HP_STAT.ALIVE_EXP = 0)
      && (s.portSt .hp).roleNext.isEmpty && !(shiftWindow w m (s.at_ w.tRise)).2
      && frameOf (.nop (frameReq s w)) == some ((headerOp (w.words.headD 0)).toNat, frameReq s w)
    let fresh := fun (s : State) => (repeated s w).isNone && (s.portSt .hp).store.all (fun e => e.alive.toNat != 0)
      && decide (s.get F.HP_STAT.ALIVE_EXP = 0)
    ((live 2).whReq = [] ∧ (live 2).ip.pendReset = [] ∧ (live 2).pw.sleepPend = none ∧ sessOf (live 2) .hp = none ∧ portHears (live 2) .hp false = true ∧ (live 2).ip.running = true)
      ∧ short.bits < 32 * (headerLen 0 + 2) ∧ (good spoilt && !crcOk spoilt) = true ∧ (good w && crcOk w && headerOp (w.words.headD 0) == 0) = true
      ∧ (repeated stored w).isSome = true ∧ fresh (live 2) = true
      ∧ (portHears master .hp true && hpMasterReady mw master && passes mw true master) = true
      ∧ (good w && passes w false met) = true ∧ (good sw && passes sw false sess && (sessOf sess .hp).isSome) = true := by decide +kernel

/-- A new NOP with ALIVE 15 is accepted and the expected count wraps to 0 (R316). -/
theorem test_window_accepts :
    after (.frameReceive (nopWindow 15)) ((live 2).set F.HP_STAT.ALIVE_EXP 15)
      (fun t => t.get F.HP_STAT.ALIVE_EXP = 0 && t.get F.HP_CNT0.FRAMES_OK = 1) = true := by decide +kernel

/-- The accepted work of R341, R402, R404, R356 and R357 that goes on later. -/
theorem witness_work :
    let s := live 4
    let with_ := fun (q : QCmd) => withIp (fun p => { p with cmdq := [q] }) s
    let wave : State := { s with lk := { s.lk with waves := [(0, [])] } }
    let job : State := { s with sec := { s.sec with jobs := [(0, .lifecycle 0 0 .hp), (1, .patchLoad 3 0 .hp)] } }
    let member := setAll [(F.CV_STAT.ROLE, 2), (F.CV_UP_STAT.LINK_UP, 1)] s
    s.whReq = [] ∧ s.rst.boot = .done
      ∧ ((with_ (qc 1 0x52 [0])).lk.arm.isNone && (with_ (qc 1 0x52 [0])).lk.apply.isNone && slotExists s 0) = true
      ∧ getBits (0 : Word) 31 16 ≠ 0x5A3C ∧ ((0 : Word).getLsbD 0) = false
      ∧ waveBusy wave 0 = false ∧ wave.lk.waves.find? (fun w => w.1 = 0) = some (0, []) ∧ wave.get (F.WT_STAT.USERS 0) ≠ 0
      ∧ job.sec.jobs.find? (fun j => j.1 = 0) = some (0, .lifecycle 0 0 .hp)
      ∧ job.sec.jobs.find? (fun j => j.1 = 1) = some (1, .patchLoad 3 0 .hp) ∧ job.pd 1 = true ∧ job.get F.BOOT_STAT.SELF_FAIL = 0
      ∧ (with_ (qc 1 0x53 [0])).lk.shadow = none
      ∧ ({ s with lk := { s.lk with shadow := some ⟨0, 1, []⟩ } } : State).lk.shadow ≠ none
      ∧ headerOp 0x08000000 = 0x08 ∧ getBits (0x08000000 : Word) 19 16 = devId member ∧ 2 ≤ member.mode ∧ member.pd 8 = true
      ∧ member.get F.CV_STAT.ROLE = 2 ∧ member.ip.running = true ∧ linkUp member .up = true ∧ member.cv.up.waiting = []
      ∧ member.cv.up.replay.length + 2 ≤ 31 := by decide +kernel

/-- RESET of the device, of planner and interpreter, and of the first and the last block begins (R341, R540). -/
theorem witness_resetBegin :
    let pend := fun (n : BitVec 4) => withIp (fun p => { p with pendReset := [⟨n, .hp, 0⟩] }) (live 4)
    after .resetBegin (pend 0) (fun t => t.get F.RST_CAUSE.CAUSE = 5 && t.get F.RST_CAUSE.LEVEL = 2) = true
      ∧ after .resetBegin (pend 1) (fun t => t.get F.RST_CAUSE.LEVEL = 3) = true
      ∧ after .resetBegin (pend 2) (fun t => t.get F.BLK_RST_STAT.BLK_BUSY = 1) = true
      ∧ after .resetBegin (pend 8) (fun t => t.get F.BLK_RST_STAT.BLK_BUSY = 64) = true := by decide +kernel


/-! ### Events of planner, executor, control and gates -/

/-- Axis 0 of RUN with its motion changed, no Whistle left over and none selected for a fault. -/
def mot0 (g : MotionSt → MotionSt) : State := ready0.modMot 0 g

/-- A segment of 1 ms at velocity `v` from position 0, the last of command 1. -/
def seg1 (v : Int) : Seg :=
  { start := 0, dur := 1000000, p0 := 0, v0 := v, a0 := 0, j := 0, seq := 1, last := true, kind := .move, zeroA := false, zeroV := false,
    endP := none, goal := none }

/-- A cruise of 1 ms, the last phase of command 1. -/
def phase1 : Phase :=
  { kind := .cruise, dur := 1000000, fit := false, zeroA := false, zeroV := false, endP := none, seq := 1, last := true, seg := .move, goal := none }

/-- A stop of a brake at rest. -/
def brake1 : Brake := { why := .starved, from_ := 0, p0 := 5, at_ := 0, base := { p := 5, v := 0, a := 0 } }

/-- A cut of kind `k` at instant 8,000 by command 1. -/
def cut1 (k : CutKind) : Cut :=
  { at_ := 8000, due := 8000, kind := k, seq := some 1, base := { p := 0, v := 0, a := 0 }, rel := false, dist := 0, vel := 0, set := 0,
    prof := { vmax := 1, amax := 1, dmax := 1, jmax := 0 }, blend := false, cancels := [2] }

/-- MOVE with and without a usable set, inside and outside the travel window, and RESUME wait to be taken up (R46, R47, R82, R86). -/
theorem witness_takeUp :
    let waits := fun (op : BitVec 8) (s : State) => withIp (fun p => { p with cmdq := [qc 1 op [0, 1, 0]] }) s
    let ok := fun (s : State) => s.ip.running && s.whReq.isEmpty && canTakeUp s 0 && (nextCmd s 0).isSome
    let fenced := waits 0x20 (setAll [(F.BK_CFG.TRAVEL_EN 0, 1), (F.BK_PMAX_LO.PMAX 0, 0), (F.BK_PMAX_HI.PMAX 0, 0)] ready0)
    (ok (waits 0x20 (live 5)) && !(profOf (waits 0x20 (live 5)) 0 0).usable) = true
      ∧ (ok (waits 0x23 ready0) && decide ((waits 0x23 ready0).axState 0 ≠ 5)) = true
      ∧ (ok (waits 0x20 ready0) && (profOf (waits 0x20 ready0) 0 0).usable && !outsideTravel (waits 0x20 ready0) 0 65536
        && !jogOpen (waits 0x20 ready0) 0) = true
      ∧ (ok fenced && (profOf fenced 0 0).usable && outsideTravel fenced 0 65536) = true := by decide +kernel

/-- A segment in computation, a segment that is due for commit with an empty and with a filled queue, a stop to record with and
without a target (R67, R68, R81). -/
theorem witness_segments :
    let s := mot0 fun m => { m with phases := [phase1] }
    let due := fun (q : List Seg) => mot0 fun m => { m with window := [seg1 0], queue := q }
    let rec_ := fun (g : Option Int) => mot0 fun m => { m with recordDue := some 0, brake := some brake1, stopGoal := g }
    s.ip.running = true ∧ s.whReq = []
      ∧ ((s.plnWork.filter (computable s)).or (chooseWork s)) = some 0 ∧ (nextSeg (s.mot 0).planEnd (s.mot 0).phases).isSome = true
      ∧ commitDue (due []) 0 = true ∧ ((due []).mot 0).cut = none ∧ (due [seg1 0]).mot 0 ≠ (due []).mot 0 ∧ commitDue (due [seg1 0]) 0 = true
      ∧ ((rec_ none).mot 0).recordDue = some 0 ∧ ((rec_ (some 7)).mot 0).stopGoal = some 7
      ∧ stopRuns (due [seg1 0]) 0 = false ∧ stopRuns (mot0 fun m => { m with window := [seg1 0], brake := some brake1 }) 0 = true
      ∧ ((mot0 fun m => { m with recordDue := some 8000, cut := some (cut1 .jog) }).mot 0).cut = some (cut1 .jog)
      ∧ ((cut1 .jog).at_ < 8001 ∧ 8000 ≤ (cut1 .jog).at_) := by decide +kernel

/-- The executor's events: a cut with its queue, a stop without one, a late cut, a queue that ends in motion, the standstill delay,
the energising time, a half-period boundary with and without a segment (R57, R77, R78, R84, R89, R90). -/
theorem witness_executor :
    let cutS := fun (k : CutKind) (q w : List Seg) => mot0 fun m => { m with cut := some (cut1 k), cutQueue := q, window := w }
    let run := fun (q : List Seg) => (mot0 fun m => { m with queue := q }).modPwm 0 fun p =>
      { p with timer := { run := true, next := 400000, nextIsPeriod := false, periodAt := 0 } }
    let s := run [seg1 (2 ^ 32)]
    let k0 : KState := { p := 0, v := 0, a := 0 }
    ready0.whReq = []
      ∧ ((cutS .replace [seg1 1] []).mot 0).cut = some (cut1 .replace) ∧ ((cutS .stop [] []).mot 0).cutQueue = []
      ∧ ((cutS .replace [] [seg1 1]).mot 0).window ≠ []
      ∧ chainEndAt ((run [seg1 (2 ^ 32)]).mot 0).queue = some 8000000 ∧ (s.mot 0).brake = none ∧ (chainEndState (s.mot 0).queue k0).resting = false
      ∧ cutTakes (s.mot 0) 8000000 = false ∧ (chainEndState [{ seg1 0 with a0 := 1, dur := 0 }] k0).resting = false
      ∧ ((mot0 fun m => { m with stillAt := some 9 }).mot 0).stillAt = some 9 ∧ ((mot0 fun m => { m with queue := [] }).mot 0).queue = []
      ∧ ((mot0 fun m => { m with energiseEnd := some 9 }).mot 0).energiseEnd = some 9
      ∧ s.axOn 0 = true ∧ (s.pwm 0).timer.run = true ∧ (s.la 0).stallDue = none ∧ (s.la 0).boostEnd = none ∧ (s.la 0).resyncDue = false ∧ s.src 0 = 0
      ∧ (dropEnded 400000 (s.mot 0).queue k0).1 = [seg1 (2 ^ 32)] ∧ (seg1 (2 ^ 32)).start * nsT ≤ 400000
      ∧ ((run []).mot 0).queue = [] ∧ ((run []).la 0).fallDue = false := by decide +kernel

/-- Edges of a STEPDIR axis without and with its enable, an edge that is not active; a channel on axis 0 and one without a
source, a publishing and an engaged channel (R102, R108, R110, R111). -/
theorem witness_samples :
    let s := follower 1 3
    let en := s.modGd 0 fun g => { g with ena := true }
    let ch := setAll [(F.MCH_CFG.SRC 3, 2), (F.MCH_CFG.PUBLISH 3, 1)] (live 5)
    let pub := ch.modMch 3 fun x => { x with samples := [(1, 2)] }
    let high := s.modFol 0 fun f => { f with stpLevel := true, dirLevel := true }
    let n := filterLen (s.get (F.AX_STEP_CFG.STP_FILT 0))
    let use := (setAll [(F.MCH_CFG.SRC 3, 3), (F.AX_FOLLOW_STAT.MCH 0, 3)] (follower 2 3))
    s.whReq = [] ∧ pinsHeld s = false ∧ s.axOn 0 = true ∧ s.src 0 = 1 ∧ stepActive s 0 true = true ∧ stepActive s 0 false = false
      ∧ (s.gd 0).ena = false ∧ (en.gd 0).ena = true ∧ stepActive en 0 true = true
      ∧ ch.pd 1 = true ∧ ch.get (F.MCH_CFG.SRC 3) = 2 ∧ ch.axOn (axisOf (ch.get (F.MCH_CFG.AXIS 3))) = true ∧ ch.get (F.MCH_CFG.SRC 0) = 0
      ∧ pub.get (F.MCH_CFG.PUBLISH 3) = 1 ∧ (pub.mch[(3 : Fin 4)]).samples = [(1, 2)]
      ∧ use.get (F.MCH_CFG.SRC 3) ≠ 0 ∧ use.get (F.MCH_CFG.STALE 3) = 0 ∧ usesChan use 3 0 = true ∧ fstate use 0 = 3
      ∧ usesChan (use.set (F.AX_FOLLOW_STAT.FSTATE 0) 1) 3 0 = true ∧ (use.fol 0).lossPend = none
      ∧ (n - 1 < n ∧ ¬ n < n) ∧ (s.fol 0).stpLevel = false ∧ (high.fol 0).stpLevel = true ∧ high.src 0 = 1 ∧ stepActive high 0 false = false
      ∧ (pub.mch[(3 : Fin 4)]).viaFb = false
      ∧ (let up := pub.set F.CV_UP_STAT.LINK_UP 1
         linkUp up .up = true ∧ up.cv.up.waiting = [] ∧ up.cv.up.replay.length < 31) := by decide +kernel

/-- Computations and update points of axis 15 (R38 to R41). -/
theorem witness_control :
    let on := live 5
    let c : Comp := { t0 := 0, mid := false, iref1 := 0, iref2 := 0, pos := 0, trav := 0, vel := 0, cfg := 0, gain := 0, motor := 0, shunt := 0, late := false, passed := false }
    let sample := on.modPwm 15 fun p => { p with sampleDue := true }
    let comp := fun (s : State) => s.modCc 15 fun x => { x with comp := some c }
    let upd := on.modPwm 15 fun p => { p with updDue := true, lateNow := false, staged := none }
    let full := upd.modPwm 15 fun p => { p with staged := some (Vector.replicate 4 { on := 0, off := 0, st := 3 }) }
    let due := upd.modCc 15 fun x => { x with compDue := true }
    let third := due.set (F.AX_DEADLINE.LATE_RUN 15) 2
    on.whReq = [] ∧ natBit (on.get F.WH_AX_SEL.FLT) 15 = false ∧ on.axOn 15 = true
      ∧ (sample.pwm 15).sampleDue = true ∧ (sample.cc 15).comp = none ∧ ((comp sample).cc 15).comp = some c ∧ ((comp sample).pwm 15).sampleDue = true ∧ ((comp on).cc 15).comp = some c ∧ on.get (F.AX_STATE.ENERGISED 15) = 0
      ∧ ((comp (on.set (F.AX_STATE.ENERGISED 15) 1)).get (F.AX_STATE.ENERGISED 15)) = 1
      ∧ (full.pwm 15).staged.isSome = true ∧ (full.pwm 15).lateNow = false ∧ (full.cc 15).compDue = false ∧ chopping full 15 = false
      ∧ (due.pwm 15).staged = none ∧ (due.cc 15).compDue = true ∧ (due.pwm 15).updDue = true ∧ third.get (F.AX_DEADLINE.LATE_RUN 15) = 2
      ∧ atPeriod third 15 = !(third.pwm 15).timer.nextIsPeriod
      ∧ ((on.modLa 15 fun l => { l with boostEnd := some 3 }).la 15).boostEnd = some 3 := by decide +kernel

/-- Period boundaries of axis 15 with and without a pending set, and of a privileged channel with one; an edge of a leg that
switches; a fill and a copy of a table (R138, R200, R201, R205). -/
theorem witness_boundaries :
    let on := live 5
    let b := on.modPwm 15 fun p => { p with periodDue := true, pend := none }
    let bp := on.modPwm 15 fun p => { p with periodDue := true, pend := some (0x1F40, 0) }
    let set : PrivSet := { per := 0xFFFFF, on := 0, off := 1, en := true, pol := false }
    let pr : State := { on with priv := on.priv.set 7 { on.priv[(7 : Fin 8)] with timer := { run := true, next := 1, nextIsPeriod := true, periodAt := 0 }, pend := some set } }
    let leg := (setAll [(F.AX_EDGE_ON.ON 15 3, 1), (F.AX_EDGE_ON.LSTATE 15 3, 0)] on).modPwm 15 fun p =>
      { p with timer := { p.timer with run := true } }
    let op := fun (o : WtOp) => ({ on with wt := on.wt.set 7 { on.wt[(7 : Fin 8)] with op := some o } } : State)
    on.axOn 15 = true ∧ (b.pwm 15).periodDue = true ∧ (b.pwm 15).pend = none ∧ (bp.pwm 15).pend.isSome = true
      ∧ pr.priv[(7 : Fin 8)].timer.run = true ∧ pr.priv[(7 : Fin 8)].pend = some set
      ∧ leg.axOn 15 = true ∧ (leg.pwm 15).timer.run = true ∧ (edgeOf leg 15 3).st = 0 ∧ (edgeOf leg 15 3).on ≠ (edgeOf leg 15 3).off
      ∧ ¬ ((edgeOf leg 15 3).on = 0 ∧ (edgeOf leg 15 3).off = perOf leg 15)
      ∧ legLast (leg.modPwm 15 fun p => { p with legs := p.legs.set 3 [⟨0, 0, some true⟩] }) 15 3 = some (true, 0) ∧ legLast leg 15 3 = none
      ∧ ((b.modMot 15 fun m => { m with cut := some (cut1 .jog) }).mot 15).cut = some (cut1 .jog)
      ∧ ((op .fill).wt[(7 : Fin 8)]).op = some .fill ∧ ((op .copy).wt[(7 : Fin 8)]).op = some .copy := by decide +kernel

/-- A chopped winding in its on state, in an off state, at the last short start but one and at the last one; a burst that may
start, one that goes on and one that ends with and without a change (R161 to R163, R188 to R190). -/
theorem witness_chopProbe :
    let chop := fun (ph : ChopPhase) (n : Nat) =>
      (setAll [(F.AX_CC_CFG.MODE 0, 1), (F.AX_STATE.ENERGISED 0, 1), (F.AX_CHOP.CHOP_SHORT_N 0, 3)] ready0).modCc 0 fun c =>
        { c with w := c.w.set 1 { c.w[(1 : Fin 2)] with chop := { phase := ph, from_ := 0, since := 0, pos := true, watch := false, shorts := n, thr := 0 } } }
    let c := fun (s : State) => (s.cc 0).w[(1 : Fin 2)].chop
    let still := ((ready0.set (F.AX_STATE.STATE 0) 1).set (F.AX_STATE.ENERGISED 0) 1).modMot 0 fun m => { m with policyOn := true }
    let auto := (still.set (F.AX_PROBE_CFG.PROBE_AUTO 0) 1).modAx 0 fun x => { x with probeAt := some 0 }
    let blank := ready0.get (F.AX_CHOP.CHOP_BLANK 0) * 80
    let fed := fun (x : Samples) (s : State) => (ocFeed 0 1 x (s.at_ x.t)).1
    let ends := fun (x : Samples) (s : State) => decide ((c s).from_ + perOf s 0 ≤ (fed x s).now
      ∨ ((c s).from_ + s.get (F.AX_CHOP.CHOP_BLANK 0) * 80 ≤ (fed x s).now ∧ ocTripped (fed x s) 0 1 = true))
    let blanked := fun (x : Samples) (s : State) => ocTripped ((ocFeed 0 1 x s).1.at_ ((c s).from_ + blank)) 0 1
    let code := fun (s : State) => s.set (ocDac 0 1) 5
    let trip : Samples := ⟨blank, List.replicate 21 true⟩
    let burst := fun (n : Nat) (bad : Bool) => (auto.set (F.AX_PROBE_CFG.PROBE_CYC 0) 1).modAx 0 fun x =>
      { x with probe := some { ticket := none, n := n, at_ := 0, sums := Vector.replicate 4 0, counts := Vector.replicate 4 0, bad := bad } }
    let of := fun (s : State) => ((s.ax 0).probe.map fun p => (p.n, p.bad))
    chopping (chop .on 1) 0 = true ∧ (c (chop .on 1)).phase = .on ∧ (c (chop .on 1)).watch = false ∧ (c (chop .on 1)).shorts + 1 < 3
      ∧ (chop .on 2).get (F.AX_CHOP.CHOP_SHORT_N 0) ≤ (c (chop .on 2)).shorts + 1 ∧ blanked trip (code (chop .on 2)) = true
      ∧ blanked ⟨blank, List.replicate 20 true⟩ (code (chop .on 2)) = false ∧ (c (chop .fast 0)).phase = .fast ∧ (c (chop .slow 0)).phase = .slow
      ∧ ((auto.ax 0).probeAt = some 0 ∧ probeReady auto 0 = true) ∧ (still.ax 0).probeAt = none
      ∧ probeReady (burst 0 false) 0 = false ∧ ((burst 0 false).ax 0).probeAt = some 0
      ∧ ends ⟨perOf ready0 0, []⟩ (code (chop .on 1)) = true ∧ ends ⟨perOf ready0 0 - 1, []⟩ (code (chop .on 1)) = false
      ∧ blank + 1600 < perOf ready0 0 ∧ ends trip (code (chop .on 1)) = true ∧ ends ⟨blank, List.replicate 20 true⟩ (code (chop .on 1)) = false
      ∧ ends trip ((code (chop .on 1)).modCc 0 fun x => { x with ocHold := x.ocHold.set 1 (blank + 1) }) = false
      ∧ of (burst 3 false) = some (3, false) ∧ 3 < (burst 3 false).get (F.AX_PROBE_CFG.PROBE_CYC 0) * 4
      ∧ of (burst 4 false) = some (4, false) ∧ (burst 4 false).get (F.AX_PROBE_CFG.PROBE_CYC 0) * 4 ≤ 4
      ∧ of (burst 4 true) = some (4, true) := by decide +kernel

/-- Switch faults of axis 0: with and without an open escalation window; the last sample that makes a trip and one fewer, of a shunt
and of a switch-node comparator, the latter of a switch that is checked; an overlap of held legs, the third in a row and one of
a leg that has overlapped only once (R216, R228, R234, R235, R238); the diagnostic runs of `witness_enables` stand for the last clauses. -/
theorem witness_switchFaults :
    let on := setAll [(F.AX_CC_CFG.MODE 0, 0), (ocDac 0 0, 5)] ready0
    let esc := on.modGd 0 fun g => { g with escEnd := some 1 }
    let hot := (setAll [(F.BK_CFG.AXIS_EN 0, 1), (F.AX_GD_CFG.SN_EN 0, 1), (F.AX_STATE.STATE 0, 1), (F.AX_STATE.ENERGISED 0, 1)] on).modGd 0 fun g =>
      { g with ena := true }
    let hot := hot.modPwm 0 fun p => { p with legs := p.legs.set 0 [⟨0, 0, some true⟩] }
    let hot : State := { (setAll [(F.QD_GD_STAT.VM_UNSETTLED 0, 0), (F.QD_GD_STAT.UV_ACT 0, 0)] hot) with bk := { hot.bk with stoA := true, stoB := true } }
    let oc := fun (n : Nat) => (ocFeed 0 0 ⟨0, List.replicate n true⟩ on).2
    let sn := fun (n : Nat) => (snFeed 0 (snGate 0 true) ⟨1000000, List.replicate n true⟩ (noteGates 0 ((noteGates 0 hot).at_ 1000000))).2
    let run := fun (n : Nat) => on.modGd 0 fun g => { g with crossRun := Vector.replicate 4 n }
    let m := legMask (2 ^ 3)
    natBit (on.get F.WH_AX_SEL.FLT) 0 = false ∧ on.axOn 0 = true ∧ on.get (F.AX_CC_CFG.MODE 0) = 0
      ∧ (on.set (F.AX_CC_CFG.MODE 0) 1).get (F.AX_CC_CFG.MODE 0) ≠ 0 ∧ (on.gd 0).escEnd = none ∧ (esc.gd 0).escEnd = some 1 ∧ 0 < 1
      ∧ oc 21 = some 1600 ∧ oc 20 = none ∧ sn 21 = some 1001600 ∧ sn 20 = none
      ∧ (BitVec.ofNat 8 ((on.set (F.AX_GD_FLT.SW_OFF 0) 0xFF).get (F.AX_GD_FLT.SW_OFF 0)) &&& m = m)
      ∧ (BitVec.ofNat 8 (on.get (F.AX_GD_FLT.SW_OFF 0)) &&& m ≠ m)
      ∧ ((run 2).gd 0).crossNow.getLsbD 3 = false ∧ ((run 2).gd 0).crossRun[(3 : Fin 4)] = 2 ∧ ((run 1).gd 0).crossRun[(3 : Fin 4)] = 1 := by
  decide +kernel

/-! ### Events of pins, supplies, converters and feedback -/

/-- Trip 3 enabled for axes 0 and 15, with and without LATCH; trip 0 disabled; trip 3 at its level already (R215, R217). -/
theorem witness_trips :
    let en := fun (l : Nat) => setAll [(F.TRIP_CFG.EN 3, 1), (F.TRIP_CFG.AXES 3, 0x8001), (F.TRIP_CFG.LATCH 3, l)] (live 5)
    let hit := fun (s : State) (a : Axis) => s.axOn a && natBit (s.get (F.TRIP_CFG.AXES 3)) a
    (live 5).whReq = [] ∧ (live 5).get F.WH_AX_SEL.FLT = 0 ∧ pinsHeld (live 5) = false
      ∧ (en 1).get (F.TRIP_CFG.EN 3) = 1 ∧ natBit ((en 1).get F.TRIP_STAT.LEVEL) 3 = false ∧ hit (en 1) 0 = true ∧ hit (en 1) 15 = true
      ∧ hit (en 1) 1 = false ∧ (en 1).get (F.TRIP_CFG.LATCH 3) = 1 ∧ (en 0).get (F.TRIP_CFG.LATCH 3) = 0
      ∧ (live 5).get (F.TRIP_CFG.EN 0) = 0 ∧ natBit (((en 1).set F.TRIP_STAT.LEVEL 8).get F.TRIP_STAT.LEVEL) 3 = true
      ∧ (let seen : State := ((({ en 1 with ms := { (en 1).ms with tripAt := (en 1).ms.tripAt.set 3 (some 0) } } : State)).set (F.TRIP_CFG.FILT 3) 5)
         tripTooSoon (seen.at_ 399) 3 = true ∧ tripTooSoon (seen.at_ 400) 3 = false) := by decide +kernel

/-- A part whose motor supplies are settled, with axis 12 energised and its bridge enabled. -/
def powered : State :=
  let s := setAll [(F.QD_GD_STAT.VM_UNSETTLED 3, 0), (F.QD_GD_STAT.UV_ACT 3, 0), (F.QD_GD_STAT.OV_ACT 3, 0), (F.AX_STATE.STATE 12, 1),
    (F.AX_STATE.ENERGISED 12, 1), (F.BK_CFG.AXIS_EN 12, 1)] (live 5)
  { s.modGd 12 fun g => { g with ena := true } with bk := { s.bk with stoA := true, stoB := true } }

/-- The supplies of quad 3 with and without the bootstrap fall-back and the under-voltage latch, with an energised axis and one
that is not (R230, R233, R251, R252). -/
theorem witness_supplies :
    let bst := fun (n : Nat) => powered.set (F.QD_GD_CFG.BST_EN 3) n
    let lat := fun (n : Nat) => powered.set (F.QD_GD_CFG.UV_LATCH 3) n
    powered.whReq = [] ∧ powered.get F.WH_AX_SEL.FLT = 0 ∧ natBit (powered.get F.WH_MON_SEL.VMOV) 3 = false
      ∧ natBit (powered.get F.WH_MON_SEL.VMUV) 3 = false ∧ powered.pd 6 = true
      ∧ (bst 1).get (F.QD_GD_CFG.BST_EN 3) = 1 ∧ (bst 0).get (F.QD_GD_CFG.BST_EN 3) = 0
      ∧ powered.get (F.QD_GD_STAT.VM_UNSETTLED 3) = 0 ∧ powered.get (F.QD_GD_STAT.OV_ACT 3) = 0 ∧ powered.get (F.QD_GD_STAT.UV_ACT 3) = 0
      ∧ (12 : Axis) ∈ quadAxes 3 ∧ bridgeEnabled powered 12 = true ∧ bridgeEnabled powered 13 = false
      ∧ (lat 1).get (F.QD_GD_CFG.UV_LATCH 3) = 1 ∧ (lat 0).get (F.QD_GD_CFG.UV_LATCH 3) = 0 ∧ powered.get (F.AX_STATE.ENERGISED 12) = 1
      ∧ (powered.ms.wm[vmMon 3]).decided.getLsbD 2 = false ∧ vmMon 3 = 11 ∧ powered.pd (3 + 2) = true
      ∧ powered.pw.vgsUv = false ∧ powered.axOn 12 = true := by decide +kernel

/-- `FiltSt.steady` and `FiltSt.turns` as computations. -/
def steadyB (cfg : Word) (hold : Nat) (l : List Bool) (t : Nat) (f : FiltSt) : Bool :=
  (List.range (l.length + 1)).all fun k => (f.takes cfg hold (l.take k) t).out == f.out

theorem steady_of {cfg : Word} {hold : Nat} {l : List Bool} {t : Nat} {f : FiltSt} (h : steadyB cfg hold l t f = true) :
    f.steady cfg hold l t := by
  intro k hk
  simpa using List.all_eq_true.mp h k (by simpa using Nat.lt_succ_of_le hk)

theorem turns_of {cfg : Word} {hold : Nat} {l : List Bool} {t : Nat} {on : Bool} {f : FiltSt}
    (h : (l ≠ [] ∧ f.out = !on ∧ steadyB cfg hold l.dropLast t f = true) ∧ (f.takes cfg hold l t).out = on) : f.turns cfg hold l t on :=
  ⟨h.1.1, h.1.2.1, steady_of h.1.2.2, h.2⟩

/-- The supply monitor of quad 3 with every comparator decided, its filters showing `on`. -/
def decided3 (on : Bool) : State :=
  powered.modWm 11 fun w => { w with decided := 7, filt := Vector.replicate 3 { FiltSt.reset with hist := List.replicate 5 on, out := on } }

/-- The three samples that make each supply comparator of quad 3 active and inactive, and two that do not yet (R296). -/
theorem witness_supplyFilters :
    let f := fun (s : State) (c : Fin 3) => (s.ms.wm[(11 : Fin 12)]).filt[c]
    let maj := fun (s : State) => wmMaj s 11
    (∀ c : Fin 3, ((decided3 false).ms.wm[(11 : Fin 12)]).decided.getLsbD c = true ∧ ((decided3 true).ms.wm[(11 : Fin 12)]).decided.getLsbD c = true)
      ∧ (∀ c : Fin 3, (f (decided3 false) c).turns (maj (decided3 false)) 0 (List.replicate 3 true) 1000000 true)
      ∧ (∀ c : Fin 3, (f (decided3 true) c).turns (maj (decided3 true)) 0 (List.replicate 3 false) 1000000 false)
      ∧ ∀ c : Fin 3, (f (decided3 false) c).steady (maj (decided3 false)) 0 (List.replicate 2 true) 1000000 :=
  ⟨by decide +kernel, fun c => turns_of (by revert c; decide +kernel), fun c => turns_of (by revert c; decide +kernel),
    fun c => steady_of (by revert c; decide +kernel)⟩

/-- STO inputs high and a difference under way, with a moving axis; edges of the enable of a moving and of a STOPPED axis; a
pending diagnostic run; its first and its last phase (R243, R245, R246, R478, R480). -/
theorem witness_enables :
    let mv := fun (st : Nat) => powered.set (F.AX_STATE.STATE 12) st
    let diff : State := { powered with bk := { powered.bk with stoDiffAt := some 5 } }
    let pend := powered.modGd 15 fun g => { g with diagPend := [.first, .command] }
    let run := fun (ph : Fin 4) => powered.modGd 15 fun g => { g with diagRun := some (.command, ph) }
    powered.whReq = [] ∧ powered.get F.WH_AX_SEL.FLT = 0 ∧ powered.bk.stoA = true ∧ powered.bk.stoB = true
      ∧ (mv 2).axOn 12 = true ∧ (mv 2).axState 12 = 2 ∧ diff.bk.stoDiffAt = some 5 ∧ diff.get F.BK_DEV_STAT.STO_DISC = 0
      ∧ (let seen : State := (({ powered with bk := { powered.bk with stoAt := powered.bk.stoAt.set 0 (some 0) } } : State)).set F.BK_STO_CFG.STO_FILT 1
         stoShort (seen.at_ 79999) false = true ∧ stoShort (seen.at_ 80000) false = false ∧ stoShort (seen.at_ 79999) true = false)
      ∧ freshFaults powered 13 = 0 ∧ powered.get (F.AX_CC_CFG.MODE 13) = 0 ∧ powered.flag (ocOut 13 1) = false
      ∧ (powered.set (ocOut 13 1) 1).flag (ocOut 13 1) = true
      ∧ pinsHeld powered = false ∧ ((mv 4).gd 12).ena = true ∧ (mv 4).axState 12 = 4 ∧ (mv 5).axState 12 = 5 ∧ ((mv 5).gd 13).ena = false
      ∧ diagConds pend 3 = true ∧ ((quadAxes 3).any fun b => (pend.gd b).diagRun.isSome) = false
      ∧ (quadAxes 3).find? (fun b => !(pend.gd b).diagPend.isEmpty) = some 15 ∧ (pend.gd 15).diagPend = [.first, .command]
      ∧ ((run 0).gd 15).diagRun = some (.command, 0) ∧ ((run 3).gd 15).diagRun = some (.command, 3) := by decide +kernel

/-- The last phase with the healthy reading, `W1` high and `W2` low, and with an indeterminate node: a run passes or fails (R246). -/
theorem witness_findings :
    let run := setAll [(F.AX_DIAG_THR.DG_LO 15, 10), (F.AX_DIAG_THR.DG_HI 15, 20)] (powered.modGd 15 fun g => { g with diagRun := some (.command, 3) })
    phaseFindings run 15 3 21 21 9 9 0 = 0 ∧ phaseFindings run 15 3 15 21 9 9 0 ≠ 0 := by decide +kernel

/-- Converter results: PI, CHOP up to and past the threshold; the voltage converter after its last node; the general converter
without an input and with AIN7 alone (R163, R286 to R288). -/
theorem witness_converters :
    let mode := fun (n : Nat) => (live 5).set (F.AX_CC_CFG.MODE 0) n
    let oc := (mode 1).get (F.BK_OC.OC_CODE 0) * 32
    let seven := (live 5).set F.MS_AIN_CFG.EN 0x80
    let last : State := { live 5 with ms := { (live 5).ms with vNext := (live 5).ms.vNext.set 15 4 } }
    (live 5).whReq = [] ∧ natBit ((live 5).get F.WH_AX_SEL.FLT) 0 = false ∧ (live 5).axOn 0 = true
      ∧ (mode 0).get (F.AX_CC_CFG.MODE 0) = 0 ∧ (mode 1).get (F.AX_CC_CFG.MODE 0) = 1 ∧ (Int.ofNat oc).natAbs ≤ oc ∧ oc < (-(Int.ofNat oc) - 1).natAbs
      ∧ last.axOn 15 = true ∧ (last.gd 15).diagRun = none ∧ ((last.modGd 15 fun g => { g with diagRun := some (.first, 3) }).gd 15).diagRun.isSome = true ∧ nodeOn last 15 (nodeFrom last 15 5 4) = true
      ∧ (live 5).pd 1 = true ∧ (live 5).get F.MS_AIN_CFG.EN = 0 ∧ seven.get F.MS_AIN_CFG.EN ≠ 0 ∧ ainFrom seven 8 0 = 7 := by decide +kernel

/-- Sensor 5 in warning and not, with results at and next to both of its thresholds (R289). -/
theorem witness_temperatures :
    let cold := live 5
    let hot := cold.set F.MS_TEMP_STAT.TEMP_WARN 0x20
    let w : Int := cold.get F.MS_TEMP_CFG.TWARN * 16
    cold.whReq = [] ∧ tempOn cold 0 = true ∧ tempOn cold 5 = true ∧ natBit (cold.get F.MS_TEMP_STAT.TEMP_WARN) 5 = false
      ∧ natBit (hot.get F.MS_TEMP_STAT.TEMP_WARN) 5 = true ∧ w ≤ w ∧ ¬ w ≤ w - 1 ∧ w - 32 < w - 31 ∧ ¬ w - 32 < w - 32 := by decide +kernel

/-- TWARN and 2 °C below it, in 1/16 °C: a result at TWARN sets the bit, one 31/16 °C below keeps it, one 2 °C below clears
it (R289). -/
theorem test_tempWarn :
    let s := (live 5).set F.MS_TEMP_CFG.TWARN 100
    let hot := s.set F.MS_TEMP_STAT.TEMP_WARN 0x20
    after (.tempResult 5 1600) s (fun t => t.get F.MS_TEMP_STAT.TEMP_WARN = 0x20) = true
      ∧ after (.tempResult 5 1599) s (fun t => t.get F.MS_TEMP_STAT.TEMP_WARN = 0) = true
      ∧ after (.tempResult 5 1569) hot (fun t => t.get F.MS_TEMP_STAT.TEMP_WARN = 0x20) = true
      ∧ after (.tempResult 5 1568) hot (fun t => t.get F.MS_TEMP_STAT.TEMP_WARN = 0) = true := by decide +kernel

/-- A window monitor's comparator decided and not; a dwell that ends beyond, and short of, its threshold, for the last comparator
of AIN7 and of VM3 and for an earlier one; a comparator that a monitor does not have (R295, R299). -/
theorem witness_windowMonitors :
    let wm := fun (n : Fin 12) (d r : BitVec 3) => ((live 5).set (F.MS_WM_CFG.WM_EN 7) 1).modWm n fun w => { w with decided := d, atRelease := r }
    let at_ := fun (n : Fin 12) (d r : BitVec 3) => ((wm n d r).ms.wm[n]).decided = d ∧ ((wm n d r).ms.wm[n]).atRelease = r
    (live 5).whReq = [] ∧ (live 5).pd 1 = true ∧ (live 5).get F.WH_MON_SEL.all = 0 ∧ (live 5).get F.WH_AX_SEL.FLT = 0
      ∧ (wm 7 2 0).get (F.MS_WM_CFG.WM_EN 7) = 1 ∧ (live 5).get (F.MS_WM_CFG.WM_EN 0) = 0
      ∧ (at_ 7 2 0 ∧ (2 : BitVec 3).getLsbD 1 = true) ∧ (at_ 7 0 0 ∧ (0 : BitVec 3).getLsbD 1 = false)
      ∧ at_ 7 1 2 ∧ (1 : BitVec 3) ||| 2 = 3
      ∧ ainMon 7 = 7 ∧ vmMon 3 = 11 ∧ (live 5).pd (11 - 5) = true ∧ at_ 11 6 0 ∧ (6 : BitVec 3) ||| 1 = 7 ∧ at_ 11 0 1 ∧ (0 : BitVec 3) ||| 1 ≠ 7
      ∧ ¬ ((7 : Fin 12).val < 8 → (2 : Fin 3) ≠ 2)
      ∧ (let n := fun (l : List Bool) => (FiltSt.reset.takes (wmMaj (wm 7 1 2) 7) 0 l 0).out
         n [true] = true ∧ n [false] = false ∧ (wm 7 1 2).ms.wm[(7 : Fin 12)].filt = Vector.replicate 3 FiltSt.reset) := by decide +kernel

/-- Axis 15 with feedback mode `m` and its decoder's core changed. -/
def fb15 (m : Nat) (g : FbCore → FbCore) : State := ((live 5).set (F.AX_FB_CFG.FB_MODE 15) m).modCore 15 g

/-- QUAD edges: at the lowest and the highest position both ways, close to the last edge of each input, at and just inside both
limits; an index event with HOME_ARMED; another mode (R258, R265 to R269). -/
theorem witness_quad :
    let s := fb15 1 fun c => { c with tA := some 1000, tB := some 2000 }
    let home := ((s.set (F.AX_FB_CFG.IDX_MODE 15) 1).set (F.AX_FB_STAT.HOME_ARMED 15) 1).modCore 15 fun c => { c with fz := true }
    s.whReq = [] ∧ pinsHeld s = false ∧ s.axOn 15 = true ∧ fbMode s 15 = 1
      ∧ (s.core 15).tB = some 2000
      ∧ closer 160 2159 (s.core 15).tB = true ∧ closer 160 2160 (s.core 15).tB = false
      ∧ closer 320 1319 (s.core 15).tA = true ∧ closer 320 1320 (s.core 15).tA = false ∧ closer 160 1319 (s.core 15).tB = false
      ∧ fzActive home 15 (home.core 15).fz = true ∧ (home.core 15).idxDone = false ∧ home.get (F.AX_FB_STAT.HOME_ARMED 15) = 1
      ∧ fbMode (fb15 2 id) 15 ≠ 1
      ∧ (∀ k : Fin 4, ¬ (s.get (F.MCH_CFG.SRC k) = 1 ∧ s.get (F.MCH_CFG.AXIS k) = 15)) := by decide +kernel

/-- Filters: the shortest level that passes a filter of 50 ns is 400 units long; the inputs stand low, so that a rising edge and a Hall
code other than 0 are changes; an edge of FZ to its inactive level; tooth edges of both directions (R257, R267, R270, R273). -/
theorem witness_filters :
    let s := fun (m : Nat) => (fb15 m fun c => { c with tA := some 0 }).set (F.AX_FB_CFG.FB_FILT 15) 5
    quadInput true false = 0 ∧ quadInput false true = 1 ∧ quadInput false false = 2
      ∧ (∀ m : Fin 3, fbFilter (s (m.val + 1)) 15 = 400 ∧ ((s (m.val + 1)).core 15).fa = false) ∧ ((s 1).core 15).fz = false
      ∧ ((s 2).core 15).fb = false ∧ (1 : BitVec 3).getLsbD 0 = true ∧ fzActive (s 1) 15 false = false
      ∧ (s 3).get (F.AX_FB_CFG.WHEEL_EDGE 15) = 0 ∧ ((s 3).set (F.AX_FB_CFG.WHEEL_EDGE 15) 1).get (F.AX_FB_CFG.WHEEL_EDGE 15) ≠ 0
      ∧ closer 320 319 ((s 3).core 15).tA = true ∧ closer 320 320 ((s 3).core 15).tA = false := by decide +kernel

/-- A level of FA one unit short of the filter counts nothing; one as long as the filter counts; FA and FB within 19.875 ns of each
other count nothing either (R257, R266). -/
theorem test_quadFilter :
    let s := (fb15 1 id).set (F.AX_FB_CFG.FB_FILT 15) 5
    let pos := fun (n : Nat) (t : State) => decide (t.get (F.AX_FB_POS.POS 15) = n)
    after (.quadEdge 15 true false true ⟨100000, 399, 1000⟩) s (pos 0) = true
      ∧ after (.quadEdge 15 true false true ⟨100000, 400, 160⟩) s (pos 1) = true
      ∧ after (.quadEdge 15 true false true ⟨100000, 400, 159⟩) s (pos 0) = true := by decide +kernel

/-- A falling FA that finds FB low counts one back: from position 0 to the highest position of the revolution and one revolution
less; a rising FA that finds FB low counts one on (R261, R265). -/
theorem test_quadCounts :
    let s := fb15 1 fun c => { c with fa := true, fb := false }
    let u := fb15 1 fun c => { c with fa := false, fb := false }
    after (.quadEdge 15 true false false ⟨100000, 100000, 100000⟩) s (fun t => t.get (F.AX_FB_POS.POS 15) = revModulus s 15 - 1 ∧ t.getS (F.AX_FB_REV.REV 15) = -1) = true
      ∧ after (.quadEdge 15 true false true ⟨100000, 100000, 100000⟩) u (fun t => t.get (F.AX_FB_POS.POS 15) = 1 ∧ t.getS (F.AX_FB_REV.REV 15) = 0) = true := by
  decide +kernel

/-- HALL codes: both invalid ones, and each distance from the last valid code (R271, R272). -/
theorem witness_hall :
    let s := fb15 2 fun c => { c with hall := some 0 }
    s.whReq = [] ∧ pinsHeld s = false ∧ s.axOn 15 = true ∧ fbMode s 15 = 2 ∧ (s.core 15).hall = some 0
      ∧ hallPlace 0 = none ∧ hallPlace 7 = none
      ∧ (∀ k : Fin 6, (List.range 8).any (fun code => hallPlace code == some k.val) = true) ∧ ((fb15 2 id).core 15).hall = none := by decide +kernel

/-- Tooth edges at the mark and elsewhere, good and bad serial frames, the speed window in both methods, a timeout (R273 to R282). -/
theorem witness_wheel :
    let s := setAll [(F.AX_FB_WHEEL.TEETH 15, 60), (F.AX_FB_WHEEL.MISS 15, 2), (F.AX_FB_STAT.WHEEL_SYNC 15, 1)] (fb15 3 fun c => { c with zeroNext := false, lastP := none })
    let mark := s.set (F.AX_FB_POS.POS 15) 57
    let ser := (fb15 4 id).set (F.AX_FB_SER.SER_LEN 15) 8
    let ser := (ser.set (F.AX_FB_SER.SER_PBITS 15) 8).set (F.AX_FB_SER.SER_CHK 15) 0
    let win := (fb15 1 fun c => { c with winFirst := some 0, winLast := some 1, winNet := 1, lastT := some 0 }).set (F.AX_FB_STAT.SPEED_METH 15) 1
    s.whReq = [] ∧ s.axOn 15 = true ∧ pinsHeld s = false ∧ fbMode s 15 = 3 ∧ (s.core 15).zeroNext = false ∧ (s.core 15).lastP = none
      ∧ s.get (F.AX_FB_STAT.WHEEL_SYNC 15) = 1 ∧ wheelReads s 15 = 0 ∧ wheelReads mark 15 = 57 ∧ mark.get (F.AX_FB_WHEEL.TEETH 15) - mark.get (F.AX_FB_WHEEL.MISS 15) - 1 = 57
      ∧ ((fb15 3 id).get (F.AX_FB_STAT.WHEEL_SYNC 15) = 0 ∧ ((fb15 3 id).core 15).lastP = none)
      ∧ fbMode ser 15 = 4 ∧ serDecode ser 15 [false, false, false, false, false, false, true, true] = some 3 ∧ serDecode ser 15 [] = none
      ∧ fbMode win 15 ≠ 0 ∧ fbMode win 15 ≠ 4 ∧ win.get (F.AX_FB_STAT.SPEED_METH 15) = 1 ∧ (win.core 15).winFirst = some 0
      ∧ (win.core 15).winLast = some 1 ∧ (ser.ax 15).fb.serLate = false ∧ ((ser.modFb 15 fun f => { f with serLate := true }).ax 15).fb.serLate = true ∧ ((win.modCore 15 fun c => { c with winLast := none }).core 15).winLast = none
      ∧ (win.set (F.AX_FB_STAT.SPEED_METH 15) 0).get (F.AX_FB_STAT.SPEED_METH 15) = 0 ∧ (win.core 15).lastT = some 0 := by decide +kernel

/-! ### The AUX port, the Locker and the stack -/

/-- A commanded transfer of 8 bits. -/
def xfer1 : AuxXfer := { ticket := 5, sel := 1, bits := 8, words := [0] }

/-- The AUX port as master: a read that falls due, one that is late, a waiting read, a waiting transfer, neither; a start one unit before
the select may fall and at that instant; the end of a read and of a transfer (R277, R309, R327). -/
theorem witness_auxPort :
    let s := (live 5).set (F.AX_FB_CFG.FB_MODE 15) 4
    let aux := fun (q : List Axis) (w : List AuxXfer) (c : Option (Axis ⊕ AuxXfer)) =>
      ({ s with auxm := { AuxSt.reset with serQ := q, queue := w, cur := c, idleEnd := 8 } } : State)
    let due := fun (t : State) => t.auxm.serQ.filter fun a => t.axOn a && fbMode t a == 4
    let st := aux [15] [xfer1] none
    s.whReq = [] ∧ s.axOn 15 = true ∧ fbMode s 15 = 4 ∧ auxMaster s = true ∧ s.auxm.serQ.contains 15 = false ∧ auxReads s 15 = false
      ∧ st.auxm.serQ.contains 15 = true ∧ auxReads (aux [] [] (some (.inl 15))) 15 = true
      ∧ st.auxm.cur = none ∧ due st = [15] ∧ due (aux [0] [xfer1] none) = [] ∧ s.auxm.cur = none ∧ s.auxm.queue = [] ∧ due s = []
      ∧ (max st.now 7 < st.auxm.idleEnd ∧ st.auxm.idleEnd ≤ max st.now 8) ∧ (aux [] [] (some (.inr xfer1))).auxm.cur = some (.inr xfer1) := by
  decide +kernel

/-- The bits of a transfer leave the most significant first, and 0 beyond the words given (R350). -/
theorem test_txBits :
    txBits { xfer1 with bits := 36, words := [0x80000001] } = true :: List.replicate 30 false ++ true :: List.replicate 4 false := by decide +kernel

/-- A job of requester `r` for line 0. -/
def job1 (r : Fin 22) (why : LkWhy) (bytes : Option (List Byte)) : LkJob :=
  { who := r, why := why, line := 0, step := 1, left := 0, bytes := bytes, since := 0 }

/-- A part in RUN with the Locker's jobs `l`. -/
def locker (l : List LkJob) : State := { live 5 with lk := { (live 5).lk with jobs := l } }

/-- Bank 0 without a candidate, with DEADBALL, with a reader that wins against another, and with a back-off under way (R411). -/
theorem witness_arbitration :
    let two := locker [job1 17 .recipe none, job1 18 .cam none]
    let dead := two.set F.LK_ARB_CTRL.DEADBALL 1
    let k : BankSt := { BankSt.reset with letEnd := (Vector.replicate 26 none).set 25 (some 9) }
    two.whReq = [] ∧ two.pd 7 = true ∧ two.blockHeld 6 = false ∧ two.lk.banks[(0 : Fin 8)].busy = none
      ∧ dead.get F.LK_ARB_CTRL.DEADBALL = 1 ∧ arbWinner (live 5) 0 = none
      ∧ two.get F.LK_ARB_CTRL.DEADBALL = 0 ∧ arbWinner two 0 = some (17, 17) ∧ requestOf two 17 0 = some (job1 17 .recipe none)
      ∧ (18 : Fin 26) ∈ arbLosers two 0 (17, 17) ∧ (arbLosers two 0 (17, 17)).count 18 = 1 ∧ (16 : Fin 26) ∉ arbLosers two 0 (17, 17)
      ∧ k.letEnd[(25 : Fin 26)] = some 9 := by decide +kernel

/-- Bank 0 accesses line 0 for `j`, whose line holds `bytes`. -/
def access (j : LkJob) (listed : Bool) (bytes : List Byte) : State :=
  let s := putLine 0 bytes (locker (if listed then [j] else []))
  { s with lk := { s.lk with banks := s.lk.banks.set 0 { BankSt.reset with busy := some { job := j, endAt := 9 } } } }

/-- Lines of the four results: as written, one byte wrong, of another generation, and with three bytes wrong (R390). -/
def lineGood : List Byte := encodeLine (live 5) 0 (List.replicate 32 7)
def lineOne : List Byte := 0 :: lineGood.drop 1
def lineOld : List Byte := (List.replicate 32 7) ++ rsCheck (lineTag 0 1) (List.replicate 32 7)
def lineBad : List Byte := [0, 1, 2] ++ lineGood.drop 3

/-- Scrubber reads of each of the four results, a read of a withdrawn job, and writes with good and bad read-backs (R390, R393, R396). -/
theorem witness_lines :
    let j := job1 21 .scrub none
    let w := job1 17 (.write 3) (some (List.replicate 32 7))
    let res := fun (l : List Byte) => readLine (access j true l) 0
    let back := fun (l : List Byte) => rsDecode (tagOf (access w true []) 0) (takePad 0 36 l)
    (access j true lineGood).whReq = [] ∧ (access j true lineGood).pd 7 = true
      ∧ ((access j true lineGood).lk.banks[(0 : Fin 8)].busy).map (·.job) = some j ∧ (access j true lineGood).lk.jobs.contains j = true
      ∧ (access j false lineGood).lk.jobs.any j.same = false ∧ (access w true []).lk.jobs.contains w = true
      ∧ res lineGood = .good (List.replicate 32 7) ∧ res lineOne = .corrected (List.replicate 32 7) ∧ res lineOld = .stale ∧ res lineBad = .bad
      ∧ back lineGood = .good (List.replicate 32 7) ∧ lineGood = encodeLine (access w true []) 0 (takePad 0 32 (List.replicate 32 7))
      ∧ back lineBad = .bad ∧ w.left = 0 := by decide +kernel

/-- The scrubber and the trace writer on and off, with a record that waits (R392, R408). -/
theorem witness_scrubTrace :
    let scrub := fun (n : Nat) => (live 5).set F.LK_CFG.SCRUB_EN n
    let trace := fun (n : Nat) => (({ live 5 with lk := { (live 5).lk with trace := [[1]] } } : State)).set F.LK_TRC_CFG.TRC_EN n
    (live 5).whReq = [] ∧ (live 5).pd 7 = true ∧ (live 5).lk.jobs.any (fun j => j.who == lkScrubber) = false
      ∧ (scrub 1).get F.LK_CFG.SCRUB_EN = 1 ∧ (scrub 0).get F.LK_CFG.SCRUB_EN = 0
      ∧ (trace 1).lk.trace = [[1]] ∧ (trace 1).lk.jobs.any (fun j => j.why == .trace) = false ∧ (trace 1).get F.LK_TRC_STAT.TRC_FULL = 0
      ∧ trcSize (trace 1) ≠ 0 ∧ (trace 1).get F.LK_TRC_CFG.TRC_EN = 1 ∧ (trace 0).get F.LK_TRC_CFG.TRC_EN = 0 := by decide +kernel

/-- An arm that waits for its signature: a header with signing slot 5 and no records, signed with the private key 1, whose public
key is the base point (R399, R486). -/
def arm1 : ArmSt :=
  { seq := 1, slot := 0, total := 128, sig := true, cams := none
    lines := [(0, wordsBytesLE ([0, 0, 0, 0, 5] ++ List.replicate 11 0)
      ++ natBytes 32 0x6b17d1f2e12c4247f8bce6e563a440f277037d812deb33a0f4a13945d898c296
      ++ natBytes 32 0xdaa0d9424495d833ea129fc3759f65b9a0955acd97d67175ab0031edd81ae4b)] }

/-- The part that holds the key in slot 5 and runs the arm. -/
def arming (a : ArmSt) : State :=
  let s := live 5
  { s with
    lk := { s.lk with arm := some a }
    sec := { s.sec with keys := s.sec.keys.set 5 (some { serial := 1, point := basePoint }) } }

/-- A recipe whose signature fails for want of a key. -/
theorem witness_armFails :
    let s : State := { live 5 with lk := { (live 5).lk with arm := some arm1 } }
    s.whReq = [] ∧ s.lk.vals = [] ∧ arm1.sig = true ∧ (arm1.head.getD 4 0).toNat % 256 = 5
      ∧ sigGood s 5 arm1.digest arm1.signature = false := by decide +kernel

/-- A recipe whose signature verifies, without records. -/
theorem witness_armLoads :
    let s := arming arm1
    s.lk.vals = [] ∧ sigGood s 5 arm1.digest arm1.signature = true ∧ (highOf s 0).getD 0 ≤ arm1.version.toNat ∧ arm1.recs = some [] := by
  decide +kernel

/-- A cam-next whose table of two points is well formed and whose signature fails for want of a key (R117). -/
theorem witness_camFails :
    let v : CamVal := { id := 0, why := .next 0 1 ⟨0, 0, 0, false, 0, 0, 0⟩, step := .whole, base := 0x1000, len := 160, slot := 5, sig := true
                        lines := [(0, wordsBytesLE ([0x46434D31, 0, 2, 2] ++ List.replicate 16 0 ++ [1] ++ List.replicate 19 0))] }
    v.sig = true ∧ (camParse v).isSome = true ∧ sigGood (live 5) v.slot (camDigest v) (((lineBytes v.lines).drop (v.len - 64)).take 64) = false := by decide +kernel

/-- A part in mode `m` with ROLE `r` and both links up or down. -/
def stack (m r : Nat) (up dn : Bool) : State :=
  setAll [(F.CV_STAT.ROLE, r), (F.CV_UP_STAT.LINK_UP, bitOf up), (F.CV_DN_STAT.LINK_UP, bitOf dn)] (live m)

/-- A state whose Cenov link is changed. -/
def withCv (g : CvSt → CvSt) (s : State) : State := { s with cv := g s.cv }

/-- Ports that train, UP and DN with and without an ID; drops of a squad member, a Captain and another device, with a barrier (R422,
R428, R436, R437). -/
theorem witness_links :
    let dn := (stack 5 0 false false).set F.CV_CFG.DN_EN 1
    let id := withCv (fun c => { c with hasId := true }) dn
    let cap := (stack 5 1 true true).set F.CV_STAT.STACK_N 2
    dn.whReq = [] ∧ dn.cv.rstPend = none ∧ pinsHeld dn = false ∧ dn.pd 8 = true ∧ linkUp dn .up = false ∧ linkUp dn .dn = false ∧ dn.blockHeld 7 = false
      ∧ dn.blockHeld 8 = false ∧ dn.get F.CV_CFG.DN_EN = 1 ∧ dn.cv.hasId = false ∧ id.cv.hasId = true ∧ id.get F.CV_STAT.ROLE ≠ 3
      ∧ linkUp cap .up = true ∧ linkUp cap .dn = true ∧ isCaptain cap = true ∧ 1 < cap.get F.CV_STAT.STACK_N
      ∧ (cap.set F.CV_OPS.BAR_BUSY 1).get F.CV_OPS.BAR_BUSY = 1 ∧ cap.get F.CV_OPS.BAR_BUSY = 0
      ∧ isMember (stack 5 2 true true) = true ∧ (stack 5 2 true true).get F.CV_STAT.CAPT_LOST = 0 ∧ isMember cap = false
      ∧ isCaptain (withCv (fun c => { c with hasId := true }) (stack 5 2 true true)) = false := by decide +kernel

/-- A flit of type `typ` and number `seq` on `UP`, for device 1, with its CRC good or not. -/
def flit1 (typ seq : Nat) (good : Bool) : List Byte :=
  let h : BitVec 16 := BitVec.ofNat 16 (seq * 2048 + typ * 4)
  let b : List Byte := [h.extractLsb' 8 8, h.extractLsb' 0 8, 1] ++ List.replicate 11 0
  let c := crc16 b
  b ++ [c.extractLsb' 8 8, (if good then c.extractLsb' 0 8 else ~~~ c.extractLsb' 0 8)]

/-- Flits with a bad CRC, of an unlisted type, unsequenced, out of order and expected; NAKs of the first flit for the seventh and the
eighth time, of the second one, and of another (R424, R426). -/
theorem witness_flits :
    let s := stack 5 2 true true
    let ok := fun (b : List Byte) (typ seq : Nat) => decide (b.length = 16 ∧ crc16 (b.take 14) = b.getD 14 0 ++ b.getD 15 0)
      && (BitVec.ofNat 4 ((b.getD 0 0 ++ b.getD 1 0 : BitVec 16).toNat / 4)).toNat == typ
      && (BitVec.ofNat 5 ((b.getD 0 0 ++ b.getD 1 0 : BitVec 16).toNat / 2048)).toNat == seq
    let bad := flit1 6 0 false
    let f := fun (q : BitVec 5) => ({ typ := 6, seq := q, ack := 0, part := 0, last := true, msg := .barrier, bytes := [] } : CvFlit)
    let nak := fun (n : Nat) => withCv (fun c => { c with up := { c.up with replay := [f 0, f 1], tries := n } }) s
    let at_ := fun (n : Nat) (q : BitVec 5) => ((nak n).cvPort .up).replay.findIdx? (fun g => g.seq = q)
    let on := withCv (fun c => { c with hasId := true, up := { c.up with frameOn := some true } }) s
    s.whReq = [] ∧ s.cv.rstPend = none ∧ resetWaits s .up = false ∧ resetWaits s .dn = false ∧ levelNow s = none
      ∧ routesFrames on = true ∧ on.cv.up.frameOn = some true ∧ linkUp on .dn = true ∧ on.cv.dn.waiting = [] ∧ on.cv.dn.replay.length < 31
      ∧ linkUp s .up = true ∧ bad.length = 16 ∧ crc16 (bad.take 14) ≠ bad.getD 14 0 ++ bad.getD 15 0
      ∧ ok (flit1 12 0 true) 12 0 = true ∧ ok (flit1 3 0 true) 3 0 = true ∧ ok (flit1 4 1 true) 4 1 = true ∧ ok (flit1 11 0 true) 11 0 = true
      ∧ ok (flit1 6 0 true) 6 0 = true ∧ sequencedType 4 = true ∧ sequencedType 11 = true ∧ (s.cvPort .up).rxSeq = 0 ∧ devId s ≠ 1
      ∧ at_ 6 0 = some 0 ∧ 6 + 1 < 8 ∧ ((nak 7).cvPort .up).tries + 1 = 8 ∧ at_ 7 1 = some 1 ∧ at_ 7 2 = none := by decide +kernel

/-- Enumeration: IDs 15 and 16 on a squad member without one, its own and another on one that has one, at a Captain in RUN and in
READY, and in the other roles; sizes on DN at each (R429 to R431). -/
theorem witness_enumeration :
    let has := withCv fun c => { c with hasId := true }
    let s := stack 5 2 true true
    s.whReq = [] ∧ s.pd 8 = true ∧ linkUp s .up = true ∧ linkUp s .dn = true ∧ s.get F.CV_STAT.ROLE = 2 ∧ s.cv.hasId = false
      ∧ (15 : BitVec 5).toNat < 16 ∧ (16 : BitVec 5).toNat = 16
      ∧ (linkUp (stack 5 2 true false) .dn = false ∧ ((stack 5 2 true false).set F.CV_CFG.DN_EN 0).get F.CV_CFG.DN_EN = 0)
      ∧ (has s).cv.hasId = true ∧ devId (has s) = 0 ∧ (stack 5 3 true true).get F.CV_STAT.ROLE = 3
      ∧ (stack 5 1 true true).get F.CV_STAT.ROLE = 1 ∧ (stack 5 1 true true).mode = 5 ∧ (stack 4 1 true true).mode ≠ 5 ∧ s.pw.transit = none
      ∧ devId (has (s.set F.CV_STAT.DEV_ID 15)) = 15 ∧ linkUp (has (stack 5 2 true false)) .dn = false := by decide +kernel

/-- Stack time: a locked squad member 5 ns and 40 units off, an unlocked one at standstill, in motion, at and past 10 ms; the end of the
100 µs; a lost Captain by its link and by 4 µs; LOSS_TMO in RUN and in SAFE (R433 to R436). -/
theorem witness_stackTime :
    let s := stack 5 2 true true
    let lock := s.set F.CV_STAT.TIME_LOCK 1
    let moves := s.modMot 0 fun m => { m with queue := [seg1 0] }
    let ok := withCv (fun c => { c with errOkFrom := some 0, timeAt := some 0, upEver := true, lossEnd := some 9 }) s
    s.whReq = [] ∧ isMember s = true ∧ linkUp s .up = true ∧ lock.get F.CV_STAT.TIME_LOCK = 1 ∧ s.get F.CV_TIME.UP_DELAY = 0
      ∧ ((bytesNat ([5, 0, 0, 0, 0, 0, 0, 0] : List Byte).reverse * 8 + (0 : Byte).toNat % 8 + 0 : Nat) - (0 : Int)).natAbs ≤ 40
      ∧ 40 < ((bytesNat ([5, 0, 0, 0, 0, 0, 0, 0] : List Byte).reverse * 8 + (1 : Byte).toNat % 8 + 0 : Nat) - (0 : Int)).natAbs
      ∧ s.get F.CV_STAT.TIME_LOCK ≠ 1 ∧ stackStill s = true ∧ stackStill moves = false
      ∧ 10 * msT = 80000000 ∧ isMember (stack 5 1 true true) = false ∧ linkUp (stack 5 2 false true) .up = false
      ∧ ok.cv.errOkFrom = some 0 ∧ ok.get F.CV_STAT.CAPT_LOST = 0 ∧ 0 + 100 * usT ≤ 800000 ∧ s.cv.errOkFrom = none
      ∧ ok.cv.upEver = true ∧ ok.cv.timeAt = some 0 ∧ 0 + 4 * usT ≤ 32000 ∧ ok.cv.lossEnd = some 9 ∧ ok.pw.transit = none ∧ ok.mode = 5
      ∧ (withCv (fun c => { c with lossEnd := some 9 }) (stack 7 2 true true)).mode = 7 := by decide +kernel

/-- `LatchReady` as a computation, of a state without a hold-off or at its end. -/
def latchB (s : State) (x : Nat) : Bool :=
  s.pd 1 && !deepHeld s && s.mode != 0 && (match s.wh.holdEnd with | some e => decide (e ≤ x) | none => true) && s.get F.WH_CFG.FREEZE == 0
    && s.get F.WH_CFG.TRC_STREAM == 0 && s.lk.apply.isNone

theorem latchReady_of {s : State} {x : Nat} (h : latchB s x = true) : LatchReady s x := by
  simp only [latchB, Bool.and_eq_true, Bool.not_eq_true', bne_iff_ne, beq_iff_eq, Option.isNone_iff_eq_none] at h
  obtain ⟨⟨⟨⟨⟨⟨h1, h2⟩, h3⟩, h4⟩, h5⟩, h6⟩, h7⟩ := h
  exact ⟨h1, h2, h3, fun e he => by simpa [he] using h4, h5, h6, h7⟩

/-- Replies at a Captain and elsewhere; broadcasts ahead, with a free place, late, and of a reset; barriers with and without a routed
read that waits; the last but one and the last slot of a read-out (R358, R439 to R443). -/
theorem witness_broadcasts :
    LatchReady ((stack 5 2 true true).at_ 8) ((stack 5 2 true true).at_ 8).now ∧
    let s := stack 5 2 true true
    let cap := stack 5 1 true true
    let wait := fun (n : BitVec 16) => withCv (fun c => { c with gatherWait := n }) (cap.set F.CV_OPS.GATHER_BUSY 1)
    let held := withCv (fun c => { c with sched := [1, 2, 3] }) s
    let routed : State := { s with lk := { s.lk with reads := [⟨0x50, { req [0, 1] with port := .up }, 0, 0, 1, []⟩] } }
    s.whReq = [] ∧ s.pd 8 = true ∧ isCaptain cap = true ∧ isCaptain s = false ∧ linkUp s .up = true ∧ linkUp s .dn = true ∧ deepHeld s = false
      ∧ s.mode ≠ 0 ∧ held.ltime ≤ 4 ∧ 4 ∉ held.cv.sched ∧ held.cv.sched.length < 4 ∧ 0 < (s.at_ 8).ltime ∧ s.get F.WH_DRIVE.DRV = 0
      ∧ levelNow s = none ∧ (withCv (fun c => { c with hasId := true }) s).cv.hasId = true
      ∧ routedWaits routed ≠ [] ∧ routedWaits s = []
      ∧ (withCv (fun c => { c with barStart := some 0 }) cap).cv.barStart = some 0
      ∧ (wait 6).get F.CV_OPS.GATHER_BUSY = 1 ∧ (wait 6).cv.gatherWait.getLsbD 1 = true ∧ (6 : BitVec 16) &&& ~~~ BitVec.ofNat 16 (2 ^ 1) ≠ 0
      ∧ (wait 0x8000).cv.gatherWait.getLsbD 15 = true ∧ (0x8000 : BitVec 16) &&& ~~~ BitVec.ofNat 16 (2 ^ 15) = 0
      ∧ cap.get F.CV_OPS.GATHER_BUSY = 0 ∧ cap.get F.CV_OPS.BAR_BUSY = 0 ∧ cap.ip.running = true ∧ cap.ip.loLatch = [] ∧ levelNow cap = none
      ∧ (∀ l : Fin 2, ((cap.cvPort (if l = 0 then .up else .dn)).waiting = [] ∧ (cap.cvPort (if l = 0 then .up else .dn)).replay.length < 31)) :=
  ⟨latchReady_of (by decide +kernel), by decide +kernel⟩

/-! ### Whistles, resets, start-up and security -/

/-- Schedules that find the latch ready and one within the hold-off; edges of WHSL enabled, frozen, disabled and in the hold-off; the
ends of drive and hold-off; a takeover (R441, R449, R452). -/
theorem witness_whistles :
    let held := withCv (fun c => { c with sched := [5, 4] }) (live 5)
    let off := fun (s : State) => ({ s with wh := { s.wh with holdEnd := some 1000, driveEnd := some 9 } } : State)
    let pin := fun (n : Nat) => (live 5).set F.WH_CFG.PIN_IN_EN n
    let test : State := { live 5 with tap := { (live 5).tap with takeover := true } }
    (LatchReady held 32 ∧ LatchReady (off (live 5)) 1000 ∧ LatchReady (pin 1) 0) ∧ held.whReq = [] ∧ held.pd 1 = true ∧ held.cv.sched = [5, 4]
      ∧ held.get F.WH_DRIVE.DRV = 0 ∧ deepHeld held = false ∧ held.mode ≠ 0 ∧ held.lk.apply = none ∧ (off held).wh.holdEnd = some 1000 ∧ 32 < 1000
      ∧ (live 5).cv.sched = [] ∧ pinsHeld (live 5) = false ∧ (pin 1).get F.WH_CFG.PIN_IN_EN = 1 ∧ (pin 0).get F.WH_CFG.PIN_IN_EN = 0
      ∧ ((pin 1).set F.WH_CFG.FREEZE 1).get F.WH_CFG.FREEZE = 1 ∧ (pin 1).wh.holdEnd = none ∧ pinsHeld test = true
      ∧ (off held).wh.driveEnd = some 9 :=
  ⟨⟨latchReady_of (by decide +kernel), latchReady_of (by decide +kernel), latchReady_of (by decide +kernel)⟩, by decide +kernel⟩

/-- A scheduled Whistle ends the schedule and counts its latch (R441, R453). -/
theorem test_whistle :
    after .scheduledWhistle (withCv (fun c => { c with sched := [5, 4] }) (live 5))
      (fun t => t.cv.sched = [5] && t.now = 32 && t.get F.WH_STAT.LAST_SRC = 3 && t.get F.WH_STAT.LATCH_NO = 1) = true := by decide +kernel

/-- A part after power-on, with its level-1 reset in the boot state `b`. -/
def booting (b : BootSt) : State := { live 1 with rst := { (live 1).rst with boot := b, level := 2 } }

/-- Pulses of nRST at 999, 1,000, 2,999 and 3,000 ns with the pin free and held; tamper, wake, supplies and the watchdog in and out of
SLEEP and of a reset (R526, R527, R531). -/
theorem witness_resets :
    let wakes := (live 0).set F.PD_WAKE.WAKE_WHSL 1
    let free := fun (s : State) => decide (s.rst.boot ≠ .stretch) && decide (s.rst.boot ≠ .held)
    (live 5).whReq = [] ∧ free (live 5) = true ∧ levelNow (live 5) = none ∧ free (booting .stretch) = false ∧ free (booting .held) = false
      ∧ levelNow (booting .stretch) = some 2 ∧ ((999 < 1000 ∧ 1000 ≤ 1000) ∧ (2999 < 3000 ∧ 3000 ≤ 3000))
      ∧ (live 5).mode ≠ 0 ∧ (live 0).mode = 0 ∧ pinsHeld wakes = false ∧ wakes.get F.PD_WAKE.WAKE_WHSL = 1 ∧ wakes.pw.supplies.getLsbD 2 = true
      ∧ ((live 0).set F.PD_WAKE.WAKE_WHSL 0).get F.PD_WAKE.WAKE_WHSL ≠ 1
      ∧ (live 5).pd 0 = true ∧ (live 5).pd 1 = true ∧ (live 5).ip.running = true ∧ State.reset.ip.running = false := by decide +kernel

/-- The stretch and the hold; each domain that may rise and ones that may not; a restart due and not due (R528, R537, R539). -/
theorem witness_domains :
    let up := fun (n : Nat) (b : BootSt) =>
      let s := setAll [(F.PD_CTRL.QUAD_ON, 15), (F.PD_CTRL.LNK_ON, 1)] (booting b)
      ({ s with pw := { s.pw with on := s.pw.on &&& ~~~ BitVec.ofNat 10 (2 ^ n) } } : State)
    let again := fun (r : Bool) => ({ live 5 with rst := { (live 5).rst with restart := r } } : State)
    (booting .stretch).whReq = [] ∧ (booting .stretch).rst.boot = .stretch ∧ (booting .held).rst.boot = .held ∧ (live 5).rst.boot ≠ .stretch
      ∧ (live 5).rst.boot ≠ .held
      ∧ mayRise (up 1 .power) 1 = true ∧ mayRise (up 2 .checked) 2 = true ∧ mayRise (up 7 .power) 7 = true ∧ mayRise (up 7 .done) 7 = true
      ∧ mayRise (up 8 .done) 8 = true ∧ mayRise (up 9 .done) 9 = true ∧ mayRise (up 3 .done) 3 = true ∧ mayRise (up 6 .done) 6 = true
      ∧ (up 6 .done).get F.TRIP_STAT.LEVEL = 0 ∧ mayRise (live 5) 0 = false ∧ mayRise (live 5) 1 = false
      ∧ (again true).rst.restart = true ∧ (again true).pd 2 = true ∧ (again false).rst.restart = false
      ∧ (live 5).get F.LAST_COMMITTED_SEQ.SEQ_VALID = 0
      ∧ (setAll [(F.LAST_COMMITTED_SEQ.SEQ_VALID, 1), (F.LAST_COMMITTED_SEQ.SEQ, 0xFFFF)] (live 5)).get F.LAST_COMMITTED_SEQ.SEQ = 0xFFFF := by
  decide +kernel

/-- Start-up with both images, the mirror alone and neither; the self-check; a patch of a sufficient and of a lower version; the end of
BOOT (R485, R534, R535, R537, R545). -/
theorem witness_boot :
    let s := booting .power
    let spoil := fun (l : Nat) (t : State) => putLine l (List.replicate 36 1) t
    let armed := fun (n : Nat) => ({ booting .checked with
      rst := { (booting .checked).rst with toVerify := [3] }
      sec := { (live 5).sec with svn := n, patches := (live 5).sec.patches.set 3 { armed := some 2, applied := false } } } : State)
    s.whReq = [] ∧ s.rst.boot = .power ∧ s.pd 1 = true ∧ s.pd 7 = true ∧ (readImage 0x1F8000 s).1.isSome = true
      ∧ (readImage 0x1F8000 (spoil 0x1F8000 s)).1 = none ∧ (readImage 0x1F8002 (spoil 0x1F8000 s)).1.isSome = true
      ∧ (readImage 0x1F8002 (spoil 0x1F8002 (spoil 0x1F8000 s))).1 = none
      ∧ (booting .loaded).rst.boot = .loaded ∧ (armed 2).rst.boot = .checked ∧ (3 : Fin 4) ∈ (armed 2).rst.toVerify
      ∧ (armed 2).sec.patches[(3 : Fin 4)].armed = some 2 ∧ (armed 2).get F.BOOT_STAT.SELF_FAIL = 0 ∧ (armed 2).sec.svn ≤ 2 ∧ ¬ (armed 3).sec.svn ≤ 2
      ∧ (booting .checked).rst.toVerify = [] ∧ (booting .checked).pd 2 = true ∧ (live 5).rst.boot ≠ .power := by decide +kernel

/-- Domains and supplies that are up and down; block resets of the lowest and the highest block, and of quad 3 (R517, R540). -/
theorem witness_losses :
    let reset := fun (b : BitVec 4) => ({ live 5 with rst := { (live 5).rst with block := some b } } : State)
    let off : State := { live 5 with pw := { (live 5).pw with on := 3 } }
    (live 5).whReq = [] ∧ ((List.range 10).all fun n => (live 5).pd n) = true ∧ off.pd 9 = false ∧ off.pd 2 = false
      ∧ (∀ c : Fin 4, fedBy (live 5) 3 c = false) ∧ (live 5).get F.WH_AX_SEL.FLT = 0 ∧ (live 5).pw.vgsUv = false ∧ (live 5).rst.block = none
      ∧ (reset 2).rst.block = some 2 ∧ (reset 8).rst.block = some 8 ∧ (2 ≤ (2 : BitVec 4).toNat ∧ (8 : BitVec 4).toNat ≤ 8) ∧ 6 ≤ (8 : BitVec 4).toNat
      ∧ (5 : BitVec 4).toNat = 2 + 3 ∧ (reset 5).pd (3 + 3) = true ∧ (reset 5).get F.TRIP_STAT.LEVEL = 0 := by decide +kernel

/-- A session open and not on `AUX`, a lockout and none, a store under way and none, PD1 up and down (R472, R487, R490, R493). -/
theorem witness_security :
    let s := (live 5).modSess .aux fun q => { q with sess := some (sessionOf 1), lockEnd := some 9 }
    let store := fun (img bad : Bool) => ({ live 5 with bk := { (live 5).bk with storing := true, imaging := img, failed := bad } } : State)
    s.whReq = [] ∧ (s.sessPort .aux).sess = some (sessionOf 1) ∧ (s.sessPort .hp).sess = none ∧ (s.sessPort .aux).lockEnd = some 9
      ∧ (s.sessPort .hp).lockEnd = none ∧ s.pd 1 = true ∧ State.reset.pd 1 = false ∧ storeOver (store true false) = true
      ∧ storeOver (store false true) = true ∧ storeOver (store false false) = false ∧ storeOver s = false := by decide +kernel

/-- REFIN as the source and not, with and without DEGRADED_HALT in RUN; a calibration that takes the reference and one that does not;
the end of the 1 ms; transitions to CONFIG, to SAFE and none; SLEEP with and without a wake edge (R28 to R32, R504, R518). -/
theorem witness_timeAndMode :
    let s := live 5
    let ref := (s.set F.TB_STATUS.SRC 1).set F.TB_CTRL.DEGRADED_HALT 0
    let halt := ref.set F.TB_CTRL.DEGRADED_HALT 1
    let good := fun (s : State) => ({ s.set F.TB_CTRL.REFIN_EN 1 with tb := { s.tb with refGood := true } } : State)
    let going := fun (m : BitVec 3) => ({ live 5 with pw := { (live 5).pw with transit := some (m, 15) } } : State)
    s.whReq = [] ∧ s.pd 1 = true ∧ s.get F.TB_STATUS.SRC ≠ 1 ∧ ref.get F.TB_STATUS.SRC = 1 ∧ ref.get F.TB_CTRL.DEGRADED_HALT = 0
      ∧ halt.get F.TB_CTRL.DEGRADED_HALT = 1 ∧ halt.mode = 5 ∧ halt.pw.transit = none
      ∧ refUsable (good s) = true ∧ (good s).get F.TB_STATUS.SRC = 0 ∧ s.mode ≠ 1 ∧ refUsable s = false
      ∧ s.tb.testFrom + msT ≤ 8000000 ∧ 7999999 < s.tb.testFrom + msT
      ∧ (going 2).pw.transit = some (2, 15) ∧ (going 7).pw.transit = some (7, 15) ∧ (going 7).pw.autoNext = none
      ∧ sleepy.pw.sleepPend.isSome = true ∧ sleepy.sec.auditBuf = [] ∧ sleepy.pw.supplies.getLsbD 2 = true
      ∧ (sleepy.set F.PD_WAKE.WAKE_WHSL 1).get F.PD_WAKE.WAKE_WHSL = 1 ∧ s.pw.sleepPend = none := by decide +kernel

/-- The test port with VDD33 good: opcodes that select BYPASS and ones that do not, private instructions open and locked, GATETEST in
and out of MANUFACTURE, with PD1 up and down, a takeover under way and none (R571 to R579). -/
theorem witness_tap :
    let tap := fun (g : TapSt → TapSt) (s : State) => ({ s with tap := g s.tap } : State)
    let manu := tap (fun t => { t with sensed := some 0 }) { live 5 with sec := { (live 5).sec with life := 0 } }
    let field := tap (fun t => { t with sensed := some 2 }) { live 5 with sec := { (live 5).sec with life := 2 } }
    let test := tap (fun t => { t with takeover := true, instr := .gatetest }) manu
    let dark : State := { live 5 with pw := { (live 5).pw with on := 1 } }
    manu.whReq = [] ∧ manu.get F.WH_AX_SEL.FLT = 0 ∧ tapWorks manu = true ∧ manu.tap.takeover = false ∧ test.tap.takeover = true
      ∧ tapDecode manu 0xFF = .bypass ∧ tapDecode manu 0x01 ≠ .bypass ∧ tapDecode field 0x40 = .bypass ∧ tapDecode field 0x41 = .bypass
      ∧ privOpen manu = true ∧ privOpen field = false ∧ (0x41 ≤ (0x41 : BitVec 8).toNat ∧ (0x7F : BitVec 8).toNat ≤ 0x7F)
      ∧ ((0x40 : BitVec 8).toNat < 0x41 ∧ 0x7F < (0x80 : BitVec 8).toNat) ∧ manu.pd 1 = true ∧ dark.pd 1 = false ∧ tapWorks dark = true
      ∧ manu.tap.sensed = some 0 ∧ manu.sec.life = 0 ∧ field.tap.sensed ≠ some 0
      ∧ test.tap.instr = .gatetest ∧ (tap (fun t => { t with instr := .extest }) manu).tap.instr = .extest
      ∧ (tap (fun t => { t with takeover := true, instr := .bypass }) manu).tap.instr.drives = false ∧ test.tap.instr.drives = true := by
  decide +kernel

/-! ### Register writes -/

/-- The word `data` written whole to the register at `addr` in `s` as the unlock is consumed. -/
def wrAt (s : State) (row : RegRow) (i j addr : Nat) (data : Word) : RegWr :=
  wrOf (consumeUnlock s) row i j addr (wrMask 0 data) (wrBits 0 data)

/-- A write to a listed register, judged: the row, whether an RWK field changes, the ranges, the state. -/
def judged (s : State) (addr : Nat) (data : Word) : Option (Bool × Bool × Bool) :=
  (regAt addr).map fun r =>
    let w := wrAt s r.1 r.2.1 r.2.2 addr data
    (rwkChanged r.1.fields w.old w.new, fieldsInRange r.1.fields w.mask w.new && crossLegal (consumeUnlock s) w, stateAdmits (consumeUnlock s) w)

/-- Writes that each check of R366 stops: the BK block, a domain that is off, the active and a busy and a free shadow wave buffer, no
register, an RWK change out of its mode and without the unlock, a value out of range, a running decoder; and ones that pass. -/
theorem witness_writeChecks :
    let unlocked := withIp (fun p => { p with unlocked := true }) (live 2)
    let off : State := { live 2 with pw := { (live 2).pw with on := 3 } }
    let wave := fun (a : Nat) => isWaveAddr a && !inBk a && (live 2).pd (domainOf a)
    let thr := (F.AX_DIAG_THR.DG_LO 0).addr
    let role := F.HP_CFG.ROLE.addr
    (live 2).whReq = [] ∧ (live 2).ip.running = true ∧ inBk (0x3F0000 / 4 * 4) = true ∧ inBk (0x3F03FC / 4 * 4) = true ∧ inBk 0x3EFFFC = false
      ∧ off.pd (domainOf 0x100000) = false ∧ wave 0x200000 = true ∧ wave 0x2007FC = true ∧ (0x2007FC - 0x200000) % 0x1000 < 0x800
      ∧ wave 0x200800 = true ∧ 0x800 ≤ (0x200800 - 0x200000) % 0x1000 ∧ waveBusy (live 2) 0 = false
      ∧ waveBusy ((live 2).set (F.WT_STAT.BUSY 0) 1) 0 = true
      ∧ (regAt 0x3EFFFC).isNone = true ∧ isWaveAddr 0x3EFFFC = false ∧ (live 2).pd (domainOf 0x3EFFFC) = true
      ∧ (judged (live 5) role 0x201).map (·.1) = some true ∧ (live 5).mode = 5 ∧ (live 2).mode = 2
      ∧ (judged (live 2) role 0x201).map (fun x => (x.1, x.2.1)) = some (true, true) ∧ (live 2).ip.unlocked = false ∧ unlocked.ip.unlocked = true
      ∧ (judged (live 2) thr 0x00640064).map (·.2.1) = some false ∧ (judged (live 2) thr 0x00C80064).map (·.2.1) = some true
      ∧ ((live 2).pd (domainOf role) && (live 2).pd (domainOf thr)) = true
      ∧ (judged (withIp (fun p => { p with unlocked := true }) ((fb15 1 id).set F.MODE_STAT.MODE 2)) (F.AX_FB_REV_COUNT.REV_COUNT 15).addr 8).map (·.2)
        = some (true, false) := by decide +kernel

/-- A write of the whole of SYS_SCRATCH, a register without an action, passes every check (R367). -/
theorem witness_plainWrite :
    let a := F.SYS_SCRATCH.all.addr
    (live 2).ip.loLatch = [] ∧ inBk a = false ∧ (live 2).pd (domainOf a) = true ∧ isWaveAddr a = false
      ∧ (regAt a).map (·.1.id) = some .SYS_SCRATCH ∧ judged (live 2) a 0xFFFFFFFF = some (false, true, true) ∧ State.reset.ip.running = false := by
  decide +kernel

/-- A whole write of SYS_SCRATCH stores its data, one with access code 3 stores nothing and is refused with RANGE; ones written to the
W1C field TEMP_EVT clear it (R8, R362, R366). -/
theorem test_registerWrite :
    let s := (live 2).set F.SYS_SCRATCH.all 0x11223344
    after (.registerWrite (BitVec.ofNat 24 F.SYS_SCRATCH.all.addr) 0 0xAABBCCDD) s (fun t => t.get F.SYS_SCRATCH.all = 0xAABBCCDD) = true
      ∧ after (.registerWrite (BitVec.ofNat 24 F.SYS_SCRATCH.all.addr) 3 0xAABBCCDD) s
        (fun t => t.get F.SYS_SCRATCH.all = 0x11223344 && t.get F.CMD_REFUSE.LAST_CODE = 0x12) = true
      ∧ after (.registerWrite (BitVec.ofNat 24 F.MS_TEMP_STAT.TEMP_EVT.addr) 0 0xFFFFFFFF) ((live 2).set F.MS_TEMP_STAT.TEMP_EVT 0x21)
        (fun t => t.get F.MS_TEMP_STAT.TEMP_EVT = 0) = true := by decide +kernel

/-- The device registers' conditions: MCH_CFG legal at STALE_T 2, REFIN_EN with REFIN as the source, a port role that differs with and
without the unlock, STORE free, busy and out of CONFIG, partitions legal and not, a stack reset, a barrier and a gather. -/
theorem witness_deviceRegisters :
    let unlocked := withIp (fun p => { p with unlocked := true }) (live 2)
    let parts := setAll [(F.LK_PART_REC.BASE, 0), (F.LK_PART_REC.SIZE, 33)] (live 2)
    let cap := stack 5 1 true true
    let waits : State := { live 2 with hp := { (live 2).hp with roleNext := [(none, false, true)] } }
    let fullPort := withCv (fun c => { c with dn := { c.dn with replay := List.replicate 31 ⟨6, 0, 0, 0, true, .barrier, []⟩ } }) cap
    rolePends false waits = true ∧ rolePends false (live 2) = false ∧ isMember (live 2) = false
      ∧ 31 ≤ (fullPort.cvPort .dn).replay.length ∧ linkUp fullPort .dn = true ∧ (cap.cvPort .up).waiting = [] ∧ (cap.cvPort .dn).waiting = []
      ∧ (cap.cvPort .up).replay.length < 31 ∧ (cap.cvPort .dn).replay.length < 31 ∧ levelNow cap = none ∧
    (live 2).whReq = [] ∧ (live 2).ip.running = true ∧ (live 2).ip.loLatch = [] ∧ (live 2).pd 1 = true ∧ (live 2).pd 7 = true ∧ (live 2).pd 8 = true
      ∧ 2 ≤ getBits (0x20001 : Word) 23 16 ∧ ¬ (getBits (0x20001 : Word) 1 0 = 3) ∧ (∀ c : Fin 4, ∀ a : Axis, usesChan (live 2) c a = false)
      ∧ (setAll [(F.TB_CTRL.REFIN_EN, 1), (F.TB_STATUS.SRC, 1)] (live 2)).get F.TB_STATUS.SRC = 1 ∧ (live 2).pw.transit = none
      ∧ (live 2).get F.HP_CFG.ROLE = 0 ∧ (live 5).mode ≠ 2 ∧ (live 2).mode = 2 ∧ unlocked.ip.unlocked = true ∧ (∀ a : Axis, fbMode unlocked a ≠ 4)
      ∧ (live 2).get F.BK_DEV_STAT.STORE_BUSY = 0 ∧ (live 2).pw.sleepPend = none ∧ ((live 2).set F.BK_DEV_STAT.STORE_BUSY 1).get F.BK_DEV_STAT.STORE_BUSY = 1
      ∧ partsLegal ((live 2).get F.LK_PART_REC.BASE, (live 2).get F.LK_PART_REC.SIZE) ((live 2).get F.LK_PART_CAM.BASE, (live 2).get F.LK_PART_CAM.SIZE)
        ((live 2).get F.LK_PART_TRC.BASE, (live 2).get F.LK_PART_TRC.SIZE) = true
      ∧ partsLegal (parts.get F.LK_PART_REC.BASE, parts.get F.LK_PART_REC.SIZE) (0, 0) (0, 0) = false
      ∧ levelNow (live 2) = none ∧ isCaptain (live 2) = false ∧ isCaptain cap = true ∧ cap.get F.CV_OPS.BAR_BUSY = 0 ∧ linkUp cap .dn = true
      ∧ linkUp (stack 5 1 true false) .dn = false ∧ (cap.set F.CV_OPS.BAR_BUSY 1).get F.CV_OPS.BAR_BUSY = 1 ∧ cap.get F.CV_OPS.GATHER_BUSY = 0
      ∧ BitVec.ofNat 16 ((2 ^ (cap.set F.CV_STAT.STACK_N 16).get F.CV_STAT.STACK_N - 1) / 2 * 2) = 0xFFFE := by decide +kernel

/-- The axis registers' conditions: a commit that fits and one that does not; TABLE_PEND 0 and 1; feedback modes 0 to 5 from mode 0 and
from mode 1; an axis a follower uses; a busy table, one with users, one without (R138, R199, R203, R260). -/
theorem witness_axisRegisters :
    let fits := fun (n : Nat) => (live 5).set (F.AX_PWM_STG.PER 15) n
    let used := setAll [(F.MCH_CFG.SRC 0, 1), (F.MCH_CFG.AXIS 0, 15), (F.AX_FOLLOW_STAT.MCH 0, 0)] (follower 2 3)
    let need := 4000 + (live 5).get (F.AX_PWM_DLY.DLY_R 15) + (live 5).get (F.AX_PWM_DLY.DLY_F 15)
    let teeth := fun (s : State) => decide (s.get (F.AX_FB_REV_COUNT.REV_COUNT 15) = s.get (F.AX_FB_WHEEL.TEETH 15))
    (live 5).whReq = [] ∧ (live 5).ip.running = true ∧ (live 5).ip.loLatch = [] ∧ (live 5).pd (3 + (quadOf 15).val) = true
      ∧ commitFits (fits need) 15 = true ∧ commitFits (fits (need - 1)) 15 = false ∧ (live 5).mode = 5 ∧ (live 2).mode = 2
      ∧ (live 5).get (F.AX_WAVE.TABLE_PEND 15) = 0 ∧ ((live 5).set (F.AX_WAVE.TABLE_PEND 15) 1).get (F.AX_WAVE.TABLE_PEND 15) = 1
      ∧ fbMode (live 5) 15 = 0 ∧ fbMode (fb15 1 id) 15 = 1 ∧ 4 < (5 : BitVec 3).toNat ∧ (4 : BitVec 3).toNat ≤ 4
      ∧ fbFollowed used 15 = true ∧ fbFollowed (live 5) 15 = false
      ∧ teeth (setAll [(F.AX_FB_REV_COUNT.REV_COUNT 15, 60), (F.AX_FB_WHEEL.TEETH 15, 60)] (live 5)) = true
      ∧ teeth (setAll [(F.AX_FB_REV_COUNT.REV_COUNT 15, 60), (F.AX_FB_WHEEL.TEETH 15, 59)] (live 5)) = false
      ∧ (live 5).get F.AUX_CFG.ROLE = 0 ∧ serialSelTaken (live 5) 15 ((live 5).get (F.AX_FB_SER.SEL 15)) = false
      ∧ (∀ c : Fin 4, (live 5).get (F.MCH_CFG.SRC c) ≠ 1 ∨ (live 5).get (F.MCH_CFG.AXIS c) ≠ 15)
      ∧ (live 5).pd 1 = true ∧ waveBusy ((live 5).set (F.WT_STAT.SWAP_PEND 7) 1) 7 = true ∧ waveBusy (live 5) 7 = false
      ∧ ((live 5).set (F.WT_STAT.USERS 7) 1).get (F.WT_STAT.USERS 7) ≠ 0 ∧ (live 5).get (F.WT_STAT.USERS 7) = 0 := by decide +kernel

end Sys2Proof.Tests
end

/-! # Registers at reset, and writes that store their fields -/

namespace Sys2Proof.Machine

/-! ### The register map -/

/-- A register found at an address is a row of the list searched, with the copy that lies there. -/
theorem regAtIn_some {l : List RegRow} {addr i j : Nat} {row : RegRow} (h : regAtIn l addr = some (row, i, j)) :
    row ∈ l ∧ row.index addr = some (i, j) := by
  induction l with
  | nil => cases h
  | cons r l ih =>
    rw [regAtIn] at h
    split at h
    · rename_i ij hij
      obtain ⟨rfl, rfl⟩ := Prod.mk.inj (Option.some.inj h)
      exact ⟨List.mem_cons_self, hij⟩
    · exact ⟨List.mem_cons_of_mem _ (ih h).1, (ih h).2⟩

/-- The copy of a register at an address, by the base, the strides and the first number of its row. -/
theorem RegRow.index_some {r : RegRow} {addr i j : Nat} (h : r.index addr = some (i, j)) :
    ∃ k < r.n1, j < r.n2 ∧ i = k + r.first ∧ r.base + k * r.s1 + j * r.s2 = addr := by
  unfold RegRow.index at h
  dsimp only at h
  split at h
  · rename_i hc
    obtain ⟨-, h1, h2, h3⟩ := hc
    obtain ⟨hi, hj⟩ := Prod.mk.inj (Option.some.inj h)
    subst hj
    exact ⟨_, h1, h2, hi.symm, h3⟩
  · cases h

/-- The row of the Backstop thresholds in the register map (R381). -/
theorem bkOc_row : ∀ r ∈ regRows, r.id = .BK_OC → r.base = 0x3F0004 ∧ r.n1 = 16 ∧ r.s1 = 64 ∧ r.s2 = 0 := by decide +kernel

/-- The row of the probe settings in the register map. -/
theorem probeCfg_row : ∀ r ∈ regRows, r.id = .AX_PROBE_CFG → r.n1 = 16 ∧ r.first = 0 := by decide +kernel

/-- Outside the `BK` block lies no Backstop threshold. -/
theorem regAt_ne_bkOc {addr i j : Nat} {row : RegRow} (h : regAt addr = some (row, i, j)) (hb : inBk addr = false) :
    row.id ≠ .BK_OC := by
  intro hid
  obtain ⟨hm, hx⟩ := regAtIn_some h
  obtain ⟨hbase, hn, hs1, hs2⟩ := bkOc_row row hm hid
  obtain ⟨k, hk, -, -, ha⟩ := RegRow.index_some hx
  rw [hn] at hk
  rw [hbase, hs1, hs2] at ha
  simp only [inBk, Bool.and_eq_false_iff, decide_eq_false_iff_not] at hb
  omega

/-- The copies of `AX_PROBE_CFG` bear the numbers of the axes. -/
theorem regAt_probeCfg_lt {addr i j : Nat} {row : RegRow} (h : regAt addr = some (row, i, j)) (hid : row.id = .AX_PROBE_CFG) :
    i < 16 := by
  obtain ⟨hm, hx⟩ := regAtIn_some h
  obtain ⟨hn, hf⟩ := probeCfg_row row hm hid
  obtain ⟨k, hk, -, hi, -⟩ := RegRow.index_some hx
  omega

/-! ### Registers at reset -/

theorem reset_sound : State.reset.sound = true := by decide

/-- At reset no address has an entry of its own. -/
theorem rfGet_reset (addr : Nat) : rfGet State.reset.regs addr = resetWord addr := rfl

theorem resetWord_regAt {addr i j : Nat} {row : RegRow} (hw : ¬ isWaveAddr addr) (h : regAt addr = some (row, i, j)) :
    resetWord addr = row.resetWord := by
  rw [resetWord, if_neg hw, h]

/-- Settles O2: the register file of `State.reset` is empty, so every address reads the word of the register map. -/
theorem resetHoldsTheStatedValues : Obligations.ResetHoldsTheStatedValues :=
  ⟨reset_sound, rfl, fun addr _ _ _ hw h => (rfGet_reset addr).trans (resetWord_regAt hw h)⟩

/-! ### The bits of a written word -/

theorem accMask_append (p : Acc → Bool) (fs : List FieldRow) (f : FieldRow) :
    accMask p (fs ++ [f]) = if p f.acc then accMask p fs ||| fieldMask f.hi f.lo else accMask p fs := by
  simp only [accMask, List.foldl_append, List.foldl_cons, List.foldl_nil]

/-- A bit of the mask of some access codes is 1 where a field with one of them holds that bit. -/
theorem accMask_getLsbD (p : Acc → Bool) (fs : List FieldRow) {b : Nat} (hb : b < 32) :
    (accMask p fs).getLsbD b = true ↔ ∃ f ∈ fs, p f.acc = true ∧ f.lo ≤ b ∧ b ≤ f.hi := by
  induction fs using List.reverseRecOn with
  | nil => simp [accMask]
  | append_singleton fs f ih =>
    rw [accMask_append]
    simp only [List.mem_append, List.mem_singleton, or_and_right, exists_or, exists_eq_left]
    rw [← ih]
    split
    · rename_i hp
      simp [BitVec.getLsbD_or, fieldMask_getLsbD _ _ _ hb, hp]
    · rename_i hp
      simp [hp]

/-- A bit of the word a write leaves, from the masks of its stored and its W1C fields (R368, R369). -/
theorem writtenWord_getLsbD (fs : List FieldRow) (old mask bits : Word) {b : Nat} (hb : b < 32) :
    (writtenWord fs old mask bits).getLsbD b =
      ((if (accMask Acc.stored fs).getLsbD b && mask.getLsbD b then bits.getLsbD b else old.getLsbD b)
        && !((accMask (· == .w1c) fs).getLsbD b && mask.getLsbD b && bits.getLsbD b)) := by
  simp only [writtenWord, BitVec.getLsbD_and, BitVec.getLsbD_or, BitVec.getLsbD_not, hb, decide_true, Bool.true_and]
  cases (accMask Acc.stored fs).getLsbD b && mask.getLsbD b <;> simp

/-- What has been written of the bits of a word: those of stored and W1C fields that the access selects (R362, R368, R369). -/
def BitsWritten (fs : List FieldRow) (mask bits old new : Word) : Prop := ∀ b < 32,
  let stored := ∃ f ∈ fs, f.acc.stored = true ∧ f.lo ≤ b ∧ b ≤ f.hi
  let w1c := ∃ f ∈ fs, f.acc = .w1c ∧ f.lo ≤ b ∧ b ≤ f.hi
  let selected := mask.getLsbD b
  (selected = true → stored → ¬ w1c → new.getLsbD b = bits.getLsbD b)
  ∧ (selected = true → ¬ stored → w1c → new.getLsbD b = (old.getLsbD b && !bits.getLsbD b))
  ∧ ((selected = false ∨ (¬ stored ∧ ¬ w1c)) → new.getLsbD b = old.getLsbD b)

theorem bitsWritten_writtenWord (fs : List FieldRow) (old mask bits : Word) :
    BitsWritten fs mask bits old (writtenWord fs old mask bits) := by
  intro b hb
  have hs := accMask_getLsbD Acc.stored fs hb
  have hc := accMask_getLsbD (· == .w1c) fs hb
  simp only [beq_iff_eq] at hc
  rw [writtenWord_getLsbD _ _ _ _ hb, ← hs, ← hc]
  refine ⟨fun hm h1 h2 => ?_, fun hm h1 h2 => ?_, fun h => ?_⟩
  · simp [hm, h1, h2]
  · simp [hm, h1, h2]
  · rcases h with hm | ⟨h1, h2⟩
    · simp [hm]
    · simp [h1, h2]

/-! ### A register file with one word written -/

/-- The field of all bits of a word. -/
theorem getBits_full (w : Word) : getBits w 31 0 = w.toNat := by
  apply Nat.eq_of_testBit_eq
  intro k
  rw [getBits_testBit, Nat.zero_add]
  by_cases hk : k < 32
  · simp [hk, Nat.le_of_lt_succ hk, BitVec.getLsbD]
  · simp [hk, Nat.testBit_lt_two_pow (Nat.lt_of_lt_of_le w.isLt (Nat.pow_le_pow_right (by omega) (Nat.le_of_not_lt hk)))]

theorem getBits_beyond (w : Word) {hi lo : Nat} (h : 31 < lo) : getBits w hi lo = 0 := by
  apply Nat.eq_of_testBit_eq
  intro k
  rw [getBits_testBit]
  have : ¬ lo + k < 32 := by omega
  simp [this]

theorem get_full_of_regs {s t : State} {addr : Nat} {w : Word} (h : t.regs = rfSet s.regs addr w) :
    t.get ⟨addr, 31, 0⟩ = w.toNat := by
  simp only [State.get, h, rfGet_rfSet_same, getBits_full]

theorem keepsFields_of_regs {s t : State} {addr : Nat} {w : Word} (h : t.regs = rfSet s.regs addr w) :
    KeepsFields [⟨addr, 31, 0⟩] s t := by
  intro g hg
  rcases hg _ List.mem_cons_self with ha | ha | ha
  · simp only [State.get, h, rfGet_rfSet_other _ _ _ _ ha]
  · exact absurd ha (Nat.not_lt_zero _)
  · simp only [State.get, getBits_beyond _ ha]

/-! ### The end of a command -/

@[simp] theorem settle_regs (u : State) : (settle u).regs = u.regs := by rw [(settle_eq u).1]
@[simp] theorem settle_get (u : State) (f : Fld) : (settle u).get f = u.get f := by simp only [State.get, settle_regs]
@[simp] theorem settle_ms (u : State) : (settle u).ms = u.ms := by rw [(settle_eq u).1]

/-- A command whose work ends in `v`, which is `u` but for registers and the flits sent. -/
theorem besideRegs_settle {u v : State} (h : v = { u with regs := v.regs, cv := { u.cv with tx := v.cv.tx } }) :
    BesideRegs u (settle v) := by
  obtain ⟨hs, hj⟩ := settle_eq v
  have hlk : v.lk = u.lk := by rw [h]
  refine ⟨?_, by rw [JobsKept, hj, hlk]⟩
  generalize settle v = t at hs hj ⊢
  rw [hs, h]

/-! ### What a write that passes its checks does -/

/-- The registers whose writes begin an action beside the stored word. -/
def actionRegs : List RegId :=
  [.SYS_UNLOCK, .TB_CTRL, .AX_CAM_OFFSET_LO, .AX_CAM_ORIGIN_LO, .AX_CAM_OFFSET_HI, .AX_CAM_ORIGIN_HI, .AX_PLN_CFG,
    .AX_CC_CFG, .WT_CTRL, .AX_WAVE, .AX_PWM_CTRL, .PCH_CTRL, .AX_FB_CFG, .AX_FB_CTRL, .MS_WM_CFG, .HP_CFG, .AUX_CFG,
    .LK_PART_CTRL, .CV_CFG, .CV_CTRL, .CV_STK_RST, .BK_DEV_CTRL, .PD_CTRL, .MCH_CFG]

theorem performWrite_plain {via : Port} {w : RegWr} {s : State} (h : w.row.id ∉ actionRegs) (hb : w.row.id ≠ .BK_OC)
    (hp : w.row.id ∉ [RegId.MS_WM_THR, .QD_VM_THR, .QD_VM_UV, .AX_PROBE_CFG]) :
    performWrite via w s = s.setWord w.addr w.new := by
  unfold performWrite
  split <;> simp_all [actionRegs]

/-- A threshold of a window monitor settles the monitor (R293). -/
theorem performWrite_monitor {w : RegWr} (h : w.row.id ∈ [RegId.MS_WM_THR, .QD_VM_THR, .QD_VM_UV]) :
    ∃ n, ∀ (via : Port) (s : State), performWrite via w s = wmSettle n s (s.setWord w.addr w.new) := by
  simp only [List.mem_cons, List.not_mem_nil, or_false] at h
  rcases h with h | h | h
  · exact ⟨ainMon ⟨w.i % 8, by omega⟩, fun via s => by simp only [performWrite, h]⟩
  · exact ⟨vmMon ⟨w.i % 4, by omega⟩, fun via s => by simp only [performWrite, h]⟩
  · exact ⟨vmMon ⟨w.i % 4, by omega⟩, fun via s => by simp only [performWrite, h]⟩

theorem performWrite_probe {via : Port} {w : RegWr} {s : State} (h : w.row.id = .AX_PROBE_CFG) :
    performWrite via w s = probeTimer (axisOf w.i) (s.setWord w.addr w.new) := by
  simp only [performWrite, h]

theorem axisOf_val {i : Nat} (h : i < 16) : (axisOf i).val = i := Nat.mod_eq_of_lt h

/-- A one-bit field is up where it reads 1. -/
theorem flag_eq_true_iff (s : State) (f : Fld) (h : fieldMax f.hi f.lo = 1) : s.flag f = true ↔ s.get f = 1 := by
  have := get_le_max s f
  simp only [State.flag, bne_iff_ne]
  omega

/-- The interval timer of a probe runs where `PROBE_AUTO` reads 1 (R188). -/
theorem probeTimer_eq (a : Axis) (s : State) : probeTimer a s = s.modAx a fun x => { x with
    probeAt := if s.get (F.AX_PROBE_CFG.PROBE_AUTO a) = 1 then some (x.probeAt.getD s.now) else none } := by
  simp only [probeTimer, flag_eq_true_iff s (F.AX_PROBE_CFG.PROBE_AUTO a) rfl]

/-- Settling changes the hold instants of the one monitor alone. -/
theorem wmSettle_hold (n : Fin 12) (r s : State) (m : Fin 12) :
    { (wmSettle n r s).ms.wm[m] with hold := s.ms.wm[m].hold } = s.ms.wm[m] := by
  simp only [wmSettle, State.modWm, Fin.getElem_fin, Vector.getElem_set]
  split
  · rename_i h; simp only [h]
  · rfl

/-- A status that is no refusal is not counted (R360). -/
theorem countRefusal_ok (s : State) : countRefusal (ansCode stOk) s = s := rfl

/-- Checks 6 to 9 of R367 pass: the write is performed. -/
theorem checkedWrite_passes {via : Port} {unlocked : Bool} {w : RegWr} {s : State}
    (hk : rwkChanged w.row.fields w.old w.new = true → (s.mode = 2 ∨ s.mode = 3) ∧ unlocked = true)
    (hr : fieldsInRange w.row.fields w.mask w.new = true) (hc : crossLegal s w = true) (ha : stateAdmits s w = true) :
    checkedWrite via unlocked w s = (performWrite via w s, stOk) := by
  unfold checkedWrite
  dsimp only
  rw [if_neg (by rintro ⟨h, h2, h3⟩; exact (hk h).1.elim h2 h3), if_neg (by simp [hr, hc]),
    if_neg (by rintro ⟨h, hu⟩; exact hu (hk h).2), if_neg (by simp [ha])]

/-! ### REGISTER_WRITE -/

/-- A REGISTER_WRITE to a register as its checks see it, the unlock consumed (R371). -/
def hostWr (addr : BitVec 24) (typ : BitVec 2) (data : Word) (row : RegRow) (i j : Nat) (s : State) : RegWr :=
  wrOf (consumeUnlock s) row i j (addr.toNat / 4 * 4) (wrMask typ.toNat data) (wrBits typ.toNat data)

/-- A REGISTER_WRITE to register `row` passes every check of R367. -/
structure WritePasses (addr : BitVec 24) (typ : BitVec 2) (data : Word) (row : RegRow) (i j : Nat) (s : State) : Prop where
  runs : s.ip.running = true
  access : typ ≠ 3
  outsideBk : inBk (addr.toNat / 4 * 4) = false
  powered : s.pd (domainOf (addr.toNat / 4 * 4)) = true
  outsideWave : isWaveAddr (addr.toNat / 4 * 4) = false
  found : regAt (addr.toNat / 4 * 4) = some (row, i, j)
  notUnlock : row.id ≠ .SYS_UNLOCK
  keyed : rwkChanged row.fields (hostWr addr typ data row i j s).old (hostWr addr typ data row i j s).new = true →
    (s.mode = 2 ∨ s.mode = 3) ∧ s.ip.unlocked = true
  inRange : fieldsInRange row.fields (hostWr addr typ data row i j s).mask (hostWr addr typ data row i j s).new = true
  cross : crossLegal (consumeUnlock s) (hostWr addr typ data row i j s) = true
  admits : stateAdmits (consumeUnlock s) (hostWr addr typ data row i j s) = true

section
variable {addr : BitVec 24} {typ : BitVec 2} {data : Word} {row : RegRow} {i j : Nat} {s : State}

/-- The checks of a write do not look at the flits sent. -/
theorem WritePasses.cv_tx (h : WritePasses addr typ data row i j s) :
    WritePasses addr typ data row i j { s with cv := { s.cv with tx := [] } } :=
  ⟨h.runs, h.access, h.outsideBk, h.powered, h.outsideWave, h.found, h.notUnlock, h.keyed, h.inRange, h.cross, h.admits⟩

theorem writeReg_passes (via : Port) (h : WritePasses addr typ data row i j s) :
    writeReg via false (addr.toNat / 4 * 4) typ.toNat data s
      = (performWrite via (hostWr addr typ data row i j s) (consumeUnlock s), stOk) := by
  have hty : typ.toNat ≠ 3 := fun e => h.access (BitVec.eq_of_toNat_eq e)
  have hpd : (consumeUnlock s).pd (domainOf (addr.toNat / 4 * 4)) = true := h.powered
  have hlt := addr.isLt
  unfold writeReg
  dsimp only
  rw [if_neg hty, if_neg (by omega), if_neg (by simp [h.outsideBk]), if_neg (by simp), if_neg (not_not.mpr hpd),
    if_neg (by simp [h.outsideWave]), h.found]
  dsimp only
  rw [if_neg h.notUnlock]
  exact checkedWrite_passes h.keyed h.inRange h.cross h.admits

theorem hostWrite_passes (via : Port) (h : WritePasses addr typ data row i j s) {v : State}
    (hv : performWrite via (hostWr addr typ data row i j s) (consumeUnlock s) = v) :
    hostWrite via false (addr.toNat / 4 * 4) typ.toNat data s = { v with ip := { v.ip with wrStatus := 0 } } := by
  unfold hostWrite
  rw [if_neg (not_not.mpr h.runs), writeReg_passes via h, hv]
  dsimp only
  rw [countRefusal_ok]
  rfl

/-- A REGISTER_WRITE that passes ends in the state `v` of its write, with status OK (R336). -/
theorem registerWrite_passes (h : WritePasses addr typ data row i j s) {v : State}
    (hv : performWrite .hp (hostWr addr typ data row i j s) (consumeUnlock { s with cv := { s.cv with tx := [] } }) = v)
    (hw : v.whReq = []) :
    exec (.registerWrite addr typ data) s = .next (settle { v with ip := { v.ip with wrStatus := 0 } }) := by
  have e := hostWrite_passes .hp h.cv_tx hv
  change runCmd (hostWrite .hp false (addr.toNat / 4 * 4) typ.toNat data) s = _
  rw [runCmd_served (by rw [e]; exact hw), e]

/-- Without the interpreter a REGISTER_WRITE does nothing (R323). -/
theorem registerWrite_stopped (hq : s.whReq = []) (h : s.ip.running = false) : Does (.registerWrite addr typ data) s s [] [] := by
  have e : hostWrite .hp false (addr.toNat / 4 * 4) typ.toNat data { s with cv := { s.cv with tx := [] } }
      = { s with cv := { s.cv with tx := [] } } := if_pos (by simp [h])
  refine ⟨_, ?_, besideRegs_settle (v := { s with cv := { s.cv with tx := [] } }) rfl,
    (KeepsFields.refl _ _).congr (settle_regs _), by simp⟩
  change runCmd (hostWrite .hp false (addr.toNat / 4 * 4) typ.toNat data) s = _
  rw [runCmd_served (by rw [e]; exact hq), e]

/-- A REGISTER_WRITE completes with the written word in the register file, and `P` beside it. -/
def WordWritten (addr : BitVec 24) (typ : BitVec 2) (data : Word) (row : RegRow) (i j : Nat) (s : State) (P : State → Prop) : Prop :=
  Completes (.registerWrite addr typ data) s fun t =>
    t.regs = rfSet s.regs (addr.toNat / 4 * 4) (hostWr addr typ data row i j s).new ∧ P t

theorem registerWrite_plain (hq : s.whReq = []) (h : WritePasses addr typ data row i j s) (ha : row.id ∉ actionRegs)
    (hp : row.id ∉ [RegId.MS_WM_THR, .QD_VM_THR, .QD_VM_UV, .AX_PROBE_CFG]) :
    WordWritten addr typ data row i j s
      (BesideRegs { consumeUnlock s with ip := { (consumeUnlock s).ip with wrStatus := 0 } }) :=
  ⟨_, registerWrite_passes h (performWrite_plain ha (regAt_ne_bkOc h.found h.outsideBk) hp) hq, settle_regs _, besideRegs_settle rfl⟩

theorem registerWrite_monitor (hq : s.whReq = []) (h : WritePasses addr typ data row i j s)
    (hm : row.id ∈ [RegId.MS_WM_THR, .QD_VM_THR, .QD_VM_UV]) :
    WordWritten addr typ data row i j s fun t =>
      BesideRegs { consumeUnlock s with
        ip := { (consumeUnlock s).ip with wrStatus := 0 }, ms := { s.ms with wm := t.ms.wm } } t
      ∧ ∀ n : Fin 12, { t.ms.wm[n] with hold := (s.ms.wm[n]).hold } = s.ms.wm[n] := by
  obtain ⟨n, hn⟩ := performWrite_monitor (w := hostWr addr typ data row i j s) hm
  refine ⟨_, registerWrite_passes h (hn _ _) hq, settle_regs _, ?_, fun m => ?_⟩
  · rw [settle_ms]
    exact besideRegs_settle rfl
  · rw [settle_ms]
    exact wmSettle_hold n _ _ m

theorem registerWrite_probe (hq : s.whReq = []) (h : WritePasses addr typ data row i j s) (hid : row.id = .AX_PROBE_CFG) :
    WordWritten addr typ data row i j s fun t =>
      BesideRegs { (consumeUnlock s).modAx (axisOf i) (fun x => { x with
          probeAt := if t.get (F.AX_PROBE_CFG.PROBE_AUTO i) = 1 then some (x.probeAt.getD s.now) else none }) with
        ip := { (consumeUnlock s).ip with wrStatus := 0 } } t := by
  refine ⟨_, registerWrite_passes h ((performWrite_probe hid).trans (probeTimer_eq _ _)) hq, settle_regs _, ?_⟩
  have hi : (axisOf (hostWr addr typ data row i j s).i).val = i := axisOf_val (regAt_probeCfg_lt h.found hid)
  beta_reduce
  rw [settle_get, hi]
  exact besideRegs_settle rfl

/-- Each kind of register takes the word of the write. -/
theorem registerWrite_word (hq : s.whReq = []) (h : WritePasses addr typ data row i j s) (ha : row.id ∉ actionRegs) :
    WordWritten addr typ data row i j s fun _ => True := by
  by_cases hm : row.id ∈ [RegId.MS_WM_THR, .QD_VM_THR, .QD_VM_UV]
  · exact (registerWrite_monitor hq h hm).imp fun t ht => ⟨ht.1, ht.2.1, trivial⟩
  by_cases hid : row.id = .AX_PROBE_CFG
  · exact (registerWrite_probe hq h hid).imp fun t ht => ⟨ht.1, ht.2.1, trivial⟩
  · exact (registerWrite_plain hq h ha (by simp_all)).imp fun t ht => ⟨ht.1, ht.2.1, trivial⟩

/-- With no LO word latched a write begins from the word of the register file (R378). -/
theorem hostWr_new (hl : s.ip.loLatch = []) : (hostWr addr typ data row i j s).new
    = writtenWord row.fields (rfGet s.regs (addr.toNat / 4 * 4)) (wrMask typ.toNat data) (wrBits typ.toNat data) := by
  have : latchedWord (consumeUnlock s) (addr.toNat / 4 * 4) = rfGet s.regs (addr.toNat / 4 * 4) := by
    simp only [latchedWord, consumeUnlock, hl, List.find?_nil]
  rw [hostWr, wrOf, this]

end

/-- Settles O58: a write that passes stores the written word at its address and, by the kind of its register, settles one
monitor or sets one interval timer beside; `bitsWritten_writtenWord` reads the stored word bit by bit. -/
theorem plainRegisterWritesStoreTheirFields : Obligations.PlainRegisterWritesStoreTheirFields := by
  unfold Obligations.PlainRegisterWritesStoreTheirFields
  intro addr typ data row i j s hq
  refine ⟨fun hr ht hb hp hw hf hl ha hk hg hc hs => ?_, registerWrite_stopped hq⟩
  have h : WritePasses addr typ data row i j s :=
    ⟨hr, ht, hb, hp, hw, hf, fun e => ha (e ▸ List.mem_cons_self), hk, hg, hc, hs⟩
  refine ⟨fun hplain => ?_, fun hm => ?_, fun hid => ?_, ?_⟩
  · obtain ⟨t, hx, hregs, hbeside⟩ := registerWrite_plain hq h ha hplain
    exact ⟨t, hx, hbeside, keepsFields_of_regs hregs, List.forall_mem_singleton.mpr (get_full_of_regs hregs)⟩
  · obtain ⟨t, hx, hregs, hbeside, hhold⟩ := registerWrite_monitor hq h hm
    exact ⟨t, hx, hbeside, keepsFields_of_regs hregs, get_full_of_regs hregs, hhold⟩
  · obtain ⟨t, hx, hregs, hbeside⟩ := registerWrite_probe hq h hid
    exact ⟨t, hx, hbeside, keepsFields_of_regs hregs, get_full_of_regs hregs⟩
  · obtain ⟨t, hx, hregs, -⟩ := registerWrite_word hq h ha
    have hnow : rfGet t.regs (addr.toNat / 4 * 4) = writtenWord row.fields (rfGet s.regs (addr.toNat / 4 * 4))
        (wrMask typ.toNat data) (wrBits typ.toNat data) := by rw [hregs, rfGet_rfSet_same, hostWr_new hl]
    refine ⟨t, hx, ?_⟩
    beta_reduce
    rw [hnow]
    exact bitsWritten_writtenWord _ _ _ _

end Sys2Proof.Machine

/-! # What a command leaves alone -/

namespace Sys2Proof.Machine

/-! ### From a command to its work -/

/-- The state in which the work of a command begins: the flits of the command before have left. -/
def begun (s : State) : State := { s with cv := { s.cv with tx := [] } }

@[simp] theorem begun_get (s : State) (f : Fld) : (begun s).get f = s.get f := rfl
@[simp] theorem begun_flag (s : State) (f : Fld) : (begun s).flag f = s.flag f := rfl
@[simp] theorem begun_ax (s : State) (a : Axis) : (begun s).ax a = s.ax a := rfl
@[simp] theorem begun_whReq (s : State) : (begun s).whReq = s.whReq := rfl

/-- A command whose work raises no Whistle completes in the settled state of its work. -/
theorem completes_of {c : Instr} {f : State → State} {s : State} {P : State → Prop} (hc : exec c s = runCmd f s)
    (hw : (f (begun s)).whReq = []) (h : P (settle (f (begun s)))) : Completes c s P :=
  ⟨_, hc.trans (runCmd_served hw), h⟩

/-- A command whose work ends in `u` and raises no Whistle completes in the settled `u`. -/
theorem completes_to {c : Instr} {f : State → State} {s u : State} {P : State → Prop} (hc : exec c s = runCmd f s)
    (hu : f (begun s) = u) (hw : u.whReq = []) (h : P (settle u)) : Completes c s P := by
  subst hu
  exact completes_of hc hw h

/-- Fields that share no bit. -/
def Fld.apart (g f : Fld) : Prop := g.addr ≠ f.addr ∨ g.hi < f.lo ∨ f.hi < g.lo

/-- A field of a register and a value it can hold. -/
def Fld.holds (f : Fld) (v : Nat) : Prop := f.hi < 32 ∧ f.lo ≤ f.hi ∧ v < 2 ^ (f.hi + 1 - f.lo)

/-- Values written to fields in turn. -/
def State.sets (s : State) (l : List (Fld × Nat)) : State := l.foldl (fun x p => x.set p.1 p.2) s

theorem State.sets_cons (s : State) (p : Fld × Nat) (l : List (Fld × Nat)) : s.sets (p :: l) = (s.set p.1 p.2).sets l := rfl

theorem State.sets_eq (s : State) (l : List (Fld × Nat)) : s.sets l = { s with regs := (s.sets l).regs } := by
  induction l generalizing s with
  | nil => rfl
  | cons p l ih => rw [sets_cons, ih]; rfl

@[simp] theorem State.sets_now (s : State) (l : List (Fld × Nat)) : (s.sets l).now = s.now := by rw [State.sets_eq]
@[simp] theorem State.sets_freeCtr (s : State) (l : List (Fld × Nat)) : (s.sets l).freeCtr = s.freeCtr := by rw [State.sets_eq]
@[simp] theorem State.sets_axes (s : State) (l : List (Fld × Nat)) : (s.sets l).axes = s.axes := by rw [State.sets_eq]
@[simp] theorem State.sets_mch (s : State) (l : List (Fld × Nat)) : (s.sets l).mch = s.mch := by rw [State.sets_eq]
@[simp] theorem State.sets_wt (s : State) (l : List (Fld × Nat)) : (s.sets l).wt = s.wt := by rw [State.sets_eq]
@[simp] theorem State.sets_ms (s : State) (l : List (Fld × Nat)) : (s.sets l).ms = s.ms := by rw [State.sets_eq]
@[simp] theorem State.sets_ip (s : State) (l : List (Fld × Nat)) : (s.sets l).ip = s.ip := by rw [State.sets_eq]
@[simp] theorem State.sets_hp (s : State) (l : List (Fld × Nat)) : (s.sets l).hp = s.hp := by rw [State.sets_eq]
@[simp] theorem State.sets_aux (s : State) (l : List (Fld × Nat)) : (s.sets l).aux = s.aux := by rw [State.sets_eq]
@[simp] theorem State.sets_tb (s : State) (l : List (Fld × Nat)) : (s.sets l).tb = s.tb := by rw [State.sets_eq]
@[simp] theorem State.sets_pw (s : State) (l : List (Fld × Nat)) : (s.sets l).pw = s.pw := by rw [State.sets_eq]
@[simp] theorem State.sets_priv (s : State) (l : List (Fld × Nat)) : (s.sets l).priv = s.priv := by rw [State.sets_eq]
@[simp] theorem State.sets_bk (s : State) (l : List (Fld × Nat)) : (s.sets l).bk = s.bk := by rw [State.sets_eq]
@[simp] theorem State.sets_sec (s : State) (l : List (Fld × Nat)) : (s.sets l).sec = s.sec := by rw [State.sets_eq]
@[simp] theorem State.sets_lk (s : State) (l : List (Fld × Nat)) : (s.sets l).lk = s.lk := by rw [State.sets_eq]
@[simp] theorem State.sets_cv (s : State) (l : List (Fld × Nat)) : (s.sets l).cv = s.cv := by rw [State.sets_eq]
@[simp] theorem State.sets_wh (s : State) (l : List (Fld × Nat)) : (s.sets l).wh = s.wh := by rw [State.sets_eq]
@[simp] theorem State.sets_rst (s : State) (l : List (Fld × Nat)) : (s.sets l).rst = s.rst := by rw [State.sets_eq]
@[simp] theorem State.sets_auxm (s : State) (l : List (Fld × Nat)) : (s.sets l).auxm = s.auxm := by rw [State.sets_eq]
@[simp] theorem State.sets_tap (s : State) (l : List (Fld × Nat)) : (s.sets l).tap = s.tap := by rw [State.sets_eq]
@[simp] theorem State.sets_whReq (s : State) (l : List (Fld × Nat)) : (s.sets l).whReq = s.whReq := by rw [State.sets_eq]
@[simp] theorem State.sets_plnWork (s : State) (l : List (Fld × Nat)) : (s.sets l).plnWork = s.plnWork := by rw [State.sets_eq]
@[simp] theorem State.sets_pending (s : State) (l : List (Fld × Nat)) : (s.sets l).pending = s.pending := by rw [State.sets_eq]
@[simp] theorem State.sets_ax (s : State) (l : List (Fld × Nat)) (a : Axis) : (s.sets l).ax a = s.ax a := by
  rw [State.sets_eq]
  rfl

theorem State.get_sets_apart (s : State) (l : List (Fld × Nat)) (g : Fld) (h : ∀ p ∈ l, g.apart p.1) :
    (s.sets l).get g = s.get g := by
  induction l generalizing s with
  | nil => rfl
  | cons p l ih =>
    rw [sets_cons, ih _ fun q hq => h q (List.mem_cons_of_mem _ hq)]
    exact State.get_set_other _ _ _ _ (h p List.mem_cons_self)

/-- Of fields written in turn, none touching an earlier one, each reads its value. -/
theorem State.get_sets_mem (s : State) (l : List (Fld × Nat)) (hv : ∀ p ∈ l, p.1.holds p.2)
    (hl : l.Pairwise fun p q => p.1.apart q.1) : ∀ p ∈ l, (s.sets l).get p.1 = p.2 := by
  induction l generalizing s with
  | nil => simp
  | cons q l ih =>
    rw [List.pairwise_cons] at hl
    intro p hp
    rw [sets_cons]
    rcases List.mem_cons.mp hp with rfl | hp
    · obtain ⟨h1, h2, h3⟩ := hv _ List.mem_cons_self
      rw [get_sets_apart _ _ _ fun q hq => hl.1 q hq]
      exact State.get_set_same _ _ _ h1 h2 h3
    · exact ih _ (fun q hq => hv q (List.mem_cons_of_mem _ hq)) hl.2 p hp

/-- A command whose work ends beside `u` with the values of `l` written to its fields, in turn. -/
theorem does_of {c : Instr} {f : State → State} {s u : State} (l : List (Fld × Nat)) (hc : exec c s = runCmd f s)
    (hq : u.whReq = []) (hr : u.regs = s.regs) (hf : f (begun s) = (begun u).sets l)
    (hv : ∀ p ∈ l, p.1.holds p.2) (hl : l.Pairwise fun p q => p.1.apart q.1) : Does c s u l [] := by
  have hg : ∀ g, (begun u).get g = s.get g := fun g => by simp only [State.get, begun, hr]
  refine completes_of hc ?_ ⟨besideRegs_settle ?_, fun g h => ?_, fun p hp => ?_⟩
  · rw [hf, State.sets_eq]; exact hq
  · rw [hf]
    conv_lhs => rw [State.sets_eq]
    rw [State.sets_eq]; rfl
  · rw [settle_get, hf, State.get_sets_apart _ _ _ fun p hp => h p.1 (by simpa using ⟨p.2, hp⟩), hg]
  · rw [settle_get, hf]; exact State.get_sets_mem _ _ hv hl p hp

/-- A command whose work ends beside `u` with the registers as they were. -/
theorem does_nothing {c : Instr} {f : State → State} {s u : State} (hc : exec c s = runCmd f s) (hq : u.whReq = [])
    (hr : u.regs = s.regs) (hf : f (begun s) = begun u) : Does c s u [] [] :=
  does_of [] hc hq hr hf (by simp) List.Pairwise.nil

end Sys2Proof.Machine

namespace Sys2Proof.Machine

/-! ### Footprints of operations -/

/-- What an operation on axes may change: `side` is what it keeps beside the registers and the engines, `keep` what it keeps of
the engine of an axis it works on, `fields` the fields it may write for that axis. -/
structure Scope where
  side : State → State
  keep : AxisSt → AxisSt
  fields : Axis → Fld → Prop
  side_engine : ∀ (s : State) (r : List (Nat × Word)) (x : Vector AxisSt 16), side { s with regs := r, axes := x } = side s

/-- From `r` to `t` work on the axes of `l` has stayed in its scope. -/
structure Within (S : Scope) (l : List Axis) (r t : State) : Prop where
  side : S.side t = S.side r
  own : ∀ a, S.keep (t.ax a) = S.keep (r.ax a)
  others : ∀ a, a ∉ l → t.ax a = r.ax a
  fields : ∀ g : Fld, (∀ a ∈ l, ∀ f, S.fields a f → g.apart f) → t.get g = r.get g

/-- One scope allows all that another allows. -/
structure Scope.le (S T : Scope) : Prop where
  side : ∀ s t : State, S.side s = S.side t → T.side s = T.side t
  keep : ∀ x y : AxisSt, S.keep x = S.keep y → T.keep x = T.keep y
  fields : ∀ a f, S.fields a f → T.fields a f

section
variable {S T : Scope} {l : List Axis} {a : Axis} {r s t : State}

theorem Scope.le.trans {U : Scope} (h : S.le T) (k : T.le U) : S.le U :=
  ⟨fun _ _ e => k.side _ _ (h.side _ _ e), fun _ _ e => k.keep _ _ (h.keep _ _ e), fun _ _ e => k.fields _ _ (h.fields _ _ e)⟩

theorem Scope.le_rfl : S.le S := ⟨fun _ _ h => h, fun _ _ h => h, fun _ _ h => h⟩

theorem Within.refl (S : Scope) (l : List Axis) (s : State) : Within S l s s :=
  ⟨rfl, fun _ => rfl, fun _ _ => rfl, fun _ _ => rfl⟩

theorem Within.trans (h : Within S l r s) (k : Within S l s t) : Within S l r t where
  side := k.side.trans h.side
  own a := (k.own a).trans (h.own a)
  others a ha := (k.others a ha).trans (h.others a ha)
  fields g hg := (k.fields g hg).trans (h.fields g hg)

theorem Within.widen (h : Within S l r t) (hS : S.le T) : Within T l r t where
  side := hS.side _ _ h.side
  own a := hS.keep _ _ (h.own a)
  others := h.others
  fields g hg := h.fields g fun a ha f hf => hg a ha f (hS.fields a f hf)

theorem Within.set (h : Within S l r s) {f : Fld} (v : Nat) (ha : a ∈ l) (hf : S.fields a f) : Within S l r (s.set f v) where
  side := (S.side_engine s _ s.axes).trans h.side
  own := h.own
  others := h.others
  fields g hg := (State.get_set_other s f g v (hg a ha f hf)).trans (h.fields g hg)

theorem Within.modAx (h : Within S l r s) {f : AxisSt → AxisSt} (ha : a ∈ l) (hf : ∀ x, S.keep (f x) = S.keep x) :
    Within S l r (s.modAx a f) where
  side := (S.side_engine s s.regs _).trans h.side
  own b := by
    by_cases hb : b = a
    · subst hb; rw [State.modAx_ax_self, hf, h.own]
    · rw [State.modAx_ax_ne _ _ _ _ hb, h.own]
  others b hb := by rw [State.modAx_ax_ne _ _ _ _ fun e : b = a => hb (e ▸ ha), h.others b hb]
  fields := h.fields

theorem Within.modMot (h : Within S l r s) {f : MotionSt → MotionSt} (ha : a ∈ l)
    (hf : ∀ x : AxisSt, S.keep { x with mot := f x.mot } = S.keep x) : Within S l r (s.modMot a f) := h.modAx ha hf

theorem Within.modFol (h : Within S l r s) {f : FollowSt → FollowSt} (ha : a ∈ l)
    (hf : ∀ x : AxisSt, S.keep { x with fol := f x.fol } = S.keep x) : Within S l r (s.modFol a f) := h.modAx ha hf

theorem Within.modGd (h : Within S l r s) {f : GateSt → GateSt} (ha : a ∈ l)
    (hf : ∀ x : AxisSt, S.keep { x with gd := f x.gd } = S.keep x) : Within S l r (s.modGd a f) := h.modAx ha hf

theorem Within.modPwm (h : Within S l r s) {f : PwmSt → PwmSt} (ha : a ∈ l)
    (hf : ∀ x : AxisSt, S.keep { x with pwm := f x.pwm } = S.keep x) : Within S l r (s.modPwm a f) := h.modAx ha hf

theorem Within.modCc (h : Within S l r s) {f : CcSt → CcSt} (ha : a ∈ l)
    (hf : ∀ x : AxisSt, S.keep { x with cc := f x.cc } = S.keep x) : Within S l r (s.modCc a f) := h.modAx ha hf

theorem Within.modLa (h : Within S l r s) {f : LaSt → LaSt} (ha : a ∈ l)
    (hf : ∀ x : AxisSt, S.keep { x with la := f x.la } = S.keep x) : Within S l r (s.modLa a f) := h.modAx ha hf

theorem Within.setB (h : Within S l r s) {f : Fld} (b : Bool) (ha : a ∈ l) (hf : S.fields a f) : Within S l r (s.setB f b) :=
  h.set _ ha hf

theorem Within.setS (h : Within S l r s) {f : Fld} (v : Int) (ha : a ∈ l) (hf : S.fields a f) : Within S l r (s.setS f v) :=
  h.set _ ha hf

theorem Within.raise (h : Within S l r s) {f : Fld} (ha : a ∈ l) (hf : S.fields a f) : Within S l r (s.raise f) :=
  h.set _ ha hf

theorem Within.count (h : Within S l r s) {f : Fld} (n : Nat) (ha : a ∈ l) (hf : S.fields a f) : Within S l r (s.count f n) :=
  h.set _ ha hf

theorem Within.inc (h : Within S l r s) {f : Fld} (ha : a ∈ l) (hf : S.fields a f) : Within S l r (s.inc f) :=
  h.set _ ha hf

/-- A change beside registers and engines that the scope allows. -/
theorem Within.beside (h : Within S l r s) (hs : S.side t = S.side s) (hr : t.regs = s.regs) (hx : t.axes = s.axes) :
    Within S l r t where
  side := hs.trans h.side
  own a := by rw [show t.ax a = s.ax a by simp only [State.ax, hx], h.own]
  others a ha := by rw [show t.ax a = s.ax a by simp only [State.ax, hx], h.others a ha]
  fields g hg := by rw [show t.get g = s.get g by simp only [State.get, hr], h.fields g hg]

theorem Within.ite {c : Prop} [Decidable c] (hs : Within S l r s) (ht : Within S l r t) : Within S l r (if c then s else t) := by
  split
  · exact hs
  · exact ht

theorem Within.each {α : Type} {f : α → State → State} (m : List α) (h : Within S l r s)
    (hf : ∀ x ∈ m, ∀ t, Within S l r t → Within S l r (f x t)) : Within S l r (s.each m f) := by
  induction m generalizing s with
  | nil => exact h
  | cons x m ih => exact ih (hf x List.mem_cons_self s h) fun y hy => hf y (List.mem_cons_of_mem _ hy)

theorem Within.foldl {α : Type} {f : State → α → State} (m : List α) (h : Within S l r s)
    (hf : ∀ x ∈ m, ∀ t, Within S l r t → Within S l r (f t x)) : Within S l r (m.foldl f s) :=
  Within.each (f := fun x t => f t x) m h hf

end

/-! ### Bringing an axis up to date -/

/-- A state without its registers and engines. -/
def besideEngines (s : State) : State := { s with regs := [], axes := State.reset.axes }

/-- The record of the gates of an axis, as it follows their changes (R236, R242). -/
def GateSt.unnoted (g : GateSt) : GateSt :=
  { g with lastLow := 0, lowAt := GateSt.reset.lowAt, lastForce := 0, forceDly := 0, lastAllow := 0, letAt := GateSt.reset.letAt }

/-- The scope of a note about the gates of an axis. -/
def gateScope : Scope where
  side := besideEngines
  keep x := { x with gd := x.gd.unnoted }
  fields _ _ := False
  side_engine _ _ _ := rfl

/-- The fields in which the state of the bridge of an axis shows (R147, R158). -/
def bridgeFields (a : Axis) : List Fld :=
  [F.AX_STATE.ENERGISED a, F.AX_CC_FLAG.MOD_LC_W1 a, F.AX_CC_FLAG.MOD_LC_W2 a, F.AX_CC_FLAG.SCALE_SEL a, F.AX_CC_FLAG.SCALE_EFF a,
    F.AX_LA_STAT.ECO_SCALE a, F.AX_LA_STAT.ECO_ACT a]

/-- The scope of a bridge that is energised or no longer energised: the controller at zero (R156), the scale at its start. -/
def bridgeScope : Scope where
  side := besideEngines
  keep x := { x with
    gd := x.gd.unnoted
    pwm := { x.pwm with carry := PwmSt.reset.carry }
    cc := { x.cc with w := CcSt.reset.w, first := false, energAt := 0 }
    la := { x.la with noReact := false, eco := 0 } }
  fields a f := f ∈ bridgeFields a
  side_engine _ _ _ := rfl

/-- The fields in which the state of an axis shows beside those of its bridge (R83, R97, R512). -/
def stateFields (a : Axis) : List Fld := [F.AX_STATE.STATE a, F.AX_FOLLOW_STAT.SRC a, F.AX_PLN_STAT.REMAIN_VALID a]

/-- The scope of an axis that follows its conditions (R512): its bridge, a pending source and a stall reaction beside. -/
def refreshScope : Scope where
  side := besideEngines
  keep x := { x with
    mot := { x.mot with stallHold := none }
    fol := { x.fol with srcPend := none }
    gd := x.gd.unnoted
    pwm := { x.pwm with carry := PwmSt.reset.carry }
    cc := { x.cc with w := CcSt.reset.w, first := false, energAt := 0 }
    la := { x.la with noReact := false, eco := 0 } }
  fields a f := f ∈ bridgeFields a ∨ f ∈ stateFields a
  side_engine _ _ _ := rfl

theorem gateScope_le_bridgeScope : gateScope.le bridgeScope where
  side _ _ h := h
  keep _ _ h := congrArg (fun x : AxisSt => { x with
    pwm := { x.pwm with carry := PwmSt.reset.carry }
    cc := { x.cc with w := CcSt.reset.w, first := false, energAt := 0 }
    la := { x.la with noReact := false, eco := 0 } }) h
  fields _ _ h := h.elim

theorem bridgeScope_le_refreshScope : bridgeScope.le refreshScope where
  side _ _ h := h
  keep _ _ h := congrArg (fun x : AxisSt => { x with
    mot := { x.mot with stallHold := none }
    fol := { x.fol with srcPend := none } }) h
  fields _ _ h := Or.inl h

section
variable {S : Scope} {l : List Axis} {a : Axis} {r s : State}

theorem noteLows_within (hS : gateScope.le S) (ha : a ∈ l) (n : Nat) (h : Within S l r s) : Within S l r (noteLows a n s) :=
  h.each _ fun _ _ _ ht => .ite ht (ht.modGd ha fun _ => hS.keep _ _ rfl)

theorem noteGates_within (hS : gateScope.le S) (ha : a ∈ l) (h : Within S l r s) : Within S l r (noteGates a s) := by
  unfold noteGates
  exact (noteLows_within hS ha _ h).modGd ha fun _ => hS.keep _ _ rfl

end

section
variable {S : Scope} {l : List Axis} {a : Axis} {r s : State} (hS : bridgeScope.le S) (ha : a ∈ l)
include hS ha

theorem Within.setBridge {f : Fld} (v : Nat) (h : Within S l r s) (hf : f ∈ bridgeFields a) : Within S l r (s.set f v) :=
  h.set v ha (hS.fields a f hf)

theorem setScale_within (rule scale : Nat) (h : Within S l r s) : Within S l r (setScale a rule scale s) := by
  have h1 := (h.setBridge hS ha (f := F.AX_CC_FLAG.SCALE_SEL a) (scaleSel rule) (by simp [bridgeFields])).setBridge hS ha
    (f := F.AX_CC_FLAG.SCALE_EFF a) scale (by simp [bridgeFields])
  unfold setScale State.setB
  refine Within.setBridge hS ha _ (.ite h1 ?_) (by simp [bridgeFields])
  exact (h1.modLa ha fun _ => hS.keep _ _ rfl).setBridge hS ha _ (by simp [bridgeFields])

theorem dropEnergised_within (h : Within S l r s) : Within S l r (dropEnergised a s) := by
  unfold dropEnergised
  refine .setBridge hS ha _ (.modCc (.modPwm (.ite ?_ h) ha ?_) ha ?_) (by simp [bridgeFields])
  · exact (h.setBridge hS ha _ (by simp [bridgeFields])).setBridge hS ha _ (by simp [bridgeFields])
  · exact fun _ => hS.keep _ _ rfl
  · exact fun _ => hS.keep _ _ rfl

theorem takeEnergised_within (h : Within S l r s) : Within S l r (takeEnergised a s) := by
  unfold takeEnergised startScale
  refine .ite h (setScale_within hS ha _ _ (.modCc (h.setBridge hS ha _ (by simp [bridgeFields])) ha ?_))
  exact fun _ => hS.keep _ _ rfl

theorem refreshEnergised_within (h : Within S l r s) : Within S l r (refreshEnergised a s) :=
  noteGates_within (gateScope_le_bridgeScope.trans hS) ha (.ite (takeEnergised_within hS ha h) (dropEnergised_within hS ha h))

end

section
variable {S : Scope} {l : List Axis} {a : Axis} {r s : State} (hS : refreshScope.le S) (ha : a ∈ l)
include hS ha

theorem Within.setState {f : Fld} (v : Nat) (h : Within S l r s) (hf : f ∈ stateFields a) : Within S l r (s.set f v) :=
  h.set v ha (hS.fields a f (Or.inr hf))

theorem clearRemain_within (h : Within S l r s) : Within S l r (clearRemain a s) :=
  h.setState hS ha _ (by simp [stateFields])

theorem takeSource_within (src : Nat) (h : Within S l r s) : Within S l r (takeSource a src s) := by
  unfold takeSource
  refine .modFol (.ite h ?_) ha fun _ => hS.keep _ _ rfl
  exact clearRemain_within hS ha (h.setState hS ha _ (by simp [stateFields]))

theorem takePendSource_within (h : Within S l r s) : Within S l r (takePendSource a s) := by
  unfold takePendSource
  split
  · exact h
  · exact .ite (takeSource_within hS ha _ h) h

theorem faultSource_within (h : Within S l r s) : Within S l r (faultSource a s) := by
  unfold faultSource
  split
  · exact takeSource_within hS ha _ h
  · exact h

theorem endStall_within (h : Within S l r s) : Within S l r (endStall a s) := by
  unfold endStall
  exact (h.modMot ha fun _ => hS.keep _ _ rfl).modLa ha fun _ => hS.keep _ _ rfl

theorem refreshAxis_within (h : Within S l r s) : Within S l r (refreshAxis a s) := by
  have hst : ∀ v, Within S l r (s.set (F.AX_STATE.STATE a) v) := fun v => h.setState hS ha v (by simp [stateFields])
  unfold refreshAxis
  refine refreshEnergised_within (bridgeScope_le_refreshScope.trans hS) ha
    (takePendSource_within hS ha (.ite (.ite h ?_) (.ite (.ite (hst _) h) (.ite ?_ h))))
  · exact faultSource_within hS ha (hst _)
  · exact endStall_within hS ha (hst 0)

end

end Sys2Proof.Machine

namespace Sys2Proof.Machine

/-! ### The engine of an axis beside its motion -/

/-- The address lies in the block of an axis or of its converters. -/
def engineBlock (a : Axis) (addr : Nat) : Prop :=
  (0x100000 + a.val * 0x1000 ≤ addr ∧ addr < 0x101000 + a.val * 0x1000)
    ∨ (0x300000 + a.val * 0x100 ≤ addr ∧ addr < 0x300100 + a.val * 0x100)

theorem axisBlock_of_engineBlock {a : Axis} {addr : Nat} (h : engineBlock a addr) : axisBlock a addr = true := by
  simp only [axisBlock, Bool.or_eq_true, Bool.and_eq_true, decide_eq_true_eq]
  exact Or.inl h

/-- The addresses of an engine lie below those of the Backstop, above those of the device. -/
theorem engineBlock_bounds {a : Axis} {addr : Nat} (h : engineBlock a addr) : 0x100000 ≤ addr ∧ addr < 0x301000 := by
  have := a.isLt
  unfold engineBlock at h
  omega

theorem bridgeFields_engineBlock {a : Axis} {f : Fld} (h : f ∈ bridgeFields a) : engineBlock a f.addr := by
  unfold engineBlock
  simp only [bridgeFields, List.mem_cons, List.not_mem_nil, or_false] at h
  rcases h with rfl | rfl | rfl | rfl | rfl | rfl | rfl <;> dsimp only <;> omega

theorem stateFields_engineBlock {a : Axis} {f : Fld} (h : f ∈ stateFields a) : engineBlock a f.addr := by
  unfold engineBlock
  simp only [stateFields, List.mem_cons, List.not_mem_nil, or_false] at h
  rcases h with rfl | rfl | rfl <;> dsimp only <;> omega

/-- The scope of work on an engine that leaves the motion of its axis alone, but for a stall reaction that ends. -/
def motionScope : Scope where
  side := besideEngines
  keep x := { AxisSt.reset with mot := { x.mot with stallHold := none } }
  fields a f := engineBlock a f.addr
  side_engine _ _ _ := rfl

theorem refreshScope_le_motionScope : refreshScope.le motionScope where
  side _ _ h := h
  keep _ _ h := congrArg (fun z : AxisSt => { AxisSt.reset with mot := z.mot }) h
  fields _ _ h := h.elim bridgeFields_engineBlock stateFields_engineBlock

theorem motionScope_motion (x y : AxisSt) (h : motionScope.keep x = motionScope.keep y) :
    { x.mot with stallHold := none } = { y.mot with stallHold := none } := congrArg AxisSt.mot h

section
variable {S : Scope} {l : List Axis} {a : Axis} {r s t : State} {more : List Fld}

/-- Work in a scope that fixes all but registers and engines. -/
theorem Within.rest (h : Within S l r t) (hS : ∀ s t, S.side s = S.side t → besideEngines s = besideEngines t) :
    t = { r with regs := t.regs, axes := t.axes } := by
  have := hS _ _ h.side
  cases r
  cases t
  simp only [besideEngines, State.mk.injEq] at this ⊢
  simp only [this, and_self]

theorem Within.motionKept (h : Within S l r t)
    (hS : ∀ x y, S.keep x = S.keep y → { x.mot with stallHold := none } = { y.mot with stallHold := none }) (a : Axis) :
    MotionKept a r t :=
  hS _ _ (h.own a)

theorem MotionKept.pos {a : Axis} (h : MotionKept a r t) : (t.mot a).pos = (r.mot a).pos := by
  have := congrArg MotionSt.pos h
  exact this
theorem MotionKept.queue {a : Axis} (h : MotionKept a r t) : (t.mot a).queue = (r.mot a).queue := by
  have := congrArg MotionSt.queue h
  exact this
theorem MotionKept.vel {a : Axis} (h : MotionKept a r t) : (t.mot a).vel = (r.mot a).vel := by
  have := congrArg MotionSt.vel h
  exact this
theorem MotionKept.stillAt {a : Axis} (h : MotionKept a r t) : (t.mot a).stillAt = (r.mot a).stillAt := by
  have := congrArg MotionSt.stillAt h
  exact this

/-- A field outside the blocks of the axes at work. -/
theorem Within.get_outside (h : Within S l r t) (hS : ∀ a f, S.fields a f → engineBlock a f.addr) {g : Fld} (hg : ∀ a ∈ l, ¬ engineBlock a g.addr) :
    t.get g = r.get g :=
  h.fields g fun a ha f hf => Or.inl fun e => hg a ha (e ▸ hS a f hf)

theorem Within.keepsBlocks (h : Within S l r t) (hS : ∀ a f, S.fields a f → engineBlock a f.addr) : KeepsBlocks l more r t := by
  intro g hg _
  refine h.get_outside hS fun a ha hb => ?_
  exact absurd (axisBlock_of_engineBlock hb) (by simp [hg a ha])

end

/-! ### Timers and edges -/

section
variable {S : Scope} {l : List Axis} {a : Axis} {r s : State}

/-- The fields in which the edges of a leg show (R202). -/
def edgeFields (a : Axis) (l : Leg) : List Fld :=
  [F.AX_EDGE_ON.ON a l, F.AX_EDGE_OFF.OFF a l, F.AX_EDGE_ON.LSTATE a l, F.AX_PWM_STAT.CLAMP a]

theorem setEdge_within {k : Leg} (hf : ∀ f ∈ edgeFields a k, S.fields a f) (ha : a ∈ l) (e : LegEdge) (h : Within S l r s) :
    Within S l r (setEdge a k e s) := by
  unfold setEdge
  exact ((h.set _ ha (hf _ (by simp [edgeFields]))).set _ ha (hf _ (by simp [edgeFields]))).set _ ha (hf _ (by simp [edgeFields]))

theorem takeEdge_within {k : Leg} (hf : ∀ f ∈ edgeFields a k, S.fields a f) (ha : a ∈ l) (e : LegEdge) (h : Within S l r s) :
    Within S l r (takeEdge a k e s) := by
  unfold takeEdge
  exact .ite ((setEdge_within hf ha _ h).raise ha (hf _ (by simp [edgeFields]))) (setEdge_within hf ha _ h)

/-- The scope of a period timer that starts (R197): edges, staged computations and motion timers aside, the engine stays. -/
def timerScope : Scope where
  side := besideEngines
  keep x := { x with pwm := PwmSt.reset, cc := { x.cc with compDue := false } }
  fields a f := 0x100500 + a.val * 0x1000 ≤ f.addr ∧ f.addr < 0x100600 + a.val * 0x1000
  side_engine _ _ _ := rfl

theorem timerScope_le_motionScope : timerScope.le motionScope where
  side _ _ h := h
  keep _ _ h := congrArg (fun x : AxisSt => { AxisSt.reset with mot := { x.mot with stallHold := none } }) h
  fields _ _ h := Or.inl ⟨by have := h.1; omega, by have := h.2; omega⟩

theorem edgeFields_timerScope {a : Axis} {k : Leg} {f : Fld} (h : f ∈ edgeFields a k) : timerScope.fields a f := by
  have := k.isLt
  simp only [edgeFields, List.mem_cons, List.not_mem_nil, or_false] at h
  dsimp only [timerScope]
  rcases h with rfl | rfl | rfl | rfl <;> dsimp only <;> omega

theorem applyCommit_within (hS : timerScope.le S) (ha : a ∈ l) (x : Word × Word) (h : Within S l r s) :
    Within S l r (applyCommit a x s) := by
  unfold applyCommit
  refine .each _ (.modPwm (.set (.set (.set h _ ha (hS.fields _ _ ?_)) _ ha (hS.fields _ _ ?_)) _ ha (hS.fields _ _ ?_)) ha
    fun _ => hS.keep _ _ rfl) fun k _ t ht => takeEdge_within (fun f hf => hS.fields a f (edgeFields_timerScope hf)) ha _ ht
  all_goals dsimp only [timerScope]; omega

theorem startTimer_within (hS : timerScope.le S) (ha : a ∈ l) (h : Within S l r s) : Within S l r (startTimer a s) := by
  unfold startTimer
  refine .modCc (.modPwm ?_ ha fun _ => hS.keep _ _ rfl) ha fun _ => hS.keep _ _ rfl
  split
  · exact applyCommit_within hS ha _ h
  · exact h

theorem ocFields_engineBlock (a : Axis) (w : Fin 2) : engineBlock a (ocDac a w).addr ∧ engineBlock a (ocOut a w).addr := by
  unfold engineBlock ocDac ocOut
  fin_cases w <;> dsimp <;> omega

theorem setOcDac_within (ha : a ∈ l) (w : Fin 2) (code : Nat) (h : Within motionScope l r s) :
    Within motionScope l r (setOcDac a w code s) := by
  obtain ⟨hd, ho⟩ := ocFields_engineBlock a w
  unfold setOcDac
  refine .ite h (.modCc (.set (.ite (.modCc (.set h _ ha ho) ha fun _ => rfl) h) _ ha hd) ha fun _ => rfl)

theorem loadOcDac_within (ha : a ∈ l) (h : Within motionScope l r s) : Within motionScope l r (loadOcDac a s) := by
  unfold loadOcDac
  exact setOcDac_within ha _ _ (setOcDac_within ha _ _ h)

theorem requestDiag_within (ha : a ∈ l) (w : DiagWhy) (h : Within motionScope l r s) : Within motionScope l r (requestDiag a w s) := by
  unfold requestDiag
  exact .ite h (h.modGd ha fun _ => rfl)

theorem firstDiag_within (ha : a ∈ l) (h : Within motionScope l r s) : Within motionScope l r (firstDiag a s) := by
  unfold firstDiag
  exact .ite h (requestDiag_within ha _ h)

theorem refreshAll_within (h : Within motionScope allAxes r s) : Within motionScope allAxes r (refreshAll s) :=
  h.each _ fun _ ha _ ht => refreshAxis_within refreshScope_le_motionScope ha ht

end

end Sys2Proof.Machine

namespace Sys2Proof.Machine

/-! ### The end of a reset stretch, supplies, domains -/

/-- What follows a stretch with the pin high (R528, R537, R539). -/
def RstSt.over (r : RstSt) : RstSt := if r.level = 3 then { r with boot := .done, restart := true } else { r with boot := .power }

theorem stretchOver_eq (s : State) : stretchOver s = { s with rst := s.rst.over } := by
  unfold stretchOver RstSt.over awaitRestart
  split <;> rfl

theorem resetStretchEnd_stretch {s : State} (h : s.rst.boot = .stretch) (pin : Bool) :
    resetStretchEnd pin s = { s with rst := if pin then s.rst.over else { s.rst with boot := .held } } := by
  rw [resetStretchEnd, if_neg (not_not.mpr h), stretchOver_eq]
  cases pin <;> rfl

theorem resetStretchEnd_does {s : State} (hq : s.whReq = []) (h : s.rst.boot = .stretch) (pin : Bool) :
    Does (.resetStretchEnd pin) s { s with rst := if pin then s.rst.over else { s.rst with boot := .held } } [] [] :=
  does_nothing rfl hq rfl (resetStretchEnd_stretch (s := begun s) h pin)

theorem resetStretchEnd_stays {s : State} (hq : s.whReq = []) (h : s.rst.boot ≠ .stretch) (pin : Bool) :
    Does (.resetStretchEnd pin) s s [] [] :=
  does_nothing rfl hq rfl (if_pos h : resetStretchEnd pin (begun s) = _)

theorem nrstRelease_does {s : State} (hq : s.whReq = []) (h : s.rst.boot = .held) :
    Does .nrstRelease s { s with rst := s.rst.over } [] [] :=
  does_nothing rfl hq rfl ((if_pos h : nrstRelease (begun s) = _).trans (stretchOver_eq _))

theorem nrstRelease_stays {s : State} (hq : s.whReq = []) (h : s.rst.boot ≠ .held) : Does .nrstRelease s s [] [] :=
  does_nothing rfl hq rfl (if_neg h : nrstRelease (begun s) = _)

theorem supplyGood_does {s : State} (hq : s.whReq = []) {i : Fin 6} (h : i ≠ 5) :
    Does (.supplyGood i) s { s with pw := { s.pw with supplies := s.pw.supplies ||| BitVec.ofNat 6 (2 ^ i.val) } } [] [] :=
  does_nothing rfl hq rfl (if_neg h : supplyGood i (begun s) = _)

/-! ### Domains -/

/-- The state with domain `n` up. -/
def State.risen (s : State) (n : Nat) : State := { s with pw := { s.pw with on := s.pw.on ||| BitVec.ofNat 10 (2 ^ n) } }

theorem domainUp_locker {s : State} (t : Nat) (h : mayRise s 7 = true) (hb : s.rst.boot = .done) :
    domainUp 7 t s = loadParts (startRewrites ((s.risen 7).at_ t)) := by
  rw [domainUp, if_neg (not_not.mpr h)]
  exact if_pos hb

theorem domainUp_quad {s : State} {n : Nat} {q : Quad} (t : Nat) (h : mayRise s n = true) (hn : n = 3 + q.val) :
    domainUp n t s = quadStart q ((s.risen n).at_ t) := by
  subst hn
  rw [domainUp, if_neg (not_not.mpr h)]
  fin_cases q <;> rfl

theorem domainUp_stays {s : State} (hq : s.whReq = []) {n : Fin 10} (t0 : Nat) (h : mayRise s n.val = false) :
    Does (.domainUp n t0) s s [] [] :=
  does_nothing rfl hq rfl (if_pos (ne_true_of_eq_false h) : domainUp n.val t0 (begun s) = _)

theorem domainUp_core {s : State} (hq : s.whReq = []) (t0 : Nat) (h : mayRise s 1 = true) :
    Does (.domainUp 1 t0) s { s.risen 1 with now := 0, tb := TimeSt.reset } [] [] :=
  does_nothing rfl hq rfl (if_neg (not_not.mpr h) : domainUp 1 t0 (begun s) = _)

theorem domainUp_alone {s : State} (hq : s.whReq = []) {n : Fin 10} (t0 : Nat) (h : mayRise s n.val = true)
    (hn : n = 2 ∨ n = 8 ∨ n = 9 ∨ (n = 7 ∧ s.rst.boot ≠ .done)) :
    Does (.domainUp n t0) s ((s.at_ t0).risen n.val) [] [] := by
  refine does_nothing rfl hq rfl ((if_neg (not_not.mpr h) : domainUp n.val t0 (begun s) = _).trans ?_)
  rcases hn with rfl | rfl | rfl | ⟨rfl, hb⟩
  · rfl
  · rfl
  · rfl
  · exact if_neg hb

end Sys2Proof.Machine

namespace Sys2Proof.Machine

/-! ### What settling leaves alone -/

section
variable (u : State)

@[simp] theorem settle_now : (settle u).now = u.now := by rw [(settle_eq u).1]
@[simp] theorem settle_ax (a : Axis) : (settle u).ax a = u.ax a := by rw [(settle_eq u).1]; rfl
@[simp] theorem settle_axes : (settle u).axes = u.axes := by rw [(settle_eq u).1]
@[simp] theorem settle_ip : (settle u).ip = u.ip := by rw [(settle_eq u).1]
@[simp] theorem settle_pw : (settle u).pw = u.pw := by rw [(settle_eq u).1]
@[simp] theorem settle_rst : (settle u).rst = u.rst := by rw [(settle_eq u).1]
@[simp] theorem settle_cells : (settle u).lk.cells = u.lk.cells := by rw [(settle_eq u).1]
@[simp] theorem settle_pd (n : Nat) : (settle u).pd n = u.pd n := by rw [(settle_eq u).1]; rfl
@[simp] theorem settle_mot (a : Axis) : (settle u).mot a = u.mot a := congrArg AxisSt.mot (settle_ax u a)
@[simp] theorem settle_gd (a : Axis) : (settle u).gd a = u.gd a := congrArg AxisSt.gd (settle_ax u a)
@[simp] theorem settle_pwm (a : Axis) : (settle u).pwm a = u.pwm a := congrArg AxisSt.pwm (settle_ax u a)
@[simp] theorem settle_cc (a : Axis) : (settle u).cc a = u.cc a := congrArg AxisSt.cc (settle_ax u a)
@[simp] theorem settle_la (a : Axis) : (settle u).la a = u.la a := congrArg AxisSt.la (settle_ax u a)

end

theorem KeepsFields.settled {l : List Fld} {s v : State} (h : KeepsFields l s v) : KeepsFields l s (settle v) :=
  h.congr (settle_regs v)

theorem KeepsBlocks.settled {l : List Axis} {m : List Fld} {s v : State} (h : KeepsBlocks l m s v) : KeepsBlocks l m s (settle v) :=
  fun g ha hf => (settle_get v g).trans (h g ha hf)

theorem MotionKept.settled {a : Axis} {s v : State} (h : MotionKept a s v) : MotionKept a s (settle v) := by
  rw [MotionKept, settle_mot]
  exact h

/-- Work that has changed registers and engines alone, settled. -/
theorem besideAxes_settle {u v : State} (h : v = { begun u with regs := v.regs, axes := v.axes }) : BesideAxes u (settle v) := by
  have hs := (settle_eq v).1
  generalize settle v = t at hs ⊢
  rw [hs, h]
  rfl

/-- VGS is good: every axis is brought up to date. -/
theorem supplyGood_vgs {s : State} (hq : s.whReq = []) :
    Completes (.supplyGood 5) s fun t => t.pw = { s.pw with supplies := s.pw.supplies ||| 32, vgsUv := false }
      ∧ BesideAxes { s with pw := t.pw } t ∧ KeepsBlocks allAxes plannerFields s t ∧ ∀ a : Axis, MotionKept a s t := by
  have h := refreshAll_within (.refl motionScope allAxes
    { begun s with pw := { s.pw with supplies := s.pw.supplies ||| 32, vgsUv := false } })
  have hr := h.rest fun _ _ e => e
  refine completes_of (f := supplyGood 5) rfl ?_ ⟨?_, ?_, (h.keepsBlocks fun _ _ e => e).settled, fun a => (h.motionKept motionScope_motion a).settled⟩
  · exact (congrArg State.whReq hr).trans hq
  · exact (settle_pw _).trans (congrArg State.pw hr)
  · rw [settle_pw]
    refine besideAxes_settle (hr.trans ?_)
    rw [show (supplyGood 5 (begun s)).pw = _ from congrArg State.pw hr]
    rfl

/-! ### A quad that comes up -/

/-- A loop over a list brings each of its elements to its goal where no step spoils the goal of another. -/
theorem State.each_reaches {α : Type} {I : State → Prop} {P : α → State → Prop} {g : α → State → State}
    (hI : ∀ x s, I s → I (g x s)) (hP : ∀ x s, I s → P x (g x s)) (hk : ∀ x y s, I s → P y s → P y (g x s)) (l : List α) {s : State}
    (h : I s) : ∀ x ∈ l, P x (s.each l g) := by
  have keep : ∀ (l : List α) (s : State) y, I s → P y s → P y (s.each l g) := by
    intro l
    induction l with
    | nil => exact fun _ _ _ h => h
    | cons x l ih => exact fun s y h hp => ih _ y (hI x s h) (hk x y s h hp)
  induction l generalizing s with
  | nil => simp
  | cons x l ih =>
    intro y hy
    rcases List.mem_cons.mp hy with rfl | hy
    · exact keep l _ _ (hI _ s h) (hP _ s h)
    · exact ih (hI x s h) y hy

/-- With no trip pin active a returning axis is not forced (R217). -/
theorem tripResume_quiet (a : Axis) {s : State} (h : s.get F.TRIP_STAT.LEVEL = 0) : tripResume a s = s := by
  have hn : ∀ n, natBit (s.get F.TRIP_STAT.LEVEL) n = false := fun n => by simp [h, natBit]
  unfold tripResume
  generalize List.finRange 4 = l
  induction l with
  | nil => rfl
  | cons n l ih => simpa [hn] using ih

/-- The work on an axis of a quad that begins afresh, once its standstill is noted. -/
def quadAxisStart (a : Axis) (s : State) : State :=
  let s := loadOcDac a (firstDiag a s)
  let s := if s.mode = 1 then s else startTimer a s
  refreshAxis a (tripResume a s)

theorem quadStart_eq (q : Quad) (s : State) : quadStart q s =
    (vmStart q s).each (quadAxes q) fun a s => quadAxisStart a (s.modMot a fun m => { m with stillAt := some s.now }) := rfl

theorem get_level_outside {S : Scope} {l : List Axis} {r t : State} (h : Within S l r t) (hS : ∀ a f, S.fields a f → engineBlock a f.addr) :
    t.get F.TRIP_STAT.LEVEL = r.get F.TRIP_STAT.LEVEL :=
  h.get_outside hS fun _ _ hb => absurd (engineBlock_bounds hb).1 (by decide)

theorem quadAxisStart_within {l : List Axis} {a : Axis} (ha : a ∈ l) {s : State} (h : s.get F.TRIP_STAT.LEVEL = 0) :
    Within motionScope l s (quadAxisStart a s) := by
  have h1 := loadOcDac_within ha (firstDiag_within ha (.refl motionScope l s))
  have h2 : Within motionScope l s (if (loadOcDac a (firstDiag a s)).mode = 1 then loadOcDac a (firstDiag a s)
      else startTimer a (loadOcDac a (firstDiag a s))) := .ite h1 (startTimer_within timerScope_le_motionScope ha h1)
  unfold quadAxisStart
  dsimp only
  rw [tripResume_quiet a ((get_level_outside h2 fun _ _ e => e).trans h)]
  exact refreshAxis_within refreshScope_le_motionScope ha h2

/-- The scope of a quad that begins its work afresh: its axes stay where they were. -/
def quadScope : Scope where
  side := besideEngines
  keep x := { AxisSt.reset with mot := { MotionSt.reset with pos := x.mot.pos } }
  fields a f := engineBlock a f.addr
  side_engine _ _ _ := rfl

theorem motionScope_le_quadScope : motionScope.le quadScope where
  side _ _ h := h
  keep _ _ h := congrArg (fun z : AxisSt => { AxisSt.reset with mot := { MotionSt.reset with pos := z.mot.pos } }) h
  fields _ _ h := h

/-- One axis of a quad begins afresh at standstill (R89, R466). -/
def quadAxisStill (a : Axis) (s : State) : State := quadAxisStart a (s.modMot a fun m => { m with stillAt := some s.now })

theorem quadAxisStill_within {l : List Axis} {a : Axis} (ha : a ∈ l) {s : State} (h : s.get F.TRIP_STAT.LEVEL = 0) :
    Within quadScope l s (quadAxisStill a s) := by
  have h1 : Within quadScope l s (s.modMot a fun m => { m with stillAt := some s.now }) :=
    (Within.refl quadScope l s).modMot ha fun _ => rfl
  have h2 : Within motionScope l (s.modMot a fun m => { m with stillAt := some s.now }) (quadAxisStill a s) :=
    quadAxisStart_within ha h
  exact h1.trans (h2.widen motionScope_le_quadScope)

theorem quadAxisStill_stillAt (a : Axis) {s : State} (h : s.get F.TRIP_STAT.LEVEL = 0) :
    ((quadAxisStill a s).mot a).stillAt = some s.now := by
  have h2 : Within motionScope [a] (s.modMot a fun m => { m with stillAt := some s.now }) (quadAxisStill a s) :=
    quadAxisStart_within List.mem_cons_self h
  rw [(h2.motionKept motionScope_motion a).stillAt, State.modMot_mot_self]

theorem quadAxisStill_stillAt_other {a b : Axis} {s : State} (hb : b ≠ a) (h : s.get F.TRIP_STAT.LEVEL = 0) :
    (quadAxisStill a s).mot b = s.mot b :=
  congrArg AxisSt.mot ((quadAxisStill_within (l := [a]) List.mem_cons_self h).others b (by simpa using hb))

/-- The state in which the axes of a quad begin (R298). -/
theorem quadAxes_begin {q : Quad} {s : State} (h : s.get F.TRIP_STAT.LEVEL = 0) :
    Within quadScope (quadAxes q) (vmStart q s) (quadStart q s)
      ∧ ∀ a ∈ quadAxes q, ((quadStart q s).mot a).stillAt = some s.now := by
  have hL : (vmStart q s).get F.TRIP_STAT.LEVEL = 0 := by
    rw [← h]
    unfold vmStart brakeWant
    rw [State.get_set_other _ _ _ _ (by left; dsimp; omega), State.get_set_other _ _ _ _ (by left; dsimp; omega),
      State.get_set_other _ _ _ _ (by left; dsimp; omega)]
    rfl
  have key : ∀ x : Axis, ∀ t : State, Within quadScope (quadAxes q) (vmStart q s) t → x ∈ quadAxes q →
      Within quadScope (quadAxes q) (vmStart q s) (quadAxisStill x t) := fun x t ht hx =>
    ht.trans (quadAxisStill_within hx ((get_level_outside ht fun _ _ e => e).trans hL))
  refine ⟨.each _ (.refl _ _ _) fun x hx t ht => key x t ht hx, ?_⟩
  refine State.each_reaches (I := fun t => t.get F.TRIP_STAT.LEVEL = 0 ∧ t.now = s.now)
    (P := fun a t => (t.mot a).stillAt = some s.now) (g := quadAxisStill) ?_ ?_ ?_ _ ⟨hL, rfl⟩
  · intro a t ⟨ht, hn⟩
    have hw := quadAxisStill_within (l := [a]) List.mem_cons_self ht
    refine ⟨(get_level_outside hw fun _ _ e => e).trans ht, ?_⟩
    rw [hw.rest fun _ _ e => e]
    exact hn
  · intro a t ⟨ht, hn⟩
    rw [quadAxisStill_stillAt a ht, hn]
  · intro a b t ⟨ht, hn⟩ hp
    by_cases hb : b = a
    · rw [hb, quadAxisStill_stillAt a ht, hn]
    · rw [quadAxisStill_stillAt_other hb ht, hp]

end Sys2Proof.Machine

namespace Sys2Proof.Machine

theorem quadAxes_mem {q : Quad} {a : Axis} : a ∈ quadAxes q ↔ quadOf a = q := by
  simp [quadAxes, allAxes]

/-- What `vmStart` leaves alone (R253, R298). -/
theorem vmStart_eq (q : Quad) (s : State) :
    vmStart q s = { s with regs := (vmStart q s).regs, priv := (vmStart q s).priv, ms := (vmStart q s).ms } := rfl

theorem vmStart_unsettled (q : Quad) (s : State) : (vmStart q s).get (F.QD_GD_STAT.VM_UNSETTLED q) = 1 := by
  unfold vmStart
  rw [State.get_set_other _ _ _ _ (by right; dsimp; omega), State.get_set_other _ _ _ _ (by right; dsimp; omega)]
  exact State.get_set_same _ _ _ (by dsimp; omega) (by dsimp; omega) (by dsimp; omega)

/-- A quad domain comes up: its monitor settles and its axes begin where they were (R466, R469). -/
theorem domainUp_quad_begins {s : State} (hq : s.whReq = []) {n : Fin 10} (t0 : Nat) (h : mayRise s n.val = true) {q : Quad}
    (hn : n.val = 3 + q.val) (hl : s.get F.TRIP_STAT.LEVEL = 0) :
    Completes (.domainUp n t0) s fun t =>
      t.pw = (s.risen n.val).pw ∧ t.now = max s.now t0 ∧ t.ip = s.ip ∧ t.lk.cells = s.lk.cells
        ∧ t.get (F.QD_GD_STAT.VM_UNSETTLED q) = 1 ∧ (∀ a : Axis, a ∉ quadAxes q → t.ax a = s.ax a)
        ∧ ∀ a ∈ quadAxes q, (t.mot a).pos = (s.mot a).pos ∧ (t.mot a).stillAt = some (max s.now t0) := by
  have hup : domainUp n.val t0 (begun s) = quadStart q (((begun s).risen n.val).at_ t0) := domainUp_quad t0 h hn
  obtain ⟨hw, hst⟩ := quadAxes_begin (q := q) (s := ((begun s).risen n.val).at_ t0) hl
  rw [← hup] at hw hst
  have hr := hw.rest fun _ _ e => e
  rw [vmStart_eq] at hr
  refine completes_of (f := domainUp n.val t0) rfl ?_ ⟨?_, ?_, ?_, ?_, ?_, fun a ha => ?_, fun a ha => ⟨?_, ?_⟩⟩
  · rw [hr]; exact hq
  · rw [settle_pw, hr]; rfl
  · rw [settle_now, hr]; rfl
  · rw [settle_ip, hr]; rfl
  · rw [settle_cells, hr]; rfl
  · rw [settle_get, hw.get_outside (fun _ _ e => e) fun a _ hb => ?_]
    · exact vmStart_unsettled q _
    · have := (engineBlock_bounds hb).1
      have := q.isLt
      dsimp at *
      omega
  · rw [settle_ax, hw.others a ha]; rfl
  · rw [settle_mot]
    have := congrArg (fun z : AxisSt => z.mot.pos) (hw.own a)
    exact this
  · rw [settle_mot]
    exact hst a ha

/-! ### The Locker comes up -/

/-- From `s` to `t` only the list of the Locker's jobs has changed. -/
def JobsOnly (s t : State) : Prop := t = { s with lk := { s.lk with jobs := t.lk.jobs } }

theorem JobsOnly.trans {r s t : State} (h : JobsOnly r s) (k : JobsOnly s t) : JobsOnly r t :=
  Eq.trans k (by rw [h])

theorem addJob_only (j : LkJob) (s : State) : JobsOnly s (addJob j s) := rfl

theorem foldl_jobsOnly {α : Type} {f : State → α → State} (hf : ∀ s x, JobsOnly s (f s x)) (l : List α) (s : State) :
    JobsOnly s (l.foldl f s) := by
  induction l generalizing s with
  | nil => rfl
  | cons x l ih => exact (hf s x).trans (ih _)

theorem startRewrites_only (s : State) : JobsOnly s (startRewrites s) := by
  unfold startRewrites
  refine foldl_jobsOnly (fun s r => ?_) _ s
  dsimp only
  split
  · exact foldl_jobsOnly (fun s k => addJob_only _ s) _ s
  · rfl

/-- The partition registers and the partitions in force (R395). -/
def partValues (s : State) : List (Fld × Nat) :=
  [(F.LK_PART_REC.BASE, (partRec s).1), (F.LK_PART_REC.SIZE, (partRec s).2), (F.LK_PART_CAM.BASE, (partCam s).1),
    (F.LK_PART_CAM.SIZE, (partCam s).2), (F.LK_PART_TRC.BASE, (partTrc s).1), (F.LK_PART_TRC.SIZE, (partTrc s).2)]

theorem State.get_set_own (s : State) {f g : Fld} (v : Nat) (h : g.addr ≠ f.addr) : (s.set f v).get g = s.get g :=
  State.get_set_other s f g v (Or.inl h)

theorem loadParts_sets (s : State) : loadParts s = s.sets (partValues s) := by
  simp [loadParts, partValues, State.sets, partCam, partTrc, State.get_set_own]

end Sys2Proof.Machine

namespace Sys2Proof.Machine

/-- A field apart from a whole word is apart from each of its fields. -/
theorem Fld.apart_of_all {g f : Fld} (h : g.apart ⟨f.addr, 31, 0⟩) (hf : f.hi < 32) : g.apart f := by
  simp only [Fld.apart] at h ⊢
  omega

theorem domainUp_locker_loads {s : State} (hq : s.whReq = []) (t0 : Nat) (h : mayRise s 7 = true) (hb : s.rst.boot = .done) :
    Completes (.domainUp 7 t0) s fun t => t.pw = (s.risen 7).pw ∧ t.now = max s.now t0 ∧ t.axes = s.axes ∧ t.ip = s.ip
      ∧ t.lk.cells = s.lk.cells ∧ KeepsFields [F.LK_PART_REC.all, F.LK_PART_CAM.all, F.LK_PART_TRC.all] s t := by
  have hup : domainUp 7 t0 (begun s) = _ := (domainUp_locker (s := begun s) t0 h hb).trans (loadParts_sets _)
  have hj := startRewrites_only (((begun s).risen 7).at_ t0)
  refine completes_of (f := domainUp 7 t0) rfl ?_ ⟨?_, ?_, ?_, ?_, ?_, fun g hg => ?_⟩
  · rw [hup, State.sets_eq, hj]; exact hq
  · rw [settle_pw, hup, State.sets_eq, hj]; rfl
  · rw [settle_now, hup, State.sets_eq, hj]; rfl
  · rw [settle_axes, hup, State.sets_eq, hj]; rfl
  · rw [settle_ip, hup, State.sets_eq, hj]; rfl
  · rw [settle_cells, hup, State.sets_eq, hj]; rfl
  · rw [settle_get, hup, State.get_sets_apart _ _ _ fun p hp => ?_, hj]
    · rfl
    · simp only [List.forall_mem_cons] at hg
      obtain ⟨hrec, hcam, htrc, -⟩ := hg
      simp only [partValues, List.mem_cons, List.not_mem_nil, or_false] at hp
      rcases hp with rfl | rfl | rfl | rfl | rfl | rfl
      · exact Fld.apart_of_all hrec (by simp)
      · exact Fld.apart_of_all hrec (by simp)
      · exact Fld.apart_of_all hcam (by simp)
      · exact Fld.apart_of_all hcam (by simp)
      · exact Fld.apart_of_all htrc (by simp)
      · exact Fld.apart_of_all htrc (by simp)

/-! ### The restart of the interpreter -/

/-- The number after the last retired one (R93). -/
def nextRetired (s : State) : Nat :=
  if s.get F.LAST_COMMITTED_SEQ.SEQ_VALID = 0 then 1
  else if s.get F.LAST_COMMITTED_SEQ.SEQ = 0xFFFF then 1 else s.get F.LAST_COMMITTED_SEQ.SEQ + 1

/-- The scope of a planner that begins again from the committed segments (R93). -/
def replanScope : Scope where
  side := besideEngines
  keep x := { x with mot := { x.mot with planEnd := { p := 0, v := 0, a := 0 }, target := 0 } }
  fields _ _ := False
  side_engine _ _ _ := rfl

/-- The fields and values a restart writes (R93, R355). -/
def restartValues (s : State) : List (Fld × Nat) :=
  [(F.CMD_STAT.RESTART_SEQ, nextRetired s), (F.CMD_STAT.RESTART_VALID, 1), (F.CMD_STAT.L3_CNT, counted s F.CMD_STAT.L3_CNT)]

theorem restartValues_sets (s : State) :
    ((s.set F.CMD_STAT.RESTART_SEQ (nextRetired s)).set F.CMD_STAT.RESTART_VALID 1).inc F.CMD_STAT.L3_CNT
      = s.sets (restartValues s) := by
  have hc : ((s.set F.CMD_STAT.RESTART_SEQ (nextRetired s)).set F.CMD_STAT.RESTART_VALID 1).get F.CMD_STAT.L3_CNT
      = s.get F.CMD_STAT.L3_CNT := by
    rw [State.get_set_other _ _ _ _ (by decide), State.get_set_other _ _ _ _ (by decide)]
  rw [State.inc, State.count, hc]
  rfl

theorem State.sets_beside_run (s : State) (l : List (Fld × Nat)) (i : InterpSt) (r : RstSt) :
    { s.sets l with ip := i, rst := r } = State.sets { s with ip := i, rst := r } l := by
  induction l generalizing s with
  | nil => rfl
  | cons p l ih => exact ih (s.set p.1 p.2)

/-- The interpreter runs again, its planner still to begin. -/
def State.restartBase (s : State) : State := { s with
  ip := { s.ip with running := true, nextSeq := BitVec.ofNat 16 (nextRetired s) }
  rst := { s.rst with restart := false } }

/-- ... with its fields written (R93, R355). -/
def restarted (s : State) : State := s.restartBase.sets (restartValues s)

theorem restarted_ax (s : State) (a : Axis) : (restarted s).ax a = s.ax a := State.sets_ax _ _ _

/-- The planner of an axis begins again from its committed segments. -/
def replanAxis (a : Axis) (s : State) : State :=
  if s.axOn a ∧ s.src a = 0 then
    let jog := jogOpen s a
    s.modMot a fun m => { m with planEnd := committedEnd m, target := if jog then m.target else (committedEnd m).p }
  else s

theorem interpreterRestart_eq {s : State} (h : s.rst.restart = true) (hp : s.pd 2 = true) :
    interpreterRestart s = (restarted s).each allAxes replanAxis := by
  have hn : (if ¬ s.flag F.LAST_COMMITTED_SEQ.SEQ_VALID = true then 1
      else if s.get F.LAST_COMMITTED_SEQ.SEQ = 0xFFFF then 1 else s.get F.LAST_COMMITTED_SEQ.SEQ + 1) = nextRetired s := by
    simp [nextRetired, State.flag]
  rw [interpreterRestart, if_neg (by simp [h, hp])]
  dsimp only
  rw [hn, restartValues_sets, State.sets_beside_run]
  rw [State.sets_ip, State.sets_rst]
  rfl

theorem interpreterRestart_within {s : State} (h : s.rst.restart = true) (hp : s.pd 2 = true) :
    Within replanScope allAxes (restarted s) (interpreterRestart s) := by
  rw [interpreterRestart_eq h hp]
  exact .each _ (.refl _ _ _) fun a ha t ht => .ite (ht.modMot ha fun _ => rfl) ht

theorem restartValues_hold (s : State) : (∀ p ∈ restartValues s, p.1.holds p.2)
    ∧ (restartValues s).Pairwise fun p q => p.1.apart q.1 := by
  have hs := get_le_max s F.LAST_COMMITTED_SEQ.SEQ
  have hn : nextRetired s < 2 ^ 16 := by
    simp only [fieldMax] at hs
    unfold nextRetired
    split
    · omega
    · split <;> omega
  have hc : counted s F.CMD_STAT.L3_CNT ≤ 255 := Nat.min_le_right _ _
  constructor
  · simp only [restartValues, List.forall_mem_cons, Fld.holds]
    refine ⟨?_, ?_, ?_, by simp⟩ <;> omega
  · simp [restartValues, Fld.apart]

end Sys2Proof.Machine

namespace Sys2Proof.Machine
theorem interpreterRestart_runs {s : State} (hq : s.whReq = []) (h : s.rst.restart = true) (hp : s.pd 2 = true) :
    Completes .interpreterRestart s fun t =>
      t.ip = { s.ip with running := true, nextSeq := BitVec.ofNat 16 (nextRetired s) } ∧ t.rst = { s.rst with restart := false }
        ∧ t.get F.CMD_STAT.RESTART_SEQ = nextRetired s ∧ t.get F.CMD_STAT.RESTART_VALID = 1
        ∧ t.get F.CMD_STAT.L3_CNT = counted s F.CMD_STAT.L3_CNT ∧ KeepsFields [F.CMD_STAT.all] s t
        ∧ t.pw = s.pw ∧ t.lk.cells = s.lk.cells
        ∧ ∀ a : Axis, (t.mot a).pos = (s.mot a).pos ∧ (t.mot a).vel = (s.mot a).vel ∧ (t.mot a).queue = (s.mot a).queue
            ∧ t.gd a = s.gd a ∧ t.pwm a = s.pwm a := by
  have hw := interpreterRestart_within (s := begun s) h hp
  have hr := hw.rest fun _ _ e => e
  have hg : ∀ g, (interpreterRestart (begun s)).get g = (restarted (begun s)).get g := fun g =>
    hw.fields g fun _ _ _ hf => hf.elim
  obtain ⟨hv, hd⟩ := restartValues_hold s
  have hval := State.get_sets_mem (State.restartBase (begun s)) _ hv hd
  simp only [restartValues, List.forall_mem_cons] at hval
  obtain ⟨h1, h2, h3, -⟩ := hval
  have hown : ∀ a, replanScope.keep ((interpreterRestart (begun s)).ax a) = replanScope.keep (s.ax a) := fun a => by
    rw [hw.own a, restarted_ax, begun_ax]
  rw [restarted, State.sets_eq] at hr
  refine completes_of (f := interpreterRestart) rfl ?_ ⟨?_, ?_, ?_, ?_, ?_, fun g hgs => ?_, ?_, ?_, fun a => ?_⟩
  · rw [hr]; exact hq
  · rw [settle_ip, hr]; rfl
  · rw [settle_rst, hr]; rfl
  · rw [settle_get, hg]; exact h1
  · rw [settle_get, hg]; exact h2
  · rw [settle_get, hg]; exact h3
  · rw [settle_get, hg, restarted, State.get_sets_apart _ _ _ fun p hp => ?_]
    · rfl
    · rw [List.forall_mem_singleton] at hgs
      simp only [restartValues, List.mem_cons, List.not_mem_nil, or_false] at hp
      rcases hp with rfl | rfl | rfl
      · exact Fld.apart_of_all hgs (by simp)
      · exact Fld.apart_of_all hgs (by simp)
      · exact Fld.apart_of_all hgs (by simp)
  · rw [settle_pw, hr]; rfl
  · rw [settle_cells, hr]; rfl
  · rw [settle_mot, settle_gd, settle_pwm]
    have hm := congrArg AxisSt.mot (hown a)
    have hp := congrArg MotionSt.pos hm
    have hv := congrArg MotionSt.vel hm
    have hq := congrArg MotionSt.queue hm
    have hgd := congrArg AxisSt.gd (hown a)
    have hpwm := congrArg AxisSt.pwm (hown a)
    exact ⟨hp, hv, hq, hgd, hpwm⟩

end Sys2Proof.Machine

namespace Sys2Proof.Machine
theorem interpreterRestart_stays {s : State} (hq : s.whReq = []) (h : s.rst.restart = false ∨ s.pd 2 = false) :
    Does .interpreterRestart s s [] [] := by
  have hc : ¬ s.rst.restart ∨ ¬ s.pd 2 := by simpa using h
  exact does_nothing rfl hq rfl (if_pos hc : interpreterRestart (begun s) = _)

/-- Settles O51: the stretch, the supplies and the domains act by their equations; quads and the restart by what their work on
the axes leaves alone. -/
theorem suppliesDomainsAndRestart : Obligations.SuppliesDomainsAndRestart := by
  unfold Obligations.SuppliesDomainsAndRestart
  intro pin t0 s hq
  refine ⟨fun h => resetStretchEnd_does hq h pin, fun h => resetStretchEnd_stays hq h pin, fun h => nrstRelease_does hq h,
    fun h => nrstRelease_stays hq h, fun i hi => supplyGood_does hq hi, supplyGood_vgs hq, fun n h => domainUp_stays hq t0 h,
    fun n h => ⟨?_, fun hn => domainUp_alone hq t0 h hn, ?_, fun q hn hl => domainUp_quad_begins hq t0 h hn hl⟩,
    fun h hp => interpreterRestart_runs hq h hp, fun h => interpreterRestart_stays hq h⟩
  · rintro rfl
    exact domainUp_core hq t0 h
  · rintro rfl hb
    exact domainUp_locker_loads hq t0 h hb

end Sys2Proof.Machine

namespace Sys2Proof.Machine

/-! ### Motion that ends -/

/-- The records of the latest faults of an axis (R241, R244) and of its gates. -/
def GateSt.unfaulted (g : GateSt) : GateSt := { g.unnoted with fltAt := 0, fltSet := 0, fltFirst := 0, fltOff := 0 }

/-- A state without its registers, engines and records of commands. -/
def besideRecords (s : State) : State := { besideEngines s with ip := { s.ip with cmdq := [], ledger := [], log := [] } }

/-- A field of the planner's counts (R91 to R95). -/
def plannerField (f : Fld) : Prop := f.hi < 32 ∧ f.addr ∈ plannerFields.map Fld.addr

/-- The scope of commands that retire. -/
def recordScope : Scope where
  side := besideRecords
  keep x := x
  fields _ f := plannerField f
  side_engine _ _ _ := rfl

/-- The scope of a follower that leaves its source (R100). -/
def leaveScope : Scope where
  side := besideRecords
  keep x := { x with fol := FollowSt.reset }
  fields a f := plannerField f ∨ f.addr ∈ [(F.AX_FOLLOW_STAT.all a).addr, (F.AX_CAM_TABLE.all a).addr]
  side_engine _ _ _ := rfl

/-- The fields in which the end of a motion shows: those of the planner's counts (R91 to R95), the state and the bridge of the
axis, its planner, follower and cam table. -/
def haltFields (a : Axis) (f : Fld) : Prop :=
  plannerField f ∨ f ∈ bridgeFields a ∨ f ∈ stateFields a
    ∨ f.addr ∈ [(F.AX_PLN_STAT.all a).addr, (F.AX_FOLLOW_STAT.all a).addr, (F.AX_CAM_TABLE.all a).addr]

/-- The scope of a motion that ends: the commands of the axis retire, its position stays. -/
def haltScope : Scope where
  side := besideRecords
  keep x := { x with
    mot := { MotionSt.reset with pos := x.mot.pos }
    fol := FollowSt.reset
    gd := x.gd.unfaulted
    pwm := { x.pwm with carry := PwmSt.reset.carry }
    cc := { x.cc with w := CcSt.reset.w, first := false, energAt := 0 }
    la := { x.la with noReact := false, eco := 0 } }
  fields := haltFields
  side_engine _ _ _ := rfl

theorem recordScope_le_leaveScope : recordScope.le leaveScope where
  side _ _ h := h
  keep _ _ h := congrArg (fun x : AxisSt => { x with fol := FollowSt.reset }) h
  fields _ _ h := Or.inl h

/-- The scope of an axis whose motion has ended: it stays as it is, but for a stall reaction. -/
def standScope : Scope where
  side := besideRecords
  keep x := { x with
    mot := { x.mot with stallHold := none }
    fol := FollowSt.reset
    gd := x.gd.unfaulted
    pwm := { x.pwm with carry := PwmSt.reset.carry }
    cc := { x.cc with w := CcSt.reset.w, first := false, energAt := 0 }
    la := { x.la with noReact := false, eco := 0 } }
  fields := haltFields
  side_engine _ _ _ := rfl

theorem leaveScope_le_standScope : leaveScope.le standScope where
  side _ _ h := h
  keep _ _ h := congrArg (fun x : AxisSt => { x with
    mot := { x.mot with stallHold := none }
    gd := x.gd.unfaulted
    pwm := { x.pwm with carry := PwmSt.reset.carry }
    cc := { x.cc with w := CcSt.reset.w, first := false, energAt := 0 }
    la := { x.la with noReact := false, eco := 0 } }) h
  fields _ _ h := h.elim Or.inl fun h => Or.inr (Or.inr (Or.inr (List.mem_cons_of_mem _ h)))

theorem refreshScope_le_standScope : refreshScope.le standScope where
  side _ _ h := congrArg (fun s : State => { s with ip := { s.ip with cmdq := [], ledger := [], log := [] } }) h
  keep _ _ h := congrArg (fun x : AxisSt => { x with fol := FollowSt.reset, gd := x.gd.unfaulted }) h
  fields _ _ h := h.elim (fun h => Or.inr (Or.inl h)) fun h => Or.inr (Or.inr (Or.inl h))

theorem standScope_le_haltScope : standScope.le haltScope where
  side _ _ h := h
  keep _ _ h := congrArg (fun x : AxisSt => { x with mot := { MotionSt.reset with pos := x.mot.pos } }) h
  fields _ _ h := h

section
variable {S : Scope}

theorem Scope.le.leave (h : standScope.le S) : leaveScope.le S := leaveScope_le_standScope.trans h
theorem Scope.le.record (h : standScope.le S) : recordScope.le S := recordScope_le_leaveScope.trans h.leave
theorem Scope.le.refresh (h : standScope.le S) : refreshScope.le S := refreshScope_le_standScope.trans h
theorem Scope.le.bridge (h : standScope.le S) : bridgeScope.le S := bridgeScope_le_refreshScope.trans h.refresh
theorem Scope.le.stand (h : haltScope.le S) : standScope.le S := standScope_le_haltScope.trans h

end

section
variable {S : Scope} {l : List Axis} {a : Axis} {r s : State} (hS : recordScope.le S) (ha : a ∈ l)
include hS ha

theorem Within.setPlanner {f : Fld} (v : Nat) (h : Within S l r s) (hf : f.addr ∈ plannerFields.map Fld.addr) (hi : f.hi < 32) :
    Within S l r (s.set f v) :=
  h.set v ha (hS.fields a f ⟨hi, hf⟩)

omit ha in
theorem Within.records (h : Within S l r s) (q : List QCmd) (e : List (QCmd × Option Outc)) (g : List (QCmd × Outc)) :
    Within S l r { s with ip := { s.ip with cmdq := q, ledger := e, log := g } } :=
  h.beside (hS.side _ _ rfl) rfl rfl

theorem logRetire_within (c : QCmd) (o : Outc) (h : Within S l r s) : Within S l r (logRetire c o s) := by
  have h1 := ((h.records hS s.ip.cmdq s.ip.ledger ((s.ip.log ++ [(c, o)]).drop ((s.ip.log.length + 1) - 64))).setPlanner hS ha
    (f := F.LAST_COMMITTED_SEQ.SEQ) c.seq.toNat (by decide) (by decide)).setPlanner hS ha
    (f := F.LAST_COMMITTED_SEQ.SEQ_VALID) 1 (by decide) (by decide)
  unfold logRetire
  exact .ite (h1.setPlanner hS ha _ (by decide) (by decide)) h1

theorem flushLedger_within (e : List (QCmd × Option Outc)) (h : Within S l r s) : Within S l r (flushLedger e s) := by
  induction e generalizing s with
  | nil => exact h.records hS s.ip.cmdq [] s.ip.log
  | cons x rest ih =>
    obtain ⟨c, o⟩ := x
    cases o with
    | none => exact h.records hS s.ip.cmdq _ s.ip.log
    | some o => exact ih (logRetire_within hS ha c o (h.records hS s.ip.cmdq rest s.ip.log))

theorem retire_within (q : BitVec 16) (o : Outc) (h : Within S l r s) : Within S l r (retire q o s) :=
  flushLedger_within hS ha _ h

theorem retireAll_within (m : List (BitVec 16)) (o : Outc) (h : Within S l r s) : Within S l r (retireAll m o s) :=
  h.each m fun q _ _ ht => retire_within hS ha q o ht

theorem cancelWaiting_within (h : Within S l r s) : Within S l r (cancelWaiting a s) :=
  retireAll_within hS ha _ _ (h.records hS _ s.ip.ledger s.ip.log)

theorem countOffside_within (n : Nat) (h : Within S l r s) : Within S l r (countOffside n s) :=
  .ite h (h.setPlanner hS ha _ (by decide) (by decide))

theorem countCut_within (n : Nat) (h : Within S l r s) : Within S l r (countCut n s) :=
  .ite h (h.setPlanner hS ha _ (by decide) (by decide))

end

section
variable {S : Scope} {l : List Axis} {a : Axis} {r s : State} (hS : leaveScope.le S) (ha : a ∈ l)
include hS ha

theorem Within.setLeave {f : Fld} (v : Nat) (h : Within S l r s)
    (hf : f.addr ∈ [(F.AX_FOLLOW_STAT.all a).addr, (F.AX_CAM_TABLE.all a).addr]) : Within S l r (s.set f v) :=
  h.set v ha (hS.fields a f (Or.inr hf))

theorem disengage_within (h : Within S l r s) : Within S l r (disengage a s) := by
  unfold disengage
  exact ((h.setLeave hS ha _ (by simp)).setLeave hS ha _ (by simp)).modFol ha fun _ => hS.keep _ _ rfl

theorem retireEngage_within (o : Outc) (h : Within S l r s) : Within S l r (retireEngage a o s) := by
  unfold retireEngage
  split
  · exact h
  · exact retire_within (recordScope_le_leaveScope.trans hS) ha _ _ (h.modFol ha fun _ => hS.keep _ _ rfl)

end

section
variable {S : Scope} {l : List Axis} {a : Axis} {r s : State} (hS : haltScope.le S) (ha : a ∈ l)
include hS ha

theorem Within.setHalt {f : Fld} (v : Nat) (h : Within S l r s)
    (hf : f.addr ∈ [(F.AX_PLN_STAT.all a).addr, (F.AX_FOLLOW_STAT.all a).addr, (F.AX_CAM_TABLE.all a).addr]) :
    Within S l r (s.set f v) :=
  h.set v ha (hS.fields a f (Or.inr (Or.inr (Or.inr hf))))

theorem Within.stateIf {c : Prop} [Decidable c] (v : Nat) (h : Within S l r s) :
    Within S l r (if c then s.set (F.AX_STATE.STATE a) v else s) :=
  .ite (h.setState hS.stand.refresh ha v (by simp [stateFields])) h

/-- A change of the motion that leaves its position. -/
theorem Within.moves {f : MotionSt → MotionSt} (h : Within S l r s) (hf : ∀ m, (f m).pos = m.pos := by exact fun _ => rfl) :
    Within S l r (s.modMot a f) :=
  h.modMot ha fun _ => hS.keep _ _ (by simp [haltScope, hf])

theorem discardWindow_within (h : Within S l r s) : Within S l r (discardWindow a s) := by
  unfold discardWindow
  exact countOffside_within hS.stand.record ha _ (h.modMot ha fun _ => hS.keep _ _ rfl)

theorem dropCut_within (o q : Outc) (h : Within S l r s) : Within S l r (dropCut o q a s) := by
  unfold dropCut
  split
  · exact h
  · dsimp only
    split
    · exact retireAll_within hS.stand.record ha _ _ (countCut_within hS.stand.record ha _ (h.moves hS ha))
    · exact retire_within hS.stand.record ha _ _ (retireAll_within hS.stand.record ha _ _ (countCut_within hS.stand.record ha _ (h.moves hS ha)))

theorem discardCut_within (h : Within S l r s) : Within S l r (discardCut a s) := dropCut_within hS ha _ _ h

theorem haltMotion_within (h : Within S l r s) : Within S l r (haltMotion a s) := by
  unfold haltMotion
  refine cancelWaiting_within hS.stand.record ha (clearRemain_within hS.stand.refresh ha (retireAll_within hS.stand.record ha _ _ (endStall_within hS.stand.refresh ha (.moves hS ha ?_))))
  refine discardWindow_within hS ha (countCut_within hS.stand.record ha _ (dropCut_within hS ha _ _ (.ite ?_ h)))
  exact h.setHalt hS ha _ (by simp)

theorem cancelEngage_within (h : Within S l r s) : Within S l r (cancelEngage a s) := by
  have h1 := retireEngage_within hS.stand.leave ha .cancelled (disengage_within hS.stand.leave ha h)
  unfold cancelEngage
  exact h1.stateIf hS ha _

theorem reachStandstill_within (e : Nat) (k : SegKind) (h : Within S l r s) : Within S l r (reachStandstill a e k s) := by
  unfold reachStandstill
  refine .ite (takePendSource_within hS.stand.refresh ha (.stateIf hS ha _ ?_)) (takePendSource_within hS.stand.refresh ha (.stateIf hS ha _ (.ite ?_ ?_)))
  · exact (clearRemain_within hS.stand.refresh ha (disengage_within hS.stand.leave ha (h.moves hS ha))).moves hS ha
  · exact (h.moves hS ha).moves hS ha
  · exact h.moves hS ha

theorem brakeAt_within (why : BrakeWhy) (from_ : Nat) (p0 : Int) (at_ : Nat) (k : KState) (h : Within S l r s) :
    Within S l r (brakeAt a why from_ p0 at_ k s) := by
  unfold brakeAt
  refine .ite (.stateIf hS ha _ ?_) (discardWindow_within hS ha (.stateIf hS ha _ ?_))
  · exact h.moves hS ha
  · exact h.moves hS ha

theorem startBrake_within (why : BrakeWhy) (t after : Nat) (k : KState) (h : Within S l r s) :
    Within S l r (startBrake a why t after k s) := brakeAt_within hS ha _ _ _ _ _ h

theorem followBrake_within (why : BrakeWhy) (t after : Nat) (h : Within S l r s) : Within S l r (followBrake a why t after s) := by
  have h1 : Within S l r ((s.set (F.AX_FOLLOW_STAT.FSTATE a) 4).modFol a
      fun f => { f with lossPend := none, exitAt := none, exitArmed := false }) :=
    (h.setHalt hS ha _ (by simp)).modFol ha fun _ => hS.keep _ _ rfl
  unfold followBrake
  refine .ite (reachStandstill_within hS ha _ _ (.ite (h1.setHalt hS ha _ (by simp)) h1)) ?_
  exact startBrake_within hS ha _ _ _ _ (h1.stateIf hS ha _)

theorem clampAxis_within (t : Nat) (h : Within S l r s) : Within S l r (clampAxis a t s) := by
  have h0 := discardCut_within hS ha h
  have h1 : ∀ n, Within S l r (countCut n (discardCut a s)) := fun n => countCut_within hS.stand.record ha n h0
  unfold clampAxis
  refine .ite h0 (.ite (.ite (cancelEngage_within hS ha (h1 _)) (followBrake_within hS ha _ _ _ (h1 _))) (.ite ?_ ?_))
  · have h2 : ∀ n, Within S l r (((countCut n (discardCut a s)).raise (F.AX_PLN_STAT.CLAMPED a)).modMot a
        fun m => { m with recordDue := some t, stopGoal := none }) := fun n =>
      (Within.setHalt hS ha 1 (h1 n) (by simp)).modMot ha fun _ => hS.keep _ _ rfl
    exact discardWindow_within hS ha (.ite (h2 _) (reachStandstill_within hS ha _ _ (h2 _)))
  · exact brakeAt_within hS ha _ _ _ _ _ (h1 _)

theorem loseReady_within (h : Within S l r s) : Within S l r (loseReady a s) := by
  unfold loseReady
  refine .ite (refreshEnergised_within hS.stand.bridge ha (endStall_within hS.stand.refresh ha ?_))
    (refreshAxis_within hS.stand.refresh ha h)
  exact (clampAxis_within hS ha _ h).setState hS.stand.refresh ha _ (by simp [stateFields])

omit hS in
/-- What follows the end of the motion in a fault (R239). -/
theorem enterFault_stands (hT : standScope.le S) (h : Within S l r (haltMotion a s)) : Within S l r (enterFault a s) := by
  unfold enterFault
  refine refreshEnergised_within hT.bridge ha (.setState hT.refresh ha _ ?_ (by simp [stateFields]))
  exact retireEngage_within hT.leave ha _ (disengage_within hT.leave ha h)

theorem enterFault_within (h : Within S l r s) : Within S l r (enterFault a s) :=
  enterFault_stands ha hS.stand (haltMotion_within hS ha h)

end

/-! ### What an axis shows whose motion has ended -/

theorem standScope_motion (x y : AxisSt) (h : standScope.keep x = standScope.keep y) :
    { x.mot with stallHold := none } = { y.mot with stallHold := none } := congrArg AxisSt.mot h

theorem haltMotion_still (a : Axis) (s : State) : ((haltMotion a s).mot a).queue = [] ∧ ((haltMotion a s).mot a).vel = 0 := by
  have tail : ∀ (q : List (BitVec 16)) (t : State), MotionKept a t
      (cancelWaiting a (clearRemain a (retireAll q .cancelled (endStall a t)))) := fun q t =>
    have hS : standScope.le standScope := Scope.le_rfl
    have ha : a ∈ [a] := List.mem_cons_self
    (cancelWaiting_within hS.record ha (clearRemain_within hS.refresh ha (retireAll_within hS.record ha _ _
      (endStall_within hS.refresh ha (.refl _ _ _))))).motionKept standScope_motion a
  unfold haltMotion
  refine ⟨(tail _ _).queue.trans ?_, (tail _ _).vel.trans ?_⟩
  · rw [State.modMot_mot_self]
  · rw [State.modMot_mot_self]

theorem haltMotion_pos (a b : Axis) (s : State) : ((haltMotion a s).mot b).pos = (s.mot b).pos := by
  have h := (haltMotion_within (S := haltScope) Scope.le_rfl List.mem_cons_self (.refl _ [a] s)).own b
  have := congrArg (fun x : AxisSt => x.mot.pos) h
  exact this

theorem disengage_fstate (a : Axis) (s : State) : fstate (disengage a s) a = 0 := by
  unfold fstate disengage
  rw [State.modFol_get, State.get_set_own _ _ (by dsimp; omega)]
  exact State.get_set_same _ _ _ (by simp) (by simp) (by simp)

theorem plannerField_low {f : Fld} (h : plannerField f) : f.addr < 0x100000 := by
  have := h.2
  simp only [plannerFields, List.map_cons, List.map_nil, List.mem_cons, List.not_mem_nil, or_false] at this
  omega

/-- The fields of an engine are none of the planner's. -/
theorem retire_get (q : BitVec 16) (o : Outc) (s : State) {g : Fld} (hg : 0x100000 ≤ g.addr) : (retire q o s).get g = s.get g := by
  refine (retire_within (a := 0) (S := recordScope) Scope.le_rfl List.mem_cons_self q o (.refl _ [0] s)).fields g fun _ _ f hf => ?_
  have := plannerField_low hf
  exact Or.inl (by omega)

theorem retireEngage_get (a : Axis) (o : Outc) (s : State) {g : Fld} (hg : 0x100000 ≤ g.addr) :
    (retireEngage a o s).get g = s.get g := by
  unfold retireEngage
  split
  · rfl
  · exact retire_get _ _ _ hg

/-- A field of an axis that is none of those of its bridge. -/
theorem refreshEnergised_get (a : Axis) (s : State) {g : Fld} (hg : ∀ f ∈ bridgeFields a, g.apart f) :
    (refreshEnergised a s).get g = s.get g :=
  (refreshEnergised_within (S := bridgeScope) Scope.le_rfl List.mem_cons_self (.refl _ [a] s)).fields g fun b hb f hf =>
    hg f (by rw [List.mem_singleton] at hb; exact hb ▸ hf)

theorem noteGates_get (a : Axis) (s : State) (g : Fld) : (noteGates a s).get g = s.get g :=
  (noteGates_within (S := gateScope) Scope.le_rfl List.mem_cons_self (.refl _ [a] s)).fields g fun _ _ _ hf => hf.elim

theorem refreshEnergised_energised (a : Axis) {s : State} (h : energisedNow s a = false) :
    (refreshEnergised a s).get (F.AX_STATE.ENERGISED a) = 0 := by
  unfold refreshEnergised
  rw [noteGates_get, if_neg (by simp [h])]
  unfold dropEnergised
  exact State.get_set_same _ _ _ (by simp) (by simp) (by simp)

theorem energisedNow_fault {a : Axis} {s : State} (h : s.axState a = 6) : energisedNow s a = false := by
  simp [energisedNow, h]

/-- An axis fault leaves the axis in FAULT (R239). -/
theorem enterFault_inFault (a : Axis) (s : State) : InFault a s (enterFault a s) := by
  have h : ∀ t : State, (refreshEnergised a (t.set (F.AX_STATE.STATE a) 6)).axState a = 6 := fun t => by
    unfold State.axState
    rw [refreshEnergised_get a _ (by simp [bridgeFields, Fld.apart])]
    exact State.get_set_same _ _ _ (by simp) (by simp) (by simp)
  have hk := (enterFault_stands (s := s) List.mem_cons_self Scope.le_rfl (.refl standScope [a] (haltMotion a s))).motionKept
    standScope_motion a
  obtain ⟨hq, hv⟩ := haltMotion_still a s
  refine ⟨h _, refreshEnergised_energised a (energisedNow_fault ?_), hk.queue.trans hq, hk.vel.trans hv,
    hk.pos.trans (haltMotion_pos a a s), ?_⟩
  · exact State.get_set_same _ _ _ (by simp) (by simp) (by simp)
  · unfold fstate enterFault
    dsimp only
    rw [refreshEnergised_get a _ (by simp [bridgeFields, Fld.apart]), State.get_set_own _ _ (by dsimp; omega),
      retireEngage_get a _ _ (by dsimp; omega)]
    exact disengage_fstate a _

end Sys2Proof.Machine

namespace Sys2Proof.Machine

/-! ### Legs and choppers -/

/-- The scope of legs that take the levels of their edges (R205, R210). -/
def levelScope : Scope where
  side := besideEngines
  keep x := { x with pwm := { x.pwm with legs := PwmSt.reset.legs }, gd := GateSt.reset }
  fields a f := f = F.AX_PWM_GUARD.MINP_GUARD a
  side_engine _ _ _ := rfl

/-- The fields of the edges of an axis (R202). -/
def edgeField (a : Axis) (f : Fld) : Prop := ∃ k : Leg, f ∈ edgeFields a k

/-- The scope of choppers that drive their legs themselves (R161). -/
def chopScope : Scope where
  side := besideEngines
  keep x := { x with
    pwm := { x.pwm with legs := PwmSt.reset.legs, refresh := [] }
    gd := GateSt.reset
    cc := { x.cc with w := CcSt.reset.w } }
  fields a f := f = F.AX_PWM_GUARD.MINP_GUARD a ∨ edgeField a f
  side_engine _ _ _ := rfl

theorem gateScope_le_levelScope : gateScope.le levelScope where
  side _ _ h := h
  keep _ _ h := congrArg (fun x : AxisSt => { x with pwm := { x.pwm with legs := PwmSt.reset.legs }, gd := GateSt.reset }) h
  fields _ _ h := h.elim

theorem levelScope_le_chopScope : levelScope.le chopScope where
  side _ _ h := h
  keep _ _ h := congrArg (fun x : AxisSt => { x with
    pwm := { x.pwm with refresh := [] }
    cc := { x.cc with w := CcSt.reset.w } }) h
  fields _ _ h := Or.inl h

section
variable {S : Scope} {l : List Axis} {a : Axis} {r s : State} (hS : levelScope.le S) (ha : a ∈ l)
include hS ha

theorem addEdge_within (k : Leg) (e : LegEv) (h : Within S l r s) : Within S l r (addEdge a k e s) := by
  unfold addEdge
  exact h.modPwm ha fun _ => hS.keep _ _ rfl

theorem driveLeg_within (k : Leg) (high : Bool) (te : Nat) (h : Within S l r s) : Within S l r (driveLeg a k high te s) := by
  unfold driveLeg
  refine .ite h (addEdge_within hS ha _ _ (.modGd (noteLows_within (gateScope_le_levelScope.trans hS) ha _ (.ite ?_ h)) ha ?_))
  · exact h.inc ha (hS.fields _ _ rfl)
  · exact fun _ => hS.keep _ _ rfl

theorem floatLeg_within (k : Leg) (te : Nat) (h : Within S l r s) : Within S l r (floatLeg a k te s) := by
  have h1 : Within S l r ((noteLows a te s).modPwm a fun p => { p with legs := p.legs.set k (p.legs[k].filter fun e => decide (e.at_ ≤ te)) }) :=
    (noteLows_within (gateScope_le_levelScope.trans hS) ha _ h).modPwm ha fun _ => hS.keep _ _ rfl
  unfold floatLeg
  exact .ite h1 (addEdge_within hS ha _ _ h1)

theorem levelLeg_within (x te : Nat) (k : Leg) (h : Within S l r s) : Within S l r (levelLeg a x te k s) := by
  unfold levelLeg
  dsimp only
  split
  · exact driveLeg_within hS ha _ _ _ h
  · exact driveLeg_within hS ha _ _ _ h
  · exact driveLeg_within hS ha _ _ _ h
  · exact floatLeg_within hS ha _ _ h

theorem levelLegs_within (x te : Nat) (h : Within S l r s) : Within S l r (levelLegs a x te s) :=
  .ite h (h.each _ fun _ _ _ ht => levelLeg_within hS ha _ _ _ ht)

end

section
variable {S : Scope} {l : List Axis} {a : Axis} {r s : State} (hS : chopScope.le S) (ha : a ∈ l)
include hS ha

theorem modChop_within (w : Fin 2) (f : WindSt → WindSt) (h : Within S l r s) : Within S l r (modChop a w f s) := by
  unfold modChop
  exact h.modCc ha fun _ => hS.keep _ _ rfl

theorem chopCount_within (w : Fin 2) (t : Nat) (h : Within S l r s) : Within S l r (chopCount a w t s) := by
  unfold chopCount
  exact modChop_within hS ha _ _ h

theorem chopLegs_within (w : Fin 2) (t : Nat) (h : Within S l r s) : Within S l r (chopLegs a w t s) := by
  have hL := levelScope_le_chopScope.trans hS
  have he : ∀ {k e u}, Within S l r u → Within S l r (setEdge a k e u) := fun hu =>
    setEdge_within (fun _ hf => hS.fields _ _ (Or.inr ⟨_, hf⟩)) ha _ hu
  unfold chopLegs
  exact driveLeg_within hL ha _ _ _ (driveLeg_within hL ha _ _ _ ((he (he h)).modPwm ha fun _ => hS.keep _ _ rfl))

theorem chopMixed_within (w : Fin 2) (t : Nat) (h : Within S l r s) : Within S l r (chopMixed a w t s) := by
  unfold chopMixed
  exact .ite h (noteGates_within (gateScope_le_levelScope.trans (levelScope_le_chopScope.trans hS)) ha
    (chopLegs_within hS ha _ _ (modChop_within hS ha _ _ h)))

end

/-! ### A sample instant -/

/-- The fields of the references of an axis. -/
theorem edgeField_addr {a : Axis} {f : Fld} (h : edgeField a f) :
    0x100514 + a.val * 0x1000 ≤ f.addr ∧ f.addr < 0x100560 + a.val * 0x1000 := by
  obtain ⟨k, hk⟩ := h
  have := k.isLt
  simp only [edgeFields, List.mem_cons, List.not_mem_nil, or_false] at hk
  rcases hk with rfl | rfl | rfl | rfl <;> dsimp only <;> omega

theorem chopFields_addr {a : Axis} {f : Fld} (h : chopScope.fields a f) :
    0x100514 + a.val * 0x1000 ≤ f.addr ∧ f.addr < 0x100560 + a.val * 0x1000 := by
  rcases h with rfl | h
  · dsimp only; omega
  · exact edgeField_addr h

end Sys2Proof.Machine

namespace Sys2Proof.Machine

/-! ### Work on one axis as a command -/

theorem besideRecords_of_besideEngines (x y : State) (h : besideEngines x = besideEngines y) : besideRecords x = besideRecords y :=
  congrArg (fun s : State => { s with ip := { s.ip with cmdq := [], ledger := [], log := [] } }) h

theorem eq_of_besideRecords {x y : State} (h : besideRecords x = besideRecords y) :
    x = { y with
      regs := x.regs
      axes := x.axes
      ip := { y.ip with cmdq := x.ip.cmdq, ledger := x.ip.ledger, log := x.ip.log } } := by
  cases x with
  | mk now freeCtr regs axes mch wt ms ip =>
  cases y with
  | mk now' freeCtr' regs' axes' mch' wt' ms' ip' =>
  cases ip
  cases ip'
  simp only [besideRecords, besideEngines, State.mk.injEq, InterpSt.mk.injEq] at h ⊢
  simp only [h, and_self]

section
variable {S : Scope} {l : List Axis} {s r u : State}

/-- Work in a scope that fixes all but registers, engines and records, settled. -/
theorem Within.besideAxes (h : Within S l r u) (hS : ∀ x y, S.side x = S.side y → besideRecords x = besideRecords y)
    (hr : besideRecords r = besideRecords { begun s with now := r.now }) : BesideAxes s (settle u) := by
  have hu := eq_of_besideRecords ((hS _ _ h.side).trans hr)
  have hs := (settle_eq u).1
  generalize settle u = t at hs ⊢
  rw [hs, hu]
  rfl

theorem Within.whReq (h : Within S l r u) (hS : ∀ x y, S.side x = S.side y → besideRecords x = besideRecords y) : u.whReq = r.whReq := by
  have := congrArg State.whReq (hS _ _ h.side)
  exact this

theorem Within.now (h : Within S l r u) (hS : ∀ x y, S.side x = S.side y → besideRecords x = besideRecords y) : u.now = r.now := by
  have := congrArg State.now (hS _ _ h.side)
  exact this

theorem Within.onlyAxes (h : Within S l r u) (hS : ∀ x y, S.side x = S.side y → besideRecords x = besideRecords y)
    (hr : besideRecords r = besideRecords { begun s with now := r.now }) (ho : ∀ b, b ∉ l → r.ax b = s.ax b) :
    OnlyAxes l s (settle u) :=
  ⟨h.besideAxes hS hr, fun b hb => by rw [settle_ax, h.others b hb, ho b hb]⟩

end

/-! ### A sample instant -/

/-- The scope of a computation that starts: the motion, and what of the sample instant is in hand (R38). -/
def sampleScope : Scope where
  side := besideEngines
  keep x := { AxisSt.reset with
    mot := x.mot
    pwm := { PwmSt.reset with sampleDue := x.pwm.sampleDue }
    cc := { CcSt.reset with compDue := x.cc.compDue } }
  fields a f := engineBlock a f.addr
  side_engine _ _ _ := rfl

theorem chopScope_le_sampleScope : chopScope.le sampleScope where
  side _ _ h := h
  keep _ _ h := congrArg (fun x : AxisSt => { AxisSt.reset with
    mot := x.mot
    pwm := { PwmSt.reset with sampleDue := x.pwm.sampleDue }
    cc := { CcSt.reset with compDue := x.cc.compDue } }) h
  fields a f h := by
    have := chopFields_addr h
    exact Or.inl ⟨by omega, by omega⟩

/-- The references of a computation that starts (R147, R156). -/
def startRefs (s : State) (a : Axis) : Int × Int :=
  if s.get (F.AX_STATE.ENERGISED a) = 1 then currentRefs s a (s.mot a).pos (s.get (F.AX_CC_FLAG.SCALE_EFF a)) else (0, 0)

/-- The computation that starts at the present instant. -/
def startedComp (a : Axis) (s : State) : Comp where
  t0 := lastBoundary s a
  mid := atPeriod s a
  iref1 := (startRefs s a).1
  iref2 := (startRefs s a).2
  pos := (s.mot a).pos
  trav := (s.la a).trav
  vel := (s.mot a).vel
  cfg := ccCfg s a
  gain := BitVec.ofNat 32 (s.get (F.AX_CC_GAIN.all a))
  motor := BitVec.ofNat 32 (s.get (F.AX_MOTOR.all a))
  shunt := BitVec.ofNat 32 (s.get (F.AX_SHUNT.all a))
  late := false
  passed := false

/-- The choppers of an axis count their volt-seconds up to the sample instant (R164). -/
def chopsCounted (a : Axis) (s : State) : State :=
  s.each [(0 : Fin 2), 1] fun w s => chopCount a w s.now (chopMixed a w s.now s)

theorem startComp_eq (a : Axis) (s : State) : startComp a s =
    (if s.get (F.AX_CC_CFG.MODE a) = 1 then
        chopsCounted a ((s.setS (F.AX_IREF.IREF_W1 a) (startRefs s a).1).setS (F.AX_IREF.IREF_W2 a) (startRefs s a).2)
      else (s.setS (F.AX_IREF.IREF_W1 a) (startRefs s a).1).setS (F.AX_IREF.IREF_W2 a) (startRefs s a).2).modCc a fun c => { c with
        comp := some (startedComp a s)
        w := c.w.map fun w => { w with sample := none, vsLast := w.vs, vs := 0 } } := by
  have e : (if s.flag (F.AX_STATE.ENERGISED a) then
      currentRefs s a (s.mot a).pos (s.get (F.AX_CC_FLAG.SCALE_EFF a)) else (0, 0)) = startRefs s a := by
    simp only [startRefs, flag_eq_true_iff s (F.AX_STATE.ENERGISED a) rfl]
  unfold startComp
  dsimp only
  rw [e]
  rfl

section
variable {l : List Axis} {a : Axis} {r s : State}

theorem chopsCounted_within {S : Scope} (hS : chopScope.le S) (ha : a ∈ l) (h : Within S l r s) : Within S l r (chopsCounted a s) :=
  h.each _ fun _ _ _ ht => chopCount_within hS ha _ _ (chopMixed_within hS ha _ _ ht)

theorem startComp_within (ha : a ∈ l) (h : Within sampleScope l r s) : Within sampleScope l r (startComp a s) := by
  have h1 : Within sampleScope l r ((s.setS (F.AX_IREF.IREF_W1 a) (startRefs s a).1).setS (F.AX_IREF.IREF_W2 a) (startRefs s a).2) :=
    (h.setS _ ha (Or.inl (by dsimp; omega))).setS _ ha (Or.inl (by dsimp; omega))
  rw [startComp_eq]
  exact (Within.ite (chopsCounted_within chopScope_le_sampleScope ha h1) h1).modCc ha fun _ => rfl

end

theorem toBits_lt (n : Nat) (v : Int) : toBits n v < 2 ^ n := by
  have h1 := Int.emod_nonneg v (b := (2 ^ n : Nat)) (by positivity)
  have h2 := Int.emod_lt_of_pos v (b := (2 ^ n : Nat)) (by positivity)
  unfold toBits
  omega

theorem setS_get_same (s : State) (f : Fld) (v : Int) (hf : f.hi < 32) (hl : f.lo ≤ f.hi) :
    (s.setS f v).get f = toBits (f.hi + 1 - f.lo) v :=
  State.get_set_same _ _ _ hf hl (toBits_lt _ _)

theorem startComp_get (a : Axis) (s : State) {g : Fld} (hg : g.addr < 0x100514 + a.val * 0x1000) :
    (startComp a s).get g = ((s.setS (F.AX_IREF.IREF_W1 a) (startRefs s a).1).setS (F.AX_IREF.IREF_W2 a) (startRefs s a).2).get g := by
  rw [startComp_eq, State.modCc_get]
  split
  · refine (chopsCounted_within (S := chopScope) Scope.le_rfl List.mem_cons_self (.refl _ [a] _)).fields g fun b hb f hf => ?_
    rw [List.mem_singleton] at hb
    have := chopFields_addr hf
    subst hb
    exact Or.inl (by omega)
  · rfl

theorem startComp_comp (a : Axis) (s : State) : ((startComp a s).cc a).comp = some (startedComp a s) := by
  rw [startComp_eq, State.modCc_cc_self]

theorem startComp_samples (a : Axis) (s : State) (w : Fin 2) :
    ((startComp a s).cc a).w[w].sample = none ∧ ((startComp a s).cc a).w[w].vs = 0 := by
  rw [startComp_eq, State.modCc_cc_self]
  simp only [Fin.getElem_fin, Vector.getElem_map, and_self]

theorem startComp_refs (a : Axis) (s : State) :
    (startComp a s).get (F.AX_IREF.IREF_W1 a) = toBits 16 (startRefs s a).1
      ∧ (startComp a s).get (F.AX_IREF.IREF_W2 a) = toBits 16 (startRefs s a).2 := by
  rw [startComp_get a s (by dsimp; omega), startComp_get a s (by dsimp; omega)]
  refine ⟨?_, setS_get_same _ _ _ (by simp) (by simp)⟩
  unfold State.setS
  rw [State.get_set_other _ _ _ _ (by simp)]
  exact setS_get_same _ _ _ (by simp) (by simp)

/-- Under PI a computation that starts writes its references alone. -/
theorem startComp_keepsFields {a : Axis} {s : State} (h : s.get (F.AX_CC_CFG.MODE a) = 0) :
    KeepsFields [F.AX_IREF.all a] s (startComp a s) := by
  intro g hg
  rw [List.forall_mem_singleton] at hg
  rw [startComp_eq, State.modCc_get, if_neg (by omega)]
  unfold State.setS
  rw [State.get_set_other _ _ _ _ (Fld.apart_of_all (f := F.AX_IREF.IREF_W2 a) hg (by simp)),
    State.get_set_other _ _ _ _ (Fld.apart_of_all (f := F.AX_IREF.IREF_W1 a) hg (by simp))]

/-- The sample instant in hand is noted (R38). -/
def sampleNoted (a : Axis) (s : State) : State :=
  (s.modPwm a fun p => { p with sampleDue := false }).modCc a fun c => { c with compDue := true }

theorem sampleInstant_due {a : Axis} {s : State} (hon : s.axOn a = true) (hd : (s.pwm a).sampleDue = true) :
    sampleInstant a s = if ((sampleNoted a s).cc a).comp.isSome then
        (sampleNoted a s).modCc a fun c => { c with comp := c.comp.map fun x => { x with passed := true } }
      else startComp a (sampleNoted a s) := by
  rw [sampleInstant, if_neg (by simp [hon, hd])]
  rfl

theorem sampleNoted_cc (a : Axis) (s : State) : (sampleNoted a s).cc a = { s.cc a with compDue := true } := by
  simp [sampleNoted]

theorem sampleNoted_pwm (a : Axis) (s : State) : (sampleNoted a s).pwm a = { s.pwm a with sampleDue := false } := by
  simp [sampleNoted]

theorem sampleNoted_mot (a : Axis) (s : State) : (sampleNoted a s).mot a = s.mot a := by simp [sampleNoted]

theorem sampleNoted_refs (a : Axis) (s : State) : startRefs (sampleNoted a s) a = startRefs s a := by
  unfold startRefs
  rw [sampleNoted_mot]
  rfl

theorem sampleNoted_boundary (a : Axis) (s : State) : lastBoundary (sampleNoted a s) a = lastBoundary s a := by
  unfold lastBoundary
  rw [sampleNoted_pwm]
  rfl

theorem sampleNoted_others (a : Axis) (s : State) {b : Axis} (h : b ≠ a) : (sampleNoted a s).ax b = s.ax b := by
  unfold sampleNoted State.modCc State.modPwm
  rw [State.modAx_ax_ne _ _ _ _ h, State.modAx_ax_ne _ _ _ _ h]

/-- A due sample instant starts a computation (R38, R147, R156). -/
theorem sampleInstant_starts {a : Axis} {s : State} (hq : s.whReq = []) (hon : s.axOn a = true) (hd : (s.pwm a).sampleDue = true)
    (hc : (s.cc a).comp = none) : Completes (.sampleInstant a) s fun t =>
      OnlyAxes [a] s t ∧ t.now = s.now ∧ KeepsBlocks [a] [] s t
        ∧ (s.get (F.AX_CC_CFG.MODE a) = 0 → KeepsFields [F.AX_IREF.all a] s t)
        ∧ (t.cc a).compDue = true ∧ t.get (F.AX_IREF.IREF_W1 a) = toBits 16 (startRefs s a).1
        ∧ t.get (F.AX_IREF.IREF_W2 a) = toBits 16 (startRefs s a).2
        ∧ (t.pwm a).sampleDue = false ∧ t.mot a = s.mot a ∧ (∀ w : Fin 2, (t.cc a).w[w].sample = none ∧ (t.cc a).w[w].vs = 0)
        ∧ ∃ c, (t.cc a).comp = some c ∧ c.late = false ∧ c.passed = false ∧ c.t0 = lastBoundary s a ∧ c.pos = (s.mot a).pos
            ∧ c.vel = (s.mot a).vel ∧ c.iref1 = (startRefs s a).1 ∧ c.iref2 = (startRefs s a).2 := by
  set v := sampleNoted a (begun s) with hv
  have hx : sampleInstant a (begun s) = startComp a v := by
    rw [sampleInstant_due (s := begun s) hon hd, if_neg]
    rw [sampleNoted_cc]
    exact Option.not_isSome_iff_eq_none.mpr hc
  have hw : Within sampleScope [a] v (sampleInstant a (begun s)) := hx ▸ startComp_within List.mem_cons_self (.refl _ _ _)
  have hown := hw.own a
  have hmot := congrArg AxisSt.mot hown
  have hdue := congrArg (fun x : AxisSt => x.pwm.sampleDue) hown
  have hcd := congrArg (fun x : AxisSt => x.cc.compDue) hown
  have hrefs : startRefs v a = startRefs s a := sampleNoted_refs a _
  refine completes_of (f := sampleInstant a) rfl ?_ ⟨hw.onlyAxes ?_ rfl ?_, ?_, ?_, fun hm => ?_, ?_, ?_, ?_, ?_, ?_, fun w => ?_, ?_⟩
  · exact (hw.whReq besideRecords_of_besideEngines).trans hq
  · exact besideRecords_of_besideEngines
  · exact fun b hb => sampleNoted_others a _ (by simpa using hb)
  · rw [settle_now]; exact hw.now besideRecords_of_besideEngines
  · exact (hw.keepsBlocks fun _ _ e => e).settled
  · exact (hx ▸ startComp_keepsFields hm : KeepsFields _ v _).settled
  · rw [settle_cc]; exact hcd.trans (congrArg CcSt.compDue (sampleNoted_cc a _))
  · rw [settle_get, hx, (startComp_refs a v).1, hrefs]
  · rw [settle_get, hx, (startComp_refs a v).2, hrefs]
  · rw [settle_pwm]; exact hdue.trans (congrArg PwmSt.sampleDue (sampleNoted_pwm a _))
  · rw [settle_mot]; exact hmot.trans (sampleNoted_mot a _)
  · rw [settle_cc, hx]; exact startComp_samples a v w
  · refine ⟨startedComp a v, ?_, rfl, rfl, sampleNoted_boundary a _, ?_, ?_, ?_, ?_⟩
    · rw [settle_cc, hx]; exact startComp_comp a v
    · exact congrArg MotionSt.pos (sampleNoted_mot a _)
    · exact congrArg MotionSt.vel (sampleNoted_mot a _)
    · exact congrArg Prod.fst hrefs
    · exact congrArg Prod.snd hrefs

end Sys2Proof.Machine

namespace Sys2Proof.Machine

/-! ### Changes of one engine in turn -/

theorem State.modAx_modAx (s : State) (a : Axis) (f g : AxisSt → AxisSt) : (s.modAx a f).modAx a g = s.modAx a fun x => g (f x) := by
  simp [State.modAx]

theorem State.modCc_modCc (s : State) (a : Axis) (f g : CcSt → CcSt) : (s.modCc a f).modCc a g = s.modCc a fun x => g (f x) :=
  State.modAx_modAx _ _ _ _

theorem State.modLa_modLa (s : State) (a : Axis) (f g : LaSt → LaSt) : (s.modLa a f).modLa a g = s.modLa a fun x => g (f x) :=
  State.modAx_modAx _ _ _ _

theorem State.modCc_congr {s : State} {a : Axis} {f g : CcSt → CcSt} (h : f (s.cc a) = g (s.cc a)) : s.modCc a f = s.modCc a g := by
  have h' : f (s.axes[a]).cc = g (s.axes[a]).cc := h
  simp only [State.modCc, State.modAx, h']

theorem State.set_modLa (s : State) (f : Fld) (v : Nat) (a : Axis) (g : LaSt → LaSt) :
    (s.set f v).modLa a g = (s.modLa a g).set f v := rfl

/-- A sample instant at which a computation still runs leaves it running (R39). -/
theorem sampleInstant_passes {a : Axis} {s : State} (hq : s.whReq = []) {c : Comp} (hon : s.axOn a = true)
    (hd : (s.pwm a).sampleDue = true) (hc : (s.cc a).comp = some c) : Does (.sampleInstant a) s
      ((s.modPwm a fun p => { p with sampleDue := false }).modCc a fun q =>
        { q with compDue := true, comp := some { c with passed := true } }) [] [] := by
  refine does_nothing rfl hq rfl ((sampleInstant_due (s := begun s) hon hd).trans ?_)
  have hn : ((sampleNoted a (begun s)).cc a).comp = some c := by rw [sampleNoted_cc]; exact hc
  rw [hn]
  refine (if_pos rfl).trans ?_
  unfold sampleNoted
  rw [State.modCc_modCc]
  refine State.modCc_congr (g := fun q => { q with compDue := true, comp := some { c with passed := true } }) ?_
  dsimp only
  rw [State.modPwm_cc, show ((begun s).cc a).comp = some c from hc]
  rfl

/-- A boost that times out fails (R182). -/
theorem boostTimeout_fails {a : Axis} {s : State} (hq : s.whReq = []) {e : Nat} (h : (s.la a).boostEnd = some e) :
    Does (.boostTimeout a) s ((s.at_ e).modLa a fun l => { l with boostEnd := none, recFrom := none, fallDue := true })
      [(F.AX_LA_STAT.BOOST_ACT a, 0), (F.AX_LA_STAT.BOOST_FAILED a, 1)] [] := by
  refine does_of _ rfl hq rfl ?_ (by simp [Fld.holds]) (by simp [Fld.apart])
  unfold boostTimeout
  rw [show ((begun s).la a).boostEnd = some e from h]
  dsimp only [failBoost, endBoost, State.raise]
  rw [State.set_modLa, State.set_modLa, State.set_modLa, State.modLa_modLa]
  rfl

end Sys2Proof.Machine

namespace Sys2Proof.Machine

/-! ### A computation that ends -/

/-- The scope of the observer (R169 to R186). -/
def observeScope : Scope where
  side := besideEngines
  keep x := { x with cc := { x.cc with w := CcSt.reset.w }, la := LaSt.reset }
  fields a f := 0x100400 + a.val * 0x1000 ≤ f.addr ∧ f.addr < 0x100500 + a.val * 0x1000
  side_engine _ _ _ := rfl

/-- The scope of the controller and the observer (R154). -/
def controlScope : Scope where
  side := besideEngines
  keep x := { x with
    cc := { x.cc with w := CcSt.reset.w, first := false }
    la := LaSt.reset
    pwm := { x.pwm with carry := PwmSt.reset.carry, staged := none } }
  fields a f := engineBlock a f.addr
  side_engine _ _ _ := rfl

theorem observeScope_le_controlScope : observeScope.le controlScope where
  side _ _ h := h
  keep _ _ h := congrArg (fun x : AxisSt => { x with
    cc := { x.cc with first := false }
    pwm := { x.pwm with carry := PwmSt.reset.carry, staged := none } }) h
  fields a f h := Or.inl ⟨by have := h.1; omega, by have := h.2; omega⟩

section
variable {S : Scope} {l : List Axis} {a : Axis} {r s : State} (hS : observeScope.le S) (ha : a ∈ l)
include hS ha

/-- A change of the load-angle unit. -/
theorem Within.judges {f : LaSt → LaSt} (h : Within S l r s) : Within S l r (s.modLa a f) :=
  h.modLa ha fun _ => hS.keep _ _ rfl

theorem Within.setObserved {f : Fld} (v : Nat) (h : Within S l r s)
    (hf : 0x100400 + a.val * 0x1000 ≤ f.addr ∧ f.addr < 0x100500 + a.val * 0x1000 := by dsimp; omega) : Within S l r (s.set f v) :=
  h.set v ha (hS.fields a f hf)

theorem declareStall_within (p : Nat) (collapse : Bool) (h : Within S l r s) : Within S l r (declareStall a p collapse s) :=
  .ite h (h.judges hS ha)

theorem angleStall_within (c : Comp) (valid : Bool) (delta : Int) (h : Within S l r s) :
    Within S l r (angleStall a c valid delta s) :=
  .ite (h.judges hS ha) (.ite (declareStall_within hS ha _ _ (h.judges hS ha)) (h.judges hS ha))

theorem collapseStall_within (c : Comp) (valid : Bool) (mag : Nat) (h : Within S l r s) :
    Within S l r (collapseStall a c valid mag s) :=
  .ite (h.judges hS ha) (.ite (declareStall_within hS ha _ _ (h.judges hS ha)) (h.judges hS ha))

theorem endBoost_within (h : Within S l r s) : Within S l r (endBoost a s) := by
  unfold endBoost
  exact (h.setObserved hS ha _).judges hS ha

theorem failBoost_within (h : Within S l r s) : Within S l r (failBoost a s) := by
  unfold failBoost State.raise
  exact ((endBoost_within hS ha h).setObserved hS ha _).judges hS ha

theorem boostStep_within (c : Comp) (valid : Bool) (delta : Int) (h : Within S l r s) :
    Within S l r (boostStep a c valid delta s) := by
  unfold boostStep State.raise State.inc State.count
  refine .ite h (.ite (failBoost_within hS ha h) (.ite (.ite ?_ (h.judges hS ha)) (h.judges hS ha)))
  exact ((endBoost_within hS ha h).setObserved hS ha _).setObserved hS ha _

theorem ecoStep_within (valid : Bool) (delta : Int) (tc : Nat) (h : Within S l r s) :
    Within S l r (ecoStep a valid delta tc s) := by
  unfold ecoStep
  exact .ite h ((h.judges hS ha).setObserved hS ha _)

theorem observe_within (c : Comp) (i1 i2 : Rat) (h : Within S l r s) : Within S l r (observe a c i1 i2 s) := by
  unfold observe State.setS State.setB
  refine ecoStep_within hS ha _ _ _ (boostStep_within hS ha _ _ _ (collapseStall_within hS ha _ _ _ (angleStall_within hS ha _ _ _
    (.setObserved hS ha _ (.ite (.setObserved hS ha _ ?_) (.setObserved hS ha _ ?_))))))
  all_goals exact (((Within.modCc h ha fun _ => hS.keep _ _ rfl).judges hS ha |>.setObserved hS ha _).setObserved hS ha _).setObserved hS ha _

end

end Sys2Proof.Machine

namespace Sys2Proof.Machine

section
variable {l : List Axis} {a : Axis} {r s : State} (ha : a ∈ l)
include ha

theorem Within.setControl {f : Fld} (v : Nat) (h : Within controlScope l r s)
    (hf : 0x100000 + a.val * 0x1000 ≤ f.addr ∧ f.addr < 0x101000 + a.val * 0x1000 := by dsimp; omega) :
    Within controlScope l r (s.set f v) :=
  h.set v ha (Or.inl hf)

/-- A change of the carried times or of the staged edges. -/
theorem Within.stages {f : PwmSt → PwmSt} (h : Within controlScope l r s)
    (hf : ∀ p, { f p with carry := PwmSt.reset.carry, staged := none } = { p with carry := PwmSt.reset.carry, staged := none } := by
      exact fun _ => rfl) : Within controlScope l r (s.modPwm a f) :=
  h.modPwm ha fun x => by simp only [controlScope, hf]

theorem modSkip_within (w : Fin 2) (f : WindSt → WindSt) (h : Within controlScope l r s) :
    Within controlScope l r (modChop a w f s) := by
  unfold modChop
  exact h.modCc ha fun _ => rfl

/-- The run of unusable samples of one winding (R153). -/
def countSkip (a : Axis) (w : Fin 2) (s : State) : State :=
  let x := (s.cc a).w[w]
  match x.sample with
  | some _ => modChop a w (fun x => { x with skipRun := 0 }) s
  | none =>
    let s := (modChop a w (fun x => { x with skipRun := x.skipRun + 1 }) s).inc (F.AX_CC_STAT.SAMPLE_SKIP a)
    if x.skipRun + 1 = 8 then s.raise (F.AX_CC_FLAG.CC_BLIND a) else s

omit ha in
theorem countSkips_eq (a : Axis) (s : State) : countSkips a s = countSkip a 1 (countSkip a 0 s) := rfl

theorem countSkip_within (w : Fin 2) (h : Within controlScope l r s) : Within controlScope l r (countSkip a w s) := by
  unfold countSkip State.inc State.count State.raise
  dsimp only
  split
  · exact modSkip_within ha w _ h
  · have h1 := modSkip_within ha w (fun x => { x with skipRun := x.skipRun + 1 }) h
    exact .ite ((h1.setControl ha _).setControl ha _) (h1.setControl ha _)

theorem countSkips_within (h : Within controlScope l r s) : Within controlScope l r (countSkips a s) :=
  countSkip_within ha _ (countSkip_within ha _ h)

theorem pulseLeg_within (k : Leg) (c m : Bool) (x : Int) (h : Within controlScope l r s) :
    Within controlScope l r (pulseLeg a k c m x s).2 := by
  unfold pulseLeg State.count
  exact ((h.stages ha).setControl ha _).setControl ha _

theorem clampLeg_within (k : Leg) (h : Within controlScope l r s) : Within controlScope l r (clampLeg a k s).2 := by
  unfold clampLeg
  dsimp only
  exact h.stages ha

theorem windingEdges_within (w : Fin 2) (lc m : Bool) (u : Rat) (h : Within controlScope l r s) :
    Within controlScope l r (windingEdges a w lc m u s).2.2 := by
  unfold windingEdges
  dsimp only
  split
  · split
    · exact clampLeg_within ha _ (pulseLeg_within ha _ _ _ _ h)
    · exact clampLeg_within ha _ (pulseLeg_within ha _ _ _ _ h)
  · exact pulseLeg_within ha _ _ _ _ (pulseLeg_within ha _ _ _ _ h)

theorem idleCompute_within (c : Comp) (h : Within controlScope l r s) : Within controlScope l r (idleCompute a c s) := by
  have h1 := (h.setControl ha (f := F.AX_VCMD.VCMD_W1 a) 0).setControl ha (f := F.AX_VCMD.VCMD_W2 a) 0
  unfold idleCompute
  exact .ite h1 (h1.stages ha)

theorem chopCompute_within (c : Comp) (h : Within controlScope l r s) : Within controlScope l r (chopCompute a c s) := by
  unfold chopCompute State.setS
  exact ((h.modCc ha fun _ => rfl).setControl ha _).setControl ha _

end

/-- The voltages of a computation under PI and the modulation of its windings (R154, R158). -/
structure PiOut where
  u1 : Rat
  u2 : Rat
  lc1 : Bool
  lc2 : Bool
  x1 : WindSt
  x2 : WindSt
  nsat : Nat

/-- What a computation under PI writes beside its edges. -/
def piWrites (a : Axis) (o : PiOut) (s : State) : State :=
  let s := s.modCc a fun cc => { cc with first := false, w := (cc.w.set 0 o.x1).set 1 o.x2 }
  let s := if o.nsat = 0 then s else (s.count (F.AX_CC_STAT.SAT a) o.nsat).raise (F.AX_CC_FLAG.CC_SAT a)
  (s.setS (F.AX_VCMD.VCMD_W1 a) (cV o.u1)).setS (F.AX_VCMD.VCMD_W2 a) (cV o.u2)

/-- The edges that a computation under PI stages (R157). -/
def piStages (a : Axis) (mid : Bool) (o : PiOut) (s : State) : State :=
  let s := (s.setB (F.AX_CC_FLAG.MOD_LC_W1 a) o.lc1).setB (F.AX_CC_FLAG.MOD_LC_W2 a) o.lc2
  let e1 := windingEdges a 0 o.lc1 mid o.u1 s
  let e2 := windingEdges a 1 o.lc2 mid o.u2 e1.2.2
  let st : Vector LegEdge 4 := #v[e1.1, e1.2.1, e2.1, e2.2.1]
  e2.2.2.modPwm a fun p => { p with staged := some st }

/-- The controller of both windings of an axis (R154, R155, R158, R189). -/
def piOut (a : Axis) (c : Comp) (s : State) : PiOut :=
  let tc := tcOf s a c.mid
  let lim := uLim s a c.cfg
  let probing := (s.ax a).probe.isSome
  let w1 := (s.cc a).w[0]
  let w2 := (s.cc a).w[1]
  let r1 := piStep c.cfg c.gain c.motor c.shunt (secs tc) lim c.iref1 w1
  let r2 := piStep c.cfg c.gain c.motor c.shunt (secs tc) lim c.iref2 w2
  let rW : Rat := (getBits c.motor 15 0 : Nat) / 1000
  let pv (w : Fin 2) (i : Int) : Rat := max (-lim) (min lim (rW * ampsOf c.cfg c.shunt i + probeAdd s a w s.now))
  let u1 := if probing then pv 0 c.iref1 else r1.1.uPrev
  let u2 := if probing then pv 1 c.iref2 else r2.1.uPrev
  { u1 := u1
    u2 := u2
    lc1 := lowClamp s a c.cfg (!(s.cc a).first && s.flag (F.AX_CC_FLAG.MOD_LC_W1 a)) u1
    lc2 := lowClamp s a c.cfg (!(s.cc a).first && s.flag (F.AX_CC_FLAG.MOD_LC_W2 a)) u2
    x1 := if probing then { w1 with uPrev := u1, iPrev := r1.2.1 } else r1.1
    x2 := if probing then { w2 with uPrev := u2, iPrev := r2.2.1 } else r2.1
    nsat := if probing then 0 else bitOf r1.2.2 + bitOf r2.2.2 }

theorem piCompute_eq (a : Axis) (c : Comp) (s : State) : piCompute a c s =
    if c.late then piWrites a (piOut a c s) s else piStages a c.mid (piOut a c s) (piWrites a (piOut a c s) s) := rfl

section
variable {l : List Axis} {a : Axis} {r s : State} (ha : a ∈ l)
include ha

theorem piWrites_within (o : PiOut) (h : Within controlScope l r s) : Within controlScope l r (piWrites a o s) := by
  unfold piWrites State.setS State.count State.raise
  refine .setControl ha _ (.setControl ha _ (.ite ?_ (.setControl ha _ (.setControl ha _ ?_))))
  · exact h.modCc ha fun _ => rfl
  · exact h.modCc ha fun _ => rfl

theorem piStages_within (mid : Bool) (o : PiOut) (h : Within controlScope l r s) : Within controlScope l r (piStages a mid o s) := by
  unfold piStages State.setB
  exact (windingEdges_within ha _ _ _ _ (windingEdges_within ha _ _ _ _ ((h.setControl ha _).setControl ha _))).stages ha

theorem piCompute_within (c : Comp) (h : Within controlScope l r s) : Within controlScope l r (piCompute a c s) := by
  rw [piCompute_eq]
  exact .ite (piWrites_within ha _ h) (piStages_within ha _ _ (piWrites_within ha _ h))

end

/-! What a computation stages (R39, R195). -/

theorem piWrites_pwm (a b : Axis) (o : PiOut) (s : State) : (piWrites a o s).pwm b = s.pwm b := by
  unfold piWrites State.setS State.count State.raise
  dsimp only
  split <;> simp

theorem piStages_staged (a : Axis) (mid : Bool) (o : PiOut) (s : State) : ((piStages a mid o s).pwm a).staged.isSome = true := by
  unfold piStages
  dsimp only
  rw [State.modPwm_pwm_self]
  rfl

theorem countSkip_pwm (a b : Axis) (w : Fin 2) (s : State) : (countSkip a w s).pwm b = s.pwm b := by
  unfold countSkip modChop State.inc State.count State.raise
  dsimp only
  split
  · simp
  · split <;> simp

end Sys2Proof.Machine

namespace Sys2Proof.Machine

/-- The computation in hand is taken from its axis (R39, R212). -/
def compTaken (a : Axis) (c : Comp) (s : State) : State :=
  s.modCc a fun cc => { cc with comp := none, compDue := cc.compDue && c.late }

/-- What the controller makes of a computation, by the state of the bridge and the mode it started with (R154, R164, R195). -/
def controlOf (a : Axis) (c : Comp) (s : State) : State :=
  if s.get (F.AX_STATE.ENERGISED a) = 0 then idleCompute a c s
  else if getBits c.cfg 0 0 = 1 then chopCompute a c s
  else piCompute a c (countSkips a s)

theorem computationDone_eq {a : Axis} {c : Comp} {s : State} (h : (s.cc a).comp = some c) : computationDone a s =
    observe a c (s.cc a).w[0].iPrev (s.cc a).w[1].iPrev (controlOf a c (compTaken a c s)) := by
  have hf : (¬ (compTaken a c s).flag (F.AX_STATE.ENERGISED a) = true) = ((compTaken a c s).get (F.AX_STATE.ENERGISED a) = 0) := by
    simp [State.flag]
  unfold computationDone controlOf
  rw [h]
  dsimp only
  change (if ¬ (compTaken a c s).flag (F.AX_STATE.ENERGISED a) = true then _ else _) = _
  rw [if_congr (iff_of_eq hf) rfl rfl]
  split
  · rfl
  · split <;> rfl

section
variable {a : Axis} {c : Comp} {s : State}

theorem controlOf_within {l : List Axis} {r : State} (ha : a ∈ l) (h : Within controlScope l r s) :
    Within controlScope l r (controlOf a c s) :=
  .ite (idleCompute_within ha c h) (.ite (chopCompute_within ha c h) (piCompute_within ha c (countSkips_within ha h)))

theorem observe_get (i1 i2 : Rat) {g : Fld} (hg : g.addr < 0x100400 + a.val * 0x1000) : (observe a c i1 i2 s).get g = s.get g := by
  refine (observe_within (S := observeScope) Scope.le_rfl List.mem_cons_self c i1 i2 (.refl _ [a] s)).fields g fun b hb f hf => ?_
  rw [List.mem_singleton] at hb
  subst hb
  have := hf.1
  exact Or.inl (by omega)

theorem observe_pwm (i1 i2 : Rat) : (observe a c i1 i2 s).pwm a = s.pwm a := by
  have h := (observe_within (S := observeScope) Scope.le_rfl List.mem_cons_self c i1 i2 (.refl _ [a] s)).own a
  have := congrArg AxisSt.pwm h
  exact this

/-- A late computation stages nothing (R212). -/
theorem controlOf_late (h : c.late = true) : (controlOf a c s).pwm a = s.pwm a := by
  unfold controlOf
  split
  · unfold idleCompute
    rw [h]
    simp
  · split
    · unfold chopCompute State.setS
      simp
    · rw [piCompute_eq, h, if_pos rfl, piWrites_pwm, countSkips_eq, countSkip_pwm, countSkip_pwm]

/-- The legs of an unenergised bridge (R195). -/
theorem controlOf_idle (h : s.get (F.AX_STATE.ENERGISED a) = 0) :
    (controlOf a c s).get (F.AX_VCMD.VCMD_W1 a) = 0 ∧ (controlOf a c s).get (F.AX_VCMD.VCMD_W2 a) = 0
      ∧ (c.late = false → ((controlOf a c s).pwm a).staged = some (Vector.replicate 4
          { on := 0, off := 0, st := if s.policyNow a = some 2 ∧ s.axState a ≠ 0 ∧ s.axState a ≠ 6 then 1 else 3 })) := by
  have hv : ∀ g, (controlOf a c s).get g = ((s.set (F.AX_VCMD.VCMD_W1 a) 0).set (F.AX_VCMD.VCMD_W2 a) 0).get g := fun g => by
    unfold controlOf idleCompute
    rw [if_pos h]
    dsimp only
    split
    · rfl
    · rfl
  refine ⟨?_, ?_, fun hl => ?_⟩
  · rw [hv, State.get_set_other _ _ _ _ (by simp)]
    exact State.get_set_same _ _ _ (by simp) (by simp) (by simp)
  · rw [hv]
    exact State.get_set_same _ _ _ (by simp) (by simp) (by simp)
  · unfold controlOf idleCompute
    rw [if_pos h, hl]
    dsimp only
    rw [if_neg Bool.false_ne_true, State.modPwm_pwm_self]

theorem controlOf_pi (h : s.get (F.AX_STATE.ENERGISED a) = 1) (hc : getBits c.cfg 0 0 = 0) (hl : c.late = false) :
    ((controlOf a c s).pwm a).staged.isSome = true := by
  unfold controlOf
  rw [if_neg (by omega), if_neg (by omega), piCompute_eq, hl, if_neg Bool.false_ne_true]
  exact piStages_staged _ _ _ _

end

theorem compTaken_others (a : Axis) (c : Comp) (s : State) {b : Axis} (h : b ≠ a) : (compTaken a c s).ax b = s.ax b :=
  State.modAx_ax_ne _ _ _ _ h

theorem compTaken_cc (a : Axis) (c : Comp) (s : State) :
    (compTaken a c s).cc a = { s.cc a with comp := none, compDue := (s.cc a).compDue && c.late } := State.modCc_cc_self _ _ _

/-- A computation ends (R39, R154, R195, R212). -/
theorem computationDone_ends {a : Axis} {s : State} (hq : s.whReq = []) {c : Comp} (t0 : Nat) (hc : (s.cc a).comp = some c) :
    Completes (.computationDone a t0) s fun t =>
      OnlyAxes [a] s t ∧ t.now = max s.now t0 ∧ KeepsBlocks [a] [] s t ∧ (t.cc a).comp = none ∧ t.mot a = s.mot a
        ∧ (t.cc a).compDue = ((s.cc a).compDue && c.late)
        ∧ (c.late = true → (t.pwm a).staged = (s.pwm a).staged)
        ∧ (s.get (F.AX_STATE.ENERGISED a) = 0 → t.get (F.AX_VCMD.VCMD_W1 a) = 0 ∧ t.get (F.AX_VCMD.VCMD_W2 a) = 0
          ∧ (c.late = false → (t.pwm a).staged = some (Vector.replicate 4
              { on := 0, off := 0, st := if s.policyNow a = some 2 ∧ s.axState a ≠ 0 ∧ s.axState a ≠ 6 then 1 else 3 })))
        ∧ (s.get (F.AX_STATE.ENERGISED a) = 1 → getBits c.cfg 0 0 = 0 → c.late = false → (t.pwm a).staged.isSome = true) := by
  set v := compTaken a c ((begun s).at_ t0) with hv
  have hx : computationDone a ((begun s).at_ t0) = _ := computationDone_eq (s := (begun s).at_ t0) hc
  rw [← hv] at hx
  set u := computationDone a ((begun s).at_ t0) with hu
  have hw : Within controlScope [a] v u := by
    rw [hx]
    exact observe_within observeScope_le_controlScope List.mem_cons_self _ _ _ (controlOf_within List.mem_cons_self (.refl _ _ _))
  have hcc : v.cc a = _ := compTaken_cc a c _
  have hmot : v.mot a = s.mot a := State.modCc_mot _ _ _ _
  have hpwm : v.pwm a = s.pwm a := State.modCc_pwm _ _ _ _
  have hpol : v.policyNow a = s.policyNow a := by
    unfold State.policyNow
    rw [hmot]
    rfl
  have hpu : u.pwm a = (controlOf a c v).pwm a := by rw [hx, observe_pwm]
  have hown := hw.own a
  have k1 := congrArg (fun x : AxisSt => x.cc.comp) hown
  have k2 := congrArg (fun x : AxisSt => x.cc.compDue) hown
  have k3 := congrArg AxisSt.mot hown
  have hvq : v.whReq = [] := hq
  have hvn : v.now = max s.now t0 := rfl
  have hve : v.get (F.AX_STATE.ENERGISED a) = s.get (F.AX_STATE.ENERGISED a) := rfl
  have hvs : v.axState a = s.axState a := rfl
  have hvr : besideRecords v = besideRecords { begun s with now := v.now } := rfl
  have hvk : ∀ g : Fld, v.get g = s.get g := fun _ => rfl
  have hvo : ∀ b, b ∉ [a] → v.ax b = s.ax b := fun b hb => compTaken_others a c _ (by simpa using hb)
  have htimed : timed t0 (computationDone a) (begun s) = u := rfl
  clear_value u v
  refine completes_to (f := timed t0 (computationDone a)) rfl htimed ?_
    ⟨hw.onlyAxes besideRecords_of_besideEngines hvr hvo, ?_, fun g h1 h2 => ?_, ?_, ?_, ?_, fun hl => ?_,
      fun he => ⟨?_, ?_, fun hl => ?_⟩, fun he hm hl => ?_⟩
  · exact (hw.whReq besideRecords_of_besideEngines).trans hvq
  · rw [settle_now, hw.now besideRecords_of_besideEngines, hvn]
  · exact ((hw.keepsBlocks fun _ _ e => e).settled g h1 h2).trans (hvk g)
  · rw [settle_cc]; exact k1.trans (congrArg CcSt.comp hcc)
  · rw [settle_mot]; exact k3.trans hmot
  · rw [settle_cc]; exact k2.trans (congrArg CcSt.compDue hcc)
  · rw [settle_pwm, hpu, controlOf_late hl, hpwm]
  · rw [settle_get, hx, observe_get _ _ (by dsimp; omega)]
    exact (controlOf_idle (hve.trans he)).1
  · rw [settle_get, hx, observe_get _ _ (by dsimp; omega)]
    exact (controlOf_idle (hve.trans he)).2.1
  · rw [settle_pwm, hpu, (controlOf_idle (hve.trans he)).2.2 hl, hpol, hvs]
  · rw [settle_pwm, hpu]
    exact controlOf_pi (hve.trans he) hm hl

end Sys2Proof.Machine

namespace Sys2Proof.Machine

/-! ### Edges that take effect -/

theorem putBits_mod (w : Word) (hi lo v : Nat) : putBits w hi lo (v % 2 ^ (hi + 1 - lo)) = putBits w hi lo v := by
  refine BitVec.eq_of_getLsbD_eq fun k hk => ?_
  rw [putBits_getLsbD _ _ _ _ _ hk, putBits_getLsbD _ _ _ _ _ hk]
  split
  · rw [Nat.testBit_mod_two_pow, decide_eq_true (by omega : k - lo < hi + 1 - lo), Bool.true_and]
  · rfl

/-- A field takes the low bits of a value. -/
theorem State.get_set_low (s : State) (f : Fld) (v : Nat) (h : f.hi < 32) (hl : f.lo ≤ f.hi) :
    (s.set f v).get f = v % 2 ^ (f.hi + 1 - f.lo) := by
  have : s.set f v = s.set f (v % 2 ^ (f.hi + 1 - f.lo)) := by
    unfold State.set
    rw [putBits_mod]
  rw [this]
  exact State.get_set_same _ _ _ h hl (Nat.mod_lt _ (Nat.two_pow_pos _))

theorem perOf_lt (s : State) (a : Axis) : perOf s a < 2 ^ 20 := by
  refine Nat.lt_pow_two_of_testBit _ fun i hi => ?_
  simp only [perOf, getBits_testBit, Bool.and_eq_false_iff, decide_eq_false_iff_not]
  omega

/-- The fields that hold the edges of a leg. -/
def edgeWords (a : Axis) (k : Leg) : List Fld := [F.AX_EDGE_ON.ON a k, F.AX_EDGE_OFF.OFF a k, F.AX_EDGE_ON.LSTATE a k]

theorem edgeOf_congr {s t : State} {a : Axis} {k : Leg} (h : ∀ g ∈ edgeWords a k, t.get g = s.get g) : edgeOf t a k = edgeOf s a k := by
  simp only [edgeWords, List.forall_mem_cons] at h
  obtain ⟨hon, hoff, hst, -⟩ := h
  simp only [edgeOf, hon, hoff, hst]

theorem edgeWords_addr {a : Axis} {k : Leg} {g : Fld} (h : g ∈ edgeWords a k) : 0x100530 + a.val * 0x1000 ≤ g.addr := by
  simp only [edgeWords, List.mem_cons, List.not_mem_nil, or_false] at h
  rcases h with rfl | rfl | rfl <;> dsimp only <;> omega

theorem edgeOf_setEdge (a : Axis) (k : Leg) (e : LegEdge) (s : State) :
    edgeOf (setEdge a k e s) a k = { on := e.on % 2 ^ 20, off := e.off % 2 ^ 20, st := e.st % 4 } := by
  unfold edgeOf setEdge
  simp only [LegEdge.mk.injEq]
  refine ⟨?_, ?_, State.get_set_low _ _ _ (by simp) (by simp)⟩
  · rw [State.get_set_other _ _ _ _ (by simp), State.get_set_other _ _ _ _ (by simp)]
    exact State.get_set_low _ _ _ (by simp) (by simp)
  · rw [State.get_set_other _ _ _ _ (by simp)]
    exact State.get_set_low _ _ _ (by simp) (by simp)

/-- No edge in force lies beyond the period (R202). -/
theorem edgeOf_takeEdge (a : Axis) (k : Leg) (e : LegEdge) (s : State) :
    edgeOf (takeEdge a k e s) a k = { on := min e.on (perOf s a), off := min e.off (perOf s a), st := e.st % 4 } := by
  have hp := perOf_lt s a
  have hraise : ∀ t : State, edgeOf (t.raise (F.AX_PWM_STAT.CLAMP a)) a k = edgeOf t a k := fun t =>
    edgeOf_congr fun g hg => State.get_set_own _ _ (by have := edgeWords_addr hg; dsimp; omega)
  unfold takeEdge
  dsimp only
  split
  case isTrue =>
    rw [hraise, edgeOf_setEdge]
    dsimp only
    rw [Nat.mod_eq_of_lt (by omega), Nat.mod_eq_of_lt (by omega)]
  case isFalse h =>
    obtain ⟨h1, h2⟩ := not_or.mp h
    rw [edgeOf_setEdge, Nat.mod_eq_of_lt (by omega), Nat.mod_eq_of_lt (by omega), Nat.min_eq_left (by omega),
      Nat.min_eq_left (by omega)]

/-- The scope of edges that take effect (R202, R231). -/
def edgeScope : Scope where
  side := besideEngines
  keep x := { x with pwm := { x.pwm with refresh := [] } }
  fields a f := edgeField a f
  side_engine _ _ _ := rfl

theorem edgeScope_le_chopScope : edgeScope.le chopScope where
  side _ _ h := h
  keep _ _ h := congrArg (fun x : AxisSt => { x with
    pwm := { x.pwm with legs := PwmSt.reset.legs }
    gd := GateSt.reset
    cc := { x.cc with w := CcSt.reset.w } }) h
  fields _ _ h := Or.inr h

theorem edgeField_of_mem {a : Axis} {k : Leg} {f : Fld} (h : f ∈ edgeFields a k) : edgeField a f := ⟨k, h⟩

theorem takeEdge_edges {l : List Axis} {a : Axis} {r s : State} (ha : a ∈ l) (k : Leg) (e : LegEdge) (h : Within edgeScope l r s) :
    Within edgeScope l r (takeEdge a k e s) :=
  takeEdge_within (fun _ hf => edgeField_of_mem hf) ha e h

theorem endRefresh_within {l : List Axis} {a : Axis} {r s : State} (ha : a ∈ l) (h : Within edgeScope l r s) :
    Within edgeScope l r (endRefresh a s) := by
  unfold endRefresh
  exact .ite h ((h.each _ fun e _ _ ht => takeEdge_edges ha e.1 e.2 ht).modPwm ha fun _ => rfl)

/-- A field of the axis below its edges. -/
theorem Within.get_edges {S : Scope} {a : Axis} {s t : State} (h : Within S [a] s t) (hS : S.le chopScope) {g : Fld}
    (hg : g.addr < 0x100514 + a.val * 0x1000 ∨ 0x100560 + a.val * 0x1000 ≤ g.addr) : t.get g = s.get g := by
  refine h.fields g fun b hb f hf => ?_
  have := chopFields_addr (hS.fields b f hf)
  rw [List.mem_singleton] at hb
  subst hb
  exact Or.inl (by omega)

theorem Within.perOf {S : Scope} {a : Axis} {s t : State} (h : Within S [a] s t) (hS : S.le chopScope) :
    perOf t a = perOf s a := by
  unfold Machine.perOf
  rw [h.get_edges hS (by dsimp; omega)]

theorem Within.chopping {S : Scope} {a : Axis} {s t : State} (h : Within S [a] s t) (hS : S.le chopScope) :
    chopping t a = chopping s a := by
  unfold Machine.chopping State.flag
  rw [h.get_edges hS (by dsimp; omega), h.get_edges hS (by dsimp; omega)]

/-- Staged edges take effect on the legs (R39, R202). -/
def takeEdges (a : Axis) (e : Vector LegEdge 4) (m : List Leg) (s : State) : State := s.each m fun l s => takeEdge a l e[l] s

section
variable {l : List Axis} {a : Axis} {r s : State}

theorem takeEdges_within (ha : a ∈ l) (e : Vector LegEdge 4) (m : List Leg) (h : Within edgeScope l r s) :
    Within edgeScope l r (takeEdges a e m s) :=
  h.each _ fun _ _ _ ht => takeEdge_edges ha _ _ ht

theorem edgeFields_apart {a : Axis} {j k : Leg} (h : j ≠ k) : ∀ g ∈ edgeWords a k, ∀ f ∈ edgeFields a j, g.apart f := by
  have hn : j.val ≠ k.val := fun e => h (Fin.ext e)
  have := j.isLt
  have := k.isLt
  simp only [edgeWords, edgeFields, List.mem_cons, List.not_mem_nil, or_false]
  rintro g (rfl | rfl | rfl) f (rfl | rfl | rfl | rfl) <;> exact Or.inl (by dsimp only; omega)

/-- An edge of one leg leaves the others. -/
theorem edgeOf_takeEdge_other {j k : Leg} (h : j ≠ k) (e : LegEdge) (s : State) : edgeOf (takeEdge a j e s) a k = edgeOf s a k := by
  have hw : Within { edgeScope with fields := fun b f => f ∈ edgeFields b j } [a] s (takeEdge a j e s) :=
    takeEdge_within (fun _ hf => hf) List.mem_cons_self e (.refl _ _ _)
  exact edgeOf_congr fun g hg => hw.fields g fun b hb f hf =>
    edgeFields_apart h g hg f (by rw [List.mem_singleton] at hb; exact hb ▸ hf)

theorem edgeOf_takeEdges (e : Vector LegEdge 4) (k : Leg) (m : List Leg) : ∀ s : State,
    (k ∉ m → edgeOf (takeEdges a e m s) a k = edgeOf s a k)
    ∧ (k ∈ m → edgeOf (takeEdges a e m s) a k =
        { on := min e[k].on (perOf s a), off := min e[k].off (perOf s a), st := e[k].st % 4 }) := by
  induction m with
  | nil => exact fun s => ⟨fun _ => rfl, fun h => absurd h List.not_mem_nil⟩
  | cons j m ih =>
    intro s
    obtain ⟨hout, hin⟩ := ih (takeEdge a j e[j] s)
    have hper : perOf (takeEdge a j e[j] s) a = perOf s a :=
      (takeEdge_edges List.mem_cons_self j e[j] (.refl _ [a] s)).perOf edgeScope_le_chopScope
    refine ⟨fun h => ?_, fun h => ?_⟩
    · rw [List.mem_cons, not_or] at h
      exact (hout h.2).trans (edgeOf_takeEdge_other (Ne.symm h.1) _ _)
    · by_cases hk : k ∈ m
      · exact (hin hk).trans (by rw [hper])
      · obtain rfl : k = j := (List.mem_cons.mp h).resolve_right hk
        exact (hout hk).trans (edgeOf_takeEdge _ _ _ _)

end

end Sys2Proof.Machine

namespace Sys2Proof.Machine

/-! ### Faults that latch -/

theorem haltFields_bounds {a : Axis} {f : Fld} (h : haltFields a f) : plannerField f ∨ engineBlock a f.addr := by
  rcases h with h | h | h | h
  · exact Or.inl h
  · exact Or.inr (bridgeFields_engineBlock h)
  · exact Or.inr (stateFields_engineBlock h)
  · simp only [List.mem_cons, List.not_mem_nil, or_false] at h
    unfold engineBlock
    right
    omega

/-- The end of a motion leaves the fault and deadline fields of the axis. -/
theorem haltFields_apart {a : Axis} {f : Fld} (h : haltFields a f) :
    f.addr ≠ (F.AX_DEADLINE.all a).addr ∧ f.addr ≠ (F.AX_GD_FLT.all a).addr := by
  simp only [haltFields, bridgeFields, stateFields, List.mem_cons, List.not_mem_nil, or_false] at h
  rcases h with h | (rfl | rfl | rfl | rfl | rfl | rfl | rfl) | (rfl | rfl | rfl) | h | h | h
  · have := plannerField_low h
    dsimp only
    omega
  all_goals dsimp only at *; omega

/-- The scope of an axis fault (R239, R241): the end of the motion, the fault and its cause. -/
def faultScope : Scope where
  side := besideRecords
  keep x := haltScope.keep { x with pwm := { x.pwm with lateNow := false } }
  fields a f := haltFields a f ∨ f.addr = (F.AX_GD_FLT.all a).addr ∨ f = F.AX_DEADLINE.LATE_RUN a ∨ f = F.AX_DEADLINE.DEADLINE_FLT a
  side_engine _ _ _ := rfl

theorem haltScope_le_faultScope : haltScope.le faultScope where
  side _ _ h := h
  keep _ _ h := congrArg (fun x : AxisSt => { x with pwm := { x.pwm with lateNow := false } }) h
  fields _ _ h := Or.inl h

theorem faultScope_fields {a : Axis} {f : Fld} (h : faultScope.fields a f) : plannerField f ∨ engineBlock a f.addr := by
  rcases h with h | h | rfl | rfl
  · exact haltFields_bounds h
  all_goals right; unfold engineBlock; dsimp only at *; omega

/-- The scope of an update point (R39 to R41). -/
def pointScope : Scope where
  side := besideRecords
  keep x := { AxisSt.reset with pwm := { PwmSt.reset with updDue := x.pwm.updDue } }
  fields a f := plannerField f ∨ engineBlock a f.addr
  side_engine _ _ _ := rfl

theorem faultScope_le_pointScope : faultScope.le pointScope where
  side _ _ h := h
  keep _ _ h := congrArg (fun x : AxisSt => { AxisSt.reset with pwm := { PwmSt.reset with updDue := x.pwm.updDue } }) h
  fields _ _ h := faultScope_fields h

/-- No axis fault selects a Whistle for the axis (R448). -/
def unselected (a : Axis) (s : State) : Prop := natBit (s.get F.WH_AX_SEL.FLT) a = false

theorem Within.unselected {S : Scope} {l : List Axis} {a : Axis} {r s : State} (h : Within S l r s) (hS : S.le pointScope)
    (hu : unselected a r) : unselected a s := by
  unfold Machine.unselected at hu ⊢
  rwa [h.fields F.WH_AX_SEL.FLT fun b _ f hf => Or.inl ?_]
  rcases hS.fields b f hf with hf | hf
  · have := plannerField_low hf
    dsimp only
    omega
  · have := engineBlock_bounds hf
    dsimp only
    omega

section
variable {l : List Axis} {a : Axis} {r s : State} (ha : a ∈ l)
include ha

theorem noteFresh_within (cause : Nat) (h : Within faultScope l r s) : Within faultScope l r (noteFresh a cause s) := by
  unfold noteFresh
  exact h.modGd ha fun _ => rfl

theorem noteCause_within (cause : Nat) (h : Within faultScope l r s) : Within faultScope l r (noteCause a cause s) := by
  unfold noteCause
  exact .ite (h.set _ ha (Or.inr (Or.inl rfl))) h

/-- A fault that is not selected raises no Whistle. -/
theorem latchFault_within {f : Fld} (cause : Nat) (hf : faultScope.fields a f) (hu : Machine.unselected a r) (h : Within faultScope l r s) :
    Within faultScope l r (latchFault a f cause s) := by
  have h0 := noteFresh_within ha cause h
  have h1 := noteCause_within ha cause (h0.raise ha hf)
  unfold latchFault faultWhistle
  refine .ite h0 ?_
  rw [if_neg (by rw [h1.unselected faultScope_le_pointScope hu]; exact Bool.false_ne_true)]
  exact h1

theorem axisFault_within {f : Fld} (cause : Nat) (hf : faultScope.fields a f) (hu : Machine.unselected a r) (h : Within faultScope l r s) :
    Within faultScope l r (axisFault a f cause s) :=
  enterFault_within haltScope_le_faultScope ha (latchFault_within ha cause hf hu h)

theorem endPeriod_within (late : Bool) (hu : Machine.unselected a r) (h : Within faultScope l r s) :
    Within faultScope l r (endPeriod a late s) := by
  have h1 : Within faultScope l r (s.modPwm a fun p => { p with lateNow := false }) := h.modPwm ha fun _ => rfl
  have h2 : ∀ v, Within faultScope l r ((s.modPwm a fun p => { p with lateNow := false }).set (F.AX_DEADLINE.LATE_RUN a) v) :=
    fun v => h1.set v ha (Or.inr (Or.inr (Or.inl rfl)))
  unfold endPeriod
  exact .ite (h2 _) (.ite (axisFault_within ha _ (Or.inr (Or.inr (Or.inr rfl))) hu (h2 _)) (h2 _))

end

theorem faultWhistle_get (a : Axis) (s : State) (g : Fld) : (faultWhistle a s).get g = s.get g := by
  unfold faultWhistle
  split
  · rfl
  · rfl

theorem noteCause_get (a : Axis) (cause : Nat) (s : State) {g : Fld} (hg : g.addr ≠ (F.AX_GD_FLT.all a).addr) :
    (noteCause a cause s).get g = s.get g := by
  unfold noteCause
  split
  · exact State.get_set_own _ _ hg
  · rfl

theorem latchFault_mot (a b : Axis) (f : Fld) (cause : Nat) (s : State) : (latchFault a f cause s).mot b = s.mot b := by
  have hw : ∀ t : State, (faultWhistle a t).mot b = t.mot b := fun t => by
    unfold faultWhistle
    split <;> rfl
  have hn : ∀ t : State, (noteCause a cause t).mot b = t.mot b := fun t => by
    unfold noteCause
    split <;> rfl
  have hf : (noteFresh a cause s).mot b = s.mot b := State.modGd_mot _ _ _ _
  unfold latchFault
  dsimp only
  split
  · exact hf
  · exact (hw _).trans ((hn _).trans hf)

/-- A fault that occurs reads 1. -/
theorem latchFault_get_same (a : Axis) (f : Fld) (cause : Nat) (s : State) (hf : f.hi = f.lo) (hi : f.hi < 32)
    (hd : f.addr ≠ (F.AX_GD_FLT.all a).addr) : (latchFault a f cause s).get f = 1 := by
  unfold latchFault
  dsimp only
  split
  case isTrue h => exact (flag_eq_true_iff _ f (by simp [fieldMax, hf])).mp h
  case isFalse =>
    rw [faultWhistle_get, noteCause_get _ _ _ hd]
    exact State.get_set_same _ _ _ hi (by omega) (by simp [hf])

theorem latchFault_get_apart (a : Axis) {f g : Fld} (cause : Nat) (s : State) (hg : g.apart f)
    (hd : g.addr ≠ (F.AX_GD_FLT.all a).addr) : (latchFault a f cause s).get g = s.get g := by
  unfold latchFault
  dsimp only
  split
  · rfl
  · rw [faultWhistle_get, noteCause_get _ _ _ hd]
    exact State.get_set_other _ _ _ _ hg

/-- The end of a motion leaves the deadline fields. -/
theorem enterFault_get (a : Axis) (s : State) {g : Fld} (hg : g.addr = (F.AX_DEADLINE.all a).addr) :
    (enterFault a s).get g = s.get g := by
  refine (enterFault_within (S := haltScope) Scope.le_rfl List.mem_cons_self (.refl _ [a] s)).fields g fun b hb f hf => ?_
  rw [List.mem_singleton] at hb
  subst hb
  exact Or.inl fun e => (haltFields_apart hf).1 (e ▸ hg)

/-! ### The end of a period -/

theorem endPeriod_inTime (a : Axis) (s : State) : endPeriod a false s =
    (s.modPwm a fun p => { p with lateNow := false }).set (F.AX_DEADLINE.LATE_RUN a) 0 := by
  unfold endPeriod
  exact if_pos Bool.false_ne_true

/-- A late period in the count of those in a row (R41). -/
def lateRun (a : Axis) (s : State) : State :=
  (s.modPwm a fun p => { p with lateNow := false }).set (F.AX_DEADLINE.LATE_RUN a) (min 3 (s.get (F.AX_DEADLINE.LATE_RUN a) + 1))

theorem endPeriod_late (a : Axis) (s : State) : endPeriod a true s =
    if min 3 (s.get (F.AX_DEADLINE.LATE_RUN a) + 1) = 3 then axisFault a (F.AX_DEADLINE.DEADLINE_FLT a) 11 (lateRun a s)
    else lateRun a s := by
  unfold endPeriod
  exact if_neg (by simp)

theorem lateRun_get (a : Axis) (s : State) :
    (lateRun a s).get (F.AX_DEADLINE.LATE_RUN a) = min 3 (s.get (F.AX_DEADLINE.LATE_RUN a) + 1) :=
  State.get_set_same _ _ _ (by simp) (by simp) (by dsimp; omega)

theorem endPeriod_run (a : Axis) (s : State) :
    (endPeriod a true s).get (F.AX_DEADLINE.LATE_RUN a) = min 3 (s.get (F.AX_DEADLINE.LATE_RUN a) + 1) := by
  rw [endPeriod_late]
  split
  · rw [axisFault, enterFault_get a _ (by rfl), latchFault_get_apart a _ _ (by simp [Fld.apart]) (by dsimp; omega), lateRun_get]
  · exact lateRun_get a s

/-- The third late period in a row is a deadline fault (R41). -/
theorem endPeriod_fault {a : Axis} {s : State} (h : 2 ≤ s.get (F.AX_DEADLINE.LATE_RUN a)) :
    endPeriod a true s = axisFault a (F.AX_DEADLINE.DEADLINE_FLT a) 11 (lateRun a s) := by
  rw [endPeriod_late, if_pos (by omega)]

theorem deadlineFault_get (a : Axis) (s : State) :
    (axisFault a (F.AX_DEADLINE.DEADLINE_FLT a) 11 s).get (F.AX_DEADLINE.DEADLINE_FLT a) = 1 := by
  rw [axisFault, enterFault_get a _ (by rfl)]
  exact latchFault_get_same a _ _ _ rfl (by simp) (by dsimp; omega)

/-- What shows an axis in FAULT. -/
theorem InFault.of_kept {a : Axis} {r s t u : State} (h : InFault a s t) (hm : u.mot a = t.mot a) (hg : ∀ g : Fld, u.get g = t.get g)
    (hp : (s.mot a).pos = (r.mot a).pos) : InFault a r u := by
  obtain ⟨h1, h2, h3, h4, h5, h6⟩ := h
  unfold State.axState at h1
  unfold fstate at h6
  refine ⟨?_, ?_, ?_, ?_, ?_, ?_⟩
  · exact (hg _).trans h1
  · exact (hg _).trans h2
  · rw [hm]; exact h3
  · rw [hm]; exact h4
  · rw [hm, h5]; exact hp
  · exact (hg _).trans h6

end Sys2Proof.Machine

namespace Sys2Proof.Machine

/-! ### An update point -/

/-- An update point that is due is taken from its axis; a fresh calibration takes effect with it (R32, R39). -/
def pointOpened (a : Axis) (s : State) : State := calSwap (legChans a) (s.modPwm a fun p => { p with updDue := false })

/-- Edges that a refresh pulse replaced return at a period (R231). -/
def pointRefreshed (a : Axis) (per : Bool) (s : State) : State := if per then endRefresh a s else s

/-- The edges that were ready take effect (R39). -/
def pointStaged (a : Axis) (s : State) : State :=
  match (s.pwm a).staged with
  | some e => (if chopping s a then s else takeEdges a e allLegs s).modPwm a fun p => { p with staged := none }
  | none => s

/-- A late update point counts; its computation is late (R40). -/
def pointLate (a : Axis) (s : State) : State :=
  ((s.inc (F.AX_DEADLINE.LATE a)).modCc a fun c =>
    { c with compDue := false, comp := c.comp.map fun x => { x with late := true } }).modPwm a fun p => { p with lateNow := true }

/-- The end of the period that an update point closes (R40, R41). -/
def pointClosed (a : Axis) (per : Bool) (s : State) : State :=
  noteGates a (if per then endPeriod a (s.pwm a).lateNow s else s)

/-- What an update point brings before its legs follow. -/
def pointTaken (a : Axis) (s : State) : State :=
  let v := pointRefreshed a (atPeriod s a) (pointOpened a s)
  if (v.cc a).compDue then pointLate a (pointStaged a v) else pointStaged a v

/-- The instant in the period at which the legs of an update point follow. -/
def pointPhase (a : Axis) (s : State) : Nat := if atPeriod s a then 0 else perOf (pointTaken a s) a / 2

theorem updatePoint_due {a : Axis} {s : State} (hon : s.axOn a = true) (hd : (s.pwm a).updDue = true) :
    updatePoint a s = pointClosed a (atPeriod s a) (levelLegs a (pointPhase a s) (lastBoundary s a) (pointTaken a s)) := by
  have htwo : ∀ (c : Bool) (w : State), (if c then ((if c then
        (w.inc (F.AX_DEADLINE.LATE a)).modCc a fun c => { c with compDue := false, comp := c.comp.map fun x => { x with late := true } }
      else w).modPwm a fun p => { p with lateNow := true }) else
        (if c then (w.inc (F.AX_DEADLINE.LATE a)).modCc a fun c =>
          { c with compDue := false, comp := c.comp.map fun x => { x with late := true } } else w))
      = if c then pointLate a w else w := fun c w => by cases c <;> rfl
  rw [updatePoint, if_neg (by simp [hon, hd])]
  unfold pointPhase pointTaken
  dsimp only
  rw [← htwo]
  rfl

theorem pointOpened_ax (a b : Axis) (s : State) :
    (pointOpened a s).ax b = (s.modPwm a fun p => { p with updDue := false }).ax b := rfl

theorem pointOpened_ax_ne (a : Axis) (s : State) {b : Axis} (h : b ≠ a) : (pointOpened a s).ax b = s.ax b :=
  (pointOpened_ax a b s).trans (State.modAx_ax_ne _ _ _ _ h)

theorem pointOpened_ax_self (a : Axis) (s : State) :
    (pointOpened a s).ax a = { s.ax a with pwm := { s.pwm a with updDue := false } } :=
  (pointOpened_ax a a s).trans (State.modAx_ax_self _ _ _)

theorem pointOpened_pwm (a : Axis) (s : State) : (pointOpened a s).pwm a = { s.pwm a with updDue := false } :=
  congrArg AxisSt.pwm (pointOpened_ax_self a s)

theorem pointOpened_cc (a : Axis) (s : State) : (pointOpened a s).cc a = s.cc a := by
  have := congrArg AxisSt.cc (pointOpened_ax_self a s)
  exact this

theorem pointOpened_mot (a : Axis) (s : State) : (pointOpened a s).mot a = s.mot a := by
  have := congrArg AxisSt.mot (pointOpened_ax_self a s)
  exact this

theorem pointRefreshed_within {l : List Axis} {a : Axis} {r s : State} (ha : a ∈ l) (per : Bool) (h : Within edgeScope l r s) :
    Within edgeScope l r (pointRefreshed a per s) := .ite (endRefresh_within ha h) h

theorem chopScope_le_pointScope : chopScope.le pointScope where
  side _ _ h := besideRecords_of_besideEngines _ _ h
  keep _ _ h := congrArg (fun x : AxisSt => { AxisSt.reset with pwm := { PwmSt.reset with updDue := x.pwm.updDue } }) h
  fields a f h := by
    have := chopFields_addr h
    exact Or.inr (Or.inl ⟨by omega, by omega⟩)

theorem gateScope_le_faultScope : gateScope.le faultScope :=
  gateScope_le_bridgeScope.trans (bridgeScope_le_refreshScope.trans (refreshScope_le_standScope.trans
    (standScope_le_haltScope.trans haltScope_le_faultScope)))

section
variable {l : List Axis} {a : Axis} {r s : State} (ha : a ∈ l)
include ha

theorem pointStaged_within (h : Within pointScope l r s) : Within pointScope l r (pointStaged a s) := by
  have hw : ∀ e, Within edgeScope l s (takeEdges a e allLegs s) := fun e => takeEdges_within ha e _ (.refl _ _ _)
  unfold pointStaged
  split
  · refine .modPwm (.ite h (h.trans ((hw _).widen (edgeScope_le_chopScope.trans chopScope_le_pointScope)))) ha fun _ => rfl
  · exact h

theorem pointLate_within (h : Within pointScope l r s) : Within pointScope l r (pointLate a s) := by
  unfold pointLate
  exact ((h.inc ha (Or.inr (Or.inl (by dsimp; omega)))).modCc ha fun _ => rfl).modPwm ha fun _ => rfl

theorem pointTaken_within : Within pointScope l (pointOpened a s) (pointTaken a s) := by
  have h1 : Within pointScope l (pointOpened a s) (pointRefreshed a (atPeriod s a) (pointOpened a s)) :=
    (pointRefreshed_within ha _ (.refl _ _ _)).widen (edgeScope_le_chopScope.trans chopScope_le_pointScope)
  have h2 := pointStaged_within ha h1
  exact .ite (pointLate_within ha h2) h2

theorem pointClosed_within (per : Bool) (hu : unselected a r) (h : Within faultScope l r s) :
    Within faultScope l r (pointClosed a per s) :=
  noteGates_within gateScope_le_faultScope ha (.ite (endPeriod_within ha _ hu h) h)

end

/-- An axis whose latest boundary is a mid point closes no period. -/
theorem pointClosed_mid (a : Axis) (s : State) : Within gateScope [a] s (pointClosed a false s) :=
  noteGates_within Scope.le_rfl List.mem_cons_self (.refl _ _ _)

theorem pointClosed_period (a : Axis) (s : State) : Within gateScope [a] (endPeriod a (s.pwm a).lateNow s) (pointClosed a true s) :=
  noteGates_within Scope.le_rfl List.mem_cons_self (.refl _ _ _)

end Sys2Proof.Machine

namespace Sys2Proof.Machine

theorem levelScope_le_pointScope : levelScope.le pointScope := levelScope_le_chopScope.trans chopScope_le_pointScope

/-- The scope of the legs and the period after the edges of an update point. -/
def legScope : Scope where
  side := besideRecords
  keep x := { AxisSt.reset with
    pwm := { PwmSt.reset with staged := x.pwm.staged }
    cc := { CcSt.reset with compDue := x.cc.compDue, comp := x.cc.comp } }
  fields a f := levelScope.fields a f ∨ faultScope.fields a f
  side_engine _ _ _ := rfl

theorem levelScope_le_legScope : levelScope.le legScope where
  side _ _ h := besideRecords_of_besideEngines _ _ h
  keep _ _ h := congrArg (fun x : AxisSt => { AxisSt.reset with
    pwm := { PwmSt.reset with staged := x.pwm.staged }
    cc := { CcSt.reset with compDue := x.cc.compDue, comp := x.cc.comp } }) h
  fields _ _ h := Or.inl h

theorem faultScope_le_legScope : faultScope.le legScope where
  side _ _ h := h
  keep _ _ h := congrArg (fun x : AxisSt => { AxisSt.reset with
    pwm := { PwmSt.reset with staged := x.pwm.staged }
    cc := { CcSt.reset with compDue := x.cc.compDue, comp := x.cc.comp } }) h
  fields _ _ h := Or.inr h

section
variable {a : Axis} {s : State}

/-- The legs and the period after the edges of an update point. -/
theorem updatePoint_legs (hu : unselected a (pointTaken a s)) (per : Bool) (x t : Nat) :
    Within legScope [a] (pointTaken a s) (pointClosed a per (levelLegs a x t (pointTaken a s))) := by
  have h1 : Within levelScope [a] (pointTaken a s) (levelLegs a x t (pointTaken a s)) :=
    levelLegs_within Scope.le_rfl List.mem_cons_self _ _ (.refl _ _ _)
  have h2 := pointClosed_within List.mem_cons_self per (h1.unselected levelScope_le_pointScope hu) (.refl _ [a] _)
  exact (h1.widen levelScope_le_legScope).trans (h2.widen faultScope_le_legScope)

theorem updatePoint_within (hon : s.axOn a = true) (hd : (s.pwm a).updDue = true) (hu : unselected a s) :
    Within pointScope [a] (pointOpened a s) (updatePoint a s) := by
  have h0 : Within pointScope [a] (pointOpened a s) (pointTaken a s) := pointTaken_within List.mem_cons_self
  have hu' := h0.unselected Scope.le_rfl hu
  have h1 := levelLegs_within levelScope_le_pointScope List.mem_cons_self (pointPhase a s) (lastBoundary s a) h0
  rw [updatePoint_due hon hd]
  exact h1.trans ((pointClosed_within List.mem_cons_self _ (h1.unselected Scope.le_rfl hu) (.refl _ _ _)).widen faultScope_le_pointScope)

/-- The refresh pulses of a period leave what an update point judges. -/
theorem pointRefreshed_keeps (a : Axis) (per : Bool) (s : State) :
    let v := pointRefreshed a per (pointOpened a s)
    (v.cc a) = s.cc a ∧ v.mot a = s.mot a ∧ (v.pwm a).staged = (s.pwm a).staged ∧ (v.pwm a).lateNow = (s.pwm a).lateNow := by
  have h := (pointRefreshed_within (s := pointOpened a s) List.mem_cons_self per (.refl _ [a] _)).own a
  have h1 := congrArg AxisSt.cc h
  have h2 := congrArg AxisSt.mot h
  have h3 := congrArg (fun x : AxisSt => x.pwm.staged) h
  have h4 := congrArg (fun x : AxisSt => x.pwm.lateNow) h
  have h5 := congrArg PwmSt.staged (pointOpened_pwm a s)
  have h6 := congrArg PwmSt.lateNow (pointOpened_pwm a s)
  refine ⟨?_, ?_, ?_, ?_⟩
  · exact h1.trans (pointOpened_cc a s)
  · exact h2.trans (pointOpened_mot a s)
  · exact h3.trans h5
  · exact h4.trans h6

theorem pointRefreshed_edges (a : Axis) (per : Bool) (s : State) :
    Within edgeScope [a] (pointOpened a s) (pointRefreshed a per (pointOpened a s)) :=
  pointRefreshed_within List.mem_cons_self per (.refl _ _ _)

/-! Staged edges -/

/-- The edges that take effect at an update point in time. -/
def pointEdges (a : Axis) (e : Vector LegEdge 4) (s : State) : State :=
  let v := pointRefreshed a (atPeriod s a) (pointOpened a s)
  if chopping v a then v else takeEdges a e allLegs v

theorem pointTaken_inTime {e : Vector LegEdge 4} (he : (s.pwm a).staged = some e) (hc : (s.cc a).compDue = false) :
    pointTaken a s = (pointEdges a e s).modPwm a fun p => { p with staged := none } := by
  obtain ⟨h1, -, h3, -⟩ := pointRefreshed_keeps a (atPeriod s a) s
  unfold pointTaken
  dsimp only
  rw [h1, hc, if_neg Bool.false_ne_true, pointStaged, h3, he]
  rfl

theorem pointEdges_within (e : Vector LegEdge 4) : Within edgeScope [a] (pointOpened a s) (pointEdges a e s) := by
  have h := pointRefreshed_edges a (atPeriod s a) s
  exact .ite h (takeEdges_within List.mem_cons_self _ _ h)

theorem pointEdges_edgeOf (e : Vector LegEdge 4) (h : chopping s a = false) (k : Leg) : edgeOf (pointEdges a e s) a k =
    { on := min e[k].on (perOf s a), off := min e[k].off (perOf s a), st := e[k].st % 4 } := by
  have hw := pointRefreshed_edges a (atPeriod s a) s
  have hc : chopping (pointOpened a s) a = chopping s a := rfl
  have hp : perOf (pointOpened a s) a = perOf s a := rfl
  unfold pointEdges
  dsimp only
  rw [hw.chopping edgeScope_le_chopScope, hc, h, if_neg Bool.false_ne_true,
    (edgeOf_takeEdges e k allLegs _).2 (List.mem_finRange k), hw.perOf edgeScope_le_chopScope, hp]

/-- A period in time ends its count of late ones and nothing else. -/
theorem pointClosed_inTime (per : Bool) (h : (s.pwm a).lateNow = false) :
    (∀ g : Fld, g.apart (F.AX_DEADLINE.LATE_RUN a) → (pointClosed a per s).get g = s.get g)
      ∧ (per = true → (pointClosed a per s).get (F.AX_DEADLINE.LATE_RUN a) = 0) := by
  unfold pointClosed
  rw [h, endPeriod_inTime]
  refine ⟨fun g hg => ?_, fun hp => ?_⟩
  · rw [noteGates_get]
    split
    · exact State.get_set_other _ _ _ _ hg
    · rfl
  · rw [noteGates_get, if_pos hp]
    exact State.get_set_same _ _ _ (by simp) (by simp) (by simp)

/-! Edges that were not delivered -/

theorem pointTaken_late (he : (s.pwm a).staged = none) (hc : (s.cc a).compDue = true) :
    pointTaken a s = pointLate a (pointRefreshed a (atPeriod s a) (pointOpened a s)) := by
  obtain ⟨h1, -, h3, -⟩ := pointRefreshed_keeps a (atPeriod s a) s
  unfold pointTaken
  dsimp only
  rw [h1, hc, if_pos rfl, pointStaged, h3, he]

theorem pointLate_pwm (a : Axis) (s : State) : (pointLate a s).pwm a = { s.pwm a with lateNow := true } := by
  unfold pointLate
  rw [State.modPwm_pwm_self, State.modCc_pwm]
  rfl

theorem pointLate_cc (a : Axis) (s : State) : (pointLate a s).cc a =
    { s.cc a with compDue := false, comp := (s.cc a).comp.map fun x => { x with late := true } } := by
  unfold pointLate
  rw [State.modPwm_cc, State.modCc_cc_self]
  rfl

theorem pointLate_mot (a : Axis) (s : State) : (pointLate a s).mot a = s.mot a := by
  unfold pointLate
  rw [State.modPwm_mot, State.modCc_mot]
  rfl

theorem pointLate_get (a : Axis) (s : State) (g : Fld) : (pointLate a s).get g = (s.inc (F.AX_DEADLINE.LATE a)).get g := rfl

theorem inc_get_same (s : State) (f : Fld) (hf : f.hi < 32) (hl : f.lo ≤ f.hi) : (s.inc f).get f = counted s f := by
  have := Nat.two_pow_pos (f.hi + 1 - f.lo)
  exact State.get_set_same _ _ _ hf hl (by unfold satAdd fieldMax; omega)

end

end Sys2Proof.Machine

namespace Sys2Proof.Machine

theorem plannerField_apart {g f : Fld} (hf : plannerField f) (hg : ∀ p ∈ plannerFields, g.apart p) : g.apart f := by
  obtain ⟨hi, hm⟩ := hf
  obtain ⟨p, hp, he⟩ := List.mem_map.mp hm
  refine Fld.apart_of_all ?_ hi
  have hall : p = ⟨p.addr, 31, 0⟩ := by
    simp only [plannerFields, List.mem_cons, List.not_mem_nil, or_false] at hp
    rcases hp with rfl | rfl | rfl | rfl | rfl | rfl <;> rfl
  have := hg p hp
  rwa [hall, he] at this

/-- Work that writes fields of the planner's counts and of its engines. -/
theorem Within.keepsPlanner {S : Scope} {l : List Axis} {r t : State} (h : Within S l r t)
    (hS : ∀ a f, S.fields a f → plannerField f ∨ engineBlock a f.addr) : KeepsBlocks l plannerFields r t := by
  refine fun g hg hp => h.fields g fun b hb f hf => ?_
  rcases hS b f hf with hf | hf
  · exact plannerField_apart hf hp
  · refine Or.inl fun e => ?_
    have := axisBlock_of_engineBlock hf
    rw [← e, hg b hb] at this
    exact Bool.false_ne_true this

/-- What an update point leaves of its axis and of the rest (R39). -/
def PointOut (a : Axis) (s t : State) : Prop :=
  OnlyAxes [a] { s with tb := t.tb } t ∧ KeepsBlocks [a] plannerFields s t ∧ (t.pwm a).updDue = false
    ∧ (t.pwm a).staged = none ∧ (t.cc a).compDue = false ∧ t.tb = { s.tb with cal := t.tb.cal }

theorem pointOpened_besideRecords (a : Axis) (s : State) (b : TimeSt) (hb : b = (pointOpened a (begun s)).tb) :
    besideRecords (pointOpened a (begun s)) =
      besideRecords { begun { s with tb := b } with now := (pointOpened a (begun s)).now } := by
  subst hb
  rfl

theorem settle_tb (s : State) : (settle s).tb = s.tb := by rw [(settle_eq s).1]

theorem pointOut_of {a : Axis} {s u : State} (hw : Within pointScope [a] (pointOpened a (begun s)) u) (hs : (u.pwm a).staged = none)
    (hc : (u.cc a).compDue = false) : PointOut a s (settle u) := by
  have htb : u.tb = (pointOpened a (begun s)).tb := by
    have := congrArg State.tb hw.side
    exact this
  have hown := congrArg (fun x : AxisSt => x.pwm.updDue) (hw.own a)
  have hp := congrArg PwmSt.updDue (pointOpened_pwm a (begun s))
  refine ⟨hw.onlyAxes (s := { s with tb := (settle u).tb }) (fun _ _ h => h) ?_ ?_, ?_, ?_, ?_, ?_, ?_⟩
  · exact pointOpened_besideRecords a s _ ((settle_tb u).trans htb)
  · exact fun b hb => pointOpened_ax_ne a _ (by simpa using hb)
  · exact (hw.keepsPlanner fun _ _ h => h).settled
  · rw [settle_pwm]; exact hown.trans hp
  · rw [settle_pwm]; exact hs
  · rw [settle_cc]; exact hc
  · rw [settle_tb, htb]; rfl

/-- What the legs and the period of an update point leave of its edges. -/
theorem updatePoint_kept {a : Axis} {s : State} (hon : s.axOn a = true) (hd : (s.pwm a).updDue = true) (hu : unselected a s) :
    ((updatePoint a s).pwm a).staged = ((pointTaken a s).pwm a).staged
      ∧ ((updatePoint a s).cc a).compDue = ((pointTaken a s).cc a).compDue
      ∧ ((updatePoint a s).cc a).comp = ((pointTaken a s).cc a).comp := by
  have hu' : unselected a (pointTaken a s) :=
    (pointTaken_within (a := a) (l := [a]) (s := s) List.mem_cons_self).unselected Scope.le_rfl hu
  have h := (updatePoint_legs hu' (atPeriod s a) (pointPhase a s) (lastBoundary s a)).own a
  have h1 := congrArg (fun x : AxisSt => x.pwm.staged) h
  have h2 := congrArg (fun x : AxisSt => x.cc.compDue) h
  have h3 := congrArg (fun x : AxisSt => x.cc.comp) h
  rw [updatePoint_due hon hd]
  exact ⟨h1, h2, h3⟩

/-- The legs of an update point leave fields but the count of their guards. -/
theorem levelLegs_get (a : Axis) (x t : Nat) (s : State) {g : Fld} (hg : g.addr ≠ (F.AX_PWM_GUARD.all a).addr) :
    (levelLegs a x t s).get g = s.get g := by
  refine (levelLegs_within (S := levelScope) Scope.le_rfl List.mem_cons_self x t (.refl _ [a] s)).fields g fun b hb f hf => ?_
  rw [List.mem_singleton] at hb
  subst hb
  subst hf
  exact Or.inl hg

theorem levelLegs_lateNow (a : Axis) (x t : Nat) (s : State) : ((levelLegs a x t s).pwm a).lateNow = (s.pwm a).lateNow := by
  have h := (levelLegs_within (S := levelScope) Scope.le_rfl List.mem_cons_self x t (.refl _ [a] s)).own a
  have := congrArg (fun x : AxisSt => x.pwm.lateNow) h
  exact this

theorem levelLegs_mot (a : Axis) (x t : Nat) (s : State) : (levelLegs a x t s).mot a = s.mot a := by
  have h := (levelLegs_within (S := levelScope) Scope.le_rfl List.mem_cons_self x t (.refl _ [a] s)).own a
  have := congrArg AxisSt.mot h
  exact this

/-- Edges that are ready take effect at an update point (R39, R202). -/
theorem updatePoint_inTime {a : Axis} {s : State} (hq : s.whReq = []) (hf : unselected a s) (hon : s.axOn a = true)
    (hd : (s.pwm a).updDue = true) (e : Vector LegEdge 4) (he : (s.pwm a).staged = some e) (hc : (s.cc a).compDue = false)
    (hl : (s.pwm a).lateNow = false) : Completes (.updatePoint a) s fun t => PointOut a s t
      ∧ (chopping s a = false → ∀ l : Leg,
          edgeOf t a l = { on := min e[l].on (perOf s a), off := min e[l].off (perOf s a), st := e[l].st % 4 })
      ∧ t.get (F.AX_DEADLINE.LATE a) = s.get (F.AX_DEADLINE.LATE a)
      ∧ (atPeriod s a = true → t.get (F.AX_DEADLINE.LATE_RUN a) = 0) := by
  have hw := updatePoint_within (s := begun s) hon hd hf
  have hx := updatePoint_due (s := begun s) hon hd
  have hT := pointTaken_inTime (s := begun s) he hc
  have hE := pointEdges_within (a := a) (s := begun s) e
  have hcomp : ((pointTaken a (begun s)).cc a).compDue = false := by
    have h1 := congrArg (fun x : AxisSt => x.cc.compDue) (hE.own a)
    have h2 := congrArg CcSt.compDue (pointOpened_cc a (begun s))
    rw [hT, State.modPwm_cc]
    exact h1.trans (h2.trans hc)
  have hlate : ((pointTaken a (begun s)).pwm a).lateNow = false := by
    have h1 := congrArg (fun x : AxisSt => x.pwm.lateNow) (hE.own a)
    have h2 := congrArg PwmSt.lateNow (pointOpened_pwm a (begun s))
    rw [hT, State.modPwm_pwm_self]
    exact h1.trans (h2.trans hl)
  have hstaged : ((pointTaken a (begun s)).pwm a).staged = none := by rw [hT, State.modPwm_pwm_self]
  have hget : ∀ g, (pointTaken a (begun s)).get g = (pointEdges a e (begun s)).get g := fun g => by rw [hT, State.modPwm_get]
  obtain ⟨k1, k2, -⟩ := updatePoint_kept (s := begun s) hon hd hf
  obtain ⟨c1, c2⟩ := pointClosed_inTime (a := a) (atPeriod (begun s) a) ((levelLegs_lateNow a _ _ _).trans hlate)
  rw [← hx] at c1 c2
  refine completes_of (f := updatePoint a) rfl ((congrArg State.whReq hw.side).trans hq)
    ⟨pointOut_of hw (k1.trans hstaged) (k2.trans hcomp), fun hch l => ?_, ?_, fun hp => ?_⟩
  · refine (edgeOf_congr fun g hg => ?_).trans (pointEdges_edgeOf (a := a) (s := begun s) e hch l)
    have := edgeWords_addr hg
    rw [settle_get, c1 g (Or.inl (by dsimp; omega)), levelLegs_get a _ _ _ (by dsimp; omega), hget]
  · rw [settle_get, c1 _ (by simp [Fld.apart]), levelLegs_get a _ _ _ (by dsimp; omega), hget,
      hE.get_edges edgeScope_le_chopScope (by dsimp; omega)]
    rfl
  · rw [settle_get, c2 hp]

/-- A late period keeps the count of late update points. -/
theorem endPeriod_count (a : Axis) (s : State) : (endPeriod a true s).get (F.AX_DEADLINE.LATE a) = s.get (F.AX_DEADLINE.LATE a) := by
  have h : (lateRun a s).get (F.AX_DEADLINE.LATE a) = s.get (F.AX_DEADLINE.LATE a) := State.get_set_other _ _ _ _ (by simp)
  rw [endPeriod_late]
  split
  · rw [axisFault, enterFault_get a _ (by rfl), latchFault_get_apart a _ _ (by simp [Fld.apart]) (by dsimp; omega), h]
  · exact h

section
variable {a : Axis} {s : State} (hon : s.axOn a = true) (hd : (s.pwm a).updDue = true) (he : (s.pwm a).staged = none)
  (hc : (s.cc a).compDue = true)
include he hc

theorem pointTaken_late_get : (pointTaken a s).get (F.AX_DEADLINE.LATE a) = counted s (F.AX_DEADLINE.LATE a)
    ∧ ∀ g : Fld, g.apart (F.AX_DEADLINE.LATE a) → g.addr < 0x100514 + a.val * 0x1000 → (pointTaken a s).get g = s.get g := by
  have hR := pointRefreshed_edges a (atPeriod s a) s
  have hk : ∀ g : Fld, g.addr < 0x100514 + a.val * 0x1000 → (pointRefreshed a (atPeriod s a) (pointOpened a s)).get g = s.get g :=
    fun g hg => (hR.get_edges edgeScope_le_chopScope (Or.inl hg)).trans rfl
  rw [pointTaken_late he hc]
  refine ⟨?_, fun g hg hb => ?_⟩
  · rw [pointLate_get, inc_get_same _ _ (by simp) (by simp)]
    unfold counted
    rw [hk _ (by dsimp; omega)]
  · rw [pointLate_get]
    exact (State.get_set_other _ _ _ _ hg).trans (hk g hb)

theorem pointTaken_late_engine : ((pointTaken a s).pwm a).lateNow = true ∧ ((pointTaken a s).pwm a).staged = none
    ∧ ((pointTaken a s).cc a).compDue = false ∧ (∀ c, ((pointTaken a s).cc a).comp = some c → c.late = true)
    ∧ (pointTaken a s).mot a = s.mot a := by
  obtain ⟨-, h2, h3, -⟩ := pointRefreshed_keeps a (atPeriod s a) s
  rw [pointTaken_late he hc, pointLate_pwm, pointLate_cc, pointLate_mot]
  refine ⟨rfl, h3.trans he, rfl, fun c h => ?_, h2⟩
  obtain ⟨x, -, hx⟩ := Option.map_eq_some_iff.mp h
  exact congrArg Comp.late hx ▸ rfl

/-- At a mid point the edges before repeat and the period is late. -/
theorem pointTaken_mid (hp : atPeriod s a = false) : pointTaken a s = pointLate a (pointOpened a s) := by
  rw [pointTaken_late he hc, hp]
  rfl

include hon hd

omit he hc in
theorem updatePoint_late_mid (hp : atPeriod s a = false) : Within levelScope [a] (pointTaken a s) (updatePoint a s) := by
  have h : Within levelScope [a] (pointTaken a s) (levelLegs a (pointPhase a s) (lastBoundary s a) (pointTaken a s)) :=
    levelLegs_within Scope.le_rfl List.mem_cons_self _ _ (.refl _ _ _)
  rw [updatePoint_due hon hd, hp]
  exact h.trans ((pointClosed_mid a _).widen gateScope_le_levelScope)

theorem updatePoint_late_period (hp : atPeriod s a = true) :
    Within gateScope [a] (endPeriod a true (levelLegs a (pointPhase a s) (lastBoundary s a) (pointTaken a s))) (updatePoint a s) := by
  have h := pointClosed_period a (levelLegs a (pointPhase a s) (lastBoundary s a) (pointTaken a s))
  rw [levelLegs_lateNow, (pointTaken_late_engine he hc).1] at h
  rw [updatePoint_due hon hd, hp]
  exact h

theorem updatePoint_late_count : (updatePoint a s).get (F.AX_DEADLINE.LATE a) = counted s (F.AX_DEADLINE.LATE a) := by
  rw [← (pointTaken_late_get he hc).1]
  cases hp : atPeriod s a with
  | false =>
    refine (updatePoint_late_mid hon hd hp).get_edges levelScope_le_chopScope (Or.inl (by dsimp; omega))
  | true =>
    rw [(updatePoint_late_period hon hd he hc hp).fields _ fun _ _ _ hf => hf.elim, endPeriod_count,
      levelLegs_get a _ _ _ (by dsimp; omega)]

/-- The third late period in a row (R41). -/
theorem updatePoint_late_fault (hp : atPeriod s a = true) (hr : 2 ≤ s.get (F.AX_DEADLINE.LATE_RUN a)) :
    (updatePoint a s).get (F.AX_DEADLINE.DEADLINE_FLT a) = 1 ∧ InFault a s (updatePoint a s) := by
  have hw := updatePoint_late_period hon hd he hc hp
  set L := levelLegs a (pointPhase a s) (lastBoundary s a) (pointTaken a s) with hL
  have hrow : L.get (F.AX_DEADLINE.LATE_RUN a) = s.get (F.AX_DEADLINE.LATE_RUN a) := by
    rw [hL, levelLegs_get a _ _ _ (by dsimp; omega), (pointTaken_late_get he hc).2 _ (by simp [Fld.apart]) (by dsimp; omega)]
  have hmot : L.mot a = s.mot a := (levelLegs_mot a _ _ _).trans (pointTaken_late_engine he hc).2.2.2.2
  rw [endPeriod_fault (by omega)] at hw
  have hg : ∀ g, (updatePoint a s).get g = (axisFault a (F.AX_DEADLINE.DEADLINE_FLT a) 11 (lateRun a L)).get g :=
    fun g => hw.fields g fun _ _ _ hf => hf.elim
  refine ⟨(hg _).trans (deadlineFault_get a _), (enterFault_inFault a _).of_kept ?_ hg ?_⟩
  · have := congrArg AxisSt.mot (hw.own a)
    exact this
  · rw [latchFault_mot]
    have hrun : (lateRun a L).mot a = (L.modPwm a fun p => { p with lateNow := false }).mot a := rfl
    exact congrArg MotionSt.pos (hrun.trans ((State.modPwm_mot _ _ _ _).trans hmot))

end

/-- Edges that were not delivered are late at an update point (R40, R41). -/
theorem updatePoint_late {a : Axis} {s : State} (hq : s.whReq = []) (hf : unselected a s) (hon : s.axOn a = true)
    (hd : (s.pwm a).updDue = true) (he : (s.pwm a).staged = none) (hc : (s.cc a).compDue = true) :
    Completes (.updatePoint a) s fun t => PointOut a s t
      ∧ t.get (F.AX_DEADLINE.LATE a) = counted s (F.AX_DEADLINE.LATE a) ∧ (∀ c, (t.cc a).comp = some c → c.late = true)
      ∧ (atPeriod s a = false → (t.pwm a).lateNow = true ∧ t.mot a = s.mot a ∧ (∀ l : Leg, edgeOf t a l = edgeOf s a l)
          ∧ KeepsFields [F.AX_DEADLINE.LATE a, F.AX_PWM_GUARD.MINP_GUARD a] s t)
      ∧ (atPeriod s a = true → t.get (F.AX_DEADLINE.LATE_RUN a) = min 3 (s.get (F.AX_DEADLINE.LATE_RUN a) + 1)
          ∧ (2 ≤ s.get (F.AX_DEADLINE.LATE_RUN a) → t.get (F.AX_DEADLINE.DEADLINE_FLT a) = 1 ∧ InFault a s t)) := by
  have hw := updatePoint_within (s := begun s) hon hd hf
  obtain ⟨e1, e2, e3, e4, e5⟩ := pointTaken_late_engine (s := begun s) he hc
  obtain ⟨k1, k2, k3⟩ := updatePoint_kept (s := begun s) hon hd hf
  refine completes_of (f := updatePoint a) rfl ((congrArg State.whReq hw.side).trans hq)
    ⟨pointOut_of hw (k1.trans e2) (k2.trans e3), ?_, fun c h => ?_, fun hp => ?_, fun hp => ⟨?_, fun hr => ?_⟩⟩
  · rw [settle_get]; exact updatePoint_late_count (s := begun s) hon hd he hc
  · rw [settle_cc, k3] at h; exact e4 c h
  · have hm := updatePoint_late_mid (s := begun s) hon hd hp
    have hn := congrArg (fun x : AxisSt => x.pwm.lateNow) (hm.own a)
    have hmot := congrArg AxisSt.mot (hm.own a)
    have hT := pointTaken_mid (s := begun s) he hc hp
    have hk : KeepsFields [F.AX_DEADLINE.LATE a, F.AX_PWM_GUARD.MINP_GUARD a] s (updatePoint a (begun s)) := fun g hg => by
      simp only [List.forall_mem_cons] at hg
      obtain ⟨h1, h2, -⟩ := hg
      rw [hm.fields g fun b hb f hx => by obtain rfl := List.mem_singleton.mp hb; exact (show f = _ from hx) ▸ h2, hT, pointLate_get]
      exact (State.get_set_other _ _ _ _ h1).trans rfl
    refine ⟨?_, ?_, fun l => edgeOf_congr fun g hg => ?_, hk.settled⟩
    · rw [settle_pwm]; exact hn.trans e1
    · rw [settle_mot]; exact hmot.trans e5
    · have := edgeWords_addr hg
      rw [settle_get]
      exact hk g (by simp only [List.forall_mem_cons]; exact ⟨Or.inl (by omega), Or.inl (by omega), by simp⟩)
  · have hg := updatePoint_late_period (s := begun s) hon hd he hc hp
    rw [settle_get, hg.fields _ fun _ _ _ hf => hf.elim, endPeriod_run, levelLegs_get a _ _ _ (by dsimp; omega),
      (pointTaken_late_get (s := begun s) he hc).2 _ (by simp [Fld.apart]) (by dsimp; omega)]
    rfl
  · obtain ⟨f1, f2⟩ := updatePoint_late_fault (s := begun s) hon hd he hc hp hr
    rw [settle_get]
    exact ⟨f1, f2.of_kept (settle_mot _ _) (settle_get _) rfl⟩

/-- Settles O27: what starts, ends and takes effect, each by the lemma on its command. -/
theorem controlComputationsAndUpdatePoints : Obligations.ControlComputationsAndUpdatePoints := by
  unfold Obligations.ControlComputationsAndUpdatePoints
  intro a s hq hw
  exact ⟨fun hon hd hc => sampleInstant_starts hq hon hd hc, fun c hon hd hc => sampleInstant_passes hq hon hd hc,
    fun c t0 hc => computationDone_ends hq t0 hc,
    fun hon hd => ⟨fun e he hc hl => updatePoint_inTime hq hw hon hd e he hc hl, fun he hc => updatePoint_late hq hw hon hd he hc⟩,
    fun e he => boostTimeout_fails hq he⟩

end Sys2Proof.Machine

namespace Sys2Proof.Machine

/-! ### Commands that write fields -/

section
variable {c : Instr} {s u : State} {l l' more : List (Fld × Nat)}

theorem Does.reorder (h : Does c s u l []) (hl : ∀ p, p ∈ l' ↔ p ∈ l) : Does c s u l' [] := by
  obtain ⟨t, he, hb, hk, hv⟩ := h
  refine ⟨t, he, hb, fun g hg => hk g fun f hf => hg f ?_, fun p hp => hv p ((hl p).mp hp)⟩
  simp only [List.append_nil, List.mem_map] at hf ⊢
  obtain ⟨p, hp, hpf⟩ := hf
  exact ⟨p, (hl p).mpr hp, hpf⟩

/-- A field that no other touches reads as before. -/
theorem Does.also (h : Does c s u l []) {p : Fld × Nat} (hp : s.get p.1 = p.2) (ha : ∀ q ∈ l, p.1.apart q.1) :
    Does c s u (p :: l) [] := by
  obtain ⟨t, he, hb, hk, hv⟩ := h
  refine ⟨t, he, hb, fun g hg => hk g fun f hf => hg f (List.mem_cons_of_mem _ hf), fun q hq => ?_⟩
  rcases List.mem_cons.mp hq with rfl | hq
  · refine (hk _ fun f hf => ?_).trans hp
    simp only [List.append_nil, List.mem_map] at hf
    obtain ⟨r, hr, rfl⟩ := hf
    exact ha r hr
  · exact hv q hq

theorem State.sets_append (s : State) (l m : List (Fld × Nat)) : s.sets (l ++ m) = (s.sets l).sets m :=
  List.foldl_append

/-- A change beside the registers may come before or after fields that are written. -/
theorem State.sets_commute {f : State → State} (hf : ∀ (s : State) (g : Fld) (v : Nat), f (s.set g v) = (f s).set g v) (s : State)
    (l : List (Fld × Nat)) : f (s.sets l) = (f s).sets l := by
  induction l generalizing s with
  | nil => rfl
  | cons p l ih => rw [State.sets_cons, State.sets_cons, ih, hf]

end

/-! ### Reference tests -/

/-- A test of the reference has failed (R28). -/
def State.gapped (s : State) : State := { s with tb := { s.tb with refGood := false, testFrom := s.now } }

/-- What shows a loss of the reference (R28, R31). -/
def lostFields (s : State) : List (Fld × Nat) :=
  [(F.TB_STATUS.REF_LOST, 1), (F.TB_STATUS.LOSS_COUNT, counted s F.TB_STATUS.LOSS_COUNT), (F.TB_STATUS.SRC, 0),
    (F.TB_STATUS.TIMEBASE_DEGRADED, 1)]

theorem counted_holds (s : State) {f : Fld} (hf : f.hi < 32) (hl : f.lo ≤ f.hi) : f.holds (counted s f) :=
  ⟨hf, hl, by have := Nat.two_pow_pos (f.hi + 1 - f.lo); unfold counted fieldMax; omega⟩

theorem lostFields_hold (s : State) : ∀ p ∈ lostFields s, p.1.holds p.2 := by
  have := counted_holds s (f := F.TB_STATUS.LOSS_COUNT) (by simp) (by simp)
  simp [lostFields, this]
  simp [Fld.holds]

theorem lostFields_apart (s : State) : (lostFields s).Pairwise fun p q => p.1.apart q.1 := by simp [lostFields, Fld.apart]

/-- The reference as source is lost to the internal oscillator (R28). -/
def State.lost (s : State) : State := s.gapped.sets (lostFields s)

theorem refFail_idle {s : State} (h : s.get F.TB_STATUS.SRC ≠ 1) : refFail s = s.gapped := if_neg h

theorem toInternal_of {s u : State} (h : (s.set F.TB_STATUS.SRC 0).set F.TB_STATUS.TIMEBASE_DEGRADED 1 = u) :
    toInternal s = if u.flag F.TB_CTRL.DEGRADED_HALT then autoTransit 6 3 u else u := by
  subst h
  rfl

theorem refFail_source {s : State} (h : s.get F.TB_STATUS.SRC = 1) :
    refFail s = if s.flag F.TB_CTRL.DEGRADED_HALT then autoTransit 6 3 s.lost else s.lost := by
  have hc : counted (s.gapped.raise F.TB_STATUS.REF_LOST) F.TB_STATUS.LOSS_COUNT = counted s F.TB_STATUS.LOSS_COUNT := by
    unfold counted State.raise
    rw [State.get_set_other _ _ _ _ (by simp)]
    rfl
  have hl : (((s.gapped.raise F.TB_STATUS.REF_LOST).inc F.TB_STATUS.LOSS_COUNT).set F.TB_STATUS.SRC 0).set
      F.TB_STATUS.TIMEBASE_DEGRADED 1 = s.lost := by
    unfold State.lost lostFields
    rw [← hc]
    rfl
  have hf : s.lost.flag F.TB_CTRL.DEGRADED_HALT = s.flag F.TB_CTRL.DEGRADED_HALT := by
    unfold State.flag State.lost
    rw [State.get_sets_apart _ _ _ (by simp [lostFields, Fld.apart])]
    rfl
  exact (if_pos h).trans ((toInternal_of hl).trans (by rw [hf]))

theorem lost_mode (s : State) : s.lost.mode = s.mode :=
  (State.get_sets_apart _ _ _ (by simp [lostFields, Fld.apart])).trans rfl

theorem lost_pw (s : State) : s.lost.pw = s.pw := (State.sets_pw _ _).trans rfl

/-- Without a HALT of DEGRADED_HALT the loss is all there is (R31). -/
theorem refFail_lost {s : State} (h : s.get F.TB_STATUS.SRC = 1) (hd : s.get F.TB_CTRL.DEGRADED_HALT = 0 ∨ s.mode ≠ 5)
    (ht : s.pw.transit = none) : refFail s = s.lost := by
  rw [refFail_source h]
  split
  case isFalse => rfl
  case isTrue hf =>
    have hm : s.mode ≠ 5 := hd.resolve_left fun e => by
      rw [flag_eq_true_iff _ _ rfl] at hf
      omega
    unfold autoTransit
    rw [lost_pw, ht, lost_mode]
    dsimp only
    rw [if_neg (by simpa [autoApplies] using hm)]

/-- In RUN a loss with DEGRADED_HALT begins a transition to HALT (R31, R504). -/
theorem refFail_halts {s : State} (h : s.get F.TB_STATUS.SRC = 1) (hd : s.get F.TB_CTRL.DEGRADED_HALT = 1) (hm : s.mode = 5)
    (ht : s.pw.transit = none) : refFail s = beginTransit 6 3 s.lost := by
  rw [refFail_source h, if_pos ((flag_eq_true_iff _ _ rfl).mpr hd)]
  unfold autoTransit
  rw [lost_pw, ht, lost_mode, hm]
  exact if_pos rfl

/-- A transition to HALT by its trigger 3 is in progress (R504). -/
def State.halting (s : State) : State := { s with pw := { s.pw with transit := some (6, 3) } }

theorem beginTransit_halting (s : State) : beginTransit 6 3 s = s.halting.sets [(F.MODE_STAT.TRANSIT, 1)] := rfl

theorem beginTransit_lost (s : State) : beginTransit 6 3 s.lost = s.gapped.halting.sets (lostFields s ++ [(F.MODE_STAT.TRANSIT, 1)]) := by
  have h := State.sets_commute (f := State.halting) (fun _ _ _ => rfl) s.gapped (lostFields s)
  rw [State.sets_append, ← h, beginTransit_halting]
  rfl

section
variable {s : State} (hq : s.whReq = []) (t0 : Nat) (hp : s.pd 1 = true)

include hp in
theorem refinEdgeTimeout_up : timed t0 refinEdgeTimeout (begun s) = refFail (begun (s.at_ t0)) := if_pos hp

include hq

include hp in
theorem refinEdgeTimeout_idle (h : s.get F.TB_STATUS.SRC ≠ 1) : Does (.refinEdgeTimeout t0) s (s.at_ t0).gapped [] [] :=
  does_nothing rfl hq rfl ((refinEdgeTimeout_up t0 hp).trans (refFail_idle h))

include hp in
theorem refinEdgeTimeout_loses (h : s.get F.TB_STATUS.SRC = 1) (hd : s.get F.TB_CTRL.DEGRADED_HALT = 0 ∨ s.mode ≠ 5)
    (ht : s.pw.transit = none) : Does (.refinEdgeTimeout t0) s (s.at_ t0).gapped (lostFields s) [] :=
  does_of _ rfl hq rfl ((refinEdgeTimeout_up t0 hp).trans (refFail_lost (s := begun (s.at_ t0)) h hd ht)) (lostFields_hold s)
    (lostFields_apart s)

include hp in
theorem refinEdgeTimeout_halts (h : s.get F.TB_STATUS.SRC = 1) (hd : s.get F.TB_CTRL.DEGRADED_HALT = 1) (hm : s.mode = 5)
    (ht : s.pw.transit = none) : Does (.refinEdgeTimeout t0) s
      (s.at_ t0).gapped.halting ((F.MODE_STAT.TRANSIT, 1) :: lostFields s) [] := by
  have hl : ∀ p, p ∈ (F.MODE_STAT.TRANSIT, 1) :: lostFields s ↔ p ∈ lostFields s ++ [(F.MODE_STAT.TRANSIT, 1)] := fun p => by
    simp [or_comm]
  have h1 : timed t0 refinEdgeTimeout (begun s) = (begun (s.at_ t0).gapped.halting).sets (lostFields s ++ [(F.MODE_STAT.TRANSIT, 1)]) := by
    rw [refinEdgeTimeout_up t0 hp, refFail_halts (s := begun (s.at_ t0)) h hd hm ht, beginTransit_lost]
    have e1 : lostFields (begun (s.at_ t0)) = lostFields s := rfl
    have e2 : (begun (s.at_ t0)).gapped.halting = begun (s.at_ t0).gapped.halting := rfl
    rw [e1, e2]
  refine Does.reorder (does_of _ rfl hq rfl h1 ?_ ?_) hl
  · simp only [List.forall_mem_append]
    exact ⟨lostFields_hold s, by simp [Fld.holds]⟩
  · simp [lostFields, Fld.apart]

theorem refinEdgeTimeout_off (hp : s.pd 1 = false) : Does (.refinEdgeTimeout t0) s (s.at_ t0) [] [] :=
  does_nothing rfl hq rfl (if_neg (ne_true_of_eq_false hp) : timed t0 refinEdgeTimeout (begun s) = _)

theorem calibrationInstant_off (hp : s.pd 1 = false) (ok : Bool) (fails : BitVec 144) : Does (.calibrationInstant ok fails) s s [] [] :=
  does_nothing rfl hq rfl (if_pos (ne_true_of_eq_false hp) : calibrationInstant ok fails (begun s) = _)

include hp in
theorem referenceGood_passes (h : s.tb.testFrom + msT ≤ t0) :
    Does (.referenceGood t0) s { s.at_ t0 with tb := { s.tb with refGood := true } } [] [] :=
  does_nothing rfl hq rfl (if_pos ⟨hp, h⟩ : referenceGood t0 (begun s) = _)

theorem referenceGood_stays (h : s.pd 1 = false ∨ t0 < s.tb.testFrom + msT) : Does (.referenceGood t0) s s [] [] :=
  does_nothing rfl hq rfl (if_neg (fun ⟨h1, h2⟩ => by
    rcases h with h | h
    · exact ne_true_of_eq_false h h1
    · exact absurd h2 (Nat.not_le.mpr h)) : referenceGood t0 (begun s) = _)

end

end Sys2Proof.Machine

namespace Sys2Proof.Machine

/-! ### Calibration instants -/

/-- The delay lines are measured at calibration instant `n` (R32, R33). -/
def State.calibrated (s : State) (n : Nat) (fails : BitVec 144) : State :=
  { s.at_ (n * 800000) with tb := { s.tb with
      calNo := n
      cal := Vector.ofFn fun i : Fin 72 => (s.tb.cal[i]).measure n (fails.getLsbD (2 * i.val)) (fails.getLsbD (2 * i.val + 1)) } }

/-- The field of a calibration that has failed (R33). -/
def calFields (fails : BitVec 144) : List (Fld × Nat) := if fails = 0 then [] else [(F.TB_STATUS.CAL_FAIL, 1)]

/-- What `CAL_FAIL` reads after a calibration instant (R33). -/
def calMark (fails : BitVec 144) (s : State) : Fld × Nat :=
  (F.TB_STATUS.CAL_FAIL, if fails = 0 then s.get F.TB_STATUS.CAL_FAIL else 1)

/-- The fields of a source that changes to the reference (R29). -/
def referenceFields : List (Fld × Nat) := [(F.TB_STATUS.SRC, 1), (F.TB_STATUS.TIMEBASE_DEGRADED, 0)]

theorem Does.marked {c : Instr} {s u : State} {l : List (Fld × Nat)} {fails : BitVec 144} (h : Does c s u (calFields fails ++ l) [])
    (ha : ∀ q ∈ l, F.TB_STATUS.CAL_FAIL.apart q.1) : Does c s u (calMark fails s :: l) [] := by
  unfold calFields at h
  unfold calMark
  split at h
  case isTrue hf => exact h.also (by simp [hf]) ha
  case isFalse hf => rwa [if_neg hf]

theorem calFields_hold (fails : BitVec 144) : ∀ p ∈ calFields fails, p.1.holds p.2 := by
  unfold calFields
  split <;> simp [Fld.holds]

/-- The fields of a failed calibration stand alone. -/
theorem calFields_append {fails : BitVec 144} {l : List (Fld × Nat)} (hl : l.Pairwise fun p q => p.1.apart q.1)
    (ha : ∀ q ∈ l, F.TB_STATUS.CAL_FAIL.apart q.1) : (calFields fails ++ l).Pairwise fun p q => p.1.apart q.1 := by
  unfold calFields
  split
  · exact hl
  · exact List.pairwise_cons.mpr ⟨ha, hl⟩

section
variable {s : State} (fails : BitVec 144)

/-- A state after its delay lines are measured and marked. -/
def State.judged (s : State) (n : Nat) (fails : BitVec 144) : State := (s.calibrated n fails).sets (calFields fails)

theorem judged_eq (n : Nat) : (if fails = 0 then s.calibrated n fails else (s.calibrated n fails).raise F.TB_STATUS.CAL_FAIL)
    = s.judged n fails := by
  unfold State.judged calFields
  split <;> rfl

theorem judged_get (n : Nat) {g : Fld} (hg : g.apart F.TB_STATUS.CAL_FAIL) : (s.judged n fails).get g = s.get g := by
  refine (State.get_sets_apart _ _ _ fun p hp => ?_).trans rfl
  unfold calFields at hp
  split at hp
  · simp at hp
  · rw [List.mem_singleton.mp hp]; exact hg

theorem judged_tb (n : Nat) : (s.judged n fails).tb = (s.calibrated n fails).tb := State.sets_tb _ _

theorem judged_pw (n : Nat) : (s.judged n fails).pw = s.pw := (State.sets_pw _ _).trans rfl

theorem judged_mode (n : Nat) : (s.judged n fails).mode = s.mode := judged_get fails n (by simp [Fld.apart])

theorem judged_usable (n : Nat) : refUsable (s.judged n fails) = refUsable s := by
  unfold refUsable isMember State.flag
  rw [judged_tb, judged_get fails n (by simp [Fld.apart]), judged_get fails n (by simp [Fld.apart])]
  rfl

theorem calibrationInstant_up (hp : s.pd 1 = true) (ok : Bool) : calibrationInstant ok fails s =
    let v := if ok then s.judged (nextCal s) fails else refFail (s.judged (nextCal s) fails)
    if refUsable v && v.get F.TB_STATUS.SRC == 0 && v.mode != 1 then toReference v else v := by
  rw [← judged_eq]
  exact if_neg (not_not.mpr hp)

/-- The source may change to the reference (R29). -/
def takesReference (s : State) : Prop := refUsable s = true ∧ s.get F.TB_STATUS.SRC = 0 ∧ s.mode ≠ 1

theorem takesReference_iff (s : State) : (refUsable s && s.get F.TB_STATUS.SRC == 0 && s.mode != 1) = true ↔ takesReference s := by
  simp [takesReference, and_assoc]

theorem judged_takes (n : Nat) : takesReference (s.judged n fails) ↔ takesReference s := by
  unfold takesReference
  rw [judged_usable, judged_mode, judged_get fails n (by simp [Fld.apart])]

theorem toReference_eq (s : State) : toReference s = s.sets referenceFields := rfl

/-- A reference that has failed is not taken. -/
theorem refFail_refused {s u : State} (h : refFail s = u) (hu : u.tb.refGood = false) :
    (if refUsable (refFail s) && (refFail s).get F.TB_STATUS.SRC == 0 && (refFail s).mode != 1 then toReference (refFail s)
      else refFail s) = u := by
  rw [h]
  refine if_neg ?_
  simp [refUsable, hu]

variable (hq : s.whReq = []) (hp : s.pd 1 = true)
include hq hp

theorem calibrationInstant_takes (h : takesReference s) : Does (.calibrationInstant true fails) s (s.calibrated (nextCal s) fails)
    (calMark fails s :: referenceFields) [] := by
  have hx : calibrationInstant true fails (begun s) = (begun (s.calibrated (nextCal s) fails)).sets (calFields fails ++ referenceFields) := by
    rw [calibrationInstant_up (s := begun s) fails hp]
    dsimp only
    rw [if_pos rfl, if_pos ((takesReference_iff _).mpr ((judged_takes (s := begun s) fails _).mpr h)), toReference_eq, State.sets_append]
    rfl
  refine Does.marked (does_of _ rfl hq rfl hx ?_ (calFields_append ?_ ?_)) ?_
  · simp only [List.forall_mem_append]
    exact ⟨calFields_hold fails, by simp [referenceFields, Fld.holds]⟩
  · simp [referenceFields, Fld.apart]
  · simp [referenceFields, Fld.apart]
  · simp [referenceFields, Fld.apart]

theorem calibrationInstant_stays (h : ¬ takesReference s) : Does (.calibrationInstant true fails) s (s.calibrated (nextCal s) fails)
    [calMark fails s] [] := by
  have hx : calibrationInstant true fails (begun s) = (begun (s.calibrated (nextCal s) fails)).sets (calFields fails ++ []) := by
    rw [calibrationInstant_up (s := begun s) fails hp]
    dsimp only
    rw [if_pos rfl, if_neg (fun e => h ((judged_takes (s := begun s) fails _).mp ((takesReference_iff _).mp e))), List.append_nil]
    rfl
  refine Does.marked (does_of _ rfl hq rfl hx ?_ (calFields_append (by simp) (by simp))) (by simp)
  rw [List.append_nil]
  exact calFields_hold fails

theorem calibrationInstant_fails (h : s.get F.TB_STATUS.SRC ≠ 1) : Does (.calibrationInstant false fails) s
    (s.calibrated (nextCal s) fails).gapped [calMark fails s] [] := by
  have hx : calibrationInstant false fails (begun s) = (begun (s.calibrated (nextCal s) fails).gapped).sets (calFields fails ++ []) := by
    have hf : refFail ((begun s).judged (nextCal (begun s)) fails) = _ :=
      refFail_idle (by rw [judged_get fails _ (by simp [Fld.apart])]; exact h)
    rw [calibrationInstant_up (s := begun s) fails hp]
    dsimp only
    rw [if_neg Bool.false_ne_true, refFail_refused hf rfl, List.append_nil]
    exact State.sets_commute (f := State.gapped) (fun _ _ _ => rfl) _ _
  refine Does.marked (does_of _ rfl hq rfl hx ?_ (calFields_append (by simp) (by simp))) (by simp)
  rw [List.append_nil]
  exact calFields_hold fails

theorem calibrationInstant_loses (h : s.get F.TB_STATUS.SRC = 1) (hd : s.get F.TB_CTRL.DEGRADED_HALT = 0 ∨ s.mode ≠ 5)
    (ht : s.pw.transit = none) : Does (.calibrationInstant false fails) s
      (s.calibrated (nextCal s) fails).gapped (calMark fails s :: lostFields s) [] := by
  have hj : ∀ {g : Fld}, g.apart F.TB_STATUS.CAL_FAIL → ((begun s).judged (nextCal (begun s)) fails).get g = s.get g := fun hg =>
    judged_get (s := begun s) fails (nextCal (begun s)) hg
  have hf : refFail ((begun s).judged (nextCal (begun s)) fails) = _ :=
    refFail_lost ((hj (by simp [Fld.apart])).trans h)
      (hd.imp (hj (by simp [Fld.apart])).trans fun hm => by rw [judged_mode]; exact hm) ((congrArg PowerSt.transit (judged_pw fails _)).trans ht)
  have hl : lostFields ((begun s).judged (nextCal (begun s)) fails) = lostFields s := by
    unfold lostFields counted
    rw [hj (by simp [Fld.apart])]
  have hg : ((begun s).judged (nextCal (begun s)) fails).gapped = (begun (s.calibrated (nextCal s) fails).gapped).sets (calFields fails) :=
    State.sets_commute (f := State.gapped) (fun _ _ _ => rfl) _ _
  have hx : calibrationInstant false fails (begun s) = (begun (s.calibrated (nextCal s) fails).gapped).sets (calFields fails ++ lostFields s) := by
    rw [calibrationInstant_up (s := begun s) fails hp]
    dsimp only
    rw [if_neg Bool.false_ne_true, refFail_refused hf ?_]
    · unfold State.lost
      rw [hl, hg, State.sets_append]
    · unfold State.lost
      rw [State.sets_tb]
      rfl
  refine Does.marked (does_of _ rfl hq rfl hx ?_ (calFields_append (lostFields_apart s) ?_)) ?_
  · simp only [List.forall_mem_append]
    exact ⟨calFields_hold fails, lostFields_hold s⟩
  · simp [lostFields, Fld.apart]
  · simp [lostFields, Fld.apart]

end

end Sys2Proof.Machine

namespace Sys2Proof.Machine

/-! ### Entry to HALT -/

section
variable {S : Scope} {l : List Axis} {a : Axis} {r s : State} (hS : haltScope.le S) (ha : a ∈ l)
include hS ha

theorem noteClip_within (p q : Prof) (h : Within S l r s) : Within S l r (noteClip a p q s) := by
  unfold noteClip State.raise State.inc State.count
  exact .ite h ((h.setHalt hS ha _ (by simp)).setPlanner hS.stand.record ha _ (by decide) (by decide))

theorem noteStop_within (h : Within S l r s) : Within S l r (noteStop a s) := noteClip_within hS ha _ _ h

theorem planCut_within (c : Cut) (h : Within S l r s) : Within S l r (planCut a c s) := by
  unfold planCut
  exact (Within.ite (noteStop_within hS ha h) h).moves hS ha

theorem startCut_within (c : Cut) (h : Within S l r s) : Within S l r (startCut a c s) :=
  planCut_within hS ha _ (discardWindow_within hS ha (discardCut_within hS ha h))

theorem dropBehind_within (h : Within S l r s) : Within S l r (dropBehind a s) := by
  unfold dropBehind
  exact retireAll_within hS.stand.record ha _ _ (countOffside_within hS.stand.record ha _ (h.moves hS ha))

theorem stopPacket_within (q : Option (BitVec 16)) (h : Within S l r s) : Within S l r (stopPacket a q s) := by
  have h1 := cancelWaiting_within hS.stand.record ha (dropBehind_within hS ha h)
  unfold stopPacket
  refine .ite ?_ (startCut_within hS ha _ (noteStop_within hS ha h))
  dsimp only
  split
  · exact retire_within hS.stand.record ha _ _ h1
  · exact h1

theorem followExit_within (h : Within S l r s) : Within S l r (followExit a s) := by
  unfold followExit
  exact .ite (cancelEngage_within hS ha h) (.ite (h.modFol ha fun _ => hS.keep _ _ rfl) h)

end

theorem enterHalt_within {S : Scope} {r s : State} (hS : haltScope.le S) (h : Within S allAxes r s) :
    Within S allAxes r (enterHalt s) :=
  h.each _ fun a ha _ ht => by
    have ha' := (List.mem_filter.mp ha).1
    exact .ite ht (.ite (stopPacket_within hS ha' _ ht) (followExit_within hS ha' ht))

/-! ### Entry to SAFE -/

/-- The scope of entry to SAFE for an axis (R507). -/
def safeScope : Scope := { haltScope with fields := fun a f => haltFields a f ∨ f = F.AX_STATE.SAFE_HELD a }

theorem haltScope_le_safeScope : haltScope.le safeScope := ⟨fun _ _ h => h, fun _ _ h => h, fun _ _ h => Or.inl h⟩

section
variable {S : Scope} {l : List Axis} {a : Axis} {r s : State} (hS : safeScope.le S) (ha : a ∈ l)
include hS ha

theorem safeAxis_within (h : Within S l r s) : Within S l r (safeAxis a s) := by
  have hH := haltScope_le_safeScope.trans hS
  have h1 := retireEngage_within hH.stand.leave ha .cancelled (disengage_within hH.stand.leave ha (haltMotion_within hH ha h))
  unfold safeAxis
  refine .ite h (.ite (h.set _ ha (hS.fields _ _ (Or.inr rfl))) (refreshAxis_within hH.stand.refresh ha ?_))
  exact (h1.setState hH.stand.refresh ha _ (by simp [stateFields])).set _ ha (hS.fields _ _ (Or.inr rfl))

end

/-- Axis `a` is held OFF at `p` as entry to SAFE leaves it (R507). -/
def HeldOff (a : Axis) (p : Int) (t : State) : Prop :=
  t.axState a = 0 ∧ (t.mot a).queue = [] ∧ (t.mot a).vel = 0 ∧ (t.mot a).pos = p ∧ fstate t a = 0

/-- An axis held in SAFE does not become ready (R512). -/
theorem axisReady_held {a : Axis} {s : State} (h : s.get (F.AX_STATE.SAFE_HELD a) = 1) : axisReady s a = false := by
  simp [axisReady, offConds, State.flag, h]

theorem refreshAxis_held {a : Axis} {s : State} (h : s.get (F.AX_STATE.SAFE_HELD a) = 1) (h0 : s.axState a = 0) :
    refreshAxis a s = refreshEnergised a s := by
  have hp : takePendSource a s = s := by
    unfold takePendSource
    split
    · rfl
    · exact if_neg (by rw [h0]; rintro ⟨h | h, -⟩ <;> cases h)
  unfold refreshAxis
  rw [h0, axisReady_held h]
  dsimp only
  rw [if_neg (by simp), if_pos rfl, if_neg Bool.false_ne_true, hp]

end Sys2Proof.Machine

namespace Sys2Proof.Machine

theorem engineBlock_inj {a b : Axis} {n : Nat} (ha : engineBlock a n) (hb : engineBlock b n) : a = b := by
  have := a.isLt
  have := b.isLt
  unfold engineBlock at ha hb
  refine Fin.ext ?_
  omega

/-- Work on one axis leaves the block of another. -/
theorem Within.get_other {S : Scope} {a b : Axis} {s t : State} (h : Within S [b] s t)
    (hS : ∀ a f, S.fields a f → plannerField f ∨ engineBlock a f.addr) (hab : a ≠ b) {g : Fld} (hg : engineBlock a g.addr) :
    t.get g = s.get g := by
  refine h.fields g fun c hc f hf => Or.inl fun e => ?_
  obtain rfl := List.mem_singleton.mp hc
  rcases hS c f hf with hf | hf
  · have := plannerField_low hf
    have := engineBlock_bounds hg
    omega
  · exact hab (engineBlock_inj hg (e ▸ hf))

theorem axisRow_engineBlock (a : Axis) {n : Nat} (h : 0x100000 + a.val * 0x1000 ≤ n) (h' : n < 0x101000 + a.val * 0x1000) :
    engineBlock a n := Or.inl ⟨h, h'⟩

/-- Axis `a` is held in SAFE, and where it was not in FAULT (`p` its position), OFF at rest (R507). -/
def SafeHeld (a : Axis) (p : Option Int) (t : State) : Prop :=
  t.get (F.AX_STATE.SAFE_HELD a) = 1 ∧ ∀ q, p = some q → HeldOff a q t

theorem SafeHeld.of_kept {a : Axis} {p : Option Int} {s t : State} (h : SafeHeld a p s)
    (hg : ∀ g ∈ [F.AX_STATE.SAFE_HELD a, F.AX_STATE.STATE a, F.AX_FOLLOW_STAT.FSTATE a], t.get g = s.get g)
    (hq : (t.mot a).queue = (s.mot a).queue) (hv : (t.mot a).vel = (s.mot a).vel) (hp : (t.mot a).pos = (s.mot a).pos) :
    SafeHeld a p t := by
  simp only [List.forall_mem_cons] at hg
  obtain ⟨g1, g2, g3, -⟩ := hg
  refine ⟨g1.trans h.1, fun q hpq => ?_⟩
  obtain ⟨h1, h2, h3, h4, h5⟩ := h.2 q hpq
  exact ⟨g2.trans h1, hq.trans h2, hv.trans h3, hp.trans h4, g3.trans h5⟩

theorem safeFields_engineBlock (a : Axis) :
    ∀ g ∈ [F.AX_STATE.SAFE_HELD a, F.AX_STATE.STATE a, F.AX_FOLLOW_STAT.FSTATE a], engineBlock a g.addr := by
  simp only [List.forall_mem_cons]
  exact ⟨Or.inl ⟨by omega, by omega⟩, Or.inl ⟨by omega, by omega⟩, Or.inl ⟨by omega, by omega⟩, by simp⟩

/-- Work on another axis leaves an axis held in SAFE. -/
theorem SafeHeld.of_other {S : Scope} {a b : Axis} {p : Option Int} {s t : State} (h : SafeHeld a p s) (hw : Within S [b] s t)
    (hS : ∀ a f, S.fields a f → plannerField f ∨ engineBlock a f.addr) (hab : a ≠ b) : SafeHeld a p t := by
  have hx : t.ax a = s.ax a := hw.others a (by simpa using hab)
  have hm : t.mot a = s.mot a := congrArg AxisSt.mot hx
  refine h.of_kept (fun g hg => hw.get_other hS hab (safeFields_engineBlock a g hg)) ?_ ?_ ?_
  all_goals rw [hm]

theorem refreshScope_fields {a : Axis} {f : Fld} (h : refreshScope.fields a f) : plannerField f ∨ engineBlock a f.addr :=
  Or.inr (h.elim bridgeFields_engineBlock stateFields_engineBlock)

theorem safeScope_fields {a : Axis} {f : Fld} (h : safeScope.fields a f) : plannerField f ∨ engineBlock a f.addr := by
  rcases h with h | rfl
  · exact haltFields_bounds h
  · exact Or.inr (axisRow_engineBlock a (by dsimp; omega) (by dsimp; omega))

/-- An axis in SAFE that is brought up to date stays held. -/
theorem refreshAxis_safe {a : Axis} {p : Option Int} {s : State} (h : SafeHeld a p s) (b : Axis) : SafeHeld a p (refreshAxis b s) := by
  have hw : Within refreshScope [b] s (refreshAxis b s) := refreshAxis_within Scope.le_rfl List.mem_cons_self (.refl _ _ _)
  by_cases hab : a = b
  case neg => exact h.of_other hw (fun _ _ => refreshScope_fields) hab
  case pos =>
    subst hab
    cases p with
    | none =>
      refine ⟨?_, fun q hq => by cases hq⟩
      rw [hw.fields _ fun c hc f hf => ?_]
      · exact h.1
      · obtain rfl := List.mem_singleton.mp hc
        simp only [refreshScope, bridgeFields, stateFields, List.mem_cons, List.not_mem_nil, or_false] at hf
        rcases hf with (rfl | rfl | rfl | rfl | rfl | rfl | rfl) | rfl | rfl | rfl <;> simp [Fld.apart]
    | some q =>
      obtain ⟨h0, -⟩ := h.2 q rfl
      have hm : (refreshEnergised a s).mot a = s.mot a := by
        have := congrArg AxisSt.mot ((refreshEnergised_within (S := bridgeScope) Scope.le_rfl List.mem_cons_self (.refl _ [a] s)).own a)
        exact this
      rw [refreshAxis_held h.1 h0]
      refine h.of_kept (fun g hg => refreshEnergised_get a s ?_) ?_ ?_ ?_
      · simp only [List.mem_cons, List.not_mem_nil, or_false] at hg
        rcases hg with rfl | rfl | rfl <;> simp [bridgeFields, Fld.apart]
      all_goals rw [hm]

theorem refreshAll_safe {a : Axis} {p : Option Int} {s : State} (h : SafeHeld a p s) : SafeHeld a p (refreshAll s) := by
  have hl : ∀ (l : List Axis) (s : State), SafeHeld a p s → SafeHeld a p (s.each l refreshAxis) := by
    intro l
    induction l with
    | nil => exact fun _ h => h
    | cons b l ih => exact fun s h => ih _ (refreshAxis_safe h b)
  exact hl _ _ h

theorem disengaged_mot (a : Axis) (o : Outc) (t : State) : (retireEngage a o (disengage a t)).mot a = t.mot a := by
  have := congrArg AxisSt.mot ((retireEngage_within (S := leaveScope) Scope.le_rfl List.mem_cons_self o
    (disengage_within Scope.le_rfl List.mem_cons_self (.refl _ [a] t))).own a)
  exact this

theorem disengaged_fstate (a : Axis) (o : Outc) (t : State) : fstate (retireEngage a o (disengage a t)) a = 0 :=
  (retireEngage_get a _ _ (by dsimp; omega)).trans (disengage_fstate a t)

theorem safeHeld_set (a : Axis) (t : State) : (t.set (F.AX_STATE.SAFE_HELD a) 1).get (F.AX_STATE.SAFE_HELD a) = 1 :=
  State.get_set_same _ _ _ (by simp) (by simp) (by simp)

/-- A resting axis that leaves its source is held OFF where it stands. -/
theorem held_of_rest {a : Axis} {t : State} (hq : (t.mot a).queue = []) (hv : (t.mot a).vel = 0) (hf : fstate t a = 0) :
    SafeHeld a (some (t.mot a).pos) ((t.set (F.AX_STATE.STATE a) 0).set (F.AX_STATE.SAFE_HELD a) 1) := by
  refine ⟨safeHeld_set a _, fun q h => ?_⟩
  obtain rfl := Option.some.inj h
  refine ⟨?_, hq, hv, rfl, ?_⟩
  · exact (State.get_set_other _ _ _ _ (by simp)).trans (State.get_set_same _ _ _ (by simp) (by simp) (by simp))
  · exact (State.get_set_own _ _ (by dsimp; omega)).trans ((State.get_set_own _ _ (by dsimp; omega)).trans hf)

/-- The position an axis is held at in SAFE, unless it is in FAULT (R507). -/
def heldAt (v : State) (a : Axis) : Option Int := if v.axState a = 6 then none else some (v.mot a).pos

/-- Entry to SAFE of an axis (R507). -/
theorem safeAxis_held {a : Axis} {s : State} (hon : s.axOn a = true) : SafeHeld a (heldAt s a) (safeAxis a s) := by
  unfold safeAxis heldAt
  rw [if_neg (not_not.mpr hon)]
  split
  case isTrue => exact ⟨safeHeld_set a _, fun q hq => by cases hq⟩
  case isFalse =>
    obtain ⟨hq, hvel⟩ := haltMotion_still a s
    have hp := haltMotion_pos a a s
    generalize haltMotion a s = t at hq hvel hp
    have hm := disengaged_mot a .cancelled t
    have := held_of_rest (t := retireEngage a .cancelled (disengage a t)) (by rw [hm]; exact hq) (by rw [hm]; exact hvel)
      (disengaged_fstate a _ t)
    rw [hm, hp] at this
    exact refreshAxis_safe this a

/-- What entry to SAFE of an axis asks of the states before. -/
def SafeFrom (v t : State) : Prop :=
  ∀ x : Axis, t.axOn x = v.axOn x ∧ (t.mot x).pos = (v.mot x).pos ∧ (v.axState x ≠ 6 → t.axState x ≠ 6)

theorem blkHung_plannerField {f : Fld} (h : plannerField f) : F.BLK_RST_STAT.BLK_HUNG.addr ≠ f.addr := by
  have := h.2
  simp only [plannerFields, List.map_cons, List.map_nil, List.mem_cons, List.not_mem_nil, or_false] at this
  dsimp only
  omega

/-- What decides whether an axis is on (R516, R540). -/
theorem axOn_congr {s t : State} (hp : t.pw = s.pw) (hr : t.rst = s.rst)
    (hg : t.get F.BLK_RST_STAT.BLK_HUNG = s.get F.BLK_RST_STAT.BLK_HUNG) (x : Axis) : t.axOn x = s.axOn x := by
  unfold State.axOn State.pd State.blockHeld
  rw [hp, hr, hg]

/-- Work on axes leaves their domains. -/
theorem Within.axOn {S : Scope} {l : List Axis} {s t : State} (h : Within S l s t)
    (hs : ∀ x y, S.side x = S.side y → besideRecords x = besideRecords y)
    (hS : ∀ a f, S.fields a f → plannerField f ∨ engineBlock a f.addr) (x : Axis) : t.axOn x = s.axOn x := by
  have h1 := hs _ _ h.side
  have hp := congrArg State.pw h1
  have hr := congrArg State.rst h1
  have hg : t.get F.BLK_RST_STAT.BLK_HUNG = s.get F.BLK_RST_STAT.BLK_HUNG := h.fields _ fun b _ f hf => by
    rcases hS b f hf with hf | hf
    · exact Or.inl (blkHung_plannerField hf)
    · have := engineBlock_bounds hf
      exact Or.inl (by dsimp only; omega)
  exact axOn_congr (s := s) (t := t) hp hr hg x

theorem safeAxis_from {v t : State} (b : Axis) (h : SafeFrom v t) : SafeFrom v (safeAxis b t) := by
  have hw : Within safeScope [b] t (safeAxis b t) := safeAxis_within Scope.le_rfl List.mem_cons_self (.refl _ _ _)
  intro x
  obtain ⟨hon, hpos, hst⟩ := h x
  refine ⟨(hw.axOn (fun _ _ h => h) (fun _ _ => safeScope_fields) x).trans hon, ?_, fun h6 => ?_⟩
  · have := congrArg (fun y : AxisSt => y.mot.pos) (hw.own x)
    exact Eq.trans this hpos
  · by_cases hxb : x = b
    case neg =>
      rw [State.axState, hw.get_other (fun _ _ => safeScope_fields) hxb (axisRow_engineBlock x (by dsimp; omega) (by dsimp; omega))]
      exact hst h6
    case pos =>
      subst hxb
      by_cases hx : t.axOn x = true
      · have := (safeAxis_held hx).2 _ (if_neg (hst h6))
        rw [this.1]
        decide
      · rw [safeAxis, if_pos hx]
        exact hst h6

theorem safeAxis_holds {v t : State} {a : Axis} (h : SafeFrom v t) (hon : v.axOn a = true) :
    SafeHeld a (heldAt v a) (safeAxis a t) := by
  obtain ⟨ho, hpos, hst⟩ := h a
  have ha := safeAxis_held (ho.trans hon)
  refine ⟨ha.1, fun q hq => ha.2 q ?_⟩
  unfold heldAt at hq ⊢
  split at hq
  · cases hq
  case isFalse h6 => rw [if_neg (hst h6), hpos, hq]

theorem safeAxes_held (v : State) {a : Axis} (hon : v.axOn a = true) : SafeHeld a (heldAt v a) (v.each allAxes safeAxis) := by
  refine State.each_reaches (I := SafeFrom v) (P := fun a t => v.axOn a = true → SafeHeld a (heldAt v a) t) (g := safeAxis)
    (fun x t => safeAxis_from x) (fun x t ht hx => safeAxis_holds ht hx) (fun x y t ht hy hon => ?_) allAxes
    (fun _ => ⟨rfl, rfl, id⟩) a (List.mem_finRange a) hon
  by_cases hxy : y = x
  case neg =>
    exact (hy hon).of_other (safeAxis_within (S := safeScope) Scope.le_rfl List.mem_cons_self (.refl _ [x] t))
      (fun _ _ => safeScope_fields) hxy
  case pos =>
    subst hxy
    exact safeAxis_holds ht hon

end Sys2Proof.Machine

namespace Sys2Proof.Machine

/-! ### A mode that is taken -/

/-- The scope of windows that are judged (R498). -/
def windowScope : Scope where
  side := besideEngines
  keep x := x
  fields a f := f = F.BK_STAT.WIN_BAD a
  side_engine _ _ _ := rfl

/-- The scope of a mode that is taken, up to its entry: windows are judged, timers start (R197, R498). -/
def exitScope : Scope where
  side s := { besideEngines s with priv := State.reset.priv }
  keep x := { x with pwm := PwmSt.reset, cc := { x.cc with compDue := false } }
  fields _ f := f.addr ≠ F.BLK_RST_STAT.all.addr ∧ ∀ b : Axis, f.addr ≠ (F.AX_STATE.all b).addr
  side_engine _ _ _ := rfl

/-- The scope of a mode that is taken, from the timers on. -/
def modeScope : Scope where
  side s := { besideRecords s with
    priv := State.reset.priv
    lk := { s.lk with arm := none, apply := none, vals := [], jobs := [] } }
  keep _ := AxisSt.reset
  fields _ f := f.addr ≠ F.MODE_STAT.all.addr ∧ ∀ b : Axis, f.addr ≠ (F.BK_STAT.WIN_BAD b).addr
  side_engine _ _ _ := rfl

theorem timerScope_le_exitScope : timerScope.le exitScope where
  side _ _ h := congrArg (fun s : State => { s with priv := State.reset.priv }) h
  keep _ _ h := h
  fields a f h := by
    obtain ⟨h1, h2⟩ := h
    exact ⟨by dsimp only; omega, fun b => by dsimp only; omega⟩

theorem windowScope_le_exitScope : windowScope.le exitScope where
  side _ _ h := congrArg (fun s : State => { s with priv := State.reset.priv }) h
  keep _ _ h := congrArg (fun x : AxisSt => { x with pwm := PwmSt.reset, cc := { x.cc with compDue := false } }) h
  fields a f h := by
    subst h
    exact ⟨by dsimp only; omega, fun b => by have := b.isLt; dsimp only; omega⟩

theorem modeScope_fields {a : Axis} {f : Fld} (h : plannerField f ∨ engineBlock a f.addr) :
    f.addr ≠ F.MODE_STAT.all.addr ∧ ∀ b : Axis, f.addr ≠ (F.BK_STAT.WIN_BAD b).addr := by
  rcases h with h | h
  · have := h.2
    simp only [plannerFields, List.map_cons, List.map_nil, List.mem_cons, List.not_mem_nil, or_false] at this
    exact ⟨by dsimp only; omega, fun b => by dsimp only; omega⟩
  · have := engineBlock_bounds h
    exact ⟨by dsimp only; omega, fun b => by dsimp only; omega⟩

theorem safeScope_le_modeScope : safeScope.le modeScope where
  side _ _ h := congrArg (fun s : State => { s with
    priv := State.reset.priv
    lk := { s.lk with arm := none, apply := none, vals := [], jobs := [] } }) h
  keep _ _ _ := rfl
  fields _ _ h := modeScope_fields (safeScope_fields h)

theorem motionScope_le_modeScope : motionScope.le modeScope where
  side _ _ h := congrArg (fun s : State => { s with
    ip := { s.ip with cmdq := [], ledger := [], log := [] }
    priv := State.reset.priv
    lk := { s.lk with arm := none, apply := none, vals := [], jobs := [] } }) h
  keep _ _ _ := rfl
  fields _ _ h := modeScope_fields (Or.inr h)

section
variable {S : Scope} {r s : State}

theorem judgeWindows_within (hS : windowScope.le S) (h : Within S allAxes r s) : Within S allAxes r (judgeWindows s) :=
  h.each _ fun _ ha _ ht => ht.setB _ ha (hS.fields _ _ rfl)

/-- A privileged channel that starts touches its channel and its registers. -/
theorem startPriv_within (c : Fin 8) (hp : ∀ (s : State) (p : Vector PrivSt 8), S.side { s with priv := p } = S.side s)
    (hf : ∀ f : Fld, 0x200 ≤ f.addr → f.addr < 0x300 → S.fields 0 f) (h : Within S allAxes r s) :
    Within S allAxes r (startPriv c s) := by
  have ha : (0 : Axis) ∈ allAxes := List.mem_finRange 0
  have hc : ∀ f ∈ [F.PCH_CTRL.CLAMP c, F.PCH_CTRL.COMMIT_PEND c], S.fields 0 f := fun f hm => by
    have := c.isLt
    simp only [List.mem_cons, List.not_mem_nil, or_false] at hm
    rcases hm with rfl | rfl <;> exact hf _ (by dsimp; omega) (by dsimp; omega)
  have hm : ∀ {t : State} (f : PrivSt → PrivSt), Within S allAxes r t → Within S allAxes r (t.modPriv c f) :=
    fun f ht => ht.beside (hp _ _) rfl rfl
  have happ : ∀ {t : State} (x : PrivSet), Within S allAxes r t → Within S allAxes r (applyPriv c x t) := fun x ht => by
    unfold applyPriv
    refine .set (hm _ (.ite ?_ ht)) _ ha (hc _ (by simp))
    exact ht.set 1 ha (hc _ (by simp))
  unfold startPriv
  refine hm _ ?_
  split
  · exact happ _ h
  · exact h

theorem startTimers_within (hS : timerScope.le S) (hp : ∀ (s : State) (p : Vector PrivSt 8), S.side { s with priv := p } = S.side s)
    (hf : ∀ f : Fld, 0x200 ≤ f.addr → f.addr < 0x300 → S.fields 0 f) (h : Within S allAxes r s) :
    Within S allAxes r (startTimers s) := by
  unfold startTimers
  refine .each _ (.each _ h fun a ha _ ht => ?_) fun c _ _ ht => startPriv_within c hp hf ht
  exact startTimer_within hS (List.mem_filter.mp ha).1 ht

/-- The commands in hand retire at entry to SAFE (R353). -/
theorem cancelAll_within (hS : recordScope.le S) (h : Within S allAxes r s) : Within S allAxes r (cancelAll s) := by
  have ha : (0 : Axis) ∈ allAxes := List.mem_finRange 0
  exact retireAll_within hS ha _ _ (h.records hS [] s.ip.ledger s.ip.log)

theorem cancelLocker_within (h : Within modeScope allAxes r s) : Within modeScope allAxes r (cancelLocker s) := by
  have ha : (0 : Axis) ∈ allAxes := List.mem_finRange 0
  unfold cancelLocker dropJobs setJobs
  refine .set ?_ _ ha ⟨by dsimp only; omega, fun b => by dsimp only; omega⟩
  exact h.beside rfl rfl rfl

theorem safeAll_within (hS : safeScope.le S) (h : Within S allAxes r s) : Within S allAxes r (s.each allAxes safeAxis) :=
  h.each _ fun _ ha _ ht => safeAxis_within hS ha ht

theorem enterSafe_within (h : Within modeScope allAxes r s) : Within modeScope allAxes r (enterSafe s) :=
  cancelLocker_within (cancelAll_within ((recordScope_le_leaveScope.trans leaveScope_le_standScope).trans
    (standScope_le_haltScope.trans (haltScope_le_safeScope.trans safeScope_le_modeScope))) (safeAll_within safeScope_le_modeScope h))

end

/-- The mode taken, shown with the one before and the trigger (R506). -/
def modeMarked (m trig : Nat) (s : State) : State :=
  let t := ((s.set F.MODE_STAT.MODE m).set F.MODE_STAT.PREV_MODE s.mode).set F.MODE_STAT.LAST_TRIG trig
  if trig = 1 then t else t.raise F.MODE_STAT.MODE_EVT

/-- The exit from the mode before (R197, R498). -/
def modeLeft (old : Nat) (s : State) : State :=
  let s := if old = 2 then judgeWindows s else s
  if old = 2 ∨ old = 3 then startTimers s else s

/-- The entry of the mode taken (R507, R510). -/
def modeEntered (m : Nat) (s : State) : State := refreshAll (if m = 7 then enterSafe s else if m = 6 then enterHalt s else s)

theorem takeMode_eq (m trig : Nat) (s : State) : takeMode m trig s = modeEntered m (modeLeft s.mode (modeMarked m trig s)) := rfl

theorem modeEntered_within {m : Nat} {r s : State} (h : Within modeScope allAxes r s) :
    Within modeScope allAxes r (modeEntered m s) := by
  refine Within.each _ (.ite (enterSafe_within h) (.ite (enterHalt_within (haltScope_le_safeScope.trans safeScope_le_modeScope) h) h))
    fun a ha t ht => refreshAxis_within (refreshScope_le_motionScope.trans motionScope_le_modeScope) ha ht

theorem modeLeft_within (old : Nat) (s : State) : Within exitScope allAxes s (modeLeft old s) := by
  have h := Within.ite (c := old = 2) (judgeWindows_within windowScope_le_exitScope (.refl exitScope allAxes s)) (.refl _ _ _)
  exact .ite (startTimers_within timerScope_le_exitScope (fun _ _ => rfl)
    (fun f h1 h2 => ⟨by dsimp only; omega, fun b => by dsimp only; omega⟩) h) h

end Sys2Proof.Machine

namespace Sys2Proof.Machine

/-- The windows judged at the exit from a mode (R498). -/
def windowsLeft (old : Nat) (s : State) : State := if old = 2 then judgeWindows s else s

theorem modeTaken_within (m old : Nat) (s : State) :
    Within modeScope allAxes (windowsLeft old s) (modeEntered m (modeLeft old s)) := by
  have hT : timerScope.le modeScope := timerScope_le_motionScope.trans motionScope_le_modeScope
  refine modeEntered_within (.ite (startTimers_within hT (fun _ _ => rfl) (fun f h1 h2 => ?_) (.refl _ _ _)) (.refl _ _ _))
  exact ⟨by dsimp only; omega, fun b => by dsimp only; omega⟩

/-- A field of the mode. -/
theorem windowsLeft_get (old : Nat) (s : State) {g : Fld} (hg : ∀ b : Axis, g.addr ≠ (F.BK_STAT.WIN_BAD b).addr) :
    (windowsLeft old s).get g = s.get g := by
  have h : Within windowScope allAxes s (windowsLeft old s) := .ite (judgeWindows_within Scope.le_rfl (.refl _ _ _)) (.refl _ _ _)
  exact h.fields g fun b _ f hf => Or.inl fun e => hg b (e.trans (congrArg Fld.addr hf))

theorem modeTaken_get (m old : Nat) (s : State) {g : Fld} (hg : g.addr = F.MODE_STAT.all.addr) :
    (modeEntered m (modeLeft old s)).get g = s.get g := by
  rw [(modeTaken_within m old s).fields g fun b _ f hf => Or.inl fun e => hf.1 (e ▸ hg)]
  exact windowsLeft_get old s fun b => by rw [hg]; dsimp only; omega

/-- A window that holds nothing is bad (R498). -/
def windowBad (s : State) (a : Axis) : Bool := s.flag (F.BK_CFG.TRAVEL_EN a) && decide (travelMax s a ≤ travelMin s a)

theorem windowBad_congr {s t : State} {a : Axis}
    (h : ∀ g : Fld, (∀ b : Axis, g.addr ≠ (F.BK_STAT.WIN_BAD b).addr) → 0x3f0000 ≤ g.addr → t.get g = s.get g) : windowBad t a = windowBad s a := by
  unfold windowBad State.flag travelMin travelMax State.wide
  rw [h, h, h, h, h]
  all_goals dsimp only; omega

theorem judgeWindows_get (s : State) (a : Axis) : (judgeWindows s).get (F.BK_STAT.WIN_BAD a) = bitOf (windowBad s a) := by
  refine State.each_reaches
    (I := fun t : State => ∀ g : Fld, (∀ b : Axis, g.addr ≠ (F.BK_STAT.WIN_BAD b).addr) → 0x3f0000 ≤ g.addr → t.get g = s.get g)
    (P := fun (a : Axis) (t : State) => t.get (F.BK_STAT.WIN_BAD a) = bitOf (windowBad s a))
    (g := fun (a : Axis) (s : State) => s.setB (F.BK_STAT.WIN_BAD a) (windowBad s a)) ?_ ?_ ?_ allAxes (fun _ _ _ => rfl) a (List.mem_finRange a)
  · exact fun x t ht g hg hb => (State.get_set_own _ _ (hg x)).trans (ht g hg hb)
  · intro x t ht
    rw [windowBad_congr ht]
    exact State.get_set_same _ _ _ (by simp) (by simp) (by cases windowBad s x <;> simp [bitOf])
  · intro x y t ht hy
    by_cases hxy : x = y
    · subst hxy
      rw [windowBad_congr ht]
      exact State.get_set_same _ _ _ (by simp) (by simp) (by cases windowBad s x <;> simp [bitOf])
    · refine (State.get_set_own _ _ ?_).trans hy
      have : x.val ≠ y.val := fun e => hxy (Fin.ext e)
      dsimp only
      omega

/-- The marks of a mode in turn. -/
def modeMarks (m trig : Nat) (s : State) : List (Fld × Nat) :=
  [(F.MODE_STAT.MODE, m), (F.MODE_STAT.PREV_MODE, s.mode), (F.MODE_STAT.LAST_TRIG, trig)]
    ++ if trig = 1 then [] else [(F.MODE_STAT.MODE_EVT, 1)]

theorem modeMarked_sets (m trig : Nat) (s : State) : modeMarked m trig s = s.sets (modeMarks m trig s) := by
  unfold modeMarked modeMarks
  split <;> rfl

theorem modeMarked_get (m trig : Nat) (s : State) {g : Fld} (hg : g.addr ≠ F.MODE_STAT.all.addr) :
    (modeMarked m trig s).get g = s.get g := by
  rw [modeMarked_sets]
  refine State.get_sets_apart _ _ _ fun p hp => Or.inl ?_
  unfold modeMarks at hp
  split at hp <;> simp only [List.mem_append, List.mem_cons, List.not_mem_nil, or_false] at hp
  · rcases hp with rfl | rfl | rfl <;> exact hg
  · rcases hp with (rfl | rfl | rfl) | rfl <;> exact hg

/-- The windows after the exit from CONFIG (R498). -/
theorem modeTaken_window (m trig : Nat) (s : State) (h : s.mode = 2) (a : Axis) :
    (takeMode m trig s).get (F.BK_STAT.WIN_BAD a) = bitOf (windowBad s a) := by
  rw [takeMode_eq, (modeTaken_within m s.mode (modeMarked m trig s)).fields _ fun b _ f hf => Or.inl (hf.2 a).symm]
  unfold windowsLeft
  rw [if_pos h, judgeWindows_get, windowBad_congr (s := s) fun g _ hb => ?_]
  exact modeMarked_get _ _ _ (by dsimp only; omega)

/-! What a mode that is taken shows -/

theorem mode_lt (s : State) : s.mode < 8 := by
  have := get_le_max s F.MODE_STAT.MODE
  simp only [fieldMax] at this
  unfold State.mode
  omega

theorem takeMode_shows {m trig : Nat} {s : State} (hm : m < 8) (ht : trig < 16) : (takeMode m trig s).mode = m
    ∧ (takeMode m trig s).get F.MODE_STAT.PREV_MODE = s.mode ∧ (takeMode m trig s).get F.MODE_STAT.LAST_TRIG = trig
    ∧ (takeMode m trig s).get F.MODE_STAT.TRANSIT = s.get F.MODE_STAT.TRANSIT
    ∧ (takeMode m trig s).get F.MODE_STAT.MODE_EVT = if trig = 1 then s.get F.MODE_STAT.MODE_EVT else 1 := by
  have hg : ∀ g : Fld, g.addr = F.MODE_STAT.all.addr → (takeMode m trig s).get g = (s.sets (modeMarks m trig s)).get g := fun g h => by
    rw [takeMode_eq, modeTaken_get _ _ _ h, modeMarked_sets]
  have hv : ∀ p ∈ modeMarks m trig s, p.1.holds p.2 := by
    have := mode_lt s
    unfold modeMarks
    split <;> simp [Fld.holds] <;> omega
  have hl : (modeMarks m trig s).Pairwise fun p q => p.1.apart q.1 := by
    unfold modeMarks
    split <;> simp [Fld.apart]
  have hset := State.get_sets_mem s _ hv hl
  refine ⟨(hg F.MODE_STAT.MODE rfl).trans (hset (_, m) ?_),
    (hg F.MODE_STAT.PREV_MODE rfl).trans (hset (_, s.mode) ?_), (hg F.MODE_STAT.LAST_TRIG rfl).trans (hset (_, trig) ?_),
    (hg F.MODE_STAT.TRANSIT rfl).trans (State.get_sets_apart _ _ _ ?_), (hg F.MODE_STAT.MODE_EVT rfl).trans ?_⟩
  · simp [modeMarks]
  · simp [modeMarks]
  · simp [modeMarks]
  · unfold modeMarks
    split <;> simp [Fld.apart]
  · split
    case isTrue h => exact State.get_sets_apart _ _ _ (by simp [modeMarks, h, Fld.apart])
    case isFalse h => exact hset (F.MODE_STAT.MODE_EVT, 1) (by simp [modeMarks, h])

end Sys2Proof.Machine

namespace Sys2Proof.Machine

/-! Commands that retire leave the queue -/

theorem logRetire_cmdq (c : QCmd) (o : Outc) (s : State) : (logRetire c o s).ip.cmdq = s.ip.cmdq := by
  unfold logRetire
  dsimp only
  split <;> rfl

theorem flushLedger_cmdq (e : List (QCmd × Option Outc)) (s : State) : (flushLedger e s).ip.cmdq = s.ip.cmdq := by
  induction e generalizing s with
  | nil => rfl
  | cons x rest ih =>
    obtain ⟨c, o⟩ := x
    cases o with
    | none => rfl
    | some o => exact (ih _).trans (logRetire_cmdq _ _ _)

theorem retireAll_cmdq (m : List (BitVec 16)) (o : Outc) (s : State) : (retireAll m o s).ip.cmdq = s.ip.cmdq := by
  induction m generalizing s with
  | nil => rfl
  | cons q m ih => exact (ih _).trans (flushLedger_cmdq _ _)

theorem cancelAll_cmdq (s : State) : (cancelAll s).ip.cmdq = [] := retireAll_cmdq _ _ _

/-! ### Entry to SAFE -/

theorem cancelAll_safe {a : Axis} {p : Option Int} {s : State} (h : SafeHeld a p s) : SafeHeld a p (cancelAll s) := by
  have hw : Within recordScope allAxes s (cancelAll s) := cancelAll_within Scope.le_rfl (.refl _ _ _)
  have hm : (cancelAll s).mot a = s.mot a := by
    have := congrArg AxisSt.mot (hw.own a)
    exact this
  refine h.of_kept (fun g hg => hw.fields g fun b _ f hf => Or.inl ?_) ?_ ?_ ?_
  · have h1 := plannerField_low hf
    have h2 := engineBlock_bounds (safeFields_engineBlock a g hg)
    omega
  all_goals rw [hm]

theorem cancelLocker_safe {a : Axis} {p : Option Int} {s : State} (h : SafeHeld a p s) : SafeHeld a p (cancelLocker s) := by
  refine h.of_kept (fun g hg => ?_) rfl rfl rfl
  have hb := engineBlock_bounds (safeFields_engineBlock a g hg)
  exact (State.get_set_own _ _ (by dsimp only; omega)).trans rfl

/-- Entry to SAFE holds every axis that is on, empties the queue and ends the work in hand (R353, R507). -/
theorem modeEntered_safe (v : State) : (modeEntered 7 v).ip.cmdq = [] ∧ (modeEntered 7 v).lk.arm = none
    ∧ (modeEntered 7 v).lk.apply = none ∧ ∀ a : Axis, v.axOn a = true → SafeHeld a (heldAt v a) (modeEntered 7 v) := by
  have he : modeEntered 7 v = refreshAll (enterSafe v) := by rw [modeEntered, if_pos rfl]
  have hw : Within motionScope allAxes (enterSafe v) (refreshAll (enterSafe v)) := refreshAll_within (.refl _ _ _)
  have h1 : (refreshAll (enterSafe v)).ip = (enterSafe v).ip := by
    have := congrArg State.ip hw.side
    exact this
  have h2 : (refreshAll (enterSafe v)).lk = (enterSafe v).lk := by
    have := congrArg State.lk hw.side
    exact this
  rw [he, h1, h2]
  exact ⟨cancelAll_cmdq _, rfl, rfl, fun a hon => refreshAll_safe (cancelLocker_safe (cancelAll_safe (safeAxes_held v hon)))⟩

/-! ### What a mode that is taken leaves alone -/

section
variable {m trig : Nat} {s : State}

theorem modeMarked_within (m trig : Nat) (s : State) : Within exitScope allAxes s (modeMarked m trig s) := by
  have ha : (0 : Axis) ∈ allAxes := List.mem_finRange 0
  have hf : ∀ f : Fld, f.addr = F.MODE_STAT.all.addr → exitScope.fields 0 f := fun f h =>
    ⟨by rw [h]; decide, fun b => by rw [h]; dsimp only; omega⟩
  have h := (((Within.refl exitScope allAxes s).set m ha (hf F.MODE_STAT.MODE rfl)).set s.mode ha (hf F.MODE_STAT.PREV_MODE rfl)).set trig ha
    (hf F.MODE_STAT.LAST_TRIG rfl)
  exact .ite h (h.set 1 ha (hf F.MODE_STAT.MODE_EVT rfl))

theorem modeExit_within (m trig : Nat) (s : State) : Within exitScope allAxes s (modeLeft s.mode (modeMarked m trig s)) :=
  (modeMarked_within m trig s).trans (modeLeft_within s.mode _)

variable {r v : State} (h : Within exitScope allAxes r v)
include h

theorem exitScope_mot (a : Axis) : v.mot a = r.mot a := by
  have := congrArg AxisSt.mot (h.own a)
  exact this

theorem exitScope_ip : v.ip = r.ip := by
  have := congrArg State.ip h.side
  exact this

theorem exitScope_axOn (a : Axis) : v.axOn a = r.axOn a := by
  have hp : v.pw = r.pw := by
    have := congrArg State.pw h.side
    exact this
  have hr : v.rst = r.rst := by
    have := congrArg State.rst h.side
    exact this
  unfold State.axOn State.pd State.blockHeld
  rw [hp, hr, h.fields F.BLK_RST_STAT.BLK_HUNG fun b _ f hf => Or.inl (Ne.symm hf.1)]

theorem exitScope_heldAt (a : Axis) : heldAt v a = heldAt r a := by
  unfold heldAt State.axState
  rw [exitScope_mot h a, h.fields (F.AX_STATE.STATE a) fun b _ f hf => Or.inl (Ne.symm (hf.2 a))]

omit h in
/-- A mode other than HALT and SAFE leaves the motion and the interpreter alone. -/
theorem takeMode_calm (h6 : m ≠ 6) (h7 : m ≠ 7) : (takeMode m trig s).ip = s.ip ∧ ∀ a : Axis, MotionKept a s (takeMode m trig s) := by
  have hx := modeExit_within m trig s
  have hw : Within motionScope allAxes (modeLeft s.mode (modeMarked m trig s)) (takeMode m trig s) := by
    rw [takeMode_eq, modeEntered, if_neg h7, if_neg h6]
    exact refreshAll_within (.refl _ _ _)
  refine ⟨?_, fun a => ?_⟩
  · have hi : (takeMode m trig s).ip = (modeLeft s.mode (modeMarked m trig s)).ip := by
      have := congrArg State.ip hw.side
      exact this
    exact hi.trans (exitScope_ip hx)
  · have := hw.motionKept motionScope_motion a
    rwa [MotionKept, exitScope_mot hx a] at this

end

/-! ### The end of a transition -/

/-- What the work on a mode does not touch beside axes, records and channels. -/
theorem modeScope_rest {r u : State} {l : List Axis} (h : Within modeScope l r u) :
    u.now = r.now ∧ u.pw = r.pw ∧ u.lk.cells = r.lk.cells ∧ u.whReq = r.whReq := by
  have h1 := congrArg State.now h.side
  have h2 := congrArg State.pw h.side
  have h3 := congrArg (fun s : State => s.lk.cells) h.side
  have h4 := congrArg State.whReq h.side
  exact ⟨h1, h2, h3, h4⟩

theorem takeMode_rest (m trig : Nat) (s : State) : (takeMode m trig s).now = s.now ∧ (takeMode m trig s).pw = s.pw
    ∧ (takeMode m trig s).lk.cells = s.lk.cells ∧ (takeMode m trig s).whReq = s.whReq := by
  have h := modeScope_rest (modeTaken_within m s.mode (modeMarked m trig s))
  have hx : Within exitScope allAxes s (windowsLeft s.mode (modeMarked m trig s)) :=
    (modeMarked_within m trig s).trans (.ite (judgeWindows_within windowScope_le_exitScope (.refl _ _ _)) (.refl _ _ _))
  have h1 := congrArg State.now hx.side
  have h2 := congrArg State.pw hx.side
  have h3 := congrArg (fun s : State => s.lk.cells) hx.side
  have h4 := congrArg State.whReq hx.side
  obtain ⟨k1, k2, k3, k4⟩ := h
  exact ⟨k1.trans h1, k2.trans h2, k3.trans h3, k4.trans h4⟩

/-- The transition in hand is over (R506). -/
def State.arrived (s : State) : State :=
  { s with pw := { s.pw with transit := none, autoNext := none } }.setB F.MODE_STAT.TRANSIT s.pw.sleepPend.isSome

theorem modeTransitDone_takes {s : State} {m : BitVec 3} {trig : Nat} (ht : s.pw.transit = some (m, trig)) (hn : s.pw.autoNext = none) :
    modeTransitDone s = takeMode m.toNat trig s.arrived := by
  unfold modeTransitDone
  rw [ht]
  dsimp only
  split
  case h_1 h => rw [hn] at h; cases h
  case h_2 => rfl

theorem arrived_pw {s : State} (hn : s.pw.autoNext = none) : s.arrived.pw = { s.pw with transit := none } := by
  have : s.arrived.pw = { s.pw with transit := none, autoNext := none } := rfl
  rw [this, ← hn]

theorem arrived_get (s : State) {g : Fld} (hg : g.apart F.MODE_STAT.TRANSIT) : s.arrived.get g = s.get g :=
  (State.get_set_other _ _ _ _ hg).trans rfl

theorem arrived_transit (s : State) : s.arrived.get F.MODE_STAT.TRANSIT = if s.pw.sleepPend.isSome then 1 else 0 := by
  refine (State.get_set_same _ _ _ (by simp) (by simp) ?_).trans ?_
  · cases s.pw.sleepPend.isSome <;> simp [bitOf]
  · cases s.pw.sleepPend.isSome <;> rfl

theorem modeTransitDone_stays {s : State} (hq : s.whReq = []) (t0 : Nat) (h : s.pw.transit = none) :
    Does (.modeTransitDone t0) s (s.at_ t0) [] [] := by
  refine does_nothing (f := timed t0 modeTransitDone) rfl hq rfl ?_
  unfold timed modeTransitDone
  rw [show ((begun s).at_ t0).pw.transit = none from h]
  rfl

theorem takeMode_safe (trig : Nat) (v : State) : (takeMode 7 trig v).ip.cmdq = [] ∧ (takeMode 7 trig v).lk.arm = none
    ∧ (takeMode 7 trig v).lk.apply = none ∧ ∀ a : Axis, v.axOn a = true → SafeHeld a (heldAt v a) (takeMode 7 trig v) := by
  have hx := modeExit_within 7 trig v
  rw [takeMode_eq]
  obtain ⟨h1, h2, h3, h4⟩ := modeEntered_safe (modeLeft v.mode (modeMarked 7 trig v))
  refine ⟨h1, h2, h3, fun a hon => ?_⟩
  rw [← exitScope_heldAt hx a]
  exact h4 a ((exitScope_axOn hx a).trans hon)

theorem settle_arm (u : State) : (settle u).lk.arm = u.lk.arm := by rw [(settle_eq u).1]
theorem settle_apply (u : State) : (settle u).lk.apply = u.lk.apply := by rw [(settle_eq u).1]

theorem SafeHeld.settled {a : Axis} {p : Option Int} {u : State} (h : SafeHeld a p u) : SafeHeld a p (settle u) :=
  h.of_kept (fun g _ => settle_get u g) (by rw [settle_mot]) (by rw [settle_mot]) (by rw [settle_mot])

/-- A transition ends in its mode (R504, R506, R507, R510). -/
theorem modeTransitDone_ends {s : State} (hq : s.whReq = []) (t0 : Nat) (m : BitVec 3) (trig : Nat)
    (ht : s.pw.transit = some (m, trig)) (hn : s.pw.autoNext = none) (htr : trig < 16) :
    Completes (.modeTransitDone t0) s fun t => t.now = max s.now t0 ∧ t.pw = { s.pw with transit := none } ∧ t.mode = m.toNat
      ∧ t.get F.MODE_STAT.PREV_MODE = s.mode ∧ t.get F.MODE_STAT.LAST_TRIG = trig ∧ t.lk.cells = s.lk.cells
      ∧ t.get F.MODE_STAT.TRANSIT = (if s.pw.sleepPend.isSome then 1 else 0)
      ∧ t.get F.MODE_STAT.MODE_EVT = (if trig = 1 then s.get F.MODE_STAT.MODE_EVT else 1)
      ∧ (s.mode = 2 → ∀ a : Axis, t.get (F.BK_STAT.WIN_BAD a) =
          if s.get (F.BK_CFG.TRAVEL_EN a) = 1 ∧ travelMax s a ≤ travelMin s a then 1 else 0)
      ∧ (m ≠ 6 → m ≠ 7 → t.ip = s.ip ∧ ∀ a : Axis, MotionKept a s t)
      ∧ (m = 7 → t.ip.cmdq = [] ∧ t.lk.arm = none ∧ t.lk.apply = none ∧ ∀ a : Axis, s.axOn a = true →
          t.get (F.AX_STATE.SAFE_HELD a) = 1 ∧ (s.axState a ≠ 6 → HeldOff a (s.mot a).pos t)) := by
  set v := ((begun s).at_ t0).arrived with hv
  have hx : timed t0 modeTransitDone (begun s) = takeMode m.toNat trig v := modeTransitDone_takes (s := (begun s).at_ t0) ht hn
  have hg : ∀ g : Fld, g.apart F.MODE_STAT.TRANSIT → v.get g = s.get g := fun g h => arrived_get ((begun s).at_ t0) h
  have hpw : v.pw = { s.pw with transit := none } := arrived_pw (s := (begun s).at_ t0) hn
  have htr' : v.get F.MODE_STAT.TRANSIT = if s.pw.sleepPend.isSome then 1 else 0 := arrived_transit ((begun s).at_ t0)
  have hnow : v.now = max s.now t0 := rfl
  have hcells : v.lk.cells = s.lk.cells := rfl
  have hwr : v.whReq = s.whReq := rfl
  have hip : v.ip = s.ip := rfl
  have hax : v.axes = s.axes := rfl
  have hon : ∀ a, v.axOn a = s.axOn a := fun a => by
    unfold State.axOn State.pd State.blockHeld
    rw [hpw, hg _ (by simp [Fld.apart])]
    rfl
  have hmode : v.mode = s.mode := hg _ (by simp [Fld.apart])
  clear_value v
  have hmot : ∀ a, v.mot a = s.mot a := fun a => by simp only [State.mot, State.ax, hax]
  have hst : ∀ a, v.axState a = s.axState a := fun a => hg _ (Or.inl (by dsimp only; omega))
  have hwb : ∀ a, windowBad v a = windowBad s a := fun a => windowBad_congr fun g _ hb => hg g (Or.inl (by dsimp only; omega))
  obtain ⟨r1, r2, r3, r4⟩ := takeMode_rest m.toNat trig v
  obtain ⟨s1, s2, s3, s4, s5⟩ := takeMode_shows (s := v) m.isLt htr
  refine completes_to (f := timed t0 modeTransitDone) rfl hx (r4.trans (hwr.trans hq)) ⟨?_, ?_, ?_, ?_, ?_, ?_, ?_, ?_, fun h2 a => ?_,
    fun h6 h7 => ?_, fun h7 => ?_⟩
  · rw [settle_now, r1, hnow]
  · rw [settle_pw, r2, hpw]
  · exact (settle_get _ _).trans s1
  · rw [settle_get, s2, hmode]
  · rw [settle_get, s3]
  · rw [settle_cells, r3, hcells]
  · rw [settle_get, s4, htr']
  · rw [settle_get, s5, hg _ (by simp [Fld.apart])]
  · rw [settle_get, modeTaken_window _ _ _ (hmode.trans h2), hwb]
    simp only [windowBad, bitOf, Bool.and_eq_true, decide_eq_true_eq, flag_eq_true_iff s (F.BK_CFG.TRAVEL_EN a) rfl]
  · obtain ⟨c1, c2⟩ := takeMode_calm (m := m.toNat) (trig := trig) (s := v) (fun e => h6 (BitVec.eq_of_toNat_eq e))
      (fun e => h7 (BitVec.eq_of_toNat_eq e))
    refine ⟨?_, fun a => ?_⟩
    · rw [settle_ip, c1, hip]
    · have := c2 a
      rw [MotionKept, hmot] at this
      exact MotionKept.settled this
  · obtain ⟨k1, k2, k3, k4⟩ := takeMode_safe trig v
    rw [h7]
    refine ⟨?_, ?_, ?_, fun a ha => ?_⟩
    · rw [settle_ip]; exact k1
    · rw [settle_arm]; exact k2
    · rw [settle_apply]; exact k3
    · obtain ⟨hh, hoff⟩ := (k4 a ((hon a).trans ha)).settled
      refine ⟨hh, fun h6 => hoff _ ?_⟩
      unfold heldAt
      rw [hst, hmot, if_neg h6]

end Sys2Proof.Machine

namespace Sys2Proof.Machine

/-! ### Registers after a reset -/

/-- What holds of the reset word and of every word a reset leaves holds of the register. -/
theorem rfGet_levelRegs {P : Word → Prop} {lvl a : Nat} (h0 : P (resetWord a)) (h : ∀ w, P (levelWord lvl a w)) (l : List (Nat × Word)) :
    P (rfGet (levelRegs lvl l) a) := by
  unfold levelRegs
  induction l with
  | nil => exact h0
  | cons e l ih =>
    rw [List.filterMap_cons]
    dsimp only
    split
    case h_1 => exact ih
    case h_2 x hx =>
      split at hx
      · cases hx
      · obtain rfl := Option.some.inj hx
        unfold rfGet
        split
        case isTrue ha => exact ha ▸ h _
        case isFalse => exact ih

theorem rfGet_filter (p : Nat → Bool) (l : List (Nat × Word)) (a : Nat) :
    rfGet (l.filter fun e => p e.1) a = if p a then rfGet l a else resetWord a := by
  induction l with
  | nil => simp [rfGet]
  | cons e l ih =>
    obtain ⟨b, w⟩ := e
    rw [List.filter_cons]
    by_cases hb : p b = true
    · rw [if_pos hb]
      simp only [rfGet]
      by_cases hba : b = a
      · rw [if_pos hba, if_pos hba, if_pos (hba ▸ hb)]
      · rw [if_neg hba, if_neg hba, ih]
    · rw [if_neg hb, ih]
      by_cases hba : b = a
      · subst hba
        rw [if_neg hb, if_neg hb]
      · simp only [rfGet, if_neg hba]

/-- The register of the mode. -/
def modeRow : RegRow :=
  ⟨.MODE_STAT, 0x500, 1, 0, 1, 0, 0, [⟨2, 0, .ro, 1, 2, 0, 7⟩, ⟨3, 3, .ro, 0, 2, 0, 1⟩, ⟨6, 4, .ro, 0, 2, 0, 7⟩,
    ⟨7, 7, .live, 0, 2, 0, 1⟩, ⟨11, 8, .ro, 0, 2, 0, 15⟩, ⟨12, 12, .w1c, 0, 2, 0, 1⟩]⟩

theorem regAt_mode : regAt 0x500 = some (modeRow, 0, 0) := rfl

/-- The mode is BOOT after a reset at level 2 (R18, R530). -/
theorem levelWord_mode (w : Word) : getBits (levelWord 2 0x500 w) 2 0 = 1 := by
  have h : levelWord 2 0x500 w = putBits (putBits (putBits (putBits (putBits (putBits w 2 0 1) 3 3 0) 6 4 0) 7 7 0) 11 8 0) 12 12 0 := by
    unfold levelWord
    rw [if_neg (by decide), regAt_mode]
    rfl
  rw [h, getBits_putBits_other _ _ _ _ _ _ (by decide), getBits_putBits_other _ _ _ _ _ _ (by decide),
    getBits_putBits_other _ _ _ _ _ _ (by decide), getBits_putBits_other _ _ _ _ _ _ (by decide),
    getBits_putBits_other _ _ _ _ _ _ (by decide)]
  exact getBits_putBits_same _ _ _ _ (by decide) (by decide) (by decide)

theorem resetWord_mode : getBits (resetWord 0x500) 2 0 = 1 := by
  unfold resetWord
  rw [if_neg (by decide), regAt_mode]
  rfl

theorem reset_mode : State.reset.mode = 1 := resetWord_mode

theorem deepReset_mode (s : State) : (deepReset 2 s).mode = 1 :=
  rfGet_levelRegs (P := fun w => getBits w 2 0 = 1) resetWord_mode levelWord_mode s.regs

theorem fresh_fresh (x : AxisSt) : x.fresh.fresh = x.fresh := rfl

/-- The member role of a device whose link registers are as after reset. -/
theorem resetWord_role : getBits (resetWord 0x3c0004) 1 0 = 0 := rfl

/-! ### A reset trigger -/

/-- The fields of a cause of reset, in turn (R526). -/
def causeFields (cause detail : Nat) : List (Fld × Nat) :=
  [(F.RST_CAUSE.CAUSE, cause), (F.RST_CAUSE.LEVEL, 2), (F.RST_CAUSE.DETAIL, detail)]

/-- The part is held in a reset of level 2 (R528). -/
def State.stretched (s : State) : State := { s with rst := { s.rst with boot := .stretch, level := 2, restart := false } }

theorem resetTrigger_deep {s : State} (cause detail : Nat) (hl : levelNow s = none) (hr : s.get F.CV_STAT.ROLE ≠ 1) (hc : cause ≠ 1) :
    resetTrigger cause 2 detail s =
      (((deepReset 2 s).sets (causeFields cause detail)).inc F.RST_CAUSE.RST_CNT).stretched := by
  have hn : ¬ ((2 : Nat) = 2 ∧ isCaptain s = true ∧ s.flag F.CV_CFG.RST_PROPAGATE = true) := by
    rintro ⟨-, h, -⟩
    exact hr (by simpa [isCaptain] using h)
  unfold resetTrigger
  rw [hl]
  dsimp only
  rw [if_neg hn, if_pos (Nat.le_refl 2), if_neg hc]
  rfl

theorem stretched_get (x : State) (g : Fld) : x.stretched.get g = x.get g := rfl

/-- A state held in a reset with its cause. -/
def State.caused (w : State) (cause detail : Nat) : State := ((w.sets (causeFields cause detail)).inc F.RST_CAUSE.RST_CNT).stretched

theorem caused_rest (w : State) (cause detail : Nat) :
    w.caused cause detail = { w.stretched with regs := (w.caused cause detail).regs } := by
  have h : ∀ x : State, x = { w with regs := x.regs } →
      (x.inc F.RST_CAUSE.RST_CNT).stretched = { w.stretched with regs := (x.inc F.RST_CAUSE.RST_CNT).stretched.regs } := fun x hx => by
    rw [hx]
    rfl
  exact h _ (State.sets_eq _ _)

theorem caused_get (w : State) (cause detail : Nat) {g : Fld} (hg : g.apart F.RST_CAUSE.RST_CNT) :
    (w.caused cause detail).get g = (w.sets (causeFields cause detail)).get g := by
  unfold State.caused State.inc State.count
  generalize w.sets (causeFields cause detail) = x
  rw [stretched_get, State.get_set_other _ _ _ _ hg]

theorem caused_mode (w : State) (cause detail : Nat) : (w.caused cause detail).mode = w.mode :=
  (caused_get w cause detail (by simp [Fld.apart])).trans (State.get_sets_apart _ _ _ (by simp [causeFields, Fld.apart]))

theorem caused_cause (w : State) {cause detail : Nat} (h1 : cause < 32) (h2 : detail < 16) :
    ∀ p ∈ causeFields cause detail, (w.caused cause detail).get p.1 = p.2 := by
  intro p hp
  have ha : p.1.apart F.RST_CAUSE.RST_CNT := by
    simp only [causeFields, List.mem_cons, List.not_mem_nil, or_false] at hp
    rcases hp with rfl | rfl | rfl <;> simp [Fld.apart]
  rw [caused_get w cause detail ha]
  exact State.get_sets_mem _ _ (by simp [causeFields, Fld.holds]; omega) (by simp [causeFields, Fld.apart]) p hp

/-- A state held in a reset at level 2 with its cause (R525, R526, R530). -/
theorem caused_deepReset (s : State) {cause detail : Nat} (h1 : cause < 32) (h2 : detail < 16) :
    DeepReset cause 2 detail s (settle ((deepReset 2 s).caused cause detail)) := by
  have hm := (caused_mode (deepReset 2 s) cause detail).trans (deepReset_mode s)
  have hg := caused_cause (deepReset 2 s) h1 h2
  have hrest := caused_rest (deepReset 2 s) cause detail
  simp only [causeFields, List.forall_mem_cons] at hg
  obtain ⟨g1, g2, g3, -⟩ := hg
  generalize (deepReset 2 s).caused cause detail = u at hm g1 g2 g3 hrest
  have hs := (settle_eq u).1
  have hgs : ∀ g : Fld, (settle u).get g = u.get g := settle_get u
  generalize settle u = t at hs hgs
  refine ⟨?_, ?_, ?_, ?_, ?_, ?_, ?_⟩
  · rw [hs, hrest]; rfl
  · rw [hs, hrest]; rfl
  · rw [hgs, g1]
  · rw [hgs, g2]
  · rw [hgs, g3]
  · exact (hgs _).trans (hm.trans reset_mode.symm)
  · rw [hs, hrest]
    exact ⟨rfl, rfl, rfl, rfl, rfl, rfl, rfl, rfl, rfl, rfl, rfl, rfl, rfl, rfl, rfl⟩

/-- A reset at level 2 that is triggered (R525, R526, R530). -/
theorem resetTrigger_deepReset {s : State} {cause detail : Nat} (hl : levelNow s = none) (hr : s.get F.CV_STAT.ROLE ≠ 1)
    (hc : cause ≠ 1) (h1 : cause < 32) (h2 : detail < 16) : DeepReset cause 2 detail s (settle (resetTrigger cause 2 detail s)) := by
  have hu : resetTrigger cause 2 detail s = (deepReset 2 s).caused cause detail := resetTrigger_deep cause detail hl hr hc
  rw [hu]
  exact caused_deepReset s h1 h2

end Sys2Proof.Machine

namespace Sys2Proof.Machine

/-! ### SLEEP -/

/-- The registers that stay powered in SLEEP (R516, R518). -/
def powered (l : List (Nat × Word)) : List (Nat × Word) := l.filter fun e => domainOf e.1 == 0

theorem rfGet_powered (l : List (Nat × Word)) (a : Nat) :
    rfGet (powered l) a = if domainOf a = 0 then rfGet l a else resetWord a := by
  have h := rfGet_filter (fun n => domainOf n == 0) l a
  simpa only [powered, beq_iff_eq] using h

/-- The part in SLEEP (R518, R520). -/
def State.slept (s : State) : State :=
  { deepReset 2 s with regs := powered s.regs, rst := { (deepReset 2 s).rst with boot := .done } }.set F.MODE_STAT.MODE 0

theorem sleepEntry_eq {s : State} {p : Port} {t : Nat} (h : s.pw.sleepPend = some (p, t)) (hb : s.sec.auditBuf = [])
    (edge : Option Bool) : sleepEntry edge s = match edge with
      | some whsl => wakeUp whsl (s.at_ t).slept
      | none => (s.at_ t).slept := by
  have hf : auditFlush (s.at_ t) = s.at_ t := by
    unfold auditFlush
    rw [show (s.at_ t).sec.auditBuf = [] from hb]
    rfl
  unfold sleepEntry
  rw [h]
  dsimp only
  rw [hf]
  cases edge <;> rfl

theorem slept_rest (s : State) : s.slept = { deepReset 2 s with
    regs := s.slept.regs
    rst := { (deepReset 2 s).rst with boot := .done } } := rfl

theorem slept_mode (s : State) : s.slept.mode = 0 := State.get_set_same _ _ _ (by simp) (by simp) (by simp)

theorem slept_get (s : State) {g : Fld} (hg : g.addr ≠ F.MODE_STAT.MODE.addr) :
    s.slept.get g = if domainOf g.addr = 0 then s.get g else getBits (resetWord g.addr) g.hi g.lo := by
  unfold State.slept
  rw [State.get_set_own _ _ hg]
  unfold State.get
  dsimp only
  rw [rfGet_powered]
  split <;> rfl

theorem slept_levelNow (s : State) : levelNow s.slept = none := rfl

theorem slept_role (s : State) : s.slept.get F.CV_STAT.ROLE ≠ 1 := by
  rw [slept_get s (by decide), if_neg (by decide), resetWord_role]
  decide

/-- An accepted SLEEP ends with `PD0` alone up (R518, R520). -/
theorem sleepEntry_sleeps {s : State} (hp : s.pw.sleepPend.isSome = true) (hb : s.sec.auditBuf = []) :
    Completes (.sleepEntry none) s fun t => t.mode = 0 ∧ t.pw.on = State.reset.pw.on ∧ t.ip = State.reset.ip ∧ t.rst.boot = .done
      ∧ t.axes = s.axes.map AxisSt.fresh ∧ t.sec.life = s.sec.life ∧ t.sec.keys = s.sec.keys ∧ t.sec.auditLog = s.sec.auditLog
      ∧ t.lk.cells = s.lk.cells ∧ ∀ g : Fld, g.addr ≠ F.MODE_STAT.MODE.addr →
          t.get g = if domainOf g.addr = 0 then s.get g else getBits (resetWord g.addr) g.hi g.lo := by
  obtain ⟨⟨p, t0⟩, hs⟩ := Option.isSome_iff_exists.mp hp
  have hx : sleepEntry none (begun s) = ((begun s).at_ t0).slept := sleepEntry_eq (s := begun s) hs hb none
  have hm := slept_mode ((begun s).at_ t0)
  have hg : ∀ g : Fld, g.addr ≠ F.MODE_STAT.MODE.addr → _ := fun g h => slept_get ((begun s).at_ t0) (g := g) h
  have hr := slept_rest ((begun s).at_ t0)
  generalize ((begun s).at_ t0).slept = u at hx hm hg hr
  refine completes_to (f := sleepEntry none) rfl hx (by rw [hr]; rfl) ?_
  have hu := (settle_eq u).1
  have hgs : ∀ g : Fld, (settle u).get g = u.get g := settle_get u
  generalize settle u = t at hu hgs
  refine ⟨(hgs _).trans hm, ?_, ?_, ?_, ?_, ?_, ?_, ?_, ?_, fun g h => ?_⟩
  · rw [hu, hr]; rfl
  · rw [hu, hr]; rfl
  · rw [hu, hr]
  · rw [hu, hr]; rfl
  · rw [hu, hr]; rfl
  · rw [hu, hr]; rfl
  · rw [hu, hr]; rfl
  · rw [hu, hr]; rfl
  · rw [hgs, hg g h]; rfl

/-- A part in SLEEP noting its wake is in no reset and no Captain. -/
theorem woken_resets (s : State) (src : Nat) : levelNow (s.slept.set F.PD_WAKE.LAST_WAKE src) = none
    ∧ (s.slept.set F.PD_WAKE.LAST_WAKE src).get F.CV_STAT.ROLE ≠ 1 := by
  refine ⟨rfl, ?_⟩
  rw [State.get_set_own _ _ (by decide)]
  exact slept_role s

theorem resetTrigger_whReq {s : State} {cause : Nat} (detail : Nat) (hl : levelNow s = none) (hr : s.get F.CV_STAT.ROLE ≠ 1)
    (hc : cause ≠ 1) : (resetTrigger cause 2 detail s).whReq = [] := by
  have hu : resetTrigger cause 2 detail s = (deepReset 2 s).caused cause detail := resetTrigger_deep cause detail hl hr hc
  rw [hu, caused_rest]
  rfl

theorem fresh_twice (x : Vector AxisSt 16) : (x.map AxisSt.fresh).map AxisSt.fresh = x.map AxisSt.fresh := by
  rw [Vector.map_map]
  rfl

/-- A reset out of SLEEP leaves what the reset before SLEEP would have left (R519, R530). -/
theorem DeepReset.of_slept {cause detail src t0 : Nat} {s t : State}
    (h : DeepReset cause 2 detail (((begun s).at_ t0).slept.set F.PD_WAKE.LAST_WAKE src) t) : DeepReset cause 2 detail s t := by
  obtain ⟨h1, h2, h3, h4, h5, h6, h7, h8, h9, h10, hx, h11, h12, h13, h14, h15, h16, h17, h18, h19, h20⟩ := h
  exact ⟨h1, h2, h3, h4, h5, h6, h7, h8, h9, h10, hx.trans (fresh_twice s.axes), h11, h12, h13, h14, h15, h16, h17, h18, h19, h20⟩

/-- A part in SLEEP that wakes is held in an L2 (R305, R519). -/
theorem wakeUp_slept {s : State} {whsl : Bool}
    (h : if whsl then s.get F.PD_WAKE.WAKE_WHSL = 1 else s.pw.supplies.getLsbD 2 = true) :
    wakeUp whsl s.slept = resetTrigger 8 2 (if whsl then 2 else 1) (s.slept.set F.PD_WAKE.LAST_WAKE (if whsl then 2 else 1)) := by
  have hw : (if whsl then s.slept.flag F.PD_WAKE.WAKE_WHSL else s.slept.pw.supplies.getLsbD 2) = true := by
    cases whsl with
    | true =>
      have : s.slept.get F.PD_WAKE.WAKE_WHSL = s.get F.PD_WAKE.WAKE_WHSL := slept_get s (by decide)
      exact (flag_eq_true_iff _ _ rfl).mpr (this.trans h)
    | false => exact h
  unfold wakeUp
  dsimp only
  rw [hw, if_neg]
  simp [asleep, slept_mode]

theorem sleepEntry_wakes {s : State} {whsl : Bool} (hp : s.pw.sleepPend.isSome = true) (hb : s.sec.auditBuf = [])
    (h : if whsl then s.get F.PD_WAKE.WAKE_WHSL = 1 else s.pw.supplies.getLsbD 2 = true) :
    Completes (.sleepEntry (some whsl)) s fun t => DeepReset 8 2 (if whsl then 2 else 1) s t := by
  obtain ⟨⟨p, t0⟩, hs⟩ := Option.isSome_iff_exists.mp hp
  have hx : sleepEntry (some whsl) (begun s) = _ := (sleepEntry_eq (s := begun s) hs hb (some whsl)).trans
    (wakeUp_slept (s := (begun s).at_ t0) h)
  obtain ⟨hl, hr⟩ := woken_resets ((begun s).at_ t0) (if whsl then 2 else 1)
  have hd := resetTrigger_deepReset (cause := 8) (detail := if whsl then 2 else 1) hl hr (by decide) (by decide) (by split <;> decide)
  refine completes_to (f := sleepEntry (some whsl)) rfl hx ?_ (hd.of_slept)
  exact resetTrigger_whReq _ hl hr (by decide)

theorem sleepEntry_stays {s : State} (hq : s.whReq = []) (h : s.pw.sleepPend = none) (edge : Option Bool) :
    Does (.sleepEntry edge) s s [] [] := by
  refine does_nothing (f := sleepEntry edge) rfl hq rfl ?_
  unfold sleepEntry
  rw [show (begun s).pw.sleepPend = none from h]

end Sys2Proof.Machine

namespace Sys2Proof.Machine

/-! ### Register writes as commands of their own -/

/-- A write has ended with a status (R360). -/
def State.ended (s : State) (code : Nat) : State := { s with ip := { s.ip with unlocked := false, wrStatus := BitVec.ofNat 8 code } }

/-- A command whose work ends in `v`, which is `u` but for registers and the flits sent. -/
theorem does_by {c : Instr} {f : State → State} {s u v : State} {l : List (Fld × Nat)} {more : List Fld} (hc : exec c s = runCmd f s)
    (hq : u.whReq = []) (hv : f (begun s) = v) (hb : v = { u with regs := v.regs, cv := { u.cv with tx := v.cv.tx } })
    (hk : KeepsFields (l.map Prod.fst ++ more) s v) (hl : ∀ p ∈ l, v.get p.1 = p.2) : Does c s u l more :=
  completes_to hc hv (by rw [hb]; exact hq) ⟨besideRegs_settle hb, hk.settled, fun p hp => (settle_get v _).trans (hl p hp)⟩

/-- A write that reaches the checks of register `row` (R367): `bk` is BACKSTOP_SET. -/
structure WriteReaches (bk : Bool) (addr : Nat) (row : RegRow) (i j : Nat) (s : State) : Prop where
  runs : s.ip.running = true
  inSpace : addr < 0x1000000
  block : inBk addr = bk
  powered : s.pd (domainOf addr) = true
  outsideWave : isWaveAddr addr = false
  found : regAt addr = some (row, i, j)

/-- A write as its checks see it, the unlock consumed (R371). -/
def wrAt (addr typ : Nat) (data : Word) (row : RegRow) (i j : Nat) (s : State) : RegWr :=
  wrOf (consumeUnlock s) row i j addr (wrMask typ data) (wrBits typ data)

section
variable {via : Port} {bk : Bool} {addr typ : Nat} {data : Word} {row : RegRow} {i j : Nat} {s : State}

theorem writeReg_reaches (h : WriteReaches bk addr row i j s) (ht : typ ≠ 3) (hid : row.id ≠ .SYS_UNLOCK) :
    writeReg via bk addr typ data s = checkedWrite via s.ip.unlocked (wrAt addr typ data row i j s) (consumeUnlock s) := by
  have hpd : (consumeUnlock s).pd (domainOf addr) = true := h.powered
  have hsp := h.inSpace
  unfold writeReg
  dsimp only
  rw [if_neg ht, if_neg (by omega), if_neg (by rw [h.block]; cases bk <;> simp), if_neg (by rw [h.block]; cases bk <;> simp),
    if_neg (not_not.mpr hpd), if_neg (by simp [h.outsideWave]), h.found]
  dsimp only
  rw [if_neg hid]
  rfl

theorem hostWrite_runs (h : s.ip.running = true) {t : State} {code : Nat} (hw : writeReg via bk addr typ data s = (t, code)) :
    hostWrite via bk addr typ data s =
      { countRefusal (ansCode code) t with ip := { (countRefusal (ansCode code) t).ip with wrStatus := BitVec.ofNat 8 code } } := by
  unfold hostWrite
  rw [if_neg (not_not.mpr h), hw]

/-- A write that passes its checks is performed (R336). -/
theorem hostWrite_performs (h : WriteReaches bk addr row i j s) (ht : typ ≠ 3) (hid : row.id ≠ .SYS_UNLOCK)
    (hk : rwkChanged row.fields (wrAt addr typ data row i j s).old (wrAt addr typ data row i j s).new = true →
      (s.mode = 2 ∨ s.mode = 3) ∧ s.ip.unlocked = true)
    (hr : fieldsInRange row.fields (wrMask typ data) (wrAt addr typ data row i j s).new = true)
    (hc : crossLegal (consumeUnlock s) (wrAt addr typ data row i j s) = true)
    (ha : stateAdmits (consumeUnlock s) (wrAt addr typ data row i j s) = true) {v : State}
    (hv : performWrite via (wrAt addr typ data row i j s) (consumeUnlock s) = v) :
    hostWrite via bk addr typ data s = { v with ip := { v.ip with wrStatus := 0 } } := by
  have hp := checkedWrite_passes (via := via) (unlocked := s.ip.unlocked) (w := wrAt addr typ data row i j s) (s := consumeUnlock s)
    hk hr hc ha
  rw [hv] at hp
  exact hostWrite_runs h.runs ((writeReg_reaches h ht hid).trans hp)

/-- A write that is refused leaves the count of refusals and its status (R360). -/
theorem hostWrite_refuses (h : WriteReaches bk addr row i j s) (ht : typ ≠ 3) (hid : row.id ≠ .SYS_UNLOCK) {code : Nat} (hc : 0x10 ≤ code)
    (hw : checkedWrite via s.ip.unlocked (wrAt addr typ data row i j s) (consumeUnlock s) = (consumeUnlock s, code)) :
    hostWrite via bk addr typ data s =
      (s.ended code).sets [(F.CMD_REFUSE.REFUSE_CNT, counted s F.CMD_REFUSE.REFUSE_CNT), (F.CMD_REFUSE.LAST_CODE, code)] := by
  rw [hostWrite_runs h.runs ((writeReg_reaches h ht hid).trans hw)]
  have hn : counted (consumeUnlock s) F.CMD_REFUSE.REFUSE_CNT = counted s F.CMD_REFUSE.REFUSE_CNT := rfl
  have hr : countRefusal (ansCode code) (consumeUnlock s) = (consumeUnlock s).sets
      [(F.CMD_REFUSE.REFUSE_CNT, counted (consumeUnlock s) F.CMD_REFUSE.REFUSE_CNT), (F.CMD_REFUSE.LAST_CODE, code)] := if_pos hc
  rw [hr, hn]
  exact State.sets_commute (f := fun x => { x with ip := { x.ip with wrStatus := BitVec.ofNat 8 code } }) (fun _ _ _ => rfl) _ _

end

/-- A refused write as a command (R360). -/
theorem does_refused {c : Instr} {f : State → State} {s : State} {code : Nat} (hc : exec c s = runCmd f s) (hq : s.whReq = [])
    (hcode : code < 256) (hf : f (begun s) = ((begun s).ended code).sets
      [(F.CMD_REFUSE.REFUSE_CNT, counted s F.CMD_REFUSE.REFUSE_CNT), (F.CMD_REFUSE.LAST_CODE, code)]) :
    Does c s (s.ended code) [(F.CMD_REFUSE.REFUSE_CNT, counted s F.CMD_REFUSE.REFUSE_CNT), (F.CMD_REFUSE.LAST_CODE, code)] [] := by
  have hn := counted_holds s (f := F.CMD_REFUSE.REFUSE_CNT) (by simp) (by simp)
  have hl : F.CMD_REFUSE.LAST_CODE.holds code := ⟨by simp, by simp, hcode⟩
  refine does_of _ hc hq rfl hf ?_ (by simp [Fld.apart])
  simp only [List.forall_mem_cons]
  exact ⟨hn, hl, by simp⟩

/-! ### Checks that refuse -/

section
variable {via : Port} {unlocked : Bool} {w : RegWr} {s : State}

theorem checkedWrite_wrongMode (hk : rwkChanged w.row.fields w.old w.new = true) (hm : ¬ (s.mode = 2 ∨ s.mode = 3)) :
    checkedWrite via unlocked w s = (s, 0x20) := by
  unfold checkedWrite
  exact if_pos ⟨hk, fun h => hm (Or.inl h), fun h => hm (Or.inr h)⟩

theorem checkedWrite_range (hk : rwkChanged w.row.fields w.old w.new = false) (hid : w.row.id ≠ .AX_PWM_CTRL)
    (hc : crossLegal s w = false) : checkedWrite via unlocked w s = (s, 0x12) := by
  unfold checkedWrite
  dsimp only
  rw [if_neg (by simp [hk]), if_pos (Or.inr (by simp [hc])), if_neg hid]
  rfl

theorem checkedWrite_busy (hk : rwkChanged w.row.fields w.old w.new = false) (hid : w.row.id ≠ .WT_CTRL)
    (hr : fieldsInRange w.row.fields w.mask w.new = true) (hc : crossLegal s w = true) (ha : stateAdmits s w = false) :
    checkedWrite via unlocked w s = (s, 0x21) := by
  unfold checkedWrite
  dsimp only
  rw [if_neg (by simp [hk]), if_neg (by simp [hr, hc]), if_neg (by simp [hk]), if_pos (by simp [ha]), if_neg hid]
  rfl

end

/-! ### Writes of one field -/

/-- The data of a write of one field in bits 15:0 (R362). -/
def fieldData (f : Fld) (v : Nat) : Word := (fieldMask f.hi f.lo <<< 16) ||| putBits 0 f.hi f.lo v

theorem wrMask_fieldData (f : Fld) (v : Nat) (hf : f.hi < 16) : wrMask 1 (fieldData f v) = fieldMask f.hi f.lo := by
  refine BitVec.eq_of_getLsbD_eq fun k hk => ?_
  simp only [wrMask, fieldData, BitVec.getLsbD_ushiftRight, BitVec.getLsbD_or, BitVec.getLsbD_shiftLeft]
  rw [fieldMask_getLsbD _ _ _ hk]
  by_cases h : 16 + k < 32
  · rw [putBits_getLsbD _ _ _ _ _ h, if_neg (by omega), fieldMask_getLsbD _ _ _ (by omega : 16 + k - 16 < 32)]
    simp [h]
  · have h1 : ∀ w : Word, w.getLsbD (16 + k) = false := fun w => BitVec.getLsbD_of_ge _ _ (by omega)
    have h2 : ¬ k ≤ f.hi := by omega
    simp [h, h1, h2]

theorem halfWord_getLsbD (k : Nat) : (0xFFFF : Word).getLsbD k = decide (k < 16) := by
  have : (0xFFFF : Word) = BitVec.ofNat 32 (2 ^ 16 - 1) := rfl
  rw [this, BitVec.getLsbD_ofNat, Nat.testBit_two_pow_sub_one]
  by_cases h : k < 16 <;> simp [h]
  omega

theorem wrBits_fieldData (f : Fld) (v : Nat) (hf : f.hi < 16) : wrBits 1 (fieldData f v) = putBits 0 f.hi f.lo v := by
  refine BitVec.eq_of_getLsbD_eq fun k hk => ?_
  simp only [wrBits, fieldData, BitVec.getLsbD_and, BitVec.getLsbD_or, BitVec.getLsbD_shiftLeft, halfWord_getLsbD]
  rw [putBits_getLsbD _ _ _ _ _ hk]
  by_cases h : k < 16
  · simp [h]
  · rw [if_neg (by omega)]
    simp [h]

/-- A write of one stored field leaves the word with that field (R368, R369). -/
theorem writtenWord_field (fs : List FieldRow) (old : Word) (f : Fld) (v : Nat)
    (hs : ∀ b < 32, f.lo ≤ b → b ≤ f.hi → (accMask Acc.stored fs).getLsbD b = true)
    (hw : ∀ b < 32, f.lo ≤ b → b ≤ f.hi → (accMask (· == .w1c) fs).getLsbD b = false) :
    writtenWord fs old (fieldMask f.hi f.lo) (putBits 0 f.hi f.lo v) = putBits old f.hi f.lo v := by
  refine BitVec.eq_of_getLsbD_eq fun b hb => ?_
  rw [writtenWord_getLsbD _ _ _ _ hb, fieldMask_getLsbD _ _ _ hb, putBits_getLsbD _ _ _ _ _ hb, putBits_getLsbD _ _ _ _ _ hb]
  by_cases h1 : f.lo ≤ b
  · by_cases h2 : b ≤ f.hi
    · simp [h1, h2, hs b hb h1 h2, hw b hb h1 h2]
    · simp [h2]
  · simp [h1]

/-- A write of one field that is neither stored nor cleared by ones leaves the word. -/
theorem writtenWord_idle (fs : List FieldRow) (old mask bits : Word)
    (hs : accMask Acc.stored fs &&& mask = 0) (hw : accMask (· == .w1c) fs &&& mask = 0) : writtenWord fs old mask bits = old := by
  have hz : ∀ w : Word, 0 &&& w = 0 := fun w => BitVec.zero_and
  have h1 : ∀ w : Word, w &&& ~~~ 0 = w := fun w => BitVec.and_allOnes
  have h0 : ∀ w : Word, w ||| 0 = w := fun w => BitVec.or_zero
  have hb : bits &&& 0 = 0 := BitVec.and_zero
  unfold writtenWord
  rw [hs, hw, hz, h1, h1, hb, h0]

theorem latchedWord_none {s : State} (h : s.ip.loLatch = []) (addr : Nat) : latchedWord s addr = rfGet s.regs addr := by
  simp only [latchedWord, h, List.find?_nil]

section
variable {addr typ : Nat} {data : Word} {row : RegRow} {i j : Nat} {s : State} (hl : s.ip.loLatch = [])
include hl

theorem wrAt_old : (wrAt addr typ data row i j s).old = rfGet s.regs addr := latchedWord_none (s := consumeUnlock s) hl addr

theorem wrAt_new : (wrAt addr typ data row i j s).new
    = writtenWord row.fields (rfGet s.regs addr) (wrMask typ data) (wrBits typ data) :=
  congrArg (fun w => writtenWord row.fields w (wrMask typ data) (wrBits typ data)) (latchedWord_none (s := consumeUnlock s) hl addr)

theorem wrAt_field_new {f : Fld} (v : Nat) (hf : f.hi < 16)
    (hs : ∀ b < 32, f.lo ≤ b → b ≤ f.hi → (accMask Acc.stored row.fields).getLsbD b = true)
    (hw : ∀ b < 32, f.lo ≤ b → b ≤ f.hi → (accMask (· == .w1c) row.fields).getLsbD b = false) :
    (wrAt f.addr 1 (fieldData f v) row i j s).new = putBits (rfGet s.regs f.addr) f.hi f.lo v := by
  rw [wrAt_new hl, wrMask_fieldData f v hf, wrBits_fieldData f v hf, writtenWord_field _ _ f v hs hw]

end

theorem getBits_lt (w : Word) (hi lo : Nat) : getBits w hi lo < 2 ^ (hi + 1 - lo) := by
  refine Nat.lt_pow_two_of_testBit _ fun i hi => ?_
  simp only [getBits_testBit, Bool.and_eq_false_iff, decide_eq_false_iff_not]
  omega

/-- Fields whose every value is legal are in range (R12). -/
theorem fieldsInRange_full {fs : List FieldRow} (h : ∀ f ∈ fs, f.mn = 0 ∧ 2 ^ (f.hi + 1 - f.lo) ≤ f.mx + 1) (mask new : Word) :
    fieldsInRange fs mask new = true := by
  simp only [fieldsInRange, List.all_eq_true, Bool.or_eq_true, Bool.and_eq_true, decide_eq_true_eq]
  intro f hf
  obtain ⟨h0, h1⟩ := h f hf
  have := getBits_lt new f.hi f.lo
  exact Or.inr ⟨by omega, by omega⟩

/-- A register without a keyed field changes none (R368). -/
theorem rwkChanged_none {fs : List FieldRow} (h : accMask (· == .rwk) fs = 0) (old new : Word) : rwkChanged fs old new = false := by
  have : (old ^^^ new) &&& 0 = 0 := BitVec.and_zero
  simp [rwkChanged, h]

theorem putBits_putBits (w : Word) (hi lo v u : Nat) : putBits (putBits w hi lo v) hi lo u = putBits w hi lo u := by
  refine BitVec.eq_of_getLsbD_eq fun b hb => ?_
  rw [putBits_getLsbD _ _ _ _ _ hb, putBits_getLsbD _ _ _ _ _ hb, putBits_getLsbD _ _ _ _ _ hb]
  split <;> rfl

theorem bitOf_lt (b : Bool) : bitOf b < 2 := by cases b <;> decide

theorem fieldWrite_eq (via : Port) (bk : Bool) (f : Fld) (v : Nat) (s : State) :
    fieldWrite via bk f v s = hostWrite via bk f.addr 1 (fieldData f v) s := rfl

end Sys2Proof.Machine

namespace Sys2Proof.Machine

/-! ### A write of `REFIN_EN` (R29) -/

/-- The register of the time source. -/
def tbRow : RegRow := ⟨.TB_CTRL, 0x44, 1, 0, 1, 0, 0, [⟨0, 0, .rw, 1, 2, 0, 1⟩, ⟨1, 1, .rw, 1, 2, 0, 1⟩]⟩

/-- `REFIN_EN` takes a value. -/
def refinSet (b : Bool) (s : State) : State :=
  let old := (consumeUnlock s).set F.TB_CTRL.REFIN_EN (s.get F.TB_CTRL.REFIN_EN)
  if bitOf b = s.get F.TB_CTRL.REFIN_EN then old else refinEnWrite b old

theorem getBits_bit (w : Word) (k : Nat) (hk : k < 32) : getBits w k k = bitOf (w.getLsbD k) := by
  refine Nat.eq_of_testBit_eq fun i => ?_
  rw [getBits_testBit]
  cases i with
  | zero => cases w.getLsbD k <;> simp [hk, bitOf]
  | succ i => cases w.getLsbD k <;> simp [bitOf, Nat.testBit_succ]

theorem performWrite_tb {via : Port} {w : RegWr} {s : State} (h : w.row.id = .TB_CTRL) : performWrite via w s =
    if w.keeps 0 0 then s.setWord w.addr (putBits w.new 0 0 (getBits w.old 0 0))
    else refinEnWrite (w.new.getLsbD 0) (s.setWord w.addr (putBits w.new 0 0 (getBits w.old 0 0))) := by
  simp only [performWrite, h]

section
variable {s : State} (hr : s.ip.running = true) (hl : s.ip.loLatch = []) (hp : s.pd 1 = true) (b : Bool)
include hr hl hp

theorem refinEn_writes : fieldWrite .hp false F.TB_CTRL.REFIN_EN (bitOf b) s =
    { refinSet b s with ip := { (refinSet b s).ip with wrStatus := 0 } } := by
  have hreach : WriteReaches false 0x44 tbRow 0 0 s := ⟨hr, by decide, by decide, hp, by decide, rfl⟩
  set w := wrAt 0x44 1 (fieldData F.TB_CTRL.REFIN_EN (bitOf b)) tbRow 0 0 s with hw
  have hold : w.old = rfGet s.regs 0x44 := wrAt_old hl
  have hnew : w.new = putBits (rfGet s.regs 0x44) 0 0 (bitOf b) :=
    wrAt_field_new (f := F.TB_CTRL.REFIN_EN) hl (bitOf b) (by decide) (by decide) (by decide)
  have hg : getBits w.new 0 0 = bitOf b := by
    rw [hnew]
    exact getBits_putBits_same _ _ _ _ (by decide) (bitOf_lt b) (by decide)
  have hbit : w.new.getLsbD 0 = b := by
    rw [getBits_bit _ _ (by decide)] at hg
    cases hb : w.new.getLsbD 0 <;> cases b <;> simp_all [bitOf]
  have hkeep : w.keeps 0 0 = true ↔ bitOf b = s.get F.TB_CTRL.REFIN_EN := by
    unfold RegWr.keeps
    rw [hg, hold, beq_iff_eq]
    exact eq_comm
  have hs1 : (consumeUnlock s).setWord w.addr (putBits w.new 0 0 (getBits w.old 0 0))
      = (consumeUnlock s).set F.TB_CTRL.REFIN_EN (s.get F.TB_CTRL.REFIN_EN) := by
    rw [hnew, putBits_putBits, hold]
    rfl
  have hv : performWrite .hp w (consumeUnlock s) = refinSet b s := by
    rw [performWrite_tb rfl, hs1, hbit]
    exact if_congr hkeep rfl rfl
  exact hostWrite_performs hreach (by decide) (by decide) (fun h => by rw [rwkChanged_none (by decide)] at h; cases h)
    (fieldsInRange_full (by decide) _ _) rfl rfl hv

end

theorem refinEnWrite_stays {s : State} {b : Bool} (h : ¬ (b = false ∧ s.get F.TB_STATUS.SRC = 1 ∧ isMember s = false)) :
    refinEnWrite b s = s.setB F.TB_CTRL.REFIN_EN b := by
  have hs : (s.setB F.TB_CTRL.REFIN_EN b).get F.TB_STATUS.SRC = s.get F.TB_STATUS.SRC := State.get_set_own _ _ (by decide)
  have hm : isMember (s.setB F.TB_CTRL.REFIN_EN b) = isMember s :=
    congrArg (fun n => decide (2 ≤ n)) (State.get_set_own s (f := F.TB_CTRL.REFIN_EN) (g := F.CV_STAT.ROLE) _ (by decide))
  unfold refinEnWrite
  dsimp only
  rw [hs, hm]
  refine if_neg fun e => h ?_
  simpa [and_assoc] using e

/-- Leaving the reference in use changes the source at once (R29). -/
theorem refinEnWrite_leaves {s : State} (h1 : s.get F.TB_STATUS.SRC = 1) (h2 : isMember s = false) (ht : s.pw.transit = none)
    (hd : s.get F.TB_CTRL.DEGRADED_HALT = 0 ∨ s.mode ≠ 5) : refinEnWrite false s =
      s.sets [(F.TB_CTRL.REFIN_EN, 0), (F.TB_STATUS.SRC, 0), (F.TB_STATUS.TIMEBASE_DEGRADED, 1)] := by
  have hs : (s.setB F.TB_CTRL.REFIN_EN false).get F.TB_STATUS.SRC = 1 := (State.get_set_own _ _ (by decide)).trans h1
  have hm : isMember (s.setB F.TB_CTRL.REFIN_EN false) = false :=
    (congrArg (fun n => decide (2 ≤ n)) (State.get_set_own s (f := F.TB_CTRL.REFIN_EN) (g := F.CV_STAT.ROLE) _ (by decide))).trans h2
  have hu : ((s.setB F.TB_CTRL.REFIN_EN false).set F.TB_STATUS.SRC 0).set F.TB_STATUS.TIMEBASE_DEGRADED 1 =
      s.sets [(F.TB_CTRL.REFIN_EN, 0), (F.TB_STATUS.SRC, 0), (F.TB_STATUS.TIMEBASE_DEGRADED, 1)] := rfl
  have hint := toInternal_of hu
  set u := s.sets [(F.TB_CTRL.REFIN_EN, 0), (F.TB_STATUS.SRC, 0), (F.TB_STATUS.TIMEBASE_DEGRADED, 1)] with hdef
  have hg : ∀ g : Fld, (∀ p ∈ [(F.TB_CTRL.REFIN_EN, 0), (F.TB_STATUS.SRC, 0), (F.TB_STATUS.TIMEBASE_DEGRADED, 1)], g.apart p.1) →
      u.get g = s.get g := fun g h => State.get_sets_apart s _ g h
  have hpw : u.pw = s.pw := State.sets_pw _ _
  clear_value u
  unfold refinEnWrite
  dsimp only
  rw [hs, hm, if_pos (by simp), hint]
  split
  case isFalse => rfl
  case isTrue hf =>
    have hm5 : s.mode ≠ 5 := hd.resolve_left fun e => by
      rw [flag_eq_true_iff _ _ rfl, hg _ (by simp [Fld.apart])] at hf
      omega
    have hmode : u.mode = s.mode := hg _ (by simp [Fld.apart])
    unfold autoTransit
    rw [hpw, ht, hmode]
    dsimp only
    rw [if_neg (by simpa [autoApplies] using hm5)]

section
variable {s : State} (hq : s.whReq = []) (hr : s.ip.running = true) (hl : s.ip.loLatch = []) (hp : s.pd 1 = true)
include hq hr hl hp

theorem refinEn_takes (b : Bool)
    (h : ¬ (b = false ∧ s.get F.TB_CTRL.REFIN_EN = 1 ∧ s.get F.TB_STATUS.SRC = 1 ∧ isMember s = false)) :
    Does (.refinEnWrite b) s (s.ended 0) [(F.TB_CTRL.REFIN_EN, if b then 1 else 0)] [] := by
  have hx : fieldWrite .hp false F.TB_CTRL.REFIN_EN (bitOf b) (begun s) = _ := refinEn_writes (s := begun s) hr hl hp b
  set old := (consumeUnlock (begun s)).set F.TB_CTRL.REFIN_EN ((begun s).get F.TB_CTRL.REFIN_EN) with hold
  have hval : old.get F.TB_CTRL.REFIN_EN = s.get F.TB_CTRL.REFIN_EN :=
    State.get_set_same _ _ _ (by decide) (by decide) (getBits_lt _ _ _)
  have hkeep : ∀ g : Fld, g.apart F.TB_CTRL.REFIN_EN → old.get g = s.get g := fun g hg => State.get_set_other _ _ _ _ hg
  have hrest : old = { consumeUnlock (begun s) with regs := old.regs } := rfl
  by_cases he : bitOf b = s.get F.TB_CTRL.REFIN_EN
  case pos =>
    have hset : refinSet b (begun s) = old := if_pos he
    rw [hset] at hx
    clear_value old
    refine does_by rfl (by exact hq) hx (by rw [hrest]; rfl) (fun g hg => hkeep g (hg _ (by simp))) ?_
    · simp only [List.forall_mem_singleton]
      exact hval.trans he.symm
  case neg =>
    have hset : refinSet b (begun s) = old.setB F.TB_CTRL.REFIN_EN b := by
      refine (if_neg he).trans (refinEnWrite_stays fun ⟨h1, h2, h3⟩ => h ⟨h1, ?_, ?_, ?_⟩)
      · subst h1
        have := getBits_lt (rfGet s.regs 0x44) 0 0
        have hlt : s.get F.TB_CTRL.REFIN_EN < 2 := this
        have : bitOf false = 0 := rfl
        omega
      · exact (hkeep _ (by simp [Fld.apart])).symm.trans h2
      · exact (congrArg (fun n => decide (2 ≤ n)) (hkeep F.CV_STAT.ROLE (by simp [Fld.apart]))).symm.trans h3
    rw [hset] at hx
    clear_value old
    refine does_by rfl (by exact hq) hx (by rw [hrest]; rfl) (fun g hg => ?_) ?_
    · have hg' : g.apart F.TB_CTRL.REFIN_EN := hg _ (by simp)
      exact (State.get_set_other old _ _ _ hg').trans (hkeep g hg')
    · simp only [List.forall_mem_singleton]
      exact State.get_set_same old _ _ (by decide) (by decide) (bitOf_lt b)

theorem refinEn_leaves (h1 : s.get F.TB_CTRL.REFIN_EN = 1) (h2 : s.get F.TB_STATUS.SRC = 1) (h3 : isMember s = false)
    (ht : s.pw.transit = none) (hd : s.get F.TB_CTRL.DEGRADED_HALT = 0 ∨ s.mode ≠ 5) :
    Does (.refinEnWrite false) s (s.ended 0)
      [(F.TB_CTRL.REFIN_EN, 0), (F.TB_STATUS.SRC, 0), (F.TB_STATUS.TIMEBASE_DEGRADED, 1)] [] := by
  have hx : fieldWrite .hp false F.TB_CTRL.REFIN_EN (bitOf false) (begun s) = _ := refinEn_writes (s := begun s) hr hl hp false
  set old := (consumeUnlock (begun s)).set F.TB_CTRL.REFIN_EN ((begun s).get F.TB_CTRL.REFIN_EN) with hold
  have hkeep : ∀ g : Fld, g.apart F.TB_CTRL.REFIN_EN → old.get g = s.get g := fun g hg => State.get_set_other _ _ _ _ hg
  have hrest : old = { consumeUnlock (begun s) with regs := old.regs } := rfl
  have hset : refinSet false (begun s) = old.sets [(F.TB_CTRL.REFIN_EN, 0), (F.TB_STATUS.SRC, 0), (F.TB_STATUS.TIMEBASE_DEGRADED, 1)] := by
    refine (if_neg (by rw [begun_get, h1]; decide)).trans (refinEnWrite_leaves ?_ ?_ ht ?_)
    · exact (hkeep _ (by simp [Fld.apart])).trans h2
    · exact (congrArg (fun n => decide (2 ≤ n)) (hkeep F.CV_STAT.ROLE (by simp [Fld.apart]))).trans h3
    · exact hd.imp (hkeep _ (by simp [Fld.apart])).trans fun hm => by
        rw [show old.mode = s.mode from hkeep _ (by simp [Fld.apart])]; exact hm
  rw [hset] at hx
  clear_value old
  have hl3 : ([(F.TB_CTRL.REFIN_EN, 0), (F.TB_STATUS.SRC, 0), (F.TB_STATUS.TIMEBASE_DEGRADED, 1)] : List (Fld × Nat)).Pairwise
    fun p q => p.1.apart q.1 := by simp [Fld.apart]
  have hv3 : ∀ p ∈ ([(F.TB_CTRL.REFIN_EN, 0), (F.TB_STATUS.SRC, 0), (F.TB_STATUS.TIMEBASE_DEGRADED, 1)] : List (Fld × Nat)), p.1.holds p.2 := by
    simp [Fld.holds]
  generalize hL : ([(F.TB_CTRL.REFIN_EN, 0), (F.TB_STATUS.SRC, 0), (F.TB_STATUS.TIMEBASE_DEGRADED, 1)] : List (Fld × Nat)) = l at hx hl3 hv3
  refine does_by rfl (by exact hq) hx ?_ (fun g hg => ?_) (State.get_sets_mem old l hv3 hl3)
  · rw [State.sets_eq old l, hrest]
    rfl
  · have hg' : ∀ p ∈ l, g.apart p.1 := fun p hp => hg p.1 (by simpa using ⟨p.2, hp⟩)
    refine (State.get_sets_apart old l g hg').trans (hkeep g (hg' (F.TB_CTRL.REFIN_EN, 0) ?_))
    rw [← hL]
    exact List.mem_cons_self

end

end Sys2Proof.Machine

namespace Sys2Proof.Machine

/-- Settles O55: the tests of the reference, the end of a transition and SLEEP, each by the lemma on its command. -/
theorem timeSourceModeChangesAndSleep : Obligations.TimeSourceModeChangesAndSleep := by
  unfold Obligations.TimeSourceModeChangesAndSleep
  intro t0 ok whsl fails s hq
  refine ⟨fun hp => ⟨fun h => refinEdgeTimeout_idle hq t0 hp h, fun h hd ht => refinEdgeTimeout_loses hq t0 hp h hd ht,
      fun h hd hm ht => refinEdgeTimeout_halts hq t0 hp h hd hm ht,
      ⟨fun h => calibrationInstant_takes fails hq hp h, fun h => calibrationInstant_stays fails hq hp h,
        fun h => calibrationInstant_fails fails hq hp h, fun h hd ht => calibrationInstant_loses fails hq hp h hd ht⟩,
      fun h => referenceGood_passes hq t0 hp h⟩,
    fun hp => ⟨refinEdgeTimeout_off hq t0 hp, calibrationInstant_off hq hp ok fails⟩,
    fun h => referenceGood_stays hq t0 h,
    fun m trig ht hn htr => modeTransitDone_ends hq t0 m trig ht hn htr,
    fun h => modeTransitDone_stays hq t0 h,
    fun hs hb => ⟨sleepEntry_sleeps hs hb, fun h => sleepEntry_wakes hs hb h⟩,
    fun h => ⟨sleepEntry_stays hq h _, sleepEntry_stays hq h _⟩,
    fun hr hl hp h => refinEn_takes hq hr hl hp ok fun ⟨h1, _, h3, _⟩ => ?_⟩
  rcases h with h | h
  · rw [h1] at h; cases h
  · exact h h3

end Sys2Proof.Machine

namespace Sys2Proof.Machine

/-! ### Opcodes that answer at once -/

section
variable {c : Instr} {op : Nat} {body : Req → State → State × Ans} {f : Req} {s u : State} {code detail seq : Nat} {data : List Word}

/-- An admitted opcode whose body answers at once and leaves the ports and the Whistles ends beside its work. -/
theorem ready_ends (h : FrameReady op f s) (hx : exec c s = runCmd (frameCommand op body f) s)
    (ho : op ≠ 0x00 ∧ op ≠ 0x01) (hb : body f (accepted op f s) = (u, .now code detail seq data))
    (h1 : u.whReq = (accepted op f s).whReq) (h2 : u.hp = (accepted op f s).hp) (h3 : u.aux = (accepted op f s).aux)
    (hc : code < 256) : Completes c s (Ended op f s u code detail seq data) := by
  obtain ⟨e1, e2⟩ := accepted_rest h.1 h1 h2 h3
  exact (frame_answers h ho hb e1 e2 hc).imp fun t ht => ⟨hx.trans ht.1, ht.2⟩

/-- The same with what is known of the state in which its work has ended. -/
theorem ready_ends_with {P : State → State → Prop} (h : FrameReady op f s) (hx : exec c s = runCmd (frameCommand op body f) s)
    (ho : op ≠ 0x00 ∧ op ≠ 0x01) (hb : body f (accepted op f s) = (u, .now code detail seq data))
    (h1 : u.whReq = (accepted op f s).whReq) (h2 : u.hp = (accepted op f s).hp) (h3 : u.aux = (accepted op f s).aux)
    (hc : code < 256) (hP : ∀ t, P u t) : Completes c s fun t => ∃ u, Ended op f s u code detail seq data t ∧ P u t :=
  (ready_ends h hx ho hb h1 h2 h3 hc).imp fun t ht => ⟨ht.1, u, ht.2, hP t⟩

end

/-! ### SESSION_CLOSE -/

/-- What an audit entry changes (R494). -/
theorem audit_eq (code role port axis status : Nat) (data : List Word) (s : State) :
    let t := audit code role port axis status data s
    t = { s with regs := t.regs, freeCtr := s.freeCtr + 4, sec := { s.sec with auditNext := s.sec.auditNext + 1, auditBuf := t.sec.auditBuf } }
      ∧ KeepsFields [F.SEC_AUDIT_CNT.AUDIT_LOST] s t := by
  unfold audit
  dsimp only
  split
  · exact ⟨rfl, KeepsFields.set (.refl _ _) _ (by simp)⟩
  · exact ⟨rfl, .refl _ _⟩

/-- What the close of an open session changes (R490). -/
theorem closeSession_closes {p : Port} {s : State} {x : Session} (hp : p = .hp ∨ p = .aux) (h : (s.sessPort p).sess = some x) :
    let t := closeSession p s
    (t.sessPort p).sess = none ∧ t.sec.auditNext = s.sec.auditNext + 1 ∧ t = { s with regs := t.regs, freeCtr := t.freeCtr, sec := t.sec }
      ∧ KeepsFields [F.SEC_AUDIT_CNT.AUDIT_LOST] s t := by
  have hc : closeSession p s = audit 0x03 x.role.toNat (portNo p) 0 0 [] (s.modSess p fun q => { q with sess := none }) := by
    simp only [closeSession, h]
  dsimp only
  rw [hc]
  obtain ⟨h1, h2⟩ := audit_eq 0x03 x.role.toNat (portNo p) 0 0 [] (s.modSess p fun q => { q with sess := none })
  generalize audit 0x03 x.role.toNat (portNo p) 0 0 [] (s.modSess p fun q => { q with sess := none }) = t at h1 h2
  rcases hp with rfl | rfl
  all_goals
    rw [h1]
    exact ⟨rfl, rfl, rfl, h2⟩

section
variable {f : Req} {s : State}

theorem sessionClose_idle (h : FrameReady 0x72 f s) (hx : ((accepted 0x72 f s).sessPort f.port).sess = none) :
    Answers (.sessionClose f) s (accepted 0x72 f s) stOk 0 0 [] :=
  answers_ready (body := opSessionClose) h rfl rfl (by decide) (by simp only [opSessionClose, closeSession, hx]; rfl) rfl rfl rfl (by decide)

theorem sessionClose_closes (h : FrameReady 0x72 f s) {x : Session} (hx : ((accepted 0x72 f s).sessPort f.port).sess = some x) :
    let a := accepted 0x72 f s
    Completes (.sessionClose f) s fun t => ∃ u, Ended 0x72 f s u stOk 0 0 [] t ∧ (u.sessPort f.port).sess = none
      ∧ u.sec.auditNext = a.sec.auditNext + 1 ∧ u = { a with regs := u.regs, freeCtr := u.freeCtr, sec := u.sec }
      ∧ KeepsFields [F.SEC_AUDIT_CNT.AUDIT_LOST] a u := by
  have hP := closeSession_closes h.1.port hx
  dsimp only at hP ⊢
  obtain ⟨-, -, he, -⟩ := hP
  refine ready_ends_with (body := opSessionClose) (op := 0x72) h rfl (by decide) rfl ?_ ?_ ?_ (by decide) fun _ => closeSession_closes h.1.port hx
  all_goals rw [he]

/-! ### WHISTLE_AT -/

theorem broadcast_eq (op : Bcast) (s : State) : broadcast op s = { s with cv := (broadcast op s).cv } := by
  unfold broadcast
  rw [sendMsg_eq .dn, sendMsg_eq .up]

theorem modCv_sched (s : State) (l : Link) (g : CvPort → CvPort) : (s.modCv l g).cv.sched = s.cv.sched := by
  cases l <;> rfl

theorem pumpPort_sched (l : Link) (n : Nat) (s : State) : (pumpPort l n s).cv.sched = s.cv.sched := by
  induction n generalizing s with
  | zero => rfl
  | succ n ih =>
    unfold pumpPort
    dsimp only
    split
    · rfl
    · split
      · rfl
      · rw [ih]
        exact modCv_sched _ _ _

theorem sendFlits_sched (l : Link) (fs : List CvFlit) (s : State) : (sendFlits l fs s).cv.sched = s.cv.sched := by
  unfold sendFlits
  split
  · rfl
  · rw [pumpPort_sched, modCv_sched]

theorem broadcast_sched (op : Bcast) (s : State) : (broadcast op s).cv.sched = s.cv.sched :=
  (sendFlits_sched _ _ _).trans (sendFlits_sched _ _ _)

/-- The schedule of a Whistle among those held (R441). -/
theorem addSchedule_sched {t : Nat} {s : State} (h : s.cv.sched.contains t = true ∨ s.cv.sched.length < 4) :
    (addSchedule t s).cv.sched = if s.cv.sched.contains t then s.cv.sched else s.cv.sched ++ [t] := by
  unfold addSchedule
  by_cases hc : s.cv.sched.contains t = true
  · rw [if_pos hc, if_pos (Or.inl hc)]
  · have hl : ¬ 4 ≤ s.cv.sched.length := by have := h.resolve_left hc; omega
    rw [if_neg hc, if_neg (not_or.mpr ⟨hc, hl⟩)]

theorem addSchedule_eq (t : Nat) (s : State) : addSchedule t s = { s with cv := (addSchedule t s).cv } := by
  unfold addSchedule
  split <;> rfl

/-- The earliest instant of a Whistle that WHISTLE_AT takes (R441). -/
def whistleLead (s : State) : Nat := s.ltime + max 1 (s.get F.CV_STAT.STACK_N) * 160 + 2000

theorem scheduleStatus_early {s : State} {t : Nat} (h : t < whistleLead s) : scheduleStatus s t = stRange := if_pos h

theorem scheduleStatus_full {s : State} {t : Nat} (h : ¬ t < whistleLead s) (hc : s.cv.sched.contains t = false)
    (hl : 4 ≤ s.cv.sched.length) : scheduleStatus s t = stBusy :=
  (if_neg h).trans (if_pos ⟨ne_true_of_eq_false hc, hl⟩)

theorem scheduleStatus_ok {s : State} {t : Nat} (h : ¬ t < whistleLead s)
    (hc : s.cv.sched.contains t = true ∨ s.cv.sched.length < 4) : scheduleStatus s t = stOk := by
  refine (if_neg h).trans (if_neg fun ⟨h1, h2⟩ => ?_)
  have := hc.resolve_left h1
  omega

/-- The instant that WHISTLE_AT names. -/
def whistleTime (f : Req) : Nat := timeOf (f.words.getD 0 0) (f.words.getD 1 0)

theorem whistleAt_refuses (h : FrameReady 0x61 f s) {code : Nat} (hs : scheduleStatus (accepted 0x61 f s) (whistleTime f) = code)
    (hn : code ≠ stOk) (hc : code < 256) : Answers (.whistleAt f) s (accepted 0x61 f s) code 0 0 [] := by
  refine answers_ready (body := opWhistleAt) h rfl rfl (by decide) ?_ rfl rfl rfl hc
  subst hs
  exact if_pos hn

theorem whistleAt_schedules (h : FrameReady 0x61 f s) (hs : ¬ whistleTime f < whistleLead (accepted 0x61 f s))
    (hc : (accepted 0x61 f s).cv.sched.contains (whistleTime f) = true ∨ (accepted 0x61 f s).cv.sched.length < 4) :
    let a := accepted 0x61 f s
    Completes (.whistleAt f) s fun t => ∃ u, Ended 0x61 f s u stOk 0 0 [] t ∧ u = { a with cv := u.cv }
      ∧ u.cv.sched = if a.cv.sched.contains (whistleTime f) then a.cv.sched else a.cv.sched ++ [whistleTime f] := by
  dsimp only
  generalize hu : broadcast (.whistle (whistleTime f)) (addSchedule (whistleTime f) (accepted 0x61 f s)) = u
  have hb : opWhistleAt f (accepted 0x61 f s) = (u, .now stOk 0 0 []) := by
    subst hu
    exact if_neg (not_not.mpr (scheduleStatus_ok hs hc))
  have he : u = { accepted 0x61 f s with cv := u.cv } := by
    rw [← hu, broadcast_eq, addSchedule_eq]
  have hq := (broadcast_sched (.whistle (whistleTime f)) _).trans (addSchedule_sched hc)
  rw [hu] at hq
  refine ready_ends_with (op := 0x61) h rfl (by decide) hb ?_ ?_ ?_ (by decide) fun _ => ⟨he, hq⟩
  all_goals rw [he]

end

end Sys2Proof.Machine

namespace Sys2Proof.Machine

/-! ### DIAG_RUN -/

/-- The first element of a sorted list that meets a condition. -/
theorem find?_first {l : List Axis} (hl : l.Pairwise (· < ·)) {p : Axis → Bool} {x : Axis} (hx : x ∈ l) (hp : p x = true)
    (h : ∀ y ∈ l, y < x → p y = false) : l.find? p = some x := by
  induction l with
  | nil => cases hx
  | cons y l ih =>
    rw [List.pairwise_cons] at hl
    rcases List.mem_cons.mp hx with rfl | hx
    · exact List.find?_cons_of_pos hp
    · rw [List.find?_cons_of_neg (by simp [h y List.mem_cons_self (hl.1 x hx)])]
      exact ih hl.2 hx fun z hz => h z (List.mem_cons_of_mem _ hz)

/-- The axes that a word masks (R340). -/
def maskedAxes (f : Req) : List Axis := allAxes.filter fun a : Axis => natBit (f.words.getD 0 0).toNat a.val

theorem maskedAxes_sorted (f : Req) : (maskedAxes f).Pairwise (· < ·) := List.Pairwise.filter _ (by decide)

theorem mem_maskedAxes {f : Req} {x : Axis} : x ∈ maskedAxes f ↔ natBit (f.words.getD 0 0).toNat x.val = true := by
  simp [maskedAxes, allAxes]

section
variable {f : Req} {s : State}

theorem diagRun_refuses (h : FrameReady 0x80 f s) {x : Axis} (hx : x ∈ maskedAxes f) (hr : diagRefuses (accepted 0x80 f s) x = true)
    (hl : ∀ y : Axis, y < x → y ∈ maskedAxes f → diagRefuses (accepted 0x80 f s) y = false) :
    Answers (.diagRun f) s (accepted 0x80 f s) stBusy x.val 0 [] := by
  have hf : (maskedAxes f).find? (diagRefuses (accepted 0x80 f s)) = some x :=
    find?_first (maskedAxes_sorted f) hx hr fun y hy hyx => hl y hyx hy
  refine answers_ready (body := opDiagRun) h rfl rfl (by decide) ?_ rfl rfl rfl (by decide)
  rw [maskedAxes] at hf
  simp only [opDiagRun, hf]

/-- A run that is requested for an axis, which follows its conditions (R245). -/
def diagAxis (a : Axis) (s : State) : State := refreshAxis a (requestDiag a .command s)

theorem diagAxis_within {l : List Axis} {a : Axis} (ha : a ∈ l) {r s : State} (h : Within motionScope l r s) :
    Within motionScope l r (diagAxis a s) :=
  refreshAxis_within refreshScope_le_motionScope ha (requestDiag_within ha _ h)

theorem refreshAxis_gd (a b : Axis) (s : State) : ((refreshAxis a s).gd b).unnoted = (s.gd b).unnoted := by
  have h := (refreshAxis_within (S := refreshScope) Scope.le_rfl List.mem_cons_self (.refl _ [a] s)).own b
  have := congrArg (fun x : AxisSt => x.gd) h
  exact this

theorem requestDiag_gd_other {a b : Axis} (hb : b ≠ a) (w : DiagWhy) (s : State) : (requestDiag a w s).gd b = s.gd b := by
  unfold requestDiag
  split
  · rfl
  · exact State.modGd_gd_ne _ _ _ _ hb

/-- The run of the command is the only one that the axis awaits, or it awaits none. -/
def awaitsOnly (w : DiagWhy) (s : State) (a : Axis) : Prop := (s.gd a).diagPend = [] ∨ (s.gd a).diagPend = [w]

theorem requestDiag_diagPend {a : Axis} {w : DiagWhy} {s : State} (h : awaitsOnly w s a) :
    ((requestDiag a w s).gd a).diagPend = [w] := by
  unfold requestDiag
  rcases h with h | h
  · rw [if_neg (by simp [h]), State.modGd_gd_self, h]
    rfl
  · rw [if_pos (by simp [h]), h]

theorem diagAxis_diagPend (a b : Axis) (s : State) :
    ((diagAxis a s).gd b).diagPend = ((requestDiag a .command s).gd b).diagPend := by
  have h := congrArg GateSt.diagPend (refreshAxis_gd a b (requestDiag a .command s))
  exact h

theorem diagAxis_awaits {a : Axis} {s : State} (h : awaitsOnly .command s a) : ((diagAxis a s).gd a).diagPend = [.command] :=
  (diagAxis_diagPend a a s).trans (requestDiag_diagPend h)

theorem diagAxis_awaitsOnly {a b : Axis} {s : State} (h : awaitsOnly .command s b) : awaitsOnly .command (diagAxis a s) b := by
  by_cases hb : b = a
  · subst hb
    exact Or.inr (diagAxis_awaits h)
  · unfold awaitsOnly
    rwa [diagAxis_diagPend, requestDiag_gd_other hb]

/-- Every axis of the list awaits the run of the command. -/
theorem diagAxes_await (l : List Axis) {s : State} (h : ∀ a ∈ l, awaitsOnly .command s a) :
    ∀ a ∈ l, ((s.each l diagAxis).gd a).diagPend = [.command] := by
  have := State.each_reaches (I := fun s => ∀ a ∈ l, awaitsOnly .command s a)
    (P := fun a s => a ∈ l → (s.gd a).diagPend = [.command]) (g := diagAxis)
    (fun x s hI a ha => diagAxis_awaitsOnly (hI a ha)) (fun x s hI hx => diagAxis_awaits (hI x hx))
    (fun x y s hI hp hy => ?_) l h
  · exact fun a ha => this a ha ha
  · by_cases hyx : y = x
    · subst hyx
      exact diagAxis_awaits (hI y hy)
    · rw [diagAxis_diagPend, requestDiag_gd_other hyx]
      exact hp hy

/-- Work in a scope that fixes all but registers, engines and records. -/
theorem Within.engines {S : Scope} {l : List Axis} {r t : State} (h : Within S l r t)
    (hS : ∀ s t, S.side s = S.side t → besideRecords s = besideRecords t) : BesideAxes r t := by
  have := eq_of_besideRecords (hS _ _ h.side)
  rw [BesideAxes, this]

theorem diagRun_requests (h : FrameReady 0x80 f s) (hr : ∀ x ∈ maskedAxes f, diagRefuses (accepted 0x80 f s) x = false) :
    let a := accepted 0x80 f s
    Completes (.diagRun f) s fun t => ∃ u, Ended 0x80 f s u stOk 0 0 [] t ∧ BesideAxes a u
      ∧ (∀ x ∈ maskedAxes f, (u.gd x).diagPend = [.command]) ∧ ∀ x, x ∉ maskedAxes f → u.ax x = a.ax x := by
  dsimp only
  generalize hu : (accepted 0x80 f s).each (maskedAxes f) diagAxis = u
  have hb : opDiagRun f (accepted 0x80 f s) = (u, .now stOk 0 0 []) := by
    have hf : (maskedAxes f).find? (diagRefuses (accepted 0x80 f s)) = none :=
      List.find?_eq_none.mpr fun x hx => ne_true_of_eq_false (hr x hx)
    subst hu
    rw [maskedAxes] at hf
    simp only [opDiagRun, hf]
    rfl
  have hw : Within motionScope (maskedAxes f) (accepted 0x80 f s) u := by
    subst hu
    exact (Within.refl _ _ _).each _ fun _ ha _ ht => diagAxis_within ha ht
  have he := hw.rest fun _ _ h => h
  have hp : ∀ x ∈ maskedAxes f, (u.gd x).diagPend = [.command] := by
    subst hu
    refine diagAxes_await _ fun x hx => Or.inl ?_
    have := hr x hx
    simp only [diagRefuses, Bool.or_eq_false_iff, Bool.not_eq_false', List.isEmpty_iff] at this
    exact this.1.1.2
  refine ready_ends_with (op := 0x80) h rfl (by decide) hb ?_ ?_ ?_ (by decide) fun _ => ⟨hw.engines besideRecords_of_besideEngines, hp, hw.others⟩
  all_goals rw [he]

end

end Sys2Proof.Machine

namespace Sys2Proof.Machine

/-! ### Whistles served -/

/-- The fields in which a Whistle shows (R452, R453, R461). -/
def latchFields : List Fld :=
  [F.WH_STAT.LATCH_NO, F.WH_STAT.LAST_SRC, F.WH_STAT.WH_EVT, F.WH_STAT.DRIVING, F.WH_CNT.LATCH_CNT, F.WH_CNT.WH_MISSED,
    F.LK_TRC_STAT.TRC_DROP]

/-- From `s` to `t` at most a Whistle has been latched or missed: its record, the trace of it, and its fields. -/
def Whistled (s t : State) : Prop :=
  t = { s with regs := t.regs, wh := t.wh, lk := { s.lk with trace := t.lk.trace, jobs := t.lk.jobs } } ∧ KeepsFields latchFields s t

theorem Whistled.refl (s : State) : Whistled s s := ⟨rfl, .refl _ _⟩

theorem Whistled.trans {r s t : State} (h : Whistled r s) (k : Whistled s t) : Whistled r t := by
  refine ⟨Eq.trans k.1 ?_, h.2.trans k.2⟩
  rw [h.1]

theorem Whistled.set {s t : State} (h : Whistled s t) {f : Fld} (v : Nat) (hf : f ∈ latchFields) : Whistled s (t.set f v) := by
  refine ⟨?_, KeepsFields.set h.2 v hf⟩
  conv_lhs => rw [State.set, h.1]
  rfl

theorem JobsOnly.whistled {s t : State} (h : JobsOnly s t) : Whistled s t := by
  rw [JobsOnly] at h
  refine ⟨?_, (KeepsFields.refl _ s).congr ?_⟩
  · rw [h]
  · rw [h]

theorem traceStart_jobsOnly (s : State) : JobsOnly s (traceStart s) := by
  unfold traceStart
  split
  · rfl
  · split <;> rfl

theorem traceRecord_whistled (ws : List Word) (s : State) :
    Whistled s (traceRecord ws s) ∧ (traceRecord ws s).wh = s.wh ∧ KeepsFields [F.LK_TRC_STAT.TRC_DROP] s (traceRecord ws s) := by
  unfold traceRecord
  split
  · exact ⟨(Whistled.refl s).set _ (by simp [latchFields]), rfl, .set (.refl _ _) _ (by simp)⟩
  · have h := traceStart_jobsOnly { s with lk := { s.lk with trace := s.lk.trace ++ [ws] } }
    generalize traceStart { s with lk := { s.lk with trace := s.lk.trace ++ [ws] } } = t at h
    have h0 : Whistled s { s with lk := { s.lk with trace := s.lk.trace ++ [ws] } } := ⟨rfl, .refl _ _⟩
    refine ⟨h0.trans h.whistled, ?_, (KeepsFields.refl _ s).congr ?_⟩
    · rw [h]
    · rw [h]

/-- The number of the next latch (R453). -/
def nextLatch (s : State) : Nat := if s.get F.WH_STAT.LATCH_NO = 65535 then 1 else s.get F.WH_STAT.LATCH_NO + 1

theorem nextLatch_lt (s : State) : nextLatch s < 2 ^ 16 := by
  have : s.get F.WH_STAT.LATCH_NO ≤ 65535 := get_le_max _ _
  unfold nextLatch
  split <;> omega

/-- A latch in its fields (R453). -/
def latchCounted (src : Nat) (s : State) : State :=
  ((s.set F.WH_STAT.LATCH_NO (nextLatch s)).set F.WH_STAT.LAST_SRC src).raise F.WH_STAT.WH_EVT |>.inc F.WH_CNT.LATCH_CNT

theorem latchCounted_whistled (src : Nat) (s : State) : Whistled s (latchCounted src s) :=
  (((((Whistled.refl s).set _ (by simp [latchFields])).set _ (by simp [latchFields])).set 1 (by simp [latchFields])).set _
    (by simp [latchFields]))

theorem latchCounted_lastSrc {src : Nat} (hs : src < 256) (s : State) : (latchCounted src s).get F.WH_STAT.LAST_SRC = src := by
  unfold latchCounted State.inc State.count State.raise
  rw [State.get_set_own _ _ (by decide), State.get_set_other _ _ _ _ (by decide)]
  exact State.get_set_same _ _ _ (by decide) (by decide) hs

theorem latchCounted_latchNo (src : Nat) (s : State) : (latchCounted src s).get F.WH_STAT.LATCH_NO = nextLatch s := by
  unfold latchCounted State.inc State.count State.raise
  rw [State.get_set_own _ _ (by decide), State.get_set_other _ _ _ _ (by decide), State.get_set_other _ _ _ _ (by decide)]
  exact State.get_set_same _ _ _ (by decide) (by decide) (nextLatch_lt s)

/-- The Whistle block after a latch of the record `r` (R451 to R453). -/
def WhSt.latched (drive : Bool) (r : List Word) (s : State) : WhSt := { s.wh with
  snap := some r
  latchT := s.now
  missed := 0
  holdEnd := some (s.now + s.get F.WH_CFG.WH_HOLDOFF * usT)
  driveEnd := if drive then some (s.now + s.get F.WH_CFG.WH_PULSE * 800) else s.wh.driveEnd
  pinHigh := s.wh.pinHigh && !drive }

/-- A latch of the record `r` before it is handed to the trace (R453). -/
def latchHeld (drive : Bool) (r : List Word) (s : State) : State :=
  let t : State := { s with wh := WhSt.latched drive r s }
  if drive then t.set F.WH_STAT.DRIVING 1 else t

/-- A latch before its record is handed to the trace (R453, R456). -/
def latchTaken (reqs : List (Nat × Nat)) (src : Nat × Nat) (s : State) : State :=
  let rec_ := snapHeader s (nextLatch s) src.1 (if src.1 = 3 then 0 else src.2) s.wh.missed ++ allAxes.flatMap (axisSection s) ++ deviceSection s
  latchHeld (reqs.any (drives (latchCounted src.1 s))) rec_ (latchCounted src.1 s)

theorem takeLatch_eq (reqs : List (Nat × Nat)) (src : Nat × Nat) (s : State) :
    takeLatch reqs src s = if (latchTaken reqs src s).flag F.WH_CFG.TRC_STREAM ∧ (latchTaken reqs src s).flag F.LK_TRC_CFG.TRC_EN then
      traceRecord (snapWords (latchTaken reqs src s)) (latchTaken reqs src s) else latchTaken reqs src s := rfl

theorem latchHeld_holds (drive : Bool) (r : List Word) (s : State) :
    let t := latchHeld drive r s
    Whistled s t ∧ t.wh = WhSt.latched drive r s ∧ KeepsFields [F.WH_STAT.DRIVING] s t := by
  have h : Whistled s { s with wh := WhSt.latched drive r s } := ⟨rfl, .refl _ _⟩
  unfold latchHeld
  dsimp only
  split
  · exact ⟨h.set 1 (by simp [latchFields]), rfl, KeepsFields.set (.refl _ _) 1 (by simp)⟩
  · exact ⟨h, rfl, .refl _ _⟩

theorem latchTaken_takes (reqs : List (Nat × Nat)) (src : Nat × Nat) (s : State) :
    let t := latchTaken reqs src s
    Whistled s t ∧ t.wh.latchT = s.now ∧ t.wh.snap ≠ none ∧ t.wh.missed = 0
      ∧ (src.1 < 256 → t.get F.WH_STAT.LAST_SRC = src.1) ∧ t.get F.WH_STAT.LATCH_NO = nextLatch s := by
  have h2 := fun hs => latchCounted_lastSrc (src := src.1) hs s
  have h3 := latchCounted_latchNo src.1 s
  unfold latchTaken
  obtain ⟨k1, k2, k3⟩ := latchHeld_holds (reqs.any (drives (latchCounted src.1 s)))
    (snapHeader s (nextLatch s) src.1 (if src.1 = 3 then 0 else src.2) s.wh.missed ++ allAxes.flatMap (axisSection s) ++ deviceSection s)
    (latchCounted src.1 s)
  refine ⟨(latchCounted_whistled src.1 s).trans k1, ?_, ?_, ?_, fun hs => ?_, ?_⟩
  · rw [k2]; rfl
  · rw [k2]; exact Option.some_ne_none _
  · rw [k2]; rfl
  · rw [k3 _ (by simp)]; exact h2 hs
  · rw [k3 _ (by simp)]; exact h3

/-- A latch (R453). -/
theorem takeLatch_takes (reqs : List (Nat × Nat)) (src : Nat × Nat) (s : State) :
    let t := takeLatch reqs src s
    Whistled s t ∧ t.wh.latchT = s.now ∧ t.wh.snap ≠ none ∧ t.wh.missed = 0
      ∧ (src.1 < 256 → t.get F.WH_STAT.LAST_SRC = src.1) ∧ t.get F.WH_STAT.LATCH_NO = nextLatch s := by
  have h := latchTaken_takes reqs src s
  dsimp only at h ⊢
  rw [takeLatch_eq]
  generalize latchTaken reqs src s = v at h
  split
  · obtain ⟨h1, h2, h3, h4, h5, h6⟩ := h
    obtain ⟨k1, k2, k3⟩ := traceRecord_whistled (snapWords v) v
    refine ⟨h1.trans k1, ?_, ?_, ?_, ?_, ?_⟩
    · rw [k2]; exact h2
    · rw [k2]; exact h3
    · rw [k2]; exact h4
    · rw [k3 _ (by simp)]; exact h5
    · rw [k3 _ (by simp)]; exact h6
  · exact h

/-- A Whistle that takes no latch (R452). -/
theorem missLatch_misses (s : State) : Whistled s (missLatch s) ∧ (missLatch s).wh = { s.wh with missed := s.wh.missed + 1 } :=
  ⟨(((Whistled.refl s).set _ (by simp [latchFields]) : Whistled s (s.inc F.WH_CNT.WH_MISSED))).trans ⟨rfl, .refl _ _⟩, rfl⟩

theorem appliesNow_none {s : State} (h : s.lk.apply = none) (reqs : List (Nat × Nat)) : appliesNow s reqs = false := by
  simp [appliesNow, h]

/-- A Whistle with no recipe that waits for it, while the device is awake, is latched or missed (R452). -/
theorem whistleNow_eq {s : State} (h : s.lk.apply = none) (r : Nat × Nat) (l : List (Nat × Nat)) :
    whistleNow (r :: l) s = if ¬ s.pd 1 ∨ deepHeld s ∨ asleep s then s
      else if holdingOff s ∨ s.flag F.WH_CFG.FREEZE then missLatch s else takeLatch (r :: l) (lowestSource l r) s := by
  have hk : ∀ t : State, Whistled s t → (if appliesNow t (r :: l) then applyRecipe t else t) = t := fun t ht => by
    have ha : t.lk.apply = none := by rw [ht.1]; exact h
    rw [if_neg (by rw [appliesNow_none ha]; exact Bool.false_ne_true)]
  unfold whistleNow
  refine ite_congr rfl (fun _ => rfl) fun _ => hk _ ?_
  split
  · exact (missLatch_misses s).1
  · exact (takeLatch_takes _ _ s).1

theorem whistleNow_whistled {s : State} (h : s.lk.apply = none) (reqs : List (Nat × Nat)) : Whistled s (whistleNow reqs s) := by
  cases reqs with
  | nil => exact .refl s
  | cons r l =>
    rw [whistleNow_eq h]
    split
    · exact .refl s
    · split
      · exact (missLatch_misses s).1
      · exact (takeLatch_takes _ _ s).1

end Sys2Proof.Machine

namespace Sys2Proof.Machine

/-! ### SNAP -/

/-- A heard frame finds the core of the device up. -/
theorem Heard.core {f : Req} {s : State} (h : Heard f s) : s.pd 1 = true := by
  have : ∀ m, portHears s f.port m = true → s.pd 1 = true := fun m hm => by
    simp only [portHears, Bool.and_eq_true] at hm
    exact hm.1.1
  exact h.hears.elim (this _) (this _)

theorem accepted_pd {op : Nat} {f : Req} {s : State} (h : Heard f s) (n : Nat) : (accepted op f s).pd n = s.pd n := by
  rw [accepted_eq h.port]
  rfl

section
variable {f : Req} {s : State}

theorem snap_frozen (h : FrameReady 0x60 f s) (hf : (accepted 0x60 f s).flag F.WH_CFG.FREEZE = true) :
    Answers (.snap f) s (accepted 0x60 f s) stBusy 0 0 [] :=
  answers_ready (body := fun _ s => opSnap s) h rfl rfl (by decide) (if_pos hf) rfl rfl rfl (by decide)

theorem snap_awake (h : FrameReady 0x60 f s) (hd : deepHeld (accepted 0x60 f s) = false) :
    ¬ (¬ (accepted 0x60 f s).pd 1 = true ∨ deepHeld (accepted 0x60 f s) = true ∨ asleep (accepted 0x60 f s) = true) := by
  have hp : (accepted 0x60 f s).pd 1 = true := (accepted_pd h.1 1).trans h.1.core
  have hm : 2 ≤ (accepted 0x60 f s).mode := of_decide_eq_true h.2.mode
  rintro (h1 | h1 | h1)
  · exact h1 hp
  · rw [hd] at h1; cases h1
  · rw [asleep, beq_iff_eq] at h1
    omega

/-- What SNAP latches or misses (R452). -/
theorem snapped_eq {a : State} (hq : a.whReq = []) (hp : a.lk.apply = none)
    (ha : ¬ (¬ a.pd 1 = true ∨ deepHeld a = true ∨ asleep a = true)) (hf : a.flag F.WH_CFG.FREEZE = false) :
    serveWhistles (raiseWhistle 2 0 a) = if holdingOff a = true then missLatch a else takeLatch [(2, 0)] (2, 0) a := by
  have ht : ({ raiseWhistle 2 0 a with whReq := [] } : State) = a := by
    cases a
    cases hq
    rfl
  unfold serveWhistles
  rw [ht, show (raiseWhistle 2 0 a).whReq = [(2, 0)] from congrArg (· ++ [(2, 0)]) hq, whistleNow_eq hp, if_neg ha]
  simp only [hf, Bool.false_eq_true, or_false]
  rfl

theorem snap_latches (h : FrameReady 0x60 f s) (hf : (accepted 0x60 f s).flag F.WH_CFG.FREEZE = false)
    (hd : deepHeld (accepted 0x60 f s) = false) (hp : (accepted 0x60 f s).lk.apply = none) :
    let a := accepted 0x60 f s
    Completes (.snap f) s fun t => ∃ u,
      Ended 0x60 f s u stOk 0 0 [BitVec.ofNat 32 (u.wh.latchT / nsT), BitVec.ofNat 32 (u.wh.latchT / nsT / 2 ^ 32)] t
      ∧ Whistled a u
      ∧ (holdingOff a = true → u.wh = { a.wh with missed := a.wh.missed + 1 })
      ∧ (holdingOff a = false → u.wh.latchT = a.now ∧ u.wh.snap ≠ none ∧ u.wh.missed = 0 ∧ u.get F.WH_STAT.LAST_SRC = 2
        ∧ u.get F.WH_STAT.LATCH_NO = nextLatch a) := by
  have hq : (accepted 0x60 f s).whReq = [] := accepted_whReq h.1.port h.1.served
  have he := snapped_eq hq hp (snap_awake h hd) hf
  dsimp only
  generalize hu : serveWhistles (raiseWhistle 2 0 (accepted 0x60 f s)) = u at he
  have hb : (fun _ s => opSnap s) f (accepted 0x60 f s)
      = (u, .now stOk 0 0 [BitVec.ofNat 32 (u.wh.latchT / nsT), BitVec.ofNat 32 (u.wh.latchT / nsT / 2 ^ 32)]) := by
    subst hu
    exact if_neg (ne_true_of_eq_false hf)
  obtain ⟨m1, m2⟩ := missLatch_misses (accepted 0x60 f s)
  obtain ⟨l1, l2, l3, l4, l5, l6⟩ := takeLatch_takes [(2, 0)] (2, 0) (accepted 0x60 f s)
  have hw : Whistled (accepted 0x60 f s) u := by
    rw [he]
    split
    · exact m1
    · exact l1
  have hr := hw.1
  have hc : Completes (.snap f) s (Ended 0x60 f s u stOk 0 0
      [BitVec.ofNat 32 (u.wh.latchT / nsT), BitVec.ofNat 32 (u.wh.latchT / nsT / 2 ^ 32)]) := by
    refine ready_ends (body := fun _ s => opSnap s) h rfl (by decide) hb ?_ ?_ ?_ (by decide)
    all_goals rw [hr]
  refine hc.imp fun t ht => ⟨ht.1, u, ht.2, hw, fun hh => ?_, fun hh => ?_⟩
  · rw [he, if_pos hh]; exact m2
  · rw [he, if_neg (ne_true_of_eq_false hh)]
    exact ⟨l2, l3, l4, l5 (by decide), l6⟩

end

end Sys2Proof.Machine

namespace Sys2Proof.Machine

/-! ### Rearm edges -/

/-- The registers of an axis in which the end of a motion shows. -/
theorem haltFields_addr {a : Axis} {f : Fld} (h : haltFields a f) : plannerField f ∨ f.addr ∈
    [(F.AX_STATE.all a).addr, (F.AX_CC_FLAG.all a).addr, (F.AX_LA_STAT.all a).addr, (F.AX_FOLLOW_STAT.all a).addr,
      (F.AX_PLN_STAT.all a).addr, (F.AX_CAM_TABLE.all a).addr] := by
  simp only [haltFields, bridgeFields, stateFields, List.mem_cons, List.not_mem_nil, or_false] at h ⊢
  rcases h with h | (rfl | rfl | rfl | rfl | rfl | rfl | rfl) | (rfl | rfl | rfl) | h | h | h
  · exact Or.inl h
  all_goals right; simp_all

/-- The scope of what follows when the faults of a rearm edge have cleared (R245, R508, R513). -/
def armScope : Scope := { safeScope with
  keep := fun x => haltScope.keep { x with gd := { x.gd with diagPend := [] } } }

theorem safeScope_le_armScope : safeScope.le armScope where
  side _ _ h := h
  keep _ _ h := congrArg (fun x : AxisSt => { x with gd := { x.gd with diagPend := [] } }) h
  fields _ _ h := h

/-- The scope of the faults that a rearm edge clears (R243). -/
def clearScope : Scope := { safeScope with
  keep := fun x => haltScope.keep { x with gd := { x.gd with diagPend := [], shortOff := 0, escEnd := none } }
  fields := fun a f => safeScope.fields a f ∨ f.addr = (F.AX_GD_FLT.all a).addr ∨ f.addr = (F.AX_DEADLINE.all a).addr
    ∨ f = F.AX_PWM_STAT.TRIP_FLT a }

theorem armScope_le_clearScope : armScope.le clearScope where
  side _ _ h := h
  keep _ _ h := congrArg (fun x : AxisSt => { x with gd := { x.gd with shortOff := 0, escEnd := none } }) h
  fields _ _ h := Or.inl h

/-- The scope of a rearm edge that clears faults (R243). -/
def rearmScope : Scope := { clearScope with fields := fun a f => clearScope.fields a f ∨ f = F.AX_STATE_CNT.REARM_CNT a }

theorem clearScope_le_rearmScope : clearScope.le rearmScope := ⟨fun _ _ h => h, fun _ _ h => h, fun _ _ h => Or.inl h⟩

/-- A state without its registers, engines and records of commands, violations and Whistles. -/
def besideFaults (s : State) : State := { besideRecords s with
  freeCtr := 0
  whReq := []
  sec := { s.sec with auditNext := 0, auditBuf := [], auditRate := [] } }

/-- The fields of the count of overcurrents (R476). -/
def violationFields (a : Axis) : List Fld := [F.BK_STAT.VIOL_OC a, F.BK_CNT.OC a, F.SEC_AUDIT_CNT.AUDIT_LOST]

/-- The scope of an overcurrent that latches again at a rearm edge (R243, R244). -/
def tripScope : Scope where
  side := besideFaults
  keep := clearScope.keep
  fields a f := clearScope.fields a f ∨ f ∈ violationFields a
  side_engine _ _ _ := rfl

theorem clearScope_le_tripScope : clearScope.le tripScope where
  side _ _ h := congrArg (fun s : State => { s with
    freeCtr := 0
    whReq := []
    sec := { s.sec with auditNext := 0, auditBuf := [], auditRate := [] } }) h
  keep _ _ h := h
  fields _ _ h := Or.inl h

/-- What a rearm edge does to the field in its row. -/
def clearRow (fresh : BitVec 13) (r : Fld × Nat × Bool) (s : State) : State := clearIf (r.2.2 && !fresh.getLsbD r.2.1) r.1 s

/-- The low sides held since a SHORT and the late periods after the faults have cleared (R251, assumption log 129). -/
def rearmLate (a : Axis) (late : Bool) (s : State) : State :=
  let s := if s.flag (F.AX_GD_FLT.OV_TRIP a) then s else s.modGd a fun g => { g with shortOff := 0 }
  if late && !s.flag (F.AX_DEADLINE.DEADLINE_FLT a) then s.set (F.AX_DEADLINE.LATE_RUN a) 0 else s

/-- The end of a rearm edge (R245, R508, R513). -/
def rearmEnd (a : Axis) (diag : Bool) (s : State) : State :=
  let s := if s.mode = 7 then s else s.set (F.AX_STATE.SAFE_HELD a) 0
  let s := if s.axState a = 5 then s.set (F.AX_STATE.STATE a) 1 else s
  let s := if diag then requestDiag a .rearm s else s
  if diagOk s a then refreshAxis a s else loseReady a s

/-- A rearm edge asks for a diagnostic run (R245). -/
def rearmDiag (s : State) (a : Axis) : Bool := s.flag (F.AX_GD_CFG.DIAG_ON_REARM a) || s.flag (F.AX_GD_FLT.DIAG_FAIL a)

theorem rearmClear_eq (a : Axis) (s : State) : rearmClear a s = if ¬ s.axOn a then s else
    rearmEnd a (rearmDiag (s.inc (F.AX_STATE_CNT.REARM_CNT a)) a)
      (rearmLate a ((s.inc (F.AX_STATE_CNT.REARM_CNT a)).flag (F.AX_DEADLINE.DEADLINE_FLT a))
        (clearFaults a (s.inc (F.AX_STATE_CNT.REARM_CNT a)))) := rfl

theorem haltScope_le_tripScope : haltScope.le tripScope :=
  haltScope_le_safeScope.trans (safeScope_le_armScope.trans (armScope_le_clearScope.trans clearScope_le_tripScope))

section
variable {S : Scope} {l : List Axis} {a : Axis} {r s : State} (ha : a ∈ l)
include ha

theorem rearmEnd_within (diag : Bool) (h : Within armScope l r s) : Within armScope l r (rearmEnd a diag s) := by
  have hH : haltScope.le armScope := haltScope_le_safeScope.trans safeScope_le_armScope
  have h1 : Within armScope l r (if s.mode = 7 then s else s.set (F.AX_STATE.SAFE_HELD a) 0) := .ite h (h.set 0 ha (Or.inr rfl))
  unfold rearmEnd
  dsimp only
  generalize (if s.mode = 7 then s else s.set (F.AX_STATE.SAFE_HELD a) 0) = v at h1 ⊢
  have h2 : Within armScope l r (if v.axState a = 5 then v.set (F.AX_STATE.STATE a) 1 else v) := h1.stateIf hH ha 1
  generalize (if v.axState a = 5 then v.set (F.AX_STATE.STATE a) 1 else v) = w at h2 ⊢
  have h3 : Within armScope l r (if diag = true then requestDiag a .rearm w else w) := by
    unfold requestDiag
    exact .ite (.ite h2 (h2.modGd ha fun _ => rfl)) h2
  generalize (if diag = true then requestDiag a .rearm w else w) = x at h3 ⊢
  exact .ite (refreshAxis_within hH.stand.refresh ha h3) (loseReady_within hH ha h3)

theorem rearmLate_within (late : Bool) (h : Within clearScope l r s) : Within clearScope l r (rearmLate a late s) := by
  have h1 : Within clearScope l r (if s.flag (F.AX_GD_FLT.OV_TRIP a) then s else s.modGd a fun g => { g with shortOff := 0 }) :=
    .ite h (h.modGd ha fun _ => rfl)
  unfold rearmLate
  exact .ite (h1.set 0 ha (Or.inr (Or.inr (Or.inl rfl)))) h1

omit ha in
theorem rearmRows_field {r : Fld × Nat × Bool} (hr : r ∈ rearmRows s a) : clearScope.fields a r.1 := by
  simp only [rearmRows, List.mem_cons, List.not_mem_nil, or_false] at hr
  rcases hr with rfl | rfl | rfl | rfl | rfl | rfl | rfl | rfl | rfl | rfl | rfl | rfl
  all_goals simp [clearScope]

theorem clearFaults_within (h : Within clearScope l r s) : Within clearScope l r (clearFaults a s) := by
  have hF : ∀ f : Fld, f.addr = (F.AX_GD_FLT.all a).addr → clearScope.fields a f := fun f hf => Or.inr (Or.inl hf)
  have h1 : Within clearScope l r (s.each (rearmRows s a) (clearRow (freshFaults s a))) :=
    h.each _ fun x hx t ht => .ite (ht.set 0 ha (rearmRows_field hx)) ht
  unfold clearFaults
  have h2 := ((h1.set (if freshFaults s a = 0 then 0 else (s.gd a).fltFirst) ha (hF (F.AX_GD_FLT.FIRST_CAUSE a) rfl)).set
    (if freshFaults s a = 0 then 0 else (s.gd a).fltOff.toNat) ha (hF (F.AX_GD_FLT.SW_OFF a) rfl))
  exact .ite h2 (h2.modGd ha fun _ => rfl)

/-- What a rearm edge does after its count. -/
theorem rearmClear_clears (hon : s.axOn a = true) : Within clearScope l (s.inc (F.AX_STATE_CNT.REARM_CNT a)) (rearmClear a s) := by
  rw [rearmClear_eq, if_neg (not_not.mpr hon)]
  have h := rearmLate_within ha ((s.inc (F.AX_STATE_CNT.REARM_CNT a)).flag (F.AX_DEADLINE.DEADLINE_FLT a))
    (clearFaults_within ha (.refl _ l (s.inc (F.AX_STATE_CNT.REARM_CNT a))))
  exact h.trans ((rearmEnd_within ha _ (.refl _ l _)).widen armScope_le_clearScope)

theorem rearmClear_within (h : Within rearmScope l r s) : Within rearmScope l r (rearmClear a s) := by
  by_cases hon : s.axOn a = true
  · exact (h.inc ha (Or.inr rfl)).trans ((rearmClear_clears ha hon).widen clearScope_le_rearmScope)
  · rwa [rearmClear_eq, if_pos hon]

theorem latchFault_trips {f : Fld} (cause : Nat) (hf : tripScope.fields a f) (h : Within tripScope l r s) :
    Within tripScope l r (latchFault a f cause s) := by
  have h0 : Within tripScope l r (noteFresh a cause s) := by
    unfold noteFresh
    exact h.modGd ha fun _ => rfl
  have h1 : Within tripScope l r (noteCause a cause ((noteFresh a cause s).raise f)) := by
    unfold noteCause
    exact .ite ((h0.raise ha hf).set _ ha (Or.inl (Or.inr (Or.inl rfl)))) (h0.raise ha hf)
  unfold latchFault faultWhistle
  exact .ite h0 (.ite (h1.beside rfl rfl rfl) h1)

theorem switchFault_trips {f : Fld} (cause : Nat) (whole : Bool) (mask : BitVec 8) (hf : tripScope.fields a f) (h : Within tripScope l r s) :
    Within tripScope l r (switchFault a f cause whole mask s) := by
  have hH := haltScope_le_tripScope
  have hG : ∀ g : Fld, g.addr = (F.AX_GD_FLT.all a).addr → tripScope.fields a g := fun g hg => Or.inl (Or.inr (Or.inl hg))
  have h1 : Within tripScope l r (endStall a (latchFault a f cause s)) :=
    endStall_within hH.stand.refresh ha (latchFault_trips ha cause hf h)
  unfold switchFault
  dsimp only
  generalize endStall a (latchFault a f cause s) = v at h1 ⊢
  generalize heldBy v a whole mask = m
  have h2 : Within tripScope l r ((v.set (F.AX_GD_FLT.SW_OFF a) (v.get (F.AX_GD_FLT.SW_OFF a) ||| m.toNat)).modGd a fun g =>
      { g with fltOff := g.fltOff ||| m }) := (h1.set _ ha (hG (F.AX_GD_FLT.SW_OFF a) rfl)).modGd ha fun _ => rfl
  generalize ((v.set (F.AX_GD_FLT.SW_OFF a) (v.get (F.AX_GD_FLT.SW_OFF a) ||| m.toNat)).modGd a fun g =>
      { g with fltOff := g.fltOff ||| m }) = w at h2 ⊢
  have h3 : Within tripScope l r (if safeShort w a || w.flag (F.AX_GD_FLT.OV_TRIP a) then
      w.modGd a fun g => { g with shortOff := g.shortOff ||| (mask &&& lowMask) } else w) := .ite (h2.modGd ha fun _ => rfl) h2
  generalize (if safeShort w a || w.flag (F.AX_GD_FLT.OV_TRIP a) then
      w.modGd a fun g => { g with shortOff := g.shortOff ||| (mask &&& lowMask) } else w) = x at h3 ⊢
  have h4 : Within tripScope l r (x.modGd a fun g => { g with escEnd := some (x.now + x.get (F.AX_GD_CFG.ESC_WIN a) * msT) }) :=
    h3.modGd ha fun _ => rfl
  split
  · exact .ite (enterFault_within hH ha (latchFault_trips ha 11 (hG (F.AX_GD_FLT.ESCALATED a) rfl) h3)) h4
  · exact h4

theorem audit_trips (code role port axis status : Nat) (data : List Word) (h : Within tripScope l r s) :
    Within tripScope l r (audit code role port axis status data s) := by
  obtain ⟨he, hk⟩ := audit_eq code role port axis status data s
  generalize audit code role port axis status data s = t at he hk ⊢
  have hx : ∀ b, t.ax b = s.ax b := fun b => by rw [he]; rfl
  refine h.trans ⟨?_, fun b => by rw [hx], fun b _ => hx b, fun g hg => hk g fun f hf => ?_⟩
  · rw [he]; rfl
  · obtain rfl := List.mem_singleton.mp hf
    exact hg a ha F.SEC_AUDIT_CNT.AUDIT_LOST (Or.inr (by simp [violationFields]))

theorem auditLimited_trips (key code role port axis status : Nat) (data : List Word) (h : Within tripScope l r s) :
    Within tripScope l r (auditLimited key code role port axis status data s) := by
  unfold auditLimited
  split
  · exact .ite h (audit_trips ha _ _ _ _ _ _ (h.beside rfl rfl rfl))
  · exact audit_trips ha _ _ _ _ _ _ (h.beside rfl rfl rfl)

theorem overcurrent_trips (w : Fin 2) (h : Within tripScope l r s) : Within tripScope l r (overcurrent a w s) := by
  have h1 : Within tripScope l r (countViolation a 3 (F.BK_STAT.VIOL_OC a) (F.BK_CNT.OC a) s) := by
    unfold countViolation
    exact auditLimited_trips ha _ _ _ _ _ _ _
      ((h.raise ha (Or.inr (by simp [violationFields]))).inc ha (Or.inr (by simp [violationFields])))
  unfold overcurrent
  exact noteGates_within (gateScope_le_bridgeScope.trans haltScope_le_tripScope.stand.bridge) ha
    (switchFault_trips ha 1 false _ (Or.inl (Or.inr (Or.inl rfl))) h1)

end

end Sys2Proof.Machine

namespace Sys2Proof.Machine

/-! ### The fields that a rearm edge clears -/

theorem clearRow_get_apart {fresh : BitVec 13} {r : Fld × Nat × Bool} {g : Fld} (h : g.apart r.1) (s : State) :
    (clearRow fresh r s).get g = s.get g := by
  unfold clearRow clearIf
  split
  · exact State.get_set_other _ _ _ _ h
  · rfl

theorem clearRows_get_apart {fresh : BitVec 13} {g : Fld} (l : List (Fld × Nat × Bool)) (h : ∀ r ∈ l, g.apart r.1) (s : State) :
    (s.each l (clearRow fresh)).get g = s.get g := by
  induction l generalizing s with
  | nil => rfl
  | cons r l ih =>
    exact (ih (fun x hx => h x (List.mem_cons_of_mem _ hx)) _).trans (clearRow_get_apart (h r List.mem_cons_self) s)

/-- A field of a row is cleared where its condition has gone and no fault of its cause is fresh. -/
def rowValue (fresh : BitVec 13) (s : State) (r : Fld × Nat × Bool) : Nat := if r.2.2 && !fresh.getLsbD r.2.1 then 0 else s.get r.1

theorem clearRow_get_same {fresh : BitVec 13} {r : Fld × Nat × Bool} (hi : r.1.hi < 32) (hl : r.1.lo ≤ r.1.hi) (s : State) :
    (clearRow fresh r s).get r.1 = rowValue fresh s r := by
  unfold clearRow clearIf rowValue
  split
  · exact State.get_set_same _ _ _ hi hl (Nat.two_pow_pos _)
  · rfl

theorem clearRows_get {fresh : BitVec 13} {l : List (Fld × Nat × Bool)} (hp : l.Pairwise fun r q => r.1.apart q.1 ∧ q.1.apart r.1)
    (hb : ∀ r ∈ l, r.1.hi < 32 ∧ r.1.lo ≤ r.1.hi) (s : State) {r : Fld × Nat × Bool} (hr : r ∈ l) :
    (s.each l (clearRow fresh)).get r.1 = rowValue fresh s r := by
  induction l generalizing s with
  | nil => cases hr
  | cons q l ih =>
    rw [List.pairwise_cons] at hp
    change (State.each (clearRow fresh q s) l (clearRow fresh)).get r.1 = _
    rcases List.mem_cons.mp hr with rfl | hr
    · rw [clearRows_get_apart l fun x hx => (hp.1 x hx).1]
      exact clearRow_get_same (hb r List.mem_cons_self).1 (hb r List.mem_cons_self).2 s
    · rw [ih hp.2 (fun x hx => hb x (List.mem_cons_of_mem _ hx)) _ hr]
      unfold rowValue
      rw [clearRow_get_apart (hp.1 r hr).2]

theorem rearmRows_apart (s : State) (a : Axis) : (rearmRows s a).Pairwise fun r q => r.1.apart q.1 ∧ q.1.apart r.1 := by
  simp [rearmRows, Fld.apart]

theorem rearmRows_bounds (s : State) (a : Axis) : ∀ r ∈ rearmRows s a, r.1.hi < 32 ∧ r.1.lo ≤ r.1.hi := by
  simp [rearmRows]

/-- The first cause and the held switches after a rearm edge (R243, R244). -/
def clearCauses (a : Axis) (s0 s : State) : State :=
  (s.set (F.AX_GD_FLT.FIRST_CAUSE a) (if freshFaults s0 a = 0 then 0 else (s0.gd a).fltFirst)).set (F.AX_GD_FLT.SW_OFF a)
    (if freshFaults s0 a = 0 then 0 else (s0.gd a).fltOff.toNat)

theorem clearFaults_eq (a : Axis) (s : State) : clearFaults a s =
    if freshSwitch s a then clearCauses a s (s.each (rearmRows s a) (clearRow (freshFaults s a)))
    else (clearCauses a s (s.each (rearmRows s a) (clearRow (freshFaults s a)))).modGd a fun g => { g with escEnd := none } := rfl

theorem clearFaults_get (a : Axis) (s : State) (g : Fld) :
    (clearFaults a s).get g = (clearCauses a s (s.each (rearmRows s a) (clearRow (freshFaults s a)))).get g := by
  rw [clearFaults_eq]
  split <;> rfl

theorem clearCauses_apart {a : Axis} {s0 : State} (s : State) {g : Fld} (h1 : g.apart (F.AX_GD_FLT.FIRST_CAUSE a))
    (h2 : g.apart (F.AX_GD_FLT.SW_OFF a)) : (clearCauses a s0 s).get g = s.get g := by
  unfold clearCauses
  rw [State.get_set_other _ _ _ _ h2, State.get_set_other _ _ _ _ h1]

theorem clearCauses_clean {a : Axis} {s0 : State} (h : freshFaults s0 a = 0) (s : State) :
    (clearCauses a s0 s).get (F.AX_GD_FLT.FIRST_CAUSE a) = 0 ∧ (clearCauses a s0 s).get (F.AX_GD_FLT.SW_OFF a) = 0 := by
  unfold clearCauses
  rw [if_pos h, if_pos h]
  refine ⟨?_, State.get_set_same _ _ _ (by simp) (by simp) (by simp)⟩
  rw [State.get_set_other _ _ _ _ (by simp)]
  exact State.get_set_same _ _ _ (by simp) (by simp) (by simp)

theorem rearmRows_cause (s : State) (a : Axis) :
    ∀ r ∈ rearmRows s a, r.1.apart (F.AX_GD_FLT.FIRST_CAUSE a) ∧ r.1.apart (F.AX_GD_FLT.SW_OFF a) := by
  simp [rearmRows, Fld.apart]

theorem clearFaults_row {a : Axis} {s : State} {r : Fld × Nat × Bool} (hr : r ∈ rearmRows s a) :
    (clearFaults a s).get r.1 = rowValue (freshFaults s a) s r := by
  obtain ⟨h1, h2⟩ := rearmRows_cause s a r hr
  rw [clearFaults_get, clearCauses_apart _ h1 h2, clearRows_get (rearmRows_apart s a) (rearmRows_bounds s a) s hr]

theorem clearFaults_other {a : Axis} {s : State} {g : Fld} (hr : ∀ r ∈ rearmRows s a, g.apart r.1)
    (h1 : g.apart (F.AX_GD_FLT.FIRST_CAUSE a)) (h2 : g.apart (F.AX_GD_FLT.SW_OFF a)) : (clearFaults a s).get g = s.get g := by
  rw [clearFaults_get, clearCauses_apart _ h1 h2, clearRows_get_apart _ hr]

/-- With no fresh fault the escalation window closes (R243). -/
theorem clearFaults_escEnd {a : Axis} {s : State} (h : freshFaults s a = 0) : ((clearFaults a s).gd a).escEnd = none := by
  have hf : freshSwitch s a = false := by simp [freshSwitch, h]
  rw [clearFaults_eq, if_neg (ne_true_of_eq_false hf), State.modGd_gd_self]

end Sys2Proof.Machine

namespace Sys2Proof.Machine

/-- The registers in which the faults that a rearm edge clears show, and the count of the edges. -/
def rearmRegs (a : Axis) : List Nat :=
  [(F.AX_GD_FLT.all a).addr, (F.AX_DEADLINE.all a).addr, (F.AX_STATE_CNT.all a).addr, (F.AX_PWM_STAT.all a).addr]

theorem safeFields_rearmRegs {a : Axis} {f : Fld} (h : safeScope.fields a f) : f.addr ∉ rearmRegs a := by
  have hf : plannerField f ∨ f.addr ∈ [(F.AX_STATE.all a).addr, (F.AX_CC_FLAG.all a).addr, (F.AX_LA_STAT.all a).addr,
      (F.AX_FOLLOW_STAT.all a).addr, (F.AX_PLN_STAT.all a).addr, (F.AX_CAM_TABLE.all a).addr] :=
    h.elim haltFields_addr fun e => Or.inr (by simp [e])
  simp only [rearmRegs, List.mem_cons, List.not_mem_nil, or_false] at hf ⊢
  rcases hf with hf | hf
  · have := plannerField_low hf
    omega
  · omega

theorem rearmEnd_get {a : Axis} {g : Fld} (hg : g.addr ∈ rearmRegs a) (diag : Bool) (s : State) :
    (rearmEnd a diag s).get g = s.get g :=
  (rearmEnd_within List.mem_cons_self diag (.refl armScope [a] s)).fields g fun b hb f hf => Or.inl fun e => by
    obtain rfl := List.mem_singleton.mp hb
    exact safeFields_rearmRegs hf (e ▸ hg)

theorem rearmLate_get {a : Axis} {g : Fld} (hg : g.apart (F.AX_DEADLINE.LATE_RUN a)) (late : Bool) (s : State) :
    (rearmLate a late s).get g = s.get g := by
  have h : ∀ t : State, (t.set (F.AX_DEADLINE.LATE_RUN a) 0).get g = t.get g := fun t => State.get_set_other _ _ _ _ hg
  unfold rearmLate
  dsimp only
  split <;> split <;> simp only [h, State.modGd_get]

theorem rearmLate_lateRun (a : Axis) (late : Bool) {s : State} (hd : s.get (F.AX_DEADLINE.DEADLINE_FLT a) = 0) :
    (rearmLate a late s).get (F.AX_DEADLINE.LATE_RUN a) = if late then 0 else s.get (F.AX_DEADLINE.LATE_RUN a) := by
  have hf : s.flag (F.AX_DEADLINE.DEADLINE_FLT a) = false := by simp [State.flag, hd]
  have h : ∀ t : State, (t.set (F.AX_DEADLINE.LATE_RUN a) 0).get (F.AX_DEADLINE.LATE_RUN a) = 0 := fun t =>
    State.get_set_same _ _ _ (by simp) (by simp) (by simp)
  unfold rearmLate
  dsimp only
  cases late <;> split <;> simp [hf, h]

theorem rearmEnd_escEnd (a : Axis) (diag : Bool) (s : State) : ((rearmEnd a diag s).gd a).escEnd = (s.gd a).escEnd := by
  have h := (rearmEnd_within List.mem_cons_self diag (.refl armScope [a] s)).own a
  have := congrArg (fun x : AxisSt => x.gd.escEnd) h
  exact this

theorem rearmLate_escEnd (a : Axis) (late : Bool) (s : State) : ((rearmLate a late s).gd a).escEnd = (s.gd a).escEnd := by
  have h : ∀ (c : Prop) [Decidable c] (t : State), ((if c then t.set (F.AX_DEADLINE.LATE_RUN a) 0 else t).gd a) = t.gd a := fun c _ t => by
    split <;> rfl
  unfold rearmLate
  dsimp only
  rw [h]
  split
  · rfl
  · rw [State.modGd_gd_self]

/-- The fields of the faults that a rearm edge may clear, with their causes. -/
def rearmFields (a : Axis) : List (Fld × Nat) := (rearmRows State.reset a).map fun r => (r.1, r.2.1)

theorem rearmRows_fields (s : State) (a : Axis) : (rearmRows s a).map (fun r => (r.1, r.2.1)) = rearmFields a := rfl

theorem rearmFields_reg {a : Axis} {p : Fld × Nat} (h : p ∈ rearmFields a) :
    p.1.addr ∈ rearmRegs a ∧ p.1.apart (F.AX_DEADLINE.LATE_RUN a) ∧ p.1.apart (F.AX_STATE_CNT.REARM_CNT a) := by
  revert p
  simp [rearmFields, rearmRows, rearmRegs, Fld.apart]

/-- From `s` to `t` a rearm edge has come to the axis (R243, R244). -/
structure Rearmed (a : Axis) (s t : State) : Prop where
  count : t.get (F.AX_STATE_CNT.REARM_CNT a) = counted s (F.AX_STATE_CNT.REARM_CNT a)
  clean : freshFaults s a = 0 → (∀ f ∈ [F.AX_GD_FLT.SW_OFF a, F.AX_GD_FLT.FIRST_CAUSE a, F.AX_GD_FLT.OC a, F.AX_GD_FLT.ESCALATED a,
      F.AX_DEADLINE.DEADLINE_FLT a], t.get f = 0)
    ∧ t.get (F.AX_DEADLINE.LATE_RUN a) = (if s.get (F.AX_DEADLINE.DEADLINE_FLT a) = 1 then 0 else s.get (F.AX_DEADLINE.LATE_RUN a))
    ∧ (t.gd a).escEnd = none
  fresh : ∀ p ∈ rearmFields a, (freshFaults s a).getLsbD p.2 = true → t.get p.1 = s.get p.1

section
variable {a : Axis} {s : State}

/-- The rows of the faults that clear whatever their conditions. -/
theorem rearmRows_clears (s : State) (a : Axis) :
    (F.AX_GD_FLT.OC a, 1, true) ∈ rearmRows s a ∧ (F.AX_GD_FLT.ESCALATED a, 11, true) ∈ rearmRows s a
      ∧ (F.AX_DEADLINE.DEADLINE_FLT a, 11, true) ∈ rearmRows s a := by
  simp [rearmRows]

theorem rearmClear_get {g : Fld} (hon : s.axOn a = true) (hg : g.addr ∈ rearmRegs a) (hl : g.apart (F.AX_DEADLINE.LATE_RUN a)) :
    (rearmClear a s).get g = (clearFaults a (s.inc (F.AX_STATE_CNT.REARM_CNT a))).get g := by
  rw [rearmClear_eq, if_neg (not_not.mpr hon), rearmEnd_get hg, rearmLate_get hl]

theorem rearmClear_count (hon : s.axOn a = true) :
    (rearmClear a s).get (F.AX_STATE_CNT.REARM_CNT a) = counted s (F.AX_STATE_CNT.REARM_CNT a) := by
  rw [rearmClear_get hon (by simp [rearmRegs]) (by simp [Fld.apart]), clearFaults_other, inc_get_same _ _ (by simp) (by simp)]
  all_goals simp [rearmRows, Fld.apart]

theorem inc_get_apart (s : State) {f g : Fld} (h : g.apart f) : (s.inc f).get g = s.get g := State.get_set_other _ _ _ _ h

theorem rearmClear_row (hon : s.axOn a = true) {r : Fld × Nat × Bool} (hr : r ∈ rearmRows (s.inc (F.AX_STATE_CNT.REARM_CNT a)) a) :
    (rearmClear a s).get r.1 = rowValue (freshFaults s a) s r := by
  have hm : (r.1, r.2.1) ∈ rearmFields a := by
    rw [← rearmRows_fields (s.inc (F.AX_STATE_CNT.REARM_CNT a))]
    exact List.mem_map_of_mem hr
  obtain ⟨h1, h2, h3⟩ := rearmFields_reg hm
  rw [rearmClear_get hon h1 h2, clearFaults_row hr, rowValue, rowValue, inc_get_apart s h3]
  rfl

theorem rearmClear_fresh (hon : s.axOn a = true) (p : Fld × Nat) (hp : p ∈ rearmFields a)
    (hf : (freshFaults s a).getLsbD p.2 = true) : (rearmClear a s).get p.1 = s.get p.1 := by
  rw [← rearmRows_fields (s.inc (F.AX_STATE_CNT.REARM_CNT a)), List.mem_map] at hp
  obtain ⟨r, hr, rfl⟩ := hp
  rw [rearmClear_row hon hr, rowValue, hf, Bool.not_true, Bool.and_false, if_neg Bool.false_ne_true]

theorem rearmClear_clean (hon : s.axOn a = true) (hf : freshFaults s a = 0) :
    ∀ f ∈ [F.AX_GD_FLT.SW_OFF a, F.AX_GD_FLT.FIRST_CAUSE a, F.AX_GD_FLT.OC a, F.AX_GD_FLT.ESCALATED a, F.AX_DEADLINE.DEADLINE_FLT a],
      (rearmClear a s).get f = 0 := by
  obtain ⟨r1, r2, r3⟩ := rearmRows_clears (s.inc (F.AX_STATE_CNT.REARM_CNT a)) a
  have hz : ∀ (f : Fld) (n : Nat), rowValue (freshFaults s a) s (f, n, true) = 0 := fun f n => by simp [rowValue, hf]
  obtain ⟨c1, c2⟩ := clearCauses_clean (s0 := s.inc (F.AX_STATE_CNT.REARM_CNT a)) hf
    ((s.inc (F.AX_STATE_CNT.REARM_CNT a)).each (rearmRows (s.inc (F.AX_STATE_CNT.REARM_CNT a)) a)
      (clearRow (freshFaults (s.inc (F.AX_STATE_CNT.REARM_CNT a)) a)))
  simp only [List.forall_mem_cons]
  refine ⟨?_, ?_, ?_, ?_, ?_, by simp⟩
  · rw [rearmClear_get hon (by simp [rearmRegs]) (by simp [Fld.apart]), clearFaults_get]; exact c2
  · rw [rearmClear_get hon (by simp [rearmRegs]) (by simp [Fld.apart]), clearFaults_get]; exact c1
  · exact (rearmClear_row hon r1).trans (hz _ _)
  · exact (rearmClear_row hon r2).trans (hz _ _)
  · exact (rearmClear_row hon r3).trans (hz _ _)

theorem rearmClear_lateRun (hon : s.axOn a = true) (hf : freshFaults s a = 0) :
    (rearmClear a s).get (F.AX_DEADLINE.LATE_RUN a)
      = if s.get (F.AX_DEADLINE.DEADLINE_FLT a) = 1 then 0 else s.get (F.AX_DEADLINE.LATE_RUN a) := by
  obtain ⟨-, -, r3⟩ := rearmRows_clears (s.inc (F.AX_STATE_CNT.REARM_CNT a)) a
  have hd : (clearFaults a (s.inc (F.AX_STATE_CNT.REARM_CNT a))).get (F.AX_DEADLINE.DEADLINE_FLT a) = 0 := by
    rw [clearFaults_row r3, rowValue, show freshFaults (s.inc (F.AX_STATE_CNT.REARM_CNT a)) a = 0 from hf]
    simp
  rw [rearmClear_eq, if_neg (not_not.mpr hon), rearmEnd_get (by simp [rearmRegs]), rearmLate_lateRun a _ hd, clearFaults_other
    (by simp [rearmRows, Fld.apart]) (by simp [Fld.apart]) (by simp [Fld.apart]), inc_get_apart s (by simp [Fld.apart])]
  refine if_congr ?_ rfl rfl
  rw [flag_eq_true_iff _ _ (by simp [fieldMax]), inc_get_apart s (by simp [Fld.apart])]

theorem rearmClear_rearmed (hon : s.axOn a = true) : Rearmed a s (rearmClear a s) where
  count := rearmClear_count hon
  clean hf := by
    refine ⟨rearmClear_clean hon hf, rearmClear_lateRun hon hf, ?_⟩
    rw [rearmClear_eq, if_neg (not_not.mpr hon), rearmEnd_escEnd, rearmLate_escEnd]
    exact clearFaults_escEnd hf
  fresh := rearmClear_fresh hon

end

end Sys2Proof.Machine

namespace Sys2Proof.Machine

/-! ### A rearm edge on several axes -/

/-- A shunt comparator whose trip latches at a rearm edge (R243). -/
def ocTrips (s : State) (x : Axis) (k : Fin 2) : Prop := s.axOn x = true ∧ s.get (F.AX_CC_CFG.MODE x) = 0 ∧ ocTripped s x k = true

theorem violationFields_high {a : Axis} {f : Fld} (h : f ∈ violationFields a) : 0x301000 ≤ f.addr := by
  simp only [violationFields, List.mem_cons, List.not_mem_nil, or_false] at h
  rcases h with rfl | rfl | rfl <;> dsimp only <;> omega

theorem clearFields_addr {a : Axis} {f : Fld} (h : clearScope.fields a f) : plannerField f ∨ f.addr ∈
    [(F.AX_STATE.all a).addr, (F.AX_CC_FLAG.all a).addr, (F.AX_LA_STAT.all a).addr, (F.AX_FOLLOW_STAT.all a).addr,
      (F.AX_PLN_STAT.all a).addr, (F.AX_CAM_TABLE.all a).addr, (F.AX_GD_FLT.all a).addr, (F.AX_DEADLINE.all a).addr,
      (F.AX_PWM_STAT.all a).addr] := by
  rcases h with (h | rfl) | h | h | rfl
  · rcases haltFields_addr h with h | h
    · exact Or.inl h
    · right
      simp only [List.mem_cons, List.not_mem_nil, or_false] at h ⊢
      omega
  all_goals right; simp_all

/-- The scope of a rearm edge (R243, R244): registers, engine and Backstop of its axis. -/
def edgeRearmScope : Scope where
  side := besideFaults
  keep := clearScope.keep
  fields a f := plannerField f ∨ engineBlock a f.addr ∧ f.addr ∉ [(F.AX_CC_CFG.all a).addr, (F.AX_TRIP_FILT.all a).addr] ∨ 0x301000 ≤ f.addr
  side_engine _ _ _ := rfl

theorem tripScope_le_edgeRearmScope : tripScope.le edgeRearmScope where
  side _ _ h := h
  keep _ _ h := h
  fields a f h := by
    rcases h with h | h
    · rcases clearFields_addr h with h | h
      · exact Or.inl h
      · right; left
        simp only [List.mem_cons, List.not_mem_nil, or_false] at h ⊢
        unfold engineBlock
        refine ⟨?_, ?_⟩ <;> omega
    · exact Or.inr (Or.inr (violationFields_high h))

theorem rearmScope_le_edgeRearmScope : rearmScope.le edgeRearmScope where
  side := (clearScope_le_tripScope.trans tripScope_le_edgeRearmScope).side
  keep _ _ h := h
  fields a f h := by
    rcases h with h | rfl
    · exact (clearScope_le_tripScope.trans tripScope_le_edgeRearmScope).fields a f h
    · refine Or.inr (Or.inl ⟨?_, by simp⟩)
      unfold engineBlock
      dsimp only
      omega

section
variable {l : List Axis} {a : Axis} {r s t : State}

theorem Within.beside_faults (h : Within edgeRearmScope l s t) {β : Type} (p : State → β) (hp : ∀ u, p (besideFaults u) = p u) :
    p t = p s := by
  have := congrArg p h.side
  exact (hp t).symm.trans (this.trans (hp s))

theorem Within.rearm_axOn (h : Within edgeRearmScope l s t) (x : Axis) : t.axOn x = s.axOn x := by
  have hung : t.get F.BLK_RST_STAT.BLK_HUNG = s.get F.BLK_RST_STAT.BLK_HUNG := h.fields _ fun b _ f hf => by
    rcases hf with hf | ⟨hf, -⟩ | hf
    · exact Or.inl (blkHung_plannerField hf)
    · have := engineBlock_bounds hf
      exact Or.inl (by dsimp only; omega)
    · exact Or.inl (by dsimp only; omega)
  exact axOn_congr (h.beside_faults State.pw fun _ => rfl) (h.beside_faults State.rst fun _ => rfl) hung x

theorem Within.ocTrips (h : Within edgeRearmScope l s t) (x : Axis) (k : Fin 2) : Machine.ocTrips t x k ↔ Machine.ocTrips s x k := by
  have hown : ∀ g : Fld, g.addr ∈ [(F.AX_CC_CFG.all x).addr, (F.AX_TRIP_FILT.all x).addr] → t.get g = s.get g := fun g hg =>
    h.fields g fun b _ f hf => Or.inl fun e => by
      have hx : engineBlock x g.addr := by
        simp only [List.mem_cons, List.not_mem_nil, or_false] at hg
        unfold engineBlock
        omega
      have := engineBlock_bounds hx
      rcases hf with hf | ⟨hf, hn⟩ | hf
      · have := plannerField_low hf
        omega
      · obtain rfl := engineBlock_inj hx (e ▸ hf)
        exact hn (e ▸ hg)
      · omega
  have hon : t.axOn x = s.axOn x := h.rearm_axOn x
  have hoc : (t.cc x).oc = (s.cc x).oc := by
    have := congrArg (fun y : AxisSt => y.cc.oc) (h.own x)
    exact this
  have hnow : t.now = s.now := h.beside_faults State.now fun _ => rfl
  unfold Machine.ocTrips ocTripped ocLen
  rw [hon, hoc, hnow, hown _ (by simp), hown _ (by simp)]

theorem rearmEdge_eq (a : Axis) (s : State) : rearmEdge a s =
    if ¬ (rearmClear a s).axOn a ∨ (rearmClear a s).get (F.AX_CC_CFG.MODE a) ≠ 0 ∨ (freshFaults s a).getLsbD 1 then rearmClear a s
    else (rearmClear a s).each [(0 : Fin 2), 1] fun w s => if ocTripped s a w then overcurrent a w s else s := rfl

theorem rearmClear_edge (a : Axis) (s : State) : Within edgeRearmScope [a] s (rearmClear a s) :=
  (rearmClear_within List.mem_cons_self (.refl _ _ _)).widen rearmScope_le_edgeRearmScope

/-- What the comparators still tripped do after a rearm edge. -/
theorem rearmEdge_trips (a : Axis) (s : State) : Within tripScope [a] (rearmClear a s) (rearmEdge a s) := by
  rw [rearmEdge_eq]
  refine .ite (.refl _ _ _) (.each _ (.refl _ _ _) fun w _ t ht => ?_)
  exact .ite (overcurrent_trips List.mem_cons_self w ht) ht

theorem rearmEdge_edge (a : Axis) (s : State) : Within edgeRearmScope [a] s (rearmEdge a s) :=
  (rearmClear_edge a s).trans ((rearmEdge_trips a s).widen tripScope_le_edgeRearmScope)

/-- With no comparator still tripped a rearm edge only clears (R243). -/
theorem rearmEdge_quiet (h : ∀ k, ¬ Machine.ocTrips s a k) : rearmEdge a s = rearmClear a s := by
  rw [rearmEdge_eq]
  split
  · rfl
  case isFalse hc =>
    simp only [not_or, not_not] at hc
    obtain ⟨h1, h2, -⟩ := hc
    have hk : ∀ k, ¬ ocTripped (rearmClear a s) a k = true := fun k hk =>
      h k (((rearmClear_edge a s).ocTrips a k).mp ⟨h1, h2, hk⟩)
    change (if ocTripped (if ocTripped (rearmClear a s) a 0 then _ else _) a 1 then _ else _) = _
    rw [if_neg (hk 0), if_neg (hk 1)]

theorem rearmEdge_count (hon : s.axOn a = true) :
    (rearmEdge a s).get (F.AX_STATE_CNT.REARM_CNT a) = counted s (F.AX_STATE_CNT.REARM_CNT a) := by
  rw [← rearmClear_count hon]
  refine (rearmEdge_trips a s).fields _ fun b hb f hf => Or.inl ?_
  obtain rfl := List.mem_singleton.mp hb
  rcases hf with hf | hf
  · rcases clearFields_addr hf with hf | hf
    · have := plannerField_low hf
      dsimp only
      omega
    · simp only [List.mem_cons, List.not_mem_nil, or_false] at hf
      dsimp only at hf ⊢
      omega
  · have := violationFields_high hf
    dsimp only
    omega

theorem noteCause_get_apart (a : Axis) (cause : Nat) (s : State) {g : Fld} (hg : g.apart (F.AX_GD_FLT.FIRST_CAUSE a)) :
    (noteCause a cause s).get g = s.get g := by
  unfold noteCause
  split
  · exact State.get_set_other _ _ _ _ hg
  · rfl

/-- A fault field that is set stays set when another fault of its register occurs. -/
theorem latchFault_get_other (a : Axis) {f g : Fld} (cause : Nat) (s : State) (hg : g.apart f) (hc : g.apart (F.AX_GD_FLT.FIRST_CAUSE a)) :
    (latchFault a f cause s).get g = s.get g := by
  unfold latchFault
  dsimp only
  split
  · rfl
  · rw [faultWhistle_get, noteCause_get_apart _ _ _ hc]
    exact State.get_set_other _ _ _ _ hg

theorem latchFault_oc (a : Axis) (cause : Nat) (s : State) : (latchFault a (F.AX_GD_FLT.OC a) cause s).get (F.AX_GD_FLT.OC a) = 1 := by
  unfold latchFault
  dsimp only
  split
  case isTrue h => exact (flag_eq_true_iff _ _ (by simp [fieldMax])).mp h
  case isFalse =>
    rw [faultWhistle_get, noteCause_get_apart _ _ _ (by simp [Fld.apart])]
    exact State.get_set_same _ _ _ (by simp) (by simp) (by simp)

theorem axisFault_oc (a : Axis) (s : State) : (axisFault a (F.AX_GD_FLT.ESCALATED a) 11 s).get (F.AX_GD_FLT.OC a) = s.get (F.AX_GD_FLT.OC a) := by
  have h : (enterFault a (latchFault a (F.AX_GD_FLT.ESCALATED a) 11 s)).get (F.AX_GD_FLT.OC a) = _ :=
    (enterFault_within (S := haltScope) Scope.le_rfl List.mem_cons_self (.refl _ [a] _)).fields _ fun b hb f hf => by
      obtain rfl := List.mem_singleton.mp hb
      exact Or.inl fun e => (haltFields_apart hf).2 e.symm
  rw [axisFault, h]
  exact latchFault_get_other a 11 s (by simp [Fld.apart]) (by simp [Fld.apart])

theorem switchFault_oc (a : Axis) (m : BitVec 8) (s : State) :
    (switchFault a (F.AX_GD_FLT.OC a) 1 false m s).get (F.AX_GD_FLT.OC a) = 1 := by
  have h1 : (endStall a (latchFault a (F.AX_GD_FLT.OC a) 1 s)).get (F.AX_GD_FLT.OC a) = 1 := latchFault_oc a 1 s
  unfold switchFault
  dsimp only
  generalize endStall a (latchFault a (F.AX_GD_FLT.OC a) 1 s) = v at h1 ⊢
  generalize hw : (v.set (F.AX_GD_FLT.SW_OFF a) (v.get (F.AX_GD_FLT.SW_OFF a) ||| (heldBy v a false m).toNat)).modGd a (fun g =>
      { g with fltOff := g.fltOff ||| heldBy v a false m }) = w
  have h2 : w.get (F.AX_GD_FLT.OC a) = 1 := by
    rw [← hw, State.modGd_get, State.get_set_other _ _ _ _ (by simp)]
    exact h1
  generalize hx : (if safeShort w a || w.flag (F.AX_GD_FLT.OV_TRIP a) then
      w.modGd a fun g => { g with shortOff := g.shortOff ||| (m &&& lowMask) } else w) = x
  have h3 : x.get (F.AX_GD_FLT.OC a) = 1 := by
    rw [← hx]
    split
    · exact h2
    · exact h2
  split
  · split
    · rw [axisFault_oc]; exact h3
    · exact h3
  · exact h3

/-- An overcurrent leaves `OC` set. -/
theorem overcurrent_oc (a : Axis) (w : Fin 2) (s : State) : (overcurrent a w s).get (F.AX_GD_FLT.OC a) = 1 := by
  unfold overcurrent
  rw [noteGates_get]
  exact switchFault_oc _ _ _

/-- A comparator still tripped latches `OC` again (R243). -/
theorem rearmEdge_oc {k : Fin 2} (h : Machine.ocTrips s a k) (hf : freshFaults s a = 0) : (rearmEdge a s).get (F.AX_GD_FLT.OC a) = 1 := by
  obtain ⟨h1, h2, -⟩ := ((rearmClear_edge a s).ocTrips a k).mpr h
  have hn : ¬ (¬ (rearmClear a s).axOn a = true ∨ (rearmClear a s).get (F.AX_CC_CFG.MODE a) ≠ 0 ∨ (freshFaults s a).getLsbD 1 = true) := by
    rw [hf, h1, h2]
    decide
  have step : ∀ (w : Fin 2) (t : State), (Machine.ocTrips t a w ∨ t.get (F.AX_GD_FLT.OC a) = 1) →
      (if ocTripped t a w then overcurrent a w t else t).get (F.AX_GD_FLT.OC a) = 1 := fun w t ht => by
    split
    · exact overcurrent_oc a w t
    case isFalse hw => exact ht.resolve_left fun hc => hw hc.2.2
  have trips : ∀ (w : Fin 2) (t : State), Within edgeRearmScope [a] t (if ocTripped t a w then overcurrent a w t else t) := fun w t =>
    .ite ((overcurrent_trips List.mem_cons_self w (.refl _ _ _)).widen tripScope_le_edgeRearmScope) (.refl _ _ _)
  have h' := ((rearmClear_edge a s).ocTrips a k).mpr h
  rw [rearmEdge_eq, if_neg hn]
  generalize rearmClear a s = v at h'
  change (if ocTripped (if ocTripped v a 0 then overcurrent a 0 v else v) a 1 then
    overcurrent a 1 (if ocTripped v a 0 then overcurrent a 0 v else v) else (if ocTripped v a 0 then overcurrent a 0 v else v)).get _ = 1
  refine step 1 _ ?_
  fin_cases k
  · exact Or.inr (step 0 v (Or.inl h'))
  · exact Or.inl (((trips 0 v).ocTrips a 1).mpr h')

/-- Work on one axis is work on axes among which it is. -/
theorem Within.among {S : Scope} (h : Within S [a] s t) (ha : a ∈ l) : Within S l s t where
  side := h.side
  own := h.own
  others b hb := h.others b fun hc => hb (List.mem_singleton.mp hc ▸ ha)
  fields f hf := h.fields f fun b hb => hf b (List.mem_singleton.mp hb ▸ ha)

/-- The step of a loop over axes that works on one of them: before and after it only others are at work. -/
theorem State.each_at {S : Scope} {g : Axis → State → State} (hg : ∀ a s, Within S [a] s (g a s)) {x : Axis} {l : List Axis}
    (hn : l.Nodup) (hx : x ∈ l) (s : State) :
    ∃ u, (∃ l₁, x ∉ l₁ ∧ Within S l₁ s u) ∧ ∃ l₂, x ∉ l₂ ∧ Within S l₂ (g x u) (s.each l g) := by
  obtain ⟨l₁, l₂, rfl⟩ := List.append_of_mem hx
  have loop : ∀ (l : List Axis) (t : State), Within S l t (t.each l g) := fun l t =>
    (Within.refl S l t).each l fun a ha u hu => hu.trans ((hg a u).among ha)
  rw [List.nodup_append, List.nodup_cons] at hn
  obtain ⟨-, ⟨h2, -⟩, h1⟩ := hn
  have he : s.each (l₁ ++ x :: l₂) g = (g x (s.each l₁ g)).each l₂ g := List.foldl_append
  exact ⟨s.each l₁ g, ⟨l₁, fun hc => h1 x hc x List.mem_cons_self rfl, loop l₁ s⟩, l₂, h2, he ▸ loop l₂ _⟩

/-- Work on other axes leaves the block of an axis. -/
theorem Within.get_rest {x : Axis} (h : Within edgeRearmScope l s t) (hx : x ∉ l) {g : Fld} (hg : engineBlock x g.addr) :
    t.get g = s.get g := by
  refine h.fields g fun b hb f hf => Or.inl fun e => ?_
  have := engineBlock_bounds hg
  rcases hf with hf | ⟨hf, -⟩ | hf
  · have := plannerField_low hf
    omega
  · exact hx (engineBlock_inj hg (e ▸ hf) ▸ hb)
  · omega

end

end Sys2Proof.Machine

namespace Sys2Proof.Machine

/-! ### AXIS_REARM -/

/-- With no comparator still tripped the edges only clear (R243). -/
theorem rearmEdges_quiet (l : List Axis) {s : State} (h : ∀ x ∈ l, ∀ k, ¬ ocTrips s x k) : s.each l rearmEdge = s.each l rearmClear := by
  induction l generalizing s with
  | nil => rfl
  | cons a l ih =>
    change State.each (rearmEdge a s) l rearmEdge = State.each (rearmClear a s) l rearmClear
    rw [rearmEdge_quiet (h a List.mem_cons_self)]
    refine ih fun x hx k hk => ?_
    exact h x (List.mem_cons_of_mem _ hx) k (((rearmClear_edge a s).ocTrips x k).mp hk)

theorem rearmRegs_engineBlock {a : Axis} {n : Nat} (h : n ∈ rearmRegs a) : engineBlock a n := by
  simp only [rearmRegs, List.mem_cons, List.not_mem_nil, or_false] at h
  unfold engineBlock
  omega

theorem rearmed_regs (a : Axis) : ∀ f ∈ [F.AX_GD_FLT.SW_OFF a, F.AX_GD_FLT.FIRST_CAUSE a, F.AX_GD_FLT.OC a, F.AX_GD_FLT.ESCALATED a,
    F.AX_DEADLINE.DEADLINE_FLT a, F.AX_DEADLINE.LATE_RUN a, F.AX_STATE_CNT.REARM_CNT a], f.addr ∈ rearmRegs a := by
  simp [rearmRegs]

section
variable {x : Axis} {l : List Axis} {r s t u : State}

theorem Within.freshFaults (h : Within edgeRearmScope l r s) (hx : x ∉ l) : Machine.freshFaults s x = Machine.freshFaults r x := by
  have ha : s.gd x = r.gd x := congrArg AxisSt.gd (h.others x hx)
  have hn : s.now = r.now := h.beside_faults State.now fun _ => rfl
  unfold Machine.freshFaults
  rw [ha, hn]

/-- Work on other axes before a rearm edge and after it. -/
theorem Rearmed.among {l₁ l₂ : List Axis} (h : Rearmed x s t) (h₁ : Within edgeRearmScope l₁ r s) (hx₁ : x ∉ l₁)
    (h₂ : Within edgeRearmScope l₂ t u) (hx₂ : x ∉ l₂) : Rearmed x r u := by
  have g1 : ∀ {g : Fld}, g.addr ∈ rearmRegs x → s.get g = r.get g := fun hg => h₁.get_rest hx₁ (rearmRegs_engineBlock hg)
  have g2 : ∀ {g : Fld}, g.addr ∈ rearmRegs x → u.get g = t.get g := fun hg => h₂.get_rest hx₂ (rearmRegs_engineBlock hg)
  have hf := h₁.freshFaults hx₁
  have hgd : u.gd x = t.gd x := congrArg AxisSt.gd (h₂.others x hx₂)
  refine ⟨?_, fun hc => ?_, fun p hp hb => ?_⟩
  · rw [g2 (by simp [rearmRegs]), h.count]
    unfold counted
    rw [g1 (by simp [rearmRegs])]
  · obtain ⟨c1, c2, c3⟩ := h.clean (hf.trans hc)
    refine ⟨fun f hm => (g2 (rearmed_regs x f (by simp at hm ⊢; tauto))).trans (c1 f hm), ?_, hgd ▸ c3⟩
    rw [g2 (by simp [rearmRegs]), c2, g1 (by simp [rearmRegs]), g1 (by simp [rearmRegs])]
  · obtain ⟨hr, -⟩ := rearmFields_reg hp
    rw [g2 hr, h.fresh p hp (hf ▸ hb), g1 hr]

/-- Edges on several axes at one instant, each of whose domain is up. -/
theorem rearmClears_rearmed (hn : l.Nodup) (hx : x ∈ l) (hon : s.axOn x = true) : Rearmed x s (s.each l rearmClear) := by
  obtain ⟨v, ⟨l₁, hx₁, h₁⟩, l₂, hx₂, h₂⟩ := State.each_at rearmClear_edge hn hx s
  exact (rearmClear_rearmed ((h₁.rearm_axOn x).trans hon)).among h₁ hx₁ h₂ hx₂

/-- What a rearm edge shows where a comparator is still tripped. -/
theorem rearmEdges_trip (hn : l.Nodup) (hx : x ∈ l) (hon : s.axOn x = true) :
    (s.each l rearmEdge).get (F.AX_STATE_CNT.REARM_CNT x) = counted s (F.AX_STATE_CNT.REARM_CNT x)
      ∧ ∀ k, ocTrips s x k → Machine.freshFaults s x = 0 → (s.each l rearmEdge).get (F.AX_GD_FLT.OC x) = 1 := by
  obtain ⟨v, ⟨l₁, hx₁, h₁⟩, l₂, hx₂, h₂⟩ := State.each_at rearmEdge_edge hn hx s
  have g1 : ∀ {g : Fld}, g.addr ∈ rearmRegs x → v.get g = s.get g := fun hg => h₁.get_rest hx₁ (rearmRegs_engineBlock hg)
  have g2 : ∀ {g : Fld}, g.addr ∈ rearmRegs x → (s.each l rearmEdge).get g = (rearmEdge x v).get g := fun hg =>
    h₂.get_rest hx₂ (rearmRegs_engineBlock hg)
  refine ⟨?_, fun k hk hf => ?_⟩
  · rw [g2 (by simp [rearmRegs]), rearmEdge_count ((h₁.rearm_axOn x).trans hon)]
    unfold counted
    rw [g1 (by simp [rearmRegs])]
  · rw [g2 (by simp [rearmRegs]), rearmEdge_oc ((h₁.ocTrips x k).mpr hk) ((h₁.freshFaults hx₁).trans hf)]

end

section
variable {f : Req} {s : State}

theorem maskedAxes_nodup (f : Req) : (maskedAxes f).Nodup := (List.nodup_finRange 16).filter _

theorem axisRearm_clears (h : FrameReady 0x07 f s) (hq : ∀ x ∈ maskedAxes f, ∀ k, ¬ ocTrips (accepted 0x07 f s) x k) :
    let a := accepted 0x07 f s
    Completes (.axisRearm f) s fun t => ∃ u, Ended 0x07 f s u stOk 0 0 [] t ∧ BesideAxes a u ∧ (∀ x, x ∉ maskedAxes f → u.ax x = a.ax x)
      ∧ ∀ x ∈ maskedAxes f, a.axOn x = true → Rearmed x a u := by
  dsimp only
  generalize hu : (accepted 0x07 f s).each (maskedAxes f) rearmClear = u
  have hb : opAxisRearm f (accepted 0x07 f s) = (u, .now stOk 0 0 []) := by
    rw [← hu, ← rearmEdges_quiet _ hq]
    rfl
  have hw : Within rearmScope (maskedAxes f) (accepted 0x07 f s) u := by
    rw [← hu]
    exact (Within.refl _ _ _).each _ fun _ ha _ ht => rearmClear_within ha ht
  have hr : ∀ x ∈ maskedAxes f, (accepted 0x07 f s).axOn x = true → Rearmed x (accepted 0x07 f s) u := fun x hx hon => by
    rw [← hu]
    exact rearmClears_rearmed (maskedAxes_nodup f) hx hon
  have he := hw.engines fun _ _ h => h
  rw [BesideAxes] at he
  refine ready_ends_with (op := 0x07) h rfl (by decide) hb ?_ ?_ ?_ (by decide) fun _ => ⟨hw.engines fun _ _ h => h, hw.others, hr⟩
  all_goals rw [he]

end

/-! ### Commands that raise Whistles -/

/-- The end of a command with no recipe that waits for a Whistle leaves the fields that no Whistle shows in. -/
theorem finish_get {s : State} (h : s.lk.apply = none) {g : Fld} (hg : ∀ f ∈ latchFields, g.apart f) : (finish s).get g = s.get g := by
  have hw := whistleNow_whistled (s := { s with whReq := [] }) h s.whReq
  unfold finish serveWhistles
  generalize whistleNow s.whReq { s with whReq := [] } = v at hw
  have hq : v.whReq = [] := by rw [hw.1]
  have hf : (wakePlanner (auditStart { whistleNow v.whReq { v with whReq := [] } with whReq := [] })).get g = v.get g := by
    rw [hq]
    exact settle_get _ g
  rw [hf]
  exact hw.2 g hg

/-- The fields of the end of a frame (R360, R372). -/
def frameFields : List Fld := [F.SYS_ACC_STAT.UNLOCK_LAPSED, F.CMD_REFUSE.REFUSE_CNT, F.CMD_REFUSE.LAST_CODE]

/-- An admitted opcode that answers at once and may raise Whistles leaves the fields that neither these nor the end of a frame show in. -/
theorem ready_finishes {c : Instr} {op : Nat} {body : Req → State → State × Ans} {f : Req} {s u : State} {code detail seq : Nat}
    {data : List Word} (h : FrameReady op f s) (hx : exec c s = runCmd (frameCommand op body f) s) (ho : op ≠ 0x00 ∧ op ≠ 0x01)
    (hb : body f (accepted op f s) = (u, .now code detail seq data)) (h2 : u.hp = (accepted op f s).hp)
    (h3 : u.aux = (accepted op f s).aux) (hl : u.lk.apply = none) :
    Completes c s fun t => ∀ g, (∀ f ∈ latchFields ++ frameFields, g.apart f) → t.get g = u.get g := by
  have e := frameCommand_heard h.1 ho ((interpret_admitted h.2).trans hb)
  have hst : ((endFrame (countRefusal (.now code detail seq data) u)).portSt f.port).store.head?.map (·.alive) = some f.alive := by
    have := accepted_head (op := op) (s := s) h.1.port
    rw [endFrame_eq, countRefusal_eq]
    rcases h.1.port with hp | hp <;> rw [hp] at this ⊢ <;> simpa only [State.portSt, h2, h3] using this
  obtain ⟨q, n, w, hd, -⟩ := deliver_now (sess := sessN s f.port) (op := BitVec.ofNat 8 op) (a := .now code detail seq data) (by simp)
    h.1.port hst
  refine ⟨_, hx, fun g hg => ?_⟩
  have hm : ∀ v : State, (v.modPort f.port fun x => x.answered q).regs = v.regs ∧ (v.modPort f.port fun x => x.answered q).lk = v.lk := fun v => by
    rcases h.1.port with hp | hp <;> rw [hp] <;> exact ⟨rfl, rfl⟩
  have hk : KeepsFields frameFields u (endFrame (countRefusal (.now code detail seq data) u)) :=
    KeepsFields.endFrame (KeepsFields.countRefusal (.refl _ _) _ (by simp [frameFields]) (by simp [frameFields])) (by simp [frameFields])
  have hv : (endFrame (countRefusal (.now code detail seq data) u)).lk = u.lk := by rw [endFrame_eq, countRefusal_eq]
  rw [hd] at e
  generalize endFrame (countRefusal (.now code detail seq data) u) = v at e hk hv
  obtain ⟨m1, m2⟩ := hm { v with freeCtr := n }
  rw [e, finish_get (by rw [m2]; exact (congrArg LkSt.apply hv).trans hl) fun f hf => hg f (List.mem_append_left _ hf)]
  refine Eq.trans ?_ (hk g fun f hf => hg f (List.mem_append_right _ hf))
  simp only [State.get, m1]

theorem axisRearm_trips {f : Req} {s : State} (h : FrameReady 0x07 f s) (hl : (accepted 0x07 f s).lk.apply = none) :
    let a := accepted 0x07 f s
    Completes (.axisRearm f) s fun t => ∀ x ∈ maskedAxes f, a.axOn x = true →
      t.get (F.AX_STATE_CNT.REARM_CNT x) = counted a (F.AX_STATE_CNT.REARM_CNT x)
      ∧ ∀ k, ocTrips a x k → freshFaults a x = 0 → t.get (F.AX_GD_FLT.OC x) = 1 := by
  dsimp only
  generalize hu : (accepted 0x07 f s).each (maskedAxes f) rearmEdge = u
  have hb : opAxisRearm f (accepted 0x07 f s) = (u, .now stOk 0 0 []) := by
    rw [← hu]
    rfl
  have hw : Within edgeRearmScope (maskedAxes f) (accepted 0x07 f s) u := by
    rw [← hu]
    exact (Within.refl _ _ _).each _ fun a ha t ht => ht.trans ((rearmEdge_edge a t).among ha)
  have hlk : u.lk = (accepted 0x07 f s).lk := hw.beside_faults State.lk fun _ => rfl
  refine (ready_finishes (op := 0x07) h rfl (by decide) hb (hw.beside_faults State.hp fun _ => rfl)
    (hw.beside_faults State.aux fun _ => rfl) (hlk ▸ hl)).imp fun t ht => ⟨ht.1, fun x hx hon => ?_⟩
  obtain ⟨h1, h2⟩ := rearmEdges_trip (maskedAxes_nodup f) hx hon
  rw [hu] at h1 h2
  have hg : ∀ g : Fld, 0x100000 ≤ g.addr → g.addr < 0x301000 → ∀ f ∈ latchFields ++ frameFields, g.apart f := fun g hg hg' => by
    simp only [latchFields, frameFields, List.cons_append, List.nil_append, List.forall_mem_cons]
    refine ⟨?_, ?_, ?_, ?_, ?_, ?_, ?_, ?_, ?_, ?_, by simp⟩
    all_goals exact Or.inl (by dsimp only; omega)
  have := x.isLt
  refine ⟨(ht.2 _ (hg _ ?_ ?_)).trans h1, fun k hk hf => (ht.2 _ (hg _ ?_ ?_)).trans (h2 k hk hf)⟩
  all_goals dsimp only; omega

end Sys2Proof.Machine

namespace Sys2Proof.Machine

/-- Settles O21: each opcode by the lemma on its work, AXIS_REARM by the edge on each masked axis. -/
theorem sessionDiagnosticAndWhistleOpcodesAct : Obligations.SessionDiagnosticAndWhistleOpcodesAct := by
  unfold Obligations.SessionDiagnosticAndWhistleOpcodesAct
  intro f s
  dsimp only
  have mem : ∀ x : Axis, natBit (f.words.getD 0 0).toNat x.val = true ↔ x ∈ maskedAxes f := fun x => mem_maskedAxes.symm
  have not_mem : ∀ {x : Axis}, natBit (f.words.getD 0 0).toNat x.val = false → x ∉ maskedAxes f := fun hx hm =>
    absurd (mem_maskedAxes.mp hm) (ne_true_of_eq_false hx)
  refine ⟨fun h => ⟨sessionClose_idle h, fun x hx => sessionClose_closes h hx⟩, fun h => ⟨fun x hx hr hl => ?_, fun hr => ?_⟩,
    fun h => ⟨fun hq => ?_, fun hl => ?_⟩, fun h => ⟨snap_frozen h, fun hf hd hp => ?_⟩,
    fun h => ⟨fun he => whistleAt_refuses h (scheduleStatus_early he) (by decide) (by decide),
      fun he hc hl => whistleAt_refuses h (scheduleStatus_full he hc hl) (by decide) (by decide),
      fun he hc => whistleAt_schedules h he hc⟩⟩
  · exact diagRun_refuses h ((mem x).mp hx) hr fun y hy hm => hl y hy ((mem y).mpr hm)
  · refine (diagRun_requests h fun x hx => hr x ((mem x).mpr hx)).imp fun t ht => ⟨ht.1, ?_⟩
    obtain ⟨u, he, hb, hp, ho⟩ := ht.2
    exact ⟨u, he, hb, fun x hx => hp x ((mem x).mp hx), fun x hx => ho x (not_mem hx)⟩
  · refine (axisRearm_clears h fun x hx k hk => hq x k ((mem x).mpr hx) hk).imp fun t ht => ⟨ht.1, ?_⟩
    obtain ⟨u, he, hb, ho, hr⟩ := ht.2
    refine ⟨u, he, hb, fun x hx => ho x (not_mem hx), fun x hx hon => ?_⟩
    obtain ⟨h1, h2, h3⟩ := hr x ((mem x).mp hx) hon
    refine ⟨h1, fun hf => ?_, fun r hr hf => h3 (r.1, r.2.1) ?_ hf⟩
    · obtain ⟨c1, c2, c3⟩ := h2 hf
      simp only [List.forall_mem_cons] at c1
      obtain ⟨d1, d2, d3, d4, d5, -⟩ := c1
      exact ⟨d1, d2, d3, d4, d5, c2, c3⟩
    · rw [← rearmRows_fields (accepted 0x07 f s)]
      exact List.mem_map_of_mem hr
  · exact (axisRearm_trips h hl).imp fun t ht => ⟨ht.1, fun x hx hon => ht.2 x ((mem x).mp hx) hon⟩
  · refine (snap_latches h hf hd hp).imp fun t ht => ⟨ht.1, ?_⟩
    obtain ⟨u, he, hw, hm, hh⟩ := ht.2
    refine ⟨u, he, hw.1, fun hb => ?_, fun hb => hh hb⟩
    rw [hm hb]
    exact ⟨rfl, rfl, rfl⟩

end Sys2Proof.Machine

namespace Sys2Proof.Machine

/-! ### The unlock, LO words and `DEADBALL` -/

section
variable {via : Port} {bk : Bool} {addr typ : Nat} {data : Word} {row : RegRow} {i j : Nat} {s : State}

theorem writeReg_unlock (h : WriteReaches bk addr row i j s) (ht : typ ≠ 3) (hid : row.id = .SYS_UNLOCK) :
    writeReg via bk addr typ data s = (unlockWrite (getBits (wrMask typ data &&& wrBits typ data) 15 0) (consumeUnlock s), stOk) := by
  have hpd : (consumeUnlock s).pd (domainOf addr) = true := h.powered
  have hsp := h.inSpace
  unfold writeReg
  dsimp only
  rw [if_neg ht, if_neg (by omega), if_neg (by rw [h.block]; cases bk <;> simp), if_neg (by rw [h.block]; cases bk <;> simp),
    if_neg (not_not.mpr hpd), if_neg (by simp [h.outsideWave]), h.found]
  dsimp only
  rw [if_pos hid]

end

/-- A write of a whole word whose every bit is stored leaves that word. -/
theorem writtenWord_full {fs : List FieldRow} (old data : Word) (hs : accMask Acc.stored fs = BitVec.allOnes 32)
    (hw : accMask (· == .w1c) fs = 0) : writtenWord fs old (BitVec.allOnes 32) data = data := by
  refine BitVec.eq_of_getLsbD_eq fun b hb => ?_
  have h1 : (BitVec.allOnes 32).getLsbD b = true := by rw [BitVec.getLsbD_allOnes, decide_eq_true hb]
  have h0 : (0 : Word).getLsbD b = false := BitVec.getLsbD_zero
  rw [writtenWord_getLsbD _ _ _ _ hb, hs, hw, h1, h0]
  simp

/-- The value of a word built from a key. -/
theorem getBits_setWidth (key : BitVec 16) : getBits (key.setWidth 32) 15 0 = key.toNat := by
  refine Nat.eq_of_testBit_eq fun i => ?_
  rw [getBits_testBit, BitVec.testBit_toNat]
  rw [BitVec.getLsbD_setWidth]
  by_cases h : i < 16
  · simp [show i < 32 by omega, show i ≤ 15 by omega]
  · have hn : ¬ i ≤ 15 := by omega
    simp [hn, BitVec.getLsbD_of_ge key i (by omega)]

section
variable {s : State} (hq : s.whReq = []) (hr : s.ip.running = true)
include hq hr

theorem unlockArm_arms (hp : s.pd 1 = true) (key : BitVec 16) :
    Does (.unlockArm key) s { s with ip := { s.ip with unlocked := key == 0x5A3C, wrStatus := 0 } } [] [] := by
  have hreach : WriteReaches false 0x8 ⟨.SYS_UNLOCK, 0x8, 1, 0, 1, 0, 0, [⟨15, 0, .wo, 0, 2, 0, 65535⟩]⟩ 0 0 (begun s) :=
    ⟨hr, by decide, by decide, hp, by decide, rfl⟩
  have hk : getBits (wrMask 0 (key.setWidth 32) &&& wrBits 0 (key.setWidth 32)) 15 0 = key.toNat := by
    rw [wrMask, wrBits, BitVec.allOnes_and, getBits_setWidth]
  have hb : (key.toNat == 0x5A3C) = (key == 0x5A3C) := by
    rw [Bool.eq_iff_iff, beq_iff_eq, beq_iff_eq, ← BitVec.toNat_inj]
    rfl
  have hw := writeReg_unlock (via := .hp) (data := key.setWidth 32) hreach (typ := 0) (by decide) rfl
  rw [hk, unlockWrite, hb] at hw
  exact does_nothing rfl hq rfl ((hostWrite_runs (s := begun s) hr hw).trans rfl)

end

/-- The register of the low word of a CAM offset or origin. -/
def camLoRow (origin : Bool) : RegRow := if origin then ⟨.AX_CAM_ORIGIN_LO, 0x10023c, 16, 4096, 1, 0, 0, [⟨31, 0, .rw, 0, 2, 0, 4294967295⟩]⟩
  else ⟨.AX_CAM_OFFSET_LO, 0x100234, 16, 4096, 1, 0, 0, [⟨31, 0, .rw, 0, 2, 0, 4294967295⟩]⟩

/-- The low word of the CAM offset or origin of an axis. -/
def camLo (a : Axis) (origin : Bool) : Fld := if origin then F.AX_CAM_ORIGIN_LO.all a else F.AX_CAM_OFFSET_LO.all a

theorem camLo_found : ∀ (a : Axis) (origin : Bool), regAt (camLo a origin).addr = some (camLoRow origin, a.val, 0) := by decide

theorem camLo_addr (a : Axis) (origin : Bool) : 0x100200 + a.val * 0x1000 ≤ (camLo a origin).addr ∧ (camLo a origin).addr < 0x100240 + a.val * 0x1000 := by
  unfold camLo
  split <;> dsimp only <;> omega

theorem domainOf_axis (a : Axis) {n : Nat} (h : 0x100000 + a.val * 0x1000 ≤ n) (h' : n < 0x101000 + a.val * 0x1000) :
    domainOf n = 3 + (quadOf a).val := by
  have := a.isLt
  unfold domainOf quadOf
  rw [if_neg (by omega), if_pos (by omega)]
  dsimp only
  omega

theorem writeReaches_axis {s : State} (hr : s.ip.running = true) (a : Axis) (hp : s.pd (3 + (quadOf a).val) = true) {n i j : Nat} {row : RegRow}
    (h : 0x100000 + a.val * 0x1000 ≤ n) (h' : n < 0x101000 + a.val * 0x1000) (hf : regAt n = some (row, i, j)) :
    WriteReaches false n row i j s := by
  have := a.isLt
  refine ⟨hr, by omega, ?_, by rw [domainOf_axis a h h']; exact hp, ?_, hf⟩
  · simp only [inBk, Bool.and_eq_false_iff, decide_eq_false_iff_not]
    omega
  · simp only [isWaveAddr, Bool.and_eq_false_iff, decide_eq_false_iff_not]
    omega

theorem performWrite_camLo {via : Port} {w : RegWr} {s : State} (origin : Bool) (h : w.row = camLoRow origin) :
    performWrite via w s = latchLo w.addr w.new s := by
  cases origin <;> simp only [performWrite, h, camLoRow] <;> rfl

section
variable {s : State} (hq : s.whReq = []) (hr : s.ip.running = true) (hl : s.ip.loLatch = [])
include hq hr hl

theorem wideLoLatch_latches (a : Axis) (origin : Bool) (data : Word) (hp : s.pd (3 + (quadOf a).val) = true) :
    Does (.wideLoLatch a origin data) s
      (State.ended { s with ip := { s.ip with loLatch := [((camLo a origin).addr, data)] } } 0) [] [] := by
  obtain ⟨h1, h2⟩ := camLo_addr a origin
  have hreach : WriteReaches false (camLo a origin).addr (camLoRow origin) a.val 0 (begun s) :=
    writeReaches_axis (s := begun s) hr a hp (by omega) (by omega) (camLo_found a origin)
  have hrow : accMask Acc.stored (camLoRow origin).fields = BitVec.allOnes 32 ∧ accMask (· == .w1c) (camLoRow origin).fields = 0
      ∧ accMask (· == .rwk) (camLoRow origin).fields = 0 ∧ (camLoRow origin).id ≠ .SYS_UNLOCK
      ∧ ∀ f ∈ (camLoRow origin).fields, f.mn = 0 ∧ 2 ^ (f.hi + 1 - f.lo) ≤ f.mx + 1 := by
    cases origin <;> decide
  obtain ⟨r1, r2, r3, r4, r5⟩ := hrow
  generalize hw : wrAt (camLo a origin).addr 0 data (camLoRow origin) a.val 0 (begun s) = w
  have hrw : w.row = camLoRow origin := by rw [← hw]; rfl
  have had : w.addr = (camLo a origin).addr := by rw [← hw]; rfl
  have hnew : w.new = data := by
    rw [← hw, wrAt_new (s := begun s) hl]
    exact writtenWord_full _ data r1 r2
  have hcross : crossLegal (consumeUnlock (begun s)) w = true := by
    cases origin <;> simp only [crossLegal, hrw, camLoRow] <;> rfl
  have hadm : stateAdmits (consumeUnlock (begun s)) w = true := by
    cases origin <;> simp only [stateAdmits, hrw, camLoRow] <;> rfl
  have hv := performWrite_camLo (via := .hp) (s := consumeUnlock (begun s)) origin hrw
  rw [had, hnew] at hv
  subst hw
  refine does_nothing rfl hq rfl ((hostWrite_performs (s := begun s) hreach (by decide) r4 (fun h => ?_) (fieldsInRange_full r5 _ _)
    hcross hadm hv).trans ?_)
  · rw [rwkChanged_none r3] at h
    cases h
  · simp only [latchLo, consumeUnlock, begun, State.ended, hl]
    rfl

/-- The register of the Locker's arbitration. -/
def arbRow : RegRow := ⟨.LK_ARB_CTRL, 0x380004, 1, 0, 1, 0, 0, [⟨0, 0, .rw, 0, 2, 0, 1⟩]⟩

theorem deadballWrite_takes (hp : s.pd 7 = true) (b : Bool) :
    Does (.deadballWrite b) s (s.ended 0) [(F.LK_ARB_CTRL.DEADBALL, if b then 1 else 0)] [] := by
  have hreach : WriteReaches false 0x380004 arbRow 0 0 (begun s) := ⟨hr, by decide, by decide, hp, by decide, rfl⟩
  generalize hw : wrAt 0x380004 1 (fieldData F.LK_ARB_CTRL.DEADBALL (bitOf b)) arbRow 0 0 (begun s) = w
  have hrow : w.row = arbRow := by rw [← hw]; rfl
  have hnew : w.new = putBits (rfGet s.regs 0x380004) 0 0 (bitOf b) := by
    rw [← hw]
    exact wrAt_field_new (s := begun s) (f := F.LK_ARB_CTRL.DEADBALL) hl (bitOf b) (by decide) (by decide) (by decide)
  have hv : performWrite .hp w (consumeUnlock (begun s)) = (consumeUnlock (begun s)).set F.LK_ARB_CTRL.DEADBALL (bitOf b) := by
    have had : w.addr = 0x380004 := by rw [← hw]; rfl
    rw [performWrite_plain (by rw [hrow]; decide) (by rw [hrow]; decide) (by rw [hrow]; decide), hnew, had]
    rfl
  have hcross : crossLegal (consumeUnlock (begun s)) w = true := by simp only [crossLegal, hrow, arbRow]
  have hadm : stateAdmits (consumeUnlock (begun s)) w = true := by simp only [stateAdmits, hrow, arbRow]
  subst hw
  have hx := hostWrite_performs (via := .hp) hreach (by decide) (by decide)
    (fun h => by rw [rwkChanged_none (by decide)] at h; cases h) (fieldsInRange_full (by decide) _ _) hcross hadm hv
  refine does_of [(F.LK_ARB_CTRL.DEADBALL, if b then 1 else 0)] rfl hq rfl (hx.trans ?_) ?_ (by simp)
  · cases b <;> rfl
  · simp only [List.forall_mem_singleton]
    exact ⟨by decide, by decide, bitOf_lt b⟩

end

/-- STORE outside CONFIG is refused before any write (R349). -/
theorem bkStore_wrongMode {s : State} (hq : s.whReq = []) (hm : s.mode ≠ 2) :
    Does .bkStore s { s with ip := { s.ip with wrStatus := 0x20 } } [] [] :=
  does_nothing rfl hq rfl (if_neg hm : storeTable (begun s) = _)

end Sys2Proof.Machine

namespace Sys2Proof.Machine

/-! ### A write of `MCH_CFG` (R108) -/

/-- Bits of two words that agree, field by field. -/
theorem getBits_eq_iff (w u : Word) (hi lo : Nat) :
    getBits w hi lo = getBits u hi lo ↔ ∀ b < 32, lo ≤ b → b ≤ hi → w.getLsbD b = u.getLsbD b := by
  constructor
  · intro h b hb h1 h2
    have := congrArg (fun n => n.testBit (b - lo)) h
    simpa [getBits_testBit, show lo + (b - lo) = b by omega, hb, h2] using this
  · refine fun h => Nat.eq_of_testBit_eq fun k => ?_
    rw [getBits_testBit, getBits_testBit]
    by_cases hk : lo + k < 32 ∧ lo + k ≤ hi
    · rw [h _ hk.1 (by omega) hk.2]
    · rcases not_and_or.mp hk with hk | hk <;> simp [hk]

/-- Two words agree on a field where they agree on its halves. -/
theorem getBits_split (w u : Word) {hi m lo : Nat} (h1 : lo ≤ m) (h2 : m < hi) :
    getBits w hi lo = getBits u hi lo ↔ getBits w m lo = getBits u m lo ∧ getBits w hi (m + 1) = getBits u hi (m + 1) := by
  simp only [getBits_eq_iff]
  refine ⟨fun h => ⟨fun b hb k1 k2 => h b hb k1 (by omega), fun b hb k1 k2 => h b hb (by omega) k2⟩, fun ⟨ha, hc⟩ b hb k1 k2 => ?_⟩
  by_cases hm : b ≤ m
  · exact ha b hb k1 hm
  · exact hc b hb (by omega) k2

/-- The bits of a stored field take the data (R368). -/
theorem writtenWord_stored {fs : List FieldRow} (old data : Word) {hi lo : Nat}
    (hs : ∀ b < 32, lo ≤ b → b ≤ hi → (accMask Acc.stored fs).getLsbD b = true ∧ (accMask (· == .w1c) fs).getLsbD b = false) :
    getBits (writtenWord fs old (BitVec.allOnes 32) data) hi lo = getBits data hi lo := by
  rw [getBits_eq_iff]
  intro b hb h1 h2
  obtain ⟨k1, k2⟩ := hs b hb h1 h2
  rw [writtenWord_getLsbD _ _ _ _ hb, k1, k2, BitVec.getLsbD_allOnes, decide_eq_true hb]
  simp

/-- The bits of no field stay (R368). -/
theorem writtenWord_unused {fs : List FieldRow} (old data : Word) {hi lo : Nat}
    (hs : ∀ b < 32, lo ≤ b → b ≤ hi → (accMask Acc.stored fs).getLsbD b = false ∧ (accMask (· == .w1c) fs).getLsbD b = false) :
    getBits (writtenWord fs old (BitVec.allOnes 32) data) hi lo = getBits old hi lo := by
  rw [getBits_eq_iff]
  intro b hb h1 h2
  obtain ⟨k1, k2⟩ := hs b hb h1 h2
  rw [writtenWord_getLsbD _ _ _ _ hb, k1, k2]
  simp

/-- A flag that ones clear (R368). -/
theorem writtenWord_cleared {fs : List FieldRow} (old data : Word) {b : Nat} (hb : b < 32) (hs : (accMask Acc.stored fs).getLsbD b = false)
    (hw : (accMask (· == .w1c) fs).getLsbD b = true) :
    getBits (writtenWord fs old (BitVec.allOnes 32) data) b b = if getBits data b b = 1 then 0 else getBits old b b := by
  rw [getBits_bit _ _ hb, getBits_bit _ _ hb, getBits_bit _ _ hb, writtenWord_getLsbD _ _ _ _ hb, hs, hw, BitVec.getLsbD_allOnes,
    decide_eq_true hb]
  cases data.getLsbD b <;> cases old.getLsbD b <;> rfl

/-- Fields within their bounds are in range (R12). -/
theorem fieldsInRange_of {fs : List FieldRow} {new : Word} (h : ∀ f ∈ fs, f.mn ≤ getBits new f.hi f.lo ∧ 2 ^ (f.hi + 1 - f.lo) ≤ f.mx + 1)
    (mask : Word) : fieldsInRange fs mask new = true := by
  simp only [fieldsInRange, List.all_eq_true, Bool.or_eq_true, Bool.and_eq_true, decide_eq_true_eq]
  intro f hf
  obtain ⟨h0, h1⟩ := h f hf
  have := getBits_lt new f.hi f.lo
  exact Or.inr ⟨h0, by omega⟩

/-- The register of a master channel. -/
def mchRow : RegRow := ⟨.MCH_CFG, 0x100, 4, 16, 1, 0, 0, [⟨1, 0, .rw, 0, 2, 0, 3⟩, ⟨5, 2, .rw, 0, 2, 0, 15⟩, ⟨6, 6, .rw, 0, 2, 0, 1⟩,
    ⟨9, 8, .rw, 0, 2, 0, 3⟩, ⟨13, 10, .rw, 0, 2, 0, 15⟩, ⟨23, 16, .rw, 10, 2, 2, 255⟩, ⟨24, 24, .ro, 0, 2, 0, 1⟩,
    ⟨25, 25, .w1c, 0, 2, 0, 1⟩]⟩

theorem mchRow_found : ∀ c : Fin 4, regAt (F.MCH_CFG.all c).addr = some (mchRow, c.val, 0) := by decide

/-- The word of a master channel after a write. -/
def mchWord (old data : Word) : Word := writtenWord mchRow.fields old (BitVec.allOnes 32) data

theorem mchRow_stored : ∀ b < 32, ((accMask Acc.stored mchRow.fields).getLsbD b = decide (b ≤ 6 ∨ 8 ≤ b ∧ b ≤ 13 ∨ 16 ≤ b ∧ b ≤ 23))
    ∧ ((accMask (· == .w1c) mchRow.fields).getLsbD b = decide (b = 25)) := by decide

theorem mchWord_stored (old data : Word) {hi lo : Nat} (h : hi ≤ 6 ∨ 8 ≤ lo ∧ hi ≤ 13 ∨ 16 ≤ lo ∧ hi ≤ 23) :
    getBits (mchWord old data) hi lo = getBits data hi lo := by
  refine writtenWord_stored old data fun b hb h1 h2 => ?_
  obtain ⟨k1, k2⟩ := mchRow_stored b hb
  rw [k1, k2, decide_eq_true_eq, decide_eq_false_iff_not]
  omega

theorem mchWord_unused (old data : Word) {hi lo : Nat} (h : ∀ b, lo ≤ b → b ≤ hi → ¬ (b ≤ 6 ∨ 8 ≤ b ∧ b ≤ 13 ∨ 16 ≤ b ∧ b ≤ 23 ∨ b = 25)) :
    getBits (mchWord old data) hi lo = getBits old hi lo := by
  refine writtenWord_unused old data fun b hb h1 h2 => ?_
  obtain ⟨k1, k2⟩ := mchRow_stored b hb
  have := h b h1 h2
  rw [k1, k2, decide_eq_false_iff_not, decide_eq_false_iff_not]
  omega

theorem mchWord_evt (old data : Word) :
    getBits (mchWord old data) 25 25 = if getBits data 25 25 = 1 then 0 else getBits old 25 25 :=
  writtenWord_cleared old data (by decide) (by decide) (by decide)

/-- The fields of a master channel that a write sets, with their values. -/
def mchValues (c : Fin 4) (data : Word) (s : State) : List (Fld × Nat) :=
  [(F.MCH_CFG.SRC c, getBits data 1 0), (F.MCH_CFG.AXIS c, getBits data 5 2), (F.MCH_CFG.PUBLISH c, getBits data 6 6),
    (F.MCH_CFG.SCH c, getBits data 9 8), (F.MCH_CFG.SDEV c, getBits data 13 10), (F.MCH_CFG.STALE_T c, getBits data 23 16),
    (F.MCH_CFG.STALE_EVT c, if getBits data 25 25 = 1 then 0 else s.get (F.MCH_CFG.STALE_EVT c))]

section
variable {s v : State} {c : Fin 4} {data : Word} (hv : v.regs = rfSet s.regs (F.MCH_CFG.all c).addr (mchWord (rfGet s.regs (F.MCH_CFG.all c).addr) data))
include hv

theorem mchCfg_get {g : Fld} (hg : g.addr = (F.MCH_CFG.all c).addr) :
    v.get g = getBits (mchWord (rfGet s.regs (F.MCH_CFG.all c).addr) data) g.hi g.lo := by
  rw [State.get, hv, hg, rfGet_rfSet_same]

theorem mchCfg_values : ∀ p ∈ mchValues c data s, v.get p.1 = p.2 := by
  have hg := fun g (h : g ∈ (mchValues c data s).map Prod.fst) => mchCfg_get hv (g := g) (by
    simp only [mchValues, List.map_cons, List.map_nil, List.mem_cons, List.not_mem_nil, or_false] at h
    rcases h with rfl | rfl | rfl | rfl | rfl | rfl | rfl <;> rfl)
  simp only [mchValues, List.map_cons, List.map_nil, List.forall_mem_cons] at hg ⊢
  obtain ⟨g1, g2, g3, g4, g5, g6, g7, -⟩ := hg
  refine ⟨g1.trans (mchWord_stored _ _ (by decide)), g2.trans (mchWord_stored _ _ (by decide)), g3.trans (mchWord_stored _ _ (by decide)),
    g4.trans (mchWord_stored _ _ (by decide)), g5.trans (mchWord_stored _ _ (by decide)), g6.trans (mchWord_stored _ _ (by decide)),
    g7.trans (mchWord_evt _ _), by simp⟩

theorem mchCfg_keeps : KeepsFields ((mchValues c data s).map Prod.fst ++ []) s v := by
  intro g hg
  simp only [mchValues, List.map_cons, List.map_nil, List.append_nil, List.forall_mem_cons] at hg
  by_cases ha : g.addr = (F.MCH_CFG.all c).addr
  · rw [mchCfg_get hv ha, mchWord_unused _ _ fun b h1 h2 => ?_, State.get, ha]
    obtain ⟨h3, h4, h5, h6, h7, h8, h9, -⟩ := hg
    dsimp only at ha h3 h4 h5 h6 h7 h8 h9
    omega
  · rw [State.get, State.get, hv, rfGet_rfSet_other _ _ _ _ ha]

end

end Sys2Proof.Machine

namespace Sys2Proof.Machine

theorem performWrite_mch {via : Port} {w : RegWr} {s : State} (h : w.row = mchRow) : performWrite via w s =
    if w.keeps 5 0 && w.keeps 13 8 then s.setWord w.addr w.new else mchRestart ⟨w.i % 4, by omega⟩ (s.setWord w.addr w.new) := by
  simp only [performWrite, h, mchRow]

/-- The source of a channel stays as it was. -/
def mchSame (s : State) (c : Fin 4) (data : Word) : Prop :=
  s.get (F.MCH_CFG.SRC c) = getBits data 1 0 ∧ s.get (F.MCH_CFG.AXIS c) = getBits data 5 2
    ∧ s.get (F.MCH_CFG.SCH c) = getBits data 9 8 ∧ s.get (F.MCH_CFG.SDEV c) = getBits data 13 10

theorem mchWord_keeps (c : Fin 4) (data : Word) (s : State) :
    (getBits (rfGet s.regs (F.MCH_CFG.all c).addr) 5 0 = getBits (mchWord (rfGet s.regs (F.MCH_CFG.all c).addr) data) 5 0
      ∧ getBits (rfGet s.regs (F.MCH_CFG.all c).addr) 13 8 = getBits (mchWord (rfGet s.regs (F.MCH_CFG.all c).addr) data) 13 8)
    ↔ mchSame s c data := by
  rw [getBits_split _ _ (m := 1) (by decide) (by decide), getBits_split (hi := 13) _ _ (m := 9) (by decide) (by decide),
    mchWord_stored _ _ (by decide), mchWord_stored _ _ (by decide), mchWord_stored _ _ (by decide), mchWord_stored _ _ (by decide)]
  exact and_assoc

/-- The samples of a channel whose source changes are dropped (R108). -/
def State.mchDropped (s : State) (c : Fin 4) : State := s.modMch c fun x => { x with samples := [], rev16 := 0, revExt := 0, viaFb := false }

theorem mchCfgWrite_takes {s : State} (hq : s.whReq = []) (hr : s.ip.running = true) (hl : s.ip.loLatch = []) (hp : s.pd 1 = true)
    (c : Fin 4) (data : Word) (ht : 2 ≤ getBits data 23 16)
    (hs : ¬ (getBits data 1 0 = 3 ∧ (getBits data 6 6 = 1 ∨ getBits data 13 10 = devId s))) (hu : ∀ a : Axis, usesChan s c a = false)
    {same : Prop} [Decidable same] (hsame : same ↔ mchSame s c data) :
    Does (.mchCfgWrite c data) s (State.ended (if same then s else s.mchDropped c) 0) (mchValues c data s) [] := by
  have hc := c.isLt
  have hreach : WriteReaches false (F.MCH_CFG.all c).addr mchRow c.val 0 (begun s) := by
    refine ⟨hr, by dsimp only; omega, ?_, ?_, ?_, mchRow_found c⟩
    · simp only [inBk, Bool.and_eq_false_iff, decide_eq_false_iff_not]
      omega
    · have hd : domainOf (F.MCH_CFG.all c).addr = 1 := by
        unfold domainOf
        rw [if_neg (by dsimp only; omega), if_neg (by dsimp only; omega), if_neg (by dsimp only; omega), if_neg (by dsimp only; omega),
          if_neg (by dsimp only; omega)]
      rw [hd]; exact hp
    · simp only [isWaveAddr, Bool.and_eq_false_iff, decide_eq_false_iff_not]
      omega
  generalize hw : wrAt (F.MCH_CFG.all c).addr 0 data mchRow c.val 0 (begun s) = w
  have hrow : w.row = mchRow := by rw [← hw]; rfl
  have hi : w.i = c.val := by rw [← hw]; rfl
  have had : w.addr = (F.MCH_CFG.all c).addr := by rw [← hw]; rfl
  have hold : w.old = rfGet s.regs (F.MCH_CFG.all c).addr := by rw [← hw]; exact wrAt_old (s := begun s) hl
  have hnew : w.new = mchWord (rfGet s.regs (F.MCH_CFG.all c).addr) data := by rw [← hw]; exact wrAt_new (s := begun s) hl
  have hb : ∀ {hi lo : Nat}, hi ≤ 6 ∨ 8 ≤ lo ∧ hi ≤ 13 ∨ 16 ≤ lo ∧ hi ≤ 23 → getBits w.new hi lo = getBits data hi lo := fun h => by
    rw [hnew]; exact mchWord_stored _ _ h
  have hin : (⟨w.i % 4, by omega⟩ : Fin 4) = c := Fin.ext (by dsimp only; omega)
  have hkeep : (w.keeps 5 0 && w.keeps 13 8) = true ↔ same := by
    rw [hsame, ← mchWord_keeps, Bool.and_eq_true, RegWr.keeps, RegWr.keeps, beq_iff_eq, beq_iff_eq, hold, hnew]
  have hcross : crossLegal (consumeUnlock (begun s)) w = true := by
    simp only [crossLegal, hrow, mchRow]
    have h6 : w.new.getLsbD 6 = true ↔ getBits data 6 6 = 1 := by
      rw [← hb (hi := 6) (lo := 6) (by decide), getBits_bit _ _ (by decide)]
      cases w.new.getLsbD 6 <;> decide
    rw [hb (by decide), hb (by decide), show devId (consumeUnlock (begun s)) = devId s from rfl, Bool.not_eq_true', ← Bool.not_eq_true]
    intro hn
    rw [Bool.and_eq_true, Bool.or_eq_true, beq_iff_eq, beq_iff_eq, h6] at hn
    exact hs hn
  have hadm : stateAdmits (consumeUnlock (begun s)) w = true := by
    simp only [stateAdmits, hrow, mchRow]
    rw [hin, Bool.or_eq_true]
    refine Or.inr ?_
    rw [Bool.not_eq_true', List.any_eq_false]
    exact fun b _ => ne_true_of_eq_false (hu b)
  have hrange : fieldsInRange mchRow.fields (wrMask 0 data) w.new = true := by
    refine fieldsInRange_of ?_ _
    have h2 : 2 ≤ getBits w.new 23 16 := by rw [hb (by decide)]; exact ht
    simp only [mchRow, List.forall_mem_cons]
    simp [h2]
  have hv : performWrite .hp w (consumeUnlock (begun s)) =
      if same then (consumeUnlock (begun s)).setWord (F.MCH_CFG.all c).addr w.new
      else ((consumeUnlock (begun s)).setWord (F.MCH_CFG.all c).addr w.new).mchDropped c := by
    rw [performWrite_mch hrow, hin, had]
    exact if_congr hkeep rfl rfl
  rw [hnew] at hv
  subst hw
  have hx := hostWrite_performs (via := .hp) hreach (by decide) (by decide)
    (fun h => by rw [rwkChanged_none (by decide)] at h; cases h) hrange hcross hadm hv
  by_cases hk : same
  · rw [if_pos hk] at hx ⊢
    exact does_by rfl hq hx rfl (mchCfg_keeps rfl) (mchCfg_values rfl)
  · rw [if_neg hk] at hx ⊢
    exact does_by rfl hq hx rfl (mchCfg_keeps rfl) (mchCfg_values rfl)

end Sys2Proof.Machine

namespace Sys2Proof.Machine

/-! ### A write of a role (R304) -/

theorem putBits_getBits (w : Word) (hi lo : Nat) : putBits w hi lo (getBits w hi lo) = w := by
  refine BitVec.eq_of_getLsbD_eq fun b hb => ?_
  rw [putBits_getLsbD _ _ _ _ _ hb]
  split
  case isTrue h =>
    rw [getBits_testBit, show lo + (b - lo) = b by omega]
    simp [hb, h.2]
  case isFalse => rfl

/-- Two words differ in a field. -/
theorem xor_fieldMask (w u : Word) (hi lo : Nat) : (w ^^^ u) &&& fieldMask hi lo = 0 ↔ getBits w hi lo = getBits u hi lo := by
  rw [getBits_eq_iff]
  have hbit : ∀ b < 32, ((w ^^^ u) &&& fieldMask hi lo).getLsbD b = ((w.getLsbD b ^^ u.getLsbD b) && (decide (lo ≤ b) && decide (b ≤ hi))) :=
    fun b hb => by rw [BitVec.getLsbD_and, BitVec.getLsbD_xor, fieldMask_getLsbD _ _ _ hb]
  constructor
  · intro h b hb h1 h2
    have := (hbit b hb).symm.trans (congrArg (fun x : Word => x.getLsbD b) h)
    simpa [h1, h2] using this
  · intro h
    refine BitVec.eq_of_getLsbD_eq fun b hb => ?_
    rw [hbit b hb, show (0 : Word).getLsbD b = false from BitVec.getLsbD_zero]
    by_cases hr : lo ≤ b ∧ b ≤ hi
    · simp [h b hb hr.1 hr.2]
    · rcases not_and_or.mp hr with hr | hr <;> simp [hr]

/-- Fields that a write does not touch or whose every value is legal are in range (R12). -/
theorem fieldsInRange_masked {fs : List FieldRow} {mask : Word}
    (h : ∀ f ∈ fs, fieldMask f.hi f.lo &&& mask = 0 ∨ f.mn = 0 ∧ 2 ^ (f.hi + 1 - f.lo) ≤ f.mx + 1) (new : Word) :
    fieldsInRange fs mask new = true := by
  simp only [fieldsInRange, List.all_eq_true, Bool.or_eq_true, Bool.and_eq_true, decide_eq_true_eq, beq_iff_eq]
  intro f hf
  rcases h f hf with h | ⟨h0, h1⟩
  · exact Or.inl (Or.inr h)
  · have := getBits_lt new f.hi f.lo
    exact Or.inr ⟨by omega, by omega⟩

/-- A word written as it was. -/
theorem setWord_same_get (s : State) (addr : Nat) (g : Fld) : (s.setWord addr (rfGet s.regs addr)).get g = s.get g := by
  unfold State.setWord State.get
  dsimp only
  by_cases h : g.addr = addr
  · rw [h, rfGet_rfSet_same]
  · rw [rfGet_rfSet_other _ _ _ _ h]

/-- The role of a port, and its register. -/
def roleFld (aux : Bool) : Fld := if aux then F.AUX_CFG.ROLE else F.HP_CFG.ROLE

def roleRow (aux : Bool) : RegRow := if aux then ⟨.AUX_CFG, 0x10100, 1, 0, 1, 0, 0, [⟨0, 0, .rwk, 0, 2, 0, 1⟩]⟩
  else ⟨.HP_CFG, 0x10000, 1, 0, 1, 0, 0, [⟨0, 0, .rwk, 0, 2, 0, 1⟩, ⟨1, 1, .rw, 0, 2, 0, 1⟩, ⟨2, 2, .rw, 0, 2, 0, 1⟩,
    ⟨15, 8, .rw, 2, 2, 2, 255⟩]⟩

theorem roleFld_bits (aux : Bool) : (roleFld aux).hi = 0 ∧ (roleFld aux).lo = 0 := by cases aux <;> exact ⟨rfl, rfl⟩

theorem roleRow_facts (aux : Bool) : (roleRow aux).id ≠ .SYS_UNLOCK
    ∧ (∀ b < 32, b ≤ 0 → (accMask Acc.stored (roleRow aux).fields).getLsbD b = true
      ∧ (accMask (· == .w1c) (roleRow aux).fields).getLsbD b = false)
    ∧ accMask (· == .rwk) (roleRow aux).fields = fieldMask 0 0
    ∧ ∀ f ∈ (roleRow aux).fields, fieldMask f.hi f.lo &&& fieldMask 0 0 = 0 ∨ f.mn = 0 ∧ 2 ^ (f.hi + 1 - f.lo) ≤ f.mx + 1 := by
  cases aux <;> decide

theorem roleReaches {s : State} (hr : s.ip.running = true) (hp : s.pd 1 = true) (aux : Bool) :
    WriteReaches false (roleFld aux).addr (roleRow aux) 0 0 s := by
  cases aux <;> exact ⟨hr, by decide, by decide, hp, by decide, rfl⟩

theorem performWrite_role {via : Port} {aux : Bool} {w : RegWr} {s : State} (h : w.row = roleRow aux) : performWrite via w s =
    if w.keeps 0 0 && !rolePends aux (s.setWord w.addr (keepRole w)) then s.setWord w.addr (keepRole w)
    else roleWrite via aux (w.new.getLsbD 0) (s.setWord w.addr (keepRole w)) := by
  cases aux <;> simp only [performWrite, h, roleRow] <;> rfl

/-- The write of a role as its checks see it. -/
def roleWr (aux role : Bool) (s : State) : RegWr := wrAt (roleFld aux).addr 1 (fieldData (roleFld aux) (bitOf role)) (roleRow aux) 0 0 s

section
variable {s : State} (hl : s.ip.loLatch = []) (aux role : Bool)
include hl

theorem roleWr_old : (roleWr aux role s).old = rfGet s.regs (roleFld aux).addr := wrAt_old hl

theorem roleWr_new : (roleWr aux role s).new = putBits (rfGet s.regs (roleFld aux).addr) 0 0 (bitOf role) := by
  obtain ⟨h1, h2⟩ := roleFld_bits aux
  obtain ⟨-, hs, -⟩ := roleRow_facts aux
  have := wrAt_field_new (row := roleRow aux) (i := 0) (j := 0) (f := roleFld aux) hl (bitOf role) (by rw [h1]; decide)
    (fun b hb _ hh => (hs b hb (h1 ▸ hh)).1) (fun b hb _ hh => (hs b hb (h1 ▸ hh)).2)
  rwa [h1, h2] at this

theorem roleWr_bit : (roleWr aux role s).new.getLsbD 0 = role := by
  rw [roleWr_new hl, putBits_getLsbD _ _ _ _ _ (by decide), if_pos (by decide)]
  cases role <;> decide

theorem roleWr_kept : keepRole (roleWr aux role s) = rfGet s.regs (roleFld aux).addr := by
  rw [keepRole, roleWr_new hl, roleWr_old hl, putBits_putBits, putBits_getBits]

theorem roleWr_keeps : (roleWr aux role s).keeps 0 0 = true ↔ s.get (roleFld aux) = bitOf role := by
  obtain ⟨h1, h2⟩ := roleFld_bits aux
  rw [RegWr.keeps, roleWr_old hl, roleWr_new hl, getBits_putBits_same _ _ _ _ (by decide) (bitOf_lt role) (by decide), beq_iff_eq,
    State.get, h1, h2]

theorem roleWr_changes : rwkChanged (roleRow aux).fields (roleWr aux role s).old (roleWr aux role s).new = true ↔
    s.get (roleFld aux) ≠ bitOf role := by
  obtain ⟨-, -, hk, -⟩ := roleRow_facts aux
  rw [rwkChanged, hk, bne_iff_ne, ne_eq, xor_fieldMask]
  exact not_congr (beq_iff_eq.symm.trans (roleWr_keeps hl aux role))

end

/-- A role that waits for its reply, or, over the stack, acts at once (R304). -/
def State.roleWaits (s : State) (via : Port) (aux role : Bool) : State := { s with
  hp := if via = .hp then { s.hp with roleNext := s.hp.roleNext ++ [(writerOf s.hp, aux, role)] } else s.hp
  aux := if via = .aux then { s.aux with roleNext := s.aux.roleNext ++ [(writerOf s.aux, aux, role)] } else s.aux }

theorem roleWrite_eq (via : Port) (aux role : Bool) (s : State) : roleWrite via aux role s =
    if via = .up then s.setB (roleFld aux) role else s.roleWaits via aux role := by
  cases via <;> rfl

section
variable {s : State} (hq : s.whReq = []) (hr : s.ip.running = true) (hl : s.ip.loLatch = []) (hp : s.pd 1 = true) (via : Port) (aux role : Bool)

/-- What a role write that passes its checks leaves (R304). -/
def roleDone (via : Port) (aux role : Bool) (s : State) : State :=
  let s1 := (consumeUnlock s).setWord (roleFld aux).addr (rfGet s.regs (roleFld aux).addr)
  if s.get (roleFld aux) = bitOf role ∧ rolePends aux s = false then s1 else roleWrite via aux role s1

include hr hl hp in
theorem roleWrite_performs (hk : s.get (roleFld aux) ≠ bitOf role → (s.mode = 2 ∨ s.mode = 3) ∧ s.ip.unlocked = true
      ∧ (aux = true → role = true → ∀ a : Axis, fbMode s a ≠ 4)) :
    fieldWrite via false (roleFld aux) (bitOf role) s =
      { roleDone via aux role s with ip := { (roleDone via aux role s).ip with wrStatus := 0 } } := by
  obtain ⟨f1, -, -, f4⟩ := roleRow_facts aux
  obtain ⟨b1, b2⟩ := roleFld_bits aux
  have hmask : wrMask 1 (fieldData (roleFld aux) (bitOf role)) = fieldMask 0 0 := by
    rw [wrMask_fieldData _ _ (by rw [b1]; decide), b1, b2]
  have hv : performWrite via (roleWr aux role s) (consumeUnlock s) = roleDone via aux role s := by
    rw [performWrite_role rfl, roleWr_kept hl, roleWr_bit hl]
    refine if_congr ?_ rfl rfl
    rw [Bool.and_eq_true, roleWr_keeps hl, Bool.not_eq_true']
    rfl
  have hcross : crossLegal (consumeUnlock s) (roleWr aux role s) = true := by cases aux <;> rfl
  have hadm : stateAdmits (consumeUnlock s) (roleWr aux role s) = true := by
    cases aux
    · rfl
    · change ((roleWr true role s).keeps 0 0 || !(roleWr true role s).new.getLsbD 0 || !(allAxes.any fun b => fbMode s b == 4)) = true
      rw [roleWr_bit hl]
      by_cases hsame : s.get (roleFld true) = bitOf role
      · rw [(roleWr_keeps hl true role).mpr hsame]
        rfl
      · cases role
        · simp
        · have hn : (allAxes.any fun b => fbMode s b == 4) = false := List.any_eq_false.mpr fun b _ => by
            simpa using (hk hsame).2.2 rfl rfl b
          simp [hn]
  exact hostWrite_performs (roleReaches hr hp aux) (by decide) f1
    (fun h => by
      obtain ⟨k1, k2, -⟩ := hk ((roleWr_changes hl aux role).mp h)
      exact ⟨k1, k2⟩)
    (by rw [hmask]; exact fieldsInRange_masked f4 _) hcross hadm hv

include hq hr hl hp in
theorem portRoleWrite_refuses (hn : s.get (roleFld aux) ≠ bitOf role) (hm : ¬ (s.mode = 2 ∨ s.mode = 3)) :
    Does (.portRoleWrite via aux role) s (s.ended 0x20)
      [(F.CMD_REFUSE.REFUSE_CNT, counted s F.CMD_REFUSE.REFUSE_CNT), (F.CMD_REFUSE.LAST_CODE, 0x20)] [] := by
  obtain ⟨f1, -⟩ := roleRow_facts aux
  refine does_refused rfl hq (by decide) (hostWrite_refuses (s := begun s) (roleReaches (s := begun s) hr hp aux) (by decide) f1 (by decide)
    (checkedWrite_wrongMode ((roleWr_changes (s := begun s) hl aux role).mpr hn) hm))

include hq hr hl hp in
theorem portRoleWrite_idle (hs : s.get (roleFld aux) = bitOf role) (hn : rolePends aux s = false) :
    Does (.portRoleWrite via aux role) s (s.ended 0) [] [] := by
  have hx := roleWrite_performs (s := begun s) hr hl hp via aux role fun h => absurd hs h
  rw [roleDone, if_pos ⟨hs, hn⟩] at hx
  refine does_by rfl hq hx rfl (fun g _ => setWord_same_get (consumeUnlock (begun s)) _ g) (by simp)

include hq hr hl hp in
theorem portRoleWrite_acts (hs : s.get (roleFld aux) = bitOf role → rolePends aux s = true)
    (hk : s.get (roleFld aux) ≠ bitOf role → (s.mode = 2 ∨ s.mode = 3) ∧ s.ip.unlocked = true
      ∧ (aux = true → role = true → ∀ a : Axis, fbMode s a ≠ 4)) :
    Does (.portRoleWrite via aux role) s (State.ended (s.roleWaits via aux role) 0)
      (if via = .up then [(roleFld aux, bitOf role)] else []) [] := by
  have hx := roleWrite_performs (s := begun s) hr hl hp via aux role hk
  have hn : ¬ ((begun s).get (roleFld aux) = bitOf role ∧ rolePends aux (begun s) = false) := fun ⟨h1, h2⟩ =>
    Bool.false_ne_true (Eq.trans (Eq.symm h2) (hs h1))
  rw [roleDone, if_neg hn, roleWrite_eq] at hx
  have hkeep : ∀ g : Fld, ((consumeUnlock (begun s)).setWord (roleFld aux).addr (rfGet (begun s).regs (roleFld aux).addr)).get g = s.get g :=
    fun g => setWord_same_get (consumeUnlock (begun s)) _ g
  generalize hs1 : (consumeUnlock (begun s)).setWord (roleFld aux).addr (rfGet (begun s).regs (roleFld aux).addr) = s1 at hx hkeep
  have hrest : s1 = { consumeUnlock (begun s) with regs := s1.regs } := by rw [← hs1]; rfl
  obtain ⟨b1, b2⟩ := roleFld_bits aux
  by_cases hup : via = .up
  · rw [if_pos hup] at hx ⊢
    subst hup
    refine does_by rfl hq hx ?_ (fun g hg => ?_) ?_
    · rw [hrest]; rfl
    · exact (State.get_set_other s1 (roleFld aux) g (bitOf role) (hg _ (by simp))).trans (hkeep g)
    · simp only [List.forall_mem_singleton]
      exact State.get_set_same s1 _ _ (by rw [b1]; decide) (by rw [b1, b2]) (by rw [b1, b2]; exact bitOf_lt role)
  · rw [if_neg hup] at hx ⊢
    refine does_by rfl hq hx ?_ (fun g _ => hkeep g) (by simp)
    rw [hrest]
    cases via <;> rfl

end

end Sys2Proof.Machine

namespace Sys2Proof.Machine

/-! ### What the loss of a domain leaves alone (R466, R516) -/

/-- What the loss of a quad or of the links shows to none but the domain itself: the writer's status, the time, the stored bytes, the
Whistles, the request. -/
structure Aside where
  unlocked : Bool
  wrStatus : BitVec 8
  now : Nat
  cells : List Host.Cell
  whReq : List (Nat × Nat)
  ctrl : Nat

/-- The part of a state that the loss of a domain leaves alone. -/
def aside (s : State) : Aside :=
  { unlocked := s.ip.unlocked, wrStatus := s.ip.wrStatus, now := s.now, cells := s.lk.cells, whReq := s.whReq, ctrl := s.get F.PD_CTRL.all }

/-- The domains that are up, and what their loss leaves alone. -/
def poweredAside (s : State) : BitVec 10 × Aside := (s.pw.on, aside s)

theorem poweredAside_regs (s : State) {r : List (Nat × Word)} (h : rfGet r 0x510 = rfGet s.regs 0x510) :
    poweredAside { s with regs := r } = poweredAside s := by
  simp only [poweredAside, aside, State.get, h]

theorem poweredAside_set (s : State) {f : Fld} (v : Nat) (h : f.addr ≠ 0x510) : poweredAside (s.set f v) = poweredAside s :=
  poweredAside_regs s (rfGet_rfSet_other _ _ _ _ h.symm)

theorem poweredAside_each {α : Type} {g : α → State → State} (h : ∀ x s, poweredAside (g x s) = poweredAside s) (l : List α) (s : State) :
    poweredAside (s.each l g) = poweredAside s := by
  induction l generalizing s with
  | nil => rfl
  | cons x l ih => exact (ih _).trans (h x s)

theorem pdCtrl_plannerField {f : Fld} (h : plannerField f) : (0x510 : Nat) ≠ f.addr := by
  have := h.2
  simp only [plannerFields, List.map_cons, List.map_nil, List.mem_cons, List.not_mem_nil, or_false] at this
  omega

/-- Work in a scope of axes leaves the domains. -/
theorem Within.poweredAside {S : Scope} {l : List Axis} {s t : State} (h : Within S l s t)
    (hs : ∀ x y, S.side x = S.side y → besideRecords x = besideRecords y)
    (hS : ∀ a f, S.fields a f → plannerField f ∨ engineBlock a f.addr) : Machine.poweredAside t = Machine.poweredAside s := by
  have hg : t.get F.PD_CTRL.all = s.get F.PD_CTRL.all := h.fields _ fun b _ f hf => Or.inl (by
    rcases hS b f hf with hf | hf
    · exact pdCtrl_plannerField hf
    · have := engineBlock_bounds hf
      dsimp only
      omega)
  have he := eq_of_besideRecords (hs _ _ h.side)
  unfold Machine.poweredAside aside
  rw [hg]
  rw [he]

theorem followLoss_aside (a : Axis) (cause : Fin 5) (s : State) : poweredAside (followLoss a cause s) = poweredAside s := by
  have hn : poweredAside (noteLoss a cause s) = poweredAside s :=
    (poweredAside_set _ _ (by dsimp only; omega)).trans (poweredAside_set _ 1 (by dsimp only; omega))
  unfold followLoss
  split
  · exact ((cancelEngage_within (S := haltScope) Scope.le_rfl List.mem_cons_self (.refl _ [a] _)).poweredAside
      (fun _ _ h => h) fun _ _ => haltFields_bounds).trans hn
  · split
    · exact hn
    · rfl

theorem mchStale_aside (fb : Bool) (c : Fin 4) (s : State) : poweredAside (mchStale fb c s) = poweredAside s := by
  have hc := c.isLt
  unfold mchStale
  refine (poweredAside_each (fun a s => ?_) _ _).trans ?_
  · split
    · exact followLoss_aside a 2 s
    · rfl
  · split
    · rfl
    · exact (poweredAside_set _ 1 (by dsimp only; omega)).trans (poweredAside_set _ 1 (by dsimp only; omega))

theorem setWave_aside (t : Fin 8) (active : Bool) (f : Nat → Word) (s : State) : poweredAside (setWave t active f s) = poweredAside s := by
  have ht := t.isLt
  have hr : ∀ (l : List Nat) (r : List (Nat × Word)), rfGet (l.foldl (fun r j => rfSet r (waveAddr t active j) (f j)) r) 0x510 = rfGet r 0x510 := by
    intro l
    induction l with
    | nil => exact fun _ => rfl
    | cons j l ih =>
      refine fun r => (ih _).trans (rfGet_rfSet_other _ _ _ _ ?_)
      unfold waveAddr
      split <;> omega
  unfold setWave
  generalize List.range 512 = l
  have h := hr l s.regs
  generalize l.foldl (fun r j => rfSet r (waveAddr t active j) (f j)) s.regs = r at h ⊢
  exact poweredAside_regs s h

theorem poweredAside_modWt (s : State) (t : Fin 8) (f : WtSt → WtSt) : poweredAside (s.modWt t f) = poweredAside s := rfl

theorem wtAllMoved_aside (t : Fin 8) (s : State) : poweredAside (wtAllMoved t s) = poweredAside s := by
  have ht := t.isLt
  unfold wtAllMoved
  rw [poweredAside_modWt, poweredAside_set _ _ (by dsimp only; omega), setWave_aside, setWave_aside]

theorem wtLeave_aside (a : Axis) (t : Fin 8) (s : State) : poweredAside (wtLeave a t s) = poweredAside s := by
  have ht := t.isLt
  have h : ∀ v, poweredAside (s.set (F.WT_STAT.USERS t) v) = poweredAside s := fun v => poweredAside_set _ v (by dsimp only; omega)
  unfold wtLeave
  dsimp only
  split
  · exact (wtAllMoved_aside _ _).trans (h _)
  · exact h _

theorem wtMove_aside (a : Axis) (t : Fin 8) (s : State) : poweredAside (wtMove a t s) = poweredAside s := by
  unfold wtMove
  split
  · rfl
  · dsimp only
    split
    · exact wtAllMoved_aside _ _
    · rfl

theorem wtHome_aside (a : Axis) (s : State) : poweredAside (wtHome a s) = poweredAside s := by
  have hl : poweredAside ((List.finRange 8).foldl (fun s t => if t = 0 then s else wtLeave a t s) s) = poweredAside s :=
    poweredAside_each (g := fun t s => if t = 0 then s else wtLeave a t s) (fun t s => by
      split
      · rfl
      · exact wtLeave_aside a t s) _ s
  have hs : ∀ v (u : State), poweredAside (u.set (F.WT_STAT.USERS 0) v) = poweredAside u := fun v u => poweredAside_set _ v (by decide)
  unfold wtHome
  dsimp only
  split
  · exact (wtMove_aside _ _ _).trans ((hs _ _).trans hl)
  · exact (hs _ _).trans hl

theorem cancelQuad_aside (q : Quad) (s : State) : poweredAside (cancelQuad q s) = poweredAside s := by
  unfold cancelQuad
  refine ((retireAll_within (S := recordScope) (a := 0) (l := [0]) Scope.le_rfl List.mem_cons_self _ _ (.refl _ _ _)).poweredAside
    (fun _ _ h => h) fun _ _ => Or.inl).trans rfl

theorem dropRegs_aside {p : Nat → Bool} (h : p 0x510 = false) (s : State) : poweredAside (dropRegs p s) = poweredAside s :=
  poweredAside_regs s ((rfGet_filter (fun n => !p n) _ _).trans (if_pos (by rw [h]; rfl)))

/-- The channels that the axes of a lost quad fed (R107). -/
def quadUnfed (q : Quad) (s : State) : State :=
  s.each (List.finRange 4) fun c s => if fedBy s q c then mchZero c (mchStale (s.get (F.MCH_CFG.SRC c) == 1) c s) else s

/-- The engines of a lost quad as after reset (R466). -/
def quadFresh (q : Quad) (s : State) : State := s.each (quadAxes q) fun a s => wtHome a (s.modAx a AxisSt.fresh)

/-- The registers of a lost quad as after reset, but for its charge pump (R230, R466). -/
def quadCleared (q : Quad) (s : State) : State := (dropRegs (quadReg q) s).setB (F.QD_GD_STAT.CP_OK q) (s.flag (F.QD_GD_STAT.CP_OK q))

/-- What marks the loss of a quad (R454, R466). -/
def quadMarked (q : Quad) (s : State) : State :=
  let s := brakeWant q false s
  let s := dropJobs (fun j => decide (j.who.val < 16) && decide (j.who.val / 4 = q.val)) s
  let bits := ((List.range 4).map fun i => 2 ^ (4 * q.val + i)).sum
  let s := s.set F.WH_LOST.POS_UNKNOWN (s.get F.WH_LOST.POS_UNKNOWN ||| bits)
  let s := s.set F.WH_LOST.QLOSS_EVT (s.get F.WH_LOST.QLOSS_EVT ||| 2 ^ q.val)
  { s with
    wh := { s.wh with snap := s.wh.snap.map fun ws => (quadAxes q).foldl (fun ws a => snapForget a ws) ws }
    plnWork := match s.plnWork with
      | some a => if quadOf a = q then none else some a
      | none => none }

theorem quadLost_eq (q : Quad) (s : State) : quadLost q s = quadMarked q (quadCleared q (quadFresh q (quadUnfed q (cancelQuad q s)))) := rfl

theorem quadUnfed_aside (q : Quad) (s : State) : poweredAside (quadUnfed q s) = poweredAside s :=
  poweredAside_each (fun c s => by
    split
    · exact mchStale_aside _ c s
    · rfl) _ _

theorem quadFresh_aside (q : Quad) (s : State) : poweredAside (quadFresh q s) = poweredAside s :=
  poweredAside_each (fun a s => wtHome_aside a (s.modAx a AxisSt.fresh)) _ _

theorem quadReg_pdCtrl (q : Quad) : quadReg q 0x510 = false := by revert q; decide

theorem quadCleared_aside (q : Quad) (s : State) : poweredAside (quadCleared q s) = poweredAside s := by
  have hq := q.isLt
  exact (poweredAside_set _ _ (by dsimp only; omega)).trans (dropRegs_aside (quadReg_pdCtrl q) s)

theorem poweredAside_record (s : State) (w : WhSt) (p : Option Axis) : poweredAside { s with wh := w, plnWork := p } = poweredAside s := rfl

theorem quadMarked_aside (q : Quad) (s : State) : poweredAside (quadMarked q s) = poweredAside s := by
  have hb : poweredAside (dropJobs (fun j => decide (j.who.val < 16) && decide (j.who.val / 4 = q.val)) (brakeWant q false s))
      = poweredAside s := rfl
  unfold quadMarked
  dsimp only
  generalize dropJobs (fun j => decide (j.who.val < 16) && decide (j.who.val / 4 = q.val)) (brakeWant q false s) = v at hb ⊢
  generalize (List.map (fun i => 2 ^ (4 * q.val + i)) (List.range 4)).sum = n
  refine (poweredAside_record _ _ _).trans ?_
  rw [poweredAside_set _ _ (by decide), poweredAside_set _ _ (by decide), hb]

theorem quadLost_aside (q : Quad) (s : State) : poweredAside (quadLost q s) = poweredAside s := by
  rw [quadLost_eq, quadMarked_aside, quadCleared_aside, quadFresh_aside, quadUnfed_aside, cancelQuad_aside]

end Sys2Proof.Machine

namespace Sys2Proof.Machine

/-! ### A write of `PD_CTRL` (R516) -/

theorem on_clear (x : BitVec 10) (k n : Nat) (hn : n < 10) : (x &&& ~~~ BitVec.ofNat 10 (2 ^ k)).getLsbD n = (x.getLsbD n && decide (n ≠ k)) := by
  rw [BitVec.getLsbD_and, BitVec.getLsbD_not, BitVec.getLsbD_ofNat, Nat.testBit_two_pow]
  by_cases h : k = n
  · subst h; simp [hn]
  · simp [hn, h, Ne.symm h]

theorem aside_power (s : State) (p : PowerSt) : aside { s with pw := p } = aside s := rfl

theorem poweredAside_cv (s : State) (c : CvSt) : poweredAside { s with cv := c } = poweredAside s := rfl

theorem quadDown_aside (q : Quad) (s : State) : aside (quadDown q s) = aside s := by
  unfold quadDown
  split
  · rfl
  · rw [aside_power]
    exact congrArg Prod.snd (quadLost_aside q s)

theorem quadDown_pd (q : Quad) (s : State) {n : Nat} (hn : n < 10) : (quadDown q s).pd n = (s.pd n && decide (n ≠ 3 + q.val)) := by
  unfold quadDown
  split
  case isTrue h =>
    by_cases hk : n = 3 + q.val
    · subst hk; simp [h]
    · simp [hk]
  case isFalse h =>
    have hl : (quadLost q s).pw.on = s.pw.on := congrArg Prod.fst (quadLost_aside q s)
    unfold State.pd
    dsimp only
    rw [hl, on_clear _ _ _ hn]

/-- The charge pumps off (R230). -/
theorem pumpsStop_aside (s : State) : poweredAside (s.each allQuads fun q s => s.set (F.QD_GD_STAT.CP_OK q) 0) = poweredAside s :=
  poweredAside_each (fun q s => poweredAside_set s 0 (by have := q.isLt; dsimp only; omega)) allQuads s

theorem pumpsOff_aside (s : State) : aside (pumpsOff s) = aside s := by
  unfold pumpsOff
  rw [aside_power]
  exact congrArg Prod.snd (pumpsStop_aside s)

theorem pumpsOff_pd (s : State) {n : Nat} (hn : n < 10) : (pumpsOff s).pd n = (s.pd n && decide (n ≠ 9)) := by
  have hl : (s.each allQuads fun q s => s.set (F.QD_GD_STAT.CP_OK q) 0).pw.on = s.pw.on := congrArg Prod.fst (pumpsStop_aside s)
  unfold pumpsOff State.pd
  dsimp only
  rw [hl]
  exact on_clear _ 9 n hn

theorem barrierFails_aside (s : State) : poweredAside (barrierFails s) = poweredAside s := by
  unfold barrierFails
  split
  · unfold State.raise
    rw [poweredAside_cv, poweredAside_set _ _ (by decide), poweredAside_set _ _ (by decide), poweredAside_set _ _ (by decide)]
  · rfl

theorem captLost_aside (s : State) : poweredAside (captLost s) = poweredAside s := by
  unfold captLost
  split
  · rfl
  · unfold State.raise
    dsimp only
    rw [poweredAside_cv, poweredAside_set _ _ (by decide), poweredAside_set _ _ (by decide), poweredAside_set _ _ (by decide),
      poweredAside_set _ _ (by decide), poweredAside_set _ _ (by decide), poweredAside_set _ _ (by decide)]

theorem sendMsg_aside (l : Link) (typ : BitVec 4) (n : Nat) (m : CvMsg) (s : State) : poweredAside (sendMsg l typ n m s) = poweredAside s := by
  rw [sendMsg_eq]
  rfl

theorem lastDevice_aside (s : State) : poweredAside (lastDevice s) = poweredAside s := by
  unfold lastDevice
  rw [sendMsg_aside, poweredAside_set _ _ (by decide)]

theorem gatherLost_aside (n : Nat) (s : State) : poweredAside (gatherLost n s) = poweredAside s := by
  have hc : ∀ u : State, poweredAside (gatherCheck u) = poweredAside u := fun u => by
    unfold gatherCheck State.raise
    split
    · rw [poweredAside_set _ _ (by decide), poweredAside_set _ _ (by decide)]
    · rfl
  unfold gatherLost
  exact hc _

theorem squadShrinks_aside (n : Nat) (s : State) : poweredAside (squadShrinks n s) = poweredAside s := by
  have h1 : poweredAside (if decide (n < s.get F.CV_STAT.STACK_N) = true then barrierFails (s.raise F.CV_STAT.SQUAD_LOST) else s) = poweredAside s := by
    split
    · rw [barrierFails_aside]
      exact poweredAside_set _ _ (by decide)
    · rfl
  unfold squadShrinks
  dsimp only
  rw [gatherLost_aside]
  generalize (if decide (n < s.get F.CV_STAT.STACK_N) = true then barrierFails (s.raise F.CV_STAT.SQUAD_LOST) else s) = v at h1 ⊢
  exact (poweredAside_set v n (by decide)).trans h1

/-- A trained link before its port has gone down: its fields, and a barrier that waits on it (R437, R440). -/
def linkDropped (l : Link) (s : State) : State :=
  let s := (s.set (linkFld l F.CV_UP_STAT.LINK_UP F.CV_DN_STAT.LINK_UP) 0).set
    (linkFld l F.CV_UP_STAT.PARTNER F.CV_DN_STAT.PARTNER) 0
  let s := (s.raise (linkFld l F.CV_UP_STAT.LINK_DROP F.CV_DN_STAT.LINK_DROP)).inc
    (linkFld l F.CV_UP_STAT.RETRAIN_CNT F.CV_DN_STAT.RETRAIN_CNT)
  barrierFails (s.modCv l fun _ => CvPort.reset)

/-- The records of a link that has gone down (R429, R440). -/
def linkForgets (l : Link) (s : State) : State :=
  let s : State := if l = .up then { s with cv := { s.cv with barHeld := none } } else s
  match s.cv.conflict with
  | some (k, id, _) => if k = l then { s with cv := { s.cv with conflict := some (l, id, true) } } else s
  | none => s

/-- What a device does whose link has gone down (R436, R437). -/
def linkMissed (l : Link) (s : State) : State :=
  match l with
  | .up => captLost s
  | .dn => if isCaptain s then squadShrinks 1 s else if s.cv.hasId then lastDevice s else s

theorem linkGoesDown_eq (l : Link) (s : State) : linkGoesDown l s =
    if ¬ linkUp s l then s else linkMissed l (linkForgets l (linkDropped l s)) := by
  cases l <;> rfl

theorem linkDropped_aside (l : Link) (s : State) : poweredAside (linkDropped l s) = poweredAside s := by
  have hm : ∀ u : State, poweredAside (u.modCv l fun _ => CvPort.reset) = poweredAside u := fun u => by cases l <;> rfl
  unfold linkDropped State.inc State.count State.raise
  dsimp only
  rw [barrierFails_aside, hm, poweredAside_set _ _ (by cases l <;> decide), poweredAside_set _ _ (by cases l <;> decide),
    poweredAside_set _ _ (by cases l <;> decide), poweredAside_set _ _ (by cases l <;> decide)]

theorem linkForgets_aside (l : Link) (s : State) : poweredAside (linkForgets l s) = poweredAside s := by
  have h1 : poweredAside (if l = .up then { s with cv := { s.cv with barHeld := none } } else s) = poweredAside s := by
    split <;> rfl
  unfold linkForgets
  dsimp only
  generalize (if l = .up then ({ s with cv := { s.cv with barHeld := none } } : State) else s) = v at h1 ⊢
  refine Eq.trans ?_ h1
  split
  · split <;> rfl
  · rfl

theorem linkMissed_aside (l : Link) (s : State) : poweredAside (linkMissed l s) = poweredAside s := by
  cases l
  · exact captLost_aside s
  · unfold linkMissed
    dsimp only
    split
    · exact squadShrinks_aside 1 s
    · split
      · exact lastDevice_aside s
      · rfl

theorem linkGoesDown_aside (l : Link) (s : State) : poweredAside (linkGoesDown l s) = poweredAside s := by
  rw [linkGoesDown_eq]
  split
  · rfl
  · rw [linkMissed_aside, linkForgets_aside, linkDropped_aside]

theorem linksOff_aside (s : State) : aside (linksOff s) = aside s := by
  unfold linksOff
  rw [aside_power]
  exact congrArg Prod.snd ((linkGoesDown_aside .dn _).trans (linkGoesDown_aside .up s))

theorem linksOff_pd (s : State) {n : Nat} (hn : n < 10) : (linksOff s).pd n = (s.pd n && decide (n ≠ 8)) := by
  have hl : (linkGoesDown .dn (linkGoesDown .up s)).pw.on = s.pw.on :=
    congrArg Prod.fst ((linkGoesDown_aside .dn _).trans (linkGoesDown_aside .up s))
  unfold linksOff State.pd
  dsimp only
  rw [hl]
  exact on_clear _ 8 n hn

end Sys2Proof.Machine

namespace Sys2Proof.Machine

/-- The quads that a write of `PD_CTRL` names off, of those listed. -/
def quadsDown (quads : Nat) (l : List Quad) (s : State) : State := l.foldl (fun s q => if natBit quads q.val then s else quadDown q s) s

/-- A write of `PD_CTRL` leaves domain `n` on where it was (R516). -/
def staysOn (quads : Nat) (lnk : Bool) (n : Nat) : Bool :=
  allQuads.all (fun q => natBit quads q.val || decide (n ≠ 3 + q.val)) && (decide (quads % 16 ≠ 0) || decide (n ≠ 9))
    && (lnk || decide (n ≠ 8))

theorem quadsDown_aside (quads : Nat) (l : List Quad) (s : State) : aside (quadsDown quads l s) = aside s := by
  induction l generalizing s with
  | nil => rfl
  | cons q l ih =>
    refine (ih _).trans ?_
    dsimp only
    split
    · rfl
    · exact quadDown_aside q s

theorem quadsDown_pd (quads : Nat) (l : List Quad) (s : State) {n : Nat} (hn : n < 10) :
    (quadsDown quads l s).pd n = (s.pd n && l.all fun q => natBit quads q.val || decide (n ≠ 3 + q.val)) := by
  induction l generalizing s with
  | nil => simp [quadsDown]
  | cons q l ih =>
    refine (ih _).trans ?_
    rw [List.all_cons]
    dsimp only
    split
    case isTrue h => rw [h, Bool.true_or, Bool.true_and]
    case isFalse h => rw [quadDown_pd _ _ hn, Bool.eq_false_iff.mpr h, Bool.false_or, Bool.and_assoc]

/-- The charge pumps go off where no quad stays on (R516). -/
def pumpsFollow (quads : Nat) (s : State) : State := if quads % 16 = 0 then pumpsOff s else s

/-- The links go off where they are not named (R516). -/
def linksFollow (lnk : Bool) (s : State) : State := if !lnk && s.pd 8 then linksOff s else s

theorem pumpsFollow_aside (quads : Nat) (s : State) : aside (pumpsFollow quads s) = aside s := by
  unfold pumpsFollow
  split
  · exact pumpsOff_aside s
  · rfl

theorem pumpsFollow_pd (quads : Nat) (s : State) {n : Nat} (hn : n < 10) :
    (pumpsFollow quads s).pd n = (s.pd n && (decide (quads % 16 ≠ 0) || decide (n ≠ 9))) := by
  unfold pumpsFollow
  split
  case isTrue h => rw [pumpsOff_pd _ hn]; simp [h]
  case isFalse h => simp [h]

theorem linksFollow_aside (lnk : Bool) (s : State) : aside (linksFollow lnk s) = aside s := by
  unfold linksFollow
  split
  · exact linksOff_aside s
  · rfl

theorem linksFollow_pd (lnk : Bool) (s : State) {n : Nat} (hn : n < 10) :
    (linksFollow lnk s).pd n = (s.pd n && (lnk || decide (n ≠ 8))) := by
  unfold linksFollow
  split
  case isTrue h =>
    rw [linksOff_pd _ hn]
    cases lnk
    · rfl
    · cases h
  case isFalse h =>
    by_cases h8 : n = 8
    · subst h8
      cases lnk <;> simp_all
    · simp [h8]

/-- The fields of `PD_CTRL` take a write (R516). -/
def pdCtrlSet (quads : Nat) (lnk : Bool) (s : State) : State := (s.set F.PD_CTRL.QUAD_ON quads).setB F.PD_CTRL.LNK_ON lnk

theorem pdCtrlWrite_eq (quads : Nat) (lnk : Bool) (s : State) :
    pdCtrlWrite quads lnk s = linksFollow lnk (pumpsFollow quads (quadsDown quads allQuads (pdCtrlSet quads lnk s))) := rfl

theorem pdCtrlWrite_aside (quads : Nat) (lnk : Bool) (s : State) : aside (pdCtrlWrite quads lnk s) = aside (pdCtrlSet quads lnk s) := by
  rw [pdCtrlWrite_eq, linksFollow_aside, pumpsFollow_aside, quadsDown_aside]

theorem pdCtrlWrite_pd (quads : Nat) (lnk : Bool) (s : State) {n : Nat} (hn : n < 10) :
    (pdCtrlWrite quads lnk s).pd n = (s.pd n && staysOn quads lnk n) := by
  rw [pdCtrlWrite_eq, linksFollow_pd _ _ hn, pumpsFollow_pd _ _ hn, quadsDown_pd _ _ _ hn, staysOn, Bool.and_assoc, Bool.and_assoc]
  simp only [Bool.and_assoc]
  rfl

theorem staysOn_quad (quads : BitVec 4) (lnk : Bool) (q : Quad) : staysOn quads.toNat lnk (3 + q.val) = quads.getLsbD q.val := by
  revert quads lnk q; decide

theorem staysOn_pumps (quads : BitVec 4) (lnk : Bool) : staysOn quads.toNat lnk 9 = (quads != 0) := by revert quads lnk; decide

theorem staysOn_links (quads : BitVec 4) (lnk : Bool) : staysOn quads.toNat lnk 8 = lnk := by revert quads lnk; decide

theorem staysOn_other (quads : BitVec 4) (lnk : Bool) : staysOn quads.toNat lnk 1 = true ∧ staysOn quads.toNat lnk 2 = true
    ∧ staysOn quads.toNat lnk 7 = true := by revert quads lnk; decide

/-- Words that agree as a whole agree in their fields. -/
theorem get_of_all {s t : State} {n : Nat} (h : t.get ⟨n, 31, 0⟩ = s.get ⟨n, 31, 0⟩) (hi lo : Nat) : t.get ⟨n, hi, lo⟩ = s.get ⟨n, hi, lo⟩ := by
  have hb := (getBits_eq_iff _ _ _ _).mp h
  exact (getBits_eq_iff _ _ _ _).mpr fun b hb32 _ _ => hb b hb32 (Nat.zero_le b) (by dsimp only; omega)

/-- The register of the power domains. -/
def pdRow : RegRow := ⟨.PD_CTRL, 0x510, 1, 0, 1, 0, 0, [⟨3, 0, .rwk, 15, 2, 0, 15⟩, ⟨4, 4, .rwk, 1, 2, 0, 1⟩]⟩

theorem pdRow_found : regAt 0x510 = some (pdRow, 0, 0) := by decide

theorem performWrite_pd {via : Port} {w : RegWr} {s : State} (h : w.row = pdRow) :
    performWrite via w s = pdCtrlWrite (getBits w.new 3 0) (w.new.getLsbD 4) s := by
  simp only [performWrite, h, pdRow]

/-- The word that a write of `PD_CTRL` carries. -/
def pdWord (quads : BitVec 4) (lnk : Bool) : Word := BitVec.ofNat 32 (quads.toNat + bitOf lnk * 16)

theorem pdWord_fields (quads : BitVec 4) (lnk : Bool) : getBits (pdWord quads lnk) 3 0 = quads.toNat ∧ (pdWord quads lnk).getLsbD 4 = lnk := by
  revert quads lnk; decide

section
variable {s : State} (hq : s.whReq = []) (hr : s.ip.running = true) (hl : s.ip.loLatch = []) (hp : s.pd 1 = true)
  (hm : s.mode = 2 ∨ s.mode = 3) (hu : s.ip.unlocked = true) (quads : BitVec 4) (lnk : Bool)
include hr hl hp hm hu

theorem pdCtrl_performs : hostWrite .hp false 0x510 0 (pdWord quads lnk) s =
    { pdCtrlWrite quads.toNat lnk (consumeUnlock s) with ip := { (pdCtrlWrite quads.toNat lnk (consumeUnlock s)).ip with wrStatus := 0 } } := by
  obtain ⟨d1, d2⟩ := pdWord_fields quads lnk
  have hreach : WriteReaches false 0x510 pdRow 0 0 s := ⟨hr, by decide, by decide, hp, by decide, pdRow_found⟩
  have hstored : ∀ b < 32, b ≤ 4 → (accMask Acc.stored pdRow.fields).getLsbD b = true ∧ (accMask (· == .w1c) pdRow.fields).getLsbD b = false := by
    decide
  generalize hw : wrAt 0x510 0 (pdWord quads lnk) pdRow 0 0 s = w
  have hrow : w.row = pdRow := by rw [← hw]; rfl
  have hnew : w.new = writtenWord pdRow.fields (rfGet s.regs 0x510) (BitVec.allOnes 32) (pdWord quads lnk) := by
    rw [← hw]; exact wrAt_new hl
  have hq3 : getBits w.new 3 0 = quads.toNat := by
    rw [hnew, writtenWord_stored _ _ fun b hb _ h => hstored b hb (by omega)]
    exact d1
  have hl4 : w.new.getLsbD 4 = lnk := by
    obtain ⟨k1, k2⟩ := hstored 4 (by decide) (by decide)
    rw [hnew, writtenWord_getLsbD _ _ _ _ (by decide), k1, k2, d2]
    cases lnk <;> rfl
  have hv : performWrite .hp w (consumeUnlock s) = pdCtrlWrite quads.toNat lnk (consumeUnlock s) := by
    rw [performWrite_pd hrow, hq3, hl4]
  have hcross : crossLegal (consumeUnlock s) w = true := by simp only [crossLegal, hrow, pdRow]
  have hadm : stateAdmits (consumeUnlock s) w = true := by simp only [stateAdmits, hrow, pdRow]
  subst hw
  exact hostWrite_performs hreach (by decide) (by decide) (fun _ => ⟨hm, hu⟩) (fieldsInRange_full (by decide) _ _) hcross hadm hv

include hq in
theorem pdCtrlWrite_completes : Completes (.pdCtrlWrite quads lnk) s fun t =>
    t.get F.PD_CTRL.QUAD_ON = quads.toNat ∧ t.get F.PD_CTRL.LNK_ON = (if lnk then 1 else 0) ∧ t.ip.unlocked = false
      ∧ t.ip.wrStatus = 0 ∧ t.now = s.now ∧ t.lk.cells = s.lk.cells
      ∧ (∀ q : Quad, t.pd (3 + q.val) = (s.pd (3 + q.val) && quads.getLsbD q.val))
      ∧ t.pd 9 = (s.pd 9 && quads != 0) ∧ t.pd 8 = (s.pd 8 && lnk)
      ∧ t.pd 1 = true ∧ t.pd 2 = s.pd 2 ∧ t.pd 7 = s.pd 7 := by
  have hx := pdCtrl_performs (s := begun s) hr hl hp hm hu quads lnk
  have ha := pdCtrlWrite_aside quads.toNat lnk (consumeUnlock (begun s))
  have hpd := fun {n : Nat} (hn : n < 10) => pdCtrlWrite_pd quads.toNat lnk (consumeUnlock (begun s)) hn
  generalize pdCtrlWrite quads.toNat lnk (consumeUnlock (begun s)) = u at hx ha hpd
  have gq : (pdCtrlSet quads.toNat lnk (consumeUnlock (begun s))).get F.PD_CTRL.QUAD_ON = quads.toNat :=
    (State.get_set_other _ _ _ _ (by decide)).trans (State.get_set_same _ _ _ (by decide) (by decide) quads.isLt)
  have gl : (pdCtrlSet quads.toNat lnk (consumeUnlock (begun s))).get F.PD_CTRL.LNK_ON = bitOf lnk :=
    State.get_set_same _ _ _ (by decide) (by decide) (bitOf_lt lnk)
  have hc : u.get F.PD_CTRL.all = _ := congrArg Aside.ctrl ha
  have hbit : bitOf lnk = if lnk then 1 else 0 := by cases lnk <;> rfl
  have hun : u.ip.unlocked = false := congrArg Aside.unlocked ha
  have hno : u.now = s.now := congrArg Aside.now ha
  have hce : u.lk.cells = s.lk.cells := congrArg Aside.cells ha
  have hwh : u.whReq = [] := (congrArg Aside.whReq ha).trans hq
  have hs : ∀ n, (consumeUnlock (begun s)).pd n = s.pd n := fun _ => rfl
  obtain ⟨o1, o2, o7⟩ := staysOn_other quads lnk
  refine completes_to rfl hx hwh ⟨?_, ?_, ?_, ?_, ?_, ?_, fun q => ?_, ?_, ?_, ?_, ?_, ?_⟩
  · rw [settle_get]
    exact (get_of_all hc 3 0).trans gq
  · rw [settle_get, ← hbit]
    exact (get_of_all hc 4 4).trans gl
  · rw [settle_ip]; exact hun
  · rw [settle_ip]
  · rw [settle_now]; exact hno
  · rw [settle_cells]; exact hce
  · rw [settle_pd, ← staysOn_quad quads lnk q]
    exact hpd (by omega)
  · rw [settle_pd, ← staysOn_pumps quads lnk]
    exact hpd (by decide)
  · rw [settle_pd]
    exact (hpd (n := 8) (by decide)).trans (by rw [staysOn_links, hs])
  · rw [settle_pd]
    exact (hpd (n := 1) (by decide)).trans (by rw [o1, hs, hp]; rfl)
  · rw [settle_pd]
    exact (hpd (n := 2) (by decide)).trans (by rw [o2, hs, Bool.and_true])
  · rw [settle_pd]
    exact (hpd (n := 7) (by decide)).trans (by rw [o7, hs, Bool.and_true])

end

end Sys2Proof.Machine

namespace Sys2Proof.Machine

/-! ### Writes of 1 to an action bit -/

/-- A register of action bits only (R369). -/
structure ActionRow (row : RegRow) : Prop where
  keyless : accMask (· == .rwk) row.fields = 0
  plain : row.id ≠ .SYS_UNLOCK
  legal : ∀ f ∈ row.fields, f.mn = 0 ∧ 2 ^ (f.hi + 1 - f.lo) ≤ f.mx + 1

/-- A write of 1 to an action bit as its checks see it. -/
def strobeWr (f : Fld) (row : RegRow) (s : State) : RegWr := wrAt f.addr 1 (fieldData f 1) row 0 0 s

section
variable {via : Port} {bk : Bool} {f : Fld} {row : RegRow} {s : State} (h : WriteReaches bk f.addr row 0 0 s) (hrow : ActionRow row)
include h hrow

theorem strobe_performs (hc : crossLegal (consumeUnlock s) (strobeWr f row s) = true)
    (ha : stateAdmits (consumeUnlock s) (strobeWr f row s) = true) {v : State}
    (hv : performWrite via (strobeWr f row s) (consumeUnlock s) = v) : strobe via bk f s = { v with ip := { v.ip with wrStatus := 0 } } :=
  hostWrite_performs h (by decide) hrow.plain (fun hk => by rw [rwkChanged_none hrow.keyless] at hk; cases hk)
    (fieldsInRange_full hrow.legal _ _) hc ha hv

theorem strobe_busy (hid : row.id ≠ .WT_CTRL) (hc : crossLegal (consumeUnlock s) (strobeWr f row s) = true)
    (ha : stateAdmits (consumeUnlock s) (strobeWr f row s) = false) : strobe via bk f s =
      (s.ended 0x21).sets [(F.CMD_REFUSE.REFUSE_CNT, counted s F.CMD_REFUSE.REFUSE_CNT), (F.CMD_REFUSE.LAST_CODE, 0x21)] :=
  hostWrite_refuses h (by decide) hrow.plain (by decide)
    (checkedWrite_busy (rwkChanged_none hrow.keyless _ _) hid (fieldsInRange_full hrow.legal _ _) hc ha)

end

theorem strobeWr_acts (f : Fld) (row : RegRow) (s : State) (k : Nat) :
    (strobeWr f row s).acts k = (wrMask 1 (fieldData f 1) &&& wrBits 1 (fieldData f 1)).getLsbD k := rfl

/-! ### The Locker's jobs -/

/-- A property of a job that does not speak of how long it has waited. -/
def Timeless (P : LkJob → Prop) : Prop := ∀ j t, P j → P { j with since := t }

/-- A job with a property is at work. -/
def AtWork (P : LkJob → Prop) (s : State) : Prop := ∃ j ∈ s.lk.jobs, P j

section
variable {P : LkJob → Prop} (hP : Timeless P)
include hP

theorem setJobs_atWork {l : List LkJob} (h : ∃ j ∈ l, P j) (s : State) : AtWork P (setJobs l s) := by
  obtain ⟨j, hj, hp⟩ := h
  refine ⟨_, List.mem_map_of_mem hj, ?_⟩
  split
  · exact hP _ _ hp
  · exact hp

theorem addJob_new {j : LkJob} (h : P j) (s : State) : AtWork P (addJob j s) := by
  refine setJobs_atWork hP ⟨j, ?_, h⟩ s
  split <;> simp

theorem addJob_old (j : LkJob) {s : State} (h : AtWork P s) : AtWork P (addJob j s) := by
  obtain ⟨k, hk, hp⟩ := h
  refine setJobs_atWork hP ⟨k, ?_, hp⟩ s
  split
  · exact List.mem_append_left _ hk
  · rw [← List.takeWhile_append_dropWhile (p := fun x : LkJob => !x.rewrites) (l := s.lk.jobs), List.mem_append] at hk
    rcases hk with hk | hk
    · exact List.mem_append_left _ hk
    · exact List.mem_append_right _ (List.mem_cons_of_mem _ hk)

theorem dropJobs_atWork {p : LkJob → Bool} {s : State} (h : AtWork (fun j => P j ∧ p j = false) s) : AtWork P (dropJobs p s) := by
  obtain ⟨j, hj, hp, hd⟩ := h
  exact setJobs_atWork hP ⟨j, List.mem_filter.mpr ⟨hj, by rw [hd]; rfl⟩, hp⟩ s

end

/-- A job that is no write of the audit log stays at work when a command ends. -/
theorem settle_atWork {P : LkJob → Prop} {u : State} (h : AtWork (fun j => P j ∧ j.why ≠ .audit) u) : AtWork P (settle u) := by
  obtain ⟨j, hj, hp, hw⟩ := h
  have hk : (settle u).lk.jobs.filter (fun j => j.why != .audit) = u.lk.jobs.filter fun j => j.why != .audit := (settle_eq u).2
  have hm : j ∈ (settle u).lk.jobs.filter (fun j => j.why != .audit) := hk ▸ List.mem_filter.mpr ⟨hj, bne_iff_ne.mpr hw⟩
  exact ⟨j, (List.mem_filter.mp hm).1, hp⟩

/-! ### STORE (R472) -/

theorem flag_eq_false {s : State} {f : Fld} (h : s.get f = 0) : s.flag f = false := by rw [State.flag, h]; rfl

/-- The register of STORE. -/
def bkRow : RegRow := ⟨.BK_DEV_CTRL, 0x3f0404, 1, 0, 1, 0, 0, [⟨0, 0, .wo, 0, 2, 0, 1⟩]⟩

theorem bkRow_found : regAt 0x3f0404 = some (bkRow, 0, 0) := by decide

theorem bkRow_acts : ActionRow bkRow := ⟨by decide, by decide, by decide⟩

theorem stateAdmits_bk {w : RegWr} {s : State} (h : w.row = bkRow) :
    stateAdmits s w = (!w.acts 0 || (!s.flag F.BK_DEV_STAT.STORE_BUSY && s.pw.sleepPend.isNone)) := by simp only [stateAdmits, h, bkRow]

theorem performWrite_bk {via : Port} {w : RegWr} {s : State} (h : w.row = bkRow) :
    performWrite via w s = if w.acts 0 then bkStore s else s := by simp only [performWrite, h, bkRow]

/-- A STORE has begun (R472). -/
def State.storeBegun (s : State) : State :=
  { s with bk := { s.bk with storing := true, table := bkWords s, imaging := false, failed := false } }

/-- The job that writes the Backstop table (R472). -/
def storesTable (s : State) (j : LkJob) : Prop :=
  j.who = lkSecurity ∧ j.why = .store ∧ j.line = bkTableLine ∧ j.bytes = some (wordsBytesLE (bkWords s))

theorem bkAddrs_apart {a n : Nat} (ha : a < 16) (h : n ∈ bkAddrs a) : n ≠ 0x3f0400 := by
  simp only [bkAddrs, List.mem_map, List.mem_range] at h
  obtain ⟨i, hi, rfl⟩ := h
  omega

/-- The Backstop table does not hold STORE_BUSY. -/
theorem bkWords_set (s : State) (v : Nat) : bkWords (s.set F.BK_DEV_STAT.STORE_BUSY v) = bkWords s := by
  unfold bkWords
  refine List.flatMap_congr fun a ha => List.map_congr_left fun n hn => ?_
  exact rfGet_rfSet_other _ _ _ _ (bkAddrs_apart (List.mem_range.mp ha) hn)

theorem bkStore_eq (s : State) : ∃ jobs, bkStore s =
      { s.storeBegun with regs := (s.set F.BK_DEV_STAT.STORE_BUSY 1).regs, lk := { s.lk with jobs := jobs } } := by
  unfold bkStore writeJob
  dsimp only
  rw [bkWords_set]
  exact ⟨_, rfl⟩

theorem bkStore_atWork (s : State) : AtWork (fun j => storesTable s j ∧ j.why ≠ .audit) (bkStore s) := by
  unfold bkStore writeJob
  refine addJob_new (fun j t h => h) ⟨⟨rfl, rfl, rfl, ?_⟩, by simp⟩ _
  dsimp only
  rw [bkWords_set]

theorem storeTable_strobes (s : State) (hm : s.mode = 2) : storeTable s = strobe .hp true F.BK_DEV_CTRL.STORE s := if_pos hm

section
variable {s : State} (hr : s.ip.running = true) (hp : s.pd 1 = true) (hm : s.mode = 2)
include hr hp

theorem bkReaches : WriteReaches true F.BK_DEV_CTRL.STORE.addr bkRow 0 0 s := ⟨hr, by decide, by decide, hp, by decide, bkRow_found⟩

include hm

theorem storeTable_stores (hb : s.get F.BK_DEV_STAT.STORE_BUSY = 0) (hs : s.pw.sleepPend = none) :
    storeTable s = { bkStore (consumeUnlock s) with ip := { (bkStore (consumeUnlock s)).ip with wrStatus := 0 } } := by
  have hact : (strobeWr F.BK_DEV_CTRL.STORE bkRow s).acts 0 = true := by rw [strobeWr_acts]; decide
  have hf : (consumeUnlock s).flag F.BK_DEV_STAT.STORE_BUSY = false := flag_eq_false (s := consumeUnlock s) hb
  have hn : (consumeUnlock s).pw.sleepPend.isNone = true := congrArg Option.isNone hs
  rw [storeTable_strobes s hm]
  refine strobe_performs (bkReaches hr hp) bkRow_acts rfl ?_ ?_
  · rw [stateAdmits_bk rfl, hf, hn]; simp
  · rw [performWrite_bk rfl, hact]; rfl

theorem storeTable_busy (h : s.get F.BK_DEV_STAT.STORE_BUSY = 1 ∨ s.pw.sleepPend ≠ none) : storeTable s =
    (s.ended 0x21).sets [(F.CMD_REFUSE.REFUSE_CNT, counted s F.CMD_REFUSE.REFUSE_CNT), (F.CMD_REFUSE.LAST_CODE, 0x21)] := by
  have hact : (strobeWr F.BK_DEV_CTRL.STORE bkRow s).acts 0 = true := by rw [strobeWr_acts]; decide
  rw [storeTable_strobes s hm]
  refine strobe_busy (bkReaches hr hp) bkRow_acts (by decide) rfl ?_
  rw [stateAdmits_bk rfl, hact, Bool.not_true, Bool.false_or, Bool.and_eq_false_iff]
  refine h.imp (fun hb => ?_) fun hs => ?_
  · have hf : (consumeUnlock s).flag F.BK_DEV_STAT.STORE_BUSY = true := (flag_eq_true_iff (consumeUnlock s) _ rfl).mpr hb
    rw [hf]; rfl
  · exact Option.isNone_eq_false_iff.mpr (Option.isSome_iff_ne_none.mpr hs)

end

section
variable {s : State} (hq : s.whReq = []) (hr : s.ip.running = true) (hp : s.pd 1 = true) (hm : s.mode = 2)
include hq hr hp hm

theorem bkStore_begins (hb : s.get F.BK_DEV_STAT.STORE_BUSY = 0) (hs : s.pw.sleepPend = none) : Completes .bkStore s fun t =>
    (∃ jobs, t = { s.storeBegun.ended 0 with
      regs := t.regs, plnWork := t.plnWork, cv := { s.cv with tx := t.cv.tx }, lk := { s.lk with jobs := jobs } })
    ∧ KeepsFields [F.BK_DEV_STAT.STORE_BUSY] s t ∧ t.get F.BK_DEV_STAT.STORE_BUSY = 1 ∧ AtWork (storesTable s) t := by
  have hx := storeTable_stores (s := begun s) hr hp hm hb hs
  obtain ⟨jobs, he⟩ := bkStore_eq (consumeUnlock (begun s))
  have hw := bkStore_atWork (consumeUnlock (begun s))
  generalize bkStore (consumeUnlock (begun s)) = u at hx he hw
  have hg : ∀ g : Fld, u.get g = (s.set F.BK_DEV_STAT.STORE_BUSY 1).get g := fun g => by rw [he]; rfl
  refine completes_to (f := storeTable) rfl hx (by rw [he]; exact hq) ⟨⟨(settle { u with ip := { u.ip with wrStatus := 0 } }).lk.jobs, ?_⟩, fun g h => ?_, ?_, settle_atWork hw⟩
  · have hs := (settle_eq { u with ip := { u.ip with wrStatus := 0 } }).1
    generalize settle { u with ip := { u.ip with wrStatus := 0 } } = t at hs ⊢
    rw [hs, he]
    rfl
  · rw [settle_get]
    exact (hg g).trans (State.get_set_other _ _ _ _ (h _ (by simp)))
  · rw [settle_get]
    exact (hg _).trans (State.get_set_same _ _ _ (by decide) (by decide) (by decide))

theorem bkStore_busy (h : s.get F.BK_DEV_STAT.STORE_BUSY = 1 ∨ s.pw.sleepPend ≠ none) : Does .bkStore s (s.ended 0x21)
    [(F.CMD_REFUSE.REFUSE_CNT, counted s F.CMD_REFUSE.REFUSE_CNT), (F.CMD_REFUSE.LAST_CODE, 0x21)] [] :=
  does_refused (f := storeTable) rfl hq (by decide) (storeTable_busy (s := begun s) hr hp hm h)

end

end Sys2Proof.Machine

namespace Sys2Proof.Machine

/-! ### The partitions applied (R395) -/

theorem sum_pow_filter_lt (p : Nat → Bool) (n : Nat) : (((List.range n).filter p).map fun r => 2 ^ r).sum < 2 ^ n := by
  induction n with
  | zero => simp
  | succ n ih =>
    rw [List.range_succ, List.filter_append, List.map_append, List.sum_append, Nat.pow_succ]
    by_cases h : p n = true
    · simp [h]; omega
    · simp [h]; omega

/-- The bits of a sum of powers of two. -/
theorem sum_pow_filter_testBit (p : Nat → Bool) (n i : Nat) :
    (((List.range n).filter p).map fun r => 2 ^ r).sum.testBit i = (decide (i < n) && p i) := by
  induction n with
  | zero => simp
  | succ n ih =>
    have hlt := sum_pow_filter_lt p n
    rw [List.range_succ, List.filter_append, List.map_append, List.sum_append]
    generalize (((List.range n).filter p).map fun r => 2 ^ r).sum = x at ih hlt
    by_cases h : p n = true
    · rw [List.filter_cons_of_pos h, List.filter_nil, List.map_singleton, List.sum_singleton, Nat.add_comm]
      rcases Nat.lt_trichotomy i n with hi | rfl | hi
      · rw [Nat.testBit_two_pow_add_gt hi, ih]
        simp [hi, Nat.lt_succ_of_lt hi]
      · rw [Nat.testBit_two_pow_add_eq, ih]
        simp [h]
      · have : 2 ^ n + x < 2 ^ i := by
          have := Nat.pow_le_pow_right (show 0 < 2 by decide) (show n + 1 ≤ i from hi)
          omega
        rw [Nat.testBit_lt_two_pow this]
        simp
        omega
    · rw [List.filter_cons_of_neg h, List.filter_nil, List.map_nil, List.sum_nil, Nat.add_zero, ih]
      by_cases hi : i = n
      · subst hi; simp [h]
      · simp [show i < n + 1 ↔ i < n by omega]

/-- From `s` to `t` only registers, the Locker's jobs and the place of the trace writer have changed. -/
def JobsAndTrace (s t : State) : Prop :=
  t = { s with regs := t.regs, lk := { s.lk with jobs := t.lk.jobs, trcHead := t.lk.trcHead } }

theorem JobsAndTrace.trans {r s t : State} (h : JobsAndTrace r s) (k : JobsAndTrace s t) : JobsAndTrace r t := by
  unfold JobsAndTrace at h k ⊢
  rw [k, h]

theorem JobsOnly.jobsAndTrace {s t : State} (h : JobsOnly s t) : JobsAndTrace s t := by
  unfold JobsOnly at h
  unfold JobsAndTrace
  rw [h]

theorem setImage_registers (img : List Word) (s : State) : JobsAndTrace s (setImage img s) := by
  unfold setImage
  generalize List.range 16 = l
  induction l generalizing s with
  | nil => rfl
  | cons i l ih => exact JobsAndTrace.trans (s := s.setWord _ _) rfl (ih _)

theorem traceStart_jobs (s : State) : JobsAndTrace s (traceStart s) := by
  unfold traceStart
  split
  · rfl
  · split
    · rfl
    · rfl

theorem traceRestart_jobs (s : State) : JobsAndTrace s (traceRestart s) := JobsAndTrace.trans (by rfl) (traceStart_jobs _)

/-- The rewrite of a region (R395). -/
def rewritesRegion (r : Nat) (j : LkJob) : Prop := j.who = lkInterp ∧ j.why = .rewrite r ∧ j.line = r * 32768

theorem rewritesRegion_timeless (r : Nat) : Timeless (rewritesRegion r) := fun _ _ h => h

/-- The jobs that rewrite a region begin (R395). -/
def rewriteRegion (r : Nat) (s : State) : State :=
  (List.range (setBanks (r * 32768))).foldl (fun s k =>
    addJob { who := lkInterp, why := .rewrite r, line := r * 32768 + k, step := setBanks (r * 32768),
             left := 32768 / setBanks (r * 32768) - 1, bytes := some [], since := s.now } s) s

/-- A region marked for it is rewritten, unless its rewrite is under way (R395). -/
def rewriteDue (s : State) (r : Nat) : State :=
  if s.lk.initPend.getLsbD r && !serving s (.rewrite r) then rewriteRegion r s else s

theorem startRewrites_eq (s : State) : startRewrites s = (List.range 64).foldl rewriteDue s := rfl

theorem rewriteRegion_only (r : Nat) (s : State) : JobsOnly s (rewriteRegion r s) := foldl_jobsOnly (fun s _ => addJob_only _ s) _ s

theorem rewriteDue_only (s : State) (r : Nat) : JobsOnly s (rewriteDue s r) := by
  unfold rewriteDue
  split
  · exact rewriteRegion_only r s
  · rfl

theorem foldl_atWork {α : Type} {P : LkJob → Prop} {f : State → α → State} (hf : ∀ s x, AtWork P s → AtWork P (f s x)) (l : List α) {s : State}
    (h : AtWork P s) : AtWork P (l.foldl f s) := by
  induction l generalizing s with
  | nil => exact h
  | cons x l ih => exact ih (hf s x h)

theorem rewriteRegion_old {P : LkJob → Prop} (hP : Timeless P) (r : Nat) {s : State} (h : AtWork P s) : AtWork P (rewriteRegion r s) :=
  foldl_atWork (fun _ _ h => addJob_old hP _ h) _ h

theorem rewriteDue_old {P : LkJob → Prop} (hP : Timeless P) (s : State) (r : Nat) (h : AtWork P s) : AtWork P (rewriteDue s r) := by
  unfold rewriteDue
  split
  · exact rewriteRegion_old hP r h
  · exact h

theorem rewriteRegion_new (r : Nat) (s : State) : AtWork (rewritesRegion r) (rewriteRegion r s) := by
  have hb : ∃ n, setBanks (r * 32768) = n + 1 := by
    unfold setBanks
    split
    · exact ⟨3, rfl⟩
    · exact ⟨1, rfl⟩
  obtain ⟨n, hn⟩ := hb
  unfold rewriteRegion
  rw [hn, List.range_succ_eq_map, List.foldl_cons]
  exact foldl_atWork (fun _ _ h => addJob_old (rewritesRegion_timeless r) _ h) _
    (addJob_new (rewritesRegion_timeless r) ⟨rfl, rfl, Nat.add_zero _⟩ s)

/-- The jobs of a new list serve what the list serves. -/
theorem setJobs_serving (l : List LkJob) (s : State) (why : LkWhy) : serving (setJobs l s) why = l.any fun j => j.why == why := by
  unfold serving setJobs
  rw [List.any_map]
  refine congrArg l.any (funext fun j => ?_)
  dsimp only [Function.comp]
  split <;> rfl

theorem addJob_serving {j : LkJob} {why : LkWhy} (h : j.why ≠ why) (s : State) : serving (addJob j s) why = serving s why := by
  have hj : (j.why == why) = false := beq_eq_false_iff_ne.mpr h
  unfold addJob
  dsimp only
  rw [setJobs_serving]
  unfold serving
  split
  · rw [List.any_append, List.any_cons, hj]
    simp
  · rw [List.any_append, List.any_cons, hj, Bool.false_or, ← List.any_append, List.takeWhile_append_dropWhile]

theorem rewriteRegion_serving {r n : Nat} (h : r ≠ n) (s : State) : serving (rewriteRegion r s) (.rewrite n) = serving s (.rewrite n) := by
  unfold rewriteRegion
  generalize List.range (setBanks (r * 32768)) = l
  induction l generalizing s with
  | nil => rfl
  | cons k l ih => exact (ih _).trans (addJob_serving (by simpa using h) s)

/-- A region that no job rewrites from the middle is rewritten from its start. -/
def WholeRewrite (r : Nat) (s : State) : Prop := serving s (.rewrite r) = true → AtWork (rewritesRegion r) s

theorem rewriteDue_whole {r : Nat} (n : Nat) {s : State} (h : WholeRewrite r s) : WholeRewrite r (rewriteDue s n) := by
  intro hs
  unfold rewriteDue at hs ⊢
  split
  case isTrue hd =>
    rw [if_pos hd] at hs
    by_cases hn : n = r
    · exact hn ▸ rewriteRegion_new n s
    · rw [rewriteRegion_serving hn] at hs
      exact rewriteRegion_old (rewritesRegion_timeless r) n (h hs)
  case isFalse hd =>
    rw [if_neg hd] at hs
    exact h hs

theorem rewriteDue_begins {r : Nat} {s : State} (h : WholeRewrite r s) (hp : s.lk.initPend.getLsbD r = true) :
    AtWork (rewritesRegion r) (rewriteDue s r) := by
  unfold rewriteDue
  rw [hp, Bool.true_and]
  split
  case isTrue => exact rewriteRegion_new r s
  case isFalse hs => exact h (by simpa using hs)

theorem foldl_rewrites {r : Nat} (l : List Nat) (hr : r ∈ l) {s : State} (h : WholeRewrite r s) (hp : s.lk.initPend.getLsbD r = true) :
    AtWork (rewritesRegion r) (l.foldl rewriteDue s) := by
  induction l generalizing s with
  | nil => cases hr
  | cons n l ih =>
    by_cases hn : r = n
    · subst hn
      exact foldl_atWork (rewriteDue_old (rewritesRegion_timeless r)) l (rewriteDue_begins h hp)
    · refine ih ((List.mem_cons.mp hr).resolve_left hn) (rewriteDue_whole n h) ?_
      rw [rewriteDue_only s n]
      exact hp

end Sys2Proof.Machine

namespace Sys2Proof.Machine

/-- The partitions that the registers ask for (R395). -/
def askedRec (s : State) : Nat × Nat := (s.get F.LK_PART_REC.BASE, s.get F.LK_PART_REC.SIZE)
def askedCam (s : State) : Nat × Nat := (s.get F.LK_PART_CAM.BASE, s.get F.LK_PART_CAM.SIZE)
def askedTrc (s : State) : Nat × Nat := (s.get F.LK_PART_TRC.BASE, s.get F.LK_PART_TRC.SIZE)

/-- The partition of a region changes (R395). -/
def regionMoves (s : State) (r : Nat) : Bool :=
  partOf (partRec s) (partCam s) (partTrc s) r != partOf (askedRec s) (askedCam s) (askedTrc s) r

/-- The regions whose partition changes (R395). -/
def movedRegions (s : State) : List Nat := (List.range 63).filter (regionMoves s)

theorem movedRegions_contains (s : State) (r : Nat) : (movedRegions s).contains r = (decide (r < 63) && regionMoves s r) := by
  rw [Bool.eq_iff_iff]
  simp [movedRegions]

/-- The generations after an apply (R395). -/
def nextGen (s : State) : Vector (BitVec 11) 64 :=
  Vector.ofFn fun r : Fin 64 => if (movedRegions s).contains r.val then s.lk.gen[r] + 1 else s.lk.gen[r]

/-- The regions to rewrite after an apply (R395). -/
def nextPend (s : State) : BitVec 64 := s.lk.initPend ||| BitVec.ofNat 64 (((movedRegions s).map fun r => 2 ^ r).sum)

/-- The new generations, and the regions to rewrite (R395). -/
def partsTaken (s : State) : State := { s with lk := { s.lk with gen := nextGen s, initPend := nextPend s } }

/-- A rewrite of a region whose partition changes. -/
def rewritesMoved (s : State) (j : LkJob) : Bool := match j.why with | .rewrite r => (movedRegions s).contains r | _ => false

/-- The trace writer begins anew where its partition has changed. -/
def traceFollows (stays : Bool) (s : State) : State := if stays then s else traceRestart s

/-- The image and the trace ring after an apply, before the rewrites begin. -/
def partsBegun (img : List Word) (stays : Bool) (s : State) : State :=
  traceFollows stays (writeImage (setImage img (dropJobs (rewritesMoved s) (partsTaken s))))

theorem partitionApply_rejects {s : State} (h : partsLegal (askedRec s) (askedCam s) (askedTrc s) = false) :
    partitionApply s = s.raise F.LK_PART_STAT.PART_REJ := if_pos (ne_true_of_eq_false h)

theorem partitionApply_eq {s : State} (h : partsLegal (askedRec s) (askedCam s) (askedTrc s) = true) : ∃ img stays, partitionApply s =
    startRewrites (partsBegun img stays s) :=
  ⟨_, _, (if_neg (not_not.mpr h)).trans rfl⟩

theorem traceFollows_jobs (stays : Bool) (s : State) : JobsAndTrace s (traceFollows stays s) := by
  unfold traceFollows
  split
  · rfl
  · exact traceRestart_jobs s

theorem dropJobs_only (p : LkJob → Bool) (s : State) : JobsOnly s (dropJobs p s) := rfl

theorem partsBegun_jobs (img : List Word) (stays : Bool) (s : State) : JobsAndTrace (partsTaken s) (partsBegun img stays s) := by
  unfold partsBegun
  refine JobsAndTrace.trans ?_ (traceFollows_jobs _ _)
  refine JobsAndTrace.trans ?_ (addJob_only _ _).jobsAndTrace
  exact (dropJobs_only (rewritesMoved s) (partsTaken s)).jobsAndTrace.trans (setImage_registers _ _)

theorem partitionApply_jobs {s : State} (h : partsLegal (askedRec s) (askedCam s) (askedTrc s) = true) :
    JobsAndTrace (partsTaken s) (partitionApply s) := by
  obtain ⟨img, stays, he⟩ := partitionApply_eq h
  rw [he]
  exact (partsBegun_jobs img stays s).trans (startRewrites_only _).jobsAndTrace

/-! #### The jobs of an apply -/

theorem setImage_works (img : List Word) (s : State) : (setImage img s).lk.jobs = s.lk.jobs := by
  unfold setImage
  generalize List.range 16 = l
  induction l generalizing s with
  | nil => rfl
  | cons i l ih => exact ih _

theorem traceStart_old {P : LkJob → Prop} (hP : Timeless P) {s : State} (h : AtWork P s) : AtWork P (traceStart s) := by
  unfold traceStart writeJob
  split
  · exact h
  · split
    · exact h
    · exact addJob_old hP _ h

theorem traceFollows_old {P : LkJob → Prop} (hP : Timeless P) (stays : Bool) {s : State} (h : AtWork (fun j => P j ∧ j.why ≠ .trace) s) :
    AtWork P (traceFollows stays s) := by
  have hd : AtWork (fun j => P j ∧ (j.why == .trace) = false) s := by simpa using h
  unfold traceFollows
  split
  · obtain ⟨j, hj, hp, -⟩ := h
    exact ⟨j, hj, hp⟩
  · refine traceStart_old hP ?_
    exact dropJobs_atWork (p := fun j => j.why == .trace) hP hd

theorem traceStart_serving {why : LkWhy} (hw : why ≠ .trace) (s : State) : serving (traceStart s) why = serving s why := by
  unfold traceStart writeJob
  split
  · rfl
  · split
    · rfl
    · exact addJob_serving (fun h => hw h.symm) s

theorem dropJobs_serving {why : LkWhy} (p : LkJob → Bool) {s : State} (h : serving s why = false) : serving (dropJobs p s) why = false := by
  unfold dropJobs
  rw [setJobs_serving, List.any_eq_false]
  exact fun j hj => List.any_eq_false.mp h j (List.mem_filter.mp hj).1

theorem traceFollows_serving {why : LkWhy} (hw : why ≠ .trace) (stays : Bool) {s : State} (h : serving s why = false) :
    serving (traceFollows stays s) why = false := by
  unfold traceFollows
  split
  · exact h
  · exact (traceStart_serving hw _).trans (dropJobs_serving (fun j => j.why == .trace) h)

/-- The job that writes the option image (R536). -/
def writesImage (j : LkJob) : Prop := j.who = lkSecurity ∧ j.why = .image ∧ j.line = 0x1F8000

theorem startRewrites_old {P : LkJob → Prop} (hP : Timeless P) {s : State} (h : AtWork P s) : AtWork P (startRewrites s) :=
  foldl_atWork (rewriteDue_old hP) _ h

/-- No job left from before rewrites a region whose partition changes. -/
theorem dropMoved_serving {s : State} {r : Nat} (hr : (movedRegions s).contains r = true) (u : State) :
    serving (dropJobs (rewritesMoved s) u) (.rewrite r) = false := by
  unfold dropJobs
  rw [setJobs_serving, List.any_eq_false]
  intro j hj hw
  have hd := (List.mem_filter.mp hj).2
  have : rewritesMoved s j = true := by
    unfold rewritesMoved
    rw [beq_iff_eq.mp hw]
    exact hr
  rw [this] at hd
  cases hd

theorem partsBegun_serving (img : List Word) (stays : Bool) {s : State} {r : Nat} (hr : (movedRegions s).contains r = true) :
    serving (partsBegun img stays s) (.rewrite r) = false := by
  unfold partsBegun
  refine traceFollows_serving (by simp) _ ?_
  unfold writeImage
  rw [addJob_serving (by simp)]
  unfold serving
  rw [setImage_works]
  exact dropMoved_serving hr _

theorem partsBegun_image (img : List Word) (stays : Bool) (s : State) :
    AtWork (fun j => writesImage j ∧ j.why ≠ .audit) (partsBegun img stays s) := by
  unfold partsBegun writeImage
  exact traceFollows_old (fun _ _ h => h) _ (addJob_new (fun _ _ h => h) ⟨⟨⟨rfl, rfl, rfl⟩, by simp⟩, by simp⟩ _)

section
variable {s : State} (h : partsLegal (askedRec s) (askedCam s) (askedTrc s) = true)
include h

theorem partitionApply_image : AtWork (fun j => writesImage j ∧ j.why ≠ .audit) (partitionApply s) := by
  obtain ⟨img, stays, he⟩ := partitionApply_eq h
  rw [he]
  exact startRewrites_old (fun _ _ h => h) (partsBegun_image img stays s)

theorem partitionApply_rewrites {r : Nat} (hr : (movedRegions s).contains r = true) (hp : (partsTaken s).lk.initPend.getLsbD r = true)
    (hlt : r < 64) : AtWork (rewritesRegion r) (partitionApply s) := by
  obtain ⟨img, stays, he⟩ := partitionApply_eq h
  have hs := partsBegun_serving img stays hr
  have hj : (partsBegun img stays s).lk.initPend = (partsTaken s).lk.initPend := by rw [partsBegun_jobs img stays s]
  rw [he, startRewrites_eq]
  refine foldl_rewrites _ (List.mem_range.mpr hlt) (fun hw => ?_) (by rw [hj]; exact hp)
  rw [hs] at hw
  cases hw

end

end Sys2Proof.Machine

namespace Sys2Proof.Machine

/-- The register of the partition apply. -/
def partRow : RegRow := ⟨.LK_PART_CTRL, 0x38004c, 1, 0, 1, 0, 0, [⟨0, 0, .wo, 0, 2, 0, 1⟩]⟩

theorem partRow_found : regAt 0x38004c = some (partRow, 0, 0) := by decide

theorem partRow_acts : ActionRow partRow := ⟨by decide, by decide, by decide⟩

theorem stateAdmits_part {w : RegWr} {s : State} (h : w.row = partRow) :
    stateAdmits s w = (!w.acts 0 || (s.mode == 2 && s.pw.sleepPend.isNone)) := by simp only [stateAdmits, h, partRow]

theorem performWrite_part {via : Port} {w : RegWr} {s : State} (h : w.row = partRow) :
    performWrite via w s = if w.acts 0 then partitionApply s else s := by simp only [performWrite, h, partRow]

section
variable {s : State} (hr : s.ip.running = true) (hp : s.pd 7 = true)
include hr hp

theorem partReaches : WriteReaches false F.LK_PART_CTRL.APPLY.addr partRow 0 0 s := ⟨hr, by decide, by decide, hp, by decide, partRow_found⟩

theorem applyStrobe_performs (hm : s.mode = 2) (hs : s.pw.sleepPend = none) : strobe .hp false F.LK_PART_CTRL.APPLY s =
    { partitionApply (consumeUnlock s) with ip := { (partitionApply (consumeUnlock s)).ip with wrStatus := 0 } } := by
  have hact : (strobeWr F.LK_PART_CTRL.APPLY partRow s).acts 0 = true := by rw [strobeWr_acts]; decide
  have hmode : ((consumeUnlock s).mode == 2) = true := beq_iff_eq.mpr hm
  have hn : (consumeUnlock s).pw.sleepPend.isNone = true := congrArg Option.isNone hs
  refine strobe_performs (partReaches hr hp) partRow_acts rfl ?_ ?_
  · rw [stateAdmits_part rfl, hmode, hn]; simp
  · rw [performWrite_part rfl, hact]; rfl

theorem applyStrobe_busy (h : s.mode ≠ 2 ∨ s.pw.sleepPend ≠ none) : strobe .hp false F.LK_PART_CTRL.APPLY s =
    (s.ended 0x21).sets [(F.CMD_REFUSE.REFUSE_CNT, counted s F.CMD_REFUSE.REFUSE_CNT), (F.CMD_REFUSE.LAST_CODE, 0x21)] := by
  have hact : (strobeWr F.LK_PART_CTRL.APPLY partRow s).acts 0 = true := by rw [strobeWr_acts]; decide
  refine strobe_busy (partReaches hr hp) partRow_acts (by decide) rfl ?_
  rw [stateAdmits_part rfl, hact, Bool.not_true, Bool.false_or, Bool.and_eq_false_iff]
  exact h.imp (fun hm => beq_eq_false_iff_ne.mpr hm) fun hs => Option.isNone_eq_false_iff.mpr (Option.isSome_iff_ne_none.mpr hs)

end

theorem settle_lk (u : State) : (settle u).lk = { u.lk with jobs := (settle u).lk.jobs } := congrArg State.lk (settle_eq u).1

/-- What an apply leaves alone. -/
theorem JobsAndTrace.rest {s t : State} (h : JobsAndTrace s t) : t.axes = s.axes ∧ t.pw = s.pw ∧ t.ip = s.ip ∧ t.lk.cells = s.lk.cells
    ∧ t.whReq = s.whReq ∧ t.lk.gen = s.lk.gen ∧ t.lk.initPend = s.lk.initPend := by
  rw [h]
  exact ⟨rfl, rfl, rfl, rfl, rfl, rfl, rfl⟩

theorem partsTaken_rest (s : State) : (partsTaken s).axes = s.axes ∧ (partsTaken s).pw = s.pw ∧ (partsTaken s).ip = s.ip
    ∧ (partsTaken s).lk.cells = s.lk.cells ∧ (partsTaken s).whReq = s.whReq := by
  unfold partsTaken
  generalize nextGen s = g
  generalize nextPend s = p
  exact ⟨rfl, rfl, rfl, rfl, rfl⟩

theorem partsTaken_gen (s : State) (r : Fin 64) :
    (partsTaken s).lk.gen[r] = if (movedRegions s).contains r.val then s.lk.gen[r] + 1 else s.lk.gen[r] := by
  change (nextGen s)[r] = _
  unfold nextGen
  exact Vector.getElem_ofFn _

theorem partsTaken_pend (s : State) (r : Fin 64) :
    (partsTaken s).lk.initPend.getLsbD r.val = (s.lk.initPend.getLsbD r.val || (movedRegions s).contains r.val) := by
  have hr := r.isLt
  change (nextPend s).getLsbD r.val = _
  unfold nextPend
  rw [BitVec.getLsbD_or, BitVec.getLsbD_ofNat, movedRegions, sum_pow_filter_testBit, ← movedRegions, movedRegions_contains]
  simp [hr]

section
variable {s : State} (hq : s.whReq = []) (hr : s.ip.running = true) (hp : s.pd 7 = true)
include hq hr hp

theorem partitionApply_busy (h : s.mode ≠ 2 ∨ s.pw.sleepPend ≠ none) : Does .partitionApply s (s.ended 0x21)
    [(F.CMD_REFUSE.REFUSE_CNT, counted s F.CMD_REFUSE.REFUSE_CNT), (F.CMD_REFUSE.LAST_CODE, 0x21)] [] :=
  does_refused (f := strobe .hp false F.LK_PART_CTRL.APPLY) rfl hq (by decide) (applyStrobe_busy (s := begun s) hr hp h)

theorem partitionApply_illegal (hm : s.mode = 2) (hs : s.pw.sleepPend = none)
    (hl : partsLegal (askedRec s) (askedCam s) (askedTrc s) = false) :
    Does .partitionApply s (s.ended 0) [(F.LK_PART_STAT.PART_REJ, 1)] [] := by
  have hx := applyStrobe_performs (s := begun s) hr hp hm hs
  rw [partitionApply_rejects (s := consumeUnlock (begun s)) hl] at hx
  exact does_of (f := strobe .hp false F.LK_PART_CTRL.APPLY) (u := s.ended 0) [(F.LK_PART_STAT.PART_REJ, 1)] rfl hq rfl (hx.trans rfl)
    (by simp [Fld.holds]) (by simp)

theorem partitionApply_applies (hm : s.mode = 2) (hs : s.pw.sleepPend = none)
    (hl : partsLegal (askedRec s) (askedCam s) (askedTrc s) = true) : Completes .partitionApply s fun t =>
    t.axes = s.axes ∧ t.ip = (s.ended 0).ip ∧ t.pw = s.pw ∧ t.lk.cells = s.lk.cells ∧ AtWork writesImage t
      ∧ ∀ r : Fin 64, t.lk.gen[r] = (if (movedRegions s).contains r.val then s.lk.gen[r] + 1 else s.lk.gen[r])
          ∧ t.lk.initPend.getLsbD r.val = (s.lk.initPend.getLsbD r.val || (movedRegions s).contains r.val)
          ∧ ((movedRegions s).contains r.val = true → AtWork (rewritesRegion r.val) t) := by
  have hx := applyStrobe_performs (s := begun s) hr hp hm hs
  have hj := partitionApply_jobs (s := consumeUnlock (begun s)) hl
  have hi := partitionApply_image (s := consumeUnlock (begun s)) hl
  have hg := partsTaken_gen (consumeUnlock (begun s))
  have hb := partsTaken_pend (consumeUnlock (begun s))
  have hw := fun (r : Fin 64) (h : (movedRegions s).contains r.val = true) => partitionApply_rewrites (s := consumeUnlock (begun s)) hl h
    ((hb r).trans (by rw [show (movedRegions (consumeUnlock (begun s))).contains r.val = true from h, Bool.or_true])) r.isLt
  obtain ⟨f1, f2, f3, f4, f5, f6, f7⟩ := hj.rest
  obtain ⟨p1, p2, p3, p4, p5⟩ := partsTaken_rest (consumeUnlock (begun s))
  generalize partsTaken (consumeUnlock (begun s)) = v at hj hg hb f1 f2 f3 f4 f5 f6 f7 p1 p2 p3 p4 p5
  generalize partitionApply (consumeUnlock (begun s)) = u at hx hi hw f1 f2 f3 f4 f5 f6 f7
  have hlk := settle_lk { u with ip := { u.ip with wrStatus := 0 } }
  refine completes_to (f := strobe .hp false F.LK_PART_CTRL.APPLY) rfl hx (f5.trans (p5.trans hq)) ⟨?_, ?_, ?_, ?_, settle_atWork hi, fun r => ⟨?_, ?_, fun h => settle_atWork ?_⟩⟩
  · rw [settle_axes]; exact f1.trans p1
  · rw [settle_ip, f3, p3]; rfl
  · rw [settle_pw]; exact f2.trans p2
  · rw [settle_cells]; exact f4.trans p4
  · rw [hlk]
    exact (congrArg (fun g : Vector (BitVec 11) 64 => g[r]) f6).trans (hg r)
  · rw [hlk]
    exact (congrArg (fun p : BitVec 64 => p.getLsbD r.val) f7).trans (hb r)
  · obtain ⟨j, hj, hk⟩ := hw r h
    exact ⟨j, hj, hk, by rw [hk.2.1]; simp⟩

end

end Sys2Proof.Machine

namespace Sys2Proof.Machine

/-! ### A message on the links (R426) -/

/-- From `s` to `t` only the ports of the link and the flits sent have changed. -/
def PortsOnly (s t : State) : Prop := t = { s with cv := { s.cv with up := t.cv.up, dn := t.cv.dn, tx := t.cv.tx } }

theorem PortsOnly.trans {r s t : State} (h : PortsOnly r s) (k : PortsOnly s t) : PortsOnly r t := by
  unfold PortsOnly at h k ⊢
  rw [k, h]

theorem modCv_ports (s : State) (l : Link) (f : CvPort → CvPort) : PortsOnly s (s.modCv l f) := by cases l <;> rfl

theorem pumpPort_ports (l : Link) (n : Nat) (s : State) : PortsOnly s (pumpPort l n s) := by
  induction n generalizing s with
  | zero => rfl
  | succ n ih =>
    unfold pumpPort
    dsimp only
    split
    · rfl
    · split
      · rfl
      · exact ((modCv_ports s l _).trans (t := transmit l _ _) rfl).trans (ih _)

theorem sendMsg_ports (l : Link) (typ : BitVec 4) (n : Nat) (m : CvMsg) (s : State) : PortsOnly s (sendMsg l typ n m s) := by
  unfold sendMsg sendFlits
  split
  · rfl
  · exact (modCv_ports s l _).trans (pumpPort_ports l 31 _)

theorem broadcast_ports (op : Bcast) (s : State) : PortsOnly s (broadcast op s) :=
  (sendMsg_ports .up typBcast 1 (.bcast op) s).trans (by cases op <;> exact sendMsg_ports _ _ _ _ _)

theorem PortsOnly.linkUp {s t : State} (h : PortsOnly s t) (l : Link) : Machine.linkUp t l = Machine.linkUp s l := by
  unfold PortsOnly at h
  rw [h]
  rfl

theorem modCv_port (s : State) (l : Link) (f : CvPort → CvPort) : (s.modCv l f).cvPort l = f (s.cvPort l) := by cases l <;> rfl

theorem modCv_otherPort (s : State) (l : Link) (f : CvPort → CvPort) :
    (s.modCv l f).cvPort (otherLink l) = s.cvPort (otherLink l) := by cases l <;> rfl

theorem transmit_port (l : Link) (fs : List CvFlit) (s : State) (k : Link) : (transmit l fs s).cvPort k = s.cvPort k := by cases k <;> rfl

theorem pumpPort_otherPort (l : Link) (n : Nat) (s : State) : (pumpPort l n s).cvPort (otherLink l) = s.cvPort (otherLink l) := by
  induction n generalizing s with
  | zero => rfl
  | succ n ih =>
    unfold pumpPort
    dsimp only
    split
    · rfl
    · split
      · rfl
      · rw [ih, transmit_port, modCv_otherPort]

/-- A message leaves the other port alone. -/
theorem sendMsg_otherPort (l : Link) (typ : BitVec 4) (n : Nat) (m : CvMsg) (s : State) :
    (sendMsg l typ n m s).cvPort (otherLink l) = s.cvPort (otherLink l) := by
  unfold sendMsg sendFlits
  split
  · rfl
  · rw [pumpPort_otherPort, modCv_otherPort]

theorem sendMsg_down {l : Link} {s : State} (h : linkUp s l = false) (typ : BitVec 4) (n : Nat) (m : CvMsg) : sendMsg l typ n m s = s := by
  unfold sendMsg sendFlits
  rw [if_pos (by rw [h]; decide)]

/-- The flit of a message of one flit. -/
def onlyFlit (l : Link) (typ : BitVec 4) (m : CvMsg) (s : State) : CvFlit := { plainFlit typ 0 true m with seq := (s.cvPort l).txSeq }

/-- A flit leaves a port into which none waits (R426). -/
def flitLeaves (l : Link) (f : CvFlit) (s : State) : State :=
  transmit l [f] (s.modCv l fun p => { p with txSeq := p.txSeq + 1, replay := p.replay ++ [f], waiting := [] })

theorem flitLeaves_idle (l : Link) (f : CvFlit) (s : State) : ((flitLeaves l f s).cvPort l).waiting = [] := by
  unfold flitLeaves
  rw [transmit_port, modCv_port]

theorem flitLeaves_sent (l : Link) (f : CvFlit) (s : State) : ∃ g ∈ (flitLeaves l f s).cv.tx, g.1 = l ∧ g.2.typ = f.typ ∧ g.2.msg = f.msg :=
  ⟨_, List.mem_append_right _ (List.mem_singleton_self _), rfl, rfl, rfl⟩

theorem pumpPort_idle {l : Link} {s : State} (h : (s.cvPort l).waiting = []) (n : Nat) : pumpPort l n s = s := by
  cases n with
  | zero => rfl
  | succ n =>
    unfold pumpPort
    dsimp only
    rw [h]

theorem pumpPort_full {l : Link} {s : State} (h : 31 ≤ (s.cvPort l).replay.length) (n : Nat) : pumpPort l n s = s := by
  cases n with
  | zero => rfl
  | succ n =>
    unfold pumpPort
    dsimp only
    split
    · rfl
    · rw [if_pos h]

/-- A message of one flit into a port into which none waits leaves at once (R426). -/
theorem sendMsg_leaves {l : Link} {s : State} (hu : linkUp s l = true) (hw : (s.cvPort l).waiting = []) (hr : (s.cvPort l).replay.length < 31)
    (typ : BitVec 4) (m : CvMsg) : sendMsg l typ 1 m s = flitLeaves l (onlyFlit l typ m s) s := by
  have hwait : (s.modCv l fun p => { p with waiting := [plainFlit typ 0 true m] }).cvPort l
      = { s.cvPort l with waiting := [plainFlit typ 0 true m] } := modCv_port _ _ _
  have hsend : sendMsg l typ 1 m s = pumpPort l 31 (s.modCv l fun p => { p with waiting := [plainFlit typ 0 true m] }) := by
    unfold sendMsg sendFlits
    rw [if_neg (not_not.mpr hu)]
    refine congrArg (pumpPort l 31) ?_
    cases l
    · have hw' : s.cv.up.waiting = [] := hw
      dsimp only [State.modCv]
      rw [hw']
      rfl
    · have hw' : s.cv.dn.waiting = [] := hw
      dsimp only [State.modCv]
      rw [hw']
      rfl
  rw [hsend]
  unfold pumpPort
  rw [hwait]
  dsimp only
  rw [if_neg (by omega)]
  refine Eq.trans ?_ (pumpPort_idle (flitLeaves_idle l _ s) 30)
  unfold flitLeaves
  cases l <;> rfl

end Sys2Proof.Machine

namespace Sys2Proof.Machine

/-! ### BARRIER (R440) -/

/-- A command whose work ends in `v`, which is `u` but for registers and the link. -/
theorem besideLinks_settle {u v : State} (h : v = { u with regs := v.regs, cv := v.cv }) : BesideLinks u (settle v) := by
  obtain ⟨hs, hj⟩ := settle_eq v
  have hk : JobsKept u v := by
    unfold JobsKept
    rw [h]
  refine ⟨?_, Eq.trans hj hk⟩
  generalize settle v = t at hs ⊢
  rw [hs, h]

/-- The register of the stack's operations. -/
def cvRow : RegRow := ⟨.CV_CTRL, 0x3c0020, 1, 0, 1, 0, 0, [⟨0, 0, .wo, 0, 2, 0, 1⟩, ⟨1, 1, .wo, 0, 2, 0, 1⟩]⟩

theorem cvRow_found : regAt 0x3c0020 = some (cvRow, 0, 0) := by decide

theorem cvRow_acts : ActionRow cvRow := ⟨by decide, by decide, by decide⟩

theorem stateAdmits_cv {w : RegWr} {s : State} (h : w.row = cvRow) : stateAdmits s w =
    ((!w.acts 0 || (isCaptain s && !s.flag F.CV_OPS.BAR_BUSY)) && (!w.acts 1 || (isCaptain s && !s.flag F.CV_OPS.GATHER_BUSY))) := by
  simp only [stateAdmits, h, cvRow]

theorem performWrite_cv {via : Port} {w : RegWr} {s : State} (h : w.row = cvRow) : performWrite via w s =
    if w.acts 1 then (gatherStart (if w.acts 0 then (barrierStart s).1 else s)).1 else if w.acts 0 then (barrierStart s).1 else s := by
  simp only [performWrite, h, cvRow]

theorem barrier_acts (s : State) : (strobeWr F.CV_CTRL.BARRIER cvRow s).acts 0 = true ∧ (strobeWr F.CV_CTRL.BARRIER cvRow s).acts 1 = false := by
  rw [strobeWr_acts, strobeWr_acts]; decide

theorem gather_acts (s : State) : (strobeWr F.CV_CTRL.GATHER cvRow s).acts 0 = false ∧ (strobeWr F.CV_CTRL.GATHER cvRow s).acts 1 = true := by
  rw [strobeWr_acts, strobeWr_acts]; decide

/-- A Captain whose operation is idle admits it. -/
theorem captain_admits {s : State} {f : Fld} (hc : isCaptain s = true) (hb : s.get f = 0) : (isCaptain s && !s.flag f) = true := by
  rw [hc, flag_eq_false hb]; rfl

theorem captain_refuses {s : State} {f : Fld} (h : isCaptain s = false ∨ s.get f = 1) : (isCaptain s && !s.flag f) = false := by
  rw [Bool.and_eq_false_iff]
  refine h.imp id fun hb => ?_
  rw [State.flag, hb]; rfl

section
variable {s : State} (hr : s.ip.running = true) (hp : s.pd 8 = true)
include hr hp

theorem barrierReaches : WriteReaches false F.CV_CTRL.BARRIER.addr cvRow 0 0 s := ⟨hr, by decide, by decide, hp, by decide, cvRow_found⟩

theorem gatherReaches : WriteReaches false F.CV_CTRL.GATHER.addr cvRow 0 0 s := ⟨hr, by decide, by decide, hp, by decide, cvRow_found⟩

theorem barrierStrobe_performs (hc : isCaptain s = true) (hb : s.get F.CV_OPS.BAR_BUSY = 0) : strobe .hp false F.CV_CTRL.BARRIER s =
    { (barrierStart (consumeUnlock s)).1 with ip := { (barrierStart (consumeUnlock s)).1.ip with wrStatus := 0 } } := by
  obtain ⟨a0, a1⟩ := barrier_acts s
  refine strobe_performs (barrierReaches hr hp) cvRow_acts rfl ?_ ?_
  · rw [stateAdmits_cv rfl, captain_admits (s := consumeUnlock s) hc hb, a1]; simp
  · rw [performWrite_cv rfl, a0, a1]; rfl

theorem barrierStrobe_busy (h : isCaptain s = false ∨ s.get F.CV_OPS.BAR_BUSY = 1) : strobe .hp false F.CV_CTRL.BARRIER s =
    (s.ended 0x21).sets [(F.CMD_REFUSE.REFUSE_CNT, counted s F.CMD_REFUSE.REFUSE_CNT), (F.CMD_REFUSE.LAST_CODE, 0x21)] := by
  obtain ⟨a0, a1⟩ := barrier_acts s
  refine strobe_busy (barrierReaches hr hp) cvRow_acts (by decide) rfl ?_
  rw [stateAdmits_cv rfl, captain_refuses (s := consumeUnlock s) h, a0]; rfl

theorem gatherStrobe_performs (hc : isCaptain s = true) (hb : s.get F.CV_OPS.GATHER_BUSY = 0) : strobe .hp false F.CV_CTRL.GATHER s =
    { (gatherStart (consumeUnlock s)).1 with ip := { (gatherStart (consumeUnlock s)).1.ip with wrStatus := 0 } } := by
  obtain ⟨a0, a1⟩ := gather_acts s
  refine strobe_performs (gatherReaches hr hp) cvRow_acts rfl ?_ ?_
  · rw [stateAdmits_cv rfl, captain_admits (s := consumeUnlock s) hc hb, a0]; simp
  · rw [performWrite_cv rfl, a0, a1]; rfl

theorem gatherStrobe_busy (h : isCaptain s = false ∨ s.get F.CV_OPS.GATHER_BUSY = 1) : strobe .hp false F.CV_CTRL.GATHER s =
    (s.ended 0x21).sets [(F.CMD_REFUSE.REFUSE_CNT, counted s F.CMD_REFUSE.REFUSE_CNT), (F.CMD_REFUSE.LAST_CODE, 0x21)] := by
  obtain ⟨a0, a1⟩ := gather_acts s
  refine strobe_busy (gatherReaches hr hp) cvRow_acts (by decide) rfl ?_
  rw [stateAdmits_cv rfl, captain_refuses (s := consumeUnlock s) h, a0, a1]; rfl

end

/-- A barrier is under way (R440). -/
def barrierBegun (s : State) : State := { s.set F.CV_OPS.BAR_BUSY 1 with cv := { s.cv with barStart := some s.now } }

theorem barrierStart_sends {s : State} (hc : isCaptain s = true) (hb : s.get F.CV_OPS.BAR_BUSY = 0) (hu : linkUp s .dn = true) :
    (barrierStart s).1 = sendMsg .dn typBarrier 1 .barrier (barrierBegun s) := by
  unfold barrierStart
  rw [if_neg (by rw [hc, flag_eq_false hb]; decide), if_pos hu]
  rfl

theorem barrierStart_alone {s : State} (hc : isCaptain s = true) (hb : s.get F.CV_OPS.BAR_BUSY = 0) (hu : linkUp s .dn = false) :
    (barrierStart s).1 = s.sets [(F.CV_OPS.BAR_DONE, 1), (F.CV_OPS.BAR_TIME, 0)] := by
  unfold barrierStart
  rw [if_neg (by rw [hc, flag_eq_false hb]; decide), if_neg (by rw [hu]; decide)]
  rfl

/-- A write of the stack's operations changes no state of a link. -/
theorem linkUp_set (s : State) {f : Fld} (v : Nat) (hf : f.addr = 0x3c0024) (l : Link) : linkUp (s.set f v) l = linkUp s l := by
  unfold linkUp State.flag
  rw [State.get_set_own s v (by rw [hf]; cases l <;> decide)]
  rfl

/-- A port that admits a flit of one message sends it. -/
theorem sendMsg_sends {l : Link} {typ : BitVec 4} {m : CvMsg} {s u t : State} (hu : linkUp u l = linkUp s l) (hc : u.cvPort l = s.cvPort l)
    (ht : t.cv.tx = (sendMsg l typ 1 m u).cv.tx) : Sends l typ m s t := fun h1 h2 h3 => by
  rw [ht, sendMsg_leaves (hu.trans h1) (by rw [hc]; exact h2) (by rw [hc]; exact h3)]
  exact flitLeaves_sent l (onlyFlit l typ m u) u

theorem settle_cv (u : State) : (settle u).cv = u.cv := by rw [(settle_eq u).1]

section
variable {s : State} (hq : s.whReq = []) (hr : s.ip.running = true) (hp : s.pd 8 = true)
include hq hr hp

theorem barrier_busy (h : isCaptain s = false ∨ s.get F.CV_OPS.BAR_BUSY = 1) : Does .barrier s (s.ended 0x21)
    [(F.CMD_REFUSE.REFUSE_CNT, counted s F.CMD_REFUSE.REFUSE_CNT), (F.CMD_REFUSE.LAST_CODE, 0x21)] [] :=
  does_refused (f := strobe .hp false F.CV_CTRL.BARRIER) rfl hq (by decide) (barrierStrobe_busy (s := begun s) hr hp h)

theorem gather_busy (h : isCaptain s = false ∨ s.get F.CV_OPS.GATHER_BUSY = 1) : Does .gather s (s.ended 0x21)
    [(F.CMD_REFUSE.REFUSE_CNT, counted s F.CMD_REFUSE.REFUSE_CNT), (F.CMD_REFUSE.LAST_CODE, 0x21)] [] :=
  does_refused (f := strobe .hp false F.CV_CTRL.GATHER) rfl hq (by decide) (gatherStrobe_busy (s := begun s) hr hp h)

theorem barrier_alone (hc : isCaptain s = true) (hb : s.get F.CV_OPS.BAR_BUSY = 0) (hu : linkUp s .dn = false) :
    Does .barrier s (s.ended 0) [(F.CV_OPS.BAR_DONE, 1), (F.CV_OPS.BAR_TIME, 0)] [] := by
  have hx := barrierStrobe_performs (s := begun s) hr hp hc hb
  rw [barrierStart_alone (s := consumeUnlock (begun s)) hc hb hu] at hx
  exact does_of (f := strobe .hp false F.CV_CTRL.BARRIER) (u := s.ended 0) [(F.CV_OPS.BAR_DONE, 1), (F.CV_OPS.BAR_TIME, 0)] rfl hq rfl
    (hx.trans rfl) (by simp [Fld.holds]) (by simp [Fld.apart])

theorem barrier_begins (hc : isCaptain s = true) (hb : s.get F.CV_OPS.BAR_BUSY = 0) (hu : linkUp s .dn = true) :
    Completes .barrier s fun t => BesideLinks (s.ended 0) t ∧ t.now = s.now ∧ t.get F.CV_OPS.BAR_BUSY = 1
      ∧ KeepsFields [F.CV_OPS.BAR_BUSY] s t ∧ t.cv.barStart = some s.now ∧ Sends .dn typBarrier .barrier s t := by
  have hx := barrierStrobe_performs (s := begun s) hr hp hc hb
  rw [barrierStart_sends (s := consumeUnlock (begun s)) hc hb hu] at hx
  have hpo := sendMsg_ports .dn typBarrier 1 .barrier (barrierBegun (consumeUnlock (begun s)))
  have hl : linkUp (barrierBegun (consumeUnlock (begun s))) .dn = linkUp s .dn := linkUp_set (consumeUnlock (begun s)) 1 rfl .dn
  have hsend : ∀ t : State, t.cv.tx = (sendMsg .dn typBarrier 1 .barrier (barrierBegun (consumeUnlock (begun s)))).cv.tx →
      Sends .dn typBarrier .barrier s t := fun t ht => sendMsg_sends hl rfl ht
  generalize sendMsg .dn typBarrier 1 .barrier (barrierBegun (consumeUnlock (begun s))) = u at hx hpo hsend
  have hg : ∀ g : Fld, u.get g = ((consumeUnlock (begun s)).set F.CV_OPS.BAR_BUSY 1).get g := fun g => by rw [hpo]; rfl
  refine completes_to (f := strobe .hp false F.CV_CTRL.BARRIER) rfl hx (by rw [hpo]; exact hq)
    ⟨besideLinks_settle (by rw [hpo]; rfl), ?_, ?_, fun g h => ?_, ?_, hsend _ (by rw [settle_cv])⟩
  · rw [settle_now, hpo]; rfl
  · rw [settle_get]
    exact (hg _).trans (State.get_set_same _ _ _ (by decide) (by decide) (by decide))
  · rw [settle_get]
    exact (hg g).trans (State.get_set_other _ _ _ _ (h _ (by simp)))
  · rw [settle_cv, hpo]; rfl

end

end Sys2Proof.Machine

namespace Sys2Proof.Machine

/-! ### GATHER (R443) -/

theorem gatherCheck_ends {s : State} (hb : s.get F.CV_OPS.GATHER_BUSY = 1) (hw : s.cv.gatherWait = 0) :
    gatherCheck s = s.sets [(F.CV_OPS.GATHER_BUSY, 0), (F.CV_OPS.GATHER_DONE, 1)] :=
  if_pos ⟨by rw [State.flag, hb]; rfl, hw⟩

theorem gatherCheck_waits {s : State} (h : s.get F.CV_OPS.GATHER_BUSY = 0 ∨ s.cv.gatherWait ≠ 0) : gatherCheck s = s :=
  if_neg fun ⟨hb, hw⟩ => h.elim (fun h => by rw [flag_eq_false h] at hb; cases hb) fun h => h hw

/-- The members whose slots a gather awaits. -/
def gatherMembers (s : State) : BitVec 16 := BitVec.ofNat 16 ((2 ^ s.get F.CV_STAT.STACK_N - 1) / 2 * 2)

/-- The Captain's own slot (R443). -/
def captainSlot (s : State) : List Word :=
  match s.wh.snap with | some ws => gatherSlot 0 true false (s.wh.latchT / nsT) ws | none => absentSlot 0

/-- A gather is under way (R443). -/
def gatherBegun (s : State) : State := { s.set F.CV_OPS.GATHER_BUSY 1 with
  cv := { s.cv with gather := [(0, captainSlot s)], gatherWait := gatherMembers s, gatherLatch := s.wh.latchT / nsT } }

/-- No member is left of a gather of a Captain alone. -/
theorem gatherMembers_alone (s : State) : gatherMembers s &&& BitVec.ofNat 16 (2 ^ 1 - 1) = 0 := by
  unfold gatherMembers
  generalize (2 ^ s.get F.CV_STAT.STACK_N - 1) / 2 = n
  refine BitVec.eq_of_toNat_eq ?_
  have h1 : (BitVec.ofNat 16 (2 ^ 1 - 1)).toNat = 1 := rfl
  have h0 : (0 : BitVec 16).toNat = 0 := rfl
  rw [BitVec.toNat_and, BitVec.toNat_ofNat, h1, h0, Nat.and_one_is_mod]
  omega

/-- A gather as its parts see it: the Captain's slot is in, and its fields say whether it still waits. -/
structure GatherGoes (s : State) (wait : BitVec 16) (u : State) : Prop where
  beside : u = { s with regs := u.regs, cv := u.cv }
  keeps : KeepsFields [F.CV_OPS.GATHER_BUSY, F.CV_OPS.GATHER_DONE] s u
  latch : u.cv.gatherLatch = s.wh.latchT / nsT
  own : u.cv.gather.head? = some (0, captainSlot s)
  awaits : u.cv.gatherWait = wait

/-- Whether a gather still waits. -/
structure GatherState (waits : Prop) (u : State) : Prop where
  busy : waits → u.get F.CV_OPS.GATHER_BUSY = 1
  done : ¬ waits → u.get F.CV_OPS.GATHER_BUSY = 0 ∧ u.get F.CV_OPS.GATHER_DONE = 1

section
variable {s u v : State} {wait : BitVec 16}

theorem GatherGoes.ports (h : GatherGoes s wait u) (k : PortsOnly u v) : GatherGoes s wait v := by
  obtain ⟨h1, h2, h3, h4, h5⟩ := h
  have hr : v.regs = u.regs := by rw [k]
  refine ⟨?_, fun g hg => Eq.trans ?_ (h2 g hg), ?_, ?_, ?_⟩
  · have hk : v = { u with cv := v.cv } := by rw [k]
    rw [hr]
    exact hk.trans (by conv_lhs => rw [h1])
  · rw [State.get, State.get, hr]
  · rw [k]; exact h3
  · rw [k]; exact h4
  · rw [k]; exact h5

theorem GatherGoes.ends (h : GatherGoes s wait u) : GatherGoes s wait (u.sets [(F.CV_OPS.GATHER_BUSY, 0), (F.CV_OPS.GATHER_DONE, 1)]) := by
  obtain ⟨h1, h2, h3, h4, h5⟩ := h
  have hs := State.sets_eq u [(F.CV_OPS.GATHER_BUSY, 0), (F.CV_OPS.GATHER_DONE, 1)]
  have hg : ∀ g : Fld, (∀ p ∈ [(F.CV_OPS.GATHER_BUSY, 0), (F.CV_OPS.GATHER_DONE, 1)], g.apart p.1) →
      (u.sets [(F.CV_OPS.GATHER_BUSY, 0), (F.CV_OPS.GATHER_DONE, 1)]).get g = u.get g := fun g h => State.get_sets_apart u _ g h
  generalize u.sets [(F.CV_OPS.GATHER_BUSY, 0), (F.CV_OPS.GATHER_DONE, 1)] = v at hs hg
  refine ⟨?_, fun g hk => (hg g (by simpa [Fld.apart] using hk)).trans (h2 g hk), ?_, ?_, ?_⟩
  · have hcv : v.cv = u.cv := by rw [hs]
    rw [hcv]
    exact hs.trans (by conv_lhs => rw [h1])
  · rw [hs]; exact h3
  · rw [hs]; exact h4
  · rw [hs]; exact h5

theorem gatherEnded_fields (u : State) :
    (u.sets [(F.CV_OPS.GATHER_BUSY, 0), (F.CV_OPS.GATHER_DONE, 1)]).get F.CV_OPS.GATHER_BUSY = 0
      ∧ (u.sets [(F.CV_OPS.GATHER_BUSY, 0), (F.CV_OPS.GATHER_DONE, 1)]).get F.CV_OPS.GATHER_DONE = 1 := by
  have h := State.get_sets_mem u [(F.CV_OPS.GATHER_BUSY, 0), (F.CV_OPS.GATHER_DONE, 1)] (by simp [Fld.holds]) (by simp [Fld.apart])
  simp only [List.forall_mem_cons] at h
  exact ⟨h.1, h.2.1⟩

end

theorem gatherBegun_busy (s : State) : (gatherBegun s).get F.CV_OPS.GATHER_BUSY = 1 :=
  State.get_set_same s _ _ (by decide) (by decide) (by decide)

theorem gatherBegun_keeps (s : State) : KeepsFields [F.CV_OPS.GATHER_BUSY, F.CV_OPS.GATHER_DONE] s (gatherBegun s) :=
  fun _ hg => State.get_set_other s _ _ _ (hg _ (by simp))

theorem gatherBegun_goes (s : State) : GatherGoes s (gatherMembers s) (gatherBegun s) :=
  ⟨rfl, gatherBegun_keeps s, rfl, rfl, rfl⟩

/-- The slots of a gather of a Captain alone. -/
def gatherAlone (s : State) : State :=
  let ids := (List.range 16).filter fun i => decide (1 ≤ i) && (gatherMembers s).getLsbD i
  { gatherBegun s with cv := { (gatherBegun s).cv with
    gather := (gatherBegun s).cv.gather ++ ids.map fun i => (i, absentSlot i)
    gatherWait := gatherMembers s &&& BitVec.ofNat 16 (2 ^ 1 - 1) } }

theorem gatherAlone_goes (s : State) : GatherGoes s 0 (gatherAlone s) :=
  ⟨rfl, gatherBegun_keeps s, rfl, rfl, gatherMembers_alone s⟩

section
variable {s : State} (hc : isCaptain s = true) (hb : s.get F.CV_OPS.GATHER_BUSY = 0)
include hc hb

theorem gatherStart_eq : (gatherStart s).1 = gatherCheck (broadcast (.gather (s.wh.latchT / nsT))
    (if linkUp (gatherBegun s) .dn then gatherBegun s else gatherCheck (gatherAlone s))) := by
  unfold gatherStart
  rw [if_neg (by rw [hc, flag_eq_false hb]; decide)]
  rfl

theorem gatherStart_sends (hu : linkUp s .dn = true) : (gatherStart s).1 = gatherCheck (broadcast (.gather (s.wh.latchT / nsT)) (gatherBegun s)) := by
  have hl : linkUp (gatherBegun s) .dn = true := (linkUp_set s 1 rfl .dn).trans hu
  rw [gatherStart_eq hc hb, if_pos hl]

theorem gatherStart_alone (hu : linkUp s .dn = false) : (gatherStart s).1 = broadcast (.gather (s.wh.latchT / nsT))
    ((gatherAlone s).sets [(F.CV_OPS.GATHER_BUSY, 0), (F.CV_OPS.GATHER_DONE, 1)]) := by
  have hl : linkUp (gatherBegun s) .dn = false := (linkUp_set s 1 rfl .dn).trans hu
  have he : gatherCheck (gatherAlone s) = _ := gatherCheck_ends (gatherBegun_busy s) (gatherMembers_alone s)
  obtain ⟨hz, -⟩ := gatherEnded_fields (gatherAlone s)
  rw [gatherStart_eq hc hb, if_neg (by rw [hl]; decide), he]
  refine gatherCheck_waits (Or.inl ?_)
  have hp := broadcast_ports (.gather (s.wh.latchT / nsT)) ((gatherAlone s).sets [(F.CV_OPS.GATHER_BUSY, 0), (F.CV_OPS.GATHER_DONE, 1)])
  rw [hp]
  exact hz

/-- A gather begins (R443). -/
theorem gatherStart_goes :
    (∃ wait, GatherGoes s wait (gatherStart s).1 ∧ (linkUp s .dn = true → wait = gatherMembers s) ∧ (linkUp s .dn = false → wait = 0))
      ∧ GatherState (linkUp s .dn = true ∧ gatherMembers s ≠ 0) (gatherStart s).1
      ∧ (linkUp s .dn = true → (gatherStart s).1.cv.tx = (broadcast (.gather (s.wh.latchT / nsT)) (gatherBegun s)).cv.tx) := by
  by_cases hu : linkUp s .dn = true
  · have hp := broadcast_ports (.gather (s.wh.latchT / nsT)) (gatherBegun s)
    have hgo := (gatherBegun_goes s).ports hp
    have hbusy : (broadcast (.gather (s.wh.latchT / nsT)) (gatherBegun s)).get F.CV_OPS.GATHER_BUSY = 1 := by
      rw [hp]; exact gatherBegun_busy s
    rw [gatherStart_sends hc hb hu]
    generalize broadcast (.gather (s.wh.latchT / nsT)) (gatherBegun s) = u at hgo hbusy
    by_cases hw : gatherMembers s = 0
    · rw [gatherCheck_ends hbusy (hgo.awaits.trans hw)]
      exact ⟨⟨_, hgo.ends, fun _ => rfl, fun h => by rw [hu] at h; cases h⟩,
        ⟨fun h => absurd hw h.2, fun _ => gatherEnded_fields u⟩, fun _ => by rw [State.sets_eq]⟩
    · rw [gatherCheck_waits (Or.inr (by rw [hgo.awaits]; exact hw))]
      exact ⟨⟨_, hgo, fun _ => rfl, fun h => by rw [hu] at h; cases h⟩, ⟨fun _ => hbusy, fun h => absurd ⟨hu, hw⟩ h⟩, fun _ => rfl⟩
  · have hf : linkUp s .dn = false := Bool.eq_false_iff.mpr hu
    have hend := gatherEnded_fields (gatherAlone s)
    have hgo := (gatherAlone_goes s).ends
    rw [gatherStart_alone hc hb hf]
    generalize (gatherAlone s).sets [(F.CV_OPS.GATHER_BUSY, 0), (F.CV_OPS.GATHER_DONE, 1)] = u at hend hgo
    have hp := broadcast_ports (.gather (s.wh.latchT / nsT)) u
    refine ⟨⟨_, hgo.ports hp, fun h => absurd h hu, fun _ => rfl⟩, ⟨fun h => absurd h.1 hu, fun _ => ?_⟩, fun h => absurd h hu⟩
    rw [hp]
    exact hend

end

/-- A broadcast into ports with room leaves downward. -/
theorem broadcast_sends {op : Bcast} {s u t : State} (hu : linkUp u .dn = linkUp s .dn) (hc : u.cvPort .dn = s.cvPort .dn)
    (ht : t.cv.tx = (broadcast op u).cv.tx) : Sends .dn typBcast (.bcast op) s t := by
  have hb : broadcast op u = sendMsg .dn typBcast 1 (.bcast op) (sendMsg .up typBcast 1 (.bcast op) u) := by cases op <;> rfl
  rw [hb] at ht
  exact sendMsg_sends (((sendMsg_ports .up typBcast 1 (.bcast op) u).linkUp .dn).trans hu)
    ((sendMsg_otherPort .up typBcast 1 (.bcast op) u).trans hc) ht

theorem gather_begins {s : State} (hq : s.whReq = []) (hr : s.ip.running = true) (hp : s.pd 8 = true) (hc : isCaptain s = true)
    (hb : s.get F.CV_OPS.GATHER_BUSY = 0) :
    Completes .gather s fun t => BesideLinks (s.ended 0) t ∧ t.now = s.now ∧ t.cv.gatherLatch = s.wh.latchT / nsT
      ∧ KeepsFields [F.CV_OPS.GATHER_BUSY, F.CV_OPS.GATHER_DONE] s t ∧ Sends .dn typBcast (.bcast (.gather (s.wh.latchT / nsT))) s t
      ∧ t.cv.gather.head? = some (0, captainSlot s)
      ∧ (linkUp s .dn = true ∧ gatherMembers s ≠ 0 → t.get F.CV_OPS.GATHER_BUSY = 1 ∧ t.cv.gatherWait = gatherMembers s)
      ∧ (¬ (linkUp s .dn = true ∧ gatherMembers s ≠ 0) →
          t.get F.CV_OPS.GATHER_BUSY = 0 ∧ t.get F.CV_OPS.GATHER_DONE = 1 ∧ t.cv.gatherWait = 0) := by
  have hx := gatherStrobe_performs (s := begun s) hr hp hc hb
  obtain ⟨⟨wait, hgo, hw1, hw0⟩, hst, htx⟩ := gatherStart_goes (s := consumeUnlock (begun s)) hc hb
  have hl : linkUp (gatherBegun (consumeUnlock (begun s))) .dn = linkUp s .dn := linkUp_set (consumeUnlock (begun s)) 1 rfl .dn
  have hsend : ∀ t : State, (linkUp s .dn = true →
      t.cv.tx = (broadcast (.gather (s.wh.latchT / nsT)) (gatherBegun (consumeUnlock (begun s)))).cv.tx) →
      Sends .dn typBcast (.bcast (.gather (s.wh.latchT / nsT))) s t := fun t ht h => broadcast_sends hl rfl (ht h) h
  have htx : linkUp s .dn = true → (gatherStart (consumeUnlock (begun s))).1.cv.tx =
      (broadcast (.gather (s.wh.latchT / nsT)) (gatherBegun (consumeUnlock (begun s)))).cv.tx := htx
  generalize broadcast (.gather (s.wh.latchT / nsT)) (gatherBegun (consumeUnlock (begun s))) = b at htx hsend
  obtain ⟨h1, h2, h3, h4, h5⟩ := hgo
  obtain ⟨b1, b2⟩ := hst
  generalize (gatherStart (consumeUnlock (begun s))).1 = u at hx h1 h2 h3 h4 h5 b1 b2 htx
  refine completes_to (f := strobe .hp false F.CV_CTRL.GATHER) rfl hx (by rw [h1]; exact hq)
    ⟨besideLinks_settle (by rw [h1]; rfl), ?_, ?_, fun g h => ?_, hsend _ ?_, ?_, fun h => ?_, fun h => ?_⟩
  · rw [settle_now, h1]; rfl
  · rw [settle_cv]; exact h3
  · rw [settle_get]; exact h2 g h
  · rw [settle_cv]; exact htx
  · rw [settle_cv]; exact h4
  · rw [settle_get, settle_cv]
    exact ⟨b1 h, h5.trans (hw1 h.1)⟩
  · obtain ⟨g1, g2⟩ := b2 h
    rw [settle_get, settle_get, settle_cv]
    refine ⟨g1, g2, h5.trans ?_⟩
    by_cases hu : linkUp s .dn = true
    · refine (hw1 hu).trans (by_contra fun hw => h ⟨hu, hw⟩)
    · exact hw0 (Bool.eq_false_iff.mpr hu)

end Sys2Proof.Machine

namespace Sys2Proof.Machine

/-! ### A stack reset (R442) -/

/-- A message of one flit into a port that admits it leaves none waiting (R426). -/
theorem sendMsg_idle {l : Link} {s : State} (hw : (s.cvPort l).waiting = []) (hr : linkUp s l = true → (s.cvPort l).replay.length < 31)
    (typ : BitVec 4) (m : CvMsg) : ((sendMsg l typ 1 m s).cvPort l).waiting = [] := by
  cases hu : linkUp s l
  · rw [sendMsg_down hu]
    exact hw
  · rw [sendMsg_leaves hu hw (hr hu)]
    exact flitLeaves_idle l (onlyFlit l typ m s) s

theorem broadcast_two (op : Bcast) (s : State) :
    broadcast op s = sendMsg .dn typBcast 1 (.bcast op) (sendMsg .up typBcast 1 (.bcast op) s) := by cases op <;> rfl

/-- A broadcast into ports with room leaves none waiting. -/
theorem broadcast_idle {s : State} (h : ∀ l : Link, (s.cvPort l).waiting = [] ∧ (linkUp s l = true → (s.cvPort l).replay.length < 31))
    (op : Bcast) (l : Link) : ((broadcast op s).cvPort l).waiting = [] := by
  obtain ⟨u1, u2⟩ := h .up
  obtain ⟨d1, d2⟩ := h .dn
  have hd : (sendMsg .up typBcast 1 (.bcast op) s).cvPort .dn = s.cvPort .dn := sendMsg_otherPort .up typBcast 1 (.bcast op) s
  have hl := (sendMsg_ports .up typBcast 1 (.bcast op) s).linkUp .dn
  rw [broadcast_two]
  cases l
  · exact (congrArg CvPort.waiting (sendMsg_otherPort .dn typBcast 1 (.bcast op) _)).trans (sendMsg_idle u1 u2 _ _)
  · exact sendMsg_idle (by rw [hd]; exact d1) (fun hu => by rw [hd]; exact d2 (hl ▸ hu)) _ _

theorem resetWaits_idle {s : State} {l : Link} (h : (s.cvPort l).waiting = []) : resetWaits s l = false := by
  rw [resetWaits, h]; rfl

/-- A stack reset whose flits leave at once is entered (R442). -/
theorem stackReset_enters {s : State} (h : ∀ l : Link, (s.cvPort l).waiting = [] ∧ (linkUp s l = true → (s.cvPort l).replay.length < 31))
    (lvl : Nat) : ∃ c, stackReset lvl s = resetTrigger 7 lvl (devId s) { s with cv := c } := by
  have hi := broadcast_idle h (.reset (lvl == 3) (BitVec.ofNat 4 (devId s)))
  have hp := broadcast_ports (.reset (lvl == 3) (BitVec.ofNat 4 (devId s))) s
  unfold stackReset
  dsimp only
  generalize broadcast (.reset (lvl == 3) (BitVec.ofNat 4 (devId s))) s = u at hi hp
  have hw : ∀ l : Link, resetWaits { u with cv := { u.cv with rstPend := some (lvl, devId s) } } l = false := fun l =>
    resetWaits_idle (by
      cases l
      · exact hi .up
      · exact hi .dn)
  unfold resetLeaves
  dsimp only
  rw [hw .up, hw .dn]
  refine ⟨{ u.cv with sched := [], rstPend := none }, congrArg (resetTrigger 7 lvl (devId s)) ?_⟩
  unfold PortsOnly at hp
  rw [hp]

/-- The L2 broadcast of a Captain that enters it itself (R442). -/
def resetTold (s : State) : State :=
  if (2 : Nat) = 2 ∧ isCaptain s ∧ s.flag F.CV_CFG.RST_PROPAGATE then broadcast (.reset false (BitVec.ofNat 4 (devId s))) s else s

theorem resetTold_eq (s : State) : resetTold s = { s with cv := (resetTold s).cv } := by
  unfold resetTold
  split
  · exact broadcast_eq _ _
  · rfl

/-- A reset is entered at the level that is applied (R526, R528, R532). -/
def resetAt (cause deep detail : Nat) (s : State) : State :=
  let s := if deep = 2 ∧ isCaptain s ∧ s.flag F.CV_CFG.RST_PROPAGATE then
      broadcast (.reset false (BitVec.ofNat 4 (devId s))) s else s
  let s := if deep ≤ 2 then deepReset deep s
    else { interpreterLost s with regs := levelRegs 3 (interpreterLost s).regs }
  let s := ((s.set F.RST_CAUSE.CAUSE cause).set F.RST_CAUSE.LEVEL deep).set F.RST_CAUSE.DETAIL detail
  let s := if cause = 1 then s else s.inc F.RST_CAUSE.RST_CNT
  { s with rst := { s.rst with boot := .stretch, level := BitVec.ofNat 2 deep |>.toFin, restart := false } }

/-- The level applied is the deepest (R529). -/
theorem resetTrigger_eq (cause lvl detail : Nat) (s : State) :
    resetTrigger cause lvl detail s = resetAt cause ((levelNow s).elim lvl fun l => min l lvl) detail s := by
  unfold resetTrigger
  cases levelNow s <;> rfl

/-- A reset at level 2 is entered unless a deeper one is under way (R529). -/
theorem resetTrigger_at2 {s : State} {cause : Nat} (detail : Nat) (hl : ∀ v, levelNow s = some v → 2 ≤ v) (hc : cause ≠ 1) :
    resetTrigger cause 2 detail s = (deepReset 2 (resetTold s)).caused cause detail := by
  have hd : ((levelNow s).elim 2 fun l => min l 2) = 2 := by
    cases h : levelNow s with
    | none => rfl
    | some v => exact Nat.min_eq_right (hl v h)
  rw [resetTrigger_eq, hd]
  unfold resetAt
  dsimp only
  rw [if_pos (Nat.le_refl 2), if_neg hc]
  rfl

/-! #### The interpreter and planner lost (R93, R355) -/

/-- What an axis keeps when the planner's knowledge of it is lost (R93). -/
structure Forgets (x y : AxisSt) : Prop where
  pos : y.mot.pos = x.mot.pos
  vel : y.mot.vel = x.mot.vel
  gd : y.gd = x.gd
  pwm : y.pwm = x.pwm
  length : y.mot.queue.length = x.mot.queue.length
  window : x.mot.window = [] → y.mot.window = []

theorem Forgets.refl (x : AxisSt) : Forgets x x := ⟨rfl, rfl, rfl, rfl, rfl, id⟩

theorem Forgets.trans {x y z : AxisSt} (h : Forgets x y) (k : Forgets y z) : Forgets x z :=
  ⟨k.pos.trans h.pos, k.vel.trans h.vel, k.gd.trans h.gd, k.pwm.trans h.pwm, k.length.trans h.length, fun e => k.window (h.window e)⟩

/-- An axis after the loss of the planner (R93, R355). -/
def axisForgotten (x : AxisSt) : AxisSt := { x with
  mot := x.mot.forget
  fol := { x.fol with gearPend := if x.fol.engSeq.isSome then none else x.fol.gearPend, engSeq := none } }

theorem axisForgotten_forgets (x : AxisSt) : Forgets x (axisForgotten x) :=
  ⟨rfl, rfl, rfl, rfl, List.length_map _, fun _ => rfl⟩

/-- The loss of the planner on one axis. -/
def axisForgets (a : Axis) (s : State) : State :=
  (s.modMot a MotionSt.forget).modFol a fun f => { f with gearPend := if f.engSeq.isSome then none else f.gearPend, engSeq := none }

theorem axisForgets_own (a : Axis) (s : State) : (axisForgets a s).ax a = axisForgotten (s.ax a) := by
  unfold axisForgets State.modFol State.modMot
  rw [State.modAx_ax_self, State.modAx_ax_self]
  rfl

theorem axisForgets_other {a b : Axis} (h : b ≠ a) (s : State) : (axisForgets a s).ax b = s.ax b := by
  unfold axisForgets State.modFol State.modMot
  rw [State.modAx_ax_ne _ _ _ _ h, State.modAx_ax_ne _ _ _ _ h]

theorem axisForgets_forgets (a b : Axis) (s : State) : Forgets (s.ax b) ((axisForgets a s).ax b) := by
  by_cases h : b = a
  · rw [h, axisForgets_own]
    exact axisForgotten_forgets _
  · rw [axisForgets_other h]
    exact .refl _

/-- The loss of the planner on a list of axes. -/
theorem axesForget (l : List Axis) (s : State) : s.each l axisForgets = { s with axes := (s.each l axisForgets).axes }
    ∧ ∀ b, Forgets (s.ax b) ((s.each l axisForgets).ax b) ∧ (b ∈ l → ((s.each l axisForgets).mot b).window = []) := by
  induction l generalizing s with
  | nil => exact ⟨rfl, fun b => ⟨.refl _, fun h => by cases h⟩⟩
  | cons a l ih =>
    obtain ⟨h1, h2⟩ := ih (axisForgets a s)
    refine ⟨h1, fun b => ⟨(axisForgets_forgets a b s).trans (h2 b).1, fun hb => ?_⟩⟩
    by_cases he : b = a
    · refine (h2 b).1.window ?_
      rw [he, axisForgets_own]
      rfl
    · exact (h2 b).2 ((List.mem_cons.mp hb).resolve_left he)

theorem barrierRelease_eq (s : State) : barrierRelease s = { s with cv := (barrierRelease s).cv } := by
  unfold barrierRelease barrierForward
  split
  · rfl
  · split
    · rfl
    · split
      · rw [sendMsg_eq]
      · rw [sendMsg_eq]

end Sys2Proof.Machine

namespace Sys2Proof.Machine

/-- A running ARM ends with the interpreter (R405). -/
def armEnded (s : State) : State :=
  match s.lk.arm with
  | some _ => (s.raise F.LK_RCP_STAT.REJ).set F.LK_RCP_STAT.REJ_CAUSE 8
  | none => s

/-- A job of the Locker that the interpreter has asked for. -/
def asksForInterpreter (j : LkJob) : Bool := match j.why with | .reply _ _ => true | .recipe => true | .cam => true | _ => false

/-- The planner's knowledge of every axis is lost (R93, R355). -/
def plansLost (s : State) : State := (dropJobs asksForInterpreter (armEnded s)).each allAxes axisForgets

/-- The interpreter stops (R372). -/
def interpreterStopped (s : State) : State := { s with
  ip := { s.ip with running := false, cmdq := [], ledger := [], tickets := [], unlocked := false, loLatch := [], pendReset := [] }
  lk := { s.lk with reads := [], vals := [], arm := none, shadow := none, apply := none }
  plnWork := none }

theorem interpreterLost_eq (s : State) : interpreterLost s =
    barrierRelease (interpreterStopped (((plansLost s).set F.LK_RCP_STAT.ARMED 0).set F.LK_RCP_STAT.APPLY_SCHED 0)) := rfl

theorem armEnded_eq (s : State) : armEnded s = { s with regs := (armEnded s).regs } := by
  unfold armEnded
  split <;> rfl

theorem plansLost_eq (s : State) :
    plansLost s = { s with regs := (plansLost s).regs, axes := (plansLost s).axes, lk := { s.lk with jobs := (plansLost s).lk.jobs } }
      ∧ ∀ a, Forgets (s.ax a) ((plansLost s).ax a) ∧ ((plansLost s).mot a).window = [] := by
  have ha := armEnded_eq s
  have hd := dropJobs_only asksForInterpreter (armEnded s)
  unfold JobsOnly at hd
  unfold plansLost
  generalize dropJobs asksForInterpreter (armEnded s) = u at hd
  generalize armEnded s = x at ha hd
  rw [ha] at hd
  obtain ⟨h1, h2⟩ := axesForget allAxes u
  generalize u.each allAxes axisForgets = v at h1 h2
  have hax : ∀ a, u.ax a = s.ax a := fun a => by rw [hd]; rfl
  refine ⟨?_, fun a => ⟨hax a ▸ (h2 a).1, (h2 a).2 (List.mem_finRange a)⟩⟩
  rw [h1, hd]

/-- What the loss of the interpreter leaves alone, and what of it each axis forgets (R93, R355). -/
structure InterpreterGone (s u : State) : Prop where
  stopped : u.ip.running = false ∧ u.ip.cmdq = [] ∧ u.ip.ledger = [] ∧ u.ip.tickets = []
  powered : u.pw = s.pw
  stored : u.lk.cells = s.lk.cells
  pending : u.pending = s.pending
  served : u.whReq = s.whReq
  axes : ∀ a, Forgets (s.ax a) (u.ax a) ∧ (u.mot a).window = []

theorem interpreterStopped_gone {s v : State} (h : v = { s with regs := v.regs, axes := v.axes, lk := { s.lk with jobs := v.lk.jobs } })
    (ha : ∀ a, Forgets (s.ax a) (v.ax a) ∧ (v.mot a).window = []) : InterpreterGone s (interpreterStopped v) := by
  refine ⟨⟨rfl, rfl, rfl, rfl⟩, ?_, ?_, ?_, ?_, ha⟩
  · change v.pw = _; rw [h]
  · change v.lk.cells = _; rw [h]
  · change v.pending = _; rw [h]
  · change v.whReq = _; rw [h]

theorem InterpreterGone.cv {s u : State} (h : InterpreterGone s u) (c : CvSt) : InterpreterGone s { u with cv := c } :=
  ⟨h.stopped, h.powered, h.stored, h.pending, h.served, h.axes⟩

theorem InterpreterGone.regs {s u : State} (h : InterpreterGone s u) (r : List (Nat × Word)) : InterpreterGone s { u with regs := r } :=
  ⟨h.stopped, h.powered, h.stored, h.pending, h.served, h.axes⟩

theorem interpreterLost_gone (s : State) : InterpreterGone s (interpreterLost s) := by
  obtain ⟨h1, h2⟩ := plansLost_eq s
  rw [interpreterLost_eq]
  generalize plansLost s = v at h1 h2
  have hv : (v.set F.LK_RCP_STAT.ARMED 0).set F.LK_RCP_STAT.APPLY_SCHED 0 =
      { v with regs := ((v.set F.LK_RCP_STAT.ARMED 0).set F.LK_RCP_STAT.APPLY_SCHED 0).regs } := rfl
  generalize (v.set F.LK_RCP_STAT.ARMED 0).set F.LK_RCP_STAT.APPLY_SCHED 0 = x at hv
  rw [barrierRelease_eq]
  refine InterpreterGone.cv (interpreterStopped_gone (v := x) ?_ fun a => ?_) _
  · rw [hv, h1]
  · rw [hv]
    exact h2 a

/-- The fields of a cause of reset at level 3, in turn (R526). -/
def causeAt3 (cause detail : Nat) : List (Fld × Nat) :=
  [(F.RST_CAUSE.CAUSE, cause), (F.RST_CAUSE.LEVEL, 3), (F.RST_CAUSE.DETAIL, detail)]

/-- The part is held in a reset of level 3 (R528). -/
def State.stretched3 (s : State) : State := { s with rst := { s.rst with boot := .stretch, level := 3, restart := false } }

/-- The registers that an L3 leaves (R18). -/
def planRegs (s : State) : State := { s with regs := levelRegs 3 s.regs }

/-- A state held in a reset at level 3 with its cause. -/
def State.caused3 (w : State) (cause detail : Nat) : State := ((w.sets (causeAt3 cause detail)).inc F.RST_CAUSE.RST_CNT).stretched3

theorem resetTrigger_at3 {s : State} {cause : Nat} (detail : Nat) (hl : levelNow s = none) (hc : cause ≠ 1) :
    resetTrigger cause 3 detail s = (planRegs (interpreterLost s)).caused3 cause detail := by
  have hd : ((levelNow s).elim 3 fun l => min l 3) = 3 := by rw [hl]; rfl
  rw [resetTrigger_eq, hd]
  unfold resetAt
  dsimp only
  rw [if_neg (show ¬ (3 : Nat) ≤ 2 by decide), if_neg hc,
    if_neg (show ¬ ((3 : Nat) = 2 ∧ isCaptain s = true ∧ s.flag F.CV_CFG.RST_PROPAGATE = true) from fun h => absurd h.1 (by decide))]
  rfl

theorem stretched3_get (x : State) (g : Fld) : x.stretched3.get g = x.get g := rfl

theorem caused3_rest (w : State) (cause detail : Nat) : w.caused3 cause detail = { w.stretched3 with regs := (w.caused3 cause detail).regs } := by
  have h : ∀ x : State, x = { w with regs := x.regs } →
      (x.inc F.RST_CAUSE.RST_CNT).stretched3 = { w.stretched3 with regs := (x.inc F.RST_CAUSE.RST_CNT).stretched3.regs } := fun x hx => by
    rw [hx]
    rfl
  exact h _ (State.sets_eq _ _)

theorem caused3_cause (w : State) {cause detail : Nat} (h1 : cause < 32) (h2 : detail < 16) :
    ∀ p ∈ causeAt3 cause detail, (w.caused3 cause detail).get p.1 = p.2 := by
  intro p hp
  have ha : p.1.apart F.RST_CAUSE.RST_CNT := by
    simp only [causeAt3, List.mem_cons, List.not_mem_nil, or_false] at hp
    rcases hp with rfl | rfl | rfl <;> simp [Fld.apart]
  have hg : (w.caused3 cause detail).get p.1 = (w.sets (causeAt3 cause detail)).get p.1 := by
    unfold State.caused3 State.inc State.count
    generalize w.sets (causeAt3 cause detail) = x
    rw [stretched3_get, State.get_set_other _ _ _ _ ha]
  exact hg.trans (State.get_sets_mem _ _ (by simp [causeAt3, Fld.holds]; omega) (by simp [causeAt3, Fld.apart]) p hp)

/-- A reset at level 3 that a write has triggered (R93, R525). -/
theorem resetTrigger_interpreter {s : State} {cause detail : Nat} (hl : levelNow s = none) (hc : cause ≠ 1) (h1 : cause < 32) (h2 : detail < 16)
    (code : BitVec 8) :
    let u := resetTrigger cause 3 detail s
    u.whReq = s.whReq ∧ InterpreterReset cause detail s (settle { u with ip := { u.ip with wrStatus := code } }) := by
  have hg := (interpreterLost_gone s).regs (levelRegs 3 (interpreterLost s).regs)
  have hu := resetTrigger_at3 detail hl hc
  have hrest := caused3_rest (planRegs (interpreterLost s)) cause detail
  have hcause := caused3_cause (planRegs (interpreterLost s)) h1 h2
  change InterpreterGone s (planRegs (interpreterLost s)) at hg
  generalize planRegs (interpreterLost s) = w at hg hu hrest hcause
  rw [← hu] at hrest hcause
  dsimp only
  generalize resetTrigger cause 3 detail s = u at hrest hcause
  obtain ⟨⟨k1, k2, k3, k4⟩, kp, kc, kn, kw, ka⟩ := hg
  simp only [causeAt3, List.forall_mem_cons] at hcause
  obtain ⟨g1, g2, g3, -⟩ := hcause
  have hip : u.ip.running = false ∧ u.ip.cmdq = [] ∧ u.ip.ledger = [] ∧ u.ip.tickets = [] := by
    rw [hrest]
    exact ⟨k1, k2, k3, k4⟩
  obtain ⟨k1, k2, k3, k4⟩ := hip
  have hax : ∀ a, u.ax a = w.ax a := fun a => by rw [hrest]; rfl
  have hrst : u.rst.boot = .stretch ∧ u.rst.level = 3 := by rw [hrest]; exact ⟨rfl, rfl⟩
  have hpw : u.pw = s.pw := by rw [hrest]; exact kp
  have hce : u.lk.cells = s.lk.cells := by rw [hrest]; exact kc
  have hpe : u.pending = s.pending := by rw [hrest]; exact kn
  refine ⟨by rw [hrest]; exact kw, ?_⟩
  have hs := (settle_eq { u with ip := { u.ip with wrStatus := code } }).1
  have hgs : ∀ g : Fld, (settle { u with ip := { u.ip with wrStatus := code } }).get g = u.get g := fun g => settle_get _ g
  generalize settle { u with ip := { u.ip with wrStatus := code } } = t at hs hgs
  have hta : ∀ a, Forgets (s.ax a) (t.ax a) ∧ (t.mot a).window = [] := fun a => by
    have he : t.ax a = w.ax a := by rw [hs]; exact hax a
    unfold State.mot
    rw [he]
    exact ka a
  refine ⟨?_, ?_, (hgs _).trans g1, (hgs _).trans g2, (hgs _).trans g3, ?_, ?_, ?_, ?_, ?_, ?_, ?_, fun a => ?_⟩
  · rw [hs]; exact hrst.1
  · rw [hs]; exact hrst.2
  · rw [hs]; exact k1
  · rw [hs]; exact k2
  · rw [hs]; exact k3
  · rw [hs]; exact k4
  · rw [hs]; exact hpw
  · rw [hs]; exact hce
  · rw [hs]; exact hpe
  · obtain ⟨hf, hw⟩ := hta a
    exact ⟨hw, hf.pos, hf.vel, hf.gd, hf.pwm, hf.length⟩

end Sys2Proof.Machine

namespace Sys2Proof.Machine

/-- The register of the stack reset. -/
def stkRow : RegRow := ⟨.CV_STK_RST, 0x3c0028, 1, 0, 1, 0, 0, [⟨15, 0, .wo, 0, 2, 0, 65535⟩, ⟨17, 16, .wo, 0, 2, 0, 3⟩]⟩

theorem stkRow_found : regAt 0x3c0028 = some (stkRow, 0, 0) := by decide

/-- The word that a stack reset carries. -/
def stkWord (level : BitVec 2) (key : BitVec 16) : Word := BitVec.ofNat 32 (key.toNat + level.toNat * 65536)

theorem stkWord_bit (level : BitVec 2) (key : BitVec 16) {b : Nat} (hb : b < 32) :
    (stkWord level key).getLsbD b = if b < 16 then key.getLsbD b else level.getLsbD (b - 16) := by
  have h : key.toNat + level.toNat * 65536 = 2 ^ 16 * level.toNat + key.toNat := by omega
  unfold stkWord
  rw [BitVec.getLsbD_ofNat, h, Nat.testBit_two_pow_mul_add _ key.isLt, decide_eq_true hb, Bool.true_and]
  rfl

theorem stkWord_key (level : BitVec 2) (key : BitVec 16) : getBits (stkWord level key) 15 0 = key.toNat := by
  refine Nat.eq_of_testBit_eq fun i => ?_
  rw [getBits_testBit, BitVec.testBit_toNat]
  by_cases h : i < 16
  · rw [stkWord_bit level key (by omega), if_pos (by omega)]
    simp [show i < 32 by omega, show i ≤ 15 by omega]
  · simp [show ¬ i ≤ 15 by omega, BitVec.getLsbD_of_ge key i (by omega)]

theorem stkWord_level (level : BitVec 2) (key : BitVec 16) : getBits (stkWord level key) 17 16 = level.toNat := by
  refine Nat.eq_of_testBit_eq fun i => ?_
  rw [getBits_testBit, BitVec.testBit_toNat]
  by_cases h : i < 2
  · rw [stkWord_bit level key (by omega), if_neg (by omega)]
    simp [show 16 + i < 32 by omega, show 16 + i ≤ 17 by omega]
  · simp [show ¬ 16 + i ≤ 17 by omega, BitVec.getLsbD_of_ge level i (by omega)]

theorem crossLegal_stk {w : RegWr} {s : State} (h : w.row = stkRow) : crossLegal s w = (getBits (w.mask &&& w.bits) 15 0 == 0x5A3C
    && (getBits (w.mask &&& w.bits) 17 16 == 1 || getBits (w.mask &&& w.bits) 17 16 == 2)) := by
  simp only [crossLegal, h, stkRow]

theorem performWrite_stk {via : Port} {w : RegWr} {s : State} (h : w.row = stkRow) :
    performWrite via w s = stackReset (getBits (w.mask &&& w.bits) 17 16 + 1) s := by simp only [performWrite, h, stkRow]

/-- A stack reset as its checks see it. -/
def stkWr (level : BitVec 2) (key : BitVec 16) (s : State) : RegWr := wrAt 0x3c0028 0 (stkWord level key) stkRow 0 0 s

theorem stkWr_data (level : BitVec 2) (key : BitVec 16) (s : State) : (stkWr level key s).mask &&& (stkWr level key s).bits = stkWord level key :=
  BitVec.allOnes_and

/-- The key and a level that a stack reset admits (R442). -/
theorem stkWr_legal (level : BitVec 2) (key : BitVec 16) (s : State) :
    crossLegal (consumeUnlock s) (stkWr level key s) = true ↔ key = 0x5A3C ∧ (level = 1 ∨ level = 2) := by
  rw [crossLegal_stk rfl, stkWr_data, stkWord_key, stkWord_level]
  simp only [Bool.and_eq_true, Bool.or_eq_true, beq_iff_eq, ← BitVec.toNat_inj]
  rfl

section
variable {s : State} (hr : s.ip.running = true) (hp : s.pd 8 = true) (level : BitVec 2) (key : BitVec 16)
include hr hp

theorem stkReaches : WriteReaches false 0x3c0028 stkRow 0 0 s := ⟨hr, by decide, by decide, hp, by decide, stkRow_found⟩

theorem stkWrite_refuses (h : ¬ (key = 0x5A3C ∧ (level = 1 ∨ level = 2))) : hostWrite .hp false 0x3c0028 0 (stkWord level key) s =
    (s.ended 0x12).sets [(F.CMD_REFUSE.REFUSE_CNT, counted s F.CMD_REFUSE.REFUSE_CNT), (F.CMD_REFUSE.LAST_CODE, 0x12)] := by
  have hc : crossLegal (consumeUnlock s) (stkWr level key s) = false := Bool.eq_false_iff.mpr fun hl => h ((stkWr_legal level key s).mp hl)
  exact hostWrite_refuses (stkReaches hr hp) (by decide) (by decide) (by decide)
    (checkedWrite_range (w := stkWr level key s) (rwkChanged_none (show accMask (· == .rwk) stkRow.fields = 0 by decide) _ _)
      (show stkRow.id ≠ .AX_PWM_CTRL by decide) hc)

theorem stkWrite_performs (hk : key = 0x5A3C) (hl : level = 1 ∨ level = 2) : hostWrite .hp false 0x3c0028 0 (stkWord level key) s =
    { stackReset (level.toNat + 1) (consumeUnlock s) with
      ip := { (stackReset (level.toNat + 1) (consumeUnlock s)).ip with wrStatus := 0 } } := by
  have hv : performWrite .hp (stkWr level key s) (consumeUnlock s) = stackReset (level.toNat + 1) (consumeUnlock s) := by
    rw [performWrite_stk rfl, stkWr_data, stkWord_level]
  exact hostWrite_performs (stkReaches hr hp) (by decide) (by decide)
    (fun h => by rw [rwkChanged_none (by decide)] at h; cases h) (fieldsInRange_full (by decide) _ _)
    ((stkWr_legal level key s).mpr ⟨hk, hl⟩) rfl hv

end

/-- A status that is already there. -/
theorem wrStatus_same {x : State} {code : BitVec 8} (h : x.ip.wrStatus = code) : { x with ip := { x.ip with wrStatus := code } } = x :=
  congrArg (fun c => ({ x with ip := { x.ip with wrStatus := c } } : State)) h.symm

theorem devId_lt (s : State) : devId s < 16 := getBits_lt (rfGet s.regs 0x3c0004) 5 2

/-- The flit of a message that finds no room waits (R426). -/
theorem sendMsg_waits {l : Link} {s : State} (hu : linkUp s l = true) (hr : 31 ≤ (s.cvPort l).replay.length) (typ : BitVec 4) (m : CvMsg) :
    ((sendMsg l typ 1 m s).cvPort l).waiting = enqueueFlit (plainFlit typ 0 true m) (s.cvPort l).waiting := by
  unfold sendMsg sendFlits
  rw [if_neg (not_not.mpr hu), pumpPort_full (by rw [modCv_port]; exact hr), modCv_port]
  rfl

theorem mem_enqueueFlit (f : CvFlit) (l : List CvFlit) : f ∈ enqueueFlit f l := by
  induction l with
  | nil => exact List.mem_singleton_self f
  | cons g l ih =>
    unfold enqueueFlit
    split
    · exact List.mem_cons_self
    · exact List.mem_cons_of_mem _ ih

/-- A broadcast that finds no room on a port waits there. -/
theorem broadcast_waits {l : Link} {s : State} (hu : linkUp s l = true) (hr : 31 ≤ (s.cvPort l).replay.length) (op : Bcast) :
    plainFlit typBcast 0 true (.bcast op) ∈ ((broadcast op s).cvPort l).waiting := by
  have hd : (sendMsg .up typBcast 1 (.bcast op) s).cvPort .dn = s.cvPort .dn := sendMsg_otherPort .up typBcast 1 (.bcast op) s
  have hl := (sendMsg_ports .up typBcast 1 (.bcast op) s).linkUp .dn
  rw [broadcast_two]
  cases l
  · have ho : (sendMsg .dn typBcast 1 (.bcast op) (sendMsg .up typBcast 1 (.bcast op) s)).cvPort .up =
        (sendMsg .up typBcast 1 (.bcast op) s).cvPort .up := sendMsg_otherPort .dn typBcast 1 (.bcast op) _
    rw [ho, sendMsg_waits hu hr]
    exact mem_enqueueFlit _ _
  · rw [sendMsg_waits (hl.trans hu) (by rw [hd]; exact hr)]
    exact mem_enqueueFlit _ _

theorem resetWaits_of_mem {s : State} {l : Link} {l3 : Bool} {id : BitVec 4}
    (h : plainFlit typBcast 0 true (.bcast (.reset l3 id)) ∈ (s.cvPort l).waiting) : resetWaits s l = true :=
  List.any_eq_true.mpr ⟨_, h, rfl⟩

/-- A stack reset whose flit finds no room waits (R442). -/
theorem stackReset_waits {l : Link} {s : State} (hu : linkUp s l = true) (hr : 31 ≤ (s.cvPort l).replay.length) (lvl : Nat) :
    ∃ c, stackReset lvl s = { s with cv := c } ∧ c.rstPend = some (lvl, devId s) := by
  have hm := broadcast_waits hu hr (.reset (lvl == 3) (BitVec.ofNat 4 (devId s)))
  have hp := broadcast_ports (.reset (lvl == 3) (BitVec.ofNat 4 (devId s))) s
  unfold stackReset
  dsimp only
  generalize broadcast (.reset (lvl == 3) (BitVec.ofNat 4 (devId s))) s = u at hm hp
  have hw : resetWaits { u with cv := { u.cv with rstPend := some (lvl, devId s) } } l = true := resetWaits_of_mem (by
    cases l
    · exact hm
    · exact hm)
  have hor : (resetWaits { u with cv := { u.cv with rstPend := some (lvl, devId s) } } .up
      || resetWaits { u with cv := { u.cv with rstPend := some (lvl, devId s) } } .dn) = true := by
    cases l
    · rw [hw]; rfl
    · rw [hw, Bool.or_true]
  unfold resetLeaves
  dsimp only
  rw [if_pos hor]
  refine ⟨{ u.cv with rstPend := some (lvl, devId s) }, ?_, rfl⟩
  unfold PortsOnly at hp
  rw [hp]

section
variable {s : State} (hq : s.whReq = []) (hr : s.ip.running = true) (hp : s.pd 8 = true)
include hq hr hp

theorem stackReset_refuses (level : BitVec 2) (key : BitVec 16) (h : ¬ (key = 0x5A3C ∧ (level = 1 ∨ level = 2))) :
    Does (.stackReset level key) s (s.ended 0x12)
      [(F.CMD_REFUSE.REFUSE_CNT, counted s F.CMD_REFUSE.REFUSE_CNT), (F.CMD_REFUSE.LAST_CODE, 0x12)] [] :=
  does_refused rfl hq (by decide) (stkWrite_refuses (s := begun s) hr hp level key h)

omit hq in
theorem stackReset_resets (hs : ∀ l : Link, (s.cvPort l).waiting = [] ∧ (linkUp s l = true → (s.cvPort l).replay.length < 31))
    (hl : ∀ v, levelNow s = some v → 2 ≤ v) : Completes (.stackReset 1 0x5A3C) s fun t => DeepReset 7 2 (devId s) s t := by
  have hx := stkWrite_performs (s := begun s) hr hp 1 0x5A3C rfl (Or.inl rfl)
  obtain ⟨c, hc⟩ := stackReset_enters (s := consumeUnlock (begun s)) hs 2
  have h2 := resetTrigger_at2 (s := { consumeUnlock (begun s) with cv := c }) (cause := 7) (devId s) hl (by decide)
  rw [resetTold_eq] at h2
  have hu : stackReset ((1 : BitVec 2).toNat + 1) (consumeUnlock (begun s)) = _ := hc.trans h2
  generalize (resetTold { consumeUnlock (begun s) with cv := c }).cv = k at hu
  have hd := caused_deepReset { consumeUnlock (begun s) with cv := k } (cause := 7) (by decide) (devId_lt s)
  have hrest := caused_rest (deepReset 2 { consumeUnlock (begun s) with cv := k }) 7 (devId s)
  rw [hu] at hx
  generalize (deepReset 2 { consumeUnlock (begun s) with cv := k }).caused 7 (devId s) = u at hx hd hrest
  rw [wrStatus_same (by rw [hrest]; rfl)] at hx
  exact completes_to rfl hx (by rw [hrest]; rfl) hd

theorem stackReset_restarts (hs : ∀ l : Link, (s.cvPort l).waiting = [] ∧ (linkUp s l = true → (s.cvPort l).replay.length < 31))
    (hl : levelNow s = none) : Completes (.stackReset 2 0x5A3C) s fun t => InterpreterReset 7 (devId s) s t := by
  have hx := stkWrite_performs (s := begun s) hr hp 2 0x5A3C rfl (Or.inr rfl)
  obtain ⟨c, hc⟩ := stackReset_enters (s := consumeUnlock (begun s)) hs 3
  have hu : stackReset ((2 : BitVec 2).toNat + 1) (consumeUnlock (begun s)) = _ := hc
  obtain ⟨hw, hi⟩ := resetTrigger_interpreter (s := { consumeUnlock (begun s) with cv := c }) (cause := 7) (detail := devId s) hl (by decide)
    (by decide) (devId_lt s) 0
  rw [hu] at hx
  exact completes_to rfl hx (hw.trans hq) hi

theorem stackReset_pends (l : Link) {level : BitVec 2} {key : BitVec 16} (hk : key = 0x5A3C) (hl : level = 1 ∨ level = 2)
    (hu : linkUp s l = true) (hf : 31 ≤ (s.cvPort l).replay.length) :
    Completes (.stackReset level key) s fun t => t.cv.rstPend = some (level.toNat + 1, devId s) ∧ t.rst = s.rst := by
  have hx := stkWrite_performs (s := begun s) hr hp level key hk hl
  obtain ⟨c, hc, hc2⟩ := stackReset_waits (s := consumeUnlock (begun s)) hu hf (level.toNat + 1)
  rw [hc] at hx
  refine completes_to rfl hx hq ⟨?_, ?_⟩
  · rw [settle_cv]; exact hc2
  · rw [settle_rst]; rfl

end

end Sys2Proof.Machine

namespace Sys2Proof.Machine

/-! ### The writes of the device's registers together -/

/-- A region moves as the partitions say (R395). -/
theorem movedRegions_iff (s : State) (r : Fin 64) : (movedRegions s).contains r.val = true ↔
    r.val < 63 ∧ partOf (partRec s) (partCam s) (partTrc s) r ≠ partOf (askedRec s) (askedCam s) (askedTrc s) r := by
  rw [movedRegions_contains, Bool.and_eq_true, decide_eq_true_eq, regionMoves, bne_iff_ne]

/-- Settles O59: each write by the lemma on its command, performed as its register says or refused by the check that fails. -/
theorem deviceRegistersAct : Obligations.DeviceRegistersAct := by
  unfold Obligations.DeviceRegistersAct
  intro s hq hr hl
  refine ⟨fun hp => ⟨?_, ?_, ?_, ?_, ?_, ?_⟩, bkStore_wrongMode hq, ?_, fun hp => ⟨?_, ?_, ?_, ?_⟩, fun hp => ⟨?_, ?_, ?_, ?_, ?_⟩⟩
  · exact unlockArm_arms hq hr hp
  · exact fun c data ht hs hu => mchCfgWrite_takes hq hr hl hp c data ht hs hu Iff.rfl
  · refine fun b => ⟨refinEn_takes hq hr hl hp b, fun hb h1 h2 h3 ht hd => ?_⟩
    subst hb
    exact refinEn_leaves hq hr hl hp h1 h2 h3 ht hd
  · refine fun via aux role => ⟨?_, fun hs hn => ?_, ?_, fun hn hm hu hx => ?_⟩
    · exact portRoleWrite_idle hq hr hl hp via aux role
    · exact portRoleWrite_acts hq hr hl hp via aux role (fun _ => hn) fun h => absurd hs h
    · exact portRoleWrite_refuses hq hr hl hp via aux role
    · exact portRoleWrite_acts hq hr hl hp via aux role (fun h => absurd h hn) fun _ => ⟨hm, hu, hx⟩
  · exact fun quads lnk hm hu => pdCtrlWrite_completes hq hr hl hp hm hu quads lnk
  · exact fun hm => ⟨bkStore_begins hq hr hp hm, bkStore_busy hq hr hp hm⟩
  · exact fun a origin data hp => wideLoLatch_latches hq hr hl a origin data hp
  · exact deadballWrite_takes hq hr hl hp
  · exact partitionApply_busy hq hr hp
  · exact partitionApply_illegal hq hr hp
  · intro hm hs hlegal
    obtain ⟨t, ht, h1, h2, h3, h4, h5, h6⟩ := partitionApply_applies hq hr hp hm hs hlegal
    refine ⟨t, ht, h1, h2, h3, h4, h5, fun r => ?_⟩
    obtain ⟨g1, g2, g3⟩ := h6 r
    exact ⟨g1.trans (if_congr (movedRegions_iff s r) rfl rfl),
      g2.trans (congrArg _ (Bool.eq_iff_iff.mpr ((movedRegions_iff s r).trans decide_eq_true_iff.symm))), fun h => g3 ((movedRegions_iff s r).mpr h)⟩
  · refine fun level key => ⟨stackReset_refuses hq hr hp level key, fun hk h1 hs hn => ?_, fun hk h2 hs hn => ?_,
      fun l hk hlv hu hf => stackReset_pends hq hr hp l hk hlv hu hf⟩
    · subst hk h1
      exact stackReset_resets hr hp hs hn
    · subst hk h2
      exact stackReset_restarts hq hr hp hs hn
  · exact barrier_busy hq hr hp
  · exact fun hc hb => ⟨barrier_begins hq hr hp hc hb, barrier_alone hq hr hp hc hb⟩
  · exact gather_busy hq hr hp
  · exact gather_begins hq hr hp

end Sys2Proof.Machine

/-! # The planner's events (R46 to R93) -/

namespace Sys2Proof.Machine

/-! ### Commands that retire are decided -/

theorem flushLedger_suffix (e : List (QCmd × Option Outc)) (s : State) : (flushLedger e s).ip.ledger <:+ e := by
  induction e generalizing s with
  | nil => exact List.suffix_rfl
  | cons x rest ih =>
    obtain ⟨c, o⟩ := x
    cases o with
    | none => exact List.suffix_rfl
    | some o => exact (ih _).trans (List.suffix_cons _ _)

/-- What is left in the ledger was there before, decided where it is the command that retires. -/
theorem mem_retire_ledger {q : BitVec 16} {o : Outc} {s : State} {e : QCmd × Option Outc} (h : e ∈ (retire q o s).ip.ledger) :
    ∃ x ∈ s.ip.ledger, (if x.1.seq = q ∧ x.2 = none then (x.1, some o) else x) = e :=
  List.mem_map.mp ((flushLedger_suffix _ _).subset h)

theorem retire_decided (q : BitVec 16) (o : Outc) (s : State) : Decided q (retire q o s) := by
  intro e he hq
  obtain ⟨x, -, rfl⟩ := mem_retire_ledger he
  split at hq
  case isTrue h => simp [h]
  case isFalse h => simpa [h] using fun hn => h ⟨hq, hn⟩

section
variable {q : BitVec 16} {s t : State}

theorem Decided.congr (h : Decided q s) (e : t.ip.ledger = s.ip.ledger) : Decided q t := fun x hx => h x (e ▸ hx)

theorem Decided.retire (h : Decided q s) (p : BitVec 16) (o : Outc) : Decided q (retire p o s) := by
  intro e he hq
  obtain ⟨x, hx, rfl⟩ := mem_retire_ledger he
  split
  case isTrue => exact Option.some_ne_none o
  case isFalse hn =>
    rw [if_neg hn] at hq
    exact h x hx hq

theorem Decided.retireAll (h : Decided q s) (m : List (BitVec 16)) (o : Outc) : Decided q (retireAll m o s) := by
  induction m generalizing s with
  | nil => exact h
  | cons p m ih => exact ih (h.retire p o)

theorem Decided.cancelWaiting (h : Decided q s) (a : Axis) : Decided q (cancelWaiting a s) :=
  (h.congr (t := { s with ip := { s.ip with cmdq := s.ip.cmdq.filter _ } }) rfl).retireAll _ _

theorem Decided.settled (h : Decided q s) : Decided q (settle s) := h.congr (by rw [settle_ip])

end

theorem retireAll_decided {q : BitVec 16} {m : List (BitVec 16)} (hq : q ∈ m) (o : Outc) (s : State) :
    Decided q (retireAll m o s) := by
  induction m generalizing s with
  | nil => exact absurd hq List.not_mem_nil
  | cons p m ih =>
    by_cases h : q ∈ m
    · exact ih h _
    · obtain rfl := (List.mem_cons.mp hq).resolve_right h
      exact (retire_decided q o s).retireAll m o

/-! ### What retirements leave alone -/

@[simp] theorem retire_ax (q : BitVec 16) (o : Outc) (s : State) (b : Axis) : (retire q o s).ax b = s.ax b :=
  (retire_within (a := 0) (S := recordScope) Scope.le_rfl List.mem_cons_self q o (.refl _ [0] s)).own b

@[simp] theorem retireAll_ax (m : List (BitVec 16)) (o : Outc) (s : State) (b : Axis) : (retireAll m o s).ax b = s.ax b :=
  (retireAll_within (a := 0) (S := recordScope) Scope.le_rfl List.mem_cons_self m o (.refl _ [0] s)).own b

@[simp] theorem cancelWaiting_ax (a : Axis) (s : State) (b : Axis) : (cancelWaiting a s).ax b = s.ax b :=
  (cancelWaiting_within (S := recordScope) Scope.le_rfl List.mem_cons_self (.refl _ [a] s)).own b

@[simp] theorem countOffside_ax (n : Nat) (s : State) (b : Axis) : (countOffside n s).ax b = s.ax b := by
  unfold countOffside
  split <;> rfl

@[simp] theorem noteClip_ax (a : Axis) (p q : Prof) (s : State) (b : Axis) : (noteClip a p q s).ax b = s.ax b := by
  unfold noteClip
  split <;> rfl

section
variable (q : BitVec 16) (m : List (BitVec 16)) (o : Outc) (a b : Axis) (s : State)

@[simp] theorem retire_mot : (retire q o s).mot b = s.mot b := congrArg AxisSt.mot (retire_ax q o s b)
@[simp] theorem retireAll_mot : (retireAll m o s).mot b = s.mot b := congrArg AxisSt.mot (retireAll_ax m o s b)
@[simp] theorem cancelWaiting_mot : (cancelWaiting a s).mot b = s.mot b := congrArg AxisSt.mot (cancelWaiting_ax a s b)
@[simp] theorem countOffside_mot (n : Nat) : (countOffside n s).mot b = s.mot b := congrArg AxisSt.mot (countOffside_ax n s b)
@[simp] theorem noteClip_mot (p r : Prof) : (noteClip a p r s).mot b = s.mot b := congrArg AxisSt.mot (noteClip_ax a p r s b)

theorem retire_cmdq : (retire q o s).ip.cmdq = s.ip.cmdq := flushLedger_cmdq _ _

theorem cancelWaiting_cmdq : (cancelWaiting a s).ip.cmdq
    = s.ip.cmdq.filter fun c => ¬ (c.axis.toNat = a.val ∧ 0x20 ≤ c.op.toNat ∧ c.op.toNat < 0x40) := retireAll_cmdq _ _ _

/-- No command of the axis waits behind a cancellation (R53, R54, R81). -/
theorem cancelWaiting_none : ∀ c ∈ (cancelWaiting a s).ip.cmdq,
    ¬ (c.axis.toNat = a.val ∧ 0x20 ≤ c.op.toNat ∧ c.op.toNat < 0x40) := by
  intro c hc
  rw [cancelWaiting_cmdq] at hc
  exact of_decide_eq_true (List.mem_filter.mp hc).2

end

/-- A retirement writes the latest number and the count of cancellations alone (R91 to R95). -/
theorem flushLedger_get (e : List (QCmd × Option Outc)) (s : State) {g : Fld} (h1 : g.addr ≠ F.LAST_COMMITTED_SEQ.all.addr)
    (h2 : g.addr ≠ F.PLN_EVENTS.all.addr) : (flushLedger e s).get g = s.get g := by
  have hlog : ∀ (c : QCmd) (o : Outc) (t : State), (logRetire c o t).get g = t.get g := by
    intro c o t
    unfold logRetire State.inc State.count
    dsimp only
    split
    · rw [State.get_set_own (f := F.PLN_EVENTS.CANCEL_CNT) _ _ h2, State.get_set_own (f := F.LAST_COMMITTED_SEQ.SEQ_VALID) _ _ h1,
        State.get_set_own (f := F.LAST_COMMITTED_SEQ.SEQ) _ _ h1]
      rfl
    · rw [State.get_set_own (f := F.LAST_COMMITTED_SEQ.SEQ_VALID) _ _ h1, State.get_set_own (f := F.LAST_COMMITTED_SEQ.SEQ) _ _ h1]
      rfl
  induction e generalizing s with
  | nil => rfl
  | cons x rest ih =>
    obtain ⟨c, o⟩ := x
    cases o with
    | none => rfl
    | some o => exact (ih _).trans (hlog c o _)

theorem retire_get_apart (q : BitVec 16) (o : Outc) (s : State) {g : Fld} (h1 : g.addr ≠ F.LAST_COMMITTED_SEQ.all.addr)
    (h2 : g.addr ≠ F.PLN_EVENTS.all.addr) : (retire q o s).get g = s.get g := flushLedger_get _ _ h1 h2

end Sys2Proof.Machine

namespace Sys2Proof.Machine

/-! ### What a take-up comes down to -/

/-- The state in which a MOVE, JOG or RESUME has captured profile set `k` (R49, R83). -/
def captured (a : Axis) (k : Nat) (s : State) : State :=
  clearRemain a (noteClip a (profOf s a k) (clipProf s a (profOf s a k)) s)

/-- The profile set a command names. -/
def setOf (c : QCmd) : Nat := (c.words.getD 0 0).toNat / 16 % 4

section
variable {P : State → Prop} {a : Axis} {c : QCmd} {s : State}

/-- A MOVE is refused, stops the axis at its travel window, cuts its motion or joins its plan. -/
theorem takeMove_cases (refused : ∀ o, P (reblend a (retire c.seq o s)))
    (limited : P (retire c.seq .limit (stopPacket a none
      (((captured a (setOf c) s).raise (F.AX_PLN_STAT.LIMIT_REJ a)).inc F.PLN_EVENTS.LIMIT_CNT))))
    (replaced : ∀ x, P (startCut a x (cancelWaiting a (captured a (setOf c) s))))
    (ends : ∀ x, P (startCut a x (captured a (setOf c) s)))
    (added : ∀ m, P (addMove a m (captured a (setOf c) s))) : P (takeMove a c s) := by
  unfold takeMove
  extract_lets w0 rel k raw p d jog goal
  split
  case isTrue => exact refused _
  split
  case isTrue => exact refused _
  split
  case isTrue => exact limited
  split
  case isTrue => exact replaced _
  split
  case isTrue => exact ends _
  case isFalse => exact added _

/-- A JOG is refused or cuts the motion, and cancels what waits (R54). -/
theorem takeJog_cases (refused : P (retire c.seq .noProfile s))
    (cuts : ∀ x, P (cancelWaiting a (startCut a x (captured a (setOf c) s)))) : P (takeJog a c s) := by
  unfold takeJog
  dsimp only
  split
  · exact refused
  · exact cuts _

/-- A RESUME is refused or joins the plan (R82). -/
theorem takeResume_cases (refused : ∀ o, P (retire c.seq o s)) (added : ∀ m, P (addMove a m (captured a (setOf c) s))) :
    P (takeResume a c s) := by
  unfold takeResume
  dsimp only
  split
  · exact refused _
  split
  · exact refused _
  · exact added _

end

/-! ### Plans leave the records of the interpreter alone -/

section
variable (a : Axis) (s : State)

@[simp] theorem countOffside_ip (n : Nat) : (countOffside n s).ip = s.ip := by
  unfold countOffside
  split <;> rfl

@[simp] theorem countCut_ip (n : Nat) : (countCut n s).ip = s.ip := by
  unfold countCut
  split <;> rfl

@[simp] theorem discardWindow_ip : (discardWindow a s).ip = s.ip := countOffside_ip _ _

@[simp] theorem noteClip_ip (p q : Prof) : (noteClip a p q s).ip = s.ip := by
  unfold noteClip
  split <;> rfl

@[simp] theorem noteStop_ip : (noteStop a s).ip = s.ip := noteClip_ip _ _ _ _

@[simp] theorem captured_ip (k : Nat) : (captured a k s).ip = s.ip := noteClip_ip _ _ _ _

theorem planCut_ip (c : Cut) : (planCut a c s).ip = s.ip := by
  unfold planCut
  dsimp only
  rw [State.modMot_ip, apply_ite State.ip, noteStop_ip, ite_self]

theorem replan_ip (m : List PMove) : (replan a m s).ip = s.ip := countOffside_ip _ _

theorem reblend_ip : (reblend a s).ip = s.ip := by
  unfold reblend
  dsimp only
  split
  · rfl
  split
  · rfl
  split
  · rfl
  · exact replan_ip a _ _

theorem addMove_ip (m : PMove) : (addMove a m s).ip = s.ip := by
  unfold addMove
  dsimp only
  split
  · rfl
  · exact replan_ip a _ _

/-! The commands that wait: a take-up only takes commands away -/

theorem dropCut_cmdq (o r : Outc) : (dropCut o r a s).ip.cmdq = s.ip.cmdq := by
  unfold dropCut
  split
  · rfl
  · dsimp only
    split
    · rw [retireAll_cmdq, countCut_ip, State.modMot_ip]
    · rw [retire_cmdq, retireAll_cmdq, countCut_ip, State.modMot_ip]

theorem startCut_cmdq (c : Cut) : (startCut a c s).ip.cmdq = s.ip.cmdq := by
  unfold startCut discardCut
  rw [planCut_ip, discardWindow_ip, dropCut_cmdq]

theorem dropBehind_cmdq : (dropBehind a s).ip.cmdq = s.ip.cmdq := by
  unfold dropBehind
  dsimp only
  rw [retireAll_cmdq, countOffside_ip, State.modMot_ip]

theorem cancelWaiting_cmdq_subset : (cancelWaiting a s).ip.cmdq ⊆ s.ip.cmdq := by
  rw [cancelWaiting_cmdq]
  exact List.filter_sublist.subset

theorem stopPacket_cmdq_subset (q : Option (BitVec 16)) : (stopPacket a q s).ip.cmdq ⊆ s.ip.cmdq := by
  have h : (cancelWaiting a (dropBehind a s)).ip.cmdq ⊆ s.ip.cmdq :=
    dropBehind_cmdq a s ▸ cancelWaiting_cmdq_subset a (dropBehind a s)
  unfold stopPacket
  split
  · dsimp only
    split
    · rwa [retire_cmdq]
    · exact h
  · rw [startCut_cmdq, noteStop_ip]
    exact List.Subset.refl _

/-- A take-up takes no command into the queue (R51). -/
theorem takeUp_cmdq_subset (c : QCmd) : (takeUp a c s).ip.cmdq ⊆ s.ip.cmdq := by
  have same : ∀ {l}, l = s.ip.cmdq → l ⊆ s.ip.cmdq := fun h => h ▸ List.Subset.refl _
  unfold takeUp
  split
  · apply takeMove_cases (P := fun t => t.ip.cmdq ⊆ s.ip.cmdq)
    · exact fun o => same (by rw [reblend_ip, retire_cmdq])
    · rw [retire_cmdq]
      exact List.Subset.trans (stopPacket_cmdq_subset a _ none) (same (by simp))
    · intro x
      rw [startCut_cmdq]
      exact List.Subset.trans (cancelWaiting_cmdq_subset a _) (same (by simp))
    · exact fun x => same (by rw [startCut_cmdq, captured_ip])
    · exact fun m => same (by rw [addMove_ip, captured_ip])
  split
  · apply takeJog_cases (P := fun t => t.ip.cmdq ⊆ s.ip.cmdq)
    · exact same (retire_cmdq _ _ _)
    · exact fun x => List.Subset.trans (cancelWaiting_cmdq_subset a _) (same (by rw [startCut_cmdq, captured_ip]))
  split
  · exact stopPacket_cmdq_subset a s _
  · apply takeResume_cases (P := fun t => t.ip.cmdq ⊆ s.ip.cmdq)
    · exact fun o => same (retire_cmdq _ _ _)
    · exact fun m => same (by rw [addMove_ip, captured_ip])

end

/-! ### What plans, cuts and take-ups can change -/

/-- The scope of a plan: the motion of the axis, its commands, and the planner's counts. -/
def planScope : Scope where
  side := besideRecords
  keep x := { x with mot := MotionSt.reset }
  fields _ f := plannerField f
  side_engine _ _ _ := rfl

/-- The scope of a plan that can capture a profile set (R49). -/
def clipScope : Scope where
  side := besideRecords
  keep x := { x with mot := MotionSt.reset }
  fields a f := plannerField f ∨ f = F.AX_PLN_STAT.CLIPPED a
  side_engine _ _ _ := rfl

/-- The scope of a take-up (R49, R83, R86). -/
def takeScope : Scope where
  side := besideRecords
  keep x := { x with mot := MotionSt.reset }
  fields a f := plannerField f ∨ f ∈ [F.AX_PLN_STAT.CLIPPED a, F.AX_PLN_STAT.REMAIN_VALID a, F.AX_PLN_STAT.LIMIT_REJ a]
  side_engine _ _ _ := rfl

theorem recordScope_le_planScope : recordScope.le planScope where
  side _ _ h := h
  keep _ _ h := congrArg (fun x : AxisSt => { x with mot := MotionSt.reset }) h
  fields _ _ h := h

theorem planScope_le_clipScope : planScope.le clipScope where
  side _ _ h := h
  keep _ _ h := h
  fields _ _ h := Or.inl h

theorem clipScope_le_takeScope : clipScope.le takeScope where
  side _ _ h := h
  keep _ _ h := h
  fields _ _ h := h.imp_right fun h => by simp [h]

section
variable {S : Scope} {l : List Axis} {a : Axis} {r s : State} (hS : planScope.le S) (ha : a ∈ l)
include hS ha

/-- A plan moves the motion of its axis. -/
theorem Within.plans {f : MotionSt → MotionSt} (h : Within S l r s) : Within S l r (s.modMot a f) :=
  h.modMot ha fun _ => hS.keep _ _ rfl

theorem discardWindow_plans (h : Within S l r s) : Within S l r (discardWindow a s) :=
  countOffside_within (recordScope_le_planScope.trans hS) ha _ (h.plans hS ha)

theorem dropCut_plans (o q : Outc) (h : Within S l r s) : Within S l r (dropCut o q a s) := by
  have hR := recordScope_le_planScope.trans hS
  unfold dropCut
  split
  · exact h
  · dsimp only
    split
    · exact retireAll_within hR ha _ _ (countCut_within hR ha _ (h.plans hS ha))
    · exact retire_within hR ha _ _ (retireAll_within hR ha _ _ (countCut_within hR ha _ (h.plans hS ha)))

theorem dropBehind_plans (h : Within S l r s) : Within S l r (dropBehind a s) := by
  have hR := recordScope_le_planScope.trans hS
  unfold dropBehind
  exact retireAll_within hR ha _ _ (countOffside_within hR ha _ (h.plans hS ha))

theorem replan_plans (m : List PMove) (h : Within S l r s) : Within S l r (replan a m s) :=
  countOffside_within (recordScope_le_planScope.trans hS) ha _ (h.plans hS ha)

theorem reblend_plans (h : Within S l r s) : Within S l r (reblend a s) := by
  unfold reblend
  dsimp only
  split
  · exact h
  · exact .ite (h.plans hS ha) (.ite (h.plans hS ha) (replan_plans hS ha _ (h.plans hS ha)))

theorem addMove_plans (m : PMove) (h : Within S l r s) : Within S l r (addMove a m s) := by
  unfold addMove
  exact .ite ((h.plans hS ha).plans hS ha) (replan_plans hS ha _ (h.plans hS ha))

end

section
variable {S : Scope} {l : List Axis} {a : Axis} {r s : State} (hS : clipScope.le S) (ha : a ∈ l)
include hS ha

theorem noteClip_plans (p q : Prof) (h : Within S l r s) : Within S l r (noteClip a p q s) := by
  unfold noteClip
  exact .ite h ((h.raise ha (hS.fields a _ (Or.inr rfl))).inc ha (hS.fields a _ (Or.inl ⟨by decide, by decide⟩)))

theorem planCut_plans (c : Cut) (h : Within S l r s) : Within S l r (planCut a c s) := by
  unfold planCut
  exact .plans (planScope_le_clipScope.trans hS) ha (.ite (noteClip_plans hS ha _ _ h) h)

theorem startCut_plans (c : Cut) (h : Within S l r s) : Within S l r (startCut a c s) := by
  have hP := planScope_le_clipScope.trans hS
  exact planCut_plans hS ha _ (discardWindow_plans hP ha (dropCut_plans hP ha _ _ h))

theorem stopPacket_plans (q : Option (BitVec 16)) (h : Within S l r s) : Within S l r (stopPacket a q s) := by
  have hP := planScope_le_clipScope.trans hS
  have hR := recordScope_le_planScope.trans hP
  have h1 := cancelWaiting_within hR ha (dropBehind_plans hP ha h)
  unfold stopPacket
  split
  · dsimp only
    split
    · exact retire_within hR ha _ _ h1
    · exact h1
  · exact startCut_plans hS ha _ (noteClip_plans hS ha _ _ h)

end

section
variable {S : Scope} {l : List Axis} {a : Axis} {r s : State} (hS : takeScope.le S) (ha : a ∈ l)
include hS ha

theorem captured_takes (k : Nat) (h : Within S l r s) : Within S l r (captured a k s) :=
  (noteClip_plans (clipScope_le_takeScope.trans hS) ha _ _ h).set _ ha (hS.fields a _ (Or.inr (by simp)))

theorem takeUp_takes (c : QCmd) (h : Within S l r s) : Within S l r (takeUp a c s) := by
  have hC := clipScope_le_takeScope.trans hS
  have hP := planScope_le_clipScope.trans hC
  have hR := recordScope_le_planScope.trans hP
  have hk : Within S l r (captured a (setOf c) s) := captured_takes hS ha _ h
  unfold takeUp
  split
  · apply takeMove_cases
    · exact fun o => reblend_plans hP ha (retire_within hR ha _ _ h)
    · refine retire_within hR ha _ _ (stopPacket_plans hC ha _ ?_)
      exact (hk.raise ha (hS.fields a _ (Or.inr (by simp)))).inc ha (hS.fields a _ (Or.inl ⟨by decide, by decide⟩))
    · exact fun x => startCut_plans hC ha _ (cancelWaiting_within hR ha hk)
    · exact fun x => startCut_plans hC ha _ hk
    · exact fun m => addMove_plans hP ha _ hk
  split
  · apply takeJog_cases
    · exact retire_within hR ha _ _ h
    · exact fun x => cancelWaiting_within hR ha (startCut_plans hC ha _ hk)
  split
  · exact stopPacket_plans hC ha _ h
  · apply takeResume_cases
    · exact fun o => retire_within hR ha _ _ h
    · exact fun m => addMove_plans hP ha _ hk

end

end Sys2Proof.Machine

namespace Sys2Proof.Machine

/-! ### An event of the planner, settled -/

/-- A field of `l`, or one of a word that `l` names whole. -/
def Covered (l : List Fld) (f : Fld) : Prop := f ∈ l ∨ f.hi < 32 ∧ ⟨f.addr, 31, 0⟩ ∈ l

theorem Covered.apart {l : List Fld} {f g : Fld} (h : Covered l f) (hg : ∀ x ∈ l, g.apart x) : g.apart f :=
  h.elim (hg f) fun ⟨hi, hm⟩ => Fld.apart_of_all (hg _ hm) hi

theorem plannerField_covered {f : Fld} (h : plannerField f) (l : List Fld) : Covered (l ++ plannerFields) f := by
  obtain ⟨hi, hm⟩ := h
  refine Or.inr ⟨hi, List.mem_append_right _ ?_⟩
  simp only [plannerFields, List.map_cons, List.map_nil, List.mem_cons, List.not_mem_nil, or_false] at hm ⊢
  rcases hm with h | h | h | h | h | h <;> simp [h]

/-- What every event of the planner leaves alone (R46 to R93). -/
def PlannerFrame (a : Axis) (l : List Fld) (t0 : Nat) (s t : State) : Prop :=
  OnlyAxes [a] s t ∧ t.now = max s.now t0 ∧ KeepsFields l s t

section
variable {a : Axis} {s u : State} {t0 : Nat} {l : List Fld}

theorem timed_running {f : State → State} (hr : s.ip.running = true) :
    timed t0 (whileRunning f) (begun s) = f (begun (s.at_ t0)) := if_pos hr

/-- Work in a scope whose fields `l` covers is framed by `l`. -/
theorem Within.plannerFrame {S : Scope} (h : Within S [a] (begun (s.at_ t0)) u)
    (hS : ∀ x y, S.side x = S.side y → besideRecords x = besideRecords y) (hl : ∀ f, S.fields a f → Covered l f) :
    PlannerFrame a l t0 s (settle u) := by
  refine ⟨h.onlyAxes hS rfl fun _ _ => rfl, ?_, KeepsFields.settled fun g hg => ?_⟩
  · rw [settle_now]
    exact h.now hS
  · refine h.fields g fun b hb f hf => ?_
    rw [List.mem_singleton] at hb
    subst hb
    exact (hl f hf).apart hg

/-- An event of the planner completes in the state it leaves, settled. -/
theorem completes_planner {e : Instr} {f : State → State} {P : State → Prop}
    (he : exec e s = runCmd (timed t0 (whileRunning f)) s) (hr : s.ip.running = true)
    (hf : f (begun (s.at_ t0)) = u) (hw : u.whReq = []) (hP : P (settle u)) : Completes e s P := by
  have hu : timed t0 (whileRunning f) (begun s) = u := (timed_running hr).trans hf
  exact completes_of he (hu ▸ hw) (hu ▸ hP)

end

/-! ### Moves -/

theorem signedOf_48_range (n : Nat) : -2 ^ 47 ≤ signedOf 48 n ∧ signedOf 48 n < 2 ^ 47 := by
  unfold signedOf
  split <;> omega

/-- Every position a MOVE can name lies in the range of positions (R45). -/
theorem posLegal_moveDist (c : QCmd) : posLegal (moveDist c) = true := by
  obtain ⟨hlo, hhi⟩ := signedOf_48_range ((c.words.getD 1 0).toNat + (c.words.getD 2 0).toNat % 2 ^ 16 * 2 ^ 32)
  exact Bool.and_eq_true_iff.mpr ⟨decide_eq_true (by dsimp only [moveDist]; omega), decide_eq_true (by dsimp only [moveDist]; omega)⟩

section
variable (a : Axis) (s : State)

@[simp] theorem captured_mot (k : Nat) (b : Axis) : (captured a k s).mot b = s.mot b := noteClip_mot _ _ _ _ _

theorem captured_get (k : Nat) {g : Fld} (hg : g.addr ≠ (F.AX_PLN_STAT.all a).addr) (hp : g.addr ≠ F.PLN_EVENTS.all.addr) :
    (captured a k s).get g = s.get g := by
  unfold captured clearRemain noteClip State.inc State.raise State.count
  rw [State.get_set_own (f := F.AX_PLN_STAT.REMAIN_VALID a) _ _ hg]
  split
  · rfl
  · rw [State.get_set_own (f := F.PLN_EVENTS.CLIP_CNT) _ _ hp, State.get_set_own (f := F.AX_PLN_STAT.CLIPPED a) _ _ hg]

theorem captured_remain (k : Nat) : (captured a k s).get (F.AX_PLN_STAT.REMAIN_VALID a) = 0 :=
  State.get_set_same _ _ _ (by simp) (by simp) (by simp)

theorem outsideTravel_congr {t : State} (h : ∀ g : Fld, 0x3F0000 ≤ g.addr → t.get g = s.get g) (d : Int) :
    outsideTravel t a d = outsideTravel s a d := by
  unfold outsideTravel travelMin travelMax State.wide State.flag
  rw [h (F.BK_CFG.TRAVEL_EN a) (by dsimp; omega), h (F.BK_PMIN_LO.PMIN a) (by dsimp; omega),
    h (F.BK_PMIN_HI.PMIN a) (by dsimp; omega), h (F.BK_PMAX_LO.PMAX a) (by dsimp; omega), h (F.BK_PMAX_HI.PMAX a) (by dsimp; omega)]

theorem outsideTravel_captured (k : Nat) (d : Int) : outsideTravel (captured a k s) a d = outsideTravel s a d :=
  outsideTravel_congr a s (fun g hg => captured_get a s k (by dsimp; omega) (by dsimp; omega)) d

theorem jogOpen_captured (k : Nat) : jogOpen (captured a k s) a = jogOpen s a := by simp [jogOpen]

theorem replan_target (m : List PMove) : ((replan a m s).mot a).target = (s.mot a).target := by
  unfold replan
  dsimp only
  rw [countOffside_mot, State.modMot_mot_self]

theorem replan_queue (m : List PMove) : ((replan a m s).mot a).queue = (s.mot a).queue := by
  unfold replan
  dsimp only
  rw [countOffside_mot, State.modMot_mot_self]

/-- A MOVE that joins the plan sets the target (R52). -/
theorem addMove_target (m : PMove) : ((addMove a m s).mot a).target = m.goal := by
  unfold addMove
  dsimp only
  split
  · rw [State.modMot_mot_self, State.modMot_mot_self]
  · rw [replan_target, State.modMot_mot_self]

/-- A look at the waiting moves leaves the committed segments (R72). -/
theorem reblend_queue : ((reblend a s).mot a).queue = (s.mot a).queue := by
  unfold reblend
  dsimp only
  split
  · rfl
  split
  · rw [State.modMot_mot_self]
  split
  · rw [State.modMot_mot_self]
  · rw [replan_queue, State.modMot_mot_self]

theorem reblend_of_chain_nil {s : State} (h : (s.mot a).chain = []) : reblend a s = s := by
  unfold reblend
  simp [h]

end

section
variable {a : Axis} {c : QCmd} {s : State}

theorem takeMove_unusable (h : (profOf s a (setOf c)).usable = false) :
    takeMove a c s = reblend a (retire c.seq .noProfile s) := if_pos (by simpa [setOf] using h)

theorem takeJog_unusable (h : (profOf s a (setOf c)).usable = false) : takeJog a c s = retire c.seq .noProfile s :=
  if_pos (by simpa [setOf] using h)

theorem takeResume_nothing (h : s.axState a ≠ 5 ∨ s.get (F.AX_PLN_STAT.REMAIN_VALID a) = 0) :
    takeResume a c s = retire c.seq .nothingToResume s := if_pos (h.imp_right fun h => by simp [State.flag, h])

/-- A MOVE to a position with a usable profile set: outside the travel window it stops the axis, with REPLACE or behind a jog
it cuts the motion, else it joins the plan (R46, R53, R55, R86). -/
theorem takeMove_absolute (hu : (profOf s a (setOf c)).usable = true) (hrel : natBit (c.words.getD 0 0).toNat 0 = false) :
    ∃ (x y : Cut) (m : PMove), m.goal = moveDist c ∧ takeMove a c s =
      let r := captured a (setOf c) s
      if outsideTravel r a (moveDist c) then
        retire c.seq .limit (stopPacket a none ((r.raise (F.AX_PLN_STAT.LIMIT_REJ a)).inc F.PLN_EVENTS.LIMIT_CNT))
      else if natBit (c.words.getD 0 0).toNat 2 then startCut a x (cancelWaiting a r)
      else if jogOpen r a then startCut a y r
      else addMove a m r := by
  unfold takeMove
  extract_lets w0 rel k raw p d jog goal
  have hgoal : goal = moveDist c := if_neg (by simp [rel, w0, hrel])
  rw [if_neg (show ¬ ¬ raw.usable = true from not_not_intro hu), if_neg (by simp [hgoal, posLegal_moveDist]), hgoal]
  refine ⟨_, _, _, ?_, rfl⟩
  rfl

end

end Sys2Proof.Machine

namespace Sys2Proof.Machine

/-! ### PLANNER_TAKE_UP -/

section
variable {a : Axis} {c : QCmd} {s : State}

theorem plannerTakeUp_eq (hr : s.ip.running = true) (hc : canTakeUp s a = true) (hn : nextCmd s a = some c) :
    plannerTakeUp a s = takeUp a c (unqueue c.seq s) := by
  unfold plannerTakeUp
  rw [if_neg (by simp [hr, hc]), hn]

theorem takeUp_move (h : c.op = 0x20) : takeUp a c s = takeMove a c s := if_pos (by rw [h]; rfl)

theorem takeUp_jog (h : c.op = 0x21) : takeUp a c s = takeJog a c s :=
  (if_neg (by rw [h]; decide)).trans (if_pos (by rw [h]; rfl))

theorem takeUp_resume (h : c.op = 0x23) : takeUp a c s = takeResume a c s :=
  (if_neg (by rw [h]; decide)).trans ((if_neg (by rw [h]; decide)).trans (if_neg (by rw [h]; decide)))

theorem unqueue_within {S : Scope} {l : List Axis} {r : State} (hS : recordScope.le S) (q : BitVec 16) (h : Within S l r s) :
    Within S l r (unqueue q s) := h.records hS _ s.ip.ledger s.ip.log

/-- A command that is taken up waits no longer (R51). -/
theorem takeUp_unqueued : ∀ q ∈ (takeUp a c (unqueue c.seq s)).ip.cmdq, q.seq ≠ c.seq := fun _ hq =>
  of_decide_eq_true (List.mem_filter.mp (takeUp_cmdq_subset a (unqueue c.seq s) c hq)).2

/-- A MOVE or a JOG without a usable profile set is refused and moves nothing (R47). -/
theorem takeUp_unusable (ho : c.op = 0x20 ∨ c.op = 0x21) (h : (profOf s a (setOf c)).usable = false) :
    Decided c.seq (takeUp a c s) ∧ ((takeUp a c s).mot a).queue = (s.mot a).queue
      ∧ (c.op = 0x21 ∨ (s.mot a).chain = [] → (takeUp a c s).ax a = s.ax a) := by
  have hd := retire_decided c.seq .noProfile s
  rcases ho with ho | ho
  · rw [takeUp_move ho, takeMove_unusable h]
    refine ⟨hd.congr (by rw [reblend_ip]), by rw [reblend_queue, retire_mot], fun hj => ?_⟩
    have hch : (s.mot a).chain = [] := hj.resolve_left (by rw [ho]; decide)
    rw [reblend_of_chain_nil a (by rw [retire_mot]; exact hch), retire_ax]
  · rw [takeUp_jog ho, takeJog_unusable h]
    exact ⟨hd, by rw [retire_mot], fun _ => retire_ax _ _ _ _⟩

/-- A RESUME with nothing to resume is refused (R82). -/
theorem takeUp_nothing (ho : c.op = 0x23) (h : s.axState a ≠ 5 ∨ s.get (F.AX_PLN_STAT.REMAIN_VALID a) = 0) :
    Decided c.seq (takeUp a c s) ∧ (takeUp a c s).ax a = s.ax a := by
  rw [takeUp_resume ho, takeResume_nothing h]
  exact ⟨retire_decided _ _ _, retire_ax _ _ _ _⟩

/-- The fields of a stop are apart from those of the axis but `CLIPPED`. -/
theorem apart_clipScope {g : Fld} (hg : 0x100000 ≤ g.addr) (hc : g.apart (F.AX_PLN_STAT.CLIPPED a)) :
    ∀ b ∈ [a], ∀ f, clipScope.fields b f → g.apart f := by
  intro b hb f hf
  obtain rfl := List.mem_singleton.mp hb
  rcases hf with hf | rfl
  · have := plannerField_low hf
    exact Or.inl (by omega)
  · exact hc

theorem stopPacket_get (q : Option (BitVec 16)) {g : Fld} (hg : 0x100000 ≤ g.addr) (hc : g.apart (F.AX_PLN_STAT.CLIPPED a)) :
    (stopPacket a q s).get g = s.get g :=
  (stopPacket_plans (S := clipScope) Scope.le_rfl List.mem_cons_self q (.refl _ [a] s)).fields g (apart_clipScope hg hc)

/-- A MOVE outside the travel window is rejected and shown in LIMIT_REJ (R86). -/
theorem takeUp_outside (ho : c.op = 0x20) (hu : (profOf s a (setOf c)).usable = true)
    (hrel : natBit (c.words.getD 0 0).toNat 0 = false) (h : outsideTravel s a (moveDist c) = true) :
    Decided c.seq (takeUp a c s) ∧ (takeUp a c s).get (F.AX_PLN_STAT.LIMIT_REJ a) = 1 := by
  obtain ⟨x, y, m, -, he⟩ := takeMove_absolute hu hrel
  rw [takeUp_move ho, he]
  dsimp only
  rw [if_pos (by rw [outsideTravel_captured, h])]
  refine ⟨retire_decided _ _ _, ?_⟩
  rw [retire_get _ _ _ (by dsimp; omega), stopPacket_get _ (by dsimp; omega) (by simp [Fld.apart]), State.inc,
    State.count, State.get_set_own _ _ (by dsimp; omega)]
  exact State.get_set_same _ _ _ (by simp) (by simp) (by simp)

/-- A MOVE inside the travel window ends what was left of an earlier one (R83), and without REPLACE sets the target (R52). -/
theorem takeUp_inside (ho : c.op = 0x20) (hu : (profOf s a (setOf c)).usable = true)
    (hrel : natBit (c.words.getD 0 0).toNat 0 = false) (h : outsideTravel s a (moveDist c) = false) :
    (takeUp a c s).get (F.AX_PLN_STAT.REMAIN_VALID a) = 0
      ∧ (natBit (c.words.getD 0 0).toNat 2 = false → jogOpen s a = false → ((takeUp a c s).mot a).target = moveDist c) := by
  obtain ⟨x, y, m, hm, he⟩ := takeMove_absolute hu hrel
  rw [takeUp_move ho, he]
  dsimp only
  rw [if_neg (by simp [outsideTravel_captured, h]), jogOpen_captured]
  constructor
  · have hC : planScope.le clipScope := planScope_le_clipScope
    have hR : recordScope.le clipScope := recordScope_le_planScope.trans hC
    have ha : a ∈ [a] := List.mem_cons_self
    have hr := Within.refl clipScope [a] (captured a (setOf c) s)
    have hw : Within clipScope [a] (captured a (setOf c) s)
        (if natBit (c.words.getD 0 0).toNat 2 then startCut a x (cancelWaiting a (captured a (setOf c) s))
          else if jogOpen s a then startCut a y (captured a (setOf c) s) else addMove a m (captured a (setOf c) s)) :=
      .ite (startCut_plans Scope.le_rfl ha _ (cancelWaiting_within hR ha hr))
        (.ite (startCut_plans Scope.le_rfl ha _ hr) (addMove_plans hC ha _ hr))
    rw [hw.fields _ (apart_clipScope (by dsimp; omega) (by simp [Fld.apart]))]
    exact captured_remain a s _
  · intro hrep hjog
    rw [if_neg (by rw [hrep]; exact Bool.false_ne_true), if_neg (by rw [hjog]; exact Bool.false_ne_true), addMove_target, hm]

end

theorem takeScope_covered (a : Axis) {f : Fld} (h : takeScope.fields a f) : Covered (F.AX_PLN_STAT.all a :: plannerFields) f := by
  rcases h with h | h
  · exact plannerField_covered h [_]
  · simp only [List.mem_cons, List.not_mem_nil, or_false] at h
    rcases h with rfl | rfl | rfl <;> exact Or.inr ⟨by simp, by simp⟩

theorem plannerTakeUp_acts {a : Axis} {c : QCmd} {s : State} (t0 : Nat) (hr : s.ip.running = true) (hq : s.whReq = [])
    (hc : canTakeUp s a = true) (hn : nextCmd s a = some c) : Completes (.plannerTakeUp a t0) s fun t =>
      OnlyAxes [a] s t ∧ t.now = max s.now t0 ∧ (∀ q ∈ t.ip.cmdq, q.seq ≠ c.seq)
        ∧ KeepsFields ((F.AX_PLN_STAT.all a) :: plannerFields) s t
        ∧ let raw := profOf s a ((c.words.getD 0 0).toNat / 16 % 4)
          ((c.op = 0x20 ∨ c.op = 0x21) → raw.usable = false → Decided c.seq t ∧ (t.mot a).queue = (s.mot a).queue
            ∧ ((c.op = 0x21 ∨ (s.mot a).chain = []) → t.ax a = s.ax a))
          ∧ (c.op = 0x23 → (s.axState a ≠ 5 ∨ s.get (F.AX_PLN_STAT.REMAIN_VALID a) = 0) → Decided c.seq t ∧ t.ax a = s.ax a)
          ∧ (c.op = 0x20 → raw.usable = true → natBit (c.words.getD 0 0).toNat 0 = false →
              (outsideTravel s a (moveDist c) = true → Decided c.seq t ∧ t.get (F.AX_PLN_STAT.LIMIT_REJ a) = 1)
              ∧ (outsideTravel s a (moveDist c) = false → t.get (F.AX_PLN_STAT.REMAIN_VALID a) = 0
                  ∧ (natBit (c.words.getD 0 0).toNat 2 = false → jogOpen s a = false → (t.mot a).target = moveDist c))) := by
  have hw : Within takeScope [a] (begun (s.at_ t0)) (takeUp a c (unqueue c.seq (begun (s.at_ t0)))) :=
    takeUp_takes Scope.le_rfl List.mem_cons_self c (unqueue_within
      (recordScope_le_planScope.trans (planScope_le_clipScope.trans clipScope_le_takeScope)) _ (.refl _ _ _))
  obtain ⟨hax, hnow, hkeep⟩ := hw.plannerFrame (fun _ _ h => h) fun f hf => takeScope_covered a hf
  refine completes_planner rfl hr (plannerTakeUp_eq hr hc hn) ((hw.whReq fun _ _ h => h).trans hq) ⟨hax, hnow, ?_, hkeep, ?_, ?_, ?_⟩
  · rw [settle_ip]
    exact takeUp_unqueued
  · intro ho hu
    obtain ⟨hd, hqu, hx⟩ := takeUp_unusable (s := unqueue c.seq (begun (s.at_ t0))) ho hu
    rw [settle_mot, settle_ax]
    exact ⟨hd.settled, hqu, hx⟩
  · intro ho hnot
    obtain ⟨hd, hx⟩ := takeUp_nothing (s := unqueue c.seq (begun (s.at_ t0))) ho hnot
    rw [settle_ax]
    exact ⟨hd.settled, hx⟩
  · intro ho hu hrel
    rw [settle_get, settle_get, settle_mot]
    constructor
    · intro hout
      obtain ⟨hd, hl⟩ := takeUp_outside (s := unqueue c.seq (begun (s.at_ t0))) ho hu hrel hout
      exact ⟨hd.settled, hl⟩
    · exact takeUp_inside (s := unqueue c.seq (begun (s.at_ t0))) ho hu hrel

end Sys2Proof.Machine

namespace Sys2Proof.Machine

/-! ### SEGMENT_COMPUTED -/

/-- The scope of a segment that is computed. -/
def computeScope : Scope where
  side := besideRecords
  keep x := { x with mot := MotionSt.reset }
  fields _ f := f = F.PLN_STATUS.WINDOW_HWM
  side_engine _ _ _ := rfl

theorem computeSeg_eq {b : Axis} {s : State} {sg : Seg} {rest : List Phase}
    (h : nextSeg (s.mot b).planEnd (s.mot b).phases = some (sg, rest)) :
    computeSeg b s =
      let u := s.modMot b fun m => { m with window := m.window ++ [sg], phases := rest, planEnd := sg.after }
      u.mark F.PLN_STATUS.WINDOW_HWM (windowUsed u) := by
  unfold computeSeg
  dsimp only
  rw [h]

theorem computeSeg_within {b : Axis} {s : State} {sg : Seg} {rest : List Phase}
    (h : nextSeg (s.mot b).planEnd (s.mot b).phases = some (sg, rest)) : Within computeScope [b] s (computeSeg b s) := by
  have ha : b ∈ [b] := List.mem_cons_self
  rw [computeSeg_eq h]
  exact ((Within.refl _ _ s).modMot ha fun _ => rfl).set _ ha rfl

theorem computeSeg_mot {b : Axis} {s : State} {sg : Seg} {rest : List Phase}
    (h : nextSeg (s.mot b).planEnd (s.mot b).phases = some (sg, rest)) : (computeSeg b s).mot b =
      { s.mot b with window := (s.mot b).window ++ [sg], phases := rest, planEnd := sg.after } := by
  rw [computeSeg_eq h]
  exact State.modMot_mot_self s b fun m => { m with window := m.window ++ [sg], phases := rest, planEnd := sg.after }

/-- What the planner takes up next is no part of the computation (R68). -/
theorem computeSeg_plnWork {b : Axis} {s : State} {sg : Seg} {rest : List Phase} (w : Option Axis)
    (h : nextSeg (s.mot b).planEnd (s.mot b).phases = some (sg, rest)) :
    { computeSeg b s with plnWork := w } = computeSeg b { s with plnWork := w } := by
  rw [computeSeg_eq h, computeSeg_eq (s := { s with plnWork := w }) h]
  rfl

theorem segmentComputed_eq {b : Axis} {s : State} (hr : s.ip.running = true)
    (hb : (s.plnWork.filter (computable s)).or (chooseWork s) = some b) :
    segmentComputed s = { computeSeg b s with plnWork := chooseWork (computeSeg b s) } := by
  unfold segmentComputed
  rw [if_neg (by simp [hr]), hb]

theorem segmentComputed_acts {b : Axis} {s : State} {sg : Seg} {rest : List Phase} (t0 : Nat) (hr : s.ip.running = true)
    (hq : s.whReq = []) (hb : ((s.plnWork.filter (computable s)).or (chooseWork (s.at_ t0))) = some b)
    (hn : nextSeg (s.mot b).planEnd (s.mot b).phases = some (sg, rest)) : Completes (.segmentComputed t0) s fun t =>
      OnlyAxes [b] { s with plnWork := t.plnWork } t ∧ t.now = max s.now t0 ∧ KeepsFields [F.PLN_STATUS.WINDOW_HWM] s t
        ∧ (t.mot b).window = (s.mot b).window ++ [sg] ∧ (t.mot b).phases = rest ∧ (t.mot b).planEnd = sg.after
        ∧ (t.mot b).queue = (s.mot b).queue := by
  let v := begun (s.at_ t0)
  let w := chooseWork (computeSeg b v)
  have hw : Within computeScope [b] (begun (State.at_ { s with plnWork := w } t0)) (computeSeg b { v with plnWork := w }) :=
    computeSeg_within hn
  obtain ⟨hax, hnow, hkeep⟩ := hw.plannerFrame (fun _ _ h => h) (l := [F.PLN_STATUS.WINDOW_HWM])
    fun f hf => Or.inl (List.mem_singleton.mpr hf)
  refine completes_planner rfl hr ((segmentComputed_eq (s := v) hr hb).trans (computeSeg_plnWork w hn))
    ((hw.whReq fun _ _ h => h).trans hq) ⟨hax, hnow, hkeep, ?_⟩
  rw [settle_mot, computeSeg_mot (s := { v with plnWork := w }) hn]
  exact ⟨rfl, rfl, rfl, rfl⟩

/-! ### SEGMENT_COMMIT -/

/-- The time an axis energises before a segment that finds it in FREE or SHORT (R90). -/
def commitWait (s : State) (a : Axis) : Nat := if needsEnergise s a then energiseTime s a else 0

/-- The scope of a segment that is committed. -/
def commitScope : Scope where
  side := besideRecords
  keep _ := AxisSt.reset
  fields a f := plannerField f ∨ f = F.AX_STATE.STATE a ∨ f ∈ bridgeFields a
  side_engine _ _ _ := rfl

/-- The scope of a segment that a stop of the executor makes offside (R84). -/
def offsideScope : Scope where
  side := besideRecords
  keep _ := AxisSt.reset
  fields a f := f = F.PLN_OFFSIDE.COUNT ∨ f ∈ bridgeFields a
  side_engine _ _ _ := rfl

theorem recordScope_le_commitScope : recordScope.le commitScope where
  side _ _ h := h
  keep _ _ _ := rfl
  fields _ _ h := Or.inl h

theorem bridgeScope_le_offsideScope : bridgeScope.le offsideScope where
  side _ _ h := congrArg (fun s : State => { s with ip := { s.ip with cmdq := [], ledger := [], log := [] } }) h
  keep _ _ _ := rfl
  fields _ _ h := Or.inr h

theorem offsideScope_le_commitScope : offsideScope.le commitScope where
  side _ _ h := h
  keep _ _ _ := rfl
  fields _ f h := h.imp (fun h : f = F.PLN_OFFSIDE.COUNT => by rw [h]; exact ⟨by decide, by decide⟩) Or.inr

section
variable {a : Axis} {s t : State}

theorem nextSample_congr (hp : t.pwm a = s.pwm a) (hg : ∀ g : Fld, 0x100000 ≤ g.addr → t.get g = s.get g) :
    nextSample t a = nextSample s a := by
  unfold nextSample pendPer perOf midUpd
  rw [hp, hg (F.AX_PWM_ACT.ACT a) (by dsimp; omega)]

theorem commitWait_congr (hm : t.mot a = s.mot a) (hg : ∀ g : Fld, 0x100000 ≤ g.addr → t.get g = s.get g) :
    commitWait t a = commitWait s a := by
  unfold commitWait needsEnergise energiseTime State.policyNow
  rw [hm, hg (F.AX_PLN_CFG.STILL_POLICY a) (by dsimp; omega), hg (F.AX_PLN_CFG.ENERGISE a) (by dsimp; omega)]

/-- The committed segment is counted (R66), and nothing of the engines with it. -/
theorem get_countSeg (s : State) {g : Fld} (hg : 0x100000 ≤ g.addr) : (s.inc F.PLN_SEGS.COUNT).get g = s.get g :=
  State.get_set_own _ _ (by dsimp; omega)

theorem nextSample_countSeg : nextSample (s.inc F.PLN_SEGS.COUNT) a = nextSample s a :=
  nextSample_congr rfl fun _ hg => get_countSeg s hg

theorem commitWait_countSeg : commitWait (s.inc F.PLN_SEGS.COUNT) a = commitWait s a :=
  commitWait_congr rfl fun _ hg => get_countSeg s hg

end

end Sys2Proof.Machine

namespace Sys2Proof.Machine

/-! ### A segment that is committed -/

section
variable {S : Scope} {l : List Axis} {a : Axis} {r s : State} (hS : commitScope.le S) (ha : a ∈ l)
include hS ha

theorem startState_commits (k : SegKind) (h : Within S l r s) : Within S l r (startState a k s) := by
  have hf : S.fields a (F.AX_STATE.STATE a) := hS.fields a _ (Or.inr (Or.inl rfl))
  unfold startState
  exact .ite (.ite (h.set _ ha hf) h) (.ite (h.set _ ha hf) h)

theorem completeLast_commits (sg : Seg) (h : Within S l r s) : Within S l r (completeLast a sg s) := by
  unfold completeLast
  exact .ite h (retire_within (recordScope_le_commitScope.trans hS) ha _ _ (h.modMot ha fun _ => hS.keep _ _ rfl))

theorem commitSeg_commits (sg : Seg) (h : Within S l r s) : Within S l r (commitSeg a sg s) := by
  have hm : ∀ {u : State} {f : MotionSt → MotionSt}, Within S l r u → Within S l r (u.modMot a f) := fun hu =>
    hu.modMot ha fun _ => hS.keep _ _ rfl
  have hi : Within S l r (s.inc F.PLN_SEGS.COUNT) := h.inc ha (hS.fields a _ (Or.inl ⟨by decide, by decide⟩))
  unfold commitSeg
  refine completeLast_commits hS ha sg ?_
  split
  · exact hm (.ite (hm hi) hi)
  · exact .ite (startState_commits hS ha _ (hm (hm hi))) (hm hi)

end

section
variable (a : Axis) (sg : Seg) (s : State)

/-- The end of a command leaves the segments (R91). -/
theorem completeLast_segments : ((completeLast a sg s).mot a).window = (s.mot a).window
    ∧ ((completeLast a sg s).mot a).queue = (s.mot a).queue ∧ ((completeLast a sg s).mot a).cutQueue = (s.mot a).cutQueue := by
  unfold completeLast
  split
  · exact ⟨rfl, rfl, rfl⟩
  · rw [retire_mot, State.modMot_mot_self]
    exact ⟨rfl, rfl, rfl⟩

theorem completeLast_get {g : Fld} (h1 : g.addr ≠ F.LAST_COMMITTED_SEQ.all.addr) (h2 : g.addr ≠ F.PLN_EVENTS.all.addr) :
    (completeLast a sg s).get g = s.get g := by
  unfold completeLast
  split
  · rfl
  · exact retire_get_apart _ _ _ h1 h2

theorem completeLast_decided {sg : Seg} (hl : sg.last = true) (hk : sg.kind ≠ .stop) : Decided sg.seq (completeLast a sg s) := by
  unfold completeLast
  rw [if_neg (by simp [hl, hk])]
  exact retire_decided _ _ _

theorem startState_get (k : SegKind) {g : Fld} (hg : g.addr ≠ (F.AX_STATE.STATE a).addr) : (startState a k s).get g = s.get g := by
  unfold startState
  dsimp only
  split
  · split
    · exact State.get_set_own _ _ hg
    · rfl
  · split
    · exact State.get_set_own _ _ hg
    · rfl

@[simp] theorem startState_mot (k : SegKind) (b : Axis) : (startState a k s).mot b = s.mot b := by
  unfold startState
  dsimp only
  split
  · split <;> rfl
  · split <;> rfl

theorem startState_moving {k : SegKind} (hk : k ≠ .stop) (h : s.axState a = 1) : (startState a k s).axState a = 2 := by
  unfold startState
  dsimp only
  rw [if_neg hk, if_pos (Or.inl h)]
  exact State.get_set_same _ _ _ (by simp) (by simp) (by simp)

theorem commitSeg_counts : (commitSeg a sg s).get F.PLN_SEGS.COUNT = counted s F.PLN_SEGS.COUNT := by
  have hi := inc_get_same s F.PLN_SEGS.COUNT (by decide) (by decide)
  unfold commitSeg
  rw [completeLast_get _ _ _ (by decide) (by decide)]
  split
  · rw [State.modMot_get]
    split
    · exact hi
    · exact hi
  · dsimp only
    split
    · rw [startState_get _ _ _ (by dsimp; omega)]
      exact hi
    · exact hi

theorem commitSeg_decided {sg : Seg} (hl : sg.last = true) (hk : sg.kind ≠ .stop) : Decided sg.seq (commitSeg a sg s) :=
  completeLast_decided a _ hl hk

theorem leaveStill_segments (e : Option Nat) : ((leaveStill a e s).mot a).window = (s.mot a).window
    ∧ ((leaveStill a e s).mot a).queue = (s.mot a).queue ∧ ((leaveStill a e s).mot a).cutQueue = (s.mot a).cutQueue := by
  unfold leaveStill
  rw [State.modMot_mot_self]
  exact ⟨rfl, rfl, rfl⟩

/-- `START` of a segment committed behind those of a pending cut, the first after the energising time where the axis stands still or
comes to rest unpowered (R77, R90). -/
def cutStart (s : State) (a : Axis) (c : Cut) : Nat :=
  (chainEndAt (s.mot a).cutQueue).getD (
    if ((s.mot a).cutQueue = [] ∧ atStandstill s a = true) ∨ freeUntil s a ≠ 0 then c.at_ + commitWait s a else c.at_) / nsT

/-- With a cut pending a segment joins those of the cut (R77). -/
theorem commitSeg_cut {c : Cut} (hc : (s.mot a).cut = some c) :
    ((commitSeg a sg s).mot a).window = (s.mot a).window.drop 1 ∧ ((commitSeg a sg s).mot a).queue = (s.mot a).queue
      ∧ ((commitSeg a sg s).mot a).cutQueue = (s.mot a).cutQueue ++ [{ sg with start := cutStart s a c }] := by
  have hw : (if needsEnergise (s.inc F.PLN_SEGS.COUNT) a = true then energiseTime (s.inc F.PLN_SEGS.COUNT) a else 0)
      = commitWait s a := commitWait_countSeg
  have hs : atStandstill (s.inc F.PLN_SEGS.COUNT) a = atStandstill s a := rfl
  have hf : freeUntil (s.inc F.PLN_SEGS.COUNT) a = freeUntil s a := rfl
  unfold commitSeg
  simp only [hc, hw, hs, hf]
  rw [(completeLast_segments a sg _).1, (completeLast_segments a sg _).2.1, (completeLast_segments a sg _).2.2,
    State.modMot_mot_self]
  generalize hu : (if (decide ((s.mot a).cutQueue = []) && atStandstill s a) = true then leaveStill a _ (s.inc F.PLN_SEGS.COUNT)
    else s.inc F.PLN_SEGS.COUNT) = u
  obtain ⟨h1, h2, h3⟩ : (u.mot a).window = (s.mot a).window ∧ (u.mot a).queue = (s.mot a).queue
      ∧ (u.mot a).cutQueue = (s.mot a).cutQueue := by
    rw [← hu]
    split
    · exact leaveStill_segments a (s.inc F.PLN_SEGS.COUNT) _
    · exact ⟨rfl, rfl, rfl⟩
  refine ⟨congrArg (List.drop 1) h1, h2, ?_⟩
  rw [h3, cutStart]
  cases chainEndAt (s.mot a).cutQueue with
  | some e => rfl
  | none => simp

/-- From standstill a segment starts at the next sample instant, after the energising time from FREE or SHORT (R58, R90). -/
theorem commitSeg_still (hc : (s.mot a).cut = none) (hl : liveSegs s.now (s.mot a).queue = []) :
    ((commitSeg a sg s).mot a).window = (s.mot a).window.drop 1
    ∧ ((commitSeg a sg s).mot a).queue = [{ sg with start := (nextSample s a + commitWait s a) / nsT }]
    ∧ (sg.kind ≠ .stop → s.axState a = 1 → (commitSeg a sg s).axState a = 2) := by
  have hw : (if needsEnergise (s.inc F.PLN_SEGS.COUNT) a = true then energiseTime (s.inc F.PLN_SEGS.COUNT) a else 0)
      = commitWait s a := commitWait_countSeg
  have hl' : liveSegs (s.inc F.PLN_SEGS.COUNT).now (s.mot a).queue = [] := hl
  unfold commitSeg
  simp only [hc, hw, hl', if_true, nextSample_countSeg]
  rw [(completeLast_segments a sg _).1, (completeLast_segments a sg _).2.1, startState_mot, State.modMot_mot_self]
  refine ⟨congrArg (List.drop 1) (leaveStill_segments a _ _).1, rfl, fun hk h1 => ?_⟩
  unfold State.axState
  rw [completeLast_get _ _ _ (by dsimp; omega) (by dsimp; omega)]
  refine startState_moving a _ hk ?_
  exact (get_countSeg s (by dsimp; omega)).trans h1

/-- Else it starts where the committed segments end (R58). -/
theorem commitSeg_behind (hc : (s.mot a).cut = none) (hl : liveSegs s.now (s.mot a).queue ≠ []) :
    ((commitSeg a sg s).mot a).window = (s.mot a).window.drop 1
    ∧ ((commitSeg a sg s).mot a).queue = liveSegs s.now (s.mot a).queue
      ++ [{ sg with start := (chainEndAt (liveSegs s.now (s.mot a).queue)).getD 0 / nsT }] := by
  have hl' : liveSegs (s.inc F.PLN_SEGS.COUNT).now (s.mot a).queue = liveSegs s.now (s.mot a).queue := rfl
  unfold commitSeg
  simp only [hc, hl', if_neg hl]
  rw [(completeLast_segments a sg _).1, (completeLast_segments a sg _).2.1, State.modMot_mot_self]
  refine ⟨rfl, ?_⟩
  cases chainEndAt (liveSegs s.now (s.mot a).queue) with
  | some e => rfl
  | none => simp

/-- Without a cut a segment follows the committed segments, or starts from standstill (R58, R90). -/
theorem commitSeg_behind_or_still (hc : (s.mot a).cut = none) :
    let live := liveSegs s.now (s.mot a).queue
    ((commitSeg a sg s).mot a).queue = live ++ [{ sg with start := (
        if live = [] then (nextSample s a + commitWait s a) / nsT else (chainEndAt live).getD 0 / nsT) }]
      ∧ (live = [] → sg.kind ≠ .stop → s.axState a = 1 → (commitSeg a sg s).axState a = 2) := by
  intro live
  by_cases hl : live = []
  · obtain ⟨-, hqueue, hmoving⟩ := commitSeg_still a sg s hc hl
    rw [if_pos hl, hl]
    exact ⟨hqueue, fun _ => hmoving⟩
  · rw [if_neg hl]
    exact ⟨(commitSeg_behind a sg s hc hl).2, fun h => absurd h hl⟩

/-- The window gives its first entry (R58). -/
theorem commitSeg_window : ((commitSeg a sg s).mot a).window = (s.mot a).window.drop 1 := by
  cases hc : (s.mot a).cut with
  | some c => exact (commitSeg_cut a sg s hc).1
  | none =>
    by_cases hl : liveSegs s.now (s.mot a).queue = []
    · exact (commitSeg_still a sg s hc hl).1
    · exact (commitSeg_behind a sg s hc hl).1

end

end Sys2Proof.Machine

namespace Sys2Proof.Machine

section
variable {a : Axis} {s : State} {sg : Seg} {rest : List Seg}

theorem segmentCommit_eq (hr : s.ip.running = true) (hw : (s.mot a).window = sg :: rest) (hn : stopRuns s a = false)
    (hd : commitDue s a = true) : segmentCommit a s = commitSeg a sg s := by
  unfold segmentCommit
  rw [if_neg (by simp [hr]), hw]
  dsimp only
  rw [if_neg (by simp [hn]), if_pos hd]

theorem segmentCommit_offside (hr : s.ip.running = true) (hw : (s.mot a).window ≠ []) (hn : stopRuns s a = true) :
    segmentCommit a s = discardWindow a s := by
  obtain ⟨sg, rest, hw⟩ := List.exists_cons_of_ne_nil hw
  unfold segmentCommit
  rw [if_neg (by simp [hr]), hw]
  exact if_pos hn

/-- The bridge follows a commit from FREE or SHORT (R90). -/
theorem commitEnergise_within : Within bridgeScope [a] (segmentCommit a s) (commitEnergise a s) := by
  unfold commitEnergise
  exact .ite (refreshEnergised_within Scope.le_rfl List.mem_cons_self (.refl _ _ _)) (.refl _ _ _)

variable (a s)

theorem commitEnergise_mot : (commitEnergise a s).mot a = (segmentCommit a s).mot a := by
  have := congrArg AxisSt.mot ((commitEnergise_within (a := a) (s := s)).own a)
  exact this

theorem commitEnergise_ip : (commitEnergise a s).ip = (segmentCommit a s).ip := by
  have := congrArg State.ip (commitEnergise_within (a := a) (s := s)).side
  exact this

theorem commitEnergise_get {g : Fld} (hg : ∀ f ∈ bridgeFields a, g.apart f) :
    (commitEnergise a s).get g = (segmentCommit a s).get g :=
  commitEnergise_within.fields g fun _ hb f hf => hg f (List.mem_singleton.mp hb ▸ hf)

end

/-- The fields of a bridge as the statements name them. -/
theorem bridgeField_covered {a : Axis} {f : Fld} (h : f ∈ bridgeFields a) {l : List Fld}
    (hl : ∀ g ∈ [F.AX_STATE.ENERGISED a, F.AX_CC_FLAG.all a, F.AX_LA_STAT.ECO_SCALE a, F.AX_LA_STAT.ECO_ACT a], g ∈ l) :
    Covered l f := by
  simp only [List.forall_mem_cons] at hl
  obtain ⟨he, hc, hs, ha, -⟩ := hl
  simp only [bridgeFields, List.mem_cons, List.not_mem_nil, or_false] at h
  rcases h with rfl | rfl | rfl | rfl | rfl | rfl | rfl
  · exact Or.inl he
  · exact Or.inr ⟨by simp, hc⟩
  · exact Or.inr ⟨by simp, hc⟩
  · exact Or.inr ⟨by simp, hc⟩
  · exact Or.inr ⟨by simp, hc⟩
  · exact Or.inl hs
  · exact Or.inl ha

theorem segmentCommit_acts {a : Axis} {s : State} {sg : Seg} {rest : List Seg} (t0 : Nat) (hr : s.ip.running = true)
    (hq : s.whReq = []) (hw : (s.mot a).window = sg :: rest) (hd : commitDue (s.at_ t0) a = true)
    (hn : stopRuns (s.at_ t0) a = false) : Completes (.segmentCommit a t0) s fun t =>
      let m := s.mot a
      let live := liveSegs (max s.now t0) m.queue
      let wait := if needsEnergise s a then energiseTime s a else 0
      OnlyAxes [a] s t ∧ t.now = max s.now t0
        ∧ KeepsFields ([F.AX_STATE.STATE a, F.AX_STATE.ENERGISED a, F.AX_CC_FLAG.all a, F.AX_LA_STAT.ECO_SCALE a, F.AX_LA_STAT.ECO_ACT a]
            ++ plannerFields) s t
        ∧ t.get F.PLN_SEGS.COUNT = counted s F.PLN_SEGS.COUNT ∧ (t.mot a).window = rest
        ∧ (sg.last = true → sg.kind ≠ .stop → Decided sg.seq t)
        ∧ (m.cut = none → (t.mot a).queue = live ++ [{ sg with start := (
            if live = [] then (nextSample s a + wait) / nsT else (chainEndAt live).getD 0 / nsT) }]
          ∧ (live = [] → sg.kind ≠ .stop → s.axState a = 1 → t.axState a = 2))
        ∧ (∀ c : Cut, m.cut = some c → (t.mot a).queue = m.queue ∧ (t.mot a).cutQueue = m.cutQueue ++ [{ sg with start := (
            (chainEndAt m.cutQueue).getD (
              if (m.cutQueue = [] ∧ atStandstill s a = true) ∨ freeUntil s a ≠ 0 then c.at_ + wait else c.at_)) / nsT }]) := by
  let v := begun (s.at_ t0)
  have he : segmentCommit a v = commitSeg a sg v := segmentCommit_eq hr hw hn hd
  have hmot : (commitEnergise a v).mot a = (commitSeg a sg v).mot a := he ▸ commitEnergise_mot a v
  have hip : (commitEnergise a v).ip = (commitSeg a sg v).ip := he ▸ commitEnergise_ip a v
  have hget : ∀ {g : Fld}, (∀ f ∈ bridgeFields a, g.apart f) → (commitEnergise a v).get g = (commitSeg a sg v).get g :=
    fun hg => he ▸ commitEnergise_get a v hg
  have hin : Within commitScope [a] v (commitEnergise a v) :=
    (commitSeg_commits (s := v) Scope.le_rfl List.mem_cons_self sg (.refl _ _ _)).trans
      (he ▸ commitEnergise_within.widen (bridgeScope_le_offsideScope.trans offsideScope_le_commitScope))
  obtain ⟨hax, hnow, hkeep⟩ := hin.plannerFrame (l := [F.AX_STATE.STATE a, F.AX_STATE.ENERGISED a, F.AX_CC_FLAG.all a,
      F.AX_LA_STAT.ECO_SCALE a, F.AX_LA_STAT.ECO_ACT a] ++ plannerFields) (fun _ _ h => h) fun f hf => by
    rcases hf with hf | rfl | hf
    · exact plannerField_covered hf _
    · exact Or.inl (by simp)
    · exact bridgeField_covered hf (by simp)
  refine completes_planner rfl hr rfl ((hin.whReq fun _ _ h => h).trans hq) ⟨hax, hnow, hkeep, ?_, ?_, ?_, ?_, ?_⟩
  · rw [settle_get, hget (by simp [bridgeFields, Fld.apart]; omega)]
    exact commitSeg_counts a sg v
  · rw [settle_mot, hmot, commitSeg_window]
    exact congrArg (List.drop 1) hw
  · exact fun hl hk => ((commitSeg_decided a v hl hk).congr (congrArg InterpSt.ledger hip)).settled
  · intro hc
    obtain ⟨hqueue, hmoving⟩ := commitSeg_behind_or_still a sg v hc
    rw [settle_mot, hmot]
    refine ⟨hqueue, fun hl hk h1 => ?_⟩
    unfold State.axState
    rw [settle_get, hget (by simp [bridgeFields, Fld.apart])]
    exact hmoving hl hk h1
  · intro c hc
    rw [settle_mot, hmot]
    obtain ⟨-, h2, h3⟩ := commitSeg_cut a sg v hc
    exact ⟨h2, h3⟩

end Sys2Proof.Machine

namespace Sys2Proof.Machine

/-! ### A segment that a stop of the executor makes offside -/

section
variable (a : Axis) (s : State)

theorem discardWindow_offside {S : Scope} {l : List Axis} {r : State} (hS : offsideScope.le S) (ha : a ∈ l) (h : Within S l r s) :
    Within S l r (discardWindow a s) := by
  have hm : ∀ f, Within S l r (s.modMot a f) := fun _ => h.modMot ha fun _ => hS.keep _ _ rfl
  unfold discardWindow countOffside
  exact .ite (hm _) ((hm _).count _ ha (hS.fields a _ (Or.inl rfl)))

/-- The window goes with what is planned behind it (R72, R73). -/
theorem discardWindow_mot : (discardWindow a s).mot a = { s.mot a with window := [], phases := [], planEnd := committedEnd (s.mot a) } := by
  unfold discardWindow
  rw [countOffside_mot, State.modMot_mot_self]

theorem discardWindow_counts : (discardWindow a s).get F.PLN_OFFSIDE.COUNT
    = min (s.get F.PLN_OFFSIDE.COUNT + (s.mot a).window.length) (2 ^ 32 - 1) := by
  have hmax := get_le_max s F.PLN_OFFSIDE.COUNT
  unfold discardWindow countOffside
  dsimp only
  split
  case isTrue h =>
    rw [h, State.modMot_get]
    exact (Nat.min_eq_left hmax).symm
  case isFalse => exact State.get_set_same _ _ _ (by decide) (by decide) (by dsimp only [satAdd, fieldMax]; omega)

end

theorem segmentCommit_discards {a : Axis} {s : State} (t0 : Nat) (hr : s.ip.running = true) (hq : s.whReq = [])
    (hw : (s.mot a).window ≠ []) (hn : stopRuns (s.at_ t0) a = true) : Completes (.segmentCommit a t0) s fun t =>
      OnlyAxes [a] s t ∧ t.now = max s.now t0 ∧ KeepsFields [F.PLN_OFFSIDE.COUNT, F.AX_STATE.ENERGISED a, F.AX_CC_FLAG.all a,
          F.AX_LA_STAT.ECO_SCALE a, F.AX_LA_STAT.ECO_ACT a] s t
        ∧ t.get F.PLN_OFFSIDE.COUNT = min (s.get F.PLN_OFFSIDE.COUNT + (s.mot a).window.length) (2 ^ 32 - 1)
        ∧ (t.mot a).window = [] ∧ (t.mot a).phases = [] ∧ (t.mot a).queue = (s.mot a).queue := by
  let v := begun (s.at_ t0)
  have he : segmentCommit a v = discardWindow a v := segmentCommit_offside hr hw hn
  have hin : Within offsideScope [a] v (commitEnergise a v) :=
    (discardWindow_offside a v Scope.le_rfl List.mem_cons_self (.refl _ _ _)).trans
      (he ▸ commitEnergise_within.widen bridgeScope_le_offsideScope)
  obtain ⟨hax, hnow, hkeep⟩ := hin.plannerFrame (l := [F.PLN_OFFSIDE.COUNT, F.AX_STATE.ENERGISED a, F.AX_CC_FLAG.all a,
      F.AX_LA_STAT.ECO_SCALE a, F.AX_LA_STAT.ECO_ACT a]) (fun _ _ h => h) fun f hf => by
    rcases hf with rfl | hf
    · exact Or.inl (by simp)
    · exact bridgeField_covered hf (by simp)
  refine completes_planner rfl hr rfl ((hin.whReq fun _ _ h => h).trans hq) ⟨hax, hnow, hkeep, ?_, ?_⟩
  · rw [settle_get, commitEnergise_get a v (by simp [bridgeFields, Fld.apart]; omega), he, discardWindow_counts]
    rfl
  · rw [settle_mot, commitEnergise_mot, he, discardWindow_mot]
    exact ⟨rfl, rfl, rfl⟩

/-! ### PLANNER_STOP_RECORD -/

/-- The position a stop has come to or comes to (R81). -/
def stopRest (m : MotionSt) : Int := match m.brake with | some b => b.endPos | none => m.pos

/-- The scope of a stop that is recorded. -/
def stopScope : Scope where
  side := besideRecords
  keep _ := AxisSt.reset
  fields a f := plannerField f ∨ f = F.AX_PLN_STAT.REMAIN_VALID a
  side_engine _ _ _ := rfl

theorem planScope_le_stopScope : planScope.le stopScope where
  side _ _ h := h
  keep _ _ _ := rfl
  fields _ _ h := Or.inl h

theorem stopScope_covered (a : Axis) {f : Fld} (h : stopScope.fields a f) :
    Covered (F.AX_PLN_STAT.REMAIN_VALID a :: plannerFields) f := by
  rcases h with h | rfl
  · exact plannerField_covered h [_]
  · exact Or.inl List.mem_cons_self

section
variable {S : Scope} {l : List Axis} {a : Axis} {r s : State} (hS : stopScope.le S) (ha : a ∈ l)
include hS ha

theorem recordStop_stops (rest : Int) (goal : Option Int) (h : Within S l r s) : Within S l r (recordStop a rest goal s) := by
  have hm : ∀ f, Within S l r (s.modMot a f) := fun _ => h.modMot ha fun _ => hS.keep _ _ rfl
  have hf : S.fields a (F.AX_PLN_STAT.REMAIN_VALID a) := hS.fields a _ (Or.inr rfl)
  unfold recordStop
  split
  · exact (hm _).set _ ha hf
  · exact (hm _).set _ ha hf

theorem recordIfDue_stops (t : Nat) (h : Within S l r s) : Within S l r (recordIfDue a t s) := by
  have hm : ∀ f, Within S l r (s.modMot a f) := fun _ => h.modMot ha fun _ => hS.keep _ _ rfl
  unfold recordIfDue
  dsimp only
  split
  · exact h
  · exact .ite (recordStop_stops hS ha _ _ (hm _)) (hm _)

end

section
variable (a : Axis) (s : State)

/-- A record of a stop sets the target, and with a MOVE left unfinished what remains of it (R81). -/
theorem recordStop_mot (rest : Int) (goal : Option Int) : (recordStop a rest goal s).mot a = { s.mot a with
    target := rest
    remain := match goal with | some g => g - rest | none => (s.mot a).remain
    resumeGoal := goal.getD (s.mot a).resumeGoal } := by
  unfold recordStop
  cases goal with
  | some g => exact State.modMot_mot_self s a fun m => { m with target := rest, remain := g - rest, resumeGoal := g }
  | none => exact State.modMot_mot_self s a fun m => { m with target := rest }

theorem recordStop_remain (rest : Int) (goal : Option Int) :
    (recordStop a rest goal s).get (F.AX_PLN_STAT.REMAIN_VALID a) = if goal.isSome then 1 else 0 := by
  unfold recordStop
  cases goal with
  | some g => exact State.get_set_same _ _ _ (by simp) (by simp) (by simp)
  | none => exact State.get_set_same _ _ _ (by simp) (by simp) (by simp)

theorem recordIfDue_late {s : State} {n t : Nat} (h : (s.mot a).recordDue = some n) (hn : t < n) :
    recordIfDue a t s = s.modMot a fun m => { m with recordDue := none } := by
  unfold recordIfDue
  simp only [h]
  exact if_neg (by omega)

theorem recordIfDue_due {s : State} {n t : Nat} (h : (s.mot a).recordDue = some n) (hn : n ≤ t) :
    recordIfDue a t s = recordStop a (stopRest (s.mot a)) (s.mot a).stopGoal (s.modMot a fun m => { m with recordDue := none }) := by
  unfold recordIfDue
  simp only [h]
  exact if_pos hn

theorem plannerStopRecord_cut {s : State} {n : Nat} {c : Cut} (hr : s.ip.running = true) (hn : (s.mot a).recordDue = some n)
    (hc : (s.mot a).cut = some c) :
    plannerStopRecord a s = if n ≤ c.at_ then cancelWaiting a (recordIfDue a c.at_ s) else recordIfDue a c.at_ s := by
  unfold plannerStopRecord
  simp [hr, hn, hc]

/-- The stop recorded, with what is open of the axis to be cancelled (R81). -/
def stopRecorded (a : Axis) (s : State) : State :=
  (discardWindow a (recordStop a (stopRest (s.mot a)) (s.mot a).stopGoal s)).modMot a fun m => { m with
    recordDue := none, chain := [], jogSeq := none, planEnd := { p := stopRest (s.mot a), v := 0, a := 0 } }

theorem plannerStopRecord_ends {s : State} {n : Nat} (hr : s.ip.running = true) (hn : (s.mot a).recordDue = some n)
    (hc : (s.mot a).cut = none) :
    plannerStopRecord a s = cancelWaiting a (retireAll (openSeqs (s.mot a)) .cancelled (stopRecorded a s)) := by
  unfold plannerStopRecord
  dsimp only
  rw [if_neg (by simp [hr, hn])]
  simp only [hc]
  rfl

/-- A plan leaves the registers of the engines (R91 to R95). -/
theorem Within.planned_get {a : Axis} {s t : State} (h : Within planScope [a] s t) {g : Fld} (hg : 0x100000 ≤ g.addr) :
    t.get g = s.get g :=
  h.fields g fun _ _ f hf => by
    have := plannerField_low hf
    exact Or.inl (by omega)

theorem stopRecorded_planned : Within planScope [a] (recordStop a (stopRest (s.mot a)) (s.mot a).stopGoal s) (stopRecorded a s) :=
  .plans Scope.le_rfl List.mem_cons_self (discardWindow_plans Scope.le_rfl List.mem_cons_self (.refl _ _ _))

/-- What is open of the axis is cancelled without a plan (R81, R353). -/
theorem cancelled_planned (q : List (BitVec 16)) : Within planScope [a] s (cancelWaiting a (retireAll q .cancelled s)) :=
  cancelWaiting_within recordScope_le_planScope List.mem_cons_self
    (retireAll_within recordScope_le_planScope List.mem_cons_self _ _ (.refl _ _ _))

theorem stopRecorded_mot : (stopRecorded a s).mot a = { s.mot a with
    target := stopRest (s.mot a)
    remain := match (s.mot a).stopGoal with | some g => g - stopRest (s.mot a) | none => (s.mot a).remain
    resumeGoal := (s.mot a).stopGoal.getD (s.mot a).resumeGoal
    window := [], phases := [], recordDue := none, chain := [], jogSeq := none
    planEnd := { p := stopRest (s.mot a), v := 0, a := 0 } } := by
  unfold stopRecorded
  rw [State.modMot_mot_self, discardWindow_mot, recordStop_mot]

end

theorem plannerStopRecord_beside_cut {a : Axis} {s : State} {n : Nat} {c : Cut} (t0 : Nat) (hr : s.ip.running = true)
    (hq : s.whReq = []) (hn : (s.mot a).recordDue = some n) (hc : (s.mot a).cut = some c) :
    Completes (.plannerStopRecord a t0) s fun t =>
      OnlyAxes [a] s t ∧ t.now = max s.now t0 ∧ KeepsFields ((F.AX_PLN_STAT.REMAIN_VALID a) :: plannerFields) s t
        ∧ (t.mot a).recordDue = none ∧ (t.mot a).cut = (s.mot a).cut ∧ (t.mot a).window = (s.mot a).window
        ∧ (t.mot a).phases = (s.mot a).phases
        ∧ (c.at_ < n → t.regs = s.regs ∧ t.ip = s.ip)
        ∧ (n ≤ c.at_ → (t.mot a).target = stopRest (s.mot a)
            ∧ ∀ q ∈ t.ip.cmdq, ¬ (q.axis.toNat = a.val ∧ 0x20 ≤ q.op.toNat ∧ q.op.toNat < 0x40)) := by
  let v := begun (s.at_ t0)
  have hdue : Within stopScope [a] v (recordIfDue a c.at_ v) := recordIfDue_stops Scope.le_rfl List.mem_cons_self _ (.refl _ _ _)
  have he := plannerStopRecord_cut a (s := v) hr hn hc
  have hin : Within stopScope [a] v (plannerStopRecord a v) := by
    rw [he]
    exact .ite (cancelWaiting_within (recordScope_le_planScope.trans planScope_le_stopScope) List.mem_cons_self hdue) hdue
  obtain ⟨hax, hnow, hkeep⟩ := hin.plannerFrame (fun _ _ h => h) fun f hf => stopScope_covered a hf
  refine completes_planner rfl hr rfl ((hin.whReq fun _ _ h => h).trans hq) ⟨hax, hnow, hkeep, ?_⟩
  rw [settle_mot, settle_regs, settle_ip]
  by_cases hle : n ≤ c.at_
  · rw [he, if_pos hle, cancelWaiting_mot, recordIfDue_due a (s := v) hn hle, recordStop_mot, State.modMot_mot_self]
    exact ⟨rfl, rfl, rfl, rfl, fun h => absurd hle (by omega), fun _ => ⟨rfl, cancelWaiting_none a _⟩⟩
  · rw [he, if_neg hle, recordIfDue_late a (s := v) hn (by omega), State.modMot_mot_self]
    exact ⟨rfl, rfl, rfl, rfl, fun _ => ⟨rfl, rfl⟩, fun h => absurd h hle⟩

theorem plannerStopRecord_at_rest {a : Axis} {s : State} {n : Nat} (t0 : Nat) (hr : s.ip.running = true)
    (hq : s.whReq = []) (hn : (s.mot a).recordDue = some n) (hc : (s.mot a).cut = none) :
    Completes (.plannerStopRecord a t0) s fun t =>
      let m := s.mot a
      let rest := stopRest m
      OnlyAxes [a] s t ∧ t.now = max s.now t0 ∧ KeepsFields ((F.AX_PLN_STAT.REMAIN_VALID a) :: plannerFields) s t
        ∧ (t.mot a).recordDue = none ∧ (t.mot a).target = rest ∧ (t.mot a).window = [] ∧ (t.mot a).phases = []
        ∧ (t.mot a).chain = []
        ∧ (∀ g, m.stopGoal = some g → (t.mot a).remain = g - rest ∧ t.get (F.AX_PLN_STAT.REMAIN_VALID a) = 1)
        ∧ (m.stopGoal = none → t.get (F.AX_PLN_STAT.REMAIN_VALID a) = 0)
        ∧ (∀ q ∈ openSeqs m, Decided q t)
        ∧ ∀ c ∈ t.ip.cmdq, ¬ (c.axis.toNat = a.val ∧ 0x20 ≤ c.op.toNat ∧ c.op.toNat < 0x40) := by
  let v := begun (s.at_ t0)
  let w := stopRecorded a v
  have he : plannerStopRecord a v = cancelWaiting a (retireAll (openSeqs (s.mot a)) .cancelled w) := plannerStopRecord_ends a hr hn hc
  have hplan : Within planScope [a] (recordStop a (stopRest (s.mot a)) (s.mot a).stopGoal v) (plannerStopRecord a v) :=
    he ▸ (stopRecorded_planned a v).trans (cancelled_planned a w _)
  have hin : Within stopScope [a] v (plannerStopRecord a v) :=
    (recordStop_stops Scope.le_rfl List.mem_cons_self _ _ (.refl _ _ v)).trans (hplan.widen planScope_le_stopScope)
  have hremain : (plannerStopRecord a v).get (F.AX_PLN_STAT.REMAIN_VALID a) = if (s.mot a).stopGoal.isSome then 1 else 0 := by
    rw [hplan.planned_get (by dsimp; omega), recordStop_remain]
  have hmot : (plannerStopRecord a v).mot a = w.mot a := by rw [he, cancelWaiting_mot, retireAll_mot]
  obtain ⟨hax, hnow, hkeep⟩ := hin.plannerFrame (fun _ _ h => h) fun f hf => stopScope_covered a hf
  refine completes_planner rfl hr rfl ((hin.whReq fun _ _ h => h).trans hq) ⟨hax, hnow, hkeep, ?_⟩
  rw [settle_mot, settle_get, settle_ip, hremain, hmot, stopRecorded_mot]
  refine ⟨rfl, rfl, rfl, rfl, rfl, fun g hg => ?_, fun hg => ?_, fun q hq => ?_, ?_⟩
  · have hv : (v.mot a).stopGoal = some g := hg
    rw [hg]
    simp only [hv]
    exact ⟨rfl, rfl⟩
  · rw [hg]
    rfl
  · rw [he]
    exact ((retireAll_decided hq _ _).cancelWaiting a).settled
  · rw [he]
    exact cancelWaiting_none a _

/-- Settles O24: each event of the planner by its own rule. -/
theorem plannerEventsMoveTheSegments : Obligations.PlannerEventsMoveTheSegments := by
  unfold Obligations.PlannerEventsMoveTheSegments
  intro a s t0 hr hq
  exact ⟨fun c => plannerTakeUp_acts t0 hr hq, fun b sg rest => segmentComputed_acts t0 hr hq,
    fun sg rest => segmentCommit_acts t0 hr hq, segmentCommit_discards t0 hr hq,
    fun n c => plannerStopRecord_beside_cut t0 hr hq, fun n => plannerStopRecord_at_rest t0 hr hq⟩

end Sys2Proof.Machine


/-! # Events of the executor and of the period timer that the statements get wrong -/

namespace Sys2Proof.Machine

/-- What a test finds in the next state holds of the state the command completes in. -/
theorem Tests.after_next {c : Instr} {s t : State} {P : State → Bool} (h : Tests.after c s P = true) (ht : exec c s = .next t) :
    P t = true := by
  simpa only [Tests.after, ht] using h

/-- A GEAR follower that leaves its channel by a stop, so EXITING and MOVING, and whose committed segment ends in motion
after 1 ms. -/
def exitingFollower : State :=
  (Tests.setAll [(F.AX_FOLLOW_STAT.SRC 0, 2), (F.AX_FOLLOW_STAT.FSTATE 0, 4), (F.AX_STATE.STATE 0, 2)] Tests.ready0).modMot 0
    fun m => { m with queue := [Tests.seg1 (2 ^ 32)] }

/-- A follower that starves stays MOVING while it brakes (R99): STATE 4 (STOPPING) is for an axis that follows nothing. -/
theorem starvation_exitingFollower_stays_moving :
    Tests.after (.starvation 0 8000000) exitingFollower (fun t => t.axState 0 == 2) = true := by decide +kernel

/-- Refutes O25: a follower that starves brakes without STATE 4; it is EXITING and stays MOVING (R99). -/
theorem not_executorEventsOfAnAxis : ¬ Obligations.ExecutorEventsOfAnAxis := by
  unfold Obligations.ExecutorEventsOfAnAxis
  intro h
  obtain ⟨-, hStarve, -⟩ := h 0 exitingFollower (by decide +kernel)
  obtain ⟨t, hexec, -, -, -, -, hstate, -⟩ := hStarve 8000000 8000000 (by decide +kernel) le_rfl (by decide +kernel)
    (by decide +kernel) (by decide +kernel)
  have hmoving : t.axState 0 = 2 := by
    simpa using Tests.after_next starvation_exitingFollower_stays_moving hexec
  have hwas : exitingFollower.axState 0 = 2 := by decide +kernel
  rw [hwas, if_pos (Or.inl rfl), hmoving] at hstate
  exact absurd hstate (by decide)

/-- A stop of a stall reaction that ends 125 µs after the start of time. -/
def unpoweredStop : Brake := { why := .stall, from_ := 0, p0 := 0, at_ := 1000000, base := { p := 0, v := 0, a := 0 } }

/-- An axis that decelerates unpowered under STOP_FREE, with a JOG pending for the end of that stop and its period boundary
due. -/
def jogAfterStall : State :=
  (Tests.ready0.modMot 0 fun m => { m with cut := some (Tests.cut1 .jog), brake := some unpoweredStop, stallHold := some true }).modPwm 0
    fun p => { p with periodDue := true, timer := { run := true, next := 100000, nextIsPeriod := false, periodAt := 0 } }

/-- The cut instant that a period boundary plans again waits for the end of the unpowered stop (R90, R180). -/
theorem periodBoundary_jogAfterStall_waits_for_stop :
    Tests.after (.periodBoundary (.axis 0)) jogAfterStall
      (fun t => (t.mot 0).cut.all fun c => c.at_ != halfAfter t 0 c.due) = true := by decide +kernel

/-- Refutes O28: a cut pending behind an unpowered stop under STOP_FREE (R180) is planned again for the first half-period
boundary at or after the end of that stop, not after the instant it was due. -/
theorem not_periodBoundariesLegEdgesAndTableCopies : ¬ Obligations.PeriodBoundariesLegEdgesAndTableCopies := by
  unfold Obligations.PeriodBoundariesLegEdgesAndTableCopies
  intro h
  obtain ⟨hAxis, -⟩ := h jogAfterStall (by decide +kernel)
  obtain ⟨t, hexec, -, -, -, -, -, -, -, hcut, -⟩ := hAxis 0 (by decide +kernel) (by decide +kernel)
  obtain ⟨c1, hc1, hdue, hat⟩ := hcut (Tests.cut1 .jog) (by decide +kernel)
  have hwaits := Tests.after_next periodBoundary_jogAfterStall_waits_for_stop hexec
  simp [hc1, hdue, hat] at hwaits

end Sys2Proof.Machine

/-! # Step edges and master channels (R102 to R112, R129) -/

namespace Sys2Proof.Machine

/-! ### Step edges -/

theorem State.modFol_congr {s : State} {a : Axis} {f g : FollowSt → FollowSt} (h : f (s.fol a) = g (s.fol a)) :
    s.modFol a f = s.modFol a g := by
  have hx : ({ s.ax a with fol := f (s.ax a).fol } : AxisSt) = { s.ax a with fol := g (s.ax a).fol } := by
    rw [show f (s.ax a).fol = g (s.ax a).fol from h]
  exact congrArg (fun x => { s with axes := s.axes.set a x }) hx

/-- The level of `AXnn_DIR` in force at a step edge (R103). -/
def dirAt (s : State) (a : Axis) (dir : Held) : Bool :=
  if dir.len < filterLen (s.get (F.AX_STEP_CFG.STP_FILT a)) then (s.fol a).dirLevel else dir.high

/-- The direction of a step edge (R102). -/
def edgeDir (s : State) (a : Axis) (dir : Held) : Int := stepDir s a (dirAt s a dir)

/-- The filters of an axis take no new level of `AXnn_STP` from an edge (R103). -/
def edgeIgnored (s : State) (a : Axis) (rising : Bool) (x : Level) : Prop :=
  s.axOn a = false ∨ x.len < filterLen (s.get (F.AX_STEP_CFG.STP_FILT a)) ∨ (s.fol a).stpLevel = rising

/-- The levels held of both pins after an accepted edge (R103). -/
def State.edgeHeld (s : State) (a : Axis) (rising : Bool) (dir : Held) (x : Level) : State :=
  (s.at_ x.t).modFol a fun f => { f with dirLevel := dirAt s a dir, stpLevel := rising }

/-- An edge that counts (R104), after the levels held. -/
def State.edgeCounted (s : State) (a : Axis) (rising : Bool) (dir : Held) (x : Level) : State :=
  (s.edgeHeld a rising dir x).setS (F.AX_STEP_CNT.CNT a) (s.getS (F.AX_STEP_CNT.CNT a) + edgeDir s a dir)

section
variable {s : State} {a : Axis} {rising : Bool} {dir : Held} {x : Level}

/-- The check of `stepEdge` on the levels. -/
theorem edgeIgnored_iff : (¬ s.axOn a = true ∨ x.len < filterLen (s.get (F.AX_STEP_CFG.STP_FILT a)) ∨ rising = (s.fol a).stpLevel)
    ↔ edgeIgnored s a rising x := by
  rw [Bool.not_eq_true, eq_comm (a := rising)]
  rfl

theorem stepEdge_ignored (h : edgeIgnored s a rising x) : stepEdge a rising dir x s = s.at_ x.t := if_pos (edgeIgnored_iff.mpr h)

/-- An accepted edge counts where the source is STEPDIR and the edge is active (R102). -/
theorem stepEdge_accepted (h : ¬ edgeIgnored s a rising x) : stepEdge a rising dir x s =
    if s.src a ≠ 1 ∨ ¬ stepActive s a rising then s.edgeHeld a rising dir x
    else if (s.gd a).ena then stepInterp a x.t (edgeDir s a dir) (s.edgeCounted a rising dir x)
    else (s.edgeCounted a rising dir x).inc (F.AX_STEP_IGN.IGN a) := by
  have hh : ((s.at_ x.t).modFol a fun f => { f with
      dirLevel := if dir.len < filterLen (s.get (F.AX_STEP_CFG.STP_FILT a)) then f.dirLevel else dir.high, stpLevel := rising })
      = s.edgeHeld a rising dir x := State.modFol_congr rfl
  have hfol : (s.edgeHeld a rising dir x).fol a = { s.fol a with dirLevel := dirAt s a dir, stpLevel := rising } :=
    State.modFol_fol_self _ _ _
  have hgd : (s.edgeCounted a rising dir x).gd a = s.gd a := by simp [State.edgeCounted, State.edgeHeld]
  unfold stepEdge
  dsimp only
  refine (if_neg (mt edgeIgnored_iff.mp h)).trans ?_
  rw [State.at_get, hh, hfol, ← hgd]
  rfl

/-- An active edge that STEPDIR accepts counts by its direction, and moves the target with `AXnn_ENA` (R104). -/
theorem stepEdge_counts (h : ¬ edgeIgnored s a rising x) (hs : s.src a = 1) (hx : stepActive s a rising = true) :
    stepEdge a rising dir x s =
      if (s.gd a).ena then stepInterp a x.t (edgeDir s a dir) (s.edgeCounted a rising dir x)
      else (s.edgeCounted a rising dir x).inc (F.AX_STEP_IGN.IGN a) :=
  (stepEdge_accepted h).trans (if_neg (not_or.mpr ⟨not_not.mpr hs, not_not.mpr hx⟩))

/-- The scope of the interpolation of R105. -/
def stepScope : Scope where
  side := besideRecords
  keep x := { x with fol := FollowSt.reset }
  fields a f := f ∈ [F.AX_STEP_CNT.CNT a, F.AX_FOLLOW_STAT.STEP_FAST a]
  side_engine _ _ _ := rfl

/-- The interpolation changes the follower, whose target moves by the weight and which notes the edge, and reports a velocity
above its limit (R102, R105, R106). -/
theorem stepInterp_cases (a : Axis) (t : Nat) (d : Int) (s : State) : ∃ f : FollowSt → FollowSt,
    ((f (s.fol a)).stepT = (s.fol a).stepT + d * stepWeight s a ∧ (f (s.fol a)).stepLast = some (t, d))
      ∧ (stepInterp a t d s = s.modFol a f ∨ stepInterp a t d s = (s.modFol a f).raise (F.AX_FOLLOW_STAT.STEP_FAST a)) := by
  unfold stepInterp
  dsimp only
  split
  · exact ⟨_, ⟨rfl, rfl⟩, Or.inl rfl⟩
  · split
    · exact ⟨_, ⟨rfl, rfl⟩, Or.inr rfl⟩
    · exact ⟨_, ⟨rfl, rfl⟩, Or.inl rfl⟩

theorem stepInterp_within {l : List Axis} {r : State} (ha : a ∈ l) (t : Nat) (d : Int) (h : Within stepScope l r s) :
    Within stepScope l r (stepInterp a t d s) := by
  obtain ⟨f, -, he | he⟩ := stepInterp_cases a t d s <;> rw [he]
  · exact h.modFol ha fun _ => rfl
  · exact (h.modFol ha fun _ => rfl).raise ha (by simp [stepScope])

theorem stepInterp_fol (t : Nat) (d : Int) : ((stepInterp a t d s).fol a).stepT = (s.fol a).stepT + d * stepWeight s a
    ∧ ((stepInterp a t d s).fol a).stepLast = some (t, d) := by
  obtain ⟨f, hf, he | he⟩ := stepInterp_cases a t d s <;> rw [he]
  · rwa [State.modFol_fol_self]
  · rwa [State.raise_fol, State.modFol_fol_self]

theorem stepInterp_get (t : Nat) (d : Int) {g : Fld} (hg : g.apart (F.AX_FOLLOW_STAT.STEP_FAST a)) :
    (stepInterp a t d s).get g = s.get g := by
  obtain ⟨f, -, he | he⟩ := stepInterp_cases a t d s <;> rw [he]
  · rfl
  · exact State.get_set_other _ _ _ _ hg

end

section
variable {s : State} (hq : s.whReq = []) (hp : pinsHeld s = false) {a : Axis} {rising : Bool} {dir : Held} {x : Level}
include hp

theorem onPins_free (f : State → State) : onPins f (begun s) = f (begun s) := if_neg (ne_true_of_eq_false hp)

include hq

theorem stepEdge_passes (h : edgeIgnored s a rising x) : Does (.stepEdge a rising dir x) s (s.at_ x.t) [] [] :=
  does_nothing (f := onPins (stepEdge a rising dir x)) rfl hq rfl ((onPins_free hp _).trans (stepEdge_ignored h))

theorem stepEdge_holds (h : ¬ edgeIgnored s a rising x) (hs : s.src a ≠ 1 ∨ stepActive s a rising = false) :
    Does (.stepEdge a rising dir x) s (s.edgeHeld a rising dir x) [] [] :=
  does_nothing (f := onPins (stepEdge a rising dir x)) rfl hq rfl ((onPins_free hp _).trans ((stepEdge_accepted (s := begun s) h).trans
    (if_pos (hs.imp id ne_true_of_eq_false))))

variable (h : ¬ edgeIgnored s a rising x) (hs : s.src a = 1) (hx : stepActive s a rising = true)
include h hs hx

/-- Without `AXnn_ENA` an edge counts as ignored too (R104). -/
theorem stepEdge_notEnabled (he : (s.gd a).ena = false) : Does (.stepEdge a rising dir x) s (s.edgeHeld a rising dir x)
    [(F.AX_STEP_IGN.IGN a, counted s (F.AX_STEP_IGN.IGN a)),
      (F.AX_STEP_CNT.CNT a, toBits 32 (s.getS (F.AX_STEP_CNT.CNT a) + edgeDir s a dir))] [] := by
  refine Does.reorder (l := [(F.AX_STEP_CNT.CNT a, toBits 32 (s.getS (F.AX_STEP_CNT.CNT a) + edgeDir s a dir)),
    (F.AX_STEP_IGN.IGN a, counted s (F.AX_STEP_IGN.IGN a))]) ?_ fun p => by simp [or_comm]
  refine does_of (f := onPins (stepEdge a rising dir x)) _ rfl hq rfl ?_ ?_ (by simp [Fld.apart])
  · rw [onPins_free hp]
    refine ((stepEdge_counts (s := begun s) h hs hx).trans (if_neg (ne_true_of_eq_false he))).trans ?_
    have hi : ((begun s).edgeCounted a rising dir x).get (F.AX_STEP_IGN.IGN a) = s.get (F.AX_STEP_IGN.IGN a) :=
      State.get_set_own _ _ (by simp)
    unfold State.inc State.count satAdd
    rw [hi]
    rfl
  · simp only [List.forall_mem_cons]
    exact ⟨⟨by simp, by simp, toBits_lt _ _⟩, counted_holds s (by simp) (by simp), by simp⟩

/-- With `AXnn_ENA` an edge moves the step target (R105). -/
theorem stepEdge_enabled (he : (s.gd a).ena = true) : Completes (.stepEdge a rising dir x) s fun t =>
    OnlyAxes [a] s t ∧ KeepsFields [F.AX_STEP_CNT.CNT a, F.AX_FOLLOW_STAT.STEP_FAST a] s t
      ∧ t.get (F.AX_STEP_CNT.CNT a) = toBits 32 (s.getS (F.AX_STEP_CNT.CNT a) + edgeDir s a dir)
      ∧ (t.fol a).stepT = (s.fol a).stepT + edgeDir s a dir * stepWeight s a
      ∧ (t.fol a).stepLast = some (x.t, edgeDir s a dir) ∧ t.mot a = s.mot a := by
  have hv : onPins (stepEdge a rising dir x) (begun s)
      = stepInterp a x.t (edgeDir s a dir) ((begun s).edgeCounted a rising dir x) :=
    (onPins_free hp _).trans ((stepEdge_counts (s := begun s) h hs hx).trans (if_pos he))
  have hw : Within stepScope [a] ((begun s).at_ x.t) (stepInterp a x.t (edgeDir s a dir) ((begun s).edgeCounted a rising dir x)) :=
    stepInterp_within List.mem_cons_self _ _ (Within.setS ((Within.refl _ _ _).modFol List.mem_cons_self fun _ => rfl) _ List.mem_cons_self
      (by simp [stepScope]))
  have hfol : ((begun s).edgeCounted a rising dir x).fol a = { s.fol a with dirLevel := dirAt s a dir, stpLevel := rising } :=
    State.modFol_fol_self ((begun s).at_ x.t) a fun f => { f with dirLevel := dirAt s a dir, stpLevel := rising }
  have hweight : stepWeight ((begun s).edgeCounted a rising dir x) a = stepWeight s a := by
    unfold stepWeight
    rw [show ((begun s).edgeCounted a rising dir x).get (F.AX_STEP_CFG.WEIGHT a) = s.get (F.AX_STEP_CFG.WEIGHT a) from
      State.get_set_own _ _ (by simp)]
  obtain ⟨hT, hlast⟩ := stepInterp_fol (s := (begun s).edgeCounted a rising dir x) (a := a) x.t (edgeDir s a dir)
  rw [hfol, hweight] at hT
  have hcnt := stepInterp_get (s := (begun s).edgeCounted a rising dir x) (a := a) x.t (edgeDir s a dir)
    (g := F.AX_STEP_CNT.CNT a) (Or.inl (by simp))
  refine completes_to (f := onPins (stepEdge a rising dir x)) rfl hv ?_ ⟨hw.onlyAxes (fun _ _ e => e) rfl fun _ _ => rfl, ?_, ?_, ?_, ?_, ?_⟩
  · exact (hw.whReq fun _ _ e => e).trans hq
  · refine KeepsFields.settled fun g hg => hw.fields g fun b hb f hf => ?_
    obtain rfl := List.mem_singleton.mp hb
    exact hg f hf
  · rw [settle_get, hcnt]
    exact setS_get_same _ _ _ (by simp) (by simp)
  · exact (congrArg (fun y : AxisSt => y.fol.stepT) (settle_ax _ a)).trans hT
  · exact (congrArg (fun y : AxisSt => y.fol.stepLast) (settle_ax _ a)).trans hlast
  · have hmot := congrArg AxisSt.mot (hw.own a)
    exact (settle_mot _ a).trans hmot

end

/-! ### Samples of a channel -/

@[simp] theorem State.modMch_mch_self (s : State) (c : Fin 4) (f : MchSt → MchSt) : (s.modMch c f).mch[c] = f s.mch[c] := by
  simp [State.modMch]

theorem State.modMch_modMch (s : State) (c : Fin 4) (f g : MchSt → MchSt) : (s.modMch c f).modMch c g = s.modMch c fun x => g (f x) := by
  simp [State.modMch]

/-- A channel with one sample more. -/
def MchSt.taken (x : MchSt) (t : Nat) (m : Int) (now : Nat) (viaFb : Bool) : MchSt :=
  { x with samples := (t, m) :: x.samples.take 1, lastM := m, lastAt := now, viaFb := viaFb }

/-- A sample makes the channel fresh at once, after a feedback loss with the second one (R111, R264). -/
theorem mchFresh_push (s : State) (c : Fin 4) (t : Nat) (m : Int) {fresh : Prop} [Decidable fresh]
    (hfresh : fresh ↔ (s.mch[c]).viaFb = false ∨ (s.mch[c]).samples ≠ []) : mchFresh c (mchPush c t m s) =
      (s.modMch c fun x => x.taken t m s.now (if fresh then false else x.viaFb)).sets (if fresh then [(F.MCH_CFG.STALE c, 0)] else []) := by
  have hx : (mchPush c t m s).mch[c] = (s.mch[c]).taken t m s.now (s.mch[c]).viaFb := State.modMch_mch_self _ _ _
  have henough : (if (s.mch[c]).viaFb then 2 else 1) ≤ ((t, m) :: (s.mch[c]).samples.take 1).length ↔ fresh := by
    rw [hfresh]
    cases (s.mch[c]).viaFb <;> cases (s.mch[c]).samples <;> simp
  have hclear : (mchPush c t m s).modMch c (fun x => { x with viaFb := false }) = s.modMch c fun x => x.taken t m s.now false :=
    State.modMch_modMch s c _ _
  unfold mchFresh
  dsimp only
  rw [hx]
  refine (if_congr henough rfl rfl).trans ?_
  by_cases hf : fresh
  · simp only [if_pos hf]
    exact congrArg (fun u : State => u.set (F.MCH_CFG.STALE c) 0) hclear
  · simp only [if_neg hf]
    rfl

section
variable {s : State} (hq : s.whReq = []) (hp : s.pd 1 = true) {c : Fin 4}
include hp

theorem inDomain_up (f : State → State) : inDomain 1 f (begun s) = f (begun s) := if_pos hp

include hq

/-- A channel on a commanded position takes the position of its axis (R108). -/
theorem mchSample_commanded (hs : s.get (F.MCH_CFG.SRC c) = 2) (hon : s.axOn (axisOf (s.get (F.MCH_CFG.AXIS c))) = true)
    {fresh : Prop} [Decidable fresh] (hfresh : fresh ↔ (s.mch[c]).viaFb = false ∨ (s.mch[c]).samples ≠ []) :
    let p := (s.mot (axisOf (s.get (F.MCH_CFG.AXIS c)))).pos
    let now := max s.now (mchSampleAt s)
    Does (.mchSample c) s ((s.at_ (mchSampleAt s)).modMch c fun x => x.taken now p now (if fresh then false else x.viaFb))
      (if fresh then [(F.MCH_CFG.STALE c, 0)] else []) [] := by
  intro p now
  have hf : inDomain 1 (mchSample c) (begun s) = mchFresh c (mchPush c now p ((begun s).at_ (mchSampleAt s))) := by
    rw [inDomain_up hp]
    unfold mchSample
    dsimp only
    rw [State.at_get, begun_get, hs]
    exact if_pos hon
  refine does_of (f := inDomain 1 (mchSample c)) _ rfl hq rfl (hf.trans (mchFresh_push ((begun s).at_ (mchSampleAt s)) c now p hfresh)) ?_ ?_
  · split <;> simp [Fld.holds]
  · split <;> simp

/-- A channel that is off or takes the samples of another device takes none of its own (R107). -/
theorem mchSample_none (hs : s.get (F.MCH_CFG.SRC c) = 0 ∨ s.get (F.MCH_CFG.SRC c) = 3) :
    Does (.mchSample c) s (s.at_ (mchSampleAt s)) [] [] := by
  refine does_nothing (f := inDomain 1 (mchSample c)) rfl hq rfl ?_
  rw [inDomain_up hp]
  unfold mchSample
  dsimp only
  rw [State.at_get, begun_get]
  rcases hs with hs | hs <;> rw [hs] <;> rfl

end

/-! ### A channel that publishes -/

/-- Flits that have left stay among those sent. -/
theorem pumpPort_tx (l : Link) (n : Nat) (s : State) : s.cv.tx <+: (pumpPort l n s).cv.tx := by
  induction n generalizing s with
  | zero => exact List.prefix_rfl
  | succ n ih =>
    unfold pumpPort
    dsimp only
    split
    · exact List.prefix_rfl
    · split
      · exact List.prefix_rfl
      · refine List.IsPrefix.trans ?_ (ih _)
        cases l <;> exact List.prefix_append _ _

theorem sendMsg_tx (l : Link) (typ : BitVec 4) (n : Nat) (m : CvMsg) (s : State) : s.cv.tx <+: (sendMsg l typ n m s).cv.tx := by
  unfold sendMsg sendFlits
  split
  · exact List.prefix_rfl
  · refine List.IsPrefix.trans ?_ (pumpPort_tx l 31 _)
    cases l <;> exact List.prefix_rfl

/-- The next instant at which channels publish (R110). -/
def publishAt (s : State) : Nat := (s.now / (10 * usT) + 1) * (10 * usT)

/-- The message of a sample of a channel (R110). -/
def chanMsg (s : State) (c : Fin 4) (x : Nat × Int) : CvMsg :=
  .mch (BitVec.ofNat 4 (devId s)) { chan := c, pos := x.2, stamp := x.1 / nsT }

/-- A message sent out of both ports (R444). -/
def published (s : State) (m : CvMsg) : State := sendMsg .dn typMch 1 m (sendMsg .up typMch 1 m ((begun s).at_ (publishAt s)))

theorem published_sends (s : State) (m : CvMsg) : PortsOnly ((begun s).at_ (publishAt s)) (published s m)
    ∧ ∀ (p : Link) (t : State), t.cv.tx = (published s m).cv.tx → Sends p typMch m s t := by
  have hup := sendMsg_ports .up typMch 1 m ((begun s).at_ (publishAt s))
  refine ⟨hup.trans (sendMsg_ports _ _ _ _ _), fun p t ht => ?_⟩
  cases p with
  | up =>
    intro h1 h2 h3
    obtain ⟨f, hf, hmsg⟩ := sendMsg_sends (l := .up) (typ := typMch) (m := m) (s := s) (u := (begun s).at_ (publishAt s)) rfl rfl rfl h1 h2 h3
    exact ⟨f, ht ▸ (sendMsg_tx _ _ _ _ _).subset hf, hmsg⟩
  | dn => exact sendMsg_sends (hup.linkUp .dn) (sendMsg_otherPort .up typMch 1 m _) ht

/-- A publishing channel sends its latest sample out of both ports (R110). -/
theorem mchPublish_sends {s : State} (hq : s.whReq = []) (hp : s.pd 1 = true) {c : Fin 4} {x : Nat × Int} {l : List (Nat × Int)}
    (hpub : s.get (F.MCH_CFG.PUBLISH c) = 1) (hx : (s.mch[c]).samples = x :: l) :
    Completes (.mchPublish c) s fun t => BesideRegs { s with now := t.now, cv := t.cv } t ∧ t.regs = s.regs ∧ t.now % (10 * usT) = 0
      ∧ ∀ p : Link, Sends p typMch (chanMsg s c x) s t := by
  have hv : inDomain 1 (mchPublish c) (begun s) = published s (chanMsg s c x) := by
    rw [inDomain_up hp]
    unfold mchPublish
    dsimp only
    rw [if_neg (by rw [State.at_flag, begun_flag, State.flag, hpub]; decide), State.at_mch, show (begun s).mch = s.mch from rfl, hx]
    rfl
  obtain ⟨hports, hsends⟩ := published_sends s (chanMsg s c x)
  have hnext : s.now ≤ publishAt s := by
    unfold publishAt usT
    omega
  generalize published s (chanMsg s c x) = v at hv hports hsends
  refine completes_to (f := inDomain 1 (mchPublish c)) rfl hv (by rw [hports]; exact hq) ⟨?_, ?_, ?_, fun p => hsends p _ (by rw [settle_cv])⟩
  · rw [settle_now, settle_cv]
    refine besideRegs_settle (u := { s with now := v.now, cv := v.cv }) ?_
    rw [hports]
    rfl
  · rw [settle_regs, hports]
    rfl
  · rw [settle_now, hports]
    exact (congrArg (· % (10 * usT)) (max_eq_right hnext)).trans (Nat.mul_mod_left _ _)

/-! ### A channel that goes stale -/

section
variable {S : Scope} {l : List Axis} {s t : State}

/-- Work on other axes leaves the block of an axis. -/
theorem Within.get_absent (h : Within S l s t) (hS : ∀ a f, S.fields a f → plannerField f ∨ engineBlock a f.addr) {b : Axis} (hb : b ∉ l)
    {g : Fld} (hg : engineBlock b g.addr) : t.get g = s.get g := by
  refine h.fields g fun a ha f hf => Or.inl fun e => ?_
  rcases hS a f hf with hf | hf
  · have := plannerField_low hf
    have := engineBlock_bounds hg
    omega
  · exact hb (engineBlock_inj hg (e ▸ hf) ▸ ha)

/-- Work on axes leaves the registers of the device below the planner's. -/
theorem Within.get_device (h : Within S l s t) (hS : ∀ a f, S.fields a f → plannerField f ∨ engineBlock a f.addr) {g : Fld}
    (hg : g.addr < 0x20000) : t.get g = s.get g := by
  refine h.fields g fun a _ f hf => Or.inl ?_
  rcases hS a f hf with hf | hf
  · have := hf.2
    simp only [plannerFields, List.map_cons, List.map_nil, List.mem_cons, List.not_mem_nil, or_false] at this
    omega
  · have := engineBlock_bounds hf
    omega

end

/-- A follower has left its source for a cause (R100, R111): one that waited at once, another at the next half-period boundary. -/
def LeftFor (cause : Fin 5) (a : Axis) (s t : State) : Prop :=
  t.get (F.AX_FOLLOW_STAT.FOLLOW_LOST a) = 1 ∧ t.get (F.AX_FOLLOW_STAT.LOST_CAUSE a) = cause.val
    ∧ (fstate s a = 1 → fstate t a = 0) ∧ (fstate s a ≠ 1 → (t.fol a).lossPend = some cause)

/-- The follower register and the follower of the axis decide whether it has left. -/
theorem LeftFor.congr {a : Axis} {cause : Fin 5} {s t s' t' : State} (h : LeftFor cause a s t)
    (hs : ∀ g : Fld, g.addr = (F.AX_FOLLOW_STAT.all a).addr → s'.get g = s.get g)
    (ht : ∀ g : Fld, g.addr = (F.AX_FOLLOW_STAT.all a).addr → t'.get g = t.get g) (hf : t'.fol a = t.fol a) : LeftFor cause a s' t' := by
  obtain ⟨hlost, hcause, hwait, hpend⟩ := h
  have hstate : fstate s' a = fstate s a := hs (F.AX_FOLLOW_STAT.FSTATE a) rfl
  exact ⟨(ht (F.AX_FOLLOW_STAT.FOLLOW_LOST a) rfl).trans hlost, (ht (F.AX_FOLLOW_STAT.LOST_CAUSE a) rfl).trans hcause,
    fun hw => (ht (F.AX_FOLLOW_STAT.FSTATE a) rfl).trans (hwait (hstate ▸ hw)), fun hw => hf ▸ hpend (hstate ▸ hw)⟩

section
variable {a : Axis} {cause : Fin 5} {s : State}

theorem noteLoss_get {g : Fld} (h1 : g.apart (F.AX_FOLLOW_STAT.FOLLOW_LOST a)) (h2 : g.apart (F.AX_FOLLOW_STAT.LOST_CAUSE a)) :
    (noteLoss a cause s).get g = s.get g :=
  (State.get_set_other _ _ _ _ h2).trans (State.get_set_other _ _ _ _ h1)

theorem noteLoss_shows : (noteLoss a cause s).get (F.AX_FOLLOW_STAT.FOLLOW_LOST a) = 1
    ∧ (noteLoss a cause s).get (F.AX_FOLLOW_STAT.LOST_CAUSE a) = cause.val :=
  ⟨(State.get_set_other _ _ _ _ (by simp)).trans (State.get_set_same _ _ _ (by simp) (by simp) (by simp)),
    State.get_set_same _ _ _ (by simp) (by simp) (by dsimp only; omega)⟩

/-- Of its follower register a cancelled engagement changes the state alone. -/
theorem cancelEngage_get {g : Fld} (hg : g.addr = (F.AX_FOLLOW_STAT.all a).addr) (hf : g.apart (F.AX_FOLLOW_STAT.FSTATE a)) :
    (cancelEngage a s).get g = s.get g := by
  have hl : (retireEngage a .cancelled (disengage a s)).get g = s.get g := by
    rw [retireEngage_get a _ _ (by rw [hg]; dsimp only; omega)]
    unfold disengage
    rw [State.modFol_get, State.get_set_own _ _ (by rw [hg]; simp)]
    exact State.get_set_other _ _ _ _ hf
  unfold cancelEngage
  dsimp only
  split
  · exact (State.get_set_own _ _ (by rw [hg]; simp)).trans hl
  · exact hl

theorem cancelEngage_fstate : fstate (cancelEngage a s) a = 0 := by
  unfold cancelEngage
  dsimp only
  split
  · exact (State.get_set_own _ _ (by simp)).trans (disengaged_fstate a _ s)
  · exact disengaged_fstate a _ s

/-- A follower in WAITING, RAMP or ENGAGED with no loss pending leaves. -/
theorem followLoss_leaves (h : fstate s a = 1 ∨ fstate s a = 2 ∨ fstate s a = 3) (hn : (s.fol a).lossPend = none) :
    LeftFor cause a s (followLoss a cause s) := by
  obtain ⟨hlost, hcause⟩ := noteLoss_shows (a := a) (cause := cause) (s := s)
  unfold followLoss
  by_cases hw : fstate s a = 1
  · rw [if_pos hw]
    exact ⟨(cancelEngage_get (g := F.AX_FOLLOW_STAT.FOLLOW_LOST a) rfl (by simp [Fld.apart])).trans hlost,
      (cancelEngage_get (g := F.AX_FOLLOW_STAT.LOST_CAUSE a) rfl (by simp [Fld.apart])).trans hcause,
      fun _ => cancelEngage_fstate, fun hc => absurd hw hc⟩
  · rw [if_neg hw, if_pos ⟨h.resolve_left hw, hn⟩]
    exact ⟨hlost, hcause, fun hc => absurd hc hw, fun _ => congrArg FollowSt.lossPend (State.modFol_fol_self _ _ _)⟩

theorem followLoss_within {l : List Axis} {r : State} (ha : a ∈ l) (h : Within haltScope l r s) :
    Within haltScope l r (followLoss a cause s) := by
  have hn : Within haltScope l r (noteLoss a cause s) := (h.setHalt Scope.le_rfl ha 1 (by simp)).setHalt Scope.le_rfl ha _ (by simp)
  unfold followLoss
  exact .ite (cancelEngage_within Scope.le_rfl ha hn) (.ite (hn.modFol ha fun _ => rfl) h)

end

/-- A follower of a stale channel leaves it (R111). -/
def staleLeaves (c : Fin 4) (a : Axis) (s : State) : State := if usesChan s c a then followLoss a 2 s else s

theorem staleLeaves_within (c : Fin 4) (a : Axis) (s : State) : Within haltScope [a] s (staleLeaves c a s) :=
  .ite (followLoss_within List.mem_cons_self (.refl _ _ _)) (.refl _ _ _)

/-- A channel as it goes stale, its followers still there (R111). -/
def mchMarked (fb : Bool) (c : Fin 4) (s : State) : State :=
  let u := s.modMch c fun x => { x with samples := [], viaFb := x.viaFb || fb }
  if s.flag (F.MCH_CFG.STALE c) then u else u.sets [(F.MCH_CFG.STALE c, 1), (F.MCH_CFG.STALE_EVT c, 1)]

theorem mchStale_eq (fb : Bool) (c : Fin 4) (s : State) : mchStale fb c s = (mchMarked fb c s).each allAxes (staleLeaves c) := rfl

theorem usesChan_congr {s t : State} {c : Fin 4} {a : Axis}
    (h : ∀ g : Fld, g.addr = (F.AX_FOLLOW_STAT.all a).addr → t.get g = s.get g) : usesChan t c a = usesChan s c a := by
  unfold usesChan chanOf State.src fstate
  simp only [h (F.AX_FOLLOW_STAT.SRC a) rfl, h (F.AX_FOLLOW_STAT.MCH a) rfl, h (F.AX_FOLLOW_STAT.FSTATE a) rfl]

theorem fstate_of_usesChan {s : State} {c : Fin 4} {a : Axis} (h : usesChan s c a = true) : fstate s a = 1 ∨ fstate s a = 2 ∨ fstate s a = 3 := by
  simpa [usesChan, or_assoc] using (Bool.and_eq_true_iff.mp h).2

/-- The followers of a channel leave it, and the other axes go on. -/
theorem staleLeaves_each (c : Fin 4) (s : State) (a : Axis) :
    (usesChan s c a = false → (s.each allAxes (staleLeaves c)).ax a = s.ax a)
    ∧ (usesChan s c a = true → (s.fol a).lossPend = none → LeftFor 2 a s (s.each allAxes (staleLeaves c))) := by
  obtain ⟨u, ⟨l₁, hx₁, h₁⟩, l₂, hx₂, h₂⟩ := State.each_at (staleLeaves_within c) (List.nodup_finRange 16) (List.mem_finRange a) s
  change Within haltScope l₂ (staleLeaves c a u) (s.each allAxes (staleLeaves c)) at h₂
  have hblock : ∀ g : Fld, g.addr = (F.AX_FOLLOW_STAT.all a).addr → engineBlock a g.addr := fun g hg =>
    axisRow_engineBlock a (by rw [hg]; dsimp only; omega) (by rw [hg]; dsimp only; omega)
  have g1 : ∀ g : Fld, g.addr = (F.AX_FOLLOW_STAT.all a).addr → u.get g = s.get g := fun g hg =>
    h₁.get_absent (fun _ _ => haltFields_bounds) hx₁ (hblock g hg)
  have g2 : ∀ g : Fld, g.addr = (F.AX_FOLLOW_STAT.all a).addr → (s.each allAxes (staleLeaves c)).get g = (staleLeaves c a u).get g :=
    fun g hg => h₂.get_absent (fun _ _ => haltFields_bounds) hx₂ (hblock g hg)
  have hfol : u.fol a = s.fol a := congrArg AxisSt.fol (h₁.others a hx₁)
  have hstate : fstate u a = fstate s a := g1 _ rfl
  refine ⟨fun hu => ?_, fun hu hn => ?_⟩
  · have hstay : staleLeaves c a u = u := if_neg (by rw [usesChan_congr g1, hu]; decide)
    exact (h₂.others a hx₂).trans ((congrArg (State.ax · a) hstay).trans (h₁.others a hx₁))
  · have hleave : staleLeaves c a u = followLoss a 2 u := if_pos ((usesChan_congr g1).trans hu)
    have hleft : LeftFor 2 a u (staleLeaves c a u) :=
      hleave ▸ followLoss_leaves (hstate ▸ fstate_of_usesChan hu) (hfol ▸ hn)
    exact hleft.congr (fun g hg => (g1 g hg).symm) g2 (congrArg AxisSt.fol (h₂.others a hx₂))

theorem mchMarked_get (fb : Bool) (c : Fin 4) (s : State) {g : Fld} (hg : g.addr ≠ (F.MCH_CFG.all c).addr) :
    (mchMarked fb c s).get g = s.get g := by
  unfold mchMarked
  dsimp only
  split
  · rfl
  · exact State.get_sets_apart _ _ _ (by simp only [List.forall_mem_cons]; exact ⟨Or.inl hg, Or.inl hg, by simp⟩)

theorem mchMarked_shows (fb : Bool) (c : Fin 4) (s : State) : (mchMarked fb c s).get (F.MCH_CFG.STALE c) = 1
    ∧ (mchMarked fb c s).get (F.MCH_CFG.STALE_EVT c)
      = if s.get (F.MCH_CFG.STALE c) = 1 then s.get (F.MCH_CFG.STALE_EVT c) else 1 := by
  have hf := flag_eq_true_iff s (F.MCH_CFG.STALE c) (by simp [fieldMax])
  unfold mchMarked
  dsimp only
  by_cases h : s.flag (F.MCH_CFG.STALE c) = true
  · rw [if_pos h, if_pos (hf.mp h)]
    exact ⟨hf.mp h, rfl⟩
  · rw [if_neg h, if_neg (mt hf.mpr h)]
    have hset := State.get_sets_mem (s.modMch c fun x => { x with samples := [], viaFb := x.viaFb || fb })
      [(F.MCH_CFG.STALE c, 1), (F.MCH_CFG.STALE_EVT c, 1)] (by simp [Fld.holds]) (by simp [Fld.apart])
    exact ⟨hset (F.MCH_CFG.STALE c, 1) List.mem_cons_self, hset (F.MCH_CFG.STALE_EVT c, 1) (by simp)⟩

theorem mchMarked_beside (fb : Bool) (c : Fin 4) (s : State) : mchMarked fb c s =
    { s with regs := (mchMarked fb c s).regs, mch := s.mch.set c { s.mch[c] with samples := [], viaFb := s.mch[c].viaFb || fb } } := by
  unfold mchMarked
  dsimp only
  split
  · rfl
  · rw [State.sets_eq]
    rfl

/-- The instant at which a channel goes stale (R111). -/
def staleAt (s : State) (c : Fin 4) : Nat := (s.mch[c]).lastAt + s.get (F.MCH_CFG.STALE_T c) * 10 * usT

/-- A channel without samples for `STALE_T` is stale, keeps its latest position, and its followers leave (R111, R129). -/
theorem mchStale_times {s : State} (hq : s.whReq = []) (hp : s.pd 1 = true) (c : Fin 4) : Completes (.mchStale c) s fun t =>
    t.now = max s.now (staleAt s c) ∧ t.get (F.MCH_CFG.STALE c) = 1 ∧ (t.mch[c]).samples = []
      ∧ t.get (F.MCH_CFG.STALE_EVT c) = (if s.get (F.MCH_CFG.STALE c) = 1 then s.get (F.MCH_CFG.STALE_EVT c) else 1)
      ∧ (t.mch[c]).lastM = (s.mch[c]).lastM
      ∧ ∀ a : Axis, (usesChan s c a = false → t.ax a = s.ax a)
        ∧ (usesChan s c a = true → (s.fol a).lossPend = none → LeftFor 2 a s t) := by
  have hv : inDomain 1 (mchStaleTimeout c) (begun s) = (mchMarked false c ((begun s).at_ (staleAt s c))).each allAxes (staleLeaves c) :=
    inDomain_up hp _
  obtain ⟨hstale, hevt⟩ := mchMarked_shows false c ((begun s).at_ (staleAt s c))
  have hbeside := mchMarked_beside false c ((begun s).at_ (staleAt s c))
  have hget : ∀ {a : Axis} {g : Fld}, g.addr = (F.AX_FOLLOW_STAT.all a).addr →
      (mchMarked false c ((begun s).at_ (staleAt s c))).get g = s.get g := fun hg =>
    mchMarked_get false c ((begun s).at_ (staleAt s c)) (by rw [hg]; dsimp only; omega)
  generalize mchMarked false c ((begun s).at_ (staleAt s c)) = m at hv hstale hevt hbeside hget
  have hax : ∀ a, m.ax a = s.ax a := fun a => by rw [hbeside]; rfl
  have hmch : m.mch[c] = { s.mch[c] with samples := [], viaFb := (s.mch[c]).viaFb || false } := by
    rw [hbeside]
    simp [begun]
  have hw : Within haltScope allAxes m (m.each allAxes (staleLeaves c)) :=
    (Within.refl _ _ _).each _ fun a ha t ht => ht.trans ((staleLeaves_within c a t).among ha)
  have heach := staleLeaves_each c m
  generalize m.each allAxes (staleLeaves c) = v at hv hw heach
  have hvmch := congrArg (fun u : State => u.mch[c]) hw.side
  have hreg : ∀ g : Fld, g.addr = (F.MCH_CFG.all c).addr → (settle v).get g = m.get g := fun g hg =>
    (settle_get v _).trans (hw.get_device (fun _ _ => haltFields_bounds) (by rw [hg]; dsimp only; omega))
  have hsmch : (settle v).mch[c] = m.mch[c] := by rw [(settle_eq v).1]; exact hvmch
  refine completes_to (f := inDomain 1 (mchStaleTimeout c)) rfl hv ?_ ⟨?_, (hreg (F.MCH_CFG.STALE c) rfl).trans hstale, ?_,
    (hreg (F.MCH_CFG.STALE_EVT c) rfl).trans hevt, ?_, fun a => ?_⟩
  · rw [hw.whReq fun _ _ e => e, hbeside]
    exact hq
  · rw [settle_now, hw.now fun _ _ e => e, hbeside]
    rfl
  · rw [hsmch, hmch]
  · rw [hsmch, hmch]
  · obtain ⟨hstay, hleft⟩ := heach a
    have hfol : m.fol a = s.fol a := congrArg AxisSt.fol (hax a)
    have huse : usesChan m c a = usesChan s c a := usesChan_congr fun _ => hget
    refine ⟨fun hu => ?_, fun hu hn => ?_⟩
    · rw [settle_ax, hstay (huse.trans hu), hax]
    · exact (hleft (huse.trans hu) (hfol ▸ hn)).congr (fun _ hg => (hget hg).symm) (fun g _ => settle_get v g)
        (congrArg AxisSt.fol (settle_ax v a))

/-! ### A channel whose source is written -/

/-- A legal write of the source of a channel takes its fields and nothing of the axes (R112). -/
theorem mchCfgWrite_sets {s : State} (hq : s.whReq = []) (c : Fin 4) (data : Word) (hr : s.ip.running = true) (hl : s.ip.loLatch = [])
    (hp : s.pd 1 = true) (ht : 2 ≤ getBits data 23 16)
    (hs : ¬ (getBits data 1 0 = 3 ∧ (getBits data 6 6 = 1 ∨ getBits data 13 10 = devId s))) (hu : ∀ a : Axis, usesChan s c a = false) :
    Completes (.mchCfgWrite c data) s fun t => t.axes = s.axes ∧ t.now = s.now ∧ t.ip.wrStatus = 0
      ∧ ∀ p ∈ mchValues c data s, t.get p.1 = p.2 := by
  classical
  obtain ⟨t, hexec, ⟨hbeside, -⟩, -, hvals⟩ := mchCfgWrite_takes hq hr hl hp c data ht hs hu (Iff.refl (mchSame s c data))
  refine ⟨t, hexec, ?_, ?_, ?_, hvals⟩ <;> rw [hbeside] <;> split <;> rfl

/-- Settles O26: edges, samples, publication, staleness and the write of a source, each by the lemma on its command. -/
theorem stepEdgesAndMasterSamples : Obligations.StepEdgesAndMasterSamples := by
  unfold Obligations.StepEdgesAndMasterSamples
  refine fun s hq => ⟨fun a rising dir x hp => ?_, fun c hp => ?_, fun c data hr hl hp ht hs hu => ?_⟩
  · exact ⟨stepEdge_passes hq hp, stepEdge_holds hq hp, fun h hs hx => ⟨stepEdge_notEnabled hq hp h hs hx, stepEdge_enabled hq hp h hs hx⟩⟩
  · refine ⟨fun hs hon => mchSample_commanded hq hp hs hon Iff.rfl, mchSample_none hq hp, fun x l => mchPublish_sends hq hp, ?_⟩
    exact mchStale_times hq hp c
  · obtain ⟨t, hexec, haxes, hnow, hstatus, hvals⟩ := mchCfgWrite_sets hq c data hr hl hp ht hs hu
    simp only [mchValues, List.forall_mem_cons] at hvals
    obtain ⟨hsrc, haxis, hpub, hsch, hsdev, htime, -⟩ := hvals
    exact ⟨t, hexec, haxes, hnow, hstatus, hsrc, haxis, hpub, hsch, hsdev, htime⟩

end Sys2Proof.Machine

/-! # Results of a converter that the statements get wrong -/

namespace Sys2Proof.Machine

/-- An axis under PI whose filtered overcurrent comparator of `W1` stands active, its DAC settled at code 512. -/
def trippedComparator : State :=
  (Tests.setAll [(F.MS_OC_STAT.OC_OUT_W1 0, 1), (F.MS_OC_STAT.OC_DAC_W1 0, 512)] Tests.ready0).modCc 0 fun c =>
    { c with oc := c.oc.set 0 { c.oc[0] with out := true } }

/-- `OC_OUT` is the output of the majority filter (R296, R297), which keeps its state until the comparator is sampled: a conversion of
0 codes leaves it active. -/
theorem currentAdcResult_trippedComparator_stays_active :
    Tests.after (.currentAdcResult 0 0 ⟨0, 0, 0, 0⟩) trippedComparator (fun t => t.get (F.MS_OC_STAT.OC_OUT_W1 0) == 1) = true := by
  decide +kernel

/-- Refutes O34: a current conversion far below the threshold in force does not clear `OC_OUT`, which is the majority-filtered output of
the comparator (R297, R301) and moves with the comparator's own samples. -/
theorem not_convertersWriteTheirResults : ¬ Obligations.ConvertersWriteTheirResults := by
  unfold Obligations.ConvertersWriteTheirResults
  intro h
  obtain ⟨hCurrent, -⟩ := h trippedComparator (by decide +kernel)
  obtain ⟨hPi, -⟩ := hCurrent 0 0 0 0 0 0 (by decide +kernel) (by decide +kernel)
  obtain ⟨t, hexec, -, -, hvals⟩ := hPi (by decide +kernel)
  simp only [List.forall_mem_cons] at hvals
  obtain ⟨-, -, -, -, hout, -⟩ := hvals
  have hstays : t.get (F.MS_OC_STAT.OC_OUT_W1 0) = 1 := by
    simpa using Tests.after_next currentAdcResult_trippedComparator_stays_active hexec
  have hcleared : t.get (F.MS_OC_STAT.OC_OUT_W1 0) = 0 := hout.trans (if_pos (by decide +kernel))
  exact absurd (hstays.symm.trans hcleared) (by decide)

end Sys2Proof.Machine

/-! # Choppers and probes of an axis (R161 to R163, R188 to R191) -/

namespace Sys2Proof.Machine

/-! ### An event of one axis -/

/-- The scope of an event of the engines of axes: their registers and the planner's counts, the records of commands, the time and the
free values used. -/
def eventScope : Scope where
  side s := besideRecords { s with now := 0, freeCtr := 0 }
  keep _ := AxisSt.reset
  fields a f := plannerField f ∨ engineBlock a f.addr
  side_engine _ _ _ := rfl

theorem pointScope_le_eventScope : pointScope.le eventScope where
  side _ _ h := congrArg (fun s : State => { s with now := 0, freeCtr := 0 }) h
  keep _ _ _ := rfl
  fields _ _ h := h

theorem chopScope_le_eventScope : chopScope.le eventScope where
  side _ _ h := congrArg (fun s : State => { s with now := 0, freeCtr := 0, ip := { s.ip with cmdq := [], ledger := [], log := [] } }) h
  keep _ _ _ := rfl
  fields a f h := by
    have := chopFields_addr h
    exact Or.inr (Or.inl (by omega))

section
variable {l : List Axis} {r s u : State}

theorem Within.eventAt (h : Within eventScope l r s) (t : Nat) : Within eventScope l r (s.at_ t) := h.beside rfl rfl rfl

theorem Within.eventWhReq (h : Within eventScope l s u) : u.whReq = s.whReq := by
  have := congrArg State.whReq h.side
  exact this

/-- The work of an event, settled. -/
theorem Within.eventOnly (h : Within eventScope l (begun s) u) :
    OnlyAxes l s (settle u) ∧ KeepsBlocks l plannerFields s (settle u) := by
  have he : besideRecords u = besideRecords { begun { s with freeCtr := u.freeCtr } with now := u.now } :=
    congrArg (fun x : State => { x with now := u.now, freeCtr := u.freeCtr }) h.side
  have hk : KeepsBlocks l plannerFields (begun s) u := h.keepsPlanner fun _ _ h => h
  have ho : OnlyAxes l { s with freeCtr := u.freeCtr } (settle u) := (Within.refl pointScope l u).onlyAxes (fun _ _ h => h) he h.others
  exact ⟨ho, hk.settled⟩

end

/-! ### Switch-level faults -/

/-- The scope of a switch-level fault (R237 to R239). -/
def switchScope : Scope := { pointScope with fields := faultScope.fields }

theorem faultScope_le_switchScope : faultScope.le switchScope :=
  ⟨faultScope_le_pointScope.side, faultScope_le_pointScope.keep, fun _ _ h => h⟩

theorem switchScope_le_pointScope : switchScope.le pointScope :=
  ⟨fun _ _ h => h, fun _ _ h => h, fun _ _ h => faultScope_fields h⟩

/-- The switches that a switch-level fault holds off (R237, R251). -/
def heldOff (a : Axis) (whole : Bool) (mask : BitVec 8) (s : State) : State :=
  let held := heldBy s a whole mask
  let s := (s.set (F.AX_GD_FLT.SW_OFF a) (s.get (F.AX_GD_FLT.SW_OFF a) ||| held.toNat)).modGd a fun g =>
    { g with fltOff := g.fltOff ||| held }
  if safeShort s a || s.flag (F.AX_GD_FLT.OV_TRIP a) then
    s.modGd a fun g => { g with shortOff := g.shortOff ||| (mask &&& lowMask) } else s

/-- The escalation window opens (R238). -/
def openWindow (a : Axis) (s : State) : State :=
  s.modGd a fun g => { g with escEnd := some (s.now + s.get (F.AX_GD_CFG.ESC_WIN a) * msT) }

/-- A switch-level fault opens the escalation window, or escalates the axis within it (R238). -/
def escalate (a : Axis) (s : State) : State :=
  if (s.gd a).escEnd.any fun e => decide (s.now < e) then axisFault a (F.AX_GD_FLT.ESCALATED a) 11 s else openWindow a s

theorem escalate_eq (a : Axis) (s : State) : escalate a s = match (s.gd a).escEnd with
    | some e => if s.now < e then axisFault a (F.AX_GD_FLT.ESCALATED a) 11 s else openWindow a s
    | none => openWindow a s := by
  unfold escalate
  cases (s.gd a).escEnd with
  | none => rfl
  | some e => simp only [Option.any_some, decide_eq_true_eq]

theorem switchFault_eq (a : Axis) (f : Fld) (cause : Nat) (whole : Bool) (mask : BitVec 8) (s : State) :
    switchFault a f cause whole mask s = escalate a (heldOff a whole mask (endStall a (latchFault a f cause s))) :=
  (escalate_eq a _).symm

section
variable {l : List Axis} {a : Axis} {r s : State} (ha : a ∈ l)
include ha

theorem heldOff_within (whole : Bool) (mask : BitVec 8) (h : Within switchScope l r s) : Within switchScope l r (heldOff a whole mask s) := by
  have h1 := (h.set (f := F.AX_GD_FLT.SW_OFF a) (s.get (F.AX_GD_FLT.SW_OFF a) ||| (heldBy s a whole mask).toNat) ha
    (Or.inr (Or.inl rfl))).modGd (f := fun g => { g with fltOff := g.fltOff ||| heldBy s a whole mask }) ha fun _ => rfl
  unfold heldOff
  exact .ite (h1.modGd ha fun _ => rfl) h1

theorem latchFault_switch {f : Fld} (cause : Nat) (hf : f.addr = (F.AX_GD_FLT.all a).addr) (hu : unselected a r)
    (h : Within switchScope l r s) : Within switchScope l r (latchFault a f cause s) :=
  h.trans ((latchFault_within ha cause (Or.inr (Or.inl hf)) (h.unselected switchScope_le_pointScope hu) (.refl _ l s)).widen
    faultScope_le_switchScope)

theorem escalate_within (hu : unselected a r) (h : Within switchScope l r s) : Within switchScope l r (escalate a s) := by
  unfold escalate openWindow axisFault
  refine .ite (enterFault_within (haltScope_le_faultScope.trans faultScope_le_switchScope) ha ?_) (h.modGd ha fun _ => rfl)
  exact latchFault_switch ha 11 rfl hu h

theorem switchFault_within {f : Fld} (cause : Nat) (whole : Bool) (mask : BitVec 8) (hf : f.addr = (F.AX_GD_FLT.all a).addr)
    (hu : unselected a r) (h : Within switchScope l r s) : Within switchScope l r (switchFault a f cause whole mask s) := by
  have hH : haltScope.le switchScope := haltScope_le_faultScope.trans faultScope_le_switchScope
  rw [switchFault_eq]
  exact escalate_within ha hu (heldOff_within ha whole mask (endStall_within hH.stand.refresh ha (latchFault_switch ha cause hf hu h)))

end

/-- A one-bit fault field of an axis that is neither what the faults hold off nor an escalation. -/
structure FaultBit (a : Axis) (f : Fld) : Prop where
  own : f.addr = (F.AX_GD_FLT.all a).addr
  bit : f.hi = f.lo
  low : f.hi < 10

section
variable {a : Axis} {f : Fld}

theorem latchFault_shows (hf : FaultBit a f) (cause : Nat) (s : State) : (latchFault a f cause s).get f = 1 := by
  obtain ⟨hown, hbit, hlow⟩ := hf
  unfold latchFault
  dsimp only
  split
  case isTrue h => exact (flag_eq_true_iff _ f (by simp [fieldMax, hbit])).mp h
  case isFalse =>
    rw [faultWhistle_get, noteCause_get_apart _ _ _ (Or.inr (Or.inl (by dsimp only; omega)))]
    exact State.get_set_same _ _ _ (by omega) (by omega) (by simp [hbit])

theorem heldOff_get (hf : FaultBit a f) (whole : Bool) (mask : BitVec 8) (s : State) : (heldOff a whole mask s).get f = s.get f := by
  obtain ⟨-, -, hlow⟩ := hf
  have h : ∀ v, (s.set (F.AX_GD_FLT.SW_OFF a) v).get f = s.get f := fun v =>
    State.get_set_other _ _ _ _ (Or.inr (Or.inl (by dsimp only; omega)))
  unfold heldOff
  dsimp only
  split
  · rw [State.modGd_get, State.modGd_get, h]
  · rw [State.modGd_get, h]

theorem enterFault_get_fault (hf : f.addr = (F.AX_GD_FLT.all a).addr) (s : State) : (enterFault a s).get f = s.get f :=
  (enterFault_within (S := haltScope) Scope.le_rfl List.mem_cons_self (.refl _ [a] s)).fields f fun b hb g hg => by
    obtain rfl := List.mem_singleton.mp hb
    exact Or.inl fun e => (haltFields_apart hg).2 (e.symm.trans hf)

theorem escalate_get (hf : FaultBit a f) (s : State) : (escalate a s).get f = s.get f := by
  have hlow := hf.low
  unfold escalate openWindow axisFault
  split
  · rw [enterFault_get_fault hf.own]
    exact latchFault_get_other a 11 s (Or.inr (Or.inl (by dsimp only; omega))) (Or.inr (Or.inl (by dsimp only; omega)))
  · rfl

/-- A switch-level fault leaves its field set. -/
theorem switchFault_shows (hf : FaultBit a f) (cause : Nat) (whole : Bool) (mask : BitVec 8) (s : State) :
    (switchFault a f cause whole mask s).get f = 1 := by
  rw [switchFault_eq, escalate_get hf, heldOff_get hf]
  exact latchFault_shows hf cause s

end

/-! ### Samples of an overcurrent comparator -/

section
variable (a : Axis) (w : Fin 2) (x : Samples) (s : State)

theorem ocFeed_eq : ∃ (n : Nat) (f : FiltSt), (ocFeed a w x s).1 =
    ((s.at_ n).setB (ocOut a w) f.out).modCc a fun c => { c with oc := c.oc.set w f } := ⟨_, _, rfl⟩

theorem ocFeed_within : Within eventScope [a] s (ocFeed a w x s).1 := by
  obtain ⟨n, f, h⟩ := ocFeed_eq a w x s
  rw [h]
  exact (((Within.refl eventScope [a] s).eventAt n).setB _ List.mem_cons_self (Or.inr (ocFields_engineBlock a w).2)).modCc
    List.mem_cons_self fun _ => rfl

theorem ocFeed_get {g : Fld} (hg : g.apart (ocOut a w)) : (ocFeed a w x s).1.get g = s.get g := by
  obtain ⟨n, f, h⟩ := ocFeed_eq a w x s
  rw [h, State.modCc_get]
  exact State.get_set_other _ _ _ _ hg

theorem ocFeed_w : ((ocFeed a w x s).1.cc a).w = (s.cc a).w := by
  obtain ⟨n, f, h⟩ := ocFeed_eq a w x s
  rw [h, State.modCc_cc_self]
  rfl

/-- `OC_OUT` shows the filtered output (R301). -/
theorem ocFeed_out : (ocFeed a w x s).1.get (ocOut a w) = bitOf ((ocFeed a w x s).1.cc a).oc[w].out := by
  obtain ⟨n, f, h⟩ := ocFeed_eq a w x s
  rw [h, State.modCc_get, State.modCc_cc_self]
  simp only [Fin.getElem_fin, Vector.getElem_set_self]
  have hb := bitOf_lt f.out
  refine State.get_set_same _ _ _ ?_ ?_ ?_ <;> unfold ocOut <;> split <;> simp [hb]

end

/-- The registers of the axis other than the state of its overcurrent comparators. -/
theorem ocOut_apart {a : Axis} {g : Fld} (w : Fin 2) (h : g.addr < 0x300000 ∨ 0x301000 ≤ g.addr) : g.apart (ocOut a w) := by
  refine Or.inl ?_
  unfold ocOut
  split <;> dsimp only <;> omega

/-! ### The cycle of a chopper (R161, R162) -/

section
variable (a : Axis) (w : Fin 2) (s : State)

theorem driveLeg_cc (k : Leg) (high : Bool) (te : Nat) : (driveLeg a k high te s).cc a = s.cc a := by
  have h := (driveLeg_within (S := levelScope) Scope.le_rfl List.mem_cons_self k high te (.refl _ [a] s)).own a
  have := congrArg AxisSt.cc h
  exact this

theorem noteGates_cc : (noteGates a s).cc a = s.cc a := by
  have h := (noteGates_within (S := gateScope) Scope.le_rfl List.mem_cons_self (.refl _ [a] s)).own a
  have := congrArg AxisSt.cc h
  exact this

theorem dropLeg_within {S : Scope} {l : List Axis} {r : State} (hS : levelScope.le S) (ha : a ∈ l) (k : Leg) (te : Nat)
    (h : Within S l r s) : Within S l r (dropLeg a k te s) := by
  have h1 : Within S l r
      ((noteLows a te s).modPwm a fun p => { p with legs := p.legs.set k (p.legs[k].filter fun e => decide (e.at_ ≤ te)) }) :=
    (noteLows_within (gateScope_le_levelScope.trans hS) ha _ h).modPwm ha fun _ => hS.keep _ _ rfl
  unfold dropLeg
  dsimp only
  split
  · exact addEdge_within hS ha _ _ h1
  · exact h1

theorem dropLeg_cc (k : Leg) (te : Nat) : (dropLeg a k te s).cc a = s.cc a := by
  have h := (dropLeg_within a s (S := levelScope) Scope.le_rfl List.mem_cons_self k te (.refl _ [a] s)).own a
  have := congrArg AxisSt.cc h
  exact this

theorem chopLegs_cc (t : Nat) : ((chopLegs a w t s).cc a) = s.cc a := by
  unfold chopLegs
  rw [driveLeg_cc, driveLeg_cc, State.modPwm_cc]
  rfl

theorem modChop_w (f : WindSt → WindSt) : ((modChop a w f s).cc a).w[w] = f (s.cc a).w[w] := by
  unfold modChop
  rw [State.modCc_cc_self]
  simp

/-- A phase of the cycle begins at the present instant. -/
theorem chopEnter_chop (ph : ChopPhase) : ((chopEnter a w ph s).cc a).w[w].chop =
    { (s.cc a).w[w].chop with phase := ph, from_ := s.now, watch := false, since := max s.now (s.cc a).w[w].chop.since } := by
  unfold chopEnter chopCount
  rw [noteGates_cc, chopLegs_cc, modChop_w, modChop_w]

theorem chopOffLegs_cc : (chopOffLegs a w s).cc a = s.cc a := by
  unfold chopOffLegs
  split
  · rfl
  · rw [driveLeg_cc, driveLeg_cc]

end

section
variable {S : Scope} {l : List Axis} {a : Axis} {r s : State} (hS : chopScope.le S) (ha : a ∈ l) (w : Fin 2)
include hS ha

theorem chopEnter_within (ph : ChopPhase) (h : Within S l r s) : Within S l r (chopEnter a w ph s) := by
  unfold chopEnter
  exact noteGates_within (gateScope_le_levelScope.trans (levelScope_le_chopScope.trans hS)) ha
    (chopLegs_within hS ha _ _ (modChop_within hS ha _ _ (chopCount_within hS ha _ _ h)))

theorem chopCycle_within (h : Within S l r s) : Within S l r (chopCycle a w s) := by
  unfold chopCycle
  exact chopEnter_within hS ha w _ (modChop_within hS ha _ _ (chopCount_within hS ha _ _ h))

theorem chopOffLegs_within (h : Within S l r s) : Within S l r (chopOffLegs a w s) := by
  have hL := levelScope_le_chopScope.trans hS
  unfold chopOffLegs
  exact .ite h (driveLeg_within hL ha _ _ _ (driveLeg_within hL ha _ _ _ h))

theorem chopRelease_within (trip : Bool) (h : Within S l r s) : Within S l r (chopRelease a w trip s) := by
  have h1 := chopCount_within hS ha w s.now h
  unfold chopRelease
  refine .ite h (chopOffLegs_within hS ha w (chopEnter_within hS ha w _ (.ite ?_ h1)))
  exact dropLeg_within a _ (levelScope_le_chopScope.trans hS) ha _ _ h1

end

/-- The fields that the cycle of a chopper leaves. -/
theorem Within.chopGet {a : Axis} {s t : State} (h : Within chopScope [a] s t) {g : Fld}
    (hg : g.addr < 0x100514 + a.val * 0x1000 ∨ 0x100560 + a.val * 0x1000 ≤ g.addr) : t.get g = s.get g :=
  h.fields g fun b hb f hf => by
    obtain rfl := List.mem_singleton.mp hb
    have := chopFields_addr hf
    exact Or.inl (by omega)

theorem Within.chopNow {l : List Axis} {s t : State} (h : Within chopScope l s t) : t.now = s.now := by
  have := congrArg State.now h.side
  exact this

/-- The off state that `DECAY` selects (R161). -/
def offPhase (s : State) (a : Axis) : ChopPhase := if s.get (F.AX_CHOP.DECAY a) = 0 then .slow else .fast

section
variable {a : Axis} {w : Fin 2} {s : State}

/-- A chopper that leaves its on state begins its off state now. -/
theorem chopRelease_chop (h : (s.cc a).w[w].chop.phase = .on) (trip : Bool) : ((chopRelease a w trip s).cc a).w[w].chop =
    { (s.cc a).w[w].chop with phase := offPhase s a, from_ := s.now, watch := false, since := max s.now (s.cc a).w[w].chop.since } := by
  have hcount : Within chopScope [a] s (chopCount a w s.now s) := chopCount_within Scope.le_rfl List.mem_cons_self w _ (.refl _ _ _)
  have hchop : ((chopCount a w s.now s).cc a).w[w].chop = { (s.cc a).w[w].chop with since := max s.now (s.cc a).w[w].chop.since } := by
    unfold chopCount
    rw [modChop_w]
  have hleg : ∀ k : Leg, Within chopScope [a] s (dropLeg a k s.now (chopCount a w s.now s)) := fun k =>
    dropLeg_within a _ levelScope_le_chopScope List.mem_cons_self k _ hcount
  have key : ∀ u, Within chopScope [a] s u → (u.cc a) = (chopCount a w s.now s).cc a →
      ((chopOffLegs a w (chopEnter a w (if u.get (F.AX_CHOP.DECAY a) = 0 then .slow else .fast) u)).cc a).w[w].chop =
        { (s.cc a).w[w].chop with phase := offPhase s a, from_ := s.now, watch := false, since := max s.now (s.cc a).w[w].chop.since } := by
    intro u hu hc
    rw [chopOffLegs_cc, chopEnter_chop, hc, hchop, hu.chopNow, hu.chopGet (by dsimp only; omega)]
    simp [offPhase]
  unfold chopRelease
  dsimp only
  rw [if_neg (not_not.mpr h)]
  cases trip
  · exact key _ hcount rfl
  · exact key _ (hleg _) (dropLeg_cc _ _ _ _)

theorem chopRelease_shorts (trip : Bool) : ((chopRelease a w trip s).cc a).w[w].chop.shorts = (s.cc a).w[w].chop.shorts := by
  by_cases h : (s.cc a).w[w].chop.phase = .on
  · rw [chopRelease_chop h]
  · unfold chopRelease
    rw [if_pos h]

theorem chopMixed_cc (t : Nat) : ((chopMixed a w t s).cc a).w[w].chop.thr = (s.cc a).w[w].chop.thr := by
  unfold chopMixed
  dsimp only
  split
  · rfl
  · have hc : ((noteGates a (chopLegs a w ((s.cc a).w[w].chop.from_ + toffOf s a / 4) (modChop a w (fun x =>
        { x with chop := { x.chop with phase := .slow } }) s))).cc a).w[w] =
        { (s.cc a).w[w] with chop := { (s.cc a).w[w].chop with phase := .slow } } := by rw [noteGates_cc, chopLegs_cc, modChop_w]
    rw [hc]

/-- The sign of the reference of a winding (R161). -/
def irefPos (s : State) (a : Axis) (w : Fin 2) : Bool :=
  decide (0 ≤ if w = 0 then s.getS (F.AX_IREF.IREF_W1 a) else s.getS (F.AX_IREF.IREF_W2 a))

/-- The next cycle of a chopper takes the sign of the reference. -/
def chopAim (a : Axis) (w : Fin 2) (s : State) : State :=
  modChop a w (fun x => { x with chop := { x.chop with pos := irefPos s a w } }) (chopCount a w s.now s)

theorem chopCycle_eq : chopCycle a w s =
    chopEnter a w (if ((chopAim a w s).cc a).w[w].chop.thr = 0 then .held else .on) (chopAim a w s) := rfl

theorem chopAim_chop : ((chopAim a w s).cc a).w[w].chop =
    { (s.cc a).w[w].chop with pos := irefPos s a w, since := max s.now (s.cc a).w[w].chop.since } := by
  unfold chopAim chopCount
  rw [modChop_w, modChop_w]

theorem chopCycle_chop : ((chopCycle a w s).cc a).w[w].chop.phase = (if (s.cc a).w[w].chop.thr = 0 then .held else .on)
    ∧ ((chopCycle a w s).cc a).w[w].chop.pos = irefPos s a w := by
  rw [chopCycle_eq, chopEnter_chop, chopAim_chop]
  exact ⟨rfl, rfl⟩

end

/-! ### The events of a chopper (R161 to R163) -/

/-- The comparator has shown its samples by the end of the blanking. -/
def blankFed (a : Axis) (w : Fin 2) (x : Samples) (s : State) : State :=
  (ocFeed a w x s).1.at_ ((s.cc a).w[w].chop.from_ + s.get (F.AX_CHOP.CHOP_BLANK a) * 80)

/-- A chopper watches its comparator, with `n` starts in a row that count towards `CHOP_SHORT`. -/
def watching (a : Axis) (w : Fin 2) (n : Nat) (s : State) : State :=
  modChop a w (fun x => { x with chop := { x.chop with watch := true, shorts := n } }) s

/-- `CHOP_SHORT` begins the count anew. -/
def shorted (a : Axis) (w : Fin 2) (s : State) : State :=
  modChop a w (fun x => { x with chop := { x.chop with shorts := 0 } }) (chopShort a w s)

section
variable (a : Axis) (w : Fin 2) (x : Samples) (s : State)

theorem blankFed_within : Within eventScope [a] s (blankFed a w x s) := (ocFeed_within a w x s).eventAt _

theorem blankFed_get {g : Fld} (hg : g.apart (ocOut a w)) : (blankFed a w x s).get g = s.get g := ocFeed_get a w x s hg

theorem blankFed_w : ((blankFed a w x s).cc a).w = (s.cc a).w := ocFeed_w a w x s

theorem watching_within (n : Nat) : Within chopScope [a] s (watching a w n s) :=
  modChop_within Scope.le_rfl List.mem_cons_self w _ (.refl _ _ s)

theorem watching_chop (n : Nat) : ((watching a w n s).cc a).w[w].chop = { (s.cc a).w[w].chop with watch := true, shorts := n } := by
  unfold watching
  rw [modChop_w]

/-- The end of a blanking, by what the comparator then shows. -/
theorem chopBlankEnd_eq (hc : chopping s a = true) (hp : (s.cc a).w[w].chop.phase = .on) (hw : (s.cc a).w[w].chop.watch = false) :
    chopBlankEnd a w x s =
      if ocTripped (blankFed a w x s) a w then
        chopRelease a w true (if s.get (F.AX_CHOP.CHOP_SHORT_N a) ≤ (s.cc a).w[w].chop.shorts + 1 then
          shorted a w (watching a w ((s.cc a).w[w].chop.shorts + 1) (blankFed a w x s))
        else watching a w ((s.cc a).w[w].chop.shorts + 1) (blankFed a w x s))
      else watching a w 0 (blankFed a w x s) := by
  have hblank := ocFeed_get a w x s (g := F.AX_CHOP.CHOP_BLANK a) (ocOut_apart w (by dsimp only; omega))
  have hn : ∀ n, (watching a w n (blankFed a w x s)).get (F.AX_CHOP.CHOP_SHORT_N a) = s.get (F.AX_CHOP.CHOP_SHORT_N a) := fun n => by
    rw [watching, modChop, State.modCc_get, blankFed_get a w x s (ocOut_apart w (by dsimp only; omega))]
  have hfed : (ocFeed a w x s).1.at_ ((s.cc a).w[w].chop.from_ + (ocFeed a w x s).1.get (F.AX_CHOP.CHOP_BLANK a) * 80) =
      blankFed a w x s := by rw [hblank]; rfl
  unfold chopBlankEnd
  dsimp only
  rw [if_neg (not_or.mpr ⟨not_not.mpr hc, not_or.mpr ⟨not_not.mpr hp, by rw [hw]; exact Bool.false_ne_true⟩⟩), hfed]
  cases ocTripped (blankFed a w x s) a w with
  | false => rfl
  | true =>
    simp only [not_true_eq_false, if_true, if_false]
    change chopRelease a w true (if (watching a w ((s.cc a).w[w].chop.shorts + 1) (blankFed a w x s)).get (F.AX_CHOP.CHOP_SHORT_N a) ≤ _
      then _ else _) = _
    rw [hn]
    rfl

end

section
variable {a : Axis} {w : Fin 2} {x : Samples} {s : State}

/-- The instants at which an on state ends (R161). -/
def chopEnds (v : State) (a : Axis) (w : Fin 2) (c : ChopSt) (s : State) : Prop :=
  c.from_ + perOf s a ≤ v.now ∨ (c.from_ + s.get (F.AX_CHOP.CHOP_BLANK a) * 80 ≤ v.now ∧ ocTripped v a w = true)

theorem ocFeed_chopBlanked : chopBlanked (ocFeed a w x s).1 a w =
    decide ((s.cc a).w[w].chop.from_ + s.get (F.AX_CHOP.CHOP_BLANK a) * 80 ≤ (ocFeed a w x s).1.now) := by
  rw [chopBlanked, ocFeed_w, ocFeed_get a w x s (ocOut_apart w (by dsimp only; omega))]

theorem ocFeed_perOf : perOf (ocFeed a w x s).1 a = perOf s a := by
  rw [perOf, ocFeed_get a w x s (ocOut_apart w (by dsimp only; omega))]
  rfl

theorem chopOff_eq (hc : chopping s a = true) : chopOff a w x s =
    if chopBlanked (ocFeed a w x s).1 a w = true ∧ ocTripped (ocFeed a w x s).1 a w = true then chopRelease a w true (ocFeed a w x s).1
    else if (s.cc a).w[w].chop.from_ + perOf s a ≤ (ocFeed a w x s).1.now then chopRelease a w false (ocFeed a w x s).1
    else (ocFeed a w x s).1 := by
  unfold chopOff
  rw [if_neg (not_not.mpr hc)]
  dsimp only
  rw [ocFeed_perOf, ocFeed_w]

/-- An on state that ends is released. -/
theorem chopOff_ends (hc : chopping s a = true) (he : chopEnds (ocFeed a w x s).1 a w (s.cc a).w[w].chop s) :
    ∃ trip, chopOff a w x s = chopRelease a w trip (ocFeed a w x s).1 := by
  rw [chopOff_eq hc, ocFeed_chopBlanked]
  by_cases h : (s.cc a).w[w].chop.from_ + s.get (F.AX_CHOP.CHOP_BLANK a) * 80 ≤ (ocFeed a w x s).1.now
      ∧ ocTripped (ocFeed a w x s).1 a w = true
  · exact ⟨true, by rw [if_pos (by simpa using h)]⟩
  · exact ⟨false, by rw [if_neg (by simpa using h), if_pos (he.resolve_right h)]⟩

/-- Without an end of an on state only the samples are taken. -/
theorem chopOff_stays (hc : chopping s a = true)
    (he : (s.cc a).w[w].chop.phase ≠ .on ∨ ¬ chopEnds (ocFeed a w x s).1 a w (s.cc a).w[w].chop s) :
    chopOff a w x s = (ocFeed a w x s).1 := by
  rcases he with hp | he
  · have hr : ∀ trip, chopRelease a w trip (ocFeed a w x s).1 = (ocFeed a w x s).1 := fun trip => by
      unfold chopRelease
      rw [if_pos (by rw [ocFeed_w]; exact hp)]
    rw [chopOff_eq hc, hr, hr, ite_self, ite_self]
  · rw [chopEnds, not_or] at he
    rw [chopOff_eq hc, ocFeed_chopBlanked, if_neg (by simpa using he.2), if_neg he.1]

end

/-! ### A short of a chopper (R163) -/

section
variable (a : Axis) (w : Fin 2) (s : State)

theorem chopShort_eq : ∃ mask, chopShort a w s =
    noteGates a (switchFault a (F.AX_GD_FLT.CHOP_SHORT a) 5 false mask (s.raise (F.AX_CC_FLAG.CHOP_SHORT_EVT a))) := ⟨_, rfl⟩

theorem chopShort_bit : FaultBit a (F.AX_GD_FLT.CHOP_SHORT a) := ⟨rfl, rfl, by dsimp only; omega⟩

theorem shortEvt_apart {a : Axis} {f : Fld} (h : switchScope.fields a f) : (F.AX_CC_FLAG.CHOP_SHORT_EVT a).apart f := by
  change (haltFields a f ∨ f.addr = _ ∨ f = _ ∨ f = _) at h
  simp only [haltFields, bridgeFields, stateFields, List.mem_cons, List.not_mem_nil, or_false] at h
  unfold Fld.apart
  rcases h with (h | (rfl | rfl | rfl | rfl | rfl | rfl | rfl) | (rfl | rfl | rfl) | h | h | h) | h | rfl | rfl
  · have := plannerField_low h
    dsimp only
    omega
  all_goals dsimp only at *; omega

theorem unselected_raise_shortEvt {a : Axis} {s : State} (hu : unselected a s) :
    unselected a (s.raise (F.AX_CC_FLAG.CHOP_SHORT_EVT a)) := by
  rw [unselected, State.raise, State.get_set_other _ _ _ _ (Or.inl (by dsimp only; omega))]
  exact hu

theorem chopShort_within (hu : unselected a s) : Within eventScope [a] s (chopShort a w s) := by
  obtain ⟨mask, h⟩ := chopShort_eq a w s
  have h1 : Within eventScope [a] s (s.raise (F.AX_CC_FLAG.CHOP_SHORT_EVT a)) :=
    (Within.refl eventScope [a] s).raise List.mem_cons_self (Or.inr (Or.inl (by dsimp only; omega)))
  rw [h]
  exact noteGates_within (gateScope_le_levelScope.trans (levelScope_le_chopScope.trans chopScope_le_eventScope)) List.mem_cons_self
    (h1.trans ((switchFault_within List.mem_cons_self 5 false mask (chopShort_bit a).own (unselected_raise_shortEvt hu) (.refl _ _ _)).widen
      (switchScope_le_pointScope.trans pointScope_le_eventScope)))

/-- A short shows in its fault and its event. -/
theorem chopShort_shows (hu : unselected a s) : (chopShort a w s).get (F.AX_GD_FLT.CHOP_SHORT a) = 1
    ∧ (chopShort a w s).get (F.AX_CC_FLAG.CHOP_SHORT_EVT a) = 1 := by
  obtain ⟨mask, h⟩ := chopShort_eq a w s
  rw [h, noteGates_get, noteGates_get]
  refine ⟨switchFault_shows (chopShort_bit a) 5 false mask _, ?_⟩
  have hf := (switchFault_within (a := a) List.mem_cons_self 5 false mask (chopShort_bit a).own (unselected_raise_shortEvt hu)
    (.refl _ [a] _)).fields (F.AX_CC_FLAG.CHOP_SHORT_EVT a) fun b hb g hg => by
      obtain rfl := List.mem_singleton.mp hb
      exact shortEvt_apart hg
  rw [hf]
  exact State.get_set_same _ _ _ (by dsimp only; omega) (by dsimp only; omega) (by simp)

end

/-! ### What the events of a chopper leave -/

section
variable {a : Axis} {w : Fin 2} {x : Samples} {s : State}

theorem Within.chopEvent {r s t : State} (h : Within eventScope [a] r s) (hc : Within chopScope [a] s t) : Within eventScope [a] r t :=
  h.trans (hc.widen chopScope_le_eventScope)

theorem chopRelease_event {r : State} (trip : Bool) (h : Within eventScope [a] r s) : Within eventScope [a] r (chopRelease a w trip s) :=
  h.chopEvent (chopRelease_within Scope.le_rfl List.mem_cons_self w trip (.refl _ _ s))

theorem watched_within (n : Nat) : Within eventScope [a] s (watching a w n (blankFed a w x s)) :=
  (blankFed_within a w x s).chopEvent (watching_within a w _ n)

theorem watched_chop (n : Nat) : ((watching a w n (blankFed a w x s)).cc a).w[w].chop =
    { (s.cc a).w[w].chop with watch := true, shorts := n } := by
  rw [watching_chop, blankFed_w]

theorem watched_unselected (n : Nat) (hu : unselected a s) : unselected a (watching a w n (blankFed a w x s)) := by
  rw [unselected, watching, modChop, State.modCc_get, blankFed_get a w x s (ocOut_apart w (by dsimp only; omega))]
  exact hu

/-- The end of a blanking that finds the comparator inactive (R161). -/
theorem chopBlankEnd_watches (hq : s.whReq = []) (hc : chopping s a = true) (hp : (s.cc a).w[w].chop.phase = .on)
    (hw : (s.cc a).w[w].chop.watch = false) (ht : ocTripped (blankFed a w x s) a w = false) :
    Completes (.chopBlankEnd a w x) s fun t => (OnlyAxes [a] s t ∧ KeepsBlocks [a] plannerFields s t) ∧ KeepsFields [ocOut a w] s t
      ∧ t.get (ocOut a w) = bitOf ((blankFed a w x s).cc a).oc[w].out ∧ t.now = (blankFed a w x s).now
      ∧ (t.cc a).w[w].chop = { (s.cc a).w[w].chop with watch := true, shorts := 0 } := by
  have he : chopBlankEnd a w x (begun s) = watching a w 0 (blankFed a w x (begun s)) :=
    (chopBlankEnd_eq a w x (begun s) hc hp hw).trans (if_neg (ne_true_of_eq_false ht))
  have hin := watched_within (a := a) (w := w) (x := x) (s := begun s) 0
  refine completes_to rfl he (hin.eventWhReq.trans hq) ⟨hin.eventOnly, KeepsFields.settled fun g hg => ?_, ?_, ?_, ?_⟩
  · rw [watching, modChop, State.modCc_get]
    exact blankFed_get a w x (begun s) (hg _ List.mem_cons_self)
  · rw [settle_get]
    exact ocFeed_out a w x s
  · rw [settle_now]
    rfl
  · rw [settle_cc]
    exact watched_chop 0

/-- A start that counts towards `CHOP_SHORT` ends the on state (R161, R163). -/
theorem chopBlankEnd_counts (hq : s.whReq = []) (hc : chopping s a = true) (hp : (s.cc a).w[w].chop.phase = .on)
    (hw : (s.cc a).w[w].chop.watch = false) (ht : ocTripped (blankFed a w x s) a w = true)
    (hn : (s.cc a).w[w].chop.shorts + 1 < s.get (F.AX_CHOP.CHOP_SHORT_N a)) :
    Completes (.chopBlankEnd a w x) s fun t => (OnlyAxes [a] s t ∧ KeepsBlocks [a] plannerFields s t)
      ∧ (t.cc a).w[w].chop.phase = offPhase s a ∧ (t.cc a).w[w].chop.shorts = (s.cc a).w[w].chop.shorts + 1 := by
  have he : chopBlankEnd a w x (begun s) =
      chopRelease a w true (watching a w ((s.cc a).w[w].chop.shorts + 1) (blankFed a w x (begun s))) :=
    (chopBlankEnd_eq a w x (begun s) hc hp hw).trans ((if_pos ht).trans (congrArg _ (if_neg (Nat.not_le.mpr hn))))
  have hin := watched_within (a := a) (w := w) (x := x) (s := begun s) ((s.cc a).w[w].chop.shorts + 1)
  have hout := chopRelease_event (w := w) true hin
  have hdecay : offPhase (watching a w ((s.cc a).w[w].chop.shorts + 1) (blankFed a w x (begun s))) a = offPhase s a := by
    rw [offPhase, watching, modChop, State.modCc_get, blankFed_get a w x (begun s) (ocOut_apart w (by dsimp only; omega))]
    rfl
  refine completes_to rfl he (hout.eventWhReq.trans hq) ⟨hout.eventOnly, ?_, ?_⟩ <;> rw [settle_cc]
  · rw [chopRelease_chop (by rw [watched_chop]; exact hp), hdecay]
  · rw [chopRelease_shorts, watched_chop]

/-- A start too many is an overcurrent fault (R163). -/
theorem chopBlankEnd_shorts (hq : s.whReq = []) (hu : unselected a s) (hc : chopping s a = true)
    (hp : (s.cc a).w[w].chop.phase = .on) (hw : (s.cc a).w[w].chop.watch = false) (ht : ocTripped (blankFed a w x s) a w = true)
    (hn : s.get (F.AX_CHOP.CHOP_SHORT_N a) ≤ (s.cc a).w[w].chop.shorts + 1) :
    Completes (.chopBlankEnd a w x) s fun t => (OnlyAxes [a] s t ∧ KeepsBlocks [a] plannerFields s t)
      ∧ t.get (F.AX_CC_FLAG.CHOP_SHORT_EVT a) = 1 ∧ t.get (F.AX_GD_FLT.CHOP_SHORT a) = 1 ∧ (t.cc a).w[w].chop.shorts = 0 := by
  have he : chopBlankEnd a w x (begun s) =
      chopRelease a w true (shorted a w (watching a w ((s.cc a).w[w].chop.shorts + 1) (blankFed a w x (begun s)))) :=
    (chopBlankEnd_eq a w x (begun s) hc hp hw).trans ((if_pos ht).trans (congrArg _ (if_pos hn)))
  have hsel := watched_unselected (w := w) (x := x) ((s.cc a).w[w].chop.shorts + 1) (show unselected a (begun s) from hu)
  have hin := watched_within (a := a) (w := w) (x := x) (s := begun s) ((s.cc a).w[w].chop.shorts + 1)
  generalize watching a w ((s.cc a).w[w].chop.shorts + 1) (blankFed a w x (begun s)) = v at he hsel hin
  obtain ⟨hflt, hevt⟩ := chopShort_shows a w v hsel
  have hcut : Within chopScope [a] (chopShort a w v) (chopRelease a w true (shorted a w v)) :=
    (modChop_within Scope.le_rfl List.mem_cons_self w _ (.refl _ _ _)).trans
      (chopRelease_within Scope.le_rfl List.mem_cons_self w true (.refl _ _ _))
  have hout := (hin.trans (chopShort_within a w v hsel)).chopEvent hcut
  refine completes_to rfl he (hout.eventWhReq.trans hq) ⟨hout.eventOnly, ?_, ?_, ?_⟩
  · rw [settle_get, hcut.chopGet (by dsimp only; omega), hevt]
  · rw [settle_get, hcut.chopGet (by dsimp only; omega), hflt]
  · rw [settle_cc, chopRelease_shorts, shorted, modChop_w]

/-- An on state ends by its comparator or with the period (R161). -/
theorem chopOff_releases (hq : s.whReq = []) (hc : chopping s a = true) (hp : (s.cc a).w[w].chop.phase = .on)
    (he : chopEnds (ocFeed a w x (s.at_ x.t)).1 a w (s.cc a).w[w].chop s) :
    Completes (.chopOff a w x) s fun t => (OnlyAxes [a] s t ∧ KeepsBlocks [a] plannerFields s t)
      ∧ t.now = (ocFeed a w x (s.at_ x.t)).1.now ∧ (t.cc a).w[w].chop.phase = offPhase s a
      ∧ (t.cc a).w[w].chop.from_ = (ocFeed a w x (s.at_ x.t)).1.now := by
  obtain ⟨trip, hr⟩ := chopOff_ends (s := (begun s).at_ x.t) hc he
  have hin := ((Within.refl eventScope [a] (begun s)).eventAt x.t).trans (ocFeed_within a w x ((begun s).at_ x.t))
  have hrel := chopRelease_within (a := a) Scope.le_rfl List.mem_cons_self w trip (.refl chopScope [a] (ocFeed a w x ((begun s).at_ x.t)).1)
  have hout := hin.chopEvent hrel
  have hon : ((ocFeed a w x ((begun s).at_ x.t)).1.cc a).w[w].chop.phase = .on := by
    rw [ocFeed_w]
    exact hp
  have hdecay : offPhase (ocFeed a w x ((begun s).at_ x.t)).1 a = offPhase s a := by
    rw [offPhase, ocFeed_get a w x _ (ocOut_apart w (by dsimp only; omega))]
    rfl
  refine completes_to (f := timed x.t (chopOff a w x)) rfl hr (hout.eventWhReq.trans hq) ⟨hout.eventOnly, ?_, ?_, ?_⟩
  · rw [settle_now, hrel.chopNow]
    rfl
  · rw [settle_cc, chopRelease_chop hon, hdecay]
  · rw [settle_cc, chopRelease_chop hon]
    rfl

/-- Within an on state, or outside one, the samples alone are taken (R297). -/
theorem chopOff_samples (hq : s.whReq = []) (hc : chopping s a = true)
    (he : (s.cc a).w[w].chop.phase ≠ .on ∨ ¬ chopEnds (ocFeed a w x (s.at_ x.t)).1 a w (s.cc a).w[w].chop s) :
    Does (.chopOff a w x) s (ocFeed a w x (s.at_ x.t)).1
      [(ocOut a w, bitOf ((ocFeed a w x (s.at_ x.t)).1.cc a).oc[w].out)] [] := by
  have hw : (ocFeed a w x (s.at_ x.t)).1.whReq = [] := (ocFeed_within a w x (s.at_ x.t)).eventWhReq.trans hq
  refine does_by (f := timed x.t (chopOff a w x)) (v := begun (ocFeed a w x (s.at_ x.t)).1) rfl hw
    (chopOff_stays (s := (begun s).at_ x.t) hc he) rfl (fun g hg => ?_) fun p hp => ?_
  · exact ocFeed_get a w x (s.at_ x.t) (hg _ List.mem_cons_self)
  · obtain rfl := List.mem_singleton.mp hp
    exact ocFeed_out a w x (s.at_ x.t)

/-- The next cycle begins after `TOFF` (R161, R162). -/
theorem chopToffEnd_cycles (hq : s.whReq = []) (hc : chopping s a = true)
    (hp : (s.cc a).w[w].chop.phase = .fast ∨ (s.cc a).w[w].chop.phase = .slow) :
    Completes (.chopToffEnd a w) s fun t => (OnlyAxes [a] s t ∧ KeepsBlocks [a] plannerFields s t)
      ∧ t.now = max s.now ((s.cc a).w[w].chop.from_ + s.get (F.AX_CHOP.TOFF a) * 800)
      ∧ (t.cc a).w[w].chop.phase = (if (s.cc a).w[w].chop.thr = 0 then .held else .on)
      ∧ (t.cc a).w[w].chop.pos = irefPos s a w := by
  let u := (begun s).at_ ((s.cc a).w[w].chop.from_ + toffOf s a)
  have he : chopToffEnd a w (begun s) = chopCycle a w (chopMixed a w u.now u) := by
    refine if_neg (not_or.mpr ⟨not_not.mpr hc, fun ⟨hf, hs⟩ => ?_⟩)
    exact hp.elim hf hs
  have hmix := chopMixed_within (a := a) Scope.le_rfl List.mem_cons_self w u.now (.refl chopScope [a] u)
  have hcyc := chopCycle_within (a := a) Scope.le_rfl List.mem_cons_self w hmix
  have hout := ((Within.refl eventScope [a] (begun s)).eventAt ((s.cc a).w[w].chop.from_ + toffOf s a)).chopEvent hcyc
  obtain ⟨hphase, hpos⟩ := chopCycle_chop (a := a) (w := w) (s := chopMixed a w u.now u)
  have hsign : irefPos (chopMixed a w u.now u) a w = irefPos s a w := by
    unfold irefPos State.getS
    rw [hmix.chopGet (by dsimp only; omega), hmix.chopGet (by dsimp only; omega)]
    rfl
  refine completes_to rfl he (hout.eventWhReq.trans hq) ⟨hout.eventOnly, ?_, ?_, ?_⟩
  · rw [settle_now, hcyc.chopNow]
    rfl
  · rw [settle_cc, hphase, chopMixed_cc]
    rfl
  · rw [settle_cc, hpos, hsign]

end

/-! ### Probes of an axis (R188 to R190) -/

/-- The results of a burst (R190). -/
def resultFields (a : Axis) : List Fld :=
  [F.AX_PROBE_RES.PROBE_SAL a, F.AX_PROBE_RES.PROBE_DISP a, F.AX_PROBE_RES.PROBE_UNAVAILABLE a, F.AX_PROBE_RES.PROBE_DISP_HIGH a]

/-- The scope of the results of a burst, which may use a free value. -/
def resultScope : Scope where
  side s := besideEngines { s with freeCtr := 0 }
  keep x := x
  fields a f := f ∈ resultFields a
  side_engine _ _ _ := rfl

/-- The scope of a burst that ends. -/
def burstScope : Scope :=
  { eventScope with fields := fun a f => f ∈ F.AX_PROBE_SET.PROBE_ACT a :: F.AX_PROBE_RES.PROBE_DONE a :: resultFields a }

theorem resultScope_le_burstScope : resultScope.le burstScope where
  side _ _ h := congrArg (fun s : State => { s with now := 0, ip := { s.ip with cmdq := [], ledger := [], log := [] } }) h
  keep _ _ _ := rfl
  fields _ _ h := List.mem_cons_of_mem _ (List.mem_cons_of_mem _ h)

theorem burstScope_fields {a : Axis} {f : Fld} (h : burstScope.fields a f) :
    f = F.AX_PROBE_SET.PROBE_ACT a ∨ f.addr = (F.AX_PROBE_RES.all a).addr ∧ f.hi < 32 := by
  change f ∈ _ at h
  simp only [resultFields, List.mem_cons, List.not_mem_nil, or_false] at h
  rcases h with rfl | rfl | rfl | rfl | rfl | rfl
  · exact Or.inl rfl
  all_goals exact Or.inr ⟨rfl, by dsimp only; omega⟩

theorem burstScope_le_eventScope : burstScope.le eventScope where
  side _ _ h := h
  keep _ _ h := h
  fields a f h := by
    refine Or.inr (Or.inl ?_)
    rcases burstScope_fields h with rfl | ⟨h, -⟩
    · dsimp only
      omega
    · rw [h]
      dsimp only
      omega

section
variable {a : Axis} {s : State}

theorem Within.burstKeeps {r t : State} (h : Within burstScope [a] r t) :
    KeepsFields [F.AX_PROBE_SET.PROBE_ACT a, F.AX_PROBE_RES.all a] r t := fun g hg =>
  h.fields g fun b hb f hf => by
    obtain rfl := List.mem_singleton.mp hb
    have hres := hg _ (List.mem_cons_of_mem _ List.mem_cons_self)
    dsimp only at hres
    rcases burstScope_fields hf with rfl | ⟨haddr, hhi⟩
    · exact hg _ List.mem_cons_self
    · unfold Fld.apart
      dsimp only at haddr
      omega

/-- Neither the probe's mark nor `PROBE_DONE` shares a bit with the results. -/
theorem Within.resultGet {r t : State} (h : Within resultScope [a] r t) :
    t.get (F.AX_PROBE_SET.PROBE_ACT a) = r.get (F.AX_PROBE_SET.PROBE_ACT a)
    ∧ t.get (F.AX_PROBE_RES.PROBE_DONE a) = r.get (F.AX_PROBE_RES.PROBE_DONE a) := by
  constructor <;> refine h.fields _ fun b hb f hf => ?_
  all_goals
    obtain rfl := List.mem_singleton.mp hb
    change f ∈ _ at hf
    simp only [resultFields, List.mem_cons, List.not_mem_nil, or_false] at hf
    unfold Fld.apart
    rcases hf with rfl | rfl | rfl | rfl <;> dsimp only <;> omega

theorem probeResults_within (p : ProbeSt) : Within resultScope [a] s (probeResults a p s) := by
  have hsal := fun v => (Within.refl resultScope [a] s).set (f := F.AX_PROBE_RES.PROBE_SAL a) v List.mem_cons_self
    (by simp [resultScope, resultFields])
  have hdisp : ∀ {u : State} (v : Nat), Within resultScope [a] s u → Within resultScope [a] s (u.set (F.AX_PROBE_RES.PROBE_DISP a) v) :=
    fun v h => h.set v List.mem_cons_self (by simp [resultScope, resultFields])
  unfold probeResults
  refine .ite ((hdisp _ (hsal _)).raise List.mem_cons_self ?_) (.ite ((hdisp _ (hsal _)).raise List.mem_cons_self ?_) ?_)
  case refine_3 => exact hdisp _ (hsal _)
  all_goals simp [resultScope, resultFields]

/-- The results of a burst stay open: one free value fills both (R190). -/
def openResults (a : Axis) (s : State) : State :=
  (s.free.2.set (F.AX_PROBE_RES.PROBE_DISP a) (s.free.1.toNat % 65536)).set (F.AX_PROBE_RES.PROBE_SAL a) (s.free.1.toNat / 65536)

theorem openResults_within : Within resultScope [a] s (openResults a s) := by
  have h1 : Within resultScope [a] s s.free.2 := (Within.refl resultScope [a] s).beside rfl rfl rfl
  exact (h1.set _ List.mem_cons_self (by simp [resultScope, resultFields])).set _ List.mem_cons_self (by simp [resultScope, resultFields])

theorem openResults_disp : (openResults a s).get (F.AX_PROBE_RES.PROBE_DISP a) = (Config.freeWord s.freeCtr).toNat % 65536 := by
  unfold openResults
  rw [State.get_set_other _ _ _ _ (Or.inr (Or.inl (by dsimp only; omega)))]
  exact State.get_set_same _ _ _ (by dsimp only; omega) (by dsimp only; omega) (Nat.mod_lt _ (by decide))

theorem openResults_sal : (openResults a s).get (F.AX_PROBE_RES.PROBE_SAL a) = (Config.freeWord s.freeCtr).toNat / 65536 % 4096 := by
  unfold openResults
  exact State.get_set_low _ _ _ (by dsimp only; omega) (by dsimp only; omega)

/-- The burst ends, its pulses no longer added (R190, R191). -/
def burstEnded (a : Axis) (p : ProbeSt) (s : State) : State :=
  (probeClear a (s.at_ (p.at_ + probePeriod s a))).raise (F.AX_PROBE_RES.PROBE_DONE a)

theorem burstEnded_within (p : ProbeSt) : Within burstScope [a] s (burstEnded a p s) := by
  have hat : Within burstScope [a] s (s.at_ (p.at_ + probePeriod s a)) := (Within.refl burstScope [a] s).beside rfl rfl rfl
  have hact := hat.set (f := F.AX_PROBE_SET.PROBE_ACT a) 0 List.mem_cons_self List.mem_cons_self
  have hclear : Within burstScope [a] s (probeClear a (s.at_ (p.at_ + probePeriod s a))) := by
    unfold probeClear
    refine Within.modCc (Within.modAx hact List.mem_cons_self ?_) List.mem_cons_self ?_ <;> exact fun _ => rfl
  exact hclear.raise List.mem_cons_self (List.mem_cons_of_mem _ List.mem_cons_self)

theorem burstEnded_act (p : ProbeSt) : (burstEnded a p s).get (F.AX_PROBE_SET.PROBE_ACT a) = 0 := by
  rw [burstEnded, State.raise, State.get_set_other _ _ _ _ (Or.inl (by dsimp only; omega)), probeClear, State.modCc_get, State.modAx_get]
  exact State.get_set_same _ _ _ (by dsimp only; omega) (by dsimp only; omega) (by simp)

theorem burstEnded_done (p : ProbeSt) : (burstEnded a p s).get (F.AX_PROBE_RES.PROBE_DONE a) = 1 :=
  State.get_set_same _ _ _ (by dsimp only; omega) (by dsimp only; omega) (by simp)

theorem burstEnded_probe (p : ProbeSt) : ((burstEnded a p s).ax a).probe = none := by
  rw [burstEnded, State.raise_ax, probeClear, State.modCc, State.modAx_ax_self, State.modAx_ax_self]

/-- The end of a burst, by the inductances it has measured (R190). -/
theorem probeDone_eq {di : Int} {p : ProbeSt} (hp : (s.ax a).probe = some p) (hn : s.get (F.AX_PROBE_CFG.PROBE_CYC a) * 4 ≤ p.n) :
    probeDone a di s =
      if (probeTake s a di p).bad ∨ (probeTake s a di p).counts.toList.any (· == 0) then openResults a (burstEnded a p s)
      else probeResults a (probeTake s a di p) (burstEnded a p s) := by
  unfold probeDone
  rw [hp]
  exact if_neg (Nat.not_lt.mpr hn)

/-- A pulse without a current change leaves the burst without its inductances (R189). -/
theorem probeTake_bad {di : Int} {p : ProbeSt} (h : p.bad = true ∨ (0 < p.n ∧ di ≤ 0)) : (probeTake s a di p).bad = true := by
  unfold probeTake
  by_cases h0 : p.n = 0
  · rw [if_pos h0]
    exact h.resolve_right fun ⟨hn, _⟩ => absurd hn (by omega)
  · rw [if_neg h0]
    by_cases hd : di ≤ 0
    · rw [if_pos hd]
    · rw [if_neg hd]
      exact h.resolve_right fun ⟨_, h⟩ => hd h

theorem probeTake_ticket {di : Int} {p : ProbeSt} : (probeTake s a di p).ticket = p.ticket := by
  unfold probeTake
  by_cases h0 : p.n = 0
  · rw [if_pos h0]
  · rw [if_neg h0]
    by_cases hd : di ≤ 0
    · rw [if_pos hd]
    · rw [if_neg hd]

/-- A burst that begins at an instant (R188). -/
def burstFrom (ticket : Option (BitVec 8)) (t : Nat) : ProbeSt :=
  { ticket := ticket, n := 0, at_ := t, sums := Vector.replicate 4 0, counts := Vector.replicate 4 0, bad := false }

/-- The conditions of a burst do not depend on the intervals of `PROBE_EVERY`. -/
theorem probeReady_at (t : Nat) (n : Option Nat) : probeReady ((s.at_ t).modAx a fun x => { x with probeAt := n }) a = probeReady s a := by
  have hmot : ((s.at_ t).modAx a fun x => { x with probeAt := n }).mot a = s.mot a := by
    rw [State.mot, State.modAx_ax_self]
    rfl
  have hprobe : (((s.at_ t).modAx a fun x => { x with probeAt := n }).ax a).probe = (s.ax a).probe := by
    rw [State.modAx_ax_self]
    rfl
  unfold probeReady atStandstill scaleRule State.policyNow
  rw [hmot, hprobe]
  rfl

end

section
variable {a : Axis} {s : State}

/-- The interval of `PROBE_EVERY` that follows the one begun at `x` (R188). -/
def nextProbe (s : State) (a : Axis) (x : Nat) : Nat := x + s.get (F.AX_PROBE_SET.PROBE_EVERY a) * 100 * msT

theorem probeAuto_eq {x : Nat} (hx : (s.ax a).probeAt = some x) : probeAuto a s =
    if probeReady s a then probeStart a none ((s.at_ (nextProbe s a x)).modAx a fun y => { y with probeAt := some (nextProbe s a x) })
    else (s.at_ (nextProbe s a x)).modAx a fun y => { y with probeAt := some (nextProbe s a x) } := by
  rw [← probeReady_at (nextProbe s a x) (some (nextProbe s a x))]
  unfold probeAuto
  rw [hx]
  rfl

/-- An interval that ends with the conditions of a burst begins one (R188). -/
theorem probeAuto_starts (hq : s.whReq = []) {x : Nat} (hx : (s.ax a).probeAt = some x) (hr : probeReady s a = true) :
    Does (.probeAuto a) s
      ((s.at_ (nextProbe s a x)).modAx a fun y => { y with
        probeAt := some (nextProbe s a x)
        probe := some (burstFrom none (max s.now (nextProbe s a x))) })
      [(F.AX_PROBE_SET.PROBE_ACT a, 1)] [] := by
  have he := (probeAuto_eq (s := begun s) hx).trans (if_pos hr)
  refine does_of (f := probeAuto a) _ rfl hq rfl (he.trans ?_) (fun p hp => ?_) (List.pairwise_singleton _ _)
  · exact State.modAx_modAx (((begun s).at_ (nextProbe s a x)).set (F.AX_PROBE_SET.PROBE_ACT a) 1) a
      (fun y => { y with probeAt := some (nextProbe s a x) }) fun y => { y with probe := some (burstFrom none (max s.now (nextProbe s a x))) }
  · obtain rfl := List.mem_singleton.mp hp
    exact ⟨by dsimp only; omega, by dsimp only; omega, by simp⟩

theorem probeAuto_waits (hq : s.whReq = []) {x : Nat} (hx : (s.ax a).probeAt = some x) (hr : probeReady s a = false) :
    Does (.probeAuto a) s ((s.at_ (nextProbe s a x)).modAx a fun y => { y with probeAt := some (nextProbe s a x) }) [] [] :=
  does_nothing (f := probeAuto a) rfl hq rfl ((probeAuto_eq (s := begun s) hx).trans (if_neg (ne_true_of_eq_false hr)))

theorem probeAuto_idle (hq : s.whReq = []) (hx : (s.ax a).probeAt = none) : Does (.probeAuto a) s s [] [] := by
  refine does_nothing (f := probeAuto a) rfl hq rfl ?_
  unfold probeAuto
  rw [begun_ax, hx]

variable {di : Int} {p : ProbeSt}

/-- A burst goes on by one probe period (R189). -/
theorem probeStep_goes_on (hq : s.whReq = []) (hp : (s.ax a).probe = some p) (hn : p.n < s.get (F.AX_PROBE_CFG.PROBE_CYC a) * 4) :
    Completes (.probePeriod a di) s fun t => OnlyAxes [a] s t ∧ t.regs = s.regs
      ∧ t.now = max s.now (if p.n = 0 then p.at_ else p.at_ + probePeriod s a)
      ∧ ∃ q, (t.ax a).probe = some q ∧ q.n = p.n + 1 ∧ q.at_ = (if p.n = 0 then p.at_ else p.at_ + probePeriod s a)
        ∧ q.ticket = p.ticket := by
  let next := if p.n = 0 then p.at_ else p.at_ + probePeriod s a
  have he : probeStep a di (begun s) = ((begun s).at_ next).modAx a fun x =>
      { x with probe := some { probeTake (begun s) a di p with n := p.n + 1, at_ := next } } := by
    unfold probeStep
    rw [begun_ax, hp]
    exact if_neg (Nat.not_le.mpr hn)
  have hat : Within eventScope [a] (begun s) ((begun s).at_ next) := (Within.refl eventScope [a] (begun s)).eventAt next
  have hout : Within eventScope [a] (begun s) (((begun s).at_ next).modAx a fun x =>
      { x with probe := some { probeTake (begun s) a di p with n := p.n + 1, at_ := next } }) := hat.modAx List.mem_cons_self fun _ => rfl
  refine completes_to (f := probeStep a di) rfl he hq ⟨hout.eventOnly.1, ?_, ?_, ?_⟩
  · rw [settle_regs]
    rfl
  · rw [settle_now]
    rfl
  · rw [settle_ax, State.modAx_ax_self]
    exact ⟨_, rfl, rfl, rfl, probeTake_ticket⟩

/-- The work that ends a burst, by what it leaves. -/
theorem burst_within (p : ProbeSt) {u : State} (h : Within resultScope [a] (burstEnded a p s) u) : Within burstScope [a] s u :=
  (burstEnded_within p).trans (h.widen resultScope_le_burstScope)

/-- A burst ends with its results (R190). -/
theorem probeDone_ends (hq : s.whReq = []) (hp : (s.ax a).probe = some p) (hn : s.get (F.AX_PROBE_CFG.PROBE_CYC a) * 4 ≤ p.n) :
    Completes (.probeDone a di) s fun t => OnlyAxes [a] s t ∧ KeepsFields [F.AX_PROBE_SET.PROBE_ACT a, F.AX_PROBE_RES.all a] s t
      ∧ t.now = max s.now (p.at_ + probePeriod s a) ∧ (t.ax a).probe = none ∧ t.get (F.AX_PROBE_SET.PROBE_ACT a) = 0
      ∧ t.get (F.AX_PROBE_RES.PROBE_DONE a) = 1
      ∧ (p.bad = true ∨ (0 < p.n ∧ di ≤ 0) → t.freeCtr = s.freeCtr + 1
          ∧ t.get (F.AX_PROBE_RES.PROBE_DISP a) = (Config.freeWord s.freeCtr).toNat % 65536
          ∧ t.get (F.AX_PROBE_RES.PROBE_SAL a) = (Config.freeWord s.freeCtr).toNat / 65536 % 4096) := by
  have he := probeDone_eq (s := begun s) (di := di) hp hn
  have hres : Within resultScope [a] (burstEnded a p (begun s)) (probeDone a di (begun s)) := by
    rw [he]
    exact .ite openResults_within (probeResults_within _)
  have hall := burst_within p hres
  have hall' := hall.widen burstScope_le_eventScope
  have hnow : (probeDone a di (begun s)).now = max s.now (p.at_ + probePeriod s a) := by
    have := congrArg State.now hres.side
    exact this
  obtain ⟨hact, hdone⟩ := hres.resultGet
  refine completes_of (f := probeDone a di) rfl (hall'.eventWhReq.trans hq)
    ⟨hall'.eventOnly.1, hall.burstKeeps.settled, ?_, ?_, ?_, ?_, fun hbad => ?_⟩
  · rw [settle_now, hnow]
  · rw [settle_ax, show (probeDone a di (begun s)).ax a = (burstEnded a p (begun s)).ax a from hres.own a, burstEnded_probe]
  · rw [settle_get, hact, burstEnded_act]
  · rw [settle_get, hdone, burstEnded_done]
  · rw [congrArg State.freeCtr (settle_eq _).1, settle_get, settle_get, he, if_pos (Or.inl (probeTake_bad hbad)),
      openResults_disp, openResults_sal]
    exact ⟨rfl, rfl, rfl⟩

end

/-! ### Choppers and probes of an axis -/

/-- Settles O29, event by event: a chopper's next phase follows from what its comparator has shown, a burst's from its count of
periods. -/
theorem choppersAndProbesOfAnAxis : Obligations.ChoppersAndProbesOfAnAxis := by
  unfold Obligations.ChoppersAndProbesOfAnAxis
  intro a s hq hu
  refine ⟨fun w x hc => ⟨fun hp hw => ⟨chopBlankEnd_watches hq hc hp hw, chopBlankEnd_counts hq hc hp hw,
    chopBlankEnd_shorts hq hu hc hp hw⟩, ⟨chopOff_releases hq hc, chopOff_samples hq hc⟩, chopToffEnd_cycles hq hc⟩,
    fun x hx => ⟨probeAuto_starts hq hx, probeAuto_waits hq hx⟩, probeAuto_idle hq,
    fun p di hp => ⟨probeStep_goes_on hq hp, probeDone_ends hq hp⟩⟩

end Sys2Proof.Machine

/-! # Writes that make the registers of axes, channels and wave tables act (R138 to R143, R199 to R204, R260, R269) -/

namespace Sys2Proof.Machine

/-! ### Register files that read alike -/

/-- Every word reads alike. -/
def SameWords (s t : State) : Prop := ∀ addr, rfGet s.regs addr = rfGet t.regs addr

section
variable {s t : State}

theorem SameWords.get (h : SameWords s t) (g : Fld) : s.get g = t.get g := congrArg (getBits · g.hi g.lo) (h g.addr)

theorem SameWords.flag (h : SameWords s t) (g : Fld) : s.flag g = t.flag g := congrArg (· != 0) (h.get g)

theorem SameWords.set (h : SameWords s t) (f : Fld) (v : Nat) : SameWords (s.set f v) (t.set f v) := by
  intro addr
  unfold State.set
  dsimp only
  by_cases ha : addr = f.addr
  · rw [ha, rfGet_rfSet_same, rfGet_rfSet_same, h]
  · rw [rfGet_rfSet_other _ _ _ _ ha, rfGet_rfSet_other _ _ _ _ ha, h]

theorem SameWords.sets (l : List (Fld × Nat)) (h : SameWords s t) : SameWords (s.sets l) (t.sets l) := by
  induction l generalizing s t with
  | nil => exact h
  | cons p l ih => exact ih (h.set p.1 p.2)

/-- A word written as it was. -/
theorem SameWords.setWord_same (s : State) (addr : Nat) : SameWords (s.setWord addr (rfGet s.regs addr)) s := by
  intro b
  unfold State.setWord
  dsimp only
  by_cases h : b = addr
  · rw [h, rfGet_rfSet_same]
  · rw [rfGet_rfSet_other _ _ _ _ h]

end

/-- A register is written as it was, the unlock consumed (R369, R371). -/
def rewritten (addr : Nat) (s : State) : State := (consumeUnlock s).setWord addr (rfGet s.regs addr)

theorem rewritten_same (addr : Nat) (s : State) : SameWords (rewritten addr s) s := SameWords.setWord_same (consumeUnlock s) addr

/-- A command whose work reads as fields written in turn. -/
theorem does_reads {c : Instr} {f : State → State} {s u v : State} {l : List (Fld × Nat)} (hc : exec c s = runCmd f s)
    (hq : u.whReq = []) (hv : f (begun s) = v) (hb : v = { u with regs := v.regs, cv := { u.cv with tx := v.cv.tx } })
    (hw : SameWords v (s.sets l)) (hh : ∀ p ∈ l, p.1.holds p.2) (hl : l.Pairwise fun p q => p.1.apart q.1) : Does c s u l [] := by
  refine does_by hc hq hv hb (fun g hg => ?_) fun p hp => (hw.get _).trans (State.get_sets_mem s l hh hl p hp)
  rw [hw.get, State.get_sets_apart _ _ _ fun p hp => hg p.1 (by simpa using ⟨p.2, hp⟩)]

/-- The order in which the fields are named is of no matter. -/
theorem Does.perm {c : Instr} {s u : State} {l m : List (Fld × Nat)} (h : Does c s u l []) (hp : l.Perm m) : Does c s u m [] := by
  obtain ⟨t, he, hb, hk, hv⟩ := h
  exact ⟨t, he, hb, fun g hg => hk g fun f hf => hg f (by simpa [hp.mem_iff] using hf), fun p h => hv p (hp.mem_iff.mpr h)⟩

/-! ### Action bits of a register with several copies -/

/-- A field of action bits (R369): a write of it leaves the word. -/
structure ActionBit (hi lo : Nat) (row : RegRow) : Prop where
  plain : row.id ≠ .SYS_UNLOCK
  low : hi < 16
  unstored : accMask Acc.stored row.fields &&& fieldMask hi lo = 0
  uncleared : accMask (· == .w1c) row.fields &&& fieldMask hi lo = 0
  legal : ∀ g ∈ row.fields, g.mn = 0 ∧ 2 ^ (g.hi + 1 - g.lo) ≤ g.mx + 1

/-- A write of 1 to an action bit of copy `i` as its checks see it. -/
def bitWr (f : Fld) (row : RegRow) (i : Nat) (s : State) : RegWr := wrAt f.addr 1 (fieldData f 1) row i 0 s

theorem rwkChanged_same (fs : List FieldRow) (w : Word) : rwkChanged fs w w = false := by
  simp [rwkChanged]

section
variable {via : Port} {f : Fld} {row : RegRow} {i : Nat} {s : State}

theorem bitWr_old (hl : s.ip.loLatch = []) : (bitWr f row i s).old = rfGet s.regs f.addr := wrAt_old hl

theorem bitWr_new (hb : ActionBit f.hi f.lo row) (hl : s.ip.loLatch = []) : (bitWr f row i s).new = rfGet s.regs f.addr := by
  unfold bitWr
  rw [wrAt_new hl, wrMask_fieldData f 1 hb.low]
  exact writtenWord_idle _ _ _ _ hb.unstored hb.uncleared

@[simp] theorem bitWr_i : (bitWr f row i s).i = i := rfl

/-- The bit written is the only one to act. -/
theorem bitWr_acts {b k : Nat} (hf : f.hi = b ∧ f.lo = b) (hb : b < 16) (hk : k < 32) : (bitWr f row i s).acts k = decide (k = b) := by
  change (wrMask 1 (fieldData f 1) &&& wrBits 1 (fieldData f 1)).getLsbD k = _
  obtain ⟨hhi, hlo⟩ := hf
  rw [wrMask_fieldData f 1 (by omega), wrBits_fieldData f 1 (by omega), hhi, hlo, BitVec.getLsbD_and, fieldMask_getLsbD _ _ _ hk,
    putBits_getLsbD _ _ _ _ _ hk]
  by_cases h : k = b
  · subst h
    simp
  · rw [if_neg (by omega)]
    simp [h]

theorem bitWr_unchanged (hb : ActionBit f.hi f.lo row) (hl : s.ip.loLatch = []) :
    rwkChanged row.fields (bitWr f row i s).old (bitWr f row i s).new = false := by
  rw [bitWr_old hl, bitWr_new hb hl, rwkChanged_same]

/-- An action that is admitted is performed. -/
theorem bit_performs (h : WriteReaches false f.addr row i 0 s) (hb : ActionBit f.hi f.lo row) (hl : s.ip.loLatch = [])
    (hc : crossLegal (consumeUnlock s) (bitWr f row i s) = true) (ha : stateAdmits (consumeUnlock s) (bitWr f row i s) = true) {v : State}
    (hv : performWrite via (bitWr f row i s) (consumeUnlock s) = v) : strobe via false f s = { v with ip := { v.ip with wrStatus := 0 } } :=
  hostWrite_performs h (by decide) hb.plain (fun hk => absurd ((bitWr_unchanged hb hl).symm.trans hk) (by decide))
    (fieldsInRange_full hb.legal _ _) hc ha hv

/-- An action outside its allowed states is refused with a busy status. -/
theorem bit_busy (h : WriteReaches false f.addr row i 0 s) (hb : ActionBit f.hi f.lo row) (hl : s.ip.loLatch = []) (hid : row.id ≠ .WT_CTRL)
    (hc : crossLegal (consumeUnlock s) (bitWr f row i s) = true) (ha : stateAdmits (consumeUnlock s) (bitWr f row i s) = false) :
    strobe via false f s =
      (s.ended 0x21).sets [(F.CMD_REFUSE.REFUSE_CNT, counted s F.CMD_REFUSE.REFUSE_CNT), (F.CMD_REFUSE.LAST_CODE, 0x21)] :=
  hostWrite_refuses h (by decide) hb.plain (by decide)
    (checkedWrite_busy (bitWr_unchanged hb hl) hid (fieldsInRange_full hb.legal _ _) hc ha)

/-- A refusal that leaves an event beside its count (R142, R203). -/
theorem hostWrite_refuses_with {addr typ : Nat} {data : Word} (h : WriteReaches false addr row i 0 s) (ht : typ ≠ 3) (hid : row.id ≠ .SYS_UNLOCK)
    {code : Nat} (hcode : 0x10 ≤ code) {g : Fld} (hg : g.addr ≠ F.CMD_REFUSE.all.addr)
    (hw : checkedWrite via s.ip.unlocked (wrAt addr typ data row i 0 s) (consumeUnlock s) = ((consumeUnlock s).raise g, code)) :
    hostWrite via false addr typ data s = (s.ended code).sets
      [(g, 1), (F.CMD_REFUSE.REFUSE_CNT, counted s F.CMD_REFUSE.REFUSE_CNT), (F.CMD_REFUSE.LAST_CODE, code)] := by
  rw [hostWrite_runs h.runs ((writeReg_reaches h ht hid).trans hw)]
  have hn : counted ((consumeUnlock s).raise g) F.CMD_REFUSE.REFUSE_CNT = counted s F.CMD_REFUSE.REFUSE_CNT := by
    have hget : ((consumeUnlock s).raise g).get F.CMD_REFUSE.REFUSE_CNT = s.get F.CMD_REFUSE.REFUSE_CNT :=
      State.get_set_own _ _ fun e => hg e.symm
    unfold counted
    rw [hget]
  have hr : countRefusal (ansCode code) ((consumeUnlock s).raise g) = ((consumeUnlock s).raise g).sets
      [(F.CMD_REFUSE.REFUSE_CNT, counted ((consumeUnlock s).raise g) F.CMD_REFUSE.REFUSE_CNT), (F.CMD_REFUSE.LAST_CODE, code)] := if_pos hcode
  rw [hr, hn]
  exact State.sets_commute (f := fun x => { x with ip := { x.ip with wrStatus := BitVec.ofNat 8 code } }) (fun _ _ _ => rfl) (consumeUnlock s)
    [(g, 1), (F.CMD_REFUSE.REFUSE_CNT, counted s F.CMD_REFUSE.REFUSE_CNT), (F.CMD_REFUSE.LAST_CODE, code)]

end

/-- A refusal with its event as a command. -/
theorem does_refused_with {c : Instr} {f : State → State} {s : State} {code : Nat} {g : Fld} (hc : exec c s = runCmd f s) (hq : s.whReq = [])
    (hcode : code < 256) (hg : g.addr ≠ F.CMD_REFUSE.all.addr) (hone : g.holds 1) (hf : f (begun s) = ((begun s).ended code).sets
      [(g, 1), (F.CMD_REFUSE.REFUSE_CNT, counted s F.CMD_REFUSE.REFUSE_CNT), (F.CMD_REFUSE.LAST_CODE, code)]) :
    Does c s (s.ended code)
      [(F.CMD_REFUSE.REFUSE_CNT, counted s F.CMD_REFUSE.REFUSE_CNT), (F.CMD_REFUSE.LAST_CODE, code), (g, 1)] [] := by
  have hn := counted_holds s (f := F.CMD_REFUSE.REFUSE_CNT) (by simp) (by simp)
  have hl : F.CMD_REFUSE.LAST_CODE.holds code := ⟨by simp, by simp, hcode⟩
  have h : Does c s (s.ended code)
      [(g, 1), (F.CMD_REFUSE.REFUSE_CNT, counted s F.CMD_REFUSE.REFUSE_CNT), (F.CMD_REFUSE.LAST_CODE, code)] [] := by
    refine does_of _ hc hq rfl hf ?_ ?_
    · simp only [List.forall_mem_cons]
      exact ⟨hone, hn, hl, by simp⟩
    · have h1 : g.apart F.CMD_REFUSE.REFUSE_CNT := Or.inl hg
      have h2 : g.apart F.CMD_REFUSE.LAST_CODE := Or.inl hg
      have h3 : F.CMD_REFUSE.REFUSE_CNT.apart F.CMD_REFUSE.LAST_CODE := Or.inr (Or.inl (by decide))
      simp [h1, h2, h3]
  exact h.perm (List.perm_append_comm (l₁ := [(g, 1)]))

/-! ### The home bits (R269) -/

/-- The register of the home bits. -/
def fbCtrlRow : RegRow := ⟨.AX_FB_CTRL, 0x100718, 16, 4096, 1, 0, 0, [⟨0, 0, .wo, 0, 2, 0, 1⟩, ⟨1, 1, .wo, 0, 2, 0, 1⟩]⟩

theorem fbCtrlRow_found : ∀ a : Axis, regAt (F.AX_FB_CTRL.all a).addr = some (fbCtrlRow, a.val, 0) := by decide +kernel

theorem armBit : ActionBit 0 0 fbCtrlRow := ⟨by decide, by decide, by decide, by decide, by decide⟩

theorem cancelBit : ActionBit 1 1 fbCtrlRow := ⟨by decide, by decide, by decide, by decide, by decide⟩

theorem axisOf_axis (a : Axis) : axisOf a.val = a := Fin.ext (Nat.mod_eq_of_lt a.isLt)

section
variable {via : Port} {w : RegWr} {s : State} (h : w.row = fbCtrlRow)
include h

theorem performWrite_fbCtrl : performWrite via w s =
    if w.acts 1 then homeCancel (axisOf w.i) (if w.acts 0 then (homeArm (axisOf w.i) s).1 else s)
    else if w.acts 0 then (homeArm (axisOf w.i) s).1 else s := by
  simp only [performWrite, h, fbCtrlRow]

theorem crossLegal_fbCtrl : crossLegal s w = true := by
  simp only [crossLegal, h, fbCtrlRow]

theorem stateAdmits_fbCtrl : stateAdmits s w = (!w.acts 0 || !fbFollowed s (axisOf w.i)) := by
  simp only [stateAdmits, h, fbCtrlRow]

end

section
variable {s : State} (hq : s.whReq = []) (hr : s.ip.running = true) (hl : s.ip.loLatch = []) (a : Axis) (hp : s.pd (3 + (quadOf a).val) = true)

theorem armWr_acts : (bitWr (F.AX_FB_CTRL.HOME_ARM a) fbCtrlRow a.val s).acts 0 = true
    ∧ (bitWr (F.AX_FB_CTRL.HOME_ARM a) fbCtrlRow a.val s).acts 1 = false :=
  ⟨bitWr_acts (b := 0) ⟨rfl, rfl⟩ (by decide) (by decide), bitWr_acts (b := 0) ⟨rfl, rfl⟩ (by decide) (by decide)⟩

theorem cancelWr_acts : (bitWr (F.AX_FB_CTRL.HOME_CANCEL a) fbCtrlRow a.val s).acts 0 = false
    ∧ (bitWr (F.AX_FB_CTRL.HOME_CANCEL a) fbCtrlRow a.val s).acts 1 = true :=
  ⟨bitWr_acts (b := 1) ⟨rfl, rfl⟩ (by decide) (by decide), bitWr_acts (b := 1) ⟨rfl, rfl⟩ (by decide) (by decide)⟩

/-- A follower of the axis forbids `HOME_ARM` (R269). -/
theorem armWr_admitted : stateAdmits (consumeUnlock (begun s)) (bitWr (F.AX_FB_CTRL.HOME_ARM a) fbCtrlRow a.val (begun s)) = !fbFollowed s a := by
  rw [stateAdmits_fbCtrl rfl, (armWr_acts a).1, bitWr_i, axisOf_axis]
  rfl

include hr hp

theorem fbCtrl_reaches : WriteReaches false (F.AX_FB_CTRL.all a).addr fbCtrlRow a.val 0 (begun s) :=
  writeReaches_axis (s := begun s) hr a hp (by dsimp only; omega) (by dsimp only; omega) (fbCtrlRow_found a)

include hq hl

theorem homeArm_busy (hf : fbFollowed s a = true) : Does (.homeArm a) s (s.ended 0x21)
    [(F.CMD_REFUSE.REFUSE_CNT, counted s F.CMD_REFUSE.REFUSE_CNT), (F.CMD_REFUSE.LAST_CODE, 0x21)] [] :=
  does_refused (f := strobe .hp false (F.AX_FB_CTRL.HOME_ARM a)) rfl hq (by decide)
    (bit_busy (f := F.AX_FB_CTRL.HOME_ARM a) (fbCtrl_reaches hr a hp) armBit hl (by decide) (crossLegal_fbCtrl rfl)
      ((armWr_admitted a).trans (by rw [hf]; rfl)))

theorem homeArm_arms (hf : fbFollowed s a = false) : Does (.homeArm a) s (s.ended 0) [(F.AX_FB_STAT.HOME_ARMED a, 1)] [] := by
  have hv : performWrite .hp (bitWr (F.AX_FB_CTRL.HOME_ARM a) fbCtrlRow a.val (begun s)) (consumeUnlock (begun s)) =
      (consumeUnlock (begun s)).set (F.AX_FB_STAT.HOME_ARMED a) 1 := by
    obtain ⟨h0, h1⟩ := armWr_acts (s := begun s) a
    rw [performWrite_fbCtrl rfl, h0, h1, bitWr_i, axisOf_axis]
    exact congrArg Prod.fst (if_neg (ne_true_of_eq_false hf))
  exact does_of (f := strobe .hp false (F.AX_FB_CTRL.HOME_ARM a)) _ rfl (u := s.ended 0) hq rfl
    (bit_performs (f := F.AX_FB_CTRL.HOME_ARM a) (fbCtrl_reaches hr a hp) armBit hl (crossLegal_fbCtrl rfl)
      ((armWr_admitted a).trans (by rw [hf]; rfl)) hv) (by simp [Fld.holds]) (List.pairwise_singleton _ _)

theorem homeCancel_cancels : Does (.homeCancel a) s (s.ended 0) [(F.AX_FB_STAT.HOME_ARMED a, 0)] [] := by
  obtain ⟨h0, h1⟩ := cancelWr_acts (s := begun s) a
  have hv : performWrite .hp (bitWr (F.AX_FB_CTRL.HOME_CANCEL a) fbCtrlRow a.val (begun s)) (consumeUnlock (begun s)) =
      (consumeUnlock (begun s)).set (F.AX_FB_STAT.HOME_ARMED a) 0 := by
    rw [performWrite_fbCtrl rfl, h0, h1, bitWr_i, axisOf_axis]
    rfl
  exact does_of (f := strobe .hp false (F.AX_FB_CTRL.HOME_CANCEL a)) _ rfl (u := s.ended 0) hq rfl
    (bit_performs (f := F.AX_FB_CTRL.HOME_CANCEL a) (fbCtrl_reaches hr a hp) cancelBit hl (crossLegal_fbCtrl rfl)
      ((stateAdmits_fbCtrl rfl).trans (by rw [h0]; rfl)) hv) (by simp [Fld.holds]) (List.pairwise_singleton _ _)

end

/-! ### COMMIT of an axis (R199, R200, R203, R204) -/

/-- The register of `COMMIT`. -/
def pwmCtrlRow : RegRow := ⟨.AX_PWM_CTRL, 0x100508, 16, 4096, 1, 0, 0, [⟨0, 0, .wo, 0, 2, 0, 1⟩]⟩

theorem pwmCtrlRow_found : ∀ a : Axis, regAt (F.AX_PWM_CTRL.all a).addr = some (pwmCtrlRow, a.val, 0) := by decide +kernel

theorem commitBit : ActionBit 0 0 pwmCtrlRow := ⟨by decide, by decide, by decide, by decide, by decide⟩

section
variable {via : Port} {unlocked : Bool} {w : RegWr} {s : State} (h : w.row = pwmCtrlRow)
include h

theorem performWrite_pwmCtrl : performWrite via w s = if w.acts 0 then (commitAxis (axisOf w.i) s).1 else s := by
  simp only [performWrite, h, pwmCtrlRow]

theorem crossLegal_pwmCtrl : crossLegal s w = (!w.acts 0 || commitFits s (axisOf w.i)) := by
  simp only [crossLegal, h, pwmCtrlRow]

theorem stateAdmits_pwmCtrl : stateAdmits s w = true := by
  simp only [stateAdmits, h, pwmCtrlRow]

/-- A set that does not fit leaves `COMMIT_REJ` (R203). -/
theorem checkedWrite_misfit (hk : rwkChanged w.row.fields w.old w.new = false) (hc : crossLegal s w = false) :
    checkedWrite via unlocked w s = ((commitAxis (axisOf w.i) s).1, 0x12) := by
  unfold checkedWrite
  dsimp only
  rw [if_neg (by simp [hk]), if_pos (Or.inr (by simp [hc])), if_pos (by rw [h]; rfl)]
  rfl

end

/-- The staging set of an axis (R199). -/
def axisStaging (s : State) (a : Axis) : Word × Word :=
  (BitVec.ofNat 32 (s.get (F.AX_PWM_STG.all a)), BitVec.ofNat 32 (s.get (F.AX_PWM_DLY.all a)))

section
variable {a : Axis} {s : State}

theorem commitAxis_misfit (hf : commitFits s a = false) : (commitAxis a s).1 = s.raise (F.AX_PWM_STAT.COMMIT_REJ a) := by
  unfold commitAxis
  rw [if_pos (ne_true_of_eq_false hf)]

theorem commitAxis_applies (hf : commitFits s a = true) (hm : s.mode = 2 ∨ s.mode = 3) :
    (commitAxis a s).1 = applyCommit a (axisStaging s a) s := by
  unfold commitAxis
  rw [if_neg (not_not.mpr hf), if_pos hm]
  rfl

theorem commitAxis_pends (hf : commitFits s a = true) (hm : ¬ (s.mode = 2 ∨ s.mode = 3)) :
    (commitAxis a s).1 = (s.modPwm a fun p => { p with pend := some (axisStaging s a) }).set (F.AX_PWM_ACT.COMMIT_PEND a) 1 := by
  unfold commitAxis
  rw [if_neg (not_not.mpr hf), if_neg hm]
  rfl

/-- The fields of a set in force. -/
def setFields (a : Axis) (set : Word × Word) : List (Fld × Nat) :=
  [(F.AX_PWM_ACT.ACT a, set.1.toNat % 2 ^ 29), (F.AX_PWM_ACT.COMMIT_PEND a, 0), (F.AX_PWM_DLY_ACT.DLY_ACT a, set.2.toNat)]

/-- A set as it takes effect, the edges still those of before. -/
def setTaken (a : Axis) (set : Word × Word) (s : State) : State :=
  (s.sets (setFields a set)).modPwm a fun p => { p with pend := none, carry := Vector.replicate 4 0 }

theorem applyCommit_edges (set : Word × Word) : Within edgeScope [a] (setTaken a set s) (applyCommit a set s) :=
  (Within.refl edgeScope [a] (setTaken a set s)).each allLegs fun _ _ _ ht => takeEdge_edges List.mem_cons_self _ _ ht

/-- The words of the set in force are none of the edges'. -/
theorem Within.edgeGet {r t : State} (h : Within edgeScope [a] r t) {g : Fld} (hg : g.addr < 0x100514 + a.val * 0x1000) : t.get g = r.get g :=
  h.fields g fun b hb f ⟨k, hf⟩ => Or.inl fun e => by
    obtain rfl := List.mem_singleton.mp hb
    simp only [edgeFields, List.mem_cons, List.not_mem_nil, or_false] at hf
    rcases hf with rfl | rfl | rfl | rfl <;> dsimp only at e <;> omega

theorem setTaken_get (set : Word × Word) : ∀ p ∈ setFields a set, (setTaken a set s).get p.1 = p.2 := by
  have hdly := set.2.isLt
  intro p hp
  rw [setTaken, State.modPwm_get]
  refine State.get_sets_mem s (setFields a set) ?_ (by simp [setFields, Fld.apart]) p hp
  simp only [setFields, List.forall_mem_cons]
  exact ⟨⟨by simp, by simp, by dsimp only; omega⟩, by simp [Fld.holds], ⟨by simp, by simp, by dsimp only; omega⟩, by simp⟩

theorem setTaken_pwm (set : Word × Word) : (setTaken a set s).pwm a = { s.pwm a with pend := none, carry := Vector.replicate 4 0 } := by
  unfold setTaken
  rw [State.modPwm_pwm_self]
  rfl

theorem applyCommit_pwm (set : Word × Word) : ((applyCommit a set s).pwm a).pend = none
    ∧ ((applyCommit a set s).pwm a).carry = Vector.replicate 4 0 := by
  have h := (applyCommit_edges (a := a) (s := s) set).own a
  have hp : { (applyCommit a set s).pwm a with refresh := [] } = { (setTaken a set s).pwm a with refresh := [] } :=
    congrArg AxisSt.pwm h
  have hpend := congrArg PwmSt.pend hp
  have hcarry := congrArg PwmSt.carry hp
  rw [setTaken_pwm] at hpend hcarry
  exact ⟨hpend, hcarry⟩

end

section
variable {s : State} (a : Axis)

theorem commitWr_acts : (bitWr (F.AX_PWM_CTRL.COMMIT a) pwmCtrlRow a.val s).acts 0 = true :=
  bitWr_acts (b := 0) ⟨rfl, rfl⟩ (by decide) (by decide)

theorem commitWr_legal : crossLegal (consumeUnlock (begun s)) (bitWr (F.AX_PWM_CTRL.COMMIT a) pwmCtrlRow a.val (begun s)) = commitFits s a := by
  rw [crossLegal_pwmCtrl rfl, commitWr_acts, bitWr_i, axisOf_axis]
  rfl

theorem commitWr_performs : performWrite .hp (bitWr (F.AX_PWM_CTRL.COMMIT a) pwmCtrlRow a.val (begun s)) (consumeUnlock (begun s)) =
    (commitAxis a (consumeUnlock (begun s))).1 := by
  rw [performWrite_pwmCtrl rfl, commitWr_acts, bitWr_i, axisOf_axis]
  rfl

variable (hq : s.whReq = []) (hr : s.ip.running = true) (hl : s.ip.loLatch = []) (hp : s.pd (3 + (quadOf a).val) = true)
include hr hp

theorem pwmCtrl_reaches : WriteReaches false (F.AX_PWM_CTRL.all a).addr pwmCtrlRow a.val 0 (begun s) :=
  writeReaches_axis (s := begun s) hr a hp (by dsimp only; omega) (by dsimp only; omega) (pwmCtrlRow_found a)

include hq hl

theorem pwmCommit_rejected (hf : commitFits s a = false) : Does (.pwmCommit (.axis a)) s (s.ended 0x12)
    [(F.CMD_REFUSE.REFUSE_CNT, counted s F.CMD_REFUSE.REFUSE_CNT), (F.CMD_REFUSE.LAST_CODE, 0x12), (F.AX_PWM_STAT.COMMIT_REJ a, 1)] [] := by
  refine does_refused_with (f := chanCommit (.axis a)) rfl hq (by decide) (by dsimp only; omega) (by simp [Fld.holds])
    (hostWrite_refuses_with (pwmCtrl_reaches a hr hp) (by decide) (by decide) (by decide) (by dsimp only; omega) ?_)
  refine (checkedWrite_misfit rfl (bitWr_unchanged (f := F.AX_PWM_CTRL.COMMIT a) commitBit hl) ((commitWr_legal a).trans hf)).trans ?_
  rw [bitWr_i, axisOf_axis, commitAxis_misfit (s := consumeUnlock (begun s)) hf]

theorem pwmCommit_pends (hf : commitFits s a = true) (hm : ¬ (s.mode = 2 ∨ s.mode = 3)) : Does (.pwmCommit (.axis a)) s
    (State.ended (s.modPwm a fun p => { p with pend := some (axisStaging s a) }) 0) [(F.AX_PWM_ACT.COMMIT_PEND a, 1)] [] :=
  does_of (f := chanCommit (.axis a)) _ rfl (u := State.ended (s.modPwm a fun p => { p with pend := some (axisStaging s a) }) 0) hq rfl
    (bit_performs (f := F.AX_PWM_CTRL.COMMIT a) (pwmCtrl_reaches a hr hp) commitBit hl ((commitWr_legal a).trans hf) (stateAdmits_pwmCtrl rfl)
      ((commitWr_performs a).trans (commitAxis_pends hf hm))) (by simp [Fld.holds]) (List.pairwise_singleton _ _)

theorem pwmCommit_applies (hf : commitFits s a = true) (hm : s.mode = 2 ∨ s.mode = 3) : Completes (.pwmCommit (.axis a)) s fun t =>
    OnlyAxes [a] (s.ended 0) t ∧ t.now = s.now ∧ KeepsBlocks [a] [] s t ∧ t.get (F.AX_PWM_ACT.ACT a) = (axisStaging s a).1.toNat % 2 ^ 29
      ∧ t.get (F.AX_PWM_ACT.COMMIT_PEND a) = 0 ∧ t.get (F.AX_PWM_DLY_ACT.DLY_ACT a) = (axisStaging s a).2.toNat
      ∧ (t.pwm a).pend = none ∧ (t.pwm a).carry = Vector.replicate 4 0 ∧ t.mot a = s.mot a := by
  let x := consumeUnlock (begun s)
  let v := applyCommit a (axisStaging s a) x
  have hrun : chanCommit (.axis a) (begun s) = { v with ip := { v.ip with wrStatus := 0 } } :=
    bit_performs (f := F.AX_PWM_CTRL.COMMIT a) (pwmCtrl_reaches a hr hp) commitBit hl ((commitWr_legal a).trans hf) (stateAdmits_pwmCtrl rfl)
      ((commitWr_performs a).trans (commitAxis_applies hf hm))
  have hw : Within timerScope [a] x v := applyCommit_within Scope.le_rfl List.mem_cons_self _ (.refl _ _ _)
  have he := applyCommit_edges (a := a) (s := x) (axisStaging s a)
  have hset := setTaken_get (a := a) (s := x) (axisStaging s a)
  simp only [setFields, List.forall_mem_cons] at hset
  obtain ⟨hact, hpend, hdly, -⟩ := hset
  obtain ⟨hnone, hcarry⟩ := applyCommit_pwm (a := a) (s := x) (axisStaging s a)
  have hv : Within timerScope [a] (begun (s.ended 0)) { v with ip := { v.ip with wrStatus := 0 } } :=
    ⟨congrArg (fun y : State => { y with ip := { y.ip with wrStatus := 0 } }) hw.side, hw.own, hw.others, hw.fields⟩
  have hside : ∀ y z, timerScope.side y = timerScope.side z → besideRecords y = besideRecords z := besideRecords_of_besideEngines
  refine completes_to (f := chanCommit (.axis a)) rfl hrun ((hw.whReq hside).trans hq)
    ⟨hv.onlyAxes (s := s.ended 0) hside rfl fun _ _ => rfl, ?_, ?_, ?_, ?_, ?_, ?_, ?_, ?_⟩
  · rw [settle_now]
    exact hw.now hside
  · refine KeepsBlocks.settled fun g hg _ => hw.fields g fun b hb f hfield => Or.inl fun e => ?_
    obtain rfl := List.mem_singleton.mp hb
    obtain ⟨hlo, hhi⟩ := hfield
    exact absurd ((axisBlock_of_engineBlock (Or.inl (by omega))).symm.trans (hg b List.mem_cons_self)) (by decide)
  · rw [settle_get]
    exact (he.edgeGet (by dsimp only; omega)).trans hact
  · rw [settle_get]
    exact (he.edgeGet (by dsimp only; omega)).trans hpend
  · rw [settle_get]
    exact (he.edgeGet (by dsimp only; omega)).trans hdly
  · rw [settle_pwm]
    exact hnone
  · rw [settle_pwm]
    exact hcarry
  · rw [settle_mot]
    have hown := congrArg AxisSt.mot (hw.own a)
    exact hown

end

/-! ### Buffers of the wave tables -/

section
variable (t : Nat) (active : Bool)

theorem waveAddr_inj {i j : Nat} (h : waveAddr t active i = waveAddr t active j) : i = j := by
  unfold waveAddr at h
  omega

theorem waveAddr_bounds {j : Nat} (h : j < 512) : waveAddr t false 0 ≤ waveAddr t active j ∧ waveAddr t active j < waveAddr t false 0 + 0x1000 := by
  unfold waveAddr
  cases active <;> simp <;> omega

theorem waveAddr_buffers {i j : Nat} (hi : i < 512) (hj : j < 512) : waveAddr t true i ≠ waveAddr t false j := by
  unfold waveAddr
  simp only [if_true, if_false, Bool.false_eq_true]
  omega

/-- Words written in turn, one of them named once. -/
theorem rfGet_waves (f : Nat → Word) {l : List Nat} (hl : l.Nodup) (r : List (Nat × Word)) (addr : Nat) :
    (∀ j ∈ l, addr = waveAddr t active j →
      rfGet (l.foldl (fun r j => rfSet r (waveAddr t active j) (f j)) r) addr = f j)
    ∧ ((∀ j ∈ l, addr ≠ waveAddr t active j) →
      rfGet (l.foldl (fun r j => rfSet r (waveAddr t active j) (f j)) r) addr = rfGet r addr) := by
  induction l generalizing r with
  | nil => exact ⟨by simp, fun _ => rfl⟩
  | cons i l ih =>
    obtain ⟨hi, hnd⟩ := List.nodup_cons.mp hl
    obtain ⟨hin, hout⟩ := ih hnd (rfSet r (waveAddr t active i) (f i))
    refine ⟨fun j hj ha => ?_, fun h => ?_⟩
    · rcases List.mem_cons.mp hj with rfl | hj
      · refine (hout fun k hk e => hi ?_).trans (by rw [ha, rfGet_rfSet_same])
        exact waveAddr_inj t active (ha.symm.trans e) ▸ hk
      · exact hin j hj ha
    · exact (hout fun k hk => h k (List.mem_cons_of_mem _ hk)).trans (rfGet_rfSet_other _ _ _ _ (h i List.mem_cons_self))

variable (f : Nat → Word) (s : State)

/-- A buffer lies in the register file. -/
theorem setWave_beside : setWave t active f s = { s with regs := (setWave t active f s).regs } := by
  unfold setWave
  generalize List.range 512 = l
  rfl

/-- A buffer written reads back. -/
theorem setWave_same {j : Nat} (h : j < 512) : waveOf (setWave t active f s) t active j = f j := by
  have hnd : (List.range 512).Nodup := List.nodup_range
  have hj := List.mem_range.mpr h
  unfold waveOf setWave
  generalize List.range 512 = l at hnd hj
  exact (rfGet_waves t active f hnd s.regs _).1 j hj rfl

/-- A buffer written leaves every other word. -/
theorem setWave_other {addr : Nat} (h : ∀ j < 512, addr ≠ waveAddr t active j) : rfGet (setWave t active f s).regs addr = rfGet s.regs addr := by
  have hnd : (List.range 512).Nodup := List.nodup_range
  have hj : ∀ j ∈ List.range 512, addr ≠ waveAddr t active j := fun j hj => h j (List.mem_range.mp hj)
  unfold setWave
  generalize List.range 512 = l at hnd hj
  exact (rfGet_waves t active f hnd s.regs addr).2 hj

theorem setWave_outside {addr : Nat} (h : addr < waveAddr t false 0 ∨ waveAddr t false 0 + 0x1000 ≤ addr) :
    rfGet (setWave t active f s).regs addr = rfGet s.regs addr :=
  setWave_other t active f s fun j hj e => by
    have := waveAddr_bounds t active hj
    omega

end

/-- The buffers of a table exchange their contents (R140). -/
def exchanged (t : Nat) (s : State) : State := setWave t false (waveOf s t true) (setWave t true (waveOf s t false) s)

section
variable (t : Nat) (s : State)

theorem exchanged_waves {j : Nat} (h : j < 512) :
    waveOf (exchanged t s) t false j = waveOf s t true j ∧ waveOf (exchanged t s) t true j = waveOf s t false j := by
  have hsame := setWave_same t true (waveOf s t false) s h
  have hother := setWave_other t false (waveOf s t true) (setWave t true (waveOf s t false) s) fun _ hi => waveAddr_buffers t h hi
  rw [waveOf] at hsame
  unfold exchanged
  rw [setWave_same t false _ _ h]
  exact ⟨rfl, hother.trans hsame⟩

theorem exchanged_beside : exchanged t s = { s with regs := (exchanged t s).regs } := by
  have h1 := setWave_beside t true (waveOf s t false) s
  unfold exchanged
  generalize setWave t true (waveOf s t false) s = u at h1 ⊢
  have h2 := setWave_beside t false (waveOf s t true) u
  generalize setWave t false (waveOf s t true) u = v at h2 ⊢
  exact h2.trans (congrArg (fun x : State => { x with regs := v.regs }) h1)

theorem exchanged_outside {addr : Nat} (h : addr < waveAddr t false 0 ∨ waveAddr t false 0 + 0x1000 ≤ addr) :
    rfGet (exchanged t s).regs addr = rfGet s.regs addr :=
  (setWave_outside t false _ _ h).trans (setWave_outside t true _ _ h)

/-- A field outside the buffers of a table reads as before. -/
theorem exchanged_get {g : Fld} (h : g.addr < waveAddr t false 0 ∨ waveAddr t false 0 + 0x1000 ≤ g.addr) :
    (exchanged t s).get g = s.get g := congrArg (getBits · g.hi g.lo) (exchanged_outside t s h)

end

theorem wtAllMoved_eq (t : Fin 8) (s : State) :
    wtAllMoved t s = ((exchanged t s).set (F.WT_STAT.BUSY t) 1).modWt t fun _ => { moved := 0, op := some .copy } := rfl

/-! ### Actions of a wave table (R138 to R140, R142) -/

/-- The register of the actions of a table. -/
def wtCtrlRow : RegRow :=
  ⟨.WT_CTRL, 0x208000, 8, 8, 1, 0, 0, [⟨0, 0, .wo, 0, 2, 0, 1⟩, ⟨1, 1, .wo, 0, 2, 0, 1⟩, ⟨2, 2, .wo, 0, 2, 0, 1⟩]⟩

theorem wtCtrlRow_found : ∀ k : Fin 8, regAt (F.WT_CTRL.all k).addr = some (wtCtrlRow, k.val, 0)
    ∧ domainOf (F.WT_CTRL.all k).addr = 1 := by decide +kernel

theorem wtBit : ∀ b : Fin 3, ActionBit b.val b.val wtCtrlRow := fun b =>
  ⟨by decide, by have := b.isLt; omega, by revert b; decide, by revert b; decide, by decide⟩

theorem tableOf_table (k : Fin 8) : tableOf k.val = k := Fin.ext (Nat.mod_eq_of_lt k.isLt)

section
variable {via : Port} {unlocked : Bool} {w : RegWr} {s : State} (h : w.row = wtCtrlRow)
include h

theorem performWrite_wtCtrl : performWrite via w s = wtAction (tableOf w.i) (w.acts 0) (w.acts 1) s := by
  simp only [performWrite, h, wtCtrlRow]

theorem crossLegal_wtCtrl : crossLegal s w = ([w.acts 0, w.acts 1, w.acts 2].count true == 1) := by
  simp only [crossLegal, h, wtCtrlRow]

theorem stateAdmits_wtCtrl : stateAdmits s w = !waveBusy s w.i := by
  simp only [stateAdmits, h, wtCtrlRow]

/-- A busy table refuses an action with `REFUSED` (R142). -/
theorem checkedWrite_wtBusy (hk : rwkChanged w.row.fields w.old w.new = false) (hr : fieldsInRange w.row.fields w.mask w.new = true)
    (hc : crossLegal s w = true) (hb : waveBusy s w.i = true) : checkedWrite via unlocked w s = (s.raise (F.WT_STAT.REFUSED w.i), 0x21) := by
  unfold checkedWrite
  dsimp only
  rw [if_neg (by simp [hk]), if_neg (by simp [hr, hc]), if_neg (by simp [hk]),
    if_pos (by rw [stateAdmits_wtCtrl h, hb]; decide), if_pos (by rw [h]; rfl)]
  rfl

end

section
variable {s : State} (k : Fin 8) {f : Fld} {b : Fin 3} (hf : f = ⟨(F.WT_CTRL.all k).addr, b.val, b.val⟩)
include hf

theorem wtWr_acts {j : Nat} (hj : j < 32) : (bitWr f wtCtrlRow k.val s).acts j = decide (j = b.val) :=
  bitWr_acts (by rw [hf]; exact ⟨rfl, rfl⟩) (by have := b.isLt; omega) hj

theorem wtWr_legal : crossLegal (consumeUnlock s) (bitWr f wtCtrlRow k.val s) = true := by
  rw [crossLegal_wtCtrl rfl, wtWr_acts k hf (by decide), wtWr_acts k hf (by decide), wtWr_acts k hf (by decide)]
  clear hf
  revert b
  decide

theorem wtWr_performs {via : Port} : performWrite via (bitWr f wtCtrlRow k.val s) (consumeUnlock s) =
    wtAction k (decide (0 = b.val)) (decide (1 = b.val)) (consumeUnlock s) := by
  rw [performWrite_wtCtrl rfl, wtWr_acts k hf (by decide), wtWr_acts k hf (by decide), bitWr_i, tableOf_table]

variable (hr : s.ip.running = true) (hp : s.pd 1 = true)
include hr hp

theorem wtCtrl_reaches : WriteReaches false f.addr wtCtrlRow k.val 0 s := by
  have := k.isLt
  obtain ⟨hfound, hdom⟩ := wtCtrlRow_found k
  rw [hf]
  refine ⟨hr, by dsimp only; omega, ?_, by rw [hdom]; exact hp, ?_, hfound⟩
  · simp only [inBk, Bool.and_eq_false_iff, decide_eq_false_iff_not]
    omega
  · simp only [isWaveAddr, Bool.and_eq_false_iff, decide_eq_false_iff_not]
    omega

variable (hl : s.ip.loLatch = [])
include hl

/-- An action on an idle table. -/
theorem wtAction_performs {v : State} (hb : waveBusy s k = false) (hv : wtAction k (decide (0 = b.val)) (decide (1 = b.val)) (consumeUnlock s) = v) :
    strobe .hp false f s = { v with ip := { v.ip with wrStatus := 0 } } :=
  bit_performs (wtCtrl_reaches k hf hr hp) (by rw [hf]; exact wtBit b) hl (wtWr_legal k hf)
    ((stateAdmits_wtCtrl rfl).trans (by rw [bitWr_i, show waveBusy (consumeUnlock s) k = waveBusy s k from rfl, hb]; rfl))
    ((wtWr_performs k hf).trans hv)

/-- An action on a busy table. -/
theorem wtAction_refused (hb : waveBusy s k = true) : strobe .hp false f s = (s.ended 0x21).sets
    [(F.WT_STAT.REFUSED k, 1), (F.CMD_REFUSE.REFUSE_CNT, counted s F.CMD_REFUSE.REFUSE_CNT), (F.CMD_REFUSE.LAST_CODE, 0x21)] := by
  have hbit : ActionBit f.hi f.lo wtCtrlRow := by rw [hf]; exact wtBit b
  refine hostWrite_refuses_with (wtCtrl_reaches k hf hr hp) (by decide) (by decide) (by decide) (by dsimp only; omega) ?_
  exact checkedWrite_wtBusy rfl (bitWr_unchanged hbit hl) (fieldsInRange_full hbit.legal _ _) (wtWr_legal k hf) hb

end

/-! ### The actions as commands -/

theorem modWt_const (s : State) (k : Fin 8) (f : WtSt → WtSt) (x : WtSt) : (s.modWt k f).modWt k (fun _ => x) = s.modWt k fun _ => x := by
  simp [State.modWt]

/-- A swap of a table is armed (R140). -/
def armed (k : Fin 8) (s : State) : State := (s.set (F.WT_STAT.SWAP_PEND k) 1).modWt k fun x => { x with moved := 0 }

section
variable (s : State) (k : Fin 8)

theorem armed_pend : (armed k s).get (F.WT_STAT.SWAP_PEND k) = 1 :=
  State.get_set_same s (F.WT_STAT.SWAP_PEND k) 1 (by dsimp only; omega) (by dsimp only; omega) (by simp)

theorem armed_users : (armed k s).get (F.WT_STAT.USERS k) = s.get (F.WT_STAT.USERS k) :=
  State.get_set_other s (F.WT_STAT.SWAP_PEND k) (F.WT_STAT.USERS k) 1 (Or.inr (Or.inr (by dsimp only; omega)))

theorem armed_other {addr : Nat} (h : addr ≠ (F.WT_STAT.all k).addr) : rfGet (armed k s).regs addr = rfGet s.regs addr :=
  rfGet_rfSet_other _ _ _ _ h

/-- The copy of a table begins with its exchange (R140). -/
def copying (k : Fin 8) (s : State) : State := (exchanged k s).set (F.WT_STAT.BUSY k) 1

theorem copying_busy : (copying k s).get (F.WT_STAT.BUSY k) = 1 :=
  State.get_set_same (exchanged k s) (F.WT_STAT.BUSY k) 1 (by dsimp only; omega) (by dsimp only; omega) (by simp)

theorem wtStat_outside : waveAddr k.val false 0 + 0x1000 ≤ (F.WT_STAT.all k).addr := by
  unfold waveAddr
  simp only [Bool.false_eq_true, if_false]
  omega

theorem copying_get {g : Fld} (hg : g.addr = (F.WT_STAT.all k).addr) (h : g.apart (F.WT_STAT.BUSY k)) :
    (copying k s).get g = s.get g := by
  unfold copying
  rw [State.get_set_other _ _ _ _ h, exchanged_get k s (Or.inr (by rw [hg]; exact wtStat_outside k))]

theorem copying_other {addr : Nat} (h : addr ≠ (F.WT_STAT.all k).addr) : rfGet (copying k s).regs addr = rfGet (exchanged k s).regs addr :=
  rfGet_rfSet_other _ _ _ _ h

theorem copying_waves {j : Nat} (hj : j < 512) :
    waveOf (copying k s) k false j = waveOf s k true j ∧ waveOf (copying k s) k true j = waveOf s k false j := by
  have hne : ∀ active, waveAddr k.val active j ≠ (F.WT_STAT.all k).addr := fun active => by
    have := waveAddr_bounds k active hj
    have := wtStat_outside k
    omega
  obtain ⟨hf, ht⟩ := exchanged_waves k s hj
  rw [waveOf] at hf ht
  exact ⟨(copying_other s k (hne false)).trans hf, (copying_other s k (hne true)).trans ht⟩

theorem wtAllMoved_copying : wtAllMoved k s = State.modWt { s with regs := (copying k s).regs } k fun _ => { moved := 0, op := some .copy } := by
  have hx := exchanged_beside k s
  rw [wtAllMoved_eq]
  unfold copying
  generalize exchanged k s = v at hx
  rw [hx]
  rfl

end

section
variable {s : State} {k : Fin 8}

theorem wtStart_begins (op : WtOp) (hb : waveBusy s k = false) :
    (wtStart k op s).1 = (s.set (F.WT_STAT.BUSY k) 1).modWt k fun x => { x with op := some op } :=
  congrArg Prod.fst (if_neg (ne_true_of_eq_false hb))

/-- A swap waits for the users of its table, which move to the new content one by one (R140). -/
theorem wtSwap_arms (hb : waveBusy s k = false) (hu : s.get (F.WT_STAT.USERS k) ≠ 0) : (wtSwap k s).1 = armed k s := by
  unfold wtSwap
  rw [if_neg (ne_true_of_eq_false hb)]
  exact if_neg (by rw [← armed_users] at hu; exact hu)

/-- A table without users exchanges its buffers (R140). -/
theorem wtSwap_exchanges (hb : waveBusy s k = false) (hu : s.get (F.WT_STAT.USERS k) = 0) :
    (wtSwap k s).1 = State.modWt { s with regs := (copying k (armed k s)).regs } k fun _ => { moved := 0, op := some .copy } := by
  have h : (wtSwap k s).1 = wtAllMoved k (armed k s) := by
    unfold wtSwap
    rw [if_neg (ne_true_of_eq_false hb)]
    exact if_pos (by rw [← armed_users] at hu; exact hu)
  rw [h, wtAllMoved_copying]
  generalize (copying k (armed k s)).regs = r
  exact modWt_const { s with regs := r } k (fun x => { x with moved := 0 }) _

variable (hq : s.whReq = []) (hr : s.ip.running = true) (hl : s.ip.loLatch = []) (hp : s.pd 1 = true)
include hq hr hl hp

/-- A busy table refuses every action (R142). -/
theorem wtActions_refused (hb : waveBusy s k = true) : ∀ c ∈ [Instr.wtSwap k, .wtFill k, .wtRevert k], Does c s (s.ended 0x21)
    [(F.CMD_REFUSE.REFUSE_CNT, counted s F.CMD_REFUSE.REFUSE_CNT), (F.CMD_REFUSE.LAST_CODE, 0x21), (F.WT_STAT.REFUSED k, 1)] [] := by
  have hrefused : ∀ {c : Instr} {f : Fld} (b : Fin 3), f = ⟨(F.WT_CTRL.all k).addr, b.val, b.val⟩ → exec c s = runCmd (strobe .hp false f) s →
      Does c s (s.ended 0x21)
        [(F.CMD_REFUSE.REFUSE_CNT, counted s F.CMD_REFUSE.REFUSE_CNT), (F.CMD_REFUSE.LAST_CODE, 0x21), (F.WT_STAT.REFUSED k, 1)] [] :=
    fun b hf hc => does_refused_with hc hq (by decide) (by dsimp only; omega) (by simp [Fld.holds])
      (wtAction_refused (s := begun s) k hf hr hp hl hb)
  simp only [List.forall_mem_cons]
  exact ⟨hrefused (f := F.WT_CTRL.SWAP k) 0 rfl rfl, hrefused (f := F.WT_CTRL.FILL k) 1 rfl rfl,
    hrefused (f := F.WT_CTRL.REVERT k) 2 rfl rfl, by simp⟩

theorem wtFill_begins (hb : waveBusy s k = false) :
    Does (.wtFill k) s (State.ended (s.modWt k fun x => { x with op := some .fill }) 0) [(F.WT_STAT.BUSY k, 1)] [] :=
  does_of (f := strobe .hp false (F.WT_CTRL.FILL k)) _ rfl (u := State.ended (s.modWt k fun x => { x with op := some .fill }) 0) hq rfl
    (wtAction_performs (s := begun s) k (b := 1) rfl hr hp hl hb (wtStart_begins (s := consumeUnlock (begun s)) .fill hb))
    (by simp [Fld.holds]) (List.pairwise_singleton _ _)

theorem wtRevert_begins (hb : waveBusy s k = false) :
    Does (.wtRevert k) s (State.ended (s.modWt k fun x => { x with op := some .revert }) 0) [(F.WT_STAT.BUSY k, 1)] [] :=
  does_of (f := strobe .hp false (F.WT_CTRL.REVERT k)) _ rfl (u := State.ended (s.modWt k fun x => { x with op := some .revert }) 0) hq rfl
    (wtAction_performs (s := begun s) k (b := 2) rfl hr hp hl hb (wtStart_begins (s := consumeUnlock (begun s)) .revert hb))
    (by simp [Fld.holds]) (List.pairwise_singleton _ _)

theorem wtSwap_waits (hb : waveBusy s k = false) (hu : s.get (F.WT_STAT.USERS k) ≠ 0) :
    Does (.wtSwap k) s (State.ended (s.modWt k fun x => { x with moved := 0 }) 0) [(F.WT_STAT.SWAP_PEND k, 1)] [] :=
  does_of (f := strobe .hp false (F.WT_CTRL.SWAP k)) _ rfl (u := State.ended (s.modWt k fun x => { x with moved := 0 }) 0) hq rfl
    (wtAction_performs (s := begun s) k (b := 0) rfl hr hp hl hb (wtSwap_arms (s := consumeUnlock (begun s)) hb hu))
    (by simp [Fld.holds]) (List.pairwise_singleton _ _)

/-- Without users the buffers exchange their contents at once (R140). -/
theorem wtSwap_moves (hb : waveBusy s k = false) (hu : s.get (F.WT_STAT.USERS k) = 0) : Completes (.wtSwap k) s fun t =>
    BesideRegs (State.ended (s.modWt k fun _ => { moved := 0, op := some .copy }) 0) t ∧ t.get (F.WT_STAT.SWAP_PEND k) = 1
      ∧ t.get (F.WT_STAT.BUSY k) = 1 ∧ t.get (F.WT_STAT.USERS k) = 0
      ∧ (∀ j < 512, waveOf t k false j = waveOf s k true j ∧ waveOf t k true j = waveOf s k false j)
      ∧ ∀ addr : Nat, addr ≠ (F.WT_STAT.all k).addr → (addr < waveAddr k.val false 0 ∨ waveAddr k.val false 0 + 0x1000 ≤ addr) →
          rfGet t.regs addr = rfGet s.regs addr := by
  let x := consumeUnlock (begun s)
  let e := copying k (armed k x)
  have hpend : e.get (F.WT_STAT.SWAP_PEND k) = 1 :=
    (copying_get (g := F.WT_STAT.SWAP_PEND k) _ k rfl (by simp [Fld.apart])).trans (armed_pend x k)
  have hbusy : e.get (F.WT_STAT.BUSY k) = 1 := copying_busy _ k
  have husers : e.get (F.WT_STAT.USERS k) = 0 :=
    (copying_get (g := F.WT_STAT.USERS k) _ k rfl (by simp [Fld.apart])).trans ((armed_users x k).trans hu)
  have hwaves : ∀ j < 512, waveOf e k false j = waveOf s k true j ∧ waveOf e k true j = waveOf s k false j := fun j hj => by
    have hne : ∀ active, waveAddr k.val active j ≠ (F.WT_STAT.all k).addr := fun active => by
      have := waveAddr_bounds k active hj
      have := wtStat_outside k
      omega
    obtain ⟨hf, ht⟩ := copying_waves (armed k x) k hj
    exact ⟨hf.trans (armed_other x k (hne true)), ht.trans (armed_other x k (hne false))⟩
  have hout : ∀ addr : Nat, addr ≠ (F.WT_STAT.all k).addr → (addr < waveAddr k.val false 0 ∨ waveAddr k.val false 0 + 0x1000 ≤ addr) →
      rfGet e.regs addr = rfGet s.regs addr := fun addr hne ha =>
    (copying_other _ k hne).trans ((exchanged_outside k _ ha).trans (armed_other x k hne))
  have hv : wtAction k true false x = State.modWt { x with regs := e.regs } k fun _ => { moved := 0, op := some .copy } :=
    wtSwap_exchanges (s := x) hb hu
  have hrun := wtAction_performs (s := begun s) k (f := F.WT_CTRL.SWAP k) (b := 0) rfl hr hp hl hb hv
  generalize e = e at hpend hbusy husers hwaves hout hrun
  refine completes_to (f := strobe .hp false (F.WT_CTRL.SWAP k)) rfl hrun hq
    ⟨besideRegs_settle rfl, (settle_get _ _).trans hpend, (settle_get _ _).trans hbusy, (settle_get _ _).trans husers, ?_, ?_⟩
  · unfold waveOf at hwaves ⊢
    rw [settle_regs]
    exact hwaves
  · rw [settle_regs]
    exact hout

end

/-! ### COMMIT of a privileged channel (R199, R201, R204) -/

/-- The register of a privileged channel: `EN` and `POL` of a brake channel are keyed. -/
def pchRow (n : Fin 8) : RegRow :=
  if n.val < 4 then ⟨.PCH_CTRL, 0x24c, 4, 16, 1, 0, 0, [⟨0, 0, .wo, 0, 2, 0, 1⟩, ⟨1, 1, .rw, 0, 2, 0, 1⟩, ⟨2, 2, .rw, 0, 2, 0, 1⟩,
    ⟨3, 3, .ro, 0, 2, 0, 1⟩, ⟨4, 4, .w1c, 0, 2, 0, 1⟩, ⟨5, 5, .ro, 0, 2, 0, 1⟩]⟩
  else ⟨.PCH_CTRL, 0x28c, 4, 16, 1, 0, 4, [⟨0, 0, .wo, 0, 2, 0, 1⟩, ⟨1, 1, .rwk, 0, 2, 0, 1⟩, ⟨2, 2, .rwk, 0, 2, 0, 1⟩,
    ⟨3, 3, .ro, 0, 2, 0, 1⟩, ⟨4, 4, .w1c, 0, 2, 0, 1⟩, ⟨5, 5, .ro, 0, 2, 0, 1⟩]⟩

theorem pchRow_found : ∀ n : Fin 8, regAt (F.PCH_CTRL.all n).addr = some (pchRow n, n.val, 0) ∧ domainOf (F.PCH_CTRL.all n).addr = 1 := by
  decide +kernel

theorem pchRow_id (n : Fin 8) : (pchRow n).id = .PCH_CTRL := by
  unfold pchRow
  split <;> rfl

theorem pchBit : ∀ n : Fin 8, ActionBit 0 0 (pchRow n) := fun n =>
  ⟨by rw [pchRow_id]; decide, by decide, by revert n; decide, by revert n; decide, by revert n; decide⟩

section
variable {via : Port} {w : RegWr} {s : State} (h : w.row.id = .PCH_CTRL)
include h

theorem performWrite_pch : performWrite via w s =
    if w.acts 0 then commitPriv ⟨w.i % 8, by omega⟩ (s.setWord w.addr w.new) else s.setWord w.addr w.new := by
  simp only [performWrite, h]

theorem crossLegal_pch : crossLegal s w = true := by
  simp only [crossLegal, h]

theorem stateAdmits_pch : stateAdmits s w = true := by
  simp only [stateAdmits, h]

end

section
variable {s t : State} {n : Fin 8}

theorem SameWords.privStaging (h : SameWords s t) : privStaging s n = privStaging t n := by
  unfold Machine.privStaging
  rw [h.get, h.get, h.get, h.flag, h.flag]

theorem SameWords.mode (h : SameWords s t) : s.mode = t.mode := h.get _

theorem commitPriv_pends (hm : ¬ (s.mode = 2 ∨ s.mode = 3)) :
    commitPriv n s = (s.modPriv n fun p => { p with pend := some (privStaging s n) }).set (F.PCH_CTRL.COMMIT_PEND n) 1 := if_neg hm

theorem commitPriv_applies (hm : s.mode = 2 ∨ s.mode = 3) : commitPriv n s = privRun n (applyPriv n (privStaging s n) s) := if_pos hm

/-- The running state of a channel lies in the register file. -/
theorem privRun_beside : privRun n s = { s with regs := (privRun n s).regs } := by
  unfold privRun
  dsimp only
  split
  · rfl
  · split <;> rfl

theorem privRun_pend : (privRun n s).get (F.PCH_CTRL.COMMIT_PEND n) = s.get (F.PCH_CTRL.COMMIT_PEND n) := by
  have hn := n.isLt
  have hact : ∀ (u : State) (b : Bool), (u.setB (F.PCH_CTRL.ACTIVE n) b).get (F.PCH_CTRL.COMMIT_PEND n) = u.get (F.PCH_CTRL.COMMIT_PEND n) :=
    fun u b => State.get_set_other _ _ _ _ (Or.inr (Or.inl (by dsimp only; omega)))
  have hbrk : ∀ (u : State) (b : Bool), (u.setB (F.QD_GD_STAT.BRK_ACT (n.val - 4)) b).get (F.PCH_CTRL.COMMIT_PEND n)
      = u.get (F.PCH_CTRL.COMMIT_PEND n) := fun u b => State.get_set_other _ _ _ _ (Or.inl (by dsimp only; omega))
  have hinc : ∀ u : State, (u.inc (F.QD_GD_CNT.BRK_STARTS (n.val - 4))).get (F.PCH_CTRL.COMMIT_PEND n) = u.get (F.PCH_CTRL.COMMIT_PEND n) :=
    fun u => State.get_set_other _ _ _ _ (Or.inl (by dsimp only; omega))
  unfold privRun
  dsimp only
  split
  · exact hact _ _
  · rw [hact, hbrk]
    split
    · exact hinc _
    · rfl

theorem raiseIf_beside (c : Prop) [Decidable c] (f : Fld) :
    (if c then s.raise f else s) = { s with regs := (if c then s.raise f else s).regs } := by
  split <;> rfl

theorem applyPriv_eq (set : PrivSet) : ∃ r p,
    applyPriv n set s = (State.modPriv { s with regs := r } n fun _ => p).set (F.PCH_CTRL.COMMIT_PEND n) 0 ∧ p.pend = none ∧ p.comm = set := by
  unfold applyPriv
  dsimp only
  rw [raiseIf_beside]
  exact ⟨_, _, rfl, rfl, rfl⟩

/-- A set in force (R201, R202). -/
theorem applyPriv_shows (set : PrivSet) : (applyPriv n set s).axes = s.axes ∧ (applyPriv n set s).now = s.now
    ∧ (applyPriv n set s).whReq = s.whReq ∧ (applyPriv n set s).get (F.PCH_CTRL.COMMIT_PEND n) = 0
    ∧ ((applyPriv n set s).priv[n]).pend = none ∧ ((applyPriv n set s).priv[n]).comm = set
    ∧ ∀ m : Fin 8, m ≠ n → (applyPriv n set s).priv[m] = s.priv[m] := by
  obtain ⟨r, p, h, hnone, hcomm⟩ := applyPriv_eq (s := s) (n := n) set
  have hself : (applyPriv n set s).priv[n] = p := by
    rw [h]
    exact Vector.getElem_set_self _
  refine ⟨by rw [h]; rfl, by rw [h]; rfl, by rw [h]; rfl, ?_, by rw [hself, hnone], by rw [hself, hcomm], fun m hm => ?_⟩
  · rw [h]
    exact State.get_set_same _ _ _ (by dsimp only; omega) (by dsimp only; omega) (by simp)
  · rw [h]
    exact Vector.getElem_set_ne n.isLt m.isLt fun e => hm (Fin.ext e.symm)

theorem settle_priv (u : State) : (settle u).priv = u.priv := by rw [(settle_eq u).1]

variable (hq : s.whReq = []) (hr : s.ip.running = true) (hl : s.ip.loLatch = []) (hp : s.pd 1 = true)
include hr hp

theorem pch_reaches : WriteReaches false (F.PCH_CTRL.COMMIT n).addr (pchRow n) n.val 0 s := by
  have := n.isLt
  obtain ⟨hfound, hdom⟩ := pchRow_found n
  refine ⟨hr, by dsimp only; omega, ?_, (congrArg s.pd hdom).trans hp, ?_, hfound⟩
  · simp only [inBk, Bool.and_eq_false_iff, decide_eq_false_iff_not]
    omega
  · simp only [isWaveAddr, Bool.and_eq_false_iff, decide_eq_false_iff_not]
    omega

include hl

/-- `COMMIT` leaves the word of its register (R369). -/
theorem pchCommit_runs : strobe .hp false (F.PCH_CTRL.COMMIT n) s =
    { commitPriv n (rewritten (F.PCH_CTRL.all n).addr s) with ip := { (commitPriv n (rewritten (F.PCH_CTRL.all n).addr s)).ip with wrStatus := 0 } } := by
  have hrow : (bitWr (F.PCH_CTRL.COMMIT n) (pchRow n) n.val s).row.id = .PCH_CTRL := pchRow_id n
  refine bit_performs (pch_reaches hr hp) (pchBit n) hl (crossLegal_pch hrow) (stateAdmits_pch hrow) ?_
  have hacts : (bitWr (F.PCH_CTRL.COMMIT n) (pchRow n) n.val s).acts 0 = true := bitWr_acts (b := 0) ⟨rfl, rfl⟩ (by decide) (by decide)
  have hin : (⟨(bitWr (F.PCH_CTRL.COMMIT n) (pchRow n) n.val s).i % 8, by omega⟩ : Fin 8) = n := Fin.ext (Nat.mod_eq_of_lt n.isLt)
  rw [performWrite_pch hrow, if_pos hacts, hin, bitWr_new (pchBit n) hl]
  rfl

include hq

theorem privCommit_pends (hm : ¬ (s.mode = 2 ∨ s.mode = 3)) : Does (.pwmCommit (.priv n)) s
    (State.ended { s with priv := s.priv.set n { s.priv[n] with pend := some (privStaging s n) } } 0) [(F.PCH_CTRL.COMMIT_PEND n, 1)] [] := by
  have hx : SameWords (rewritten (F.PCH_CTRL.all n).addr (begun s)) (begun s) := rewritten_same _ _
  have hrun := pchCommit_runs (n := n) (s := begun s) hr hl hp
  rw [commitPriv_pends (by rw [hx.mode]; exact hm), hx.privStaging] at hrun
  exact does_reads (f := chanCommit (.priv n)) rfl
    (u := State.ended { s with priv := s.priv.set n { s.priv[n] with pend := some (privStaging s n) } } 0) hq hrun rfl
    (hx.set _ 1) (by simp [Fld.holds]) (List.pairwise_singleton _ _)

theorem privCommit_applies (hm : s.mode = 2 ∨ s.mode = 3) : Completes (.pwmCommit (.priv n)) s fun t =>
    t.axes = s.axes ∧ t.now = s.now ∧ t.get (F.PCH_CTRL.COMMIT_PEND n) = 0 ∧ (t.priv[n]).pend = none ∧ (t.priv[n]).comm = privStaging s n
      ∧ ∀ m : Fin 8, m ≠ n → t.priv[m] = s.priv[m] := by
  have hx : SameWords (rewritten (F.PCH_CTRL.all n).addr (begun s)) (begun s) := rewritten_same _ _
  have hrun := pchCommit_runs (n := n) (s := begun s) hr hl hp
  rw [commitPriv_applies (by rw [hx.mode]; exact hm), hx.privStaging, show privStaging (begun s) n = privStaging s n from rfl] at hrun
  obtain ⟨haxes, hnow, hwh, hpend, hnone, hcomm, hother⟩ := applyPriv_shows (s := rewritten (F.PCH_CTRL.all n).addr (begun s)) (n := n) (privStaging s n)
  have hb := privRun_beside (s := applyPriv n (privStaging s n) (rewritten (F.PCH_CTRL.all n).addr (begun s))) (n := n)
  have hg := privRun_pend (s := applyPriv n (privStaging s n) (rewritten (F.PCH_CTRL.all n).addr (begun s))) (n := n)
  generalize applyPriv n (privStaging s n) (rewritten (F.PCH_CTRL.all n).addr (begun s)) = u at *
  rw [hb] at hrun
  refine completes_to (f := chanCommit (.priv n)) rfl hrun (hwh.trans hq) ⟨(settle_axes _).trans haxes, (settle_now _).trans hnow,
    (settle_get _ _).trans (hg.trans hpend), ?_⟩
  rw [settle_priv]
  exact ⟨hnone, hcomm, hother⟩

end

/-! ### Bits of a number -/

theorem natBit_natSetBit (v i : Nat) (b : Bool) : natBit (natSetBit v i b) i = b := by
  have hp : 0 < 2 ^ i := Nat.two_pow_pos i
  unfold natSetBit
  by_cases h : natBit v i = b
  · rw [if_pos (by simpa using h)]
    exact h
  · rw [if_neg (by simpa using h)]
    cases b with
    | true =>
      rw [if_pos rfl]
      simp only [natBit, beq_iff_eq, Nat.add_div_right v hp] at h ⊢
      omega
    | false =>
      rw [if_neg Bool.false_ne_true]
      simp only [natBit, beq_eq_false_iff_ne] at h ⊢
      have hle : 2 ^ i ≤ v := by
        by_contra hlt
        rw [Nat.div_eq_of_lt (Nat.not_le.mp hlt)] at h
        exact h (by decide)
      have hd := Nat.add_div_right (v - 2 ^ i) hp
      rw [Nat.sub_add_cancel hle] at hd
      omega

theorem natSetBit_lt {v i n : Nat} (b : Bool) (hv : v < 2 ^ n) (hi : i < n) : natSetBit v i b < 2 ^ n := by
  unfold natSetBit
  by_cases h : natBit v i = b
  · rw [if_pos (by simpa using h)]
    exact hv
  · rw [if_neg (by simpa using h)]
    cases b with
    | false => exact lt_of_le_of_lt (Nat.sub_le v _) hv
    | true =>
      rw [if_pos rfl]
      have hp : 0 < 2 ^ i := Nat.two_pow_pos i
      obtain ⟨m, rfl⟩ := Nat.exists_eq_add_of_lt hi
      have hn : 2 ^ (i + m + 1) = 2 ^ (m + 1) * 2 ^ i := by rw [← Nat.pow_add]; congr 1; omega
      rw [hn, ← Nat.div_lt_iff_lt_mul hp] at hv ⊢
      rw [Nat.add_div_right v hp]
      simp only [natBit, beq_iff_eq] at h
      rw [Nat.pow_succ] at hv ⊢
      omega

/-! ### The table of an axis (R143) -/

/-- The register of the wave table of an axis. -/
def waveRow : RegRow := ⟨.AX_WAVE, 0x10032c, 16, 4096, 1, 0, 0, [⟨2, 0, .rw, 0, 2, 0, 7⟩, ⟨3, 3, .rw, 0, 2, 0, 1⟩,
  ⟨13, 4, .rw, 0, 2, 0, 1023⟩, ⟨18, 16, .ro, 0, 2, 0, 7⟩, ⟨19, 19, .ro, 0, 2, 0, 1⟩]⟩

theorem waveRow_found : ∀ a : Axis, regAt (F.AX_WAVE.all a).addr = some (waveRow, a.val, 0) := by decide +kernel

/-- `TABLE` is a stored field. -/
theorem waveRow_table : (∀ b < 32, 0 ≤ b → b ≤ 2 → (accMask Acc.stored waveRow.fields).getLsbD b = true)
    ∧ ∀ b < 32, 0 ≤ b → b ≤ 2 → (accMask (· == .w1c) waveRow.fields).getLsbD b = false := by decide

/-- An axis leaves the table it waited for and waits for another, or for none (R143). -/
def tableTaken (a : Axis) (n act : Nat) (s : State) : State :=
  if n = act then (s.set (F.AX_WAVE.TABLE a) n).set (F.AX_WAVE.TABLE_PEND a) 0
  else ((s.set (F.AX_WAVE.TABLE a) n).set (F.WT_STAT.USERS n) (natSetBit (s.get (F.WT_STAT.USERS n)) a true)).set (F.AX_WAVE.TABLE_PEND a) 1

/-- The fields of a table that an axis takes. -/
def tableFields (a : Axis) (n act : Nat) (s : State) : List (Fld × Nat) :=
  if n = act then [(F.AX_WAVE.TABLE a, n), (F.AX_WAVE.TABLE_PEND a, 0)]
  else [(F.AX_WAVE.TABLE a, n), (F.WT_STAT.USERS n, natSetBit (s.get (F.WT_STAT.USERS n)) a true), (F.AX_WAVE.TABLE_PEND a, 1)]

section
variable {a : Axis} {n act : Nat} {s : State}

theorem tableTaken_eq : tableTaken a n act s = s.sets (tableFields a n act s) := by
  unfold tableTaken tableFields
  split <;> rfl

theorem table_mem : (F.AX_WAVE.TABLE a, n) ∈ tableFields a n act s := by
  unfold tableFields
  split <;> exact List.mem_cons_self

theorem tablePend_mem : (F.AX_WAVE.TABLE_PEND a, if n = act then 0 else 1) ∈ tableFields a n act s := by
  unfold tableFields
  by_cases h : n = act
  · simp [h]
  · simp [h]

theorem tableUsers_mem (h : n ≠ act) : (F.WT_STAT.USERS n, natSetBit (s.get (F.WT_STAT.USERS n)) a true) ∈ tableFields a n act s := by
  unfold tableFields
  rw [if_neg h]
  simp

/-- The users of another table are those of before. -/
theorem tableFields_users {m : Nat} (hne : m ≠ n) :
    (s.sets (tableFields a n act s)).get (F.WT_STAT.USERS m) = s.get (F.WT_STAT.USERS m) := by
  refine State.get_sets_apart _ _ _ ?_
  have h1 : (F.WT_STAT.USERS m).apart (F.AX_WAVE.TABLE a) := Or.inl (by dsimp only; omega)
  have h2 : (F.WT_STAT.USERS m).apart (F.AX_WAVE.TABLE_PEND a) := Or.inl (by dsimp only; omega)
  have h3 : (F.WT_STAT.USERS m).apart (F.WT_STAT.USERS n) := Or.inl (by dsimp only; omega)
  unfold tableFields
  split <;> simp [h1, h2, h3]

variable (hn : n < 8)
include hn

theorem tableFields_hold : ∀ p ∈ tableFields a n act s, p.1.holds p.2 := by
  have hu : natSetBit (s.get (F.WT_STAT.USERS n)) a true < 2 ^ 16 := natSetBit_lt true (getBits_lt _ 31 16) a.isLt
  unfold tableFields
  split <;> simp only [List.forall_mem_cons]
  · exact ⟨⟨by simp, by simp, by simpa using hn⟩, by simp [Fld.holds], by simp⟩
  · exact ⟨⟨by simp, by simp, by simpa using hn⟩, ⟨by simp, by simp, by simpa using hu⟩, by simp [Fld.holds], by simp⟩

theorem tableFields_apart : (tableFields a n act s).Pairwise fun p q => p.1.apart q.1 := by
  have h1 : (F.AX_WAVE.TABLE a).apart (F.WT_STAT.USERS n) := Or.inl (by dsimp only; omega)
  have h2 : (F.WT_STAT.USERS n).apart (F.AX_WAVE.TABLE_PEND a) := Or.inl (by dsimp only; omega)
  have h3 : (F.AX_WAVE.TABLE a).apart (F.AX_WAVE.TABLE_PEND a) := Or.inr (Or.inl (by dsimp only; omega))
  unfold tableFields
  split <;> simp [h1, h2, h3]

end

section
variable {a : Axis} {n : Nat} {s : State}

theorem waveTableWrite_eq (hn : n < 8) : waveTableWrite a n s = tableTaken a n (s.get (F.AX_WAVE.TABLE_ACT a))
    (if s.flag (F.AX_WAVE.TABLE_PEND a) = true ∧ s.get (F.AX_WAVE.TABLE a) ≠ s.get (F.AX_WAVE.TABLE_ACT a) ∧ s.get (F.AX_WAVE.TABLE a) ≠ n
      then wtLeave a (tableOf (s.get (F.AX_WAVE.TABLE a))) s else s) := by
  have h : ∀ u : State, (u.set (F.AX_WAVE.TABLE a) n).get (F.WT_STAT.USERS n) = u.get (F.WT_STAT.USERS n) := fun u =>
    State.get_set_own u n (by dsimp only; omega)
  unfold waveTableWrite tableTaken
  dsimp only
  rw [Nat.mod_eq_of_lt hn, h]

/-- A swap that completes leaves the axes, and the users of the table (R140). -/
theorem wtAllMoved_shows (t : Fin 8) : (wtAllMoved t s).axes = s.axes ∧ (wtAllMoved t s).now = s.now ∧ (wtAllMoved t s).whReq = s.whReq
    ∧ (wtAllMoved t s).get (F.WT_STAT.USERS t) = s.get (F.WT_STAT.USERS t) := by
  have hu := copying_get (g := F.WT_STAT.USERS t) s t rfl (by simp [Fld.apart])
  rw [wtAllMoved_copying]
  generalize copying t s = v at hu
  exact ⟨rfl, rfl, rfl, hu⟩

/-- An axis that leaves a table is none of its users, whatever swap this completes (R140). -/
theorem wtLeave_shows (t : Fin 8) : (wtLeave a t s).axes = s.axes ∧ (wtLeave a t s).now = s.now ∧ (wtLeave a t s).whReq = s.whReq
    ∧ natBit ((wtLeave a t s).get (F.WT_STAT.USERS t)) a = false := by
  have hu : natSetBit (s.get (F.WT_STAT.USERS t)) a false < 2 ^ 16 := natSetBit_lt false (getBits_lt _ 31 16) a.isLt
  have hget : (s.set (F.WT_STAT.USERS t) (natSetBit (s.get (F.WT_STAT.USERS t)) a false)).get (F.WT_STAT.USERS t) =
      natSetBit (s.get (F.WT_STAT.USERS t)) a false :=
    State.get_set_same s (F.WT_STAT.USERS t) _ (by dsimp only; omega) (by dsimp only; omega) (by simpa using hu)
  obtain ⟨h1, h2, h3, h4⟩ := wtAllMoved_shows (s := s.set (F.WT_STAT.USERS t) (natSetBit (s.get (F.WT_STAT.USERS t)) a false)) t
  unfold wtLeave
  dsimp only
  split
  · exact ⟨h1, h2, h3, by rw [h4, hget, natBit_natSetBit]⟩
  · exact ⟨rfl, rfl, rfl, by rw [hget, natBit_natSetBit]⟩

/-- A second write: the axis has left the table it waited for (R143). -/
theorem waveTableWrite_leaves (hn : n < 8) (h1 : s.get (F.AX_WAVE.TABLE_PEND a) = 1) : ∃ u : State,
    waveTableWrite a n s = tableTaken a n (s.get (F.AX_WAVE.TABLE_ACT a)) u ∧ u.axes = s.axes ∧ u.now = s.now ∧ u.whReq = s.whReq
      ∧ (s.get (F.AX_WAVE.TABLE a) ≠ s.get (F.AX_WAVE.TABLE_ACT a) → s.get (F.AX_WAVE.TABLE a) ≠ n →
          natBit (u.get (F.WT_STAT.USERS (s.get (F.AX_WAVE.TABLE a)))) a = false) := by
  have hold : s.get (F.AX_WAVE.TABLE a) < 8 := getBits_lt _ 2 0
  have hpend : s.flag (F.AX_WAVE.TABLE_PEND a) = true := by
    rw [State.flag, h1]
    rfl
  rw [waveTableWrite_eq hn]
  refine ⟨_, rfl, ?_⟩
  by_cases hc : s.get (F.AX_WAVE.TABLE a) ≠ s.get (F.AX_WAVE.TABLE_ACT a) ∧ s.get (F.AX_WAVE.TABLE a) ≠ n
  · obtain ⟨h1, h2, h3, h4⟩ := wtLeave_shows (a := a) (s := s) (tableOf (s.get (F.AX_WAVE.TABLE a)))
    rw [show (tableOf (s.get (F.AX_WAVE.TABLE a))).val = s.get (F.AX_WAVE.TABLE a) from Nat.mod_eq_of_lt hold] at h4
    rw [if_pos ⟨hpend, hc⟩]
    exact ⟨h1, h2, h3, fun _ _ => h4⟩
  · rw [if_neg fun h => hc h.2]
    exact ⟨rfl, rfl, rfl, fun ha hne => absurd ⟨ha, hne⟩ hc⟩

end

section
variable {s : State} (hl : s.ip.loLatch = []) (a : Axis) (n : BitVec 3)

/-- A write of the table of an axis as its checks see it. -/
def tableWr (a : Axis) (n : BitVec 3) (s : State) : RegWr := wrAt (F.AX_WAVE.TABLE a).addr 1 (fieldData (F.AX_WAVE.TABLE a) n.toNat) waveRow a.val 0 s

include hl

theorem tableWr_new : (tableWr a n s).new = putBits (rfGet s.regs (F.AX_WAVE.all a).addr) 2 0 n.toNat :=
  wrAt_field_new (f := F.AX_WAVE.TABLE a) hl n.toNat (by dsimp only; omega) waveRow_table.1 waveRow_table.2

theorem tableWr_admitted : stateAdmits (consumeUnlock s) (tableWr a n s) = true := by
  have hk : (tableWr a n s).keeps 13 3 = true := by
    rw [RegWr.keeps, tableWr_new hl, show (tableWr a n s).old = rfGet s.regs (F.AX_WAVE.all a).addr from wrAt_old hl,
      getBits_putBits_other _ _ _ _ _ _ (Or.inr (by decide))]
    exact beq_self_eq_true _
  simp only [stateAdmits, show (tableWr a n s).row.id = .AX_WAVE from rfl, hk, Bool.or_true]

theorem tableWr_performs {via : Port} : performWrite via (tableWr a n s) (consumeUnlock s) =
    waveTableWrite a n.toNat (rewritten (F.AX_WAVE.all a).addr s) := by
  have hmask : ¬ (tableWr a n s).mask &&& 7 = 0 := by
    rw [show (tableWr a n s).mask = fieldMask 2 0 from wrMask_fieldData (F.AX_WAVE.TABLE a) _ (by dsimp only; omega)]
    decide
  have hb : getBits (tableWr a n s).new 2 0 = n.toNat := by
    rw [tableWr_new hl]
    exact getBits_putBits_same _ _ _ _ (by decide) (by have := n.isLt; simpa using this) (by decide)
  have hkept : putBits (tableWr a n s).new 2 0 (getBits (tableWr a n s).old 2 0) = rfGet s.regs (F.AX_WAVE.all a).addr := by
    rw [tableWr_new hl, show (tableWr a n s).old = rfGet s.regs (F.AX_WAVE.all a).addr from wrAt_old hl, putBits_putBits, putBits_getBits]
  simp only [performWrite, show (tableWr a n s).row.id = .AX_WAVE from rfl]
  rw [if_neg hmask, hb, hkept, show (tableWr a n s).i = a.val from rfl, axisOf_axis]
  rfl

variable (hr : s.ip.running = true) (hp : s.pd (3 + (quadOf a).val) = true)
include hr hp

theorem tableWrite_runs : fieldWrite .hp false (F.AX_WAVE.TABLE a) n.toNat s =
    { waveTableWrite a n.toNat (rewritten (F.AX_WAVE.all a).addr s) with
      ip := { (waveTableWrite a n.toNat (rewritten (F.AX_WAVE.all a).addr s)).ip with wrStatus := 0 } } :=
  hostWrite_performs (writeReaches_axis hr a hp (by dsimp only; omega) (by dsimp only; omega) (waveRow_found a)) (by decide) (by decide)
    (fun hk => by rw [rwkChanged_none (by decide)] at hk; cases hk) (fieldsInRange_full (by decide) _ _)
    (by simp only [crossLegal, wrAt, wrOf, waveRow]) (tableWr_admitted hl a n) (tableWr_performs hl a n)

end

section
variable {s : State} (hq : s.whReq = []) (hr : s.ip.running = true) (hl : s.ip.loLatch = []) (a : Axis) (hp : s.pd (3 + (quadOf a).val) = true)
  (n : BitVec 3)
include hq hr hl hp

/-- A change of table waits for the boundary of the axis, and a write of the table in use changes nothing (R143). -/
theorem tableWrite_taken (h0 : s.get (F.AX_WAVE.TABLE_PEND a) = 0) :
    Does (.axWaveTableWrite a n) s (s.ended 0) (tableFields a n.toNat (s.get (F.AX_WAVE.TABLE_ACT a)) s) [] := by
  have hx : SameWords (rewritten (F.AX_WAVE.all a).addr (begun s)) s := rewritten_same _ (begun s)
  have hpend : (rewritten (F.AX_WAVE.all a).addr (begun s)).flag (F.AX_WAVE.TABLE_PEND a) = false := by
    rw [hx.flag]
    exact flag_eq_false h0
  have heq : waveTableWrite a n.toNat (rewritten (F.AX_WAVE.all a).addr (begun s)) =
      (rewritten (F.AX_WAVE.all a).addr (begun s)).sets (tableFields a n.toNat (s.get (F.AX_WAVE.TABLE_ACT a)) s) := by
    rw [waveTableWrite_eq n.isLt, if_neg (by rw [hpend]; simp), tableTaken_eq, hx.get]
    unfold tableFields
    rw [hx.get]
  have hrun := tableWrite_runs (s := begun s) hl a n hr hp
  rw [heq] at hrun
  refine does_reads (f := fieldWrite .hp false (F.AX_WAVE.TABLE a) n.toNat) (u := s.ended 0) rfl hq hrun ?_ (fun addr => hx.sets _ addr)
    (tableFields_hold n.isLt) (tableFields_apart n.isLt)
  rw [State.sets_eq]
  rfl

/-- A write while a change waits replaces it, and the axis leaves the table it waited for (R143). -/
theorem tableWrite_replaces (h1 : s.get (F.AX_WAVE.TABLE_PEND a) = 1) : Completes (.axWaveTableWrite a n) s fun t =>
    t.axes = s.axes ∧ t.now = s.now ∧ t.get (F.AX_WAVE.TABLE a) = n.toNat
      ∧ t.get (F.AX_WAVE.TABLE_PEND a) = (if n.toNat = s.get (F.AX_WAVE.TABLE_ACT a) then 0 else 1)
      ∧ (n.toNat ≠ s.get (F.AX_WAVE.TABLE_ACT a) → natBit (t.get (F.WT_STAT.USERS n.toNat)) a = true)
      ∧ (s.get (F.AX_WAVE.TABLE a) ≠ s.get (F.AX_WAVE.TABLE_ACT a) → s.get (F.AX_WAVE.TABLE a) ≠ n.toNat →
          natBit (t.get (F.WT_STAT.USERS (s.get (F.AX_WAVE.TABLE a)))) a = false) := by
  have hn := n.isLt
  have hx : SameWords (rewritten (F.AX_WAVE.all a).addr (begun s)) s := rewritten_same _ (begun s)
  obtain ⟨u, hv, haxes, hnow, hwh, hleft⟩ := waveTableWrite_leaves (a := a) hn (s := rewritten (F.AX_WAVE.all a).addr (begun s))
    ((hx.get _).trans h1)
  rw [hx.get, hx.get] at hleft
  rw [hx.get] at hv
  have hrun := tableWrite_runs (s := begun s) hl a n hr hp
  rw [hv, tableTaken_eq] at hrun
  have hset := State.get_sets_mem u _ (tableFields_hold (act := s.get (F.AX_WAVE.TABLE_ACT a)) (s := u) (a := a) hn) (tableFields_apart hn)
  have htable := hset _ table_mem
  have hpend := hset _ tablePend_mem
  have husers : n.toNat ≠ s.get (F.AX_WAVE.TABLE_ACT a) → _ := fun hne => hset _ (tableUsers_mem hne)
  have hapart := fun hne => tableFields_users (a := a) (n := n.toNat) (act := s.get (F.AX_WAVE.TABLE_ACT a)) (s := u)
    (m := s.get (F.AX_WAVE.TABLE a)) hne
  rw [← State.sets_axes u (tableFields a n.toNat (s.get (F.AX_WAVE.TABLE_ACT a)) u)] at haxes
  rw [← State.sets_now u (tableFields a n.toNat (s.get (F.AX_WAVE.TABLE_ACT a)) u)] at hnow
  rw [← State.sets_whReq u (tableFields a n.toNat (s.get (F.AX_WAVE.TABLE_ACT a)) u)] at hwh
  generalize u.sets (tableFields a n.toNat (s.get (F.AX_WAVE.TABLE_ACT a)) u) = w at *
  refine completes_to (f := fieldWrite .hp false (F.AX_WAVE.TABLE a) n.toNat) rfl hrun (hwh.trans hq)
    ⟨(settle_axes _).trans haxes, (settle_now _).trans hnow, (settle_get _ _).trans htable, (settle_get _ _).trans hpend, fun hne => ?_, fun ha hne => ?_⟩
  · rw [settle_get]
    exact (congrArg (natBit · a) (husers hne)).trans (natBit_natSetBit _ a true)
  · rw [settle_get]
    exact (congrArg (natBit · a) (hapart hne)).trans (hleft ha hne)

end

/-! ### A write of `FB_MODE` as its checks see it (R260, R273, R278) -/

/-- The register of the decoder of an axis. -/
def fbRow : RegRow := ⟨.AX_FB_CFG, 0x100700, 16, 4096, 1, 0, 0, [⟨2, 0, .rw, 0, 2, 0, 4⟩, ⟨3, 3, .rw, 0, 2, 0, 1⟩,
  ⟨5, 4, .rw, 0, 2, 0, 2⟩, ⟨6, 6, .rw, 0, 2, 0, 1⟩, ⟨15, 8, .rw, 2, 2, 0, 255⟩, ⟨31, 16, .rw, 0, 2, 0, 65535⟩]⟩

theorem fbRow_found : ∀ a : Axis, regAt (F.AX_FB_CFG.all a).addr = some (fbRow, a.val, 0) := by decide +kernel

/-- `FB_MODE` is a stored field. -/
theorem fbRow_mode : (∀ b < 32, 0 ≤ b → b ≤ 2 → (accMask Acc.stored fbRow.fields).getLsbD b = true)
    ∧ ∀ b < 32, 0 ≤ b → b ≤ 2 → (accMask (· == .w1c) fbRow.fields).getLsbD b = false := by decide

/-- A write of the mode of a decoder. -/
def modeWr (a : Axis) (n : BitVec 3) (s : State) : RegWr :=
  wrAt (F.AX_FB_CFG.FB_MODE a).addr 1 (fieldData (F.AX_FB_CFG.FB_MODE a) n.toNat) fbRow a.val 0 s

/-- The wheel of `REV_COUNT` teeth that the mode of a toothed wheel needs (R273). -/
def TeethMatch (s : State) (a : Axis) (n : Nat) : Prop := n = 3 → s.get (F.AX_FB_REV_COUNT.REV_COUNT a) = s.get (F.AX_FB_WHEEL.TEETH a)

/-- The conditions under which a decoder leaves mode 0 (R260, R278). -/
def ModeOpens (s : State) (a : Axis) (n : Nat) : Prop :=
  fbFollowed s a = false ∧ (n = 4 → s.get F.AUX_CFG.ROLE = 0 ∧ serialSelTaken s a (s.get (F.AX_FB_SER.SEL a)) = false)

section
variable {s : State} (hl : s.ip.loLatch = []) (a : Axis) (n : BitVec 3)

theorem modeWr_mask : (modeWr a n s).mask = fieldMask 2 0 := wrMask_fieldData (F.AX_FB_CFG.FB_MODE a) _ (by dsimp only; omega)

theorem modeWr_unkeyed : rwkChanged fbRow.fields (modeWr a n s).old (modeWr a n s).new = false := rwkChanged_none (by decide) _ _

include hl

theorem modeWr_old : (modeWr a n s).old = rfGet s.regs (F.AX_FB_CFG.all a).addr := wrAt_old hl

theorem modeWr_new : (modeWr a n s).new = putBits (rfGet s.regs (F.AX_FB_CFG.all a).addr) 2 0 n.toNat :=
  wrAt_field_new (f := F.AX_FB_CFG.FB_MODE a) hl n.toNat (by dsimp only; omega) fbRow_mode.1 fbRow_mode.2

theorem modeWr_mode : getBits (modeWr a n s).new 2 0 = n.toNat := by
  rw [modeWr_new hl]
  exact getBits_putBits_same _ _ _ _ (by decide) (by have := n.isLt; simpa using this) (by decide)

theorem modeWr_keeps {hi lo : Nat} (h : 2 < lo) : (modeWr a n s).keeps hi lo = true := by
  rw [RegWr.keeps, modeWr_old hl, modeWr_new hl, getBits_putBits_other _ _ _ _ _ _ (Or.inr h)]
  exact beq_self_eq_true _

theorem modeWr_keeps_mode : (modeWr a n s).keeps 2 0 = decide (n.toNat = fbMode s a) := by
  rw [RegWr.keeps, modeWr_mode hl, modeWr_old hl]
  exact decide_eq_decide.mpr eq_comm

theorem modeWr_range : fieldsInRange fbRow.fields (modeWr a n s).mask (modeWr a n s).new = decide (n.toNat ≤ 4) := by
  have hm := modeWr_mode hl a n
  have hout : ∀ p ∈ [(3, 3), (5, 4), (6, 6), (15, 8), (31, 16)], (fieldMask p.1 p.2 &&& fieldMask 2 0 == (0 : Word)) = true := by decide
  have hin : (fieldMask 2 0 &&& fieldMask 2 0 == (0 : Word)) = false := by decide
  simp only [List.forall_mem_cons] at hout
  obtain ⟨h1, h2, h3, h4, h5, -⟩ := hout
  simp only [fieldsInRange, fbRow, List.all_cons, List.all_nil, modeWr_mask, h1, h2, h3, h4, h5, hin, hm, Bool.or_true, Bool.true_or,
    Bool.and_true, Bool.or_false, Nat.zero_le, decide_true, Bool.true_and]
  rfl

theorem modeWr_legal : crossLegal (consumeUnlock s) (modeWr a n s) = true ↔ TeethMatch s a n.toNat := by
  simp only [crossLegal, show (modeWr a n s).row.id = .AX_FB_CFG from rfl, modeWr_mode hl, Bool.or_eq_true, bne_iff_ne, beq_iff_eq]
  exact Decidable.imp_iff_not_or.symm

theorem modeWr_admitted : stateAdmits (consumeUnlock s) (modeWr a n s) =
    if fbMode s a ≠ 0 then n.toNat == 0 || n.toNat == fbMode s a
    else n.toNat == 0 || (!fbFollowed s a && (n.toNat != 4 || (!s.flag F.AUX_CFG.ROLE && !serialSelTaken s a (s.get (F.AX_FB_SER.SEL a))))) := by
  have hold : getBits (modeWr a n s).old 2 0 = fbMode s a := by
    rw [modeWr_old hl]
    rfl
  simp only [stateAdmits, show (modeWr a n s).row.id = .AX_FB_CFG from rfl, modeWr_mode hl, hold, modeWr_keeps hl a n (by decide : 2 < 3),
    Bool.and_true, show (modeWr a n s).i = a.val from rfl, axisOf_axis]
  rfl

theorem modeWr_performs {via : Port} : performWrite via (modeWr a n s) (consumeUnlock s) =
    if n.toNat = fbMode s a then rewritten (F.AX_FB_CFG.all a).addr s else fbModeSet a n.toNat (rewritten (F.AX_FB_CFG.all a).addr s) := by
  have hkept : putBits (modeWr a n s).new 2 0 (getBits (modeWr a n s).old 2 0) = rfGet s.regs (F.AX_FB_CFG.all a).addr := by
    rw [modeWr_new hl, modeWr_old hl, putBits_putBits, putBits_getBits]
  simp only [performWrite, show (modeWr a n s).row.id = .AX_FB_CFG from rfl]
  rw [hkept, modeWr_keeps hl a n (by decide : 2 < 4), modeWr_keeps_mode hl, modeWr_mode hl, show (modeWr a n s).i = a.val from rfl, axisOf_axis,
    if_pos rfl]
  simp only [decide_eq_true_eq]
  rfl

end

theorem mode_reaches {s : State} (hr : s.ip.running = true) (a : Axis) (hp : s.pd (3 + (quadOf a).val) = true) :
    WriteReaches false (F.AX_FB_CFG.FB_MODE a).addr fbRow a.val 0 s :=
  writeReaches_axis hr a hp (by dsimp only; omega) (by dsimp only; omega) (fbRow_found a)

/-! ### Refused writes of `FB_MODE` -/

/-- A value out of the range of its field is refused (R12). -/
theorem checkedWrite_outOfRange {via : Port} {unlocked : Bool} {w : RegWr} {s : State} (hk : rwkChanged w.row.fields w.old w.new = false)
    (hid : w.row.id ≠ .AX_PWM_CTRL) (hr : fieldsInRange w.row.fields w.mask w.new = false) : checkedWrite via unlocked w s = (s, 0x12) := by
  unfold checkedWrite
  dsimp only
  rw [if_neg (by simp [hk]), if_pos (Or.inl (by simp [hr])), if_neg hid]
  rfl

theorem modeOpens_iff {s : State} {a : Axis} {n : Nat} : ModeOpens s a n ↔
    (!fbFollowed s a && (n != 4 || (!s.flag F.AUX_CFG.ROLE && !serialSelTaken s a (s.get (F.AX_FB_SER.SEL a))))) = true := by
  simp only [ModeOpens, State.flag, Bool.and_eq_true, Bool.or_eq_true, Bool.not_eq_true', bne_iff_ne, bne_eq_false_iff_eq]
  exact and_congr_right fun _ => Decidable.imp_iff_not_or

/-- An admitted write sets the mode (R260). -/
theorem fbMode_runs {s : State} (hr : s.ip.running = true) (hl : s.ip.loLatch = []) (a : Axis)
    (hp : s.pd (3 + (quadOf a).val) = true) (n : BitVec 3) (hn : n.toNat ≤ 4) (ht : TeethMatch s a n.toNat)
    (ha : stateAdmits (consumeUnlock (begun s)) (modeWr a n (begun s)) = true) {v : State}
    (hv : performWrite .hp (modeWr a n (begun s)) (consumeUnlock (begun s)) = v) :
    fieldWrite .hp false (F.AX_FB_CFG.FB_MODE a) n.toNat (begun s) = { v with ip := { v.ip with wrStatus := 0 } } :=
  hostWrite_performs (mode_reaches (s := begun s) hr a hp) (by decide) (by decide)
    (fun hk => absurd ((modeWr_unkeyed a n).symm.trans hk) (by decide)) ((modeWr_range (s := begun s) hl a n).trans (decide_eq_true hn))
    ((modeWr_legal (s := begun s) hl a n).mpr ht) ha hv

/-- A refused command (R360). -/
def refusal (s : State) (code : Nat) : List (Fld × Nat) :=
  [(F.CMD_REFUSE.REFUSE_CNT, counted s F.CMD_REFUSE.REFUSE_CNT), (F.CMD_REFUSE.LAST_CODE, code)]

section
variable {s : State} (hq : s.whReq = []) (hr : s.ip.running = true) (hl : s.ip.loLatch = []) (a : Axis) (hp : s.pd (3 + (quadOf a).val) = true)
  (n : BitVec 3)
include hq hr hp

theorem fbMode_refused {code : Nat} (hlo : 0x10 ≤ code) (hhi : code < 256) (hw : checkedWrite .hp (begun s).ip.unlocked (modeWr a n (begun s))
    (consumeUnlock (begun s)) = (consumeUnlock (begun s), code)) : Does (.fbModeWrite a n) s (s.ended code) (refusal s code) [] :=
  does_refused (f := fieldWrite .hp false (F.AX_FB_CFG.FB_MODE a) n.toNat) rfl hq hhi
    (hostWrite_refuses (mode_reaches (s := begun s) hr a hp) (by decide) (by decide) hlo hw)

include hl

theorem fbMode_outOfRange (hn : 4 < n.toNat) : Does (.fbModeWrite a n) s (s.ended 0x12) (refusal s 0x12) [] := by
  refine fbMode_refused hq hr a hp n (by decide) (by decide) (checkedWrite_outOfRange (modeWr_unkeyed a n) (show RegId.AX_FB_CFG ≠ _ by decide) ?_)
  exact (modeWr_range (s := begun s) hl a n).trans (decide_eq_false (by omega))

theorem fbMode_untoothed (ht : ¬ TeethMatch s a n.toNat) : Does (.fbModeWrite a n) s (s.ended 0x12) (refusal s 0x12) [] := by
  refine fbMode_refused hq hr a hp n (by decide) (by decide) (checkedWrite_range (modeWr_unkeyed a n) (show RegId.AX_FB_CFG ≠ _ by decide) ?_)
  exact Bool.eq_false_iff.mpr fun h => ht ((modeWr_legal (s := begun s) hl a n).mp h)

variable (hn : n.toNat ≤ 4) (ht : TeethMatch s a n.toNat)
include hn ht

theorem fbMode_busy (ha : stateAdmits (consumeUnlock (begun s)) (modeWr a n (begun s)) = false) :
    Does (.fbModeWrite a n) s (s.ended 0x21) (refusal s 0x21) [] :=
  fbMode_refused hq hr a hp n (by decide) (by decide) (checkedWrite_busy (modeWr_unkeyed a n) (show RegId.AX_FB_CFG ≠ _ by decide)
    ((modeWr_range (s := begun s) hl a n).trans (decide_eq_true hn)) ((modeWr_legal (s := begun s) hl a n).mpr ht) ha)

/-- Another mode than 0 does not follow on one (R260). -/
theorem fbMode_occupied (hm : fbMode s a ≠ 0) (h0 : n.toNat ≠ 0) (hne : n.toNat ≠ fbMode s a) :
    Does (.fbModeWrite a n) s (s.ended 0x21) (refusal s 0x21) [] := by
  refine fbMode_busy hq hr hl a hp n hn ht ?_
  rw [modeWr_admitted (s := begun s) hl, if_pos (show fbMode (begun s) a ≠ 0 from hm), beq_eq_false_iff_ne.mpr h0, Bool.false_or]
  exact beq_eq_false_iff_ne.mpr hne

theorem fbMode_closed (hm : fbMode s a = 0) (h0 : n.toNat ≠ 0) (ho : ¬ ModeOpens s a n.toNat) :
    Does (.fbModeWrite a n) s (s.ended 0x21) (refusal s 0x21) [] := by
  refine fbMode_busy hq hr hl a hp n hn ht ?_
  rw [modeWr_admitted (s := begun s) hl, if_neg (not_not.mpr (show fbMode (begun s) a = 0 from hm)), beq_eq_false_iff_ne.mpr h0, Bool.false_or]
  exact Bool.eq_false_iff.mpr fun h => ho (modeOpens_iff.mpr h)

theorem fbMode_same (hm : n.toNat = fbMode s a) : Does (.fbModeWrite a n) s (s.ended 0) [] [] := by
  have hv := (modeWr_performs (s := begun s) hl a n (via := .hp)).trans (if_pos hm)
  have hx : SameWords (rewritten (F.AX_FB_CFG.all a).addr (begun s)) s := rewritten_same _ (begun s)
  refine does_reads (f := fieldWrite .hp false (F.AX_FB_CFG.FB_MODE a) n.toNat) (u := s.ended 0) rfl hq
    (fbMode_runs hr hl a hp n hn ht ?_ hv) rfl (fun addr => hx addr) (by simp) List.Pairwise.nil
  rw [modeWr_admitted (s := begun s) hl, show fbMode (begun s) a = n.toNat from hm.symm]
  by_cases h0 : n.toNat = 0
  · simp [h0]
  · simp [h0]

end

/-! ### Channels after a change of the decoder (R108, R111, R263) -/

theorem State.each_same {α : Type} {f : α → State → State} {s : State} {l : List α} (h : ∀ x ∈ l, f x s = s) : s.each l f = s := by
  induction l with
  | nil => rfl
  | cons x l ih =>
    change (f x s).each l f = s
    rw [h x List.mem_cons_self]
    exact ih fun y hy => h y (List.mem_cons_of_mem _ hy)

/-- Nothing has changed but channels and the marks of stale ones. -/
structure StaleOnly (r u : State) : Prop where
  beside : u = { r with regs := u.regs, mch := u.mch }
  fields : ∀ g : Fld, (∀ c : Fin 4, g.apart (F.MCH_CFG.STALE c) ∧ g.apart (F.MCH_CFG.STALE_EVT c)) → u.get g = r.get g

section
variable {r u v : State}

theorem StaleOnly.refl (r : State) : StaleOnly r r := ⟨rfl, fun _ _ => rfl⟩

theorem StaleOnly.trans (h1 : StaleOnly r u) (h2 : StaleOnly u v) : StaleOnly r v where
  beside := h2.beside.trans (congrArg (fun x : State => { x with regs := v.regs, mch := v.mch }) h1.beside)
  fields g hg := (h2.fields g hg).trans (h1.fields g hg)

theorem StaleOnly.each {α : Type} {f : α → State → State} (l : List α) (h : StaleOnly r u) (hf : ∀ x u, StaleOnly r u → StaleOnly r (f x u)) :
    StaleOnly r (u.each l f) := by
  induction l generalizing u with
  | nil => exact h
  | cons x l ih => exact ih (hf x u h)

theorem mchMarked_staleOnly (fb : Bool) (c : Fin 4) (s : State) : StaleOnly s (mchMarked fb c s) where
  beside := by
    rw [mchMarked_beside]
  fields g hg := by
    unfold mchMarked
    dsimp only
    split
    · rfl
    · exact State.get_sets_apart _ _ _ (by
        simp only [List.forall_mem_cons]
        exact ⟨(hg c).1, (hg c).2, by simp⟩)

/-- The fields that say which axis feeds a channel are none of those marks. -/
theorem StaleOnly.mch (h : StaleOnly r u) (c : Fin 4) : u.get (F.MCH_CFG.SRC c) = r.get (F.MCH_CFG.SRC c)
    ∧ u.get (F.MCH_CFG.AXIS c) = r.get (F.MCH_CFG.AXIS c) := by
  constructor <;> refine h.fields _ fun d => ?_ <;> constructor <;> unfold Fld.apart <;> dsimp only <;> omega

theorem StaleOnly.usesChan (h : StaleOnly r u) (c : Fin 4) (b : Axis) : usesChan u c b = usesChan r c b :=
  usesChan_congr fun g hg => h.fields g fun d => ⟨Or.inl (by rw [hg]; dsimp only; omega), Or.inl (by rw [hg]; dsimp only; omega)⟩

theorem usesChan_of_unfollowed {a : Axis} {c : Fin 4} (h : fbFollowed r a = false) (hs : r.get (F.MCH_CFG.SRC c) = 1)
    (ha : r.get (F.MCH_CFG.AXIS c) = a.val) (b : Axis) : usesChan r c b = false := by
  refine Bool.eq_false_iff.mpr fun hu => ?_
  have hf : fbFollowed r a = true := List.any_eq_true.mpr ⟨c, List.mem_finRange c, by
    rw [hs, ha, beq_self_eq_true, beq_self_eq_true, Bool.true_and, Bool.true_and]
    exact List.any_eq_true.mpr ⟨b, List.mem_finRange b, hu⟩⟩
  exact Bool.false_ne_true (h.symm.trans hf)

/-- Without a follower a change of the decoder at most makes channels stale. -/
theorem fbAfter_staleOnly {a : Axis} (h : fbFollowed r a = false) : StaleOnly r (fbAfter a r) := by
  unfold fbAfter
  split
  · exact .refl r
  · refine (StaleOnly.refl r).each _ fun c u hu => ?_
    split
    next hc =>
      obtain ⟨hsrc, haxis⟩ := hu.mch c
      have hno := usesChan_of_unfollowed h (hsrc ▸ hc.1) (haxis ▸ hc.2)
      have hsame : mchStale true c u = mchMarked true c u := by
        rw [mchStale_eq]
        refine State.each_same fun b _ => if_neg ?_
        rw [(mchMarked_staleOnly true c u).usesChan, hu.usesChan, hno b]
        exact Bool.false_ne_true
      rw [hsame]
      exact hu.trans (mchMarked_staleOnly true c u)
    next => exact hu

/-- A decoder that feeds no channel concerns none (R111). -/
theorem fbAfter_unfed {a : Axis} (h : ∀ c : Fin 4, r.get (F.MCH_CFG.SRC c) ≠ 1 ∨ r.get (F.MCH_CFG.AXIS c) ≠ a.val) : fbAfter a r = r := by
  unfold fbAfter
  split
  · rfl
  · exact State.each_same fun c _ => if_neg fun hc => (h c).elim (fun h => h hc.1) fun h => h hc.2

end

theorem fbFollowed_congr {s t : State} {a : Axis} (hm : ∀ c : Fin 4, t.get (F.MCH_CFG.SRC c) = s.get (F.MCH_CFG.SRC c)
      ∧ t.get (F.MCH_CFG.AXIS c) = s.get (F.MCH_CFG.AXIS c))
    (hu : ∀ (b : Axis) (g : Fld), g.addr = (F.AX_FOLLOW_STAT.all b).addr → t.get g = s.get g) : fbFollowed t a = fbFollowed s a := by
  unfold fbFollowed
  simp only [fun c => (hm c).1, fun c => (hm c).2, fun c b => usesChan_congr (c := c) (hu b)]

theorem State.each_mch {α : Type} {f : α → State → State} (hf : ∀ x u, f x u = { u with mch := (f x u).mch }) (s : State) (l : List α) :
    s.each l f = { s with mch := (s.each l f).mch } := by
  induction l generalizing s with
  | nil => rfl
  | cons x l ih =>
    change (f x s).each l f = { s with mch := ((f x s).each l f).mch }
    have hi := ih (f x s)
    have hx := hf x s
    generalize f x s = u at hi hx ⊢
    generalize u.each l f = v at hi ⊢
    exact hi.trans (congrArg (fun y : State => { y with mch := v.mch }) hx)

/-- The revolution counts of channels lie beside the registers (R108). -/
theorem mchZeroed_beside (a : Axis) (s : State) : mchZeroed a s = { s with mch := (mchZeroed a s).mch } := by
  refine State.each_mch (fun c u => ?_) s _
  split <;> rfl

/-! ### The mode of a decoder changes (R260) -/

/-- The fields that a decoder clears as it leaves mode 0. -/
def clearedFields (a : Axis) (n : Nat) : List (Fld × Nat) :=
  [(F.AX_FB_CFG.FB_MODE a, n), (F.AX_FB_POS.POS a, 0), (F.AX_FB_REV.REV a, 0), (F.AX_FB_STAT.all a, 0)]

/-- A decoder as it leaves mode 0, the channels it feeds still to be judged. -/
def modeOpened (a : Axis) (n : Nat) (s : State) : State :=
  ((mchZeroed a (s.sets (clearedFields a n))).modCore a fun c =>
      { c.clear with winAt := s.now, hall := if n = 2 then hallPlace c.code else none }).modFb a fun f =>
    { f with serGood := false, serLast := none, serAt := none, serLate := false }

section
variable {a : Axis} {n : Nat} {s : State}

theorem fbModeSet_opens (h0 : fbMode s a = 0) (hn : n ≠ 0) : fbModeSet a n s = fbAfter a (modeOpened a n s) := by
  have hz := mchZeroed_beside a (s.sets (clearedFields a n))
  have hnow : (mchZeroed a (s.sets (clearedFields a n))).now = s.now := by
    rw [hz]
    exact State.sets_now _ _
  unfold fbModeSet modeOpened
  dsimp only
  rw [if_pos ⟨h0, hn⟩, ← hnow]
  rfl

theorem fbModeSet_else (h : ¬ (fbMode s a = 0 ∧ n ≠ 0)) : fbModeSet a n s = fbAfter a (s.set (F.AX_FB_CFG.FB_MODE a) n) := by
  unfold fbModeSet
  dsimp only
  rw [if_neg h]

theorem modeOpened_get (g : Fld) : (modeOpened a n s).get g = (s.sets (clearedFields a n)).get g := by
  have hregs : (mchZeroed a (s.sets (clearedFields a n))).regs = (s.sets (clearedFields a n)).regs := by rw [mchZeroed_beside]
  unfold modeOpened
  rw [State.modFb_get, State.modCore_get, State.get, State.get, hregs]

theorem clearedFields_read (hn : n < 8) : ∀ p ∈ clearedFields a n, (modeOpened a n s).get p.1 = p.2 := by
  intro p hp
  rw [modeOpened_get]
  refine State.get_sets_mem s _ ?_ (by simp [clearedFields, Fld.apart]) p hp
  simp only [clearedFields, List.forall_mem_cons]
  exact ⟨⟨by simp, by simp, by simpa using hn⟩, by simp [Fld.holds], by simp [Fld.holds], by simp [Fld.holds], by simp⟩

theorem modeOpened_other {g : Fld} (h : ∀ p ∈ clearedFields a n, g.addr ≠ p.1.addr) : (modeOpened a n s).get g = s.get g := by
  rw [modeOpened_get]
  exact State.get_sets_apart _ _ _ fun p hp => Or.inl (h p hp)

theorem modeOpened_unfollowed (h : fbFollowed s a = false) : fbFollowed (modeOpened a n s) a = false := by
  have hother : ∀ g : Fld, g.addr < 0x100700 + a.val * 0x1000 ∨ 0x100740 + a.val * 0x1000 ≤ g.addr → (modeOpened a n s).get g = s.get g :=
    fun g hg => modeOpened_other (by
      simp only [clearedFields, List.forall_mem_cons]
      refine ⟨?_, ?_, ?_, ?_, by simp⟩ <;> omega)
  refine (fbFollowed_congr (fun c => ⟨hother _ ?_, hother _ ?_⟩) fun b g hg => hother g ?_).trans h
  · dsimp only
    omega
  · dsimp only
    omega
  · rw [hg]
    dsimp only
    omega

theorem modeOpened_kept : (modeOpened a n s).now = s.now ∧ (modeOpened a n s).whReq = s.whReq ∧ (modeOpened a n s).mot a = s.mot a
    ∧ ((modeOpened a n s).core a).speed = 0 := by
  have hz := mchZeroed_beside a (s.sets (clearedFields a n))
  have hnow : (mchZeroed a (s.sets (clearedFields a n))).now = s.now := by rw [hz]; exact State.sets_now _ _
  have hwh : (mchZeroed a (s.sets (clearedFields a n))).whReq = s.whReq := by rw [hz]; exact State.sets_whReq _ _
  have haxes : (mchZeroed a (s.sets (clearedFields a n))).axes = s.axes := by rw [hz]; exact State.sets_axes _ _
  have hmot : (mchZeroed a (s.sets (clearedFields a n))).mot a = s.mot a := by
    unfold State.mot State.ax
    rw [haxes]
  unfold modeOpened
  refine ⟨hnow, hwh, ?_, ?_⟩
  · rw [State.modFb_mot, State.modCore_mot, hmot]
  · generalize mchZeroed a (s.sets (clearedFields a n)) = u
    have hcore : ∀ (v : State) (f : FbSt → FbSt), (∀ x, (f x).core = x.core) → (v.modFb a f).core a = v.core a := fun v f hf => by
      rw [State.core, State.modFb, State.modAx_ax_self]
      exact hf _
    refine (congrArg FbCore.speed ((hcore _ _ ?_).trans (State.modCore_core_self u a _))).trans rfl
    exact fun _ => rfl

end

section
variable {s : State} (hq : s.whReq = []) (hr : s.ip.running = true) (hl : s.ip.loLatch = []) (a : Axis) (hp : s.pd (3 + (quadOf a).val) = true)
  (n : BitVec 3)
include hq hr hl hp

/-- A decoder leaves mode 0 with its counters, speed and flags cleared (R260). -/
theorem fbMode_opens (hn : n.toNat ≤ 4) (ht : TeethMatch s a n.toNat) (hm : fbMode s a = 0) (h0 : n.toNat ≠ 0) (ho : ModeOpens s a n.toNat) :
    Completes (.fbModeWrite a n) s fun t => t.get (F.AX_FB_CFG.FB_MODE a) = n.toNat ∧ t.get (F.AX_FB_POS.POS a) = 0
      ∧ t.get (F.AX_FB_REV.REV a) = 0 ∧ t.get (F.AX_FB_STAT.all a) = 0 ∧ (t.core a).speed = 0 ∧ t.now = s.now ∧ t.mot a = s.mot a := by
  let x := rewritten (F.AX_FB_CFG.all a).addr (begun s)
  have hx : SameWords x s := rewritten_same _ (begun s)
  have hxm : fbMode x a = 0 := (hx.get _).trans hm
  have hadm : stateAdmits (consumeUnlock (begun s)) (modeWr a n (begun s)) = true := by
    rw [modeWr_admitted (s := begun s) hl, if_neg (not_not.mpr (show fbMode (begun s) a = 0 from hm)), beq_eq_false_iff_ne.mpr h0, Bool.false_or]
    exact modeOpens_iff.mp ho
  have hv : performWrite .hp (modeWr a n (begun s)) (consumeUnlock (begun s)) = fbAfter a (modeOpened a n.toNat x) :=
    (modeWr_performs (s := begun s) hl a n).trans ((if_neg fun h => h0 (h.trans hm)).trans (fbModeSet_opens hxm h0))
  have hrun := fbMode_runs hr hl a hp n hn ht hadm hv
  have hfree : fbFollowed x a = false :=
    (fbFollowed_congr (fun c => ⟨hx.get _, hx.get _⟩) fun b g _ => hx.get g).trans ho.1
  obtain ⟨hbeside, hfields⟩ := fbAfter_staleOnly (modeOpened_unfollowed (n := n.toNat) hfree)
  obtain ⟨hnow, hwh, hmot, hspeed⟩ := modeOpened_kept (a := a) (n := n.toNat) (s := x)
  have hread := clearedFields_read (a := a) (s := x) n.isLt
  simp only [clearedFields, List.forall_mem_cons] at hread
  obtain ⟨hmode, hpos, hrev, hstat, -⟩ := hread
  generalize modeOpened a n.toNat x = y at hrun hbeside hfields hnow hwh hmot hspeed hmode hpos hrev hstat
  have hget : ∀ g : Fld, 0x100000 ≤ g.addr → (fbAfter a y).get g = y.get g := fun g hg =>
    hfields g fun c => ⟨Or.inl (by dsimp only; omega), Or.inl (by dsimp only; omega)⟩
  generalize fbAfter a y = v at hrun hbeside hget
  have hvwh : v.whReq = y.whReq := by rw [hbeside]
  have hvnow : v.now = y.now := by rw [hbeside]
  have hvax : v.ax a = y.ax a := by rw [hbeside]; rfl
  refine completes_to (f := fieldWrite .hp false (F.AX_FB_CFG.FB_MODE a) n.toNat) rfl hrun (hvwh.trans (hwh.trans hq)) ⟨?_, ?_, ?_, ?_, ?_, ?_, ?_⟩
  · exact (settle_get _ _).trans ((hget _ (by dsimp only; omega)).trans hmode)
  · exact (settle_get _ _).trans ((hget _ (by dsimp only; omega)).trans hpos)
  · exact (settle_get _ _).trans ((hget _ (by dsimp only; omega)).trans hrev)
  · exact (settle_get _ _).trans ((hget _ (by dsimp only; omega)).trans hstat)
  · rw [State.core, settle_ax]
    exact (congrArg (fun y : AxisSt => y.fb.core.speed) hvax).trans hspeed
  · exact (settle_now _).trans (hvnow.trans hnow)
  · rw [settle_mot]
    exact (congrArg AxisSt.mot hvax).trans hmot

/-- A decoder that feeds no channel returns to mode 0 (R260). -/
theorem fbMode_closes (hm : fbMode s a ≠ 0) (h0 : n.toNat = 0)
    (hc : ∀ c : Fin 4, s.get (F.MCH_CFG.SRC c) ≠ 1 ∨ s.get (F.MCH_CFG.AXIS c) ≠ a.val) :
    Does (.fbModeWrite a n) s (s.ended 0) [(F.AX_FB_CFG.FB_MODE a, 0)] [] := by
  let x := rewritten (F.AX_FB_CFG.all a).addr (begun s)
  have hx : SameWords x s := rewritten_same _ (begun s)
  have hunfed : fbAfter a (x.set (F.AX_FB_CFG.FB_MODE a) n.toNat) = x.set (F.AX_FB_CFG.FB_MODE a) n.toNat := by
    refine fbAfter_unfed fun c => ?_
    rw [State.get_set_own _ _ (by dsimp only; omega), State.get_set_own _ _ (by dsimp only; omega), hx.get, hx.get]
    exact hc c
  have hv : performWrite .hp (modeWr a n (begun s)) (consumeUnlock (begun s)) = x.set (F.AX_FB_CFG.FB_MODE a) n.toNat :=
    (modeWr_performs (s := begun s) hl a n).trans ((if_neg fun h => hm (h.symm.trans h0)).trans
      ((fbModeSet_else fun h => h.2 h0).trans hunfed))
  rw [h0] at hv
  refine does_reads (f := fieldWrite .hp false (F.AX_FB_CFG.FB_MODE a) n.toNat) (u := s.ended 0) rfl hq
    (fbMode_runs hr hl a hp n (by omega) (fun h => by omega) ?_ hv) rfl (fun addr => hx.set _ 0 addr) (by simp [Fld.holds])
    (List.pairwise_singleton _ _)
  rw [modeWr_admitted (s := begun s) hl, h0]
  simp

end

/-! ### The registers of axes, channels and wave tables act -/

/-- Settles O60, register by register: each write passes or fails its checks, and what it performs is read off. -/
theorem axisRegistersAct : Obligations.AxisRegistersAct := by
  unfold Obligations.AxisRegistersAct
  intro s hq hr hl
  refine ⟨fun a hp => ⟨pwmCommit_rejected a hq hr hl hp, pwmCommit_pends a hq hr hl hp, pwmCommit_applies a hq hr hl hp, fun n h0 => ⟨?_, ?_⟩,
    tableWrite_replaces hq hr hl a hp, fun n => ⟨fbMode_outOfRange hq hr hl a hp n, fun _ => fbMode_untoothed hq hr hl a hp n,
      fun hm hn ht => fbMode_same hq hr hl a hp n hn ht hm, fun hm hn ht => fbMode_occupied hq hr hl a hp n hn ht hm,
      fun hm h0 hn ht => fbMode_closed hq hr hl a hp n hn ht hm h0, fun hm h0 hn ht => fbMode_opens hq hr hl a hp n hn ht hm h0,
      fbMode_closes hq hr hl a hp n⟩, homeArm_busy hq hr hl a hp, homeArm_arms hq hr hl a hp, homeCancel_cancels hq hr hl a hp⟩,
    fun hp => ⟨fun n => ⟨privCommit_pends hq hr hl hp, privCommit_applies hq hr hl hp⟩, fun k => ⟨wtActions_refused hq hr hl hp,
      fun hb => ⟨wtFill_begins hq hr hl hp hb, wtRevert_begins hq hr hl hp hb, wtSwap_waits hq hr hl hp hb, wtSwap_moves hq hr hl hp hb⟩⟩⟩⟩
  all_goals
    intro hn
    have h := tableWrite_taken hq hr hl a hp n h0
    unfold tableFields at h
  · rw [if_pos hn] at h
    exact h
  · rw [if_neg hn] at h
    exact h.perm ((List.Perm.swap _ _ _).cons _)

end Sys2Proof.Machine
